-- ==== Sys2Proof/Word.lean ====
section
/-! DEFINITION. The word types of the YX9 and the plainest arithmetic on them. -/

namespace Sys2Proof

/-- A byte (R3). -/
abbrev Byte := BitVec 8
/-- A 16-bit half (R3). -/
abbrev Half := BitVec 16
/-- A 32-bit word, the data of a token (R3, R14). -/
abbrev Word := BitVec 32
/-- A 64-bit double word, also an instruction word (R3). -/
abbrev DWord := BitVec 64

/-- Bits `[lo + w - 1 : lo]` of a natural number, unsigned (R12). -/
def bitsAt (x lo w : Nat) : Nat := (x >>> lo) % 2 ^ w

/-- The value of a `w`-bit field read as two's complement. -/
def signedOf (x w : Nat) : Int := if x < 2 ^ (w - 1) then (x : Int) else (x : Int) - (2 ^ w : Nat)

/-- An exact integer reduced modulo `2^w` (R37, WrapInt). -/
def wrapNat (v : Int) (w : Nat) : Nat := (v % ((2 ^ w : Nat) : Int)).toNat

end Sys2Proof
end

