-- ==== Sys2Proof/Syntax/Operand.lean ====
section
/-! DEFINITION. The operand vocabulary of the instruction words: slots, targets, element types, rounding
modes, scopes, predicate matches (R69 to R73), and the names of the units that hold configured blocks. -/

namespace Sys2Proof

/-- An operand slot of a node (R8). -/
inductive Slot | a | b | c | p
  deriving DecidableEq, Repr

/-- A target field that names a slot of an instruction of the same block (R70). -/
structure Target where
  idx  : BitVec 7
  slot : Slot
  deriving DecidableEq, Repr

/-- The element types of R8, by the codes of R72. -/
inductive Ty
  | i32 | n32 | f32 | f16x2 | bf16x2 | e4m3x4 | e5m2x4 | i8x4
  | n8x4 | i4x8 | n4x8 | i16x2 | n16x2 | pred | b32
  deriving DecidableEq, Repr

/-- The rounding modes of R44. -/
inductive Rnd | rne | rz | ru | rd | rna
  deriving DecidableEq, Repr

/-- The scopes of R73 and R282. -/
inductive Scope | blk | barn | die | pkg | sys
  deriving DecidableEq, Repr

/-- The predicate match field PM of R27. -/
inductive PredMatch | always | whenTrue | whenFalse | either
  deriving DecidableEq, Repr

/-- The fields every block instruction word has beside its opcode, qualifiers and payload (R69). -/
structure Hdr where
  pm : PredMatch
  ty : Ty
  t0 : Option Target
  t1 : Option Target
  deriving DecidableEq, Repr

/-- A unit that can hold configured blocks, by physical number: a bay frame (R242), a flail tile (R246),
the Reeve (R246) and the edge controller of a systolic region (R307). -/
inductive Holder
  | bay (barn frame : Nat)
  | tile (barn t : Nat)
  | reeve
  | region (barn r : Nat)
  deriving DecidableEq, Repr

/-- A node: a holder, the address of the block it holds, and the instruction index in it. An index of
128 + 4 i + j names replacement word j of the claimed word i (R440). -/
structure Site where
  holder : Holder
  blk    : Nat
  idx    : Nat
  deriving DecidableEq, Repr

/-- What a host CXL.mem request asks of device memory (R390, R391). -/
inductive HostOp
  | read (own : Bool)
  | write (data : BitVec 512) (mask : BitVec 64)
  | flush
  deriving DecidableEq, Repr

/-- An answer to an ATS translation request (R366): the host address, the log2 of its size, and the
permissions granted. -/
structure AtsGrant where
  hpa  : Nat
  size : Nat
  r    : Bool
  w    : Bool
  deriving DecidableEq, Repr

/-- The items that keep an age counter (R259), by their place in the lists of State. -/
inductive AgeItem
  | queueHead (n : Nat)
  | set (n : Nat)
  | gather (n : Nat)
  | waiting (n : Nat)
  | edgeQueue (n : Nat)
  | channel (n : Nat)
  | core (barn : Nat) (storer : Bool)
  | command (n : Nat)
  deriving DecidableEq, Repr

/-- The units that receive a stop request (R379). -/
inductive StopUnit
  | barn (b : Nat)
  | ports
  | engines
  | io
  deriving DecidableEq, Repr

/-- A memory error that a turn finds in the place that it reaches (R432): uncorrected or corrected, in the parity bank of a
group, past the rebuild from its group, and the read at which a RETRY hook succeeds. -/
structure Ecc where
  unc    : Bool := true
  parity : Bool := false
  lost   : Bool := false
  tries  : Nat := 0
  deriving DecidableEq, Repr

/-- What an event of a unit concerns, and what the outside world supplies to it. Each event's meaning says which
fields it reads: `n` a place in a list of the state or a queue number, `k` a context slot, `u` a unit (barn, die, port,
partition or engine), `j` a part of it (bay frame, tile, region, register), `m` a further number, `val` a written value,
`flag` a yes or no, `data` the bits of a flit, a line or a nonce,
`ecc` a memory error that the turn finds. -/
structure EventArg where
  n      : Nat := 0
  k      : Nat := 0
  u      : Nat := 0
  j      : Nat := 0
  m      : Nat := 0
  val    : BitVec 64 := 0
  flag   : Bool := false
  site   : Site := ⟨.reeve, 0, 0⟩
  slot   : Slot := .a
  holder : Holder := .reeve
  item   : AgeItem := .set 0
  stop   : StopUnit := .io
  hostOp : HostOp := .flush
  grant  : Option AtsGrant := none
  data   : Option (BitVec 2048) := none
  ecc    : Option Ecc := none
  deriving DecidableEq, Repr

def Slot.toBits : Slot → BitVec 2
  | .a => 0 | .b => 1 | .c => 2 | .p => 3

def Ty.toBits : Ty → BitVec 4
  | .i32 => 0 | .n32 => 1 | .f32 => 2 | .f16x2 => 3 | .bf16x2 => 4 | .e4m3x4 => 5 | .e5m2x4 => 6
  | .i8x4 => 7 | .n8x4 => 8 | .i4x8 => 9 | .n4x8 => 10 | .i16x2 => 11 | .n16x2 => 12 | .pred => 13
  | .b32 => 14

def Rnd.toBits : Rnd → BitVec 3
  | .rne => 0 | .rz => 1 | .ru => 2 | .rd => 3 | .rna => 4

def Scope.toBits : Scope → BitVec 3
  | .blk => 0 | .barn => 1 | .die => 2 | .pkg => 3 | .sys => 4

def PredMatch.toBits : PredMatch → BitVec 2
  | .always => 0 | .whenTrue => 1 | .whenFalse => 2 | .either => 3

end Sys2Proof
end

