-- ==== Sys2Proof/Syntax.lean ====
section
/-! DEFINITION. The instruction set: one constructor per row of the opcode table. Rows of the block ISA (R74,
R467), rows of the core extension Xbarn (R224), and the events by which the units of the part act. -/

namespace Sys2Proof

/-- One constructor per row of the opcode table. A block instruction carries its decoded word (R69 to R73): the
common fields, then its qualifiers, its third target where it has one, and its payload fields. A core instruction
carries its fields (R224). An event names what a unit does; which unit, and what the outside world supplies to it, stand in
the focus of the state (`State.arg`). -/
inductive Instr
  /-- ADD (R87). Adds the lanes of slots a and b exactly, then wraps or saturates each lane to the lane width. -/
  | add (h : Hdr) (sat : Bool)
  /-- SUB (R87). Subtracts the lanes of slot b from those of slot a, then wraps or saturates each lane. -/
  | sub (h : Hdr) (sat : Bool)
  /-- MUL (R87). Multiplies the lanes exactly, then wraps or saturates each lane. -/
  | mul (h : Hdr) (sat : Bool)
  /-- MULH (R88). Returns the high 32 bits of the exact product of two 32-bit integers. -/
  | mulh (h : Hdr)
  /-- MAD (R88). Computes a times b plus c exactly, then wraps or saturates the result to i32 or n32. -/
  | mad (h : Hdr) (sat : Bool)
  /-- NEG (R87). Negates each signed lane, then wraps or saturates it. -/
  | neg (h : Hdr) (sat : Bool)
  /-- ABS (R87). Takes the absolute value of each signed lane, then wraps or saturates it. -/
  | abs (h : Hdr) (sat : Bool)
  /-- MIN (R87). Returns the lesser value of each pair of lanes. -/
  | min (h : Hdr)
  /-- MAX (R87). Returns the greater value of each pair of lanes. -/
  | max (h : Hdr)
  /-- ADDI (R87). Adds a signed 22-bit immediate to slot a, then wraps or saturates the result. -/
  | addi (h : Hdr) (sat : Bool) (imm : BitVec 22)
  /-- MULI (R87). Multiplies slot a by a signed 22-bit immediate, then wraps or saturates the result. -/
  | muli (h : Hdr) (sat : Bool) (imm : BitVec 22)
  /-- LEA (R89). Forms x0 plus y0 shifted left by SH plus a signed displacement, wrapped to 32 bits. -/
  | lea (h : Hdr) (disp : BitVec 19) (sh : BitVec 3)
  /-- CIDX2 (R89). Forms the linear index x0 times E plus y0. -/
  | cidx2 (h : Hdr) (sat : Bool) (e : BitVec 22)
  /-- CIDX3 (R89). Forms the linear index (x0 times E1 plus y0) times E0 plus z0. -/
  | cidx3 (h : Hdr) (sat : Bool) (e1 : BitVec 11) (e0 : BitVec 11)
  /-- DOT4 (R88). Adds the four 8-bit lane products of a and b to slot c, and reduces the sum to 32 bits. -/
  | dot4 (h : Hdr) (sat : Bool)
  /-- DIV (R90). Divides with truncation toward zero on a flail tile; division by zero raises DZ. -/
  | div (h : Hdr) (sat : Bool)
  /-- REM (R90). Returns the remainder of truncating division; division by zero raises DZ. -/
  | rem (h : Hdr)
  /-- ABSD (R467). Returns the absolute difference of two i32 values as an n32 value; this instruction is added in ISA 4.2. -/
  | absd (h : Hdr)
  /-- AND (R92). Bitwise AND of a and b. -/
  | and (h : Hdr)
  /-- OR (R92). Bitwise OR of a and b. -/
  | or (h : Hdr)
  /-- XOR (R92). Bitwise exclusive OR of a and b. -/
  | xor (h : Hdr)
  /-- ANDN (R92). Bitwise a AND NOT b. -/
  | andn (h : Hdr)
  /-- NOT (R92). Bitwise complement of a. -/
  | not (h : Hdr)
  /-- SHL (R92). Shifts each lane left by a count taken from slot b. -/
  | shl (h : Hdr)
  /-- SHR (R92). Shifts each lane right logically by a count taken from slot b. -/
  | shr (h : Hdr)
  /-- SRA (R92). Shifts each lane right arithmetically by a count taken from slot b. -/
  | sra (h : Hdr)
  /-- ROL (R92). Rotates each lane left. -/
  | rol (h : Hdr)
  /-- ROR (R92). Rotates each lane right. -/
  | ror (h : Hdr)
  /-- SHLI (R92). Shifts each lane left by an immediate count. -/
  | shli (h : Hdr) (s : BitVec 5)
  /-- SHRI (R92). Shifts each lane right logically by an immediate count. -/
  | shri (h : Hdr) (s : BitVec 5)
  /-- SRAI (R92). Shifts each lane right arithmetically by an immediate count. -/
  | srai (h : Hdr) (s : BitVec 5)
  /-- BFX (R93). Extracts a bit field and sign-extends or zero-extends it. -/
  | bfx (h : Hdr) (len : BitVec 5) (pos : BitVec 5)
  /-- BFI (R93). Inserts the low bits of b into a bit field of a. -/
  | bfi (h : Hdr) (len : BitVec 5) (pos : BitVec 5)
  /-- POPC (R93). Counts the 1 bits of the operand. -/
  | popc (h : Hdr)
  /-- CLZ (R93). Counts the leading zero bits of the operand. -/
  | clz (h : Hdr)
  /-- CTZ (R93). Counts the trailing zero bits of the operand. -/
  | ctz (h : Hdr)
  /-- BREV (R93). Reverses the order of the 32 bits. -/
  | brev (h : Hdr)
  /-- PRMT (R94). Selects or sign-replicates bytes from the eight bytes of b:a. -/
  | prmt (h : Hdr) (sel : BitVec 16)
  /-- CMPEQ (R96). Produces the predicate a equals b, or a equals an immediate. -/
  | cmpeq (h : Hdr) (imm : Bool) (val : BitVec 21)
  /-- CMPNE (R96). Produces the predicate a not equal to b. -/
  | cmpne (h : Hdr) (imm : Bool) (val : BitVec 21)
  /-- CMPLT (R96). Produces the predicate a less than b. -/
  | cmplt (h : Hdr) (imm : Bool) (val : BitVec 21)
  /-- CMPLE (R96). Produces the predicate a less than or equal to b. -/
  | cmple (h : Hdr) (imm : Bool) (val : BitVec 21)
  /-- CMPGT (R96). Produces the predicate a greater than b. -/
  | cmpgt (h : Hdr) (imm : Bool) (val : BitVec 21)
  /-- CMPGE (R96). Produces the predicate a greater than or equal to b. -/
  | cmpge (h : Hdr) (imm : Bool) (val : BitVec 21)
  /-- PAND (R96). Predicate AND. -/
  | pand (h : Hdr)
  /-- POR (R96). Predicate OR. -/
  | por (h : Hdr)
  /-- PXOR (R96). Predicate exclusive OR. -/
  | pxor (h : Hdr)
  /-- PANDN (R96). Predicate a AND NOT b. -/
  | pandn (h : Hdr)
  /-- PNOT (R96). Predicate NOT. -/
  | pnot (h : Hdr)
  /-- SELECT (R96). Sends the data of a or of b, as the predicate in slot c chooses. -/
  | select (h : Hdr)
  /-- TESTZ (R96). Produces the predicate that a AND mask is zero. -/
  | testz (h : Hdr) (imm : Bool) (val : BitVec 21)
  /-- MOV (R98). Sends the data of slot a to up to three targets. -/
  | mov (h : Hdr) (t2 : Option Target)
  /-- CONST (R98). Sends an immediate, read by TY, with the tag of its trigger. -/
  | const (h : Hdr) (imm : BitVec 22)
  /-- LIT (R98). Sends the two halves of the following literal word to T0 and T1. -/
  | lit (h : Hdr)
  /-- SWITCH (R99). Steers the data of slot a to T0 or to T1, as the predicate chooses. -/
  | switch (h : Hdr)
  /-- MERGE (R99). Forwards each token that arrives in slot a or slot b, without matching. -/
  | merge (h : Hdr)
  /-- GATE (R99). Passes the data of slot a when the predicate is true, and sends null tokens otherwise. -/
  | gate (h : Hdr)
  /-- SYNC (R99). Waits for a complete set, then forwards the data of a and of b. -/
  | sync (h : Hdr) (c3 : Bool)
  /-- DROP (R99). Consumes the token in slot a and sends nothing. -/
  | drop (h : Hdr)
  /-- NULL (R99). Sends a null token with the tag of its trigger. -/
  | null (h : Hdr)
  /-- ALLOC (R102). Pushes the lowest free index of its space instance, or is held while no index is free. -/
  | alloc (h : Hdr) (lim : BitVec 9)
  /-- FREE (R105). Pops the innermost tag field and releases its index in the space instance. -/
  | free (h : Hdr)
  /-- ENTER (R106). Pushes a field of a given index without allocating it. -/
  | enter (h : Hdr) (idx : BitVec 8) (imm : Bool) (n : BitVec 8)
  /-- LEAVE (R106). Pops a field without freeing it. -/
  | leave (h : Hdr) (n : BitVec 8)
  /-- TAGRD (R107). Sends a selected part of the set's tag as an n32 value. -/
  | tagrd (h : Hdr) (w : BitVec 4) (off : BitVec 6) (sel : BitVec 3)
  /-- TAGWR (R107). Rewrites one slice of the nest stack of the tag. -/
  | tagwr (h : Hdr) (w : BitVec 4) (off : BitVec 6)
  /-- FADD (R114). Floating-point add of each lane, rounded once. -/
  | fadd (h : Hdr) (sat : Bool) (rm : Rnd)
  /-- FSUB (R114). Floating-point subtract of each lane, rounded once. -/
  | fsub (h : Hdr) (sat : Bool) (rm : Rnd)
  /-- FMUL (R114). Floating-point multiply of each lane, rounded once. -/
  | fmul (h : Hdr) (sat : Bool) (rm : Rnd)
  /-- FFMA (R114). Fused multiply-add a times b plus c, rounded once. -/
  | ffma (h : Hdr) (sat : Bool) (rm : Rnd)
  /-- FFMS (R114). Fused multiply-subtract a times b minus c, rounded once. -/
  | ffms (h : Hdr) (sat : Bool) (rm : Rnd)
  /-- FMIN (R116). Returns the lesser lane, with -0 below +0. -/
  | fmin (h : Hdr)
  /-- FMAX (R116). Returns the greater lane, with -0 below +0. -/
  | fmax (h : Hdr)
  /-- FABS (R116). Clears the sign bit of each lane. -/
  | fabs (h : Hdr)
  /-- FNEG (R116). Inverts the sign bit of each lane. -/
  | fneg (h : Hdr)
  /-- FCPYS (R116). Copies the sign of b onto a. -/
  | fcpys (h : Hdr)
  /-- FCMPEQ (R117). Produces the predicate that lane LANE of a equals that of b. -/
  | fcmpeq (h : Hdr) (lane : BitVec 3)
  /-- FCMPNE (R117). Produces the predicate that the selected lanes are not equal. -/
  | fcmpne (h : Hdr) (lane : BitVec 3)
  /-- FCMPLT (R117). Produces the predicate that the selected lane of a is less than that of b. -/
  | fcmplt (h : Hdr) (lane : BitVec 3)
  /-- FCMPLE (R117). Produces the predicate that the selected lane of a is less than or equal to that of b. -/
  | fcmple (h : Hdr) (lane : BitVec 3)
  /-- FCMPUN (R117). Produces the predicate that either selected lane is NaN. -/
  | fcmpun (h : Hdr) (lane : BitVec 3)
  /-- FDOT2 (R115). Forms c plus the sum of two 16-bit lane products, rounded once to f32. -/
  | fdot2 (h : Hdr) (sat : Bool) (rm : Rnd)
  /-- FCVT (R119). Converts source lanes into the destination type, updating AMAX when .amx is set. -/
  | fcvt (h : Hdr) (amx : Bool) (sat : Bool) (rm : Rnd) (areg : BitVec 4) (lane : BitVec 3) (src : BitVec 4)
  /-- FCVTP (R119). Converts and packs two source words into one destination word. -/
  | fcvtp (h : Hdr) (sat : Bool) (rm : Rnd) (src : BitVec 4)
  /-- FCVTX (R119). Converts one source lane into one lane of the word in slot b. -/
  | fcvtx (h : Hdr) (sat : Bool) (rm : Rnd) (pos : BitVec 3) (lane : BitVec 3) (src : BitVec 4)
  /-- FRND (R123). Rounds each lane to an integral value in its own format. -/
  | frnd (h : Hdr) (rm : Rnd)
  /-- FLDEXP (R124). Scales each lane by a power of two and rounds once. -/
  | fldexp (h : Hdr) (sat : Bool) (rm : Rnd) (expf : Bool)
  /-- FGETEXP (R125). Returns the unbiased exponent as an i32. -/
  | fgetexp (h : Hdr)
  /-- RECONF (R127). Sends a reconfiguration token to a converter node and returns an acknowledgement. -/
  | reconf (h : Hdr) (sat : Bool) (rm : Rnd)
  /-- FEXP2F (R130). Computes 2 to the power of the fraction of x. -/
  | fexp2f (h : Hdr)
  /-- FLOG2 (R130). Computes log2 of x. -/
  | flog2 (h : Hdr)
  /-- FRCP (R130). Computes the reciprocal of x. -/
  | frcp (h : Hdr)
  /-- FRSQ (R130). Computes the reciprocal square root of x. -/
  | frsq (h : Hdr)
  /-- FSQRT (R130). Computes the correctly rounded square root of x. -/
  | fsqrt (h : Hdr) (rm : Rnd)
  /-- FSIN2 (R130). Computes the sine of x in turns. -/
  | fsin2 (h : Hdr)
  /-- FCOS2 (R130). Computes the cosine of x in turns. -/
  | fcos2 (h : Hdr)
  /-- LDB (R141). Loads a byte from a flat address and extends it. -/
  | ldb (h : Hdr) (sc : Scope) (acq : Bool) (t2 : Option Target) (bsel : BitVec 4) (disp : BitVec 9)
  /-- LDH (R141). Loads a half from a flat address and extends it. -/
  | ldh (h : Hdr) (sc : Scope) (acq : Bool) (t2 : Option Target) (bsel : BitVec 4) (disp : BitVec 9)
  /-- LD (R141). Loads a word from a flat address. -/
  | ld (h : Hdr) (sc : Scope) (acq : Bool) (t2 : Option Target) (bsel : BitVec 4) (disp : BitVec 9)
  /-- LDP (R141). Loads 8 bytes from a flat address, as two tokens. -/
  | ldp (h : Hdr) (sc : Scope) (acq : Bool) (t2 : Option Target) (bsel : BitVec 4) (disp : BitVec 9)
  /-- STB (R141). Stores a byte to a flat address. -/
  | stb (h : Hdr) (sc : Scope) (rel : Bool) (t2 : Option Target) (bsel : BitVec 4) (disp : BitVec 9)
  /-- STH (R141). Stores a half to a flat address. -/
  | sth (h : Hdr) (sc : Scope) (rel : Bool) (t2 : Option Target) (bsel : BitVec 4) (disp : BitVec 9)
  /-- ST (R141). Stores a word to a flat address. -/
  | st (h : Hdr) (sc : Scope) (rel : Bool) (t2 : Option Target) (bsel : BitVec 4) (disp : BitVec 9)
  /-- STP (R141). Stores two words to a flat address, as two events. -/
  | stp (h : Hdr) (sc : Scope) (rel : Bool) (t2 : Option Target) (bsel : BitVec 4) (disp : BitVec 9)
  /-- PREFETCH (R141). Fills the TLB, and for host memory the cache agent, without faulting. -/
  | prefetch (h : Hdr) (sc : Scope) (t2 : Option Target) (bsel : BitVec 4) (disp : BitVec 9)
  /-- LDS (R143). Loads a scratchpad word, with optional wait-for-full, clear or non-blocking behaviour. -/
  | lds (h : Hdr) (sc : Scope) (nb : Bool) (clr : Bool) (wf : Bool) (t2 : Option Target) (disp : BitVec 13)
  /-- STS (R143). Stores a scratchpad word, and fills the granule under .once. -/
  | sts (h : Hdr) (sc : Scope) (once : Bool) (t2 : Option Target) (disp : BitVec 13)
  /-- LDSP (R143). Loads 8 scratchpad bytes, with presence options. -/
  | ldsp (h : Hdr) (sc : Scope) (nb : Bool) (clr : Bool) (wf : Bool) (t2 : Option Target) (disp : BitVec 13)
  /-- STSP (R143). Stores 8 scratchpad bytes, and fills the granule under .once. -/
  | stsp (h : Hdr) (sc : Scope) (once : Bool) (t2 : Option Target) (disp : BitVec 13)
  /-- PSET (R143). Sets the presence bit of a granule as a release. -/
  | pset (h : Hdr) (sc : Scope) (once : Bool) (t2 : Option Target) (disp : BitVec 13)
  /-- PCLR (R143). Clears the presence bit of a granule. -/
  | pclr (h : Hdr) (sc : Scope) (t2 : Option Target) (disp : BitVec 13)
  /-- PTEST (R143). Returns the presence bit of a granule as a predicate. -/
  | ptest (h : Hdr) (sc : Scope) (acq : Bool) (t2 : Option Target) (disp : BitVec 13)
  /-- ATADD (R146). Atomic 32-bit add that returns the old value. -/
  | atadd (h : Hdr) (sc : Scope) (acq : Bool) (rel : Bool) (t2 : Option Target) (bsel : BitVec 4) (disp : BitVec 9)
  /-- ATMIN (R146). Atomic 32-bit minimum. -/
  | atmin (h : Hdr) (sc : Scope) (acq : Bool) (rel : Bool) (t2 : Option Target) (bsel : BitVec 4) (disp : BitVec 9)
  /-- ATMAX (R146). Atomic 32-bit maximum. -/
  | atmax (h : Hdr) (sc : Scope) (acq : Bool) (rel : Bool) (t2 : Option Target) (bsel : BitVec 4) (disp : BitVec 9)
  /-- ATAND (R146). Atomic 32-bit AND. -/
  | atand (h : Hdr) (sc : Scope) (acq : Bool) (rel : Bool) (t2 : Option Target) (bsel : BitVec 4) (disp : BitVec 9)
  /-- ATOR (R146). Atomic 32-bit OR. -/
  | ator (h : Hdr) (sc : Scope) (acq : Bool) (rel : Bool) (t2 : Option Target) (bsel : BitVec 4) (disp : BitVec 9)
  /-- ATXOR (R146). Atomic 32-bit exclusive OR. -/
  | atxor (h : Hdr) (sc : Scope) (acq : Bool) (rel : Bool) (t2 : Option Target) (bsel : BitVec 4) (disp : BitVec 9)
  /-- ATSWAP (R146). Atomic 32-bit swap. -/
  | atswap (h : Hdr) (sc : Scope) (acq : Bool) (rel : Bool) (t2 : Option Target) (bsel : BitVec 4) (disp : BitVec 9)
  /-- ATCAS (R146). Atomic 32-bit compare-and-swap. -/
  | atcas (h : Hdr) (sc : Scope) (acq : Bool) (rel : Bool) (t2 : Option Target) (bsel : BitVec 4) (disp : BitVec 9)
  /-- ATFADD (R146). Atomic floating-point add, rounded per lane. -/
  | atfadd (h : Hdr) (sc : Scope) (acq : Bool) (rel : Bool) (rm : Rnd) (t2 : Option Target) (bsel : BitVec 4) (disp : BitVec 9)
  /-- ATADD64 (R146). Atomic 64-bit add. -/
  | atadd64 (h : Hdr) (sc : Scope) (acq : Bool) (rel : Bool) (t2 : Option Target) (bsel : BitVec 4) (disp : BitVec 9)
  /-- ATMIN64 (R146). Atomic 64-bit minimum. -/
  | atmin64 (h : Hdr) (sc : Scope) (acq : Bool) (rel : Bool) (t2 : Option Target) (bsel : BitVec 4) (disp : BitVec 9)
  /-- ATMAX64 (R146). Atomic 64-bit maximum. -/
  | atmax64 (h : Hdr) (sc : Scope) (acq : Bool) (rel : Bool) (t2 : Option Target) (bsel : BitVec 4) (disp : BitVec 9)
  /-- ATAND64 (R146). Atomic 64-bit AND. -/
  | atand64 (h : Hdr) (sc : Scope) (acq : Bool) (rel : Bool) (t2 : Option Target) (bsel : BitVec 4) (disp : BitVec 9)
  /-- ATOR64 (R146). Atomic 64-bit OR. -/
  | ator64 (h : Hdr) (sc : Scope) (acq : Bool) (rel : Bool) (t2 : Option Target) (bsel : BitVec 4) (disp : BitVec 9)
  /-- ATXOR64 (R146). Atomic 64-bit exclusive OR. -/
  | atxor64 (h : Hdr) (sc : Scope) (acq : Bool) (rel : Bool) (t2 : Option Target) (bsel : BitVec 4) (disp : BitVec 9)
  /-- ATSWAP64 (R146). Atomic 64-bit swap. -/
  | atswap64 (h : Hdr) (sc : Scope) (acq : Bool) (rel : Bool) (t2 : Option Target) (bsel : BitVec 4) (disp : BitVec 9)
  /-- ATCAS64 (R146). Atomic 64-bit compare-and-swap, with its operands taken from a scratchpad granule. -/
  | atcas64 (h : Hdr) (sc : Scope) (acq : Bool) (rel : Bool) (t2 : Option Target) (bsel : BitVec 4) (disp : BitVec 9)
  /-- FENCE (R148). Acts as a release and/or acquire at its scope, then sends order-out. -/
  | fence (h : Hdr) (sc : Scope) (acq : Bool) (rel : Bool) (t2 : Option Target)
  /-- LDT (R160). Loads one tensor word at a linear index through a descriptor. -/
  | ldt (h : Hdr) (sc : Scope) (t2 : Option Target) (desc : BitVec 6)
  /-- STT (R160). Stores one tensor word, masked to its in-range lanes. -/
  | stt (h : Hdr) (sc : Scope) (t2 : Option Target) (desc : BitVec 6)
  /-- STRM (R163). Streams a window of a tensor as indexed tokens, followed by a marker. -/
  | strm (h : Hdr) (sw : BitVec 5) (shp : BitVec 6) (desc : BitVec 6)
  /-- STRMW (R164). Writes a stream into a tensor window, then sends a completion token. -/
  | strmw (h : Hdr) (sc : Scope) (sw : BitVec 5) (shp : BitVec 6) (desc : BitVec 6)
  /-- SRED (R165). Reduces the elements of a stream in ascending index. -/
  | sred (h : Hdr) (sat : Bool) (rm : Rnd) (ops : Bool) (sw : BitVec 5)
  /-- SSCAN (R165). Emits running sums of a stream in ascending element index. -/
  | sscan (h : Hdr) (sat : Bool) (rm : Rnd) (ops : Bool) (sw : BitVec 5)
  /-- SZIP (R166). Pairs two streams by index, with optional truncation. -/
  | szip (h : Hdr) (trunc : Bool) (sw : BitVec 5)
  /-- RDLY (R169). Holds the rows of a stream until each row's value arrives, then pairs them. -/
  | rdly (h : Hdr) (depth : BitVec 2) (rt : BitVec 14) (sw : BitVec 5)
  /-- RMAX (R168). Sends the maximum magnitude of each row. -/
  | rmax (h : Hdr) (rt : BitVec 14) (sw : BitVec 5)
  /-- RSUMX (R168). Sends the sum of each row. -/
  | rsumx (h : Hdr) (rm : Rnd) (rt : BitVec 14) (sw : BitVec 5)
  /-- RSQS (R168). Sends the sum of squares of each row. -/
  | rsqs (h : Hdr) (rm : Rnd) (rt : BitVec 14) (sw : BitVec 5)
  /-- RREL (R170). Forms a quantisation scale and its inverse from a row maximum. -/
  | rrel (h : Hdr) (rm : Rnd) (tgt : BitVec 3)
  /-- MREGION (R174). Binds a rectangle of PEs as a systolic region and sends its handle. -/
  | mregion (h : Hdr) (e : BitVec 4) (wm : BitVec 5) (hm : BitVec 5)
  /-- MFREE (R174). Releases a systolic region once it is idle. -/
  | mfree (h : Hdr)
  /-- WLOAD (R175). Loads a weight image into the inactive half of a region. -/
  | wload (h : Hdr) (t2 : Option Target) (cmp : Bool) (gsz : BitVec 2) (wfmt : BitVec 4)
  /-- WSWAP (R176). Makes the inactive weight half active. -/
  | wswap (h : Hdr)
  /-- MMAC (R177). Runs one matrix tile per parent tag of its activation stream. -/
  | mmac (h : Hdr) (iext : Bool) (sw : BitVec 5) (mrows : BitVec 6) (ires : Bool)
  /-- MDRAIN (R178). Emits the results of a completed tile as a stream. -/
  | mdrain (h : Hdr) (sat : Bool) (sw : BitVec 5) (pen : Bool) (port : BitVec 4)
  /-- TTASK (R180). Appends a tile-task record to the tile-task queue of the context. -/
  | ttask (h : Hdr) (sc : Scope) (t2 : Option Target) (bsel : BitVec 4) (disp : BitVec 9)
  /-- CPY (R188). Hands a copy command to a wain engine. -/
  | cpy (h : Hdr) (sc : Scope) (t2 : Option Target) (bsel : BitVec 4) (disp : BitVec 9)
  /-- GATH (R188). Hands a gather command to a wain engine. -/
  | gath (h : Hdr) (sc : Scope) (t2 : Option Target) (bsel : BitVec 4) (disp : BitVec 9)
  /-- SCAT (R188). Hands a scatter command to a wain engine. -/
  | scat (h : Hdr) (sc : Scope) (t2 : Option Target) (bsel : BitVec 4) (disp : BitVec 9)
  /-- COLL (R188). Hands a collective command to the Carillon. -/
  | coll (h : Hdr) (sc : Scope) (t2 : Option Target) (bsel : BitVec 4) (disp : BitVec 9)
  /-- PUBLISH (R196). Publishes a sheaf at a generation, as a release. -/
  | publish (h : Hdr) (sc : Scope) (t2 : Option Target) (desc : BitVec 6)
  /-- AWAIT (R197). Waits until a sheaf is published at its generation, then acquires. -/
  | await (h : Hdr) (sc : Scope) (t2 : Option Target) (desc : BitVec 6)
  /-- ROLL (R200). Injects a roll token with the set's tag. -/
  | roll (h : Hdr) (sc : Scope) (t2 : Option Target)
  /-- ROLL_ARR (R200). Counts a roll arrival at a barrier, and may complete the barrier. -/
  | rollArr (h : Hdr) (sc : Scope) (t2 : Option Target) (bsel : BitVec 4) (disp : BitVec 9)
  /-- BARWAIT (R200). Waits until a barrier is done, then acquires and sends its generation. -/
  | barwait (h : Hdr) (sc : Scope) (t2 : Option Target) (bsel : BitVec 4) (disp : BitVec 9)
  /-- BARINIT (R200). Arms a barrier with a number of sinks and advances its generation. -/
  | barinit (h : Hdr) (sc : Scope) (t2 : Option Target) (bsel : BitVec 4) (disp : BitVec 9)
  /-- EXIT (R202). Delivers a value into a successor's gather entry, and may close the invocation. -/
  | exit (h : Hdr) (part : Bool) (ent : BitVec 4) (e : BitVec 4)
  /-- CALL (R203). Pushes a call field and delivers into a function block, with a link. -/
  | call (h : Hdr) (rx : BitVec 4) (f : Bool) (part : Bool) (ent : BitVec 4) (e : BitVec 4)
  /-- RET (R203). Pops the call field and delivers to the block that the link names. -/
  | ret (h : Hdr) (part : Bool) (ent : BitVec 4)
  /-- SEND (R204). Delivers a word to a handler channel of a flail tile. -/
  | send (h : Hdr) (loc : Bool) (barn : BitVec 6) (tile : BitVec 3) (ch : BitVec 6)
  /-- TRAP (R205). Raises USER with a code and the data of slot a. -/
  | trap (h : Hdr) (code : BitVec 16)
  /-- ERET (R205). Resolves a pending trap with resume, supply or kill. -/
  | eret (h : Hdr) (act : BitVec 2)
  /-- CRRD (R206). Reads a context control register. -/
  | crrd (h : Hdr) (num : BitVec 12)
  /-- CRWR (R206). Writes a context control register. -/
  | crwr (h : Hdr) (num : BitVec 12)
  /-- GONG (R207). Raises the Gong snapshot for the whole package. -/
  | gong (h : Hdr) (cause : BitVec 8)
  /-- CODEPUB (R208). Makes new code visible: writes back, invalidates code caches and advances CTX_CODEGEN. -/
  | codepub (h : Hdr) (sc : Scope) (t2 : Option Target) (bsel : BitVec 4) (disp : BitVec 9)
  /-- FETCHSYNC (R209). Forces stale bays and tiles of the context to fetch their blocks again. -/
  | fetchsync (h : Hdr) (sc : Scope) (t2 : Option Target)
  /-- LAUNCH (R210). Creates a kernel instance from a launch record. -/
  | launch (h : Hdr) (sc : Scope) (t2 : Option Target) (bsel : BitVec 4) (disp : BitVec 9)
  /-- LQTAKE (R211). Claims the head record of a launch queue and launches it. -/
  | lqtake (h : Hdr) (t2 : Option Target) (lq : BitVec 6)
  /-- KDONE (R212). Waits for a kernel instance to complete and returns its status word. -/
  | kdone (h : Hdr)
  /-- XPUSH (R225). Pushes a data token into an input edge queue. -/
  | xpush (q : BitVec 4) (rs1 : BitVec 5) (rs2 : BitVec 5)
  /-- XPUSHE (R225). Pushes an end-of-stream marker into an input edge queue. -/
  | xpushe (q : BitVec 4) (rs2 : BitVec 5)
  /-- XPUSHN (R225). Pushes a null token into an input edge queue. -/
  | xpushn (q : BitVec 4) (rs2 : BitVec 5)
  /-- XPOP (R225). Pops the head of an output edge queue, waiting while it is empty. -/
  | xpop (q : BitVec 4) (rd : BitVec 5)
  /-- XPOPNB (R225). Pops the head of an output edge queue without waiting. -/
  | xpopnb (q : BitVec 4) (rd : BitVec 5)
  /-- XQCNT (R225). Returns the number of tokens in a queue. -/
  | xqcnt (q : BitVec 4) (rd : BitVec 5)
  /-- XLW (R226). Loads a word from a virtual address into a register. -/
  | xlw (bsel : BitVec 4) (disp : BitVec 8) (rs1 : BitVec 5) (rd : BitVec 5)
  /-- XSW (R226). Stores a register word to a virtual address, counted in ST. -/
  | xsw (bsel : BitVec 4) (disp : BitVec 8) (rs2 : BitVec 5) (rs1 : BitVec 5)
  /-- XLQ (R226). Loads a word into a reserved position of an input edge queue. -/
  | xlq (bsel : BitVec 4) (rs2 : BitVec 5) (rs1 : BitVec 5) (q : BitVec 4)
  /-- XQST (R226). Pops an output edge queue token and stores it to memory. -/
  | xqst (bsel : BitVec 4) (q : BitVec 4) (rs1 : BitVec 5)
  /-- XCPY (R227). Issues a CPY engine command from a core. -/
  | xcpy (bsel : BitVec 4) (s : BitVec 3) (rs1 : BitVec 5)
  /-- XGATH (R227). Issues a GATH engine command from a core. -/
  | xgath (bsel : BitVec 4) (s : BitVec 3) (rs1 : BitVec 5)
  /-- XSCAT (R227). Issues a SCAT engine command from a core. -/
  | xscat (bsel : BitVec 4) (s : BitVec 3) (rs1 : BitVec 5)
  /-- XCOLL (R227). Issues a COLL command from a core. -/
  | xcoll (bsel : BitVec 4) (s : BitVec 3) (rs1 : BitVec 5)
  /-- XTTASK (R227). Enqueues a tile task from a core, counted in TT. -/
  | xttask (bsel : BitVec 4) (s : BitVec 3) (rs1 : BitVec 5)
  /-- XPUB (R229). Publishes a sheaf from a core. -/
  | xpub (desc : BitVec 6) (rs2 : BitVec 5) (rs1 : BitVec 5) (s : BitVec 3)
  /-- XAWAIT (R229). Awaits a sheaf from a core. -/
  | xawait (desc : BitVec 6) (rs2 : BitVec 5) (rs1 : BitVec 5) (s : BitVec 3)
  /-- XBARR (R229). Counts a roll arrival at a barrier from a core. -/
  | xbarr (bsel : BitVec 4) (s : BitVec 3) (rs1 : BitVec 5)
  /-- XBARW (R229). Waits on a barrier from a core and returns its generation. -/
  | xbarw (bsel : BitVec 4) (s : BitVec 3) (rs1 : BitVec 5) (rd : BitVec 5)
  /-- XFENCE (R229). Release and/or acquire fence of a core. -/
  | xfence (rel : Bool) (acq : Bool) (s : BitVec 3)
  /-- WAITC (R228). Waits until the four outstanding counters fall to the given limits, then acquires. -/
  | waitc (l : BitVec 6) (st : BitVec 6) (c : BitVec 5) (t : BitVec 5)
  /-- RPT (R231). Repeats the next instruction, stepping the selected register fields. -/
  | rpt (stp2 : Bool) (stp1 : Bool) (stpd : Bool) (rep : BitVec 6)
  /-- XSEND (R229). Sends a word to a handler channel from a core. -/
  | xsend (rs2 : BitVec 5) (rs1 : BitVec 5)
  /-- XCR (R229). Reads a context control register into a core register. -/
  | xcr (num : BitVec 12) (rd : BitVec 5)
  /-- ECALL (R220). Ends the core program once its counters are zero; a0 is the exit status. -/
  | ecall
  /-- EBREAK (R234). Raises the breakpoint exception on the core. -/
  | ebreak
  /-- BASE_INSTRUCTION (R216). A loader or storer core executes one base RV32IMAC or Zicsr instruction, or an encoding that no Xbarn row defines, including CSR accesses, MRET and the resulting exceptions. -/
  | baseInstruction (w : BitVec 32) (comp : Bool)
  /-- TOKEN_HOP (R30). A token passes one handshake on the operand mesh or into a buffer. -/
  | tokenHop
  /-- MATCH_TOKEN (R23). The matching stage takes a token from a queue head and joins or opens a partial set. -/
  | matchToken
  /-- RECONF_TOKEN_ARRIVAL (R32). A reconfiguration token arrives at the configuration port of a node. -/
  | reconfTokenArrival
  /-- CONFIG_IN_FORCE (R32). The new configuration of a node comes into force once its old sets have fired. -/
  | configInForce
  /-- TRAP_NODE_FIRE (R76). A trap node made from an illegal or TRAP-claimed word fires a complete set. -/
  | trapNodeFire
  /-- EMULATION_FIRE (R442). An emulation node fires, takes a trap index and queues a patch word. -/
  | emulationFire
  /-- BLOCK_FETCH (R68). The words of a block fetch return, are checked and configure a bay, tile or region. -/
  | blockFetch
  /-- FETCH_RETRY (R67). A fetch is repeated 64 cycles after a rewrite mark or a failed header check. -/
  | fetchRetry
  /-- GATHER_DELIVERY (R240). A value is delivered into a gather entry, which may become ready. -/
  | gatherDelivery
  /-- GATHER_TAKE (R240). A serving bay or tile takes a ready gather entry and starts an invocation. -/
  | gatherTake
  /-- BAY_SELECT (R244). The bay scheduler chooses a candidate block for a free bay frame. -/
  | baySelect
  /-- BAY_CONFIGURED (R243). A bay finishes configuring and begins serving. -/
  | bayConfigured
  /-- BAY_IDLE_TIMEOUT (R243). A bay with no routable ready entry for 64 cycles enters closing. -/
  | bayIdleTimeout
  /-- BAY_FREE (R243). A closing bay becomes free once every invocation has drained. -/
  | bayFree
  /-- TILE_LOAD (R246). A block is loaded into a flail tile's instruction store. -/
  | tileLoad
  /-- HANDLER_SELECT (R250). A tile selects a runnable handler or patch word and runs one invocation. -/
  | handlerSelect
  /-- INVOCATION_CLOSE (R202). A closing firing's close is performed once its committed stores are performed. -/
  | invocationClose
  /-- INSTANCE_COMPLETE (R237). A kernel instance completes once all its work and traps are gone. -/
  | instanceComplete
  /-- MEM_NODE_REQUEST (R274). A memory node performs a request to one line. -/
  | memNodeRequest
  /-- BANK_REQUEST (R264). A scratchpad bank serves the oldest request waiting for it. -/
  | bankRequest
  /-- ACCESS_RESPONSE (R141). The response to an access returns to its port, which sends the data and order-out tokens. -/
  | accessResponse
  /-- BACK_INVALIDATE (R391). A back-invalidation of the host's copy of a line completes. -/
  | backInvalidate
  /-- HOST_MEM_ACCESS (R390). A host CXL.mem request reaches device memory through an HDM decoder. -/
  | hostMemAccess
  /-- HOST_APERTURE_ACCESS (R392). A host CXL.io access through BAR2 or BAR4 reaches the scratchpad or weight buffer. -/
  | hostApertureAccess
  /-- BAR_ATOMIC_REQUEST (R388). A PCIe AtomicOp to a BAR completes with Unsupported Request. -/
  | barAtomicRequest
  /-- HOST_SNOOP (R393). The CXL cache agent answers a host snoop. -/
  | hostSnoop
  /-- WALK_COMPLETE (R364). A page walk finishes and supplies a translation, or finds none. -/
  | walkComplete
  /-- ATS_RESPONSE (R366). An ATS translation response arrives for a host-shared range. -/
  | atsResponse
  /-- FAULT_QUEUE_WRITE (R370). A cause 0 fault entry is written into the device fault queue. -/
  | faultQueueWrite
  /-- PRI_REQUEST (R373). A PRI page request is sent for a cause 1 fault. -/
  | priRequest
  /-- PRI_RESPONSE (R373). A PRI response arrives and acts as RETRY or FAIL. -/
  | priResponse
  /-- FQRES_RETRY (R372). A TR_FQRES write with ACT 0 lets the accesses waiting on a fault identifier translate again. -/
  | fqresRetry
  /-- FQRES_FAIL (R372). A TR_FQRES write with ACT 1 delivers PAGE to the waiting contexts. -/
  | fqresFail
  /-- INV_ALL (R367). A TR_INV command of KIND 0 invalidates cached translations of every ASID. -/
  | invAll
  /-- INV_ASID (R367). A TR_INV command of KIND 1 invalidates the translations of one ASID. -/
  | invAsid
  /-- INV_RANGE (R367). A TR_INV command of KIND 2 invalidates a range of one ASID. -/
  | invRange
  /-- INV_ASID_ENTRY (R367). A TR_INV command of KIND 3 invalidates only the cached ASID entry. -/
  | invAsidEntry
  /-- INV_COMPLETE (R367). An invalidation command completes, and TR_INVSTAT.DONE advances. -/
  | invComplete
  /-- ATS_INVALIDATE (R367). A host ATS invalidation request acts as range invalidations. -/
  | atsInvalidate
  /-- SPAD_ALLOC_WRITE (R261). A write to SPAD_ALLOC.k sets a scratchpad allocation and starts its scrub. -/
  | spadAllocWrite
  /-- WBUF_ALLOC_WRITE (R270). A write to WBUF_ALLOC.k sets a weight-buffer allocation and starts its scrub. -/
  | wbufAllocWrite
  /-- SCRUB_DONE (R268). The scrub of an allocation ends and BUSY clears. -/
  | scrubDone
  /-- CTX_SHDPOOL_WRITE (R277). A write to CTX_SHDPOOL.k sets the shadow pool, unless a shadowed command is active. -/
  | ctxShdpoolWrite
  /-- SHADOW_FRAME_RETURN (R277). The frame visible before a publish returns to the shadow pool. -/
  | shadowFrameReturn
  /-- PAGE_MIGRATION (R278). A page is copied to a nearest channel and remapped before a launch's first block. -/
  | pageMigration
  /-- STREAM_TOKEN_SEND (R163). STRM sends the next token of its stream once its word is read. -/
  | streamTokenSend
  /-- STRMW_COMPLETE (R164). STRMW sends its completion token once every write is performed. -/
  | strmwComplete
  /-- REGION_ROW_ENTRY (R309). An activation token enters a region row, or waits in its row entry table. -/
  | regionRowEntry
  /-- MMAC_TILE_COMPLETE (R177). A tile completes, and MMAC raises its flags and sends its completion token. -/
  | mmacTileComplete
  /-- MDRAIN_RESULT (R178). MDRAIN emits the next result of a tile, or its marker. -/
  | mdrainResult
  /-- WLOAD_COMPLETE (R175). A weight half finishes loading, and the completion token is sent. -/
  | wloadComplete
  /-- WSWAP_IN_FORCE (R176). The swap of weight halves takes effect once no tile is in progress. -/
  | wswapInForce
  /-- MFREE_RELEASE (R174). MFREE clears and releases the region once it is idle. -/
  | mfreeRelease
  /-- TASK_TAKE (R181). The task scheduler takes a tile-task record, checks it and registers its sheaves. -/
  | taskTake
  /-- TASK_ISSUE (R311). The task scheduler issues the first placeable ready record to a region. -/
  | taskIssue
  /-- TILE_TASK_STEP (R180). One step of a running tile task completes and the next begins. -/
  | tileTaskStep
  /-- ENGINE_COMMAND_START (R189). A wain engine takes a command from its queue and begins it. -/
  | engineCommandStart
  /-- ENGINE_COMMAND_COMPLETE (R191). A command's writes are performed, then its completion publish and barrier update follow. -/
  | engineCommandComplete
  /-- COLL_RANK_ARRIVAL (R192). A rank's collective control flit reaches the Carillon and is compared. -/
  | collRankArrival
  /-- COLL_COMPLETE (R193). A collective's reduction is written to a rank's destination. -/
  | collComplete
  /-- SHEAF_PUBLISH_APPLY (R196). A publish is applied at the home die of its sheaf entry. -/
  | sheafPublishApply
  /-- SHEAF_REGISTER_APPLY (R350). A waiter's input registration is applied at its entry's home die. -/
  | sheafRegisterApply
  /-- BARWAIT_SERVE (R200). A waiting BARWAIT is served after a write that makes the barrier done or disarmed. -/
  | barwaitServe
  /-- EDGE_QUEUE_DELIVER (R221). The head of an input edge queue moves into its target. -/
  | edgeQueueDeliver
  /-- CORE_PROGRAM_START (R219). A core program is loaded and started for an instance. -/
  | coreProgramStart
  /-- CORE_PROGRAM_END (R220). A core program ends once its counters are zero after ECALL. -/
  | coreProgramEnd
  /-- COUNTED_ACCESS_DONE (R226). A counted core access, command or task is performed and leaves its counter. -/
  | countedAccessDone
  /-- DOORBELL_WRITE (R334). A host doorbell write publishes launch records, or is refused. -/
  | doorbellWrite
  /-- DIRECT_CLAIM (R335). The queue controller claims a record from a direct launch queue. -/
  | directClaim
  /-- PLACEMENT_TURN (R338). Every 8 cycles the placement engine places the first placeable ready instance. -/
  | placementTurn
  /-- WINNOW_WINDOW_END (R337). At the end of a 65,536-cycle window the class of each instance is decided. -/
  | winnowWindowEnd
  /-- SCHED_QTAB_WRITE (R333). A write to SCHED_QTAB.k makes the queue controller read the queue table. -/
  | schedQtabWrite
  /-- REEVE_RELEASE (R336). The Reeve gives up its context after 64 idle cycles or an aged rival. -/
  | reeveRelease
  /-- REEVE_SELECT (R336). The drained Reeve selects its next context. -/
  | reeveSelect
  /-- SHEAF_RET_WRITE (R346). A write to SHEAF_RET.k frees the entries of a TID that have no waiters. -/
  | sheafRetWrite
  /-- SHEAF_OVF_WRITE (R353). A write to SHEAF_OVF.k sets and formats the overflow region. -/
  | sheafOvfWrite
  /-- PREEMPT_REQUEST (R374). An unplaceable first-ranked instance requests pre-emption after 64 turns. -/
  | preemptRequest
  /-- PREEMPT_DEADLINE (R378). At cycle c + W, or once drains end, the victim context is checkpointed. -/
  | preemptDeadline
  /-- CTX_CHECKPOINT (R381). A CTX_RUN write with CMD 1 starts a stop wave and a save. -/
  | ctxCheckpoint
  /-- CTX_RESTORE (R384). A CTX_RUN write with CMD 2 restores a saved context. -/
  | ctxRestore
  /-- CTX_RELEASE (R381). A CTX_RUN write with CMD 3 kills, discards and scrubs a slot. -/
  | ctxRelease
  /-- STOP_REQUEST_RECEIVE (R379). A unit receives the stop request and freezes the context. -/
  | stopRequestReceive
  /-- STOP_COMPLETE (R379). Every unit has frozen and every held response has arrived; the save begins. -/
  | stopComplete
  /-- SAVE_COMPLETE (R382). The save image is written, or the save stops on passing its area. -/
  | saveComplete
  /-- RESTORE_COMPLETE (R384). Restore has re-injected the tokens, and STATE returns to 0. -/
  | restoreComplete
  /-- FLIT_RECEIVE (R396). A Yoxia Link flit is received, checked and consumed. -/
  | flitReceive
  /-- LINK_REPLAY_TIMEOUT (R396). No acknowledgement for 4,800 cycles resends the unacknowledged flits. -/
  | linkReplayTimeout
  /-- LINK_TRAIN (R397). A write of 1 to LINK_STAT.p.UP starts training of a port. -/
  | linkTrain
  /-- LINK_TAKE_DOWN (R397). A write of 0 to LINK_STAT.p.UP takes a port down. -/
  | linkTakeDown
  /-- LINK_TRAINED (R397). A peer port completes training and enters service. -/
  | linkTrained
  /-- COLL_ROUTE_TIMEOUT (R399). No route to a rank for 2,400,000 cycles raises ENGINE cause 7. -/
  | collRouteTimeout
  /-- UCIE_BOUNDARY_FAIL (R394). A failed UCIe boundary reroutes traffic and resends what was caught on it. -/
  | ucieBoundaryFail
  /-- DECODER_COMMIT (R390). An HDM decoder commit is accepted or fails. -/
  | decoderCommit
  /-- LOAD_NATIVE (R404). The loader places and checks a native image for a slot. -/
  | loadNative
  /-- LOAD_PEKOR (R404). The loader translates a Pekor image through the translation store and places it. -/
  | loadPekor
  /-- UNLOAD (R405). The loader removes an image from a slot's image table. -/
  | unload
  /-- TC_FLUSH (R412). A TC_CTL.FLUSH write invalidates every translation store entry. -/
  | tcFlush
  /-- TRAP_WORD_ENQUEUE (R423). After its record write is performed, a trap word enters the trap channel or goes to the host. -/
  | trapWordEnqueue
  /-- TRAP_RES_RESUME (R429). A TRAP_RES write with ACT 0 resumes the trapped work. -/
  | trapResResume
  /-- TRAP_RES_SUPPLY (R429). A TRAP_RES write with ACT 1 supplies data to the trapped work. -/
  | trapResSupply
  /-- TRAP_RES_KILL (R429). A TRAP_RES write with ACT 2 kills the instance. -/
  | trapResKill
  /-- CTX_STALLIM_WRITE (R431). A new stall limit takes effect and may raise STALL_AGE at once. -/
  | ctxStallimWrite
  /-- STALL_AGE (R259). An age counter reaches the context's limit and raises the progress alarm. -/
  | stallAge
  /-- HW_FAULT_DETECT (R434). A hardware fault in a partition is detected and its freeze begins. -/
  | hwFaultDetect
  /-- PARTITION_CLOCK_GATE (R434). The partition's clock is gated 8 cycles after detection. -/
  | partitionClockGate
  /-- MGMT_FREEZE_REQUEST (R434). The management port requests a scan freeze. -/
  | mgmtFreezeRequest
  /-- FRZ_RESUME (R459). A FRZ_ACT write with ACT 0 ungates a partition frozen by request. -/
  | frzResume
  /-- FRZ_KILL (R459). A FRZ_ACT write with ACT 1 releases the slots of a partition, scrubs it and ungates it. -/
  | frzKill
  /-- FRZ_KILL_FENCE (R459). A FRZ_ACT write with ACT 2 kills the partition's slots and fences the barn. -/
  | frzKillFence
  /-- BELFRY_LOAD (R448). A BEL_LDREQ write starts checking a patch image and draining affected units. -/
  | belfryLoad
  /-- BELFRY_SWITCH (R448). Once the drain ends, the new slots, hooks and handlers take force in cycle S. -/
  | belfrySwitch
  /-- BELFRY_DRAIN_TIMEOUT (R448). The drain limit passes and the load ends with code 6. -/
  | belfryDrainTimeout
  /-- GONG_RAISE (R453). A host write of GONG_CTL.RAISE raises the Gong. -/
  | gongRaise
  /-- MGMT_GONG_REQUEST (R453). A management-port request raises the Gong. -/
  | mgmtGongRequest
  /-- GONG_LATCH (R453). Every snapshot register latches at cycle G, 48 cycles after the raise. -/
  | gongLatch
  /-- MEM_CHECKPOINT (R460). An MCK_REQ write checkpoints every context and copies device memory to the host. -/
  | memCheckpoint
  /-- MEM_CHECKPOINT_DONE (R460). The copy ends, the result record is written, and contexts may be restored. -/
  | memCheckpointDone
  /-- SVC_CTL_WRITE (R461). A write to SVC_CTL.b sets the barn fence and the spare-column map. -/
  | svcCtlWrite
  /-- CTX_BMAP_WRITE (R462). A write to CTX_BMAP.k.n remaps a logical barn of a slot. -/
  | ctxBmapWrite
  /-- HBM_RETIRE (R463). An HBM_RETREQ write retires a frame, remapping it when it is mapped. -/
  | hbmRetire
  /-- DIE_FENCE_WRITE (R464). A DIE_FENCE write fences the barns and units of a die. -/
  | dieFenceWrite
  /-- FW_LOAD (R465). A FW_LDREQ write checks a firmware image and starts its installation. -/
  | fwLoad
  /-- FW_TAKEOVER (R465). The new firmware takes over the I/O-die units. -/
  | fwTakeover
  /-- POWER_ON (R474). Power-on starts a cold reset. -/
  | powerOn
  /-- COLD_RESET (R474). A PKG_RST.COLD write runs the boot steps, ending with READY. -/
  | coldReset
  /-- THROTTLE_STEP (R476). Each millisecond the fabric clock steps down or up by 75 MHz. -/
  | throttleStep
  /-- OVERTEMP_FREEZE (R476). At 105 °C the management port freezes every partition. -/
  | overtempFreeze
  /-- GET_VERSION (R477). An SPDM GET_VERSION request is answered. -/
  | getVersion
  /-- GET_CAPABILITIES (R477). An SPDM GET_CAPABILITIES request is answered. -/
  | getCapabilities
  /-- NEGOTIATE_ALGORITHMS (R477). An SPDM NEGOTIATE_ALGORITHMS request is answered, with P-256 and SHA-256 only. -/
  | negotiateAlgorithms
  /-- GET_DIGESTS (R477). An SPDM GET_DIGESTS request is answered. -/
  | getDigests
  /-- GET_CERTIFICATE (R477). An SPDM GET_CERTIFICATE request returns the chain in slot 0. -/
  | getCertificate
  /-- CHALLENGE (R477). An SPDM CHALLENGE request is signed with the device key. -/
  | challenge
  /-- GET_MEASUREMENTS (R477). An SPDM GET_MEASUREMENTS request returns the firmware, Belfry and ISA measurements. -/
  | getMeasurements
  /-- SPDM_UNSUPPORTED (R477). Any other SPDM request receives ERROR UnsupportedRequest. -/
  | spdmUnsupported
  /-- REGISTER_WRITE (R9). A write to a register without behaviour of its own updates its fields by access code. -/
  | registerWrite
  /-- POWER_LOSS (R411). Power is lost, and the translation store is left with either the old entry set or the new one. -/
  | powerLoss
  /-- CXL_PORT_TRAINED (R393). A CXL port enters or leaves the trained state after boot, which changes the cache agent that serves host memory and the ports that carry MSI-X. -/
  | cxlPortTrained
  deriving DecidableEq, Repr

end Sys2Proof
end

