-- ==== Sys2Proof/WellFormed.lean ====
section
/-! DEFINITION. When an instruction is a legal word (R76, rules 3 to 7): its element type, its targets and the
limits its description puts on its fields. What depends on the block that holds the word (the space size, the nodes
it names) is checked when a block is loaded. -/

namespace Sys2Proof

/-- The common fields of a block instruction; none for a core instruction or an event. -/
def Instr.hdr? : Instr → Option Hdr
  | .add h _ => some h
  | .sub h _ => some h
  | .mul h _ => some h
  | .mulh h => some h
  | .mad h _ => some h
  | .neg h _ => some h
  | .abs h _ => some h
  | .min h => some h
  | .max h => some h
  | .addi h _ _ => some h
  | .muli h _ _ => some h
  | .lea h _ _ => some h
  | .cidx2 h _ _ => some h
  | .cidx3 h _ _ _ => some h
  | .dot4 h _ => some h
  | .div h _ => some h
  | .rem h => some h
  | .absd h => some h
  | .and h => some h
  | .or h => some h
  | .xor h => some h
  | .andn h => some h
  | .not h => some h
  | .shl h => some h
  | .shr h => some h
  | .sra h => some h
  | .rol h => some h
  | .ror h => some h
  | .shli h _ => some h
  | .shri h _ => some h
  | .srai h _ => some h
  | .bfx h _ _ => some h
  | .bfi h _ _ => some h
  | .popc h => some h
  | .clz h => some h
  | .ctz h => some h
  | .brev h => some h
  | .prmt h _ => some h
  | .cmpeq h _ _ => some h
  | .cmpne h _ _ => some h
  | .cmplt h _ _ => some h
  | .cmple h _ _ => some h
  | .cmpgt h _ _ => some h
  | .cmpge h _ _ => some h
  | .pand h => some h
  | .por h => some h
  | .pxor h => some h
  | .pandn h => some h
  | .pnot h => some h
  | .select h => some h
  | .testz h _ _ => some h
  | .mov h _ => some h
  | .const h _ => some h
  | .lit h => some h
  | .switch h => some h
  | .merge h => some h
  | .gate h => some h
  | .sync h _ => some h
  | .drop h => some h
  | .null h => some h
  | .alloc h _ => some h
  | .free h => some h
  | .enter h _ _ _ => some h
  | .leave h _ => some h
  | .tagrd h _ _ _ => some h
  | .tagwr h _ _ => some h
  | .fadd h _ _ => some h
  | .fsub h _ _ => some h
  | .fmul h _ _ => some h
  | .ffma h _ _ => some h
  | .ffms h _ _ => some h
  | .fmin h => some h
  | .fmax h => some h
  | .fabs h => some h
  | .fneg h => some h
  | .fcpys h => some h
  | .fcmpeq h _ => some h
  | .fcmpne h _ => some h
  | .fcmplt h _ => some h
  | .fcmple h _ => some h
  | .fcmpun h _ => some h
  | .fdot2 h _ _ => some h
  | .fcvt h _ _ _ _ _ _ => some h
  | .fcvtp h _ _ _ => some h
  | .fcvtx h _ _ _ _ _ => some h
  | .frnd h _ => some h
  | .fldexp h _ _ _ => some h
  | .fgetexp h => some h
  | .reconf h _ _ => some h
  | .fexp2f h => some h
  | .flog2 h => some h
  | .frcp h => some h
  | .frsq h => some h
  | .fsqrt h _ => some h
  | .fsin2 h => some h
  | .fcos2 h => some h
  | .ldb h _ _ _ _ _ => some h
  | .ldh h _ _ _ _ _ => some h
  | .ld h _ _ _ _ _ => some h
  | .ldp h _ _ _ _ _ => some h
  | .stb h _ _ _ _ _ => some h
  | .sth h _ _ _ _ _ => some h
  | .st h _ _ _ _ _ => some h
  | .stp h _ _ _ _ _ => some h
  | .prefetch h _ _ _ _ => some h
  | .lds h _ _ _ _ _ _ => some h
  | .sts h _ _ _ _ => some h
  | .ldsp h _ _ _ _ _ _ => some h
  | .stsp h _ _ _ _ => some h
  | .pset h _ _ _ _ => some h
  | .pclr h _ _ _ => some h
  | .ptest h _ _ _ _ => some h
  | .atadd h _ _ _ _ _ _ => some h
  | .atmin h _ _ _ _ _ _ => some h
  | .atmax h _ _ _ _ _ _ => some h
  | .atand h _ _ _ _ _ _ => some h
  | .ator h _ _ _ _ _ _ => some h
  | .atxor h _ _ _ _ _ _ => some h
  | .atswap h _ _ _ _ _ _ => some h
  | .atcas h _ _ _ _ _ _ => some h
  | .atfadd h _ _ _ _ _ _ _ => some h
  | .atadd64 h _ _ _ _ _ _ => some h
  | .atmin64 h _ _ _ _ _ _ => some h
  | .atmax64 h _ _ _ _ _ _ => some h
  | .atand64 h _ _ _ _ _ _ => some h
  | .ator64 h _ _ _ _ _ _ => some h
  | .atxor64 h _ _ _ _ _ _ => some h
  | .atswap64 h _ _ _ _ _ _ => some h
  | .atcas64 h _ _ _ _ _ _ => some h
  | .fence h _ _ _ _ => some h
  | .ldt h _ _ _ => some h
  | .stt h _ _ _ => some h
  | .strm h _ _ _ => some h
  | .strmw h _ _ _ _ => some h
  | .sred h _ _ _ _ => some h
  | .sscan h _ _ _ _ => some h
  | .szip h _ _ => some h
  | .rdly h _ _ _ => some h
  | .rmax h _ _ => some h
  | .rsumx h _ _ _ => some h
  | .rsqs h _ _ _ => some h
  | .rrel h _ _ => some h
  | .mregion h _ _ _ => some h
  | .mfree h => some h
  | .wload h _ _ _ _ => some h
  | .wswap h => some h
  | .mmac h _ _ _ _ => some h
  | .mdrain h _ _ _ _ => some h
  | .ttask h _ _ _ _ => some h
  | .cpy h _ _ _ _ => some h
  | .gath h _ _ _ _ => some h
  | .scat h _ _ _ _ => some h
  | .coll h _ _ _ _ => some h
  | .publish h _ _ _ => some h
  | .await h _ _ _ => some h
  | .roll h _ _ => some h
  | .rollArr h _ _ _ _ => some h
  | .barwait h _ _ _ _ => some h
  | .barinit h _ _ _ _ => some h
  | .exit h _ _ _ => some h
  | .call h _ _ _ _ _ => some h
  | .ret h _ _ => some h
  | .send h _ _ _ _ => some h
  | .trap h _ => some h
  | .eret h _ => some h
  | .crrd h _ => some h
  | .crwr h _ => some h
  | .gong h _ => some h
  | .codepub h _ _ _ _ => some h
  | .fetchsync h _ _ => some h
  | .launch h _ _ _ _ => some h
  | .lqtake h _ _ => some h
  | .kdone h => some h
  | _ => none

/-- The third target of a format B instruction (R71). -/
def Instr.t2? : Instr → Option Target
  | .mov _ t2 => t2
  | .ldb _ _ _ t2 _ _ => t2
  | .ldh _ _ _ t2 _ _ => t2
  | .ld _ _ _ t2 _ _ => t2
  | .ldp _ _ _ t2 _ _ => t2
  | .stb _ _ _ t2 _ _ => t2
  | .sth _ _ _ t2 _ _ => t2
  | .st _ _ _ t2 _ _ => t2
  | .stp _ _ _ t2 _ _ => t2
  | .prefetch _ _ t2 _ _ => t2
  | .lds _ _ _ _ _ t2 _ => t2
  | .sts _ _ _ t2 _ => t2
  | .ldsp _ _ _ _ _ t2 _ => t2
  | .stsp _ _ _ t2 _ => t2
  | .pset _ _ _ t2 _ => t2
  | .pclr _ _ t2 _ => t2
  | .ptest _ _ _ t2 _ => t2
  | .atadd _ _ _ _ t2 _ _ => t2
  | .atmin _ _ _ _ t2 _ _ => t2
  | .atmax _ _ _ _ t2 _ _ => t2
  | .atand _ _ _ _ t2 _ _ => t2
  | .ator _ _ _ _ t2 _ _ => t2
  | .atxor _ _ _ _ t2 _ _ => t2
  | .atswap _ _ _ _ t2 _ _ => t2
  | .atcas _ _ _ _ t2 _ _ => t2
  | .atfadd _ _ _ _ _ t2 _ _ => t2
  | .atadd64 _ _ _ _ t2 _ _ => t2
  | .atmin64 _ _ _ _ t2 _ _ => t2
  | .atmax64 _ _ _ _ t2 _ _ => t2
  | .atand64 _ _ _ _ t2 _ _ => t2
  | .ator64 _ _ _ _ t2 _ _ => t2
  | .atxor64 _ _ _ _ t2 _ _ => t2
  | .atswap64 _ _ _ _ t2 _ _ => t2
  | .atcas64 _ _ _ _ t2 _ _ => t2
  | .fence _ _ _ _ t2 => t2
  | .ldt _ _ t2 _ => t2
  | .stt _ _ t2 _ => t2
  | .wload _ t2 _ _ _ => t2
  | .ttask _ _ t2 _ _ => t2
  | .cpy _ _ t2 _ _ => t2
  | .gath _ _ t2 _ _ => t2
  | .scat _ _ t2 _ _ => t2
  | .coll _ _ t2 _ _ => t2
  | .publish _ _ t2 _ => t2
  | .await _ _ t2 _ => t2
  | .roll _ _ t2 => t2
  | .rollArr _ _ t2 _ _ => t2
  | .barwait _ _ t2 _ _ => t2
  | .barinit _ _ t2 _ _ => t2
  | .codepub _ _ t2 _ _ => t2
  | .fetchsync _ _ t2 => t2
  | .launch _ _ t2 _ _ => t2
  | .lqtake _ t2 _ => t2
  | _ => none

/-- The element types the description accepts (R76, rule 3). CODEPUB, FETCHSYNC, LAUNCH, LQTAKE and KDONE state none: b32 alone is
taken (DESIGN CHOICE, log 112). -/
def Instr.typeOk : Instr → Bool
  | .add h _ => [.i32, .n32, .i16x2, .n16x2, .i8x4, .n8x4].contains h.ty
  | .sub h _ => [.i32, .n32, .i16x2, .n16x2, .i8x4, .n8x4].contains h.ty
  | .mul h _ => [.i32, .n32, .i16x2, .n16x2, .i8x4, .n8x4].contains h.ty
  | .mulh h => [.i32, .n32].contains h.ty
  | .mad h _ => [.i32, .n32].contains h.ty
  | .neg h _ => [.i32, .i16x2, .i8x4].contains h.ty
  | .abs h _ => [.i32, .i16x2, .i8x4].contains h.ty
  | .min h => [.i32, .n32, .i16x2, .n16x2, .i8x4, .n8x4].contains h.ty
  | .max h => [.i32, .n32, .i16x2, .n16x2, .i8x4, .n8x4].contains h.ty
  | .addi h _ _ => [.i32, .n32].contains h.ty
  | .muli h _ _ => [.i32, .n32].contains h.ty
  | .lea h _ _ => [.n32, .i32].contains h.ty
  | .cidx2 h _ _ => [.n32].contains h.ty
  | .cidx3 h _ _ _ => [.n32].contains h.ty
  | .dot4 h _ => [.i8x4, .n8x4].contains h.ty
  | .div h _ => [.i32, .n32].contains h.ty
  | .rem h => [.i32, .n32].contains h.ty
  | .absd h => [.i32].contains h.ty
  | .and h => [.b32, .i32, .n32, .i16x2, .n16x2, .i8x4, .n8x4, .i4x8, .n4x8].contains h.ty
  | .or h => [.b32, .i32, .n32, .i16x2, .n16x2, .i8x4, .n8x4, .i4x8, .n4x8].contains h.ty
  | .xor h => [.b32, .i32, .n32, .i16x2, .n16x2, .i8x4, .n8x4, .i4x8, .n4x8].contains h.ty
  | .andn h => [.b32, .i32, .n32, .i16x2, .n16x2, .i8x4, .n8x4, .i4x8, .n4x8].contains h.ty
  | .not h => [.b32, .i32, .n32, .i16x2, .n16x2, .i8x4, .n8x4, .i4x8, .n4x8].contains h.ty
  | .shl h => [.b32, .i32, .n32, .i16x2, .n16x2, .i8x4, .n8x4].contains h.ty
  | .shr h => [.b32, .i32, .n32, .i16x2, .n16x2, .i8x4, .n8x4].contains h.ty
  | .sra h => [.b32, .i32, .n32, .i16x2, .n16x2, .i8x4, .n8x4].contains h.ty
  | .rol h => [.b32, .i32, .n32, .i16x2, .n16x2, .i8x4, .n8x4].contains h.ty
  | .ror h => [.b32, .i32, .n32, .i16x2, .n16x2, .i8x4, .n8x4].contains h.ty
  | .shli h _ => [.b32, .i32, .n32, .i16x2, .n16x2, .i8x4, .n8x4].contains h.ty
  | .shri h _ => [.b32, .i32, .n32, .i16x2, .n16x2, .i8x4, .n8x4].contains h.ty
  | .srai h _ => [.b32, .i32, .n32, .i16x2, .n16x2, .i8x4, .n8x4].contains h.ty
  | .bfx h _ _ => [.b32, .i32, .n32].contains h.ty
  | .bfi h _ _ => [.b32, .i32, .n32].contains h.ty
  | .popc h => [.b32, .i32, .n32].contains h.ty
  | .clz h => [.b32, .i32, .n32].contains h.ty
  | .ctz h => [.b32, .i32, .n32].contains h.ty
  | .brev h => [.b32, .i32, .n32].contains h.ty
  | .prmt h _ => [.b32].contains h.ty
  | .cmpeq h _ _ => [.i32, .n32, .b32].contains h.ty
  | .cmpne h _ _ => [.i32, .n32, .b32].contains h.ty
  | .cmplt h _ _ => [.i32, .n32].contains h.ty
  | .cmple h _ _ => [.i32, .n32].contains h.ty
  | .cmpgt h _ _ => [.i32, .n32].contains h.ty
  | .cmpge h _ _ => [.i32, .n32].contains h.ty
  | .pand h => [.pred].contains h.ty
  | .por h => [.pred].contains h.ty
  | .pxor h => [.pred].contains h.ty
  | .pandn h => [.pred].contains h.ty
  | .pnot h => [.pred].contains h.ty
  | .select _ => true
  | .testz h _ _ => [.b32, .i32, .n32].contains h.ty
  | .mov _ _ => true
  | .const _ _ => true
  | .lit _ => true
  | .switch _ => true
  | .merge _ => true
  | .gate _ => true
  | .sync _ _ => true
  | .drop _ => true
  | .null _ => true
  | .alloc _ _ => true
  | .free _ => true
  | .enter _ _ _ _ => true
  | .leave _ _ => true
  | .tagrd h _ _ _ => [.n32].contains h.ty
  | .tagwr _ _ _ => true
  | .fadd h _ _ => [.f32, .f16x2, .bf16x2, .e4m3x4, .e5m2x4].contains h.ty
  | .fsub h _ _ => [.f32, .f16x2, .bf16x2, .e4m3x4, .e5m2x4].contains h.ty
  | .fmul h _ _ => [.f32, .f16x2, .bf16x2, .e4m3x4, .e5m2x4].contains h.ty
  | .ffma h _ _ => [.f32, .f16x2, .bf16x2, .e4m3x4, .e5m2x4].contains h.ty
  | .ffms h _ _ => [.f32, .f16x2, .bf16x2, .e4m3x4, .e5m2x4].contains h.ty
  | .fmin h => [.f32, .f16x2, .bf16x2, .e4m3x4, .e5m2x4].contains h.ty
  | .fmax h => [.f32, .f16x2, .bf16x2, .e4m3x4, .e5m2x4].contains h.ty
  | .fabs h => [.f32, .f16x2, .bf16x2, .e4m3x4, .e5m2x4].contains h.ty
  | .fneg h => [.f32, .f16x2, .bf16x2, .e4m3x4, .e5m2x4].contains h.ty
  | .fcpys h => [.f32, .f16x2, .bf16x2, .e4m3x4, .e5m2x4].contains h.ty
  | .fcmpeq h _ => [.f32, .f16x2, .bf16x2, .e4m3x4, .e5m2x4].contains h.ty
  | .fcmpne h _ => [.f32, .f16x2, .bf16x2, .e4m3x4, .e5m2x4].contains h.ty
  | .fcmplt h _ => [.f32, .f16x2, .bf16x2, .e4m3x4, .e5m2x4].contains h.ty
  | .fcmple h _ => [.f32, .f16x2, .bf16x2, .e4m3x4, .e5m2x4].contains h.ty
  | .fcmpun h _ => [.f32, .f16x2, .bf16x2, .e4m3x4, .e5m2x4].contains h.ty
  | .fdot2 h _ _ => [.f16x2, .bf16x2].contains h.ty
  | .fcvt h _ _ _ _ _ _ => h.ty != .pred && h.ty != .b32
  | .fcvtp h _ _ _ => h.ty != .pred && h.ty != .b32
  | .fcvtx h _ _ _ _ _ => h.ty != .pred && h.ty != .b32
  | .frnd h _ => [.f32, .f16x2, .bf16x2].contains h.ty
  | .fldexp h _ _ _ => [.f32, .f16x2, .bf16x2].contains h.ty
  | .fgetexp h => [.f32].contains h.ty
  | .reconf h _ _ => [.b32].contains h.ty
  | .fexp2f h => [.f32].contains h.ty
  | .flog2 h => [.f32].contains h.ty
  | .frcp h => [.f32].contains h.ty
  | .frsq h => [.f32].contains h.ty
  | .fsqrt h _ => [.f32].contains h.ty
  | .fsin2 h => [.f32].contains h.ty
  | .fcos2 h => [.f32].contains h.ty
  | .ldb h _ _ _ _ _ => [.i32, .n32, .b32].contains h.ty
  | .ldh h _ _ _ _ _ => [.i32, .n32, .b32].contains h.ty
  | .ld _ _ _ _ _ _ => true
  | .ldp h _ _ _ _ _ => [.b32].contains h.ty
  | .stb h _ _ _ _ _ => [.i32, .n32, .b32].contains h.ty
  | .sth h _ _ _ _ _ => [.i32, .n32, .b32].contains h.ty
  | .st _ _ _ _ _ _ => true
  | .stp h _ _ _ _ _ => [.b32].contains h.ty
  | .prefetch h _ _ _ _ => [.b32].contains h.ty
  | .lds _ _ _ _ _ _ _ => true
  | .sts _ _ _ _ _ => true
  | .ldsp h _ _ _ _ _ _ => [.b32].contains h.ty
  | .stsp h _ _ _ _ => [.b32].contains h.ty
  | .pset h _ _ _ _ => [.b32].contains h.ty
  | .pclr h _ _ _ => [.b32].contains h.ty
  | .ptest h _ _ _ _ => [.pred].contains h.ty
  | .atadd h _ _ _ _ _ _ => [.i32, .n32].contains h.ty
  | .atmin h _ _ _ _ _ _ => [.i32, .n32].contains h.ty
  | .atmax h _ _ _ _ _ _ => [.i32, .n32].contains h.ty
  | .atand h _ _ _ _ _ _ => [.b32, .i32, .n32].contains h.ty
  | .ator h _ _ _ _ _ _ => [.b32, .i32, .n32].contains h.ty
  | .atxor h _ _ _ _ _ _ => [.b32, .i32, .n32].contains h.ty
  | .atswap h _ _ _ _ _ _ => [.b32, .i32, .n32].contains h.ty
  | .atcas h _ _ _ _ _ _ => [.b32, .i32, .n32].contains h.ty
  | .atfadd h _ _ _ _ _ _ _ => [.f32, .f16x2, .bf16x2].contains h.ty
  | .atadd64 h _ _ _ _ _ _ => [.i32, .n32].contains h.ty
  | .atmin64 h _ _ _ _ _ _ => [.i32, .n32].contains h.ty
  | .atmax64 h _ _ _ _ _ _ => [.i32, .n32].contains h.ty
  | .atand64 h _ _ _ _ _ _ => [.b32, .i32, .n32].contains h.ty
  | .ator64 h _ _ _ _ _ _ => [.b32, .i32, .n32].contains h.ty
  | .atxor64 h _ _ _ _ _ _ => [.b32, .i32, .n32].contains h.ty
  | .atswap64 h _ _ _ _ _ _ => [.b32, .i32, .n32].contains h.ty
  | .atcas64 h _ _ _ _ _ _ => [.b32].contains h.ty
  | .fence h _ _ _ _ => [.b32].contains h.ty
  | .ldt h _ _ _ => h.ty != .pred
  | .stt h _ _ _ => h.ty != .pred
  | .strm h _ _ _ => h.ty != .pred
  | .strmw h _ _ _ _ => h.ty != .pred
  | .sred h _ _ _ _ => h.ty != .pred && h.ty != .b32
  | .sscan h _ _ _ _ => h.ty != .pred && h.ty != .b32
  | .szip _ _ _ => true
  | .rdly h _ _ _ => h.ty != .pred
  | .rmax h _ _ => [.f32, .f16x2, .bf16x2, .e4m3x4, .e5m2x4].contains h.ty
  | .rsumx h _ _ _ => [.f32, .f16x2, .bf16x2, .e4m3x4, .e5m2x4].contains h.ty
  | .rsqs h _ _ _ => [.f32, .f16x2, .bf16x2, .e4m3x4, .e5m2x4].contains h.ty
  | .rrel h _ _ => [.f32].contains h.ty
  | .mregion h _ _ _ => [.b32].contains h.ty
  | .mfree h => [.b32].contains h.ty
  | .wload h _ _ _ _ => [.b32].contains h.ty
  | .wswap h => [.b32].contains h.ty
  | .mmac h _ _ _ _ => [.i4x8, .n4x8, .i8x4, .n8x4, .e4m3x4, .e5m2x4, .f16x2, .bf16x2].contains h.ty
  | .mdrain h _ _ _ _ => [.f32, .i32].contains h.ty
  | .ttask h _ _ _ _ => [.b32].contains h.ty
  | .cpy h _ _ _ _ => [.b32].contains h.ty
  | .gath h _ _ _ _ => [.b32].contains h.ty
  | .scat h _ _ _ _ => [.b32].contains h.ty
  | .coll h _ _ _ _ => [.b32].contains h.ty
  | .publish h _ _ _ => [.b32].contains h.ty
  | .await h _ _ _ => [.b32].contains h.ty
  | .roll h _ _ => [.b32].contains h.ty
  | .rollArr h _ _ _ _ => [.b32].contains h.ty
  | .barwait h _ _ _ _ => [.b32].contains h.ty
  | .barinit h _ _ _ _ => [.b32].contains h.ty
  | .exit _ _ _ _ => true
  | .call _ _ _ _ _ _ => true
  | .ret _ _ _ => true
  | .send _ _ _ _ _ => true
  | .trap _ _ => true
  | .eret _ _ => true
  | .crrd h _ => [.b32].contains h.ty
  | .crwr h _ => [.b32].contains h.ty
  | .gong h _ => [.b32].contains h.ty
  | .codepub h _ _ _ _ => [.b32].contains h.ty
  | .fetchsync h _ _ => [.b32].contains h.ty
  | .launch h _ _ _ _ => [.b32].contains h.ty
  | .lqtake h _ _ => [.b32].contains h.ty
  | .kdone h => [.b32].contains h.ty
  | _ => true

/-- Targets: an instruction that does not drive T0 and T1 names none (R76, rule 6), and slot p of index 127 cannot
be named (R70). -/
def Instr.targetsOk (i : Instr) : Bool :=
  let nameable (t : Option Target) : Bool := t != some ⟨127, .p⟩
  match i.hdr? with
  | none => true
  | some h =>
    nameable h.t0 && nameable h.t1 && nameable i.t2? &&
    match i with
    | .drop _ => h.t0.isNone && h.t1.isNone
    | .exit _ _ _ _ => h.t0.isNone && h.t1.isNone
    | .call _ _ _ _ _ _ => h.t0.isNone && h.t1.isNone
    | .ret _ _ _ => h.t0.isNone && h.t1.isNone
    | _ => true

/-- Lanes of an element type (R36, R38). -/
def Ty.lanes : Ty → Nat
  | .i32 | .n32 | .f32 | .pred | .b32 => 1
  | .f16x2 | .bf16x2 | .i16x2 | .n16x2 => 2
  | .e4m3x4 | .e5m2x4 | .i8x4 | .n8x4 => 4
  | .i4x8 | .n4x8 => 8

/-- A floating-point element type (R38). -/
def Ty.isFloat : Ty → Bool
  | .f32 | .f16x2 | .bf16x2 | .e4m3x4 | .e5m2x4 => true
  | _ => false

/-- An integer element type with signed lanes (R36). -/
def Ty.isSigned : Ty → Bool
  | .i32 | .i16x2 | .i8x4 | .i4x8 => true
  | _ => false

/-- The element type of a code of R72; the code 0xF is reserved. -/
def Ty.ofBits : BitVec 4 → Option Ty
  | 0 => some .i32 | 1 => some .n32 | 2 => some .f32 | 3 => some .f16x2 | 4 => some .bf16x2
  | 5 => some .e4m3x4 | 6 => some .e5m2x4 | 7 => some .i8x4 | 8 => some .n8x4 | 9 => some .i4x8
  | 10 => some .n4x8 | 11 => some .i16x2 | 12 => some .n16x2 | 13 => some .pred | 14 => some .b32
  | _ => none

/-- The pairs of element types between which a conversion exists (R51). -/
def convertible (src dst : Ty) : Bool :=
  match src, dst with
  | .f32, .f16x2 | .f32, .bf16x2 | .f32, .e4m3x4 | .f32, .e5m2x4 | .f32, .i32 | .f32, .n32
  | .f32, .i16x2 | .f32, .n16x2 | .f32, .i8x4 | .f32, .n8x4 => true
  | .f16x2, .f32 | .f16x2, .bf16x2 | .f16x2, .e4m3x4 | .f16x2, .e5m2x4 | .f16x2, .i16x2
  | .f16x2, .n16x2 | .f16x2, .i8x4 | .f16x2, .n8x4 => true
  | .bf16x2, .f32 | .bf16x2, .f16x2 | .bf16x2, .e4m3x4 | .bf16x2, .e5m2x4 | .bf16x2, .i16x2
  | .bf16x2, .n16x2 | .bf16x2, .i8x4 | .bf16x2, .n8x4 => true
  | .e4m3x4, .f32 | .e4m3x4, .f16x2 | .e4m3x4, .bf16x2 | .e4m3x4, .e5m2x4 => true
  | .e5m2x4, .f32 | .e5m2x4, .f16x2 | .e5m2x4, .bf16x2 | .e5m2x4, .e4m3x4 => true
  | .i32, .f32 | .n32, .f32 => true
  | .i16x2, .f32 | .i16x2, .f16x2 | .i16x2, .bf16x2 | .n16x2, .f32 | .n16x2, .f16x2 | .n16x2, .bf16x2 => true
  | .i8x4, .f32 | .i8x4, .f16x2 | .i8x4, .bf16x2 | .n8x4, .f32 | .n8x4, .f16x2 | .n8x4, .bf16x2 => true
  | .i4x8, .f32 | .i4x8, .f16x2 | .i4x8, .bf16x2 | .n4x8, .f32 | .n4x8, .f16x2 | .n4x8, .bf16x2 => true
  | _, _ => false

/-- Lane width of an element type (R36, R38). -/
def Ty.width (t : Ty) : Nat := 32 / t.lanes

/-- The immediate of a CONST fits its element type (R98). -/
def constOk (t : Ty) (imm : BitVec 22) : Bool :=
  match t with
  | .pred => imm.toNat < 2
  | .i16x2 | .n16x2 | .f16x2 | .bf16x2 => imm.toNat < 2 ^ 16
  | .i8x4 | .n8x4 | .e4m3x4 | .e5m2x4 => imm.toNat < 2 ^ 8
  | .i4x8 | .n4x8 => imm.toNat < 2 ^ 4
  | _ => true

/-- A register number of CRRD (R206). -/
def crKnown (n : BitVec 12) : Bool :=
  n.toNat < 2 || (0x10 ≤ n.toNat && n.toNat < 0x40) || (0x40 ≤ n.toNat && n.toNat ≤ 0x44)

/-- A register number CRWR may write (R206): every listed one that is not marked RO. -/
def crWritable (n : BitVec 12) : Bool :=
  n.toNat < 2 || (0x10 ≤ n.toNat && n.toNat < 0x20) || n.toNat = 0x40 || n.toNat = 0x41

/-- PM must be 00 in these instructions (R154), and must not be 11 in a `.nb` load (R142). -/
def Instr.pmOk : Instr → Bool
  | .strmw h _ _ _ _ | .sred h _ _ _ _ | .sscan h _ _ _ _ | .szip h _ _ | .rdly h _ _ _ | .rmax h _ _
  | .rsumx h _ _ _ | .rsqs h _ _ _ | .wswap h | .mmac h _ _ _ _ | .mdrain h _ _ _ _ => h.pm = .always
  | .lds h _ nb _ _ _ _ | .ldsp h _ nb _ _ _ _ => !nb || h.pm != .either
  | _ => true

/-- The limits that the descriptions put on operand fields (R86, R91, R101, R113, R118, R127, R142, R162, R167, R172,
R194, R199, R205, R206, R208, R209). -/
def Instr.limitsOk : Instr → Bool
  | .cidx2 _ _ e => e != 0
  | .cidx3 _ _ e1 e0 => e1 != 0 && e0 != 0
  | .shli h s | .shri h s | .srai h s => s.toNat < h.ty.width
  | .bfx _ len pos | .bfi _ len pos => pos.toNat + len.toNat + 1 ≤ 32
  | .cmpeq _ imm v | .cmpne _ imm v | .cmplt _ imm v | .cmple _ imm v | .cmpgt _ imm v | .cmpge _ imm v
  | .testz _ imm v => imm || v = 0
  | .const h imm => constOk h.ty imm
  | .enter _ idx imm n => if imm then idx.toNat ≤ n.toNat else idx = 0
  | .tagrd _ w off sel => sel != 7 && (if sel = 4 then off.toNat + w.toNat + 1 ≤ 44 else off = 0 && w = 0)
  | .tagwr _ w off => off.toNat + w.toNat + 1 ≤ 44
  | .fcmpeq h l | .fcmpne h l | .fcmplt h l | .fcmple h l | .fcmpun h l => l.toNat < h.ty.lanes
  | .fcvt h amx sat _ areg lane src =>
    match Ty.ofBits src with
    | some t => convertible t h.ty && (h.ty.isFloat || !sat) && (t.isFloat || !amx) && (amx || areg = 0) &&
        (if t.lanes ≤ h.ty.lanes then lane = 0 else lane.toNat < t.lanes / h.ty.lanes)
    | none => false
  | .fcvtp h sat _ src =>
    match Ty.ofBits src with
    | some t => convertible t h.ty && (h.ty.isFloat || !sat) && h.ty.lanes = 2 * t.lanes
    | none => false
  | .fcvtx h sat _ pos lane src =>
    match Ty.ofBits src with
    | some t => convertible t h.ty && (h.ty.isFloat || !sat) && lane.toNat < t.lanes && pos.toNat < h.ty.lanes
    | none => false
  | .reconf h _ _ => match h.t0 with | some t => t.slot = .a | none => false
  | .lds _ _ nb _ wf _ _ | .ldsp _ _ nb _ wf _ _ => !(nb && wf)
  | .strm _ sw _ _ => sw.toNat < 24
  | .strmw _ _ sw _ _ => sw.toNat < 24
  | .sred h sat rm _ sw => sw.toNat < 24 && (if h.ty.isFloat then !sat else rm = .rne)
  | .sscan h sat rm _ sw => sw.toNat + 1 + Nat.log2 h.ty.lanes ≤ 24 && (if h.ty.isFloat then !sat else rm = .rne)
  | .szip _ _ sw => sw.toNat < 24
  | .rdly _ _ _ sw => sw.toNat < 24
  | .rmax _ _ sw => sw.toNat < 24
  | .rsumx _ _ _ sw | .rsqs _ _ _ sw => sw.toNat < 24
  | .rrel _ _ tgt => tgt.toNat ≤ 4
  | .wload _ _ _ gsz wfmt => wfmt.toNat ≤ 5 && gsz != 3 && (gsz = 0 || wfmt.toNat < 2)
  | .mmac _ _ sw _ _ => sw.toNat < 24
  | .mdrain _ _ sw _ _ => sw.toNat < 24
  | .publish _ sc _ _ | .await _ sc _ _ => sc = .pkg || sc = .sys
  | .call _ _ _ _ ent _ => ent != 0
  | .eret _ act => act != 3
  | .crrd _ n => crKnown n
  | .crwr _ n => crWritable n
  | .codepub _ sc _ _ _ | .fetchsync _ sc _ => sc = .pkg || sc = .sys
  | .baseInstruction w comp => if comp then w.toNat < 2 ^ 16 && w.toNat % 4 != 3 else w.toNat % 4 = 3
  | _ => true

/-- A well-formed instruction: a word that is not illegal under rules 3 to 7 of R76. -/
def Instr.wellFormed (i : Instr) : Bool := i.typeOk && i.targetsOk && i.pmOk && i.limitsOk

end Sys2Proof
end

