-- ==== Sys2Proof/Decode.lean ====
section
/-! DEFINITION. Decoding and encoding of instruction words (R69 to R77, R224, R233). -/

namespace Sys2Proof

/-- The rounding mode of a code of R44; codes 5 to 7 are reserved. -/
def Rnd.ofBits (b : BitVec 3) : Option Rnd :=
  if b = 0 then some .rne else if b = 1 then some .rz else if b = 2 then some .ru else if b = 3 then some .rd
  else if b = 4 then some .rna else none

/-- The scope of a code of R73; codes 5 to 7 are reserved. -/
def Scope.ofBits (b : BitVec 3) : Option Scope :=
  if b = 0 then some .blk else if b = 1 then some .barn else if b = 2 then some .die else if b = 3 then some .pkg
  else if b = 4 then some .sys else none

/-- The predicate match of a code of R69. -/
def PredMatch.ofBits (b : BitVec 2) : PredMatch :=
  if b = 0 then .always else if b = 1 then .whenTrue else if b = 2 then .whenFalse else .either

/-- The slot of a code of R70. -/
def Slot.ofBits (b : BitVec 2) : Slot :=
  if b = 0 then .a else if b = 1 then .b else if b = 2 then .c else .p

/-- A target field (R70): 0x1FF names no target. -/
def Target.decode (b : BitVec 9) : Option Target :=
  if b = 0x1FF then none else some ⟨b.extractLsb' 2 7, Slot.ofBits (b.extractLsb' 0 2)⟩

/-- The field that names a target (R70). -/
def Target.encode : Option Target → BitVec 9
  | none => 0x1FF
  | some t => t.idx ++ t.slot.toBits

/-- The fields of an instruction word (R69). -/
structure Fields where
  grp : BitVec 4
  fn  : BitVec 6
  pm  : BitVec 2
  ty  : BitVec 4
  q   : BitVec 8
  t0  : BitVec 9
  t1  : BitVec 9
  x   : BitVec 22
  deriving DecidableEq, Repr

/-- The fields of a word (R69). -/
def Fields.ofWord (w : DWord) : Fields :=
  { grp := w.extractLsb' 60 4, fn := w.extractLsb' 54 6, pm := w.extractLsb' 52 2, ty := w.extractLsb' 48 4,
    q := w.extractLsb' 40 8, t0 := w.extractLsb' 31 9, t1 := w.extractLsb' 22 9, x := w.extractLsb' 0 22 }

/-- The word of its fields (R69). -/
def Fields.toWord (f : Fields) : DWord := f.grp ++ f.fn ++ f.pm ++ f.ty ++ f.q ++ f.t0 ++ f.t1 ++ f.x

/-- The common fields of a word; none for the reserved type code 0xF. -/
def Fields.hdr? (f : Fields) : Option Hdr :=
  (Ty.ofBits f.ty).map fun ty => { pm := .ofBits f.pm, ty, t0 := Target.decode f.t0, t1 := Target.decode f.t1 }

/-- The fields of a word with header `h`. -/
def Hdr.fields (h : Hdr) (grp : BitVec 4) (fn : BitVec 6) (q : BitVec 8) (x : BitVec 22) : Fields :=
  { grp, fn, pm := h.pm.toBits, ty := h.ty.toBits, q, t0 := Target.encode h.t0, t1 := Target.encode h.t1, x }

/-- The words of group 0x0 by their function codes (R74). -/
def decodeGroup0 (f : Fields) (h : Hdr) : Option Instr :=
  match f.fn.toNat with
  | 0x00 =>
    if f.q.extractLsb' 4 4 = 0 ∧ f.q.extractLsb' 0 3 = 0 ∧ f.x.extractLsb' 0 22 = 0 then some (.add h (f.q.getLsbD 3)) else none
  | 0x01 =>
    if f.q.extractLsb' 4 4 = 0 ∧ f.q.extractLsb' 0 3 = 0 ∧ f.x.extractLsb' 0 22 = 0 then some (.sub h (f.q.getLsbD 3)) else none
  | 0x02 =>
    if f.q.extractLsb' 4 4 = 0 ∧ f.q.extractLsb' 0 3 = 0 ∧ f.x.extractLsb' 0 22 = 0 then some (.mul h (f.q.getLsbD 3)) else none
  | 0x03 =>
    if f.q.extractLsb' 0 8 = 0 ∧ f.x.extractLsb' 0 22 = 0 then some (.mulh h) else none
  | 0x04 =>
    if f.q.extractLsb' 4 4 = 0 ∧ f.q.extractLsb' 0 3 = 0 ∧ f.x.extractLsb' 0 22 = 0 then some (.mad h (f.q.getLsbD 3)) else none
  | 0x05 =>
    if f.q.extractLsb' 4 4 = 0 ∧ f.q.extractLsb' 0 3 = 0 ∧ f.x.extractLsb' 0 22 = 0 then some (.neg h (f.q.getLsbD 3)) else none
  | 0x06 =>
    if f.q.extractLsb' 4 4 = 0 ∧ f.q.extractLsb' 0 3 = 0 ∧ f.x.extractLsb' 0 22 = 0 then some (.abs h (f.q.getLsbD 3)) else none
  | 0x07 =>
    if f.q.extractLsb' 0 8 = 0 ∧ f.x.extractLsb' 0 22 = 0 then some (.min h) else none
  | 0x08 =>
    if f.q.extractLsb' 0 8 = 0 ∧ f.x.extractLsb' 0 22 = 0 then some (.max h) else none
  | 0x09 =>
    if f.q.extractLsb' 4 4 = 0 ∧ f.q.extractLsb' 0 3 = 0 then some (.addi h (f.q.getLsbD 3) (f.x.extractLsb' 0 22)) else none
  | 0x0A =>
    if f.q.extractLsb' 4 4 = 0 ∧ f.q.extractLsb' 0 3 = 0 then some (.muli h (f.q.getLsbD 3) (f.x.extractLsb' 0 22)) else none
  | 0x0B =>
    if f.q.extractLsb' 0 8 = 0 then some (.lea h (f.x.extractLsb' 3 19) (f.x.extractLsb' 0 3)) else none
  | 0x0C =>
    if f.q.extractLsb' 4 4 = 0 ∧ f.q.extractLsb' 0 3 = 0 then some (.cidx2 h (f.q.getLsbD 3) (f.x.extractLsb' 0 22)) else none
  | 0x0D =>
    if f.q.extractLsb' 4 4 = 0 ∧ f.q.extractLsb' 0 3 = 0 then some (.cidx3 h (f.q.getLsbD 3) (f.x.extractLsb' 11 11) (f.x.extractLsb' 0 11)) else none
  | 0x0E =>
    if f.q.extractLsb' 4 4 = 0 ∧ f.q.extractLsb' 0 3 = 0 ∧ f.x.extractLsb' 0 22 = 0 then some (.dot4 h (f.q.getLsbD 3)) else none
  | 0x0F =>
    if f.q.extractLsb' 0 8 = 0 ∧ f.x.extractLsb' 0 22 = 0 then some (.absd h) else none
  | 0x10 =>
    if f.q.extractLsb' 4 4 = 0 ∧ f.q.extractLsb' 0 3 = 0 ∧ f.x.extractLsb' 0 22 = 0 then some (.div h (f.q.getLsbD 3)) else none
  | 0x11 =>
    if f.q.extractLsb' 0 8 = 0 ∧ f.x.extractLsb' 0 22 = 0 then some (.rem h) else none
  | _ => none

/-- The words of group 0x1 by their function codes (R74). -/
def decodeGroup1 (f : Fields) (h : Hdr) : Option Instr :=
  match f.fn.toNat with
  | 0x00 =>
    if f.q.extractLsb' 0 8 = 0 ∧ f.x.extractLsb' 0 22 = 0 then some (.and h) else none
  | 0x01 =>
    if f.q.extractLsb' 0 8 = 0 ∧ f.x.extractLsb' 0 22 = 0 then some (.or h) else none
  | 0x02 =>
    if f.q.extractLsb' 0 8 = 0 ∧ f.x.extractLsb' 0 22 = 0 then some (.xor h) else none
  | 0x03 =>
    if f.q.extractLsb' 0 8 = 0 ∧ f.x.extractLsb' 0 22 = 0 then some (.andn h) else none
  | 0x04 =>
    if f.q.extractLsb' 0 8 = 0 ∧ f.x.extractLsb' 0 22 = 0 then some (.not h) else none
  | 0x05 =>
    if f.q.extractLsb' 0 8 = 0 ∧ f.x.extractLsb' 0 22 = 0 then some (.shl h) else none
  | 0x06 =>
    if f.q.extractLsb' 0 8 = 0 ∧ f.x.extractLsb' 0 22 = 0 then some (.shr h) else none
  | 0x07 =>
    if f.q.extractLsb' 0 8 = 0 ∧ f.x.extractLsb' 0 22 = 0 then some (.sra h) else none
  | 0x08 =>
    if f.q.extractLsb' 0 8 = 0 ∧ f.x.extractLsb' 0 22 = 0 then some (.rol h) else none
  | 0x09 =>
    if f.q.extractLsb' 0 8 = 0 ∧ f.x.extractLsb' 0 22 = 0 then some (.ror h) else none
  | 0x0A =>
    if f.q.extractLsb' 0 8 = 0 ∧ f.x.extractLsb' 5 17 = 0 then some (.shli h (f.x.extractLsb' 0 5)) else none
  | 0x0B =>
    if f.q.extractLsb' 0 8 = 0 ∧ f.x.extractLsb' 5 17 = 0 then some (.shri h (f.x.extractLsb' 0 5)) else none
  | 0x0C =>
    if f.q.extractLsb' 0 8 = 0 ∧ f.x.extractLsb' 5 17 = 0 then some (.srai h (f.x.extractLsb' 0 5)) else none
  | 0x0D =>
    if f.q.extractLsb' 0 8 = 0 ∧ f.x.extractLsb' 10 12 = 0 then some (.bfx h (f.x.extractLsb' 5 5) (f.x.extractLsb' 0 5)) else none
  | 0x0E =>
    if f.q.extractLsb' 0 8 = 0 ∧ f.x.extractLsb' 10 12 = 0 then some (.bfi h (f.x.extractLsb' 5 5) (f.x.extractLsb' 0 5)) else none
  | 0x0F =>
    if f.q.extractLsb' 0 8 = 0 ∧ f.x.extractLsb' 0 22 = 0 then some (.popc h) else none
  | 0x10 =>
    if f.q.extractLsb' 0 8 = 0 ∧ f.x.extractLsb' 0 22 = 0 then some (.clz h) else none
  | 0x11 =>
    if f.q.extractLsb' 0 8 = 0 ∧ f.x.extractLsb' 0 22 = 0 then some (.ctz h) else none
  | 0x12 =>
    if f.q.extractLsb' 0 8 = 0 ∧ f.x.extractLsb' 0 22 = 0 then some (.brev h) else none
  | 0x13 =>
    if f.q.extractLsb' 0 8 = 0 ∧ f.x.extractLsb' 16 6 = 0 then some (.prmt h (f.x.extractLsb' 0 16)) else none
  | _ => none

/-- The words of group 0x2 by their function codes (R74). -/
def decodeGroup2 (f : Fields) (h : Hdr) : Option Instr :=
  match f.fn.toNat with
  | 0x00 =>
    if f.q.extractLsb' 0 8 = 0 then some (.cmpeq h (f.x.getLsbD 21) (f.x.extractLsb' 0 21)) else none
  | 0x01 =>
    if f.q.extractLsb' 0 8 = 0 then some (.cmpne h (f.x.getLsbD 21) (f.x.extractLsb' 0 21)) else none
  | 0x02 =>
    if f.q.extractLsb' 0 8 = 0 then some (.cmplt h (f.x.getLsbD 21) (f.x.extractLsb' 0 21)) else none
  | 0x03 =>
    if f.q.extractLsb' 0 8 = 0 then some (.cmple h (f.x.getLsbD 21) (f.x.extractLsb' 0 21)) else none
  | 0x04 =>
    if f.q.extractLsb' 0 8 = 0 then some (.cmpgt h (f.x.getLsbD 21) (f.x.extractLsb' 0 21)) else none
  | 0x05 =>
    if f.q.extractLsb' 0 8 = 0 then some (.cmpge h (f.x.getLsbD 21) (f.x.extractLsb' 0 21)) else none
  | 0x06 =>
    if f.q.extractLsb' 0 8 = 0 ∧ f.x.extractLsb' 0 22 = 0 then some (.pand h) else none
  | 0x07 =>
    if f.q.extractLsb' 0 8 = 0 ∧ f.x.extractLsb' 0 22 = 0 then some (.por h) else none
  | 0x08 =>
    if f.q.extractLsb' 0 8 = 0 ∧ f.x.extractLsb' 0 22 = 0 then some (.pxor h) else none
  | 0x09 =>
    if f.q.extractLsb' 0 8 = 0 ∧ f.x.extractLsb' 0 22 = 0 then some (.pandn h) else none
  | 0x0A =>
    if f.q.extractLsb' 0 8 = 0 ∧ f.x.extractLsb' 0 22 = 0 then some (.pnot h) else none
  | 0x0B =>
    if f.q.extractLsb' 0 8 = 0 ∧ f.x.extractLsb' 0 22 = 0 then some (.select h) else none
  | 0x0C =>
    if f.q.extractLsb' 0 8 = 0 then some (.testz h (f.x.getLsbD 21) (f.x.extractLsb' 0 21)) else none
  | _ => none

/-- The words of group 0x3 by their function codes (R74). -/
def decodeGroup3 (f : Fields) (h : Hdr) : Option Instr :=
  match f.fn.toNat with
  | 0x00 =>
    if f.q.extractLsb' 0 8 = 0 ∧ f.x.extractLsb' 0 13 = 0 then some (.mov h (Target.decode (f.x.extractLsb' 13 9))) else none
  | 0x01 =>
    if f.q.extractLsb' 0 8 = 0 then some (.const h (f.x.extractLsb' 0 22)) else none
  | 0x02 =>
    if f.q.extractLsb' 0 8 = 0 ∧ f.x.extractLsb' 0 22 = 0 then some (.lit h) else none
  | 0x03 =>
    if f.q.extractLsb' 0 8 = 0 ∧ f.x.extractLsb' 0 22 = 0 then some (.switch h) else none
  | 0x04 =>
    if f.q.extractLsb' 0 8 = 0 ∧ f.x.extractLsb' 0 22 = 0 then some (.merge h) else none
  | 0x05 =>
    if f.q.extractLsb' 0 8 = 0 ∧ f.x.extractLsb' 0 22 = 0 then some (.gate h) else none
  | 0x06 =>
    if f.q.extractLsb' 0 8 = 0 ∧ f.x.extractLsb' 1 21 = 0 then some (.sync h (f.x.getLsbD 0)) else none
  | 0x07 =>
    if f.q.extractLsb' 0 8 = 0 ∧ f.x.extractLsb' 0 22 = 0 then some (.drop h) else none
  | 0x08 =>
    if f.q.extractLsb' 0 8 = 0 ∧ f.x.extractLsb' 0 22 = 0 then some (.null h) else none
  | _ => none

/-- The words of group 0x4 by their function codes (R74). -/
def decodeGroup4 (f : Fields) (h : Hdr) : Option Instr :=
  match f.fn.toNat with
  | 0x00 =>
    if f.q.extractLsb' 0 8 = 0 ∧ f.x.extractLsb' 9 13 = 0 then some (.alloc h (f.x.extractLsb' 0 9)) else none
  | 0x01 =>
    if f.q.extractLsb' 0 8 = 0 ∧ f.x.extractLsb' 0 22 = 0 then some (.free h) else none
  | 0x02 =>
    if f.q.extractLsb' 0 8 = 0 ∧ f.x.extractLsb' 17 5 = 0 then some (.enter h (f.x.extractLsb' 9 8) (f.x.getLsbD 8) (f.x.extractLsb' 0 8)) else none
  | 0x03 =>
    if f.q.extractLsb' 0 8 = 0 ∧ f.x.extractLsb' 8 14 = 0 then some (.leave h (f.x.extractLsb' 0 8)) else none
  | 0x04 =>
    if f.q.extractLsb' 0 8 = 0 ∧ f.x.extractLsb' 13 9 = 0 then some (.tagrd h (f.x.extractLsb' 9 4) (f.x.extractLsb' 3 6) (f.x.extractLsb' 0 3)) else none
  | 0x05 =>
    if f.q.extractLsb' 0 8 = 0 ∧ f.x.extractLsb' 13 9 = 0 ∧ f.x.extractLsb' 0 3 = 4 then some (.tagwr h (f.x.extractLsb' 9 4) (f.x.extractLsb' 3 6)) else none
  | _ => none

/-- The words of group 0x5 by their function codes (R74). -/
def decodeGroup5 (f : Fields) (h : Hdr) : Option Instr :=
  match f.fn.toNat with
  | 0x00 =>
    if f.q.extractLsb' 4 4 = 0 ∧ f.x.extractLsb' 0 22 = 0 then (Rnd.ofBits (f.q.extractLsb' 0 3)).bind fun rm => some (.fadd h (f.q.getLsbD 3) rm) else none
  | 0x01 =>
    if f.q.extractLsb' 4 4 = 0 ∧ f.x.extractLsb' 0 22 = 0 then (Rnd.ofBits (f.q.extractLsb' 0 3)).bind fun rm => some (.fsub h (f.q.getLsbD 3) rm) else none
  | 0x02 =>
    if f.q.extractLsb' 4 4 = 0 ∧ f.x.extractLsb' 0 22 = 0 then (Rnd.ofBits (f.q.extractLsb' 0 3)).bind fun rm => some (.fmul h (f.q.getLsbD 3) rm) else none
  | 0x03 =>
    if f.q.extractLsb' 4 4 = 0 ∧ f.x.extractLsb' 0 22 = 0 then (Rnd.ofBits (f.q.extractLsb' 0 3)).bind fun rm => some (.ffma h (f.q.getLsbD 3) rm) else none
  | 0x04 =>
    if f.q.extractLsb' 4 4 = 0 ∧ f.x.extractLsb' 0 22 = 0 then (Rnd.ofBits (f.q.extractLsb' 0 3)).bind fun rm => some (.ffms h (f.q.getLsbD 3) rm) else none
  | 0x05 =>
    if f.q.extractLsb' 0 8 = 0 ∧ f.x.extractLsb' 0 22 = 0 then some (.fmin h) else none
  | 0x06 =>
    if f.q.extractLsb' 0 8 = 0 ∧ f.x.extractLsb' 0 22 = 0 then some (.fmax h) else none
  | 0x07 =>
    if f.q.extractLsb' 0 8 = 0 ∧ f.x.extractLsb' 0 22 = 0 then some (.fabs h) else none
  | 0x08 =>
    if f.q.extractLsb' 0 8 = 0 ∧ f.x.extractLsb' 0 22 = 0 then some (.fneg h) else none
  | 0x09 =>
    if f.q.extractLsb' 0 8 = 0 ∧ f.x.extractLsb' 0 22 = 0 then some (.fcpys h) else none
  | 0x0A =>
    if f.q.extractLsb' 0 8 = 0 ∧ f.x.extractLsb' 3 19 = 0 then some (.fcmpeq h (f.x.extractLsb' 0 3)) else none
  | 0x0B =>
    if f.q.extractLsb' 0 8 = 0 ∧ f.x.extractLsb' 3 19 = 0 then some (.fcmpne h (f.x.extractLsb' 0 3)) else none
  | 0x0C =>
    if f.q.extractLsb' 0 8 = 0 ∧ f.x.extractLsb' 3 19 = 0 then some (.fcmplt h (f.x.extractLsb' 0 3)) else none
  | 0x0D =>
    if f.q.extractLsb' 0 8 = 0 ∧ f.x.extractLsb' 3 19 = 0 then some (.fcmple h (f.x.extractLsb' 0 3)) else none
  | 0x0E =>
    if f.q.extractLsb' 0 8 = 0 ∧ f.x.extractLsb' 3 19 = 0 then some (.fcmpun h (f.x.extractLsb' 0 3)) else none
  | 0x0F =>
    if f.q.extractLsb' 4 4 = 0 ∧ f.x.extractLsb' 0 22 = 0 then (Rnd.ofBits (f.q.extractLsb' 0 3)).bind fun rm => some (.fdot2 h (f.q.getLsbD 3) rm) else none
  | _ => none

/-- The words of group 0x6 by their function codes (R74). -/
def decodeGroup6 (f : Fields) (h : Hdr) : Option Instr :=
  match f.fn.toNat with
  | 0x00 =>
    if f.q.extractLsb' 5 3 = 0 ∧ f.x.extractLsb' 14 8 = 0 ∧ f.x.extractLsb' 7 3 = 0 then (Rnd.ofBits (f.q.extractLsb' 0 3)).bind fun rm => some (.fcvt h (f.q.getLsbD 4) (f.q.getLsbD 3) rm (f.x.extractLsb' 10 4) (f.x.extractLsb' 4 3) (f.x.extractLsb' 0 4)) else none
  | 0x01 =>
    if f.q.extractLsb' 4 4 = 0 ∧ f.x.extractLsb' 4 18 = 0 then (Rnd.ofBits (f.q.extractLsb' 0 3)).bind fun rm => some (.fcvtp h (f.q.getLsbD 3) rm (f.x.extractLsb' 0 4)) else none
  | 0x02 =>
    if f.q.extractLsb' 4 4 = 0 ∧ f.x.extractLsb' 10 12 = 0 then (Rnd.ofBits (f.q.extractLsb' 0 3)).bind fun rm => some (.fcvtx h (f.q.getLsbD 3) rm (f.x.extractLsb' 7 3) (f.x.extractLsb' 4 3) (f.x.extractLsb' 0 4)) else none
  | 0x03 =>
    if f.q.extractLsb' 3 5 = 0 ∧ f.x.extractLsb' 0 22 = 0 then (Rnd.ofBits (f.q.extractLsb' 0 3)).bind fun rm => some (.frnd h rm) else none
  | 0x04 =>
    if f.q.extractLsb' 4 4 = 0 ∧ f.x.extractLsb' 1 21 = 0 then (Rnd.ofBits (f.q.extractLsb' 0 3)).bind fun rm => some (.fldexp h (f.q.getLsbD 3) rm (f.x.getLsbD 0)) else none
  | 0x05 =>
    if f.q.extractLsb' 0 8 = 0 ∧ f.x.extractLsb' 0 22 = 0 then some (.fgetexp h) else none
  | 0x06 =>
    if f.q.extractLsb' 4 4 = 0 ∧ f.x.extractLsb' 0 22 = 0 then (Rnd.ofBits (f.q.extractLsb' 0 3)).bind fun rm => some (.reconf h (f.q.getLsbD 3) rm) else none
  | _ => none

/-- The words of group 0x7 by their function codes (R74). -/
def decodeGroup7 (f : Fields) (h : Hdr) : Option Instr :=
  match f.fn.toNat with
  | 0x00 =>
    if f.q.extractLsb' 0 8 = 0 ∧ f.x.extractLsb' 0 22 = 0 then some (.fexp2f h) else none
  | 0x01 =>
    if f.q.extractLsb' 0 8 = 0 ∧ f.x.extractLsb' 0 22 = 0 then some (.flog2 h) else none
  | 0x02 =>
    if f.q.extractLsb' 0 8 = 0 ∧ f.x.extractLsb' 0 22 = 0 then some (.frcp h) else none
  | 0x03 =>
    if f.q.extractLsb' 0 8 = 0 ∧ f.x.extractLsb' 0 22 = 0 then some (.frsq h) else none
  | 0x04 =>
    if f.q.extractLsb' 3 5 = 0 ∧ f.x.extractLsb' 0 22 = 0 then (Rnd.ofBits (f.q.extractLsb' 0 3)).bind fun rm => some (.fsqrt h rm) else none
  | 0x05 =>
    if f.q.extractLsb' 0 8 = 0 ∧ f.x.extractLsb' 0 22 = 0 then some (.fsin2 h) else none
  | 0x06 =>
    if f.q.extractLsb' 0 8 = 0 ∧ f.x.extractLsb' 0 22 = 0 then some (.fcos2 h) else none
  | _ => none

/-- The words of group 0x8 by their function codes (R74). -/
def decodeGroup8 (f : Fields) (h : Hdr) : Option Instr :=
  match f.fn.toNat with
  | 0x00 =>
    if f.q.extractLsb' 0 4 = 0 then (Scope.ofBits (f.q.extractLsb' 5 3)).bind fun sc => some (.ldb h sc (f.q.getLsbD 4) (Target.decode (f.x.extractLsb' 13 9)) (f.x.extractLsb' 9 4) (f.x.extractLsb' 0 9)) else none
  | 0x01 =>
    if f.q.extractLsb' 0 4 = 0 then (Scope.ofBits (f.q.extractLsb' 5 3)).bind fun sc => some (.ldh h sc (f.q.getLsbD 4) (Target.decode (f.x.extractLsb' 13 9)) (f.x.extractLsb' 9 4) (f.x.extractLsb' 0 9)) else none
  | 0x02 =>
    if f.q.extractLsb' 0 4 = 0 then (Scope.ofBits (f.q.extractLsb' 5 3)).bind fun sc => some (.ld h sc (f.q.getLsbD 4) (Target.decode (f.x.extractLsb' 13 9)) (f.x.extractLsb' 9 4) (f.x.extractLsb' 0 9)) else none
  | 0x03 =>
    if f.q.extractLsb' 0 4 = 0 then (Scope.ofBits (f.q.extractLsb' 5 3)).bind fun sc => some (.ldp h sc (f.q.getLsbD 4) (Target.decode (f.x.extractLsb' 13 9)) (f.x.extractLsb' 9 4) (f.x.extractLsb' 0 9)) else none
  | 0x04 =>
    if f.q.extractLsb' 4 1 = 0 ∧ f.q.extractLsb' 0 3 = 0 then (Scope.ofBits (f.q.extractLsb' 5 3)).bind fun sc => some (.stb h sc (f.q.getLsbD 3) (Target.decode (f.x.extractLsb' 13 9)) (f.x.extractLsb' 9 4) (f.x.extractLsb' 0 9)) else none
  | 0x05 =>
    if f.q.extractLsb' 4 1 = 0 ∧ f.q.extractLsb' 0 3 = 0 then (Scope.ofBits (f.q.extractLsb' 5 3)).bind fun sc => some (.sth h sc (f.q.getLsbD 3) (Target.decode (f.x.extractLsb' 13 9)) (f.x.extractLsb' 9 4) (f.x.extractLsb' 0 9)) else none
  | 0x06 =>
    if f.q.extractLsb' 4 1 = 0 ∧ f.q.extractLsb' 0 3 = 0 then (Scope.ofBits (f.q.extractLsb' 5 3)).bind fun sc => some (.st h sc (f.q.getLsbD 3) (Target.decode (f.x.extractLsb' 13 9)) (f.x.extractLsb' 9 4) (f.x.extractLsb' 0 9)) else none
  | 0x07 =>
    if f.q.extractLsb' 4 1 = 0 ∧ f.q.extractLsb' 0 3 = 0 then (Scope.ofBits (f.q.extractLsb' 5 3)).bind fun sc => some (.stp h sc (f.q.getLsbD 3) (Target.decode (f.x.extractLsb' 13 9)) (f.x.extractLsb' 9 4) (f.x.extractLsb' 0 9)) else none
  | 0x08 =>
    if f.q.extractLsb' 0 5 = 0 then (Scope.ofBits (f.q.extractLsb' 5 3)).bind fun sc => some (.prefetch h sc (Target.decode (f.x.extractLsb' 13 9)) (f.x.extractLsb' 9 4) (f.x.extractLsb' 0 9)) else none
  | _ => none

/-- The words of group 0x9 by their function codes (R74). -/
def decodeGroup9 (f : Fields) (h : Hdr) : Option Instr :=
  match f.fn.toNat with
  | 0x00 =>
    if f.q.extractLsb' 3 2 = 0 then (Scope.ofBits (f.q.extractLsb' 5 3)).bind fun sc => some (.lds h sc (f.q.getLsbD 2) (f.q.getLsbD 1) (f.q.getLsbD 0) (Target.decode (f.x.extractLsb' 13 9)) (f.x.extractLsb' 0 13)) else none
  | 0x01 =>
    if f.q.extractLsb' 1 4 = 0 then (Scope.ofBits (f.q.extractLsb' 5 3)).bind fun sc => some (.sts h sc (f.q.getLsbD 0) (Target.decode (f.x.extractLsb' 13 9)) (f.x.extractLsb' 0 13)) else none
  | 0x02 =>
    if f.q.extractLsb' 3 2 = 0 then (Scope.ofBits (f.q.extractLsb' 5 3)).bind fun sc => some (.ldsp h sc (f.q.getLsbD 2) (f.q.getLsbD 1) (f.q.getLsbD 0) (Target.decode (f.x.extractLsb' 13 9)) (f.x.extractLsb' 0 13)) else none
  | 0x03 =>
    if f.q.extractLsb' 1 4 = 0 then (Scope.ofBits (f.q.extractLsb' 5 3)).bind fun sc => some (.stsp h sc (f.q.getLsbD 0) (Target.decode (f.x.extractLsb' 13 9)) (f.x.extractLsb' 0 13)) else none
  | 0x04 =>
    if f.q.extractLsb' 1 4 = 0 then (Scope.ofBits (f.q.extractLsb' 5 3)).bind fun sc => some (.pset h sc (f.q.getLsbD 0) (Target.decode (f.x.extractLsb' 13 9)) (f.x.extractLsb' 0 13)) else none
  | 0x05 =>
    if f.q.extractLsb' 0 5 = 0 then (Scope.ofBits (f.q.extractLsb' 5 3)).bind fun sc => some (.pclr h sc (Target.decode (f.x.extractLsb' 13 9)) (f.x.extractLsb' 0 13)) else none
  | 0x06 =>
    if f.q.extractLsb' 0 4 = 0 then (Scope.ofBits (f.q.extractLsb' 5 3)).bind fun sc => some (.ptest h sc (f.q.getLsbD 4) (Target.decode (f.x.extractLsb' 13 9)) (f.x.extractLsb' 0 13)) else none
  | _ => none

/-- The words of group 0xA by their function codes (R74). -/
def decodeGroupA (f : Fields) (h : Hdr) : Option Instr :=
  match f.fn.toNat with
  | 0x00 =>
    if f.q.extractLsb' 0 5 = 0 ∧ f.x.extractLsb' 6 7 = 0 then (Scope.ofBits (f.q.extractLsb' 5 3)).bind fun sc => some (.ldt h sc (Target.decode (f.x.extractLsb' 13 9)) (f.x.extractLsb' 0 6)) else none
  | 0x01 =>
    if f.q.extractLsb' 0 5 = 0 ∧ f.x.extractLsb' 6 7 = 0 then (Scope.ofBits (f.q.extractLsb' 5 3)).bind fun sc => some (.stt h sc (Target.decode (f.x.extractLsb' 13 9)) (f.x.extractLsb' 0 6)) else none
  | 0x02 =>
    if f.q.extractLsb' 0 8 = 0 ∧ f.x.extractLsb' 17 5 = 0 then some (.strm h (f.x.extractLsb' 12 5) (f.x.extractLsb' 6 6) (f.x.extractLsb' 0 6)) else none
  | 0x03 =>
    if f.q.extractLsb' 0 5 = 0 ∧ f.x.extractLsb' 17 5 = 0 then (Scope.ofBits (f.q.extractLsb' 5 3)).bind fun sc => some (.strmw h sc (f.x.extractLsb' 12 5) (f.x.extractLsb' 6 6) (f.x.extractLsb' 0 6)) else none
  | 0x04 =>
    if f.q.extractLsb' 4 4 = 0 ∧ f.x.extractLsb' 6 16 = 0 then (Rnd.ofBits (f.q.extractLsb' 0 3)).bind fun rm => some (.sred h (f.q.getLsbD 3) rm (f.x.getLsbD 5) (f.x.extractLsb' 0 5)) else none
  | 0x05 =>
    if f.q.extractLsb' 4 4 = 0 ∧ f.x.extractLsb' 6 16 = 0 then (Rnd.ofBits (f.q.extractLsb' 0 3)).bind fun rm => some (.sscan h (f.q.getLsbD 3) rm (f.x.getLsbD 5) (f.x.extractLsb' 0 5)) else none
  | 0x06 =>
    if f.q.extractLsb' 5 3 = 0 ∧ f.q.extractLsb' 0 4 = 0 ∧ f.x.extractLsb' 5 17 = 0 then some (.szip h (f.q.getLsbD 4) (f.x.extractLsb' 0 5)) else none
  | 0x07 =>
    if f.q.extractLsb' 0 8 = 0 ∧ f.x.extractLsb' 21 1 = 0 then some (.rdly h (f.x.extractLsb' 19 2) (f.x.extractLsb' 5 14) (f.x.extractLsb' 0 5)) else none
  | 0x08 =>
    if f.q.extractLsb' 0 8 = 0 ∧ f.x.extractLsb' 19 3 = 0 then some (.rmax h (f.x.extractLsb' 5 14) (f.x.extractLsb' 0 5)) else none
  | 0x09 =>
    if f.q.extractLsb' 3 5 = 0 ∧ f.x.extractLsb' 19 3 = 0 then (Rnd.ofBits (f.q.extractLsb' 0 3)).bind fun rm => some (.rsumx h rm (f.x.extractLsb' 5 14) (f.x.extractLsb' 0 5)) else none
  | 0x0A =>
    if f.q.extractLsb' 3 5 = 0 ∧ f.x.extractLsb' 19 3 = 0 then (Rnd.ofBits (f.q.extractLsb' 0 3)).bind fun rm => some (.rsqs h rm (f.x.extractLsb' 5 14) (f.x.extractLsb' 0 5)) else none
  | 0x0B =>
    if f.q.extractLsb' 3 5 = 0 ∧ f.x.extractLsb' 3 19 = 0 then (Rnd.ofBits (f.q.extractLsb' 0 3)).bind fun rm => some (.rrel h rm (f.x.extractLsb' 0 3)) else none
  | _ => none

/-- The words of group 0xB by their function codes (R74). -/
def decodeGroupB (f : Fields) (h : Hdr) : Option Instr :=
  match f.fn.toNat with
  | 0x00 =>
    if f.q.extractLsb' 0 3 = 0 then (Scope.ofBits (f.q.extractLsb' 5 3)).bind fun sc => some (.atadd h sc (f.q.getLsbD 4) (f.q.getLsbD 3) (Target.decode (f.x.extractLsb' 13 9)) (f.x.extractLsb' 9 4) (f.x.extractLsb' 0 9)) else none
  | 0x01 =>
    if f.q.extractLsb' 0 3 = 0 then (Scope.ofBits (f.q.extractLsb' 5 3)).bind fun sc => some (.atmin h sc (f.q.getLsbD 4) (f.q.getLsbD 3) (Target.decode (f.x.extractLsb' 13 9)) (f.x.extractLsb' 9 4) (f.x.extractLsb' 0 9)) else none
  | 0x02 =>
    if f.q.extractLsb' 0 3 = 0 then (Scope.ofBits (f.q.extractLsb' 5 3)).bind fun sc => some (.atmax h sc (f.q.getLsbD 4) (f.q.getLsbD 3) (Target.decode (f.x.extractLsb' 13 9)) (f.x.extractLsb' 9 4) (f.x.extractLsb' 0 9)) else none
  | 0x03 =>
    if f.q.extractLsb' 0 3 = 0 then (Scope.ofBits (f.q.extractLsb' 5 3)).bind fun sc => some (.atand h sc (f.q.getLsbD 4) (f.q.getLsbD 3) (Target.decode (f.x.extractLsb' 13 9)) (f.x.extractLsb' 9 4) (f.x.extractLsb' 0 9)) else none
  | 0x04 =>
    if f.q.extractLsb' 0 3 = 0 then (Scope.ofBits (f.q.extractLsb' 5 3)).bind fun sc => some (.ator h sc (f.q.getLsbD 4) (f.q.getLsbD 3) (Target.decode (f.x.extractLsb' 13 9)) (f.x.extractLsb' 9 4) (f.x.extractLsb' 0 9)) else none
  | 0x05 =>
    if f.q.extractLsb' 0 3 = 0 then (Scope.ofBits (f.q.extractLsb' 5 3)).bind fun sc => some (.atxor h sc (f.q.getLsbD 4) (f.q.getLsbD 3) (Target.decode (f.x.extractLsb' 13 9)) (f.x.extractLsb' 9 4) (f.x.extractLsb' 0 9)) else none
  | 0x06 =>
    if f.q.extractLsb' 0 3 = 0 then (Scope.ofBits (f.q.extractLsb' 5 3)).bind fun sc => some (.atswap h sc (f.q.getLsbD 4) (f.q.getLsbD 3) (Target.decode (f.x.extractLsb' 13 9)) (f.x.extractLsb' 9 4) (f.x.extractLsb' 0 9)) else none
  | 0x07 =>
    if f.q.extractLsb' 0 3 = 0 then (Scope.ofBits (f.q.extractLsb' 5 3)).bind fun sc => some (.atcas h sc (f.q.getLsbD 4) (f.q.getLsbD 3) (Target.decode (f.x.extractLsb' 13 9)) (f.x.extractLsb' 9 4) (f.x.extractLsb' 0 9)) else none
  | 0x08 =>
    (Scope.ofBits (f.q.extractLsb' 5 3)).bind fun sc => (Rnd.ofBits (f.q.extractLsb' 0 3)).bind fun rm => some (.atfadd h sc (f.q.getLsbD 4) (f.q.getLsbD 3) rm (Target.decode (f.x.extractLsb' 13 9)) (f.x.extractLsb' 9 4) (f.x.extractLsb' 0 9))
  | 0x09 =>
    if f.q.extractLsb' 0 3 = 0 then (Scope.ofBits (f.q.extractLsb' 5 3)).bind fun sc => some (.atadd64 h sc (f.q.getLsbD 4) (f.q.getLsbD 3) (Target.decode (f.x.extractLsb' 13 9)) (f.x.extractLsb' 9 4) (f.x.extractLsb' 0 9)) else none
  | 0x0A =>
    if f.q.extractLsb' 0 3 = 0 then (Scope.ofBits (f.q.extractLsb' 5 3)).bind fun sc => some (.atmin64 h sc (f.q.getLsbD 4) (f.q.getLsbD 3) (Target.decode (f.x.extractLsb' 13 9)) (f.x.extractLsb' 9 4) (f.x.extractLsb' 0 9)) else none
  | 0x0B =>
    if f.q.extractLsb' 0 3 = 0 then (Scope.ofBits (f.q.extractLsb' 5 3)).bind fun sc => some (.atmax64 h sc (f.q.getLsbD 4) (f.q.getLsbD 3) (Target.decode (f.x.extractLsb' 13 9)) (f.x.extractLsb' 9 4) (f.x.extractLsb' 0 9)) else none
  | 0x0C =>
    if f.q.extractLsb' 0 3 = 0 then (Scope.ofBits (f.q.extractLsb' 5 3)).bind fun sc => some (.atand64 h sc (f.q.getLsbD 4) (f.q.getLsbD 3) (Target.decode (f.x.extractLsb' 13 9)) (f.x.extractLsb' 9 4) (f.x.extractLsb' 0 9)) else none
  | 0x0D =>
    if f.q.extractLsb' 0 3 = 0 then (Scope.ofBits (f.q.extractLsb' 5 3)).bind fun sc => some (.ator64 h sc (f.q.getLsbD 4) (f.q.getLsbD 3) (Target.decode (f.x.extractLsb' 13 9)) (f.x.extractLsb' 9 4) (f.x.extractLsb' 0 9)) else none
  | 0x0E =>
    if f.q.extractLsb' 0 3 = 0 then (Scope.ofBits (f.q.extractLsb' 5 3)).bind fun sc => some (.atxor64 h sc (f.q.getLsbD 4) (f.q.getLsbD 3) (Target.decode (f.x.extractLsb' 13 9)) (f.x.extractLsb' 9 4) (f.x.extractLsb' 0 9)) else none
  | 0x0F =>
    if f.q.extractLsb' 0 3 = 0 then (Scope.ofBits (f.q.extractLsb' 5 3)).bind fun sc => some (.atswap64 h sc (f.q.getLsbD 4) (f.q.getLsbD 3) (Target.decode (f.x.extractLsb' 13 9)) (f.x.extractLsb' 9 4) (f.x.extractLsb' 0 9)) else none
  | 0x10 =>
    if f.q.extractLsb' 0 3 = 0 then (Scope.ofBits (f.q.extractLsb' 5 3)).bind fun sc => some (.atcas64 h sc (f.q.getLsbD 4) (f.q.getLsbD 3) (Target.decode (f.x.extractLsb' 13 9)) (f.x.extractLsb' 9 4) (f.x.extractLsb' 0 9)) else none
  | 0x11 =>
    if f.q.extractLsb' 0 3 = 0 ∧ f.x.extractLsb' 0 13 = 0 then (Scope.ofBits (f.q.extractLsb' 5 3)).bind fun sc => some (.fence h sc (f.q.getLsbD 4) (f.q.getLsbD 3) (Target.decode (f.x.extractLsb' 13 9))) else none
  | _ => none

/-- The words of group 0xC by their function codes (R74). -/
def decodeGroupC (f : Fields) (h : Hdr) : Option Instr :=
  match f.fn.toNat with
  | 0x00 =>
    if f.q.extractLsb' 0 8 = 0 ∧ f.x.extractLsb' 14 8 = 0 then some (.mregion h (f.x.extractLsb' 10 4) (f.x.extractLsb' 5 5) (f.x.extractLsb' 0 5)) else none
  | 0x01 =>
    if f.q.extractLsb' 0 8 = 0 ∧ f.x.extractLsb' 0 22 = 0 then some (.mfree h) else none
  | 0x02 =>
    if f.q.extractLsb' 0 8 = 0 ∧ f.x.extractLsb' 7 6 = 0 then some (.wload h (Target.decode (f.x.extractLsb' 13 9)) (f.x.getLsbD 6) (f.x.extractLsb' 4 2) (f.x.extractLsb' 0 4)) else none
  | 0x03 =>
    if f.q.extractLsb' 0 8 = 0 ∧ f.x.extractLsb' 0 22 = 0 then some (.wswap h) else none
  | 0x04 =>
    if f.q.extractLsb' 0 8 = 0 ∧ f.x.extractLsb' 13 9 = 0 then some (.mmac h (f.x.getLsbD 12) (f.x.extractLsb' 7 5) (f.x.extractLsb' 1 6) (f.x.getLsbD 0)) else none
  | 0x05 =>
    if f.q.extractLsb' 4 4 = 0 ∧ f.q.extractLsb' 0 3 = 0 ∧ f.x.extractLsb' 10 12 = 0 then some (.mdrain h (f.q.getLsbD 3) (f.x.extractLsb' 5 5) (f.x.getLsbD 4) (f.x.extractLsb' 0 4)) else none
  | 0x06 =>
    if f.q.extractLsb' 0 5 = 0 then (Scope.ofBits (f.q.extractLsb' 5 3)).bind fun sc => some (.ttask h sc (Target.decode (f.x.extractLsb' 13 9)) (f.x.extractLsb' 9 4) (f.x.extractLsb' 0 9)) else none
  | _ => none

/-- The words of group 0xD by their function codes (R74). -/
def decodeGroupD (f : Fields) (h : Hdr) : Option Instr :=
  match f.fn.toNat with
  | 0x00 =>
    if f.q.extractLsb' 0 5 = 0 then (Scope.ofBits (f.q.extractLsb' 5 3)).bind fun sc => some (.cpy h sc (Target.decode (f.x.extractLsb' 13 9)) (f.x.extractLsb' 9 4) (f.x.extractLsb' 0 9)) else none
  | 0x01 =>
    if f.q.extractLsb' 0 5 = 0 then (Scope.ofBits (f.q.extractLsb' 5 3)).bind fun sc => some (.gath h sc (Target.decode (f.x.extractLsb' 13 9)) (f.x.extractLsb' 9 4) (f.x.extractLsb' 0 9)) else none
  | 0x02 =>
    if f.q.extractLsb' 0 5 = 0 then (Scope.ofBits (f.q.extractLsb' 5 3)).bind fun sc => some (.scat h sc (Target.decode (f.x.extractLsb' 13 9)) (f.x.extractLsb' 9 4) (f.x.extractLsb' 0 9)) else none
  | 0x03 =>
    if f.q.extractLsb' 0 5 = 0 then (Scope.ofBits (f.q.extractLsb' 5 3)).bind fun sc => some (.coll h sc (Target.decode (f.x.extractLsb' 13 9)) (f.x.extractLsb' 9 4) (f.x.extractLsb' 0 9)) else none
  | 0x04 =>
    if f.q.extractLsb' 0 5 = 0 ∧ f.x.extractLsb' 6 7 = 0 then (Scope.ofBits (f.q.extractLsb' 5 3)).bind fun sc => some (.publish h sc (Target.decode (f.x.extractLsb' 13 9)) (f.x.extractLsb' 0 6)) else none
  | 0x05 =>
    if f.q.extractLsb' 0 5 = 0 ∧ f.x.extractLsb' 6 7 = 0 then (Scope.ofBits (f.q.extractLsb' 5 3)).bind fun sc => some (.await h sc (Target.decode (f.x.extractLsb' 13 9)) (f.x.extractLsb' 0 6)) else none
  | 0x06 =>
    if f.q.extractLsb' 1 4 = 0 ∧ f.q.extractLsb' 0 1 = 0 ∧ f.x.extractLsb' 0 13 = 0 then (Scope.ofBits (f.q.extractLsb' 5 3)).bind fun sc => some (.roll h sc (Target.decode (f.x.extractLsb' 13 9))) else
    if f.q.extractLsb' 1 4 = 0 ∧ f.q.extractLsb' 0 1 = 1 then (Scope.ofBits (f.q.extractLsb' 5 3)).bind fun sc => some (.rollArr h sc (Target.decode (f.x.extractLsb' 13 9)) (f.x.extractLsb' 9 4) (f.x.extractLsb' 0 9)) else none
  | 0x07 =>
    if f.q.extractLsb' 0 5 = 0 then (Scope.ofBits (f.q.extractLsb' 5 3)).bind fun sc => some (.barwait h sc (Target.decode (f.x.extractLsb' 13 9)) (f.x.extractLsb' 9 4) (f.x.extractLsb' 0 9)) else none
  | 0x08 =>
    if f.q.extractLsb' 0 5 = 0 then (Scope.ofBits (f.q.extractLsb' 5 3)).bind fun sc => some (.barinit h sc (Target.decode (f.x.extractLsb' 13 9)) (f.x.extractLsb' 9 4) (f.x.extractLsb' 0 9)) else none
  | _ => none

/-- The words of group 0xE by their function codes (R74). -/
def decodeGroupE (f : Fields) (h : Hdr) : Option Instr :=
  match f.fn.toNat with
  | 0x00 =>
    if f.q.extractLsb' 0 8 = 0 ∧ f.x.extractLsb' 9 13 = 0 then some (.exit h (f.x.getLsbD 8) (f.x.extractLsb' 4 4) (f.x.extractLsb' 0 4)) else none
  | 0x01 =>
    if f.q.extractLsb' 0 8 = 0 ∧ f.x.extractLsb' 14 8 = 0 then some (.call h (f.x.extractLsb' 10 4) (f.x.getLsbD 9) (f.x.getLsbD 8) (f.x.extractLsb' 4 4) (f.x.extractLsb' 0 4)) else none
  | 0x02 =>
    if f.q.extractLsb' 0 8 = 0 ∧ f.x.extractLsb' 5 17 = 0 then some (.ret h (f.x.getLsbD 4) (f.x.extractLsb' 0 4)) else none
  | 0x03 =>
    if f.q.extractLsb' 0 8 = 0 ∧ f.x.extractLsb' 16 6 = 0 then some (.send h (f.x.getLsbD 15) (f.x.extractLsb' 9 6) (f.x.extractLsb' 6 3) (f.x.extractLsb' 0 6)) else none
  | 0x04 =>
    if f.q.extractLsb' 0 8 = 0 ∧ f.x.extractLsb' 16 6 = 0 then some (.trap h (f.x.extractLsb' 0 16)) else none
  | 0x05 =>
    if f.q.extractLsb' 0 8 = 0 ∧ f.x.extractLsb' 2 20 = 0 then some (.eret h (f.x.extractLsb' 0 2)) else none
  | 0x06 =>
    if f.q.extractLsb' 0 8 = 0 ∧ f.x.extractLsb' 12 10 = 0 then some (.crrd h (f.x.extractLsb' 0 12)) else none
  | 0x07 =>
    if f.q.extractLsb' 0 8 = 0 ∧ f.x.extractLsb' 12 10 = 0 then some (.crwr h (f.x.extractLsb' 0 12)) else none
  | 0x08 =>
    if f.q.extractLsb' 0 8 = 0 ∧ f.x.extractLsb' 8 14 = 0 then some (.gong h (f.x.extractLsb' 0 8)) else none
  | 0x09 =>
    if f.q.extractLsb' 0 5 = 0 then (Scope.ofBits (f.q.extractLsb' 5 3)).bind fun sc => some (.codepub h sc (Target.decode (f.x.extractLsb' 13 9)) (f.x.extractLsb' 9 4) (f.x.extractLsb' 0 9)) else none
  | 0x0A =>
    if f.q.extractLsb' 0 5 = 0 ∧ f.x.extractLsb' 0 13 = 0 then (Scope.ofBits (f.q.extractLsb' 5 3)).bind fun sc => some (.fetchsync h sc (Target.decode (f.x.extractLsb' 13 9))) else none
  | 0x0B =>
    if f.q.extractLsb' 0 5 = 0 then (Scope.ofBits (f.q.extractLsb' 5 3)).bind fun sc => some (.launch h sc (Target.decode (f.x.extractLsb' 13 9)) (f.x.extractLsb' 9 4) (f.x.extractLsb' 0 9)) else none
  | 0x0C =>
    if f.q.extractLsb' 0 8 = 0 ∧ f.x.extractLsb' 6 7 = 0 then some (.lqtake h (Target.decode (f.x.extractLsb' 13 9)) (f.x.extractLsb' 0 6)) else none
  | 0x0D =>
    if f.q.extractLsb' 0 8 = 0 ∧ f.x.extractLsb' 0 22 = 0 then some (.kdone h) else none
  | _ => none

/-- The instruction of an assigned opcode whose reserved bits are zero, before the limits of `wellFormed`. -/
def decodeFields (f : Fields) : Option Instr :=
  f.hdr?.bind fun h =>
    match f.grp.toNat with
    | 0x0 => decodeGroup0 f h | 0x1 => decodeGroup1 f h | 0x2 => decodeGroup2 f h | 0x3 => decodeGroup3 f h
    | 0x4 => decodeGroup4 f h | 0x5 => decodeGroup5 f h | 0x6 => decodeGroup6 f h | 0x7 => decodeGroup7 f h
    | 0x8 => decodeGroup8 f h | 0x9 => decodeGroup9 f h | 0xA => decodeGroupA f h | 0xB => decodeGroupB f h
    | 0xC => decodeGroupC f h | 0xD => decodeGroupD f h | 0xE => decodeGroupE f h | _ => none

/-- The block instruction of a word; none for a word that is illegal under R76. -/
def decodeWord (w : DWord) : Option Instr :=
  (decodeFields (Fields.ofWord w)).bind fun i => if i.wellFormed then some i else none

/-- The block instruction of a word that is defined by an opcode map with ABSD unassigned (R75): what the base part
decodes. -/
def decodeBase (w : DWord) : Option Instr :=
  match decodeWord w with
  | some (.absd _) => none
  | r => r

/-- The core instruction of a 32-bit parcel: the rows of R224, ECALL and EBREAK, else one base instruction. -/
def decodeCore32 (w : Word) : Instr :=
  if w.extractLsb' 25 7 = 0 ∧ w.extractLsb' 12 3 = 0 ∧ w.extractLsb' 11 1 = 0 ∧ w.extractLsb' 0 7 = 11 then .xpush (w.extractLsb' 7 4) (w.extractLsb' 15 5) (w.extractLsb' 20 5) else
  if w.extractLsb' 25 7 = 1 ∧ w.extractLsb' 15 5 = 0 ∧ w.extractLsb' 12 3 = 0 ∧ w.extractLsb' 11 1 = 0 ∧ w.extractLsb' 0 7 = 11 then .xpushe (w.extractLsb' 7 4) (w.extractLsb' 20 5) else
  if w.extractLsb' 25 7 = 2 ∧ w.extractLsb' 15 5 = 0 ∧ w.extractLsb' 12 3 = 0 ∧ w.extractLsb' 11 1 = 0 ∧ w.extractLsb' 0 7 = 11 then .xpushn (w.extractLsb' 7 4) (w.extractLsb' 20 5) else
  if w.extractLsb' 25 7 = 0 ∧ w.extractLsb' 24 1 = 0 ∧ w.extractLsb' 15 5 = 0 ∧ w.extractLsb' 12 3 = 1 ∧ w.extractLsb' 0 7 = 11 then .xpop (w.extractLsb' 20 4) (w.extractLsb' 7 5) else
  if w.extractLsb' 25 7 = 1 ∧ w.extractLsb' 24 1 = 0 ∧ w.extractLsb' 15 5 = 0 ∧ w.extractLsb' 12 3 = 1 ∧ w.extractLsb' 0 7 = 11 then .xpopnb (w.extractLsb' 20 4) (w.extractLsb' 7 5) else
  if w.extractLsb' 25 7 = 2 ∧ w.extractLsb' 24 1 = 0 ∧ w.extractLsb' 15 5 = 0 ∧ w.extractLsb' 12 3 = 1 ∧ w.extractLsb' 0 7 = 11 then .xqcnt (w.extractLsb' 20 4) (w.extractLsb' 7 5) else
  if w.extractLsb' 12 3 = 2 ∧ w.extractLsb' 0 7 = 11 then .xlw (w.extractLsb' 28 4) (w.extractLsb' 20 8) (w.extractLsb' 15 5) (w.extractLsb' 7 5) else
  if w.extractLsb' 12 3 = 3 ∧ w.extractLsb' 0 7 = 11 then .xsw (w.extractLsb' 28 4) (w.extractLsb' 25 3 ++ w.extractLsb' 7 5) (w.extractLsb' 20 5) (w.extractLsb' 15 5) else
  if w.extractLsb' 29 3 = 0 ∧ w.extractLsb' 12 3 = 4 ∧ w.extractLsb' 11 1 = 0 ∧ w.extractLsb' 0 7 = 11 then .xlq (w.extractLsb' 25 4) (w.extractLsb' 20 5) (w.extractLsb' 15 5) (w.extractLsb' 7 4) else
  if w.extractLsb' 29 3 = 0 ∧ w.extractLsb' 24 1 = 0 ∧ w.extractLsb' 12 3 = 5 ∧ w.extractLsb' 7 5 = 0 ∧ w.extractLsb' 0 7 = 11 then .xqst (w.extractLsb' 25 4) (w.extractLsb' 20 4) (w.extractLsb' 15 5) else
  if w.extractLsb' 29 3 = 0 ∧ w.extractLsb' 23 2 = 0 ∧ w.extractLsb' 12 3 = 0 ∧ w.extractLsb' 7 5 = 0 ∧ w.extractLsb' 0 7 = 43 then .xcpy (w.extractLsb' 25 4) (w.extractLsb' 20 3) (w.extractLsb' 15 5) else
  if w.extractLsb' 29 3 = 1 ∧ w.extractLsb' 23 2 = 0 ∧ w.extractLsb' 12 3 = 0 ∧ w.extractLsb' 7 5 = 0 ∧ w.extractLsb' 0 7 = 43 then .xgath (w.extractLsb' 25 4) (w.extractLsb' 20 3) (w.extractLsb' 15 5) else
  if w.extractLsb' 29 3 = 2 ∧ w.extractLsb' 23 2 = 0 ∧ w.extractLsb' 12 3 = 0 ∧ w.extractLsb' 7 5 = 0 ∧ w.extractLsb' 0 7 = 43 then .xscat (w.extractLsb' 25 4) (w.extractLsb' 20 3) (w.extractLsb' 15 5) else
  if w.extractLsb' 29 3 = 3 ∧ w.extractLsb' 23 2 = 0 ∧ w.extractLsb' 12 3 = 0 ∧ w.extractLsb' 7 5 = 0 ∧ w.extractLsb' 0 7 = 43 then .xcoll (w.extractLsb' 25 4) (w.extractLsb' 20 3) (w.extractLsb' 15 5) else
  if w.extractLsb' 29 3 = 4 ∧ w.extractLsb' 23 2 = 0 ∧ w.extractLsb' 12 3 = 0 ∧ w.extractLsb' 7 5 = 0 ∧ w.extractLsb' 0 7 = 43 then .xttask (w.extractLsb' 25 4) (w.extractLsb' 20 3) (w.extractLsb' 15 5) else
  if w.extractLsb' 31 1 = 0 ∧ w.extractLsb' 12 3 = 1 ∧ w.extractLsb' 10 2 = 0 ∧ w.extractLsb' 0 7 = 43 then .xpub (w.extractLsb' 25 6) (w.extractLsb' 20 5) (w.extractLsb' 15 5) (w.extractLsb' 7 3) else
  if w.extractLsb' 31 1 = 1 ∧ w.extractLsb' 12 3 = 1 ∧ w.extractLsb' 10 2 = 0 ∧ w.extractLsb' 0 7 = 43 then .xawait (w.extractLsb' 25 6) (w.extractLsb' 20 5) (w.extractLsb' 15 5) (w.extractLsb' 7 3) else
  if w.extractLsb' 29 3 = 0 ∧ w.extractLsb' 23 2 = 0 ∧ w.extractLsb' 12 3 = 2 ∧ w.extractLsb' 7 5 = 0 ∧ w.extractLsb' 0 7 = 43 then .xbarr (w.extractLsb' 25 4) (w.extractLsb' 20 3) (w.extractLsb' 15 5) else
  if w.extractLsb' 29 3 = 1 ∧ w.extractLsb' 23 2 = 0 ∧ w.extractLsb' 12 3 = 2 ∧ w.extractLsb' 0 7 = 43 then .xbarw (w.extractLsb' 25 4) (w.extractLsb' 20 3) (w.extractLsb' 15 5) (w.extractLsb' 7 5) else
  if w.extractLsb' 25 7 = 0 ∧ w.extractLsb' 15 5 = 0 ∧ w.extractLsb' 12 3 = 3 ∧ w.extractLsb' 7 5 = 0 ∧ w.extractLsb' 0 7 = 43 then .xfence (w.getLsbD 24) (w.getLsbD 23) (w.extractLsb' 20 3) else
  if w.extractLsb' 12 3 = 4 ∧ w.extractLsb' 0 7 = 43 then .waitc (w.extractLsb' 26 6) (w.extractLsb' 20 6) (w.extractLsb' 15 5) (w.extractLsb' 7 5) else
  if w.extractLsb' 29 3 = 0 ∧ w.extractLsb' 15 5 = 0 ∧ w.extractLsb' 12 3 = 5 ∧ w.extractLsb' 7 5 = 0 ∧ w.extractLsb' 0 7 = 43 then .rpt (w.getLsbD 28) (w.getLsbD 27) (w.getLsbD 26) (w.extractLsb' 20 6) else
  if w.extractLsb' 25 7 = 0 ∧ w.extractLsb' 12 3 = 6 ∧ w.extractLsb' 7 5 = 0 ∧ w.extractLsb' 0 7 = 43 then .xsend (w.extractLsb' 20 5) (w.extractLsb' 15 5) else
  if w.extractLsb' 15 5 = 0 ∧ w.extractLsb' 12 3 = 7 ∧ w.extractLsb' 0 7 = 43 then .xcr (w.extractLsb' 20 12) (w.extractLsb' 7 5) else
  if w.extractLsb' 20 12 = 0 ∧ w.extractLsb' 15 5 = 0 ∧ w.extractLsb' 12 3 = 0 ∧ w.extractLsb' 7 5 = 0 ∧ w.extractLsb' 0 7 = 115 then .ecall else
  if w.extractLsb' 20 12 = 1 ∧ w.extractLsb' 15 5 = 0 ∧ w.extractLsb' 12 3 = 0 ∧ w.extractLsb' 7 5 = 0 ∧ w.extractLsb' 0 7 = 115 then .ebreak else
  .baseInstruction w false

/-- Little-endian value of a list of bytes (R3). -/
def leNat : List Byte → Nat
  | [] => 0
  | b :: bs => b.toNat + 256 * leNat bs

/-- The `n` bytes of a value, little-endian (R3). -/
def leBytes : Nat → Nat → List Byte
  | 0, _ => []
  | n + 1, v => BitVec.ofNat 8 v :: leBytes n (v / 256)

/-- The core instruction at the head of a list of bytes, with the bytes that follow it (R216: a parcel whose two low
bits are not 11 is a 16-bit instruction). Missing bytes read as 0. -/
def decodeCoreBytes (bs : List Byte) : Instr × List Byte :=
  if (leNat (bs.take 1)) % 4 = 3 then (decodeCore32 (BitVec.ofNat 32 (leNat (bs.take 4))), bs.drop 4)
  else (.baseInstruction (BitVec.ofNat 32 (leNat (bs.take 2))) true, bs.drop 2)

/-- The block instruction at the head of a list of bytes (R61: little-endian words of 8 bytes). -/
def decodeBlockBytes (bs : List Byte) : Option (Instr × List Byte) :=
  (decodeWord (BitVec.ofNat 64 (leNat (bs.take 8)))).map fun i => (i, bs.drop 8)

/-- The fields of a block instruction; none for a core instruction or an event. -/
def encodeFields : Instr → Option Fields
  | .add h sat => some (h.fields 0x0 0x00 (0#4 ++ BitVec.ofBool sat ++ 0#3) (0#22))
  | .sub h sat => some (h.fields 0x0 0x01 (0#4 ++ BitVec.ofBool sat ++ 0#3) (0#22))
  | .mul h sat => some (h.fields 0x0 0x02 (0#4 ++ BitVec.ofBool sat ++ 0#3) (0#22))
  | .mulh h => some (h.fields 0x0 0x03 (0#8) (0#22))
  | .mad h sat => some (h.fields 0x0 0x04 (0#4 ++ BitVec.ofBool sat ++ 0#3) (0#22))
  | .neg h sat => some (h.fields 0x0 0x05 (0#4 ++ BitVec.ofBool sat ++ 0#3) (0#22))
  | .abs h sat => some (h.fields 0x0 0x06 (0#4 ++ BitVec.ofBool sat ++ 0#3) (0#22))
  | .min h => some (h.fields 0x0 0x07 (0#8) (0#22))
  | .max h => some (h.fields 0x0 0x08 (0#8) (0#22))
  | .addi h sat imm => some (h.fields 0x0 0x09 (0#4 ++ BitVec.ofBool sat ++ 0#3) (imm))
  | .muli h sat imm => some (h.fields 0x0 0x0A (0#4 ++ BitVec.ofBool sat ++ 0#3) (imm))
  | .lea h disp sh => some (h.fields 0x0 0x0B (0#8) (disp ++ sh))
  | .cidx2 h sat e => some (h.fields 0x0 0x0C (0#4 ++ BitVec.ofBool sat ++ 0#3) (e))
  | .cidx3 h sat e1 e0 => some (h.fields 0x0 0x0D (0#4 ++ BitVec.ofBool sat ++ 0#3) (e1 ++ e0))
  | .dot4 h sat => some (h.fields 0x0 0x0E (0#4 ++ BitVec.ofBool sat ++ 0#3) (0#22))
  | .absd h => some (h.fields 0x0 0x0F (0#8) (0#22))
  | .div h sat => some (h.fields 0x0 0x10 (0#4 ++ BitVec.ofBool sat ++ 0#3) (0#22))
  | .rem h => some (h.fields 0x0 0x11 (0#8) (0#22))
  | .and h => some (h.fields 0x1 0x00 (0#8) (0#22))
  | .or h => some (h.fields 0x1 0x01 (0#8) (0#22))
  | .xor h => some (h.fields 0x1 0x02 (0#8) (0#22))
  | .andn h => some (h.fields 0x1 0x03 (0#8) (0#22))
  | .not h => some (h.fields 0x1 0x04 (0#8) (0#22))
  | .shl h => some (h.fields 0x1 0x05 (0#8) (0#22))
  | .shr h => some (h.fields 0x1 0x06 (0#8) (0#22))
  | .sra h => some (h.fields 0x1 0x07 (0#8) (0#22))
  | .rol h => some (h.fields 0x1 0x08 (0#8) (0#22))
  | .ror h => some (h.fields 0x1 0x09 (0#8) (0#22))
  | .shli h s => some (h.fields 0x1 0x0A (0#8) (0#17 ++ s))
  | .shri h s => some (h.fields 0x1 0x0B (0#8) (0#17 ++ s))
  | .srai h s => some (h.fields 0x1 0x0C (0#8) (0#17 ++ s))
  | .bfx h len pos => some (h.fields 0x1 0x0D (0#8) (0#12 ++ len ++ pos))
  | .bfi h len pos => some (h.fields 0x1 0x0E (0#8) (0#12 ++ len ++ pos))
  | .popc h => some (h.fields 0x1 0x0F (0#8) (0#22))
  | .clz h => some (h.fields 0x1 0x10 (0#8) (0#22))
  | .ctz h => some (h.fields 0x1 0x11 (0#8) (0#22))
  | .brev h => some (h.fields 0x1 0x12 (0#8) (0#22))
  | .prmt h sel => some (h.fields 0x1 0x13 (0#8) (0#6 ++ sel))
  | .cmpeq h imm val => some (h.fields 0x2 0x00 (0#8) (BitVec.ofBool imm ++ val))
  | .cmpne h imm val => some (h.fields 0x2 0x01 (0#8) (BitVec.ofBool imm ++ val))
  | .cmplt h imm val => some (h.fields 0x2 0x02 (0#8) (BitVec.ofBool imm ++ val))
  | .cmple h imm val => some (h.fields 0x2 0x03 (0#8) (BitVec.ofBool imm ++ val))
  | .cmpgt h imm val => some (h.fields 0x2 0x04 (0#8) (BitVec.ofBool imm ++ val))
  | .cmpge h imm val => some (h.fields 0x2 0x05 (0#8) (BitVec.ofBool imm ++ val))
  | .pand h => some (h.fields 0x2 0x06 (0#8) (0#22))
  | .por h => some (h.fields 0x2 0x07 (0#8) (0#22))
  | .pxor h => some (h.fields 0x2 0x08 (0#8) (0#22))
  | .pandn h => some (h.fields 0x2 0x09 (0#8) (0#22))
  | .pnot h => some (h.fields 0x2 0x0A (0#8) (0#22))
  | .select h => some (h.fields 0x2 0x0B (0#8) (0#22))
  | .testz h imm val => some (h.fields 0x2 0x0C (0#8) (BitVec.ofBool imm ++ val))
  | .mov h t2 => some (h.fields 0x3 0x00 (0#8) (Target.encode t2 ++ 0#13))
  | .const h imm => some (h.fields 0x3 0x01 (0#8) (imm))
  | .lit h => some (h.fields 0x3 0x02 (0#8) (0#22))
  | .switch h => some (h.fields 0x3 0x03 (0#8) (0#22))
  | .merge h => some (h.fields 0x3 0x04 (0#8) (0#22))
  | .gate h => some (h.fields 0x3 0x05 (0#8) (0#22))
  | .sync h c3 => some (h.fields 0x3 0x06 (0#8) (0#21 ++ BitVec.ofBool c3))
  | .drop h => some (h.fields 0x3 0x07 (0#8) (0#22))
  | .null h => some (h.fields 0x3 0x08 (0#8) (0#22))
  | .alloc h lim => some (h.fields 0x4 0x00 (0#8) (0#13 ++ lim))
  | .free h => some (h.fields 0x4 0x01 (0#8) (0#22))
  | .enter h idx imm n => some (h.fields 0x4 0x02 (0#8) (0#5 ++ idx ++ BitVec.ofBool imm ++ n))
  | .leave h n => some (h.fields 0x4 0x03 (0#8) (0#14 ++ n))
  | .tagrd h w off sel => some (h.fields 0x4 0x04 (0#8) (0#9 ++ w ++ off ++ sel))
  | .tagwr h w off => some (h.fields 0x4 0x05 (0#8) (0#9 ++ w ++ off ++ 4#3))
  | .fadd h sat rm => some (h.fields 0x5 0x00 (0#4 ++ BitVec.ofBool sat ++ rm.toBits) (0#22))
  | .fsub h sat rm => some (h.fields 0x5 0x01 (0#4 ++ BitVec.ofBool sat ++ rm.toBits) (0#22))
  | .fmul h sat rm => some (h.fields 0x5 0x02 (0#4 ++ BitVec.ofBool sat ++ rm.toBits) (0#22))
  | .ffma h sat rm => some (h.fields 0x5 0x03 (0#4 ++ BitVec.ofBool sat ++ rm.toBits) (0#22))
  | .ffms h sat rm => some (h.fields 0x5 0x04 (0#4 ++ BitVec.ofBool sat ++ rm.toBits) (0#22))
  | .fmin h => some (h.fields 0x5 0x05 (0#8) (0#22))
  | .fmax h => some (h.fields 0x5 0x06 (0#8) (0#22))
  | .fabs h => some (h.fields 0x5 0x07 (0#8) (0#22))
  | .fneg h => some (h.fields 0x5 0x08 (0#8) (0#22))
  | .fcpys h => some (h.fields 0x5 0x09 (0#8) (0#22))
  | .fcmpeq h lane => some (h.fields 0x5 0x0A (0#8) (0#19 ++ lane))
  | .fcmpne h lane => some (h.fields 0x5 0x0B (0#8) (0#19 ++ lane))
  | .fcmplt h lane => some (h.fields 0x5 0x0C (0#8) (0#19 ++ lane))
  | .fcmple h lane => some (h.fields 0x5 0x0D (0#8) (0#19 ++ lane))
  | .fcmpun h lane => some (h.fields 0x5 0x0E (0#8) (0#19 ++ lane))
  | .fdot2 h sat rm => some (h.fields 0x5 0x0F (0#4 ++ BitVec.ofBool sat ++ rm.toBits) (0#22))
  | .fcvt h amx sat rm areg lane src => some (h.fields 0x6 0x00 (0#3 ++ BitVec.ofBool amx ++ BitVec.ofBool sat ++ rm.toBits) (0#8 ++ areg ++ 0#3 ++ lane ++ src))
  | .fcvtp h sat rm src => some (h.fields 0x6 0x01 (0#4 ++ BitVec.ofBool sat ++ rm.toBits) (0#18 ++ src))
  | .fcvtx h sat rm pos lane src => some (h.fields 0x6 0x02 (0#4 ++ BitVec.ofBool sat ++ rm.toBits) (0#12 ++ pos ++ lane ++ src))
  | .frnd h rm => some (h.fields 0x6 0x03 (0#5 ++ rm.toBits) (0#22))
  | .fldexp h sat rm expf => some (h.fields 0x6 0x04 (0#4 ++ BitVec.ofBool sat ++ rm.toBits) (0#21 ++ BitVec.ofBool expf))
  | .fgetexp h => some (h.fields 0x6 0x05 (0#8) (0#22))
  | .reconf h sat rm => some (h.fields 0x6 0x06 (0#4 ++ BitVec.ofBool sat ++ rm.toBits) (0#22))
  | .fexp2f h => some (h.fields 0x7 0x00 (0#8) (0#22))
  | .flog2 h => some (h.fields 0x7 0x01 (0#8) (0#22))
  | .frcp h => some (h.fields 0x7 0x02 (0#8) (0#22))
  | .frsq h => some (h.fields 0x7 0x03 (0#8) (0#22))
  | .fsqrt h rm => some (h.fields 0x7 0x04 (0#5 ++ rm.toBits) (0#22))
  | .fsin2 h => some (h.fields 0x7 0x05 (0#8) (0#22))
  | .fcos2 h => some (h.fields 0x7 0x06 (0#8) (0#22))
  | .ldb h sc acq t2 bsel disp => some (h.fields 0x8 0x00 (sc.toBits ++ BitVec.ofBool acq ++ 0#4) (Target.encode t2 ++ bsel ++ disp))
  | .ldh h sc acq t2 bsel disp => some (h.fields 0x8 0x01 (sc.toBits ++ BitVec.ofBool acq ++ 0#4) (Target.encode t2 ++ bsel ++ disp))
  | .ld h sc acq t2 bsel disp => some (h.fields 0x8 0x02 (sc.toBits ++ BitVec.ofBool acq ++ 0#4) (Target.encode t2 ++ bsel ++ disp))
  | .ldp h sc acq t2 bsel disp => some (h.fields 0x8 0x03 (sc.toBits ++ BitVec.ofBool acq ++ 0#4) (Target.encode t2 ++ bsel ++ disp))
  | .stb h sc rel t2 bsel disp => some (h.fields 0x8 0x04 (sc.toBits ++ 0#1 ++ BitVec.ofBool rel ++ 0#3) (Target.encode t2 ++ bsel ++ disp))
  | .sth h sc rel t2 bsel disp => some (h.fields 0x8 0x05 (sc.toBits ++ 0#1 ++ BitVec.ofBool rel ++ 0#3) (Target.encode t2 ++ bsel ++ disp))
  | .st h sc rel t2 bsel disp => some (h.fields 0x8 0x06 (sc.toBits ++ 0#1 ++ BitVec.ofBool rel ++ 0#3) (Target.encode t2 ++ bsel ++ disp))
  | .stp h sc rel t2 bsel disp => some (h.fields 0x8 0x07 (sc.toBits ++ 0#1 ++ BitVec.ofBool rel ++ 0#3) (Target.encode t2 ++ bsel ++ disp))
  | .prefetch h sc t2 bsel disp => some (h.fields 0x8 0x08 (sc.toBits ++ 0#5) (Target.encode t2 ++ bsel ++ disp))
  | .lds h sc nb clr wf t2 disp => some (h.fields 0x9 0x00 (sc.toBits ++ 0#2 ++ BitVec.ofBool nb ++ BitVec.ofBool clr ++ BitVec.ofBool wf) (Target.encode t2 ++ disp))
  | .sts h sc once t2 disp => some (h.fields 0x9 0x01 (sc.toBits ++ 0#4 ++ BitVec.ofBool once) (Target.encode t2 ++ disp))
  | .ldsp h sc nb clr wf t2 disp => some (h.fields 0x9 0x02 (sc.toBits ++ 0#2 ++ BitVec.ofBool nb ++ BitVec.ofBool clr ++ BitVec.ofBool wf) (Target.encode t2 ++ disp))
  | .stsp h sc once t2 disp => some (h.fields 0x9 0x03 (sc.toBits ++ 0#4 ++ BitVec.ofBool once) (Target.encode t2 ++ disp))
  | .pset h sc once t2 disp => some (h.fields 0x9 0x04 (sc.toBits ++ 0#4 ++ BitVec.ofBool once) (Target.encode t2 ++ disp))
  | .pclr h sc t2 disp => some (h.fields 0x9 0x05 (sc.toBits ++ 0#5) (Target.encode t2 ++ disp))
  | .ptest h sc acq t2 disp => some (h.fields 0x9 0x06 (sc.toBits ++ BitVec.ofBool acq ++ 0#4) (Target.encode t2 ++ disp))
  | .ldt h sc t2 desc => some (h.fields 0xA 0x00 (sc.toBits ++ 0#5) (Target.encode t2 ++ 0#7 ++ desc))
  | .stt h sc t2 desc => some (h.fields 0xA 0x01 (sc.toBits ++ 0#5) (Target.encode t2 ++ 0#7 ++ desc))
  | .strm h sw shp desc => some (h.fields 0xA 0x02 (0#8) (0#5 ++ sw ++ shp ++ desc))
  | .strmw h sc sw shp desc => some (h.fields 0xA 0x03 (sc.toBits ++ 0#5) (0#5 ++ sw ++ shp ++ desc))
  | .sred h sat rm ops sw => some (h.fields 0xA 0x04 (0#4 ++ BitVec.ofBool sat ++ rm.toBits) (0#16 ++ BitVec.ofBool ops ++ sw))
  | .sscan h sat rm ops sw => some (h.fields 0xA 0x05 (0#4 ++ BitVec.ofBool sat ++ rm.toBits) (0#16 ++ BitVec.ofBool ops ++ sw))
  | .szip h trunc sw => some (h.fields 0xA 0x06 (0#3 ++ BitVec.ofBool trunc ++ 0#4) (0#17 ++ sw))
  | .rdly h depth rt sw => some (h.fields 0xA 0x07 (0#8) (0#1 ++ depth ++ rt ++ sw))
  | .rmax h rt sw => some (h.fields 0xA 0x08 (0#8) (0#3 ++ rt ++ sw))
  | .rsumx h rm rt sw => some (h.fields 0xA 0x09 (0#5 ++ rm.toBits) (0#3 ++ rt ++ sw))
  | .rsqs h rm rt sw => some (h.fields 0xA 0x0A (0#5 ++ rm.toBits) (0#3 ++ rt ++ sw))
  | .rrel h rm tgt => some (h.fields 0xA 0x0B (0#5 ++ rm.toBits) (0#19 ++ tgt))
  | .atadd h sc acq rel t2 bsel disp => some (h.fields 0xB 0x00 (sc.toBits ++ BitVec.ofBool acq ++ BitVec.ofBool rel ++ 0#3) (Target.encode t2 ++ bsel ++ disp))
  | .atmin h sc acq rel t2 bsel disp => some (h.fields 0xB 0x01 (sc.toBits ++ BitVec.ofBool acq ++ BitVec.ofBool rel ++ 0#3) (Target.encode t2 ++ bsel ++ disp))
  | .atmax h sc acq rel t2 bsel disp => some (h.fields 0xB 0x02 (sc.toBits ++ BitVec.ofBool acq ++ BitVec.ofBool rel ++ 0#3) (Target.encode t2 ++ bsel ++ disp))
  | .atand h sc acq rel t2 bsel disp => some (h.fields 0xB 0x03 (sc.toBits ++ BitVec.ofBool acq ++ BitVec.ofBool rel ++ 0#3) (Target.encode t2 ++ bsel ++ disp))
  | .ator h sc acq rel t2 bsel disp => some (h.fields 0xB 0x04 (sc.toBits ++ BitVec.ofBool acq ++ BitVec.ofBool rel ++ 0#3) (Target.encode t2 ++ bsel ++ disp))
  | .atxor h sc acq rel t2 bsel disp => some (h.fields 0xB 0x05 (sc.toBits ++ BitVec.ofBool acq ++ BitVec.ofBool rel ++ 0#3) (Target.encode t2 ++ bsel ++ disp))
  | .atswap h sc acq rel t2 bsel disp => some (h.fields 0xB 0x06 (sc.toBits ++ BitVec.ofBool acq ++ BitVec.ofBool rel ++ 0#3) (Target.encode t2 ++ bsel ++ disp))
  | .atcas h sc acq rel t2 bsel disp => some (h.fields 0xB 0x07 (sc.toBits ++ BitVec.ofBool acq ++ BitVec.ofBool rel ++ 0#3) (Target.encode t2 ++ bsel ++ disp))
  | .atfadd h sc acq rel rm t2 bsel disp => some (h.fields 0xB 0x08 (sc.toBits ++ BitVec.ofBool acq ++ BitVec.ofBool rel ++ rm.toBits) (Target.encode t2 ++ bsel ++ disp))
  | .atadd64 h sc acq rel t2 bsel disp => some (h.fields 0xB 0x09 (sc.toBits ++ BitVec.ofBool acq ++ BitVec.ofBool rel ++ 0#3) (Target.encode t2 ++ bsel ++ disp))
  | .atmin64 h sc acq rel t2 bsel disp => some (h.fields 0xB 0x0A (sc.toBits ++ BitVec.ofBool acq ++ BitVec.ofBool rel ++ 0#3) (Target.encode t2 ++ bsel ++ disp))
  | .atmax64 h sc acq rel t2 bsel disp => some (h.fields 0xB 0x0B (sc.toBits ++ BitVec.ofBool acq ++ BitVec.ofBool rel ++ 0#3) (Target.encode t2 ++ bsel ++ disp))
  | .atand64 h sc acq rel t2 bsel disp => some (h.fields 0xB 0x0C (sc.toBits ++ BitVec.ofBool acq ++ BitVec.ofBool rel ++ 0#3) (Target.encode t2 ++ bsel ++ disp))
  | .ator64 h sc acq rel t2 bsel disp => some (h.fields 0xB 0x0D (sc.toBits ++ BitVec.ofBool acq ++ BitVec.ofBool rel ++ 0#3) (Target.encode t2 ++ bsel ++ disp))
  | .atxor64 h sc acq rel t2 bsel disp => some (h.fields 0xB 0x0E (sc.toBits ++ BitVec.ofBool acq ++ BitVec.ofBool rel ++ 0#3) (Target.encode t2 ++ bsel ++ disp))
  | .atswap64 h sc acq rel t2 bsel disp => some (h.fields 0xB 0x0F (sc.toBits ++ BitVec.ofBool acq ++ BitVec.ofBool rel ++ 0#3) (Target.encode t2 ++ bsel ++ disp))
  | .atcas64 h sc acq rel t2 bsel disp => some (h.fields 0xB 0x10 (sc.toBits ++ BitVec.ofBool acq ++ BitVec.ofBool rel ++ 0#3) (Target.encode t2 ++ bsel ++ disp))
  | .fence h sc acq rel t2 => some (h.fields 0xB 0x11 (sc.toBits ++ BitVec.ofBool acq ++ BitVec.ofBool rel ++ 0#3) (Target.encode t2 ++ 0#13))
  | .mregion h e wm hm => some (h.fields 0xC 0x00 (0#8) (0#8 ++ e ++ wm ++ hm))
  | .mfree h => some (h.fields 0xC 0x01 (0#8) (0#22))
  | .wload h t2 cmp gsz wfmt => some (h.fields 0xC 0x02 (0#8) (Target.encode t2 ++ 0#6 ++ BitVec.ofBool cmp ++ gsz ++ wfmt))
  | .wswap h => some (h.fields 0xC 0x03 (0#8) (0#22))
  | .mmac h iext sw mrows ires => some (h.fields 0xC 0x04 (0#8) (0#9 ++ BitVec.ofBool iext ++ sw ++ mrows ++ BitVec.ofBool ires))
  | .mdrain h sat sw pen port => some (h.fields 0xC 0x05 (0#4 ++ BitVec.ofBool sat ++ 0#3) (0#12 ++ sw ++ BitVec.ofBool pen ++ port))
  | .ttask h sc t2 bsel disp => some (h.fields 0xC 0x06 (sc.toBits ++ 0#5) (Target.encode t2 ++ bsel ++ disp))
  | .cpy h sc t2 bsel disp => some (h.fields 0xD 0x00 (sc.toBits ++ 0#5) (Target.encode t2 ++ bsel ++ disp))
  | .gath h sc t2 bsel disp => some (h.fields 0xD 0x01 (sc.toBits ++ 0#5) (Target.encode t2 ++ bsel ++ disp))
  | .scat h sc t2 bsel disp => some (h.fields 0xD 0x02 (sc.toBits ++ 0#5) (Target.encode t2 ++ bsel ++ disp))
  | .coll h sc t2 bsel disp => some (h.fields 0xD 0x03 (sc.toBits ++ 0#5) (Target.encode t2 ++ bsel ++ disp))
  | .publish h sc t2 desc => some (h.fields 0xD 0x04 (sc.toBits ++ 0#5) (Target.encode t2 ++ 0#7 ++ desc))
  | .await h sc t2 desc => some (h.fields 0xD 0x05 (sc.toBits ++ 0#5) (Target.encode t2 ++ 0#7 ++ desc))
  | .roll h sc t2 => some (h.fields 0xD 0x06 (sc.toBits ++ 0#4 ++ 0#1) (Target.encode t2 ++ 0#13))
  | .rollArr h sc t2 bsel disp => some (h.fields 0xD 0x06 (sc.toBits ++ 0#4 ++ 1#1) (Target.encode t2 ++ bsel ++ disp))
  | .barwait h sc t2 bsel disp => some (h.fields 0xD 0x07 (sc.toBits ++ 0#5) (Target.encode t2 ++ bsel ++ disp))
  | .barinit h sc t2 bsel disp => some (h.fields 0xD 0x08 (sc.toBits ++ 0#5) (Target.encode t2 ++ bsel ++ disp))
  | .exit h part ent e => some (h.fields 0xE 0x00 (0#8) (0#13 ++ BitVec.ofBool part ++ ent ++ e))
  | .call h rx f part ent e => some (h.fields 0xE 0x01 (0#8) (0#8 ++ rx ++ BitVec.ofBool f ++ BitVec.ofBool part ++ ent ++ e))
  | .ret h part ent => some (h.fields 0xE 0x02 (0#8) (0#17 ++ BitVec.ofBool part ++ ent))
  | .send h loc barn tile ch => some (h.fields 0xE 0x03 (0#8) (0#6 ++ BitVec.ofBool loc ++ barn ++ tile ++ ch))
  | .trap h code => some (h.fields 0xE 0x04 (0#8) (0#6 ++ code))
  | .eret h act => some (h.fields 0xE 0x05 (0#8) (0#20 ++ act))
  | .crrd h num => some (h.fields 0xE 0x06 (0#8) (0#10 ++ num))
  | .crwr h num => some (h.fields 0xE 0x07 (0#8) (0#10 ++ num))
  | .gong h cause => some (h.fields 0xE 0x08 (0#8) (0#14 ++ cause))
  | .codepub h sc t2 bsel disp => some (h.fields 0xE 0x09 (sc.toBits ++ 0#5) (Target.encode t2 ++ bsel ++ disp))
  | .fetchsync h sc t2 => some (h.fields 0xE 0x0A (sc.toBits ++ 0#5) (Target.encode t2 ++ 0#13))
  | .launch h sc t2 bsel disp => some (h.fields 0xE 0x0B (sc.toBits ++ 0#5) (Target.encode t2 ++ bsel ++ disp))
  | .lqtake h t2 lq => some (h.fields 0xE 0x0C (0#8) (Target.encode t2 ++ 0#7 ++ lq))
  | .kdone h => some (h.fields 0xE 0x0D (0#8) (0#22))
  | _ => none

/-- The word of a block instruction. -/
def encodeWord (i : Instr) : Option DWord := (encodeFields i).map Fields.toWord

/-- The parcel of a core instruction (R224); a 16-bit one stands in the low half. -/
def encodeCore : Instr → Option Word
  | .xpush q rs1 rs2 => some (0#7 ++ rs2 ++ rs1 ++ 0#3 ++ 0#1 ++ q ++ 11#7)
  | .xpushe q rs2 => some (1#7 ++ rs2 ++ 0#5 ++ 0#3 ++ 0#1 ++ q ++ 11#7)
  | .xpushn q rs2 => some (2#7 ++ rs2 ++ 0#5 ++ 0#3 ++ 0#1 ++ q ++ 11#7)
  | .xpop q rd => some (0#7 ++ 0#1 ++ q ++ 0#5 ++ 1#3 ++ rd ++ 11#7)
  | .xpopnb q rd => some (1#7 ++ 0#1 ++ q ++ 0#5 ++ 1#3 ++ rd ++ 11#7)
  | .xqcnt q rd => some (2#7 ++ 0#1 ++ q ++ 0#5 ++ 1#3 ++ rd ++ 11#7)
  | .xlw bsel disp rs1 rd => some (bsel ++ disp ++ rs1 ++ 2#3 ++ rd ++ 11#7)
  | .xsw bsel disp rs2 rs1 => some (bsel ++ disp.extractLsb' 5 3 ++ rs2 ++ rs1 ++ 3#3 ++ disp.extractLsb' 0 5 ++ 11#7)
  | .xlq bsel rs2 rs1 q => some (0#3 ++ bsel ++ rs2 ++ rs1 ++ 4#3 ++ 0#1 ++ q ++ 11#7)
  | .xqst bsel q rs1 => some (0#3 ++ bsel ++ 0#1 ++ q ++ rs1 ++ 5#3 ++ 0#5 ++ 11#7)
  | .xcpy bsel s rs1 => some (0#3 ++ bsel ++ 0#2 ++ s ++ rs1 ++ 0#3 ++ 0#5 ++ 43#7)
  | .xgath bsel s rs1 => some (1#3 ++ bsel ++ 0#2 ++ s ++ rs1 ++ 0#3 ++ 0#5 ++ 43#7)
  | .xscat bsel s rs1 => some (2#3 ++ bsel ++ 0#2 ++ s ++ rs1 ++ 0#3 ++ 0#5 ++ 43#7)
  | .xcoll bsel s rs1 => some (3#3 ++ bsel ++ 0#2 ++ s ++ rs1 ++ 0#3 ++ 0#5 ++ 43#7)
  | .xttask bsel s rs1 => some (4#3 ++ bsel ++ 0#2 ++ s ++ rs1 ++ 0#3 ++ 0#5 ++ 43#7)
  | .xpub desc rs2 rs1 s => some (0#1 ++ desc ++ rs2 ++ rs1 ++ 1#3 ++ 0#2 ++ s ++ 43#7)
  | .xawait desc rs2 rs1 s => some (1#1 ++ desc ++ rs2 ++ rs1 ++ 1#3 ++ 0#2 ++ s ++ 43#7)
  | .xbarr bsel s rs1 => some (0#3 ++ bsel ++ 0#2 ++ s ++ rs1 ++ 2#3 ++ 0#5 ++ 43#7)
  | .xbarw bsel s rs1 rd => some (1#3 ++ bsel ++ 0#2 ++ s ++ rs1 ++ 2#3 ++ rd ++ 43#7)
  | .xfence rel acq s => some (0#7 ++ BitVec.ofBool rel ++ BitVec.ofBool acq ++ s ++ 0#5 ++ 3#3 ++ 0#5 ++ 43#7)
  | .waitc l st c t => some (l ++ st ++ c ++ 4#3 ++ t ++ 43#7)
  | .rpt stp2 stp1 stpd rep => some (0#3 ++ BitVec.ofBool stp2 ++ BitVec.ofBool stp1 ++ BitVec.ofBool stpd ++ rep ++ 0#5 ++ 5#3 ++ 0#5 ++ 43#7)
  | .xsend rs2 rs1 => some (0#7 ++ rs2 ++ rs1 ++ 6#3 ++ 0#5 ++ 43#7)
  | .xcr num rd => some (num ++ 0#5 ++ 7#3 ++ rd ++ 43#7)
  | .ecall => some (0#12 ++ 0#5 ++ 0#3 ++ 0#5 ++ 115#7)
  | .ebreak => some (1#12 ++ 0#5 ++ 0#3 ++ 0#5 ++ 115#7)
  | .baseInstruction w _ => some w
  | _ => none

/-- The bytes of an instruction that has an encoding, in the order memory holds them (R3, R61). -/
def encode (i : Instr) : Option (List Byte) :=
  match encodeWord i with
  | some w => some (leBytes 8 w.toNat)
  | none =>
    match i with
    | .baseInstruction w true => some (leBytes 2 w.toNat)
    | _ => (encodeCore i).map fun w => leBytes 4 w.toNat

/-- The instruction this decoder reads from an instruction of `nbits` bits whose bits are `w`. A core instruction is
at most 32 bits long and a block instruction 64. -/
def decodeTableWord (nbits w : Nat) : Option Instr :=
  if nbits ≤ 32 then some (decodeCoreBytes (leBytes 4 w)).1 else (decodeBlockBytes (leBytes 8 w)).map (·.1)

/-- The operand slots that the description of a block instruction names (R22), an order-in slot apart. -/
def Instr.ownSlots : Instr → List Slot
  | .add _ _ => [.a, .b]
  | .sub _ _ => [.a, .b]
  | .mul _ _ => [.a, .b]
  | .mulh _ => [.a, .b]
  | .mad _ _ => [.a, .b, .c]
  | .neg _ _ => [.a]
  | .abs _ _ => [.a]
  | .min _ => [.a, .b]
  | .max _ => [.a, .b]
  | .addi _ _ _ => [.a]
  | .muli _ _ _ => [.a]
  | .lea _ _ _ => [.a, .b]
  | .cidx2 _ _ _ => [.a, .b]
  | .cidx3 _ _ _ _ => [.a, .b, .c]
  | .dot4 _ _ => [.a, .b, .c]
  | .div _ _ => [.a, .b]
  | .rem _ => [.a, .b]
  | .absd _ => [.a, .b]
  | .and _ => [.a, .b]
  | .or _ => [.a, .b]
  | .xor _ => [.a, .b]
  | .andn _ => [.a, .b]
  | .not _ => [.a]
  | .shl _ => [.a, .b]
  | .shr _ => [.a, .b]
  | .sra _ => [.a, .b]
  | .rol _ => [.a, .b]
  | .ror _ => [.a, .b]
  | .shli _ _ => [.a]
  | .shri _ _ => [.a]
  | .srai _ _ => [.a]
  | .bfx _ _ _ => [.a]
  | .bfi _ _ _ => [.a, .b]
  | .popc _ => [.a]
  | .clz _ => [.a]
  | .ctz _ => [.a]
  | .brev _ => [.a]
  | .prmt _ _ => [.a, .b]
  | .cmpeq _ imm _ => if imm then [.a] else [.a, .b]
  | .cmpne _ imm _ => if imm then [.a] else [.a, .b]
  | .cmplt _ imm _ => if imm then [.a] else [.a, .b]
  | .cmple _ imm _ => if imm then [.a] else [.a, .b]
  | .cmpgt _ imm _ => if imm then [.a] else [.a, .b]
  | .cmpge _ imm _ => if imm then [.a] else [.a, .b]
  | .pand _ => [.a, .b]
  | .por _ => [.a, .b]
  | .pxor _ => [.a, .b]
  | .pandn _ => [.a, .b]
  | .pnot _ => [.a]
  | .select _ => [.a, .b, .c]
  | .testz _ imm _ => if imm then [.a] else [.a, .b]
  | .mov _ _ => [.a]
  | .const _ _ => [.a]
  | .lit _ => [.a]
  | .switch _ => [.a, .b]
  | .merge _ => [.a]
  | .gate _ => [.a, .b]
  | .sync _ c3 => if c3 then [.a, .b, .c] else [.a, .b]
  | .drop _ => [.a]
  | .null _ => [.a]
  | .alloc _ _ => [.a]
  | .free _ => [.a]
  | .enter _ _ imm _ => if imm then [.a] else [.a, .b]
  | .leave _ _ => [.a]
  | .tagrd _ _ _ _ => [.a]
  | .tagwr _ _ _ => [.a, .b]
  | .fadd _ _ _ => [.a, .b]
  | .fsub _ _ _ => [.a, .b]
  | .fmul _ _ _ => [.a, .b]
  | .ffma _ _ _ => [.a, .b, .c]
  | .ffms _ _ _ => [.a, .b, .c]
  | .fmin _ => [.a, .b]
  | .fmax _ => [.a, .b]
  | .fabs _ => [.a]
  | .fneg _ => [.a]
  | .fcpys _ => [.a, .b]
  | .fcmpeq _ _ => [.a, .b]
  | .fcmpne _ _ => [.a, .b]
  | .fcmplt _ _ => [.a, .b]
  | .fcmple _ _ => [.a, .b]
  | .fcmpun _ _ => [.a, .b]
  | .fdot2 _ _ _ => [.a, .b, .c]
  | .fcvt _ _ _ _ _ _ _ => [.a]
  | .fcvtp _ _ _ _ => [.a, .b]
  | .fcvtx _ _ _ _ _ _ => [.a, .b]
  | .frnd _ _ => [.a]
  | .fldexp _ _ _ _ => [.a, .b]
  | .fgetexp _ => [.a]
  | .reconf _ _ _ => [.a]
  | .fexp2f _ => [.a]
  | .flog2 _ => [.a]
  | .frcp _ => [.a]
  | .frsq _ => [.a]
  | .fsqrt _ _ => [.a]
  | .fsin2 _ => [.a]
  | .fcos2 _ => [.a]
  | .ldb _ _ _ _ _ _ => [.a]
  | .ldh _ _ _ _ _ _ => [.a]
  | .ld _ _ _ _ _ _ => [.a]
  | .ldp _ _ _ _ _ _ => [.a]
  | .stb _ _ _ _ _ _ => [.a, .b]
  | .sth _ _ _ _ _ _ => [.a, .b]
  | .st _ _ _ _ _ _ => [.a, .b]
  | .stp _ _ _ _ _ _ => [.a, .b, .c]
  | .prefetch _ _ _ _ _ => [.a]
  | .lds _ _ _ _ _ _ _ => [.a]
  | .sts _ _ _ _ _ => [.a, .b]
  | .ldsp _ _ _ _ _ _ _ => [.a]
  | .stsp _ _ _ _ _ => [.a, .b, .c]
  | .pset _ _ _ _ _ => [.a]
  | .pclr _ _ _ _ => [.a]
  | .ptest _ _ _ _ _ => [.a]
  | .atadd _ _ _ _ _ _ _ => [.a, .b]
  | .atmin _ _ _ _ _ _ _ => [.a, .b]
  | .atmax _ _ _ _ _ _ _ => [.a, .b]
  | .atand _ _ _ _ _ _ _ => [.a, .b]
  | .ator _ _ _ _ _ _ _ => [.a, .b]
  | .atxor _ _ _ _ _ _ _ => [.a, .b]
  | .atswap _ _ _ _ _ _ _ => [.a, .b]
  | .atcas _ _ _ _ _ _ _ => [.a, .b, .c]
  | .atfadd _ _ _ _ _ _ _ _ => [.a, .b]
  | .atadd64 _ _ _ _ _ _ _ => [.a, .b, .c]
  | .atmin64 _ _ _ _ _ _ _ => [.a, .b, .c]
  | .atmax64 _ _ _ _ _ _ _ => [.a, .b, .c]
  | .atand64 _ _ _ _ _ _ _ => [.a, .b, .c]
  | .ator64 _ _ _ _ _ _ _ => [.a, .b, .c]
  | .atxor64 _ _ _ _ _ _ _ => [.a, .b, .c]
  | .atswap64 _ _ _ _ _ _ _ => [.a, .b, .c]
  | .atcas64 _ _ _ _ _ _ _ => [.a, .b]
  | .fence _ _ _ _ _ => [.a]
  | .ldt _ _ _ _ => [.a]
  | .stt _ _ _ _ => [.a, .b]
  | .strm _ _ _ _ => [.a]
  | .strmw _ _ _ _ _ => [.a, .b]
  | .sred _ _ _ _ _ => [.a]
  | .sscan _ _ _ _ _ => [.a]
  | .szip _ _ _ => [.a, .b]
  | .rdly _ _ _ _ => [.a, .b]
  | .rmax _ _ _ => [.a]
  | .rsumx _ _ _ _ => [.a]
  | .rsqs _ _ _ _ => [.a]
  | .rrel _ _ _ => [.a]
  | .mregion _ _ _ _ => [.a]
  | .mfree _ => [.a]
  | .wload _ _ _ _ _ => [.a, .b]
  | .wswap _ => [.a]
  | .mmac _ _ _ _ _ => [.a]
  | .mdrain _ _ _ _ _ => [.a]
  | .ttask _ _ _ _ _ => [.a]
  | .cpy _ _ _ _ _ => [.a]
  | .gath _ _ _ _ _ => [.a]
  | .scat _ _ _ _ _ => [.a]
  | .coll _ _ _ _ _ => [.a]
  | .publish _ _ _ _ => [.a, .b]
  | .await _ _ _ _ => [.a, .b]
  | .roll _ _ _ => [.a]
  | .rollArr _ _ _ _ _ => [.a]
  | .barwait _ _ _ _ _ => [.a]
  | .barinit _ _ _ _ _ => [.a, .b]
  | .exit _ _ _ _ => [.a]
  | .call _ _ _ _ _ _ => [.a]
  | .ret _ _ _ => [.a, .b]
  | .send _ _ _ _ _ => [.a]
  | .trap _ _ => [.a]
  | .eret _ act => if act = 1 then [.a, .b] else [.a]
  | .crrd _ _ => [.a]
  | .crwr _ _ => [.a]
  | .gong _ _ => [.a]
  | .codepub _ _ _ _ _ => [.a, .b]
  | .fetchsync _ _ _ => [.a]
  | .launch _ _ _ _ _ => [.a]
  | .lqtake _ _ _ => [.a]
  | .kdone _ => [.a]
  | _ => []

/-- Whether slot c, or slot b of MMAC, is present only when the block feeds it (R134, R172). -/
def Instr.optionalSlot : Instr → Option Slot
  | .mmac _ _ _ _ _ => some .b
  | .ldb _ _ _ _ _ _ => some .c
  | .ldh _ _ _ _ _ _ => some .c
  | .ld _ _ _ _ _ _ => some .c
  | .ldp _ _ _ _ _ _ => some .c
  | .stb _ _ _ _ _ _ => some .c
  | .sth _ _ _ _ _ _ => some .c
  | .st _ _ _ _ _ _ => some .c
  | .prefetch _ _ _ _ _ => some .c
  | .lds _ _ _ _ _ _ _ => some .c
  | .sts _ _ _ _ _ => some .c
  | .ldsp _ _ _ _ _ _ _ => some .c
  | .pset _ _ _ _ _ => some .c
  | .pclr _ _ _ _ => some .c
  | .ptest _ _ _ _ _ => some .c
  | .atadd _ _ _ _ _ _ _ => some .c
  | .atmin _ _ _ _ _ _ _ => some .c
  | .atmax _ _ _ _ _ _ _ => some .c
  | .atand _ _ _ _ _ _ _ => some .c
  | .ator _ _ _ _ _ _ _ => some .c
  | .atxor _ _ _ _ _ _ _ => some .c
  | .atswap _ _ _ _ _ _ _ => some .c
  | .atfadd _ _ _ _ _ _ _ _ => some .c
  | .atcas64 _ _ _ _ _ _ _ => some .c
  | .fence _ _ _ _ _ => some .c
  | .ldt _ _ _ _ => some .c
  | .stt _ _ _ _ => some .c
  | .strm _ _ _ _ => some .c
  | .strmw _ _ _ _ _ => some .c
  | .wload _ _ _ _ _ => some .c
  | .ttask _ _ _ _ _ => some .c
  | .cpy _ _ _ _ _ => some .c
  | .gath _ _ _ _ _ => some .c
  | .scat _ _ _ _ _ => some .c
  | .coll _ _ _ _ _ => some .c
  | .publish _ _ _ _ => some .c
  | .await _ _ _ _ => some .c
  | .barwait _ _ _ _ _ => some .c
  | .barinit _ _ _ _ _ => some .c
  | .exit _ _ _ _ => some .c
  | .call _ _ _ _ _ _ => some .c
  | .ret _ _ _ => some .c
  | .codepub _ _ _ _ _ => some .c
  | .fetchsync _ _ _ => some .c
  | .launch _ _ _ _ _ => some .c
  | _ => none

end Sys2Proof
end

