-- ==== Sys2Proof/Config.lean ====
section
/-! DEFINITION. The free values: what the manual leaves to the device or to a published algorithm. None has a body, so
no proof can see a value. Each is named in a log entry. -/

namespace Sys2Proof

/-- The device's choice where a rule says "may" or "either of two values" (R11, DESIGN CHOICE, log 7): the value is reduced to the
list the rule allows wherever it is used. The argument is the counter `State.ctr`. -/
opaque Config.freeChoice : Nat → Nat

/-- The PE of its bay frame, as row × 32 + column, that holds each node of a block: it depends only on the block's words
(R242, DESIGN CHOICE, log 99). -/
opaque Config.peOf : List DWord → Nat → Nat

/-- Which memory port of its barn the mapper binds to a stream, by the address and index of its instruction or record (R273,
DESIGN CHOICE, log 9). -/
opaque Config.streamPort : Nat → Nat → Nat

/-- Bytes that the manual leaves to the device, by the number of a free value (R382, R457, DESIGN CHOICE, log 14). -/
opaque Config.freeByte : Nat → Byte

/-- The byte at an offset of a record of a save-image section whose place the manual does not give: it depends on the section's type
and on what the record holds (R382, DESIGN CHOICE, log 14). -/
opaque Config.recordByte : Nat → List Byte → Nat → Byte

/-- The bytes of tile state of a saved region of H rows and W columns (R382, type 10), whose length the manual calls variable (DESIGN
CHOICE, log 14). -/
opaque Config.regionBytes : Nat → Nat → Nat

/-- SHA-256 of a byte string (R410, R446, R477, DESIGN CHOICE, log 17). -/
opaque Config.sha256 : List Byte → BitVec 256

/-- Whether a 64-byte ECDSA signature on P-256 under a 64-byte public key is valid over a digest (R446, DESIGN CHOICE, log 17). -/
opaque Config.ecdsaValid : List Byte → BitVec 256 → List Byte → Bool

/-- The fused hash of Casron's signing key (R446, DESIGN CHOICE, log 17). -/
opaque Config.fusedKeyHash : BitVec 256

/-- The certificate chain that slot 0 returns (R477, DESIGN CHOICE, log 18). -/
opaque Config.certChain : List Byte

/-- The signature that the device key makes over a transcript (R477, DESIGN CHOICE, log 18). -/
opaque Config.deviceSign : List Byte → List Byte

/-- The HBM stacks and UCIe boundaries that fail to train at boot, as the bits of DIE_FENCE (R474, DESIGN CHOICE, log 19). -/
opaque Config.trainFailures : Nat → BitVec 8

/-- The bytes that the flash store holds at first: Belfry copies A and B, then firmware copies A and B (R447, R465,
DESIGN CHOICE, log 19). -/
opaque Config.flashCopy : Nat → List Byte

/-- The CRC-64 of a flit's first 248 bytes (R395): the manual gives no generator (DESIGN CHOICE, log 58). -/
opaque Config.crc64 : List Byte → BitVec 64

/-- The channel (low 6 bits) and priority (the next 3) that `.handler` declared for the handler block at an address: the
manual gives them no place in the image (R81, DESIGN CHOICE, log 53). -/
opaque Config.handlerDecl : Nat → Nat

end Sys2Proof
end

