-- ==== Sys2Proof/Machine/State.lean ====
section
/-! DEFINITION. The state of the module: every piece of state that the manual names, as plain data. Sparse collections
are lists; the memories are lists of cells in rising order of address. -/

namespace Sys2Proof.Machine

/-- Why the machine stops. -/
inductive Fault
  /-- A device unit reads or writes a device physical address that R360 reserves, named by a register that system
  software wrote. The manual gives such an access no effect. Raised by the units that take physical addresses from
  registers and requests. Safe: the model stops where the hardware is undefined. -/
  | reservedPhysical (pa : Nat)
  deriving DecidableEq, Repr

/-- Why an instruction has no meaning. -/
inductive Refusal
  /-- The instruction's meaning is not written. Raised by the dispatch only. Safe. -/
  | notModelled (mnemonic : String)
  deriving DecidableEq, Repr

/-- A token (R14): tag, data and metadata. `dep` is DEP. -/
structure Tok where
  tag  : DWord
  dep  : Nat
  data : Word
  ty   : Ty
  nul  : Bool := false
  eos  : Bool := false
  rol  : Bool := false
  poi  : Bool := false
  pp   : Bool := false
  pv   : Bool := false
  /-- The buffered stores of its invocation that it comes after by a chain of tokens, as numbers of accesses (R138, rule 3,
  R150). -/
  after : List Nat := []
  deriving DecidableEq, Repr

/-- A firing: a complete set taken at a node, with the word and the literal that follows it (R26, R71). -/
structure Firing where
  site  : Site
  word  : DWord
  lit   : DWord := 0
  tag   : DWord
  dep   : Nat
  a     : Option Tok := none
  b     : Option Tok := none
  c     : Option Tok := none
  p     : Option Tok := none
  since : Nat := 0
  deriving DecidableEq, Repr

/-- A loader core or a storer core of a barn (R216). -/
structure CoreId where
  barn   : Nat
  storer : Bool
  deriving DecidableEq, Repr

/-- What acts in a turn of the machine. -/
inductive Act
  /-- A node fires its oldest complete set that is not held (R26). -/
  | fire (site : Site)
  /-- A core executes one instruction (R216). -/
  | core (c : CoreId)
  /-- A unit acts as the event says. -/
  | event (i : Instr) (arg : EventArg)
  deriving DecidableEq, Repr

/-- One turn of the agenda: the cycles that pass before it, and what acts (DESIGN CHOICE, log 1). -/
structure Turn where
  dt  : Nat := 1
  act : Act
  deriving DecidableEq, Repr

/-- What a configured node is (R76, R439 to R442). -/
inductive NodeKind
  | plain
  | illegal
  | trap (slot cause : Nat)
  | emulate (slot : Nat)
  | rewrite (slot : Nat)
  deriving DecidableEq, Repr

/-- Bay states of R243; a tile or the Reeve serves its blocks likewise. -/
inductive BayState | configuring | serving | closing
  deriving DecidableEq, Repr

/-- A reconfiguration token at a node's configuration port (R32, R128). -/
structure Reconf where
  idx     : Nat
  q       : BitVec 4
  src     : Site
  tok     : Tok
  arrived : Option Nat
  deriving DecidableEq, Repr

/-- A block held by a bay, a tile, the Reeve or a region (R242, R246, R307). -/
structure Loaded where
  holder  : Holder
  k       : Nat
  v       : Nat
  blk     : Nat
  hdr     : BitVec 128
  words   : List DWord
  exits   : List DWord
  kinds   : List NodeKind
  /-- The configuration words of its converter nodes, by node index (R126). -/
  qcfg    : List (Nat × BitVec 4)
  codegen : Nat
  st      : BayState
  since   : Nat
  taken   : Nat := 0
  lastTake : Nat := 0
  refetch : Bool := false
  /-- SVC_CTL[15:0] of its barn when it was configured (R461). -/
  cols    : Nat := 0
  reconf  : List Reconf := []
  fired   : List (Nat × Nat) := []
  deriving DecidableEq, Repr

/-- A token in an input queue (R21): when it entered, and when it came to the head; the list order
of one queue is its order. -/
structure QTok where
  site  : Site
  slot  : Slot
  tok   : Tok
  since : Nat
  head  : Nat := 0
  deriving DecidableEq, Repr

/-- A result on its way: in the output stage of its node (R29), or in the register of link `hop` of its path (R30, R31). -/
structure Flight where
  src   : Site
  dst   : Site
  slot  : Slot
  tok   : Tok
  out   : Bool
  hop   : Nat := 0
  conf  : Option (BitVec 4) := none
  ready : Nat
  deriving DecidableEq, Repr

/-- Where a set waits (R23, R34). -/
inductive Place
  | table (entry : Nat)
  | loft
  | frame
  /-- Outside its node: a set that ERET fires again (R205). -/
  | outside
  /-- A set that fires as its defined instruction, whatever slot claims it (R442). -/
  | asDefined
  deriving DecidableEq, Repr

/-- A partial or complete set at a node (R23, R26). -/
structure PSet where
  site   : Site
  tag    : DWord
  dep    : Nat
  a      : Option Tok := none
  b      : Option Tok := none
  c      : Option Tok := none
  p      : Option Tok := none
  place  : Place
  opened : Nat
  done   : Option Nat := none
  last   : Slot := .a
  since  : Nat
  held   : Bool := false
  deriving DecidableEq, Repr

/-- An open invocation of a block (R237), with the values its gather entry held (for R371). -/
structure Invoc where
  holder  : Holder
  blk     : Nat
  k       : Nat
  v       : Nat
  tag     : DWord
  dep     : Nat
  vals    : List (Option Tok)
  closed  : Bool := false
  closing : Bool := false
  endOnly : Bool := true
  handler : Option Nat := none
  patch   : Option Nat := none
  taken   : Nat
  deriving DecidableEq, Repr

/-- A space instance (R100): its key and its allocation bits at the start of the present cycle; the indices freed and taken
in this cycle, and one more than the instruction index of the latest ALLOC that took one in it (R104). -/
structure Space where
  holder  : Holder
  blk     : Nat
  tag     : DWord
  dep     : Nat
  bits    : Nat
  freeing : Nat := 0
  taking  : Nat := 0
  takenBy : Nat := 0
  deriving DecidableEq, Repr

/-- A stream in progress at a node (R161 to R170): its parent, the next index, the count once the marker came, the
running accumulators and the tokens held back. -/
structure Stream where
  site   : Site
  tag    : DWord
  dep    : Nat
  next   : Nat := 0
  count  : Option Nat := none
  row    : Nat := 0
  facc   : Word := 0
  iacc   : Int := 0
  poi    : Bool := false
  /-- The buffered stores that its results come after (R150). -/
  after  : List Nat := []
  origin : Option Tok := none
  writes : Nat := 0
  done   : Bool := false
  trunc  : Option Nat := none
  trig   : Nat := 0
  fire   : Option Firing := none
  words  : List (Nat × Tok) := []
  rows   : List (Nat × Tok) := []
  rowEnd : Option Nat := none
  stuck  : Bool := false
  since  : Nat
  deriving DecidableEq, Repr

/-- A frame of a flail tile (R247, R248): its level, its place in the pool, its program counter, and the indices of the
instructions that fired in it or that it passed. -/
structure Frame where
  holder    : Holder
  blk       : Nat
  tag       : DWord
  dep       : Nat
  lev       : Int := 0
  base      : Nat
  pc        : Nat
  fired     : List Nat := []
  passed    : List Nat := []
  opened    : Nat
  deriving DecidableEq, Repr

/-- The stores of the module, by what their addresses mean. -/
inductive Store | dev | host | scr | wbuf
  deriving DecidableEq, Repr

/-- The identity of an open invocation: its holder, block, tag and DEP. -/
structure InvKey where
  holder : Holder
  blk    : Nat
  tag    : DWord
  dep    : Nat
  deriving DecidableEq, Repr

/-- A value for an entry slot of a gather entry (R202, R240). Block 0 is the end exit (R66). -/
structure Value where
  blk : Nat
  tag : DWord
  dep : Nat
  ent : Nat
  tok : Tok
  /-- A RET's value, whose slot is held against NENT of the block (R203). -/
  ret : Bool := false
  deriving DecidableEq, Repr

/-- A delivery on its way to the queue controller (R202, R240, R215): what a firing or a core sends at once, the
invocation that delivers, and whether its firing closes it. -/
structure Delivery where
  k     : Nat
  v     : Nat
  vals  : List Value
  from_ : Option InvKey := none
  close : Bool := false
  fire  : Option Firing := none
  core  : Option CoreId := none
  ready : Nat
  deriving DecidableEq, Repr

/-- A store-buffer entry (R150, R252): a store, whose bytes stand in its access, or an EXIT or CALL delivery of an
idempotent block (R371). -/
structure SbufEntry where
  holder  : Holder
  blk     : Nat
  tag     : DWord
  dep     : Nat
  acc     : Option Nat
  deliver : Option Delivery := none
  commit  : Bool := false
  deriving DecidableEq, Repr

/-- The atomic operations of R146. -/
inductive AtOp | add | min | max | and | or | xor | swap | cas | fadd (rm : Rnd)
  deriving DecidableEq, Repr

/-- What an access does at its location. -/
inductive AccKind
  | read
  | write
  | atomic (op : AtOp) (ty : Ty)
  | prefetch
  | arrive
  | barInit (sinks : Nat)
  | barWait
  | charge (bytes : Nat)
  | presence (set clr once test : Bool)
  | claim (q : Nat)
  | fetch
  deriving DecidableEq, Repr

/-- Where an access goes: a flat address (R135), a scratch address (R136) or a weight-window offset (R262). -/
inductive Area | flat | scratch | weight
  deriving DecidableEq, Repr

/-- Who issued an access and what its completion feeds. -/
inductive Origin
  | firing (f : Firing)
  | stream (f : Firing) (index : Nat)
  | streamWrite (f : Firing)
  | core (c : CoreId) (pc : Nat) (rd : Nat)
  | coreCount (c : CoreId) (pc : Nat) (eq : Option Nat) (poolTok : Nat)
  | trapRec (k n : Nat)
  /-- The queue controller's claim on a direct launch queue (R335). -/
  | direct (k q : Nat)
  deriving DecidableEq, Repr

/-- One naturally aligned piece of an access (R139): its address and bytes, the bits that it touches, its data, and once
translated its place. -/
structure Piece where
  addr  : Nat
  size  : Nat
  mask  : Nat
  data  : Nat
  place : Option (Store × Nat) := none
  /-- The cycle in which it reached its bank or memory node (R264, R274). -/
  got   : Nat := 0
  resp  : Option Nat := none
  poi   : Bool := false
  deriving DecidableEq, Repr

/-- A word of a tensor behind a tile table (R275): its descriptor and its coordinates. -/
structure TensWord where
  desc : List Byte
  at_  : List Nat
  deriving DecidableEq, Repr

/-- What a raising rule says of a trap. -/
structure Cause where
  code  : Nat
  cause : Nat := 0
  slot  : Nat := 0xFF
  aux0  : Nat := 0
  aux1  : Nat := 0
  aux2  : Nat := 0
  deriving DecidableEq, Repr

/-- Translation of an access: none is pending, an ATS request is out (R366), a fault identifier is waited on (R369), or
its trap is due in the turn of its word (R163). -/
inductive Trans
  | ready
  | ats
  | fault (die fid : Nat)
  | failed (c : Cause)
  deriving DecidableEq, Repr

/-- A split-transaction access (R274): a memory request with its pieces, what it orders (R138) and how far it is. -/
structure Access where
  id     : Nat
  origin : Origin
  k      : Nat
  v      : Nat
  barn   : Nat
  tag    : DWord
  dep    : Nat
  area   : Area
  kind   : AccKind
  ty     : Ty
  sc     : Scope
  acq    : Bool := false
  rel    : Bool := false
  opnd   : Nat := 0
  cmp    : Nat := 0
  wf     : Bool := false
  clr    : Bool := false
  nb     : Bool := false
  once   : Bool := false
  poi    : Bool := false
  tens   : Option TensWord := none
  pieces : List Piece
  pos    : Nat := 0
  trans  : Trans := .ready
  waiting : Bool := false
  done   : Bool := false
  flags  : Nat := 0
  /-- The word of the core instruction that issued it. -/
  word   : Nat := 0
  /-- The cycle of its issue. -/
  born   : Nat := 0
  /-- The cycle from which its age counts (R259). -/
  since  : Nat
  deriving DecidableEq, Repr

/-- Why a firing or an item waits outside its node (R197, R212). -/
inductive WaitWhy
  | awaitSheaf (waiter : Nat)
  | kdone (v : Nat)
  deriving DecidableEq, Repr

/-- A firing that waits without occupying its node, and when it may go on. -/
structure Wait where
  /-- Its place in the order of firings and accesses. -/
  id    : Nat := 0
  fire  : Firing
  core  : Option CoreId := none
  rd    : Nat := 0
  k     : Nat
  why   : WaitWhy
  since : Nat
  deriving DecidableEq, Repr

/-- A loader or storer core (R216 to R235). -/
structure Core where
  id      : CoreId
  k       : Nat
  v       : Nat
  active  : Bool
  x       : List Word
  pc      : Word
  istore  : List Host.Cell
  dmem    : List Host.Cell
  csrs    : List (Nat × Word)
  resv    : Option Nat := none
  ld      : Nat := 0
  st      : Nat := 0
  cpy     : Nat := 0
  tt      : Nat := 0
  waiting : Bool := false
  ending  : Bool := false
  stopped : Bool := false
  since   : Nat := 0
  deriving DecidableEq, Repr

/-- The target kinds of an input edge queue (R222). -/
structure Binding where
  kind : Nat
  tgt  : Word
  ty   : Ty
  sw   : Nat
  ent  : Nat
  deriving DecidableEq, Repr

/-- A position of an edge queue (R221); a reserved position of an XLQ has no token yet. -/
structure EqTok where
  barn  : Nat
  out   : Bool
  q     : Nat
  k     : Nat
  v     : Nat
  tok   : Option Tok
  bind  : Binding
  id    : Nat := 0
  since : Nat
  /-- The cycle from which its age counts, once it is the head of its queue (R259). -/
  age   : Option Nat := none
  deriving DecidableEq, Repr

/-- A word in a channel queue of a tile, or in its patch queue (R204, R249, R442). -/
structure ChanWord where
  barn  : Nat
  tile  : Nat
  ch    : Option Nat
  k     : Nat
  tok   : Tok
  ops   : List (Option Tok) := []
  link  : Nat := 0
  since : Nat
  /-- The cycle from which its age counts, once it is the head of its queue (R259). -/
  age   : Option Nat := none
  deriving DecidableEq, Repr

/-- An installed handler entry (R249). -/
structure Handler where
  barn   : Nat
  tile   : Nat
  ch     : Nat
  k      : Nat
  v      : Nat
  blk    : Nat
  pri    : Nat
  active : Bool := false
  deriving DecidableEq, Repr

/-- An entry of a region's accumulator set (R171, R177). -/
structure AccEntry where
  half : Nat
  idx  : Nat
  tile : Nat
  full : Bool
  vals : List Int
  poi  : Bool := false
  deriving DecidableEq, Repr

/-- A tile in progress in a region (R177, R309). -/
structure MTile where
  id    : Nat
  tag   : DWord
  dep   : Nat
  half  : Nat
  base  : Nat
  next  : List Nat
  toks  : List (Nat × Tok)
  inits : List (Nat × Tok)
  count : Option Nat := none
  icount : Option Nat := none
  started : Nat
  lastIn : Nat := 0
  deriving DecidableEq, Repr

/-- One half of a region's weight latches (R171, R175). -/
structure Half where
  loaded : Bool := false
  fresh  : Bool := false
  wfmt   : Nat := 0
  gsz    : Nat := 0
  bytes  : List Byte := []
  poi    : Bool := false
  deriving DecidableEq, Repr

/-- A weight load in progress (R175). -/
structure WLoad where
  fire  : Firing
  off   : Nat
  wfmt  : Nat
  gsz   : Nat
  cmp   : Bool
  started : Option Nat := none
  /-- The weight buffer from its offset on, as the load found it (R270). -/
  seen  : List Byte := []
  deriving DecidableEq, Repr

/-- A drain in progress at an MDRAIN node (R178). -/
structure Drain where
  site : Site
  tag  : DWord
  dep  : Nat
  half : Nat
  base : Nat
  m    : Nat
  ires : Bool
  poi  : Bool := false
  next : Nat := 0
  since : Nat := 0
  deriving DecidableEq, Repr

/-- A systolic region (R171). -/
structure Region where
  barn   : Nat
  r      : Nat
  k      : Nat
  v      : Nat
  gen    : Nat
  h      : Nat
  w      : Nat
  row    : Nat
  col    : Nat
  active : Nat := 0
  half0  : Half := {}
  half1  : Half := {}
  accs   : List AccEntry := []
  tiles  : List MTile := []
  rowTab : List (Nat × Nat × Nat × Tok) := []
  loads  : List WLoad := []
  swap   : Option Firing := none
  freeBy : Option Firing := none
  drains : List Drain := []
  task   : Option Nat := none
  nextTile : Nat := 0
  rowFree : List (Nat × Nat) := []
  busyTo : Nat := 0
  blk    : Nat := 0
  deriving DecidableEq, Repr

/-- A command of a wain engine or of the Carillon (R187 to R193). Engine numbers are 4 d + k, and 32 the Carillon. -/
structure Cmd where
  id     : Nat
  eng    : Nat
  k      : Nat
  v      : Nat
  asid   : Nat
  barn   : Nat
  recAt  : Nat
  bytes  : List Byte
  charged : Nat
  core   : Option CoreId
  running : Bool := false
  pos    : Nat := 0
  writ   : Bool := false
  published : Bool := false
  cseq   : Nat := 0
  cause  : Nat := 0
  fault  : Option (Nat × Nat) := none
  shadow : List (Nat × Nat × Nat) := []
  /-- Bytes written ahead of `pos`. -/
  ahead  : List Nat := []
  /-- Bytes read and not yet written, with their poison. -/
  got    : List (Nat × Byte × Bool) := []
  /-- Units of poison of its destination that it poisoned. -/
  poi    : List Nat := []
  /-- Indices read of the rows of a GATH or SCAT in progress, by row (R189). -/
  idx    : List (Nat × Nat) := []
  /-- Flags of each lane that a reduction is to record when it completes (R52). -/
  lanes  : List Nat := []
  /-- Who issued it: a firing, or a core's pc. -/
  fire   : Option Firing := none
  at_    : Nat := 0
  /-- The cycle from which its age counts (R193, R259). -/
  age    : Nat := 0
  /-- When a peer of its group came to have no route (R399). -/
  lostAt : Option Nat := none
  since  : Nat
  deriving DecidableEq, Repr

/-- What stands in the fabric: the state that a save image holds (R382, sections 3 to 12). -/
structure Fabric where
  blocks   : List Loaded := []
  queues   : List QTok := []
  flights  : List Flight := []
  sets     : List PSet := []
  invocs   : List Invoc := []
  spaces   : List Space := []
  streams  : List Stream := []
  frames   : List Frame := []
  sbuf     : List SbufEntry := []
  accs     : List Access := []
  waits    : List Wait := []
  cores    : List Core := []
  eqs      : List EqTok := []
  chans    : List ChanWord := []
  handlers : List Handler := []
  regions  : List Region := []
  cmds     : List Cmd := []
  deriving DecidableEq, Repr

/-- A kernel or graph instance (R236, R330, R332). `outc` and `tcode` are the outcome once it is killed. -/
structure Inst where
  k      : Nat
  v      : Nat
  recAt  : Nat
  recBytes : List Byte
  kbase  : List DWord
  desc   : List (List Byte)
  graph  : Bool
  entry  : Nat
  nblk   : Nat
  base   : Nat
  blkoff : Nat
  blklen : Nat
  seq    : Nat
  ready  : Option Nat := none
  fallback : Bool := false
  waiter : Option Nat := none
  placed : Option Nat := none
  barns  : List Nat := []
  migr   : List (Nat × Nat) := []
  cls    : Nat := 0
  other  : Bool := false
  ops    : Nat := 0
  bytes  : Nat := 0
  turns  : Nat := 0
  strand : Bool := false
  outc   : Nat := 0
  tcode  : Nat := 0
  done   : Bool := false
  exits  : List (Bool × Word) := []
  progs  : List (Nat × Bool) := []
  /-- The tails of its gather queues, by the block's address, counted from their creation (R239). -/
  tails  : List (Nat × Nat) := []
  deriving DecidableEq, Repr

/-- A gather entry (R239, R240), in slot `pos` of its ring modulo GQN: `closed` once an invocation delivered to it, `from_`
the delivering invocations that are not closed. -/
structure Gather where
  k      : Nat
  v      : Nat
  blk    : Nat
  tag    : DWord
  dep    : Nat
  vals   : List (Option Tok)
  closed : Bool := false
  from_  : List InvKey := []
  ready  : Option Nat := none
  home   : Option Holder := none
  fid    : Option (Nat × Nat) := none
  /-- Its slot, counted from the creation of its ring. -/
  pos    : Nat := 0
  since  : Nat
  /-- The cycle from which its age counts (R259). -/
  age    : Nat := 0
  /-- The record of the access whose page fault aborted its invocation, and the index of the instruction that made it (R152). -/
  why    : Option Cause := none
  idx    : Nat := 0xFF
  deriving DecidableEq, Repr

/-- A block fetch in progress (R67, R68): where the block will be held, and how often it failed. -/
structure Fetch where
  holder : Holder
  k      : Nat
  v      : Nat
  blk    : Nat
  fails  : Nat := 0
  again  : Nat := 0
  fire   : Option Firing := none
  fault  : Option (Nat × Nat) := none
  since  : Nat
  deriving DecidableEq, Repr

/-- What a pending trap holds (R427). -/
inductive Hold
  | firing (f : Firing)
  | emulation (f : Firing) (slot : Nat)
  | word (acc : Nat)
  | stream (f : Firing) (index : Nat)
  | fetch (h : Holder) (k v blk : Nat)
  | core (c : CoreId)
  | waiter (w input : Nat)
  /-- What waits on a page fault that software resolved with FAIL (R372). -/
  | page (die fid : Nat)
  /-- The head token of an input edge queue (R222, R234). -/
  | edge (barn q : Nat)
  | none
  deriving DecidableEq, Repr

/-- The resolution classes of R426. -/
inductive TrapClass | F | G | E | W | A
  deriving DecidableEq, Repr

/-- How far the delivery of a trap is (R423, R425, R429). -/
inductive Delivered | raised | channel | host
  deriving DecidableEq, Repr

/-- A pending trap of a context slot (R423) with the fields of its record (R425). -/
structure Trap where
  k      : Nat
  index  : Nat
  tcode  : Nat
  cause  : Nat
  cls    : TrapClass
  srck   : Nat
  barn   : Nat
  unit   : Nat
  idx    : Nat
  blk    : Nat
  word   : DWord
  tag    : DWord
  dep    : Nat
  slot   : Nat
  aux0   : DWord
  aux1   : DWord
  aux2   : Word
  cyc    : Nat
  v      : Nat
  hold   : Hold
  stage  : Delivered := .raised
  toHost : Bool := false
  deriving DecidableEq, Repr

/-- A host event entry (R430). -/
structure HostEvent where
  type : Nat
  slot : Nat
  a    : Nat
  b    : Nat
  cyc  : Nat
  deriving DecidableEq, Repr

/-- An outstanding page fault (R369 to R373). -/
structure PageFault where
  die    : Nat
  fid    : Nat
  k      : Nat
  asid   : Nat
  va     : Nat
  cause  : Nat
  tile   : Option Nat
  access : Nat
  malf   : Bool
  idem   : Bool
  src    : Nat
  cyc    : Nat
  sent   : Bool := false
  failed : Bool := false
  deriving DecidableEq, Repr

/-- A cached translation of a port or die TLB (R365). -/
structure TlbEntry where
  die   : Nat
  port  : Option Nat
  asid  : Nat
  va    : Nat
  size  : Nat
  frame : Nat
  host  : Bool
  r     : Bool
  w     : Bool
  x     : Bool
  tt    : Bool
  deriving DecidableEq, Repr

/-- A table entry of a die's walk cache (R365): the range under it, and the table that it points to. -/
structure WalkEntry where
  die   : Nat
  asid  : Nat
  va    : Nat
  size  : Nat
  table : Nat
  deriving DecidableEq, Repr

/-- An ASID entry that a die's walker keeps (R361, R367). -/
structure AsidEntry where
  die   : Nat
  asid  : Nat
  root  : Nat
  pasid : Option Nat
  deriving DecidableEq, Repr

/-- A tile-table entry that a memory port keeps (R276). -/
structure TileEntry where
  port  : Nat
  asid  : Nat
  ttab  : Nat
  tile  : Nat
  entry : Nat
  deriving DecidableEq, Repr

/-- An invalidation command in progress (R367). -/
structure InvCmd where
  kind : Nat
  asid : Nat
  va   : Nat
  log2 : Nat
  ats  : Bool
  wait : List Nat
  /-- The result record of a retirement that ends with this command, and its new frame (R463). -/
  retire : Option (Nat × Nat) := none
  /-- A frame that returns to its channel's list at completion: its size class and address (R368). -/
  back : Option (Nat × Nat) := none
  deriving DecidableEq, Repr

/-- A scrub in progress (R268). -/
structure Scrub where
  barn   : Nat
  k      : Nat
  weight : Bool
  base   : Nat
  size   : Nat
  deriving DecidableEq, Repr

/-- A queue descriptor that the queue controller holds (R333). -/
structure QDesc where
  k      : Nat
  q      : Nat
  base   : Nat
  log2n  : Nat
  en     : Bool
  direct : Bool
  head   : Nat
  tail   : Nat
  /-- A change of HEAD or TAIL is still to be written back (R333). -/
  dirty  : Bool := false
  /-- The cycle of its latest direct claim (R335). -/
  claimed : Option Nat := none
  deriving DecidableEq, Repr

/-- A Sheaf Table entry (R345); `way` is none for a spilled one, which has slot `slot` of the overflow region. -/
structure Sheaf where
  asid  : Nat
  tid   : Nat
  tile  : Nat
  gen   : Nat := 0
  seq   : Nat := 0
  pub   : Bool := false
  ngen  : Nat := 0
  way   : Option Nat
  slot  : Nat := 0
  deriving DecidableEq, Repr

/-- One input of a waiter (R348). -/
structure WInput where
  tid    : Nat
  tile   : Nat
  egen   : Nat
  count  : Nat
  cnt    : Nat
  reg    : Bool := false
  /-- The order of its link among those of its entry; the greatest stands at the head (R349). -/
  link   : Nat := 0
  deriving DecidableEq, Repr

/-- A waiter record (R348). -/
structure Waiter where
  id     : Nat
  kind   : Nat
  asid   : Nat
  k      : Nat
  v      : Nat
  recAt  : Nat
  pool   : Nat
  inputs : List WInput
  ready  : Bool := false
  fault  : Bool := false
  spill  : Bool := false
  /-- Its slot of the overflow region, where it is spilled (R354). -/
  slot   : Nat := 0
  since  : Nat := 0
  deriving DecidableEq, Repr

/-- A publish on its way to its entry's home die (R196). -/
structure Publish where
  k     : Nat
  v     : Nat := 0
  asid  : Nat
  tid   : Nat
  tile  : Nat
  gen   : Nat
  seq   : Nat
  fire  : Option Firing
  core  : Option CoreId
  cmd   : Option Nat
  task  : Option Nat := none
  ready : Nat
  deriving DecidableEq, Repr

/-- The steps of a tile task (R180). -/
inductive TaskStep | bind | stage | swap | stream | mmac | drain | write | publish | free
  deriving DecidableEq, Repr

/-- A tile task, from its queue slot to its end (R180, R181, R311, R312). -/
structure Task where
  id     : Nat
  die    : Nat
  k      : Nat
  v      : Nat
  recAt  : Nat
  bytes  : List Byte
  core   : Option CoreId
  order  : Nat
  slot   : Nat
  ready  : Option Nat := none
  waiter : Option Nat := none
  fallback : Bool := false
  run    : Option (Nat × Nat × TaskStep) := none
  /-- When it was issued, and its place in the order of issues (R311, R312). -/
  issued : Option (Nat × Nat) := none
  stageAt : Nat := 0
  /-- Words that its present step has written. -/
  pos    : Nat := 0
  fault  : Option (Nat × Nat) := none
  deriving DecidableEq, Repr

/-- A queued slot of the tile-task queue that no scheduler has taken (R335). -/
structure TaskSlot where
  k     : Nat
  v     : Nat
  recAt : Nat
  core  : Option CoreId
  slot  : Nat
  order : Nat := 0
  freed : Bool := false
  taken : Bool := false
  deriving DecidableEq, Repr

/-- A rank's collective control flit at the Carillon (R192). -/
structure RankArrival where
  grp   : Nat
  cseq  : Nat
  rank  : Nat
  ck    : Nat
  opf   : Nat
  count : Nat
  root  : Nat
  deriving DecidableEq, Repr

/-- A chunk of a remote rank's contribution (R395, R399). -/
structure Chunk where
  grp   : Nat
  cseq  : Nat
  rank  : Nat
  off   : Nat
  words : List Word
  deriving DecidableEq, Repr

/-- A chunk that a port sent and its peer has not acknowledged (R396): its sequence number, the package it goes to, and
what it carries. -/
structure Sent where
  seq   : Nat
  pkg   : Nat
  chunk : Chunk
  deriving DecidableEq, Repr

/-- A peer port (R395 to R397): the numbers of the next flit to send and to receive, its credits, and its unacknowledged
flits, the oldest first. -/
structure Port where
  p        : Nat
  training : Bool := false
  next     : Nat := 0
  expect   : Nat := 0
  unacked  : List Sent := []
  cred0    : Nat := 128
  cred1    : Nat := 128
  replays  : Nat := 0
  lastAck  : Nat := 0
  deriving DecidableEq, Repr

/-- A placed image of a slot (R404, R405). -/
structure Image where
  k      : Nat
  base   : Nat
  len    : Nat
  minr   : Nat
  stale  : Bool := false
  deriving DecidableEq, Repr

/-- An entry of the translation store (R410). -/
structure TcEntry where
  key     : List Byte
  image   : List Byte
  digest  : BitVec 256
  lastUse : Nat
  er      : Nat
  deriving DecidableEq, Repr

/-- A patch slot (R436). -/
structure PatchSlot where
  n      : Nat
  pri    : Nat
  act    : Nat
  opv    : BitVec 10
  opm    : BitVec 10
  tyv    : BitVec 4
  tyany  : Bool
  pmv    : BitVec 2
  pmany  : Bool
  qv     : BitVec 8
  qm     : BitVec 8
  nrep   : Nat
  cpx    : BitVec 4
  entmap : List (BitVec 8)
  hoff   : Nat
  rep    : List DWord
  deriving DecidableEq, Repr

/-- A fault hook (R444). -/
structure Hook where
  n     : Nat
  kind  : Nat
  act   : Nat
  cnt   : Nat
  scls  : Nat
  tcode : Nat
  cause : Nat
  deriving DecidableEq, Repr

/-- A Belfry or firmware load in progress (R448, R465). -/
structure FwReq where
  bytes   : List Byte
  persist : Bool
  started : Nat
  deriving DecidableEq, Repr

/-- A context's stop (R379): the units that have frozen it, and why it stops. -/
structure Stop where
  k      : Nat
  frozen : List StopUnit := []
  /-- A freeze stopped it: it stays in STATE 1 until system software acts (R434). -/
  freeze : Bool := false
  /-- A checkpoint or a pre-emption asked for it, not a freeze alone. -/
  asked  : Bool := true
  /-- Its save passed the save area (R381). -/
  ovf    : Bool := false
  deriving DecidableEq, Repr

/-- The bytes of one barn's allocation in a saved context, by offset: its logical barn, size, cells, full granules and
poisoned units. -/
structure SavedMem where
  barn  : Nat
  size  : Nat
  cells : List Host.Cell
  pres  : List Nat := []
  poi   : List Nat := []
  deriving DecidableEq, Repr

/-- An instance of a saved context: its logical barns and the cycles since it was placed. -/
structure SavedInst where
  v     : Nat
  barns : List Nat
  since : Nat
  deriving DecidableEq, Repr

/-- A saved context (R382, R384): its scratchpad and weight buffers and its instances' places. `bmap` is the map of logical
barns when it was saved. Its tokens, sets and cores stay in the lists of the fabric, under numbers of no unit (DESIGN CHOICE, log 14). -/
structure Saved where
  k     : Nat
  asid  : Nat
  scr   : List SavedMem
  wbuf  : List SavedMem
  insts : List SavedInst
  bmap  : List Nat
  restoring : Bool := false
  deriving DecidableEq, Repr

/-- The pre-emption request in progress (R374 to R378). -/
structure Preempt where
  k       : Nat
  v       : Nat
  victims : List Nat
  drains  : List (Nat × Nat)
  dueAt   : Nat
  deriving DecidableEq, Repr

/-- An entry of ERR_LOG (R432). -/
structure ErrEntry where
  unit : Nat
  cls  : Nat
  slot : Nat
  out  : Nat
  loc  : Nat
  addr : Nat
  cyc  : Nat
  deriving DecidableEq, Repr

/-- A frozen partition (R434). -/
structure Freeze where
  p     : Nat
  at_   : Nat
  gated : Bool := false
  deriving DecidableEq, Repr

/-- The values of one snapshot (R455), each under the number of its unit and item. -/
structure SnapItem where
  unit : Nat
  item : Nat
  val  : Nat
  deriving DecidableEq, Repr

/-- An answer on DOE (R477). -/
inductive DoeReply
  | version
  | capabilities
  | algorithms
  | digests (d : BitVec 256)
  | certificate (bytes : List Byte)
  | challengeAuth (nonce : Nat) (sig : List Byte)
  | measurement (index : Nat) (bytes : List Byte)
  | unsupportedRequest
  deriving DecidableEq, Repr

/-- A memory checkpoint in progress (R460). -/
structure MemCkpt where
  src    : Nat
  len    : Nat
  dst    : Nat
  res    : Nat
  resume : Bool
  slots  : List Nat
  deriving DecidableEq, Repr

/-- The state of the module. -/
structure State where
  /-- PKG_CYC (R452). -/
  cyc      : Nat
  /-- What acts next (DESIGN CHOICE, log 1). -/
  agenda   : List Turn
  /-- The firing, the core and the event in focus. -/
  cur      : Option Firing
  curCore  : Option CoreId
  arg      : EventArg
  /-- The firing in focus found that it is held (R103). -/
  held     : Bool
  /-- It is an ALLOC left with no index: its PE fires nothing else in this cycle (R104). -/
  left     : Bool
  /-- The model's counter of free values. -/
  ctr      : Nat
  /-- The next number of an access, a command, a task or a waiter. -/
  fresh    : Nat
  /-- Control registers that differ from reset, by BAR0 offset (R479). -/
  regs     : List (Nat × DWord)
  /-- Flags raised in the present cycle, by the offset of their register (R53). -/
  raised   : List (Nat × DWord)
  /-- HBM by device physical address (R272). -/
  dmem     : List Host.Cell
  /-- Host memory by host physical address (R360). -/
  hmem     : List Host.Cell
  /-- Scratchpad, by barn × 2^22 + physical offset (R261). -/
  scr      : List Host.Cell
  /-- Weight buffers, by barn × 2^21 + offset (R270). -/
  wbuf     : List Host.Cell
  /-- Full granules, by barn × 2^18 + granule (R143). -/
  pres     : List Nat
  /-- Poisoned lines of HBM and host memory, granules of the scratchpad and words of weight buffers (R151, R432). -/
  poisD    : List Nat
  poisH    : List Nat
  poisS    : List Nat
  poisW    : List Nat
  /-- The fabric, saved contexts and stops in progress. -/
  fab      : Fabric
  saved    : List Saved
  stops    : List Stop
  insts    : List Inst
  gathers  : List Gather
  /-- The candidate blocks of each barn, the earliest first: barn, slot, invocation number, block (R244). -/
  cands    : List (Nat × Nat × Nat × Nat)
  delivs   : List Delivery
  fetches  : List Fetch
  /-- Configuration caches: barn, or 64 for the Reeve, and a block fetched whole; the least recently used first (R243). -/
  ccache   : List (Nat × Loaded)
  traps    : List Trap
  /-- Trap words of emulations that an abort resolved (R443). -/
  voided   : List (Nat × Word)
  hostEvts : List HostEvent
  pfaults  : List PageFault
  nextFid  : List (Nat × Nat)
  tlb      : List TlbEntry
  walks    : List WalkEntry
  asids    : List AsidEntry
  tileEnts : List TileEntry
  invq     : List InvCmd
  scrubs   : List Scrub
  regGens  : List (Nat × Nat)
  qtab     : List QDesc
  sheaves  : List Sheaf
  waiters  : List Waiter
  pubs     : List Publish
  pubSeq   : List (Nat × Nat)
  tasks    : List Task
  taskQ    : List TaskSlot
  ranks    : List RankArrival
  chunks   : List Chunk
  collSeq  : List (Nat × Nat)
  ports    : List Port
  /-- Lines of device memory that the host caches, the least recently granted first (R391). -/
  snoop    : List Nat
  /-- What the host was given of the lines that it caches (R293, R391). -/
  hostCopy : List (Nat × BitVec 512)
  /-- Lines of the CXL cache agents: port, line, ownership, dirty; the least recently used first (R393). -/
  agent    : List (Nat × Nat × Bool × Bool)
  decoders : List (Nat × Nat × Nat)
  /-- CXL ports in the trained state (R393). -/
  cxl      : List Nat
  /-- Lines of device memory with a store of a slot whose back-invalidation is not complete (R137). -/
  hostBusy : List (Nat × Nat)
  loadq    : List Nat
  /-- The page fault that the load request in progress waits on, and whether one was resolved with FAIL (R403). -/
  loadFault : Option (Nat × Nat)
  loadFailed : Bool
  /-- A write of TC_CTL.FLUSH waits for the request in progress (R412). -/
  tcFlushing : Bool
  images   : List Image
  tcLevel  : Nat
  tcLook   : Nat
  tc       : List TcEntry
  slots    : List PatchSlot
  hooks    : List Hook
  patchCode : List Byte
  patchImg : List Byte
  belCopies : List (List Byte)
  belLoad  : Option FwReq
  fwImg    : List Byte
  fwCopies : List (List Byte)
  fwReq    : Option FwReq
  preempt  : Option Preempt
  /-- The cycle of the latest placement turn. -/
  turnAt   : Option Nat
  reeveK   : Option Nat
  reeveTaken : Nat
  reeveLast : Nat
  reeveClose : Bool
  gongAt   : Option Nat
  snap     : List SnapItem
  freezes  : List Freeze
  errLog   : List ErrEntry
  errCount : Nat
  masks    : List (Nat × Nat × Nat)
  mck      : Option MemCkpt
  shadowRet : List (Nat × Nat × Nat)
  shadowDrop : List (Nat × Nat)
  badBound : List (Nat × Nat)
  retired  : List Nat
  /-- A temperature of 105 °C froze every partition, and it has not fallen below 85 °C since (R476). -/
  overtemp : Bool
  /-- Counters that only snapshots show (R455), each under its own number. -/
  counts   : List (Nat × Nat)
  doe      : List DoeReply
  deriving DecidableEq, Repr

/-- The module right after reset: every register at its reset value, every SRAM zero with presence bits 0, no context
placed, READY 0 (R474, R475). -/
def State.reset : State :=
  { cyc := 0, agenda := [], cur := none, curCore := none, arg := {}, held := false, left := false, ctr := 0, fresh := 0,
    regs := [], raised := [], dmem := [], hmem := [], scr := [], wbuf := [], pres := [], poisD := [], poisH := [],
    poisS := [], poisW := [], fab := {}, saved := [], stops := [], insts := [], gathers := [], cands := [], delivs := [],
    fetches := [], ccache := [], traps := [], voided := [], hostEvts := [], pfaults := [], nextFid := [], tlb := [], walks := [], asids := [], tileEnts := [], invq := [], scrubs := [],
    regGens := [], qtab := [], sheaves := [], waiters := [], pubs := [], pubSeq := [], tasks := [], taskQ := [],
    ranks := [], chunks := [], collSeq := [], ports := [], snoop := [], hostCopy := [], agent := [], decoders := [], cxl := [], hostBusy := [],
    loadq := [], loadFault := none, loadFailed := false, tcFlushing := false, images := [], tcLevel := 0, tcLook := 0, tc := [], slots := [], hooks := [], patchCode := [],
    patchImg := [], belCopies := [Config.flashCopy 0, Config.flashCopy 1], belLoad := none, fwImg := [], fwCopies := [Config.flashCopy 2, Config.flashCopy 3], fwReq := none,
    preempt := none, turnAt := none, reeveK := none, reeveTaken := 0, reeveLast := 0, reeveClose := false, gongAt := none,
    snap := [], freezes := [], errLog := [], errCount := 0, masks := [], mck := none, shadowRet := [],
    shadowDrop := [], badBound := [], retired := [], overtemp := false, counts := [], doe := [] }

end Sys2Proof.Machine
end

