-- ==== Sys2Proof/Machine/Regs.lean ====
section
/-! DEFINITION. The control registers: their places (R479), widths, reset values and access masks (R9), and the
operations that read and write them. -/

namespace Sys2Proof.Machine

/-- A control register (R478). The first number is a port, tenant, package, partition, context slot, die or barn, and
the second an index in it. ERR_CE and ERR_UE of units 64 and above belong to I/O-die units. -/
inductive Reg
  /-- PKG_STAT (R475) -/
  | pkgStat
  /-- PKG_RST (R475) -/
  | pkgRst
  /-- PWR_CFG (R476) -/
  | pwrCfg
  /-- PWR_STAT (R476) -/
  | pwrStat
  /-- PKG_CYC (R452) -/
  | pkgCyc
  /-- DIE_FENCE (R464) -/
  | dieFence
  /-- GONG_CTL (R454) -/
  | gongCtl
  /-- GONG_CYC (R454) -/
  | gongCyc
  /-- MCK_REQ (R460) -/
  | mckReq
  /-- MCK_STAT (R460) -/
  | mckStat
  /-- HBM_RETREQ (R463) -/
  | hbmRetreq
  /-- HBM_RETSTAT (R463) -/
  | hbmRetstat
  /-- FW_LDREQ (R465) -/
  | fwLdreq
  /-- FW_STAT (R465) -/
  | fwStat
  /-- RB_PAGE.p (R456) -/
  | rbPage (p : Nat)
  /-- HOST_EVT (R430) -/
  | hostEvt
  /-- HOST_EVMASK (R430) -/
  | hostEvmask
  /-- HOST_EVHT (R430) -/
  | hostEvht
  /-- HOST_APCTL (R392) -/
  | hostApctl
  /-- LINK_ID (R397) -/
  | linkId
  /-- WIN_CFG (R337) -/
  | winCfg
  /-- LINK_STAT.p (R397) -/
  | linkStat (p : Nat)
  /-- LINK_ROUTE.n (R397) -/
  | linkRoute (p : Nat)
  /-- CAR_GTAB (R398) -/
  | carGtab
  /-- TR_ATAB (R361) -/
  | trAtab
  /-- TR_CFL (R368) -/
  | trCfl
  /-- TR_INVVA (R367) -/
  | trInvva
  /-- TR_INV (R367) -/
  | trInv
  /-- TR_INVSTAT (R367) -/
  | trInvstat
  /-- IMG_LDREQ (R403) -/
  | imgLdreq
  /-- IMG_STAT (R403) -/
  | imgStat
  /-- TC_CTL (R412) -/
  | tcCtl
  /-- TC_STAT (R412) -/
  | tcStat
  /-- BEL_ID (R449) -/
  | belId
  /-- BEL_STAT (R449) -/
  | belStat
  /-- BEL_CTL (R449) -/
  | belCtl
  /-- BEL_LDREQ (R448) -/
  | belLdreq
  /-- SCHED_TQ.t (R339) -/
  | schedTq (p : Nat)
  /-- BEL_HOOKCNT.n (R444) -/
  | belHookcnt (p : Nat)
  /-- FRZ_ACT.p (R459) -/
  | frzAct (p : Nat)
  /-- FRZ_STAT.p (R434) -/
  | frzStat (p : Nat)
  /-- FRZ_CYC.p (R434) -/
  | frzCyc (p : Nat)
  /-- CTX_RUN.k (R381) -/
  | ctxRun (p : Nat)
  /-- CTX_SAVE.k (R381) -/
  | ctxSave (p : Nat)
  /-- SCHED_PRE.k (R376) -/
  | schedPre (p : Nat)
  /-- SCHED_QTAB.k (R333) -/
  | schedQtab (p : Nat)
  /-- SCHED_CTX.k (R339) -/
  | schedCtx (p : Nat)
  /-- SHEAF_CTL.k (R356) -/
  | sheafCtl (p : Nat)
  /-- SHEAF_STAT.k (R356) -/
  | sheafStat (p : Nat)
  /-- SHEAF_OVF.k (R353) -/
  | sheafOvf (p : Nat)
  /-- SHEAF_RET.k (R346) -/
  | sheafRet (p : Nat)
  /-- TR_SLOT.k (R361) -/
  | trSlot (p : Nat)
  /-- TRAP_AREA.k (R425) -/
  | trapArea (p : Nat)
  /-- TRAP_RES.k (R429) -/
  | trapRes (p : Nat)
  /-- CTX_SHDPOOL.k (R277) -/
  | ctxShdpool (p : Nat)
  /-- CTX_BMAP.k.n (R462) -/
  | ctxBmap (p n : Nat)
  /-- CTX_FLAGLO (R52) -/
  | flagLo (p : Nat)
  /-- CTX_FLAGHI (R52) -/
  | flagHi (p : Nat)
  /-- AMAX.n (R54) -/
  | amax (p n : Nat)
  /-- CTX_STALLIM (R431) -/
  | stallim (p : Nat)
  /-- CTX_TRAPCH (R424) -/
  | trapch (p : Nat)
  /-- CTX_CODEGEN (R208) -/
  | codegen (p : Nat)
  /-- CTX_CYCLO (R452) -/
  | cyclo (p : Nat)
  /-- CTX_CYCHI (R452) -/
  | cychi (p : Nat)
  /-- TR_FQB.d (R370) -/
  | trFqb (p : Nat)
  /-- TR_FQHT.d (R370) -/
  | trFqht (p : Nat)
  /-- TR_FQRES.d (R372) -/
  | trFqres (p : Nat)
  /-- SVC_CTL.b (R461) -/
  | svcCtl (p : Nat)
  /-- SPAD_ALLOC.k (R261) -/
  | spadAlloc (p n : Nat)
  /-- WBUF_ALLOC.k (R270) -/
  | wbufAlloc (p n : Nat)
  /-- ERR_CE.u.s (R432) -/
  | errCe (p n : Nat)
  /-- ERR_UE.u.s (R432) -/
  | errUe (p n : Nat)
  deriving DecidableEq, Repr

/-- The BAR0 offset of a register (R479). Counters of I/O-die units have no offset there and stand above the window. -/
def Reg.offset : Reg → Nat
  | .pkgStat => 0x0000
  | .pkgRst => 0x0004
  | .pwrCfg => 0x0008
  | .pwrStat => 0x000C
  | .pkgCyc => 0x0010
  | .dieFence => 0x0018
  | .gongCtl => 0x0020
  | .gongCyc => 0x0028
  | .mckReq => 0x0030
  | .mckStat => 0x0038
  | .hbmRetreq => 0x0040
  | .hbmRetstat => 0x0048
  | .fwLdreq => 0x0050
  | .fwStat => 0x0058
  | .rbPage p => 0x0060 + 8 * p
  | .hostEvt => 0x0080
  | .hostEvmask => 0x0084
  | .hostEvht => 0x0088
  | .hostApctl => 0x0090
  | .linkId => 0x0094
  | .winCfg => 0x0098
  | .linkStat p => 0x00C0 + 4 * p
  | .linkRoute p => 0x0100 + 4 * p
  | .carGtab => 0x0200
  | .trAtab => 0x0208
  | .trCfl => 0x0210
  | .trInvva => 0x0218
  | .trInv => 0x0220
  | .trInvstat => 0x0228
  | .imgLdreq => 0x0240
  | .imgStat => 0x0248
  | .tcCtl => 0x0250
  | .tcStat => 0x0258
  | .belId => 0x0260
  | .belStat => 0x0268
  | .belCtl => 0x0270
  | .belLdreq => 0x0278
  | .schedTq p => 0x0300 + 4 * p
  | .belHookcnt p => 0x0400 + 4 * p
  | .frzAct p => if p = 64 then 0x600 else 0x100000 + 0x10000 * p + 0x8
  | .frzStat p => if p = 64 then 0x608 else 0x100000 + 0x10000 * p + 0x10
  | .frzCyc p => if p = 64 then 0x610 else 0x100000 + 0x10000 * p + 0x18
  | .ctxRun p => 0x20000 + 0x1000 * p + 0x000
  | .ctxSave p => 0x20000 + 0x1000 * p + 0x008
  | .schedPre p => 0x20000 + 0x1000 * p + 0x010
  | .schedQtab p => 0x20000 + 0x1000 * p + 0x018
  | .schedCtx p => 0x20000 + 0x1000 * p + 0x020
  | .sheafCtl p => 0x20000 + 0x1000 * p + 0x028
  | .sheafStat p => 0x20000 + 0x1000 * p + 0x030
  | .sheafOvf p => 0x20000 + 0x1000 * p + 0x038
  | .sheafRet p => 0x20000 + 0x1000 * p + 0x040
  | .trSlot p => 0x20000 + 0x1000 * p + 0x048
  | .trapArea p => 0x20000 + 0x1000 * p + 0x050
  | .trapRes p => 0x20000 + 0x1000 * p + 0x058
  | .ctxShdpool p => 0x20000 + 0x1000 * p + 0x060
  | .ctxBmap p n => 0x20000 + 0x1000 * p + 0x080 + n
  | .flagLo p => 0x20000 + 0x1000 * p + 0x400
  | .flagHi p => 0x20000 + 0x1000 * p + 0x404
  | .amax p n => 0x20000 + 0x1000 * p + 0x440 + 4 * n
  | .stallim p => 0x20000 + 0x1000 * p + 0x500
  | .trapch p => 0x20000 + 0x1000 * p + 0x504
  | .codegen p => 0x20000 + 0x1000 * p + 0x508
  | .cyclo p => 0x20000 + 0x1000 * p + 0x50C
  | .cychi p => 0x20000 + 0x1000 * p + 0x510
  | .trFqb p => 0x40000 + 0x8000 * p + 0x000
  | .trFqht p => 0x40000 + 0x8000 * p + 0x008
  | .trFqres p => 0x40000 + 0x8000 * p + 0x010
  | .svcCtl p => 0x100000 + 0x10000 * p + 0x0000
  | .spadAlloc p n => 0x100000 + 0x10000 * p + 0x100 + 4 * n
  | .wbufAlloc p n => 0x100000 + 0x10000 * p + 0x200 + 4 * n
  | .errCe p n => (if p < 64 then 0x100000 + 0x10000 * p else 0x1000000 + 0x10000 * p) + 0x300 + 4 * n
  | .errUe p n => (if p < 64 then 0x100000 + 0x10000 * p else 0x1000000 + 0x10000 * p) + 0x340 + 4 * n

/-- The width in bits (R479). -/
def Reg.width : Reg → Nat
  | .pkgCyc => 64
  | .gongCtl => 64
  | .gongCyc => 64
  | .mckReq => 64
  | .mckStat => 64
  | .hbmRetreq => 64
  | .hbmRetstat => 64
  | .fwLdreq => 64
  | .fwStat => 64
  | .rbPage _ => 64
  | .hostEvht => 64
  | .carGtab => 64
  | .trAtab => 64
  | .trCfl => 64
  | .trInvva => 64
  | .trInv => 64
  | .trInvstat => 64
  | .imgLdreq => 64
  | .imgStat => 64
  | .tcStat => 64
  | .belId => 64
  | .belStat => 64
  | .belLdreq => 64
  | .frzCyc _ => 64
  | .ctxSave _ => 64
  | .schedQtab _ => 64
  | .sheafStat _ => 64
  | .sheafOvf _ => 64
  | .sheafRet _ => 64
  | .trapArea _ => 64
  | .trapRes _ => 64
  | .ctxShdpool _ => 64
  | .trFqb _ => 64
  | .trFqht _ => 64
  | .ctxBmap _ _ => 8
  | _ => 32

/-- The reset value (R9, the Reset column of each register map). -/
def Reg.reset : Reg → DWord
  | .pwrCfg => 0x960
  | .pwrStat => 0x96000000
  | .gongCtl => 0x80000000
  | .winCfg => 0x80000400
  | .tcCtl => 0x1
  | .belId => 0x10000000000
  | .belCtl => 0x4000
  | .schedTq _ => 0x4000ff
  | .schedPre _ => 0x4000
  | .ctxBmap _ n => BitVec.ofNat 64 n
  | .stallim _ => 0x100000
  | _ => 0

/-- The bits that a write sets (access RW). -/
def Reg.rwMask : Reg → DWord
  | .pwrCfg => 0xfff
  | .dieFence => 0xff
  | .gongCtl => 0xffffffffc0000000
  | .rbPage _ => 0xffffff800000
  | .hostEvmask => 0x1ff
  | .hostEvht => 0xffffffff
  | .hostApctl => 0x3
  | .linkId => 0x3f
  | .winCfg => 0x8000ffff
  | .linkStat _ => 0x80000000
  | .linkRoute _ => 0xffff
  | .carGtab => 0xfffffffffc0
  | .trAtab => 0xffffff00000
  | .trCfl => 0xfffffffffc0
  | .trInvva => 0xfffffffffffffff
  | .tcCtl => 0x1
  | .belCtl => 0xffffff
  | .schedTq _ => 0x7f00ff
  | .ctxSave _ => 0xfffffffffffff000
  | .schedPre _ => 0xc0ffffff
  | .schedQtab _ => 0xfffffffffffffff
  | .schedCtx _ => 0x1f0000
  | .sheafStat _ => 0xffffffffffff
  | .sheafOvf _ => 0xf8000fffffffffc0
  | .trSlot _ => 0x8000ffff
  | .trapArea _ => 0xfffffffffffffc0
  | .ctxShdpool _ => 0xfffffffffc1
  | .ctxBmap _ _ => 0x3f
  | .amax _ _ => 0x7fffffff
  | .stallim _ => 0xffffff
  | .trapch _ => 0x8000ffff
  | .trFqb _ => 0xf0000fffffffffe0
  | .trFqht _ => 0xffffffff
  | .svcCtl _ => 0x80009f9f
  | .spadAlloc _ _ => 0x3f3f
  | .wbufAlloc _ _ => 0x3f1f
  | _ => 0

/-- The bits that a written 1 clears (access W1C). -/
def Reg.w1cMask : Reg → DWord
  | .mckStat => 0x4000000000000000
  | .hostEvt => 0x1ff
  | .trInvstat => 0x8000000000000000
  | .imgStat => 0x8000000000000000
  | .ctxRun _ => 0x3000000
  | .sheafCtl _ => 0x80000000
  | .flagLo _ => 0x3f3f3f3f
  | .flagHi _ => 0x3f3f3f3f
  | .amax _ _ => 0x80000000
  | _ => 0

/-- The entry of a sorted list of registers. -/
def findReg (l : List (Nat × DWord)) (o : Nat) : Option DWord :=
  match l with
  | [] => none
  | (a, v) :: r => if a = o then some v else findReg r o

/-- Removes the entries at an offset. -/
def dropReg (l : List (Nat × DWord)) (o : Nat) : List (Nat × DWord) :=
  match l with
  | [] => []
  | (a, v) :: r => if a = o then dropReg r o else (a, v) :: dropReg r o

/-- Puts an entry at its place in rising order of offset. -/
def putReg (l : List (Nat × DWord)) (o : Nat) (v : DWord) : List (Nat × DWord) :=
  match l with
  | [] => [(o, v)]
  | (a, w) :: r => if o < a then (o, v) :: (a, w) :: r else if a = o then (o, v) :: r else (a, w) :: putReg r o v

/-- The stored value of a register: reset until written. -/
def State.reg (s : State) (r : Reg) : DWord := (findReg s.regs r.offset).getD r.reset

/-- Stores a value in a register; a value equal to reset is not listed. -/
def State.setReg (s : State) (r : Reg) (v : DWord) : State :=
  { s with regs := if v = r.reset then dropReg s.regs r.offset else putReg s.regs r.offset v }

/-- Field `[lo + w - 1 : lo]` of a register. -/
def State.regField (s : State) (r : Reg) (lo w : Nat) : Nat := bitsAt (s.reg r).toNat lo w

/-- A value with the field `[lo + w - 1 : lo]` replaced. -/
def putField (v : DWord) (lo w x : Nat) : DWord :=
  (v &&& ~~~(BitVec.ofNat 64 ((2 ^ w - 1) <<< lo))) ||| BitVec.ofNat 64 ((x % 2 ^ w) <<< lo)

/-- Replaces one field of a register. -/
def State.setField (s : State) (r : Reg) (lo w x : Nat) : State := s.setReg r (putField (s.reg r) lo w x)

/-- Advances a saturating field of `w` bits by one. -/
def State.bumpSat (s : State) (r : Reg) (lo w : Nat) : State :=
  let c := s.regField r lo w
  s.setField r lo w (if c = 2 ^ w - 1 then c else c + 1)

/-- Advances a field of `w` bits by one, modulo 2^w. -/
def State.bump (s : State) (r : Reg) (lo w : Nat) : State := s.setField r lo w (s.regField r lo w + 1)

/-- The value that a write by access codes leaves (R9): RW bits take the written value, a written 1 clears a W1C bit,
RO and reserved bits stay. -/
def Reg.written (r : Reg) (old v : DWord) : DWord :=
  (old &&& ~~~r.rwMask &&& ~~~(r.w1cMask &&& v)) ||| (v &&& r.rwMask)

/-- The bits of a flag register that were raised in the present cycle (R53). -/
def State.raisedBits (s : State) (r : Reg) : DWord := (findReg s.raised r.offset).getD 0

/-- A write of a register by its access codes (R9); a bit that a W1C write clears in the cycle of its raise stays 1 (R53). -/
def State.writeReg (s : State) (r : Reg) (v : DWord) : State := s.setReg r (r.written (s.reg r) v ||| (s.raisedBits r &&& r.w1cMask))

/-- Die of a physical barn (R2). -/
def dieOf (barn : Nat) : Nat := barn / 8

/-- The state of a context slot (CTX_RUN.STATE, R381): 0 running or no placement, 1 stopping, 2 saving or restoring, 3
saved. -/
def State.ctxState (s : State) (k : Nat) : Nat := s.regField (.ctxRun k) 26 2

def State.setCtxState (s : State) (k x : Nat) : State := s.setField (.ctxRun k) 26 2 x

/-- The ASID that a slot is bound to, when TR_SLOT.V is 1 (R361). -/
def State.asid? (s : State) (k : Nat) : Option Nat :=
  if s.regField (.trSlot k) 31 1 = 1 then some (s.regField (.trSlot k) 0 16) else none

def State.asid (s : State) (k : Nat) : Nat := s.regField (.trSlot k) 0 16

/-- The physical barn of a logical barn of slot `k` (R462). -/
def State.physBarn (s : State) (k n : Nat) : Nat := s.regField (.ctxBmap k n) 0 6

end Sys2Proof.Machine
end

