-- ==== Sys2Proof/Machine/Flags.lean ====
section
/-! DEFINITION. Number formats, rounding, flags and the running-maximum registers (R36 to R60). -/

namespace Sys2Proof.Machine

/-- The floating-point lane formats of R38. -/
inductive Fmt | f32 | f16 | bf16 | e4m3 | e5m2
  deriving DecidableEq, Repr

/-- An exact value: NaN, an infinity, or a sign and a magnitude `m * 2^e`. With `stk` the true magnitude lies strictly
between `m * 2^e` and `(m + 1) * 2^e`; it stands for values that no `m` and `e` give, such as square roots. -/
inductive Val
  | nan
  | inf (neg : Bool)
  | fin (neg : Bool) (m : Nat) (e : Int) (stk : Bool)
  deriving DecidableEq, Repr

/-- Width of an encoding (R38). -/
def Fmt.bits : Fmt → Nat
  | .f32 => 32 | .f16 => 16 | .bf16 => 16 | .e4m3 => 8 | .e5m2 => 8

/-- Width of the fraction field (R38). -/
def Fmt.frac : Fmt → Nat
  | .f32 => 23 | .f16 => 10 | .bf16 => 7 | .e4m3 => 3 | .e5m2 => 2

def Fmt.bias : Fmt → Nat
  | .f32 => 127 | .f16 => 15 | .bf16 => 127 | .e4m3 => 7 | .e5m2 => 15

/-- Width of the exponent field. -/
def Fmt.expW (f : Fmt) : Nat := f.bits - 1 - f.frac

/-- False for e4m3 only (R47). -/
def Fmt.hasInf : Fmt → Bool
  | .e4m3 => false
  | _ => true

/-- The canonical NaN (R38). -/
def Fmt.canonNaN : Fmt → Nat
  | .f32 => 0x7FC00000 | .f16 => 0x7E00 | .bf16 => 0x7FC0 | .e4m3 => 0x7F | .e5m2 => 0x7E

/-- The largest finite encoding of positive sign (R38). -/
def Fmt.maxFinite : Fmt → Nat
  | .f32 => 0x7F7FFFFF | .f16 => 0x7BFF | .bf16 => 0x7F7F | .e4m3 => 0x7E | .e5m2 => 0x7B

/-- Exponent of the binade of the largest finite value. -/
def Fmt.topExp : Fmt → Int
  | .f32 => 127 | .f16 => 15 | .bf16 => 127 | .e4m3 => 8 | .e5m2 => 15

/-- Significand, as an integer of full precision, of the largest finite value. -/
def Fmt.topSig : Fmt → Nat
  | .f32 => 2 ^ 24 - 1 | .f16 => 2 ^ 11 - 1 | .bf16 => 2 ^ 8 - 1 | .e4m3 => 14 | .e5m2 => 7

/-- Exponent of the smallest normal value. -/
def Fmt.minExp (f : Fmt) : Int := 1 - (f.bias : Int)

/-- Exponent of the smallest subnormal value. -/
def Fmt.gridExp (f : Fmt) : Int := f.minExp - (f.frac : Int)

/-- An encoding with a sign put on. -/
def Fmt.signed (f : Fmt) (neg : Bool) (b : Nat) : Nat := if neg then b + 2 ^ (f.bits - 1) else b

/-- Infinity of a sign (R47); used only where the format has one. -/
def Fmt.infBits (f : Fmt) (neg : Bool) : Nat := f.signed neg ((2 ^ f.expW - 1) <<< f.frac)

def Fmt.zeroBits (f : Fmt) (neg : Bool) : Nat := f.signed neg 0

/-- Value(b) of R47: the value of an encoding (R39), NaN and infinities as R38 lists them. -/
def Fmt.value (f : Fmt) (b : Nat) : Val :=
  let neg := bitsAt b (f.bits - 1) 1 = 1
  let e := bitsAt b f.frac f.expW
  let m := bitsAt b 0 f.frac
  if e = 2 ^ f.expW - 1 && f.hasInf then (if m = 0 then .inf neg else .nan)
  else if !f.hasInf && e = 2 ^ f.expW - 1 && m = 2 ^ f.frac - 1 then .nan
  else if e = 0 then .fin neg m f.gridExp false
  else .fin neg (2 ^ f.frac + m) ((e : Int) - (f.bias : Int) - (f.frac : Int)) false

/-- An exact integer as a value. -/
def Val.ofInt (v : Int) : Val := .fin (decide (v < 0)) v.natAbs 0 false

def Val.isNaN : Val → Bool
  | .nan => true
  | _ => false

def Val.isZero : Val → Bool
  | .fin _ m _ stk => m = 0 && !stk
  | _ => false

/-- Sign(v) of R47. -/
def Val.neg : Val → Bool
  | .nan => false
  | .inf s => s
  | .fin s _ _ _ => s

def Val.negate : Val → Val
  | .nan => .nan
  | .inf s => .inf (!s)
  | .fin s m e k => .fin (!s) m e k

def Val.magnitude : Val → Val
  | .nan => .nan
  | .inf _ => .inf false
  | .fin _ m e k => .fin false m e k

/-- An exact value as an integer at a scale of `2^e`, where `e` is not above the value's exponent. -/
def Val.scaled (v : Val) (e : Int) : Int :=
  match v with
  | .fin s m x _ => let n : Int := ((m <<< (x - e).toNat : Nat) : Int); if s then -n else n
  | _ => 0

/-- Exact sum, with the sign of an exact zero by R42. -/
def Val.add (rm : Rnd) (a b : Val) : Val :=
  match a, b with
  | .nan, _ => .nan
  | _, .nan => .nan
  | .inf s, .inf t => if s = t then .inf s else .nan
  | .inf s, _ => .inf s
  | _, .inf t => .inf t
  | .fin s m x k, .fin t n y j =>
    let e := if x ≤ y then x else y
    let v := Val.scaled (.fin s m x k) e + Val.scaled (.fin t n y j) e
    if v = 0 then (if s = t then .fin s 0 e false else .fin (decide (rm = .rd)) 0 e false)
    else .fin (decide (v < 0)) v.natAbs e (k || j)

/-- Exact product (R42 for its sign). -/
def Val.mul (a b : Val) : Val :=
  match a, b with
  | .nan, _ => .nan
  | _, .nan => .nan
  | .inf s, .inf t => .inf (s != t)
  | .inf s, .fin t n _ _ => if n = 0 then .nan else .inf (s != t)
  | .fin s m _ _, .inf t => if m = 0 then .nan else .inf (s != t)
  | .fin s m x k, .fin t n y j => .fin (s != t) (m * n) (x + y) (k || j)

/-- Order of two values that are not NaN, with -0 equal to +0. -/
def Val.lt (a b : Val) : Bool :=
  match a, b with
  | .nan, _ => false
  | _, .nan => false
  | .inf s, .inf t => s && !t
  | .inf s, _ => s
  | _, .inf t => !t
  | .fin s m x k, .fin t n y j =>
    let e := if x ≤ y then x else y
    Val.scaled (.fin s m x k) e < Val.scaled (.fin t n y j) e

def Val.eqv (a b : Val) : Bool :=
  match a, b with
  | .nan, _ => false
  | _, .nan => false
  | _, _ => !(a.lt b) && !(b.lt a)

/-- What rounding discards, relative to half of the last place kept. -/
inductive Rest | none | low | half | high
  deriving DecidableEq, Repr

/-- The part of `m` below bit `drop`; `stk` adds something smaller than the last bit of `m`. -/
def restOf (m drop : Nat) (stk : Bool) : Rest :=
  if drop = 0 then (if stk then .low else .none)
  else if drop > Nat.log2 m + 2 then (if m = 0 && !stk then .none else .low)
  else
    let r := m % 2 ^ drop
    let h := 2 ^ (drop - 1)
    if r < h then (if r = 0 && !stk then .none else .low)
    else if r = h then (if stk then .high else .half)
    else .high

/-- Whether a mode rounds away from zero (R44). -/
def roundsUp (rm : Rnd) (neg odd : Bool) (r : Rest) : Bool :=
  match rm with
  | .rne => r = .high || (r = .half && odd)
  | .rz => false
  | .ru => r ≠ .none && !neg
  | .rd => r ≠ .none && neg
  | .rna => r = .high || r = .half

/-- `m` rounded to a multiple of `2^drop`, in units of it. -/
def roundAt (m drop : Nat) (stk neg : Bool) (rm : Rnd) : Nat :=
  let q := m >>> drop
  if roundsUp rm neg (q % 2 = 1) (restOf m drop stk) then q + 1 else q

/-- RoundGrid(v, 2^g, rm) of R46 on a magnitude, in units of `2^g`. -/
def roundGrid (m : Nat) (e g : Int) (stk neg : Bool) (rm : Rnd) : Nat :=
  if g ≤ e then roundAt (m <<< (e - g).toNat) 0 stk neg rm else roundAt m (g - e).toNat stk neg rm

/-- Whether RoundGrid changes the value. -/
def gridInexact (m : Nat) (e g : Int) (stk : Bool) : Bool :=
  stk || (decide (e < g) && restOf m (g - e).toNat stk ≠ .none)

/-- OverflowToInf of R46. -/
def overflowToInf (rm : Rnd) (neg : Bool) : Bool :=
  match rm with
  | .rne => true | .rna => true | .rz => false | .ru => !neg | .rd => neg

/-- The flags of a lane, as bits of R52. -/
def flNX : Nat := 1
def flUF : Nat := 2
def flOF : Nat := 4
def flDZ : Nat := 8
def flNV : Nat := 16
def flSAT : Nat := 32

/-- RoundToFormat of R46: the encoding and the flags. -/
def roundToFormat (v : Val) (f : Fmt) (rm : Rnd) (sat : Bool) : Nat × Nat :=
  match v with
  | .nan => (f.canonNaN, 0)
  | .inf s =>
    if sat then (f.signed s f.maxFinite, flSAT)
    else if f.hasInf then (f.infBits s, 0) else (f.canonNaN, flNV)
  | .fin s m e stk =>
    if m = 0 && !stk then (f.zeroBits s, 0)
    else
      let p := f.frac + 1
      let drop := Nat.log2 m + 1 - p
      let q := roundAt m drop stk s rm
      let l := Nat.log2 q
      let top : Int := e + (drop : Int) + (l : Int)
      let sig := if p ≤ l then q >>> (l + 1 - p) else q <<< (p - 1 - l)
      let inexact := stk || restOf m drop stk ≠ .none
      if f.topExp < top || (top = f.topExp && f.topSig < sig) then
        if sat then (f.signed s f.maxFinite, flOF + flNX + flSAT)
        else if overflowToInf rm s then
          (if f.hasInf then f.infBits s else f.canonNaN, flOF + flNX)
        else (f.signed s f.maxFinite, flOF + flNX)
      else if top < f.minExp || (m = 0 : Bool) then
        let g := roundGrid m e f.gridExp stk s rm
        (f.signed s g, if gridInexact m e f.gridExp stk then flUF + flNX else 0)
      else
        (f.signed s (((top + (f.bias : Int)).toNat <<< f.frac) + (sig - 2 ^ f.frac)),
          if inexact then flNX else 0)

/-- MaxInt(t) of R47 for an integer lane of width `w`. -/
def maxInt (w : Nat) (sgn : Bool) : Int := if sgn then 2 ^ (w - 1) - 1 else 2 ^ w - 1

/-- MinInt(t) of R47. -/
def minInt (w : Nat) (sgn : Bool) : Int := if sgn then -(2 ^ (w - 1)) else 0

/-- SatInt of R37: the value and the flags. -/
def satInt (v : Int) (w : Nat) (sgn : Bool) : Int × Nat :=
  if maxInt w sgn < v then (maxInt w sgn, flSAT)
  else if v < minInt w sgn then (minInt w sgn, flSAT)
  else (v, 0)

/-- An exact integer reduced to a lane as the wrap or sat qualifier says (R37): bits and flags. -/
def reduceInt (v : Int) (w : Nat) (sgn sat : Bool) : Nat × Nat :=
  if sat then (wrapNat (satInt v w sgn).1 w, (satInt v w sgn).2) else (wrapNat v w, 0)

/-- FpToInt of R50: the lane bits and the flags. -/
def fpToInt (x : Val) (w : Nat) (sgn : Bool) (rm : Rnd) : Nat × Nat :=
  match x with
  | .nan => (0, flNV)
  | .inf s => (wrapNat (if s then minInt w sgn else maxInt w sgn) w, flNV)
  | .fin s m e stk =>
    let n : Int := (roundGrid m e 0 stk s rm : Int)
    let i := if s then -n else n
    if maxInt w sgn < i then (wrapNat (maxInt w sgn) w, flNV)
    else if i < minInt w sgn then (wrapNat (minInt w sgn) w, flNV)
    else (wrapNat i w, if gridInexact m e 0 stk then flNX else 0)

/-- Greater(a, b) and Lesser(a, b) of R47 on encodings: -0 is less than +0, and a is returned on equality. -/
def greaterF (f : Fmt) (x y : Nat) : Nat × Nat :=
  let a := f.value x
  let b := f.value y
  if a.isNaN || b.isNaN then (f.canonNaN, flNV)
  else if a.lt b || (a.isZero && b.isZero && a.neg && !b.neg) then (y, 0) else (x, 0)

def lesserF (f : Fmt) (x y : Nat) : Nat × Nat :=
  let a := f.value x
  let b := f.value y
  if a.isNaN || b.isNaN then (f.canonNaN, flNV)
  else if b.lt a || (a.isZero && b.isZero && !a.neg && b.neg) then (y, 0) else (x, 0)

/-- The lane format of a floating-point element type; f32 for the others, which no instruction reads so. -/
def fmtOf : Ty → Fmt
  | .f16x2 => .f16 | .bf16x2 => .bf16 | .e4m3x4 => .e4m3 | .e5m2x4 => .e5m2 | _ => .f32

/-- The value of a lane of an element type: a float by R39, an integer exactly. -/
def laneValue (t : Ty) (b : Nat) : Val :=
  if t.isFloat then (fmtOf t).value b
  else .ofInt (if t.isSigned then signedOf b t.width else (b : Int))

/-- RaiseFlags of R47 in a lane of a context (R52, R53): OR into CTX_FLAGLO or CTX_FLAGHI. -/
def State.raiseFlags (s : State) (k lane fl : Nat) : State :=
  if fl = 0 then s
  else
    let r : Reg := if lane < 4 then .flagLo k else .flagHi k
    let b : DWord := BitVec.ofNat 64 (fl <<< (8 * (lane % 4)))
    { s.setReg r (s.reg r ||| b) with raised := putReg s.raised r.offset (s.raisedBits r ||| b) }

/-- Flags of several lanes, the first in lane 0. -/
def State.raiseLanes (s : State) (k : Nat) (lane : Nat) : List Nat → State
  | [] => s
  | f :: r => (s.raiseFlags k lane f).raiseLanes k (lane + 1) r

/-- AmaxUpdate of R54 with the value of one source lane. -/
def State.amaxUpdate (s : State) (k n : Nat) (x : Val) : State :=
  let r : Reg := .amax k n
  match x with
  | .nan => s.setField r 31 1 1
  | v =>
    let a := (roundToFormat v.magnitude .f32 .rne false).1
    if s.regField r 0 31 < a then s.setField r 0 31 a else s

def State.amaxLanes (s : State) (k n : Nat) : List Val → State
  | [] => s
  | x :: r => (s.amaxUpdate k n x).amaxLanes k n r

/-- `n` numbers from `i` on. -/
def upFrom (i : Nat) : Nat → List Nat
  | 0 => []
  | n + 1 => i :: upFrom (i + 1) n

/-- Numbers 0 to n - 1. -/
def upto (n : Nat) : List Nat := upFrom 0 n

/-- Sum of exact values in list order; a sum of zeros keeps their sign by R42, and the empty sum is +0. -/
def Val.sum : List Val → Val
  | [] => .fin false 0 0 false
  | x :: r => r.foldl (Val.add .rne) x

/-- GroupTerm of R57 on the weights and the activations of one group. -/
def groupTerm (qs : List Val) (zp scale : Val) (xs : List Val) : Nat × Nat :=
  if xs.any Val.isNaN then (Fmt.f32.canonNaN, flNV)
  else
    let sqx := Val.sum (List.zipWith Val.mul qs xs)
    let sx := Val.sum xs
    match Val.add .rne sqx (Val.mul zp sx).negate with
    | .nan => (Fmt.f32.canonNaN, flNV)
    | d =>
      let t := roundToFormat d .f32 .rne false
      match Val.mul (Fmt.f32.value t.1) scale with
      | .nan => (Fmt.f32.canonNaN, t.2 ||| flNV)
      | p => let u := roundToFormat p .f32 .rne false; (u.1, t.2 ||| u.2)

/-- One step of MatrixDot (R57): an accumulator and a group term. -/
def matrixStep (acc u : Nat) : Nat × Nat :=
  match Val.add .rne (Fmt.f32.value acc) (Fmt.f32.value u) with
  | .nan => (Fmt.f32.canonNaN, flNV)
  | v => roundToFormat v .f32 .rne false

end Sys2Proof.Machine
end

