-- ==== Sys2Proof/Machine/Ops.lean ====
section
/-! DEFINITION. The named operations over memory, tags, tokens and traps, which every meaning shares. -/

namespace Sys2Proof

def Holder.barn? : Holder → Option Nat
  | .bay b _ => some b | .tile b _ => some b | .reeve => none | .region b _ => some b

def Holder.unit : Holder → Nat
  | .bay _ f => f | .tile _ t => t | .reeve => 0 | .region _ r => r

/-- SRCK of a trap record (R425). -/
def Holder.srck : Holder → Nat
  | .bay _ _ => 0 | .tile _ _ => 1 | .reeve => 1 | .region _ _ => 2

/-- Barn number that a saved context's records stand under: 256 (k + 1) plus their barn, so that they meet no unit (R382,
DESIGN CHOICE, log 14). -/
def parkedBarn (k barn : Nat) : Nat := 256 * (k + 1) + barn

def Holder.temporal : Holder → Bool
  | .tile _ _ => true | .reeve => true | _ => false

/-- The die of a holder; the Reeve's is the I/O die. -/
def Holder.die (h : Holder) : Nat := match h.barn? with | some b => b / 8 | none => 8

/-- The barn number of a trap record: 0xFF for the I/O die. -/
def Holder.barnNo (h : Holder) : Nat := h.barn?.getD 0xFF % 256

end Sys2Proof

namespace Sys2Proof.Machine

/-- Number of the I/O die among the dies of R394. -/
def ioDie : Nat := 8

/-- UCIe boundaries between two dies (R394). -/
def bounds (a b : Nat) : Nat :=
  if a = b then 0
  else if a = ioDie then 4 - b % 4
  else if b = ioDie then 4 - a % 4
  else (a % 4 - b % 4) + (b % 4 - a % 4) + (if a / 4 = b / 4 then 0 else 1)

/-! Memory cells: rising addresses, no zero entry, an unlisted address reads zero (DESIGN CHOICE, log 2). -/

/-- The byte at an address; zero where none is listed. -/
def getCell : List Host.Cell → Nat → Byte
  | [], _ => 0
  | (a, b) :: r, x => if a = x then b else getCell r x

/-- Removes the entries of an address. -/
def dropCell : List Host.Cell → Nat → List Host.Cell
  | [], _ => []
  | (a, b) :: r, x => if a = x then dropCell r x else (a, b) :: dropCell r x

/-- Puts a non-zero entry at its place. -/
def insertCell : List Host.Cell → Nat → Byte → List Host.Cell
  | [], x, v => [(x, v)]
  | (a, b) :: r, x, v =>
    if x < a then (x, v) :: (a, b) :: r else if x = a then (x, v) :: r else (a, b) :: insertCell r x v

/-- Writes one byte; a zero is not listed. -/
def putCell (l : List Host.Cell) (a : Nat) (v : Byte) : List Host.Cell :=
  if v = 0 then dropCell l a else insertCell l a v

/-- Every listed address is above `lo`, rises, and lists no zero. -/
def cellsAbove : Nat → List Host.Cell → Bool
  | _, [] => true
  | lo, (a, b) :: r => decide (lo ≤ a) && decide (b ≠ 0) && cellsAbove (a + 1) r

/-- The canonical form of a memory. -/
def Memory.wf (l : List Host.Cell) : Bool := cellsAbove 0 l

/-- `n` bytes from an address. -/
def getBytes (l : List Host.Cell) (a : Nat) : Nat → List Byte
  | 0 => []
  | n + 1 => getCell l a :: getBytes l (a + 1) n

/-- Stores bytes from an address on. -/
def putBytes (l : List Host.Cell) (a : Nat) : List Byte → List Host.Cell
  | [] => l
  | b :: r => putBytes (putCell l a b) (a + 1) r

/-- A little-endian value of `n` bytes (R3). -/
def getNat (l : List Host.Cell) (a n : Nat) : Nat := leNat (getBytes l a n)

def putNat (l : List Host.Cell) (a n v : Nat) : List Host.Cell := putBytes l a (leBytes n v)

/-- A field of a record of bytes: `n` bytes at offset `o`, little-endian. -/
def recField (r : List Byte) (o n : Nat) : Nat := leNat ((r.drop o).take n)

/-- A record with `n` bytes at `o` replaced. -/
def recPut (r : List Byte) (o n v : Nat) : List Byte := r.take o ++ leBytes n v ++ r.drop (o + n)

/-- A record of `n` zero bytes. -/
def recZero (n : Nat) : List Byte := List.replicate n 0

def State.cells (s : State) : Store → List Host.Cell
  | .dev => s.dmem | .host => s.hmem | .scr => s.scr | .wbuf => s.wbuf

def State.setCells (s : State) (st : Store) (l : List Host.Cell) : State :=
  match st with
  | .dev => { s with dmem := l }
  | .host => { s with hmem := l }
  | .scr => { s with scr := l }
  | .wbuf => { s with wbuf := l }

def State.readN (s : State) (st : Store) (a n : Nat) : Nat := getNat (s.cells st) a n
def State.readB (s : State) (st : Store) (a n : Nat) : List Byte := getBytes (s.cells st) a n
def State.writeB (s : State) (st : Store) (a : Nat) (b : List Byte) : State :=
  s.setCells st (putBytes (s.cells st) a b)
def State.writeN (s : State) (st : Store) (a n v : Nat) : State := s.writeB st a (leBytes n v)

/-- The store that a device physical address names, and the address in it; none for a reserved range (R360). -/
def physical (pa : Nat) : Option (Store × Nat) :=
  if pa < 0x10000000000 then some (.dev, pa)
  else if 0x20000000000 ≤ pa && pa < 0x80000000000 then some (.host, pa - 0x20000000000)
  else none

/-- Sorted lists of numbers: the presence bits and the poison marks. -/
def insNat : List Nat → Nat → List Nat
  | [], x => [x]
  | a :: r, x => if x < a then x :: a :: r else if x = a then a :: r else a :: insNat r x

def delNat (l : List Nat) (x : Nat) : List Nat := l.filter (· ≠ x)

/-- The presence bit of a granule (R143). -/
def State.full (s : State) (g : Nat) : Bool := s.pres.contains g

def State.setFull (s : State) (g : Nat) (v : Bool) : State :=
  { s with pres := if v then insNat s.pres g else delNat s.pres g }

/-- Unit of poison of a store, in bytes: a line, a granule, a word (R151, R432). -/
def poisonUnit : Store → Nat
  | .dev => 64 | .host => 64 | .scr => 16 | .wbuf => 4

def State.poisons (s : State) : Store → List Nat
  | .dev => s.poisD | .host => s.poisH | .scr => s.poisS | .wbuf => s.poisW

def State.setPoisons (s : State) (st : Store) (l : List Nat) : State :=
  match st with
  | .dev => { s with poisD := l }
  | .host => { s with poisH := l }
  | .scr => { s with poisS := l }
  | .wbuf => { s with poisW := l }

/-- Whether the location is poisoned. -/
def State.poisoned (s : State) (st : Store) (a : Nat) : Bool := (s.poisons st).contains (a / poisonUnit st)

def State.setPoison (s : State) (st : Store) (a : Nat) (v : Bool) : State :=
  let u := a / poisonUnit st
  s.setPoisons st (if v then insNat (s.poisons st) u else delNat (s.poisons st) u)

/-! Tags (R17, R19, R20, R238). -/

def tagD (t : DWord) : Nat := bitsAt t.toNat 61 3
def tagK (t : DWord) : Nat := bitsAt t.toNat 56 5
def tagV (t : DWord) : Nat := bitsAt t.toNat 44 12
def tagNest (t : DWord) : Nat := bitsAt t.toNat 0 44

def mkTag (d k v nest : Nat) : DWord :=
  BitVec.ofNat 64 (((d % 8) <<< 61) + ((k % 32) <<< 56) + ((v % 4096) <<< 44) + nest % 2 ^ 44)

/-- A tag with another nest stack. -/
def withNest (t : DWord) (nest : Nat) : DWord := mkTag (tagD t) (tagK t) (tagV t) nest

/-- Field width of a space of `n` tags: max(1, ceil(log2 n)) (R19). -/
def spaceWidth (n : Nat) : Nat := if n ≤ 2 then 1 else Nat.log2 (n - 1) + 1

/-- PushField of R238; none where it would exceed 44 bits. -/
def pushField (t : DWord) (d i w : Nat) : Option (DWord × Nat) :=
  if 44 < d + w then none else some (withNest t ((tagNest t <<< w) ||| i), d + w)

/-- The tag after a pop, with the popped index (R238). -/
def popField (t : DWord) (d w : Nat) : DWord × Nat × Nat := (withNest t (tagNest t >>> w), d - w, tagNest t % 2 ^ w)

/-- Prefix of R238. -/
def isPrefix (p : DWord) (dp : Nat) (t : DWord) (d : Nat) : Bool :=
  decide (dp ≤ d) && (tagNest t >>> (d - dp) = tagNest p) && (t >>> 44 = p >>> 44)

/-- Related tags (R138): Prefix one way or the other with D left out. -/
def related (p : DWord) (dp : Nat) (t : DWord) (d : Nat) : Bool :=
  tagK p = tagK t && tagV p = tagV t &&
    (if dp ≤ d then tagNest t >>> (d - dp) = tagNest p else tagNest p >>> (dp - d) = tagNest t)

/-! Lists. -/

/-- Replaces the first element that meets a condition. -/
def mapFirst {α : Type} (p : α → Bool) (f : α → α) : List α → List α
  | [] => []
  | x :: r => if p x then f x :: r else x :: mapFirst p f r

/-- Removes the first element that meets a condition. -/
def dropFirst {α : Type} (p : α → Bool) : List α → List α
  | [] => []
  | x :: r => if p x then r else x :: dropFirst p r

/-- Removes the element at a place. -/
def dropAt {α : Type} : List α → Nat → List α
  | [], _ => []
  | _ :: r, 0 => r
  | x :: r, n + 1 => x :: dropAt r n

/-- Replaces the element at a place. -/
def putAt {α : Type} : List α → Nat → α → List α
  | [], _, _ => []
  | _ :: r, 0, y => y :: r
  | x :: r, n + 1, y => x :: putAt r n y

/-- The element of least key, the first of equals. -/
def minBy {α : Type} (key : α → Nat) : List α → Option α
  | [] => none
  | x :: r => match minBy key r with
    | none => some x
    | some y => if key y < key x then some y else some x

/-- Whether the first list of numbers comes before the second, compared from the first number on. -/
def lexLess : List Nat → List Nat → Bool
  | a :: r, b :: t => decide (a < b) || (a = b && lexLess r t)
  | [], _ :: _ => true
  | _, [] => false

/-- The element of least rank. -/
def bestOf {α : Type} (key : α → List Nat) : List α → Option α
  | [] => none
  | x :: r => match bestOf key r with
    | none => some x
    | some y => if lexLess (key y) (key x) then some y else some x

/-- The lowest number below `n` that meets a condition. -/
def lowest (p : Nat → Bool) (n : Nat) : Option Nat := (upto n).find? p

/-- Applies an update for each element in turn. -/
def foldState {α : Type} (f : State → α → State) (s : State) : List α → State
  | [] => s
  | x :: r => foldState f (f s x) r

/-! The state's parts. -/

def State.modFab (s : State) (g : Fabric → Fabric) : State := { s with fab := g s.fab }

/-- A counter that only snapshots show (R455): firings of barn b under b, requests served by memory node n under 1000 + n,
bytes completed by engine e under 2000 + e. -/
def State.countOf (s : State) (key : Nat) : Nat := ((s.counts.find? fun p => p.1 = key).map Prod.snd).getD 0

def State.countUp (s : State) (key n : Nat) : State :=
  { s with counts := s.counts.filter (fun p => p.1 ≠ key) ++ [(key, s.countOf key + n)] }

/-- Fresh numbers for accesses, commands, tasks and waiters. -/
def State.bumpFresh (s : State) : State := { s with fresh := s.fresh + 1 }

/-- The next free value of the device's choices (DESIGN CHOICE, log 7). -/
def State.choice (s : State) : Nat := Config.freeChoice s.ctr
def State.chose (s : State) : State := { s with ctr := s.ctr + 1 }

def State.block? (s : State) (h : Holder) (blk : Nat) : Option Loaded :=
  s.fab.blocks.find? fun l => l.holder = h && l.blk = blk

def State.modBlock (s : State) (h : Holder) (blk : Nat) (f : Loaded → Loaded) : State :=
  s.modFab fun g => { g with blocks := mapFirst (fun l => l.holder = h && l.blk = blk) f g.blocks }

/-- Block header fields (R62). -/
def hdrNINS (h : BitVec 128) : Nat := bitsAt h.toNat 89 7
def hdrNENT (h : BitVec 128) : Nat := bitsAt h.toNat 85 4
def hdrNEXT (h : BitVec 128) : Nat := bitsAt h.toNat 81 4
def hdrSPACE (h : BitVec 128) : Nat := bitsAt h.toNat 73 8
def hdrPLACE (h : BitVec 128) : Nat := bitsAt h.toNat 70 3
def hdrIDEM (h : BitVec 128) : Bool := bitsAt h.toNat 69 1 = 1
def hdrREEVE (h : BitVec 128) : Bool := bitsAt h.toNat 66 1 = 1
def hdrHANDLER (h : BitVec 128) : Bool := bitsAt h.toNat 65 1 = 1
def hdrFUNC (h : BitVec 128) : Bool := bitsAt h.toNat 64 1 = 1
def hdrFRAME (h : BitVec 128) : Nat := bitsAt h.toNat 40 24

/-- Whether a firing's block is an idempotent region (R62). -/
def State.idem (s : State) (f : Firing) : Bool :=
  match s.block? f.site.holder f.site.blk with
  | some l => hdrIDEM l.hdr
  | none => false

def State.inst? (s : State) (k v : Nat) : Option Inst := s.insts.find? fun i => i.k = k && i.v = v

def State.modInst (s : State) (k v : Nat) (f : Inst → Inst) : State :=
  { s with insts := mapFirst (fun i => i.k = k && i.v = v) f s.insts }

/-- KBASE.n of an instance (R135). -/
def State.kbase (s : State) (k v n : Nat) : Nat :=
  match s.inst? k v with
  | some i => ((i.kbase.drop n).headD 0).toNat % 2 ^ 60
  | none => 0

/-! Firings. -/

def Firing.k (f : Firing) : Nat := tagK f.tag
def Firing.v (f : Firing) : Nat := tagV f.tag

def Firing.tok? (f : Firing) : Slot → Option Tok
  | .a => f.a | .b => f.b | .c => f.c | .p => f.p

/-- The data of a slot; zero where the set holds none. -/
def Firing.data (f : Firing) (s : Slot) : Word := ((f.tok? s).map Tok.data).getD 0

def Firing.toks (f : Firing) : List (Slot × Tok) :=
  [Slot.a, .b, .c, .p].filterMap fun s => (f.tok? s).map fun t => (s, t)

/-- The predicate (R22): bit 0 of slot p, else the carried predicate of slot a. A set without either, as a MERGE's of slot b is,
has a false one (DESIGN CHOICE, log 102). -/
def Firing.pred (f : Firing) : Bool :=
  match f.p with
  | some t => t.data.toNat % 2 = 1
  | none => (f.a.map Tok.pv).getD false

/-- Tokens that count for rules 4 and 5 of R28: an order-in slot does not (R134). -/
def Firing.dataToks (f : Firing) (orderIn : Bool) : List (Slot × Tok) :=
  f.toks.filter fun x => !(orderIn && x.1 = .c)

/-- Whether the results of a firing are poisoned (R28, rule 5). -/
def Firing.poi (f : Firing) (orderIn : Bool) : Bool := (f.dataToks orderIn).any fun x => x.2.poi

/-- What R28 makes of a set. -/
inductive SetKind
  | roll | eos
  | mixed (slot : Slot)
  | nul
  | data
  deriving DecidableEq, Repr

/-- The rules of R28 in order. -/
def Firing.kind (f : Firing) (orderIn : Bool) : SetKind :=
  let ts := f.toks
  let rest := ts.filter fun x => x.1 ≠ .p
  if ts.all fun x => x.2.rol then .roll
  else if rest.all fun x => x.2.eos then .eos
  else match ts.find? fun x => x.2.eos with
    | some x => .mixed x.1
    | none => if (f.dataToks orderIn).any fun x => x.2.nul then .nul else .data

/-- Latency in a placement (R248). -/
def latencyAt (site : Site) (lat : Nat) : Nat := if site.holder.temporal then lat + 2 else lat

/-- Where a replaced word's token goes (R440): byte `s` of ENTMAP names the replacement word and its slot. -/
def PatchSlot.entry (p : PatchSlot) (i : Nat) (sl : Slot) : Option (Nat × Slot) :=
  let b := ((p.entmap.drop sl.toBits.toNat).headD 0).toNat
  if bitsAt b 7 1 = 1 then some (128 + 4 * i + bitsAt b 2 2, Slot.ofBits (BitVec.ofNat 2 (bitsAt b 0 2))) else none

def State.patchSlot? (s : State) (n : Nat) : Option PatchSlot := s.slots.find? fun p => p.n = n

/-- The place that a target of an original word names: a rewritten word's tokens go where ENTMAP says (R440). -/
def State.routeOrig (s : State) (site : Site) (t : Target) : Option (Site × Slot) :=
  let i := t.idx.toNat
  match s.block? site.holder site.blk with
  | none => some ({ site with idx := i }, t.slot)
  | some l =>
    match (l.kinds.drop i).head? with
    | some (.rewrite n) =>
      match (s.patchSlot? n).bind fun p => p.entry i t.slot with
      | some (j, sl) => some ({ site with idx := j }, sl)
      | none => some ({ site with idx := i }, t.slot)
    | _ => some ({ site with idx := i }, t.slot)

/-- The place that a target names from a node, a replacement word's own targets read as R440 gives them. -/
def State.route (s : State) (site : Site) (t : Target) : Option (Site × Slot) :=
  if site.idx < 128 then s.routeOrig site t
  else
    let i := (site.idx - 128) / 4
    let v := t.idx.toNat * 4 + t.slot.toBits.toNat
    if 0x100 ≤ v && v < 0x110 then some ({ site with idx := 128 + 4 * i + (v - 0x100) / 4 }, t.slot)
    else if 0x180 ≤ v && v < 0x183 then
      let w := ((s.block? site.holder site.blk).bind fun l => (l.words.drop i).head?).getD 0
      let b : BitVec 9 := BitVec.ofNat 9 (if v = 0x180 then bitsAt w.toNat 31 9 else if v = 0x181 then bitsAt w.toNat 22 9
        else bitsAt w.toNat 13 9)
      (Target.decode b).bind fun o => s.routeOrig { site with idx := i } o
    else none

/-- Puts a result for one target in the output stage, from which it can go on in cycle `ready` (R29). -/
def State.emitAt (s : State) (site : Site) (t : Option Target) (ready : Nat) (k : Tok) : State :=
  match t.bind fun t => s.route site t with
  | none => s
  | some (d, sl) =>
    s.modFab fun g => { g with flights := g.flights ++ [{ src := site, dst := d, slot := sl, tok := k, out := true, ready := ready }] }

/-- Puts a result in the output stage for one target, after its latency (R29, R84). -/
def State.emit (s : State) (site : Site) (t : Option Target) (lat : Nat) (k : Tok) : State :=
  s.emitAt site t (s.cyc + latencyAt site lat) k

def State.emitAll (s : State) (site : Site) (lat : Nat) (k : Tok) : List (Option Target) → State
  | [] => s
  | t :: r => (s.emit site t lat k).emitAll site lat k r

/-- The buffered stores that a firing comes after by the tokens of its set (R138, rule 3, R150). -/
def Firing.after (f : Firing) : List Nat :=
  ([f.a, f.b, f.c, f.p].flatMap fun t => (t.map Tok.after).getD []).eraseDups

/-- A result token of an executing firing: the set's tag, poison by R28, the carried predicate by R27. -/
def Firing.result (f : Firing) (h : Hdr) (orderIn : Bool) (ty : Ty) (d : Word) : Tok :=
  { tag := f.tag, dep := f.dep, data := d, ty := ty, poi := f.poi orderIn, pp := h.pm = .either,
    pv := h.pm = .either && f.pred, after := f.after }

/-- An order-out token (R134), poisoned as every result is when a data slot was (R28, rule 5; DEDUCED, log 32). -/
def Firing.orderOut (f : Firing) (h : Hdr) (orderIn : Bool) : Tok := f.result h orderIn .b32 0

/-- A marker or null token with the set's tag (R28). -/
def Firing.marker (f : Firing) (h : Hdr) (orderIn : Bool) (nul eos rol : Bool) : Tok :=
  { tag := f.tag, dep := f.dep, data := 0, ty := h.ty, nul := nul, eos := eos, rol := rol, poi := f.poi orderIn,
    after := f.after }

/-! Traps (R423 to R428). -/

def tcIllegal : Nat := 0x01
def tcPatched : Nat := 0x02
def tcBlockFormat : Nat := 0x03
def tcDupToken : Nat := 0x04
def tcStreamLen : Nat := 0x05
def tcStreamShape : Nat := 0x06
def tcTagDepth : Nat := 0x07
def tcTagFree : Nat := 0x08
def tcTagRange : Nat := 0x09
def tcExitState : Nat := 0x0A
def tcCallLink : Nat := 0x0B
def tcPage : Nat := 0x10
def tcPerm : Nat := 0x11
def tcAlign : Nat := 0x12
def tcOnceViolation : Nat := 0x13
def tcPoison : Nat := 0x14
def tcSbufOverflow : Nat := 0x15
def tcTensorDesc : Nat := 0x18
def tcMatrixHandle : Nat := 0x19
def tcMatrixState : Nat := 0x1A
def tcMatrixShape : Nat := 0x1B
def tcWgtFormat : Nat := 0x1C
def tcTtaskFormat : Nat := 0x1D
def tcEngine : Nat := 0x20
def tcBarState : Nat := 0x21
def tcBarFault : Nat := 0x22
def tcSheafKey : Nat := 0x23
def tcSheafStale : Nat := 0x24
def tcSheafUnderflow : Nat := 0x25
def tcLaunchFormat : Nat := 0x28
def tcKernelState : Nat := 0x29
def tcChannel : Nat := 0x2A
def tcEqBind : Nat := 0x2B
def tcCoreFault : Nat := 0x2C
def tcUser : Nat := 0x30
def tcEretState : Nat := 0x31
def tcPriv : Nat := 0x32
def tcStallAge : Nat := 0x38

/-- The lowest free trap index of a context (R423). -/
def State.freeTrapIndex (s : State) (k : Nat) : Option Nat :=
  lowest (fun i => !(s.traps.any fun t => t.k = k && t.index = i)) 256

/-- The 64-byte record of a pending trap (R425). -/
def Trap.record (t : Trap) : List Byte :=
  leBytes 2 t.tcode ++ leBytes 1 t.index ++ leBytes 1 t.cause ++ leBytes 1 t.srck ++ leBytes 1 t.barn ++
  leBytes 1 t.unit ++ leBytes 1 t.idx ++ leBytes 8 t.blk ++ leBytes 8 t.word.toNat ++ leBytes 8 t.tag.toNat ++
  leBytes 1 t.dep ++ leBytes 1 t.slot ++ leBytes 2 0 ++ leBytes 4 t.aux2.toNat ++ leBytes 8 t.aux0.toNat ++
  leBytes 8 t.aux1.toNat ++ leBytes 8 t.cyc

/-- The trap word of a pending trap (R423). -/
def Trap.wordOf (t : Trap) : Word := BitVec.ofNat 32 ((t.tcode <<< 16) + t.index)

/-- The action of the lowest-numbered fault hook that matches a trap, with its number (R444). -/
def State.hookFor (s : State) (tcode cause : Nat) : Option Hook :=
  minBy Hook.n (s.hooks.filter fun h => h.kind = 2 && h.tcode = tcode && (h.cause = 0xFF || h.cause = cause))

/-- A host event (R430): its bit, its queue entry, or LOST where the queue is full. -/
def State.hostEvent (s : State) (e : HostEvent) : State :=
  let s := s.setReg .hostEvt (s.reg .hostEvt ||| BitVec.ofNat 64 (1 <<< e.type))
  let pending := (s.regField .hostEvht 32 32 + 2 ^ 32 - s.regField .hostEvht 0 32) % 2 ^ 32
  if 64 ≤ pending then s.setReg .hostEvt (s.reg .hostEvt ||| 0x100)
  else { (s.bump .hostEvht 32 32) with hostEvts := (s.hostEvts ++ [{ e with cyc := s.cyc }]).drop (s.hostEvts.length + 1 - 64) }

/-- Adds an access to the fabric. -/
def State.issue (s : State) (a : Access) : State :=
  ({ s with fab := { s.fab with accs := s.fab.accs ++ [{ a with id := s.fresh, born := s.cyc, since := s.cyc }] } }).bumpFresh

/-- The write of a trap record to the trap area (R425): eight pieces of 8 bytes. -/
def State.recordWrite (s : State) (t : Trap) : State :=
  let area := bitsAt (s.reg (.trapArea t.k)).toNat 6 54 * 64
  if area = 0 then s
  else
    let base := area + 64 * t.index
    let bs := t.record
    s.issue { id := 0, origin := .trapRec t.k t.index, k := t.k, v := t.v, barn := t.barn, tag := t.tag, dep := t.dep,
              area := .flat, kind := .write, ty := .b32, sc := .pkg, rel := true, since := 0,
              pieces := (upto 8).map fun i => { addr := base + 8 * i, size := 8, mask := 2 ^ 64 - 1, data := recField bs (8 * i) 8 } }

/-- A trap raised by an agent (R423): it takes the lowest free index and its record is written. With no index free the
state is unchanged but for the mark that the item is held. -/
def State.raise (s : State) (t : Trap) : State :=
  match s.freeTrapIndex t.k with
  | none => { s with held := true }
  | some i =>
    let h := s.hookFor t.tcode t.cause
    let s := match h with | some h => s.bumpSat (.belHookcnt h.n) 0 32 | none => s
    let host := match h with | some h => decide (h.act = 2) | none => false
    let t := { t with index := i, cyc := s.cyc, stage := .raised, toHost := t.toHost || host }
    { s with traps := s.traps ++ [t] }.recordWrite t

/-- The trap that a firing raises (R425); one of a handler block goes to the host (R428). -/
def State.firingTrap (s : State) (f : Firing) (c : Cause) (hold : Hold) : Trap :=
  let handler := match s.block? f.site.holder f.site.blk with | some l => hdrHANDLER l.hdr | none => false
  { k := f.k, index := 0, tcode := c.code, cause := c.cause, cls := .F, srck := f.site.holder.srck,
    barn := f.site.holder.barnNo, unit := f.site.holder.unit,
    idx := if f.site.idx < 128 then f.site.idx else (f.site.idx - 128) / 4, blk := f.site.blk, word := f.word,
    tag := f.tag, dep := f.dep, slot := c.slot, aux0 := BitVec.ofNat 64 c.aux0, aux1 := BitVec.ofNat 64 c.aux1,
    aux2 := BitVec.ofNat 32 c.aux2, cyc := 0, v := f.v, hold := hold, toHost := handler }

/-- A firing traps: its set is held outside the node (R427). -/
def State.trapFiring (s : State) (f : Firing) (c : Cause) : State := s.raise (s.firingTrap f c (.firing f))

/-- STREAM_LEN of R28: the node and the edge that delivered the marker. -/
def State.streamLen (s : State) (f : Firing) (sl : Slot) (j cnt : Nat) : State :=
  s.trapFiring f { code := tcStreamLen, slot := sl.toBits.toNat, aux0 := f.site.idx * 4 + sl.toBits.toNat, aux1 := j,
                   aux2 := cnt }

/-- POISON of R433, naming the slot. -/
def State.poisonTrap (s : State) (f : Firing) (sl : Slot) : State :=
  s.trapFiring f { code := tcPoison, slot := sl.toBits.toNat, aux0 := sl.toBits.toNat }

/-- Whether PM lets a firing execute (R27). -/
def executes (pm : PredMatch) (pred : Bool) : Bool :=
  match pm with
  | .always => true | .either => true | .whenTrue => pred | .whenFalse => !pred

/-- How an instruction takes its sets: its latency for markers, its targets, whether slot c is an order-in slot, whether
a set that does not execute sends null tokens (groups 0x8 to 0xE, R27), and the slots that R433 forbids to be poisoned. -/
structure Shape where
  h       : Hdr
  targets : List (Option Target)
  lat     : Nat := 1
  orderIn : Bool := false
  nullOut : Bool := false
  clean   : List Slot := []

/-- OP of a word (R69). -/
def opOf (w : DWord) : Nat := bitsAt w.toNat 54 10

/-- The operations that an executing firing counts (R337): the lanes of its TY for groups 0x0 to 0x2 and 0x5 to 0x7. -/
def opsCount (op : Nat) (t : Ty) : Nat :=
  if op = 0x00E then 8 else if op = 0x14F then 4
  else if op = 0x004 || op = 0x143 || op = 0x144 then 2 * t.lanes
  else if op / 64 ≤ 2 || (5 ≤ op / 64 && op / 64 ≤ 7) then t.lanes else 0

/-- Counts the operations of an executing firing for its instance (R337). -/
def State.counted (s : State) (f : Firing) (t : Ty) : State :=
  if opsCount (opOf f.word) t = 0 then s
  else s.modInst f.k f.v fun i => { i with ops := i.ops + opsCount (opOf f.word) t }

/-- The common behaviour of a firing (R27, R28, R433): markers and null pass, a poisoned predicate or clean slot traps, a
set that does not execute is consumed, and otherwise the instruction acts. -/
def State.fired (s : State) (sh : Shape) (f : Firing) (act : State → State) : State :=
  let send (n e r : Bool) : State := s.emitAll f.site sh.lat (f.marker sh.h sh.orderIn n e r) sh.targets
  match f.kind sh.orderIn with
  | .roll => send false false true
  | .eos => send false true false
  | .mixed sl => s.streamLen f sl 0 0
  | .nul => send true false false
  | .data =>
    let clean := if sh.h.pm ≠ .always then Slot.p :: sh.clean else sh.clean
    match clean.find? fun sl => ((f.tok? sl).map Tok.poi).getD false with
    | some sl => s.poisonTrap f sl
    | none =>
      if executes sh.h.pm f.pred then act (s.counted f sh.h.ty)
      else if sh.nullOut then s.emitAll f.site sh.lat { f.marker sh.h sh.orderIn true false false with poi := false } sh.targets
      else s

/-- A meaning that acts on the firing in focus; with none in focus nothing happens. -/
def onFiring (s : State) (g : Firing → State) : Host.Outcome State Fault Refusal :=
  match s.cur with
  | some f => .next (g f)
  | none => .next s

/-- A meaning that computes one result from a firing (groups 0x0 to 0x7): the data word, its type and the flags of each
lane, sent on T0 and T1. -/
def compute (s : State) (h : Hdr) (lat : Nat) (ty : Ty) (g : Firing → Word × List Nat) :
    Host.Outcome State Fault Refusal :=
  onFiring s fun f =>
    s.fired { h := h, targets := [h.t0, h.t1], lat := lat } f fun s =>
      ((s.raiseLanes f.k 0 (g f).2).emitAll f.site lat (f.result h false ty (g f).1) [h.t0, h.t1])

end Sys2Proof.Machine
end

