-- ==== Sys2Proof/Machine/Errors.lean ====
section
/-! DEFINITION. Where a location lies in its store (R263, R272), and memory errors (R432, R444). -/

namespace Sys2Proof.Machine

/-! Banks (R263). -/

/-- The data bank, 0 to 15, of a physical offset of a slice. -/
def bankOf (p : Nat) : Nat := bitsAt p 4 4
/-- Its row. -/
def rowOf (p : Nat) : Nat := bitsAt p 8 14
/-- The group of its bank, whose parity bank holds the exclusive OR of the granules of its row. -/
def bankGroup (p : Nat) : Nat := bankOf p / 4

/-- The slice and bank of a place in a scratchpad. -/
def bankAt (x : Nat) : Nat × Nat := (x / 2 ^ 22, bankOf (x % 2 ^ 22))

/-- The channel of a device physical address (R272). -/
def channelOf (pa : Nat) : Nat := pa / 2 ^ 31

/-! Memory errors (R432, R444). An error is an input of the turn that reads the location (DESIGN CHOICE, log 59). -/

/-- An entry of ERR_LOG, and the host event ECC. -/
def State.logErr (s : State) (e : ErrEntry) : State :=
  let l := s.errLog ++ [{ e with cyc := s.cyc }]
  ({ s with errLog := l.drop (l.length - 32), errCount := (s.errCount + 1) % 2 ^ 32 }).hostEvent
    { type := 7, slot := e.slot, a := 0, b := 0, cyc := 0 }

/-- The hook that acts on an uncorrected error of a class, its counter advanced. -/
def State.errHook (s : State) (cls : Nat) : State × Option Hook :=
  match minBy Hook.n (s.hooks.filter fun h => h.kind = 1 && h.scls = cls) with
  | some h => (s.bumpSat (.belHookcnt h.n) 0 32, some h)
  | none => (s, none)

/-- An uncorrected error with its outcome; a RETRY hook corrects it when read `tries` of at most CNT succeeds. -/
def State.uncorrected (s : State) (e : ErrEntry) (tries : Nat) (act : State → State) : State :=
  match s.errHook e.cls with
  | (s, some h) =>
    if h.act = 1 && 0 < tries && tries ≤ h.cnt then (s.bumpSat (.errCe e.unit e.cls) 0 32).logErr { e with out := 3 }
    else act ((s.bumpSat (.errUe e.unit e.cls) 0 32).logErr e)
  | (s, none) => act ((s.bumpSat (.errUe e.unit e.cls) 0 32).logErr e)

/-- The unit that counts the errors of a memory node (DESIGN CHOICE, log 59). -/
def memUnit : Nat := 64

/-- LOC of an error in a store: row and bank of a scratchpad granule, row and group of its parity, the word of a weight
buffer (DESIGN CHOICE, log 103). -/
def errLoc (cls : Nat) (x : Nat) : Nat :=
  match cls with
  | 0 => 16 * rowOf (x % 2 ^ 22) + bankOf (x % 2 ^ 22)
  | 1 => 4 * rowOf (x % 2 ^ 22) + bankGroup (x % 2 ^ 22)
  | 3 => x % 2 ^ 21 / 4
  | _ => 0

/-- The error that the turn finds at a place which an agent of slot `k` reaches, if any: in a scratchpad data bank (class 0), a
parity bank (class 1), the weight buffer (class 3) or HBM (class 6). One turn finds one error. -/
def State.eccAt (s : State) (st : Store) (x k : Nat) : State :=
  match s.arg.ecc with
  | none => s
  | some c =>
    let s : State := { s with arg := { s.arg with ecc := none } }
    let unit := match st with | .scr => x / 2 ^ 22 | .wbuf => x / 2 ^ 21 | _ => memUnit
    let cls := match st with | .scr => if c.parity then 1 else 0 | .wbuf => 3 | _ => 6
    let e : ErrEntry := { unit := unit, cls := cls, slot := k, out := 0, loc := errLoc cls x, cyc := 0,
                          addr := match st with | .scr => x % 2 ^ 22 | .wbuf => x % 2 ^ 21 | _ => x }
    if st = .host then s
    else if !c.unc then s.bumpSat (.errCe unit cls) 0 32
    else if cls = 0 && !c.lost then
      (((s.errHook 0).1.bumpSat (.errCe unit 0) 0 32)).logErr { e with out := 1 }
    else if cls = 1 then (((s.errHook 1).1.bumpSat (.errUe unit 1) 0 32)).logErr { e with out := 1 }
    else s.uncorrected e c.tries fun s => s.setPoison st x true

end Sys2Proof.Machine
end

