-- ==== Sys2Proof/Machine/Elementary.lean ====
section
/-! DEFINITION. The elementary functions of group 0x7 (R129 to R131): exact results where the manual fixes them, the
bracketing values from which the device may choose elsewhere. Fixed-point values have 320 fraction bits. -/

namespace Sys2Proof.Machine

/-- One descent of the integer square root: `x` is at or above the root. -/
def isqrtFrom (n : Nat) : Nat → Nat → Nat
  | 0, x => x
  | k + 1, x =>
    if x = 0 then 0
    else let y := (x + n / x) / 2; if y < x then isqrtFrom n k y else x

/-- Floor of the square root. -/
def isqrt (n : Nat) : Nat := isqrtFrom n 1100 (2 ^ (Nat.log2 n / 2 + 1))

/-- Fraction bits of the fixed-point values below. -/
def fixBits : Nat := 320
/-- Bits of a computed value that its error may reach. -/
def fixSlack : Nat := 64

/-- ln 2 and 2 pi in fixed point. -/
def ln2Fix : Nat := 0xb17217f7d1cf79abc9e3b39803f2f6af40f343267298b62d8a0d175b8baafa2be7b876206debac98
def twoPiFix : Nat := 0x6487ed5110b4611a62633145c06e0e68948127044533e63a0105df531d89cd9128a5043cc71a026ee

/-- The square root of a positive finite value, with at least 32 significant bits. -/
def sqrtVal (m : Nat) (e : Int) : Val :=
  let odd := e % 2 ≠ 0
  let m' := if odd then m <<< 65 else m <<< 64
  let e' := (if odd then e - 65 else e - 64) / 2
  let r := isqrt m'
  .fin false r e' (decide (r * r ≠ m'))

/-- The reciprocal of a non-zero finite value. -/
def recipVal (neg : Bool) (m : Nat) (e : Int) : Val :=
  let k := Nat.log2 m + 40
  let q := (1 <<< k) / m
  .fin neg q (-(e + (k : Int))) (decide (q * m ≠ 1 <<< k))

/-- The reciprocal square root of a positive finite value. -/
def rsqrtVal (m : Nat) (e : Int) : Val :=
  let odd := e % 2 ≠ 0
  let m' := if odd then m <<< 1 else m
  let e' := (if odd then e - 1 else e) / 2
  let k := Nat.log2 m' + 40
  let q := isqrt ((1 <<< (2 * k)) / m')
  .fin false q (-(e' + (k : Int))) (decide (q * q * m' ≠ 1 <<< (2 * k)))

/-- Fraction bits of a base-2 logarithm, the first bit highest, by repeated squaring of `y` in [1, 2). -/
def log2Frac : Nat → Nat → Nat → Nat
  | 0, _, acc => acc
  | k + 1, y, acc =>
    let z := (y * y) >>> fixBits
    if z >>> (fixBits + 1) = 0 then log2Frac k z (2 * acc) else log2Frac k (z >>> 1) (2 * acc + 1)

/-- log2 of a positive finite value: exact for a power of two, else irrational, given to 96 fraction bits. -/
def log2Val (m : Nat) (e : Int) : Val :=
  let l := Nat.log2 m
  let k : Int := e + (l : Int)
  if m = 1 <<< l then Val.ofInt k
  else
    let fr := log2Frac 96 (m <<< (fixBits - l)) 0
    let v : Int := k * (2 ^ 96 : Nat) + (fr : Int)
    if 0 ≤ v then .fin false v.toNat (-96) true else .fin true ((-v).toNat - 1) (-96) true

/-- Sum of `t * x^i / (i + 1)!` with sign alternation when `alt`; `step` is the distance of the factorial. -/
def seriesFrom (x : Nat) (alt : Bool) (step : Nat) : Nat → Nat → Int → Nat → Int
  | 0, _, acc, _ => acc
  | n + 1, t, acc, i =>
    let t' := ((t * x) >>> fixBits) / (if step = 1 then i + 1 else (i + 1) * (i + 2))
    let term : Int := if alt && (i / step) % 2 = 0 then -(t' : Int) else (t' : Int)
    seriesFrom x alt step n t' (acc + term) (i + step)

/-- 2^f for a fixed-point fraction f. -/
def exp2Fix (f : Nat) : Nat := (seriesFrom ((f * ln2Fix) >>> fixBits) false 1 80 (1 <<< fixBits) (1 <<< fixBits) 0).toNat

/-- sin and cos of a fixed-point angle of at most 4 radians. -/
def sinFix (x : Nat) : Int := seriesFrom ((x * x) >>> fixBits) true 2 60 x (x : Int) 1
def cosFix (x : Nat) : Int := seriesFrom ((x * x) >>> fixBits) true 2 60 (1 <<< fixBits) (1 <<< fixBits : Nat) 0

/-- x - floor(x) in fixed point, for a finite value. Every f32 value is a multiple of 2^-149. -/
def fracFix (neg : Bool) (m : Nat) (e : Int) : Nat :=
  if 0 ≤ e then 0
  else
    let d := (-e).toNat
    let r := m % 2 ^ d
    let u := if neg && r ≠ 0 then 2 ^ d - r else r
    u <<< (fixBits - d)

/-- A fixed-point result with its error bits cut off; the true value is irrational. -/
def fixVal (v : Int) : Val :=
  let n := v.natAbs >>> fixSlack
  .fin (decide (v < 0)) n (-((fixBits - fixSlack : Nat) : Int)) true

/-- Flags of a finite or infinite result of group 0x7 (R130). -/
def elemFlags (v : Val) (res : Nat) : Nat :=
  let r := Fmt.f32.value res
  let exact := match v with | .fin _ _ _ stk => !stk && r.eqv v | _ => r.eqv v
  match r with
  | .fin _ _ _ _ =>
    if exact then 0 else if bitsAt res 0 31 < 0x00800000 then flUF + flNX else flNX
  | .inf _ => if v = r then 0 else flOF + flNX
  | .nan => 0

/-- One of the two bracketing values of R130 as the device's choice `c` says; the exact value where it is one. -/
def bracketed (v : Val) (c : Nat) : Nat × Nat :=
  let down := (roundToFormat v .f32 .rz false).1
  let up := (roundToFormat v .f32 (if v.neg then .rd else .ru) false).1
  let r := if down = up then down else if c % 2 = 0 then down else up
  (r, elemFlags v r)

/-- FRCP (R130, R131): beyond the largest finite value the result of rne. A zero raises DZ alone, as R131 prints it, and not
OF beside it (DEDUCED, log 98). -/
def frcp (x c : Nat) : Nat × Nat :=
  match Fmt.f32.value x with
  | .nan => (Fmt.f32.canonNaN, flNV)
  | .inf s => (Fmt.f32.zeroBits s, 0)
  | .fin s m e _ =>
    if m = 0 then (Fmt.f32.infBits s, flDZ)
    else
      let v := recipVal s m e
      let n := roundToFormat v .f32 .rne false
      if n.1 = Fmt.f32.infBits s then n else bracketed v c

/-- FRSQ (R130, R131); a zero raises DZ alone (DEDUCED, log 98). -/
def frsq (x c : Nat) : Nat × Nat :=
  match Fmt.f32.value x with
  | .nan => (Fmt.f32.canonNaN, flNV)
  | .inf s => if s then (Fmt.f32.canonNaN, flNV) else (0, 0)
  | .fin s m e _ =>
    if m = 0 then (Fmt.f32.infBits s, flDZ)
    else if s then (Fmt.f32.canonNaN, flNV)
    else bracketed (rsqrtVal m e) c

/-- FSQRT (R130, R131). -/
def fsqrt (x : Nat) (rm : Rnd) : Nat × Nat :=
  match Fmt.f32.value x with
  | .nan => (Fmt.f32.canonNaN, flNV)
  | .inf s => if s then (Fmt.f32.canonNaN, flNV) else (Fmt.f32.infBits false, 0)
  | .fin s m e _ =>
    if m = 0 then (Fmt.f32.zeroBits s, 0)
    else if s then (Fmt.f32.canonNaN, flNV)
    else roundToFormat (sqrtVal m e) .f32 rm false

/-- FLOG2 (R130, R131); a zero raises DZ alone (DEDUCED, log 98). -/
def flog2 (x c : Nat) : Nat × Nat :=
  match Fmt.f32.value x with
  | .nan => (Fmt.f32.canonNaN, flNV)
  | .inf s => if s then (Fmt.f32.canonNaN, flNV) else (Fmt.f32.infBits false, 0)
  | .fin s m e _ =>
    if m = 0 then (Fmt.f32.infBits true, flDZ)
    else if s then (Fmt.f32.canonNaN, flNV)
    else bracketed (log2Val m e) c

/-- FEXP2F (R130, R131): rne at multiples of 1/64, exactly 1.0 where the fraction is 0. -/
def fexp2f (x c : Nat) : Nat × Nat :=
  match Fmt.f32.value x with
  | .nan => (Fmt.f32.canonNaN, flNV)
  | .inf _ => (0x3F800000, 0)
  | .fin s m e _ =>
    let f := fracFix s m e
    if f = 0 then (0x3F800000, 0)
    else
      let v := fixVal (exp2Fix f : Nat)
      if f % 2 ^ (fixBits - 6) = 0 then roundToFormat v .f32 .rne false else bracketed v c

/-- Quarter turns of x - floor(x), when it is a multiple of 1/4. -/
def quarter (f : Nat) : Option Nat := if f % 2 ^ (fixBits - 2) = 0 then some (f >>> (fixBits - 2)) else none

/-- Whether an f32 encoding is finite, of magnitude at most 1, and within 2^-23 of a fixed-point value (R130). -/
def nearFix (v : Int) (b : Nat) : Bool :=
  match Fmt.f32.value b with
  | .fin s m e k =>
    !Val.lt (.fin false 1 0 false) (.fin false m e false) &&
      (Val.scaled (.fin s m e k) (-(fixBits : Int)) - v).natAbs ≤ 1 <<< (fixBits - 23)
  | _ => false

/-- The device's choice among the values R130 allows: the encoding `c` where it is allowed, else the nearest. -/
def nearChoice (v : Int) (c : Nat) : Nat × Nat :=
  let n := (roundToFormat (fixVal v) .f32 .rne false).1
  let r := if nearFix v (c % 2 ^ 32) then c % 2 ^ 32 else n
  (r, elemFlags (fixVal v) r)

/-- FSIN2 (R130, R131): a zero keeps its sign only for x = -0. -/
def fsin2 (x c : Nat) : Nat × Nat :=
  match Fmt.f32.value x with
  | .nan => (Fmt.f32.canonNaN, flNV)
  | .inf _ => (Fmt.f32.canonNaN, flNV)
  | .fin s m e _ =>
    if m = 0 then (Fmt.f32.zeroBits s, 0)
    else
      let f := fracFix s m e
      match quarter f with
      | some 1 => (0x3F800000, 0)
      | some 3 => (0xBF800000, 0)
      | some _ => (0, 0)
      | none =>
        -- turns of [1/2, 1) lie at the negated angle
        let half := 1 <<< (fixBits - 1)
        let v := if f < half then sinFix ((f * twoPiFix) >>> fixBits)
          else -(sinFix ((((1 <<< fixBits) - f) * twoPiFix) >>> fixBits))
        nearChoice v c

/-- FCOS2 (R130, R131). -/
def fcos2 (x c : Nat) : Nat × Nat :=
  match Fmt.f32.value x with
  | .nan => (Fmt.f32.canonNaN, flNV)
  | .inf _ => (Fmt.f32.canonNaN, flNV)
  | .fin s m e _ =>
    if m = 0 then (0x3F800000, 0)
    else
      let f := fracFix s m e
      match quarter f with
      | some 0 => (0x3F800000, 0)
      | some 2 => (0xBF800000, 0)
      | some _ => (0, 0)
      | none =>
        let half := 1 <<< (fixBits - 1)
        let g := if f < half then f else (1 <<< fixBits) - f
        nearChoice (cosFix ((g * twoPiFix) >>> fixBits)) c

end Sys2Proof.Machine
end

