-- ==== Sys2Proof/Machine/Operands.lean ====
section
/-! DEFINITION. The operand forms: lanes of a word, immediates, addresses, and the common shapes of a lane-wise result. -/

namespace Sys2Proof.Machine

/-- The bits of lane `k` of a word of lanes of width `w` (R36, R38). -/
def laneBits (x : Word) (w k : Nat) : Nat := bitsAt x.toNat (w * k) w

/-- Lane `k` of a word as an integer under an element type (R85): signed for i types, unsigned otherwise. -/
def laneInt (t : Ty) (x : Word) (k : Nat) : Int :=
  if t.isSigned then signedOf (laneBits x t.width k) t.width else (laneBits x t.width k : Int)

/-- Lane `k` of a word as a value under a floating-point or integer element type. -/
def laneVal (t : Ty) (x : Word) (k : Nat) : Val := laneValue t (laneBits x t.width k)

/-- A word from its lanes, lane 0 lowest. -/
def packLanes (w : Nat) : List Nat → Nat
  | [] => 0
  | l :: r => l % 2 ^ w + packLanes w r * 2 ^ w

def pack (w : Nat) (l : List Nat) : Word := BitVec.ofNat 32 (packLanes w l)

/-- A word with lane `k` of width `w` replaced. -/
def putLane (x : Word) (w k v : Nat) : Word :=
  pack w ((upto (32 / w)).map fun i => if i = k then v else laneBits x w i)

/-- A lane-wise result: bits and flags of each lane from its number. -/
def lanewise (t : Ty) (g : Nat → Nat × Nat) : Word × List Nat :=
  let l := (upto t.lanes).map g
  (pack t.width (l.map Prod.fst), l.map Prod.snd)

/-- A lane-wise integer result, reduced by `.wrap` or `.sat` (R87). -/
def intLanes (t : Ty) (sat : Bool) (g : Nat → Int) : Word × List Nat :=
  lanewise t fun k => reduceInt (g k) t.width t.isSigned sat

/-- A lane-wise result of raw bits, which raises nothing. -/
def bitLanes (t : Ty) (g : Nat → Nat) : Word × List Nat := lanewise t fun k => (g k, 0)

/-- A predicate result (R15). -/
def predWord (p : Bool) : Word := if p then 1 else 0

/-- A field of an immediate read as two's complement. -/
def sext {w : Nat} (x : BitVec w) : Int := x.toInt

/-- The flat address of R135 before its check: the base of BSEL, the offset and the displacement, modulo 2^64. -/
def State.flatAddr (s : State) (k v : Nat) (bsel : BitVec 4) (disp : BitVec 9) (x : Word) : Nat :=
  wrapNat ((s.kbase k v bsel.toNat : Int) + (x.toNat : Int) + sext disp) 64

/-- The scratch address of R136; none where it raises PERM with cause 4. -/
def scratchAddr (x : Word) (disp : Int) : Option Nat :=
  let sa := (bitsAt x.toNat 0 28 : Int) + disp
  if bitsAt x.toNat 28 4 ≠ 0 || sa < 0 || 2 ^ 28 ≤ sa then none else some sa.toNat

/-- The physical place of a scratch address in the context's allocation (R136, R261): barn × 2^22 + offset. -/
def State.scratchPlace (s : State) (k sa : Nat) : Option Nat :=
  let b := s.physBarn k (8 * bitsAt sa 25 3 + bitsAt sa 22 3)
  let off := bitsAt sa 0 22
  let r : Reg := .spadAlloc b k
  if off < 0x10000 * s.regField r 8 6 then some (b * 2 ^ 22 + 0x10000 * s.regField r 0 6 + off) else none

end Sys2Proof.Machine
end

