-- ==== Sys2Proof/Machine/Nodes.lean ====
section
/-! DEFINITION. What a node of a configured block is: its word, its instruction, the slots that its sets need (R22, R76,
R134), and how its tokens form sets. -/

namespace Sys2Proof.Machine

/-- Which words of a block are literal words: the one after each LIT, the instruction of format C (R71). -/
def litFlags : Bool → List DWord → List Bool
  | _, [] => []
  | lit, w :: r => lit :: litFlags (!lit && opOf w = 0xC2) r

/-- Whether an opcode is assigned and of format B (R71, R74). -/
def formatB (op : Nat) : Bool :=
  op = 0xC0 || (decide (0x200 ≤ op) && decide (op ≤ 0x208)) || (decide (0x240 ≤ op) && decide (op ≤ 0x246)) ||
  (decide (0x280 ≤ op) && decide (op ≤ 0x281)) || (decide (0x2C0 ≤ op) && decide (op ≤ 0x2D1)) ||
  [0x302, 0x306].contains op || (decide (0x340 ≤ op) && decide (op ≤ 0x348)) ||
  (decide (0x389 ≤ op) && decide (op ≤ 0x38C))

/-- The target fields of a word. -/
def targetFields (w : DWord) : List (Option Target) :=
  let f := Fields.ofWord w
  [Target.decode f.t0, Target.decode f.t1] ++
    if formatB (opOf w) then [Target.decode (BitVec.ofNat 9 (bitsAt w.toNat 13 9))] else []

/-- The instruction index of a node: that of the word that it is or replaces (R440). -/
def wordIndex (x : Site) : Nat := if x.idx < 128 then x.idx else (x.idx - 128) / 4

/-- The converter nodes of R126, which hold a configuration: FCVT, FCVTP, FCVTX, FRND and FLDEXP. -/
def isConverter (op : Nat) : Bool := decide (0x180 ≤ op) && decide (op ≤ 0x184)

/-- Whether a converter's word takes the saturation bit: it has a floating-point destination and is not FRND (R118, R122). -/
def takesSat (w : DWord) : Bool :=
  opOf w ≠ 0x183 && (((Ty.ofBits (BitVec.ofNat 4 (bitsAt w.toNat 48 4))).map Ty.isFloat).getD false)

/-- A word with its Q[3:0] replaced by the configuration in force (R32, R128); the saturation bit does not act on a conversion
that has none. -/
def withQ (w : DWord) (q : BitVec 4) : DWord :=
  putField w 40 4 (if takesSat w then q.toNat else q.toNat % 8)

/-- The configuration word that a block holds for a node (R126). -/
def Loaded.conf? (l : Loaded) (idx : Nat) : Option (BitVec 4) := (l.qcfg.find? fun x => x.1 = idx).map Prod.snd

/-- A node's configuration word replaced (R128). -/
def Loaded.setConf (l : Loaded) (idx : Nat) (q : BitVec 4) : Loaded :=
  { l with qcfg := l.qcfg.filter (fun x => x.1 ≠ idx) ++ [(idx, q)] }

/-- A node's word under its configuration. -/
def Loaded.conf (l : Loaded) (idx : Nat) (w : DWord) : DWord :=
  match l.conf? idx with | some q => if isConverter (opOf w) then withQ w q else w | none => w

/-- The word of a node and the literal after it; a node of index 128 + 4 i + j is replacement word j of word i (R440). -/
def State.nodeWord (s : State) (site : Site) : DWord × DWord :=
  match s.block? site.holder site.blk with
  | none => (0, 0)
  | some l =>
    let word (i : Nat) : DWord := (l.words.drop i).headD 0
    if site.idx < 128 then (l.conf site.idx (word site.idx), word (site.idx + 1))
    else
      let i := (site.idx - 128) / 4
      let j := (site.idx - 128) % 4
      match (l.kinds.drop i).head? with
      | some (.rewrite n) =>
        match s.patchSlot? n with
        | some p =>
          let w := (p.rep.drop j).headD 0
          let w := if p.cpx.getLsbD j then putField w 0 22 (bitsAt (word i).toNat 0 22) else w
          (l.conf site.idx w, 0)
        | none => (0, 0)
      | _ => (0, 0)

/-- The instruction of a node's word, before what the Belfry makes of it. -/
def State.nodeInstr (s : State) (site : Site) : Option Instr := decodeBase (s.nodeWord site).1

/-- What the node of a block is (R76, R439 to R442). -/
def State.nodeKind (s : State) (site : Site) : NodeKind :=
  if site.idx < 128 then
    match s.block? site.holder site.blk with
    | some l => (l.kinds.drop site.idx).headD .plain
    | none => .plain
  else .plain

/-- The node that stands in the position that a reconfiguration token's target names: under REWRITE, replacement word 0
(R128). -/
def State.confSite (s : State) (site : Site) : Site :=
  match s.nodeKind site with
  | .rewrite _ => { site with idx := 128 + 4 * site.idx }
  | _ => site

/-- Whether a reconfiguration token changes the node that it reaches (R128). -/
def State.reconfigurable (s : State) (site : Site) : Bool :=
  s.nodeKind (s.confSite site) = .plain && isConverter (opOf (s.nodeWord (s.confSite site)).1)

/-- The position that T0 of a RECONF names (R127): an instruction index, or from a replacement word another word of it, or
what the original word's target names (R440). -/
def State.confTarget (s : State) (site : Site) (t : Target) : Option Site :=
  if site.idx < 128 then some { site with idx := t.idx.toNat }
  else
    let i := (site.idx - 128) / 4
    let v := t.idx.toNat * 4 + t.slot.toBits.toNat
    if 0x100 ≤ v && v < 0x110 then some { site with idx := 128 + 4 * i + (v - 0x100) / 4 }
    else if 0x180 ≤ v && v < 0x183 then
      let w := ((s.block? site.holder site.blk).bind fun l => (l.words.drop i).head?).getD 0
      (Target.decode (BitVec.ofNat 9 (bitsAt w.toNat (31 - 9 * (v - 0x180)) 9))).map fun o => { site with idx := o.idx.toNat }
    else none

/-! The operand mesh (R30). -/

/-- The numbers passed on the way from one to another, the last included. -/
def towards (x y : Nat) : List Nat :=
  if x < y then upFrom (x + 1) (y - x) else (upto (x - y)).map fun i => x - 1 - i

/-- The links from one PE to another, first along the row, then along the column (R30); a token for its own PE crosses one
link as well. -/
def meshPath (a b : Nat) : List (Nat × Nat) :=
  let l := (towards (a % 32) (b % 32)).map (fun c => a / 32 * 32 + c) ++
    (towards (a / 32) (b / 32)).map (fun r => r * 32 + b % 32)
  if l.isEmpty then [(a, b)] else (a :: l).zip l

/-- The PE of a node within its frame (R242). -/
def State.peOf (s : State) (site : Site) : Nat :=
  Config.peOf (((s.block? site.holder site.blk).map Loaded.words).getD []) site.idx % 128

/-- The links that a result crosses. A region's edge has one link of its own, and a tile, which keeps its operands in frames,
has none. -/
def State.path (s : State) (x : Flight) : List (Nat × Nat) :=
  match x.dst.holder with
  | .bay _ _ => meshPath (s.peOf x.src) (s.peOf x.dst)
  | .region _ _ => [(x.src.idx, 4 * x.dst.idx + x.slot.toBits.toNat)]
  | _ => []

/-- Whether a link register of a holder holds a token (R31). -/
def State.linkHeld (s : State) (h : Holder) (blk : Nat) (e : Nat × Nat) : Bool :=
  s.fab.flights.any fun y => !y.out && y.dst.holder = h && y.dst.blk = blk && ((s.path y).drop y.hop).head? = some e

/-- The nodes of a block that send tokens: its words that are no literals, a rewritten word by its replacement words. -/
def State.nodesOf (s : State) (h : Holder) (blk : Nat) : List Site :=
  match s.block? h blk with
  | none => []
  | some l =>
    let one (i : Nat) : List Site :=
      match (l.kinds.drop i).head? with
      | some (.rewrite n) =>
        (upto (((s.patchSlot? n).map fun p => p.nrep).getD 0)).map fun j => ⟨h, blk, 128 + 4 * i + j⟩
      | _ => [⟨h, blk, i⟩]
    ((litFlags false l.words).zip (upto l.words.length)).flatMap fun x => if x.1 then [] else one x.2

/-- The places that a node's targets name; T0 of a RECONF names no slot (R127). -/
def State.nodeTargets (s : State) (site : Site) : List (Site × Slot) :=
  let w := (s.nodeWord site).1
  ((targetFields w).drop (if opOf w = 0x186 && s.nodeKind site = .plain then 1 else 0)).filterMap fun t => t.bind (s.route site)

/-- Whether some instruction of the block targets a slot of a node; an ENTMAP byte feeds a replacement word (R440). -/
def State.targeted (s : State) (site : Site) (sl : Slot) : Bool :=
  (s.nodesOf site.holder site.blk).any fun n => (s.nodeTargets n).any fun t => t.1 = site && t.2 = sl

/-- The required slots of a node (R22, R76, R134, R172). -/
def State.needs (s : State) (site : Site) : List Slot :=
  match s.nodeKind site, s.nodeInstr site with
  | .plain, some i =>
    let pm := ((i.hdr?).map Hdr.pm).getD .always
    i.ownSlots ++ (match i.optionalSlot with | some sl => if s.targeted site sl then [sl] else [] | none => []) ++
      (if pm ≠ .always && s.targeted site .p then [.p] else [])
  | .emulate _, some i =>
    let pm := ((i.hdr?).map Hdr.pm).getD .always
    i.ownSlots ++ (match i.optionalSlot with | some sl => if s.targeted site sl then [sl] else [] | none => []) ++
      (if pm ≠ .always && s.targeted site .p then [.p] else [])
  | _, _ => [Slot.a] ++ ([Slot.b, .c, .p].filter fun sl => s.targeted site sl)

/-- Slots whose data tokens each form a set of their own: MERGE (R99), STRMW's stream (R164), RDLY (R169), MMAC (R177). At
MERGE every token of these slots does, and waits for no token but that of slot p. -/
def aloneSlots : Instr → List Slot
  | .merge _ => [.a, .b]
  | .strmw _ _ _ _ _ => [.a]
  | .rdly _ _ _ _ => [.a, .b]
  | .mmac _ _ _ _ _ => [.a, .b]
  | _ => []

/-- Sequence width of a stream that a slot of an instruction consumes (R162, R167, R172). -/
def streamIn : Instr → Slot → Option Nat
  | .strmw _ _ sw _ _, .a => some (sw.toNat + 1)
  | .sred _ _ _ _ sw, .a => some (sw.toNat + 1)
  | .sscan _ _ _ _ sw, .a => some (sw.toNat + 1)
  | .szip _ _ sw, .a => some (sw.toNat + 1)
  | .szip _ _ sw, .b => some (sw.toNat + 1)
  | .rdly _ _ _ sw, .a => some (sw.toNat + 1)
  | .rdly _ _ _ sw, .b => some (sw.toNat + 1)
  | .rmax _ _ sw, .a => some (sw.toNat + 1)
  | .rsumx _ _ _ sw, .a => some (sw.toNat + 1)
  | .rsqs _ _ _ sw, .a => some (sw.toNat + 1)
  | .mmac _ _ sw _ _, .a => some (sw.toNat + 1)
  | .mmac _ _ sw _ _, .b => some (sw.toNat + 1)
  | _, _ => none

/-- Whether a node builds a stream (R254): some target of it is a slot that consumes one. -/
def State.feedsStream (s : State) (site : Site) : Bool :=
  (s.nodeTargets site).any fun t => match s.nodeInstr t.1 with
    | some i => (streamIn i t.2).isSome
    | none => false

/-- Whether a tag with depth `d` extends a parent by a field of width `w` whose value meets a condition. -/
def fieldMeets (p : DWord) (dp w : Nat) (c : Nat → Bool) (t : DWord) (d : Nat) : Bool :=
  decide (dp + w ≤ d) && isPrefix p dp t d && c (bitsAt (tagNest t) (d - dp - w) w)

/-- The lowest free entry of a PE's matching table (R23). -/
def State.freeEntry (s : State) (site : Site) : Option Nat :=
  lowest (fun e => !(s.fab.sets.any fun x => x.site = site && x.place = .table e)) 16

/-- The oldest partial set of a PE in the loft moves into a table entry that is free (R25). -/
def State.promote (s : State) (site : Site) : State :=
  match s.freeEntry site with
  | none => s
  | some e =>
    match minBy PSet.opened (s.fab.sets.filter fun x => x.site = site && x.place = .loft && x.done.isNone) with
    | none => s
    | some y => s.modFab fun g => { g with sets := mapFirst (fun x => x = y) (fun x => { x with place := .table e, since := s.cyc }) g.sets }

/-- Partial sets in the loft move into the entries that have freed (R25). -/
def State.promoteAll (s : State) : State :=
  foldState State.promote s ((s.fab.sets.filter fun x => x.place = .loft && x.done.isNone).map PSet.site)

/-- Whether R254 holds back the token with index `j` of parent `p`: the bay or region holds a token or set of `p` whose index is at
most j - 64. -/
def State.windowFull (s : State) (site : Site) (p : DWord) (dp w j : Nat) : Bool :=
  match site.holder with
  | .tile _ _ => false
  | .reeve => false
  | _ =>
    let old := fieldMeets p dp w fun i => decide (i + 64 ≤ j)
    (s.fab.queues.any fun q => q.site.holder = site.holder && q.site.blk = site.blk && old q.tok.tag q.tok.dep) ||
    (s.fab.sets.any fun x => x.site.holder = site.holder && x.site.blk = site.blk && old x.tag x.dep) ||
    (s.fab.flights.any fun x => x.dst.holder = site.holder && x.dst.blk = site.blk && old x.tok.tag x.tok.dep)

end Sys2Proof.Machine
end

