-- ==== Sys2Proof/Machine/Float.lean ====
section
/-! DEFINITION. Floating-point arithmetic, group 0x5 (R112 to R117), conversions, group 0x6 (R118 to R128), and special
functions, group 0x7 (R129 to R131). -/

namespace Sys2Proof.Machine

/-- A lane of a slot as a value under the instruction's type. -/
def Firing.lane (f : Firing) (t : Ty) (sl : Slot) (k : Nat) : Val := laneVal t (f.data sl) k

/-- An exact value rounded once into a format; an invalid operation gives the canonical NaN and NV (R114). -/
def roundLane (v : Val) (fm : Fmt) (rm : Rnd) (sat : Bool) : Nat × Nat :=
  match v with
  | .nan => (fm.canonNaN, flNV)
  | v => roundToFormat v fm rm sat

/-- A lane-wise operation rounded once (R114). -/
def floatLanes (s : State) (h : Hdr) (lat : Nat) (rm : Rnd) (sat : Bool) (g : Firing → Nat → Val) :
    Host.Outcome State Fault Refusal :=
  compute s h lat h.ty fun f => lanewise h.ty fun k => roundLane (g f k) (fmtOf h.ty) rm sat

def execFadd (h : Hdr) (sat : Bool) (rm : Rnd) (s : State) : Host.Outcome State Fault Refusal :=
  floatLanes s h 4 rm sat fun f k => Val.add rm (f.lane h.ty .a k) (f.lane h.ty .b k)
def execFsub (h : Hdr) (sat : Bool) (rm : Rnd) (s : State) : Host.Outcome State Fault Refusal :=
  floatLanes s h 4 rm sat fun f k => Val.add rm (f.lane h.ty .a k) (f.lane h.ty .b k).negate
def execFmul (h : Hdr) (sat : Bool) (rm : Rnd) (s : State) : Host.Outcome State Fault Refusal :=
  floatLanes s h 4 rm sat fun f k => Val.mul (f.lane h.ty .a k) (f.lane h.ty .b k)
def execFfma (h : Hdr) (sat : Bool) (rm : Rnd) (s : State) : Host.Outcome State Fault Refusal :=
  floatLanes s h 4 rm sat fun f k =>
    Val.add rm (Val.mul (f.lane h.ty .a k) (f.lane h.ty .b k)) (f.lane h.ty .c k)
def execFfms (h : Hdr) (sat : Bool) (rm : Rnd) (s : State) : Host.Outcome State Fault Refusal :=
  floatLanes s h 4 rm sat fun f k =>
    Val.add rm (Val.mul (f.lane h.ty .a k) (f.lane h.ty .b k)) (f.lane h.ty .c k).negate

/-- FDOT2 (R115): c plus two lane products, rounded once to f32. -/
def execFdot2 (h : Hdr) (sat : Bool) (rm : Rnd) (s : State) : Host.Outcome State Fault Refusal :=
  compute s h 4 .f32 fun f =>
    let p (k : Nat) : Val := Val.mul (f.lane h.ty .a k) (f.lane h.ty .b k)
    let r := roundLane (Val.add rm (Val.add rm (f.lane .f32 .c 0) (p 0)) (p 1)) .f32 rm sat
    (BitVec.ofNat 32 r.1, [r.2])

/-- The lane operations of R116 that only choose or change bits. -/
def signLanes (s : State) (h : Hdr) (g : Firing → Nat → Nat × Nat) : Host.Outcome State Fault Refusal :=
  compute s h 1 h.ty fun f => lanewise h.ty (g f)

def Firing.bits (f : Firing) (t : Ty) (sl : Slot) (k : Nat) : Nat := laneBits (f.data sl) t.width k

def execFmin (h : Hdr) (s : State) : Host.Outcome State Fault Refusal :=
  signLanes s h fun f k => lesserF (fmtOf h.ty) (f.bits h.ty .a k) (f.bits h.ty .b k)
def execFmax (h : Hdr) (s : State) : Host.Outcome State Fault Refusal :=
  signLanes s h fun f k => greaterF (fmtOf h.ty) (f.bits h.ty .a k) (f.bits h.ty .b k)

/-- A lane with its sign replaced; a NaN gives the canonical NaN and NV (R116). -/
def signLane (t : Ty) (x : Nat) (nan neg : Bool) : Nat × Nat :=
  if ((fmtOf t).value x).isNaN || nan then ((fmtOf t).canonNaN, flNV)
  else ((fmtOf t).signed neg (x % 2 ^ (t.width - 1)), 0)

def execFabs (h : Hdr) (s : State) : Host.Outcome State Fault Refusal :=
  signLanes s h fun f k => signLane h.ty (f.bits h.ty .a k) false false
def execFneg (h : Hdr) (s : State) : Host.Outcome State Fault Refusal :=
  signLanes s h fun f k => signLane h.ty (f.bits h.ty .a k) false (!(f.lane h.ty .a k).neg)
def execFcpys (h : Hdr) (s : State) : Host.Outcome State Fault Refusal :=
  signLanes s h fun f k => signLane h.ty (f.bits h.ty .a k) (f.lane h.ty .b k).isNaN (f.lane h.ty .b k).neg

/-- A compare of lane LANE (R117): NV in that lane on a NaN. -/
def compareF (s : State) (h : Hdr) (lane : BitVec 3) (unord : Bool) (p : Val → Val → Bool) :
    Host.Outcome State Fault Refusal :=
  compute s h 1 .pred fun f =>
    let x := f.lane h.ty .a lane.toNat
    let y := f.lane h.ty .b lane.toNat
    if x.isNaN || y.isNaN then (predWord unord, (upto lane.toNat).map (fun _ => 0) ++ [flNV]) else (predWord (p x y), [0])

def execFcmpeq (h : Hdr) (lane : BitVec 3) (s : State) : Host.Outcome State Fault Refusal :=
  compareF s h lane false Val.eqv
def execFcmpne (h : Hdr) (lane : BitVec 3) (s : State) : Host.Outcome State Fault Refusal :=
  compareF s h lane true fun x y => !x.eqv y
def execFcmplt (h : Hdr) (lane : BitVec 3) (s : State) : Host.Outcome State Fault Refusal :=
  compareF s h lane false Val.lt
def execFcmple (h : Hdr) (lane : BitVec 3) (s : State) : Host.Outcome State Fault Refusal :=
  compareF s h lane false fun x y => !y.lt x
def execFcmpun (h : Hdr) (lane : BitVec 3) (s : State) : Host.Outcome State Fault Refusal :=
  compareF s h lane true fun _ _ => false

/-! Conversions. -/

/-- Conv(x) of R119: into an integer lane by FpToInt, else rounded; a NaN source gives NV. -/
def convLane (x : Val) (dst : Ty) (rm : Rnd) (sat : Bool) : Nat × Nat :=
  if dst.isFloat then roundLane x (fmtOf dst) rm sat else fpToInt x dst.width dst.isSigned rm

/-- The source type of a conversion; f32 for a code that no well-formed word holds. -/
def srcTy (c : BitVec 4) : Ty := (Ty.ofBits c).getD .f32

/-- FCVT (R119, R120): with `.amx` every source lane updates AMAX.`areg`, whether converted or not. -/
def execFcvt (h : Hdr) (amx : Bool) (sat : Bool) (rm : Rnd) (areg : BitVec 4) (lane : BitVec 3) (src : BitVec 4)
    (s : State) : Host.Outcome State Fault Refusal :=
  let st := srcTy src
  onFiring s fun f =>
    s.fired { h := h, targets := [h.t0, h.t1], lat := 2 } f fun s =>
      let conv (k : Nat) : Nat × Nat := convLane (f.lane st .a k) h.ty rm sat
      let (d, fl) := lanewise h.ty fun k =>
        if st.lanes ≤ h.ty.lanes then (if k < st.lanes then conv k else (0, 0)) else conv (lane.toNat * h.ty.lanes + k)
      let s := s.raiseLanes f.k 0 fl
      let s := if amx then s.amaxLanes f.k areg.toNat ((upto st.lanes).map (f.lane st .a)) else s
      s.emitAll f.site 2 (f.result h false h.ty d) [h.t0, h.t1]

/-- FCVTP (R119): two source words packed into one. -/
def execFcvtp (h : Hdr) (sat : Bool) (rm : Rnd) (src : BitVec 4) (s : State) : Host.Outcome State Fault Refusal :=
  let st := srcTy src
  compute s h 2 h.ty fun f => lanewise h.ty fun k =>
    convLane (if k < st.lanes then f.lane st .a k else f.lane st .b (k - st.lanes)) h.ty rm sat

/-- FCVTX (R119): one source lane into one lane of the word in slot b. -/
def execFcvtx (h : Hdr) (sat : Bool) (rm : Rnd) (pos : BitVec 3) (lane : BitVec 3) (src : BitVec 4) (s : State) :
    Host.Outcome State Fault Refusal :=
  let st := srcTy src
  compute s h 2 h.ty fun f => lanewise h.ty fun k =>
    if k = pos.toNat then convLane (f.lane st .a lane.toNat) h.ty rm sat else (f.bits h.ty .b k, 0)

/-- FRND (R123): an integral value in the lane's own format; a zero keeps the sign. -/
def execFrnd (h : Hdr) (rm : Rnd) (s : State) : Host.Outcome State Fault Refusal :=
  compute s h 2 h.ty fun f => lanewise h.ty fun k =>
    match f.lane h.ty .a k with
    | .nan => ((fmtOf h.ty).canonNaN, flNV)
    | .inf g => ((fmtOf h.ty).infBits g, 0)
    | .fin g m e j => ((roundToFormat (.fin g (roundGrid m e 0 j g rm) 0 false) (fmtOf h.ty) rm false).1, 0)

/-- The exponent of FLDEXP (R124): an integer, or an infinity of a sign. -/
inductive Scale
  | nan
  | inf (neg : Bool)
  | by (e : Int)
  deriving DecidableEq, Repr

/-- The exponent operand: slot b as i32, or as f32 rounded toward zero. -/
def scaleOf (expf : Bool) (y : Word) : Scale :=
  if expf then
    match Fmt.f32.value y.toNat with
    | .nan => .nan
    | .inf g => .inf g
    | .fin g m e j => .by (if g then -(roundGrid m e 0 j g .rz : Int) else (roundGrid m e 0 j g .rz : Int))
  else .by y.toInt

/-- One lane of FLDEXP. -/
def ldexpLane (a : Val) (e : Scale) (fm : Fmt) (rm : Rnd) (sat : Bool) : Nat × Nat :=
  match a, e with
  | .nan, _ => (fm.canonNaN, flNV)
  | _, .nan => (fm.canonNaN, flNV)
  | .inf _, .inf true => (fm.canonNaN, flNV)
  | .inf g, _ => roundToFormat (.inf g) fm rm sat
  | .fin g 0 _ _, .inf false => let _ := g; (fm.canonNaN, flNV)
  | .fin g 0 x _, _ => roundToFormat (.fin g 0 x false) fm rm sat
  | .fin g _ _ _, .inf false => roundToFormat (.inf g) fm rm sat
  | .fin g _ x _, .inf true => roundToFormat (.fin g 0 x false) fm rm sat
  | .fin g m x j, .by k => roundToFormat (.fin g m (x + k) j) fm rm sat

/-- FLDEXP (R124). -/
def execFldexp (h : Hdr) (sat : Bool) (rm : Rnd) (expf : Bool) (s : State) : Host.Outcome State Fault Refusal :=
  compute s h 2 h.ty fun f => lanewise h.ty fun k =>
    ldexpLane (f.lane h.ty .a k) (scaleOf expf (f.data .b)) (fmtOf h.ty) rm sat

/-- FGETEXP (R125). -/
def execFgetexp (h : Hdr) (s : State) : Host.Outcome State Fault Refusal :=
  compute s h 1 .i32 fun f =>
    match f.lane .f32 .a 0 with
    | .nan => (0x7FFFFFFF, [flNV])
    | .inf _ => (0x7FFFFFFF, [0])
    | .fin _ m e _ => if m = 0 then (0x80000000, [flDZ]) else (BitVec.ofInt 32 (e + (Nat.log2 m : Int)), [0])

/-- The configuration bits that a RECONF word sends: Q[3:0] (R127). -/
def reconfBits (sat : Bool) (rm : Rnd) : BitVec 4 := BitVec.ofBool sat ++ rm.toBits

/-- RECONF (R127, R128): a reconfiguration token for the node T0 names crosses the mesh; its acknowledgement is placed
when the configuration comes into force. In temporal placement it takes effect at once and the acknowledgement is placed
in the next cycle. Markers and null tokens go to T1 only. -/
def execReconf (h : Hdr) (sat : Bool) (rm : Rnd) (s : State) : Host.Outcome State Fault Refusal :=
  onFiring s fun f =>
    s.fired { h := h, targets := [h.t1] } f fun s =>
      let k := f.result h false h.ty (f.data .a)
      match h.t0.bind (s.confTarget f.site) with
      | none => s.emitAt f.site h.t1 (s.cyc + 1) k
      | some n =>
        if f.site.holder.temporal then
          (if s.reconfigurable n then
            s.modBlock f.site.holder f.site.blk fun l => l.setConf (s.confSite n).idx (reconfBits sat rm)
           else s).emitAt f.site h.t1 (s.cyc + 1) k
        else
          s.modFab fun g => { g with flights := g.flights ++
            [{ src := f.site, dst := n, slot := .a, tok := k, out := true, conf := some (reconfBits sat rm),
               ready := s.cyc + 1 }] }

/-! Special functions: a result with the device's choice among the values R130 allows. -/

/-- A one-operand function of group 0x7, whose second argument is the device's choice. -/
def special (s : State) (h : Hdr) (lat : Nat) (g : Nat → Nat → Nat × Nat) : Host.Outcome State Fault Refusal :=
  onFiring s fun f =>
    s.fired { h := h, targets := [h.t0, h.t1], lat := lat } f fun s =>
      let r := g (f.data .a).toNat s.choice
      (s.chose.raiseFlags f.k 0 r.2).emitAll f.site lat (f.result h false h.ty (BitVec.ofNat 32 r.1)) [h.t0, h.t1]

def execFexp2f (h : Hdr) (s : State) : Host.Outcome State Fault Refusal := special s h 6 fexp2f
def execFlog2 (h : Hdr) (s : State) : Host.Outcome State Fault Refusal := special s h 8 flog2
def execFrcp (h : Hdr) (s : State) : Host.Outcome State Fault Refusal := special s h 6 frcp
def execFrsq (h : Hdr) (s : State) : Host.Outcome State Fault Refusal := special s h 8 frsq
def execFsin2 (h : Hdr) (s : State) : Host.Outcome State Fault Refusal := special s h 10 fsin2
def execFcos2 (h : Hdr) (s : State) : Host.Outcome State Fault Refusal := special s h 10 fcos2

/-- FSQRT (R130, R131) is correctly rounded. -/
def execFsqrt (h : Hdr) (rm : Rnd) (s : State) : Host.Outcome State Fault Refusal :=
  compute s h 12 h.ty fun f => let r := fsqrt (f.data .a).toNat rm; (BitVec.ofNat 32 r.1, [r.2])

end Sys2Proof.Machine
end

