-- ==== Sys2Proof/Machine/Access.lean ====
section
/-! DEFINITION. Accesses: how a firing issues one (R134 to R139), what orders it (R138, R230), store buffers (R150) and
where its pieces go (R262). -/

namespace Sys2Proof.Machine

/-- The largest naturally aligned piece at an address, of at most `r` bytes (R139). -/
def pieceSize (a r : Nat) : Nat :=
  if a % 8 = 0 && 8 ≤ r then 8 else if a % 4 = 0 && 4 ≤ r then 4 else if a % 2 = 0 && 2 ≤ r then 2 else 1

/-- The pieces of an access of `r` bytes at `a` in ascending order, carrying `data` (R139). -/
def split : Nat → Nat → Nat → Nat → List Piece
  | 0, _, _, _ => []
  | n + 1, a, r, data =>
    if r = 0 then []
    else
      let z := pieceSize a r
      { addr := a, size := z, mask := 2 ^ (8 * z) - 1, data := data % 2 ^ (8 * z) } :: split n (a + z) (r - z) (data >>> (8 * z))

def pieces (a r data : Nat) : List Piece := split r a r data

/-- Where a flat address lies (R135, R262). -/
inductive Window
  | scratch (sa : Nat)
  | weight (barn off : Nat)
  | paged
  | bad
  deriving DecidableEq, Repr

def windowOf (va : Nat) : Window :=
  if 2 ^ 60 ≤ va then .bad
  else if 0xFFFFF0000000000 ≤ va && va < 0xFFFFF0000000000 + 2 ^ 28 then .scratch (va - 0xFFFFF0000000000)
  else if 0xFFFFF1000000000 ≤ va && va < 0xFFFFF1000000000 + 2 ^ 27 then
    .weight ((va - 0xFFFFF1000000000) / 2 ^ 21) ((va - 0xFFFFF1000000000) % 2 ^ 21)
  else .paged

/-- The physical place of a weight-window offset: barn × 2^21 + offset (R262, R270). -/
def State.weightPlace (s : State) (k barn off : Nat) : Option Nat :=
  let b := s.physBarn k barn
  let r : Reg := .wbufAlloc b k
  if off < 0x10000 * s.regField r 8 6 then some (b * 2 ^ 21 + 0x10000 * s.regField r 0 5 + off) else none

/-- The place of a flat address in a window; none where PERM with cause 4 is raised. -/
def State.windowPlace (s : State) (k va : Nat) : Option (Store × Nat) :=
  match windowOf va with
  | .scratch sa => (s.scratchPlace k sa).map fun p => (.scr, p)
  | .weight b off => (s.weightPlace k b off).map fun p => (.wbuf, p)
  | _ => none

/-- Access code of a fault entry and of a record's access kind (R370): 0 read, 1 write, 2 atomic, 3 fetch. -/
def AccKind.code : AccKind → Nat
  | .read => 0 | .write => 1 | .atomic _ _ => 2 | .prefetch => 0 | .arrive => 2 | .barInit _ => 2 | .barWait => 0
  | .charge _ => 2 | .presence _ _ _ _ => 1 | .claim _ => 0 | .fetch => 3

/-- PAGE with cause 2 on a non-canonical address (R135, R152): va, ASID, then access kind and size. -/
def State.pageTrap (s : State) (f : Firing) (va code size : Nat) : State :=
  s.trapFiring f { code := tcPage, cause := 2, aux0 := va, aux1 := s.asid f.k, aux2 := size * 256 + code }

/-- PERM (R152): va or sa, then access kind. -/
def State.permTrap (s : State) (f : Firing) (cause a code : Nat) : State :=
  s.trapFiring f { code := tcPerm, cause := cause, aux0 := a, aux1 := code }

/-- ALIGN (R152): address and size. -/
def State.alignTrap (s : State) (f : Firing) (a size : Nat) : State :=
  s.trapFiring f { code := tcAlign, aux0 := a, aux1 := size }

/-- The bytes that an access names, as PAGE and ALIGN record them (R152): the operand granule of ATCAS64 is not among them. -/
def Access.bytes (a : Access) : Nat :=
  match a.kind, a.pieces with
  | .atomic _ _, [_, p] => p.size
  | _, ps => (ps.map Piece.size).sum

/-- An access of a firing, still without its pieces. -/
def Firing.access (f : Firing) (kind : AccKind) (ty : Ty) (sc : Scope) : Access :=
  { id := 0, origin := .firing f, k := f.k, v := f.v, barn := f.site.holder.barnNo, tag := f.tag, dep := f.dep,
    area := .flat, kind := kind, ty := ty, sc := sc, pieces := [], since := 0 }

/-- The open invocation that a firing belongs to (R237): the innermost one whose tag is a prefix of the set's. -/
def State.invoc? (s : State) (f : Firing) : Option Invoc :=
  minBy (fun i => 44 - i.dep) (s.fab.invocs.filter fun i =>
    i.holder = f.site.holder && i.blk = f.site.blk && !i.closed && isPrefix i.tag i.dep f.tag f.dep)

/-- Capacity of the store buffer of a holder (R150, R252). -/
def sbufSize (h : Holder) : Nat := match h with | .bay _ _ => 512 | _ => 128

/-- What a store of an idempotent block meets at its store buffer (R150). -/
inductive SbufRoom | free | wait | overflow (held : Nat)
  deriving DecidableEq, Repr

def State.sbufRoom (s : State) (f : Firing) : SbufRoom :=
  let es := s.fab.sbuf.filter fun e => e.holder = f.site.holder
  if es.length < sbufSize f.site.holder then .free
  else
    let own := match s.invoc? f with
      | some i => (es.filter fun e => e.blk = i.blk && e.tag = i.tag && e.dep = i.dep).length
      | none => 0
    if own = es.length then .overflow own else .wait

/-- Issues a store of a firing: at once in an ordinary block; in an idempotent block it enters the store buffer, its
order-out, which carries the store's number, leaves in the next cycle, and it is performed at the commit (R150, R290). -/
def State.store (s : State) (f : Firing) (a : Access) (targets : List (Option Target)) (out : Tok) : State :=
  if s.idem f then
    match s.sbufRoom f with
    | .wait => { s with held := true }
    | .overflow n => s.trapFiring f { code := tcSbufOverflow, aux0 := f.site.holder.unit, aux1 := n }
    | .free =>
      let (t, d) := match s.invoc? f with | some i => (i.tag, i.dep) | none => (f.tag, f.dep)
      let e : SbufEntry := { holder := f.site.holder, blk := f.site.blk, tag := t, dep := d, acc := some s.fresh }
      ((s.modFab fun g => { g with sbuf := g.sbuf ++ [e] }).issue a).emitAll f.site 1 { out with after := out.after ++ [s.fresh] } targets
  else s.issue a

/-- The traps that a virtual address raises at the firing (R135, R262): a non-canonical address, a window address outside
the allocation, an atomic in the weight window. -/
def State.withVa (s : State) (f : Firing) (va : Nat) (kind : AccKind) (size : Nat) (act : Nat → State) : State :=
  match windowOf va with
  | .bad => s.pageTrap f va kind.code size
  | .paged => act va
  | .scratch _ => if (s.windowPlace f.k va).isSome then act va else s.permTrap f 4 va kind.code
  | .weight _ _ =>
    if (s.windowPlace f.k va).isNone then s.permTrap f 4 va kind.code
    else if kind.code = 2 then s.permTrap f 3 va kind.code
    else act va

/-- The address of a flat instruction, with the traps of R135 and R151. -/
def State.withFlat (s : State) (f : Firing) (bsel : BitVec 4) (disp : BitVec 9) (kind : AccKind) (size : Nat)
    (act : Nat → State) : State :=
  if (f.a.map Tok.poi).getD false then s.poisonTrap f .a
  else s.withVa f (s.flatAddr f.k f.v bsel disp (f.data .a)) kind size act

/-- The shape of a memory instruction (R134): slot c an order-in slot, null tokens on every driven target. -/
def memShape (h : Hdr) (t2 : Option Target) (orderIn : Bool) : Shape :=
  { h := h, targets := [h.t0, h.t1, t2], orderIn := orderIn, nullOut := true }

/-- The address of a scratchpad instruction (R136, R142, R151). Where several traps apply to one firing, POISON of slot a comes
first, then a range, then ALIGN, then the allocation (R152; DESIGN CHOICE, log 106). -/
def State.withScratch (s : State) (f : Firing) (disp : BitVec 13) (size code : Nat) (act : Nat → State) : State :=
  if (f.a.map Tok.poi).getD false then s.poisonTrap f .a
  else
    match scratchAddr (f.data .a) (sext disp) with
    | none => s.permTrap f 4 (wrapNat ((bitsAt (f.data .a).toNat 0 28 : Int) + sext disp) 64) code
    | some sa =>
      if sa % size ≠ 0 then s.alignTrap f sa size
      else if (s.scratchPlace f.k sa).isNone then s.permTrap f 4 sa code
      else act sa

/-! Order of accesses (R138, R230). -/

/-- Whether two accesses are of one core, or have related tags. -/
def tied (a b : Access) : Bool :=
  match a.origin, b.origin with
  | .core c _ _, .core d _ _ => c = d
  | .core c _ _, .coreCount d _ _ _ => c = d
  | .coreCount c _ _ _, .core d _ _ => c = d
  | .coreCount c _ _ _, .coreCount d _ _ _ => c = d
  | .core _ _ _, _ => false
  | .coreCount _ _ _ _, _ => false
  | _, .core _ _ _ => false
  | _, .coreCount _ _ _ _ => false
  | _, _ => related a.tag a.dep b.tag b.dep

/-- A prefetch is no access that orders anything (R141). -/
def AccKind.counts : AccKind → Bool
  | .prefetch => false
  | _ => true

/-- Whether a wait is for an acquire. -/
def WaitWhy.acquires : WaitWhy → Bool
  | .awaitSheaf _ => true | .kdone _ => true

/-- Whether two pieces touch one byte: by their places, or by their addresses while one has no place. -/
def Piece.overlaps (p q : Piece) : Bool :=
  match p.place, q.place with
  | some (st, x), some (su, y) => st = su && decide (x < y + q.size) && decide (y < x + p.size)
  | _, _ => decide (p.addr < q.addr + q.size) && decide (q.addr < p.addr + p.size)

/-- Whether an access is a core's. -/
def Origin.isCore : Origin → Bool
  | .core _ _ _ => true
  | .coreCount _ _ _ _ => true
  | _ => false

/-- Whether an earlier access `b` holds back `a`: rules 1 and 2 of R138, and program order at overlapping bytes of one
core (R230). -/
def blocks (a b : Access) : Bool :=
  !b.done && b.kind.counts && tied a b &&
    (a.rel || b.acq || (a.origin.isCore && a.pieces.any fun p => b.pieces.any fun q => p.overlaps q))

/-- The firing that issued an access. -/
def Origin.firing? : Origin → Option Firing
  | .firing f => some f
  | .stream f _ => some f
  | .streamWrite f => some f
  | _ => none

/-- The tag of the strand that a firing belongs to (R237): the tag of its invocation, closed or not; else its own. -/
def State.strandOf (s : State) (f : Firing) : DWord × Nat :=
  match minBy (fun i => 44 - i.dep) (s.fab.invocs.filter fun i =>
      i.holder = f.site.holder && i.blk = f.site.blk && isPrefix i.tag i.dep f.tag f.dep) with
  | some i => (i.tag, i.dep)
  | none => (f.tag, f.dep)

/-- Whether two firings are of one strand, in one block or in one after another (R237). D keeps no strands apart (R18). -/
def State.sameStrand (s : State) (f g : Firing) : Bool :=
  let x := s.strandOf f
  let y := s.strandOf g
  x.2 = y.2 && related x.1 x.2 y.1 y.2

/-- A release or acquire that R281 counts as an event without an access of its own. -/
def Access.bare (a : Access) : Bool :=
  a.pieces.isEmpty || match a.kind with
    | .arrive => true | .barInit _ => true | .barWait => true | _ => false

/-- An acquire that may wait without limit: a load with .wf, BARWAIT, FETCHSYNC (R143, R200, R209). -/
def Access.lingers (a : Access) : Bool :=
  a.acq && (a.wf || a.kind = .barWait || match a.origin with
    | .firing f => decide (opOf f.word = 0x38A)
    | _ => false)

/-- Whether an earlier access holds back a later one, given those that may wait without limit: these hold back the accesses
of their own strand, under every tag related to theirs. Firings of different strands have no order of firing instants unless a
token ties them, and a waiting acquire has sent none (R284; DEDUCED, log 8). -/
def State.holdsBack (s : State) (l : List Nat) (a b : Access) : Bool :=
  blocks a b && (!(l.contains b.id) ||
    (!(a.bare && b.bare) && match a.origin.firing?, b.origin.firing? with
      | some f, some g => s.sameStrand f g
      | _, _ => false))

/-- The accesses of a list that may wait without limit, for themselves or behind another. -/
def State.lingering (s : State) : List Access → List Access → List Nat → List Nat
  | _, [], l => l
  | seen, b :: r, l =>
    s.lingering (seen ++ [b]) r
      (if !b.done && (b.lingers || seen.any fun c => l.contains c.id && s.holdsBack l b c) then l ++ [b.id] else l)

/-- Whether rules 1 and 2 of R138 let an access be performed: no earlier access and no earlier waiting acquire holds it
back. -/
def State.mayPerform (s : State) (a : Access) : Bool :=
  let seen := s.fab.accs.takeWhile fun b => b.id ≠ a.id
  let l := s.lingering [] seen []
  let waits (w : Wait) : Bool := w.why.acquires && w.core.isNone && decide (w.id < a.id) && !a.bare &&
    (match a.origin.firing? with
      | some f => related w.fire.tag w.fire.dep a.tag a.dep && s.sameStrand w.fire f
      | none => false)
  !(seen.any fun b => s.holdsBack l a b) && !(s.fab.waits.any waits)

/-- A release or acquire of a firing that touches no memory: an access without pieces. -/
def Firing.order (f : Firing) (sc : Scope) (acq rel : Bool) : Access :=
  { f.access .read .b32 sc with acq := acq, rel := rel }

/-- Firings whose tokens are still to come, those of accesses, streams and traps apart. -/
def State.owing (s : State) : List Firing :=
  (s.fab.waits.filter fun w => w.core.isNone).map Wait.fire ++ s.pubs.filterMap (fun p => p.fire) ++ s.fetches.filterMap Fetch.fire ++
  s.fab.regions.flatMap fun r => r.loads.map WLoad.fire ++ r.swap.toList ++ r.freeBy.toList

end Sys2Proof.Machine
end

