-- ==== Sys2Proof/Machine/Steer.lean ====
section
/-! DEFINITION. Token steering, group 0x3 (R97 to R99), and the tag spaces, group 0x4 (R100 to R109). -/

namespace Sys2Proof.Machine

/-- MOV (R98): TY labels the result and leaves the data bits as they are (R97), so that under TY pred bits [31:1] stay,
though R15 says that they are 0 (DEDUCED, log 97). -/
def execMov (h : Hdr) (t2 : Option Target) (s : State) : Host.Outcome State Fault Refusal :=
  onFiring s fun f =>
    s.fired { h := h, targets := [h.t0, h.t1, t2] } f fun s =>
      s.emitAll f.site 1 (f.result h false h.ty (f.data .a)) [h.t0, h.t1, t2]

/-- The immediate of CONST read by TY (R98). -/
def constWord (t : Ty) (imm : BitVec 22) : Word :=
  match t with
  | .i32 => imm.signExtend 32
  | .n32 | .b32 => imm.setWidth 32
  | .f32 => imm.setWidth 32 <<< 10
  | .pred => predWord (imm.toNat % 2 = 1)
  | t => pack t.width ((upto t.lanes).map fun _ => imm.toNat)

def execConst (h : Hdr) (imm : BitVec 22) (s : State) : Host.Outcome State Fault Refusal :=
  compute s h 1 h.ty fun _ => (constWord h.ty imm, [0])

/-- LIT (R98): the halves of the literal word. -/
def execLit (h : Hdr) (s : State) : Host.Outcome State Fault Refusal :=
  onFiring s fun f =>
    s.fired { h := h, targets := [h.t0, h.t1] } f fun s =>
      (s.emit f.site h.t0 1 (f.result h false h.ty (f.lit.setWidth 32))).emit f.site h.t1 1
        (f.result h false h.ty ((f.lit >>> 32).setWidth 32))

/-- SWITCH (R99); slot b is a predicate (R433). -/
def execSwitch (h : Hdr) (s : State) : Host.Outcome State Fault Refusal :=
  onFiring s fun f =>
    s.fired { h := h, targets := [h.t0, h.t1], clean := [.b] } f fun s =>
      s.emit f.site (if (f.data .b).toNat % 2 = 1 then h.t0 else h.t1) 1 (f.result h false h.ty (f.data .a))

/-- MERGE (R99): each token that reaches slot a or b is a set of its own, and goes on to T0 and T1. -/
def execMerge (h : Hdr) (s : State) : Host.Outcome State Fault Refusal :=
  onFiring s fun f =>
    s.fired { h := h, targets := [h.t0, h.t1] } f fun s =>
      s.emitAll f.site 1 (f.result h false h.ty (if f.a.isSome then f.data .a else f.data .b)) [h.t0, h.t1]

/-- GATE (R99): null tokens when the predicate of slot b is false. -/
def execGate (h : Hdr) (s : State) : Host.Outcome State Fault Refusal :=
  onFiring s fun f =>
    s.fired { h := h, targets := [h.t0, h.t1], clean := [.b] } f fun s =>
      let r := f.result h false h.ty (f.data .a)
      s.emitAll f.site 1 (if (f.data .b).toNat % 2 = 1 then r else { r with data := 0, nul := true }) [h.t0, h.t1]

/-- SYNC (R99): the data of a to T0 and of b to T1; slot c, when required, is discarded. -/
def execSync (h : Hdr) (_c3 : Bool) (s : State) : Host.Outcome State Fault Refusal :=
  onFiring s fun f =>
    s.fired { h := h, targets := [h.t0, h.t1] } f fun s =>
      (s.emit f.site h.t0 1 (f.result h false h.ty (f.data .a))).emit f.site h.t1 1 (f.result h false h.ty (f.data .b))

/-- DROP (R99): consumes its token and sends nothing. -/
def execDrop (h : Hdr) (s : State) : Host.Outcome State Fault Refusal :=
  onFiring s fun f => s.fired { h := h, targets := [] } f fun s => s

/-- NULL (R99). -/
def execNull (h : Hdr) (s : State) : Host.Outcome State Fault Refusal :=
  onFiring s fun f =>
    s.fired { h := h, targets := [h.t0, h.t1] } f fun s =>
      s.emitAll f.site 1 { f.result h false h.ty 0 with nul := true } [h.t0, h.t1]

/-! Tag spaces. -/

/-- SPACE + 1 of the block of a firing. -/
def State.spaceSize (s : State) (f : Firing) : Nat :=
  match s.block? f.site.holder f.site.blk with
  | some l => hdrSPACE l.hdr + 1
  | none => 1

/-- The space instance of a key (R100); one that an ALLOC of the present cycle created has no bit set yet (R104). -/
def State.space? (s : State) (h : Holder) (blk : Nat) (t : DWord) (d : Nat) : Option Space :=
  s.fab.spaces.find? fun x => x.holder = h && x.blk = blk && x.tag = t && x.dep = d

def State.modSpace (s : State) (h : Holder) (blk : Nat) (t : DWord) (d : Nat) (g : Space → Space) : State :=
  s.modFab fun w =>
    { w with spaces := mapFirst (fun x => x.holder = h && x.blk = blk && x.tag = t && x.dep = d) g w.spaces }

/-- Entries of a holder's space table in use, of 32 (R100). -/
def State.spaceCount (s : State) (h : Holder) : Nat := (s.fab.spaces.filter fun x => x.holder = h).length

/-- TAG_DEPTH of R110: DEP, then w, or OFF and W. -/
def State.tagDepth (s : State) (f : Firing) (x y : Nat) : State :=
  s.trapFiring f { code := tcTagDepth, aux0 := f.dep, aux1 := x, aux2 := y }

/-- A result that carries another tag (R29). -/
def Tok.retag (k : Tok) (t : DWord) (d : Nat) : Tok := { k with tag := t, dep := d }

/-- What an ALLOC finds at its instance (R102 to R104): no index free at the start of the cycle, none left of those that
were, or the lowest that is free and that no ALLOC of this cycle took. -/
inductive AllocFound
  | none
  | left
  | index (i : Nat)
  deriving DecidableEq, Repr

/-- The index of an ALLOC at instruction index `idx` with indices below `top` (R102, R104). ALLOC nodes of one cycle take
their indices in ascending instruction index. -/
def State.allocFound (s : State) (f : Firing) (top : Nat) : AllocFound :=
  match s.space? f.site.holder f.site.blk f.tag f.dep with
  | none =>
    if 32 ≤ s.spaceCount f.site.holder then .none
    else match lowest (fun _ => true) top with | some i => .index i | none => .none
  | some x =>
    match lowest (fun i => bitsAt x.bits i 1 = 0) top with
    | none => .none
    | some _ =>
      match lowest (fun i => bitsAt (x.bits ||| x.taking) i 1 = 0) top with
      | some i => if wordIndex f.site + 1 < x.takenBy then .left else .index i
      | none => .left

/-- Index `i` of the instance of a firing's tag is taken in this cycle; the first ALLOC of a key makes its instance (R100). -/
def State.takeIndex (s : State) (f : Firing) (i : Nat) : State :=
  let take (x : Space) : Space := { x with taking := x.taking ||| 1 <<< i, takenBy := wordIndex f.site + 1 }
  if (s.space? f.site.holder f.site.blk f.tag f.dep).isSome then s.modSpace f.site.holder f.site.blk f.tag f.dep take
  else s.modFab fun g => { g with spaces := g.spaces ++
    [take { holder := f.site.holder, blk := f.site.blk, tag := f.tag, dep := f.dep, bits := 0 }] }

/-- ALLOC (R102 to R104): the lowest free index below the limit, or held. Indices freed in the present cycle are still
taken in it, and one that an ALLOC of the present cycle took is taken for the ALLOCs after it. -/
def execAlloc (h : Hdr) (lim : BitVec 9) (s : State) : Host.Outcome State Fault Refusal :=
  onFiring s fun f =>
    s.fired { h := h, targets := [h.t0, h.t1], lat := 2 } f fun s =>
      let n := s.spaceSize f
      let w := spaceWidth n
      match pushField f.tag f.dep 0 w with
      | none => s.tagDepth f w 0
      | some _ =>
        match s.allocFound f (if lim = 0 then n else lim.toNat) with
        | .none => { s with held := true }
        | .left => { s with held := true, left := true }
        | .index i =>
          match pushField f.tag f.dep i w with
          | none => s
          | some (t, d) =>
            ((s.takeIndex f i).emit f.site h.t0 2 ((f.result h false h.ty (f.data .a)).retag t d)).emit f.site h.t1 2
              (f.result h false .n32 (BitVec.ofNat 32 i))

/-- FREE (R105): pops the innermost field and releases its index at the end of the cycle. It sees its instance as the cycle
found it (R104). -/
def execFree (h : Hdr) (s : State) : Host.Outcome State Fault Refusal :=
  onFiring s fun f =>
    s.fired { h := h, targets := [h.t0, h.t1], lat := 2 } f fun s =>
      let n := s.spaceSize f
      let w := spaceWidth n
      if f.dep < w then s.trapFiring f { code := tcTagFree, aux0 := 2 ^ 63 }
      else
        let (t, d, i) := popField f.tag f.dep w
        match (s.space? f.site.holder f.site.blk t d).filter fun x => x.bits ≠ 0 with
        | none => s.trapFiring f { code := tcTagFree, aux0 := 2 ^ 63 + i, aux2 := d + (i / 64) * 64 }
        | some x =>
          if n ≤ i || bitsAt x.bits i 1 = 0 then
            s.trapFiring f { code := tcTagFree, aux0 := i, aux1 := bitsAt x.bits (64 * (i / 64)) 64,
                             aux2 := d + (i / 64) * 64 }
          else
            (s.modSpace f.site.holder f.site.blk t d fun x => { x with freeing := x.freeing ||| 1 <<< i }).emitAll f.site 2
              ((f.result h false h.ty (f.data .a)).retag t d) [h.t0, h.t1]

/-- ENTER (R106): `n` holds N - 1; a poisoned index of slot b raises POISON (R433); one that builds a stream in a bay keeps
R254. -/
def execEnter (h : Hdr) (idx : BitVec 8) (imm : Bool) (n : BitVec 8) (s : State) : Host.Outcome State Fault Refusal :=
  onFiring s fun f =>
    s.fired { h := h, targets := [h.t0, h.t1], clean := if imm then [] else [.b] } f fun s =>
      let i := if imm then idx.toNat else (f.data .b).toNat
      let w := spaceWidth (n.toNat + 1)
      if n.toNat + 1 ≤ i then s.trapFiring f { code := tcTagRange, aux0 := i, aux1 := n.toNat + 1 }
      else if s.feedsStream f.site && s.windowFull f.site f.tag f.dep w i then { s with held := true }
      else match pushField f.tag f.dep i w with
        | none => s.tagDepth f w 0
        | some (t, d) => s.emitAll f.site 1 ((f.result h false h.ty (f.data .a)).retag t d) [h.t0, h.t1]

/-- LEAVE (R106). -/
def execLeave (h : Hdr) (n : BitVec 8) (s : State) : Host.Outcome State Fault Refusal :=
  onFiring s fun f =>
    s.fired { h := h, targets := [h.t0, h.t1] } f fun s =>
      let w := spaceWidth (n.toNat + 1)
      if f.dep < w then s.tagDepth f w 0
      else
        let (t, d, _) := popField f.tag f.dep w
        s.emitAll f.site 1 ((f.result h false h.ty (f.data .a)).retag t d) [h.t0, h.t1]

/-- TAGRD (R107): `w` holds W - 1. -/
def execTagrd (h : Hdr) (w : BitVec 4) (off : BitVec 6) (sel : BitVec 3) (s : State) :
    Host.Outcome State Fault Refusal :=
  compute s h 1 h.ty fun f =>
    (BitVec.ofNat 32 (match sel.toNat with
      | 0 => tagD f.tag
      | 1 => tagK f.tag
      | 2 => tagV f.tag
      | 3 => f.dep
      | 4 => bitsAt (tagNest f.tag) off.toNat (w.toNat + 1)
      | 5 => bitsAt (tagNest f.tag) 0 32
      | _ => bitsAt (tagNest f.tag) 32 12), [0])

/-- TAGWR (R107); a poisoned value of slot b raises POISON (R433). -/
def execTagwr (h : Hdr) (w : BitVec 4) (off : BitVec 6) (s : State) : Host.Outcome State Fault Refusal :=
  onFiring s fun f =>
    s.fired { h := h, targets := [h.t0, h.t1], clean := [.b] } f fun s =>
      let n := w.toNat + 1
      if f.dep < off.toNat + n then s.tagDepth f off.toNat n
      else
        let nest := tagNest f.tag
        let slice := bitsAt nest off.toNat n <<< off.toNat
        let put := ((f.data .b).toNat % 2 ^ n) <<< off.toNat
        s.emitAll f.site 1 ((f.result h false h.ty (f.data .a)).retag (withNest f.tag (nest - slice + put)) f.dep)
          [h.t0, h.t1]

end Sys2Proof.Machine
end

