-- ==== Sys2Proof/Machine/Tensor.lean ====
section
/-! DEFINITION. Tensors and the streams that reach memory: descriptors and shapes (R155 to R158), LDT and STT (R159,
R160), the common rules of streams (R161, R254), STRM and STRMW (R162 to R164). -/

namespace Sys2Proof.Machine

/-- Entry `n` of the descriptor table of an instance (R155); an entry beyond the table is empty. -/
def State.descEntry (s : State) (k v n : Nat) : List Byte :=
  match s.inst? k v with
  | some i => (i.desc.drop n).headD (recZero 64)
  | none => recZero 64

/-- A tensor descriptor (R156): `str` holds the byte strides of dimensions 1 to 3. -/
structure Tensor where
  ty   : Ty
  base : Nat
  ext  : List Nat
  str  : List Nat
  ttab : Nat
  deriving DecidableEq, Repr

/-- The four extents at 0x10 of a descriptor or shape, when they keep the limits of R156 and R157 for a rank. -/
def extents (b : List Byte) (rank : Nat) : Option (List Nat) :=
  let l := (upto 4).map fun i => recField b (0x10 + 4 * i) 4
  if l.all (fun e => decide (1 ≤ e) && decide (e ≤ 2 ^ 24)) && (l.drop rank).all (· = 1) then some l else none

/-- A descriptor entry as R156 lays it out; none where it is no tensor descriptor or breaks R156. -/
def tensorOf (b : List Byte) : Option Tensor :=
  let r := recField b 1 1
  match extents b (bitsAt r 4 2 + 1), Ty.ofBits (BitVec.ofNat 4 (bitsAt r 0 4)) with
  | some ext, some ty =>
    let base := recField b 8 8
    let str := [recField b 0x20 8, recField b 0x28 8, recField b 0x30 8]
    let ttab := recField b 0x38 8
    if recField b 0 1 = 1 && r < 64 && ty ≠ .pred && recField b 2 6 = 0 && base % 4 = 0 && base < 2 ^ 60 &&
        ext.foldl (· * ·) 1 ≤ 2 ^ 32 && str.all (· % 4 = 0) && (ttab = 0 || str.all (· = 0)) then
      some { ty := ty, base := base, ext := ext, str := str, ttab := ttab }
    else none
  | _, _ => none

/-- A shape record (R157). -/
def shapeOf (b : List Byte) : Option (List Nat) :=
  let r := recField b 1 1
  if recField b 0 1 = 2 && r < 4 && recField b 2 14 = 0 && (b.drop 0x20).all (· = 0) then extents b (r + 1) else none

/-- Element `i` of a list of numbers. -/
def nth (l : List Nat) (i : Nat) : Nat := (l.drop i).headD 0

/-- Decompose of R158. -/
def Tensor.decompose (t : Tensor) (l : Nat) : List Nat :=
  let e0 := nth t.ext 0
  let e1 := nth t.ext 1
  let e2 := nth t.ext 2
  [l % e0, l / e0 % e1, l / (e0 * e1) % e2, l / (e0 * e1 * e2)]

/-- The bits of the lanes in range of the word at coordinates `c` (R158). -/
def Tensor.mask (t : Tensor) (c : List Nat) : Nat :=
  if (upto 3).all fun i => decide (nth c (i + 1) < nth t.ext (i + 1)) then
    2 ^ (t.ty.width * min t.ty.lanes (nth t.ext 0 - nth c 0)) - 1
  else 0

/-- The virtual address of the word at coordinates `c` of a tensor without a tile table (R158); the sum is taken modulo 2^64, as
that of a flat address is (R135; R158 names no modulus, DEDUCED, log 109). -/
def Tensor.va (t : Tensor) (c : List Nat) : Nat :=
  (t.base + nth c 0 * t.ty.width / 8 + nth c 1 * nth t.str 0 + nth c 2 * nth t.str 1 + nth c 3 * nth t.str 2) % 2 ^ 64

/-- The pieces of an access to one word: none where no lane is in range. -/
def Tensor.pieces (t : Tensor) (c : List Nat) (data : Nat) : List Piece :=
  if t.mask c = 0 then []
  else [{ addr := if t.ttab = 0 then t.va c else 0, size := 4, mask := t.mask c, data := data }]

/-- The word behind a tile table that an access names. -/
def Tensor.behind (t : Tensor) (b : List Byte) (c : List Nat) : Option TensWord :=
  if t.ttab = 0 then none else some { desc := b, at_ := c }

/-- TENSOR_DESC (R155): entry number and KIND. -/
def State.tensorDesc (s : State) (f : Firing) (n : Nat) : State :=
  s.trapFiring f { code := tcTensorDesc, aux0 := n, aux1 := recField (s.descEntry f.k f.v n) 0 1 }

/-- The descriptor, coordinates and entry bytes that LDT and STT name, with their traps (R155, R160, R152). -/
def State.withTensor (s : State) (f : Firing) (n : Nat) (kind : AccKind) (act : Tensor → List Nat → List Byte → State) :
    State :=
  if (f.a.map Tok.poi).getD false then s.poisonTrap f .a
  else
    let b := s.descEntry f.k f.v n
    match tensorOf b with
    | none => s.tensorDesc f n
    | some t =>
      let c := t.decompose (f.data .a).toNat
      if nth c 0 % t.ty.lanes ≠ 0 then s.alignTrap f (nth c 0) 4
      else if t.ttab = 0 && t.mask c ≠ 0 then s.withVa f (t.va c) kind 4 fun _ => act t c b
      else act t c b

/-- LDT (R160). -/
def execLdt (h : Hdr) (sc : Scope) (t2 : Option Target) (desc : BitVec 6) (s : State) : Host.Outcome State Fault Refusal :=
  onFiring s fun f =>
    s.fired (memShape h t2 true) f fun s =>
      s.withTensor f desc.toNat .read fun t c b =>
        s.issue { f.access .read h.ty sc with pieces := t.pieces c 0, tens := t.behind b c }

/-- STT (R160). -/
def execStt (h : Hdr) (sc : Scope) (t2 : Option Target) (desc : BitVec 6) (s : State) : Host.Outcome State Fault Refusal :=
  onFiring s fun f =>
    s.fired (memShape h t2 true) f fun s =>
      s.withTensor f desc.toNat .write fun t c b =>
        s.store f { f.access .write h.ty sc with pieces := t.pieces c (f.data .b).toNat, tens := t.behind b c,
                                                 poi := (f.b.map Tok.poi).getD false }
          [h.t0, h.t1, t2] (f.orderOut h true)

/-! Streams in general. -/

def State.stream? (s : State) (site : Site) (t : DWord) (d : Nat) : Option Stream :=
  s.fab.streams.find? fun x => x.site = site && x.tag = t && x.dep = d

def State.modStream (s : State) (site : Site) (t : DWord) (d : Nat) (g : Stream → Stream) : State :=
  s.modFab fun w => { w with streams := mapFirst (fun x => x.site = site && x.tag = t && x.dep = d) g w.streams }

def State.dropStream (s : State) (site : Site) (t : DWord) (d : Nat) : State :=
  s.modFab fun w => { w with streams := w.streams.filter fun x => !(x.site = site && x.tag = t && x.dep = d) }

def State.addStream (s : State) (x : Stream) : State := s.modFab fun w => { w with streams := w.streams ++ [x] }

/-- Entries of a node's stream state table in use, of 8 (R161). -/
def State.streamCount (s : State) (site : Site) : Nat :=
  (s.fab.streams.filter fun x => x.site = site && x.trunc.isNone).length

/-- A token with field `j` of width `w` pushed on a parent's tag (R161). -/
def Tok.under (k : Tok) (p : DWord) (dp w j : Nat) : Tok :=
  match pushField p dp j w with
  | some (t, d) => k.retag t d
  | none => k

/-- A window of a tensor (R163): the descriptor's entry and its bytes, its origin, and the extents of the shape. -/
structure Win where
  t     : Tensor
  b     : List Byte
  orig  : List Nat
  shape : List Nat
  deriving DecidableEq, Repr

/-- The tokens of a window. -/
def Win.count (w : Win) : Nat := nth w.shape 0 / w.t.ty.lanes * nth w.shape 1 * nth w.shape 2 * nth w.shape 3

/-- The coordinates of word `j` of a window (R163). -/
def Win.at (w : Win) (j : Nat) : List Nat :=
  let n := w.t.ty.lanes
  let t0 := nth w.shape 0 / n
  let n1 := nth w.shape 1
  let n2 := nth w.shape 2
  [nth w.orig 0 + n * (j % t0), nth w.orig 1 + j / t0 % n1, nth w.orig 2 + j / (t0 * n1) % n2,
   nth w.orig 3 + j / (t0 * n1 * n2)]

/-- What STRM and STRMW make of their descriptor, shape and origin: a window or a trap of the firing (R155, R161, R163). -/
inductive WinOr
  | win (w : Win)
  | desc (n : Nat)
  | shape (count : Nat)
  deriving DecidableEq, Repr

/-- The window of an instance whose origin has linear index `l0`. A count of 2^SW or more raises STREAM_SHAPE at STRMW's origin as
it does at STRM (R161 states it of the producer; DESIGN CHOICE, log 110). -/
def State.window (s : State) (k v desc shp l0 sw : Nat) : WinOr :=
  let b := s.descEntry k v desc
  match tensorOf b, shapeOf (s.descEntry k v shp) with
  | none, _ => .desc desc
  | _, none => .desc shp
  | some t, some sh =>
    let w : Win := { t := t, b := b, orig := t.decompose l0, shape := sh }
    if nth sh 0 % t.ty.lanes ≠ 0 || nth w.orig 0 % t.ty.lanes ≠ 0 || 2 ^ sw ≤ w.count then .shape w.count else .win w

/-- STREAM_SHAPE (R183): count, SW. -/
def State.streamShape (s : State) (f : Firing) (count sw : Nat) : State :=
  s.trapFiring f { code := tcStreamShape, aux0 := count, aux1 := sw }

/-! STRM. -/

/-- The reads of a stream from index `j` on (R163): one access for each word with a lane in range; the others give 0 at
once. -/
def strmReads (h : Hdr) (f : Firing) (w : Win) : Nat → Nat → State → State
  | 0, _, s => s
  | n + 1, j, s =>
    let c := w.at j
    let s :=
      if w.t.mask c = 0 then s.modStream f.site f.tag f.dep fun x => { x with words := x.words ++ [(j, f.result h true h.ty 0)] }
      else s.issue { f.access .read h.ty .pkg with origin := .stream f j, pieces := w.t.pieces c 0, tens := w.t.behind w.b c }
    strmReads h f w n (j + 1) s

/-- STRM (R163): `sw` holds SW - 1. The firing starts the stream; STREAM_TOKEN_SEND sends its tokens. -/
def execStrm (h : Hdr) (sw : BitVec 5) (shp : BitVec 6) (desc : BitVec 6) (s : State) : Host.Outcome State Fault Refusal :=
  onFiring s fun f =>
    s.fired { h := h, targets := [h.t0, h.t1], orderIn := true, nullOut := true, clean := [.a] } f fun s =>
      let n := sw.toNat + 1
      match s.window f.k f.v desc.toNat shp.toNat (f.data .a).toNat n with
      | .desc e => s.tensorDesc f e
      | .shape c => s.streamShape f c n
      | .win w =>
        if 44 < f.dep + n then s.tagDepth f n 0
        else if (s.stream? f.site f.tag f.dep).isSome || 8 ≤ s.streamCount f.site then { s with held := true }
        else
          strmReads h f w w.count 0
            (s.addStream { site := f.site, tag := f.tag, dep := f.dep, count := some w.count, fire := some f, since := s.cyc })

/-! The turns of a stream's tokens at a node that consumes it (R161). -/

/-- What a stream node makes of a token. -/
inductive StreamTurn
  /-- The parent's stream is not in step: the set waits. -/
  | wait
  /-- A trap of the firing. -/
  | trap (c : Cause)
  /-- The token of index `j` of the parent's stream, in its turn. -/
  | go (p : DWord) (dp j : Nat) (x : Stream)
  deriving DecidableEq, Repr

/-- The token of a set in a slot of a list. -/
def PSet.tok? (x : PSet) : Slot → Option Tok
  | .a => x.a | .b => x.b | .c => x.c | .p => x.p

/-- Whether a set of a node holds, in one of some slots, a token of a parent with an index and a marker bit that meet a
condition. -/
def State.waiting (s : State) (site : Site) (sls : List Slot) (p : DWord) (dp w : Nat) (c : Bool → Nat → Bool) : Bool :=
  s.fab.sets.any fun x => x.site = site && sls.any fun sl =>
    match x.tok? sl with
    | some t => !t.rol && fieldMeets p dp w (c t.eos) t.tag t.dep && t.dep = dp + w
    | none => false

/-- The turn of a set whose tokens stand in the slots `sls` (R161): indices ascend; a token at or above the count of a
marker at the node, and a marker at or below an index seen there, raise STREAM_LEN. A second token of an index raises
DUP_TOKEN. -/
def State.turn (s : State) (f : Firing) (sls : List Slot) (w : Nat) : StreamTurn :=
  if f.dep < w then .trap { code := tcTagDepth, aux0 := f.dep, aux1 := w }
  else
    let (p, dp, j) := popField f.tag f.dep w
    let sl := sls.headD .a
    let eos := ((f.tok? sl).map Tok.eos).getD false
    let len (i n : Nat) : Cause :=
      { code := tcStreamLen, slot := sl.toBits.toNat, aux0 := f.site.idx * 4 + sl.toBits.toNat, aux1 := i, aux2 := n }
    match s.stream? f.site p dp with
    | none =>
      if 8 ≤ s.streamCount f.site then .wait
      else if eos && s.waiting f.site sls p dp w (fun e i => !e && decide (j ≤ i)) then .trap (len j j)
      else if !eos && s.waiting f.site sls p dp w (fun e i => e && decide (i ≤ j)) then .trap (len j j)
      else if j = 0 then .go p dp j { site := f.site, tag := p, dep := dp, since := s.cyc } else .wait
    | some x =>
      if eos && (decide (j < x.next) || s.waiting f.site sls p dp w (fun e i => !e && decide (j ≤ i))) then .trap (len j x.next)
      else if !eos && s.waiting f.site sls p dp w (fun e i => e && decide (i ≤ j)) then .trap (len j x.next)
      else if j < x.next then .trap { code := tcDupToken, slot := sl.toBits.toNat }
      else if x.next < j then .wait
      else .go p dp j x

/-- Stores the state of a stream at its node. -/
def State.putStream (s : State) (x : Stream) : State :=
  if (s.stream? x.site x.tag x.dep).isSome then s.modStream x.site x.tag x.dep fun _ => x else s.addStream x

/-! STRMW. -/

/-- The origin set of STRMW (R164): slot b, and slot c where it is an order-in. -/
def strmwOrigin (s : State) (h : Hdr) (n desc shp : Nat) (f : Firing) : State :=
  s.fired { h := h, targets := [h.t0, h.t1], orderIn := true, clean := [.b] } f fun s =>
    if (s.stream? f.site f.tag f.dep).isSome then
      s.raise (s.firingTrap f { code := tcDupToken, slot := 1 } .none)
    else match s.window f.k f.v desc shp (f.data .b).toNat n with
      | .desc e => s.tensorDesc f e
      | .shape c => s.streamShape f c n
      | .win w =>
        if 8 ≤ s.streamCount f.site then { s with held := true }
        else s.addStream { site := f.site, tag := f.tag, dep := f.dep, count := some w.count, fire := some f, since := s.cyc }

/-- A stream token of STRMW in its turn: `f0` is the origin's firing. -/
def strmwToken (s : State) (h : Hdr) (sc : Scope) (n desc shp : Nat) (f f0 : Firing) (x : Stream) (j : Nat) : State :=
  let go (s : State) (w : Nat) (after : List Nat) : State :=
    s.putStream { x with next := j + 1, writes := x.writes + w, after := (x.after ++ f.after ++ after).eraseDups, since := s.cyc }
  if (f.a.map Tok.nul).getD false then go s 0 []
  else match s.window f.k f.v desc shp (f0.data .b).toNat n with
    | .desc e => s.tensorDesc f e
    | .shape c => s.streamShape f c n
    | .win w =>
      let c := w.at j
      let acc := { f.access .write h.ty sc with origin := .streamWrite f, pieces := w.t.pieces c (f.data .a).toNat,
                                                tens := w.t.behind w.b c, poi := (f.a.map Tok.poi).getD false }
      let put : State :=
        if s.idem f then
          match s.sbufRoom f with
          | .free => go (s.store f acc [] (f.orderOut h true)) 0 [s.fresh]
          | _ => s.store f acc [] (f.orderOut h true)
        else go (s.issue acc) 1 []
      if w.t.mask c = 0 then go s 0 []
      else if w.t.ttab = 0 then s.withVa f (w.t.va c) .write 4 fun _ => put
      else put

/-- STRMW (R164): a set holds a stream token in slot a, an origin in slot b, or roll tokens in every slot (R28). -/
def execStrmw (h : Hdr) (sc : Scope) (sw : BitVec 5) (shp : BitVec 6) (desc : BitVec 6) (s : State) :
    Host.Outcome State Fault Refusal :=
  onFiring s fun f =>
    let n := sw.toNat + 1
    match f.kind true, f.a with
    | .roll, _ => s.emitAll f.site 1 (f.marker h true false false true) [h.t0, h.t1]
    | _, none => strmwOrigin s h n desc.toNat shp.toNat f
    | _, some a =>
      let (p, dp, _) := popField f.tag f.dep n
      match s.turn f [.a] n, (s.stream? f.site p dp).bind fun x => x.fire.map fun g => (x, g) with
      | .trap c, _ => s.trapFiring f c
      | .wait, none => { s with held := true }
      | .go _ _ _ _, none => { s with held := true }
      | _, some (x, g) =>
        let (_, _, j) := popField f.tag f.dep n
        let cnt := x.count.getD 0
        if (a.eos && j ≠ cnt) || (!a.eos && cnt ≤ j) then s.streamLen f .a j cnt
        else if x.next ≠ j then { s with held := true }
        else if a.eos then s.putStream { x with done := true, since := s.cyc }
        else strmwToken s h sc n desc.toNat shp.toNat f g x j

end Sys2Proof.Machine
end

