-- ==== Sys2Proof/Machine/Translate.lean ====
section
/-! DEFINITION. Address translation: the walk, its caches, page faults and the abort of idempotent invocations (R360 to
R373). -/

namespace Sys2Proof.Machine

/-- The die of a barn number; units of the I/O die use the queue of die 0 (PRESUMED, log 20). -/
def dieNo (barn : Nat) : Nat := if barn < 64 then dieOf barn else 0

/-- What an access needs of its page (R364). -/
structure Need where
  r  : Bool := false
  w  : Bool := false
  x  : Bool := false
  tt : Bool := false
  deriving DecidableEq, Repr

def AccKind.need : AccKind → Need
  | .read => { r := true }
  | .write => { w := true }
  | .atomic _ _ => { r := true, w := true }
  | .prefetch => { r := true }
  | .arrive => { r := true, w := true }
  | .barInit _ => { r := true, w := true }
  | .barWait => { r := true }
  | .charge _ => { r := true, w := true }
  | .presence _ _ _ _ => {}
  | .claim _ => { r := true }
  | .fetch => { r := true, x := true }

/-- The result of a walk. -/
inductive WalkResult
  | page (base size frame : Nat) (pin tt x w r : Bool)
  | shared (pasid : Nat)
  | absent (malformed : Bool)
  deriving DecidableEq, Repr

/-- A reserved device physical range (R360). -/
def reservedPa (pa : Nat) : Bool := (physical pa).isNone

/-- An 8-byte entry at a device physical address. -/
def State.readPa (s : State) (pa n : Nat) : Nat :=
  match physical pa with
  | some (st, a) => s.readN st a n
  | none => 0

def State.readPaB (s : State) (pa n : Nat) : List Byte :=
  match physical pa with
  | some (st, a) => s.readB st a n
  | none => recZero n

/-- A write by a unit that names a physical address. -/
def State.writePa (s : State) (pa : Nat) (b : List Byte) : State :=
  match physical pa with
  | some (st, a) => s.writeB st a b
  | none => s

def State.writePaN (s : State) (pa n v : Nat) : State := s.writePa pa (leBytes n v)

/-- A unit's access to a physical address that a register or a request names: stops on a reserved range. -/
def atPhysical (pa : Nat) (act : Host.Outcome State Fault Refusal) : Host.Outcome State Fault Refusal :=
  if reservedPa pa then .fault (.reservedPhysical pa) else act

/-- The physical address of an ASID entry (R361). -/
def State.asidEntry (s : State) (asid : Nat) : Nat := bitsAt (s.reg .trAtab).toNat 20 24 * 2 ^ 20 + 16 * asid

/-- PASID of an ASID entry, when it is valid (R361). -/
def State.pasid? (s : State) (asid : Nat) : Option Nat :=
  let p := s.readPa (s.asidEntry asid + 8) 4
  if bitsAt p 31 1 = 1 then some (bitsAt p 0 20) else none

/-- Index shift and native page size of a level, L4 first (R362). -/
def levels : List (Nat × Nat) := [(48, 12), (34, 14), (30, 4), (21, 9), (12, 9)]

/-- Replica count of a leaf at a level, none where SZ is not allowed there (R363). -/
def replicas (shift sz : Nat) : Option Nat :=
  if sz = 0 then (if shift = 48 then none else some 1)
  else if sz = 1 then (if shift = 12 then some 4 else none)
  else if sz = 2 then (if shift = 12 || shift = 21 then some 16 else none)
  else none

/-- The walk below a table at `base` (R362, R363). -/
def State.walkFrom (s : State) (va : Nat) (pasid : Option Nat) : Nat → List (Nat × Nat) → WalkResult
  | _, [] => .absent true
  | base, (shift, bits) :: below =>
    let i := bitsAt va shift bits
    let e := s.readPa (base + 8 * i) 8
    let resv := bitsAt e 44 20 ≠ 0 || bitsAt e 10 2 ≠ 0 || bitsAt e 6 1 ≠ 0
    let pa := bitsAt e 12 32 * 4096
    match bitsAt e 0 2 with
    | 0 => .absent false
    | 1 => if resv || below = [] || reservedPa pa then .absent true else s.walkFrom va pasid pa below
    | 2 =>
      match replicas shift (bitsAt e 8 2) with
      | none => .absent true
      | some n =>
        let size := n * 2 ^ shift
        let first := i / n * n
        if resv || pa % size ≠ 0 || reservedPa pa || !((upto n).all fun j => s.readPa (base + 8 * (first + j)) 8 = e) then
          .absent true
        else .page (va / size * size) size pa (bitsAt e 7 1 = 1) (bitsAt e 5 1 = 1) (bitsAt e 4 1 = 1) (bitsAt e 3 1 = 1)
          (bitsAt e 2 1 = 1)
    | _ =>
      match pasid with
      | some p => if (shift = 48 || shift = 34) && e = 3 then .shared p else .absent true
      | none => .absent true

/-- The root and PASID that an ASID entry in memory gives, when it is valid (R361). -/
def State.rootOf (s : State) (a : Nat) : Option (Nat × Option Nat) :=
  let root := s.readPa (s.asidEntry a) 8
  if bitsAt root 0 1 = 0 || bitsAt root 1 11 ≠ 0 || bitsAt root 44 20 ≠ 0 || bitsAt (s.readPa (s.asidEntry a + 8) 4) 20 11 ≠ 0 ||
      s.readPa (s.asidEntry a + 12) 4 ≠ 0 then none
  else some (bitsAt root 12 32 * 4096, s.pasid? a)

/-- Walk(ASID, va) of R364 for a context slot, every level read from memory. -/
def State.walk (s : State) (k va : Nat) : WalkResult :=
  match (s.asid? k).bind s.rootOf with
  | none => .absent true
  | some (root, pasid) => s.walkFrom va pasid root levels

/-! The walk cache (R365, R481). -/

/-- The table entries that a walk from a table reads: the range under each and the table that it points to. -/
def State.pathFrom (s : State) (va : Nat) : Nat → List (Nat × Nat) → List (Nat × Nat × Nat)
  | _, [] => []
  | base, (shift, bits) :: below =>
    let e := s.readPa (base + 8 * bitsAt va shift bits) 8
    let pa := bitsAt e 12 32 * 4096
    if bitsAt e 0 2 = 1 then (va / 2 ^ shift * 2 ^ shift, 2 ^ shift, pa) :: s.pathFrom va pa below else []

/-- The ASID entry as a die's walker has it: kept, or read from memory. -/
def State.rootFor (s : State) (die a : Nat) (fresh : Bool) : Option (Nat × Option Nat) :=
  match if fresh then none else s.asids.find? fun e => e.die = die && e.asid = a with
  | some e => some (e.root, e.pasid)
  | none => s.rootOf a

/-- Where a walk begins: below the smallest range of the walk cache that holds the address, else at the root. -/
def State.walkStart (s : State) (die a va root : Nat) (fresh : Bool) : Nat × List (Nat × Nat) :=
  let hit (e : WalkEntry) : Bool := e.die = die && e.asid = a && decide (e.va ≤ va) && decide (va < e.va + e.size)
  match if fresh then none else minBy WalkEntry.size (s.walks.filter hit) with
  | some e => (e.table, levels.filter fun l => decide (2 ^ l.1 < e.size))
  | none => (root, levels)

/-- A table entry enters a walk cache; beyond 1,024 of a die the oldest leaves (DESIGN CHOICE, log 7). -/
def keepTable (die a : Nat) (s : State) (x : Nat × Nat × Nat) : State :=
  let same (e : WalkEntry) : Bool := e.die = die && e.asid = a && e.va = x.1 && e.size = x.2.1
  let l := s.walks.filter (fun e => !same e) ++ [{ die := die, asid := a, va := x.1, size := x.2.1, table := x.2.2 }]
  { s with walks := if 1024 < (l.filter fun e => e.die = die).length then dropFirst (fun e => e.die = die) l else l }

/-- What a walk that found a translation leaves in its die's caches. -/
def State.keepWalk (s : State) (die a : Nat) (root : Nat × Option Nat) (path : List (Nat × Nat × Nat)) : State :=
  let s := foldState (keepTable die a) s path
  { s with asids := s.asids.filter (fun e => !(e.die = die && e.asid = a)) ++ [{ die := die, asid := a, root := root.1, pasid := root.2 }] }

/-- Whether permissions grant a need. -/
def grants (n : Need) (r w x tt : Bool) : Bool := (!n.r || r) && (!n.w || w) && (!n.x || x) && (!n.tt || tt)

/-- The memory port of a barn that traffic leaves through when it has no stream (R273); other units have none. -/
def portOf (barn : Nat) : Option Nat := if barn < 64 then some (4 * barn + barn % 4) else none

/-- The memory port of a barn that the mapper binds to a stream: that of the instruction or record at an address, with an index
(R273; DESIGN CHOICE, log 9). -/
def streamPort (barn at_ idx : Nat) : Option Nat :=
  if barn < 64 then some (4 * barn + Config.streamPort at_ idx % 4) else none

/-- The memory port of an access (R273). -/
def Access.port (a : Access) : Option Nat :=
  match a.origin.firing? with
  | some f => streamPort a.barn f.site.blk f.site.idx
  | none => portOf a.barn

/-- An agent that reads or writes by virtual address: its source code (R195), and the memory port that it leaves through. -/
structure Source where
  code : Nat
  port : Option Nat := none
  deriving DecidableEq, Repr

/-- Whether an entry translates an address of an address space. -/
def TlbEntry.covers (e : TlbEntry) (asid va : Nat) : Bool := e.asid = asid && decide (e.va ≤ va) && decide (va < e.va + e.size)

/-- The cached translation of an address: the port's, else the die's (R364, R365). -/
def State.tlbFind (s : State) (die : Nat) (port : Option Nat) (asid va : Nat) : Option TlbEntry :=
  match s.tlb.find? fun e => port.isSome && e.port = port && e.covers asid va with
  | some e => some e
  | none => s.tlb.find? fun e => e.die = die && e.port = none && e.covers asid va

/-- Drops the cached translations of an address in a port and its die (R365). -/
def State.tlbDrop (s : State) (die : Nat) (port : Option Nat) (asid va : Nat) : State :=
  { s with tlb := s.tlb.filter fun e => !(e.die = die && (e.port = none || e.port = port) && e.covers asid va) }

/-- Adds a translation; beyond 256 entries of a port, or 8,192 of a die, the oldest is dropped (R365, DESIGN CHOICE, log 7). -/
def State.tlbAdd (s : State) (e : TlbEntry) : State :=
  let peer (x : TlbEntry) : Bool := x.die = e.die && x.port = e.port
  let l := s.tlb ++ [e]
  let cap := if e.port.isSome then 256 else 8192
  { s with tlb := if cap < (l.filter peer).length then dropFirst peer l else l }

/-- A translation enters the die's TLB and the port's. -/
def State.tlbFill (s : State) (port : Option Nat) (e : TlbEntry) : State :=
  let s := s.tlbAdd { e with port := none }
  if port.isSome then s.tlbAdd { e with port := port } else s

/-- The seven page sizes, largest first (R362). -/
def pageSizes : List Nat := [2 ^ 34, 2 ^ 30, 2 ^ 25, 2 ^ 21, 2 ^ 16, 2 ^ 14, 2 ^ 12]

/-- The largest page size at most `2^n` (R365). -/
def atsSize (n : Nat) : Option Nat := pageSizes.find? fun z => z ≤ 2 ^ n

/-- What a translation gives an access (R364). -/
inductive Translation
  | at (st : Store) (a : Nat)
  | denied
  | absent (cause : Nat) (malformed : Bool)
  | needsAts (pasid : Nat)
  deriving DecidableEq, Repr

/-- The place that a cached entry gives an address. -/
def TlbEntry.place (e : TlbEntry) (va : Nat) : Translation :=
  let pa := e.frame + (va - e.va)
  if e.host then .at .host pa
  else match physical pa with
    | some (st, a) => .at st a
    | none => .absent 0 true

/-- The result of a walk, with what it caches; a `fresh` one reads every level from memory (R365). -/
def State.walked (s : State) (die : Nat) (port : Option Nat) (k va : Nat) (n : Need) (fresh : Bool) : State × Translation :=
  match s.asid? k with
  | none => (s, .absent 0 true)
  | some a =>
    match s.rootFor die a fresh with
    | none => (s, .absent 0 true)
    | some root =>
      let from_ := s.walkStart die a va root.1 fresh
      match s.walkFrom va root.2 from_.1 from_.2 with
      | .absent m => (s, .absent 0 m)
      | .shared p => (s.keepWalk die a root (s.pathFrom va from_.1 from_.2), .needsAts p)
      | .page base size frame _ tt x w r =>
        let e : TlbEntry := { die := die, port := none, asid := a, va := base, size := size, frame := frame,
                              host := false, r := r, w := w, x := x, tt := tt }
        ((s.keepWalk die a root (s.pathFrom va from_.1 from_.2)).tlbFill port e, if grants n r w x tt then e.place va else .denied)

/-- The translation of R364: a cached entry that grants the need, else a walk (Confirm of R365). A window carries no tile-table
permission (R275). -/
def State.translate (s : State) (die : Nat) (port : Option Nat) (k va : Nat) (n : Need) : State × Translation :=
  match windowOf va with
  | .bad => (s, .absent 2 false)
  | .scratch _ => (s, match if n.tt then none else s.windowPlace k va with | some (st, a) => .at st a | none => .denied)
  | .weight _ _ => (s, match if n.tt then none else s.windowPlace k va with | some (st, a) => .at st a | none => .denied)
  | .paged =>
    match (if (s.asid? k).isSome then s.tlbFind die port (s.asid k) va else none) with
    | some e =>
      if grants n e.r e.w e.x e.tt then
        (if port.isSome && e.port = none then s.tlbAdd { e with port := port } else s, e.place va)
      else (s.tlbDrop die port (s.asid k) va).walked die port k va n true
    | none => s.walked die port k va n false

/-- Bytes that a block with a header occupies, padding apart (R61). -/
def blockLen (h : BitVec 128) : Nat := 16 + 8 * (hdrNINS h + 1) + 8 * (hdrNEXT h + 1)

/-- META of a token (R14). -/
def Tok.meta16 (k : Tok) : Nat :=
  let b (x : Bool) (n : Nat) : Nat := if x then 2 ^ n else 0
  k.ty.toBits.toNat * 2 ^ 12 + k.dep % 64 * 64 + b k.nul 5 + b k.eos 4 + b k.rol 3 + b k.poi 2 + b k.pp 1 + b k.pv 0

/-- GQN of an instance (R239, R328). -/
def Inst.gqn (i : Inst) : Nat := 2 ^ bitsAt (recField i.recBytes 0x19 1) 0 5

/-- The place of an address in a store, where its page can be reached at once; nothing is cached. -/
def State.peekAt (s : State) (k va : Nat) (n : Need) : Option (Store × Nat) :=
  match (s.translate 0 none k va n).2 with
  | .at st a => some (st, a)
  | _ => none

/-- The header at a virtual address, where a page holds it. -/
def State.peekHdr (s : State) (k va : Nat) : Option (BitVec 128) :=
  (s.peekAt k va {}).map fun p => BitVec.ofNat 128 (s.readN p.1 p.2 16)

/-! Gather queues in memory (R239, R328). -/

/-- The number of a block of an image, counted from `j` at an address (R82, R328). -/
def State.blockNo (s : State) (k blk : Nat) : Nat → Nat → Nat → Option Nat
  | 0, _, _ => none
  | n + 1, va, j =>
    if va = blk then some j
    else match s.peekHdr k va with
      | some h => s.blockNo k blk n (va + (blockLen h + 63) / 64 * 64) (j + 1)
      | none => none

/-- The tail of a gather queue, counted from its creation. -/
def Inst.tail (i : Inst) (blk : Nat) : Nat := ((i.tails.find? fun p => p.1 = blk).map Prod.snd).getD 0

/-- Slots from the head of a gather queue to its tail: the head stands at the oldest entry that is not freed (R240). -/
def State.ringUsed (s : State) (k v blk : Nat) : Nat :=
  let tail := ((s.inst? k v).map fun i => i.tail blk).getD 0
  let live := s.gathers.filter fun g => g.k = k && g.v = v && g.blk = blk
  tail - live.foldl (fun n g => min n g.pos) tail

/-- Claims the tail slot of a gather queue (R240). -/
def State.claimSlot (s : State) (k v blk : Nat) : State × Nat :=
  let n := ((s.inst? k v).map fun i => i.tail blk).getD 0
  (s.modInst k v fun i => { i with tails := i.tails.filter (fun p => p.1 ≠ blk) ++ [(blk, n + 1)] }, n)

/-- HOME of an entry (R239): a holder that is named, its barn, its number, and whether it is a tile. -/
def homeField : Option Holder → Nat
  | some (.tile b t) => 2 ^ 15 + b * 2 ^ 9 + t * 2 ^ 6 + 2 ^ 5
  | some (.bay b f) => 2 ^ 15 + b * 2 ^ 9 + f * 2 ^ 6
  | _ => 0

/-- The 128 bytes of a gather entry (R239); a taken one has TAKEN alone in ST (DESIGN CHOICE, log 29). -/
def Gather.bytes (g : Gather) (taken : Bool) : List Byte :=
  let st := if taken then 8 else 1 + (if g.closed && g.from_.isEmpty then 2 else 0) + (if g.ready.isSome then 4 else 0)
  let pres := (upto 16).foldl (fun n i => if ((g.vals.drop i).headD none).isSome then n + 2 ^ i else n) 0
  let val (x : Option Tok) : List Byte := match x with | some k => leBytes 4 k.data.toNat ++ leBytes 2 k.meta16 | none => recZero 6
  leBytes 8 g.tag.toNat ++ leBytes 1 (g.dep % 64) ++ leBytes 1 st ++ leBytes 2 pres ++ leBytes 2 (homeField g.home) ++ recZero 2 ++
    ((upto 16).flatMap fun i => val ((g.vals.drop i).headD none)) ++ recZero 16

/-- Writes a gather entry to its slot in memory, where the pages of the ring can be reached (R239; DESIGN CHOICE, log 29). -/
def State.mirrorGather (s : State) (taken : Bool) (g : Gather) : State :=
  match s.inst? g.k g.v with
  | none => s
  | some i =>
    match s.blockNo g.k g.blk i.nblk i.entry 0 with
    | none => s
    | some j =>
      let va := recField i.recBytes 0x30 8 + (j * i.gqn + g.pos % i.gqn) * 128
      let b := g.bytes taken
      let put (s : State) (o : Nat) : State :=
        match s.peekAt g.k (va + o) { w := true } with
        | some (st, a) => s.writeB st a ((b.drop o).take 64)
        | none => s
      put (put s 0) 64

/-- Writes the entries of a queue with a key to memory. -/
def State.mirrorKey (s : State) (k v blk : Nat) (t : DWord) (d : Nat) : State :=
  foldState (fun s g => s.mirrorGather false g) s (s.gathers.filter fun g => g.k = k && g.v = v && g.blk = blk && g.tag = t && g.dep = d)

/-- Deliveries to entry slots are ordering chains: a value carries none of its sender's (R202). -/
def Tok.asValue (k : Tok) : Tok := { k with after := [] }

/-! Page faults. -/

/-- Whether a context has an outstanding page fault (R369). -/
def State.hasFault (s : State) (k : Nat) : Bool := s.pfaults.any fun p => p.k = k && !p.failed

/-- The next fault identifier of a die, not one in use (R372). -/
def State.takeFid (s : State) (die : Nat) : State × Nat :=
  let n := ((s.nextFid.find? fun p => p.1 = die).map Prod.snd).getD 0
  let n := ((upto 256).find? fun i => !(s.pfaults.any fun p => p.die = die && p.fid = (n + i) % 2 ^ 24)).elim n
    fun i => (n + i) % 2 ^ 24
  ({ s with nextFid := (s.nextFid.filter fun p => p.1 ≠ die) ++ [(die, (n + 1) % 2 ^ 24)] }, n)

/-- Raises a page fault, or finds the outstanding one of the same page and cause (R369): its die and identifier. -/
def State.pageFault (s : State) (die k va cause : Nat) (tile : Option Nat) (access : Nat) (malf idem : Bool) (src : Nat) :
    State × Nat :=
  match s.pfaults.find? fun p => !p.failed && p.die = die && p.k = k && p.cause = cause && p.tile = tile && p.va / 4096 = va / 4096 with
  | some p => (s, p.fid)
  | none =>
    let (s, fid) := s.takeFid die
    ({ s with pfaults := s.pfaults ++
        [{ die := die, fid := fid, k := k, asid := s.asid k, va := va, cause := cause, tile := tile, access := access,
           malf := malf, idem := idem, src := src, cyc := s.cyc }] }, fid)

/-- Whether something of the fabric stands under an invocation. -/
def Invoc.holds (i : Invoc) (h : Holder) (blk : Nat) (t : DWord) (d : Nat) : Bool :=
  i.holder = h && i.blk = blk && isPrefix i.tag i.dep t d

/-- Whether an access was issued by a firing of an invocation. -/
def Invoc.issued (i : Invoc) (o : Origin) : Bool :=
  match o with
  | .firing f => i.holds f.site.holder f.site.blk f.tag f.dep
  | .stream f _ => i.holds f.site.holder f.site.blk f.tag f.dep
  | .streamWrite f => i.holds f.site.holder f.site.blk f.tag f.dep
  | _ => false

/-- What a pending trap holds of an invocation: an emulation of it (R443). -/
def Invoc.emulates (i : Invoc) (h : Hold) : Bool :=
  match h with
  | .emulation f _ => i.holds f.site.holder f.site.blk f.tag f.dep
  | _ => false

/-- Takes an invocation's tokens, sets, accesses, instances and buffered stores out of the fabric (R371, steps 1 to 4). -/
def Fabric.discard (g : Fabric) (i : Invoc) : Fabric :=
  { g with
    sbuf := g.sbuf.filter fun e => !(e.holder = i.holder && e.blk = i.blk && e.tag = i.tag && e.dep = i.dep && !e.commit)
    spaces := g.spaces.filter fun x => !i.holds x.holder x.blk x.tag x.dep
    queues := g.queues.filter fun q => !i.holds q.site.holder q.site.blk q.tok.tag q.tok.dep
    flights := g.flights.filter fun x => !i.holds x.dst.holder x.dst.blk x.tok.tag x.tok.dep
    sets := g.sets.filter fun x => !i.holds x.site.holder x.site.blk x.tag x.dep
    frames := g.frames.filter fun x => !i.holds x.holder x.blk x.tag x.dep
    streams := g.streams.filter fun x => !i.holds x.site.holder x.site.blk x.tag x.dep
    waits := g.waits.filter fun w => !(w.core.isNone && i.holds w.fire.site.holder w.fire.site.blk w.fire.tag w.fire.dep)
    accs := g.accs.filter fun a => !i.issued a.origin
    invocs := g.invocs.filter fun j => !(j.holder = i.holder && j.blk = i.blk && j.tag = i.tag && j.dep = i.dep) }

/-- Aborts an invocation of an idempotent block (R371): its work is discarded, its emulations end (R443), and its gather
entry is restored, not ready and bound to the fault. -/
def State.abort (s : State) (i : Invoc) (fid : Option (Nat × Nat)) : State :=
  let mine (t : Trap) : Bool := t.k = i.k && i.emulates t.hold
  let gone := (s.traps.filter mine).map Trap.wordOf
  let fab := s.fab.discard i
  let (s, pos) := s.claimSlot i.k i.v i.blk
  let s : State := { s with
    fab := { fab with chans := fab.chans.filter fun c => !(c.ch.isNone && c.k = i.k && gone.contains c.tok.data) }
    traps := s.traps.filter fun t => !mine t
    voided := s.voided ++ gone.map fun w => (i.k, w)
    gathers := s.gathers ++ [{ k := i.k, v := i.v, blk := i.blk, tag := i.tag, dep := i.dep, vals := i.vals,
                               closed := true, fid := fid, pos := pos, since := s.cyc, age := s.cyc }] }
  (s.mirrorKey i.k i.v i.blk i.tag i.dep).promoteAll

/-- The open invocation of an idempotent block that issued an access. -/
def State.idemInvoc? (s : State) (o : Origin) : Option Invoc :=
  match o with
  | .firing f => if s.idem f then s.invoc? f else none
  | .stream f _ => if s.idem f then s.invoc? f else none
  | .streamWrite f => if s.idem f then s.invoc? f else none
  | _ => none

/-- The HOME of an entry that becomes ready (R241): the holder of a live space instance of its block whose key is a prefix
of its tag. -/
def State.homeOf (s : State) (g : Gather) : Option Holder :=
  (s.fab.spaces.find? fun x => x.blk = g.blk && isPrefix x.tag x.dep g.tag g.dep).map Space.holder

/-- A page fault is resolved with RETRY (R369, R372): whatever waits on it translates again, and the entry of an aborted
invocation is ready in this cycle. -/
def State.retryFault (s : State) (die fid : Nat) : State :=
  let at_ := some (die, fid)
  let acc (a : Access) : Access := if a.trans = .fault die fid then { a with trans := .ready } else a
  let cmd (c : Cmd) : Cmd := if c.fault = at_ then { c with fault := none } else c
  let gat (g : Gather) : Gather := if g.fid = at_ then { g with fid := none, why := none, ready := some s.cyc, since := s.cyc, age := s.cyc, home := s.homeOf g } else g
  let fet (f : Fetch) : Fetch := if f.fault = at_ then { f with fault := none } else f
  let tsk (t : Task) : Task := if t.fault = at_ then { t with fault := none } else t
  let mine := s.gathers.filter fun g => g.fid = at_
  let s : State := { s with
    pfaults := s.pfaults.filter fun p => !(p.die = die && p.fid = fid)
    fab := { s.fab with accs := s.fab.accs.map acc, cmds := s.fab.cmds.map cmd }
    gathers := s.gathers.map gat
    fetches := s.fetches.map fet
    tasks := s.tasks.map tsk }
  foldState (fun s g => s.mirrorKey g.k g.v g.blk g.tag g.dep) s mine

/-- Source code of R195 for a barn or the Reeve. -/
def srcCode (barn : Nat) : Nat := if barn < 64 then barn else 97

/-- A barn or the Reeve, for traffic without a stream. -/
def srcBarn (barn : Nat) : Source := { code := srcCode barn, port := portOf barn }

/-- The agent of an access. -/
def Access.source (a : Access) : Source := { code := srcCode a.barn, port := a.port }

def State.modAcc (s : State) (id : Nat) (f : Access → Access) : State :=
  s.modFab fun g => { g with accs := mapFirst (fun a => a.id = id) f g.accs }

def State.dropAcc (s : State) (id : Nat) : State :=
  s.modFab fun g => { g with accs := g.accs.filter fun a => a.id ≠ id }

/-- The trap of a core's access (R234): BLK holds the pc. -/
def State.coreTrap (_s : State) (a : Access) (id : CoreId) (pc : Nat) (c : Cause) : Trap :=
  { k := a.k, index := 0, tcode := c.code, cause := c.cause, cls := .F, srck := if id.storer then 4 else 3,
    barn := id.barn, unit := 0, idx := 0xFF, blk := pc, word := BitVec.ofNat 64 a.word, tag := a.tag, dep := a.dep, slot := 0xFF,
    aux0 := BitVec.ofNat 64 c.aux0, aux1 := BitVec.ofNat 64 c.aux1, aux2 := BitVec.ofNat 32 c.aux2, cyc := 0, v := a.v,
    hold := .word a.id }

/-- Raises a trap and goes on, or leaves everything as it stands while every index is in use (R423). -/
def State.raiseThen (s : State) (t : Trap) (g : State → State) : State :=
  match s.freeTrapIndex t.k with
  | none => s
  | some _ => g (s.raise t)

/-- A trap record that cannot be written: the trap goes to the host (R425). -/
def State.trapToHost (s : State) (k n : Nat) : State :=
  { s with traps := s.traps.map fun (t : Trap) => if t.k = k && t.index = n then { t with toHost := true } else t }

/-- A core stops at its next instruction boundary (R234). -/
def State.haltCore (s : State) (id : CoreId) : State :=
  s.modFab fun g => { g with cores := mapFirst (fun x => x.id = id) (fun x => { x with stopped := true }) g.cores }

/-- The trap of an access that cannot be performed: the access waits for its resolution (R152, R372). That of a word of a stream,
a TENSOR_DESC met in a tile table among them, is due in the turn of the word (R163; DESIGN CHOICE, log 111), and that of a claim
in the turn of the claim (R329). -/
def State.accessTrap (s : State) (a : Access) (c : Cause) : State :=
  let wait (s : State) : State := s.modAcc a.id fun x => { x with waiting := true }
  match a.origin with
  | .firing f => s.raiseThen (s.firingTrap f c (.word a.id)) wait
  | .stream _ _ => s.modAcc a.id fun x => { x with trans := .failed c }
  | .streamWrite f => s.raiseThen (s.firingTrap f c (.word a.id)) wait
  | .trapRec k n => (s.trapToHost k n).dropAcc a.id
  | .direct _ _ => s.modAcc a.id fun x => { x with trans := .failed c }
  | .core id pc _ => s.raiseThen (s.coreTrap a id pc c) fun s => (wait s).haltCore id
  | .coreCount id pc _ _ => s.raiseThen (s.coreTrap a id pc c) fun s => (wait s).haltCore id

end Sys2Proof.Machine
end

