-- ==== Sys2Proof/Machine/Matrix.lean ====
section
/-! DEFINITION. Systolic regions, group 0xC (R171 to R179, R303 to R310), and the events of a region. -/

namespace Sys2Proof.Machine

/-! Regions and their geometry. -/

def State.region? (s : State) (barn r : Nat) : Option Region := s.fab.regions.find? fun x => x.barn = barn && x.r = r

/-- The region of an event: not one of a context that is frozen or saved, nor of a gated barn (R379, R434). -/
def State.field? (s : State) (barn r : Nat) : Option Region :=
  match s.region? barn r with
  | some x => if s.ctxState x.k < 2 && !(s.freezes.any fun f => f.p = barn && (f.gated || decide (f.at_ + 8 ≤ s.cyc))) then some x else none
  | none => none

def State.modRegion (s : State) (barn r : Nat) (g : Region → Region) : State :=
  s.modFab fun w => { w with regions := mapFirst (fun x => x.barn = barn && x.r = r) g w.regions }

def State.putRegion (s : State) (x : Region) : State := s.modRegion x.barn x.r fun _ => x

/-- The logical barn of a physical one for a slot (R462). -/
def State.logicalBarn (s : State) (k b : Nat) : Nat := (lowest (fun n => s.physBarn k n = b) 64).getD b

/-- The handle of a region (R171). -/
def State.handleOf (s : State) (x : Region) : Nat := x.gen * 2 ^ 16 + x.r * 64 + s.logicalBarn x.k x.barn

/-- The region that a handle names for a context; none where MATRIX_HANDLE is raised (R171). -/
def State.byHandle (s : State) (k : Nat) (h : Word) : Option Region :=
  let n := h.toNat
  match s.region? (s.physBarn k (bitsAt n 0 6)) (bitsAt n 6 3) with
  | some x => if x.k = k && x.gen = bitsAt n 16 16 && bitsAt n 9 7 = 0 then some x else none
  | none => none

/-- Generation of a region number (R171): it advances at each MFREE. -/
def State.regionGen (s : State) (barn r : Nat) : Nat :=
  ((s.regGens.find? fun p => p.1 = barn * 8 + r).map Prod.snd).getD 0

/-- Whether a bay holds a frame of a barn. -/
def State.frameHeld (s : State) (barn f : Nat) : Bool :=
  (s.fab.blocks.any fun l => l.holder = .bay barn f) || (s.fetches.any fun x => x.holder = .bay barn f)

/-- Whether a rectangle of PEs is free (R174, R306). -/
def State.rectFree (s : State) (barn h w row col : Nat) : Bool :=
  ((upFrom (row / 4) ((row + h - 1) / 4 - row / 4 + 1)).all fun f => !s.frameHeld barn f) &&
  !(s.fab.regions.any fun x => x.barn = barn && decide (row < x.row + x.h) && decide (x.row < row + h) &&
      decide (col < x.col + x.w) && decide (x.col < col + w))

/-- The free rectangle of lowest origin row, then column, and the lowest free region number (R174). -/
def State.placeRegion (s : State) (barn h w : Nat) : Option (Nat × Nat × Nat) :=
  let spots := (upto (33 - h)).flatMap fun r => (upto (33 - w)).map fun c => (r, c)
  match spots.find? fun p => s.rectFree barn h w p.1 p.2, lowest (fun r => (s.region? barn r).isNone) 8 with
  | some (r, c), some n => some (r, c, n)
  | _, _ => none

/-- The virtual address of the block that an exit of a loaded block names; 0 for the end exit (R66). -/
def State.exitBlock (s : State) (h : Holder) (blk e : Nat) : Nat :=
  match s.block? h blk with
  | some l => ((l.exits.drop e).headD 0).toNat % 2 ^ 60
  | none => 0

/-- A new region (R174): active half 0, both halves unloaded, every entry free. -/
def State.bindRegion (s : State) (k v barn h w blk : Nat) : Option (State × Region) :=
  match s.placeRegion barn h w with
  | none => none
  | some (row, col, r) =>
    let x : Region := { barn := barn, r := r, k := k, v := v, gen := s.regionGen barn r, h := h, w := w, row := row,
                        col := col, blk := blk }
    some (s.modFab fun g => { g with regions := g.regions ++ [x] }, x)

/-- MREGION (R174): `hm`, `wm` hold H - 1, W - 1. The systolic block is fetched onto the region (R68). While a Belfry load
drains, no region is configured, and the set is held (R448). -/
def execMregion (h : Hdr) (e : BitVec 4) (wm : BitVec 5) (hm : BitVec 5) (s : State) : Host.Outcome State Fault Refusal :=
  onFiring s fun f =>
    s.fired { h := h, targets := [h.t0, h.t1], lat := 6, nullOut := true } f fun s =>
      let blk := s.exitBlock f.site.holder f.site.blk e.toNat
      match if s.belLoad.isSome then none else f.site.holder.barn?.bind fun b => s.bindRegion f.k f.v b (hm.toNat + 1) (wm.toNat + 1) blk with
      | none => { s with held := true }
      | some (s, x) =>
        let s : State := { s with fetches := s.fetches ++
          [{ holder := .region x.barn x.r, k := f.k, v := f.v, blk := blk, since := s.cyc }] }
        s.emitAll f.site 6 (f.result h false h.ty (BitVec.ofNat 32 (s.handleOf x))) [h.t0, h.t1]

/-- MATRIX_HANDLE (R183). -/
def State.handleTrap (s : State) (f : Firing) : State :=
  s.trapFiring f { code := tcMatrixHandle, aux0 := (f.data .a).toNat }

/-- MFREE (R174): the region is released once it is idle. -/
def execMfree (h : Hdr) (s : State) : Host.Outcome State Fault Refusal :=
  onFiring s fun f =>
    s.fired { h := h, targets := [h.t0, h.t1], lat := 4, nullOut := true } f fun s =>
      match s.byHandle f.k (f.data .a) with
      | none => s.handleTrap f
      | some x => if x.freeBy.isSome then { s with held := true } else s.putRegion { x with freeBy := some f }

/-! Weights. -/

/-- kw of R173. -/
def weightsPerPe (wfmt : Nat) : Nat := match wfmt with | 0 => 8 | 1 => 4 | 2 => 4 | 3 => 4 | _ => 2

/-- Bits of a weight. -/
def weightBits (wfmt : Nat) : Nat := match wfmt with | 0 => 4 | 1 => 8 | 2 => 8 | 3 => 8 | _ => 16

/-- The group size in use: R175 for grouped weights, else 32 (R57). -/
def groupSize (wfmt gsz : Nat) : Nat := if wfmt < 2 then 32 * 2 ^ gsz else 32

/-- Bytes of the expanded image of a region (R175). -/
def imageBytes (h w wfmt gsz : Nat) : Nat :=
  32 * h * w + (if wfmt < 2 then h * weightsPerPe wfmt / groupSize wfmt gsz * (8 * w) * 4 else 0)

/-- The value of a weight's bits. -/
def weightVal (wfmt : Nat) (b : Nat) : Val :=
  match wfmt with
  | 0 => .ofInt b | 1 => .ofInt b | 2 => Fmt.e4m3.value b | 3 => Fmt.e5m2.value b | 4 => Fmt.f16.value b
  | _ => Fmt.bf16.value b

/-- The bits of weight (k, n) in an expanded image of a region of width `w` (R175). -/
def weightAt (img : List Byte) (w wfmt k n : Nat) : Nat :=
  let kw := weightsPerPe wfmt
  let wb := weightBits wfmt
  let e := k % kw * 8 + n % 8
  bitsAt (recField img (32 * (k / kw * w + n / 8)) 32) (wb * e) wb

/-- The parameter word of group `g` and column `n` (R56, R175). -/
def paramAt (img : List Byte) (h w g n : Nat) : Nat := recField img (32 * h * w + 4 * (g * (8 * w) + n)) 4

/-- The expansion of the blocks of a compressed image from `pos` on (R271): the bytes and the end. -/
def expandBlocks (img : List Byte) : Nat → Nat → Nat → Option (List Byte × Nat)
  | 0, pos, _ => some ([], pos)
  | n + 1, pos, left =>
    let mask := recField img pos 4
    let words := min 32 (left / 8)
    if recField img (pos + 4) 4 ≠ 0 || 2 ^ words ≤ mask then none
    else
      let (bytes, stop) := (upto words).foldl (fun (acc : List Byte × Nat) i =>
        if bitsAt mask i 1 = 1 then (acc.1 ++ leBytes 8 (recField img acc.2 8), acc.2 + 8) else (acc.1 ++ recZero 8, acc.2))
        ([], pos + 8)
      (expandBlocks img n stop (left - 8 * words)).map fun r => (bytes ++ r.1, r.2)

/-- The expanded image of a compressed one that ends within `room` bytes (R271). -/
def decompress (img : List Byte) (room : Nat) : Option (List Byte) :=
  let elen := recField img 4 4
  let clen := recField img 8 4
  if recField img 0 2 ≠ 0x57C9 || recField img 2 2 ≠ 0 || recField img 12 4 ≠ 0 || elen % 32 ≠ 0 || elen < 32 ||
      2097152 < elen || clen % 8 ≠ 0 || room < clen then none
  else match expandBlocks (img.take clen) ((elen + 255) / 256) 16 elen with
    | some (b, stop) => if stop = clen then some b else none
    | none => none

/-- The bytes of a context's weight-buffer allocation in a barn from an offset on (R270). -/
def State.weightBytes (s : State) (barn k off : Nat) : List Byte :=
  let r : Reg := .wbufAlloc barn k
  s.readB .wbuf (barn * 2 ^ 21 + 0x10000 * s.regField r 0 5 + off) (0x10000 * s.regField r 8 6 - off)

/-- Whether a byte range of a context's weight-buffer allocation holds a poisoned word. -/
def State.weightPoison (s : State) (barn k off n : Nat) : Bool :=
  let a := barn * 2 ^ 21 + 0x10000 * s.regField (.wbufAlloc barn k) 0 5 + off
  s.poisW.any fun u => decide (a / 4 ≤ u) && decide (u < (a + n + 3) / 4)

/-- A half as WLOAD loads it, or the group that WGT_FORMAT names (R56, R175, R305). -/
def loadHalf (img : List Byte) (h w wfmt gsz : Nat) (poi : Bool) : Half ⊕ Nat :=
  let k := h * weightsPerPe wfmt
  let g := groupSize wfmt gsz
  if k % g ≠ 0 || img.length < imageBytes h w wfmt gsz then .inr 0
  else
    let bad (i : Nat) : Bool :=
      let p := paramAt img h w (i / (8 * w)) (i % (8 * w))
      bitsAt p 24 8 ≠ 0 || (wfmt = 0 && bitsAt p 20 4 ≠ 0)
    match if wfmt < 2 then lowest bad (k / g * (8 * w)) else none with
    | some i => .inr (i / (8 * w))
    | none => .inl { loaded := true, fresh := true, wfmt := wfmt, gsz := gsz,
                     bytes := img.take (imageBytes h w wfmt gsz), poi := poi }

def Region.halfOf (x : Region) (h : Nat) : Half := if h = 0 then x.half0 else x.half1
def Region.setHalf (x : Region) (h : Nat) (v : Half) : Region := if h = 0 then { x with half0 := v } else { x with half1 := v }
def Region.idle (x : Region) : Nat := 1 - x.active

/-- The first load of a region starts once no tile and no drain is in progress on the inactive set (R175): the set is
cleared and the half is unloaded. `image` reads the weight buffer from an offset on. -/
def Region.startLoad (x : Region) (cyc : Nat) (image : Nat → List Byte) : Region :=
  match x.loads with
  | l :: r =>
    if l.started.isSome || (x.tiles.any fun t => t.half = x.idle) || (x.drains.any fun d => d.half = x.idle) then x
    else
      { x.setHalf x.idle { fresh := true } with
        loads := { l with started := some cyc, seen := image l.off } :: r
        accs := x.accs.filter fun a => a.half ≠ x.idle }
  | [] => x

/-- WLOAD (R175): `gsz` 0 to 2. -/
def execWload (h : Hdr) (t2 : Option Target) (cmp : Bool) (gsz : BitVec 2) (wfmt : BitVec 4) (s : State) :
    Host.Outcome State Fault Refusal :=
  onFiring s fun f =>
    s.fired { memShape h t2 true with clean := [.b] } f fun s =>
      match s.byHandle f.k (f.data .a) with
      | none => s.handleTrap f
      | some x =>
        let l : WLoad := { fire := f, off := (f.data .b).toNat, wfmt := wfmt.toNat, gsz := gsz.toNat, cmp := cmp }
        let x := x.setHalf x.idle { x.halfOf x.idle with fresh := true }
        s.putRegion ({ x with loads := x.loads ++ [l] }.startLoad s.cyc (s.weightBytes x.barn x.k))

/-- The bytes that a load reads: one written while it was in progress is read as its old value or as the written one (R270;
DESIGN CHOICE, log 7). -/
def State.raced (s : State) (old new_ : List Byte) : List Byte :=
  (upto new_.length).map fun i =>
    let b := (new_.drop i).headD 0
    let a := (old.drop i).headD b
    if a = b then b else if bitsAt s.choice i 1 = 1 then a else b

/-- The edge controller of a region delivers a token to in.0 of its block when instruction 0 is WSWAP, and WSWAP's set is complete in
this cycle (R307, R324). -/
def State.feedSwap (s : State) (x : Region) (t : DWord) (d : Nat) : State :=
  let site : Site := ⟨.region x.barn x.r, x.blk, 0⟩
  match s.nodeInstr site with
  | some (.wswap _) =>
    s.modFab fun g => { g with sets := g.sets ++
      [{ site := site, tag := t, dep := d, a := some { tag := t, dep := d, data := 0, ty := .b32 },
         place := (s.freeEntry site).elim .loft .table, opened := s.cyc, done := some s.cyc, since := s.cyc }] }
  | _ => s

/-- WLOAD_COMPLETE (R175, R184, R324): region `j` of barn `u`, whose block is configured. The image is checked and loaded, the
completion token is sent, and instruction 0 of the region's block gets its token when it is WSWAP. -/
def execWloadComplete (s0 : State) : Host.Outcome State Fault Refusal :=
  let s := s0
  .next (match s.field? s.arg.u s.arg.j with
  | none => s
  | some x =>
    match x.loads with
    | [] => s
    | l :: r =>
      match l.started with
      | none => s.putRegion (x.startLoad s.cyc (s.weightBytes x.barn x.k))
      | some c =>
        let now := s.weightBytes x.barn x.k l.off
        let raw := s.raced l.seen now
        let s := if l.seen = now then s else s.chose
        let img := if l.cmp then decompress raw raw.length else some raw
        let need := imageBytes x.h x.w l.wfmt l.gsz
        let bytes := if l.cmp then recField raw 4 4 else need
        let poi := s.weightPoison x.barn x.k l.off (if l.cmp then recField raw 8 4 else need)
        let x := { x with loads := r }
        let fail (g : Nat) : State :=
          s.raiseThen (s.firingTrap l.fire { code := tcWgtFormat, aux0 := l.off, aux1 := g } (.firing l.fire)) fun s =>
            s.putRegion (x.startLoad s.cyc (s.weightBytes x.barn x.k))
        if l.off % 64 ≠ 0 || (!l.cmp && decide (raw.length < need)) then fail 0
        else match img.elim (.inr 0) fun b => loadHalf b x.h x.w l.wfmt l.gsz poi with
          | .inr g => fail g
          | .inl half =>
            if s.cyc < c + 12 + (bytes + 255) / 256 || (s.block? (.region x.barn x.r) x.blk).isNone then s0
            else
              let s := s.putRegion ((x.setHalf x.idle half).startLoad s.cyc (s.weightBytes x.barn x.k))
              let hdr := ((decodeWord l.fire.word).bind Instr.hdr?).getD ⟨.always, .b32, none, none⟩
              let s := s.emitAll l.fire.site 0 (l.fire.result hdr true .b32 0)
                [hdr.t0, hdr.t1, (decodeWord l.fire.word).bind Instr.t2?]
              s.feedSwap x l.fire.tag l.fire.dep)

/-- WSWAP (R176) runs in the edge controller of its region. -/
def execWswap (h : Hdr) (s : State) : Host.Outcome State Fault Refusal :=
  onFiring s fun f =>
    s.fired { h := h, targets := [h.t0, h.t1], lat := 2, nullOut := true } f fun s =>
      match f.site.holder with
      | .region b r =>
        match s.region? b r with
        | none => s
        | some x =>
          if !(x.halfOf x.idle).fresh then
            s.trapFiring f { code := tcMatrixState, aux0 := s.handleOf x, aux1 := x.idle }
          else if x.swap.isSome then { s with held := true }
          else s.putRegion { x with swap := some f }
      | _ => s

/-- WSWAP_IN_FORCE (R176): region `j` of barn `u`. -/
def execWswapInForce (s : State) : Host.Outcome State Fault Refusal :=
  .next (match s.field? s.arg.u s.arg.j with
  | none => s
  | some x =>
    match x.swap with
    | none => s
    | some f =>
      if !x.tiles.isEmpty || !x.loads.isEmpty || s.cyc < x.busyTo then s
      else
        let hdr := ((decodeWord f.word).bind Instr.hdr?).getD ⟨.always, .b32, none, none⟩
        let y := { x with active := x.idle, swap := none }
        let y := y.setHalf x.active { x.halfOf x.active with fresh := false }
        (s.putRegion y).emitAll f.site 2 (f.result hdr false hdr.ty (f.data .a)) [hdr.t0, hdr.t1])

/-- MFREE_RELEASE (R174): region `j` of barn `u`, once no WLOAD, tile or drain of it is in progress. -/
def execMfreeRelease (s : State) : Host.Outcome State Fault Refusal :=
  .next (match s.field? s.arg.u s.arg.j with
  | none => s
  | some x =>
    match x.freeBy with
    | none => s
    | some f =>
      if !x.tiles.isEmpty || !x.loads.isEmpty || !x.drains.isEmpty then s
      else
        let me : Holder := .region x.barn x.r
        let hdr := ((decodeWord f.word).bind Instr.hdr?).getD ⟨.always, .b32, none, none⟩
        let s := s.modFab fun g => { g with
          regions := g.regions.filter fun y => !(y.barn = x.barn && y.r = x.r)
          blocks := g.blocks.filter fun l => l.holder ≠ me
          queues := g.queues.filter fun q => q.site.holder ≠ me
          sets := g.sets.filter fun y => y.site.holder ≠ me }
        let key := x.barn * 8 + x.r
        let s : State := { s with regGens := (s.regGens.filter fun p => p.1 ≠ key) ++ [(key, (x.gen + 1) % 2 ^ 16)]
                                  fetches := s.fetches.filter fun y => y.holder ≠ me }
        s.emitAll f.site 4 (f.result hdr false .b32 0) [hdr.t0, hdr.t1])

/-! Tiles. -/

/-- The activation types of a weight format (R173). -/
def accepts (wfmt : Nat) (t : Ty) (ires : Bool) : Bool :=
  let half := t = .f16x2 || t = .bf16x2
  let byteF := t = .e4m3x4 || t = .e5m2x4
  let byteI := t = .i8x4 || t = .n8x4
  let nib := t = .i4x8 || t = .n4x8
  (match wfmt with
    | 0 => half || byteF || byteI || nib
    | 1 => half || byteF || byteI
    | 2 => half || byteF
    | 3 => half || byteF
    | _ => half) && (!ires || (decide (wfmt < 2) && (byteI || nib)))

/-- The MMAC of a region's block: its node and its fields. -/
def State.mmacOf (s : State) (x : Region) : Option (Site × Hdr × Bool × Nat × Nat × Bool) :=
  (s.nodesOf (.region x.barn x.r) x.blk).findSome? fun n =>
    match s.nodeInstr n with
    | some (.mmac h iext sw mrows ires) => some (n, h, iext, sw.toNat + 1, mrows.toNat + 1, ires)
    | _ => none

/-- T of R177: tokens of one activation row. -/
def rowTokens (x : Region) (half : Half) (t : Ty) : Nat := x.h * weightsPerPe half.wfmt / t.lanes

/-- Whether a complete set stands at the region's WSWAP, or a swap waits (R176). -/
def State.swapDue (s : State) (x : Region) : Bool :=
  x.swap.isSome || s.fab.sets.any fun y => y.site.holder = .region x.barn x.r && y.done.isSome &&
    !((y.a.map fun t => t.rol || t.eos || t.nul).getD false) &&
    match s.nodeInstr y.site with | some (.wswap _) => true | _ => false

/-- What MMAC makes of the first token of a tile (R177, R308, R309). -/
inductive TileStart
  | wait
  | trap (c : Cause)
  | tile (x : Region) (t : MTile)
  deriving DecidableEq, Repr

/-- The start of a tile of `m` rows on the active half. -/
def State.startTile (s : State) (x : Region) (t : Ty) (ires : Bool) (m : Nat) (p : DWord) (dp : Nat) : TileStart :=
  let half := x.halfOf x.active
  let used (i : Nat) : Bool := x.accs.any fun a => a.half = x.active && a.idx = i
  if s.swapDue x || 16 ≤ x.tiles.length then .wait
  else if !half.loaded then .trap { code := tcMatrixState, aux0 := s.handleOf x, aux1 := x.active }
  else if !accepts half.wfmt t ires then
    .trap { code := tcMatrixShape, aux0 := half.wfmt, aux1 := t.toBits.toNat, aux2 := if ires then 1 else 0 }
  else match lowest (fun b => (upFrom b m).all fun i => !used i) (65 - m) with
    | none => .wait
    | some b =>
      let tile : MTile := { id := x.nextTile, tag := p, dep := dp, half := x.active, base := b,
                            next := (upto x.h).map fun _ => 0, toks := [], inits := [], started := s.cyc }
      .tile { x with nextTile := x.nextTile + 1, tiles := x.tiles ++ [tile],
                     accs := x.accs ++ (upFrom b m).map fun i =>
                       { half := x.active, idx := i, tile := tile.id, full := false, vals := [] } } tile

/-- The index of the token that a region row takes next for a tile, after `c` of them (R177, R309). -/
def rowIndex (x : Region) (half : Half) (t : Ty) (row c : Nat) : Nat :=
  let q := weightsPerPe half.wfmt / t.lanes
  c / q * rowTokens x half t + row * q + c % q

def Region.modTile (x : Region) (id : Nat) (g : MTile → MTile) : Region :=
  { x with tiles := mapFirst (fun t => t.id = id) g x.tiles }

/-- A tile takes a token at a region row. -/
def Region.enter (x : Region) (id row j : Nat) (k : Tok) (cyc : Nat) : Region :=
  { x.modTile id fun t => { t with toks := t.toks ++ [(j, k)], lastIn := cyc,
                                   next := putAt t.next row (nth t.next row + 1) } with
    rowFree := (x.rowFree.filter fun (p : Nat × Nat) => p.1 ≠ row) ++ [(row, cyc + 1)] }

/-- The waiting token that a region row takes next: of the tile whose first token arrived earliest (R309). -/
def Region.rowNext (x : Region) (t : Ty) (row : Nat) : Option (Nat × Nat × Tok) :=
  x.tiles.findSome? fun tl =>
    let j := rowIndex x (x.halfOf tl.half) t row (nth tl.next row)
    (x.rowTab.find? fun e => e.1 = row && e.2.1 = tl.id && e.2.2.1 = j).map fun e => (tl.id, j, e.2.2.2)

/-- Whether a region row takes a token in this cycle. -/
def Region.rowReady (x : Region) (row cyc : Nat) : Bool := x.rowFree.all fun p => p.1 ≠ row || decide (p.2 ≤ cyc)

/-- An activation token of a tile at the entry stage (R309): it enters its row when it is next there and no waiting token
of an earlier tile is, else it waits in the row entry table; none where the table is full. -/
def Region.enterOrWait (x : Region) (t : Ty) (tl : MTile) (j : Nat) (k : Tok) (cyc : Nat) : Option Region :=
  let half := x.halfOf tl.half
  let row := j % rowTokens x half t / (weightsPerPe half.wfmt / t.lanes)
  let mine := rowIndex x half t row (nth tl.next row) = j
  let first := match x.rowNext t row with | some (id, _, _) => decide (tl.id < id) | none => true
  if mine && first && x.rowReady row cyc then some (x.enter tl.id row j k cyc)
  else if (x.rowTab.filter fun e => e.1 = row).length < 16 then some { x with rowTab := x.rowTab ++ [(row, tl.id, j, k)] }
  else none

/-- A token of a tile in progress at MMAC: an activation in slot a, or an initial value in slot b (R177). -/
def mmacToken (s : State) (f : Firing) (x : Region) (t : Ty) (m : Nat) (tl : MTile) (sl : Slot) (k : Tok) (j : Nat) : State :=
  let n := if sl = .a then m * rowTokens x (x.halfOf tl.half) t else m * (8 * x.w)
  if (k.eos && j ≠ n) || (!k.eos && n ≤ j) then s.streamLen f sl j n
  else if k.eos then
    s.putRegion (x.modTile tl.id fun u => if sl = .a then { u with count := some j } else { u with icount := some j })
  else if sl = .b then
    if tl.inits.any fun p => p.1 = j then s.trapFiring f { code := tcDupToken, slot := 1 }
    else s.putRegion (x.modTile tl.id fun u => { u with inits := u.inits ++ [(j, k)], lastIn := s.cyc })
  else if (tl.toks.any fun p => p.1 = j) || (x.rowTab.any fun e => e.2.1 = tl.id && e.2.2.1 = j) then
    s.trapFiring f { code := tcDupToken, slot := 0 }
  else match x.enterOrWait t tl j k s.cyc with
    | some x => s.putRegion x
    | none => { s with held := true }

/-- MMAC (R177, R309): the entry stage takes one token of an activation stream or of an initial stream. -/
def execMmac (h : Hdr) (iext : Bool) (sw : BitVec 5) (mrows : BitVec 6) (ires : Bool) (s : State) :
    Host.Outcome State Fault Refusal :=
  onFiring s fun f =>
    match f.kind false with
    | .roll => s.emitAll f.site 1 (f.marker h false false false true) [h.t0, h.t1]
    | _ =>
      match f.site.holder with
      | .region b r =>
        match s.region? b r, (match f.a, f.b with | some k, _ => some (Slot.a, k) | _, some k => some (.b, k) | _, _ => none) with
        | some x, some (sl, k) =>
          let w := sw.toNat + 1
          if sl = .b && !iext && !s.targeted f.site .b then
            s.trapFiring f { code := tcMatrixState, aux0 := s.handleOf x, aux1 := x.active }
          else if f.dep < w then s.trapFiring f { code := tcTagDepth, aux0 := f.dep, aux1 := w }
          else
            let (p, dp, j) := popField f.tag f.dep w
            match x.tiles.find? fun t => t.tag = p && t.dep = dp with
            | some tl => mmacToken s f x h.ty (mrows.toNat + 1) tl sl k j
            | none =>
              match s.startTile x h.ty ires (mrows.toNat + 1) p dp with
              | .wait => { s with held := true }
              | .trap c => s.trapFiring f c
              | .tile x tl => mmacToken s f x h.ty (mrows.toNat + 1) tl sl k j
        | _, _ => s
      | _ => s

/-- REGION_ROW_ENTRY (R309): row `m` of region `j` of barn `u` takes its next waiting token. -/
def execRegionRowEntry (s : State) : Host.Outcome State Fault Refusal :=
  .next (match s.field? s.arg.u s.arg.j with
  | none => s
  | some x =>
    match s.mmacOf x with
    | none => s
    | some (_, h, _, _, _, _) =>
      match x.rowNext h.ty s.arg.m with
      | none => s
      | some (id, j, k) =>
        if x.rowReady s.arg.m s.cyc then
          s.putRegion ({ x with rowTab := x.rowTab.filter fun e => !(e.1 = s.arg.m && e.2.1 = id && e.2.2.1 = j) }.enter id
            s.arg.m j k s.cyc)
        else s)

/-! Results. -/

/-- MatrixDot over the groups from `g` on (R57): weights and activations by `q` and `x`. -/
def dotGroups (q x : Nat → Val) (zp scale : Nat → Val) (gsize : Nat) : Nat → Nat → Nat → Nat × Nat
  | 0, _, acc => (acc, 0)
  | n + 1, g, acc =>
    let ks := upFrom (g * gsize) gsize
    let u := groupTerm (ks.map q) (zp g) (scale g) (ks.map x)
    let a := matrixStep acc u.1
    let r := dotGroups q x zp scale gsize n (g + 1) a.1
    (r.1, u.2 ||| a.2 ||| r.2)

/-- The exact integer sum of R58. -/
def dotInts (q zp x : Nat → Int) : Nat → Int → Int
  | 0, acc => acc
  | n + 1, acc => dotInts q zp x n (acc + (q n - zp n) * x n)

/-- The result of row `m` and column `n` of a tile (R177): `xs` gives the token of an index, `init` the initial value. -/
def Region.dot (x : Region) (half : Half) (t : Ty) (ires : Bool) (xs : Nat → Word) (init : Option Word) (m n : Nat) :
    Int × Nat :=
  let kk := x.h * weightsPerPe half.wfmt
  let gs := groupSize half.wfmt half.gsz
  let word (k : Nat) : Word := xs (m * rowTokens x half t + k / t.lanes)
  let par (g : Nat) : Nat := paramAt half.bytes x.h x.w g n
  if ires then
    (dotInts (fun k => weightAt half.bytes x.w half.wfmt k n) (fun k => (bitsAt (par (k / gs)) 16 8 : Nat))
      (fun k => laneInt t (word k) (k % t.lanes)) kk ((init.map BitVec.toInt).getD 0), 0)
  else
    let grouped := half.wfmt < 2
    let r := dotGroups (fun k => weightVal half.wfmt (weightAt half.bytes x.w half.wfmt k n))
      (fun k => laneVal t (word k) (k % t.lanes))
      (fun g => if grouped then .ofInt (bitsAt (par g) 16 8) else .ofInt 0)
      (fun g => if grouped then Fmt.f16.value (bitsAt (par g) 0 16) else .ofInt 1) gs (kk / gs) 0
      ((init.map BitVec.toNat).getD 0)
    (r.1, r.2)

/-- All results of a tile, row by row, with their flags. -/
def Region.results (x : Region) (half : Half) (t : Ty) (ires : Bool) (m : Nat) (xs : Nat → Word)
    (init : Nat → Option Word) : List (List Int) × Nat :=
  let rows := (upto m).map fun i => (upto (8 * x.w)).map fun n => x.dot half t ires xs (init (i * (8 * x.w) + n)) i n
  (rows.map fun r => r.map Prod.fst, (rows.flatten.map Prod.snd).foldl (· ||| ·) 0)

/-- The data of a token of a list of indexed tokens; null and absent tokens count as zeros (R177). -/
def tokenAt (l : List (Nat × Tok)) (j : Nat) : Word :=
  match l.find? fun p => p.1 = j with
  | some (_, k) => if k.nul then 0 else k.data
  | none => 0

/-- The completion word of MMAC (R177). -/
def completionWord (ires : Bool) (half m base : Nat) : Word :=
  BitVec.ofNat 32 ((if ires then 2 ^ 14 else 0) + half * 2 ^ 13 + m * 64 + base)

/-- MMAC_TILE_COMPLETE (R177, R184): the first tile of region `j` of barn `u` whose streams have ended and whose results
have left the south edge. -/
def execMmacTileComplete (s : State) : Host.Outcome State Fault Refusal :=
  .next (match s.field? s.arg.u s.arg.j with
  | none => s
  | some x =>
    match s.mmacOf x with
    | none => s
    | some (site, h, iext, _, m, ires) =>
      let withB := iext || s.targeted site .b
      let ready (t : MTile) : Bool :=
        t.count.isSome && t.toks.length = m * rowTokens x (x.halfOf t.half) h.ty &&
        (!withB || (t.icount.isSome && t.inits.length = m * (8 * x.w))) && decide (t.lastIn + x.h + x.w + 8 ≤ s.cyc)
      match x.tiles.find? ready with
      | none => s
      | some t =>
        let half := x.halfOf t.half
        let init (i : Nat) : Option Word := if withB then some (tokenAt t.inits i) else none
        let (rows, fl) := x.results half h.ty ires m (tokenAt t.toks) init
        let poi := half.poi || (t.toks.any fun p => p.2.poi && !p.2.nul) || (t.inits.any fun p => p.2.poi && !p.2.nul)
        let accs := x.accs.map fun a =>
          if a.tile = t.id && a.half = t.half then { a with full := true, vals := (rows.drop (a.idx - t.base)).headD [], poi := poi }
          else a
        let y := { x with tiles := x.tiles.filter fun u => u.id ≠ t.id, accs := accs, busyTo := s.cyc + 1 }
        let k : Tok := { tag := t.tag, dep := t.dep, data := completionWord ires t.half m t.base, ty := .b32, poi := poi }
        -- every systolic MAC counts 2 operations (R337)
        let macs := m * (x.h * weightsPerPe half.wfmt) * (8 * x.w)
        let s := (s.putRegion (y.startLoad s.cyc (s.weightBytes x.barn x.k))).modInst x.k x.v fun i => { i with ops := i.ops + 2 * macs }
        (s.raiseFlags x.k 0 fl).emitAll site 0 k [h.t0, h.t1])

/-- MDRAIN (R178): the drain of a completed tile begins. -/
def execMdrain (h : Hdr) (_sat : Bool) (sw : BitVec 5) (_pen : Bool) (_port : BitVec 4) (s : State) :
    Host.Outcome State Fault Refusal :=
  onFiring s fun f =>
    s.fired { h := h, targets := [h.t0, h.t1], lat := 4, nullOut := true } f fun s =>
      match f.site.holder with
      | .region b r =>
        match s.region? b r with
        | none => s
        | some x =>
          let d := (f.data .a).toNat
          let base := bitsAt d 0 6
          let m := bitsAt d 6 7
          let set := bitsAt d 13 1
          let ires := bitsAt d 14 1 = 1
          let w := sw.toNat + 1
          let mine (a : AccEntry) : Bool := a.half = set && decide (base ≤ a.idx) && decide (a.idx < base + m)
          if bitsAt d 15 17 ≠ 0 || 64 < base + m || ires ≠ (h.ty = .i32) ||
              !((upFrom base m).all fun i => x.accs.any fun a => a.half = set && a.idx = i && a.full) then
            s.trapFiring f { code := tcMatrixState, aux0 := s.handleOf x, aux1 := set }
          else if 2 ^ w ≤ m * (8 * x.w) then s.streamShape f (m * (8 * x.w)) w
          else if 44 < f.dep + w then s.trapFiring f { code := tcTagDepth, aux0 := f.dep, aux1 := w }
          else
            s.putRegion { x with
              accs := x.accs.map fun a => if mine a then { a with full := false } else a
              drains := x.drains ++ [{ site := f.site, tag := f.tag, dep := f.dep, half := set, base := base, m := m,
                                       ires := ires, poi := f.poi false, since := s.cyc + 3 }] }
      | _ => s

/-- A result as MDRAIN sends it (R178): bits and flags. -/
def drained (ires sat : Bool) (v : Int) : Nat × Nat :=
  if ires then reduceInt v 32 true sat
  else match sat, Fmt.f32.value v.toNat with
    | true, .inf neg => (if neg then 0xFF7FFFFF else 0x7F7FFFFF, flSAT)
    | _, _ => (v.toNat, 0)

/-- Room in an edge queue of a barn (R221). -/
def State.eqRoom (s : State) (barn q : Nat) (out : Bool) : Bool :=
  decide ((s.fab.eqs.filter fun e => e.barn = barn && e.q = q && e.out = out).length < 64)

/-- MDRAIN_RESULT (R178): drain `n` of region `j` of barn `u` sends its next result or its marker. -/
def execMdrainResult (s : State) : Host.Outcome State Fault Refusal :=
  .next (match s.field? s.arg.u s.arg.j with
  | none => s
  | some x =>
    match (x.drains.drop s.arg.n).head? with
    | none => s
    | some d =>
      match s.nodeInstr d.site with
      | some (.mdrain h sat sw pen port) =>
        let w := sw.toNat + 1
        let cnt := d.m * (8 * x.w)
        let seen := h.t0.isSome || h.t1.isSome
        if (seen && s.cyc ≤ d.since) || (pen && !s.eqRoom x.barn port.toNat true) ||
            (d.next < cnt && s.windowFull d.site d.tag d.dep w d.next) then s
        else
          let v := ((x.accs.find? fun a => a.half = d.half && a.idx = d.base + d.next / (8 * x.w)).map fun a =>
            (a.vals.drop (d.next % (8 * x.w))).headD 0).getD 0
          let r := if d.next < cnt then drained d.ires sat v else (0, 0)
          let k : Tok := { tag := d.tag, dep := d.dep, data := BitVec.ofNat 32 r.1, ty := h.ty, poi := d.poi,
                           eos := d.next = cnt }
          let k := k.under d.tag d.dep w d.next
          let y : Region := if d.next < cnt then
              { x with drains := putAt x.drains s.arg.n { d with next := d.next + 1, since := s.cyc } }
            else
              { x with drains := dropAt x.drains s.arg.n
                       accs := x.accs.filter fun a =>
                         !(a.half = d.half && decide (d.base ≤ a.idx) && decide (a.idx < d.base + d.m)) }.startLoad s.cyc
                (s.weightBytes x.barn x.k)
          let s := (s.putRegion y).raiseFlags x.k 0 r.2
          let s := if pen && x.task.isNone then
              s.modFab fun g => { g with eqs := g.eqs ++
                [{ barn := x.barn, out := true, q := port.toNat, k := x.k, v := x.v, tok := some k,
                   bind := ⟨0, 0, .b32, 1, 0⟩, since := s.cyc }] }
            else s
          s.emitAll d.site 0 k [h.t0, h.t1]
      | _ => s)

end Sys2Proof.Machine
end

