-- ==== Sys2Proof/Machine/CoreBase.lean ====
section
/-! DEFINITION. The registers of a loader or storer core, how it goes on to its next instruction, and the exceptions and
traps that it takes (R216, R217, R231 to R234). -/

namespace Sys2Proof.Machine

def State.core? (s : State) (c : CoreId) : Option Core := s.fab.cores.find? fun x => x.id = c

def State.modCore (s : State) (c : CoreId) (f : Core → Core) : State :=
  s.modFab fun g => { g with cores := mapFirst (fun x => x.id = c) f g.cores }

/-- Register `r`; x0 reads zero. -/
def Core.get (c : Core) (r : Nat) : Word := if r = 0 then 0 else (c.x.drop r).headD 0

/-- A write of register `r`; one of x0 is discarded. -/
def Core.put (c : Core) (r : Nat) (v : Word) : Core := if r = 0 then c else { c with x := putAt c.x r v }

/-- The stored value of a CSR; its reset value until written. -/
def Core.csr (c : Core) (n : Nat) : Word :=
  ((c.csrs.find? fun p => p.1 = n).map Prod.snd).getD (if n = 0x300 then 0x1800 else 0)

def Core.setCsr (c : Core) (n : Nat) (v : Word) : Core :=
  { c with csrs := (c.csrs.filter fun p => p.1 ≠ n) ++ [(n, v)] }

/-- The four bytes at an address of the instruction store; those beyond it read zero. -/
def Core.wordAt (c : Core) (a : Nat) : Nat := getNat c.istore a 4

/-- Whether a word is RPT (R224). -/
def isRpt (w : Nat) : Bool := w % 128 = 0x2B && bitsAt w 12 3 = 5 && bitsAt w 29 3 = 0 && bitsAt w 15 5 = 0 && bitsAt w 7 5 = 0

/-- Length of the instruction whose first bytes are `w`. -/
def coreLen (w : Nat) : Nat := if w % 4 = 3 then 4 else 2

def csrXtaglo : Nat := 0x7C0
def csrXrpt : Nat := 0x7C1
def csrXtaghi : Nat := 0x7C2
def csrXpopm : Nat := 0xFC3

/-- Executions of the repeated instruction completed (XRPT.DONE, R231). -/
def Core.done (c : Core) : Nat := bitsAt (c.csr csrXrpt).toNat 0 7

/-- The word that the core executes: behind RPT, the next instruction with its stepped fields advanced (R231). -/
def Core.word (c : Core) : Nat :=
  let w := c.wordAt c.pc.toNat
  if isRpt w then
    let i := c.wordAt (c.pc.toNat + 4)
    let d := c.done
    i + (if bitsAt w 26 1 = 1 then d <<< 7 else 0) + (if bitsAt w 27 1 = 1 then d <<< 15 else 0) +
      (if bitsAt w 28 1 = 1 then d <<< 20 else 0)
  else w

/-- A 64-bit counter of the base CSRs, by the number of its low half. -/
def Core.count64 (c : Core) (n : Nat) : Nat := (c.csr n).toNat + (c.csr (n + 0x80)).toNat * 2 ^ 32

def Core.setCount64 (c : Core) (n v : Nat) : Core := (c.setCsr n (BitVec.ofNat 32 v)).setCsr (n + 0x80) (BitVec.ofNat 32 (v / 2 ^ 32))

/-- An instruction is retired: minstret counts it (R216). -/
def Core.retired (c : Core) (cyc : Nat) : Core := { c.setCount64 0xB02 (c.count64 0xB02 + 1) with waiting := false, since := cyc }

/-- One execution of the present instruction is complete (R231). -/
def Core.advance (c : Core) (cyc : Nat) : Core :=
  let w := c.wordAt c.pc.toNat
  let c := c.retired cyc
  if isRpt w then
    if bitsAt w 20 6 + 2 ≤ c.done + 1 then { c.setCsr csrXrpt 0 with pc := c.pc + 8 }
    else c.setCsr csrXrpt (BitVec.ofNat 32 (c.done + 1))
  else { c with pc := c.pc + BitVec.ofNat 32 (coreLen w) }

/-- A core goes on after its present instruction. -/
def State.coreGoes (s : State) (c : CoreId) : State := s.modCore c fun x => x.advance s.cyc

/-- A core writes `rd` and goes on. -/
def State.coreWrites (s : State) (c : CoreId) (rd : Nat) (v : Word) : State :=
  s.modCore c fun x => (x.put rd v).advance s.cyc

/-- The parent tag of a core (R223). -/
def Core.tag (c : Core) : DWord :=
  mkTag (dieOf c.id.barn) c.k c.v ((c.csr csrXtaglo).toNat + bitsAt (c.csr csrXtaghi).toNat 0 12 * 2 ^ 32)

/-- DEP of the parent tag. -/
def Core.dep (c : Core) : Nat := bitsAt (c.csr csrXtaghi).toNat 16 6

/-- The trap of a core's own instruction: the core waits at it (R234). -/
def State.coreTrapAt (s : State) (id : CoreId) (c : Cause) : State :=
  match s.core? id with
  | none => s
  | some x =>
    let s := s.raise
      { k := x.k, index := 0, tcode := c.code, cause := c.cause, cls := .F, srck := if id.storer then 4 else 3,
        barn := id.barn, unit := 0, idx := 0xFF, blk := x.pc.toNat, word := BitVec.ofNat 64 x.word, tag := x.tag,
        dep := x.dep, slot := 0xFF, aux0 := BitVec.ofNat 64 c.aux0, aux1 := BitVec.ofNat 64 c.aux1,
        aux2 := BitVec.ofNat 32 c.aux2, cyc := 0, v := x.v, hold := .core id }
    if s.held then s else s.modCore id fun y => { y with waiting := true, stopped := true }

/-- A base exception (R234): to mtvec, or CORE_FAULT while mtvec is 0. -/
def State.coreExc (s : State) (id : CoreId) (mcause mtval : Nat) : State :=
  match s.core? id with
  | none => s
  | some x =>
    if x.csr 0x305 = 0 then s.coreTrapAt id { code := tcCoreFault, aux0 := mcause, aux1 := x.pc.toNat, aux2 := mtval }
    else
      let st := (x.csr 0x300).toNat
      s.modCore id fun y =>
        { (((y.setCsr 0x341 y.pc).setCsr 0x342 (BitVec.ofNat 32 mcause)).setCsr 0x343 (BitVec.ofNat 32 mtval)).setCsr 0x300
            (BitVec.ofNat 32 (0x1800 + bitsAt st 3 1 * 2 ^ 7)) with
          pc := x.csr 0x305 &&& 0xFFFFFFFC, since := s.cyc }

/-- Illegal-instruction exception with the word in mtval (R233). -/
def State.coreIllegal (s : State) (id : CoreId) (w : Nat) : State := s.coreExc id 2 w

/-- A meaning that acts on the core in focus; with none in focus nothing happens. -/
def onCore (s : State) (g : CoreId → Core → State) : Host.Outcome State Fault Refusal :=
  match s.curCore with
  | none => .next s
  | some id =>
    match s.core? id with
    | none => .next s
    | some x => .next (g id x)

/-- The number of the destination register of a core word that can trap, 0 where it has none: loads, AMOs and CSR accesses of
the base, C.LW and C.LWSP, and the words of Xbarn (R234). -/
def rdOf (w : Nat) : Nat :=
  if w % 4 = 0 then (if bitsAt w 13 3 = 2 then 8 + bitsAt w 2 3 else 0)
  else if w % 4 = 2 then (if bitsAt w 13 3 = 2 then bitsAt w 7 5 else 0)
  else if w % 128 = 0x03 then (if [0, 1, 2, 4, 5].contains (bitsAt w 12 3) then bitsAt w 7 5 else 0)
  else if w % 128 = 0x2F then bitsAt w 7 5
  else if w % 128 = 0x73 then (if bitsAt w 12 3 % 4 = 0 then 0 else bitsAt w 7 5)
  else if w % 128 = 0x0B then (if bitsAt w 12 3 = 1 || bitsAt w 12 3 = 2 then bitsAt w 7 5 else 0)
  else if w % 128 = 0x2B then
    (if (bitsAt w 12 3 = 2 && bitsAt w 29 3 = 1) || bitsAt w 12 3 = 7 then bitsAt w 7 5 else 0)
  else 0

end Sys2Proof.Machine
end

