-- ==== Sys2Proof/Machine/Sheaf.lean ====
section
/-! DEFINITION. The Sheaf Table: keys and homes, publishes, waiters, exhaustion and fallback (R194 to R197, R344 to R359),
with PUBLISH and AWAIT. -/

namespace Sys2Proof.Machine

/-- Home die and set of a key (R344). -/
def sheafHome (asid tid tile : Nat) : Nat × Nat :=
  let x := (bitsAt tid 6 32 ^^^ tile ^^^ (asid * 2 ^ 16)) % 2 ^ 32
  let x := (x * 0x9E3779B1) % 2 ^ 32
  (bitsAt x 29 3, bitsAt x 16 13)

/-- Newer of R196. -/
def newer (g e : Nat) : Bool := let d := (g + 2 ^ 16 - e) % 2 ^ 16; decide (1 ≤ d) && decide (d ≤ 32767)

def State.sheaf? (s : State) (asid tid tile : Nat) : Option Sheaf :=
  s.sheaves.find? fun e => e.asid = asid && e.tid = tid && e.tile = tile

def State.modSheaf (s : State) (asid tid tile : Nat) (f : Sheaf → Sheaf) : State :=
  { s with sheaves := mapFirst (fun e => e.asid = asid && e.tid = tid && e.tile = tile) f s.sheaves }

/-- Slots of the overflow region of a context in use: spilled entries of its ASID and spilled waiters (R353, R354). -/
def State.ovfUsed (s : State) (k : Nat) : Nat :=
  (s.sheaves.filter fun e => e.asid = s.asid k && e.way.isNone).length +
    (s.waiters.filter fun w => w.k = k && w.spill).length

/-- Whether the overflow region of a context has a free slot; slot 0 is its header (R353). -/
def State.ovfRoom (s : State) (k : Nat) : Bool :=
  let l := s.regField (.sheafOvf k) 59 5
  l ≠ 0 && decide (s.ovfUsed k + 1 < 2 ^ l)

/-- The free slot of a context's overflow region that the next spill takes: the lowest (DESIGN CHOICE, log 22). -/
def State.ovfSlot (s : State) (k : Nat) : Nat :=
  let used (n : Nat) : Bool := (s.sheaves.any fun e => e.asid = s.asid k && e.way.isNone && e.slot = n) ||
    s.waiters.any fun w => w.k = k && w.spill && w.slot = n
  (lowest (fun n => !used (n + 1)) (s.ovfUsed k + 1)).getD 0 + 1

/-- A new entry (R344, R346, R354): the lowest free way, else an overflow slot; none where neither is free. -/
def State.newSheaf (s : State) (k tid tile : Nat) : Option State :=
  let asid := s.asid k
  let home := sheafHome asid tid tile
  let taken (w : Nat) : Bool := s.sheaves.any fun e => e.way = some w && sheafHome e.asid e.tid e.tile = home
  let add (way : Option Nat) (s : State) : State :=
    { s with sheaves := s.sheaves ++ [{ asid := asid, tid := tid, tile := tile, way := way, slot := if way.isNone then s.ovfSlot k else 0 }] }
  match lowest (fun w => !taken w) 16 with
  | some w => some (add (some w) s)
  | none => if s.ovfRoom k then some (add none (s.bumpSat (.sheafStat k) 0 16)) else none

/-- The entry of a key, created where it is absent. -/
def State.needSheaf (s : State) (k tid tile : Nat) : Option State :=
  if (s.sheaf? (s.asid k) tid tile).isSome then some s else s.newSheaf k tid tile

/-- Whether a waiter has an input linked to an entry. -/
def Waiter.linked (w : Waiter) (asid tid tile : Nat) : Bool :=
  w.asid = asid && w.inputs.any fun i => i.reg && i.tid = tid && i.tile = tile

/-! The bytes of entries and waiter records (R345, R348). -/

/-- The links on an entry: waiter and input. -/
def State.links (s : State) (asid tid tile : Nat) : List (Waiter × Nat) :=
  (s.waiters.filter fun w => w.asid = asid).flatMap fun w =>
    ((upto w.inputs.length).filter fun n => (w.inputs.drop n).head?.any fun i => i.reg && i.tid = tid && i.tile = tile).map fun n => (w, n)

/-- The rank of a link: the latest first (R349). -/
def linkRank (x : Waiter × Nat) : Nat := ((x.1.inputs.drop x.2).head?.map WInput.link).getD 0

/-- A link field: V and the number of a link, or 0. A waiter's index is its number (DESIGN CHOICE, log 22). -/
def linkField (x : Option (Waiter × Nat)) : Nat :=
  match x with
  | some x => 2 ^ 31 + (x.1.id * 4 + x.2) % 2 ^ 31
  | none => 0

/-- The link nearest the head of an entry's list among those after rank `below`. -/
def State.linkBelow (s : State) (asid tid tile : Nat) (below : Option Nat) : Option (Waiter × Nat) :=
  minBy (fun x => 2 ^ 64 - linkRank x) ((s.links asid tid tile).filter fun x => match below with | some r => decide (linkRank x < r) | none => true)

/-- A Sheaf Table entry's 32 bytes (R345). -/
def State.sheafBytes (s : State) (e : Sheaf) : List Byte :=
  leBytes 8 e.tid ++ leBytes 4 e.tile ++ leBytes 2 e.asid ++ leBytes 2 e.gen ++ leBytes 4 e.seq ++
  leBytes 1 ((if e.pub then 2 else 1) + if e.way.isNone then 4 else 0) ++ [0] ++ leBytes 2 e.ngen ++
  leBytes 4 (linkField (s.linkBelow e.asid e.tid e.tile none)) ++ recZero 4

/-- The entry index of an input (R348): its table place, or its overflow slot with bit 31. -/
def State.entryIndex (s : State) (asid : Nat) (i : WInput) : Nat :=
  match s.sheaf? asid i.tid i.tile with
  | some e =>
    let h := sheafHome asid i.tid i.tile
    match e.way with
    | some w => h.1 * 131072 + h.2 * 16 + w
    | none => 2 ^ 31 + e.slot
  | none => 0

/-- A waiter record's 64 bytes (R348). -/
def State.waiterBytes (s : State) (w : Waiter) : List Byte :=
  let input (n : Nat) : List Byte :=
    match (w.inputs.drop n).head? with
    | some i =>
      if i.reg then
        leBytes 4 (s.entryIndex w.asid i) ++ leBytes 2 i.egen ++ leBytes 2 i.cnt ++
        leBytes 4 (linkField (s.linkBelow w.asid i.tid i.tile (some i.link)))
      else recZero 4 ++ leBytes 2 i.egen ++ leBytes 2 i.cnt ++ recZero 4
    | none => recZero 12
  leBytes 1 w.kind ++ leBytes 1 w.inputs.length ++ leBytes 1 (w.ready.toNat + w.fault.toNat * 2 + w.spill.toNat * 4) ++ [0] ++
  leBytes 2 w.asid ++ leBytes 2 w.v ++ leBytes 8 w.recAt ++ (upto 4).flatMap input

/-- The spilled entries and records of a context stand in its overflow region (R345, R353, R354). -/
def State.mirrorOvf (s : State) (k : Nat) : State :=
  let base := s.regField (.sheafOvf k) 6 38 * 64
  if s.regField (.sheafOvf k) 59 5 = 0 then s
  else
    let s := foldState (fun s (e : Sheaf) => s.writePa (base + 64 * e.slot) (s.sheafBytes e)) s
      (s.sheaves.filter fun e => e.asid = s.asid k && e.way.isNone)
    foldState (fun s (w : Waiter) => s.writePa (base + 64 * w.slot) (s.waiterBytes w)) s (s.waiters.filter fun w => w.k = k && w.spill)

/-- Frees the entries in state waiting that no waiter is linked to (R346). -/
def State.pruneSheaves (s : State) : State :=
  { s with sheaves := s.sheaves.filter fun e => e.pub || s.waiters.any fun w => w.linked e.asid e.tid e.tile }

/-- SHEAF_STAT.k.NWAIT (R356). -/
def State.countWaiters (s : State) (k : Nat) : State :=
  s.setField (.sheafStat k) 48 16 (min 65535 (s.waiters.filter fun w => w.k = k).length)

/-- Frees a waiter record with its links (R352). -/
def State.freeWaiter (s : State) (id : Nat) : State :=
  let k := ((s.waiters.find? fun w => w.id = id).map Waiter.k).getD 0
  (({ s with waiters := s.waiters.filter fun w => w.id ≠ id }.pruneSheaves).countWaiters k).mirrorOvf k

def State.modWaiter (s : State) (id : Nat) (f : Waiter → Waiter) : State :=
  { s with waiters := mapFirst (fun w => w.id = id) f s.waiters }

/-- A new waiter record of a pool, else of the overflow region (R348, R354): its number. -/
def State.newWaiter (s : State) (w : Waiter) : Option (State × Nat) :=
  let full := 32768 ≤ (s.waiters.filter fun x => x.pool = w.pool && !x.spill).length
  if full && !s.ovfRoom w.k then none
  else
    let w := { w with id := s.fresh, spill := full, slot := if full then s.ovfSlot w.k else 0, since := s.cyc }
    let s := if full then s.bumpSat (.sheafStat w.k) 0 16 else s
    some ((({ s with waiters := s.waiters ++ [w] }.bumpFresh).countWaiters w.k).mirrorOvf w.k, w.id)

/-- Number of the pool of the I/O die (R348). -/
def ioPool : Nat := 8

/-- The waiter pool of a holder. -/
def poolOf (h : Holder) : Nat := match h.barn? with | some b => dieOf b | none => ioPool

/-! Traps against waiters (R352). -/

/-- AUX1 of a sheaf key (R425): the ASID in bits [63:48], TILE in bits [31:0]. -/
def keyAux (asid tile : Nat) : Nat := asid * 2 ^ 48 + tile

/-- The trap of a waiter (R352, R425): the key, both generations, the sequence number and the waiter's index. -/
def State.waiterTrap (s : State) (w : Waiter) (input code found seq : Nat) : State :=
  let i := (w.inputs.drop input).headD { tid := 0, tile := 0, egen := 0, count := 0, cnt := 0 }
  s.raise { k := w.k, index := 0, tcode := code, cause := 0, cls := .W, srck := 7, barn := 0xFF, unit := 0, idx := 0xFF,
            blk := w.recAt, word := BitVec.ofNat 64 (seq + w.id * 2 ^ 32), tag := mkTag 0 w.k w.v 0, dep := 0, slot := 0xFF,
            aux0 := BitVec.ofNat 64 i.tid, aux1 := BitVec.ofNat 64 (keyAux w.asid i.tile),
            aux2 := BitVec.ofNat 32 (found * 2 ^ 16 + i.egen), cyc := 0, v := w.v, hold := .waiter w.id input }

/-- SHEAF_STALE of an instruction, naming the key and both generations (R214, R425). -/
def staleCause (asid tid tile found want : Nat) : Cause :=
  { code := tcSheafStale, aux0 := tid, aux1 := keyAux asid tile, aux2 := found * 2 ^ 16 + want }

/-- An order-out of a firing that was sent on when its work was done: on T0, T1 and T2, or with data on T0 and T1. -/
def State.answer (s : State) (f : Firing) (lat : Nat) (data : Option (Ty × Word)) : State :=
  match decodeWord f.word with
  | none => s
  | some i =>
    match i.hdr? with
    | none => s
    | some h =>
      let out := f.orderOut h true
      match data with
      | none => s.emitAll f.site lat out [h.t0, h.t1, i.t2?]
      | some (ty, d) =>
        (s.emitAll f.site lat (f.result h true ty d) [h.t0, h.t1]).emitAll f.site lat out [i.t2?]

/-! Readiness. -/

/-- The entry strand of an instance on its way to the gather queue of its entry block (R236). -/
def Inst.entryStrand (i : Inst) (d ready : Nat) : Delivery :=
  let t := mkTag d i.k i.v 0
  { k := i.k, v := i.v, close := true, ready := ready,
    vals := [{ blk := i.entry, tag := t, dep := 0, ent := 0, tok := { tag := t, dep := 0, data := 0, ty := .b32 } }] }

/-- Whether a slot holds a placement: in a barn, or a graph instance whose entry strand the Reeve has been given (DEDUCED, log 56). -/
def State.hasPlacement (s : State) (k : Nat) : Bool :=
  s.insts.any fun i => i.k = k && (i.placed.isSome || (i.graph && i.strand)) && !i.done

/-- The flag registers and the maxima of a slot that is placed start at 0 (R52, R54). -/
def State.freshContext (s : State) (k : Nat) : State :=
  if s.hasPlacement k then s
  else foldState (fun s r => s.setReg r 0) s (.flagLo k :: .flagHi k :: (upto 16).map (Reg.amax k))

/-- Entry strands of graph instances that have become ready (R336); their waiters are taken (R352). -/
def State.graphStrands (s : State) : State :=
  let due (i : Inst) : Bool := i.graph && i.ready.isSome && !i.strand && i.outc = 0
  let l := s.insts.filter due
  let s := foldState (fun s (i : Inst) => s.freshContext i.k) s l
  let s : State := { s with
    delivs := s.delivs ++ l.map fun i => i.entryStrand 0 (i.ready.getD 0)
    insts := s.insts.map fun (i : Inst) => if due i then { i with strand := true, waiter := none } else i }
  foldState State.freeWaiter s (l.filterMap Inst.waiter)

/-- Whether an item that a waiter made ready is visible to what takes it (R359). -/
def readySeen (ready waiter : Option Nat) (cyc : Nat) : Bool :=
  match ready with
  | some r => decide (r + (if waiter.isSome then 8 else 0) ≤ cyc)
  | none => false

/-- An instance or a task whose waiter is ready (R338, R311). -/
def State.waiterDone (s : State) (w : Waiter) : State :=
  let s := s.modWaiter w.id fun x => { x with ready := true }
  let s : State := { s with
    insts := s.insts.map fun (i : Inst) => if i.waiter = some w.id then { i with ready := some s.cyc } else i
    tasks := s.tasks.map fun (t : Task) => if t.waiter = some w.id then { t with ready := some s.cyc } else t }
  s.graphStrands

/-- Whether every input of a waiter is complete (R349). -/
def Waiter.complete (w : Waiter) : Bool := !w.fault && !w.ready && w.inputs.all fun i => i.reg && i.cnt = 0

/-- Judges a waiter of KIND 1 or 2. -/
def State.judge (s : State) (id : Nat) : State :=
  match s.waiters.find? fun w => w.id = id with
  | some w => if w.kind ≠ 3 && w.complete then s.waiterDone w else s
  | none => s

/-- A satisfied AWAIT or XAWAIT (R197, R351): it acquires and sends its order-out. -/
def State.awaited (s : State) (w : Waiter) : State :=
  let why := WaitWhy.awaitSheaf w.id
  match s.fab.waits.find? fun x => x.why = why with
  | none => s.freeWaiter w.id
  | some x =>
    let s := (s.modFab fun g => { g with waits := g.waits.filter fun y => y.why ≠ why }).freeWaiter w.id
    match x.core with
    | some c => s.coreGoes c
    | none => s.answer x.fire 1 none

/-- A stale AWAIT or XAWAIT (R197): its instruction traps. -/
def State.awaitStale (s : State) (w : Waiter) (found : Nat) (trapCore : CoreId → Cause → State → State) : State :=
  let why := WaitWhy.awaitSheaf w.id
  let i := w.inputs.headD { tid := 0, tile := 0, egen := 0, count := 0, cnt := 0 }
  match s.fab.waits.find? fun x => x.why = why with
  | none => s
  | some x =>
    let c := staleCause w.asid i.tid i.tile found i.egen
    match s.freeTrapIndex w.k with
    | none => s
    | some _ =>
      let s := (s.modFab fun g => { g with waits := g.waits.filter fun y => y.why ≠ why }).freeWaiter w.id
      match x.core with
      | some id => trapCore id c s
      | none => s.trapFiring x.fire c

/-! Publishes. -/

/-- The next sequence number of a source (R195). -/
def State.takeSeq (s : State) (src : Nat) : State × Nat :=
  let n := ((s.pubSeq.find? fun p => p.1 = src).map Prod.snd).getD 0
  ({ s with pubSeq := (s.pubSeq.filter fun p => p.1 ≠ src) ++ [(src, (n + 1) % 2 ^ 25)] }, src * 2 ^ 25 + n)

/-- The die of a publish's source code (R195). -/
def srcDie (src : Nat) : Nat :=
  if src < 64 then dieOf src else if src < 96 then (src - 64) / 4 else if 98 ≤ src then src - 98 else ioDie

/-- A publish leaves its source for its entry's home die (R215). -/
def State.sendPublish (s : State) (src : Nat) (p : Publish) : State :=
  let (s, seq) := s.takeSeq src
  let far := bounds (srcDie src) (sheafHome p.asid p.tid p.tile).1
  { s with pubs := s.pubs ++ [{ p with seq := seq, ready := s.cyc + 20 + 16 * far }] }

/-- The effect of an applied publish on one waiter (R196, R350, R351). -/
def publishTo (p : Publish) (s : State) (w : Waiter) : State :=
  match (upto w.inputs.length).find? fun i =>
      let x := (w.inputs.drop i).headD { tid := 0, tile := 0, egen := 0, count := 0, cnt := 0 }
      x.reg && x.tid = p.tid && x.tile = p.tile with
  | none => s
  | some i =>
    let x := (w.inputs.drop i).headD { tid := 0, tile := 0, egen := 0, count := 0, cnt := 0 }
    if newer p.gen x.egen then
      if w.kind = 3 then s.awaitStale w p.gen fun id c s => s.coreTrapAt id c
      else (s.modWaiter w.id fun w => { w with fault := true }).waiterTrap w i tcSheafStale p.gen p.seq
    else if x.egen = p.gen then
      if w.kind = 3 then s.awaited w
      else if x.cnt = 0 then s.waiterTrap w i tcSheafUnderflow p.gen p.seq
      else (s.modWaiter w.id fun w => { w with inputs := putAt w.inputs i { x with cnt := x.cnt - 1 } }).judge w.id
    else s

/-- What happens at a publish's source once it has been performed. -/
def State.published (s : State) (p : Publish) : State :=
  let s := match p.fire with | some f => s.answer f 1 none | none => s
  let s := match p.core with | some c => s.coreGoes c | none => s
  let s := match p.cmd with
    | some id => s.modFab fun g => { g with cmds := mapFirst (fun (c : Cmd) => c.id = id) (fun c => { c with published := true }) g.cmds }
    | none => s
  match p.task with
  | some id => { s with tasks := s.tasks.map fun (t : Task) => if t.id = id then { t with run := t.run.map fun r => (r.1, r.2.1, .free) } else t }
  | none => s

/-- The trap of an engine or a task (class E): the record address and what the cause says (R191, R180). -/
def State.unitTrap (s : State) (k v srck unit recAt : Nat) (c : Cause) : State :=
  s.raise { k := k, index := 0, tcode := c.code, cause := c.cause, cls := .E, srck := srck, barn := 0xFF, unit := unit,
            idx := 0xFF, blk := recAt, word := 0, tag := mkTag 0 k v 0, dep := 0, slot := 0xFF,
            aux0 := BitVec.ofNat 64 c.aux0, aux1 := BitVec.ofNat 64 c.aux1, aux2 := BitVec.ofNat 32 c.aux2, cyc := 0,
            v := v, hold := .none }

/-- SHEAF_STALE at a publish's source (R191, R196). -/
def State.publishStale (s : State) (p : Publish) (found : Nat) : State :=
  let c := staleCause p.asid p.tid p.tile found p.gen
  match p.fire, p.core with
  | some f, _ => s.trapFiring f c
  | _, some id => s.coreTrapAt id c
  | none, none =>
    let recAt := match p.cmd, p.task with
      | some id, _ => ((s.fab.cmds.find? fun x => x.id = id).map Cmd.recAt).getD 0
      | _, some id => ((s.tasks.find? fun t => t.id = id).map Task.recAt).getD 0
      | _, _ => 0
    (s.unitTrap p.k p.v (if p.cmd.isSome then 5 else 6) 0 recAt c).published p

/-- The publish of R196 and R350 at the entry's home die. -/
def State.applyPublish (s : State) (p : Publish) : State :=
  match s.needSheaf p.k p.tid p.tile with
  | none => (s.bumpSat (.sheafStat p.k) 16 16).published p
  | some s =>
    match s.sheaf? p.asid p.tid p.tile with
    | none => s.published p
    | some e =>
      if e.pub && e.gen = p.gen && e.seq = p.seq then s.published p
      else if e.pub && newer e.gen p.gen then (s.pruneSheaves).publishStale p e.gen
      else
        let n := if e.pub && e.gen = p.gen then min 65535 (e.ngen + 1) else 1
        let s := s.modSheaf p.asid p.tid p.tile fun e => { e with gen := p.gen, seq := p.seq, pub := true, ngen := n }
        (foldState (publishTo p) s (s.waiters.filter fun w => w.linked p.asid p.tid p.tile)).published p

/-- Cycles that a spilled entry or waiter record adds to its operations: two atomics on device memory (R153, R359). -/
def spillLat : Nat := 2 * 248

/-- Whether the entry of a key is spilled (R354). -/
def State.spilled (s : State) (asid tid tile : Nat) : Bool := ((s.sheaf? asid tid tile).map fun e => e.way.isNone).getD false

/-- When a publish reaches its entry's home die (R215, R359). -/
def State.publishDue (s : State) (p : Publish) : Nat := p.ready + if s.spilled p.asid p.tid p.tile then spillLat else 0

/-- When the registration of an input is applied (R350, R359). -/
def State.registerDue (s : State) (w : Waiter) (i : WInput) : Nat :=
  w.since + 20 + 16 * bounds w.pool (sheafHome w.asid i.tid i.tile).1 +
    if w.spill || s.spilled w.asid i.tid i.tile then spillLat else 0

/-- Whether an operation on an entry due in cycle `due` comes after one that is still to be applied (R350): publishes come
first, by source, then registrations, by waiter index, then AWAITs. -/
def State.entryBusy (s : State) (asid tid tile due : Nat) (own : List Nat) : Bool :=
  (s.pubs.any fun p => p.asid = asid && p.tid = tid && p.tile = tile && lexLess [s.publishDue p, 0, p.seq] (due :: own)) ||
  s.waiters.any fun w => w.asid = asid && w.inputs.any fun i =>
    !i.reg && i.tid = tid && i.tile = tile && lexLess [s.registerDue w i, if w.kind = 3 then 2 else 1, w.id] (due :: own)

/-- SHEAF_PUBLISH_APPLY (R196): publish `n` on its way reaches its entry's home die. -/
def execSheafPublishApply (s : State) : Host.Outcome State Fault Refusal :=
  .next (match (s.pubs.drop s.arg.n).head? with
  | some p =>
    if s.cyc < s.publishDue p || (s.freeTrapIndex p.k).isNone ||
        s.entryBusy p.asid p.tid p.tile (s.publishDue p) [0, p.seq] then s
    else (({ s with pubs := dropAt s.pubs s.arg.n }).applyPublish p).mirrorOvf p.k
  | none => s)

/-! Registration. -/

/-- Enters whole-kernel fallback (R355). -/
def State.fallback (s : State) (k : Nat) : State :=
  (if s.regField (.sheafCtl k) 31 1 = 1 then s else s.bumpSat (.sheafStat k) 32 16).setField (.sheafCtl k) 31 1 1

/-- An instance or a task falls back: its waiter is undone (R349, R355). -/
def State.fallBack (s : State) (w : Waiter) : State :=
  let s := { s with
    insts := s.insts.map fun (i : Inst) => if i.waiter = some w.id then { i with waiter := none, fallback := true } else i
    tasks := s.tasks.map fun (t : Task) => if t.waiter = some w.id then { t with waiter := none, fallback := true } else t }
  (s.fallback w.k).freeWaiter w.id

/-- R349's test of one input against the entry's state: the new input, and a trap of the waiter. -/
def registerInput (e : Sheaf) (i : WInput) (link : Nat) : WInput × Option Nat :=
  let i := { i with reg := true, link := link }
  if e.pub && newer e.gen i.egen then ({ i with cnt := i.count }, some tcSheafStale)
  else if e.pub && e.gen = i.egen then
    if i.count < e.ngen then ({ i with cnt := 0 }, some tcSheafUnderflow) else ({ i with cnt := i.count - e.ngen }, none)
  else ({ i with cnt := i.count }, none)

/-- The registration of input `n` of a waiter at its entry's home die (R349 to R351). -/
def State.register (s : State) (w : Waiter) (n : Nat) : State :=
  let i := (w.inputs.drop n).headD { tid := 0, tile := 0, egen := 0, count := 0, cnt := 0 }
  match s.needSheaf w.k i.tid i.tile with
  | none => if w.kind = 3 then s else s.fallBack w
  | some s =>
    match s.sheaf? w.asid i.tid i.tile with
    | none => s
    | some e =>
      if w.kind = 3 then
        let s := (s.modWaiter w.id fun w => { w with inputs := putAt w.inputs n { i with reg := true, link := s.fresh } }).bumpFresh
        if e.pub && e.gen = i.egen then s.awaited w
        else if e.pub && newer e.gen i.egen then s.awaitStale w e.gen fun id c s => s.coreTrapAt id c
        else s
      else
        let r := registerInput e i s.fresh
        let s := (s.modWaiter w.id fun w => { w with inputs := putAt w.inputs n r.1, fault := w.fault || r.2 = some tcSheafStale }).bumpFresh
        (match r.2 with | some c => s.waiterTrap w n c e.gen e.seq | none => s).judge w.id

/-- SHEAF_REGISTER_APPLY (R350, R359): input `m` of waiter `n` of the list. -/
def execSheafRegisterApply (s : State) : Host.Outcome State Fault Refusal :=
  .next (match (s.waiters.drop s.arg.n).head? with
  | some w =>
    match (w.inputs.drop s.arg.m).head? with
    | some i =>
      if i.reg || s.cyc < s.registerDue w i || (s.freeTrapIndex w.k).isNone ||
          s.entryBusy w.asid i.tid i.tile (s.registerDue w i) [if w.kind = 3 then 2 else 1, w.id] then s
      else (s.register w s.arg.m).mirrorOvf w.k
    | none => s
  | none => s)

/-! PUBLISH and AWAIT. -/

/-- Tensor identifier of a descriptor entry (R194); none where TENSOR_DESC is raised. -/
def State.tensorId (s : State) (k v n : Nat) : Option Nat := (tensorOf (s.descEntry k v n)).map Tensor.base

/-- The key that a PUBLISH or AWAIT names, with its traps (R194). -/
def State.withKey (s : State) (f : Firing) (desc : Nat) (act : Nat → Nat → Nat → State) : State :=
  if 2 ^ 16 ≤ (f.data .b).toNat then s.trapFiring f { code := tcSheafKey, aux0 := (f.data .b).toNat }
  else match s.tensorId f.k f.v desc with
    | none => s.tensorDesc f desc
    | some tid => act tid (f.data .a).toNat (f.data .b).toNat

/-- PUBLISH (R194, R196): a release first; once it is performed the publish leaves, see `publishNow`. -/
def execPublish (h : Hdr) (sc : Scope) (t2 : Option Target) (desc : BitVec 6) (s : State) :
    Host.Outcome State Fault Refusal :=
  onFiring s fun f =>
    s.fired { memShape h t2 true with clean := [.a, .b] } f fun s =>
      s.withKey f desc.toNat fun _ _ _ => s.issue (f.order sc false true)

/-- The publish of a PUBLISH whose release has been performed. -/
def State.publishNow (s : State) (f : Firing) (desc : Nat) : State :=
  match s.tensorId f.k f.v desc with
  | none => s
  | some tid =>
    s.sendPublish (srcCode f.site.holder.barnNo)
      { k := f.k, v := f.v, asid := s.asid f.k, tid := tid, tile := (f.data .a).toNat, gen := (f.data .b).toNat, seq := 0,
        fire := some f, core := none, cmd := none, ready := 0 }

/-- A KIND 3 waiter (R348, R351). -/
def State.awaitRecord (s : State) (k v recAt pool tid tile gen : Nat) : Option (State × Nat) :=
  s.newWaiter { id := 0, kind := 3, asid := s.asid k, k := k, v := v, recAt := recAt, pool := pool,
                inputs := [{ tid := tid, tile := tile, egen := gen, count := 0, cnt := 0 }] }

/-- AWAIT (R197, R351): it waits outside the node; the set is held while no waiter record is free. -/
def execAwait (h : Hdr) (_sc : Scope) (t2 : Option Target) (desc : BitVec 6) (s : State) : Host.Outcome State Fault Refusal :=
  onFiring s fun f =>
    s.fired { memShape h t2 true with clean := [.a, .b] } f fun s =>
      s.withKey f desc.toNat fun tid tile gen =>
        match s.awaitRecord f.k f.v (f.site.blk + f.site.idx) (poolOf f.site.holder) tid tile gen with
        | none => { s with held := true }
        | some (s, id) =>
          (s.modFab fun g => { g with waits := g.waits ++ [{ id := s.fresh, fire := f, k := f.k, why := .awaitSheaf id, since := s.cyc }] }).bumpFresh

/-! The registers of the Sheaf Table. -/

/-- The slots that a register of a slot's ASID reaches. -/
def State.linkedEntry (s : State) (e : Sheaf) : Bool := s.waiters.any fun w => w.linked e.asid e.tid e.tile

/-- SHEAF_RET_WRITE (R346): slot `k`, value `val`. -/
def execSheafRetWrite (s : State) : Host.Outcome State Fault Refusal :=
  let tid := bitsAt s.arg.val.toNat 0 60
  .next { s with sheaves := s.sheaves.filter fun e => !(e.asid = s.asid s.arg.k && e.tid = tid && !s.linkedEntry e) }

/-- SHEAF_OVF_WRITE (R353): slot `k`, value `val`; discarded while the context holds anything spilled, or for a LOG2CAP
that is neither 0 nor 7 to 24. The bytes of the header, whose places R353 does not give, are free (log 22). -/
def execSheafOvfWrite (s : State) : Host.Outcome State Fault Refusal :=
  let l := bitsAt s.arg.val.toNat 59 5
  .next (if s.ovfUsed s.arg.k ≠ 0 || (l ≠ 0 && (l < 7 || 24 < l)) then s
  else
    let s := s.writeReg (.sheafOvf s.arg.k) s.arg.val
    if l = 0 then s
    else (s.writePa (s.regField (.sheafOvf s.arg.k) 6 38 * 64) ((upto 64).map fun i => Config.freeByte (s.ctr * 2 ^ 16 + i))).chose)

end Sys2Proof.Machine
end

