-- ==== Sys2Proof/Machine/Units.lean ====
section
/-! DEFINITION. What units outside the fabric read and write by virtual address (R364), and the queue descriptors that
the queue controller holds (R333). -/

namespace Sys2Proof.Machine

/-- The outcome of a unit's access: its state, and what it found. -/
inductive UnitGot
  | ok (b : List Byte) (poi : Bool)
  | denied
  | bad
  | wait (die fid : Nat)
  /-- An ATS request is out (R366), or the place is being scrubbed (R268). -/
  | ats
  deriving DecidableEq, Repr

/-- Whether a byte range of a store is poisoned. -/
def State.poisonIn (s : State) (st : Store) (a n : Nat) : Bool :=
  (s.poisons st).any fun u => decide (a / poisonUnit st ≤ u) && decide (u * poisonUnit st < a + n)

/-- Counts bytes of device memory for an instance (R337). -/
def State.moved (s : State) (k v : Nat) (st : Store) (n : Nat) : State :=
  if st = .dev then s.modInst k v fun i => { i with bytes := i.bytes + n } else s

/-- Source code that fault entries of I/O-die units carry (PRESUMED, log 20). -/
def srcIo : Source := { code := 97 }

/-- Counts the bytes that an engine or a task scheduler moves; those of other units do not count (R337). -/
def State.movedBy (s : State) (src : Source) (k v : Nat) (st : Store) (n : Nat) : State :=
  if 64 ≤ src.code && src.code ≠ 97 then s.moved k v st n else s

/-- Whether the unit that a scratch or weight place lies in is being scrubbed for its slot (R268). -/
def State.scrubbing (s : State) (st : Store) (x : Nat) : Bool :=
  s.scrubs.any fun c =>
    match st with
    | .scr => !c.weight && decide (c.barn * 2 ^ 22 + c.base * 2 ^ 16 ≤ x) && decide (x < c.barn * 2 ^ 22 + (c.base + c.size) * 2 ^ 16)
    | .wbuf => c.weight && decide (c.barn * 2 ^ 21 + c.base * 2 ^ 16 ≤ x) && decide (x < c.barn * 2 ^ 21 + (c.base + c.size) * 2 ^ 16)
    | _ => false

/-- Starts the scrub of a slot's allocation in a barn, in place of one of its earlier range (R268). -/
def State.scrub (s : State) (barn k : Nat) (weight : Bool) : State :=
  let r : Reg := if weight then .wbufAlloc barn k else .spadAlloc barn k
  { (s.setField r 31 1 1) with scrubs := (s.scrubs.filter fun c => !(c.barn = barn && c.k = k && c.weight = weight)) ++
      [{ barn := barn, k := k, weight := weight, base := s.regField r 0 6, size := s.regField r 8 6 }] }

/-- The place of a unit's access within one page, once no scrub is in progress there (R268); a page that is absent raises a fault (R369). -/
def State.unitAt (s : State) (die k va : Nat) (n : Need) (src : Source) : State × (UnitGot ⊕ (Store × Nat)) :=
  match s.translate die src.port k va n with
  | (s, .at st a) => if s.scrubbing st a then (s, .inl .ats) else (s.eccAt st a k, .inr (st, a))
  | (s, .denied) => (s, .inl .denied)
  | (s, .absent 2 _) => (s, .inl .bad)
  | (s, .absent c m) =>
    match s.pfaults.find? fun p => p.failed && p.die = die && p.k = k && p.cause = c && p.va / 4096 = va / 4096 with
    | some p => (s, .inl (.wait p.die p.fid))
    | none =>
      let (s, fid) := s.pageFault die k va c none (if n.x then 3 else if n.w then 1 else 0) m false src.code
      (s, .inl (.wait die fid))
  | (s, .needsAts _) =>
    match s.pfaults.find? fun p => p.k = k && p.cause = 1 && p.va / 4096 = va / 4096 with
    | some p => (s, .inl (.wait p.die p.fid))
    | none => (s, .inl .ats)

/-- A unit's read of `n` bytes, page by page; `r` bounds the pages. -/
def unitReadN (die k v : Nat) (need : Need) (src : Source) : Nat → Nat → Nat → State → State × UnitGot
  | 0, _, _, s => (s, .ok [] false)
  | r + 1, va, n, s =>
    if n = 0 then (s, .ok [] false)
    else
      let m := min n (4096 - va % 4096)
      match s.unitAt die k va need src with
      | (s, .inl g) => (s, g)
      | (s, .inr (st, a)) =>
        match unitReadN die k v need src r (va + m) (n - m) s with
        | (s', .ok b p) => (s'.movedBy src k v st m, .ok (s.readB st a m ++ b) (p || s.poisonIn st a m))
        | x => x

def State.unitRead (s : State) (die k v va n : Nat) (src : Source) : State × UnitGot :=
  unitReadN die k v { r := true } src (n / 4096 + 2) va n s

/-- A unit's read for a block fetch: R and X (R364). -/
def State.unitFetch (s : State) (die k v va n : Nat) (src : Source) : State × UnitGot :=
  unitReadN die k v { r := true, x := true } src (n / 4096 + 2) va n s

/-- Marks or clears the poison of the units that a byte range touches. -/
def setPoisonIn (st : Store) (v : Bool) : Nat → Nat → State → State
  | 0, _, s => s
  | n + 1, u, s => setPoisonIn st v n (u + 1) (s.setPoison st (u * poisonUnit st) v)

/-- A write of whole bytes with its poison (R151): poison marks every unit touched; clean data clears a unit that it
writes whole. -/
def State.storeBytes (s : State) (st : Store) (a : Nat) (b : List Byte) (poi : Bool) : State :=
  let u := poisonUnit st
  let s := s.writeB st a b
  if b = [] then s
  else if poi then setPoisonIn st true ((a + b.length - 1) / u - a / u + 1) (a / u) s
  else if (s.poisons st).isEmpty then s
  else setPoisonIn st false ((a + b.length) / u - (a + u - 1) / u) ((a + u - 1) / u) s

/-- A unit's write, page by page. -/
def unitWriteN (die k v : Nat) (src : Source) (poi : Bool) : Nat → Nat → List Byte → State → State × UnitGot
  | 0, _, _, s => (s, .ok [] false)
  | r + 1, va, b, s =>
    if b.isEmpty then (s, .ok [] false)
    else
      let m := 4096 - va % 4096
      match s.unitAt die k va { w := true } src with
      | (s, .inl g) => (s, g)
      | (s, .inr (st, a)) =>
        unitWriteN die k v src poi r (va + m) (b.drop m) ((s.storeBytes st a (b.take m) poi).movedBy src k v st (b.take m).length)

def State.unitWrite (s : State) (die k v va : Nat) (b : List Byte) (poi : Bool) (src : Source) : State × UnitGot :=
  unitWriteN die k v src poi (b.length / 4096 + 2) va b s

/-! Queue descriptors (R333). -/

def State.qdesc? (s : State) (k q : Nat) : Option QDesc := s.qtab.find? fun d => d.k = k && d.q = q

def State.modQdesc (s : State) (k q : Nat) (f : QDesc → QDesc) : State :=
  { s with qtab := mapFirst (fun d => d.k = k && d.q = q) f s.qtab }

/-- Records that a ring holds. -/
def QDesc.count (d : QDesc) : Nat := (d.tail + 2 ^ 32 - d.head) % 2 ^ 32

/-- The address of the slot of a count. -/
def QDesc.slotAt (d : QDesc) (i : Nat) : Nat := d.base + (if d.q = 64 then 8 else 256) * (i % 2 ^ d.log2n)

/-- Lines of device memory that the host caches are back-invalidated before a unit's write at .sys (R137, R391). -/
def State.sysBusy (s : State) (k : Nat) (st : Store) (a : Nat) : Option State :=
  if st = .dev && s.snoop.contains (a / 64) then
    some { s with hostBusy := if s.hostBusy.contains (a / 64, k) then s.hostBusy else s.hostBusy ++ [(a / 64, k)] }
  else none

/-- A unit's write of a few bytes in one line as an event at .sys. -/
def State.sysWrite (s : State) (die k v va : Nat) (b : List Byte) (src : Source) : State × UnitGot :=
  match s.unitAt die k va { w := true } src with
  | (s, .inl g) => (s, g)
  | (s, .inr (st, a)) =>
    match s.sysBusy k st a with
    | some s => (s, .ats)
    | none => ((s.storeBytes st a b false).movedBy src k v st b.length, .ok [] false)

/-- Writes HEAD and TAIL back to the descriptor in memory, as one event of 8 bytes at .sys (R333); while the page or the line
is waited for, the write-back stays due. -/
def State.writeBack (s : State) (k q : Nat) : State :=
  match s.qdesc? k q with
  | none => s
  | some d =>
    let at_ := s.regField (.schedQtab k) 0 60 + 32 * q + 0x10
    match s.sysWrite 0 k 4096 at_ (leBytes 4 d.head ++ leBytes 4 d.tail) srcIo with
    | (s, .wait _ _) => s.modQdesc k q fun d => { d with dirty := true }
    | (s, .ats) => s.modQdesc k q fun d => { d with dirty := true }
    | (s, _) => s.modQdesc k q fun d => { d with dirty := false }

/-- The write-backs of a slot that are still due. -/
def State.flushBack (s : State) (k : Nat) : State :=
  foldState (fun s (d : QDesc) => s.writeBack k d.q) s (s.qtab.filter fun d => d.k = k && d.dirty)

def State.setHead (s : State) (k q n : Nat) : State :=
  (s.modQdesc k q fun d => { d with head := n % 2 ^ 32 }).writeBack k q

def State.setTail (s : State) (k q n : Nat) : State :=
  (s.modQdesc k q fun d => { d with tail := n % 2 ^ 32 }).writeBack k q

/-- Freed slots at the front of a context's tile-task queue. -/
def freedFront (k : Nat) : List TaskSlot → Nat
  | [] => 0
  | x :: r => if x.k ≠ k then freedFront k r else if x.freed then freedFront k r + 1 else 0

/-- Takes `n` slots of a context off the front of the tile-task queue. -/
def dropSlots (k : Nat) : Nat → List TaskSlot → List TaskSlot
  | _, [] => []
  | 0, l => l
  | n + 1, x :: r => if x.k = k then dropSlots k n r else x :: dropSlots k (n + 1) r

/-- Frees a slot of the tile-task queue; HEAD advances over freed slots (R335). -/
def State.freeTaskSlot (s : State) (k slot : Nat) : State :=
  let s := { s with taskQ := mapFirst (fun (x : TaskSlot) => x.k = k && x.slot = slot) (fun x => { x with freed := true }) s.taskQ }
  let n := freedFront k s.taskQ
  let head := ((s.qdesc? k 64).map QDesc.head).getD 0
  if n = 0 then s else ({ s with taskQ := dropSlots k n s.taskQ }).setHead k 64 (head + n)

/-- A core's tile-task or command count falls by one (R227). -/
def State.uncount (s : State) (c : Option CoreId) (f : Core → Core) : State :=
  match c with | some c => s.modCore c f | none => s

/-- A region leaves the field: its generation advances (R171, R174). -/
def State.dropRegion (s : State) (barn r : Nat) : State :=
  let me : Holder := .region barn r
  let gen := ((s.region? barn r).map Region.gen).getD 0
  let key := barn * 8 + r
  { (s.modFab fun g => { g with
      regions := g.regions.filter fun y => !(y.barn = barn && y.r = r)
      blocks := g.blocks.filter fun l => l.holder ≠ me
      queues := g.queues.filter fun q => q.site.holder ≠ me
      flights := g.flights.filter fun x => x.dst.holder ≠ me
      sets := g.sets.filter fun y => y.site.holder ≠ me }) with
    regGens := (s.regGens.filter fun p => p.1 ≠ key) ++ [(key, (gen + 1) % 2 ^ 16)]
    fetches := s.fetches.filter fun y => y.holder ≠ me }

/-- A tile task ends without running on: its slot and its core's count are freed, and its region (R352). -/
def State.discardTask (s : State) (id : Nat) : State :=
  match s.tasks.find? fun t => t.id = id with
  | none => s
  | some t =>
    let s := { s with tasks := s.tasks.filter fun t => t.id ≠ id }
    let s := s.uncount t.core fun c => { c with tt := c.tt - 1 }
    let s := match t.run with | some (b, r, _) => s.dropRegion b r | none => s
    s.freeTaskSlot t.k t.slot

/-! Engine commands and collective groups. -/

/-- An engine as an agent (R195). -/
def Cmd.src (c : Cmd) : Source := { code := 64 + c.eng % 64, port := streamPort c.barn c.recAt 0 }

/-- The die that translates for an engine; the Carillon uses die 0 (PRESUMED, log 20). -/
def Cmd.die (c : Cmd) : Nat := if c.eng < 32 then c.eng / 4 else 0

def Cmd.f (c : Cmd) (o n : Nat) : Nat := recField c.bytes o n
def Cmd.kind (c : Cmd) : Nat := c.f 2 1
def Cmd.shd (c : Cmd) : Bool := c.f 3 1 % 2 = 1
def Cmd.psys (c : Cmd) : Bool := bitsAt (c.f 3 1) 1 1 = 1
def Cmd.srcVa (c : Cmd) : Nat := c.f 8 8
def Cmd.dstVa (c : Cmd) : Nat := c.f 0x10 8
def Cmd.grp (c : Cmd) : Nat := c.f 0x20 4

def State.modCmd (s : State) (id : Nat) (f : Cmd → Cmd) : State :=
  s.modFab fun g => { g with cmds := mapFirst (fun (c : Cmd) => c.id = id) f g.cmds }

/-- Bytes of its destination that a command writes. -/
def Cmd.total (c : Cmd) : Nat :=
  if c.kind = 1 then c.f 0x18 8 else if c.kind = 4 then c.charged else c.f 0x18 4 * c.f 0x1C 4

/-- Whether a byte of the destination has been written. -/
def Cmd.wrote (c : Cmd) (q : Nat) : Bool := decide (q < c.pos) || c.ahead.contains q

/-- The part of the destination that lies in one piece about a byte: a SCAT's row, else all of it. -/
def Cmd.run (c : Cmd) (q : Nat) : Nat × Nat := if c.kind = 3 then (q / c.f 0x18 4 * c.f 0x18 4, c.f 0x18 4) else (0, c.total)

/-- Where a byte of a command goes, `i` being the index of its row (R189). -/
def Cmd.dstAt (c : Cmd) (i q : Nat) : Nat :=
  if c.kind = 3 then c.dstVa + i * c.f 0x18 4 + q % c.f 0x18 4 else c.dstVa + q

/-- Where it comes from. -/
def Cmd.srcAt (c : Cmd) (i q : Nat) : Nat :=
  if c.kind = 2 then c.srcVa + i * c.f 0x18 4 + q % c.f 0x18 4 else c.srcVa + q

/-- The index that a command has read for the row of a byte. -/
def Cmd.index? (c : Cmd) (row : Nat) : Option Nat := (c.idx.find? fun p => p.1 = row).map Prod.snd

/-- The 64-byte piece of the destination that a byte lies in, or the word of a COLL (R379). -/
def Cmd.pieceOf (c : Cmd) (q : Nat) : Nat × Nat :=
  if c.kind = 4 then (0, q / 4)
  else if c.kind = 3 then (q / c.f 0x18 4, c.dstAt ((c.index? (q / c.f 0x18 4)).getD 0) q / 64)
  else (0, c.dstAt 0 q / 64)

/-- Whether a command has written only whole pieces (R379). -/
def Cmd.whole (c : Cmd) : Bool :=
  ((if c.pos = 0 then [] else [c.pos - 1]) ++ c.ahead).all fun q => (upFrom (q - 63) 127).all fun x =>
    decide (c.total ≤ x) || c.pieceOf x ≠ c.pieceOf q || c.wrote x

def State.cmd? (s : State) (id : Nat) : Option Cmd := s.fab.cmds.find? fun c => c.id = id

/-- A collective group of CAR_GTAB (R398). -/
structure Group where
  n    : Nat
  rank : Nat
  asid : Nat
  pkid : List Nat
  deriving DecidableEq, Repr

/-- The bytes of a group descriptor (R398). -/
def State.groupBytes (s : State) (grp : Nat) : List Byte := s.readPaB (bitsAt (s.reg .carGtab).toNat 6 38 * 64 + 64 * grp) 64

def groupOf (b : List Byte) : Group :=
  { n := recField b 2 1, rank := recField b 3 1, asid := recField b 4 2, pkid := (upto 9).map fun i => recField b (8 + i) 1 % 64 }

/-- Whether every rank of a collective has issued it. -/
def State.allArrived (s : State) (c : Cmd) : Bool :=
  (upto (groupOf (s.groupBytes c.grp)).n).all fun i => s.ranks.any fun r => r.grp = c.grp && r.cseq = c.cseq && r.rank = i

end Sys2Proof.Machine
end

