-- ==== Sys2Proof/Machine/Traps.lean ====
section
/-! DEFINITION. How pending traps are delivered and resolved (R204, R205, R352, R372, R423 to R431), how an instance is
killed (R378), and who holds the frames and tiles of a barn (R341). -/

namespace Sys2Proof.Machine

/-! Who holds what. -/

/-- Context slots that hold a placement in a barn, ascending (R340, R341). -/
def State.placedIn (s : State) (b : Nat) : List Nat :=
  (upto 32).filter fun k => s.insts.any fun i => i.k = k && i.placed.isSome && i.barns.contains b

/-- Scrubs the allocations of a slot in the barns of a list that it has left (R268). -/
def State.scrubLeft (s : State) (k : Nat) (barns : List Nat) : State :=
  foldState (fun s b => (s.scrub b k false).scrub b k true) s (barns.filter fun b => !(s.placedIn b).contains k)

/-- The slot that a unit of a barn with a number belongs to by rank (R341; for tiles by the same rule, DEDUCED, log 30). -/
def State.ranked (s : State) (b n : Nat) : Option Nat :=
  let l := s.placedIn b
  if l.isEmpty then none else (l.drop (n % l.length)).head?

/-- The context that holds a bay frame: its block's while it holds one, else by rank (R341). -/
def State.frameOwner (s : State) (b f : Nat) : Option Nat :=
  match s.fab.blocks.find? fun l => l.holder = .bay b f, s.fetches.find? fun x => x.holder = .bay b f with
  | some l, _ => some l.k
  | none, some x => some x.k
  | none, none => s.ranked b f

/-- The context that holds a flail tile: that of its open invocations, else by rank (DEDUCED, log 30). -/
def State.tileOwner (s : State) (b t : Nat) : Option Nat :=
  match s.fab.invocs.find? fun i => i.holder = .tile b t with
  | some i => some i.k
  | none => s.ranked b t

/-- The lowest-numbered flail tile that a context holds in a barn (R442). -/
def State.firstTile (s : State) (k b : Nat) : Option Nat := lowest (fun t => s.tileOwner b t = some k) 8

/-! Words. -/

/-- The instruction of a firing's word. -/
def Firing.instr (f : Firing) : Option Instr := decodeWord f.word

/-- The common fields of a firing's word, also of an illegal one. -/
def Firing.hdr (f : Firing) : Hdr :=
  let w := Fields.ofWord f.word
  { pm := .always, ty := (Ty.ofBits w.ty).getD .b32, t0 := Target.decode w.t0, t1 := Target.decode w.t1 }

def Firing.t2 (f : Firing) : Option Target := f.instr.bind Instr.t2?

/-- Words in the channel queue of a tile (R249); channel `none` is the patch queue (R442). -/
def State.chanCount (s : State) (b t : Nat) (ch : Option Nat) : Nat :=
  (s.fab.chans.filter fun c => c.barn = b && c.tile = t && c.ch = ch).length

/-! Kills (R378, R427). -/

/-- Whether a tag belongs to an instance. -/
def ofInst (k v : Nat) (t : DWord) : Bool := tagK t = k && tagV t = v

/-- Takes an instance's work out of the fabric; commits that have begun go on (R378, step 2). -/
def Fabric.kill (g : Fabric) (k v : Nat) : Fabric :=
  let mine := ofInst k v
  let commits (i : Invoc) : Bool := g.sbuf.any fun e =>
    e.commit && e.holder = i.holder && e.blk = i.blk && e.tag = i.tag && e.dep = i.dep
  let kept (a : Access) : Bool := g.sbuf.any fun e => e.commit && e.acc = some a.id
  { g with
    queues := g.queues.filter fun q => !mine q.tok.tag
    flights := g.flights.filter fun x => !mine x.tok.tag
    sets := g.sets.filter fun x => !mine x.tag
    invocs := g.invocs.filter fun i => !mine i.tag || commits i
    spaces := g.spaces.filter fun x => !mine x.tag
    streams := g.streams.filter fun x => !mine x.tag
    frames := g.frames.filter fun x => !mine x.tag
    sbuf := g.sbuf.filter fun e => !mine e.tag || e.commit
    accs := g.accs.filter fun a => !(a.k = k && a.v = v) || kept a
    waits := g.waits.filter fun w => if w.core.isSome then !(w.k = k && tagV w.fire.tag = v) else !mine w.fire.tag
    cores := g.cores.filter fun c => !(c.k = k && c.v = v)
    eqs := g.eqs.filter fun e => !(e.k = k && e.v = v)
    chans := g.chans.filter fun c => !mine c.tok.tag
    regions := g.regions.filter fun r => !(r.k = k && r.v = v)
    cmds := g.cmds.filter fun c => !(c.k = k && c.v = v) }

/-- Kills an instance (R378, R427): its work is discarded, its traps are resolved with it, and it completes with the
outcome and code given. -/
def State.killInst (s : State) (k v outc tcode : Nat) : State :=
  let s := foldState (fun s (r : Region) => s.dropRegion r.barn r.r) s (s.fab.regions.filter fun r => r.k = k && r.v = v)
  let s := foldState (fun s (t : Task) => s.discardTask t.id) s (s.tasks.filter fun t => t.k = k && t.v = v)
  let s := foldState (fun s (x : TaskSlot) => s.freeTaskSlot k x.slot) s
    (s.taskQ.filter fun x => x.k = k && x.v = v && !x.freed)
  let s := foldState (fun s (w : Waiter) => s.freeWaiter w.id) s (s.waiters.filter fun w => w.k = k && w.v = v)
  { (s.modInst k v fun i => { i with outc := outc, tcode := tcode, waiter := none, progs := [], migr := [] }) with
    fab := s.fab.kill k v
    gathers := s.gathers.filter fun g => !(g.k = k && g.v = v)
    delivs := s.delivs.filter fun d => !(d.k = k && d.v = v)
    fetches := s.fetches.filter fun f => !(f.k = k && f.v = v)
    pubs := s.pubs.filter fun p => !(p.k = k && p.v = v && (p.fire.isSome || p.core.isSome))
    traps := s.traps.filter fun t => !(t.k = k && t.v = v) }

/-! Resolution (R205, R427). -/

/-- Puts a trapped set back, outside its node, to fire again (R205); a token that found its slot taken goes back to its
queue. -/
def State.refire (s : State) (f : Firing) (place : Place) (dup : Bool) : State :=
  if dup then
    s.modFab fun g => { g with queues := g.queues ++ f.toks.map fun x =>
      { site := f.site, slot := x.1, tok := x.2, since := s.cyc, head := s.cyc } }
  else
    s.modFab fun g => { g with sets := g.sets ++
      [{ site := f.site, tag := f.tag, dep := f.dep, a := f.a, b := f.b, c := f.c, p := f.p, place := place,
         opened := f.since, done := some s.cyc, since := s.cyc }] }

/-- A result that software supplies (R205): the data on T0 and T1, a null token on T2. -/
def State.supply (s : State) (f : Firing) (d : Word) (poi : Bool) : State :=
  let h := f.hdr
  let k : Tok := { tag := f.tag, dep := f.dep, data := d, ty := h.ty, poi := poi }
  (s.emitAll f.site 1 k [h.t0, h.t1]).emit f.site f.t2 1 { k with data := 0, nul := true, poi := false }

/-- The result that a patch handler supplies (R442): an order-out on T2. -/
def State.supplyEmulated (s : State) (f : Firing) (d : Word) (poi : Bool) : State :=
  let h := f.hdr
  let k : Tok := { tag := f.tag, dep := f.dep, data := d, ty := h.ty, poi := poi }
  (s.emitAll f.site 1 k [h.t0, h.t1]).emit f.site f.t2 1 { k with data := 0, ty := .b32, poi := false }

/-- An access that its port translates and performs again. -/
def State.retry (s : State) (id : Nat) : State :=
  s.modAcc id fun a => { a with waiting := false, trans := .ready }

/-- Whether a firing's access reads a record, whose data software cannot supply (R372). -/
def Firing.readsRecord (f : Firing) : Bool :=
  let op := opOf f.word
  (decide (0x340 ≤ op) && decide (op ≤ 0x343)) || op = 0x38B || op = 0x38C

/-- The present piece of an access is done with a response; the access goes on. -/
def Access.answer (a : Access) (d : Nat) (poi : Bool) : Access :=
  { a with waiting := false, trans := .ready, pos := a.pos + 1, done := decide (a.pieces.length ≤ a.pos + 1),
           pieces := putAt a.pieces a.pos { (a.pieces.drop a.pos).headD { addr := 0, size := 0, mask := 0, data := 0 } with
             resp := some d, poi := poi } }

/-- What ACT 1 makes of an access whose PAGE was delivered (R372): a read or an atomic takes the data, and an access that
returns none is abandoned as if performed. -/
def State.supplyPage (s : State) (a : Access) (d : Word) (poi : Bool) : State :=
  match a.kind with
  | .read => s.modAcc a.id fun x => x.answer d.toNat poi
  | .atomic _ _ => s.modAcc a.id fun x => { x.answer d.toNat poi with done := true, pos := x.pieces.length }
  | .fetch => s.retry a.id
  | .claim _ => s.retry a.id
  | _ => s.modAcc a.id fun x => { x with waiting := false, trans := .ready, pos := x.pieces.length, done := true }

/-- Whether a trap is a page fault that software resolved with FAIL (R372). -/
def Trap.failed (t : Trap) : Bool := t.tcode = tcPage && decide (t.cause ≤ 1)

/-- ACT 1 for an access; `fail` for a PAGE that a FAIL resolution delivered. The position that an XLQ reserved goes with its
discarded data (DESIGN CHOICE, log 113). -/
def State.supplyAcc (s : State) (a : Access) (fail : Bool) (d : Word) (poi : Bool) : State :=
  match a.origin with
  | .firing f =>
    if !fail then (s.dropAcc a.id).supply f d poi
    else if f.readsRecord then s.retry a.id
    else s.supplyPage a d poi
  | .stream _ _ => s.retry a.id
  | .streamWrite f =>
    let less (x : Stream) : Stream :=
      if x.site = f.site && isPrefix x.tag x.dep f.tag f.dep then { x with writes := x.writes - 1 } else x
    (s.dropAcc a.id).modFab fun g => { g with streams := g.streams.map less }
  | .core c _ rd => ((s.dropAcc a.id).modCore c fun x => { x with stopped := false }).coreWrites c rd d
  | .coreCount c _ q p =>
    let s := (s.dropAcc a.id).modCore c fun x =>
      if q.isSome then { x with stopped := false, ld := x.ld - 1 } else { x with stopped := false, st := x.st - 1 }
    match q with
    | none => s
    | some _ => s.modFab fun g => { g with eqs := dropFirst (fun e => e.id = p && e.tok.isNone) g.eqs }
  | .trapRec _ _ => s.dropAcc a.id
  | .direct _ _ => s.retry a.id

/-- Re-applies R349's test to every input of a waiter under the entries' present state (R352). -/
def State.retest (s : State) (id : Nat) : State :=
  match s.waiters.find? fun w => w.id = id with
  | none => s
  | some w =>
    (foldState (fun s n =>
      let i := (w.inputs.drop n).headD { tid := 0, tile := 0, egen := 0, count := 0, cnt := 0 }
      match s.sheaf? w.asid i.tid i.tile with
      | none => s
      | some e =>
        let r := registerInput e i i.link
        let s := s.modWaiter id fun x => { x with inputs := putAt x.inputs n r.1, fault := x.fault || r.2 = some tcSheafStale }
        match r.2 with | some c => s.waiterTrap w n c e.gen e.seq | none => s) s (upto w.inputs.length)).judge id

/-- The resolution of a trap against a waiter (R352). -/
def State.resolveWaiter (s : State) (t : Trap) (w input act : Nat) : State :=
  let task := s.tasks.find? fun x => x.waiter = some w
  let end_ (s : State) : State := match task with
    | some x => (s.freeWaiter w).discardTask x.id
    | none => s.killInst t.k t.v 1 t.tcode
  if t.tcode = tcSheafStale then
    if act = 0 then (s.modWaiter w fun x => { x with fault := false }).retest w
    else if act = 1 then
      (s.modWaiter w fun x => { x with fault := false,
                                       inputs := putAt x.inputs input { (x.inputs.drop input).headD
                                         { tid := 0, tile := 0, egen := 0, count := 0, cnt := 0 } with cnt := 0 } }).judge w
    else end_ s
  else if act = 2 then end_ s
  else s

/-- Takes a trap out of the context's list; its record is no longer written. -/
def State.freeTrap (s : State) (t : Trap) : State :=
  { s with traps := s.traps.filter fun x => !(x.k = t.k && x.index = t.index)
           fab := { s.fab with accs := s.fab.accs.filter fun a => a.origin ≠ .trapRec t.k t.index } }

/-- The effect of an action on what a trap holds. -/
def State.resolveHold (s : State) (t : Trap) (act : Nat) (d : Word) (poi : Bool) : State :=
  match t.hold with
  | .firing f =>
    if act = 1 then s.supply f d poi
    else if opOf f.word = 0x384 && t.tcode = tcUser then
      let h := f.hdr
      s.emitAll f.site 1 (f.result h false h.ty (f.data .a)) [h.t0, h.t1]
    else s.refire f .outside (t.tcode = tcDupToken && !(0x380 ≤ opOf f.word && opOf f.word ≤ 0x382))
  | .emulation f _ => if act = 1 then s.supplyEmulated f d poi else s.refire f .asDefined false
  | .word id =>
    let s := match (s.fab.accs.find? fun a => a.id = id).map Access.origin with
      | some (.core c _ _) => s.modCore c fun x => { x with stopped := false }
      | some (.coreCount c _ _ _) => s.modCore c fun x => { x with stopped := false }
      | _ => s
    match s.fab.accs.find? fun a => a.id = id with
    | none => s
    | some a =>
      if act = 1 then s.supplyAcc a t.failed d poi
      else match a.origin with
        | .firing f => if t.failed then s.retry id else (s.dropAcc id).refire f .outside false
        | _ => s.retry id
  | .stream f j =>
    let s := s.modStream f.site f.tag f.dep fun x => { x with stuck := false }
    if act = 0 then
      let again (a : Access) : Access := if a.origin = .stream f j then { a with waiting := false, trans := .ready } else a
      s.modFab fun g => { g with accs := g.accs.map again }
    else
      let h := f.hdr
      (s.modFab fun g => { g with accs := g.accs.filter fun a => a.origin ≠ .stream f j }).modStream f.site f.tag f.dep
        fun x => { x with words := x.words ++ [(j, { f.result h true h.ty d with poi := poi })] }
  | .fetch h k v blk =>
    let again (x : Fetch) : Fetch :=
      if x.holder = h && x.k = k && x.v = v && x.blk = blk then { x with fails := 0, again := s.cyc } else x
    { s with fetches := s.fetches.map again }
  | .core c =>
    match s.core? c with
    | none => s
    | some x =>
      let s := s.modCore c fun y => { y with stopped := false, waiting := false, since := s.cyc }
      if act = 1 then s.coreWrites c (rdOf x.word) d else s
  | .waiter w i => s.resolveWaiter t w i act
  | .page d i => s.retryFault d i
  | .edge b q =>
    let s := s.modCore ⟨b, false⟩ fun x => { x with stopped := false }
    if act = 1 then s.modFab fun g => { g with eqs := dropFirst (fun e => e.barn = b && !e.out && e.q = q) g.eqs } else s
  | .none => s

/-- The resolution of a pending trap (R427). -/
def State.resolve (s : State) (t : Trap) (act : Nat) (d : Word) (poi : Bool) : State :=
  let s := s.freeTrap t
  match t.cls, act with
  | .W, _ => s.resolveHold t act d poi
  | _, 2 => s.killInst t.k t.v 1 t.tcode
  | .E, _ => s
  | .A, _ => s
  | _, _ => s.resolveHold t act d poi

/-- The pending trap of a context whose trap word equals a word (R423). -/
def State.byTrapWord (s : State) (k : Nat) (w : Word) : Option Trap := s.traps.find? fun t => t.k = k && t.wordOf = w

/-- The pending trap of a context with an index. -/
def State.byTrapIndex (s : State) (k n : Nat) : Option Trap := s.traps.find? fun t => t.k = k && t.index = n

/-! Delivery (R423 to R429). -/

def State.modTrap (s : State) (k n : Nat) (f : Trap → Trap) : State :=
  { s with traps := mapFirst (fun t => t.k = k && t.index = n) f s.traps }

/-- The barn and tile that CTX_TRAPCH names for a trap, with the channel; none where the trap goes to the host (R424,
R428). -/
def State.trapDest (s : State) (t : Trap) : Option (Nat × Nat × Nat) :=
  let r := (s.reg (.trapch t.k)).toNat
  let own : Option Nat :=
    if t.barn < 64 then some t.barn
    else match s.inst? t.k t.v with
      | some i => if i.graph then lowest (fun b => (s.placedIn b).contains t.k) 64 else lowest (fun b => i.barns.contains b) 64
      | none => lowest (fun b => (s.placedIn b).contains t.k) 64
  let b := if bitsAt r 15 1 = 1 then own else some (s.physBarn t.k (bitsAt r 9 6))
  if t.toHost || bitsAt r 31 1 = 0 then none
  else b.bind fun b => if s.tileOwner b (bitsAt r 6 3) = some t.k then some (b, bitsAt r 6 3, bitsAt r 0 6) else none

/-- The tag of a trap word: that of the trapping instance, with DEP 0 (R423, R236). -/
def State.trapTag (s : State) (t : Trap) : DWord :=
  let d := match s.inst? t.k t.v with
    | some i => ((lowest (fun b => i.barns.contains b) 64).map dieOf).getD 0
    | none => 0
  mkTag d t.k (if t.v < 4096 then t.v else 0) 0

/-- A trap goes to the host (R429, R430). -/
def State.tellHost (s : State) (t : Trap) : State :=
  (s.modTrap t.k t.index fun x => { x with stage := .host }).hostEvent
    { type := 0, slot := t.k, a := t.index, b := t.tcode, cyc := 0 }

/-- A word enters a channel queue or patch queue of a tile. -/
def State.enqueueWord (s : State) (c : ChanWord) : State := s.modFab fun g => { g with chans := g.chans ++ [c] }

/-- The tokens that a patch handler receives in in.1 to in.4: a slot that the firing lacks gives a null token (R442). -/
def Firing.emulated (f : Firing) : List (Option Tok) :=
  [Slot.a, .b, .c, .p].map fun sl =>
    some ((f.tok? sl).getD { tag := f.tag, dep := f.dep, data := 0, ty := .b32, nul := true })

/-- TRAP_WORD_ENQUEUE (R423, R425, R442): trap `n` of slot `k`, once its record is written and every trap raised before it
in its cycle has been delivered. -/
def execTrapWordEnqueue (s : State) : Host.Outcome State Fault Refusal :=
  .next (match s.byTrapIndex s.arg.k s.arg.n with
  | none => s
  | some t =>
    let earlier := s.traps.takeWhile fun x => !(x.k = t.k && x.index = t.index)
    if t.stage ≠ .raised || s.ctxState t.k ≠ 0 || (s.fab.accs.any fun a => a.origin = .trapRec t.k t.index) ||
        (earlier.any fun x => x.k = t.k && x.cyc = t.cyc && x.stage = .raised) then s
    else
      match t.hold with
      | .emulation f n =>
        match if t.toHost then none else s.firstTile t.k t.barn with
        | none => s.tellHost t
        | some tile =>
          if 16 ≤ s.chanCount t.barn tile none then s
          else
            (s.modTrap t.k t.index fun x => { x with stage := .channel }).enqueueWord
              { barn := t.barn, tile := tile, ch := none, k := t.k, ops := f.emulated, link := n, since := s.cyc,
                tok := { tag := f.tag, dep := f.dep, data := t.wordOf, ty := .b32 } }
      | _ =>
        match s.trapDest t with
        | none => s.tellHost t
        | some (b, tile, ch) =>
          if 16 ≤ s.chanCount b tile (some ch) then s
          else
            (s.modTrap t.k t.index fun x => { x with stage := .channel }).enqueueWord
              { barn := b, tile := tile, ch := some ch, k := t.k, since := s.cyc,
                tok := { tag := s.trapTag t, dep := 0, data := t.wordOf, ty := .b32 } })

/-- A write of TRAP_RES.k (R429): trap INDEX is resolved with an action; with none pending, CTX_RUN.k.ERR is set. -/
def State.trapRes (s : State) (act : Nat) : State :=
  match s.byTrapIndex s.arg.k (bitsAt s.arg.val.toNat 0 8) with
  | none => s.setField (.ctxRun s.arg.k) 24 1 1
  | some t => s.resolve t act (BitVec.ofNat 32 (bitsAt s.arg.val.toNat 32 32)) false

/-- TRAP_RES_RESUME: a write `val` of TRAP_RES.k with ACT 0. -/
def execTrapResResume (s : State) : Host.Outcome State Fault Refusal := .next (s.trapRes 0)
/-- TRAP_RES_SUPPLY: a write with ACT 1, whose DATA stands in bits [63:32]. -/
def execTrapResSupply (s : State) : Host.Outcome State Fault Refusal := .next (s.trapRes 1)
/-- TRAP_RES_KILL: a write with ACT 2. -/
def execTrapResKill (s : State) : Host.Outcome State Fault Refusal := .next (s.trapRes 2)

/-! Progress alarms (R259, R260, R431). -/

/-- The limit of a context in cycles; none while alarms are disabled (R431). -/
def State.stallLimit (s : State) (k : Nat) : Option Nat :=
  let l := s.regField (.stallim k) 0 24
  if l = 0 then none else some (max l 1024)

/-- CTX_STALLIM_WRITE (R431): value `val` of slot `k`; counters at or above it raise STALL_AGE in the next cycle. -/
def execCtxStallimWrite (s : State) : Host.Outcome State Fault Refusal := .next (s.writeReg (.stallim s.arg.k) s.arg.val)

/-- What STALL_AGE says of a waiting item (R260). -/
structure Stalled where
  k    : Nat
  v    : Nat
  srck : Nat
  barn : Nat
  unit : Nat
  idx  : Nat
  blk  : Nat
  word : DWord := 0
  tag  : DWord
  dep  : Nat
  slot : Nat
  since : Nat
  now  : Bool := false
  deriving DecidableEq, Repr

/-- A site's part of an alarm; a replacement word is named by its claimed word (R440). -/
def stalledAt (site : Site) (word : DWord) (tag : DWord) (dep slot since : Nat) : Stalled :=
  { k := tagK tag, v := tagV tag, srck := site.holder.srck, barn := site.holder.barnNo, unit := site.holder.unit,
    idx := if site.idx < 128 then site.idx else (site.idx - 128) / 4, blk := site.blk, word := word, tag := tag, dep := dep,
    slot := slot, since := since }

/-- The frame that a set of a tile stands in (R247). -/
def State.frameOf? (s : State) (h : Holder) (blk : Nat) (t : DWord) (d : Nat) : Option Frame :=
  s.fab.frames.find? fun x => x.holder = h && x.blk = blk && x.tag = t && x.dep = d

/-- The alarm of an access that waits. -/
def Access.stalled (a : Access) : Option Stalled :=
  let at_ (f : Firing) : Option Stalled := some (stalledAt f.site f.word f.tag f.dep 0 a.since)
  match a.kind, a.origin with
  | .claim _, _ => none
  | _, .firing f => at_ f
  | _, .stream f _ => at_ f
  | _, .streamWrite f => at_ f
  | _, .core c pc _ => some
    { k := a.k, v := a.v, srck := if c.storer then 4 else 3, barn := c.barn, unit := 0, idx := 0xFF, blk := pc, tag := a.tag,
      dep := a.dep, slot := 0xFF, since := a.since }
  | _, _ => none

/-- The block, instruction and slot that the head of an edge queue is bound for (R222, R260); none for an output queue. -/
def State.edgeTarget (s : State) (e : EqTok) : Nat × Nat × Nat :=
  if e.out then (0, 0xFF, 0xFF)
  else if e.bind.kind = 1 then
    (((s.inst? e.k e.v).map Inst.base).getD 0 + e.bind.tgt.toNat * 64, e.bind.ent, Slot.a.toBits.toNat)
  else match ((s.byHandle e.k e.bind.tgt).filter fun x => x.barn = e.barn).bind s.mmacOf with
    | some (n, _) => (n.blk, n.idx, (if e.bind.kind = 2 then Slot.a else .b).toBits.toNat)
    | none => (0, 0xFF, 0xFF)

/-- A waiting item of the fabric, with its age. -/
def State.stalled (s : State) (i : AgeItem) : Option Stalled :=
  match i with
  | .queueHead n => do
    let q ← (s.fab.queues.drop n).head?
    if (s.fab.queues.take n).any fun x => x.site = q.site && x.slot = q.slot then none
    else some (stalledAt q.site (s.nodeWord q.site).1 q.tok.tag q.tok.dep q.slot.toBits.toNat q.head)
  | .set n => do
    let x ← (s.fab.sets.drop n).head?
    let missing := (s.needs x.site).find? fun sl => (x.tok? sl).isNone
    let passed := x.place = .frame && match s.frameOf? x.site.holder x.site.blk x.tag x.dep with
      | some fr => fr.passed.contains x.site.idx
      | none => false
    let sl := if x.done.isSome then ([Slot.a, .b, .c, .p].find? fun sl => (x.tok? sl).isSome).getD .a else missing.getD .a
    some { stalledAt x.site (s.nodeWord x.site).1 x.tag x.dep sl.toBits.toNat x.since with now := passed && x.done.isNone }
  | .gather n => do
    let g ← (s.gathers.drop n).head?
    let r ← g.ready
    some { k := g.k, v := g.v, srck := 7, barn := 0xFF, unit := 0, idx := 0, blk := g.blk, tag := g.tag, dep := g.dep,
           slot := 0xFF, since := max r g.age }
  | .waiting n =>
    if n < s.fab.waits.length then do
      let w ← (s.fab.waits.drop n).head?
      match w.core with
      | none => some (stalledAt w.fire.site w.fire.word w.fire.tag w.fire.dep 0 w.since)
      | some c => do
        let x ← s.core? c
        some { k := w.k, v := x.v, srck := if c.storer then 4 else 3, barn := c.barn, unit := 0, idx := 0xFF,
               blk := x.pc.toNat, word := BitVec.ofNat 64 x.word, tag := x.tag, dep := x.dep, slot := 0xFF, since := w.since }
    else ((s.fab.accs.drop (n - s.fab.waits.length)).head?).bind Access.stalled
  | .edgeQueue n => do
    let e ← (s.fab.eqs.drop n).head?
    let (blk, idx, sl) := s.edgeTarget e
    if (s.fab.eqs.take n).any fun x => x.barn = e.barn && x.out = e.out && x.q = e.q then none
    else some { k := e.k, v := e.v, srck := if e.out then 4 else 3, barn := e.barn, unit := e.q, idx := idx, blk := blk,
                tag := (e.tok.map Tok.tag).getD 0, dep := (e.tok.map Tok.dep).getD 0, slot := sl, since := e.age.getD s.cyc }
  | .channel n => do
    let c ← (s.fab.chans.drop n).head?
    if (s.fab.chans.take n).any fun x => x.barn = c.barn && x.tile = c.tile && x.ch = c.ch then none
    else
      let h := s.fab.handlers.find? fun h => h.barn = c.barn && h.tile = c.tile && some h.ch = c.ch && h.k = c.k
      some { k := c.k, v := tagV c.tok.tag, srck := 1, barn := c.barn, unit := c.tile, idx := if h.isSome then 0 else 0xFF,
             blk := (h.map Handler.blk).getD 0, tag := c.tok.tag, dep := c.tok.dep, slot := if h.isSome then 0 else 0xFF,
             since := c.age.getD s.cyc }
  | .core b st => do
    let x ← s.core? ⟨b, st⟩
    if x.active && !x.stopped then
      some { k := x.k, v := x.v, srck := if st then 4 else 3, barn := b, unit := 0, idx := 0xFF, blk := x.pc.toNat,
             word := BitVec.ofNat 64 x.word, tag := x.tag, dep := x.dep, slot := 0xFF, since := x.since }
    else none
  | .command n => do
    let c ← (s.fab.cmds.drop n).head?
    if c.kind ≠ 4 || !c.running || c.cause ≠ 0 || s.allArrived c then none
    else match c.fire with
      | some f => some (stalledAt f.site f.word f.tag f.dep 0 c.age)
      | none => some { k := c.k, v := c.v, srck := if (c.core.map CoreId.storer).getD false then 4 else 3, barn := c.barn, unit := 0,
                       idx := 0xFF, blk := c.at_, tag := mkTag (dieOf c.barn) c.k c.v 0, dep := 0, slot := 0xFF, since := c.age }

/-- Changes element `n` of a list. -/
def changeAt {α : Type} (f : α → α) (n : Nat) (l : List α) : List α := l.take n ++ ((l.drop n).take 1).map f ++ l.drop (n + 1)

/-- Restarts the age of an item. -/
def State.restartAge (s : State) (i : AgeItem) : State :=
  match i with
  | .queueHead n => s.modFab fun g => { g with queues := changeAt (fun q => { q with head := s.cyc }) n g.queues }
  | .set n => s.modFab fun g => { g with sets := changeAt (fun q => { q with since := s.cyc }) n g.sets }
  | .gather n => { s with gathers := changeAt (fun q => { q with age := s.cyc }) n s.gathers }
  | .waiting n =>
    let m := s.fab.waits.length
    if n < m then s.modFab fun g => { g with waits := changeAt (fun q => { q with since := s.cyc }) n g.waits }
    else s.modFab fun g => { g with accs := changeAt (fun q => { q with since := s.cyc }) (n - m) g.accs }
  | .edgeQueue n => s.modFab fun g => { g with eqs := changeAt (fun q => { q with age := some s.cyc }) n g.eqs }
  | .channel n => s.modFab fun g => { g with chans := changeAt (fun q => { q with age := some s.cyc }) n g.chans }
  | .core b st => s.modCore ⟨b, st⟩ fun x => { x with since := s.cyc }
  | .command n => s.modFab fun g => { g with cmds := changeAt (fun q => { q with age := s.cyc }) n g.cmds }

/-- STALL_AGE (R259, R431): the item `item` reaches its context's limit. Its alarm is raised once while none of it is
pending, and its age restarts. A partial set at a passed instruction of a tile raises it at once (R248). -/
def execStallAge (s : State) : Host.Outcome State Fault Refusal :=
  .next (match s.stalled s.arg.item with
  | none => s
  | some x =>
    match s.stallLimit x.k with
    | none => s
    | some lim =>
      let pending := s.traps.any fun t => t.k = x.k && t.tcode = tcStallAge && t.srck = x.srck && t.barn = x.barn &&
        t.unit = x.unit && t.idx = x.idx && t.blk = x.blk && t.tag = x.tag && t.dep = x.dep && t.slot = x.slot
      if s.ctxState x.k ≠ 0 || s.hasFault x.k || (s.cyc < x.since + lim && !x.now) then s
      else if pending then s.restartAge s.arg.item
      else match s.freeTrapIndex x.k with
        | none => s
        | some _ =>
          (s.raise { k := x.k, index := 0, tcode := tcStallAge, cause := 0, cls := .A, srck := x.srck, barn := x.barn,
                     unit := x.unit, idx := x.idx, blk := x.blk, word := x.word, tag := x.tag, dep := x.dep, slot := x.slot,
                     aux0 := BitVec.ofNat 64 (min (s.cyc - x.since) (2 ^ 24 - 1)), aux1 := 0, aux2 := 0, cyc := 0, v := x.v, hold := .none,
                     toHost := (match s.block? (.tile x.barn x.unit) x.blk with
                       | some l => hdrHANDLER l.hdr && x.srck = 1
                       | none => false) }).restartAge s.arg.item)

end Sys2Proof.Machine
end

