-- ==== Sys2Proof/Machine/Control.lean ====
section
/-! DEFINITION. Groups 0xD and 0xE: engine commands, barriers, leaving a block, channels, traps and returns, control
registers, the Gong, code visibility and launches (R185 to R215, R180). Records and barriers are reached by accesses,
whose responses go on in the file Responses. -/

namespace Sys2Proof.Machine

/-! Record addresses (R185). -/

/-- `n` pieces of 4 bytes from an address (R185). -/
def words (va n : Nat) : List Piece :=
  (upto n).map fun i => { addr := va + 4 * i, size := 4, mask := 2 ^ 32 - 1, data := 0 }

/-- The record address of a firing, with its traps (R185, R433). -/
def State.withRecord (s : State) (f : Firing) (bsel : BitVec 4) (disp : BitVec 9) (kind : AccKind) (size : Nat)
    (act : Nat → State) : State :=
  s.withFlat f bsel disp kind size fun va => if va % 64 ≠ 0 then s.alignTrap f va size else act va

/-- An engine instruction (R188): its record is read first; see the response of its access. -/
def engineInstr (s : State) (h : Hdr) (sc : Scope) (t2 : Option Target) (bsel : BitVec 4) (disp : BitVec 9) :
    Host.Outcome State Fault Refusal :=
  onFiring s fun f =>
    s.fired (memShape h t2 true) f fun s =>
      s.withRecord f bsel disp .read 64 fun va => s.issue { f.access .read .b32 sc with pieces := words va 16 }

def execCpy (h : Hdr) (sc : Scope) (t2 : Option Target) (bsel : BitVec 4) (disp : BitVec 9) (s : State) :
    Host.Outcome State Fault Refusal := engineInstr s h sc t2 bsel disp
def execGath (h : Hdr) (sc : Scope) (t2 : Option Target) (bsel : BitVec 4) (disp : BitVec 9) (s : State) :
    Host.Outcome State Fault Refusal := engineInstr s h sc t2 bsel disp
def execScat (h : Hdr) (sc : Scope) (t2 : Option Target) (bsel : BitVec 4) (disp : BitVec 9) (s : State) :
    Host.Outcome State Fault Refusal := engineInstr s h sc t2 bsel disp
def execColl (h : Hdr) (sc : Scope) (t2 : Option Target) (bsel : BitVec 4) (disp : BitVec 9) (s : State) :
    Host.Outcome State Fault Refusal := engineInstr s h sc t2 bsel disp

/-- The tile-task queue of a context when it is usable, else the field offset that TTASK_FORMAT names (R335). -/
def State.taskQueue (s : State) (k : Nat) : QDesc ⊕ Nat :=
  match s.qdesc? k 64 with
  | none => .inr 0x00
  | some d => if d.en then .inl d else .inr 0x09

/-- TTASK (R180, R335): a release, then the record address enters the queue; held while it is full. -/
def execTtask (h : Hdr) (sc : Scope) (t2 : Option Target) (bsel : BitVec 4) (disp : BitVec 9) (s : State) :
    Host.Outcome State Fault Refusal :=
  onFiring s fun f =>
    s.fired (memShape h t2 true) f fun s =>
      s.withRecord f bsel disp .read 192 fun va =>
        match s.taskQueue f.k with
        | .inr o => s.trapFiring f { code := tcTtaskFormat, aux0 := va, aux1 := o }
        | .inl d => if 2 ^ d.log2n ≤ d.count then { s with held := true } else s.issue { f.order sc false true with opnd := va }

/-! Barriers (R198 to R200). -/

/-- The one piece of an access to a barrier object. -/
def barrier (va : Nat) : List Piece := [{ addr := va, size := 64, mask := 0, data := 0 }]

/-- BARINIT (R200): slot b holds SINKS; a poisoned one raises POISON (DEDUCED, log 31). -/
def execBarinit (h : Hdr) (sc : Scope) (t2 : Option Target) (bsel : BitVec 4) (disp : BitVec 9) (s : State) :
    Host.Outcome State Fault Refusal :=
  onFiring s fun f =>
    s.fired { memShape h t2 true with clean := [.b] } f fun s =>
      s.withRecord f bsel disp (.barInit (f.data .b).toNat) 64 fun va =>
        s.issue { f.access (.barInit (f.data .b).toNat) .b32 sc with rel := true, pieces := barrier va }

/-- ROLL without `.arr` (R200): a roll token with the set's tag. -/
def execRoll (h : Hdr) (_sc : Scope) (t2 : Option Target) (s : State) : Host.Outcome State Fault Refusal :=
  onFiring s fun f =>
    s.fired { h := h, targets := [h.t0, h.t1, t2], nullOut := true } f fun s =>
      s.emitAll f.site 1 (f.marker h false false false true) [h.t0, h.t1, t2]

/-- BAR_STATE (R214): address, SINKS with ARR, and STATE. -/
def barState (va sinks arr st : Nat) : Cause :=
  { code := tcBarState, aux0 := va, aux1 := sinks + arr * 2 ^ 32, aux2 := st }

/-- SINKS, ARR and STATE of the barrier object at an address (R198); zeros where its page cannot be reached at once (DESIGN
CHOICE, log 107). -/
def State.peekBar (s : State) (k va : Nat) : Nat × Nat × Nat :=
  match s.peekAt k va { r := true } with
  | some (st, a) => (s.readN st (a + 8) 4, s.readN st (a + 0xC) 4, s.readN st (a + 0x12) 1)
  | none => (0, 0, 0)

/-- ROLL `.arr` (R200): a roll set arrives at the barrier; any other set raises BAR_STATE. Slot a's offset is taken as 0. -/
def execRollArr (h : Hdr) (sc : Scope) (_t2 : Option Target) (bsel : BitVec 4) (disp : BitVec 9) (s : State) :
    Host.Outcome State Fault Refusal :=
  onFiring s fun f =>
    let _ := h
    let va := s.flatAddr f.k f.v bsel disp 0
    match f.kind false with
    | .roll =>
      s.withVa f va .arrive 64 fun va =>
        if va % 64 ≠ 0 then s.alignTrap f va 64
        else s.issue { f.access .arrive .b32 sc with rel := true, pieces := barrier va }
    | _ =>
      let (sinks, arr, st) := s.peekBar f.k va
      s.trapFiring f (barState va sinks arr st)

/-- BARWAIT (R200): it waits at the barrier's memory node and acquires. -/
def execBarwait (h : Hdr) (sc : Scope) (t2 : Option Target) (bsel : BitVec 4) (disp : BitVec 9) (s : State) :
    Host.Outcome State Fault Refusal :=
  onFiring s fun f =>
    s.fired (memShape h t2 true) f fun s =>
      s.withRecord f bsel disp .barWait 64 fun va =>
        s.issue { f.access .barWait .b32 sc with acq := true, pieces := barrier va }

/-! Leaving a block (R201 to R203). -/

/-- The forming entry of a key (R240). -/
def State.forming? (s : State) (k v blk : Nat) (t : DWord) (d : Nat) : Option Gather :=
  s.gathers.find? fun g => g.k = k && g.v = v && g.blk = blk && g.tag = t && g.dep = d && g.ready.isNone && g.fid.isNone

/-- The keys that deliveries on their way will form in a queue. -/
def State.coming (s : State) (k v blk : Nat) : List (DWord × Nat) :=
  let keys := (s.delivs.filter fun d => d.k = k && d.v = v).flatMap fun d =>
    (d.vals.filter fun x => x.blk = blk).map fun x => (x.tag, x.dep)
  (keys.filter fun p => (s.forming? k v blk p.1 p.2).isNone).eraseDups

/-- Whether the gather queue of a block has a slot for a value (R202, R240): block 0 is the end exit. -/
def State.gatherRoom (s : State) (k v : Nat) (x : Value) : Bool :=
  x.blk = 0 || (s.forming? k v x.blk x.tag x.dep).isSome || (s.coming k v x.blk).contains (x.tag, x.dep) ||
    decide (s.ringUsed k v x.blk + (s.coming k v x.blk).length < ((s.inst? k v).map Inst.gqn).getD 0)

/-- The key of an invocation. -/
def Invoc.key (i : Invoc) : InvKey := { holder := i.holder, blk := i.blk, tag := i.tag, dep := i.dep }

def State.modInvoc (s : State) (i : Invoc) (f : Invoc → Invoc) : State :=
  s.modFab fun g => { g with invocs := mapFirst (fun x => x.key = i.key && !x.closed) f g.invocs }

/-- The invocation that a closing firing closes: an open one with exactly the set's tag (R202). -/
def State.closing? (s : State) (f : Firing) : Option Invoc :=
  s.fab.invocs.find? fun i =>
    i.holder = f.site.holder && i.blk = f.site.blk && i.tag = f.tag && i.dep = f.dep && !i.closed && !i.closing

/-- Whether a read of an invocation is still to be performed, or a store of it may yet fault (R371). -/
def State.loading (s : State) (i : Invoc) : Bool :=
  s.fab.accs.any fun a => !a.done && i.issued a.origin && (a.kind ≠ .write || a.pieces.any fun p => p.place.isNone)

/-- The die whose queue controller port forms the gather entries of a firing's strand (R215). -/
def State.gatherDie (s : State) (f : Firing) : Nat :=
  if ((s.inst? f.k f.v).map Inst.graph).getD false then ioDie else tagD f.tag

/-- Sends the values of an EXIT, CALL or RET and begins the close of its invocation (R202, R371). In an idempotent block a
delivery that does not close stands in the store buffer until the close commits it. -/
def State.leave (s : State) (f : Firing) (part : Bool) (vals : List Value) : State :=
  let own := s.invoc? f
  let d : Delivery := { k := f.k, v := f.v, vals := vals, from_ := own.map Invoc.key, close := !part, fire := some f,
                        ready := s.cyc + latencyAt f.site (4 + 16 * bounds f.site.holder.die (s.gatherDie f)) }
  if !(vals.all fun x => s.gatherRoom f.k f.v x) then { s with held := true }
  else if part then
    if s.idem f then
      match s.sbufRoom f with
      | .wait => { s with held := true }
      | .overflow n => s.trapFiring f { code := tcSbufOverflow, aux0 := f.site.holder.unit, aux1 := n }
      | .free =>
        let (t, dp) := match own with | some i => (i.tag, i.dep) | none => (f.tag, f.dep)
        let e : SbufEntry := { holder := f.site.holder, blk := f.site.blk, tag := t, dep := dp, acc := none, deliver := some d }
        s.modFab fun g => { g with sbuf := g.sbuf ++ [e] }
    else { s with delivs := s.delivs ++ [d] }
  else
    match s.closing? f with
    | none => s.trapFiring f { code := tcExitState, aux0 := f.tag.toNat }
    | some i =>
      if s.idem f && s.loading i then { s with held := true }
      else
        let mine (e : SbufEntry) : Bool := e.holder = i.holder && e.blk = i.blk && e.tag = i.tag && e.dep = i.dep
        let kept := (s.fab.sbuf.filter mine).filterMap fun e => e.deliver
        let sbuf := (s.fab.sbuf.filter fun e => !(mine e && e.deliver.isSome)).map fun e => if mine e then { e with commit := true } else e
        let s := (s.modInvoc i fun x => { x with closing := true }).modFab fun g => { g with sbuf := sbuf }
        { s with delivs := s.delivs ++ kept.map (fun e => { e with ready := d.ready }) ++ [d] }

/-- What R28 makes of a set that leaves a block: null and end-of-stream tokens are values, and a roll set raises BAR_STATE
(R202); slot b of RET is left out (R203). -/
def State.leaving (s : State) (h : Hdr) (f : Firing) (act : Firing → State) : State :=
  let g := { f with b := none }
  match g.kind true with
  | .roll => s.trapFiring f (barState 0 0 0 0)
  | .mixed sl => s.streamLen f sl 0 0
  | _ =>
    if h.pm ≠ .always && (f.p.map Tok.poi).getD false then s.poisonTrap f .p
    else if executes h.pm f.pred then act f else s

/-- The token that a set delivers under a tag. -/
def Firing.value (f : Firing) (blk ent : Nat) (t : DWord) (d : Nat) : Value :=
  { blk := blk, tag := t, dep := d, ent := ent,
    tok := (f.a.getD { tag := f.tag, dep := f.dep, data := 0, ty := .b32 }).retag t d }

/-- EXIT (R202). -/
def execExit (h : Hdr) (part : Bool) (ent : BitVec 4) (e : BitVec 4) (s : State) : Host.Outcome State Fault Refusal :=
  onFiring s fun f =>
    s.leaving h f fun f =>
      s.leave f part [f.value (s.exitBlock f.site.holder f.site.blk e.toNat) ent.toNat f.tag f.dep]

/-- CALL (R203): `fld` is F; a closing CALL also delivers the link. -/
def execCall (h : Hdr) (rx : BitVec 4) (fld : Bool) (part : Bool) (ent : BitVec 4) (e : BitVec 4) (s : State) :
    Host.Outcome State Fault Refusal :=
  onFiring s fun f =>
    s.leaving h f fun f =>
      match pushField f.tag f.dep (if fld then 1 else 0) 1 with
      | none => s.trapFiring f { code := tcTagDepth, aux0 := f.dep }
      | some (t, d) =>
        let callee := s.exitBlock f.site.holder f.site.blk e.toNat
        let base := ((s.inst? f.k f.v).map Inst.base).getD 0
        let link := (s.exitBlock f.site.holder f.site.blk rx.toNat - base) / 64
        let l : Value := { blk := callee, tag := t, dep := d, ent := 0,
                           tok := { tag := t, dep := d, data := BitVec.ofNat 32 link, ty := .n32 } }
        s.leave f part (f.value callee ent.toNat t d :: if part then [] else [l])

/-- RET (R203). A target whose header no page holds yet is held against ENT at the queue controller, once it is read. -/
def execRet (h : Hdr) (part : Bool) (ent : BitVec 4) (s : State) : Host.Outcome State Fault Refusal :=
  onFiring s fun f =>
    s.leaving h f fun f =>
      let y := (f.data .b).toNat
      let bad : State := s.trapFiring f { code := tcCallLink, aux0 := y, aux1 := ent.toNat }
      if f.dep < 1 then s.trapFiring f { code := tcTagDepth, aux0 := f.dep }
      else if (f.b.map Tok.poi).getD false then s.poisonTrap f .b
      else if (f.b.map fun t => t.nul || t.eos || t.rol).getD false then bad
      else match s.inst? f.k f.v with
        | none => bad
        | some i =>
          if y * 64 < i.blkoff || i.blkoff + i.blklen ≤ y * 64 then bad
          else
            let blk := i.base + y * 64
            let (t, d, _) := popField f.tag f.dep 1
            if ((s.peekHdr f.k blk).map fun w => decide (hdrNENT w < ent.toNat)).getD false then bad
            else s.leave f part [{ f.value blk ent.toNat t d with ret := true }]

/-! Channels, traps and returns (R204, R205). -/

/-- The barn, tile and channel that X[15:0] of SEND names for an agent of a barn; none where it names no barn (R204). -/
def State.sendDest (s : State) (k : Nat) (own : Option Nat) (x : Nat) : Option (Nat × Nat × Nat) :=
  (if bitsAt x 15 1 = 1 then own else some (s.physBarn k (bitsAt x 9 6))).map fun b => (b, bitsAt x 6 3, bitsAt x 0 6)

/-- CHANNEL (R214): barn, tile, channel, for an agent of a barn; with LOCAL = 1 the barn is the agent's own, 0xFF for one of none. -/
def chanCause (own : Option Nat) (x : Nat) : Cause :=
  { code := tcChannel, aux0 := if bitsAt x 15 1 = 1 then own.getD 0xFF else bitsAt x 9 6, aux1 := bitsAt x 6 3, aux2 := bitsAt x 0 6 }

/-- Latency of SEND from a barn, or from the I/O die, to a barn (R215). -/
def sendLat (own : Option Nat) (b : Nat) : Nat :=
  if own = some b then 8 else 20 + 16 * bounds ((own.map dieOf).getD ioDie) (dieOf b)

/-- SEND (R204). -/
def execSend (h : Hdr) (loc : Bool) (barn : BitVec 6) (tile : BitVec 3) (ch : BitVec 6) (s : State) :
    Host.Outcome State Fault Refusal :=
  onFiring s fun f =>
    s.fired { h := h, targets := [h.t0, h.t1], nullOut := true, clean := [.a] } f fun s =>
      let x := (if loc then 2 ^ 15 else 0) + barn.toNat * 2 ^ 9 + tile.toNat * 2 ^ 6 + ch.toNat
      match s.sendDest f.k f.site.holder.barn? x with
      | none => s.trapFiring f (chanCause f.site.holder.barn? x)
      | some (b, t, c) =>
        if s.tileOwner b t ≠ some f.k then s.trapFiring f (chanCause f.site.holder.barn? x)
        else if 16 ≤ s.chanCount b t (some c) then { s with held := true }
        else
          let k := f.result h false h.ty (f.data .a)
          (s.enqueueWord { barn := b, tile := t, ch := some c, k := f.k, tok := { k with pp := false, pv := false },
                           since := s.cyc + sendLat f.site.holder.barn? b }).emitAll f.site (sendLat f.site.holder.barn? b) k
            [h.t0, h.t1]

/-- TRAP (R205). -/
def execTrap (h : Hdr) (code : BitVec 16) (s : State) : Host.Outcome State Fault Refusal :=
  onFiring s fun f =>
    s.fired { h := h, targets := [h.t0, h.t1], nullOut := true } f fun s =>
      s.trapFiring f { code := tcUser, aux0 := code.toNat, aux1 := (f.data .a).toNat }

/-- ERET (R205, R423, R443). -/
def execEret (h : Hdr) (act : BitVec 2) (s : State) : Host.Outcome State Fault Refusal :=
  onFiring s fun f =>
    s.fired { h := h, targets := [h.t0, h.t1], nullOut := true } f fun s =>
      let w := f.data .a
      let k := f.result h false h.ty w
      match s.byTrapWord f.k w with
      | none =>
        if s.voided.contains (f.k, w) then
          ({ s with voided := s.voided.erase (f.k, w) }).emitAll f.site 1 k [h.t0, h.t1]
        else s.trapFiring f { code := tcEretState, aux0 := w.toNat }
      | some t =>
        let r := s.resolve t act.toNat (f.data .b) ((f.b.map Tok.poi).getD false)
        if act = 2 && t.v = f.v then r else r.emitAll f.site 1 k [h.t0, h.t1]

/-! Control registers (R206). -/

/-- The register that a number of CRRD and CRWR names; none for the read-only views. -/
def crReg (k n : Nat) : Option Reg :=
  if n = 0 then some (.flagLo k) else if n = 1 then some (.flagHi k)
  else if 0x10 ≤ n && n ≤ 0x1F then some (.amax k (n - 0x10))
  else if n = 0x40 then some (.stallim k) else if n = 0x41 then some (.trapch k)
  else if n = 0x42 then some (.codegen k) else none

/-- The value of a control register (R206, R452). -/
def State.crValue (s : State) (k v n : Nat) : Word :=
  match crReg k n with
  | some r => BitVec.ofNat 32 (s.reg r).toNat
  | none =>
    if n = 0x43 then BitVec.ofNat 32 s.cyc
    else if n = 0x44 then BitVec.ofNat 32 (s.cyc / 2 ^ 32)
    else
      let b := (((s.inst? k v).map fun (i : Inst) => (i.kbase.drop ((n - 0x20) / 2)).headD 0).getD 0).toNat
      BitVec.ofNat 32 (if n % 2 = 0 then b else b / 2 ^ 32)

/-- CRRD (R206). -/
def execCrrd (h : Hdr) (num : BitVec 12) (s : State) : Host.Outcome State Fault Refusal :=
  onFiring s fun f =>
    s.fired { h := h, targets := [h.t0, h.t1], lat := 2, nullOut := true } f fun s =>
      s.emitAll f.site 2 (f.result h false h.ty (s.crValue f.k f.v num.toNat)) [h.t0, h.t1]

/-- CRWR (R206, R9); a poisoned value raises POISON (R433). -/
def execCrwr (h : Hdr) (num : BitVec 12) (s : State) : Host.Outcome State Fault Refusal :=
  onFiring s fun f =>
    s.fired { h := h, targets := [h.t0, h.t1], lat := 2, nullOut := true, clean := [.a] } f fun s =>
      (match crReg f.k num.toNat with
        | some r => s.writeReg r ((f.data .a).setWidth 64)
        | none => s).emitAll f.site 2 (f.result h false h.ty (f.data .a)) [h.t0, h.t1]

/-! The Gong (R207, R453, R454). -/

/-- A raise of the Gong from a source. Raises of one cycle make one snapshot, which the lowest source names. -/
def State.gong (s : State) (src cause : Nat) : State :=
  let name (s : State) : State := (s.setField .gongCtl 8 2 src).setField .gongCtl 0 8 cause
  if s.regField .gongCtl 31 1 = 1 then
    { name ((s.setField .gongCtl 31 1 0).setReg .gongCyc (BitVec.ofNat 64 (s.cyc + 48))) with gongAt := some (s.cyc + 48) }
  else if s.gongAt = some (s.cyc + 48) then (if src < s.regField .gongCtl 8 2 then name s else s)
  else s.bumpSat .gongCtl 16 8

/-- GONG (R207): PRIV without permission; GONG_CYC[31:0] leaves after the snapshot has latched. -/
def execGong (h : Hdr) (cause : BitVec 8) (s : State) : Host.Outcome State Fault Refusal :=
  onFiring s fun f =>
    s.fired { h := h, targets := [h.t0, h.t1], lat := 64, nullOut := true } f fun s =>
      if s.regField .gongCtl (32 + f.k) 1 = 0 then s.trapFiring f { code := tcPriv, aux0 := cause.toNat }
      else
        let s := s.gong 0 cause.toNat
        s.emitAll f.site 65 (f.result h false h.ty (BitVec.ofNat 32 (s.reg .gongCyc).toNat)) [h.t0, h.t1]

/-! Code visibility (R208, R209). -/

/-- CODEPUB (R208): a release first; its effects follow at its response. `opnd` and `cmp` hold the range. -/
def execCodepub (h : Hdr) (sc : Scope) (t2 : Option Target) (bsel : BitVec 4) (disp : BitVec 9) (s : State) :
    Host.Outcome State Fault Refusal :=
  onFiring s fun f =>
    s.fired { memShape h t2 true with clean := [.b] } f fun s =>
      s.withFlat f bsel disp .read (f.data .b).toNat fun va =>
        s.issue { f.order sc false true with opnd := va, cmp := (f.data .b).toNat }

/-- Whether a loaded block of a context predates a code generation (R209). -/
def Loaded.stale (l : Loaded) (k gen : Nat) : Bool :=
  l.k = k && decide (1 ≤ (gen + 2 ^ 32 - l.codegen) % 2 ^ 32) && decide ((gen + 2 ^ 32 - l.codegen) % 2 ^ 32 < 2 ^ 31)

/-- FETCHSYNC (R209): stale bays and tiles of the context take no new invocations until they have fetched again. `opnd`
holds CTX_CODEGEN at the firing instant. -/
def execFetchsync (h : Hdr) (sc : Scope) (t2 : Option Target) (s : State) : Host.Outcome State Fault Refusal :=
  onFiring s fun f =>
    s.fired (memShape h t2 true) f fun s =>
      let gen := (s.reg (.codegen f.k)).toNat
      let mark (l : Loaded) : Loaded := if l.stale f.k gen then { l with refetch := true } else l
      (s.modFab fun g => { g with blocks := g.blocks.map mark }).issue { f.order sc true false with opnd := gen }

/-! Launches (R210 to R212). -/

/-- LAUNCH (R210): the record is read first; see the response of its access. -/
def execLaunch (h : Hdr) (sc : Scope) (t2 : Option Target) (bsel : BitVec 4) (disp : BitVec 9) (s : State) :
    Host.Outcome State Fault Refusal :=
  onFiring s fun f =>
    s.fired (memShape h t2 true) f fun s =>
      s.withRecord f bsel disp .read 256 fun va => s.issue { f.access .read .b32 sc with pieces := words va 64 }

/-- LQTAKE (R211, R335): it waits for a record of the queue; an unusable queue raises LAUNCH_FORMAT. -/
def execLqtake (h : Hdr) (t2 : Option Target) (lq : BitVec 6) (s : State) : Host.Outcome State Fault Refusal :=
  onFiring s fun f =>
    s.fired (memShape h t2 false) f fun s =>
      let usable := ((s.qdesc? f.k lq.toNat).map fun d => d.en && !d.direct).getD false
      if usable then s.issue { f.access (.claim lq.toNat) .b32 .sys with rel := true }
      else
        let at_ := s.regField (.schedQtab f.k) 0 60 + 32 * lq.toNat
        s.trapFiring f { code := tcLaunchFormat, aux0 := at_, aux1 := 0x09 }

/-- The status word of an instance (R332). -/
def Inst.status (i : Inst) : Word := BitVec.ofNat 32 (i.outc * 2 ^ 30 + i.tcode)

/-- KDONE (R212): the status word of a completed instance at once, else once it completes. -/
def execKdone (h : Hdr) (s : State) : Host.Outcome State Fault Refusal :=
  onFiring s fun f =>
    s.fired { h := h, targets := [h.t0, h.t1], lat := 20, nullOut := true } f fun s =>
      let n := (f.data .a).toNat
      match if n < 4096 then s.inst? f.k n else none with
      | none => s.trapFiring f { code := tcKernelState, aux0 := n }
      | some i =>
        if i.done then
          ({ s with insts := s.insts.filter fun x => !(x.k = f.k && x.v = n) }).emitAll f.site 20
            (f.result h false h.ty i.status) [h.t0, h.t1]
        else (s.modFab fun g => { g with waits := g.waits ++ [{ id := s.fresh, fire := f, k := f.k, why := .kdone n, since := s.cyc }] }).bumpFresh

end Sys2Proof.Machine
end

