-- ==== Sys2Proof/Machine/Perform.lean ====
section
/-! DEFINITION. How an access is translated and performed (R137 to R152, R164, R198 to R200, R264, R274 to R276), and the
host's share of device memory (R389 to R393). -/

namespace Sys2Proof.Machine

/-! Cache agents and host copies (R391, R393). -/

/-- The port of the cache agent that serves a host address (R393). -/
def State.cxlPort (s : State) (hpa : Nat) : Nat :=
  if s.cxl.contains 0 && s.cxl.contains 1 then bitsAt hpa 12 1 else (s.cxl.head?).getD 0

/-- The agent of a host line takes it, shared or with ownership; beyond 16,384 lines its least recently used one leaves. -/
def State.agentTake (s : State) (hpa : Nat) (own dirty : Bool) : State :=
  let p := s.cxlPort hpa
  let line := hpa / 64
  let old := s.agent.find? fun e => e.1 = p && e.2.1 = line
  let o := own || (old.map fun e => e.2.2.1).getD false
  let d := dirty || (old.map fun e => e.2.2.2).getD false
  let l := (s.agent.filter fun e => !(e.1 = p && e.2.1 = line)) ++ [(p, line, o, d)]
  { s with agent := if 16384 < (l.filter fun e => e.1 = p).length then dropFirst (fun e => e.1 = p) l else l }

/-- Whether the host holds a copy of the line of a device address (R391). -/
def State.hostHolds (s : State) (a : Nat) : Bool := s.snoop.contains (a / 64)

/-- Lines of device memory that the host holds must be back-invalidated before what follows at .sys (R137). -/
def State.busyLines (s : State) (k x n : Nat) : State :=
  { s with hostBusy := s.hostBusy ++ ((upFrom (x / 64) ((x + n + 63) / 64 - x / 64)).filter fun l => s.hostHolds (64 * l) && !s.hostBusy.contains (l, k)).map fun l => (l, k) }

/-! Tile tables (R275, R276). -/

/-- The descriptor entry that a tensor instruction names. -/
def Firing.descNo (f : Firing) : Nat :=
  match f.instr with
  | some (.ldt _ _ _ d) => d.toNat
  | some (.stt _ _ _ d) => d.toNat
  | some (.strm _ _ _ d) => d.toNat
  | some (.strmw _ _ _ _ d) => d.toNat
  | _ => 0

/-- A number from its digits over bases, the first innermost. -/
def mixed : List Nat → List Nat → Nat
  | d :: ds, b :: bs => d + b * mixed ds bs
  | _, _ => 0

/-- What a layout unit finds for a word. -/
inductive TileGot
  | at (pa : Nat)
  | table
  | readOnly (va : Nat)
  | noFrame (ttab tile : Nat)
  | other (g : UnitGot)
  deriving DecidableEq, Repr

/-- The entry of a tile that a port keeps (R276). -/
def State.tileKept (s : State) (port : Option Nat) (asid ttab tile : Nat) : Option Nat :=
  (s.tileEnts.find? fun e => some e.port = port && e.asid = asid && e.ttab = ttab && e.tile = tile).map TileEntry.entry

/-- A port keeps a tile's entry; beyond 64 the oldest leaves (R276, DESIGN CHOICE, log 7). -/
def State.keepTile (s : State) (port : Option Nat) (asid ttab tile e : Nat) : State :=
  match port with
  | none => s
  | some p =>
    let l := s.tileEnts.filter (fun x => !(x.port = p && x.asid = asid && x.ttab = ttab && x.tile = tile)) ++
      [{ port := p, asid := asid, ttab := ttab, tile := tile, entry := e }]
    { s with tileEnts := if 64 < (l.filter fun x => x.port = p).length then dropFirst (fun x => x.port = p) l else l }

/-- What a tile's entry gives a word at an offset within its frame. -/
def tileGot (frame ttab tile va off e : Nat) (write : Bool) : TileGot :=
  let pa := bitsAt e 0 44
  if bitsAt e 44 18 ≠ 0 then .table
  else if bitsAt e 63 1 = 0 then .noFrame ttab tile
  else if pa % frame ≠ 0 || reservedPa pa then .table
  else if write && bitsAt e 62 1 = 0 then .readOnly va
  else .at (pa + off)

/-- The frame address of a word behind a tile table (R276): the header is read, and the entry where the port does not keep
it; a write that the kept entry does not allow reads it again (R275). -/
def State.tileAt (s : State) (die k v : Nat) (w : TensWord) (write : Bool) (src : Source) : State × TileGot :=
  match tensorOf w.desc with
  | none => (s, .table)
  | some t =>
    match unitReadN die k v { tt := true } src 2 t.ttab 64 s with
    | (s, .denied) => (s, .table)
    | (s, .ok h _) =>
      let fs := recField h 2 1
      let frame := if fs = 0 then 2 ^ 16 else 2 ^ 21
      let te := (upto 4).map fun i => recField h (0x10 + 4 * i) 4
      let lb := t.ty.width
      if recField h 0 2 ≠ 0x7E1A || 1 < fs || recField h 3 13 ≠ 0 || (h.drop 0x20).any (· ≠ 0) || te.any (· = 0) ||
          nth te 0 * lb % 32 ≠ 0 || 8 * frame < te.foldl (· * ·) 1 * lb then (s, .table)
      else
        let nt := (upto 4).map fun i => (nth t.ext i + nth te i - 1) / nth te i
        let tile := mixed ((upto 4).map fun i => nth w.at_ i / nth te i) nt
        let off := mixed ((upto 4).map fun i => nth w.at_ i % nth te i) te * lb / 8
        let va := t.ttab + 64 + 8 * tile
        let kept := match s.tileKept (src.port) (s.asid k) t.ttab tile with
          | some e => (match tileGot frame t.ttab tile va off e write with | .at pa => some pa | _ => none)
          | none => none
        match kept with
        | some pa => (s, .at pa)
        | none =>
          match unitReadN die k v { tt := true } src 2 va 8 s with
          | (s, .denied) => (s, .table)
          | (s, .ok b _) =>
            match tileGot frame t.ttab tile va off (leNat b) write with
            | .at pa => (s.keepTile (src.port) (s.asid k) t.ttab tile (leNat b), .at pa)
            | g => (s, g)
          | (s, g) => (s, .other g)
    | (s, g) => (s, .other g)

/-! Translation of an access. -/

/-- Whether an access is a store that waits in a store buffer (R150). -/
def State.sbufOf (s : State) (id : Nat) : Option SbufEntry := s.fab.sbuf.find? fun e => e.acc = some id

/-- The number of the piece that an access translates next: for a buffered store any that has no place, else the one that
it performs next. -/
def State.nextPiece (s : State) (a : Access) : Option Nat :=
  if (s.sbufOf a.id).isSome then lowest (fun i => ((a.pieces.drop i).head?.map fun p => p.place.isNone).getD false) a.pieces.length
  else match (a.pieces.drop a.pos).head? with
    | some p => if p.place.isNone then some a.pos else none
    | none => none

/-- A piece gets its place, and reaches the bank or memory node there in cycle `cyc`. -/
def Access.placed (a : Access) (i : Nat) (st : Store) (x cyc : Nat) : Access :=
  match (a.pieces.drop i).head? with
  | some p => { a with pieces := putAt a.pieces i { p with place := some (st, x), got := cyc } }
  | none => a

/-- The place of the piece that an access performs next. -/
def Access.nextPlace (a : Access) : Option (Store × Nat) := (a.pieces.drop a.pos).head?.bind Piece.place

/-- Whether the store buffer lets an access be performed: a buffered store once its commit has reached it (R150, R202). -/
def State.committed (s : State) (a : Access) : Bool :=
  match s.sbufOf a.id with
  | none => true
  | some e => e.commit && !((s.fab.sbuf.takeWhile fun x => x.acc ≠ some a.id).any fun x =>
      x.holder = e.holder && x.blk = e.blk && x.tag = e.tag && x.dep = e.dep && x.acc.isSome)

/-- Whether the memory node of a device address has room in its queue of 256 (R274); a store that is not committed is not at
the node. -/
def State.nodeRoom (s : State) (a : Access) (x : Nat) : Bool :=
  !s.committed a || decide ((s.fab.accs.filter fun b => !b.done && s.committed b && match b.nextPlace with
    | some (.dev, y) => channelOf y = channelOf x
    | _ => false).length < 256)

/-- A translated piece leaves for its place; one for a full memory node is held at its port (R274). -/
def State.sendPiece (s : State) (a : Access) (i : Nat) (st : Store) (x : Nat) : State :=
  if st = .dev && !s.nodeRoom a x then s else s.modAcc a.id fun y => y.placed i st x s.cyc

/-- PAGE or PERM of an access (R152). -/
def permCause (cause va code : Nat) : Cause := { code := tcPerm, cause := cause, aux0 := va, aux1 := code }
def State.pageCause (s : State) (k cause va code size : Nat) : Cause :=
  { code := tcPage, cause := cause, aux0 := va, aux1 := s.asid k, aux2 := size * 256 + code }

/-- PAGE of an access whose translation failed at an address: behind a tile table its record holds TTAB and the tile number (R152,
R276; the tile stands in AUX1 beside the ASID, PRESUMED, log 34). -/
def State.faultCause (s : State) (a : Access) (va cause : Nat) (tile : Option Nat) : Cause :=
  match tile with
  | some t => { code := tcPage, cause := cause, aux0 := va, aux1 := t + s.asid a.k * 2 ^ 48, aux2 := a.bytes * 256 + a.kind.code }
  | none => s.pageCause a.k cause va a.kind.code a.bytes

/-- The index of the instruction that made an access. -/
def Origin.idx (o : Origin) : Nat :=
  match o with
  | .firing f => f.site.idx
  | .stream f _ => f.site.idx
  | .streamWrite f => f.site.idx
  | _ => 0xFF

/-- An access's page fault aborts its invocation; the entry keeps the record that a FAIL delivers (R152, R371, R372). -/
def State.abortFor (s : State) (i : Invoc) (a : Access) (at_ : Nat × Nat) (c : Cause) : State :=
  let mine (g : Gather) : Bool := g.fid = some at_ && g.why.isNone && g.k = i.k && g.v = i.v && g.blk = i.blk && g.tag = i.tag && g.dep = i.dep
  let s := s.abort i (some at_)
  { s with gathers := mapFirst mine (fun g => { g with why := some c, idx := a.origin.idx }) s.gathers }

/-- An access meets a page fault (R369, R371): its invocation is aborted, a PREFETCH is dropped, and any other waits. -/
def State.faulted (s : State) (a : Access) (va cause : Nat) (tile : Option Nat) (malf : Bool) : State :=
  let die := dieNo a.barn
  if a.kind = .prefetch then s.modAcc a.id fun x => { x with pos := x.pieces.length, done := true }
  else
    let i := s.idemInvoc? a.origin
    let (s, fid) := s.pageFault die a.k va cause tile a.kind.code malf i.isSome (srcCode a.barn)
    match i with
    | some i => s.abortFor i a (die, fid) (s.faultCause a va cause tile)
    | none => s.modAcc a.id fun x => { x with trans := .fault die fid }

/-- What a unit's outcome makes of an access that stands behind it. -/
def State.met (s : State) (a : Access) (va : Nat) (g : UnitGot) : State :=
  match g with
  | .ok _ _ => s
  | .denied =>
    if a.kind = .prefetch then s.modAcc a.id fun x => { x with pos := x.pieces.length, done := true }
    else s.accessTrap a (permCause (if windowOf va = .paged then 3 else 4) va a.kind.code)
  | .bad =>
    if a.kind = .prefetch then s.modAcc a.id fun x => { x with pos := x.pieces.length, done := true }
    else s.accessTrap a (s.pageCause a.k 2 va a.kind.code a.bytes)
  | .wait die fid =>
    if a.kind = .prefetch then s.modAcc a.id fun x => { x with pos := x.pieces.length, done := true }
    else match s.idemInvoc? a.origin with
    | some i =>
      s.abortFor i a (die, fid) (match s.pfaults.find? fun p => p.die = die && p.fid = fid with
        | some p => s.faultCause a (if p.tile.isSome then p.va else va) p.cause p.tile
        | none => s.faultCause a va 1 none)
    | none => s.modAcc a.id fun x => { x with trans := .fault die fid }
  | .ats => s.modAcc a.id fun x => { x with trans := .ats }

/-- The translation of one piece of an access. -/
def State.translatePiece (s : State) (a : Access) (i : Nat) : State :=
  let p := (a.pieces.drop i).headD { addr := 0, size := 0, mask := 0, data := 0 }
  let die := dieNo a.barn
  match a.area, a.tens with
  | .scratch, _ =>
    match s.scratchPlace a.k p.addr with
    | some x => s.sendPiece a i .scr x
    | none => s.accessTrap a (permCause 4 p.addr a.kind.code)
  | .weight, _ =>
    match s.weightPlace a.k (p.addr / 2 ^ 21) (p.addr % 2 ^ 21) with
    | some x => s.sendPiece a i .wbuf x
    | none => s.accessTrap a (permCause 4 p.addr a.kind.code)
  | .flat, some w =>
    match s.tileAt die a.k a.v w (a.kind = .write) a.source with
    | (s, .at pa) =>
      match physical pa with
      | some (st, x) => s.sendPiece a i st x
      | none => s
    | (s, .table) =>
      let f? := match a.origin with | .firing f => some f | .stream f _ => some f | .streamWrite f => some f | _ => none
      s.accessTrap a { code := tcTensorDesc, aux0 := (f?.map Firing.descNo).getD 0, aux1 := recField w.desc 0 1 }
    | (s, .readOnly va) => s.accessTrap a (permCause 3 va a.kind.code)
    | (s, .noFrame ttab tile) => s.faulted a ttab 0 (some tile) false
    | (s, .other g) => s.met a 0 g
  | .flat, none =>
    match s.translate die a.port a.k p.addr a.kind.need with
    | (s, .at st x) =>
      let s := if st = .host then s.agentTake x (a.kind.need.w) false else s
      if a.kind = .prefetch then s.modAcc a.id fun y => { y with pos := y.pieces.length, done := true }
      else s.sendPiece a i st x
    | (s, .denied) => s.met a p.addr .denied
    | (s, .absent 2 _) => s.met a p.addr .bad
    | (s, .absent c m) => s.faulted a p.addr c none m
    | (s, .needsAts _) =>
      match s.pfaults.find? fun q => !q.failed && q.k = a.k && q.cause = 1 && q.va / 4096 = p.addr / 4096 with
      | some q => s.met a p.addr (.wait q.die q.fid)
      | none => s.met a p.addr .ats

/-- Whether a unit runs a context: it is not saved, and a stop in progress has not frozen it there (R379). -/
def State.live (s : State) (k : Nat) (u : StopUnit) : Bool :=
  match s.ctxState k with
  | 0 => true
  | 1 => !(s.stops.any fun x => x.k = k && x.frozen.contains u)
  | _ => false

/-- Whether an access may leave its port: its context runs there, or the queue controller claims a direct launch (R379, R385,
R386). -/
def State.sends (s : State) (a : Access) : Bool :=
  s.live a.k .ports || (match a.origin with | .direct _ _ => true | _ => false)

/-- WALK_COMPLETE (R364, R365): access `n` of the fabric gets the translation of its next piece, or finds none. -/
def execWalkComplete (s : State) : Host.Outcome State Fault Refusal :=
  .next (match (s.fab.accs.drop s.arg.n).head? with
  | none => s
  | some a =>
    if a.waiting || a.done || a.trans ≠ .ready || !s.sends a then s
    else match s.nextPiece a with
      | some i => s.translatePiece a i
      | none => s)

/-- The range that an ATS answer of `2^size` bytes at a virtual address fills (R365): the page base, its size and frame. -/
def atsEntry (g : AtsGrant) (va : Nat) : Option (Nat × Nat × Nat) :=
  (atsSize g.size).map fun z => (va / z * z, z, g.hpa + (va / z * z - va / 2 ^ g.size * 2 ^ g.size))

/-- ATS_RESPONSE (R366): an answer for access `n`, or, with `flag`, for address `val` of slot `k` that a unit asked for. One
that grants nothing raises a page fault with cause 1. -/
def execAtsResponse (s : State) : Host.Outcome State Fault Refusal :=
  let a? := if s.arg.flag then none else (s.fab.accs.drop s.arg.n).head?
  let ask : Option (Nat × Nat × Nat × Need) :=
    if s.arg.flag then some (s.arg.u % 8, s.arg.k, s.arg.val.toNat, { r := true })
    else a?.bind fun a => if a.trans = .ats then (s.nextPiece a).bind fun i =>
      (a.pieces.drop i).head?.map fun p => (dieNo a.barn, a.k, p.addr, a.kind.need) else none
  .next (match ask with
  | none => s
  | some (die, k, va, need) =>
    let granted := match s.arg.grant with | some g => if g.r || g.w then some g else none | none => none
    match granted with
    | none =>
      match a? with
      | some a => ((s.modAcc a.id fun x => { x with trans := .ready })).faulted { a with trans := .ready } va 1 none false
      | none => (s.pageFault die k va 1 none 0 false false srcIo.code).1
    | some g =>
      let s := match atsEntry g va with
        | some (base, size, frame) =>
          if frame % size = 0 then
            let port : Option Nat := a?.bind fun a => a.port
            let asid : Nat := s.asid k
            let e : TlbEntry := { die := die, port := none, asid := asid, va := base, size := size, frame := frame, host := true, r := g.r, w := g.w, x := false, tt := false }
            s.tlbFill port e
          else s
        | none => s
      match a? with
      | none => s
      | some a =>
        match s.nextPiece a with
        | none => s
        | some i =>
          let s := s.modAcc a.id fun x => { x with trans := .ready }
          if grants need g.r g.w false false then
            let hpa := g.hpa + va % 2 ^ g.size
            let s := s.agentTake hpa need.w false
            if a.kind = .prefetch then s.modAcc a.id fun y => { y with pos := y.pieces.length, done := true }
            else s.sendPiece a i .host hpa
          else s.met { a with trans := .ready } va .denied)

/-! Performing. -/

/-- What performing a piece gives: the answer with its poison, a wait, or a trap. -/
inductive Done
  | go (s : State) (resp : Nat) (poi : Bool)
  | wait
  | trap (c : Cause)

/-- The value of an atomic (R146) from the old one, with its flags by lane. -/
def atomicValue (op : AtOp) (t : Ty) (n old x cmp : Nat) : Nat × List Nat :=
  let w := 8 * n
  let signed := t = .i32
  let less := if signed then decide (signedOf x w < signedOf old w) else decide (x < old)
  match op with
  | .add => ((old + x) % 2 ^ w, [])
  | .min => (if less then x else old, [])
  | .max => (if less || x = old then old else x, [])
  | .and => (old &&& x, [])
  | .or => (old ||| x, [])
  | .xor => (old ^^^ x, [])
  | .swap => (x, [])
  | .cas => (if old = cmp then x else old, [])
  | .fadd rm =>
    let r := (upto t.lanes).map fun i =>
      roundLane (Val.add rm (laneValue t (bitsAt old (t.width * i) t.width)) (laneValue t (bitsAt x (t.width * i) t.width)))
        (fmtOf t) rm false
    (packLanes t.width (r.map Prod.fst), r.map Prod.snd)

/-- Replaces the bits of a mask in a location of `n` bytes. -/
def State.mergeBits (s : State) (st : Store) (a n mask data : Nat) : State :=
  let old := s.readN st a n
  s.writeN st a n (old - (old &&& mask) + (data &&& mask))

/-- The buffered bytes of an invocation's own stores over a value read from memory (R150). -/
def overlay (st : Store) (a n : Nat) : List Piece → Nat → Nat
  | [], v => v
  | p :: r, v =>
    overlay st a n r (match p.place with
      | some (pst, pa) =>
        if pst = st then
          (upto n).foldl (fun v i =>
            if pa ≤ a + i && a + i < pa + p.size then
              let m := bitsAt p.mask (8 * (a + i - pa)) 8
              let d := bitsAt p.data (8 * (a + i - pa)) 8
              let o := bitsAt v (8 * i) 8
              v - o * 2 ^ (8 * i) + (o - (o &&& m) + (d &&& m)) * 2 ^ (8 * i)
            else v) v
        else v
      | none => v)

/-- The stores of an access's own invocation that stand in the store buffer. -/
def State.ownStores (s : State) (i : Invoc) : List Access :=
  s.fab.accs.filter fun b => match s.sbufOf b.id with
    | some e => e.holder = i.holder && e.blk = i.blk && e.tag = i.tag && e.dep = i.dep
    | none => false

/-- Whether two byte ranges of one store meet. -/
def Piece.meets (p : Piece) (st : Store) (a n : Nat) : Bool :=
  match p.place with
  | some (pst, pa) => pst = st && decide (pa < a + n) && decide (a < pa + p.size)
  | none => false

/-- The bytes of a buffered piece that a read at `x` takes from the buffer where the device may choose: bit 16 `n` + i of the
choice stands for byte i of the read (DESIGN CHOICE, log 33). -/
def Piece.chosen (c n x : Nat) (p : Piece) : Piece :=
  match p.place with
  | none => p
  | some (_, y) =>
    { p with mask := (upto p.size).foldl (fun m j =>
        if x ≤ y + j && bitsAt c (16 * n + (y + j - x)) 1 = 1 then m + bitsAt p.mask (8 * j) 8 * 2 ^ (8 * j) else m) 0 }

/-- A read of an idempotent block with its invocation's buffered bytes (R150): a store that the read comes after by a chain
of tokens gives its bytes; each byte of another comes from the buffer or from memory, as the device chooses. -/
def State.readOwn (s : State) (a : Access) (st : Store) (x n v : Nat) (poi : Bool) : Option (State × Nat × Bool) :=
  match s.idemInvoc? a.origin with
  | none => some (s, v, poi)
  | some i =>
    let after := (a.origin.firing?.map Firing.after).getD []
    let own := s.ownStores i
    if own.any fun b => after.contains b.id && b.pieces.any fun p => p.place.isNone then none
    else
      let near := own.filter fun b => b.pieces.any fun p => p.meets st x n
      let given := (near.zip (upto near.length)).map fun (b, j) =>
        (b.poi, if after.contains b.id then b.pieces else b.pieces.map (Piece.chosen s.choice j x))
      let poi := poi || given.any fun g => g.1 && g.2.any fun p => p.mask ≠ 0 && p.meets st x n
      some (if near.all fun b => after.contains b.id then s else s.chose, overlay st x n (given.flatMap Prod.snd) v, poi)

/-- The barrier object at a place: PEND, SINKS, ARR, GEN and STATE (R198). -/
structure Bar where
  pend  : Nat
  sinks : Nat
  arr   : Nat
  gen   : Nat
  st    : Nat
  deriving DecidableEq, Repr

def State.bar (s : State) (st : Store) (x : Nat) : Bar :=
  { pend := s.readN st x 8, sinks := s.readN st (x + 8) 4, arr := s.readN st (x + 0xC) 4, gen := s.readN st (x + 0x10) 2,
    st := s.readN st (x + 0x12) 1 }

def State.setBar (s : State) (st : Store) (x : Nat) (b : Bar) : State :=
  s.writeB st x (leBytes 8 b.pend ++ leBytes 4 b.sinks ++ leBytes 4 b.arr ++ leBytes 2 b.gen ++ leBytes 1 b.st)

def Bar.armed (b : Bar) : Bool := b.st % 2 = 1
def Bar.done (b : Bar) : Bool := b.st / 2 % 2 = 1
def Bar.failed (b : Bar) : Bool := b.st / 4 % 2 = 1

/-- A barrier is complete once its arrivals and its charges are (R200). -/
def Bar.settle (b : Bar) : Bar :=
  if b.armed && !b.done && b.arr = b.sinks && b.pend = 0 then { b with st := b.st ||| 2 } else b

/-- An operation of R200 on a barrier at virtual address `va`. -/
def barrierOp (s : State) (kind : AccKind) (va : Nat) (st : Store) (x : Nat) : Done :=
  let b := s.bar st x
  let bad : Done := .trap (barState va b.sinks b.arr b.st)
  match kind with
  | .barInit n =>
    if b.pend ≠ 0 || (b.armed && !b.done) || n = 0 || 2 ^ 24 < n then bad
    else .go (s.setBar st x { b with arr := 0, sinks := n, gen := (b.gen + 1) % 2 ^ 16, st := 1 }) 0 false
  | .arrive =>
    if !b.armed || b.done || b.arr = b.sinks then bad
    else .go (s.setBar st x { b with arr := b.arr + 1 }.settle) 0 false
  | .charge n =>
    if !b.armed || b.done then bad else .go (s.setBar st x { b with pend := (b.pend + n) % 2 ^ 64 }) 0 false
  | _ =>
    if !b.armed then bad
    else if !b.done then .wait
    else if b.failed then .trap { code := tcBarFault, aux0 := va }
    else .go s b.gen false

/-- Whether a read takes poison as a trap: a record read (R185, R214). -/
def Access.strict (a : Access) : Bool :=
  match a.kind, a.origin with
  | .claim _, _ => true
  | .charge _, _ => true
  | _, .firing f => f.readsRecord
  | _, .core _ _ _ => true
  | _, _ => false

/-- Whether a piece is an operand that is read before the access itself: the granule of ATCAS64 (R146), the record words
of an engine command. -/
def Access.operand (a : Access) : Bool :=
  match a.kind with
  | .atomic .cas _ => a.pieces.length = 2 && a.pos = 0
  | .charge _ => decide (a.pos + 1 < a.pieces.length)
  | _ => false

/-- Performs one piece at its place as one event. -/
def State.performPiece (s : State) (a : Access) (p : Piece) (st : Store) (x : Nat) : Done :=
  let g := x / 16
  let read (s : State) : Done :=
    let poi := s.poisonIn st x p.size
    if poi && (a.strict || a.operand) then .trap { code := tcPoison, aux0 := p.addr }
    else match s.readOwn a st x p.size (s.readN st x p.size) poi with
      | none => .wait
      | some (s, v, poi) => .go s v poi
  if a.operand then read s
  else match a.kind with
  | .read =>
    if st = .scr && a.area = .scratch then
      if a.nb then
        if s.full g then read (if a.clr then s.setFull g false else s) else .go s 0 false
      else if a.wf && !s.full g then .wait
      else read (if a.clr then s.setFull g false else s)
    else read s
  | .claim _ => read s
  | .write =>
    if a.once && s.full g then .trap { code := tcOnceViolation, aux0 := p.addr, aux1 := 1 }
    else
      let s := s.mergeBits st x p.size p.mask p.data
      let s := if a.poi then s.setPoison st x true else s
      let s := if a.once then s.setFull g true else s
      .go (if st = .dev && a.sc ≠ .sys && s.hostHolds x then { s with hostBusy := s.hostBusy ++ [(x / 64, a.k)] } else s) 0 false
  | .atomic op t =>
    if s.poisonIn st x p.size then .trap { code := tcPoison, aux0 := p.addr }
    else
      let old := s.readN st x p.size
      let gran := ((a.pieces.head?.bind Piece.resp)).getD 0
      let two := a.pieces.length = 2
      let r := atomicValue op t p.size old (if two then gran / 2 ^ 64 else a.opnd) (if two then gran % 2 ^ 64 else a.cmp)
      .go ((s.writeN st x p.size r.1).raiseLanes a.k 0 r.2) old false
  | .prefetch => .go s 0 false
  | .presence set clr once test =>
    if test then .go s (if s.full g then 1 else 0) false
    else if set && once && s.full g then .trap { code := tcOnceViolation, aux0 := p.addr, aux1 := 1 }
    else .go (if set then s.setFull g true else if clr then s.setFull g false else s) 0 false
  | .fetch => read s
  | k => barrierOp s k p.addr st x

/-- Whether the host's copy of a line must first be back-invalidated (R137, R391). -/
def State.mustInvalidate (s : State) (a : Access) (st : Store) (x : Nat) : Bool :=
  st = .dev && s.hostHolds x && (a.kind.code = 2 || (a.kind = .write && a.sc = .sys))

/-- The rank of the port by which an access reaches a slice (R264). -/
def Access.portRank (a : Access) (slice : Nat) : Nat :=
  match a.origin.firing? with
  | some f => if f.site.holder.barnNo ≠ slice then 3 else match f.site.holder with | .tile _ _ => 0 | _ => 1
  | none => if a.origin.isCore && a.barn = slice then 2 else 3

/-- Whether the next piece of an access reached its bank before that of another: by cycle, then by port, then by issue (R264). -/
def Access.before (a b : Access) : Bool :=
  let key (x : Access) : Nat × Nat :=
    match (x.pieces.drop x.pos).head? with
    | some p => (8 * p.got + (match p.place with | some (.scr, y) => x.portRank (y / 2 ^ 22) | _ => 0), x.id)
    | none => (0, x.id)
  decide ((key a).1 < (key b).1) || ((key a).1 = (key b).1 && decide ((key a).2 < (key b).2))

/-- Whether the next piece of an access stands at a bank. -/
def Access.atBank (a : Access) (bank : Nat × Nat) : Bool :=
  !a.done && match a.nextPlace with | some (.scr, y) => bankAt y = bank | _ => false

/-- What R137, R138, R150, R268 and R391 ask before the next piece of an access is performed at its place. -/
def State.mayServe (s : State) (a : Access) (st : Store) (x : Nat) : Bool :=
  !a.waiting && !a.done && a.trans = .ready && s.mayPerform a && s.committed a && !s.mustInvalidate a st x && !s.scrubbing st x &&
    !(a.rel && a.sc = .sys && s.hostBusy.any fun h => h.2 = a.k)

/-- Whether a `.wf` load has its place in the wait list of its bank: of 64 that wait, later ones stay at the bank's input; and
the waiting loads of a granule are served in their order of arrival (R144). -/
def State.listTurn (s : State) (a : Access) (x : Nat) : Bool :=
  let ahead := s.fab.accs.filter fun b => b.wf && b.before a && b.atBank (bankAt x)
  !a.wf || (decide (ahead.length < 64) && !(ahead.any fun b => match b.nextPlace with | some (_, y) => y / 16 = x / 16 | none => false))

/-- Whether a bank serves the next piece of an access now: the oldest request that waits for the bank comes first (R264). A
`.wf` load of an empty granule waits in the list, not for the bank. -/
def State.bankTurn (s : State) (a : Access) (st : Store) (x : Nat) : Bool :=
  st ≠ .scr || (s.listTurn a x && !(s.fab.accs.any fun b => b.id ≠ a.id && b.before a && b.atBank (bankAt x) && match b.nextPlace with
    | some (su, y) => s.mayServe b su y && !(b.wf && !(s.full (y / 16) && s.listTurn b y))
    | none => false))

/-- Performs the next piece of access `n` when it stands in a store that the caller serves. -/
def State.performNext (s : State) (n : Nat) (serves : Store → Bool) : State :=
  match (s.fab.accs.drop n).head? with
  | none => s
  | some a =>
    match (a.pieces.drop a.pos).head? with
    | none => s
    | some p =>
      match p.place with
      | none => s
      | some (st, x) =>
        if !serves st || !s.mayServe a st x || !s.bankTurn a st x then s
        else
          let s := s.eccAt st x a.k
          let pv := if a.nb && a.kind = .read && s.full (x / 16) then 1 else a.flags
          match s.performPiece a p st x with
          | .wait => s
          | .trap c => s.accessTrap a c
          | .go s v poi =>
            let s := if st = .host then s.agentTake x a.kind.need.w (a.kind.code ≠ 0) else s
            let s := if st = .dev then s.countUp (1000 + x / 2 ^ 31) 1 else s
            (s.moved a.k a.v st p.size).modAcc a.id fun y =>
              { y with pos := y.pos + 1, done := decide (y.pieces.length ≤ y.pos + 1), flags := pv,
                       pieces := putAt y.pieces y.pos { p with resp := some v, poi := poi } }

/-- MEM_NODE_REQUEST (R274): the memory node of its line, or the CXL cache agent of its host line, performs the next piece
of access `n`. -/
def execMemNodeRequest (s : State) : Host.Outcome State Fault Refusal :=
  .next (s.performNext s.arg.n fun st => st = .dev || st = .host)

/-- BANK_REQUEST (R264): a bank performs the next piece of access `n`; scratch and weight addresses need no walk. -/
def execBankRequest (s : State) : Host.Outcome State Fault Refusal :=
  let s' : State := match (s.fab.accs.drop s.arg.n).head? with
    | some a =>
      let win : Bool := match (a.pieces.drop a.pos).head? with
        | some p => windowOf p.addr ≠ Window.paged && windowOf p.addr ≠ Window.bad
        | none => false
      if (a.area ≠ .flat || (a.tens.isNone && win)) && !a.waiting && !a.done && s.sends a then
        match s.nextPiece a with | some i => s.translatePiece a i | none => s
      else s
    | none => s
  .next (s'.performNext s'.arg.n fun st => st = .scr || st = .wbuf)

/-- BARWAIT_SERVE (R200): the node examines the barrier of BARWAIT `n` again after a write. -/
def execBarwaitServe (s : State) : Host.Outcome State Fault Refusal :=
  .next (match (s.fab.accs.drop s.arg.n).head? with
  | some a => if a.kind = .barWait then s.performNext s.arg.n fun _ => true else s
  | none => s)

/-! The host's access to device memory (R390 to R393). -/

/-- The device address that a host address names through the committed decoder of a port (R390): ways, granularity. -/
def State.decoded (s : State) (port hpa : Nat) : Option Nat :=
  match s.decoders.find? fun d => d.1 = port with
  | some (_, ways, gran) =>
    let a := if ways = 2 then hpa / (2 * gran) * gran + hpa % gran else hpa
    if a < 2 ^ 40 then some a else none
  | none => none

/-- DECODER_COMMIT (R390): port `u`, ways `n`, granularity `m` bytes, size log2 `j`. A setting that is not accepted fails:
nothing is committed. -/
def execDecoderCommit (s : State) : Host.Outcome State Fault Refusal :=
  let ok := s.arg.j = 40 && ((s.arg.n = 2 && [256, 512, 1024, 2048, 4096].contains s.arg.m) || (s.arg.n = 1 && s.arg.u = 0))
  .next (if ok then
    { s with decoders := (s.decoders.filter fun d => d.1 ≠ s.arg.u && !(s.arg.n = 1 && d.2.1 = 1)) ++ [(s.arg.u, s.arg.n, s.arg.m)] }
  else s)

/-- Puts the 64 bytes of a line under a byte mask. -/
def lineBytes (d m : Nat) (old : List Byte) : List Byte :=
  (upto 64).map fun i => if bitsAt m i 1 = 1 then BitVec.ofNat 8 (bitsAt d (8 * i) 8) else (old.drop i).headD 0

/-- The copy of a line that the host is given (R391, R393). -/
def State.hostGets (s : State) (line : Nat) : State :=
  { s with hostCopy := (s.hostCopy.filter fun c => c.1 ≠ line) ++ [(line, BitVec.ofNat 512 (s.readN .dev (64 * line) 64))] }

/-- The host's copy of a line goes. -/
def State.hostDrops (s : State) (line : Nat) : State :=
  { s with snoop := s.snoop.filter (· ≠ line), hostCopy := s.hostCopy.filter (fun c => c.1 ≠ line)
           hostBusy := s.hostBusy.filter fun h => h.1 ≠ line }

/-- BACK_INVALIDATE (R391, R137): the host's copy of line `n` goes. Its dirty data comes back in `data`, and the bytes that the
host wrote are those of `val`: its writes reach the line then, over every byte that it wrote and no other (R285, R293). -/
def execBackInvalidate (s : State) : Host.Outcome State Fault Refusal :=
  let a := 64 * s.arg.n
  .next (if s.snoop.contains s.arg.n then
    let s' := match s.arg.data with
      | some d => s.writeB .dev a (lineBytes d.toNat s.arg.val.toNat (s.readB .dev a 64))
      | none => s
    s'.hostDrops s.arg.n
  else s)

/-- HOST_MEM_ACCESS (R390, R391): port `u`, host address `val`, operation `hostOp`. A read grants the line with its value, which
the host's loads of it return (R293); while the snoop filter is full the least recently granted line must first be back-invalidated. -/
def execHostMemAccess (s : State) : Host.Outcome State Fault Refusal :=
  .next (match s.decoded s.arg.u s.arg.val.toNat with
  | none => s
  | some a =>
    let line := a / 64
    match s.arg.hostOp with
    | .read _ =>
      if 4194304 ≤ s.snoop.length && !s.snoop.contains line then s
      else ({ s with snoop := (s.snoop.filter (· ≠ line)) ++ [line] }).hostGets line
    | .write d m =>
      let s := s.writeB .dev (64 * line) (lineBytes d.toNat m.toNat (s.readB .dev (64 * line) 64))
      if s.snoop.contains line then s.hostGets line else s
    | .flush => s.hostDrops line)

/-- HOST_APERTURE_ACCESS (R389, R392): with `flag` through BAR4, else BAR2, the 4 bytes at offset `n`; byte enables `m`; a
write carries `val` and has `j` = 1. A disabled aperture and the frame pools take no write; a unit being scrubbed waits. -/
def execHostApertureAccess (s : State) : Host.Outcome State Fault Refusal :=
  let off := s.arg.n / 4 * 4
  let en := s.regField .hostApctl (if s.arg.flag then 1 else 0) 1 = 1
  let st : Store := if s.arg.flag then .wbuf else .scr
  let pool := !s.arg.flag && decide (0x300000 ≤ off % 2 ^ 22)
  let mask := (upto 4).foldl (fun m i => if bitsAt s.arg.m i 1 = 1 then m + 0xFF * 2 ^ (8 * i) else m) 0
  .next (if !en || pool || s.arg.j ≠ 1 || s.scrubbing st off then s else s.mergeBits st off 4 mask (s.arg.val.toNat % 2 ^ 32))

/-- BAR_ATOMIC_REQUEST (R388): completes with Unsupported Request; nothing changes. -/
def execBarAtomicRequest (s : State) : Host.Outcome State Fault Refusal := .next s

/-- HOST_SNOOP (R393): the agent of port `u` gives up line `n`, or with no `flag` keeps it shared; its dirty data goes
with the answer. A line that no agent holds any more may then be written by the host: `data` under the byte mask `val` (R285,
R289). -/
def execHostSnoop (s : State) : Host.Outcome State Fault Refusal :=
  let mine (e : Nat × Nat × Bool × Bool) : Bool := e.1 = s.arg.u && e.2.1 = s.arg.n
  let agent := if s.arg.flag then s.agent.filter fun e => !mine e
               else s.agent.map fun e => if mine e then (e.1, e.2.1, false, false) else e
  let s : State := { s with agent := agent }
  .next (match s.arg.data with
  | some d =>
    if s.agent.any fun e => e.2.1 = s.arg.n then s
    else s.writeB .host (64 * s.arg.n) (lineBytes d.toNat s.arg.val.toNat (s.readB .host (64 * s.arg.n) 64))
  | none => s)

/-- CXL_PORT_TRAINED (R393): port `u` enters, or with no `flag` leaves, the trained state. Lines of the agents go to the
agents that now serve them. -/
def execCxlPortTrained (s : State) : Host.Outcome State Fault Refusal :=
  let l := if s.arg.flag then (if s.cxl.contains s.arg.u then s.cxl else insNat s.cxl s.arg.u) else s.cxl.filter (· ≠ s.arg.u)
  .next { s with cxl := l, agent := [] }

end Sys2Proof.Machine
end

