-- ==== Sys2Proof/Machine/Stream.lean ====
section
/-! DEFINITION. The nodes that consume streams: SRED and SSCAN (R165), SZIP (R166), the row statistics (R168), RDLY
(R169), and RREL (R170). A token whose turn has not come waits as a set that does not fire. -/

namespace Sys2Proof.Machine

/-- Bits of a lane index: log2 of the lanes of a type. -/
def logLanes (t : Ty) : Nat := Nat.log2 t.lanes

/-- The element types of the results of SRED and SSCAN (R165). -/
def reduceTy (t : Ty) : Ty := if t.isFloat then .f32 else if t.isSigned then .i32 else .n32

/-- One element added to a running f32 value, or its square, rounded once (R59, R165). -/
def addElem (acc : Word) (e : Val) (ops : Bool) (rm : Rnd) : Nat × Nat :=
  roundLane (Val.add rm (Fmt.f32.value acc.toNat) (if ops then Val.mul e e else e)) .f32 rm false

/-- Element `k` of a token added to the accumulators of a stream (R165). -/
def Stream.accumulate (x : Stream) (t : Ty) (ops : Bool) (rm : Rnd) (d : Word) (k : Nat) : Stream × Nat :=
  if t.isFloat then
    let r := addElem x.facc (laneVal t d k) ops rm
    ({ x with facc := BitVec.ofNat 32 r.1 }, r.2)
  else
    let e := laneInt t d k
    ({ x with iacc := x.iacc + (if ops then e * e else e) }, 0)

/-- Reduce of R165: the identity for floats, WrapInt or SatInt into 32 bits for integers. -/
def Stream.reduce (x : Stream) (t : Ty) (sat : Bool) : Nat × Nat :=
  if t.isFloat then (x.facc.toNat, 0) else reduceInt x.iacc 32 t.isSigned sat

/-- The lanes `k` to `k + n - 1` of a token, each accumulated and then sent on as `send` says. -/
def scanLanes (t : Ty) (ops : Bool) (rm : Rnd) (d : Word) (kctx : Nat) (send : Stream → Nat → State → State) :
    Nat → Nat → Stream → State → Stream × State
  | 0, _, x, s => (x, s)
  | n + 1, k, x, s =>
    let (x, fl) := x.accumulate t ops rm d k
    scanLanes t ops rm d kctx send n (k + 1) x (send x k (s.raiseFlags kctx 0 fl))

/-- A meaning of a node that takes the tokens of one stream in slot a, in their turns: `token` acts on a data or null
token, `finish` on the marker. -/
def consume (s : State) (h : Hdr) (w : Nat) (lat : Nat) (token : Firing → DWord → Nat → Nat → Stream → State → State)
    (finish : Firing → DWord → Nat → Nat → Stream → State → State) : Host.Outcome State Fault Refusal :=
  onFiring s fun f =>
    match f.kind false with
    | .roll => s.emitAll f.site lat (f.marker h false false false true) [h.t0, h.t1]
    | k =>
      match s.turn f [.a] w with
      | .wait => { s with held := true }
      | .trap c => s.trapFiring f c
      | .go p dp j x => if k = .eos then finish f p dp j x s else token f p dp j x s

/-- A result of a stream node for a parent's tag. -/
def Firing.streamResult (f : Firing) (p : DWord) (dp : Nat) (ty : Ty) (d : Nat) (poi : Bool) (after : List Nat := []) : Tok :=
  { tag := p, dep := dp, data := BitVec.ofNat 32 d, ty := ty, poi := poi || f.poi false, after := (after ++ f.after).eraseDups }

/-- What a stream's results carry of every token taken so far: poison, and the stores that they come after. -/
def Stream.taint (x : Stream) (f : Firing) : Stream :=
  { x with poi := x.poi || ((f.a.map fun t => t.poi && !t.nul).getD false), after := (x.after ++ f.after).eraseDups }

/-- SRED (R165). -/
def execSred (h : Hdr) (sat : Bool) (rm : Rnd) (ops : Bool) (sw : BitVec 5) (s : State) :
    Host.Outcome State Fault Refusal :=
  consume s h (sw.toNat + 1) 4
    (fun f _ _ j x s =>
      let x := { x.taint f with next := j + 1, since := s.cyc }
      if (f.a.map Tok.nul).getD false then s.putStream x
      else
        let (x, s) := scanLanes h.ty ops rm (f.data .a) f.k (fun _ _ s => s) h.ty.lanes 0 x s
        s.putStream x)
    (fun f p dp _ x s =>
      let r := x.reduce h.ty sat
      ((s.raiseFlags f.k 0 r.2).dropStream f.site p dp).emitAll f.site 4
        (f.streamResult p dp (reduceTy h.ty) r.1 x.poi x.after) [h.t0, h.t1])

/-- SSCAN (R165): one result for each element, in a field of width SW + log2 N; R254 holds a token whose last result would
run 64 ahead. -/
def execSscan (h : Hdr) (sat : Bool) (rm : Rnd) (ops : Bool) (sw : BitVec 5) (s : State) :
    Host.Outcome State Fault Refusal :=
  let n := h.ty.lanes
  let w := sw.toNat + 1 + logLanes h.ty
  consume s h (sw.toNat + 1) 4
    (fun f p dp j x s =>
      if 44 < dp + w then s.trapFiring f { code := tcTagDepth, aux0 := dp, aux1 := w }
      else if s.windowFull f.site p dp w (n * j + n - 1) then { s with held := true }
      else
        let x := { x.taint f with next := j + 1, since := s.cyc }
        if (f.a.map Tok.nul).getD false then
          foldState (fun s k => s.emitAll f.site 4
            (({ f.streamResult p dp (reduceTy h.ty) 0 x.poi x.after with nul := true }).under p dp w (n * j + k)) [h.t0, h.t1])
            (s.putStream x) (upto n)
        else
          let (x, s) := scanLanes h.ty ops rm (f.data .a) f.k (fun x k s =>
            let r := x.reduce h.ty sat
            (s.raiseFlags f.k 0 r.2).emitAll f.site 4
              ((f.streamResult p dp (reduceTy h.ty) r.1 x.poi x.after).under p dp w (n * j + k)) [h.t0, h.t1]) n 0 x s
          s.putStream x)
    (fun f p dp j _ s =>
      if 44 < dp + w then s.trapFiring f { code := tcTagDepth, aux0 := dp, aux1 := w }
      else
        (s.dropStream f.site p dp).emitAll f.site 4
          (({ f.streamResult p dp (reduceTy h.ty) 0 false with eos := true }).under p dp w (n * j)) [h.t0, h.t1])

/-! SZIP. -/

/-- The marker of one stream meets a data token of the other under `.trunc` (R166): the marker of index `n` leaves, the
longer stream's tokens from `n` on are discarded, and the parent is recorded until its marker has been discarded. -/
def truncate (s : State) (h : Hdr) (f : Firing) (w : Nat) (longer : Slot) (p : DWord) (dp j : Nat) (x : Stream) : State :=
  let later (y : PSet) : Bool := y.site = f.site && match y.tok? longer with
    | some t => !t.rol && fieldMeets p dp w (fun i => decide (j < i)) t.tag t.dep
    | none => false
  let ended := s.fab.sets.any fun y => later y && ((y.tok? longer).map Tok.eos).getD false
  let s := s.modFab fun g => { g with sets := g.sets.filter fun y => !later y }
  let s := s.emitAll f.site 1 { f.marker h false false true false with poi := false } [h.t0, h.t1]
  if ended then s.dropStream f.site p dp else s.putStream { x with trunc := some j, since := s.cyc }

/-- SZIP (R166). -/
def execSzip (h : Hdr) (trunc : Bool) (sw : BitVec 5) (s : State) : Host.Outcome State Fault Refusal :=
  let w := sw.toNat + 1
  onFiring s fun f =>
    match f.kind false with
    | .roll => s.emitAll f.site 1 (f.marker h false false false true) [h.t0, h.t1]
    | k =>
      let cut := match k with | .mixed _ => trunc | _ => false
      match s.turn f (if cut then [] else [.a, .b]) w with
      | .wait => { s with held := true }
      | .trap c => s.trapFiring f c
      | .go p dp j x =>
        let next := fun (s : State) => s.putStream { x with next := j + 1, since := s.cyc }
        match k with
        | .eos => (s.dropStream f.site p dp).emitAll f.site 1 (f.marker h false false true false) [h.t0, h.t1]
        | .mixed sl =>
          if !trunc then s.streamLen f sl j x.next
          else if 4 ≤ (s.fab.streams.filter fun y => y.site = f.site && y.trunc.isSome).length then { s with held := true }
          else truncate s h f w (if sl = .a then .b else .a) p dp j x
        | .nul => (next s).emitAll f.site 1 (f.marker h false true false false) [h.t0, h.t1]
        | _ =>
          ((next s).emit f.site h.t0 1 (f.result h false h.ty (f.data .a))).emit f.site h.t1 1
            (f.result h false h.ty (f.data .b))

/-! Row statistics. -/

/-- What a row node keeps of a row: `one` takes the running value and an element to the next value and its flags. -/
def rowLanes (t : Ty) (d : Word) (one : Word → Val → Nat × Nat) (kctx : Nat) : Nat → Nat → Word → State → Word × State
  | 0, _, acc, s => (acc, s)
  | n + 1, k, acc, s =>
    let r := one acc (laneVal t d k)
    rowLanes t d one kctx n (k + 1) (BitVec.ofNat 32 r.1) (s.raiseFlags kctx 0 r.2)

/-- A row node (R168): `rt` is RT; each row's value leaves after its last token; the marker carries n / RT. -/
def rowNode (s : State) (h : Hdr) (rt w : Nat) (one : Word → Val → Nat × Nat) : Host.Outcome State Fault Refusal :=
  consume s h w 4
    (fun f p dp j x s =>
      let x := if j % rt = 0 then { x with facc := 0, poi := false } else x
      let x := { x.taint f with next := j + 1, since := s.cyc }
      let (acc, s) := if (f.a.map Tok.nul).getD false then (x.facc, s)
        else rowLanes h.ty (f.data .a) one f.k h.ty.lanes 0 x.facc s
      let s := s.putStream { x with facc := acc }
      if (j + 1) % rt = 0 then
        s.emitAll f.site 4 ((f.streamResult p dp .f32 acc.toNat x.poi x.after).under p dp w (j / rt)) [h.t0, h.t1]
      else s)
    (fun f p dp j x s =>
      if j % rt ≠ 0 then s.streamLen f .a j x.next
      else
        (s.dropStream f.site p dp).emitAll f.site 4
          (({ f.streamResult p dp .f32 0 false with eos := true }).under p dp w (j / rt)) [h.t0, h.t1])

/-- The larger magnitude (R168): a NaN element gives the canonical NaN with NV (R41), and the NaN stays. -/
def maxMagnitude (acc : Word) (e : Val) : Nat × Nat :=
  match e with
  | .nan => (Fmt.f32.canonNaN, flNV)
  | e =>
    if (Fmt.f32.value acc.toNat).isNaN then (Fmt.f32.canonNaN, 0)
    else
      if (Fmt.f32.value acc.toNat).lt e.magnitude then ((roundToFormat e.magnitude .f32 .rne false).1, 0) else (acc.toNat, 0)

def execRmax (h : Hdr) (rt : BitVec 14) (sw : BitVec 5) (s : State) : Host.Outcome State Fault Refusal :=
  rowNode s h (rt.toNat + 1) (sw.toNat + 1) maxMagnitude

def execRsumx (h : Hdr) (rm : Rnd) (rt : BitVec 14) (sw : BitVec 5) (s : State) : Host.Outcome State Fault Refusal :=
  rowNode s h (rt.toNat + 1) (sw.toNat + 1) fun acc e => addElem acc e false rm

def execRsqs (h : Hdr) (rm : Rnd) (rt : BitVec 14) (sw : BitVec 5) (s : State) : Host.Outcome State Fault Refusal :=
  rowNode s h (rt.toNat + 1) (sw.toNat + 1) fun acc e => addElem acc e true rm

/-! RDLY. -/

/-- A row value or the row marker in slot b (R169). -/
def rdlyRow (s : State) (f : Firing) (b : Tok) (p : DWord) (dp r : Nat) (x : Stream) : State :=
  if b.eos then
    if x.rows.any fun y => decide (r ≤ y.1) then s.streamLen f .b r x.rows.length
    else s.putStream { x with rowEnd := some r, since := s.cyc }
  else if (x.rowEnd.map fun m => decide (m ≤ r)).getD false then s.streamLen f .b r (x.rowEnd.getD 0)
  else if (x.rows.any fun y => y.1 = r) || decide (r < x.row) then
    s.trapFiring f { code := tcDupToken, slot := 1 }
  else
    let _ := p; let _ := dp
    s.putStream { x with rows := x.rows ++ [(r, b)], since := s.cyc }

/-- An element in its turn, with its row's value (R169). The token on T1 keeps the element's predicate bits PP and PV, which the
rule does not name (DESIGN CHOICE, log 108). -/
def rdlyElem (s : State) (h : Hdr) (f : Firing) (a v : Tok) (rt j : Nat) (x : Stream) : State :=
  let nul := a.nul || v.nul
  let poi := a.poi || v.poi
  let last := (j + 1) % rt = 0
  let x := { x with next := j + 1, row := (j + 1) / rt, since := s.cyc,
                    rows := if last then x.rows.filter fun y => y.1 ≠ j / rt else x.rows }
  ((s.putStream x).emit f.site h.t0 1 { a with nul := nul, poi := poi, data := if nul then 0 else a.data }).emit f.site h.t1 1
    { a with nul := nul, poi := poi, data := if nul then 0 else v.data, ty := v.ty }

/-- RDLY (R169): a set holds an element in slot a, a row value in slot b, or a roll token in each. `depth` holds
DEPTH - 1. The matching stage keeps elements of at most DEPTH rows. -/
def execRdly (h : Hdr) (_depth : BitVec 2) (rt : BitVec 14) (sw : BitVec 5) (s : State) :
    Host.Outcome State Fault Refusal :=
  let w := sw.toNat + 1
  let n := rt.toNat + 1
  onFiring s fun f =>
    match f.kind false with
    | .roll => s.emitAll f.site 1 (f.marker h false false false true) [h.t0, h.t1]
    | _ =>
      if f.dep < w then s.trapFiring f { code := tcTagDepth, aux0 := f.dep, aux1 := w }
      else
        let (p, dp, i) := popField f.tag f.dep w
        let x := (s.stream? f.site p dp).getD { site := f.site, tag := p, dep := dp, since := s.cyc }
        if (s.stream? f.site p dp).isNone && 8 ≤ s.streamCount f.site then { s with held := true }
        else match f.a, f.b with
          | some a, _ =>
            if a.eos then
              match x.rowEnd with
              | some m =>
                if i ≠ n * m || i < x.next then s.streamLen f .a i x.next
                else if x.next < i then { s with held := true }
                else (s.dropStream f.site p dp).emitAll f.site 1 (f.marker h false false true false) [h.t0, h.t1]
              | none => { s with held := true }
            else if s.waiting f.site [.a] p dp w (fun e c => e && decide (c ≤ i)) then s.streamLen f .a i x.next
            else if i < x.next then s.trapFiring f { code := tcDupToken, slot := 0 }
            else match x.rows.find? fun y => y.1 = i / n with
              | some (_, v) => if x.next < i then { s with held := true } else rdlyElem s h f a v n i x
              | none => { s with held := true }
          | none, some b => rdlyRow s f b p dp i x
          | none, none => s

/-! RREL. -/

/-- The exact quotient of two positive finite values, with a sticky bit for what is below it. -/
def quotient (m : Nat) (e : Int) (n : Nat) (g : Int) : Val :=
  .fin false ((m <<< 64) / n) (e - g - 64) ((m <<< 64) % n ≠ 0)

/-- C of R170. -/
def relTarget (tgt : Nat) : Nat :=
  match tgt with | 0 => 448 | 1 => 57344 | 2 => 127 | 3 => 7 | _ => 65504

/-- The scale, its inverse and the flags of RREL (R170). -/
def relPair (m : Val) (c : Nat) (rm : Rnd) : Nat × Nat × Nat :=
  match m with
  | .nan => (Fmt.f32.canonNaN, Fmt.f32.canonNaN, flNV)
  | .inf _ => (0x7F800000, 0, 0)
  | .fin _ n e _ =>
    if n = 0 then (0x3F800000, 0x3F800000, 0)
    else
      let a := roundToFormat (quotient n e c 0) .f32 rm false
      let b := roundToFormat (quotient c 0 n e) .f32 rm false
      (a.1, b.1, a.2 ||| b.2)

def execRrel (h : Hdr) (rm : Rnd) (tgt : BitVec 3) (s : State) : Host.Outcome State Fault Refusal :=
  onFiring s fun f =>
    s.fired { h := h, targets := [h.t0, h.t1], lat := 8, nullOut := true } f fun s =>
      let r := relPair (Fmt.f32.value (f.data .a).toNat) (relTarget tgt.toNat) rm
      ((s.raiseFlags f.k 0 r.2.2).emit f.site h.t0 8 (f.result h false h.ty (BitVec.ofNat 32 r.1))).emit f.site h.t1 8
        (f.result h false h.ty (BitVec.ofNat 32 r.2.1))

end Sys2Proof.Machine
end

