-- ==== Sys2Proof/Machine/Levels.lean ====
section
/-! DEFINITION. The levels of a block (R247): at which nest depth, below its invocation's, the tokens of each slot arrive,
and how many sets can stand there (R248, R255). -/

namespace Sys2Proof.Machine

/-- A level: the widths of the fields popped below the invocation's depth, and the fields pushed, innermost first, with their
widths and sizes. -/
structure Lev where
  below : List Nat := []
  st    : List (Nat × Nat) := []
  deriving DecidableEq, Repr

/-- The level's number (R247): fields pushed less fields popped. -/
def Lev.depth (l : Lev) : Int := (l.st.length : Int) - l.below.length

/-- DEP at the level less DEP of the invocation, in bits. -/
def Lev.bits (l : Lev) : Int := ((l.st.map Prod.fst).sum : Int) - l.below.sum

/-- P_L of R255. -/
def Lev.size (l : Lev) : Nat := (l.st.map Prod.snd).foldl (· * ·) 1

def Lev.push (l : Lev) (w z : Nat) : Lev := { l with st := (w, z) :: l.st }

/-- A pop of `w` bits; below the invocation's depth it has size 1. -/
def Lev.pop (l : Lev) (w : Nat) : Lev :=
  match l.st with
  | _ :: r => { l with st := r }
  | [] => { l with below := w :: l.below }

/-- The levels of the tokens that an instruction sends on T0, T1 and T2 when its sets stand at `l`; `space` is SPACE + 1 of
its block. -/
def sendLevels (space : Nat) (i : Option Instr) (l : Lev) : Lev × Lev × Lev :=
  match i with
  | some (.alloc _ lim) => (l.push (spaceWidth space) (if lim = 0 then space else lim.toNat), l, l)
  | some (.enter _ _ _ n) => let m := l.push (spaceWidth (n.toNat + 1)) (n.toNat + 1); (m, m, l)
  | some (.free _) => let m := l.pop (spaceWidth space); (m, m, l)
  | some (.leave _ n) => let m := l.pop (spaceWidth (n.toNat + 1)); (m, m, l)
  | some (.strm _ sw _ _) => let m := l.push (sw.toNat + 1) 64; (m, m, l)
  | some (.strmw _ _ sw _ _) => let m := l.pop (sw.toNat + 1); (m, m, l)
  | some (.sred _ _ _ _ sw) => let m := l.pop (sw.toNat + 1); (m, m, l)
  | some (.sscan h _ _ _ sw) => let m := (l.pop (sw.toNat + 1)).push (sw.toNat + 1 + logLanes h.ty) 64; (m, m, l)
  | some (.mmac _ _ sw _ _) => let m := l.pop (sw.toNat + 1); (m, m, l)
  | some (.mdrain _ _ sw _ _) => let m := l.push (sw.toNat + 1) 64; (m, m, l)
  | _ => (l, l, l)

/-- The levels found so far, by instruction index and slot. -/
abbrev LevMap := List ((Nat × Slot) × Lev)

def levFind (m : LevMap) (i : Nat) (sl : Slot) : Option Lev := (m.find? fun x => x.1 = (i, sl)).map Prod.snd

/-- The deepest level known of an instruction's slots (R247). -/
def instrLev (m : LevMap) (i : Nat) : Option Lev :=
  ([Slot.a, .b, .c, .p].filterMap (levFind m i)).foldl
    (fun acc l => match acc with | none => some l | some x => if x.depth < l.depth then some l else some x) none

/-- The targets of a word, on T0, T1 and T2; a word that is no instruction sends markers on them all the same (R76). -/
def wordTargets (w : DWord) : Option Target × Option Target × Option Target :=
  let f := Fields.ofWord w
  (Target.decode f.t0, Target.decode f.t1, ((targetFields w).drop 2).headD none)

/-- The level at which an instruction's sets stand, for what it sends. -/
def setLev (m : LevMap) (i : Nat) (w : DWord) : Option Lev :=
  match decodeWord w with
  | some (.strmw _ _ sw _ _) =>
    match levFind m i .a, levFind m i .b with
    | some l, _ => some l
    | none, some l => some (l.push (sw.toNat + 1) 64)
    | none, none => none
  | _ => instrLev m i

/-- Adds a level to a target's slot where none is known. -/
def levAdd (m : LevMap) (t : Option Target) (l : Lev) : LevMap :=
  match t with
  | none => m
  | some t => if (levFind m t.idx.toNat t.slot).isSome then m else m ++ [((t.idx.toNat, t.slot), l)]

/-- The edges of one instruction. -/
def levEdges (space : Nat) (m : LevMap) (i : Nat) (w : DWord) : List (Option Target × Lev) :=
  match setLev m i w with
  | none => []
  | some l =>
    let o := sendLevels space (decodeWord w) l
    let t := wordTargets w
    -- T0 of RECONF names a configuration port
    (if opOf w = 0x186 then [] else [(t.1, o.1)]) ++ [(t.2.1, o.2.1), (t.2.2, o.2.2)]

/-- One pass over the instructions of a block. -/
def levPass (space : Nat) (ws : List (Nat × DWord)) (m : LevMap) : LevMap :=
  ws.foldl (fun m x => (levEdges space m x.1 x.2).foldl (fun m e => levAdd m e.1 e.2) m) m

def levIter (space : Nat) (ws : List (Nat × DWord)) : Nat → LevMap → LevMap
  | 0, m => m
  | n + 1, m => levIter space ws n (levPass space ws m)

/-- The words of a block that are no literal words, with their indices. -/
def codeWords (words : List DWord) : List (Nat × DWord) :=
  (((upto words.length).zip words).zip (litFlags false words)).filterMap fun x => if x.2 then none else some x.1

/-- The levels of a block (R247): entry slots stand at level 0. -/
def blockLevels (hdr : BitVec 128) (words : List DWord) : LevMap :=
  levIter (hdrSPACE hdr + 1) (codeWords words) words.length
    ((upto (hdrNENT hdr + 1)).map fun k => ((k, Slot.a), {}))

/-- A slot that tokens reach at two levels (R247). -/
def levClash (hdr : BitVec 128) (words : List DWord) : Bool :=
  let m := blockLevels hdr words
  (codeWords words).any fun x => (levEdges (hdrSPACE hdr + 1) m x.1 x.2).any fun e =>
    match e.1 with
    | none => false
    | some t => match levFind m t.idx.toNat t.slot with
      | some l => l.depth ≠ e.2.depth
      | none => false

/-- The distinct levels of a block, with P_L. -/
def distinctLevels : LevMap → List (Int × Nat)
  | [] => []
  | x :: r =>
    let d := distinctLevels r
    if d.any fun y => y.1 = x.2.depth then d else (x.2.depth, x.2.size) :: d

/-- R(B) of R248: the pool bytes that an invocation of the block reserves on a tile. -/
def poolNeed (hdr : BitVec 128) (words : List DWord) : Nat :=
  hdrFRAME hdr * ((distinctLevels (blockLevels hdr words)).map Prod.snd).sum

/-- Slots that a node of the block needs, as the loader counts them (R255). -/
def loaderNeeds (ws : List (Nat × DWord)) (i : Nat) (w : DWord) : Nat :=
  let hit (sl : Slot) : Bool := ws.any fun x =>
    let t := wordTargets x.2
    [t.1, t.2.1, t.2.2].any fun t => match t with | some t => t.idx.toNat = i && t.slot = sl | none => false
  match decodeWord w with
  | some ins =>
    ins.ownSlots.length + (match ins.optionalSlot with | some sl => if hit sl then 1 else 0 | none => 0) +
      (if ((ins.hdr?).map Hdr.pm).getD .always ≠ .always && hit .p then 1 else 0)
  | none => 1 + ([Slot.b, .c, .p].filter hit).length

/-- D(B) of R255. -/
def loftNeed (hdr : BitVec 128) (words : List DWord) : Nat :=
  let m := blockLevels hdr words
  let ws := codeWords words
  (ws.map fun x =>
    let p := ((instrLev m x.1).map Lev.size).getD 1
    let sets := (32 * p - 16) * (loaderNeeds ws x.1 x.2 - 1)
    match decodeWord x.2 with
    | some (.rdly _ depth rt _) => sets + (rt.toNat + 1) * (depth.toNat + 1)
    | _ => sets).sum

end Sys2Proof.Machine
end

