-- ==== Sys2Proof/Machine/Match.lean ====
section
/-! DEFINITION. Tokens on their way and at their nodes: hops of the operand mesh (R30, R31), matching (R21 to R25, R247),
and reconfiguration (R32, R128). -/

namespace Sys2Proof.Machine

/-! What a stop or a freeze holds still (R379, R434). -/

/-- The unit of R379 that holds a holder's state. -/
def stopUnitOf (h : Holder) : StopUnit := match h.barn? with | some b => .barn b | none => .io

/-- The partition of a holder: its barn, or 64 for the Reeve (R434). -/
def partitionOf (h : Holder) : Nat := h.barn?.getD 64

def State.gatedPart (s : State) (p : Nat) : Bool := s.freezes.any fun f => f.p = p && (f.gated || decide (f.at_ + 8 ≤ s.cyc))

/-- Whether a holder runs a context in this cycle. -/
def State.runs (s : State) (k : Nat) (h : Holder) : Bool := s.live k (stopUnitOf h) && !s.gatedPart (partitionOf h)

/-! Queues. -/

/-- The tokens in an input queue, the head first. -/
def State.queue (s : State) (site : Site) (sl : Slot) : List QTok :=
  s.fab.queues.filter fun q => q.site = site && q.slot = sl

/-- A token enters an input queue. -/
def State.enqueue (s : State) (site : Site) (sl : Slot) (t : Tok) : State :=
  s.modFab fun g => { g with queues := g.queues ++ [{ site := site, slot := sl, tok := t, since := s.cyc, head := s.cyc }] }

/-- The head of a queue leaves; the token behind it comes to the head in this cycle. -/
def State.dequeue (s : State) (site : Site) (sl : Slot) : State :=
  let at_ (q : QTok) : Bool := q.site = site && q.slot = sl
  s.modFab fun g => { g with queues := mapFirst at_ (fun q => { q with head := s.cyc }) (dropFirst at_ g.queues) }

/-! TOKEN_HOP. -/

/-- Whether an earlier result of the same edge is still before a flight: results of one edge keep their order (R30). -/
def behind (l : List Flight) (n : Nat) (x : Flight) : Bool :=
  (l.take n).any fun y => y.src = x.src && y.dst = x.dst && y.slot = x.slot && y.conf.isSome = x.conf.isSome && (y.out || !x.out)

/-- The next buffer of a flight (R31): a link of its path, or none when it has crossed the last. -/
def State.nextLink (s : State) (x : Flight) : Option (Nat × Nat) :=
  ((s.path x).drop (if x.out then 0 else x.hop + 1)).head?

/-- TOKEN_HOP (R29 to R31): flight `n` leaves its output stage or its link for the next link of its path, whose register must
be free, or enters its input queue when that has room. -/
def execTokenHop (s : State) : Host.Outcome State Fault Refusal :=
  .next (match (s.fab.flights.drop s.arg.n).head? with
  | none => s
  | some x =>
    if s.cyc < x.ready || behind s.fab.flights s.arg.n x || !s.runs (tagK x.tok.tag) x.dst.holder then s
    else match s.nextLink x with
      | some e =>
        if s.linkHeld x.dst.holder x.dst.blk e then s
        else
          let y : Flight := { x with out := false, hop := (if x.out then 0 else x.hop + 1), ready := s.cyc + 1 }
          s.modFab fun g => { g with flights := putAt g.flights s.arg.n y }
      | none =>
        if x.conf.isSome || 4 ≤ (s.queue x.dst x.slot).length then s
        else (s.modFab fun g => { g with flights := dropAt g.flights s.arg.n }).enqueue x.dst x.slot x.tok)

/-! Sets. -/

def PSet.toks (x : PSet) : List (Slot × Tok) :=
  [Slot.a, .b, .c, .p].filterMap fun sl => (x.tok? sl).map fun t => (sl, t)

def PSet.put (x : PSet) (sl : Slot) (t : Tok) : PSet :=
  match sl with
  | .a => { x with a := some t }
  | .b => { x with b := some t }
  | .c => { x with c := some t }
  | .p => { x with p := some t }

/-- Whether a set is one of roll tokens (R20). -/
def PSet.roll (x : PSet) : Bool := x.toks.any fun t => t.2.rol

/-- The slots of a node whose data tokens each form a set of their own. -/
def State.alone (s : State) (site : Site) : List Slot :=
  match s.nodeKind site, s.nodeInstr site with
  | .plain, some i => aloneSlots i
  | .emulate _, some i => aloneSlots i
  | _, _ => []

/-- Whether a node is a MERGE, at which a token of slot a or b meets no other but that of slot p (R99). -/
def State.merges (s : State) (site : Site) : Bool :=
  match s.nodeInstr site with
  | some (.merge _) => !(s.alone site).isEmpty
  | _ => false

/-- Whether a set is complete (R22, R23). A set of a MERGE holds a token in slot a or b, and one in slot p where the node
needs it (R99). A data token of another slot that stands alone is a complete set; other data tokens of such a node complete
without those slots (DEDUCED, log 44). -/
def State.completeSet (s : State) (x : PSet) : Bool :=
  let al := s.alone x.site
  let need := s.needs x.site
  let holds (sl : Slot) : Bool := (x.tok? sl).isSome
  if s.merges x.site then al.any holds && (need.contains .p → holds .p)
  else if x.roll || al.isEmpty then need.all holds
  else if al.any holds then true
  else
    let rest := need.filter fun sl => !al.contains sl
    rest.all holds && rest.any fun sl => sl ≠ .p

/-- Whether a node is an RDLY, whose elements wait in the loft (R169). -/
def State.delays (s : State) (site : Site) : Bool :=
  match s.nodeInstr site with
  | some (.rdly _ _ _ _) => true
  | _ => false

/-- Loft entries of a bay, one for each token of its partial sets and its delay buffers there (R24, R253). A set that
completes passes to the firing stage (R25). -/
def State.loftUsed (s : State) (h : Holder) : Nat :=
  ((s.fab.sets.filter fun x => x.site.holder = h && x.place = .loft && (x.done.isNone || s.delays x.site)).map fun x => x.toks.length).sum +
    ((s.fab.streams.filter fun x => x.site.holder = h && s.delays x.site).map fun x => x.rows.length).sum

/-- Loft entries of a bay (R253). -/
def loftQuota : Nat := 8192

/-! Frames (R247, R248). -/

/-- Pool bytes of a tile. -/
def poolBytes : Nat := 0x20000

/-- Whether a byte range of a tile's pool is free of frames. -/
def State.poolFree (s : State) (h : Holder) (base n : Nat) : Bool :=
  base + n ≤ poolBytes && !(s.fab.frames.any fun f => f.holder = h &&
    decide (f.base < base + n) && decide (base < f.base + ((s.block? h f.blk).map fun l => hdrFRAME l.hdr).getD 0))

/-- The lowest base of a free range of a pool: 0, or the end of a frame. -/
def State.poolBase (s : State) (h : Holder) (n : Nat) : Option Nat :=
  let ends := (s.fab.frames.filter fun f => f.holder = h).map fun f => f.base + ((s.block? h f.blk).map fun l => hdrFRAME l.hdr).getD 0
  minBy id ((0 :: ends).filter fun b => s.poolFree h b n)

/-- The level at which a slot of a node takes its tokens (R247). -/
def State.slotLevel (s : State) (site : Site) (sl : Slot) : Int :=
  ((s.block? site.holder site.blk).bind fun l => (levFind (blockLevels l.hdr l.words) (wordIndex site) sl).map Lev.depth).getD 0

/-- The frame of a node's block and a tag on a tile, taken at the level of the slot where none is in use; none while no pool
bytes are free. -/
def State.needFrame (s : State) (site : Site) (sl : Slot) (t : DWord) (d : Nat) : Option State :=
  if (s.frameOf? site.holder site.blk t d).isSome then some s
  else
    let n := ((s.block? site.holder site.blk).map fun l => hdrFRAME l.hdr).getD 0
    (s.poolBase site.holder n).map fun b => s.modFab fun g => { g with frames := g.frames ++
      [{ holder := site.holder, blk := site.blk, tag := t, dep := d, lev := s.slotLevel site sl, base := b, pc := 0, opened := s.cyc }] }

/-- Place of a byte of a tile's frame pool in its barn's slice (R246); the Reeve's pool lies in the I/O die. -/
def poolPlace (h : Holder) (off : Nat) : Option Nat :=
  match h with
  | .tile b t => some (b * 2 ^ 22 + 0x300000 + poolBytes * t + off)
  | _ => none

/-- A token's data stands in its slot of the frame of its tag (R247). -/
def State.frameWord (s : State) (site : Site) (t : DWord) (d : Nat) (sl : Slot) (data : Word) : State :=
  match s.frameOf? site.holder site.blk t d with
  | none => s
  | some fr =>
    match poolPlace site.holder (fr.base + 16 * wordIndex site + 4 * sl.toBits.toNat) with
    | some a => s.writeN .scr a 4 data.toNat
    | none => s

/-! MATCH_TOKEN. -/

/-- A key of `Loaded.fired` that says until when a queue is held (R23). -/
def holdKey (site : Site) (sl : Slot) : Nat := 1000 + 4 * site.idx + sl.toBits.toNat

/-- A key of `Loaded.fired` under which a node keeps one more than four times the cycle, plus the slot, that its matching
stage handled last (R21). -/
def matchKey (site : Site) : Nat := 6000 + site.idx

/-- Keeps a time under a key of `Loaded.fired`. -/
def State.setTime (s : State) (h : Holder) (blk key at_ : Nat) : State :=
  s.modBlock h blk fun l => { l with fired := (l.fired.filter fun p => p.1 ≠ key) ++ [(key, at_)] }

def State.timeOf (s : State) (h : Holder) (blk key : Nat) : Nat :=
  (((s.block? h blk).bind fun l => l.fired.find? fun p => p.1 = key).map Prod.snd).getD 0

/-- The head of a queue has been handled; the queue is held for `n` cycles, and of the other queues only those after it in
the order a, b, c, p are handled in this cycle (R21). -/
def State.handled (s : State) (site : Site) (sl : Slot) (n : Nat) : State :=
  ((s.dequeue site sl).setTime site.holder site.blk (holdKey site sl) (s.cyc + n)).setTime site.holder site.blk (matchKey site)
    (4 * s.cyc + sl.toBits.toNat + 1)

/-- Whether the matching stage may handle a queue in this cycle (R21, R23). -/
def State.mayMatch (s : State) (site : Site) (sl : Slot) : Bool :=
  decide (s.timeOf site.holder site.blk (holdKey site sl) ≤ s.cyc) &&
    decide (s.timeOf site.holder site.blk (matchKey site) ≤ 4 * s.cyc + sl.toBits.toNat)

/-- Whether a reconfiguration at a node holds back a token that entered its queue later (R32, R128). -/
def State.confWaits (s : State) (site : Site) (since : Nat) : Bool :=
  match s.block? site.holder site.blk with
  | some l => l.reconf.any fun r => r.idx = site.idx && match r.arrived with
    | some n => decide (n < since)
    | none => false
  | none => false

/-- The parent, its DEP and the index of a stream token that arrives in a slot of a node that consumes streams (R161). -/
def State.streamTok (s : State) (site : Site) (sl : Slot) (t : Tok) : Option (Instr × DWord × Nat × Nat) :=
  (s.nodeInstr site).bind fun i => (streamIn i sl).bind fun w =>
    if t.rol || t.dep < w then none
    else
      let (p, dp, j) := popField t.tag t.dep w
      some (i, p, dp, j)

/-- Whether RDLY's delay buffer takes the element of index `j` (R169): it holds elements of one parent, of at most DEPTH rows
from the lowest row not yet fully sent. -/
def State.delayRoom (s : State) (site : Site) (w rt depth : Nat) (p : DWord) (dp j : Nat) : Bool :=
  decide (j / rt < ((s.stream? site p dp).map Stream.row).getD 0 + depth) &&
    !(s.fab.sets.any fun y => y.site = site && match y.a with
      | some e => !e.rol && !e.eos && !fieldMeets p dp w (fun _ => true) e.tag e.dep
      | none => false)

/-- Whether the entry stage of a region takes a token of an activation or initial stream (R309): one that it cannot take stays at
the head of its queue, and no other token of the slot passes it. -/
def State.mmacRoom (s : State) (site : Site) (h : Hdr) (m : Nat) (ires : Bool) (sl : Slot) (t : Tok) (p : DWord) (dp j : Nat) :
    Bool :=
  match site.holder with
  | .region b r =>
    !(s.fab.sets.any fun y => y.site = site && (y.tok? sl).isSome && !y.roll) &&
    match s.region? b r with
    | none => true
    | some x =>
      match x.tiles.find? fun tl => tl.tag = p && tl.dep = dp with
      | some tl => sl ≠ .a || t.eos || (x.enterOrWait h.ty tl j t s.cyc).isSome
      | none => s.startTile x h.ty ires m p dp ≠ .wait
  | _ => true

/-- Whether a stream node may take a token (R161, R169, R309): its table of 8 has room for the parent, RDLY's delay buffer for the
element, and a region's entry stage for its token. -/
def State.streamRoom (s : State) (site : Site) (sl : Slot) (t : Tok) : Bool :=
  match s.streamTok site sl t with
  | none => true
  | some (.mmac h _ _ m ires, p, dp, j) => s.mmacRoom site h (m.toNat + 1) ires sl t p dp j
  | some (i, p, dp, j) =>
    ((s.stream? site p dp).isSome || decide (s.streamCount site < 8)) && match i, sl with
      | .rdly _ depth rt sw, .a => t.eos || s.delayRoom site (sw.toNat + 1) (rt.toNat + 1) (depth.toNat + 1) p dp j
      | _, _ => true

/-- The first token of a parent makes the entry of its stream (R161); at STRMW the origin does (R164). -/
def State.openStream (s : State) (site : Site) (sl : Slot) (t : Tok) : State :=
  match s.streamTok site sl t with
  | none => s
  | some (.mmac _ _ _ _ _, _, _, _) => s
  | some (.strmw _ _ _ _ _, _, _, _) => s
  | some (_, p, dp, _) =>
    if (s.stream? site p dp).isSome then s else s.addStream { site := site, tag := p, dep := dp, since := s.cyc }

/-- Whether a token of a truncated parent is discarded on arrival (R166). -/
def State.truncated (s : State) (site : Site) (sl : Slot) (t : Tok) : Option Stream :=
  match s.nodeInstr site with
  | some (.szip h tr sw) =>
    match streamIn (.szip h tr sw) sl with
    | some w =>
      let (p, dp, j) := popField t.tag t.dep w
      (s.stream? site p dp).bind fun x => x.trunc.bind fun n => if n < j && !t.rol then some x else none
    | none => none
  | _ => none

/-- The trap of a token whose slot is taken (R23): only that token is held, and its queue for `n` cycles. -/
def State.dupToken (s : State) (site : Site) (sl : Slot) (t : Tok) (n : Nat) : State :=
  let (w, lit) := s.nodeWord site
  let f : Firing := { site := site, word := w, lit := lit, tag := t.tag, dep := t.dep, since := s.cyc }
  let f : Firing := match sl with
    | .a => { f with a := some t }
    | .b => { f with b := some t }
    | .c => { f with c := some t }
    | .p => { f with p := some t }
  s.raiseThen (s.firingTrap f { code := tcDupToken, slot := sl.toBits.toNat } (.firing f)) fun s => s.handled site sl n

/-- Whether a token may stand in a set with the tokens that it holds (R23, R99, R164, R169, R177): at a MERGE a token of
slot a or b joins a set of slot p alone, and a token of slot p one without it. -/
def State.meets (s : State) (site : Site) (sl : Slot) (t : Tok) (x : PSet) : Bool :=
  let al := s.alone site
  if s.merges site then
    (x.place = .frame && (x.tok? sl).isSome) ||
      (x.done.isNone && (if al.contains sl then !(al.any fun y => (x.tok? y).isSome) else (x.tok? sl).isNone))
  else t.rol || (if al.contains sl then x.place = .frame && (x.tok? sl).isSome else !(al.any fun y => (x.tok? y).isSome))

/-- The partial set that a token joins (R23, R20): one with its tag; in a frame also a set that is complete. -/
def State.joins (s : State) (site : Site) (sl : Slot) (t : Tok) : Option PSet :=
  let same (x : PSet) : Bool := x.site = site && x.tag = t.tag && x.dep = t.dep && x.roll = t.rol &&
    (x.place = .frame || x.done.isNone) && x.place ≠ .outside && x.place ≠ .asDefined && s.meets site sl t x
  let inTable (x : PSet) : Bool := match x.place with | .table _ => true | .frame => true | _ => false
  match s.fab.sets.find? fun x => same x && inTable x with
  | some x => some x
  | none => s.fab.sets.find? same

/-- Cycles that a token's queue is held for (R23): a probe of the loft or a write of it takes 10. -/
def matchHold (p : Place) : Nat := if p = .loft then 10 else 1

/-- A token that may be matched joins a set or opens one (R23). One that needs a new loft entry while its bay holds its quota
stays at the head of its queue (R24); one that completes a set of the loft needs none (R25). Tiles and regions use no loft
(R253). -/
def State.match_ (s : State) (site : Site) (sl : Slot) (t : Tok) : State :=
  let finish (x : PSet) : PSet :=
    if s.completeSet x then { x with done := some s.cyc, last := sl } else x
  let probe := (s.fab.sets.any fun x => x.site = site && x.place = .loft && x.done.isNone)
  let loftFull := match site.holder with | .bay _ _ => decide (loftQuota ≤ s.loftUsed site.holder) | _ => true
  match s.joins site sl t with
  | some x =>
    let y := finish (x.put sl t)
    if (x.tok? sl).isSome then s.dupToken site sl t (matchHold x.place)
    else if x.place = .loft && y.done.isNone && loftFull then s
    else ((s.modFab fun g => { g with sets := mapFirst (fun z => z = x) (fun _ => y) g.sets }).frameWord site t.tag t.dep sl
      t.data).handled site sl (matchHold x.place)
  | none =>
    let x : PSet := { site := site, tag := t.tag, dep := t.dep, place := .frame, opened := s.cyc, since := s.cyc }
    let add (s : State) (p : Place) (n : Nat) : State :=
      (s.modFab fun g => { g with sets := g.sets ++ [{ finish (x.put sl t) with place := p }] }).handled site sl n
    if site.holder.temporal then
      match s.needFrame site sl t.tag t.dep with
      | some s => (add s .frame 1).frameWord site t.tag t.dep sl t.data
      | none => s
    else
      match s.nodeInstr site, sl, s.freeEntry site with
      | some (.rdly _ _ _ _), .a, _ => if loftFull then s else add s .loft 10
      | _, _, some e => add s (.table e) (if probe then 10 else 1)
      | _, _, none => if loftFull then s else add s .loft 10

/-- MATCH_TOKEN (R21, R23): the matching stage of node `site` takes the head of the queue of `slot`. -/
def execMatchToken (s : State) : Host.Outcome State Fault Refusal :=
  let site := s.arg.site
  let sl := s.arg.slot
  .next (match (s.queue site sl).head? with
  | none => s
  | some q =>
    if !s.runs (tagK q.tok.tag) site.holder || !s.mayMatch site sl || s.confWaits site q.since then s
    else match s.truncated site sl q.tok with
      | some x =>
        let s := s.handled site sl 1
        if q.tok.eos then s.dropStream site x.tag x.dep else s
      | none =>
        if !s.streamRoom site sl q.tok then s
        else
          let t := s.match_ site sl q.tok
          if (t.queue site sl).length < (s.queue site sl).length then t.openStream site sl q.tok else t)

/-! Reconfiguration. -/

/-- RECONF_TOKEN_ARRIVAL (R32, R128): flight `n`, a reconfiguration token on the last link of its path, arrives. A node that is not a
converter is not reconfigured, and the acknowledgement follows in the next cycle. -/
def execReconfTokenArrival (s : State) : Host.Outcome State Fault Refusal :=
  .next (match (s.fab.flights.drop s.arg.n).head? with
  | none => s
  | some x =>
    match x.conf with
    | none => s
    | some q =>
      if x.out || (s.nextLink x).isSome || s.cyc < x.ready || behind s.fab.flights s.arg.n x ||
          !s.runs (tagK x.tok.tag) x.dst.holder then s
      else
        let s := s.modFab fun g => { g with flights := dropAt g.flights s.arg.n }
        let n := s.confSite x.dst
        if s.reconfigurable x.dst then
          s.modBlock x.dst.holder x.dst.blk fun l => { l with reconf := l.reconf ++
            [{ idx := n.idx, q := q, src := x.src, tok := x.tok,
               arrived := if l.reconf.any fun r => r.idx = n.idx then none else some s.cyc }] }
        else s.emit x.src (Target.decode (Fields.ofWord (s.nodeWord x.src).1).t1) 1 x.tok)

/-- Whether a node still holds anything of its old configuration (R32): a set, or a token that entered by cycle `n`. -/
def State.oldWork (s : State) (site : Site) (n : Nat) : Bool :=
  (s.fab.sets.any fun x => x.site = site) ||
  (s.fab.queues.any fun q => q.site = site && decide (q.since ≤ n)) ||
  (s.traps.any fun t => match t.hold with | .firing f => f.site = site | _ => false)

/-- The first waiting reconfiguration of a node counts as arriving (R128). -/
def nextConf (cyc idx : Nat) : List Reconf → List Reconf :=
  mapFirst (fun r => r.idx = idx && r.arrived.isNone) fun r => { r with arrived := some cyc }

/-- CONFIG_IN_FORCE (R32, R128): the oldest reconfiguration of node `site` comes into force. -/
def execConfigInForce (s : State) : Host.Outcome State Fault Refusal :=
  let site := s.arg.site
  .next (match s.block? site.holder site.blk with
  | none => s
  | some l =>
    match l.reconf.find? fun r => r.idx = site.idx with
    | none => s
    | some r =>
      match r.arrived with
      | none => s
      | some n =>
        if s.cyc ≤ n || s.cyc < s.timeOf site.holder site.blk site.idx || s.oldWork site n || !s.runs l.k site.holder then s
        else
          let s := s.modBlock site.holder site.blk fun l =>
            { l.setConf site.idx r.q with reconf := nextConf s.cyc site.idx (dropFirst (fun x => x.idx = site.idx) l.reconf) }
          s.emit r.src (Target.decode (Fields.ofWord (s.nodeWord r.src).1).t1) 0 r.tok)

end Sys2Proof.Machine
end

