-- ==== Sys2Proof/Machine/Records.lean ====
section
/-! DEFINITION. The records that instructions hand to units: engine commands (R187 to R193, R398), launch records and the
instances they create (R328 to R330, R347, R355), and the tile-task queue (R335). -/

namespace Sys2Proof.Machine

/-! Engine command records. -/

/-- The peer port that traffic to a package takes (R397). -/
def State.routeTo (s : State) (pkg : Nat) : Option Nat :=
  let r := (s.reg (.linkRoute pkg)).toNat
  let up (m p : Nat) : Bool := bitsAt m p 1 = 1 && s.regField (.linkStat p) 31 1 = 1
  match lowest (up (bitsAt r 0 8)) 8 with
  | some p => some p
  | none => lowest (up (bitsAt r 8 8)) 8

/-- Whether a group may be used by a context (R398). -/
def State.groupOk (s : State) (k grp : Nat) : Bool :=
  let b := s.groupBytes grp
  let g := groupOf b
  decide (grp < 256) && recField b 0 2 = 0xC6A1 && decide (1 ≤ g.n) && decide (g.n ≤ 9) && decide (g.rank < g.n) &&
    recField b 6 2 = 0 && (b.drop 0x11).all (· = 0) && ((upto 9).all fun i => decide (recField b (8 + i) 1 < 64)) &&
    g.asid = s.asid k && (g.pkid.drop g.rank).headD 64 = s.regField .linkId 0 6 &&
    (upto g.n).all fun i => i = g.rank || (s.routeTo ((g.pkid.drop i).headD 0)).isSome

/-- Bytes of a COLL's destination at this rank (R193). -/
def collBytes (ck root count n rank : Nat) : Nat :=
  match ck with
  | 0 => 4 * count
  | 1 => 4 * (count / n)
  | 2 => 4 * n * count
  | 3 => 4 * count
  | _ => if rank = root then 4 * count else 0

/-- The KIND of the record of an engine instruction, by its function code or by [31:29] of the core's word (R187). -/
def engineKind (fn : Nat) : Nat := fn + 1

/-- Whether an engine command record breaks R187 or R192. -/
def badCommand (kind : Nat) (r : List Byte) : Bool :=
  let b (o : Nat) : Nat := recField r o 1
  let hi (o : Nat) : Bool := recField r o 8 / 2 ^ 60 ≠ 0
  recField r 0 2 ≠ 0x5A17 || b 2 ≠ kind || 4 ≤ b 3 || b 5 ≠ 0 || hi 0x08 || hi 0x10 || hi 0x30 || hi 0x38 ||
  recField r 0x38 8 % 64 ≠ 0 ||
  (if kind = 4 then
    let ck := b 0x1C
    let opf := b 0x1D
    let ty := bitsAt opf 4 4
    b 4 ≠ 0 || recField r 0x18 4 = 0 || 2 ^ 30 < recField r 0x18 4 || 4 < ck || bitsAt opf 0 2 = 3 || bitsAt opf 2 2 ≠ 0 ||
      !([0, 1, 2, 3, 4].contains ty) || (ck < 3 && b 0x1E ≠ 0) || b 0x1F ≠ 0 || recField r 0x24 8 ≠ 0
  else
    8 ≤ b 4 ||
    (if kind = 1 then
      recField r 0x18 8 = 0 || 2 ^ 40 < recField r 0x18 8 || recField r 0x20 8 ≠ 0 || recField r 0x28 4 ≠ 0
    else
      let esz := recField r 0x18 4
      let nidx := recField r 0x1C 4
      esz % 4 ≠ 0 || esz = 0 || 1048576 < esz || nidx = 0 || 2 ^ 24 < nidx || recField r 0x20 8 % 4 ≠ 0 || hi 0x20))

/-- The bytes that a command writes to its agent's destination (R189, R193). -/
def State.commandBytes (s : State) (kind : Nat) (r : List Byte) : Nat :=
  if kind = 1 then recField r 0x18 8
  else if kind = 4 then
    let g := groupOf (s.groupBytes (recField r 0x20 4))
    collBytes (recField r 0x1C 1) (recField r 0x1E 1) (recField r 0x18 4) (max 1 g.n) g.rank
  else recField r 0x18 4 * recField r 0x1C 4

/-- Commands in the queue of an engine, the running ones apart. -/
def State.engineQueued (s : State) (eng : Nat) : Nat := (s.fab.cmds.filter fun c => c.eng = eng && !c.running).length

/-- The engine that a record names (R189): the Carillon is number 32. -/
def State.engineFor (s : State) (die kind : Nat) (r : List Byte) : Nat :=
  if kind = 4 then 32
  else
    let e := recField r 4 1
    if bitsAt e 2 1 = 0 then 4 * die + bitsAt e 0 2
    else (minBy s.engineQueued ((upto 4).map fun j => 4 * die + j)).getD (4 * die)

/-- The next COLL count of a group (R395). -/
def State.nextColl (s : State) (grp : Nat) : Nat := ((s.collSeq.find? fun p => p.1 = grp).map Prod.snd).getD 0

/-- A command enters its engine's queue (R188). -/
def State.enqueueCmd (s : State) (a : Access) (eng kind recAt : Nat) (r : List Byte) : State :=
  let grp := recField r 0x20 4
  let (core, at_) : Option CoreId × Nat := match a.origin with | .core c pc _ => (some c, pc) | _ => (none, 0)
  let c : Cmd := { id := s.fresh, eng := eng, k := a.k, v := a.v, asid := s.asid a.k, barn := a.barn, recAt := recAt, bytes := r,
                   charged := s.commandBytes kind r, core := core, cseq := if kind = 4 then s.nextColl grp else 0, fire := a.origin.firing?, at_ := at_,
                   age := s.cyc, since := s.cyc }
  let s := (s.modFab fun g => { g with cmds := g.cmds ++ [c] }).bumpFresh
  if kind = 4 then { s with collSeq := s.collSeq.filter (fun p => p.1 ≠ grp) ++ [(grp, (c.cseq + 1) % 2 ^ 32)] } else s

/-- ENGINE (R191): record address and cause. -/
def engineCause (recAt cause : Nat) : Cause := { code := tcEngine, cause := cause, aux0 := recAt, aux1 := cause }

/-! Sheaf declarations (R347). -/

/-- The first offending offset of an input declaration at `o` of a record: `used` when it is below NIN. -/
def badInput (r : List Byte) (o : Nat) (used : Bool) : Option Nat :=
  if used then
    if recField r o 8 = 0 || 2 ^ 60 ≤ recField r o 8 then some o else if recField r (o + 0xE) 2 = 0 then some (o + 0xE) else none
  else (upto 16).findSome? fun i => if recField r (o + i) 1 ≠ 0 then
    some (o + (if i < 8 then 0 else if i < 12 then 8 else if i < 14 then 12 else 14)) else none

/-- The inputs of a waiter from a record's declarations at `o`. -/
def inputsOf (r : List Byte) (o n : Nat) : List WInput :=
  (upto n).map fun i =>
    { tid := recField r (o + 16 * i) 8, tile := recField r (o + 16 * i + 8) 4, egen := recField r (o + 16 * i + 12) 2,
      count := recField r (o + 16 * i + 14) 2, cnt := 0 }

/-! Launch records. -/

/-- What a launch reads of its kernel's image: header, kernel entry, descriptors. -/
structure KernelInfo where
  base : Nat
  hdr  : List Byte
  kent : List Byte
  desc : List (List Byte)
  deriving DecidableEq, Repr

/-- What reading an image's tables gives. -/
inductive KernelGot
  | info (i : KernelInfo)
  | noImage
  | noKernel
  | wait
  deriving DecidableEq, Repr

/-- Cuts bytes into entries of 64. -/
def entries64 : Nat → List Byte → List (List Byte)
  | 0, _ => []
  | n + 1, b => b.take 64 :: entries64 n (b.drop 64)

/-- The kernel that a launch record names, read through the context's address space (R82, R155, R329). -/
def State.kernelOf (s : State) (k v base kidx : Nat) : State × KernelGot :=
  if !(s.images.any fun i => i.k = k && i.base = base && !i.stale) then (s, .noImage)
  else match s.unitRead 0 k v base 64 srcIo with
    | (s, .ok h _) =>
      if recField h 6 2 ≤ kidx then (s, .noKernel)
      else match s.unitRead 0 k v (base + recField h 8 8 + 32 * kidx) 32 srcIo with
        | (s, .ok e _) =>
          let n := recField e 0x10 2
          match s.unitRead 0 k v (base + recField e 8 8) (64 * n) srcIo with
          | (s, .ok d _) => (s, .info { base := base, hdr := h, kent := e, desc := entries64 n d })
          | (s, .wait _ _) => (s, .wait)
          | (s, .ats) => (s, .wait)
          | (s, _) => (s, .noImage)
        | (s, .wait _ _) => (s, .wait)
        | (s, .ats) => (s, .wait)
        | (s, _) => (s, .noImage)
    | (s, .wait _ _) => (s, .wait)
    | (s, .ats) => (s, .wait)
    | (s, _) => (s, .noImage)

/-- Whether a kernel is a graph. -/
def KernelInfo.graph (i : KernelInfo) : Bool := recField i.kent 0x18 4 % 2 = 1

/-- The first offending field of a launch record (R328, R329); `graph` is none where its kernel is not known. -/
def badLaunch (r : List Byte) (got : KernelGot) (direct : Bool) : Option Nat :=
  let f (o n : Nat) : Nat := recField r o n
  let graph := match got with | .info i => i.graph | _ => false
  let high (o : Nat) : Bool := decide (2 ^ 60 ≤ f o 8)
  let checks : List (Nat × Bool) :=
    [(0x00, decide (f 0 2 ≠ 0x1A7C)), (0x02, decide (8 ≤ f 2 1)), (0x03, decide (2 ≤ f 3 1) || (direct && f 3 1 = 1)),
     (0x04, decide (got = .noKernel)), (0x06, decide (4 < f 6 1)), (0x08, high 8 || decide (got = .noImage)), (0x10, graph && decide (f 0x10 8 ≠ 0)),
     (0x18, if graph || f 0x10 8 ≠ 0 then decide (f 0x18 1 ≠ 0) else decide (f 0x18 1 = 0) || decide (64 < f 0x18 1)),
     (0x19, decide (f 0x19 1 < 4) || decide (16 < f 0x19 1)), (0x1A, decide (f 0x1A 2 ≠ 0)), (0x1C, decide (f 0x1F 1 ≠ 0)),
     (0x20, high 0x20 || f 0x20 8 % 64 ≠ 0 || (graph && f 0x20 8 ≠ 0)), (0x28, high 0x28 || f 0x28 8 % 8 ≠ 0),
     (0x30, high 0x30 || f 0x30 8 % 64 ≠ 0), (0x38, high 0x38 || f 0x38 8 % 16 ≠ 0)] ++
    (upto 16).map fun n => (0x40 + 8 * n, high (0x40 + 8 * n))
  match checks.find? Prod.snd with
  | some c => some c.1
  | none => (upto 4).findSome? fun i => badInput r (0xC0 + 16 * i) (decide (i < f 6 1))

/-- The lowest invocation number of a context that is not in use (R210). -/
def State.freeInvocation (s : State) (k : Nat) : Option Nat := lowest (fun v => (s.inst? k v).isNone) 4096

/-- Whether an earlier instance of the context is still incomplete, graphs apart (R355). -/
def State.earlierInst (s : State) (i : Inst) : Bool :=
  s.insts.any fun j => j.k = i.k && !j.graph && !j.done && decide (j.seq < i.seq)

/-- Instances and tasks in fallback that have become ready (R355). -/
def State.settleFallback (s : State) : State :=
  let inst (i : Inst) : Inst := if i.fallback && i.ready.isNone && !s.earlierInst i then { i with ready := some s.cyc } else i
  let task (t : Task) : Task :=
    if t.fallback && t.ready.isNone && !(s.tasks.any fun u => u.k = t.k && u.v = t.v && decide (u.order < t.order)) &&
        !((s.inst? t.k t.v).elim false s.earlierInst) then { t with ready := some s.cyc }
    else t
  ({ s with insts := s.insts.map inst, tasks := s.tasks.map task }).graphStrands

/-- Creates instance `v` from a valid record and registers its inputs (R330, R349, R355). -/
def State.createInst (s : State) (k v recAt : Nat) (r : List Byte) (g : KernelInfo) : State :=
  let nin := recField r 6 1
  let i : Inst :=
    { k := k, v := v, recAt := recAt, recBytes := r, kbase := (upto 16).map fun n => BitVec.ofNat 64 (recField r (0x40 + 8 * n) 8),
      desc := g.desc, graph := g.graph, entry := g.base + recField g.kent 0 8, nblk := recField g.kent 0x14 4, base := g.base,
      blkoff := recField g.hdr 0x10 8, blklen := recField g.hdr 0x18 8, seq := s.fresh,
      ready := if nin = 0 then some s.cyc else none }
  let s := ({ s with insts := s.insts ++ [i] }).bumpFresh
  if nin = 0 then s.graphStrands
  else if s.regField (.sheafCtl k) 31 1 = 1 then
    (s.modInst k v fun i => { i with fallback := true }).settleFallback
  else
    let w : Waiter := { id := 0, kind := 1, asid := s.asid k, k := k, v := v, recAt := recAt, pool := ioPool, inputs := inputsOf r 0xC0 nin }
    match s.newWaiter w with
    | some (s, id) => s.modInst k v fun i => { i with waiter := some id }
    | none => ((s.fallback k).modInst k v fun i => { i with fallback := true }).settleFallback

/-! The tile-task queue. -/

/-- Claims the slot of count TAIL of the tile-task queue for a record (R335); none while the queue is full or cannot be
written yet. -/
def State.claimTaskSlot (s : State) (k v recAt : Nat) (core : Option CoreId) : Option State :=
  match s.qdesc? k 64 with
  | none => none
  | some d =>
    if !d.en || 2 ^ d.log2n ≤ d.count then none
    else match s.unitWrite 0 k v (d.slotAt d.tail) (leBytes 8 recAt) false srcIo with
      | (s, .ok _ _) =>
        let x : TaskSlot := { k := k, v := v, recAt := recAt, core := core, slot := d.tail, order := s.fresh }
        let s : State := { s with taskQ := s.taskQ ++ [x] }
        some (s.bumpFresh.setTail k 64 (d.tail + 1))
      | _ => none

end Sys2Proof.Machine
end

