-- ==== Sys2Proof/Machine/Responses.lean ====
section
/-! DEFINITION. What happens when an access has been performed and its response reaches its port (R134, R141 to R148,
R160, R163, R164, R180, R185, R188, R196, R200, R208 to R211, R226 to R229): the tokens it sends, and how the instruction
that waited for it goes on. -/

namespace Sys2Proof.Machine

/-- The value that the responses of an access's pieces make, the first piece lowest (R3). -/
def respNat : List Piece → Nat
  | [] => 0
  | p :: r => ((p.resp.getD 0) &&& p.mask) + respNat r * 2 ^ (8 * p.size)

/-- The bytes that they make. -/
def respBytes : List Piece → List Byte
  | [] => []
  | p :: r => leBytes p.size (p.resp.getD 0) ++ respBytes r

def respPoi (l : List Piece) : Bool := l.any Piece.poi

/-- Whether an access has been performed: all its pieces, and, for a release, all that it waits for (R137, R138). -/
def State.performed (s : State) (a : Access) : Bool :=
  (a.done || (a.pieces.isEmpty && !(match a.kind with | .claim _ => true | _ => false))) && !a.waiting && a.trans = .ready &&
    ((!a.rel && !a.pieces.isEmpty) || (s.mayPerform a && !(a.rel && a.sc = .sys && s.hostBusy.any fun h => h.2 = a.k)))

/-- Zero or sign extension of a loaded value of `n` bytes (R141). -/
def extend (t : Ty) (n v : Nat) : Word := if t = .i32 then BitVec.ofInt 32 (signedOf (v % 2 ^ (8 * n)) (8 * n)) else BitVec.ofNat 32 v

/-- A data token of a load or atomic. -/
def Access.token (a : Access) (f : Firing) (h : Hdr) (d : Nat) : Tok :=
  let k := f.result h true h.ty (BitVec.ofNat 32 d)
  let k := { k with poi := k.poi || respPoi a.pieces }
  if a.nb then { k with pp := true, pv := a.flags = 1 } else k

/-- A load's or atomic's data, one word on T0 and T1, and its order-out on T2. -/
def State.sendWord (s : State) (a : Access) (f : Firing) (h : Hdr) (t2 : Option Target) (d : Nat) : State :=
  (s.emitAll f.site 1 (a.token f h d) [h.t0, h.t1]).emit f.site t2 1 (f.orderOut h true)

/-- Two words, the lower on T0 and the upper on T1. -/
def State.sendPair (s : State) (a : Access) (f : Firing) (h : Hdr) (t2 : Option Target) (d : Nat) : State :=
  ((s.emit f.site h.t0 1 (a.token f h (d % 2 ^ 32))).emit f.site h.t1 1 (a.token f h (d / 2 ^ 32))).emit f.site t2 1 (f.orderOut h true)

/-! Engine commands and launches: who issued them. -/

/-- The issuer of a record: a firing or a core. -/
inductive Issuer
  | firing (f : Firing)
  | core (c : CoreId)

def Issuer.core? : Issuer → Option CoreId
  | .core c => some c
  | .firing _ => none

/-- A trap of the issuer at its response: its access ends. -/
def State.issuerTrap (s : State) (w : Issuer) (a : Access) (c : Cause) : State :=
  match w with
  | .firing f => s.raiseThen (s.firingTrap f c (.firing f)) fun s => s.dropAcc a.id
  | .core id => match s.freeTrapIndex a.k with
    | none => s
    | some _ => (s.dropAcc a.id).coreTrapAt id c

/-- The issuer goes on: order-out on T0, T1 and T2, or the next instruction. -/
def State.issuerGoes (s : State) (w : Issuer) (a : Access) : State :=
  match w with
  | .firing f => (s.dropAcc a.id).answer f 1 none
  | .core id => (s.dropAcc a.id).coreGoes id

/-- Whether a page between an address and an end is in host memory, translation by translation. -/
def State.anyShared (s : State) (k end_ : Nat) : Nat → Nat → Bool
  | 0, _ => false
  | n + 1, va =>
    if end_ ≤ va then false
    else match s.walk k va with
      | .shared _ => true
      | .page base size _ _ _ _ _ _ => s.anyShared k end_ n (base + size)
      | _ => s.anyShared k end_ n ((va / 4096 + 1) * 4096)

/-- Bytes from DST on that hold a command's destination: for SCAT all its rows (R187, R193). -/
def State.commandSpan (s : State) (kind : Nat) (r : List Byte) : Nat :=
  if kind = 3 then recField r 0x18 4 * recField r 0x28 4 else s.commandBytes kind r

/-- Whether a shadowed command has no pool or a destination that cannot be shadowed (R190, R266, R277). -/
def State.badShadow (s : State) (k kind : Nat) (r : List Byte) : Bool :=
  let dst := recField r 0x10 8
  let n := s.commandSpan kind r
  recField r 3 1 % 2 = 1 && (s.regField (.ctxShdpool k) 0 1 = 0 ||
    (n ≠ 0 && (windowOf dst ≠ .paged || windowOf (dst + n - 1) ≠ .paged || s.anyShared k (dst + n) (n / 4096 + 2) dst)))

/-- An engine instruction whose record has been read (R188): it is checked; then its release, and the charge to its
barrier, are performed; then it enters its engine's queue once there is room. -/
def State.engineResponse (s : State) (w : Issuer) (a : Access) (kind recAt : Nat) : State :=
  let rec_ := respBytes (a.pieces.take 16)
  let bar := recField rec_ 0x38 8
  if !a.rel then
    if badCommand kind rec_ || s.badShadow a.k kind rec_ then s.issuerTrap w a (engineCause recAt 1)
    else if bar = 0 then s.modAcc a.id fun x => { x with rel := true }
    else s.modAcc a.id fun x => { x with
      rel := true, done := false, kind := .charge (s.commandBytes kind rec_),
      pieces := x.pieces ++ [{ addr := bar, size := 64, mask := 0, data := 0 }] }
  else
    let eng := s.engineFor (dieNo a.barn) kind rec_
    if 64 ≤ s.engineQueued eng then s
    else (s.enqueueCmd a eng kind recAt rec_).issuerGoes w a

/-- Performs what a core counts when it hands work to a unit (R227). -/
def State.coreCounts (s : State) (w : Issuer) (g : Core → Core) : State :=
  match w with | .core c => s.modCore c g | .firing _ => s

/-- LAUNCH or LQTAKE whose record has been read (R210, R211, R329, R330): with a valid record it releases, and once a number
is free it creates the instance. `q` is the launch queue of LQTAKE. -/
def State.launchResponse (s : State) (f : Firing) (a : Access) (recAt : Nat) (q : Option Nat) : State :=
  let r := respBytes a.pieces
  let take (s : State) : State := match q with
    | some q => s.setHead a.k q ((((s.qdesc? a.k q).map QDesc.head).getD 0) + 1)
    | none => s
  match s.kernelOf a.k a.v (recField r 8 8) (recField r 4 2) with
  | (s, .wait) => s
  | (s, got) =>
    match badLaunch r got false with
    | some o => s.raiseThen (s.firingTrap f { code := tcLaunchFormat, aux0 := recAt, aux1 := o } (.firing f)) fun s => take (s.dropAcc a.id)
    | none =>
      if !a.rel then s.modAcc a.id fun x => { x with rel := true }
      else match got, s.freeInvocation a.k with
        | .info g, some v =>
          ((take (s.dropAcc a.id)).createInst a.k v recAt r g).answer f 1 (some (.n32, BitVec.ofNat 32 v))
        | _, _ => s

/-- Whether a holder is not the Reeve, or the Reeve has a context (R336). -/
def State.reeveHas (s : State) (h : Holder) (k : Nat) : Bool := h ≠ .reeve || s.reeveK = some k

/-- LQTAKE at the queue controller (R211, R335): the first claim on a queue that holds a record reads the record at HEAD. -/
def State.claimResponse (s : State) (f : Firing) (a : Access) (q : Nat) : State :=
  match s.qdesc? a.k q with
  | none => s
  | some d =>
    if a.pieces.isEmpty then
      let first := !((s.fab.accs.takeWhile fun b => b.id ≠ a.id).any fun b => b.k = a.k && b.kind = .claim q)
      if first && d.count ≠ 0 && s.mayPerform a && s.reeveHas f.site.holder a.k then
        s.modAcc a.id fun x => { x with pieces := (upto 64).map fun i => { addr := d.slotAt d.head + 4 * i, size := 4, mask := 2 ^ 32 - 1, data := 0 } }
      else s
    else if s.performed a then s.launchResponse f a (d.slotAt d.head) (some q)
    else s

/-- TTASK or XTTASK whose release has been performed (R180, R335): its record address enters the queue once it has a slot. -/
def State.taskResponse (s : State) (w : Issuer) (a : Access) : State :=
  match s.claimTaskSlot a.k a.v a.opnd w.core? with
  | some s => s.issuerGoes w a
  | none => s

/-! Code visibility. -/

/-- The bytes that a block occupies (R61). -/
def Loaded.bytes (l : Loaded) : Nat := 16 + 8 * l.words.length + 8 * l.exits.length

/-- Whether a block overlaps a range of bytes of a context's address space. -/
def State.overlaps (s : State) (k va n : Nat) (l : Loaded) : Bool :=
  s.asid l.k = s.asid k && decide (l.blk < va + n) && decide (va < l.blk + l.bytes)

/-- CODEPUB after its release (R208, R301): cached copies of the range's blocks in the package are invalid, a tile takes no new invocation
from an invalid copy, and CTX_CODEGEN advances. -/
def State.codepub (s : State) (k va n : Nat) : State :=
  let s : State := if n = 0 then s else
    { s with
      ccache := s.ccache.filter fun c => !s.overlaps k va n c.2
      fab := { s.fab with blocks := s.fab.blocks.map fun (l : Loaded) =>
        if l.holder.temporal && s.overlaps k va n l then { l with refetch := true } else l } }
  s.setReg (.codegen k) (BitVec.ofNat 64 (((s.reg (.codegen k)).toNat + 1) % 2 ^ 32))

/-- Whether FETCHSYNC still waits (R209): another holder of the context than its own has a block from before the generation, or
a pinned one fetches its block again. -/
def State.syncWaits (s : State) (f : Firing) (gen : Nat) : Bool :=
  (s.fab.blocks.any fun l => l.stale f.k gen && l.holder ≠ f.site.holder &&
    (match l.holder with | .region _ _ => false | _ => true)) ||
  s.fetches.any fun x => x.k = f.k && x.holder ≠ f.site.holder && s.fab.spaces.any fun y => y.holder = x.holder && y.blk = x.blk

/-! The response of a firing's access. -/

/-- What a firing's access sends, by its instruction. -/
def State.firingResponse (s : State) (a : Access) (f : Firing) : State :=
  let out (s : State) : State := (s.dropAcc a.id).answer f 1 none
  let d := respNat a.pieces
  match f.instr with
  | none => s.dropAcc a.id
  | some i =>
    let t2 := i.t2?
    let h := f.hdr
    let drop := s.dropAcc a.id
    match i with
    | .ldb h _ _ t2 _ _ => drop.sendWord a f h t2 (extend h.ty 1 d).toNat
    | .ldh h _ _ t2 _ _ => drop.sendWord a f h t2 (extend h.ty 2 d).toNat
    | .ld h _ _ t2 _ _ => drop.sendWord a f h t2 d
    | .ldp h _ _ t2 _ _ => drop.sendPair a f h t2 d
    | .lds h _ _ _ _ t2 _ => drop.sendWord a f h t2 d
    | .ldsp h _ _ _ _ t2 _ => drop.sendPair a f h t2 d
    | .ptest h _ _ t2 _ => drop.sendWord a f h t2 ((a.pieces.head?.bind Piece.resp).getD 0)
    | .ldt h _ t2 _ => drop.sendWord a f h t2 d
    | .barwait h _ t2 _ _ =>
      (drop.emitAll f.site 1 (f.result h true .n32 (BitVec.ofNat 32 ((a.pieces.head?.bind Piece.resp).getD 0))) [h.t0, h.t1]).emit f.site t2 1
        (f.orderOut h true)
    | .publish _ _ _ desc => drop.publishNow f desc.toNat
    | .cpy _ _ _ _ _ => s.engineResponse (.firing f) a 1 ((a.pieces.head?.map Piece.addr).getD 0)
    | .gath _ _ _ _ _ => s.engineResponse (.firing f) a 2 ((a.pieces.head?.map Piece.addr).getD 0)
    | .scat _ _ _ _ _ => s.engineResponse (.firing f) a 3 ((a.pieces.head?.map Piece.addr).getD 0)
    | .coll _ _ _ _ _ => s.engineResponse (.firing f) a 4 ((a.pieces.head?.map Piece.addr).getD 0)
    | .launch _ _ _ _ _ => s.launchResponse f a ((a.pieces.head?.map Piece.addr).getD 0) none
    | .ttask _ _ _ _ _ => s.taskResponse (.firing f) a
    | .codepub _ _ _ _ _ => (drop.codepub a.k a.opnd a.cmp).answer f 1 none
    | .fetchsync _ _ _ => if s.syncWaits f a.opnd then s else out s
    | _ =>
      match a.kind with
      | .atomic .cas _ =>
        if a.pieces.length = 2 then drop.sendPair a f h t2 (respNat (a.pieces.drop 1)) else drop.sendWord a f h t2 d
      | .atomic _ _ => if (a.pieces.head?.map Piece.size) = some 8 then drop.sendPair a f h t2 d else drop.sendWord a f h t2 d
      | _ => out s

/-! The response of a core's access (R226 to R229). -/

/-- What a core does once the access that it waits for is performed, by its instruction. -/
def State.coreResponse (s : State) (a : Access) (c : CoreId) (rd : Nat) : State :=
  let drop := s.dropAcc a.id
  let d := (a.pieces.head?.bind Piece.resp).getD 0
  match s.core? c with
  | none => drop
  | some x =>
    let count (g : Core → Core) (before after : State) : State :=
      if after.fab.accs.any fun b => b.id = a.id then before else after.modCore c g
    let eng (kind : Nat) : State :=
      let r := s.engineResponse (.core c) a kind ((a.pieces.head?.map Piece.addr).getD 0)
      if r.fab.cmds.length = s.fab.cmds.length then r else r.modCore c fun y => { y with cpy := y.cpy + 1 }
    match decodeCore32 (BitVec.ofNat 32 x.word) with
    | .xlw _ _ _ _ => drop.coreWrites c rd (BitVec.ofNat 32 (respNat a.pieces))
    | .xbarw _ _ _ _ => drop.coreWrites c rd (BitVec.ofNat 32 d)
    | .xcpy _ _ _ => eng 1
    | .xgath _ _ _ => eng 2
    | .xscat _ _ _ => eng 3
    | .xcoll _ _ _ => eng 4
    | .xttask _ _ _ =>
      let r := s.taskResponse (.core c) a
      count (fun y => { y with tt := y.tt + 1 }) r r
    | .xpub desc _ _ _ =>
      match s.tensorId x.k x.v desc.toNat with
      | none => drop
      | some tid =>
        drop.sendPublish c.barn
          { k := x.k, asid := s.asid x.k, tid := tid, tile := a.opnd, gen := a.cmp, seq := 0, fire := none, core := some c,
            cmd := none, ready := 0 }
    | _ => drop.coreGoes c

/-- COUNTED_ACCESS_DONE (R226): access `n`, which a core counts, is performed; it leaves its counter, and XLQ's data takes
the position reserved for it. -/
def execCountedAccessDone (s : State) : Host.Outcome State Fault Refusal :=
  .next (match (s.fab.accs.drop s.arg.n).head? with
  | none => s
  | some a =>
    match a.origin with
    | .coreCount c _ q p =>
      if !s.performed a || !s.live a.k .ports then s
      else
        let s := s.dropAcc a.id
        match q with
        | none => s.modCore c fun x => { x with st := x.st - 1 }
        | some _ =>
          let fill (e : EqTok) : EqTok :=
            if e.id = p && e.tok.isNone then
              { e with tok := some { tag := a.tag, dep := a.dep, data := BitVec.ofNat 32 (respNat a.pieces), ty := e.bind.ty, poi := respPoi a.pieces } }
            else e
          (s.modFab fun g => { g with eqs := g.eqs.map fill }).modCore c fun x => { x with ld := x.ld - 1 }
    | _ => s)

/-- ACCESS_RESPONSE (R134, R141, R379): the response of access `n` returns to its port. -/
def execAccessResponse (s : State) : Host.Outcome State Fault Refusal :=
  .next (match (s.fab.accs.drop s.arg.n).head? with
  | none => s
  | some a =>
    if !s.live a.k .ports then s
    else match a.kind, a.origin with
      | .claim q, .firing f => s.claimResponse f a q
      | _, o =>
        if !s.performed a then s
        else match o with
          | .trapRec _ _ => s.dropAcc a.id
          | .direct _ _ => s
          | .firing f =>
            if (s.sbufOf a.id).isSome then
              (s.dropAcc a.id).modFab fun g => { g with sbuf := g.sbuf.filter fun e => e.acc ≠ some a.id }
            else if !s.runs a.k f.site.holder then s
            else s.firingResponse a f
          | .streamWrite f =>
            if (s.sbufOf a.id).isSome then
              (s.dropAcc a.id).modFab fun g => { g with sbuf := g.sbuf.filter fun e => e.acc ≠ some a.id }
            else
              let less (x : Stream) : Stream :=
                if x.site = f.site && x.fire.isSome && isPrefix x.tag x.dep f.tag f.dep then { x with writes := x.writes - 1, since := s.cyc } else x
              (s.dropAcc a.id).modFab fun g => { g with streams := g.streams.map less }
          | .stream f j =>
            (s.dropAcc a.id).modStream f.site f.tag f.dep fun x =>
              { x with words := x.words ++ [(j, a.token f f.hdr (respNat a.pieces))] }
          | .core c _ rd => if s.live a.k (.barn c.barn) then s.coreResponse a c rd else s
          | .coreCount _ _ _ _ => s)

/-! STRM and STRMW. -/

/-- STREAM_TOKEN_SEND (R163, R254): stream `n` of a STRM node sends its next token once its word is read, or traps for a
word that cannot be read; after the last token it sends its marker. -/
def execStreamTokenSend (s : State) : Host.Outcome State Fault Refusal :=
  .next (match (s.fab.streams.drop s.arg.n).head? with
  | none => s
  | some x =>
    match x.fire, x.count with
    | some f, some n =>
      match f.instr with
      | some (.strm h sw _ _) =>
        let w := sw.toNat + 1
        let j := x.next
        if x.stuck || s.cyc ≤ x.since || !s.runs f.k x.site.holder || s.windowFull x.site x.tag x.dep w j then s
        else if j = n then
          (s.dropStream x.site x.tag x.dep).emitAll x.site 1
            (({ f.result h true h.ty 0 with eos := true, poi := false }).under x.tag x.dep w n) [h.t0, h.t1]
        else match s.fab.accs.find? fun a => a.origin = .stream f j with
          | some a =>
            match a.trans with
            | .failed c =>
              let (t, d) := (pushField x.tag x.dep j w).getD (x.tag, x.dep)
              s.raiseThen { s.firingTrap f c (.stream f j) with tag := t, dep := d } fun s =>
                s.modStream x.site x.tag x.dep fun y => { y with stuck := true }
            | _ => s
          | none =>
            match x.words.find? fun p => p.1 = j with
            | none => s
            | some (_, k) =>
              (s.modStream x.site x.tag x.dep fun y =>
                { y with next := j + 1, words := y.words.filter (fun p => p.1 ≠ j), since := s.cyc }).emitAll x.site 1
                  (k.under x.tag x.dep w j) [h.t0, h.t1]
      | _ => s
    | _, _ => s)

/-- STRMW_COMPLETE (R164): stream `n` of a STRMW node has taken its marker and performed its writes, and sends its
completion token. -/
def execStrmwComplete (s : State) : Host.Outcome State Fault Refusal :=
  .next (match (s.fab.streams.drop s.arg.n).head? with
  | none => s
  | some x =>
    match x.fire with
    | some f =>
      match f.instr with
      | some (.strmw h _ _ _ _) =>
        if !x.done || x.writes ≠ 0 || !s.runs f.k x.site.holder then s
        else
          (s.dropStream x.site x.tag x.dep).emitAll x.site 1
            { tag := x.tag, dep := x.dep, data := 0, ty := .b32, poi := f.poi true, after := (x.after ++ f.after).eraseDups }
            [h.t0, h.t1]
      | _ => s
    | none => s)

end Sys2Proof.Machine
end

