-- ==== Sys2Proof/Machine/Blocks.lean ====
section
/-! DEFINITION. Blocks: their checks at a fetch (R61 to R68), what the Belfry makes of their words (R76, R437 to R442),
the fetch itself, and the nodes that trap or emulate. -/

namespace Sys2Proof.Machine

/-! A block's bytes. -/

/-- The 8-byte words of a byte string. -/
def dwords (b : List Byte) (o n : Nat) : List DWord := (upto n).map fun i => BitVec.ofNat 64 (recField b (o + 8 * i) 8)

/-- A block read from its bytes, not yet configured. -/
def parseBlock (h : Holder) (k v blk : Nat) (b : List Byte) : Loaded :=
  let hdr := BitVec.ofNat 128 (recField b 0 16)
  let n := hdrNINS hdr + 1
  { holder := h, k := k, v := v, blk := blk, hdr := hdr, words := dwords b 16 n,
    exits := dwords b (16 + 8 * n) (hdrNEXT hdr + 1), kinds := [], qcfg := [], codegen := 0, st := .configuring, since := 0 }

/-- Offset from which patch handler blocks are named (R442). -/
def patchBase : Nat := 0xF000000000000000

/-- Bytes of a block for a fetch: the patch store's, else memory's (R68, R442). -/
def State.blockGot (s : State) (die k v blk n : Nat) (src : Source) : State × UnitGot :=
  if patchBase ≤ blk then (s, .ok ((s.patchCode.drop (blk - patchBase)).take n) false) else s.unitFetch die k v blk n src

/-- The whole block at an address, as one event (R68). -/
def State.wholeBlock (s : State) (die k v blk : Nat) (src : Source) : State × UnitGot :=
  match s.blockGot die k v blk 16 src with
  | (s, .ok h _) => s.blockGot die k v blk (blockLen (BitVec.ofNat 128 (leNat h))) src
  | x => x

/-- The block at an address as a memory that can be read shows it. -/
def State.peekBlock (s : State) (h : Holder) (k blk : Nat) : Option Loaded :=
  match (s.wholeBlock 0 k 4096 blk srcIo).2 with
  | .ok b _ => some (parseBlock h k 0 blk b)
  | _ => none

/-! Checks (R67). -/

/-- The outcome of the checks marked "fetch". -/
inductive BlockCheck | ok | mark | sum | bad
  deriving DecidableEq, Repr

/-- The sum of 16-bit halves of a number of `n` halves. -/
def halves : Nat → Nat → Nat
  | 0, _ => 0
  | n + 1, x => x % 2 ^ 16 + halves n (x / 2 ^ 16)

/-- The sum of R63. -/
def Loaded.sum (l : Loaded) : Nat :=
  (halves 8 l.hdr.toNat + ((l.words ++ l.exits).map fun w => halves 4 w.toNat).sum) % 2 ^ 16

/-- The checks marked "fetch"; `minor` is the version that the part reports. R67 gives no precedence among them: the mark, then
SIG, MAJ and MIN come before the sum, and the sum before the others (DESIGN CHOICE, log 101). -/
def blockCheck (minor : Nat) (l : Loaded) : BlockCheck :=
  let h := l.hdr.toNat
  let lits := litFlags false l.words
  let code := codeWords l.words
  let last := l.words.length - 1
  if bitsAt h 112 16 = 0 then .mark
  else if bitsAt h 112 16 ≠ 0x59C4 || bitsAt h 104 8 ≠ 4 || minor < bitsAt h 96 8 then .bad
  else if l.sum ≠ 0 then .sum
  else if 3 < hdrPLACE l.hdr || bitsAt h 67 2 ≠ 0 || (code.any fun x => opOf x.2 = 0xC2 && (x.1 = 127 || x.1 = last)) ||
      (code.any fun x => (targetFields x.2).any fun t => match t with
        | some t => decide (last < t.idx.toNat) || (lits.drop t.idx.toNat).headD false
        | none => false) ||
      l.exits.any fun e => bitsAt e.toNat 60 4 ≠ 0 || bitsAt e.toNat 0 6 ≠ 0 then .bad
  else .ok

/-! Where a block may be placed (R242, R251, R256). -/

/-- Whether an instruction runs only on a tile or the Reeve (R74). -/
def temporalOnly (op : Nat) : Bool := [0x010, 0x011, 0x385, 0x38C, 0x38D].contains op

/-- Whether an instruction runs only in a systolic region (R74): WSWAP, MMAC, MDRAIN. -/
def systolicOnly (op : Nat) : Bool := [0x303, 0x304, 0x305].contains op

/-- Whether a block can be placed in a bay (R35, R64, R242). -/
def Loaded.spatial (l : Loaded) : Bool :=
  let code := codeWords l.words
  hdrPLACE l.hdr = 0 ||
    (hdrPLACE l.hdr = 3 && decide (code.length ≤ 128) && decide ((code.filter fun x => opOf x.2 / 64 = 7).length ≤ 32) &&
      !(code.any fun x => temporalOnly (opOf x.2) || systolicOnly (opOf x.2)) && decide (loftNeed l.hdr l.words ≤ 8192))

/-- Whether a block can be placed on a tile (R35, R64). -/
def Loaded.onTile (l : Loaded) : Bool :=
  (hdrPLACE l.hdr = 1 || hdrPLACE l.hdr = 3) && !((codeWords l.words).any fun x => systolicOnly (opOf x.2)) && decide (poolNeed l.hdr l.words ≤ poolBytes)

/-- Whether a block may be configured on a holder (R62, R251). -/
def Loaded.fits (l : Loaded) : Bool :=
  match l.holder with
  | .bay _ _ => l.spatial
  | .tile _ _ => l.onTile && !hdrREEVE l.hdr
  | .reeve => l.onTile && hdrREEVE l.hdr
  | .region _ _ => true

/-! What the Belfry makes of a word. -/

/-- Whether an enabled slot matches a word (R437). -/
def PatchSlot.matches (p : PatchSlot) (w : DWord) : Bool :=
  let f (lo n : Nat) : Nat := bitsAt w.toNat lo n
  p.act ≠ 0 && (f 54 10 &&& p.opm.toNat = p.opv.toNat &&& p.opm.toNat) && (p.tyany || f 48 4 = p.tyv.toNat) &&
    (f 40 8 &&& p.qm.toNat = p.qv.toNat &&& p.qm.toNat) && (p.pmany || f 52 2 = p.pmv.toNat)

/-- The slot that claims a word: highest PRI, then lowest number (R437). -/
def claimOf (slots : List PatchSlot) (w : DWord) : Option PatchSlot :=
  minBy (fun p => (15 - p.pri) * 16 + p.n) (slots.filter fun p => p.matches w)

/-- Whether an instruction sends different data on T0 and T1, which no emulation can supply (R442). -/
def twoOutputs : Instr → Bool
  | .ldp _ _ _ _ _ _ => true
  | .ldsp _ _ _ _ _ _ _ => true
  | .lit _ => true
  | .switch _ => true
  | .sync _ _ => true
  | .szip _ _ _ => true
  | .rdly _ _ _ _ => true
  | .rrel _ _ _ => true
  | .atadd64 _ _ _ _ _ _ _ => true
  | .atmin64 _ _ _ _ _ _ _ => true
  | .atmax64 _ _ _ _ _ _ _ => true
  | .atand64 _ _ _ _ _ _ _ => true
  | .ator64 _ _ _ _ _ _ _ => true
  | .atxor64 _ _ _ _ _ _ _ => true
  | .atswap64 _ _ _ _ _ _ _ => true
  | .atcas64 _ _ _ _ _ _ _ => true
  | _ => false

/-- Whether a block with IDEM = 1 refuses a word (R149, R182, R213). -/
def idemRefuses (w : DWord) : Bool :=
  let op := opOf w
  let q (i : Nat) : Bool := bitsAt w.toNat (40 + i) 1 = 1
  let g := op / 64
  if g = 8 then decide (0x204 ≤ op) && decide (op ≤ 0x207) && q 3
  else if g = 9 then
    (if op = 0x240 || op = 0x242 then q 1 else if op = 0x241 || op = 0x243 then q 0 else op ≠ 0x246)
  else if g = 0xB || g = 0xC || g = 0xD then true
  else if g = 0xE then !([0x380, 0x381, 0x382, 0x386].contains op)
  else false

/-- Replacement word `j` with the X that it copies (R440). -/
def PatchSlot.repWord (p : PatchSlot) (w : DWord) (j : Nat) : DWord :=
  let r := (p.rep.drop j).headD 0
  if p.cpx.getLsbD j then putField r 0 22 (bitsAt w.toNat 0 22) else r

/-- Whether an instruction or an entry of a block feeds a slot of word `i` (R441). -/
def Loaded.feeds (l : Loaded) (i : Nat) (sl : Slot) : Bool :=
  (sl = .a && decide (i ≤ hdrNENT l.hdr)) ||
    (codeWords l.words).any fun x =>
      let t := wordTargets x.2
      (if opOf x.2 = 0x186 then [t.2.1] else [t.1, t.2.1, t.2.2]).any fun t => match t with
        | some t => t.idx.toNat = i && t.slot = sl
        | none => false

/-- Whether a REWRITE of word `i` falls back to EMULATE (R441); `spare` are the frame's spare PEs left. -/
def Loaded.fallsBack (l : Loaded) (p : PatchSlot) (i : Nat) (w : DWord) (spare : Nat) : Bool :=
  l.holder.temporal || spare < p.nrep - 1 ||
    (hdrIDEM l.hdr && (upto p.nrep).any fun j => idemRefuses (p.repWord w j)) ||
    ((upto p.nrep).any fun j => p.cpx.getLsbD j && (decodeBase (p.repWord w j)).isNone) ||
    [Slot.a, .b, .c, .p].any fun sl => l.feeds i sl && bitsAt ((p.entmap.drop sl.toBits.toNat).headD 0).toNat 7 1 = 0

/-- What EMULATE makes of a word. -/
def emulated (n : Nat) (w : DWord) : NodeKind :=
  if ((decodeWord w).map twoOutputs).getD false then .trap n 0 else .emulate n

/-- Whether a word is illegal in its block alone: an ALLOC with LIM above SPACE + 1 (R101), or a RECONF that names no
converter node, nor a word that a slot claims (R127, R128). -/
def Loaded.illegalHere (l : Loaded) (slots : List PatchSlot) (w : DWord) : Bool :=
  match decodeBase w with
  | some (.alloc _ lim) => decide (hdrSPACE l.hdr + 1 < lim.toNat)
  | some (.reconf h _ _) =>
    match h.t0 with
    | some t =>
      let x := (l.words.drop t.idx.toNat).headD 0
      !isConverter (opOf x) && (claimOf slots x).isNone
    | none => true
  | _ => false

/-- What a word becomes (R76, R439 to R442), the spare PEs left and whether it fell back. -/
def Loaded.kindOf (l : Loaded) (slots : List PatchSlot) (i : Nat) (w : DWord) (spare : Nat) : NodeKind × Nat × Bool :=
  match claimOf slots w with
  | none => (if (decodeBase w).isSome && !l.illegalHere slots w then .plain else .illegal, spare, false)
  | some p =>
    if p.act = 1 || hdrPLACE l.hdr = 2 then (.trap p.n 0, spare, false)
    else if p.act = 3 then (emulated p.n w, spare, false)
    else if l.fallsBack p i w spare then (emulated p.n w, spare, true)
    else (.rewrite p.n, spare - (p.nrep - 1), false)

/-- The kinds of a block's words, in ascending order, and the fallbacks (R441). -/
def Loaded.kindsFrom (l : Loaded) (slots : List PatchSlot) : List (Bool × DWord) → Nat → Nat → List NodeKind × Nat
  | [], _, _ => ([], 0)
  | (lit, w) :: r, i, spare =>
    if lit then let x := l.kindsFrom slots r (i + 1) spare; (.plain :: x.1, x.2)
    else
      let (k, sp, fb) := l.kindOf slots i w spare
      let x := l.kindsFrom slots r (i + 1) sp
      (k :: x.1, x.2 + if fb then 1 else 0)

/-- Spare PEs of a bay frame under a column map: 8, 4 or 0 (R441, R461). -/
def sparePes (cols : Nat) : Nat := 8 - 4 * bitsAt cols 7 1 - 4 * bitsAt cols 15 1

/-- The kinds of a block under a set of slots. Words of the patch store are not offered. -/
def Loaded.kindsUnder (l : Loaded) (slots : List PatchSlot) : List NodeKind × Nat :=
  l.kindsFrom (if patchBase ≤ l.blk then [] else slots) ((litFlags false l.words).zip l.words) 0
    (match l.holder with | .bay _ _ => sparePes l.cols | _ => 0)

/-- The configuration words that a block's converter nodes copy from Q[3:0] of their words, replacement words among them
(R126). -/
def Loaded.startQ (l : Loaded) (slots : List PatchSlot) : List (Nat × BitVec 4) :=
  let conf (i : Nat) (w : DWord) : Option (Nat × BitVec 4) :=
    if isConverter (opOf w) then some (i, BitVec.ofNat 4 (bitsAt w.toNat 40 4)) else none
  ((upto l.words.length).zip (l.kinds.zip l.words)).flatMap fun x =>
    match x.2.1 with
    | .plain => (conf x.1 x.2.2).toList
    | .rewrite n =>
      match slots.find? fun (p : PatchSlot) => p.n = n with
      | some p => (upto p.nrep).filterMap fun j => conf (128 + 4 * x.1 + j) ((p.rep.drop j).headD 0)
      | none => []
    | _ => []

/-- Advances BEL_STAT.FBK by `n`, saturating (R441, R449). -/
def State.fallbacks (s : State) (n : Nat) : State :=
  if n = 0 then s else s.setField .belStat 16 16 (min 65535 (s.regField .belStat 16 16 + n))

/-- A fetched block takes its holder: it is configured under the slots in force. -/
def State.configure (s : State) (l : Loaded) (st : BayState) : State :=
  let cols := match l.holder.barn? with | some b => s.regField (.svcCtl b) 0 16 | none => 0
  let l := { l with cols := cols, codegen := (s.reg (.codegen l.k)).toNat, st := st, since := s.cyc, lastTake := s.cyc, taken := 0 }
  let ks := l.kindsUnder s.slots
  let l := { l with kinds := ks.1 }
  let l := { l with qcfg := l.startQ s.slots }
  (s.modFab fun g => { g with blocks := g.blocks ++ [l] }).fallbacks ks.2

/-! The fetch (R67, R68). -/

/-- The number of a holder's configuration cache: its barn, or 64 (R243, R246). -/
def cacheOf (h : Holder) : Nat := h.barn?.getD 64

/-- A block in a configuration cache. -/
def State.cached (s : State) (h : Holder) (k blk : Nat) : Option Loaded :=
  (s.ccache.find? fun c => c.1 = cacheOf h && c.2.k = k && c.2.blk = blk).map Prod.snd

/-- A cached block becomes the most recently used; beyond 32 the least recently used leaves (R243). -/
def State.cacheBlock (s : State) (l : Loaded) : State :=
  let u := cacheOf l.holder
  let c := (s.ccache.filter fun c => !(c.1 = u && c.2.k = l.k && c.2.blk = l.blk)) ++ [(u, l)]
  { s with ccache := if 32 < (c.filter fun x => x.1 = u).length then dropFirst (fun x => x.1 = u) c else c }

/-- The pending trap of a fetch. -/
def State.fetchTrap? (s : State) (f : Fetch) : Bool := s.traps.any fun t => t.hold = .fetch f.holder f.k f.v f.blk

/-- A trap of a fetch, of class G (R426, R427). -/
def State.fetchTrap (s : State) (f : Fetch) (c : Cause) : State :=
  s.raise { k := f.k, index := 0, tcode := c.code, cause := c.cause, cls := .G, srck := f.holder.srck, barn := f.holder.barnNo,
            unit := f.holder.unit, idx := 0xFF, blk := f.blk, word := 0, tag := mkTag 0 f.k f.v 0, dep := 0, slot := 0xFF,
            aux0 := BitVec.ofNat 64 c.aux0, aux1 := BitVec.ofNat 64 c.aux1, aux2 := BitVec.ofNat 32 c.aux2, cyc := 0, v := f.v,
            hold := .fetch f.holder f.k f.v f.blk }

/-- Puts a fetch back changed. -/
def State.putFetch (s : State) (f g : Fetch) : State := { s with fetches := mapFirst (fun x => x = f) (fun _ => g) s.fetches }

/-- The block of a fetch takes its holder, or leaves the fetch where the holder cannot take it. -/
def State.loaded (s : State) (f : Fetch) (l : Loaded) : State :=
  let s := { s.cacheBlock l with fetches := dropFirst (fun x => x = f) s.fetches }
  if l.fits then s.configure l .configuring else s

/-- One fetch of a block (R67): a page fault or an ATS request is waited for, a block under rewrite or with a wrong sum is
fetched again 64 cycles later, and a block that a check refuses raises BLOCK_FORMAT. -/
def State.fetchOnce (s : State) (f : Fetch) : State :=
  match s.cached f.holder f.k f.blk with
  | some l => s.loaded f { l with holder := f.holder, v := f.v }
  | none =>
    match s.wholeBlock (dieNo f.holder.barnNo) f.k f.v f.blk (srcBarn f.holder.barnNo) with
    | (s, .wait d i) => s.putFetch f { f with fault := some (d, i) }
    | (s, .ats) => s
    | (s, .denied) => s.fetchTrap f { code := tcPerm, cause := 3, aux0 := f.blk, aux1 := 3 }
    | (s, .bad) => s.fetchTrap f { code := tcPage, cause := 2, aux0 := f.blk, aux1 := s.asid f.k, aux2 := 16 * 256 + 3 }
    | (s, .ok b _) =>
      let l := parseBlock f.holder f.k f.v f.blk b
      match blockCheck (s.regField .belId 40 8) l with
      | .ok => s.loaded f l
      | .mark => s.putFetch f { f with again := s.cyc + 64 }
      | .sum =>
        if 3 ≤ f.fails then s.fetchTrap f { code := tcBlockFormat }
        else s.putFetch f { f with fails := f.fails + 1, again := s.cyc + 64 }
      | .bad => s.fetchTrap f { code := tcBlockFormat }

/-- Whether a fetch may go on: its context runs, no fault or trap of it is outstanding. -/
def State.fetchRuns (s : State) (f : Fetch) : Bool :=
  s.runs f.k f.holder && !s.fetchTrap? f && f.fire.isNone && match f.fault with
    | some (d, i) => !(s.pfaults.any fun p => p.die = d && p.fid = i)
    | none => true

/-- BLOCK_FETCH (R67, R68): fetch `n` reads its whole block for the first time. -/
def execBlockFetch (s : State) : Host.Outcome State Fault Refusal :=
  .next (match (s.fetches.drop s.arg.n).head? with
  | none => s
  | some f => if f.again = 0 && s.fetchRuns f then s.fetchOnce f else s)

/-- FETCH_RETRY (R67): fetch `n` is repeated 64 cycles after a block under rewrite or a wrong sum. -/
def execFetchRetry (s : State) : Host.Outcome State Fault Refusal :=
  .next (match (s.fetches.drop s.arg.n).head? with
  | none => s
  | some f => if f.again ≠ 0 && f.again ≤ s.cyc && s.fetchRuns f then s.fetchOnce f else s)

/-! Nodes that trap or emulate. -/

/-- The set that a trap node passes on: a marker or null token on the targets that its word names (R76). -/
def State.trapPass (s : State) (f : Firing) (nul eos rol : Bool) : State :=
  let k : Tok := { tag := f.tag, dep := f.dep, data := 0, ty := f.hdr.ty, nul := nul, eos := eos, rol := rol, poi := f.poi false }
  s.emitAll f.site 1 k (targetFields f.word)

/-- TRAP_NODE_FIRE (R76, R439): markers and null sets pass; any other set raises ILLEGAL, or PATCHED with the slot's
number. -/
def execTrapNodeFire (s : State) : Host.Outcome State Fault Refusal :=
  onFiring s fun f =>
    match f.kind false with
    | .roll => s.trapPass f false false true
    | .eos => s.trapPass f false true false
    | .mixed sl => s.streamLen f sl 0 0
    | .nul => s.trapPass f true false false
    | .data =>
      match s.nodeKind f.site with
      | .trap n c => s.trapFiring f { code := tcPatched, cause := c, aux0 := n }
      | .emulate n => s.trapFiring f { code := tcPatched, cause := 2, aux0 := n }
      | _ => s.trapFiring f { code := tcIllegal }

/-- The shape of an emulated word: that of its instruction, or of a trap node where it has none. -/
def emulationShape (f : Firing) : Shape :=
  let op := opOf f.word
  { h := { f.hdr with pm := PredMatch.ofBits (Fields.ofWord f.word).pm }, targets := targetFields f.word,
    orderIn := ((f.instr.bind Instr.optionalSlot).map fun sl => decide (sl = Slot.c)).getD false,
    nullOut := decide (8 ≤ op / 64) && decide (op / 64 ≤ 14) }

/-- EMULATION_FIRE (R442): a firing that executes takes a trap index with cause 1 and hands its tokens to the slot's patch
handler; it is held while the patch queue is full, and with no tile of the context in the barn it traps with cause 2. -/
def execEmulationFire (s : State) : Host.Outcome State Fault Refusal :=
  onFiring s fun f =>
    match s.nodeKind f.site with
    | .emulate n =>
      s.fired (emulationShape f) f fun s =>
        match s.firstTile f.k f.site.holder.barnNo with
        | none => s.trapFiring f { code := tcPatched, cause := 2, aux0 := n }
        | some t =>
          if 16 ≤ s.chanCount f.site.holder.barnNo t none then { s with held := true }
          else s.raise (s.firingTrap f { code := tcPatched, cause := 1, aux0 := n } (.emulation f n))
    | _ => s

end Sys2Proof.Machine
end

