-- ==== Sys2Proof/Machine/Strands.lean ====
section
/-! DEFINITION. Strands: gather queues (R239 to R241), bays (R242 to R245), flail tiles and their handlers (R246 to R251,
R442), and how invocations and instances end (R202, R237, R332). -/

namespace Sys2Proof.Machine

/-! Invocations. -/

/-- Whether anything of an invocation's tag is left at its holder, or on its way back to it (R237). -/
def State.busy (s : State) (i : Invoc) : Bool :=
  let g := s.fab
  (g.queues.any fun q => i.holds q.site.holder q.site.blk q.tok.tag q.tok.dep) ||
  (g.flights.any fun x => i.holds x.dst.holder x.dst.blk x.tok.tag x.tok.dep) ||
  (g.sets.any fun x => i.holds x.site.holder x.site.blk x.tag x.dep) ||
  (g.frames.any fun x => i.holds x.holder x.blk x.tag x.dep) ||
  (g.streams.any fun x => i.holds x.site.holder x.site.blk x.tag x.dep) ||
  (g.accs.any fun a => i.issued a.origin) ||
  (s.owing.any fun f => i.holds f.site.holder f.site.blk f.tag f.dep) ||
  (g.blocks.any fun l => l.reconf.any fun r => i.holds l.holder l.blk r.tok.tag r.tok.dep) ||
  (s.traps.any fun t => match t.hold with
    | .firing f => i.holds f.site.holder f.site.blk f.tag f.dep
    | .emulation f _ => i.holds f.site.holder f.site.blk f.tag f.dep
    | _ => false)

/-- Whether nothing is left of an invocation but LQTAKEs and KDONEs that wait (R336). -/
def State.onlyWaits (s : State) (i : Invoc) : Bool :=
  let wait (w : Wait) : Bool := w.core.isNone && i.holds w.fire.site.holder w.fire.site.blk w.fire.tag w.fire.dep &&
    match w.why with | .kdone _ => true | _ => false
  let claim (a : Access) : Bool := i.issued a.origin && a.pieces.isEmpty && match a.kind with | .claim _ => true | _ => false
  (s.fab.waits.any wait || s.fab.accs.any claim) &&
    !(s.modFab fun g => { g with waits := g.waits.filter fun w => !wait w, accs := g.accs.filter fun a => !claim a }).busy i

/-- Drained invocations go; a handler whose invocation drained is active no longer (R237, R250). -/
def State.drain (s : State) : State :=
  let gone := s.fab.invocs.filter fun i => i.closed && !s.busy i
  let done (h : Handler) : Bool := gone.any fun i => i.holder = .tile h.barn h.tile && i.k = h.k && i.handler = some h.ch
  s.modFab fun g => { g with
    invocs := g.invocs.filter fun i => !gone.contains i
    handlers := g.handlers.map fun h => if done h then { h with active := false } else h }

/-! Who may take an entry. -/

/-- PRIO of an instance (R328). -/
def Inst.prio (i : Inst) : Nat := bitsAt (recField i.recBytes 2 1) 0 3

/-- How long an item must wait to be aged (R244, R250, R336). -/
def agedAt : Nat := 16384

/-- The cycle in which an entry became ready. -/
def Gather.from (g : Gather) : Nat := g.ready.getD 0

/-- Whether an entry's instance may run on a holder. -/
def State.admits (s : State) (h : Holder) (k v : Nat) : Bool :=
  match s.inst? k v with
  | none => false
  | some i => i.outc = 0 && i.migr.isEmpty && match h.barn? with
    | some b => !i.graph && i.barns.contains b
    | none => i.graph

/-- Whether a holder may take a ready entry (R241). -/
def State.routable (s : State) (h : Holder) (g : Gather) : Bool :=
  g.ready.isSome && g.fid.isNone && (match g.home with | some x => decide (x = h) | none => true) && s.runs g.k h && s.admits h g.k g.v

/-- A block that waits, with its oldest entry, and how many entries wait (R244). -/
structure Candidate where
  k     : Nat
  v     : Nat
  blk   : Nat
  since : Nat
  count : Nat
  deriving DecidableEq, Repr

/-- Adds an entry to the candidates. -/
def addCandidate (l : List Candidate) (g : Gather) : List Candidate :=
  if l.any fun c => c.k = g.k && c.v = g.v && c.blk = g.blk then
    mapFirst (fun c => c.k = g.k && c.v = g.v && c.blk = g.blk) (fun c => { c with since := min c.since g.from, count := c.count + 1 }) l
  else l ++ [{ k := g.k, v := g.v, blk := g.blk, since := g.from, count := 1 }]

/-- Whether a candidate is aged (R244). -/
def State.aged (s : State) (c : Candidate) : Bool := decide (c.since + agedAt ≤ s.cyc)

/-- The rank of a candidate (R244): least first. -/
def State.rank (s : State) (c : Candidate) : List Nat :=
  [if s.aged c then 0 else 1, if s.aged c then c.since else 0, 7 - ((s.inst? c.k c.v).map Inst.prio).getD 0, 4096 - min c.count 4096,
   c.since, c.k, c.v, c.blk]

/-- Whether a block may be placed in a bay; one that cannot be read yet may be. -/
def State.bayBlock (s : State) (h : Holder) (k blk : Nat) : Bool :=
  match s.peekBlock h k blk with
  | some l => l.spatial
  | none => true

/-- Whether a ready entry makes its block a candidate of a barn (R244). -/
def State.offers (s : State) (b : Nat) (g : Gather) : Bool :=
  g.ready.isSome && g.fid.isNone && (match g.home with | some x => decide (x.barn? = some b) | none => true) &&
    s.admits (.bay b 0) g.k g.v && s.bayBlock (.bay b 0) g.k g.blk

/-- Puts an entry behind those that became ready no later. -/
def byReady (l : List Gather) (g : Gather) : List Gather :=
  l.takeWhile (fun x => decide (x.from ≤ g.from)) ++ g :: l.dropWhile fun x => decide (x.from ≤ g.from)

/-- Brings the candidate tables up to date (R244): a block without an entry leaves, and one that has come stands behind the
others of its barn. -/
def State.fillCands (s : State) : State :=
  let kept := s.cands.filter fun c => s.gathers.any fun g => c.2 = (g.k, g.v, g.blk) && s.offers c.1 g
  let come := ((s.gathers.filter fun g => g.ready.isSome).foldl byReady []).flatMap fun g =>
    ((((s.inst? g.k g.v).map Inst.barns).getD []).filter fun b => s.offers b g).map fun b => (b, g.k, g.v, g.blk)
  { s with cands := come.foldl (fun l c => if l.contains c then l else l ++ [c]) kept }

/-- The blocks that wait for a holder, with their entries. -/
def State.candidates (s : State) (h : Holder) (ok : Candidate → Bool) : List Candidate :=
  ((s.gathers.filter (s.routable h)).foldl addCandidate []).filter ok

/-- The candidate blocks of a bay (R244): those of the 64 entries of its barn's table. -/
def State.bayCands (s : State) (h : Holder) (ok : Candidate → Bool) : List Candidate :=
  let table := ((s.cands.filter fun c => some c.1 = h.barn?).take 64).map Prod.snd
  s.candidates h fun c => table.contains (c.k, c.v, c.blk) && ok c

/-! Gather entries. -/

/-- Whether an entry's values cover slots 0 to NENT. -/
def Gather.full (g : Gather) (nent : Nat) : Bool := (upto (nent + 1)).all fun i => ((g.vals.drop i).headD none).isSome

/-- Entries that meet the rule of readiness (R240) become ready; HOME names the holder of a live space instance whose key
is a prefix of the entry's tag (R241). -/
def State.readyGathers (s : State) : State :=
  let due (g : Gather) : Bool := g.ready.isNone && g.fid.isNone && g.from_.isEmpty &&
    ((s.peekHdr g.k g.blk).map fun h => g.full (hdrNENT h)).getD false
  let l := s.gathers.filter due
  let one (g : Gather) : Gather :=
    if l.contains g then { g with ready := some s.cyc, since := s.cyc, age := s.cyc, home := s.homeOf g } else g
  (foldState (fun s g => s.mirrorKey g.k g.v g.blk g.tag g.dep) { s with gathers := s.gathers.map one } l).fillCands

/-- An invocation closes: its deliveries count as those of a closed one (R202). -/
def State.closeInvoc (s : State) (key : InvKey) : State :=
  let s := s.modFab fun g => { g with invocs := mapFirst (fun i => i.key = key && !i.closed) (fun i => { i with closed := true }) g.invocs }
  let drop (g : Gather) : Gather := { g with from_ := g.from_.filter fun x => x ≠ key }
  ({ s with gathers := s.gathers.map drop }).readyGathers

/-- Whether a closing invocation's committed stores are performed and its deliveries made (R202). -/
def State.mayClose (s : State) (key : InvKey) : Bool :=
  !(s.fab.sbuf.any fun e => e.holder = key.holder && e.blk = key.blk && e.tag = key.tag && e.dep = key.dep) &&
  !(s.delivs.any fun d => d.from_ = some key)

/-- One value enters its gather entry, or claims a new one (R240). -/
def putValue (d : Delivery) (s : State) (x : Value) : State :=
  let put (g : Gather) : Gather :=
    { g with vals := putAt g.vals x.ent (some x.tok.asValue), closed := g.closed || d.from_.isSome || d.close
             from_ := match d.from_ with
               | some key => if g.from_.contains key then g.from_ else g.from_ ++ [key]
               | none => g.from_ }
  let s : State := if x.blk = 0 then s
  else if (s.forming? d.k d.v x.blk x.tag x.dep).isSome then
    { s with gathers := mapFirst (fun g => g.k = d.k && g.v = d.v && g.blk = x.blk && g.tag = x.tag && g.dep = x.dep &&
        g.ready.isNone && g.fid.isNone) put s.gathers }
  else
    let (s, pos) := s.claimSlot d.k d.v x.blk
    { s with gathers := s.gathers ++
      [put { k := d.k, v := d.v, blk := x.blk, tag := x.tag, dep := x.dep, vals := List.replicate 16 none, pos := pos, since := s.cyc }] }
  s.mirrorKey d.k d.v x.blk x.tag x.dep

/-- Whether a value finds its slot taken (R202). -/
def State.dupValue (s : State) (d : Delivery) (x : Value) : Bool :=
  match s.forming? d.k d.v x.blk x.tag x.dep with
  | some g => x.blk ≠ 0 && ((g.vals.drop x.ent).headD none).isSome
  | none => false

/-- A trap of a delivery: its firing is held and has not closed its invocation. -/
def State.badDelivery (s : State) (d : Delivery) (c : Cause) : State :=
  let s := match d.from_ with
    | some key => s.modFab fun g => { g with invocs := mapFirst (fun i => i.key = key && !i.closed) (fun i => { i with closing := i.closing && !d.close }) g.invocs }
    | none => s
  match d.fire, d.core with
  | some f, _ => s.trapFiring f c
  | none, some id => s.coreTrapAt id { c with slot := 0xFF }
  | none, none => s

/-- DUP_TOKEN (R202): successor and slot. -/
def Value.dup (x : Value) : Cause := { code := tcDupToken, slot := 0, aux0 := x.blk, aux1 := x.ent }

/-- The trap of a value, if any: a slot that is taken (R202), or for a RET an ENT above NENT of its block (R203). -/
def State.badValue (s : State) (d : Delivery) (x : Value) : Option Cause :=
  if x.ret && ((s.peekHdr d.k x.blk).map fun h => decide (hdrNENT h < x.ent)).getD false then
    some { code := tcCallLink, aux0 := (x.blk - ((s.inst? d.k d.v).map Inst.base).getD 0) / 64, aux1 := x.ent }
  else if s.dupValue d x then some x.dup
  else none

/-- The header of a value's block, read for NENT; a page that is absent raises a fault (DEDUCED, log 45). -/
def State.headerWait (s : State) (d : Delivery) (x : Value) : Option State :=
  if x.blk = 0 || patchBase ≤ x.blk || (s.peekHdr d.k x.blk).isSome then none
  else some (s.unitFetch 0 d.k d.v x.blk 16 srcIo).1

/-- GATHER_DELIVERY (R202, R215, R240): delivery `n` reaches the queue controller: its values enter their entries as one
step. -/
def execGatherDelivery (s : State) : Host.Outcome State Fault Refusal :=
  .next (match (s.delivs.drop s.arg.n).head? with
  | none => s
  | some d =>
    if s.cyc < d.ready || !s.live d.k .io || (s.freeTrapIndex d.k).isNone then s
    else match d.vals.findSome? (s.headerWait d) with
      | some s => s
      | none =>
        let s := { s with delivs := dropAt s.delivs s.arg.n }
        match d.vals.findSome? (s.badValue d) with
        | some c => s.badDelivery d c
        | none =>
          let s := foldState (putValue d) s d.vals
          match d.from_ with
          | some key => if d.close && s.mayClose key then s.closeInvoc key else s.readyGathers
          | none => s.readyGathers)

/-- INVOCATION_CLOSE (R202): invocation `n`, whose closing firing has fired, closes once its committed stores are
performed. -/
def execInvocationClose (s : State) : Host.Outcome State Fault Refusal :=
  .next (match (s.fab.invocs.drop s.arg.n).head? with
  | none => s
  | some i => if i.closing && !i.closed && s.mayClose i.key then s.closeInvoc i.key else s)

/-- Whether no configuration may begin at a holder: a Belfry load drains, or its partition is gated (R434, R448). -/
def State.noConfig (s : State) (h : Holder) : Bool := s.belLoad.isSome || s.gatedPart (partitionOf h)

/-- Whether a holder is free: no block, no fetch, and no PE of its frame in a region (R242, R243). -/
def State.holderFree (s : State) (h : Holder) : Bool :=
  !(s.fab.blocks.any fun l => l.holder = h) && !(s.fetches.any fun f => f.holder = h) &&
    match h with
    | .bay b f => !(s.fab.regions.any fun r => r.barn = b && decide (r.row ≤ 4 * f + 3) && decide (4 * f < r.row + r.h))
    | _ => true

/-- Begins the fetch of a block for a holder. -/
def State.startFetch (s : State) (h : Holder) (k v blk : Nat) : State :=
  { s with fetches := s.fetches ++ [{ holder := h, k := k, v := v, blk := blk, since := s.cyc }] }

/-- BAY_SELECT (R244, R341): the free bay frame `holder` takes the first candidate block of the context that holds it. -/
def execBaySelect (s : State) : Host.Outcome State Fault Refusal :=
  let h := s.arg.holder
  .next (match h with
  | .bay b f =>
    let s := s.fillCands
    if !s.holderFree h || s.noConfig h then s
    else match bestOf s.rank (s.bayCands h fun c => s.frameOwner b f = some c.k && s.bayBlock h c.k c.blk) with
      | some c => s.startFetch h c.k c.v c.blk
      | none => s
  | _ => s)

/-- Configures the PEs of a fetched block; cycles that it takes (R243, R246). -/
def configCycles (l : Loaded) : Nat := 8 + (hdrNINS l.hdr + 4) / 4

/-- BAY_CONFIGURED (R243, R246): the bay, tile or region `holder` has configured a fetched block and serves it. -/
def execBayConfigured (s : State) : Host.Outcome State Fault Refusal :=
  let due (l : Loaded) : Bool := l.holder = s.arg.holder && l.st = .configuring && decide (l.since + configCycles l ≤ s.cyc)
  let serve (l : Loaded) : Loaded := if due l then { l with st := .serving, since := s.cyc, lastTake := s.cyc, taken := 0 } else l
  .next (s.modFab fun g => { g with blocks := g.blocks.map serve })

/-! Taking an entry. -/

/-- A token on its way to an entry slot of a block. -/
def State.deliverEntry (s : State) (h : Holder) (blk : Nat) (x : Nat × Tok) : State :=
  match s.routeOrig ⟨h, blk, 0⟩ { idx := BitVec.ofNat 7 x.1, slot := .a } with
  | none => s
  | some (d, sl) =>
    s.modFab fun g => { g with flights := g.flights ++
      [{ src := ⟨h, blk, 4096⟩, dst := d, slot := sl, tok := x.2, out := false, ready := s.cyc + 1 }] }

/-- The values of entry slots 0 to NENT. -/
def entryToks (vals : List (Option Tok)) (nent : Nat) : List (Nat × Tok) :=
  (upto (nent + 1)).filterMap fun i => ((vals.drop i).headD none).map fun t => (i, t)

/-- An invocation begins on a holder: its values go to its entry slots (R237, R243). -/
def State.begin (s : State) (i : Invoc) : State :=
  let nent := ((s.block? i.holder i.blk).map fun l => hdrNENT l.hdr).getD 0
  let s := s.modFab fun g => { g with invocs := g.invocs ++ [{ i with taken := s.cyc }] }
  foldState (fun s x => s.deliverEntry i.holder i.blk x) s (entryToks i.vals nent)

/-- Pool bytes that a tile's invocations reserve (R248). -/
def State.reserved (s : State) (h : Holder) : Nat :=
  ((s.fab.invocs.filter fun i => i.holder = h).map fun i =>
    ((s.block? h i.blk).map fun l => poolNeed l.hdr l.words).getD 0).sum

/-- Whether a holder may begin an invocation of a block that it serves (R243, R248). -/
def State.mayBegin (s : State) (l : Loaded) : Bool :=
  l.st = .serving && !l.refetch &&
    match l.holder with
    | .bay _ _ => decide ((s.fab.invocs.filter fun i => i.holder = l.holder && !i.closed).length < 32)
    | .region _ _ => false
    | _ => decide (s.reserved l.holder + poolNeed l.hdr l.words ≤ poolBytes)

/-- Whether a loaded block runs strands of a queue: a bay those of its instance, a tile those of its context (R243, R246). -/
def Loaded.serves (l : Loaded) (g : Gather) : Bool :=
  l.k = g.k && l.blk = g.blk && !hdrHANDLER l.hdr && (l.holder.temporal || l.v = g.v)

/-- Whether the Reeve may take entries of a context (R336). -/
def State.reeveTakes (s : State) (h : Holder) (k : Nat) : Bool := h ≠ .reeve || (s.reeveK = some k && !s.reeveClose)

/-- The entry that a holder takes next: the one that became ready first (R240). -/
def State.nextEntry (s : State) (h : Holder) : Option (Gather × Loaded) :=
  let ls := s.fab.blocks.filter fun l => l.holder = h && s.mayBegin l
  let gs := s.gathers.filter fun g => s.routable h g && s.reeveTakes h g.k
  minBy (fun x => x.1.ready.getD 0) (gs.filterMap fun g => (ls.find? fun l => l.serves g).map fun l => (g, l))

/-- GATHER_TAKE (R237, R240, R243, R248): the bay, tile or Reeve `holder` takes the ready entry that is first, and runs its
strand. -/
def execGatherTake (s : State) : Host.Outcome State Fault Refusal :=
  let h := s.arg.holder
  let s := s.drain
  .next (match s.nextEntry h with
  | none => s
  | some (g, l) =>
    let seen (x : Loaded) : Loaded :=
      if x.k = g.k && x.blk = g.blk && (x.v = g.v || x.holder.temporal) && s.routable x.holder g then
        { x with lastTake := s.cyc, taken := if x.holder = h then x.taken + 1 else x.taken }
      else x
    let s := (({ s with gathers := dropFirst (fun y => y = g) s.gathers }).mirrorGather true g).fillCands
    let s := s.modFab fun f => { f with blocks := f.blocks.map seen }
    let s : State := if h = .reeve then { s with reeveTaken := s.reeveTaken + 1, reeveLast := s.cyc } else s
    s.begin { holder := h, blk := l.blk, k := g.k, v := g.v, tag := g.tag, dep := g.dep, vals := g.vals, taken := s.cyc })

/-! Closing and freeing. -/

/-- Whether a holder's space table holds an instance of a block (R241). -/
def State.pinned (s : State) (h : Holder) (blk : Nat) : Bool := s.fab.spaces.any fun x => x.holder = h && x.blk = blk

/-- Whether the Belfry load in progress claims some word of a block differently, or by a slot whose record differs
(R448). -/
def Loaded.affected (l : Loaded) (old new_ : List PatchSlot) : Bool :=
  (codeWords l.words).any fun x => claimOf old x.2 ≠ claimOf new_ x.2

/-- Whether an aged block waits in a bay's barn (R243, R244): a candidate other than the block that it holds. -/
def State.agedWaits (s : State) (l : Loaded) : Bool :=
  (s.fillCands.bayCands l.holder fun c => s.aged c && !(c.k = l.k && c.v = l.v && c.blk = l.blk)) ≠ []

/-- Whether a serving block must close: for want of entries, for an aged rival, to be fetched again (R209), or for the
Belfry load in progress (R448), whose slots are `new_`. -/
def State.mustClose (s : State) (l : Loaded) (new_ : Option (List PatchSlot)) : Bool :=
  let ready := s.gathers.any fun g => s.routable l.holder g && l.serves g
  (!ready && decide (l.lastTake + 64 ≤ s.cyc)) || (decide (64 ≤ l.taken) && s.agedWaits l) || l.refetch ||
    (match new_ with | some n => l.affected s.slots n | none => false)

/-- The patch slots of the image of a Belfry load in progress; see the records of R436. -/
def parseSlot (b : List Byte) (n : Nat) : PatchSlot :=
  let f (o : Nat) : Nat := recField b o 1
  { n := n, pri := bitsAt (f 0) 0 4, act := bitsAt (f 1) 0 2, opv := BitVec.ofNat 10 (recField b 2 2),
    opm := BitVec.ofNat 10 (recField b 4 2), tyv := BitVec.ofNat 4 (f 6), tyany := bitsAt (f 6) 4 1 = 1,
    pmv := BitVec.ofNat 2 (f 7), pmany := bitsAt (f 7) 2 1 = 1, qv := BitVec.ofNat 8 (f 8), qm := BitVec.ofNat 8 (f 9),
    nrep := f 10, cpx := BitVec.ofNat 4 (f 11), entmap := (b.drop 0x0C).take 4, hoff := recField b 0x10 4,
    rep := dwords b 0x20 4 }

/-- The slots that a patch image holds (R445). -/
def imageSlots (b : List Byte) : List PatchSlot :=
  (upto (recField b 0x0D 1)).map fun n => parseSlot (b.drop (0x80 + 64 * n)) n

/-- BAY_IDLE_TIMEOUT (R243): the serving bay `holder` enters closing; a pinned one does not. -/
def execBayIdleTimeout (s : State) : Host.Outcome State Fault Refusal :=
  let new_ := s.belLoad.map fun r => imageSlots r.bytes
  let bay : Bool := match s.arg.holder with | .bay _ _ => true | _ => false
  let close (l : Loaded) : Bool := bay && l.holder = s.arg.holder && l.st = .serving && !s.pinned l.holder l.blk && s.live l.k (stopUnitOf l.holder) && s.mustClose l new_
  .next (s.modFab fun g => { g with blocks := g.blocks.map fun l => if close l then { l with st := .closing, since := s.cyc } else l })

/-- Whether nothing runs of a block on a holder. -/
def State.idleBlock (s : State) (h : Holder) (blk : Nat) : Bool :=
  !(s.fab.invocs.any fun i => i.holder = h && i.blk = blk) && !s.pinned h blk

/-- A pinned holder whose block must be fetched again fetches it in place once no invocation of it runs (R209, R241). -/
def State.fetchAgain (s : State) (h : Holder) : State :=
  let due (l : Loaded) : Bool := l.holder = h && l.refetch && s.live l.k (stopUnitOf h) && s.pinned h l.blk &&
    !(s.fab.invocs.any fun i => i.holder = h && i.blk = l.blk)
  match s.fab.blocks.find? due with
  | some l =>
    if s.noConfig h || s.fetches.any fun f => f.holder = h then s
    else (s.modFab fun g => { g with blocks := dropFirst (fun x => x = l) g.blocks }).startFetch h l.k l.v l.blk
  | none => s

/-- BAY_FREE (R243): a closing bay whose invocations have drained is free; on a tile or the Reeve the blocks that must be
fetched again, or that a Belfry load affects, leave once idle. A pinned holder fetches such a block again in place. -/
def execBayFree (s : State) : Host.Outcome State Fault Refusal :=
  let h := s.arg.holder
  let s := s.drain
  let new_ := s.belLoad.map fun r => imageSlots r.bytes
  let hit (l : Loaded) : Bool := match new_ with | some n => l.affected s.slots n | none => false
  let goes (l : Loaded) : Bool := l.holder = h && s.live l.k (stopUnitOf h) && s.idleBlock h l.blk &&
    match h with
    | .bay _ _ => l.st = .closing
    | .region _ _ => false
    | _ => l.refetch || hit l
  .next ((s.modFab fun g => { g with blocks := g.blocks.filter fun l => !goes l }).fetchAgain h)

/-! Tiles. -/

/-- Whether some bay frame of a barn stands free for a context. -/
def State.bayStands (s : State) (h : Holder) (k : Nat) : Bool :=
  match h.barn? with
  | some b => (upto 8).any fun f => s.frameOwner b f = some k && s.holderFree (.bay b f)
  | none => false

/-- The context whose blocks a tile holds (R246, DEDUCED, log 30). -/
def State.tileContext (s : State) (h : Holder) : Option Nat :=
  match h with
  | .tile b t => s.tileOwner b t
  | .reeve => s.reeveK
  | _ => none

/-- Whether a block may be loaded into a tile for a candidate: it needs room in the frame pool (R251). -/
def State.tileBlock (s : State) (h : Holder) (c : Candidate) : Bool :=
  match s.peekBlock h c.k c.blk with
  | some l => l.fits && !hdrHANDLER l.hdr && !(l.spatial && s.bayStands h c.k) &&
      decide (s.reserved h + poolNeed l.hdr l.words ≤ poolBytes)
  | none => true

/-- The handler block that a tile needs first and does not hold. -/
def State.handlerNeed (s : State) (b t k : Nat) : Option (Nat × Nat) :=
  (s.fab.handlers.find? fun h => h.barn = b && h.tile = t && h.k = k && decide (s.chanCount b t (some h.ch) ≠ 0) &&
    (s.block? (.tile b t) h.blk).isNone).map fun h => (h.v, h.blk)

/-- What a tile loads next: a handler with words waiting, else the first candidate block. -/
def State.tileNeed (s : State) (h : Holder) (k : Nat) : Option (Nat × Nat) :=
  match (match h with | .tile b t => s.handlerNeed b t k | _ => none) with
  | some x => some x
  | none => (bestOf s.rank (s.candidates h fun c => c.k = k && (s.block? h c.blk).isNone && s.reeveTakes h c.k && s.tileBlock h c)).map
      fun c => (c.v, c.blk)

/-- Words that a block takes in a tile's instruction store. -/
def State.storeWords (s : State) (h : Holder) (k blk : Nat) : Nat :=
  match s.block? h blk with
  | some l => l.words.length
  | none => ((s.peekBlock h k blk).map fun l => l.words.length).getD 128

/-- Drops idle blocks of a tile until a block of `n` words fits among at most eight and 1,024 words (DESIGN CHOICE, log 47). -/
def State.makeRoom (s : State) (h : Holder) (n : Nat) : Nat → Option State
  | 0 => none
  | fuel + 1 =>
    let own := s.fab.blocks.filter fun l => l.holder = h && l.blk < patchBase && (h ≠ .reeve || s.reeveK = some l.k)
    if decide (own.length < 8) && decide ((own.map fun l => l.words.length).sum + n ≤ 1024) then some s
    else match minBy Loaded.lastTake (own.filter fun l => s.idleBlock h l.blk) with
      | some l => (s.modFab fun g => { g with blocks := dropFirst (fun x => x = l) g.blocks }).makeRoom h n fuel
      | none => none

/-- TILE_LOAD (R246, R251): the tile or Reeve `holder` begins the load of a block that waits for it. Idle blocks of another
context leave first; in the Reeve, those of invocations that only wait stay (R336; DESIGN CHOICE, log 115). -/
def execTileLoad (s : State) : Host.Outcome State Fault Refusal :=
  let h := s.arg.holder
  let s := s.drain
  .next (match s.tileContext h with
  | none => s
  | some k =>
    let other (l : Loaded) : Bool := l.holder = h && l.k ≠ k
    if !h.temporal || s.noConfig h || (s.fetches.any fun f => f.holder = h) ||
        (h ≠ .reeve && s.fab.blocks.any fun l => other l && !s.idleBlock h l.blk) then s
    else
      let s := s.modFab fun g => { g with blocks := g.blocks.filter fun l => !(other l && s.idleBlock h l.blk) }
      match s.tileNeed h k with
      | none => s
      | some (v, blk) =>
        match s.makeRoom h (s.storeWords h k blk) 9 with
        | some s => s.startFetch h k v blk
        | none => s)

/-! Handlers. -/

/-- A word that a tile may run next, by its place in the list of channel words. -/
structure Runnable where
  n     : Nat
  word  : ChanWord
  pri   : Nat
  blk   : Nat
  deriving DecidableEq, Repr

/-- The runnable head words of a tile: patch words, and channel words whose handler is installed and not masked (R250,
R442). -/
def State.runnables (s : State) (b t k : Nat) : List Runnable :=
  let head (n : Nat) (c : ChanWord) : Bool := !((s.fab.chans.take n).any fun x => x.barn = c.barn && x.tile = c.tile && x.ch = c.ch)
  (upto s.fab.chans.length).filterMap fun n =>
    match (s.fab.chans.drop n).head? with
    | none => none
    | some c =>
      if c.barn ≠ b || c.tile ≠ t || c.k ≠ k || s.cyc < c.since || !head n c then none
      else match c.ch with
        | none => some { n := n, word := c, pri := 8, blk := patchBase + ((s.patchSlot? c.link).map PatchSlot.hoff).getD 0 }
        | some ch =>
          if s.masks.contains (b, t, ch) then none
          else (s.fab.handlers.find? fun h => h.barn = b && h.tile = t && h.k = k && h.ch = ch).map fun h =>
            { n := n, word := c, pri := h.pri, blk := h.blk }

/-- The rank of a runnable word (R250, R442): aged channel words, patch words, then PRI, age and channel. -/
def State.runRank (s : State) (r : Runnable) : List Nat :=
  match r.word.ch with
  | none => [1, 0, r.word.since, 0]
  | some ch => if r.word.since + agedAt ≤ s.cyc then [0, 0, r.word.since, ch] else [2, 7 - r.pri, r.word.since, ch]

/-- A patch handler block stands in a tile's patch store (R442). -/
def State.needPatch (s : State) (h : Holder) (k blk : Nat) : State :=
  if blk < patchBase || (s.block? h blk).isSome then s
  else match (s.wholeBlock 0 k 0 blk srcIo).2 with
    | .ok b _ => s.configure (parseBlock h k 0 blk b) .serving
    | _ => s

/-- The tokens that a handler invocation receives: its word in in.0, and an emulated firing's in in.1 to in.4. -/
def ChanWord.vals (c : ChanWord) : List (Option Tok) := some c.tok :: c.ops ++ List.replicate (15 - c.ops.length) none

/-- HANDLER_SELECT (R250, R442): tile `j` of barn `u`, with no handler active, removes the first runnable word and runs one
invocation of its handler. -/
def execHandlerSelect (s : State) : Host.Outcome State Fault Refusal :=
  let h : Holder := .tile s.arg.u s.arg.j
  let s := s.drain
  .next (match s.tileOwner s.arg.u s.arg.j with
  | none => s
  | some k =>
    if (s.fab.invocs.any fun i => i.holder = h && (i.handler.isSome || i.patch.isSome)) || !s.runs k h ||
        (s.scrubs.any fun c => c.k = k && c.barn = s.arg.u) then s
    else match bestOf s.runRank (s.runnables s.arg.u s.arg.j k) with
      | none => s
      | some r =>
        let s := s.needPatch h k r.blk
        match s.block? h r.blk with
        | none => s
        | some l =>
          if !s.mayBegin l || s.noConfig h then s
          else
            let mine (x : Handler) : Bool := x.barn = s.arg.u && x.tile = s.arg.j && x.k = k && some x.ch = r.word.ch
            let s := s.modFab fun g => { g with
              chans := dropAt g.chans r.n
              blocks := mapFirst (fun x => x = l) (fun x => { x with lastTake := s.cyc }) g.blocks
              handlers := g.handlers.map fun x => if mine x then { x with active := true } else x }
            s.begin { holder := h, blk := r.blk, k := k, v := tagV r.word.tok.tag, tag := r.word.tok.tag, dep := r.word.tok.dep,
                      vals := r.word.vals, handler := r.word.ch, patch := if r.word.ch.isNone then some r.word.link else none,
                      taken := s.cyc })

/-! The steps of a placement (R340). -/

/-- Whether a scrub of a placed instance's slot is in progress in one of its barns. -/
def State.settling (s : State) (i : Inst) : Bool := s.scrubs.any fun c => c.k = i.k && i.barns.contains c.barn

/-- Whether a placed instance has taken the steps before its entry strand: scrubs, migration, and the start of its core
programs. -/
def State.settled (s : State) (i : Inst) : Bool :=
  i.placed.isSome && !i.graph && !i.strand && i.outc = 0 && i.migr.isEmpty && !s.settling i &&
    i.progs.all fun p => s.fab.cores.any fun c => c.id = ⟨p.1, p.2⟩ && c.k = i.k && c.v = i.v

/-- The entry strands of placed instances that have taken those steps leave for their gather queues (R236, R343). -/
def State.placedStrands (s : State) : State :=
  let due (i : Inst) : Bool := s.settled i
  let die (i : Inst) : Nat := ((lowest (fun b => i.barns.contains b) 64).map dieOf).getD 0
  let l := s.insts.filter due
  { s with
    delivs := s.delivs ++ l.map fun i => i.entryStrand (die i) (s.cyc + 4 + 16 * bounds ioDie (die i))
    insts := s.insts.map fun (i : Inst) => if due i then { i with strand := true } else i }

/-! The end of an instance. -/

/-- Whether all work of an instance is gone (R237). -/
def State.instDone (s : State) (i : Inst) : Bool :=
  let mine := ofInst i.k i.v
  (i.outc ≠ 0 || i.strand) &&
  !(s.gathers.any fun g => g.k = i.k && g.v = i.v) && !(s.delivs.any fun d => d.k = i.k && d.v = i.v) &&
  !(s.fab.invocs.any fun x => x.k = i.k && x.v = i.v) && !(s.fab.eqs.any fun e => e.k = i.k && e.v = i.v) &&
  !(s.fab.chans.any fun c => mine c.tok.tag) && i.progs.isEmpty && !(s.fab.cores.any fun c => c.k = i.k && c.v = i.v && c.active) &&
  !(s.fab.cmds.any fun c => c.k = i.k && c.v = i.v) && !(s.tasks.any fun t => t.k = i.k && t.v = i.v) &&
  !(s.taskQ.any fun t => t.k = i.k && t.v = i.v && !t.freed) &&
  !(s.traps.any fun t => t.k = i.k && t.v = i.v && (t.cls = .F || t.cls = .G))

/-- The exit status of the loader or storer program of an instance; 0 where it is absent (R332). An instance in several
barns runs a program in each, and the manual does not say whose status it is (DESIGN CHOICE, log 51). -/
def State.exitOf (s : State) (i : Inst) (storer : Bool) : Word :=
  let l := (i.exits.filter fun e => e.1 = storer).map Prod.snd
  if l.length ≤ 1 then l.headD 0 else (l.drop (s.choice % l.length)).headD 0

/-- REAP of an instance (R328). -/
def Inst.reap (i : Inst) : Bool := recField i.recBytes 3 1 % 2 = 1

/-- A KDONE that waited for a completed instance goes on with its status word (R212), while its holder has its context. -/
def State.answerKdone (s : State) (i : Inst) (w : Wait) : State :=
  let h := w.fire.hdr
  s.emitAll w.fire.site 1 (w.fire.result h false h.ty i.status) [h.t0, h.t1]

/-- An instance has completed: waiting KDONEs are answered, its number is freed unless REAP keeps it, and its barns are
released (R332, R340). -/
def State.retire (s : State) (i : Inst) : State :=
  let own (w : Wait) : Bool := w.k = i.k && w.why = .kdone i.v
  let mine (w : Wait) : Bool := own w && s.reeveHas w.fire.site.holder w.k
  let later := s.fab.waits.any fun w => own w && !mine w
  let ws := s.fab.waits.filter mine
  let s := s.modFab fun g => { g with waits := g.waits.filter fun w => !mine w }
  let s := foldState (fun s w => s.answerKdone i w) s ws
  let s : State :=
    if later || (i.reap && ws.isEmpty) then s.modInst i.k i.v fun x => { x with done := true, placed := none, barns := [] }
    else { s with insts := s.insts.filter fun x => !(x.k = i.k && x.v = i.v) }
  let s : State := { s with fetches := s.fetches.filter fun f => !(f.k = i.k && f.v = i.v && (match f.holder with | .region _ _ => false | _ => true)) }
  let s := s.modFab fun g => { g with
    cores := g.cores.filter fun c => !(c.k = i.k && c.v = i.v)
    handlers := g.handlers.filter fun h => h.k ≠ i.k || (s.placedIn h.barn).contains i.k }
  (s.scrubLeft i.k i.barns).settleFallback

/-- INSTANCE_COMPLETE (R237, R332): instance `n` of slot `k`, whose work is gone, writes its status record, as a release at .sys, and completes; a completed one
answers a KDONE whose context has come back to the Reeve. -/
def execInstanceComplete (s : State) : Host.Outcome State Fault Refusal :=
  let s := s.drain
  .next (match s.inst? s.arg.k s.arg.n with
  | none => s
  | some i =>
    if i.done then (if s.fab.waits.any fun w => w.k = i.k && w.why = .kdone i.v && s.reeveHas w.fire.site.holder w.k then s.retire i else s)
    else if !s.instDone i then s
    else
      let at_ := recField i.recBytes 0x38 8
      let b := leBytes 4 i.status.toNat ++ leBytes 4 (s.exitOf i false).toNat ++ leBytes 4 (s.exitOf i true).toNat ++ leBytes 4 (s.cyc % 2 ^ 32)
      if at_ = 0 then s.retire i
      else if (s.fab.accs.any fun a => a.k = i.k && a.v = i.v) || (s.hostBusy.any fun h => h.2 = i.k) then s
      else match s.sysWrite 0 i.k i.v at_ b srcIo with
        | (s, .wait _ _) => s
        | (s, .ats) => s
        | (s, _) => s.retire i)

end Sys2Proof.Machine
end

