-- ==== Sys2Proof/Machine/Paging.lean ====
section
/-! DEFINITION. Page faults and their resolution (R369 to R373), invalidation (R367), frames that move (R277, R278,
R368), and the allocations of the scratchpad and weight buffers with their scrubs (R261, R268, R270). -/

namespace Sys2Proof.Machine

/-! Page faults. -/

/-- The entry of a fault in the device fault queue (R370). -/
def PageFault.entry (p : PageFault) : List Byte :=
  leBytes 8 (p.va % 2 ^ 60) ++ leBytes 4 (p.tile.getD 0) ++ leBytes 2 p.asid ++
  leBytes 1 (p.access % 4 + (if p.tile.isSome then 4 else 0) + (if p.malf then 8 else 0) + (if p.idem then 16 else 0)) ++
  leBytes 1 p.k ++ leBytes 4 p.fid ++ leBytes 2 p.src ++ leBytes 2 0 ++ leBytes 8 p.cyc

def State.modFault (s : State) (die fid : Nat) (f : PageFault → PageFault) : State :=
  { s with pfaults := mapFirst (fun p => p.die = die && p.fid = fid) f s.pfaults }

def State.fault? (s : State) (die fid cause : Nat) : Option PageFault :=
  s.pfaults.find? fun p => p.die = die && p.fid = fid && p.cause = cause && !p.failed

/-- FAULT_QUEUE_WRITE (R370): die `u` writes its oldest fault of cause 0 into its queue, when there is one with room. -/
def execFaultQueueWrite (s : State) : Host.Outcome State Fault Refusal :=
  let d := s.arg.u
  let n := s.regField (.trFqb d) 60 4
  let base := s.regField (.trFqb d) 5 39 * 32
  let head := s.regField (.trFqht d) 0 32
  let tail := s.regField (.trFqht d) 32 32
  match s.pfaults.find? fun p => p.die = d && p.cause = 0 && !p.sent && !p.failed with
  | none => .next s
  | some p =>
    if n < 4 || 2 ^ n ≤ (tail + 2 ^ 32 - head) % 2 ^ 32 then .next s
    else atPhysical base (.next (
      let s := (s.writePa (base + 32 * (tail % 2 ^ n)) p.entry).modFault d p.fid fun p => { p with sent := true }
      let s := s.bump (.trFqht d) 32 32
      if tail = head then s.hostEvent { type := 1, slot := 0xFF, a := d, b := 0, cyc := 0 } else s))

/-- PRI_REQUEST (R373): the request of fault `n` of die `u` is sent; at most 512 are outstanding. -/
def execPriRequest (s : State) : Host.Outcome State Fault Refusal :=
  .next (match s.fault? s.arg.u s.arg.n 1 with
  | none => s
  | some p =>
    if p.sent || 512 ≤ (s.pfaults.filter fun p => p.cause = 1 && p.sent && !p.failed).length then s
    else s.modFault s.arg.u s.arg.n fun p => { p with sent := true })

/-- PAGE for what waits outside the accesses on a fault (R372): a queued entry of an aborted invocation, or a unit's own
read or write. It is retried once the trap is resolved. -/
def State.pageWait (s : State) (p : PageFault) (c : Cause) (v idx blk : Nat) (tag : DWord) (dep : Nat) : State :=
  s.raise { k := p.k, index := 0, tcode := tcPage, cause := c.cause, cls := .F, srck := 7, barn := 0xFF, unit := 0, idx := idx,
            blk := blk, word := 0, tag := tag, dep := dep, slot := 0xFF, aux0 := BitVec.ofNat 64 c.aux0,
            aux1 := BitVec.ofNat 64 c.aux1, aux2 := BitVec.ofNat 32 c.aux2, cyc := 0, v := v, hold := .page p.die p.fid }

/-- The record of a page fault on which no access waits. -/
def PageFault.cause? (p : PageFault) : Cause := { code := tcPage, cause := p.cause, aux0 := p.va, aux1 := p.asid, aux2 := p.access }

/-- ENGINE with cause 8 for a command, TTASK_FORMAT's class E for a task: FAIL ends them (R372). -/
def State.failUnits (s : State) (p : PageFault) : State :=
  let at_ := some (p.die, p.fid)
  let s := s.modFab fun g => { g with cmds := g.cmds.map fun (c : Cmd) => if c.fault = at_ then { c with fault := none, cause := 8 } else c }
  let ts := s.tasks.filter fun t => t.fault = at_
  foldState (fun s (t : Task) => (s.unitTrap t.k t.v 6 t.die t.recAt
    { code := tcPage, cause := p.cause, aux0 := p.va, aux1 := p.asid, aux2 := p.access }).discardTask t.id) s ts

/-- A page fault is resolved with FAIL (R372, R373): PAGE reaches everything that waits on it. An access's record holds its own
address, or behind a tile table TTAB and the tile number (R152, R276). -/
def State.failFault (s : State) (p : PageFault) : State :=
  let at_ := some (p.die, p.fid)
  let accs := s.fab.accs.filter fun a => a.trans = .fault p.die p.fid
  let gats := s.gathers.filter fun g => g.fid = at_
  let fets := s.fetches.filter fun f => f.fault = at_
  let units := (s.fab.cmds.any fun c => c.fault = at_) || (s.tasks.any fun t => t.fault = at_) || s.loadFault = at_
  let s : State := if s.loadFault = at_ then { s with loadFault := none, loadFailed := true } else s
  let va (a : Access) : Nat := if p.tile.isSome then p.va else ((s.nextPiece a).bind fun i => (a.pieces.drop i).head?.map Piece.addr).getD p.va
  let cause (a : Access) : Cause := s.faultCause a (va a) p.cause p.tile
  let s := foldState (fun s (a : Access) => s.accessTrap { a with trans := .ready } (cause a)) s accs
  let free (f : Fetch) : Fetch := if f.fault = at_ then { f with fault := none } else f
  let s : State := { s with fetches := s.fetches.map free }
  let s := foldState (fun s (f : Fetch) => s.fetchTrap { f with fault := none }
    { code := tcPage, cause := p.cause, aux0 := p.va, aux1 := p.asid, aux2 := 16 * 256 + 3 }) s fets
  let s := s.failUnits p
  let s := foldState (fun s (g : Gather) => s.pageWait p (g.why.getD p.cause?) g.v g.idx g.blk g.tag g.dep) s gats
  if !gats.isEmpty then s.modFault p.die p.fid fun p => { p with failed := true }
  else if accs.isEmpty && fets.isEmpty && !units then
    (s.pageWait p p.cause? 4096 0xFF 0 (mkTag 0 p.k 0 0) 0).modFault p.die p.fid fun p => { p with failed := true }
  else { s with pfaults := s.pfaults.filter fun x => !(x.die = p.die && x.fid = p.fid) }

/-- PRI_RESPONSE (R373): the answer to the request of fault `n` of die `u`: Success with `flag`, else a failure. -/
def execPriResponse (s : State) : Host.Outcome State Fault Refusal :=
  .next (match s.fault? s.arg.u s.arg.n 1 with
  | none => s
  | some p => if !p.sent then s else if s.arg.flag then s.retryFault p.die p.fid else s.failFault p)

/-- FQRES_RETRY (R372): a write `val` of TR_FQRES of die `u` with ACT 0. -/
def execFqresRetry (s : State) : Host.Outcome State Fault Refusal :=
  .next (match s.fault? s.arg.u (bitsAt s.arg.val.toNat 0 24) 0 with
  | none => s
  | some p => s.retryFault p.die p.fid)

/-- FQRES_FAIL (R372): a write with ACT 1. -/
def execFqresFail (s : State) : Host.Outcome State Fault Refusal :=
  .next (match s.fault? s.arg.u (bitsAt s.arg.val.toNat 0 24) 0 with
  | none => s
  | some p => s.failFault p)

/-! Invalidation (R367). -/

/-- Whether a command covers a range of an address space. -/
def State.invCovers (s : State) (c : InvCmd) (asid va size : Nat) : Bool :=
  (c.kind = 0 || (if c.ats then s.pasid? asid = some c.asid else asid = c.asid)) && c.kind ≠ 3 &&
    (c.kind ≠ 2 || (decide (va < c.va + 2 ^ c.log2) && decide (c.va < va + size)))

/-- Accesses that used a translation which a command drops, and are not performed yet. -/
def State.invWaits (s : State) (c : InvCmd) : List Nat :=
  (s.fab.accs.filter fun a => !a.done && a.pieces.any fun p => match p.place with
    | some (.dev, _) => s.invCovers c (s.asid a.k) p.addr p.size
    | some (.host, _) => s.invCovers c (s.asid a.k) p.addr p.size
    | _ => false).map Access.id

/-- The command at the head of the queue takes effect. -/
def State.startInv (s : State) : State :=
  match s.invq with
  | [] => s
  | c :: r =>
    let entry (a : Nat) : Bool := c.kind = 0 || ((c.kind = 1 || c.kind = 3) && !c.ats && a = c.asid)
    { s with
      tlb := s.tlb.filter fun e => !s.invCovers c e.asid e.va e.size
      walks := s.walks.filter fun e => !s.invCovers c e.asid e.va e.size
      asids := s.asids.filter fun e => !entry e.asid
      tileEnts := s.tileEnts.filter fun e => !s.invCovers c e.asid e.ttab (64 + 8 * (e.tile + 1))
      invq := { c with wait := s.invWaits c } :: r }

/-- A command enters the queue. -/
def State.pushInv (s : State) (c : InvCmd) : State :=
  if s.invq.isEmpty then ({ s with invq := [c] }).startInv else { s with invq := s.invq ++ [c] }

/-- A command of TR_INV (R367): one beyond 64 pending, or with a reserved or unaligned value, is discarded. -/
def State.invCommand (s : State) (kind : Nat) : State :=
  let v := s.arg.val.toNat
  let log2 := if kind = 2 then bitsAt v 56 6 else 12
  let va := s.regField .trInvva 0 60
  if 64 ≤ (s.invq.filter fun c => !c.ats).length || bitsAt v 16 40 ≠ 0 || log2 < 12 || 60 < log2 || (kind = 2 && va % 2 ^ log2 ≠ 0) then
    s.setField .trInvstat 63 1 1
  else s.pushInv { kind := kind, asid := bitsAt v 0 16, va := va, log2 := log2, ats := false, wait := [] }

/-- INV_ALL, INV_ASID, INV_RANGE, INV_ASID_ENTRY (R367): a write `val` of TR_INV with KIND 0 to 3. -/
def execInvAll (s : State) : Host.Outcome State Fault Refusal := .next (s.invCommand 0)
def execInvAsid (s : State) : Host.Outcome State Fault Refusal := .next (s.invCommand 1)
def execInvRange (s : State) : Host.Outcome State Fault Refusal := .next (s.invCommand 2)
def execInvAsidEntry (s : State) : Host.Outcome State Fault Refusal := .next (s.invCommand 3)

/-- ATS_INVALIDATE (R367): the host's request for PASID `n` and `2^m` bytes at `val`. -/
def execAtsInvalidate (s : State) : Host.Outcome State Fault Refusal :=
  .next (s.pushInv { kind := 2, asid := s.arg.n, va := s.arg.val.toNat, log2 := s.arg.m, ats := true, wait := [] })

/-! Frames. -/

/-- Frame size of a size class (R277). -/
def classSize (c : Nat) : Nat := match c with | 0 => 2 ^ 12 | 1 => 2 ^ 14 | 2 => 2 ^ 16 | _ => 2 ^ 21

def classOf (size : Nat) : Option Nat := (upto 4).find? fun c => classSize c = size

/-- What taking a frame from a list gives (R277). -/
inductive FrameGot
  | got (s : State) (frame : Nat)
  | empty
  | bad

/-- Takes the last free frame of class `c` of the descriptor at a physical address (R277). -/
def State.takeFrame (s : State) (desc c : Nat) : FrameGot :=
  let at_ := desc + 16 * c
  let list := s.readPa at_ 8
  let cap := s.readPa (at_ + 8) 4
  let free := s.readPa (at_ + 12) 4
  if cap < free || 2 ^ 44 ≤ list then .bad
  else if free = 0 then .empty
  else
    let f := s.readPa (list + 8 * (free - 1)) 8
    if f % classSize c ≠ 0 || reservedPa f then .bad else .got (s.writePaN (at_ + 12) 4 (free - 1)) f

/-- Returns a frame to its list; none where it is full (R277). -/
def State.giveFrame (s : State) (desc c frame : Nat) : Option State :=
  let at_ := desc + 16 * c
  let free := s.readPa (at_ + 12) 4
  let list := s.readPa at_ 8
  if s.readPa (at_ + 8) 4 ≤ free || 2 ^ 44 ≤ list then none
  else some ((s.writePaN (list + 8 * free) 8 frame).writePaN (at_ + 12) 4 (free + 1))

/-- The descriptor of a channel's free list (R368). -/
def State.channelList (s : State) (c : Nat) : Nat := s.regField .trCfl 6 38 * 64 + 64 * c

/-- The shadow pool of a context slot (R277). -/
def State.shadowPool (s : State) (k : Nat) : Option Nat :=
  if s.regField (.ctxShdpool k) 0 1 = 1 then some (s.regField (.ctxShdpool k) 6 38 * 64) else none

/-- The cells of a memory outside a range. -/
def clearRange (l : List Host.Cell) (a n : Nat) : List Host.Cell := l.filter fun c => decide (c.1 < a) || decide (a + n ≤ c.1)

/-- Copies a range of cells. -/
def copyRange (l : List Host.Cell) (src dst n : Nat) : List Host.Cell :=
  ((l.filter fun c => decide (src ≤ c.1) && decide (c.1 < src + n)).map fun c => (dst + (c.1 - src), c.2)).foldl
    (fun l c => putCell l c.1 c.2) (clearRange l dst n)

/-- Copies poison marks with a range of device memory (R151). -/
def copyPoison (l : List Nat) (src dst n : Nat) : List Nat :=
  ((l.filter fun u => decide (src ≤ 64 * u) && decide (64 * u < src + n)).map fun u => (dst + 64 * u - src) / 64).foldl insNat
    (l.filter fun u => !(decide (dst ≤ 64 * u) && decide (64 * u < dst + n)))

/-- The leaf of a page: address of its first replica, how many there are, and its entry (R362, R363). -/
structure Leaf where
  at_   : Nat
  n     : Nat
  entry : Nat
  size  : Nat
  deriving DecidableEq, Repr

def State.leafFrom (s : State) (va : Nat) : Nat → List (Nat × Nat) → Option Leaf
  | _, [] => none
  | base, (shift, bits) :: below =>
    let i := bitsAt va shift bits
    let e := s.readPa (base + 8 * i) 8
    match bitsAt e 0 2 with
    | 1 => s.leafFrom va (bitsAt e 12 32 * 4096) below
    | 2 => (replicas shift (bitsAt e 8 2)).map fun n => { at_ := base + 8 * (i / n * n), n := n, entry := e, size := n * 2 ^ shift }
    | _ => none

/-- The leaf that maps an address of an address space; none where an entry is invalid or malformed (R361, R363). -/
def State.leafOf (s : State) (asid va : Nat) : Option Leaf :=
  match s.rootOf asid with
  | none => none
  | some (root, pasid) => match s.walkFrom va pasid root levels with
    | .page _ _ _ _ _ _ _ _ => s.leafFrom va root levels
    | _ => none

/-- The device frame of a leaf. -/
def Leaf.frame (l : Leaf) : Nat := bitsAt l.entry 12 32 * 4096

/-- Moves a page to another frame (R278, R368): its bytes and poison, every replica of its leaf, and the accesses that wait
at its old frame; then it is invalidated. `back` returns the old frame afterwards, `retire` ends a retirement. -/
def State.movePage (s : State) (asid va : Nat) (l : Leaf) (new_ : Nat) (back retire : Option (Nat × Nat)) : State :=
  let old := l.frame
  let e := l.entry - bitsAt l.entry 12 32 * 4096 + new_
  let move (p : Piece) : Piece := match p.place, p.resp with
    | some (.dev, x), none => if old ≤ x && x < old + l.size then { p with place := some (.dev, new_ + (x - old)) } else p
    | _, _ => p
  let acc (a : Access) : Access := if a.done then a else { a with pieces := a.pieces.map move }
  let s : State := { s with dmem := copyRange s.dmem old new_ l.size, poisD := copyPoison s.poisD old new_ l.size
                            fab := { s.fab with accs := s.fab.accs.map acc } }
  let s := foldState (fun s j => s.writePaN (l.at_ + 8 * j) 8 e) s (upto l.n)
  s.pushInv { kind := 2, asid := asid, va := va / l.size * l.size, log2 := Nat.log2 l.size, ats := false, wait := [], back := back,
              retire := retire }

/-- A retirement ends (R463): its record at `res` is written with STATUS and NEWPA, and DONE advances. -/
def State.endRetire (s : State) (res status newpa : Nat) : State :=
  let s := s.writePa res (leBytes 2 status ++ recZero 6 ++ leBytes 8 newpa)
  (s.setField .hbmRetstat 63 1 0).bump .hbmRetstat 0 32

/-- INV_COMPLETE (R367, R368): the oldest command completes once every access that used a dropped translation is performed;
DONE advances, and a migrated page's old frame returns to its channel's list. -/
def execInvComplete (s : State) : Host.Outcome State Fault Refusal :=
  .next (match s.invq with
  | [] => s
  | c :: r =>
    if s.fab.accs.any fun a => c.wait.contains a.id && !a.done then s
    else
      let s : State := { s with invq := r }
      let s := if c.ats then s else s.bump .trInvstat 0 32
      let s := match c.back with
        | some (cl, f) => (s.giveFrame (s.channelList (f / 2 ^ 31)) cl f).getD s
        | none => s
      let s := match c.retire with | some (res, new_) => s.endRetire res 0 new_ | none => s
      s.startInv)

/-- CTX_SHDPOOL_WRITE (R277): slot `k`, value `val`; discarded while a shadowed command of the slot is queued or in
progress. -/
def execCtxShdpoolWrite (s : State) : Host.Outcome State Fault Refusal :=
  .next (if s.fab.cmds.any fun c => c.k = s.arg.k && recField c.bytes 3 1 % 2 = 1 then s
    else s.writeReg (.ctxShdpool s.arg.k) s.arg.val)

/-- SHADOW_FRAME_RETURN (R277): frame `n` of the list returns to its pool once every access that translated to it is
performed; a full list drops it. -/
def execShadowFrameReturn (s : State) : Host.Outcome State Fault Refusal :=
  .next (match (s.shadowRet.drop s.arg.n).head? with
  | none => s
  | some (k, c, f) =>
    let used (p : Piece) : Bool := p.resp.isNone && match p.place with
      | some (.dev, x) => decide (f ≤ x) && decide (x < f + classSize c)
      | _ => false
    if s.fab.accs.any fun a => !a.done && a.pieces.any used then s
    else
      let s : State := { s with shadowRet := dropAt s.shadowRet s.arg.n }
      match (s.shadowPool k).bind fun d => s.giveFrame d c f with
      | some s => s
      | none =>
        let n := ((s.shadowDrop.find? fun p => p.1 = k).map Prod.snd).getD 0
        { s with shadowDrop := (s.shadowDrop.filter fun p => p.1 ≠ k) ++ [(k, n + 1)] })

/-- The nearest channels of a port of a barn (R273). -/
def nearest (barn port : Nat) : List Nat :=
  let stack := 2 * dieOf barn + barn % 8 / 4
  let c := 32 * stack + 8 * (barn % 4) + 2 * port
  [c, c + 1]

/-- PAGE_MIGRATION (R278, R368): the first page of instance `n`'s list moves to a nearest channel of its port, unless it is
pinned, large, not in device memory, already there, or no frame is free. -/
def execPageMigration (s : State) : Host.Outcome State Fault Refusal :=
  let go (s : State) : State := match (s.insts.drop s.arg.n).head? with
  | none => s
  | some i =>
    match if s.settling i then [] else i.migr with
    | [] => s
    | (va, port) :: r =>
      let s := s.modInst i.k i.v fun i => { i with migr := r }
      let near := nearest ((lowest (fun b => i.barns.contains b) 64).getD 0) port
      match s.leafOf (s.asid i.k) va with
      | none => s
      | some l =>
        if 2 ^ 21 < l.size || bitsAt l.entry 7 1 = 1 || 2 ^ 40 ≤ l.frame || near.contains (l.frame / 2 ^ 31) then s
        else match classOf l.size with
          | none => s
          | some c =>
            let try_ (ch : Nat) : Option (State × Nat) := match s.takeFrame (s.channelList ch) c with
              | .got s f => some (s, f)
              | _ => none
            match near.findSome? try_ with
            | some (s, f) => s.movePage (s.asid i.k) va l f (some (c, l.frame)) none
            | none => s
  .next (go s).placedStrands

/-! Allocations and scrubs. -/

/-- Whether a value of an allocation register is accepted: within `n` units and apart from every other slot's. -/
def State.allocOk (s : State) (barn k : Nat) (weight : Bool) (n : Nat) (v : Nat) : Bool :=
  let base := bitsAt v 0 6
  let size := bitsAt v 8 6
  let meets (j : Nat) : Bool :=
    let r : Reg := if weight then .wbufAlloc barn j else .spadAlloc barn j
    let b := s.regField r 0 6
    let z := s.regField r 8 6
    j ≠ k && size ≠ 0 && z ≠ 0 && decide (base < b + z) && decide (b < base + size)
  decide (base + size ≤ n) && !((upto 32).any meets)

/-- SPAD_ALLOC_WRITE (R261): barn `u`, slot `k`, value `val`; an accepted write starts a scrub. -/
def execSpadAllocWrite (s : State) : Host.Outcome State Fault Refusal :=
  .next (if s.allocOk s.arg.u s.arg.k false 48 s.arg.val.toNat then
    (s.writeReg (.spadAlloc s.arg.u s.arg.k) s.arg.val).scrub s.arg.u s.arg.k false else s)

/-- WBUF_ALLOC_WRITE (R270): barn `u`, slot `k`, value `val`. -/
def execWbufAllocWrite (s : State) : Host.Outcome State Fault Refusal :=
  .next (if s.allocOk s.arg.u s.arg.k true 32 (s.arg.val.toNat % 2 ^ 14 - bitsAt s.arg.val.toNat 5 1 * 32) then
    (s.writeReg (.wbufAlloc s.arg.u s.arg.k) s.arg.val).scrub s.arg.u s.arg.k true else s)

/-- A range of a slice or weight buffer is all zeros, empty and clean (R268). -/
def State.zeroUnits (s : State) (c : Scrub) : State :=
  let n := c.size * 2 ^ 16
  if c.weight then
    let a := c.barn * 2 ^ 21 + c.base * 2 ^ 16
    { s with wbuf := clearRange s.wbuf a n, poisW := s.poisW.filter fun u => decide (4 * u < a) || decide (a + n ≤ 4 * u) }
  else
    let a := c.barn * 2 ^ 22 + c.base * 2 ^ 16
    let out (u : Nat) : Bool := decide (16 * u < a) || decide (a + n ≤ 16 * u)
    { s with scr := clearRange s.scr a n, pres := s.pres.filter out, poisS := s.poisS.filter out }

/-- SCRUB_DONE (R268): scrub `n` has written its zeros; BUSY clears. -/
def execScrubDone (s : State) : Host.Outcome State Fault Refusal :=
  .next (match (s.scrubs.drop s.arg.n).head? with
  | none => s
  | some c =>
    let s := ({ s with scrubs := dropAt s.scrubs s.arg.n }).zeroUnits c
    let r : Reg := if c.weight then .wbufAlloc c.barn c.k else .spadAlloc c.barn c.k
    (if s.scrubs.any fun d => d.barn = c.barn && d.k = c.k && d.weight = c.weight then s else s.setField r 31 1 0).placedStrands)

end Sys2Proof.Machine
end

