-- ==== Sys2Proof/Machine/Rv.lean ====
section
/-! DEFINITION. The base instructions of a loader or storer core: RV32IMAC with Zicsr in machine mode (R216, R217, R231,
R232, R234). The base encodings and their meanings are those of the published RISC-V specifications (PRESUMED, log 50). -/

namespace Sys2Proof.Machine

/-! Compressed instructions. -/

/-- A field of `n` bits of a 16-bit parcel, moved from bit `lo` to bit `at_`. -/
def cbits (h lo n at_ : Nat) : Nat := bitsAt h lo n * 2 ^ at_

def encI (imm rs1 f3 rd op : Nat) : Nat := (imm % 4096) * 2 ^ 20 + rs1 * 2 ^ 15 + f3 * 2 ^ 12 + rd * 2 ^ 7 + op
def encR (f7 rs2 rs1 f3 rd op : Nat) : Nat := f7 * 2 ^ 25 + rs2 * 2 ^ 20 + rs1 * 2 ^ 15 + f3 * 2 ^ 12 + rd * 2 ^ 7 + op
def encS (imm rs2 rs1 f3 : Nat) : Nat :=
  bitsAt imm 5 7 * 2 ^ 25 + rs2 * 2 ^ 20 + rs1 * 2 ^ 15 + f3 * 2 ^ 12 + bitsAt imm 0 5 * 2 ^ 7 + 0x23
def encB (imm rs2 rs1 f3 : Nat) : Nat :=
  bitsAt imm 12 1 * 2 ^ 31 + bitsAt imm 5 6 * 2 ^ 25 + rs2 * 2 ^ 20 + rs1 * 2 ^ 15 + f3 * 2 ^ 12 + bitsAt imm 1 4 * 2 ^ 8 +
    bitsAt imm 11 1 * 2 ^ 7 + 0x63
def encJ (imm rd : Nat) : Nat :=
  bitsAt imm 20 1 * 2 ^ 31 + bitsAt imm 1 10 * 2 ^ 21 + bitsAt imm 11 1 * 2 ^ 20 + bitsAt imm 12 8 * 2 ^ 12 + rd * 2 ^ 7 + 0x6F

/-- An `n`-bit value sign-extended to 32 bits. -/
def sx (v n : Nat) : Nat := wrapNat (signedOf v n) 32

/-- The 32-bit form of a 16-bit instruction; none for one that is not defined. -/
def expand (h : Nat) : Option Nat :=
  let rd := bitsAt h 7 5
  let r2 := bitsAt h 2 5
  let a := 8 + bitsAt h 7 3
  let b := 8 + bitsAt h 2 3
  let i6 := sx (cbits h 12 1 5 + cbits h 2 5 0) 6
  match bitsAt h 0 2, bitsAt h 13 3 with
  | 0, 0 =>
    let n := cbits h 11 2 4 + cbits h 7 4 6 + cbits h 6 1 2 + cbits h 5 1 3
    if n = 0 then none else some (encI n 2 0 b 0x13)
  | 0, 2 => some (encI (cbits h 10 3 3 + cbits h 6 1 2 + cbits h 5 1 6) a 2 b 0x03)
  | 0, 6 => some (encS (cbits h 10 3 3 + cbits h 6 1 2 + cbits h 5 1 6) b a 2)
  | 1, 0 => some (encI i6 rd 0 rd 0x13)
  | 1, 1 => some (encJ (sx (cbits h 12 1 11 + cbits h 11 1 4 + cbits h 9 2 8 + cbits h 8 1 10 + cbits h 7 1 6 + cbits h 6 1 7 +
      cbits h 3 3 1 + cbits h 2 1 5) 12) 1)
  | 1, 2 => some (encI i6 0 0 rd 0x13)
  | 1, 3 =>
    if rd = 2 then
      let n := sx (cbits h 12 1 9 + cbits h 6 1 4 + cbits h 5 1 6 + cbits h 3 2 7 + cbits h 2 1 5) 10
      if n = 0 then none else some (encI n 2 0 2 0x13)
    else
      let n := cbits h 12 1 5 + cbits h 2 5 0
      if n = 0 then none else some (bitsAt (sx n 6) 0 20 * 2 ^ 12 + rd * 2 ^ 7 + 0x37)
  | 1, 4 =>
    match bitsAt h 10 2 with
    | 0 => if bitsAt h 12 1 = 1 then none else some (encI (bitsAt h 2 5) a 5 a 0x13)
    | 1 => if bitsAt h 12 1 = 1 then none else some (encI (0x400 + bitsAt h 2 5) a 5 a 0x13)
    | 2 => some (encI i6 a 7 a 0x13)
    | _ =>
      if bitsAt h 12 1 = 1 then none
      else match bitsAt h 5 2 with
        | 0 => some (encR 0x20 b a 0 a 0x33)
        | 1 => some (encR 0 b a 4 a 0x33)
        | 2 => some (encR 0 b a 6 a 0x33)
        | _ => some (encR 0 b a 7 a 0x33)
  | 1, 5 => some (encJ (sx (cbits h 12 1 11 + cbits h 11 1 4 + cbits h 9 2 8 + cbits h 8 1 10 + cbits h 7 1 6 + cbits h 6 1 7 +
      cbits h 3 3 1 + cbits h 2 1 5) 12) 0)
  | 1, 6 => some (encB (sx (cbits h 12 1 8 + cbits h 10 2 3 + cbits h 5 2 6 + cbits h 3 2 1 + cbits h 2 1 5) 9) 0 a 0)
  | 1, _ => some (encB (sx (cbits h 12 1 8 + cbits h 10 2 3 + cbits h 5 2 6 + cbits h 3 2 1 + cbits h 2 1 5) 9) 0 a 1)
  | 2, 0 => if bitsAt h 12 1 = 1 then none else some (encI (bitsAt h 2 5) rd 1 rd 0x13)
  | 2, 2 => if rd = 0 then none else some (encI (cbits h 12 1 5 + cbits h 4 3 2 + cbits h 2 2 6) 2 2 rd 0x03)
  | 2, 4 =>
    if bitsAt h 12 1 = 0 then
      if r2 = 0 then (if rd = 0 then none else some (encI 0 rd 0 0 0x67)) else some (encR 0 r2 0 0 rd 0x33)
    else if r2 = 0 then some (if rd = 0 then 0x00100073 else encI 0 rd 0 1 0x67)
    else some (encR 0 r2 rd 0 rd 0x33)
  | 2, 6 => some (encS (cbits h 9 4 2 + cbits h 7 2 6) r2 2 2)
  | _, _ => none

/-! Control and status registers. -/

/-- Values of the machine-mode CSRs that read as constants: misa, and those that read 0. -/
def constCsr (n : Nat) : Option Word :=
  if n = 0x301 then some 0x40001105
  else if [0x304, 0x310, 0x320, 0x344, 0xF11, 0xF12, 0xF13, 0xF14, 0xF15].contains n || (decide (0x323 ≤ n) && decide (n ≤ 0x33F)) ||
      (decide (0xB03 ≤ n) && decide (n ≤ 0xB1F)) || (decide (0xB83 ≤ n) && decide (n ≤ 0xB9F)) then some 0
  else none

/-- Bits of a CSR that a write sets; none for a CSR that is not implemented on this core. -/
def csrMask (n : Nat) : Option Word :=
  if n = 0x300 then some 0x88 else if n = 0x305 then some 0xFFFFFFFD else if n = 0x341 then some 0xFFFFFFFE
  else if [0x340, 0x342, 0x343, 0xB00, 0xB02, 0xB80, 0xB82, csrXtaglo].contains n then some 0xFFFFFFFF
  else if n = csrXrpt then some 0x7F
  else if n = csrXtaghi then some 0x003F0FFF
  else if 0x7D0 ≤ n && n ≤ 0x7DF then some 0xFFFFFFFF
  else if 0x7E0 ≤ n && n ≤ 0x7EF then some 0xFFFE0000
  else if [0xFC0, 0xFC1, 0xFC2, 0xFC3].contains n then some 0
  else if (constCsr n).isSome then some 0
  else none

/-- Whether a core has a CSR: the edge-queue bindings are the loader's (R232). -/
def Core.hasCsr (c : Core) (n : Nat) : Bool :=
  (csrMask n).isSome && !(c.id.storer && decide (0x7D0 ≤ n) && decide (n ≤ 0x7EF))

/-- The value that a read of a CSR gives (R216, R228, R232); `lb` is the logical barn of the core (R462). -/
def Core.readCsr (c : Core) (cyc lb n : Nat) : Word :=
  match constCsr n with
  | some v => v
  | none =>
    if n = 0x300 then c.csr 0x300 ||| 0x1800
    else if n = 0xB00 then BitVec.ofNat 32 (cyc + c.count64 0xB00)
    else if n = 0xB80 then BitVec.ofNat 32 ((cyc + c.count64 0xB00) / 2 ^ 32)
    else if n = 0xFC0 then BitVec.ofNat 32 ((if c.id.storer then 2 ^ 31 else 0) + lb * 2 ^ 25 + c.k * 2 ^ 20 + c.v)
    else if n = 0xFC1 then 0x102
    else if n = 0xFC2 then BitVec.ofNat 32 (c.ld * 2 ^ 24 + c.st * 2 ^ 16 + c.cpy * 2 ^ 8 + c.tt)
    else c.csr n

/-- A write of a CSR; mcycle is held as its distance from the package cycle count. -/
def Core.writeCsr (c : Core) (cyc n : Nat) (v : Word) : Core :=
  let m := (csrMask n).getD 0
  if n = 0xB00 then
    let now := (cyc + c.count64 0xB00) % 2 ^ 64
    c.setCount64 0xB00 ((now / 2 ^ 32 * 2 ^ 32 + v.toNat + 2 ^ 64 - cyc % 2 ^ 64) % 2 ^ 64)
  else if n = 0xB80 then
    let now := (cyc + c.count64 0xB00) % 2 ^ 64
    c.setCount64 0xB00 ((v.toNat * 2 ^ 32 + now % 2 ^ 32 + 2 ^ 64 - cyc % 2 ^ 64) % 2 ^ 64)
  else if m = 0 then c
  else c.setCsr n ((c.csr n &&& ~~~m) ||| (v &&& m))

/-! Execution. -/

/-- What a base instruction does: the core goes on, or takes an exception with its mcause and mtval. -/
inductive BaseDone
  | next (c : Core)
  | exc (cause val : Nat)

/-- A register write, then the next instruction. -/
def Core.wrote (c : Core) (cyc rd : Nat) (v : Word) : BaseDone := .next ((c.put rd v).advance cyc)

/-- A jump to an address, with a register write. -/
def Core.jump (c : Core) (cyc rd : Nat) (link target : Word) : BaseDone := .next { (c.put rd link).retired cyc with pc := target }

/-- OP and OP-IMM: the operation of funct3, with bit 30 for SUB and SRA. -/
def aluOp (f3 : Nat) (alt : Bool) (x y : Word) : Word :=
  match f3 with
  | 0 => if alt then x - y else x + y
  | 1 => x <<< (y.toNat % 32)
  | 2 => if x.toInt < y.toInt then 1 else 0
  | 3 => if x.toNat < y.toNat then 1 else 0
  | 4 => x ^^^ y
  | 5 => if alt then x.sshiftRight (y.toNat % 32) else x >>> (y.toNat % 32)
  | 6 => x ||| y
  | _ => x &&& y

/-- The M operations of funct3. -/
def mulOp (f3 : Nat) (x y : Word) : Word :=
  match f3 with
  | 0 => x * y
  | 1 => BitVec.ofInt 32 (x.toInt * y.toInt / 2 ^ 32)
  | 2 => BitVec.ofInt 32 (x.toInt * y.toNat / 2 ^ 32)
  | 3 => BitVec.ofNat 32 (x.toNat * y.toNat / 2 ^ 32)
  | 4 => if y = 0 then 0xFFFFFFFF else BitVec.ofInt 32 (Int.tdiv x.toInt y.toInt)
  | 5 => if y = 0 then 0xFFFFFFFF else BitVec.ofNat 32 (x.toNat / y.toNat)
  | 6 => if y = 0 then x else BitVec.ofInt 32 (Int.tmod x.toInt y.toInt)
  | _ => if y = 0 then x else BitVec.ofNat 32 (x.toNat % y.toNat)

/-- The condition of a branch; none for a reserved funct3. -/
def branchTaken (f3 : Nat) (x y : Word) : Option Bool :=
  match f3 with
  | 0 => some (x = y) | 1 => some (x ≠ y) | 4 => some (decide (x.toInt < y.toInt)) | 5 => some (decide (y.toInt ≤ x.toInt))
  | 6 => some (decide (x.toNat < y.toNat)) | 7 => some (decide (y.toNat ≤ x.toNat)) | _ => none

/-- Bytes and sign of a load's funct3. -/
def loadForm (f3 : Nat) : Option (Nat × Bool) :=
  match f3 with
  | 0 => some (1, true) | 1 => some (2, true) | 2 => some (4, true) | 4 => some (1, false) | 5 => some (2, false) | _ => none

/-- A load of `n` bytes from the core's own stores (R217). -/
def Core.load (c : Core) (a n : Nat) : Option Nat :=
  if a + n ≤ 0x10000 then some (getNat c.istore a n)
  else if 0x10000 ≤ a && a + n ≤ 0x18000 then some (getNat c.dmem a n)
  else none

/-- A store of `n` bytes to the data memory. -/
def Core.store (c : Core) (a n v : Nat) : Option Core :=
  if 0x10000 ≤ a && a + n ≤ 0x18000 then some { c with dmem := putNat c.dmem a n v } else none

/-- The AMO of funct5. -/
def amoOp (f5 : Nat) (old x : Word) : Option Word :=
  match f5 with
  | 0x01 => some x
  | 0x00 => some (old + x)
  | 0x04 => some (old ^^^ x)
  | 0x0C => some (old &&& x)
  | 0x08 => some (old ||| x)
  | 0x10 => some (if x.toInt < old.toInt then x else old)
  | 0x14 => some (if old.toInt < x.toInt then x else old)
  | 0x18 => some (if x.toNat < old.toNat then x else old)
  | 0x1C => some (if old.toNat < x.toNat then x else old)
  | _ => none

/-- The A instructions, on the data memory only. -/
def Core.atomic (c : Core) (cyc w rd : Nat) (x y : Word) : BaseDone :=
  let a := x.toNat
  let f5 := bitsAt w 27 5
  let inside := decide (0x10000 ≤ a) && decide (a + 4 ≤ 0x18000)
  if bitsAt w 12 3 ≠ 2 then .exc 2 w
  else if f5 = 0x02 then
    if bitsAt w 20 5 ≠ 0 then .exc 2 w
    else if a % 4 ≠ 0 then .exc 4 a
    else if !inside then .exc 5 a
    else ({ c with resv := some a }).wrote cyc rd (BitVec.ofNat 32 (getNat c.dmem a 4))
  else if f5 = 0x03 then
    if a % 4 ≠ 0 then .exc 6 a
    else if !inside then .exc 7 a
    else if c.resv = some a then ({ c with resv := none, dmem := putNat c.dmem a 4 y.toNat }).wrote cyc rd 0
    else ({ c with resv := none }).wrote cyc rd 1
  else match amoOp f5 (BitVec.ofNat 32 (getNat c.dmem a 4)) y with
    | none => .exc 2 w
    | some v =>
      if a % 4 ≠ 0 then .exc 6 a
      else if !inside then .exc 7 a
      else ({ c with dmem := putNat c.dmem a 4 v.toNat }).wrote cyc rd (BitVec.ofNat 32 (getNat c.dmem a 4))

/-- The Zicsr instructions. -/
def Core.csrOp (c : Core) (cyc lb w rd rs1 : Nat) : BaseDone :=
  let n := bitsAt w 20 12
  let f3 := bitsAt w 12 3
  let x : Word := if f3 < 4 then c.get rs1 else BitVec.ofNat 32 rs1
  let writes := f3 % 4 = 1 || rs1 ≠ 0
  if !c.hasCsr n || (writes && bitsAt n 10 2 = 3) then .exc 2 w
  else
    let old := c.readCsr cyc lb n
    let new_ := match f3 % 4 with | 1 => x | 2 => old ||| x | _ => old &&& ~~~x
    let d := (c.put rd old).advance cyc
    .next (if writes then d.writeCsr cyc n new_ else d)

/-- MRET: machine mode is the only mode. -/
def Core.mret (c : Core) (cyc : Nat) : BaseDone :=
  let st := (c.csr 0x300).toNat
  .next { (c.retired cyc).setCsr 0x300 (BitVec.ofNat 32 (0x1880 + bitsAt st 7 1 * 8)) with pc := c.csr 0x341 }

/-- A 32-bit base instruction at address `at_`, the next one at `nxt`; `raw` is what mtval shows of an illegal one. -/
def Core.base (c : Core) (cyc lb w raw : Nat) (at_ nxt : Word) : BaseDone :=
  let rd := bitsAt w 7 5
  let f3 := bitsAt w 12 3
  let f7 := bitsAt w 25 7
  let x := c.get (bitsAt w 15 5)
  let y := c.get (bitsAt w 20 5)
  let immI : Word := BitVec.ofNat 32 (sx (bitsAt w 20 12) 12)
  let immS : Word := BitVec.ofNat 32 (sx (f7 * 32 + rd) 12)
  let immU : Word := BitVec.ofNat 32 (bitsAt w 12 20 * 4096)
  match bitsAt w 0 7 with
  | 0x37 => c.wrote cyc rd immU
  | 0x17 => c.wrote cyc rd (at_ + immU)
  | 0x6F =>
    c.jump cyc rd nxt (at_ + BitVec.ofNat 32 (sx (bitsAt w 31 1 * 2 ^ 20 + bitsAt w 12 8 * 2 ^ 12 + bitsAt w 20 1 * 2 ^ 11 + bitsAt w 21 10 * 2) 21))
  | 0x67 => if f3 = 0 then c.jump cyc rd nxt ((x + immI) &&& 0xFFFFFFFE) else .exc 2 raw
  | 0x63 =>
    match branchTaken f3 x y with
    | none => .exc 2 raw
    | some true =>
      c.jump cyc 0 0 (at_ + BitVec.ofNat 32 (sx (bitsAt w 31 1 * 2 ^ 12 + bitsAt w 7 1 * 2 ^ 11 + bitsAt w 25 6 * 32 + bitsAt w 8 4 * 2) 13))
    | some false => .next (c.advance cyc)
  | 0x03 =>
    let a := (x + immI).toNat
    match loadForm f3 with
    | none => .exc 2 raw
    | some (n, sg) =>
      if a % n ≠ 0 then .exc 4 a
      else match c.load a n with
        | none => .exc 5 a
        | some v => c.wrote cyc rd (BitVec.ofNat 32 (if sg then sx v (8 * n) else v))
  | 0x23 =>
    let a := (x + immS).toNat
    let n := 2 ^ f3
    if 2 < f3 then .exc 2 raw
    else if a % n ≠ 0 then .exc 6 a
    else match c.store a n y.toNat with
      | none => .exc 7 a
      | some d => .next (d.advance cyc)
  | 0x13 =>
    if f3 = 1 then (if f7 = 0 then c.wrote cyc rd (aluOp 1 false x immI) else .exc 2 raw)
    else if f3 = 5 then (if f7 = 0 || f7 = 0x20 then c.wrote cyc rd (aluOp 5 (f7 = 0x20) x immI) else .exc 2 raw)
    else c.wrote cyc rd (aluOp f3 false x immI)
  | 0x33 =>
    if f7 = 1 then c.wrote cyc rd (mulOp f3 x y)
    else if f7 = 0 || (f7 = 0x20 && (f3 = 0 || f3 = 5)) then c.wrote cyc rd (aluOp f3 (f7 = 0x20) x y)
    else .exc 2 raw
  | 0x0F => if f3 = 0 then .next (c.advance cyc) else .exc 2 raw
  | 0x2F => c.atomic cyc w rd x y
  | 0x73 =>
    if f3 = 0 then
      if w = 0x30200073 then c.mret cyc
      else if w = 0x10500073 then .next (c.advance cyc)
      else if w = 0x00100073 then .exc 3 at_.toNat
      else .exc 2 raw
    else if f3 = 4 then .exc 2 raw
    else c.csrOp cyc lb w rd (bitsAt w 15 5)
  | _ => .exc 2 raw

/-- Base instruction `w` of a core, `comp` when it is a 16-bit one. -/
def Core.runBase (c : Core) (cyc lb : Nat) (w : Nat) (comp : Bool) : BaseDone :=
  let pc := c.pc.toNat
  let len := coreLen (c.wordAt pc)
  let at_ := if isRpt (c.wordAt pc) then c.pc + 4 else c.pc
  if 0x10000 < pc + len then .exc 1 (if pc < 0x10000 then 0x10000 else pc)
  else if comp then
    match expand w with
    | some v => c.base cyc lb v w at_ (at_ + 2)
    | none => .exc 2 w
  else c.base cyc lb w w at_ (at_ + 4)

/-- The base instructions (R216, R217, R234): `w` is the parcel, `comp` when it is a 16-bit one. -/
def execBaseInstruction (w : BitVec 32) (comp : Bool) (s : State) : Host.Outcome State Fault Refusal :=
  onCore s fun id x =>
    match x.runBase s.cyc (s.logicalBarn x.k id.barn) w.toNat comp with
    | .next c => s.modCore id fun _ => c
    | .exc cause val => s.coreExc id cause val

/-- EBREAK (R220, R234): the breakpoint exception. -/
def execEbreak (s : State) : Host.Outcome State Fault Refusal :=
  onCore s fun id x => s.coreExc id 3 x.pc.toNat

end Sys2Proof.Machine
end

