-- ==== Sys2Proof/Machine/Cores.lean ====
section
/-! DEFINITION. The Xbarn instructions (R224 to R231), the input edge queues (R221, R222), and the start and end of core
programs (R218 to R220). An instruction that cannot begin yet is tried again (`held`). -/

namespace Sys2Proof.Machine

/-! Shared steps. -/

/-- An Xbarn instruction of some cores only, with a scope where it has one; otherwise it is illegal (R233). -/
def xbarn (s : State) (kind : CoreId → Bool) (sc : BitVec 3) (g : CoreId → Core → Scope → State) : Host.Outcome State Fault Refusal :=
  onCore s fun id x =>
    match Scope.ofBits sc with
    | some sc => if kind id then g id x sc else s.coreIllegal id x.word
    | none => s.coreIllegal id x.word

def anyCore (_ : CoreId) : Bool := true
def isLoader (c : CoreId) : Bool := !c.storer
def isStorer (c : CoreId) : Bool := c.storer

/-- The scope of an instruction that writes none (R224). -/
def pkgCode : BitVec 3 := 3

/-- An access of a core, still without its pieces; a response goes to register `rd`. -/
def Core.access (x : Core) (rd : Nat) (kind : AccKind) (sc : Scope) : Access :=
  { id := 0, origin := .core x.id x.pc.toNat rd, k := x.k, v := x.v, barn := x.id.barn, tag := x.tag, dep := x.dep,
    area := .flat, kind := kind, ty := .b32, sc := sc, pieces := [], since := 0, word := x.word }

/-- Issues an access that the core waits for. -/
def State.coreIssue (s : State) (id : CoreId) (a : Access) : State :=
  (s.issue a).modCore id fun y => { y with waiting := true, since := s.cyc }

/-- The virtual address of a core instruction, with its traps (R226, R152): non-canonical, outside an allocation, an atomic
in the weight window, misaligned. -/
def State.coreVa (s : State) (id : CoreId) (x : Core) (bsel : BitVec 4) (disp : Int) (rs1 : BitVec 5) (kind : AccKind)
    (size align : Nat) (act : Nat → State) : State :=
  let va := wrapNat ((s.kbase x.k x.v bsel.toNat : Int) + ((x.get rs1.toNat).toNat : Int) + disp) 64
  let perm (c : Nat) : State := s.coreTrapAt id (permCause c va kind.code)
  let act (va : Nat) : State := if va % align ≠ 0 then s.coreTrapAt id { code := tcAlign, aux0 := va, aux1 := size } else act va
  match windowOf va with
  | .bad => s.coreTrapAt id (s.pageCause x.k 2 va kind.code size)
  | .paged => act va
  | .scratch _ => if (s.windowPlace x.k va).isSome then act va else perm 4
  | .weight _ _ => if (s.windowPlace x.k va).isNone then perm 4 else if kind.code = 2 then perm 3 else act va

/-! Edge queues (R221 to R223, R225). -/

/-- The tokens of an edge queue, the head first. -/
def State.edge (s : State) (barn : Nat) (out : Bool) (q : Nat) : List EqTok :=
  s.fab.eqs.filter fun e => e.barn = barn && e.out = out && e.q = q

/-- The binding of an input queue in force (R222). -/
def Core.binding (x : Core) (q : Nat) : Binding :=
  let b := (x.csr (0x7E0 + q)).toNat
  { kind := bitsAt b 30 2, tgt := x.csr (0x7D0 + q), ty := (Ty.ofBits (BitVec.ofNat 4 (bitsAt b 26 4))).getD .b32,
    sw := bitsAt b 21 5 + 1, ent := bitsAt b 17 4 }

/-- A push to an input queue with an index (R222, R223, R225): it waits for a free position, then its checks, then the token
with the parent's tag and the index. -/
def State.pushing (s : State) (id : CoreId) (x : Core) (q : Nat) (idx : Nat) (act : Binding → DWord → Nat → State) : State :=
  let b := x.binding q
  if !s.eqRoom id.barn q false then { s with held := true }
  else if b.kind = 0 then s.coreTrapAt id { code := tcEqBind, aux0 := q }
  else if 2 ^ b.sw ≤ idx then s.coreTrapAt id { code := tcStreamShape, aux0 := idx, aux1 := b.sw }
  else match pushField x.tag x.dep idx b.sw with
    | none => s.coreTrapAt id { code := tcTagDepth, aux0 := x.dep, aux1 := b.sw }
    | some (t, d) => act b t d

/-- A position of an input queue. -/
def State.addEdge (s : State) (id : CoreId) (x : Core) (q : Nat) (b : Binding) (k : Option Tok) : State :=
  (s.modFab fun g => { g with eqs := g.eqs ++
    [{ barn := id.barn, out := false, q := q, k := x.k, v := x.v, tok := k, bind := b, id := s.fresh, since := s.cyc }] }).bumpFresh

/-- A push of a token whose data and marks are given. -/
def pushToken (s : State) (q : BitVec 4) (rs2 : BitVec 5) (data : Core → Word) (nul eos : Bool) : Host.Outcome State Fault Refusal :=
  xbarn s isLoader pkgCode fun id x _ =>
    s.pushing id x q.toNat (x.get rs2.toNat).toNat fun b t d =>
      (s.addEdge id x q.toNat b (some { tag := t, dep := d, data := data x, ty := b.ty, nul := nul, eos := eos })).coreGoes id

/-- XPUSH (R225). -/
def execXpush (q : BitVec 4) (rs1 : BitVec 5) (rs2 : BitVec 5) (s : State) : Host.Outcome State Fault Refusal :=
  pushToken s q rs2 (fun x => x.get rs1.toNat) false false
/-- XPUSHE (R225): an end-of-stream marker carrying the count. -/
def execXpushe (q : BitVec 4) (rs2 : BitVec 5) (s : State) : Host.Outcome State Fault Refusal :=
  pushToken s q rs2 (fun _ => 0) false true
/-- XPUSHN (R225): a null token. -/
def execXpushn (q : BitVec 4) (rs2 : BitVec 5) (s : State) : Host.Outcome State Fault Refusal :=
  pushToken s q rs2 (fun _ => 0) true false

/-- META of R14 in bits [5:0]: NUL, EOS, ROL, POI, PP, PV from bit 5 down. -/
def Tok.meta6 (k : Tok) : Nat :=
  k.nul.toNat * 32 + k.eos.toNat * 16 + k.rol.toNat * 8 + k.poi.toNat * 4 + k.pp.toNat * 2 + k.pv.toNat

/-- XPOPM of a popped token (R225). -/
def Tok.popm (k : Tok) : Word := BitVec.ofNat 32 (tagNest k.tag % 2 ^ 24 * 256 + k.meta6)

/-- The head of an output queue is taken. -/
def State.popEdge (s : State) (barn q : Nat) : State :=
  s.modFab fun g => { g with eqs := dropFirst (fun e => e.barn = barn && e.out && e.q = q) g.eqs }

/-- The token at the head of an output queue. -/
def State.edgeHead (s : State) (barn q : Nat) : Option Tok := ((s.edge barn true q).head?).bind EqTok.tok

/-- Writes XPOPM. -/
def State.setPopm (s : State) (id : CoreId) (v : Word) : State := s.modCore id fun x => x.setCsr csrXpopm v

/-- The data that a pop gives: a marker's reads as 0. -/
def Tok.popped (k : Tok) : Word := if k.eos then 0 else k.data

/-- XPOP (R225). -/
def execXpop (q : BitVec 4) (rd : BitVec 5) (s : State) : Host.Outcome State Fault Refusal :=
  xbarn s isStorer pkgCode fun id _ _ =>
    match s.edgeHead id.barn q.toNat with
    | none => { s with held := true }
    | some k => ((s.popEdge id.barn q.toNat).setPopm id k.popm).coreWrites id rd.toNat k.popped

/-- XPOPNB (R225): PP and PV of XPOPM say that a token was taken. -/
def execXpopnb (q : BitVec 4) (rd : BitVec 5) (s : State) : Host.Outcome State Fault Refusal :=
  xbarn s isStorer pkgCode fun id _ _ =>
    match s.edgeHead id.barn q.toNat with
    | none => (s.setPopm id 0).coreWrites id rd.toNat 0
    | some k => ((s.popEdge id.barn q.toNat).setPopm id (k.popm ||| 3)).coreWrites id rd.toNat k.popped

/-- XQCNT (R225): tokens held in a queue of the core's own kind; a reserved position holds none. -/
def execXqcnt (q : BitVec 4) (rd : BitVec 5) (s : State) : Host.Outcome State Fault Refusal :=
  xbarn s anyCore pkgCode fun id _ _ =>
    s.coreWrites id rd.toNat (BitVec.ofNat 32 ((s.edge id.barn id.storer q.toNat).filter fun e => e.tok.isSome).length)

/-! Memory (R226). -/

/-- The one piece of a 4-byte access. -/
def word4 (va d : Nat) : List Piece := [{ addr := va, size := 4, mask := 2 ^ 32 - 1, data := d }]

/-- A counted access: the core goes on at once. -/
def State.coreCount (s : State) (id : CoreId) (a : Access) (eq : Option Nat) (n : Nat) (g : Core → Core) : State :=
  match s.core? id with
  | none => s
  | some x => ((s.issue { a with origin := .coreCount id x.pc.toNat eq n }).modCore id g).coreGoes id

/-- XLW (R226). -/
def execXlw (bsel : BitVec 4) (disp : BitVec 8) (rs1 : BitVec 5) (rd : BitVec 5) (s : State) : Host.Outcome State Fault Refusal :=
  xbarn s anyCore pkgCode fun id x sc =>
    s.coreVa id x bsel (sext disp) rs1 .read 4 4 fun va =>
      s.coreIssue id { x.access rd.toNat .read sc with pieces := word4 va 0 }

/-- XSW (R226): a counted store; it waits while ST is at its limit. -/
def execXsw (bsel : BitVec 4) (disp : BitVec 8) (rs2 : BitVec 5) (rs1 : BitVec 5) (s : State) : Host.Outcome State Fault Refusal :=
  xbarn s anyCore pkgCode fun id x sc =>
    s.coreVa id x bsel (sext disp) rs1 .write 4 4 fun va =>
      if 63 ≤ x.st then { s with held := true }
      else
        s.coreCount id { x.access 0 .write sc with pieces := word4 va (x.get rs2.toNat).toNat } none 0 fun y => { y with st := y.st + 1 }

/-- XLQ (R226): it reserves a position, then loads into it; it waits while LD is at its limit. -/
def execXlq (bsel : BitVec 4) (rs2 : BitVec 5) (rs1 : BitVec 5) (q : BitVec 4) (s : State) : Host.Outcome State Fault Refusal :=
  xbarn s isLoader pkgCode fun id x sc =>
    s.coreVa id x bsel 0 rs1 .read 4 4 fun va =>
      if 63 ≤ x.ld then { s with held := true }
      else
        s.pushing id x q.toNat (x.get rs2.toNat).toNat fun b t d =>
          let n := s.fresh
          (s.addEdge id x q.toNat b none).coreCount id
            { x.access 0 .read sc with tag := t, dep := d, pieces := word4 va 0 } (some q.toNat) n fun y => { y with ld := y.ld + 1 }

/-- XQST (R226): a popped data token is stored with its poison; a null token or marker stores nothing. -/
def execXqst (bsel : BitVec 4) (q : BitVec 4) (rs1 : BitVec 5) (s : State) : Host.Outcome State Fault Refusal :=
  xbarn s isStorer pkgCode fun id x sc =>
    s.coreVa id x bsel 0 rs1 .write 4 4 fun va =>
      match s.edgeHead id.barn q.toNat with
      | none => { s with held := true }
      | some k =>
        if 63 ≤ x.st then { s with held := true }
        else
          let t := (s.popEdge id.barn q.toNat).setPopm id k.popm
          if k.nul || k.eos then t.coreGoes id
          else
            t.coreCount id { x.access 0 .write sc with poi := k.poi, pieces := word4 va k.data.toNat } none 0
              fun y => { y with st := y.st + 1 }

/-! Commands, tasks and synchronisation (R227 to R229). -/

/-- An engine command of a core (R227): its record is read first; it waits while CPY is at its limit. -/
def xengine (s : State) (bsel : BitVec 4) (sc : BitVec 3) (rs1 : BitVec 5) : Host.Outcome State Fault Refusal :=
  xbarn s anyCore sc fun id x sc =>
    s.coreVa id x bsel 0 rs1 .read 64 64 fun va =>
      if 31 ≤ x.cpy then { s with held := true }
      else s.coreIssue id { x.access 0 .read sc with pieces := words va 16 }

def execXcpy (bsel : BitVec 4) (sc : BitVec 3) (rs1 : BitVec 5) (s : State) : Host.Outcome State Fault Refusal := xengine s bsel sc rs1
def execXgath (bsel : BitVec 4) (sc : BitVec 3) (rs1 : BitVec 5) (s : State) : Host.Outcome State Fault Refusal := xengine s bsel sc rs1
def execXscat (bsel : BitVec 4) (sc : BitVec 3) (rs1 : BitVec 5) (s : State) : Host.Outcome State Fault Refusal := xengine s bsel sc rs1
def execXcoll (bsel : BitVec 4) (sc : BitVec 3) (rs1 : BitVec 5) (s : State) : Host.Outcome State Fault Refusal := xengine s bsel sc rs1

/-- XTTASK (R227, R180, R335). -/
def execXttask (bsel : BitVec 4) (sc : BitVec 3) (rs1 : BitVec 5) (s : State) : Host.Outcome State Fault Refusal :=
  xbarn s anyCore sc fun id x sc =>
    s.coreVa id x bsel 0 rs1 .read 192 64 fun va =>
      if 31 ≤ x.tt then { s with held := true }
      else match s.taskQueue x.k with
        | .inr o => s.coreTrapAt id { code := tcTtaskFormat, aux0 := va, aux1 := o }
        | .inl d =>
          if 2 ^ d.log2n ≤ d.count then { s with held := true }
          else s.coreIssue id { x.access 0 .read sc with rel := true, opnd := va }

/-- The key that XPUB and XAWAIT name, with its traps (R229, R194). -/
def State.coreKey (s : State) (id : CoreId) (x : Core) (desc : BitVec 6) (rs2 : BitVec 5) (act : Nat → Nat → State) : State :=
  let gen := (x.get rs2.toNat).toNat
  if 2 ^ 16 ≤ gen then s.coreTrapAt id { code := tcSheafKey, aux0 := gen }
  else match s.tensorId x.k x.v desc.toNat with
    | none => s.coreTrapAt id { code := tcTensorDesc, aux0 := desc.toNat, aux1 := recField (s.descEntry x.k x.v desc.toNat) 0 1 }
    | some tid => act tid gen

/-- The scopes of XPUB and XAWAIT (R233). -/
def publishScope (sc : BitVec 3) : BitVec 3 := if sc = 3 || sc = 4 then sc else 7

/-- XPUB (R229): a release first; the publish leaves once it is performed. -/
def execXpub (desc : BitVec 6) (rs2 : BitVec 5) (rs1 : BitVec 5) (sc : BitVec 3) (s : State) : Host.Outcome State Fault Refusal :=
  xbarn s anyCore (publishScope sc) fun id x sc =>
    s.coreKey id x desc rs2 fun _ gen =>
      s.coreIssue id { x.access 0 .read sc with rel := true, opnd := (x.get rs1.toNat).toNat, cmp := gen }

/-- XAWAIT (R229, R197): it waits for a waiter record, then for its publish. -/
def execXawait (desc : BitVec 6) (rs2 : BitVec 5) (rs1 : BitVec 5) (sc : BitVec 3) (s : State) : Host.Outcome State Fault Refusal :=
  xbarn s anyCore (publishScope sc) fun id x _ =>
    s.coreKey id x desc rs2 fun tid gen =>
      match s.awaitRecord x.k x.v x.pc.toNat (dieOf id.barn) tid (x.get rs1.toNat).toNat gen with
      | none => { s with held := true }
      | some (s, n) =>
        let f : Firing := { site := ⟨.bay id.barn 0, 0, 0⟩, word := BitVec.ofNat 64 x.word, tag := x.tag, dep := x.dep }
        ((s.modFab fun g => { g with waits := g.waits ++ [{ id := s.fresh, fire := f, core := some id, k := x.k, why := .awaitSheaf n, since := s.cyc }] }).bumpFresh).modCore
          id fun y => { y with waiting := true, since := s.cyc }

/-- XBARR (R229): an arrival at the barrier. -/
def execXbarr (bsel : BitVec 4) (sc : BitVec 3) (rs1 : BitVec 5) (s : State) : Host.Outcome State Fault Refusal :=
  xbarn s anyCore sc fun id x sc =>
    s.coreVa id x bsel 0 rs1 .arrive 64 64 fun va =>
      s.coreIssue id { x.access 0 .arrive sc with rel := true, pieces := barrier va }

/-- XBARW (R229): it waits at the barrier and acquires; GEN goes to rd. -/
def execXbarw (bsel : BitVec 4) (sc : BitVec 3) (rs1 : BitVec 5) (rd : BitVec 5) (s : State) : Host.Outcome State Fault Refusal :=
  xbarn s anyCore sc fun id x sc =>
    s.coreVa id x bsel 0 rs1 .barWait 64 64 fun va =>
      s.coreIssue id { x.access rd.toNat .barWait sc with acq := true, pieces := barrier va }

/-- XFENCE (R229, R148). -/
def execXfence (rel : Bool) (acq : Bool) (sc : BitVec 3) (s : State) : Host.Outcome State Fault Refusal :=
  xbarn s anyCore sc fun id x sc =>
    s.coreIssue id { x.access 0 .read sc with acq := acq || !rel, rel := rel || !acq }

/-- WAITC (R228). -/
def execWaitc (l : BitVec 6) (st : BitVec 6) (c : BitVec 5) (t : BitVec 5) (s : State) : Host.Outcome State Fault Refusal :=
  xbarn s anyCore pkgCode fun id x _ =>
    if x.ld ≤ l.toNat && x.st ≤ st.toNat && x.cpy ≤ c.toNat && x.tt ≤ t.toNat then s.coreGoes id else { s with held := true }

/-- XSEND (R229, R204). -/
def execXsend (rs2 : BitVec 5) (rs1 : BitVec 5) (s : State) : Host.Outcome State Fault Refusal :=
  xbarn s anyCore pkgCode fun id x _ =>
    let w := (x.get rs2.toNat).toNat
    if 2 ^ 16 ≤ w then s.coreTrapAt id (chanCause (some id.barn) w)
    else match s.sendDest x.k (some id.barn) w with
      | none => s.coreTrapAt id (chanCause (some id.barn) w)
      | some (b, t, ch) =>
        if s.tileOwner b t ≠ some x.k then s.coreTrapAt id (chanCause (some id.barn) w)
        else if 16 ≤ s.chanCount b t (some ch) then { s with held := true }
        else
          (s.enqueueWord { barn := b, tile := t, ch := some ch, k := x.k, since := s.cyc + sendLat (some id.barn) b,
                           tok := { tag := x.tag, dep := x.dep, data := x.get rs1.toNat, ty := .b32 } }).coreGoes id

/-- XCR (R229, R206): a number that R206 does not list makes the word illegal. -/
def execXcr (num : BitVec 12) (rd : BitVec 5) (s : State) : Host.Outcome State Fault Refusal :=
  xbarn s anyCore pkgCode fun id x _ =>
    if crKnown num then s.coreWrites id rd.toNat (s.crValue x.k x.v num.toNat) else s.coreIllegal id x.word

/-- ECALL (R220): the program ends once its counters are 0. -/
def execEcall (s : State) : Host.Outcome State Fault Refusal :=
  onCore s fun id _ => s.modCore id fun y => { y with ending := true, waiting := true, since := s.cyc }

/-! The repeat prefix (R231). -/

/-- Whether RPT may repeat an instruction word. -/
def repeats (w : Nat) : Bool :=
  match decodeCore32 (BitVec.ofNat 32 w) with
  | .xpush _ _ _ => true | .xpushe _ _ => true | .xpushn _ _ => true | .xlq _ _ _ _ => true | .xpop _ _ => true
  | .xpopnb _ _ => true | .xqst _ _ _ => true | .xlw _ _ _ _ => true | .xsw _ _ _ _ => true | .xcpy _ _ _ => true
  | .xgath _ _ _ => true | .xscat _ _ _ => true | .xcoll _ _ _ => true | .xttask _ _ _ => true | .xsend _ _ => true
  | .baseInstruction _ _ => [0x37, 0x17, 0x33, 0x13, 0x03, 0x23].contains (w % 128)
  | _ => false

/-- One execution of a repeated instruction; a word that stepping made illegal is one of the base decoder's. -/
def runRepeated (w : Nat) (s : State) : Host.Outcome State Fault Refusal :=
  match decodeCore32 (BitVec.ofNat 32 w) with
  | .xpush q a b => execXpush q a b s
  | .xpushe q b => execXpushe q b s
  | .xpushn q b => execXpushn q b s
  | .xlq bs b a q => execXlq bs b a q s
  | .xpop q d => execXpop q d s
  | .xpopnb q d => execXpopnb q d s
  | .xqst bs q a => execXqst bs q a s
  | .xlw bs di a d => execXlw bs di a d s
  | .xsw bs di b a => execXsw bs di b a s
  | .xcpy bs sc a => execXcpy bs sc a s
  | .xgath bs sc a => execXgath bs sc a s
  | .xscat bs sc a => execXscat bs sc a s
  | .xcoll bs sc a => execXcoll bs sc a s
  | .xttask bs sc a => execXttask bs sc a s
  | .xsend b a => execXsend b a s
  | _ => execBaseInstruction (BitVec.ofNat 32 w) false s

/-- RPT (R231): the next execution of the instruction behind it; with DONE above REP there is none left. -/
def execRpt (stp2 : Bool) (stp1 : Bool) (stpd : Bool) (rep : BitVec 6) (s : State) : Host.Outcome State Fault Refusal :=
  match s.curCore.bind s.core? with
  | none => .next s
  | some x =>
    let pc := x.pc.toNat
    let i := x.wordAt (pc + 4)
    let tooFar (on : Bool) (lo : Nat) : Bool := on && decide (31 < bitsAt i lo 5 + (rep.toNat + 1))
    if 0x10000 < pc + 4 + coreLen i then .next (s.coreExc x.id 1 (pc + 4))
    else if coreLen i = 2 || !repeats i || tooFar stpd 7 || tooFar stp1 15 || tooFar stp2 20 then .next (s.coreIllegal x.id (x.wordAt pc))
    else if rep.toNat + 1 < x.done then
      .next (s.modCore x.id fun y => { y.setCsr csrXrpt 0 with pc := y.pc + 8, waiting := false, since := s.cyc })
    else runRepeated x.word s

/-! Input edge queues. -/

/-- A trap of the head of an input queue: the loader core stops (R222, R234). -/
def State.edgeTrap (s : State) (e : EqTok) (c : Cause) : State :=
  let id : CoreId := ⟨e.barn, false⟩
  let x := s.core? id
  s.raiseThen
    { k := e.k, index := 0, tcode := c.code, cause := c.cause, cls := .F, srck := 3, barn := e.barn, unit := 0, idx := 0xFF,
      blk := (x.map fun x => x.pc.toNat).getD 0, word := BitVec.ofNat 64 ((x.map Core.word).getD 0),
      tag := (e.tok.map Tok.tag).getD 0, dep := (e.tok.map Tok.dep).getD 0, slot := 0xFF, aux0 := BitVec.ofNat 64 c.aux0,
      aux1 := BitVec.ofNat 64 c.aux1, aux2 := BitVec.ofNat 32 c.aux2, cyc := 0, v := e.v, hold := .edge e.barn e.q }
    fun s => s.haltCore id

/-- The head of an input queue leaves it. -/
def State.dropEdge (s : State) (e : EqTok) : State :=
  s.modFab fun g => { g with eqs := dropFirst (fun x => x.barn = e.barn && !x.out && x.q = e.q) g.eqs }

/-- The head of a queue bound to a gather entry enters it, as a delivery that closes nothing (R222, R202). -/
def State.edgeGather (s : State) (e : EqTok) (k : Tok) : State :=
  let base := ((s.inst? e.k e.v).map Inst.base).getD 0
  let x : Value := { blk := base + e.bind.tgt.toNat * 64, tag := k.tag, dep := k.dep, ent := e.bind.ent, tok := k }
  let d : Delivery := { k := e.k, v := e.v, vals := [x], core := some ⟨e.barn, false⟩, ready := s.cyc }
  if !s.gatherRoom e.k e.v x then s
  else match s.headerWait d x with
    | some s => s
    | none =>
      if s.dupValue d x then s.edgeTrap e x.dup
      else (putValue d (s.dropEdge e) x).readyGathers

/-- The head of a queue bound to a region enters a slot of its MMAC (R222). -/
def State.edgeRegion (s : State) (e : EqTok) (k : Tok) : State :=
  match (s.byHandle e.k e.bind.tgt).filter fun x => x.barn = e.barn with
  | none => s.edgeTrap e { code := tcMatrixHandle, aux0 := e.bind.tgt.toNat }
  | some x =>
    if !(s.fab.blocks.any fun l => l.holder = .region x.barn x.r && l.st = .serving) then s
    else match s.mmacOf x with
      | none => s
      | some (site, _, iext, _, _, _) =>
        let sl : Slot := if e.bind.kind = 2 then .a else .b
        if sl = .b && !iext && !s.targeted site .b then
          s.edgeTrap e { code := tcMatrixState, aux0 := s.handleOf x, aux1 := x.active }
        else if 4 ≤ (s.queue site sl).length then s
        else (s.dropEdge e).enqueue site sl k

/-- EDGE_QUEUE_DELIVER (R221, R222): the head of input queue `n` of barn `u` moves into its target. -/
def execEdgeQueueDeliver (s : State) : Host.Outcome State Fault Refusal :=
  .next (match (s.edge s.arg.u false s.arg.n).head? with
  | none => s
  | some e =>
    match e.tok with
    | none => s
    | some k =>
      if (s.traps.any fun t => t.hold = .edge e.barn e.q) || !s.live e.k (.barn e.barn) || s.gatedPart e.barn then s
      else if e.bind.kind = 1 then s.edgeGather e k
      else s.edgeRegion e k)

/-! Core programs (R218 to R220). -/

/-- The first offending field of a core program record (R218); lengths and entries count for the programs present. -/
def badCoreRecord (r : List Byte) : Option Nat :=
  let f (o n : Nat) : Nat := recField r o n
  let has (i : Nat) : Bool := bitsAt (f 2 1) i 1 = 1
  let len (o : Nat) : Bool := f o 4 % 4 ≠ 0 || f o 4 < 4 || decide (65536 < f o 4)
  let entry (o l : Nat) : Bool := f o 4 % 2 ≠ 0 || decide (f l 4 ≤ f o 4)
  let high (o : Nat) : Bool := decide (2 ^ 60 ≤ f o 8)
  let checks : List (Nat × Bool) :=
    [(0x00, decide (f 0 2 ≠ 0x4C53)), (0x02, decide (4 ≤ f 2 1)), (0x03, decide (f 3 5 ≠ 0)), (0x08, high 0x08),
     (0x10, has 0 && len 0x10), (0x14, has 0 && entry 0x14 0x10), (0x18, high 0x18), (0x20, has 1 && len 0x20),
     (0x24, has 1 && entry 0x24 0x20), (0x28, high 0x28), (0x30, decide (32768 < f 0x30 4) || (f 0x28 8 = 0 && f 0x30 4 ≠ 0)),
     (0x34, decide (f 0x34 12 ≠ 0))]
  (checks.find? Prod.snd).map Prod.fst

/-- No core program of an instance starts, for a record that cannot be used; the trap names the record (R218, R329). -/
def State.badProgram (s : State) (i : Inst) (c : Cause) : State :=
  match s.freeTrapIndex i.k with
  | none => s
  | some _ => (s.unitTrap i.k i.v 7 0 (recField i.recBytes 0x20 8) c).modInst i.k i.v fun x => { x with progs := [] }

/-- What reading a range for a core gives: its bytes, a wait, or a trap. -/
def State.coreBytes (s : State) (i : Inst) (va n : Nat) : State × Option (List Byte) × Option Cause :=
  match s.unitRead 0 i.k i.v va n srcIo with
  | (s, .ok b _) => (s, some b, none)
  | (s, .denied) => (s, none, some (permCause 3 va 0))
  | (s, .bad) => (s, none, some (s.pageCause i.k 2 va 0 n))
  | (s, _) => (s, none, none)

/-- A core in its start state (R219): a0 is V and a1 the logical barn. -/
def State.freshCore (s : State) (i : Inst) (id : CoreId) (code data : List Byte) (entry : Nat) : Core :=
  let x : Core := { id := id, k := i.k, v := i.v, active := true, x := List.replicate 32 0, pc := BitVec.ofNat 32 entry,
                    istore := putBytes [] 0 code, dmem := putBytes [] 0x10000 data, csrs := [], since := s.cyc }
  ((x.put 10 (BitVec.ofNat 32 i.v)).put 11 (BitVec.ofNat 32 (s.logicalBarn i.k id.barn))).setCount64 0xB00 ((2 ^ 64 - s.cyc % 2 ^ 64) % 2 ^ 64)

/-- The instance whose programs a barn's core pair serves: of those with programs left there, the one placed first (R219). -/
def State.servedBy (s : State) (b : Nat) : Option Inst :=
  minBy (fun i => i.placed.getD 0) (s.insts.filter fun i => i.placed.isSome && i.progs.any fun p => p.1 = b)

/-- CORE_PROGRAM_START (R218, R219): the loader core of barn `u`, or with `flag` its storer core, starts the program of the
instance that its pair serves. A program that the record lacks is none. -/
def execCoreProgramStart (s : State) : Host.Outcome State Fault Refusal :=
  let id : CoreId := ⟨s.arg.u, s.arg.flag⟩
  let go (s : State) : State := match s.servedBy id.barn with
  | none => s
  | some i =>
    let busy := s.fab.cores.any fun c => c.id.barn = id.barn && c.active && (c.id = id || c.k ≠ i.k || c.v ≠ i.v)
    if !i.progs.contains (id.barn, id.storer) || busy || !i.migr.isEmpty || s.settling i || !s.live i.k (.barn id.barn) || s.gatedPart id.barn then s
    else match s.coreBytes i (recField i.recBytes 0x20 8) 64 with
      | (s, none, some c) => s.badProgram i c
      | (s, none, none) => s
      | (s, some r, _) =>
        match badCoreRecord r with
        | some o => s.badProgram i { code := tcLaunchFormat, aux0 := recField i.recBytes 0x20 8, aux1 := o }
        | none =>
          if bitsAt (recField r 2 1) (if id.storer then 1 else 0) 1 = 0 then
            s.modInst i.k i.v fun x => { x with progs := x.progs.filter fun p => p ≠ (id.barn, id.storer) }
          else
            let o := if id.storer then 0x18 else 0x08
            match s.coreBytes i (recField r o 8) (recField r (o + 8) 4) with
            | (s, none, some c) => s.badProgram i c
            | (s, none, none) => s
            | (s, some code, _) =>
              match s.coreBytes i (recField r 0x28 8) (recField r 0x30 4) with
              | (s, none, some c) => s.badProgram i c
              | (s, none, none) => s
              | (s, some data, _) =>
                let x := s.freshCore i id code data (recField r (o + 12) 4)
                s.modFab fun g => { g with cores := g.cores.filter (fun c => c.id ≠ id) ++ [x] }
  .next (go s).placedStrands

/-- CORE_PROGRAM_END (R220): the loader core of barn `u`, or with `flag` its storer core, has ended its program with every
counter at 0; a0 is its exit status, and the core is idle. -/
def execCoreProgramEnd (s : State) : Host.Outcome State Fault Refusal :=
  let id : CoreId := ⟨s.arg.u, s.arg.flag⟩
  .next (match s.core? id with
  | none => s
  | some x =>
    if !x.ending || x.stopped || x.ld ≠ 0 || x.st ≠ 0 || x.cpy ≠ 0 || x.tt ≠ 0 || !s.live x.k (.barn id.barn) || s.gatedPart id.barn then s
    else
      let done (i : Inst) : Inst :=
        { i with exits := i.exits ++ [(id.storer, x.get 10)], progs := i.progs.filter fun p => p ≠ (id.barn, id.storer) }
      (s.modInst x.k x.v done).modFab fun g => { g with cores := g.cores.filter fun c => c.id ≠ id })

end Sys2Proof.Machine
end

