-- ==== Sys2Proof/Machine/Launch.lean ====
section
/-! DEFINITION. Launch queues and their doorbells (R333 to R335), the ready queue and placement (R338 to R341), the Winnow
classes (R337) and the Reeve's choice of a context (R336). -/

namespace Sys2Proof.Machine

/-! Queues. -/

/-- A descriptor of a queue table (R333). One that breaks the table's limits is not usable (DEDUCED, log 55). -/
def queueDesc (k q : Nat) (b : List Byte) : QDesc :=
  let f (o n : Nat) : Nat := recField b o n
  let ok := f 0 8 < 2 ^ 60 && f 0 8 % 256 = 0 && f 8 1 ≤ 12 && f 9 1 < (if q = 64 then 2 else 4) && f 0x0A 6 = 0 && f 0x18 8 = 0
  { k := k, q := q, base := f 0 8, log2n := f 8 1, en := ok && bitsAt (f 9 1) 0 1 = 1, direct := bitsAt (f 9 1) 1 1 = 1,
    head := f 0x10 4, tail := f 0x14 4 }

/-- The queue controller reads the table of a slot; none where it must wait for a page (R333). -/
def State.readQtab (s : State) (k base : Nat) : State × Option (List QDesc) :=
  if base = 0 then (s, some [])
  else match s.unitRead 0 k 4096 base 2080 srcIo with
    | (s, .ok b _) => (s, some ((upto 65).map fun q => queueDesc k q ((b.drop (32 * q)).take 32)))
    | (s, .wait _ _) => (s, none)
    | (s, .ats) => (s, none)
    | (s, _) => (s, some [])

/-- SCHED_QTAB_WRITE (R333): slot `k`, value `val`. The write is performed once the table has been read. -/
def execSchedQtabWrite (s : State) : Host.Outcome State Fault Refusal :=
  let k := s.arg.k
  let val := s.arg.val
  .next (match s.readQtab k (bitsAt val.toNat 0 60) with
  | (s, none) => s
  | (s, some l) =>
    let s := s.writeReg (.schedQtab k) val
    { s with qtab := s.qtab.filter (fun d => d.k ≠ k) ++ l })

/-- A doorbell value that is refused (R334). -/
def State.overrun (s : State) (k q v : Nat) : State := s.hostEvent { type := 2, slot := k, a := q, b := v, cyc := 0 }

/-- The doorbell of queue `q` of slot `k` takes a value (R334). -/
def State.doorbell (s : State) (k q v : Nat) : State :=
  if 64 ≤ q then s
  else match s.qdesc? k q with
    | none => s.overrun k q v
    | some d =>
      let n := (v + 2 ^ 32 - d.tail) % 2 ^ 32
      if !d.en then s.overrun k q v
      else if n = 0 then s
      else if 2 ^ d.log2n - d.count < n then s.overrun k q v
      else s.setTail k q v

/-- DOORBELL_WRITE (R334): the host writes `val` to the doorbell of queue `n` of slot `k`. -/
def execDoorbellWrite (s : State) : Host.Outcome State Fault Refusal :=
  .next (s.doorbell s.arg.k s.arg.n (s.arg.val.toNat % 2 ^ 32))

/-- A trap of a record claimed from a direct queue (R329): the queue, the slot's index, and the offset or address. -/
def State.directTrap (s : State) (k q i : Nat) (at_ : Nat) (c : Cause) : State :=
  s.raise { k := k, index := 0, tcode := c.code, cause := c.cause, cls := .E, srck := 7, barn := 0xFF, unit := q, idx := 0xFF,
            blk := at_, word := 0, tag := mkTag 0 k 0 0, dep := 0, slot := 0xFF, aux0 := BitVec.ofNat 64 q,
            aux1 := BitVec.ofNat 64 i, aux2 := BitVec.ofNat 32 c.aux2, cyc := 0, v := 4096, hold := .none }

/-- Whether a claim on a direct queue may begin: 32 cycles after the one before, which is done (R335). -/
def State.claimable (s : State) (d : QDesc) : Bool :=
  decide (d.q < 64) && d.en && d.direct && d.count ≠ 0 && (match d.claimed with | some c => decide (c + 32 ≤ s.cyc) | none => true) &&
    !(s.fab.accs.any fun a => a.origin = .direct d.k d.q)

/-- A claim whose record has been read (R329, R330): a bad one is consumed with a trap, a good one once a number is free. -/
def State.directClaimed (s : State) (d : QDesc) (a : Access) : State :=
  let at_ := d.slotAt d.head
  let take (s : State) : State := (s.dropAcc a.id).setHead d.k d.q (d.head + 1)
  let bad (s : State) (c : Cause) : State :=
    if (s.freeTrapIndex d.k).isNone then s else (take s).directTrap d.k d.q (d.head % 2 ^ d.log2n) at_ c
  match a.trans with
  | .failed c => bad s c
  | _ =>
    if !s.performed a then s
    else
      let r := respBytes a.pieces
      if respPoi a.pieces then bad s { code := tcPoison }
      else match s.kernelOf d.k 4096 (recField r 8 8) (recField r 4 2) with
        | (s, .wait) => s
        | (s, got) =>
          match badLaunch r got true, got, s.freeInvocation d.k with
          | some o, _, _ => bad s { code := tcLaunchFormat, aux2 := o }
          | none, .info g, some v => (take s).createInst d.k v at_ r g
          | none, .info _, none => s
          | none, _, _ => bad s { code := tcLaunchFormat, aux2 := 8 }

/-- DIRECT_CLAIM (R335, R329, R330): the queue controller claims the record at HEAD of direct queue `n` of slot `k`, the lowest
that it may claim, and reads it as 64 events; once they are performed it acts on the record. No claim begins while a memory
checkpoint runs. -/
def execDirectClaim (s : State) : Host.Outcome State Fault Refusal :=
  let k := s.arg.k
  let q := s.arg.n
  let s := s.flushBack k
  .next (match s.qdesc? k q with
  | none => s
  | some d =>
    match s.fab.accs.find? fun a => a.origin = .direct k q with
      | some a => s.directClaimed d a
      | none =>
        if !s.claimable d || s.mck.isSome || (s.qtab.any fun e => e.k = k && decide (e.q < q) && s.claimable e) then s
        else (s.modQdesc k q fun d => { d with claimed := some s.cyc }).issue
          { id := 0, origin := .direct k q, k := k, v := 4096, barn := 0xFF, tag := mkTag 0 k 0 0, dep := 0, area := .flat, kind := .read,
            ty := .b32, sc := .sys, pieces := words (d.slotAt d.head) 64, since := 0 })

/-! Ranks (R338). -/

/-- Whether a slot's contexts give way to a pre-emption (R378). -/
def State.victim (s : State) (k : Nat) : Bool := match s.preempt with | some p => p.victims.contains k | none => false

/-- Whether an instance waits in the ready queue. -/
def State.inReadyQueue (s : State) (i : Inst) : Bool :=
  readySeen i.ready i.waiter s.cyc && i.placed.isNone && !i.graph && !i.done && i.outc = 0 && s.ctxState i.k = 0 && !s.victim i.k

/-- Whether an instance has been ready for 2^20 cycles. -/
def State.agedInst (s : State) (i : Inst) : Bool := decide (i.ready.getD 0 + 2 ^ 20 ≤ s.cyc)

/-- The rank of a ready instance: least first. -/
def State.readyRank (s : State) (i : Inst) : List Nat :=
  [if s.agedInst i then 0 else 1, if s.agedInst i then i.ready.getD 0 else 0, 7 - i.prio, i.ready.getD 0, i.k, i.v]

/-! Admission (R340). -/

def State.tenant (s : State) (k : Nat) : Nat := s.regField (.schedCtx k) 16 5

/-- Barns in which a tenant's contexts hold placements. -/
def State.tenantBarns (s : State) (t : Nat) : List Nat := (upto 64).filter fun b => (s.placedIn b).any fun k => s.tenant k = t

/-- Whether a barn takes no new instance: its fence, or its die's (R461, R464). -/
def State.fenced (s : State) (b : Nat) : Bool := s.regField (.svcCtl b) 31 1 = 1 || s.regField .dieFence (dieOf b) 1 = 1

/-- Whether a barn admits a slot; `full` lets it hold 8 slots already. -/
def State.barnAdmits (s : State) (k b : Nat) (full : Bool) : Bool :=
  let r : Reg := .spadAlloc b k
  s.regField r 8 6 ≠ 0 && s.regField r 31 1 = 0 && s.regField (.schedTq (s.tenant k)) (dieOf b) 1 = 1 && !s.fenced b &&
    ((s.placedIn b).contains k || full || decide ((s.placedIn b).length < 8))

/-- Whether more barns keep a tenant within MAXB. -/
def State.withinMaxb (s : State) (k : Nat) (bs : List Nat) : Bool :=
  let own := s.tenantBarns (s.tenant k)
  decide (own.length + (bs.filter fun b => !own.contains b).length ≤ s.regField (.schedTq (s.tenant k)) 16 7)

/-- The class of an instance: 0 unclassified, 1 compute-bound, 2 memory-bound; 0 while WIN_CFG.EN is 0 (R337). -/
def State.clsOf (s : State) (i : Inst) : Nat := if s.regField .winCfg 31 1 = 1 then i.cls else 0

/-- The order in which barns are taken: larger affinity, fewer instances, lower number. -/
def State.barnRank (s : State) (i : Inst) (b : Nat) : List Nat :=
  let l := s.insts.filter fun j => j.placed.isSome && j.barns.contains b
  let c := s.clsOf i
  let same := (l.filter fun j => c ≠ 0 && s.clsOf j = c).length
  let opp := (l.filter fun j => c ≠ 0 && s.clsOf j ≠ 0 && s.clsOf j ≠ c).length
  [2 ^ 20 + same - opp, l.length, b]

/-- Takes `n` barns one at a time. -/
def State.takeBarns (s : State) (i : Inst) (full : Bool) : Nat → List Nat → Option (List Nat)
  | 0, bs => some bs
  | n + 1, bs =>
    match bestOf (s.barnRank i) ((upto 64).filter fun b => !bs.contains b && s.barnAdmits i.k b full && s.withinMaxb i.k (b :: bs)) with
    | some b => s.takeBarns i full n (bs ++ [b])
    | none => none

/-- The physical barns of BSET (R328, R462). -/
def State.bset (s : State) (i : Inst) : List Nat :=
  ((upto 64).filter fun b => bitsAt (recField i.recBytes 0x10 8) b 1 = 1).map (s.physBarn i.k)

/-- The barns that an instance would be placed in; `full` counts a barn of 8 slots as admitting (R340, R375). -/
def State.barnsFor (s : State) (i : Inst) (full : Bool) : Option (List Nat) :=
  let set_ := s.bset i
  if set_.isEmpty then s.takeBarns i full (recField i.recBytes 0x18 1) []
  else if (set_.all fun b => s.barnAdmits i.k b full) && s.withinMaxb i.k set_ then some set_
  else none

/-! Placement (R340). -/

/-- The handler blocks of a kernel (R249): its blocks lie contiguously from the entry (R82); none while a page is waited
for. -/
def handlerBlocks (k v : Nat) : Nat → Nat → State → State × Option (List Nat)
  | 0, _, s => (s, some [])
  | n + 1, va, s =>
    match s.unitRead 0 k v va 16 srcIo with
    | (s, .ok b _) =>
      let h : BitVec 128 := BitVec.ofNat 128 (leNat b)
      match handlerBlocks k v n (va + (blockLen h + 63) / 64 * 64) s with
      | (s, some l) => (s, some (if hdrHANDLER h then va :: l else l))
      | x => x
    | (s, .wait _ _) => (s, none)
    | (s, .ats) => (s, none)
    | (s, _) => (s, some [])

/-- The handler entries that an instance installs in its barns, on the tiles that its context holds there (R249). -/
def State.handlersOf (s : State) (i : Inst) (barns blks : List Nat) : List Handler :=
  barns.flatMap fun b => ((upto 8).filter fun t => s.tileOwner b t = some i.k).flatMap fun t => blks.map fun blk =>
    { barn := b, tile := t, ch := Config.handlerDecl blk % 64, k := i.k, v := i.v, blk := blk, pri := Config.handlerDecl blk / 64 % 8 }

/-- The migration list of an instance (R328); none while a page is waited for. The chapter names no fault for the list, so a
header or an entry that breaks its layout is not acted on (R10; DESIGN CHOICE, log 114). -/
def State.migrationList (s : State) (i : Inst) : State × Option (List (Nat × Nat)) :=
  let at_ := recField i.recBytes 0x28 8
  if at_ = 0 then (s, some [])
  else match s.unitRead 0 i.k i.v at_ 8 srcIo with
    | (s, .ok h _) =>
      let n := if 4096 < recField h 0 4 || recField h 4 4 ≠ 0 then 0 else recField h 0 4
      match s.unitRead 0 i.k i.v (at_ + 8) (8 * n) srcIo with
      | (s, .ok b _) => (s, some (((upto n).map fun j => recField b (8 * j) 8).filterMap fun e => if e < 2 ^ 62 then some (e % 2 ^ 60, e / 2 ^ 60) else none))
      | (s, .wait _ _) => (s, none)
      | (s, .ats) => (s, none)
      | (s, _) => (s, some [])
    | (s, .wait _ _) => (s, none)
    | (s, .ats) => (s, none)
    | (s, _) => (s, some [])

/-- An instance is placed: its context's flags and maxima start at 0 (R52, R54); scrubs in the barns that its slot newly enters,
its handlers, its migration list and its core programs; its entry strand leaves once they are done (R340). -/
def State.place (s : State) (i : Inst) (barns : List Nat) : State :=
  match handlerBlocks i.k i.v i.nblk i.entry s with
  | (s, none) => s
  | (s, some blks) =>
    match s.migrationList i with
    | (s, none) => s
    | (s, some mig) =>
      let fresh := barns.filter fun b => !(s.placedIn b).contains i.k
      let progs : List (Nat × Bool) := if recField i.recBytes 0x20 8 = 0 then [] else barns.flatMap fun b => [(b, false), (b, true)]
      let s := foldState (fun s b => (s.scrub b i.k false).scrub b i.k true) (s.freshContext i.k) fresh
      let s := match i.waiter with | some w => s.freeWaiter w | none => s
      let s := s.modInst i.k i.v fun x => { x with waiter := none, placed := some s.cyc, barns := barns, migr := mig, progs := progs, turns := 0 }
      let new_ := s.handlersOf i barns blks
      let kept (h : Handler) : Bool := !(new_.any fun n => n.barn = h.barn && n.tile = h.tile && n.ch = h.ch)
      (s.modFab fun g => { g with handlers := g.handlers.filter kept ++ new_ }).placedStrands

/-- The instance placed first in rank order: none where an aged one that cannot be placed stands before it (R338). -/
def State.firstPlaceable (s : State) : Nat → List Inst → Option (Inst × List Nat)
  | 0, _ => none
  | n + 1, l =>
    match bestOf s.readyRank l with
    | none => none
    | some i =>
      match s.barnsFor i false with
      | some bs => some (i, bs)
      | none => if s.agedInst i then none else s.firstPlaceable n (l.filter fun j => j ≠ i)

/-- Counts the placement turns in which an instance stood first and unplaced (R374). -/
def State.countTurns (s : State) (first : Option Inst) : State :=
  let one (i : Inst) : Inst :=
    if (first.map fun f => decide (f.k = i.k) && decide (f.v = i.v)).getD false then { i with turns := i.turns + 1 } else { i with turns := 0 }
  { s with insts := s.insts.map one }

/-- Ends a pre-emption whose victims hold no placement any more (R378). -/
def State.endPreempt (s : State) : State :=
  match s.preempt with
  | some p => if s.insts.any fun i => p.victims.contains i.k && i.placed.isSome then s else { s with preempt := none }
  | none => s

/-- PLACEMENT_TURN (R338, R340): every 8 cycles the first placeable instance is placed. -/
def execPlacementTurn (s : State) : Host.Outcome State Fault Refusal :=
  .next (if s.cyc % 8 ≠ 0 || s.mck.isSome || s.turnAt = some s.cyc then s
  else
    let s := { s.endPreempt with turnAt := some s.cyc }
    let l := s.insts.filter s.inReadyQueue
    let first := bestOf s.readyRank l
    match s.firstPlaceable (l.length + 1) l with
    | none => s.countTurns first
    | some (i, bs) => (s.countTurns (if first = some i then none else first)).place i bs)

/-! Winnow (R337). -/

/-- The class that one window gives an instance, and what it makes of the instance's class. -/
def Inst.window (i : Inst) (thr : Nat) : Inst :=
  let j := { i with ops := 0, bytes := 0 }
  if i.graph || (i.ops = 0 && i.bytes = 0) then j
  else
    let c := if thr * i.bytes ≤ i.ops * 16 then 1 else 2
    if i.cls = 0 || i.cls = c then { j with cls := c, other := false }
    else if i.other then { j with cls := c, other := false }
    else { j with other := true }

/-- WINNOW_WINDOW_END (R337): a window of 65,536 cycles ends. -/
def execWinnowWindowEnd (s : State) : Host.Outcome State Fault Refusal :=
  .next (if s.cyc % 65536 = 0 then { s with insts := s.insts.map fun i => i.window (s.regField .winCfg 0 16) } else s)

/-! The Reeve (R336). -/

/-- The ready entries that the Reeve could take for a context. -/
def State.reeveReady (s : State) : List Gather := s.gathers.filter fun g => s.routable .reeve g

/-- REEVE_RELEASE (R336): the Reeve takes no further entry of its context after 64 cycles without a ready one, or after 64
invocations while another context's entry has aged; a live space instance keeps it (R241, R243). -/
def execReeveRelease (s : State) : Host.Outcome State Fault Refusal :=
  .next (match s.reeveK with
  | none => s
  | some k =>
    let own := s.reeveReady.any fun g => g.k = k
    let rival := s.reeveReady.any fun g => g.k ≠ k && decide (g.from + agedAt ≤ s.cyc)
    if ((!own && decide (s.reeveLast + 64 ≤ s.cyc)) || (decide (64 ≤ s.reeveTaken) && rival)) &&
        !(s.fab.spaces.any fun x => x.holder = .reeve) then { s with reeveClose := true }
    else s)

/-- A context that the Reeve could take: what it waits with, from when, and the instance that owns it. -/
structure Rival where
  from_ : Nat
  k     : Nat
  v     : Nat
  deriving DecidableEq, Repr

/-- What waits for the Reeve: ready entries, and LQTAKEs and KDONEs of contexts that gave it up, whose wait is over (DESIGN
CHOICE, log 115). -/
def State.rivals (s : State) : List Rival :=
  (s.reeveReady.map fun g => { from_ := g.from, k := g.k, v := g.v }) ++
  ((s.fab.waits.filter fun w => match w.why with
      | .kdone v => ((s.inst? w.k v).map Inst.done).getD false
      | _ => false).map fun w => { from_ := w.since, k := w.k, v := tagV w.fire.tag }) ++
  ((s.fab.accs.filter fun a => match a.kind with
      | .claim q => a.pieces.isEmpty && ((s.qdesc? a.k q).map fun d => decide (d.count ≠ 0)).getD false
      | _ => false).map fun a => { from_ := a.since, k := a.k, v := a.v })

/-- The rank of a context for the Reeve's choice. -/
def State.reeveRank (s : State) (g : Rival) : List Nat :=
  let aged := decide (g.from_ + agedAt ≤ s.cyc)
  [if aged then 0 else 1, if aged then g.from_ else 0, 7 - ((s.inst? g.k g.v).map Inst.prio).getD 0, g.from_, g.k]

/-- What each context has waited with for longest. -/
def State.reeveOldest (s : State) : List Rival :=
  let l := s.rivals
  (upto 32).filterMap fun k => minBy Rival.from_ (l.filter fun g => g.k = k)

/-- REEVE_SELECT (R336): the Reeve, with every invocation drained but those in which an LQTAKE or KDONE waits, takes the next
context. -/
def execReeveSelect (s : State) : Host.Outcome State Fault Refusal :=
  let s := s.drain
  .next (if (s.reeveK.isSome && !s.reeveClose) || s.fab.invocs.any fun i => i.holder = .reeve && !s.onlyWaits i then s
  else match bestOf s.reeveRank s.reeveOldest with
    | none => s
    | some g =>
      let waits (l : Loaded) : Bool := s.fab.invocs.any fun i => i.holder = .reeve && i.blk = l.blk && i.k = l.k
      let s := s.modFab fun f => { f with blocks := f.blocks.filter fun l => !(l.holder = .reeve && l.k ≠ g.k && !waits l) }
      { s with reeveK := some g.k, reeveTaken := 0, reeveLast := s.cyc, reeveClose := false,
               fetches := s.fetches.filter fun f => !(f.holder = .reeve && f.k ≠ g.k) })

end Sys2Proof.Machine
end

