-- ==== Sys2Proof/Machine/Park.lean ====
section
/-! DEFINITION. How the records of a context move between units: a save takes them out of the units that held them, and a
restore puts them on units again (R382, R384). -/

namespace Sys2Proof.Machine

/-- Where holders and barns go. -/
structure Move where
  hold : Holder → Holder
  barn : Nat → Nat
  eng  : Nat → Nat

def Move.site (m : Move) (x : Site) : Site := { x with holder := m.hold x.holder }
def Move.firing (m : Move) (f : Firing) : Firing := { f with site := m.site f.site }
def Move.core (m : Move) (c : CoreId) : CoreId := { c with barn := m.barn c.barn }
def Move.key (m : Move) (i : InvKey) : InvKey := { i with holder := m.hold i.holder }

def Move.origin (m : Move) (o : Origin) : Origin :=
  match o with
  | .firing f => .firing (m.firing f)
  | .stream f j => .stream (m.firing f) j
  | .streamWrite f => .streamWrite (m.firing f)
  | .core c pc rd => .core (m.core c) pc rd
  | .coreCount c pc eq n => .coreCount (m.core c) pc eq n
  | .trapRec k n => .trapRec k n
  | .direct k q => .direct k q

def Move.held (m : Move) (h : Hold) : Hold :=
  match h with
  | .firing f => .firing (m.firing f)
  | .emulation f n => .emulation (m.firing f) n
  | .stream f j => .stream (m.firing f) j
  | .fetch x k v blk => .fetch (m.hold x) k v blk
  | .core c => .core (m.core c)
  | .edge b q => .edge (m.barn b) q
  | .word a => .word a
  | .waiter w i => .waiter w i
  | .page d i => .page d i
  | .none => .none

def Move.reconf (m : Move) (r : Reconf) : Reconf := { r with src := m.site r.src }

def Move.region (m : Move) (r : Region) : Region :=
  { r with barn := m.barn r.barn, loads := r.loads.map fun l => { l with fire := m.firing l.fire },
           swap := r.swap.map m.firing, freeBy := r.freeBy.map m.firing,
           drains := r.drains.map fun d => { d with site := m.site d.site } }

/-- Moves the records of one context in the fabric. -/
def Fabric.move (g : Fabric) (k : Nat) (m : Move) : Fabric :=
  let tag (t : DWord) : Bool := tagK t = k
  let dlv (d : Delivery) : Delivery :=
    { d with from_ := d.from_.map m.key, fire := d.fire.map m.firing, core := d.core.map m.core }
  { blocks := g.blocks.map fun x => if x.k = k then { x with holder := m.hold x.holder, reconf := x.reconf.map m.reconf } else x
    queues := g.queues.map fun x => if tag x.tok.tag then { x with site := m.site x.site } else x
    flights := g.flights.map fun x => if tag x.tok.tag then { x with src := m.site x.src, dst := m.site x.dst } else x
    sets := g.sets.map fun x => if tag x.tag then { x with site := m.site x.site } else x
    invocs := g.invocs.map fun x => if x.k = k then { x with holder := m.hold x.holder } else x
    spaces := g.spaces.map fun x => if tag x.tag then { x with holder := m.hold x.holder } else x
    streams := g.streams.map fun x => if tag x.tag then { x with site := m.site x.site, fire := x.fire.map m.firing } else x
    frames := g.frames.map fun x => if tag x.tag then { x with holder := m.hold x.holder } else x
    sbuf := g.sbuf.map fun x => if tag x.tag then { x with holder := m.hold x.holder, deliver := x.deliver.map dlv } else x
    accs := g.accs.map fun x => if x.k = k then { x with barn := m.barn x.barn, origin := m.origin x.origin } else x
    waits := g.waits.map fun x => if x.k = k then { x with fire := m.firing x.fire, core := x.core.map m.core } else x
    cores := g.cores.map fun x => if x.k = k then { x with id := m.core x.id } else x
    eqs := g.eqs.map fun x => if x.k = k then { x with barn := m.barn x.barn } else x
    chans := g.chans.map fun x =>
      let h := m.hold (.tile x.barn x.tile)
      if x.k = k then { x with barn := h.barn?.getD x.barn, tile := h.unit } else x
    handlers := g.handlers.map fun x => if x.k = k then { x with barn := m.barn x.barn } else x
    regions := g.regions.map fun x => if x.k = k then m.region x else x
    cmds := g.cmds.map fun x =>
      if x.k = k then { x with barn := m.barn x.barn, core := x.core.map m.core, eng := m.eng x.eng } else x }

/-- Moves all records of a context. -/
def State.move (s : State) (k : Nat) (m : Move) : State :=
  let dlv (d : Delivery) : Delivery :=
    if d.k = k then { d with from_ := d.from_.map m.key, fire := d.fire.map m.firing, core := d.core.map m.core } else d
  let gat (g : Gather) : Gather := if g.k = k then { g with from_ := g.from_.map m.key, home := g.home.map m.hold } else g
  let trp (t : Trap) : Trap := if t.k = k then { t with hold := m.held t.hold } else t
  let tsk (t : Task) : Task :=
    if t.k = k then { t with core := t.core.map m.core, run := t.run.map fun r => (m.barn r.1, r.2) } else t
  let tq (t : TaskSlot) : TaskSlot := if t.k = k then { t with core := t.core.map m.core } else t
  let pub (p : Publish) : Publish := if p.k = k then { p with fire := p.fire.map m.firing, core := p.core.map m.core } else p
  let ins (i : Inst) : Inst := if i.k = k then { i with progs := i.progs.map fun p => (m.barn p.1, p.2) } else i
  { s with fab := s.fab.move k m, delivs := s.delivs.map dlv, gathers := s.gathers.map gat, traps := s.traps.map trp,
           tasks := s.tasks.map tsk, taskQ := s.taskQ.map tq, pubs := s.pubs.map pub, insts := s.insts.map ins }

/-- Takes the records of a context out of every unit. -/
def parkMove (k : Nat) : Move :=
  { hold := fun h => match h with
      | .bay b f => .bay (parkedBarn k b) f
      | .tile b t => .tile (parkedBarn k b) t
      | .region b r => .region (parkedBarn k b) r
      | .reeve => .tile (parkedBarn k 0xFF) 0
    barn := fun b => if b < 64 then parkedBarn k b else b
    eng := fun e => e + 64 }

/-- Whether a barn number is one of a saved context's records. -/
def isParked (k b : Nat) : Bool := b / 256 = k + 1

/-- The barn that a number of a saved context's records stood for. -/
def wasBarn (k b : Nat) : Nat := b - 256 * (k + 1)

/-- Puts the records of a context on units: `new_` gives the barns, and `units` the holders of bays and tiles. -/
def unparkMove (k : Nat) (new_ : Nat → Nat) (units : List (Holder × Holder)) : Move :=
  let barn (b : Nat) : Nat := if isParked k b then new_ (wasBarn k b) else b
  { hold := fun h =>
      match units.find? fun u => u.1 = h with
      | some u => u.2
      | none => match h with
        | .bay b f => .bay (barn b) f
        | .tile b t => if isParked k b && wasBarn k b = 0xFF then .reeve else .tile (barn b) t
        | .region b r => .region (barn b) r
        | .reeve => .reeve
    barn := barn
    eng := fun e => e % 64 }

end Sys2Proof.Machine
end

