-- ==== Sys2Proof/Machine/Sections.lean ====
section
/-! DEFINITION. The sections of a save image and the records of the state window (R382, R383, R457). Where a rule names what
a record holds and not where, the parts stand in the order in which the rule names them, and the bytes left are free (DESIGN
CHOICE, log 14). -/

namespace Sys2Proof.Machine

/-- A record of `n` bytes: what it holds, then bytes that the manual does not place (DESIGN CHOICE, log 14). -/
def recordOf (type n : Nat) (b : List Byte) : List Byte := b.take n ++ (upFrom b.length (n - b.length)).map (Config.recordByte type b)

/-- A section: its type, its count of records, and its bytes. -/
abbrev Section := Nat × Nat × List Byte

/-- A section with one record of `n` bytes for each item. -/
def sectionOf (type n : Nat) (l : List (List Byte)) : Section := (type, l.length, l.flatMap (recordOf type n))

/-- An age as a 24-bit counter shows it (R259). -/
def ageField (now since : Nat) : Nat := min (now - since) (2 ^ 24 - 1)

/-! Tokens (R383). -/

/-- A token record. -/
def tokenRecord (k : Tok) (loc slot blk idx age barn unit : Nat) : List Byte :=
  leBytes 8 k.tag.toNat ++ leBytes 4 k.data.toNat ++ leBytes 2 k.meta16 ++ leBytes 1 loc ++ leBytes 1 slot ++ leBytes 8 blk ++
  leBytes 1 idx ++ [0] ++ leBytes 3 age ++ leBytes 1 barn ++ leBytes 1 unit ++ [0]

/-- A token record for a node's slot. -/
def siteRecord (x : Site) (k : Tok) (loc slot age : Nat) : List Byte :=
  tokenRecord k loc slot x.blk x.idx age x.holder.barnNo x.holder.unit

/-- The tokens of a set, with their slots. -/
def PSet.held4 (x : PSet) : List (Slot × Tok) :=
  [Slot.a, .b, .c, .p].filterMap fun sl => (x.tok? sl).map fun t => (sl, t)

/-- The response that a performed access of a firing holds at its port: the word it read, for the instruction that waits (LOC 2). -/
def Access.heldToken (a : Access) : Option (Site × Tok) :=
  match a.origin with
  | .firing f =>
    if a.done then
      some (f.site, { tag := a.tag, dep := a.dep, ty := a.ty, poi := a.pieces.any Piece.poi
                      data := BitVec.ofNat 32 ((a.pieces.filterMap Piece.resp).headD 0) })
    else none
  | _ => none

/-- Section 4: the tokens of a slot. -/
def State.tokenSection (s : State) (k : Nat) : List (List Byte) :=
  let g := s.fab
  let mine (t : Tok) : Bool := tagK t.tag = k
  let age (n : Nat) : Nat := ageField s.cyc n
  ((g.queues.filter fun q => mine q.tok).map fun q => siteRecord q.site q.tok 0 q.slot.toBits.toNat (age (max q.since q.head))) ++
  ((g.flights.filter fun x => mine x.tok).map fun x => siteRecord x.dst x.tok (if x.conf.isSome then 9 else 0) x.slot.toBits.toNat 0) ++
  ((g.sets.filter fun x => tagK x.tag = k).flatMap fun x => x.held4.map fun t =>
    siteRecord x.site t.2 (if x.place = .frame then 3 else 1) t.1.toBits.toNat (age x.since)) ++
  ((g.accs.filter fun a => a.k = k).filterMap fun a => a.heldToken.map fun t => siteRecord t.1 t.2 2 0 (age a.since)) ++
  ((g.eqs.filter fun e => e.k = k).filterMap fun e => e.tok.map fun t =>
    tokenRecord t (if e.out then 5 else 4) e.q e.bind.tgt.toNat e.bind.ent (age (e.age.getD s.cyc)) (e.barn % 256) 0) ++
  ((g.chans.filter fun c => c.k = k).map fun c =>
    tokenRecord c.tok 6 (c.ch.getD 0xFF) 0 0 (age (c.age.getD s.cyc)) (c.barn % 256) c.tile) ++
  ((g.streams.filter fun x => tagK x.tag = k).flatMap fun x => x.rows.map fun t => siteRecord x.site t.2 7 0 0) ++
  ((g.regions.filter fun r => r.k = k).flatMap fun r => r.rowTab.map fun t => tokenRecord t.2.2.2 8 0 r.blk t.1 0 (r.barn % 256) r.r) ++
  ((g.blocks.filter fun l => l.k = k).flatMap fun l => l.reconf.map fun r =>
    tokenRecord r.tok 9 0 l.blk r.idx 0 l.holder.barnNo l.holder.unit)

/-! Registers and instances. -/

/-- Section 1: the registers of a slot. -/
def State.regSection (s : State) (k : Nat) : List Byte :=
  let w (r : Reg) : List Byte := leBytes 4 (s.reg r).toNat
  w (.flagLo k) ++ w (.flagHi k) ++ (upto 16).flatMap (fun n => w (.amax k n)) ++ w (.stallim k) ++ w (.trapch k) ++ recZero 48

/-- Barns as the bits of 8 bytes. -/
def barnBits (l : List Nat) : Nat := ((upto 64).map fun b => if l.contains b then 2 ^ b else 0).sum

/-- The launch record of an instance with the base registers that it holds (R135, R328). -/
def Inst.record (i : Inst) : List Byte := i.recBytes.take 0x40 ++ i.kbase.flatMap (fun b => leBytes 8 b.toNat) ++ i.recBytes.drop (0x40 + 8 * i.kbase.length)

/-- An instance (type 2): launch record, descriptor table, status, E, barn set. -/
def State.instRecord (s : State) (i : Inst) : List Byte :=
  i.record ++ (upto 64).flatMap (fun n => (i.desc.drop n).headD (recZero 64)) ++ leBytes 4 i.status.toNat ++
  leBytes 8 (s.cyc - i.placed.getD s.cyc) ++ leBytes 8 (barnBits i.barns)

/-- A slot's instances that hold a place. -/
def State.heldInsts (s : State) (k : Nat) : List Inst := s.insts.filter fun i => i.k = k && (i.placed.isSome || i.graph) && !i.done

/-- An open invocation (type 3). -/
def Invoc.bytes (i : Invoc) : List Byte :=
  leBytes 8 i.blk ++ leBytes 8 i.tag.toNat ++ leBytes 1 i.dep ++ leBytes 1 i.holder.barnNo ++ leBytes 1 i.holder.unit

/-- A space instance (type 5): its key, its bits and its holder. -/
def Space.bytes (x : Space) : List Byte :=
  leBytes 8 x.tag.toNat ++ leBytes 1 x.dep ++ leBytes 32 x.bits ++ leBytes 8 x.blk ++ leBytes 1 x.holder.barnNo ++ leBytes 1 x.holder.unit

/-! Node state (type 6). -/

/-- Where a node stands. -/
def siteBytes (x : Site) : List Byte :=
  leBytes 8 x.blk ++ leBytes 1 x.idx ++ leBytes 1 x.holder.barnNo ++ leBytes 1 x.holder.unit

/-- A stream in progress, or its truncation. -/
def Stream.bytes (x : Stream) : List Byte :=
  siteBytes x.site ++ leBytes 8 x.tag.toNat ++ leBytes 1 x.dep ++ leBytes 4 (x.trunc.getD x.next) ++ leBytes 1 (if x.trunc.isSome then 1 else 0)

/-- Section 6: converter configuration words, streams and truncations, the wait list, and pending traps in two records each. -/
def State.nodeSection (s : State) (k : Nat) : List (List Byte) :=
  ((s.fab.blocks.filter fun l => l.k = k).flatMap fun l => l.qcfg.map fun q =>
    siteBytes { holder := l.holder, blk := l.blk, idx := q.1 } ++ leBytes 1 q.2.toNat) ++
  ((s.fab.streams.filter fun x => tagK x.tag = k).map Stream.bytes) ++
  ((s.fab.accs.filter fun a => a.k = k && a.wf).map fun a =>
    leBytes 8 ((a.pieces.head?.map Piece.addr).getD 0) ++ leBytes 8 a.tag.toNat ++ leBytes 1 a.dep ++ leBytes 3 (ageField s.cyc a.since)) ++
  ((s.traps.filter fun t => t.k = k).flatMap fun t => [t.record.take 32, t.record.drop 32])

/-! Frames and memories. -/

/-- A frame (type 7): its FRAME bytes, then the presence and metadata of each slot (R247). -/
def State.frameRecord (s : State) (f : Frame) : List Byte :=
  let n := ((s.block? f.holder f.blk).map fun l => hdrFRAME l.hdr).getD 0
  let slot (i : Nat) : List Byte :=
    let tok := s.fab.sets.findSome? fun x =>
      if x.place = .frame && x.site.holder = f.holder && x.site.blk = f.blk && s.frameOf? f.holder f.blk x.tag x.dep = some f &&
        wordIndex x.site = i / 4 then (x.held4.find? fun t => t.1.toBits.toNat = i % 4).map Prod.snd else none
    leBytes 2 ((tok.map fun t => 2 ^ 15 + t.meta16 % 2 ^ 15).getD 0)
  (match poolPlace f.holder f.base with
    | some a => s.readB .scr a n
    | none => recZero n) ++ (upto (n / 4)).flatMap slot

/-- The bytes of a slot's allocation in a barn. -/
def State.allocBytes (s : State) (k b : Nat) (weight : Bool) : List Byte :=
  if weight then s.readB .wbuf (b * 2 ^ 21 + s.regField (.wbufAlloc b k) 0 5 * 2 ^ 16) (s.regField (.wbufAlloc b k) 8 6 * 2 ^ 16)
  else s.readB .scr (b * 2 ^ 22 + s.regField (.spadAlloc b k) 0 6 * 2 ^ 16) (s.regField (.spadAlloc b k) 8 6 * 2 ^ 16)

/-- The presence bits of a slot's allocation in a barn, eight granules a byte. -/
def State.presBytes (s : State) (k b : Nat) : List Byte :=
  let g := (b * 2 ^ 22 + s.regField (.spadAlloc b k) 0 6 * 2 ^ 16) / 16
  (upto (s.regField (.spadAlloc b k) 8 6 * 512)).map fun i =>
    BitVec.ofNat 8 (((upto 8).map fun j => if s.full (g + 8 * i + j) then 2 ^ j else 0).sum)

/-! Regions, cores, commands and queues. -/

/-- Half of a region's latches: 32 bytes in each PE. -/
def Half.image (h w : Nat) (x : Half) : List Byte := x.bytes.take (32 * h * w) ++ recZero (32 * h * w - x.bytes.length)

/-- An entry of an accumulator set. -/
def AccEntry.image (e : AccEntry) : List Byte :=
  leBytes 1 e.half ++ leBytes 1 e.idx ++ leBytes 2 e.tile ++ leBytes 1 (if e.full then 1 else 0) ++
  e.vals.flatMap fun v => leBytes 4 (v % 2 ^ 32).toNat

/-- A region (type 10): handle, both latch halves, both accumulator sets, row entry tables, tile state. -/
def Region.image (r : Region) : List Byte :=
  let l := leBytes 4 (r.gen * 2 ^ 16 + r.r * 64 + r.barn % 64) ++ r.half0.image r.h r.w ++ r.half1.image r.h r.w ++
    ((r.accs.filter fun e => e.half = 0) ++ (r.accs.filter fun e => e.half = 1)).flatMap AccEntry.image ++
    r.rowTab.flatMap fun t => leBytes 1 t.1 ++ leBytes 1 t.2.1 ++ leBytes 2 t.2.2.1 ++ leBytes 4 t.2.2.2.data.toNat
  recordOf 10 (l.length + Config.regionBytes r.h r.w) l

/-- A core (type 11): registers, control and status registers, private stores; its counts stand in XCNT. -/
def Core.image (c : Core) : List Byte :=
  let word (n : Nat) : List Byte := leBytes 4 (c.csr n).toNat
  recordOf 11 256 ((upto 32).flatMap (fun n => leBytes 4 ((c.x.drop n).headD 0).toNat) ++ leBytes 4 c.pc.toNat ++
    ([0x300, 0x305, 0x340, 0x341, 0x342, 0x343, 0xB00, 0xB02, 0xB80, 0xB82, csrXtaglo, csrXrpt, csrXtaghi, csrXpopm].flatMap word) ++
    leBytes 4 (c.ld * 2 ^ 24 + c.st * 2 ^ 16 + c.cpy * 2 ^ 8 + c.tt)) ++ getBytes c.istore 0 65536 ++ getBytes c.dmem 0x10000 32768

/-- The addresses of the blocks of an image. -/
def State.blockList (s : State) (k : Nat) : Nat → Nat → List Nat
  | 0, _ => []
  | n + 1, va => va :: match s.peekHdr k va with
    | some h => s.blockList k n (va + (blockLen h + 63) / 64 * 64)
    | none => []

/-- A gather queue (type 13): its cached head and tail, and the index of the entry that forms. -/
def State.gatherRecord (s : State) (i : Inst) (blk : Nat) : List Byte :=
  let tail := i.tail blk
  let forming := (s.gathers.filter fun g => g.k = i.k && g.v = i.v && g.blk = blk && g.ready.isNone).foldl (fun n g => min n g.pos) tail
  leBytes 4 (tail - s.ringUsed i.k i.v blk) ++ leBytes 4 tail ++ leBytes 4 forming

/-- The sections of a slot's image in order of type; an empty one is left out. -/
def State.saveSections (s : State) (k : Nat) : List Section :=
  let g := s.fab
  let insts := s.heldInsts k
  let barns := (upto 64).filter fun b => insts.any fun i => i.barns.contains b
  let toks := s.tokenSection k
  let regs := g.regions.filter fun r => r.k = k
  let frames := g.frames.filter fun f => tagK f.tag = k
  let cores := g.cores.filter fun c => c.k = k
  let sheaves := s.sheaves.filter fun e => e.asid = s.asid k
  let waiters := s.waiters.filter fun w => w.asid = s.asid k
  let l : List Section := [
    (1, 1, s.regSection k),
    sectionOf 2 4608 (insts.map s.instRecord),
    sectionOf 3 32 ((g.invocs.filter fun i => i.k = k).map Invoc.bytes),
    (4, toks.length, toks.flatten),
    sectionOf 5 64 ((g.spaces.filter fun x => tagK x.tag = k).map Space.bytes),
    sectionOf 6 32 (s.nodeSection k),
    (7, frames.length, frames.flatMap s.frameRecord),
    (8, barns.length, barns.flatMap fun b => s.allocBytes k b false ++ s.presBytes k b),
    (9, barns.length, barns.flatMap fun b => s.allocBytes k b true),
    (10, regs.length, regs.flatMap Region.image),
    (11, cores.length, cores.flatMap Core.image),
    sectionOf 12 128 ((g.cmds.filter fun c => c.k = k).map fun c => c.bytes.take 64 ++ leBytes 8 c.pos),
    sectionOf 13 16 (insts.flatMap fun i => (s.blockList k i.nblk i.entry).map (s.gatherRecord i)),
    (14, sheaves.length + waiters.length, sheaves.flatMap s.sheafBytes ++ waiters.flatMap s.waiterBytes)]
  l.filter fun x => x.2.1 ≠ 0

/-! Structures of a barn (R457). -/

/-- An entry of the loft (R24): its tag, data, metadata, slot and PE. -/
def loftEntry (t : Tok) (sl pe : Nat) : List Byte :=
  leBytes 4 (8 + pe % 1024 * 16 + sl * 2 ^ 14 + t.meta16 * 2 ^ 16) ++ leBytes 4 t.data.toNat ++ leBytes 8 t.tag.toNat

/-- The PE of a node within its barn's field. -/
def State.peOfSite (s : State) (x : Site) : Nat :=
  128 * x.holder.unit + s.peOf x

/-- The loft entries of bay frame `f` of barn `b` with the cycles from which they age: those of partial sets, then those of delay
buffers (R269; their order is the model's, DESIGN CHOICE, log 14). -/
def State.loftEntries (s : State) (b f : Nat) : List (List Byte × Nat) :=
  let mine (x : Site) : Bool := x.holder = .bay b f
  ((s.fab.sets.filter fun x => mine x.site && x.place = .loft).flatMap fun x => x.held4.map fun t =>
    (loftEntry t.2 t.1.toBits.toNat (s.peOfSite x.site), x.since)) ++
  ((s.fab.streams.filter fun x => mine x.site && s.delays x.site).flatMap fun x => x.rows.map fun t =>
    (loftEntry t.2 0 (s.peOfSite x.site), x.since))

/-- 64 bytes of the lofts of a barn: 65,536 entries of 16 bytes, then an age of 4 bytes each. -/
def State.loftLine (s : State) (b line : Nat) : List Byte :=
  let entry (n : Nat) : Option (List Byte × Nat) := ((s.loftEntries b (n / 8192)).drop (n % 8192)).head?
  if line < 0x4000 then (upto 4).flatMap fun i => ((entry (4 * line + i)).map Prod.fst).getD (recZero 16)
  else (upto 16).flatMap fun i => leBytes 4 (((entry (16 * (line - 0x4000) + i)).map fun e => ageField s.cyc e.2).getD 0)

/-- The set in entry `e` of the matching table of PE `pe` of a barn. -/
def State.tableSet (s : State) (b pe e : Nat) : Option PSet :=
  s.fab.sets.find? fun x => x.place = .table e && x.site.holder.barn? = some b && s.peOfSite x.site = pe

/-- 64 bytes of the matching tables of a barn: for each of 16 entries of a PE its four slots as loft entries, then an age of 4 bytes
an entry (DESIGN CHOICE, log 14). -/
def State.tableLine (s : State) (b line : Nat) : List Byte :=
  if line < 0x4000 then
    let x := s.tableSet b (line / 16) (line % 16)
    [Slot.a, .b, .c, .p].flatMap fun sl => ((x.bind fun x => (x.tok? sl).map fun t => loftEntry t sl.toBits.toNat (line / 16)).getD (recZero 16))
  else (upto 16).flatMap fun i => leBytes 4 (((s.tableSet b (line - 0x4000) i).map fun x => ageField s.cyc x.since).getD 0)

/-- The instances of a barn, with their Winnow class and counters (R337): 32 bytes each (DESIGN CHOICE, log 14). -/
def State.winnowLine (s : State) (b line : Nat) : List Byte :=
  let l := s.insts.filter fun i => i.placed.isSome && i.barns.contains b
  (upto 2).flatMap fun j => ((l.drop (2 * line + j)).head?.map fun i =>
    leBytes 1 i.k ++ leBytes 1 i.cls ++ leBytes 2 i.v ++ recZero 4 ++ leBytes 8 i.ops ++ leBytes 8 i.bytes ++ recZero 8).getD (recZero 32)

end Sys2Proof.Machine
end

