-- ==== Sys2Proof/Machine/Switch.lean ====
section
/-! DEFINITION. Pre-emption, stop waves, saves and restores of contexts (R374 to R386). -/

namespace Sys2Proof.Machine

/-! Pre-emption (R374 to R378). -/

/-- The header EST of a block, where it is known. -/
def hdrEST (h : BitVec 128) : Option Nat := let e := bitsAt h.toNat 16 24; if e = 0xFFFFFF then none else some e

/-- REM of an instance in cycles, where it is known (R377). -/
def State.rem (s : State) (i : Inst) : Option Nat :=
  let est := recField i.recBytes 0x1C 3
  if est ≠ 0xFFFFFF then some (64 * (est - (s.cyc - i.placed.getD 0) / 64))
  else
    let l := (s.fab.invocs.filter fun x => x.k = i.k && x.v = i.v).map fun x =>
      (s.block? x.holder x.blk).bind fun b => hdrEST b.hdr
    if l.any Option.isNone then none else some (64 * (l.map fun e => e.getD 0).foldl max 0)

/-- Whether every block of a kernel has IDEM = 1; a block that cannot be read counts as none (DEDUCED, log 56). -/
def State.kernelIdem (s : State) (k : Nat) : Nat → Nat → Bool
  | 0, _ => true
  | n + 1, va =>
    match s.peekHdr k va with
    | some h => hdrIDEM h && s.kernelIdem k n (va + (blockLen h + 63) / 64 * 64)
    | none => false

/-- Whether an instance may be killed (R377). -/
def State.killable (s : State) (i : Inst) : Bool :=
  s.regField (.schedPre i.k) 31 1 = 1 && s.kernelIdem i.k i.nblk i.entry && recField i.recBytes 0x20 8 = 0 &&
    !(s.tasks.any fun t => t.k = i.k && t.v = i.v) && !(s.taskQ.any fun t => t.k = i.k && t.v = i.v && !t.freed)

/-- What becomes of an instance of a victim slot. -/
inductive Fate | drain | kill | checkpoint
  deriving DecidableEq, Repr

/-- The table of R377 for a wait of `w` cycles. -/
def State.fate (s : State) (i : Inst) (w : Nat) : Fate :=
  if (match s.rem i with | some r => decide (r ≤ w) | none => false) then .drain
  else if s.killable i && decide (s.cyc - i.placed.getD 0 ≤ 64 * s.regField (.schedPre i.k) 0 24) then .kill
  else .checkpoint

/-- The instances of a slot that still run in barns. -/
def State.running (s : State) (k : Nat) : List Inst := s.insts.filter fun i => i.k = k && i.placed.isSome && !i.done && i.outc = 0

/-- The victim slot of a full barn for an instance (R375); the placement that separates slots last is their latest one in the
barn (DEDUCED, log 56). -/
def State.victimIn (s : State) (n : Inst) (b : Nat) : Option Nat :=
  let ok (k : Nat) : Bool := s.regField (.schedPre k) 30 1 = 0 && (s.insts.all fun i => i.k ≠ k || decide (i.prio < n.prio))
  let top (k : Nat) : Nat := ((s.insts.filter fun i => i.k = k).map Inst.prio).foldl max 0
  let last (k : Nat) : Nat := ((s.insts.filter fun i => i.k = k && i.barns.contains b).map fun i => i.placed.getD 0).foldl max 0
  bestOf (fun k => [top k, s.cyc - last k, 32 - k]) ((s.placedIn b).filter ok)

/-- PREEMPT_REQUEST (R374 to R378): the first ready instance, unplaced for 64 turns, makes the slots that fill its barns
give way. -/
def execPreemptRequest (s : State) : Host.Outcome State Fault Refusal :=
  .next (match s.preempt, bestOf s.readyRank (s.insts.filter s.inReadyQueue) with
  | none, some n =>
    let w := 4096 * recField n.recBytes 7 1
    match s.barnsFor n false, s.barnsFor n true with
    | none, some bs =>
      if w = 0 || n.turns < 64 then s
      else
        let full := bs.filter fun b => !(s.placedIn b).contains n.k && decide (8 ≤ (s.placedIn b).length)
        let vs := full.map (s.victimIn n)
        if vs.any Option.isNone then s
        else
          let victims := (vs.filterMap id).eraseDups
          let l := victims.flatMap s.running
          let drains := (l.filter fun i => s.fate i w = .drain).map fun i => (i.k, i.v)
          let kills := l.filter fun i => s.fate i w = .kill
          let s : State := { s with preempt := some { k := n.k, v := n.v, victims := victims, drains := drains, dueAt := s.cyc + w } }
          foldState (fun s (i : Inst) => s.killInst i.k i.v 3 0) s kills
    | _, _ => s
  | _, _ => s)

/-! Stops (R379). -/

/-- A stop of a slot begins: the I/O die sends its requests. -/
def State.startStop (s : State) (k : Nat) : State :=
  if s.ctxState k ≠ 0 then s else { (s.setCtxState k 1) with stops := s.stops ++ [{ k := k }] }

/-- Whether a victim slot's drained instances have completed. -/
def State.drainedOut (s : State) (p : Preempt) (k : Nat) : Bool :=
  !(p.drains.any fun d => d.1 = k && (s.running k).any fun i => i.v = d.2)

/-- PREEMPT_DEADLINE (R378): the victim slots whose drained instances have completed, or all of them in cycle c + W, are
checkpointed where any instance remains. -/
def execPreemptDeadline (s : State) : Host.Outcome State Fault Refusal :=
  .next (match s.preempt with
  | none => s
  | some p =>
    let due (k : Nat) : Bool := !(s.running k).isEmpty && (s.drainedOut p k || decide (p.dueAt ≤ s.cyc))
    foldState State.startStop s (p.victims.filter due))

/-- A command that does not fit the state of its slot (R381). -/
def State.refuseCommand (s : State) (k : Nat) : State := s.setField (.ctxRun k) 24 1 1

def State.stop? (s : State) (k : Nat) : Option Stop := s.stops.find? fun x => x.k = k

def State.modStop (s : State) (k : Nat) (f : Stop → Stop) : State := { s with stops := mapFirst (fun x => x.k = k) f s.stops }

/-- CTX_CHECKPOINT (R381): a write `val` of CTX_RUN of slot `k` with CMD 1; after OVF it begins the save again. -/
def execCtxCheckpoint (s : State) : Host.Outcome State Fault Refusal :=
  let k := s.arg.k
  let s := s.writeReg (.ctxRun k) s.arg.val
  .next (if ((s.stop? k).map Stop.ovf).getD false then s.modStop k fun x => { x with ovf := false }
  else if s.ctxState k = 0 && s.hasPlacement k then s.startStop k
  else s.refuseCommand k)

/-- CTX_RESTORE (R381, R384): a write with CMD 2. -/
def execCtxRestore (s : State) : Host.Outcome State Fault Refusal :=
  let k := s.arg.k
  let s := s.writeReg (.ctxRun k) s.arg.val
  .next (if s.ctxState k = 3 then
    { (s.setCtxState k 2) with saved := s.saved.map fun (x : Saved) => if x.k = k then { x with restoring := true } else x }
  else s.refuseCommand k)

/-- Everything of a slot goes (R381): its instances with OUT = 2, its traps, fault waits and images, the sheaf entries and waiters of
its ASID, and what its allocations hold. -/
def State.release (s : State) (k : Nat) : State :=
  let s := foldState (fun s (i : Inst) => s.killInst k i.v 2 0) s (s.insts.filter fun i => i.k = k && !i.done && i.outc = 0)
  let asid := s.asid k
  let s := s.modFab fun g => { g with chans := g.chans.filter fun c => c.k ≠ k, handlers := g.handlers.filter fun h => h.k ≠ k,
                                      accs := g.accs.filter fun a => a.k ≠ k, blocks := g.blocks.filter fun l => l.k ≠ k }
  let s : State := { s with
    traps := s.traps.filter fun t => t.k ≠ k
    pfaults := s.pfaults.filter fun p => p.k ≠ k
    fetches := s.fetches.filter fun f => f.k ≠ k
    sheaves := s.sheaves.filter fun e => e.asid ≠ asid
    waiters := s.waiters.filter fun w => w.asid ≠ asid
    saved := s.saved.filter fun x => x.k ≠ k
    stops := s.stops.filter fun x => x.k ≠ k
    images := s.images.filter fun i => i.k ≠ k
    reeveK := if s.reeveK = some k then none else s.reeveK }
  let s := (s.countWaiters k).setCtxState k 0
  foldState (fun s b => (s.scrub b k false).scrub b k true) s
    ((upto 64).filter fun b => s.regField (.spadAlloc b k) 8 6 ≠ 0 || s.regField (.wbufAlloc b k) 8 6 ≠ 0)

/-- CTX_RELEASE (R381): a write with CMD 3. -/
def execCtxRelease (s : State) : Host.Outcome State Fault Refusal :=
  let k := s.arg.k
  let s := s.writeReg (.ctxRun k) s.arg.val
  .next (if s.ctxState k = 3 || (s.ctxState k = 0 && !(s.insts.any fun i => i.k = k)) then s.release k else s.refuseCommand k)

/-- An invocation of an idempotent block whose closing firing has not begun is aborted, its entry ready again (R379). -/
def State.stopAbort (s : State) (i : Invoc) : State :=
  let s := s.abort i none
  let mine (g : Gather) : Bool := g.k = i.k && g.v = i.v && g.blk = i.blk && g.tag = i.tag && g.dep = i.dep && g.fid.isNone &&
    g.ready.isNone && g.closed
  let ready (g : Gather) : Gather := { g with ready := some s.cyc, age := s.cyc, home := s.homeOf g }
  ({ s with gathers := mapFirst mine ready s.gathers }).mirrorKey i.k i.v i.blk i.tag i.dep

/-- An instruction that waits is abandoned (R379): it executes again after restore. -/
def State.abandonWait (s : State) (w : Wait) : State :=
  let s := s.modFab fun g => { g with waits := dropFirst (fun x => x = w) g.waits }
  let s := match w.why with | .awaitSheaf id => s.freeWaiter id | .kdone _ => s
  match w.core with
  | some c => s.modCore c fun x => { x with waiting := false, since := s.cyc }
  | none => s.refire w.fire .outside false

/-- A wait at a barrier is abandoned likewise. -/
def State.abandonBarrier (s : State) (a : Access) : State :=
  match a.origin with
  | .firing f => (s.dropAcc a.id).refire f .outside false
  | .core c _ _ => (s.dropAcc a.id).modCore c fun x => { x with waiting := false, since := s.cyc }
  | _ => s

/-- The unit in which an access or a firing waits. -/
def Origin.unit? (o : Origin) : Option StopUnit :=
  match o with
  | .firing f => some (stopUnitOf f.site.holder)
  | .core c _ _ => some (.barn c.barn)
  | _ => none

/-- Whether a unit still holds tokens of a context in a replacement chain, or runs one of its patch handlers: the unit
freezes the context once neither is left (R451, DEDUCED, log 60). -/
def State.patchBusy (s : State) (k : Nat) (u : StopUnit) : Bool :=
  let chain (x : Site) (t : DWord) : Bool := tagK t = k && stopUnitOf x.holder = u && decide (128 ≤ x.idx) && decide (x.idx < 1024)
  (s.fab.queues.any fun q => chain q.site q.tok.tag) || (s.fab.sets.any fun x => chain x.site x.tag) ||
    (s.fab.flights.any fun x => chain x.src x.tok.tag || chain x.dst x.tok.tag) ||
    s.fab.invocs.any fun i => i.k = k && stopUnitOf i.holder = u && i.patch.isSome && !i.closed

/-- Whether a wain engine or the Carillon is within a piece of a command of a context: it freezes the context after the whole
piece (R379). -/
def State.midPiece (s : State) (k : Nat) : Bool :=
  s.fab.cmds.any fun c => c.k = k && c.running && !c.writ && c.fault.isNone && c.cause = 0 && !c.whole

/-- STOP_REQUEST_RECEIVE (R379, R451): unit `stop` receives the request for slot `k` and freezes it. -/
def execStopRequestReceive (s : State) : Host.Outcome State Fault Refusal :=
  let k := s.arg.k
  let u := s.arg.stop
  .next (match s.stop? k with
  | none => s
  | some x =>
    if s.ctxState k ≠ 1 || x.frozen.contains u || s.patchBusy k u || (u = .engines && s.midPiece k) then s
    else
      let s := s.modStop k fun x => { x with frozen := x.frozen ++ [u] }
      let unread (c : Cmd) : Cmd := if c.k = k then { c with got := [] } else c
      let s := if u = .engines then s.modFab fun g => { g with cmds := g.cmds.map unread } else s
      let idem (i : Invoc) : Bool := i.k = k && stopUnitOf i.holder = u && !i.closed && !i.closing && i.handler.isNone && i.patch.isNone &&
        (((s.block? i.holder i.blk).map fun l => hdrIDEM l.hdr).getD false)
      let s := foldState State.stopAbort s (s.fab.invocs.filter idem)
      let mine (w : Wait) : Bool := w.k = k &&
        (match w.core with | some c => decide (StopUnit.barn c.barn = u) | none => decide (stopUnitOf w.fire.site.holder = u))
      let s := foldState State.abandonWait s (s.fab.waits.filter mine)
      foldState State.abandonBarrier s
        (s.fab.accs.filter fun a => a.k = k && a.kind = .barWait && !a.done && a.origin.unit? = some u))

/-- Whether an access has left its port and can still be performed: a wait on a presence bit or a barrier stays as it is, and a
direct claim goes on (R386). -/
def State.inFlight (s : State) (a : Access) : Bool :=
  (match a.origin with | .direct _ _ => false | _ => true) && !a.waiting && !a.done && a.trans = .ready && a.kind ≠ .barWait && !a.wf &&
    (match (a.pieces.drop a.pos).head?.bind Piece.place with | some _ => true | none => false) && s.mayPerform a && s.committed a

/-- Units that hold state of a slot. -/
def State.stopUnits (s : State) (k : Nat) : List StopUnit :=
  [.ports, .engines, .io] ++ ((upto 64).filter fun b =>
    (s.insts.any fun i => i.k = k && i.barns.contains b) || s.fab.blocks.any fun l => l.k = k && l.holder.barn? = some b).map .barn

/-- STOP_COMPLETE (R379): every unit has frozen slot `k` and every response has arrived. The save begins, but for a freeze
(R434). -/
def execStopComplete (s : State) : Host.Outcome State Fault Refusal :=
  let k := s.arg.k
  .next (match s.stop? k with
  | none => s
  | some x =>
    if s.ctxState k ≠ 1 || x.freeze || !((s.stopUnits k).all fun u => x.frozen.contains u) ||
        (s.fab.accs.any fun a => a.k = k && s.inFlight a) then s
    else s.setCtxState k 2)

/-! The save image (R382, R383). -/

/-- Bytes that the manual leaves to the device (DESIGN CHOICE, log 14). -/
def freeBytes (seed n : Nat) : List Byte := (upto n).map fun i => Config.freeByte (seed + i)

/-- Bytes up to the next multiple of 64. -/
def pad64 (b : List Byte) : List Byte := b ++ recZero ((64 - b.length % 64) % 64)

/-- The descriptors and bytes of sections from an offset on. -/
def laySections : Nat → List Section → List Byte × List Byte
  | _, [] => ([], [])
  | at_, (t, n, b) :: r =>
    let p := pad64 b
    let x := laySections (at_ + p.length) r
    (leBytes 2 t ++ leBytes 2 0 ++ leBytes 4 n ++ leBytes 8 at_ ++ x.1, p ++ x.2)

/-- The save image of a slot (R382). -/
def State.saveImage (s : State) (k : Nat) : List Byte :=
  let l := s.saveSections k
  let first := (64 + 16 * l.length + 63) / 64 * 64
  let x := laySections first l
  leBytes 4 0x59435458 ++ [4] ++ leBytes 1 (s.regField .belId 40 8) ++ leBytes 1 k ++ [0] ++ leBytes 2 (s.asid k) ++
  leBytes 2 l.length ++ leBytes 4 (s.reg (.codegen k)).toNat ++ leBytes 8 s.cyc ++ leBytes 8 (first + x.2.length) ++ recZero 32 ++
  pad64 x.1 ++ x.2

/-- What a save takes of one store of a barn. -/
def State.saveMem (s : State) (k b : Nat) (weight : Bool) : SavedMem :=
  let r : Reg := if weight then .wbufAlloc b k else .spadAlloc b k
  let size := s.regField r 8 6
  let base := if weight then b * 2 ^ 21 + s.regField r 0 5 * 2 ^ 16 else b * 2 ^ 22 + s.regField r 0 6 * 2 ^ 16
  let n := size * 2 ^ 16
  let part (u : Nat) (l : List Nat) : List Nat :=
    (l.filter fun x => decide (base ≤ u * x) && decide (u * x < base + n)).map fun x => x - base / u
  { barn := s.logicalBarn k b, size := size,
    cells := ((if weight then s.wbuf else s.scr).filter fun c => decide (base ≤ c.1) && decide (c.1 < base + n)).map fun c => (c.1 - base, c.2)
    pres := if weight then [] else part 16 s.pres
    poi := if weight then part 4 s.poisW else part 16 s.poisS }

/-- The pieces of an access that are not performed are translated again after a restore. -/
def Access.unplaced (a : Access) : Access :=
  let clear (p : Piece) : Piece := if p.resp.isSome then p else { p with place := none }
  { a with pieces := a.pieces.map clear }

/-- The save of a slot ends: its records leave their units, and its instances their barns. -/
def State.takeOut (s : State) (k : Nat) : State :=
  let insts := s.insts.filter fun i => i.k = k && i.placed.isSome && !i.done && i.outc = 0
  let barns := (upto 64).filter fun b => insts.any fun i => i.barns.contains b
  let rec_ : Saved :=
    { k := k, asid := s.asid k, bmap := (upto 64).map (s.physBarn k)
      scr := barns.map fun b => s.saveMem k b false
      wbuf := barns.map fun b => s.saveMem k b true
      insts := insts.map fun i => { v := i.v, barns := i.barns.map (s.logicalBarn k), since := s.cyc - i.placed.getD 0 } }
  let idle (l : Loaded) : Bool := l.k = k && (match l.holder with | .region _ _ => false | _ => true) && s.idleBlock l.holder l.blk
  let s := s.modFab fun g => { g with
    blocks := g.blocks.filter fun l => !idle l
    accs := g.accs.map fun a => if a.k = k then a.unplaced else a }
  let gens := (s.fab.regions.filter fun r => r.k = k).map fun r => (r.barn * 8 + r.r, (r.gen + 1) % 2 ^ 16)
  let out (i : Inst) : Inst := if i.k = k && i.placed.isSome then { i with placed := none, barns := [] } else i
  let s := s.move k (parkMove k)
  let s : State := { s with
    saved := s.saved ++ [rec_]
    stops := s.stops.filter fun x => x.k ≠ k
    insts := s.insts.map out
    fetches := s.fetches.filter fun f => f.k ≠ k
    regGens := (s.regGens.filter fun p => !(gens.any fun q => q.1 = p.1)) ++ gens
    reeveK := if s.reeveK = some k then none else s.reeveK }
  (s.setCtxState k 3).scrubLeft k barns

/-- SAVE_COMPLETE (R381, R382): the image of slot `k` is written, or it would pass its area, and the save stops. -/
def execSaveComplete (s : State) : Host.Outcome State Fault Refusal :=
  let k := s.arg.k
  match s.stop? k with
  | none => .next s
  | some x =>
    if s.ctxState k ≠ 2 || x.ovf then .next s
    else
      let img := s.saveImage k
      if s.regField (.ctxSave k) 44 20 * 2 ^ 20 < img.length then
        .next (((s.setField (.ctxRun k) 25 1 1).modStop k fun x => { x with ovf := true }).hostEvent
          { type := 3, slot := k, a := 0, b := 0, cyc := 0 })
      else
        let base := s.regField (.ctxSave k) 12 32 * 2 ^ 12
        atPhysical base (atPhysical (base + img.length - 1) (.next ((s.writePa base img).chose.takeOut k)))

/-! Restore (R384). -/

/-- Whether what a slot was saved with still holds (R384, R462). -/
def State.restorable (s : State) (x : Saved) : Bool :=
  s.asid? x.k = some x.asid &&
  (x.scr.all fun m => decide (m.size ≤ s.regField (.spadAlloc (s.physBarn x.k m.barn) x.k) 8 6)) &&
  (x.wbuf.all fun m => decide (m.size ≤ s.regField (.wbufAlloc (s.physBarn x.k m.barn) x.k) 8 6)) &&
  !(x.scr.any fun m => s.regField (.svcCtl (s.physBarn x.k m.barn)) 31 1 = 1)

/-- Writes one store of a barn back, over zeros (R384, step 2). -/
def State.putMem (s : State) (k : Nat) (weight : Bool) (m : SavedMem) : State :=
  let b := s.physBarn k m.barn
  let r : Reg := if weight then .wbufAlloc b k else .spadAlloc b k
  let base := if weight then b * 2 ^ 21 + s.regField r 0 5 * 2 ^ 16 else b * 2 ^ 22 + s.regField r 0 6 * 2 ^ 16
  let s := s.zeroUnits { barn := b, k := k, weight := weight, base := s.regField r 0 (if weight then 5 else 6), size := s.regField r 8 6 }
  let st : Store := if weight then .wbuf else .scr
  let s := s.setCells st (m.cells.foldl (fun l c => putCell l (base + c.1) c.2) (s.cells st))
  let u := poisonUnit st
  let s := s.setPoisons st (m.poi.foldl (fun l x => insNat l (base / u + x)) (s.poisons st))
  if weight then s else { s with pres := m.pres.foldl (fun l x => insNat l (base / 16 + x)) s.pres }

/-- The physical barn of a barn number of a saved record, under the present map. -/
def State.newBarn (s : State) (x : Saved) (b : Nat) : Nat :=
  match lowest (fun n => (x.bmap.drop n).headD 64 = b) 64 with
  | some n => s.physBarn x.k n
  | none => b

/-- A region gets its rectangle and its number again; none where one is taken. -/
def State.putRegionBack (s : State) (x : Saved) (r : Region) : Option State :=
  let b := s.newBarn x (wasBarn x.k r.barn)
  let spots := (upto (33 - r.h)).flatMap fun i => (upto (33 - r.w)).map fun j => (i, j)
  match spots.find? fun p => s.rectFree b r.h r.w p.1 p.2 with
  | some (row, col) =>
    if (s.region? b r.r).isSome then none
    else some (s.modFab fun g => { g with regions := g.regions.map fun y => if y = r then { y with barn := b, row := row, col := col } else y })
  | none => none

def State.putRegionsBack (s : State) (x : Saved) : List Region → Option State
  | [] => some s
  | r :: l => match s.putRegionBack x r with | some s => s.putRegionsBack x l | none => none

/-- Whether a bay or tile can take what a saved one held. -/
def State.unitFree (s : State) (k : Nat) (h : Holder) : Bool :=
  match h with
  | .bay b f => s.holderFree h && s.frameOwner b f = some k
  | .tile b t => s.tileOwner b t = some k && !(s.fetches.any fun f => f.holder = h) &&
      s.fab.blocks.all fun l => l.holder ≠ h || (l.k ≠ k && s.idleBlock h l.blk)
  | _ => true

/-- The bays and tiles that take what the saved ones held, one each; none where too few are free. -/
def State.assignUnits (s : State) (x : Saved) : List Holder → List (Holder × Holder) → Option (List (Holder × Holder))
  | [], l => some l
  | h :: r, l =>
    let ok (n : Holder) : Bool := s.unitFree x.k n && !(l.any fun p => p.2 = n)
    let try_ : Option Holder :=
      match h with
      | .bay b _ => ((upto 8).map fun f => Holder.bay (s.newBarn x (wasBarn x.k b)) f).find? ok
      | .tile b _ =>
        if wasBarn x.k b = 0xFF then some .reeve
        else ((upto 8).map fun t => Holder.tile (s.newBarn x (wasBarn x.k b)) t).find? ok
      | _ => none
    match try_ with
    | some n => s.assignUnits x r (l ++ [(h, n)])
    | none => none

/-- The bays and tiles in which a saved slot had blocks or channel words. -/
def State.parkedUnits (s : State) (k : Nat) : List Holder :=
  let one (h : Holder) : Bool := match h with | .bay b _ => isParked k b | .tile b _ => isParked k b | _ => false
  (((s.fab.blocks.filter fun l => l.k = k).map Loaded.holder ++ (s.fab.chans.filter fun c => c.k = k).map fun c => Holder.tile c.barn c.tile).filter
    one).eraseDups

/-- The instances of a saved slot are placed again, their time since placement kept. -/
def State.placeBack (s : State) (x : Saved) : State :=
  let back (i : Inst) : Inst :=
    match x.insts.find? fun y => i.k = x.k && y.v = i.v && i.outc = 0 with
    | some y => { i with placed := some (s.cyc - y.since), barns := y.barns.map (s.physBarn x.k) }
    | none => i
  { s with insts := s.insts.map back }

/-- Region blocks that were not loaded are fetched again. -/
def State.fetchRegions (s : State) (k : Nat) : State :=
  let bare := s.fab.regions.filter fun r => r.k = k && r.task.isNone && (s.block? (.region r.barn r.r) r.blk).isNone
  { s with fetches := s.fetches ++ bare.map fun (r : Region) =>
      { holder := .region r.barn r.r, k := k, v := r.v, blk := r.blk, since := s.cyc } }

/-- A restored emulation goes to the patch queue if its word is still claimed by EMULATE, and is else resolved as ACT 0
(R451). -/
def State.emulateAgain (s : State) (t : Trap) : State :=
  match t.hold with
  | .emulation f _ =>
    let queued (c : ChanWord) : Bool := c.k = t.k && c.ch.isNone && c.tok.data = t.wordOf
    match s.nodeKind f.site with
    | .emulate _ =>
      if t.stage = .channel && !s.fab.chans.any queued then s.modTrap t.k t.index fun x => { x with stage := .raised } else s
    | _ =>
      if t.stage = .host then s
      else ((s.modFab fun g => { g with chans := g.chans.filter fun c => !queued c }).freeTrap t).refire f .asDefined false
  | _ => s

/-- A block configured again under the image in force: saved configuration words apply to the nodes that no slot claims (R451). -/
def Loaded.again (l : Loaded) (slots : List PatchSlot) : Loaded :=
  let l' : Loaded := { l with kinds := (l.kindsUnder slots).1 }
  let kept (q : Nat × BitVec 4) : Nat × BitVec 4 := if q.1 < 128 then (l.qcfg.find? fun p => p.1 = q.1).getD q else q
  { l' with qcfg := (l'.startQ slots).map kept }

/-- A restore puts a saved slot on units again; none where one of them is not free yet (R384). -/
def State.putBack (s : State) (x : Saved) : Option State :=
  let k := x.k
  let barns := (x.insts.flatMap SavedInst.barns).map (s.physBarn k)
  if !(barns.all fun b => s.barnAdmits k b false) || !s.withinMaxb k barns.eraseDups || s.scrubs.any (fun c => c.k = k) then none
  else
    let reeve := (s.parkedUnits k).any fun h => h.barn? = some (parkedBarn k 0xFF)
    if reeve && s.reeveK.isSome then none
    else
      let s := s.placeBack x
      match s.putRegionsBack x (s.fab.regions.filter fun r => r.k = k) with
      | none => none
      | some s =>
        match s.assignUnits x (s.parkedUnits k) [] with
        | none => none
        | some us =>
          let s := s.modFab fun g => { g with blocks := g.blocks.filter fun l => !(l.k ≠ k && us.any fun u => u.2 = l.holder && l.holder.temporal) }
          let s := s.move k (unparkMove k (s.newBarn x) us)
          let fell := ((s.fab.blocks.filter fun l => l.k = k).map fun l => (l.kindsUnder s.slots).2).sum
          let s := (s.modFab fun g => { g with blocks := g.blocks.map fun l => if l.k = k then l.again s.slots else l }).fallbacks fell
          let s := foldState (fun s (x : PSet) => foldState (fun s t => s.frameWord x.site x.tag x.dep t.1 t.2.data) s x.held4) s
            (s.fab.sets.filter fun x => tagK x.tag = k && x.place = .frame)
          let s := foldState State.emulateAgain s (s.traps.filter fun t => t.k = k)
          let s := foldState (fun s m => s.putMem k false m) s x.scr
          let s := foldState (fun s m => s.putMem k true m) s x.wbuf
          let s : State := if reeve then { s with reeveK := some k, reeveLast := s.cyc, reeveClose := false } else s
          some ((s.fetchRegions k).setCtxState k 0)

/-- RESTORE_COMPLETE (R384): the restore of slot `k` ends, or is refused with ERR; it waits until its barns admit it. -/
def execRestoreComplete (s : State) : Host.Outcome State Fault Refusal :=
  let k := s.arg.k
  .next (match s.saved.find? fun x => x.k = k && x.restoring with
  | none => s
  | some x =>
    if !s.restorable x then
      let back (y : Saved) : Saved := if y.k = k then { y with restoring := false } else y
      { ((s.refuseCommand k).setCtxState k 3) with saved := s.saved.map back }
    else match s.readQtab k (s.regField (.schedQtab k) 0 60) with
      | (s, none) => s
      | (s, some q) =>
        match s.putBack x with
        | none => s
        | some s => ({ s with saved := s.saved.filter (fun y => y.k ≠ k), qtab := s.qtab.filter (fun (d : QDesc) => d.k ≠ k) ++ q }).placedStrands)

end Sys2Proof.Machine
end

