-- ==== Sys2Proof/Machine/Tasks.lean ====
section
/-! DEFINITION. Tile tasks: how a die's task scheduler takes, issues and runs their records (R180, R181, R311, R312). -/

namespace Sys2Proof.Machine

/-! Records. -/

/-- A die's task scheduler as an agent (R195). -/
def taskSrc (die : Nat) : Source := { code := 98 + die }

def Task.f (t : Task) (o n : Nat) : Nat := recField t.bytes o n
def Task.bit (t : Task) (n : Nat) : Bool := bitsAt (t.f 3 1) n 1 = 1
def Task.h (t : Task) : Nat := bitsAt (t.f 4 1) 0 5 + 1
def Task.w (t : Task) : Nat := bitsAt (t.f 5 1) 0 5 + 1
def Task.wfmt (t : Task) : Nat := bitsAt (t.f 6 1) 0 4
def Task.gsz (t : Task) : Nat := bitsAt (t.f 6 1) 4 2
def Task.ty (t : Task) : Ty := (Ty.ofBits (BitVec.ofNat 4 (t.f 7 1))).getD .b32
def Task.wlen (t : Task) : Nat := t.f 0x10 4
def Task.m (t : Task) : Nat := bitsAt (t.f 0x14 1) 0 6 + 1
def Task.nin (t : Task) : Nat := t.f 0x2C 4
def Task.hasInit (t : Task) : Bool := t.f 0x28 4 ≠ 0xFFFFFFFF
def Task.hasOut (t : Task) : Bool := ((t.bytes.drop 0x80).take 16).any (· ≠ 0)

/-- The first offending offset of a tile-task record (R181, R172, R173, R347). -/
def badTask (t : Task) : Option Nat :=
  let z (o n : Nat) : Bool := t.f o n ≠ 0
  let ty? := Ty.ofBits (BitVec.ofNat 4 (t.f 7 1))
  let checks : List (Bool × Nat) := [
    (t.f 0 2 ≠ 0x7A5D, 0), (8 ≤ t.f 2 1, 2), (8 ≤ t.f 3 1, 3), (32 ≤ t.f 4 1, 4), (32 ≤ t.f 5 1, 5),
    (64 ≤ t.f 6 1 || 5 < t.wfmt || t.gsz = 3 || (t.gsz ≠ 0 && 2 ≤ t.wfmt), 6),
    (16 ≤ t.f 7 1 || ty?.isNone || !accepts t.wfmt t.ty (t.bit 0), 7),
    (t.f 8 8 % 64 ≠ 0, 8), (64 ≤ t.f 0x14 1, 0x14), (z 0x15 3, 0x15), (z 0x1E 2, 0x1E), (4 < t.nin, 0x2C), (z 0x30 16, 0x30)]
  let out : Option Nat :=
    if !t.hasOut then none
    else if t.f 0x80 8 = 0 || 2 ^ 60 ≤ t.f 0x80 8 then some 0x80 else if t.f 0x8E 2 ≠ 0 then some 0x8E else none
  match checks.find? Prod.fst, (upto 4).findSome? fun i => badInput t.bytes (0x40 + 16 * i) (decide (i < t.nin)), out with
  | some (_, o), _, _ => some o
  | none, some o, _ => some o
  | none, none, some o => some o
  | none, none, none => if z 0x90 48 then some 0x90 else none

/-- A task that runs as an agent: its streams leave through the port that the mapper binds to its record (R273). -/
def Task.src (t : Task) : Source := { taskSrc t.die with port := t.run.bind fun r => streamPort r.1 t.recAt 0 }

/-! Ends. -/

def State.modTask (s : State) (id : Nat) (f : Task → Task) : State :=
  { s with tasks := mapFirst (fun t => t.id = id) f s.tasks }

/-- A trap of a task (R180): its region and staging area are free before the trap is raised, and it does not resume. While no
trap index is free it stays as it stands. -/
def State.taskTrap (s : State) (t : Task) (c : Cause) : State :=
  if (s.freeTrapIndex t.k).isNone then s
  else (((s.discardTask t.id).settleFallback).unitTrap t.k t.v 6 t.die t.recAt c)

/-- Whether a die's task scheduler works: its die is not fenced (R464). -/
def State.schedulerUp (s : State) (die : Nat) : Bool := s.regField .dieFence die 1 = 0

/-- Whether a slot holds a placement on a die. -/
def State.onDie (s : State) (k die : Nat) : Bool := (upFrom (8 * die) 8).any fun b => (s.placedIn b).contains k

/-! Taking a record. -/

/-- Registers a taken task's inputs (R349, R355). -/
def State.registerTask (s : State) (t : Task) : State :=
  if t.nin = 0 then s.modTask t.id fun x => { x with ready := some s.cyc }
  else if s.regField (.sheafCtl t.k) 31 1 = 1 then (s.modTask t.id fun x => { x with fallback := true }).settleFallback
  else
    let w : Waiter := { id := 0, kind := 2, asid := s.asid t.k, k := t.k, v := t.v, recAt := t.recAt, pool := t.die,
                        inputs := inputsOf t.bytes 0x40 t.nin }
    match s.newWaiter w with
    | some (s, id) => s.modTask t.id fun x => { x with waiter := some id }
    | none => ((s.fallback t.k).modTask t.id fun x => { x with fallback := true }).settleFallback

/-- TASK_TAKE (R181, R311): the scheduler of die `u` takes the next record of slot `k`'s tile-task queue, reads and checks
it, and registers its sheaves. -/
def execTaskTake (s : State) : Host.Outcome State Fault Refusal :=
  let k := s.arg.k
  let die := s.arg.u
  .next (match s.taskQ.find? fun x => x.k = k && !x.taken && !x.freed with
  | none => s
  | some x =>
    if !s.schedulerUp die || !s.onDie k die || !s.live k .io || (s.freeTrapIndex k).isNone then s
    else
      let t : Task := { id := s.fresh, die := die, k := k, v := x.v, recAt := x.recAt, bytes := [], core := x.core, order := x.order, slot := x.slot }
      let take (s : State) (b : List Byte) : State :=
        { s with taskQ := s.taskQ.map fun (y : TaskSlot) => if y.k = k && y.slot = x.slot then { y with taken := true } else y
                 tasks := s.tasks ++ [{ t with bytes := b }], fresh := s.fresh + 1 }
      let bad (s : State) (c : Cause) : State := (take s []).taskTrap t c
      match s.unitRead die k x.v x.recAt 192 (taskSrc die) with
      | (s, .wait _ _) => s
      | (s, .ats) => s
      | (s, .denied) => bad s (permCause 3 x.recAt 0)
      | (s, .bad) => bad s (s.pageCause k 2 x.recAt 0 192)
      | (s, .ok b poi) =>
        let t := { t with bytes := b }
        if poi then bad s { code := tcPoison, aux0 := x.recAt }
        else match badTask t with
          | some o => (take s b).taskTrap t { code := tcTtaskFormat, aux0 := x.recAt, aux1 := o }
          | none => (take s b).registerTask t)

/-! Issue. -/

/-- The rank of a ready record (R311). -/
def State.taskRank (s : State) (t : Task) : List Nat :=
  let r := t.ready.getD 0
  let aged := decide (r + agedAt ≤ s.cyc)
  [if aged then 0 else 1, if aged then r else 0, 7 - bitsAt (t.f 2 1) 0 3, r, t.order]

/-- A size rounded up to a multiple of 64. -/
def up64 (n : Nat) : Nat := (n + 63) / 64 * 64

/-- The lowest offset of free staging room in a slot's weight-buffer allocation of a barn (R312). -/
def State.stageFor (s : State) (k b n : Nat) : Option Nat :=
  let size := s.regField (.wbufAlloc b k) 8 6 * 2 ^ 16
  let held := s.tasks.filterMap fun t => match t.run with
    | some (c, _, _) => if c = b && t.k = k then some (t.stageAt, up64 t.wlen) else none
    | none => none
  let fits (o : Nat) : Bool := decide (o + n ≤ size) && held.all fun h => decide (o + n ≤ h.1) || decide (h.1 + h.2 ≤ o)
  minBy id ((0 :: held.map fun h => h.1 + h.2).filter fits)

/-- The barn and staging offset in which a record can be placed. -/
def State.taskPlace (s : State) (t : Task) : Option (Nat × Nat) :=
  (upFrom (8 * t.die) 8).findSome? fun b =>
    if !(s.placedIn b).contains t.k || s.gatedPart b || (s.placeRegion b t.h t.w).isNone || (s.scrubs.any fun c => c.k = t.k && c.barn = b) ||
        decide (8 ≤ (s.tasks.filter fun u => (u.run.map Prod.fst) = some b).length) then none
    else (s.stageFor t.k b (up64 t.wlen)).map fun o => (b, o)

/-- The first record in rank order that can be placed: none behind an aged one that cannot be. -/
def State.firstTask (s : State) : Nat → List Task → Option (Task × Nat × Nat)
  | 0, _ => none
  | n + 1, l =>
    match bestOf s.taskRank l with
    | none => none
    | some t =>
      match s.taskPlace t with
      | some (b, o) => some (t, b, o)
      | none => if t.ready.getD 0 + agedAt ≤ s.cyc then none else s.firstTask n (l.filter fun u => u.id ≠ t.id)

/-- TASK_ISSUE (R311, R312): the scheduler of die `u` issues the first ready record that it can place: its region is bound,
its staging area held, and its queue slot and waiter freed. It issues one in a cycle. -/
def execTaskIssue (s : State) : Host.Outcome State Fault Refusal :=
  let die := s.arg.u
  let ready (t : Task) : Bool := t.die = die && t.run.isNone && readySeen t.ready t.waiter s.cyc && s.live t.k .io
  .next (if !s.schedulerUp die || s.tasks.any fun t => t.die = die && (t.issued.map Prod.fst) = some s.cyc then s
  else
    let l := s.tasks.filter ready
    match s.firstTask (l.length + 1) l with
    | none => s
    | some (t, b, o) =>
      match s.bindRegion t.k t.v b t.h t.w 0 with
      | none => s
      | some (s, x) =>
        let s := s.putRegion { x with task := some t.id }
        let s := match t.waiter with | some w => s.freeWaiter w | none => s
        ((s.modTask t.id fun u => { u with waiter := none, run := some (b, x.r, .stage), issued := some (s.cyc, s.fresh), stageAt := o }).bumpFresh).freeTaskSlot
          t.k t.slot)

/-! Steps. -/

/-- What a task's access to a tensor gives. -/
inductive TaskGot
  | ok (l : List (Nat × Tok))
  | done
  | wait (die fid : Nat)
  | ats
  | trap (c : Cause)

/-- The outcome of a unit's access as a task takes it. -/
def State.taskMet (s : State) (t : Task) (va code : Nat) (g : UnitGot) : TaskGot :=
  match g with
  | .wait d f => .wait d f
  | .ats => .ats
  | .denied => .trap (permCause (if windowOf va = .paged then 3 else 4) va code)
  | .bad => .trap (s.pageCause t.k 2 va code 4)
  | .ok _ _ => .done

/-- The place of a word of a tensor for a task (R158, R276). -/
def State.taskAt (s : State) (t : Task) (desc : Nat) (x : Tensor) (b : List Byte) (c : List Nat) (write : Bool) :
    State × (TaskGot ⊕ (Store × Nat)) :=
  let code := if write then 1 else 0
  if x.ttab = 0 then
    match s.unitAt t.die t.k (x.va c) (if write then { w := true } else { r := true }) t.src with
    | (s, .inr p) => (s, .inr p)
    | (s, .inl g) => (s, .inl (s.taskMet t (x.va c) code g))
  else match s.tileAt t.die t.k t.v { desc := b, at_ := c } write t.src with
    | (s, .at pa) =>
      match physical pa with
      | some p => (s, .inr p)
      | none => (s, .inl (.trap { code := tcTensorDesc, aux0 := desc, aux1 := recField b 0 1 }))
    | (s, .table) => (s, .inl (.trap { code := tcTensorDesc, aux0 := desc, aux1 := recField b 0 1 }))
    | (s, .readOnly va) => (s, .inl (.trap (permCause 3 va code)))
    | (s, .noFrame ttab tile) =>
      let (s, fid) := s.pageFault t.die t.k ttab 0 (some tile) code false false t.src.code
      (s, .inl (.wait t.die fid))
    | (s, .other g) => (s, .inl (s.taskMet t x.ttab code g))

/-- Reads the words of a window from index `j` on (R163). -/
def taskReads (t : Task) (desc : Nat) (w : Win) : Nat → Nat → List (Nat × Tok) → State → State × TaskGot
  | 0, _, l, s => (s, .ok l)
  | n + 1, j, l, s =>
    let c := w.at j
    let tok (d : Nat) (poi : Bool) : Nat × Tok := (j, { tag := mkTag 0 t.k t.v 0, dep := 0, data := BitVec.ofNat 32 d, ty := w.t.ty, poi := poi })
    if w.t.mask c = 0 then taskReads t desc w n (j + 1) (l ++ [tok 0 false]) s
    else match s.taskAt t desc w.t w.b c false with
      | (s, .inr (st, a)) =>
        taskReads t desc w n (j + 1) (l ++ [tok (s.readN st a 4 &&& w.t.mask c) (s.poisonIn st a 4)]) (s.moved t.k t.v st 4)
      | (s, .inl g) => (s, g)

/-- The window of a task with a needed count (R163, R177, R178): STREAM_LEN where the count differs. A task's streams have no
width of their own: 24 bits, the widest, bound them (DEDUCED, log 57). -/
def State.taskWindow (s : State) (t : Task) (desc shp org need : Nat) : Win ⊕ Cause :=
  match s.window t.k t.v desc shp org 24 with
  | .desc n => .inr { code := tcTensorDesc, aux0 := n, aux1 := recField (s.descEntry t.k t.v n) 0 1 }
  | .shape c => .inr { code := tcStreamShape, aux0 := c, aux1 := 24 }
  | .win w => if w.count = need then .inl w else .inr { code := tcStreamLen, aux0 := 0, aux1 := w.count, aux2 := need }

/-- The words of one of a task's input windows; a window that is read again counts its bytes once (R337). -/
def State.taskStream (s : State) (t : Task) (desc shp org need : Nat) : State × TaskGot :=
  match s.taskWindow t desc shp org need with
  | .inr c => (s, .trap c)
  | .inl w =>
    match taskReads t desc w w.count 0 [] s with
    | (s', .ok l) => (s', .ok l)
    | (s', g) => ({ s' with insts := s.insts }, g)

/-- Writes the words of the output window from `pos` on (R160, R164); the number written is kept, so that a page that comes
resident lets the step go on. -/
def taskWrites (t : Task) (desc : Nat) (w : Win) (val : Nat → Nat) (poi : Bool) : Nat → Nat → State → State × TaskGot
  | 0, j, s => (s.modTask t.id fun x => { x with pos := j }, .done)
  | n + 1, j, s =>
    let c := w.at j
    if w.t.mask c = 0 then taskWrites t desc w val poi n (j + 1) s
    else match s.taskAt t desc w.t w.b c true with
      | (s, .inr (st, a)) =>
        let s := s.mergeBits st a 4 (w.t.mask c) (val j)
        let s := if poi then s.setPoison st a true else s
        taskWrites t desc w val poi n (j + 1) (s.moved t.k t.v st 4)
      | (s, .inl g) => (s.modTask t.id fun x => { x with pos := j }, g)

/-- A task waits for a page, or traps. -/
def State.taskStops (s : State) (t : Task) (g : TaskGot) : State :=
  match g with
  | .wait d f => s.modTask t.id fun x => { x with fault := some (d, f) }
  | .trap c => s.taskTrap t c
  | _ => s

/-- The next step of a task. -/
def State.taskGoes (s : State) (t : Task) (step : TaskStep) : State :=
  s.modTask t.id fun x => { x with run := x.run.map fun r => (r.1, r.2.1, step), pos := 0 }

/-- Steps 1 and 2 of R180: the image is staged into the weight buffer, checked and loaded. -/
def State.taskStage (s : State) (t : Task) (x : Region) : State :=
  match s.unitRead t.die t.k t.v (t.f 8 8) t.wlen t.src with
  | (s, .ok b poi) =>
    match s.weightPlace t.k (s.logicalBarn t.k x.barn) t.stageAt with
    | none => s.taskTrap t (permCause 4 t.stageAt 1)
    | some a =>
      let s := s.storeBytes .wbuf a b poi
      let raw := s.weightBytes x.barn t.k t.stageAt
      let img := if t.bit 2 then decompress raw raw.length else some raw
      let need := imageBytes t.h t.w t.wfmt t.gsz
      let bad := s.weightPoison x.barn t.k t.stageAt (if t.bit 2 then recField raw 8 4 else need)
      match img.elim (.inr 0) fun b => loadHalf b t.h t.w t.wfmt t.gsz bad with
      | .inr g => s.taskTrap t { code := tcWgtFormat, aux0 := t.stageAt, aux1 := g }
      | .inl half => (s.putRegion (x.setHalf x.idle half)).taskGoes t .swap
  | (s, g) => s.taskStops t (s.taskMet t (t.f 8 8) 0 g)

/-- Step 4: the activations, and the initial values, are read (R163). -/
def State.taskStreams (s : State) (t : Task) (x : Region) : State :=
  let half := x.halfOf x.active
  match s.taskStream t (t.f 0x18 1) (t.f 0x19 1) (t.f 0x20 4) (t.m * rowTokens x half t.ty) with
  | (s, .ok acts) =>
    let go (s : State) (inits : List (Nat × Tok)) : State :=
      match s.startTile x t.ty (t.bit 0) t.m (mkTag 0 t.k t.v 0) 0 with
      | .tile y tl => (s.putRegion (y.modTile tl.id fun u => { u with toks := acts, inits := inits })).taskGoes t .mmac
      | .trap c => s.taskTrap t c
      | .wait => s
    if !t.hasInit then go s []
    else match s.taskStream t (t.f 0x1C 1) (t.f 0x1D 1) (t.f 0x28 4) (t.m * (8 * t.w)) with
      | (s, .ok inits) => go s inits
      | (s, g) => s.taskStops t g
  | (s, g) => s.taskStops t g

/-- Step 5: the tile is computed and its flags raised (R177). -/
def State.taskMmac (s : State) (t : Task) (x : Region) : State :=
  match x.tiles.head? with
  | none => s
  | some tl =>
    let half := x.halfOf tl.half
    let ires := t.bit 0
    let init (i : Nat) : Option Word := if t.hasInit then some (tokenAt tl.inits i) else none
    let (rows, fl) := x.results half t.ty ires t.m (tokenAt tl.toks) init
    let poi := half.poi || (tl.toks.any fun p => p.2.poi) || tl.inits.any fun p => p.2.poi
    let fill (a : AccEntry) : AccEntry :=
      if a.tile = tl.id && a.half = tl.half then { a with full := true, vals := (rows.drop (a.idx - tl.base)).headD [], poi := poi } else a
    let macs := t.m * (t.h * weightsPerPe half.wfmt) * (8 * t.w)
    let s := (s.putRegion { x with tiles := [], accs := x.accs.map fill }).modInst t.k t.v fun i => { i with ops := i.ops + 2 * macs }
    (s.raiseFlags t.k 0 fl).taskGoes t .drain

/-- The result of index `i` as MDRAIN sends it (R178). -/
def Task.result (t : Task) (x : Region) (i : Nat) : Nat × Nat :=
  let v := ((x.accs.find? fun a => a.idx = i / (8 * t.w)).map fun a => (a.vals.drop (i % (8 * t.w))).headD 0).getD 0
  drained (t.bit 0) (t.bit 1) v

/-- Step 6: the results leave with their flags. -/
def State.taskDrain (s : State) (t : Task) (x : Region) : State :=
  let fl := ((upto (t.m * (8 * t.w))).map fun i => (t.result x i).2).foldl (· ||| ·) 0
  (s.raiseFlags t.k 0 fl).taskGoes t .write

/-- Step 7: the results are written to the output (R164). -/
def State.taskWrite (s : State) (t : Task) (x : Region) : State :=
  let n := t.m * (8 * t.w)
  match s.taskWindow t (t.f 0x1A 1) (t.f 0x1B 1) (t.f 0x24 4) n with
  | .inr c => s.taskTrap t c
  | .inl w =>
    match taskWrites t (t.f 0x1A 1) w (fun i => (t.result x i).1) (x.accs.any AccEntry.poi) (n - t.pos) t.pos s with
    | (s, .done) => s.taskGoes t (if t.hasOut then .publish else .free)
    | (s, g) => s.taskStops t g

/-- Whether a task of the same context that was issued earlier has its output to publish (R312). -/
def State.publishesFirst (s : State) (t : Task) : Bool :=
  s.tasks.any fun u => u.k = t.k && u.pos = 0 && (u.run.map fun r => r.2.2) = some .publish &&
    decide ((u.issued.map Prod.snd).getD 0 < (t.issued.map Prod.snd).getD 0) && !((u.run.map fun r => s.gatedPart r.1).getD false)

/-- Step 8: OUTSHF is published once, in the order of issue among tasks that complete together (R312); its publish brings the
task to its last step. -/
def State.taskPublish (s : State) (t : Task) : State :=
  if t.pos ≠ 0 || s.publishesFirst t then s
  else
    (s.modTask t.id fun x => { x with pos := 1 }).sendPublish t.src.code
      { k := t.k, asid := s.asid t.k, tid := t.f 0x80 8, tile := t.f 0x88 4, gen := t.f 0x8C 2, seq := 0, fire := none, core := none,
        cmd := none, task := some t.id, ready := 0 }

/-- Step 9: the region and the staging area are free, and the task has completed. -/
def State.taskFree (s : State) (t : Task) (b r : Nat) : State :=
  let s : State := { s with tasks := s.tasks.filter fun x => x.id ≠ t.id }
  ((s.uncount t.core fun c => { c with tt := c.tt - 1 }).dropRegion b r).settleFallback

/-- TILE_TASK_STEP (R180, R312): task `n` of the list takes its present step, and goes on to the next. -/
def execTileTaskStep (s : State) : Host.Outcome State Fault Refusal :=
  .next (match (s.tasks.drop s.arg.n).head? with
  | none => s
  | some t =>
    match t.run with
    | none => s
    | some (b, r, step) =>
      if t.fault.isSome || !s.live t.k .io || s.gatedPart b then s
      else match s.region? b r with
        | none => s
        | some x =>
          match step with
          | .bind => s.taskGoes t .stage
          | .stage => s.taskStage t x
          | .swap => (s.putRegion { (x.setHalf x.idle { x.halfOf x.idle with fresh := false }) with active := x.idle }).taskGoes t .stream
          | .stream => s.taskStreams t x
          | .mmac => s.taskMmac t x
          | .drain => s.taskDrain t x
          | .write => s.taskWrite t x
          | .publish => s.taskPublish t
          | .free => s.taskFree t b r)

end Sys2Proof.Machine
end

