-- ==== Sys2Proof/Machine/Engines.lean ====
section
/-! DEFINITION. How wain engines and the Carillon run their commands (R189 to R193, R277, R398, R399). -/

namespace Sys2Proof.Machine

/-! Commands. -/

/-- Bytes of a unit of poison at a virtual address (R151, R270). -/
def poisonSpan (va : Nat) : Nat := match windowOf va with | .scratch _ => 16 | .weight _ _ => 4 | _ => 64

/-- The bytes that are written as one event with byte `q`, by their first and their number (R190, R267): those of a granule of
the scratch window that the command writes whole, else the byte alone. -/
def Cmd.unit (c : Cmd) (i q : Nat) : Nat × Nat :=
  let o := c.dstAt i q % 16
  let (b, n) := c.run q
  match windowOf (c.dstAt i q) with
  | .scratch _ => if b + o ≤ q && q - o + 16 ≤ b + n then (q - o, 16) else (q, 1)
  | _ => (q, 1)

/-- Whether byte `q` of a SCAT may be written: rows of equal indices are written in ascending order (R189). -/
def Cmd.inOrder (c : Cmd) (q : Nat) : Bool :=
  let esz := c.f 0x18 4
  c.kind ≠ 3 || (upFrom (c.pos / esz) (q / esz - c.pos / esz)).all fun r =>
    c.wrote (r * esz + q % esz) || (match c.index? r, c.index? (q / esz) with | some a, some b => a ≠ b | _, _ => false)

/-- What a step of a command gives. -/
inductive EngGot
  | ok
  | wait (die fid : Nat)
  | stall
  | fail (cause : Nat)

/-- What a unit's outcome means to an engine (R191). -/
def engMet (g : UnitGot) : EngGot :=
  match g with
  | .ok _ _ => .ok
  | .denied => .fail 2
  | .bad => .fail 3
  | .wait d f => .wait d f
  | .ats => .stall

/-! Writes. -/

/-- The granules that a range of a slice covers whole become full (R266). -/
def State.fillGranules (s : State) (x n : Nat) : State :=
  foldState (fun s g => s.setFull g true) s (upFrom ((x + 15) / 16) ((x + n) / 16 - (x + 15) / 16))

/-- The shadow frame that stands for the page of an address, taken from the pool where none does yet (R190, R277). -/
def State.shadowFrame (s : State) (c : Cmd) (va : Nat) : State × (EngGot ⊕ Nat) :=
  match s.leafOf c.asid va with
  | none => (s, .inl .stall)
  | some l =>
    let own := ((s.cmd? c.id).map Cmd.shadow).getD []
    match own.find? fun e => e.1 = va / l.size * l.size with
    | some e => (s, .inr (e.2.2 + va % l.size))
    | none =>
      match classOf l.size, s.shadowPool c.k with
      | some cl, some d =>
        match s.takeFrame d cl with
        | .bad => (s, .inl (.fail 1))
        | .empty => (s, .inl .stall)
        | .got s f =>
          let s : State := { s with dmem := copyRange s.dmem l.frame f l.size, poisD := copyPoison s.poisD l.frame f l.size }
          (s.modCmd c.id fun x => { x with shadow := x.shadow ++ [(va / l.size * l.size, cl, f)] }, .inr (f + va % l.size))
      | _, _ => (s, .inl (.fail 1))

/-- The place of a byte of a destination: in its shadow frame for a shadowed command. -/
def State.engineTarget (s : State) (c : Cmd) (va : Nat) : State × (EngGot ⊕ (Store × Nat)) :=
  match s.unitAt c.die c.k va { w := true } c.src with
  | (s, .inl g) => (s, .inl (engMet g))
  | (s, .inr (st, x)) =>
    if !c.shd then (s, .inr (st, x))
    else if st ≠ .dev then (s, .inl (.fail 1))
    else match s.shadowFrame c va with
      | (s, .inl g) => (s, .inl g)
      | (s, .inr a) => (s, .inr (.dev, a))

/-! Reads. -/

/-- The index of a row (R189). -/
def State.rowIndexOf (s : State) (c : Cmd) (i : Nat) : State × (EngGot ⊕ Nat) :=
  match s.unitRead c.die c.k c.v (c.f 0x20 8 + 4 * i) 4 c.src with
  | (s, .ok _ true) => (s, .inl (.fail 5))
  | (s, .ok b false) => if c.f 0x28 4 ≤ leNat b then (s, .inl (.fail 4)) else (s, .inr (leNat b))
  | (s, g) => (s, .inl (engMet g))

/-- The index of the row of byte `q`, read once; 0 for a command without rows. -/
def State.rowIndex (s : State) (c : Cmd) (q : Nat) : State × (EngGot ⊕ Nat) :=
  let row := q / c.f 0x18 4
  if c.kind ≠ 2 && c.kind ≠ 3 then (s, .inr 0)
  else match c.index? row with
    | some i => (s, .inr i)
    | none =>
      match s.rowIndexOf c row with
      | (s, .inr i) => (s.modCmd c.id fun x => { x with idx := x.idx ++ [(row, i)] }, .inr i)
      | x => x

/-- One step of the fold of R60, lane by lane: the word and the flags of its lanes. -/
def collOp (op : Nat) (t : Ty) (acc x : Word) : Word × List Nat :=
  let a := acc.toNat
  let b := x.toNat
  let lane (f : Nat → Nat → Nat × Nat) : Word × List Nat :=
    let r := (upto t.lanes).map fun i => f (bitsAt a (t.width * i) t.width) (bitsAt b (t.width * i) t.width)
    (BitVec.ofNat 32 (packLanes t.width (r.map Prod.fst)), r.map Prod.snd)
  let whole (r : Nat × List Nat) : Word × List Nat := (BitVec.ofNat 32 r.1, r.2)
  if t = .i32 || t = .n32 then
    whole (atomicValue (match op with | 0 => .add | 1 => .max | _ => .min) t 4 a b 0)
  else match op with
    | 0 => whole (atomicValue (.fadd .rne) t 4 a b 0)
    | 1 => lane (greaterF (fmtOf t))
    | _ => lane (lesserF (fmtOf t))

/-- Word `j` of a remote rank's contribution; none until its chunk has come. -/
def State.chunkWord (s : State) (c : Cmd) (rank j : Nat) : Option Word :=
  (s.chunks.find? fun x => x.grp = c.grp && x.cseq = c.cseq && x.rank = rank && decide (x.off ≤ j) && decide (j < x.off + x.words.length)).map
    fun x => (x.words.drop (j - x.off)).headD 0

/-- Word `j` of a rank's contribution, with its poison. -/
def State.contribution (s : State) (c : Cmd) (own rank j : Nat) : State × (EngGot ⊕ (Word × Bool)) :=
  if rank = own then
    match s.unitRead c.die c.k c.v (c.srcVa + 4 * j) 4 c.src with
    | (s, .ok b poi) => (s, .inr (BitVec.ofNat 32 (leNat b), poi))
    | (s, g) => (s, .inl (engMet g))
  else match s.chunkWord c rank j with
    | some w => (s, .inr (w, false))
    | none => (s, .inl .stall)

/-- The fold of word `j` over the ranks of a list (R60): the word, its poison, and the flags that it raises. -/
def collFold (c : Cmd) (own op : Nat) (t : Ty) (j : Nat) :
    List Nat → Option (Word × Bool) → List (List Nat) → State → State × (EngGot ⊕ (Word × Bool × List (List Nat)))
  | [], acc, fl, s => (s, .inr ((acc.map Prod.fst).getD 0, (acc.map Prod.snd).getD false, fl))
  | i :: r, acc, fl, s =>
    match s.contribution c own i j with
    | (s, .inl g) => (s, .inl g)
    | (s, .inr (w, p)) =>
      match acc with
      | none => collFold c own op t j r (some (w, p)) fl s
      | some (a, q) =>
        let x := collOp op t a w
        collFold c own op t j r (some (x.1, q || p)) (fl ++ [x.2]) s

/-- Word `q` of this rank's destination, its poison, and the flags that it raises (R193). -/
def State.collWord (s : State) (c : Cmd) (q : Nat) : State × (EngGot ⊕ (Word × Bool × List (List Nat))) :=
  let g := groupOf (s.groupBytes c.grp)
  let count := c.f 0x18 4
  let opf := c.f 0x1D 1
  let t := (Ty.ofBits (BitVec.ofNat 4 (bitsAt opf 4 4))).getD .b32
  let copy (rank j : Nat) : State × (EngGot ⊕ (Word × Bool × List (List Nat))) :=
    match s.contribution c g.rank rank j with
    | (s, .inl e) => (s, .inl e)
    | (s, .inr (w, p)) => (s, .inr (w, p, []))
  let red (j : Nat) : State × (EngGot ⊕ (Word × Bool × List (List Nat))) :=
    collFold c g.rank (bitsAt opf 0 2) t j (upto g.n) none [] s
  match c.f 0x1C 1 with
  | 0 => red q
  | 1 => red (g.rank * (count / max 1 g.n) + q)
  | 2 => copy (q / count) (q % count)
  | 3 => copy (c.f 0x1E 1) q
  | _ => red q

/-- Flags of lanes, those of two lists together. -/
def orLanes : List Nat → List Nat → List Nat
  | a :: r, b :: t => (a ||| b) :: orLanes r t
  | [], l => l
  | l, [] => l

/-- The byte that a command writes as byte `q` of its destination, with its poison: one that it has read and keeps, else its
source's; a COLL keeps the word that holds it. -/
def State.engineRead (s : State) (c : Cmd) (i q : Nat) : State × (EngGot ⊕ (Byte × Bool)) :=
  match c.got.find? fun g => g.1 = q with
  | some g => (s, .inr g.2)
  | none =>
    if c.kind = 4 then
      match s.collWord c (q / 4) with
      | (s, .inl g) => (s, .inl g)
      | (s, .inr (w, p, fl)) =>
        let bytes := (upto 4).map fun o => (q / 4 * 4 + o, (BitVec.ofNat 8 (bitsAt w.toNat (8 * o) 8), p))
        (s.modCmd c.id fun x => { x with got := x.got ++ bytes.filter (fun b => !c.wrote b.1), lanes := fl.foldl orLanes x.lanes },
          .inr (BitVec.ofNat 8 (bitsAt w.toNat (8 * (q % 4)) 8), p))
    else match s.unitRead c.die c.k c.v (c.srcAt i q) 1 c.src with
      | (s, .ok b p) => (s, .inr (b.headD 0, p))
      | (s, g) => (s, .inl (engMet g))

/-- Reads bytes of a command from `q` on, each as its own event. -/
def engineReads (id i : Nat) : Nat → Nat → List (Byte × Bool) → State → State × (EngGot ⊕ List (Byte × Bool))
  | 0, _, l, s => (s, .inr l)
  | n + 1, q, l, s =>
    match s.cmd? id with
    | none => (s, .inl .stall)
    | some c =>
      match s.engineRead c i q with
      | (s, .inr b) => engineReads id i n (q + 1) (l ++ [b]) s
      | (s, .inl g) => (s, .inl g)

/-! Moves. -/

/-- The position of a command after the bytes that were written ahead of it. -/
def skipAhead (ahead : List Nat) : Nat → Nat → Nat
  | 0, p => p
  | n + 1, p => if ahead.contains p then skipAhead ahead n (p + 1) else p

/-- A command after `n` bytes from `q` on have been written; `poi` when they were poisoned. -/
def Cmd.wroteUnit (c : Cmd) (i q n : Nat) (poi : Bool) : Cmd :=
  let ahead := c.ahead ++ upFrom q n
  let p := skipAhead ahead ahead.length c.pos
  let key := c.dstAt i q / poisonSpan (c.dstAt i q)
  { c with
    pos := p, ahead := ahead.filter fun a => decide (p ≤ a)
    got := c.got.filter fun g => !(decide (q ≤ g.1) && decide (g.1 < q + n))
    idx := c.idx.filter fun x => decide (p / c.f 0x18 4 ≤ x.1)
    poi := if poi && !c.poi.contains key then c.poi ++ [key] else c.poi }

/-- Whether a command has written the whole unit of poison about byte `q` with clean data (R151). -/
def Cmd.cleans (c : Cmd) (i q : Nat) : Bool :=
  let d := c.dstAt i q
  let u := poisonSpan d
  let (b, n) := c.run q
  decide (b + d % u ≤ q) && decide (q - d % u + u ≤ b + n) && !c.poi.contains (d / u) && (upFrom (q - d % u) u).all c.wrote

/-- The bytes about byte `q` of a destination are written as one event; with `keep`, they are only read. -/
def State.engineUnit (s : State) (c : Cmd) (q : Nat) (keep : Bool) : State × EngGot :=
  match s.rowIndex c q with
  | (s, .inl g) => (s, g)
  | (s, .inr i) =>
    let (lo, n) := c.unit i q
    match engineReads c.id i n lo [] s with
    | (s, .inl g) => (s, g)
    | (s, .inr l) =>
      let c := (s.cmd? c.id).getD c
      if keep then
        let bytes := (upto n).map fun o => (lo + o, (l.drop o).headD (0, false))
        (s.modCmd c.id fun x => { x with got := x.got.filter (fun g => !(decide (lo ≤ g.1) && decide (g.1 < lo + n))) ++ bytes }, .ok)
      else if !((upFrom lo n).all c.inOrder) then (s, .stall)
      else match s.engineTarget c (c.dstAt i lo) with
        | (s, .inl g) => (s, g)
        | (s, .inr (st, x)) =>
          let poi := l.any Prod.snd
          let s := ((s.storeBytes st x (l.map Prod.fst) poi).moved c.k c.v st n).modCmd c.id fun y => y.wroteUnit i lo n poi
          let s := if ((s.cmd? c.id).map fun y => y.cleans i lo).getD false then s.setPoison st x false else s
          let s := if c.shd then s
            else if st = .scr then s.fillGranules x n
            else if st = .dev then s.busyLines c.k x n
            else if st = .host then s.agentTake x true true
            else s
          (s.countUp (2000 + c.eng) n, .ok)

/-- What a step of a command makes of the command. -/
def State.engineMet (s : State) (c : Cmd) (g : EngGot) : State :=
  match g with
  | .wait d f => s.modCmd c.id fun x => { x with fault := some (d, f) }
  | .fail n => s.modCmd c.id fun x => { x with cause := n }
  | _ => s

/-- Writes bytes of a command in one turn: those `j` places ahead, which the agenda chooses, since no order is stated (R190);
with `keep` one is read and kept. -/
def engineMoves (id j : Nat) (keep : Bool) : Nat → State → State
  | 0, s => s
  | n + 1, s =>
    match s.cmd? id with
    | none => s
    | some c =>
      let q := min (c.pos + j) (c.total - 1)
      if c.total ≤ c.pos then s.modCmd id fun x => { x with writ := true, since := s.cyc }
      else if c.wrote q then s
      else match s.engineUnit c q keep with
        | (s, .ok) =>
          let s := s.modCmd id fun x => if x.total ≤ x.pos then { x with writ := true, since := s.cyc } else x
          if keep || ((s.cmd? id).map Cmd.writ).getD true then s else engineMoves id j keep n s
        | (s, g) => s.engineMet c g

/-! Completion (R191). -/

/-- A tile's entry once the device frames of `size` bytes from `old` on stand at `new_`. -/
def movedTile (old size new_ frame e : Nat) : Nat :=
  let pa := bitsAt e 0 44
  if bitsAt e 63 1 = 1 && bitsAt e 44 18 = 0 && old ≤ pa && pa + frame ≤ old + size then e - pa + (new_ + (pa - old)) else e

/-- The tile tables that descriptors of an address space name: slot, address, entries and frame size (R275, R276). -/
def State.tileTables (s : State) (asid : Nat) : List (Nat × Nat × Nat × Nat) :=
  let one (k : Nat) (b : List Byte) : Option (Nat × Nat × Nat × Nat) :=
    match tensorOf b with
    | none => none
    | some t =>
      if t.ttab = 0 then none
      else (s.peekAt k t.ttab { tt := true }).map fun p =>
        let h := s.readB p.1 p.2 64
        let te (i : Nat) : Nat := max 1 (recField h (0x10 + 4 * i) 4)
        (k, t.ttab, (upto 4).foldl (fun n i => n * ((nth t.ext i + te i - 1) / te i)) 1, if recField h 2 1 = 0 then 2 ^ 16 else 2 ^ 21)
  (s.insts.filter fun i => s.asid i.k = asid).flatMap fun i => i.desc.filterMap (one i.k)

/-- Tile frames that a publish moves: every entry of a tile table that names them names the new ones, and no port keeps one
(R190, R292, R299). -/
def State.remapTiles (s : State) (asid old size new_ : Nat) : State :=
  let entry (k frame : Nat) (s : State) (va : Nat) : State :=
    match s.peekAt k va { tt := true } with
    | some (st, a) =>
      let e := s.readN st a 8
      let m := movedTile old size new_ frame e
      if m = e then s else s.writeB st a (leBytes 8 m)
    | none => s
  let s := foldState (fun s (t : Nat × Nat × Nat × Nat) =>
    foldState (fun s j => entry t.1 t.2.2.2 s (t.2.1 + 64 + 8 * j)) s (upto t.2.2.1)) s (s.tileTables asid)
  { s with tileEnts := s.tileEnts.filter fun e => e.asid ≠ asid }

/-- Accesses that have a place in a frame and are not performed there translate again. -/
def State.replace (s : State) (old size : Nat) : State :=
  let piece (p : Piece) : Piece := match p.place, p.resp with
    | some (.dev, x), none => if old ≤ x && x < old + size then { p with place := none } else p
    | _, _ => p
  s.modFab fun g => { g with accs := g.accs.map fun (a : Access) => if a.done then a else { a with pieces := a.pieces.map piece } }

/-- The shadow frames of a command become its destination's pages and tile frames, for all observers at once; the frames that
were visible return to the pool (R190, R277, R292). -/
def State.remapShadow (s : State) (c : Cmd) : State :=
  foldState (fun s (e : Nat × Nat × Nat) =>
    match s.leafOf c.asid e.1 with
    | none => { s with shadowRet := s.shadowRet ++ [(c.k, e.2.1, e.2.2)] }
    | some l =>
      let new_ := l.entry - bitsAt l.entry 12 32 * 4096 + e.2.2
      let s := foldState (fun s j => s.writePaN (l.at_ + 8 * j) 8 new_) s (upto l.n)
      let s := (s.remapTiles c.asid l.frame l.size e.2.2).replace l.frame l.size
      { s with tlb := s.tlb.filter fun t => !(t.asid = c.asid && decide (t.va < e.1 + l.size) && decide (e.1 < t.va + t.size))
               shadowRet := s.shadowRet ++ [(c.k, e.2.1, l.frame)] }) s c.shadow

/-- What step 2 does beside the sheaf publish: the remap, a reduction's flags (R52), and the core's count (R227). -/
def State.engineVisible (s : State) (c : Cmd) : State :=
  ((s.remapShadow c).raiseLanes c.k 0 c.lanes).uncount c.core fun x => { x with cpy := x.cpy - 1 }

/-- Step 2: the remap and the sheaf publish as one event, once the publish has reached its home die. -/
def State.enginePublish (s : State) (c : Cmd) : State :=
  let tid := c.f 0x30 8
  let tile := c.f 0x2C 4
  if c.psys && s.hostBusy.any (fun h => h.2 = c.k) then s
  else if tid = 0 then (s.engineVisible c).modCmd c.id fun x => { x with published := true }
  else if s.cyc < c.since + 20 + 16 * bounds (srcDie c.src.code) (sheafHome c.asid tid tile).1 || (s.freeTrapIndex c.k).isNone then s
  else
    let (s, seq) := (s.engineVisible c).takeSeq c.src.code
    s.applyPublish { k := c.k, asid := c.asid, tid := tid, tile := tile, gen := c.f 6 2, seq := seq, fire := none, core := none,
                     cmd := some c.id, ready := s.cyc }

/-- The command has ended. -/
def State.endCmd (s : State) (c : Cmd) : State :=
  let s := s.modFab fun g => { g with cmds := g.cmds.filter fun x => x.id ≠ c.id }
  if c.kind = 4 then
    { s with ranks := s.ranks.filter fun r => !(r.grp = c.grp && r.cseq = c.cseq)
             chunks := s.chunks.filter fun x => !(x.grp = c.grp && x.cseq = c.cseq) }
  else s

/-- Step 3: PEND falls by the bytes charged; a command that faulted sets FAULT. -/
def State.engineBarrier (s : State) (c : Cmd) : State :=
  let bar := c.f 0x38 8
  if bar = 0 then s.endCmd c
  else match s.unitAt c.die c.k bar { r := true, w := true } c.src with
    | (s, .inr (st, x)) =>
      let b := s.bar st x
      let b : Bar := { b with pend := b.pend - c.charged, st := if c.cause ≠ 0 then b.st ||| 4 else b.st }
      (s.setBar st x b.settle).endCmd c
    | (s, .inl (.wait d f)) => s.modCmd c.id fun x => { x with fault := some (d, f) }
    | (s, .inl .ats) => s
    | (s, .inl _) => s.endCmd c

/-- A command that a fault ends (R191): ENGINE in the issuing context; nothing is published, and no shadow becomes
visible. -/
def State.engineFault (s : State) (c : Cmd) : State :=
  if (s.freeTrapIndex c.k).isNone then s
  else
    let s := s.unitTrap c.k c.v 5 (c.eng % 64) c.recAt (engineCause c.recAt c.cause)
    let s : State := { s with shadowRet := s.shadowRet ++ c.shadow.map fun e => (c.k, e.2.1, e.2.2) }
    (s.modCmd c.id fun x => { x with published := true, shadow := [] }).uncount c.core fun x => { x with cpy := x.cpy - 1 }

/-- Whether a command may act: its unit has not frozen its context. -/
def State.engineRuns (s : State) (c : Cmd) : Bool := c.running && c.fault.isNone && s.live c.k .engines

/-- ENGINE_COMMAND_COMPLETE (R189, R191): command `n` of the list writes `m` bytes or granules (at least one), from `j` places
ahead on, or with `flag` reads one that it writes later; once all are written it takes the steps of its completion. -/
def execEngineCommandComplete (s : State) : Host.Outcome State Fault Refusal :=
  .next (match (s.fab.cmds.drop s.arg.n).head? with
  | none => s
  | some c =>
    if !s.engineRuns c then s
    else if c.published then s.engineBarrier c
    else if c.cause ≠ 0 then s.engineFault c
    else if c.writ then s.enginePublish c
    else if c.kind = 4 then s
    else engineMoves c.id s.arg.j s.arg.flag (max 1 s.arg.m) s)

/-! The Carillon (R192, R193, R398, R399). -/

/-- Whether the fields that the ranks of a collective must agree on differ among its arrivals. -/
def State.collMismatch (s : State) (grp cseq : Nat) : Bool :=
  let l := s.ranks.filter fun r => r.grp = grp && r.cseq = cseq
  l.any fun a => l.any fun b => a.ck ≠ b.ck || a.opf ≠ b.opf || a.count ≠ b.count || a.root ≠ b.root

/-- A rank's control flit is compared with those of the other ranks; a mismatch ends the commands of the collective. -/
def State.collArrive (s : State) (r : RankArrival) : State :=
  let s : State := { s with ranks := s.ranks.filter (fun x => !(x.grp = r.grp && x.cseq = r.cseq && x.rank = r.rank)) ++ [r] }
  if s.collMismatch r.grp r.cseq then
    s.modFab fun g => { g with cmds := g.cmds.map fun (c : Cmd) =>
      if c.kind = 4 && c.running && c.grp = r.grp && c.cseq = r.cseq && c.cause = 0 then { c with cause := 6 } else c }
  else s

/-- COLL_RANK_ARRIVAL (R192): rank `j` of group `n`, collective `m`; `val` holds COUNT in bits [31:0], CK in [39:32], OPF in
[47:40] and ROOT in [55:48]. -/
def execCollRankArrival (s : State) : Host.Outcome State Fault Refusal :=
  let v := s.arg.val.toNat
  .next (s.collArrive { grp := s.arg.n, cseq := s.arg.m, rank := s.arg.j, ck := bitsAt v 32 8, opf := bitsAt v 40 8,
                        count := bitsAt v 0 32, root := bitsAt v 48 8 })

/-- Notes for each collective in progress since when a peer has had no route (R399). -/
def State.routesChanged (s : State) : State :=
  let lost (c : Cmd) : Bool :=
    let g := groupOf (s.groupBytes c.grp)
    (upto g.n).any fun i => i ≠ g.rank && (s.routeTo ((g.pkid.drop i).headD 0)).isNone
  let one (c : Cmd) : Cmd :=
    if c.kind = 4 && c.running then { c with lostAt := if lost c then some (c.lostAt.getD s.cyc) else none } else c
  s.modFab fun g => { g with cmds := g.cmds.map one }

/-- The check of a COLL at the Carillon (R192). -/
def State.badColl (s : State) (c : Cmd) : Bool :=
  let g := groupOf (s.groupBytes c.grp)
  let ck := c.f 0x1C 1
  !s.groupOk c.k c.grp || (3 ≤ ck && g.n ≤ c.f 0x1E 1) || (ck = 1 && c.f 0x18 4 % max 1 g.n ≠ 0)

/-- ENGINE_COMMAND_START (R189, R192): engine `u` takes the first command of its queue, of at most 8 that a wain engine
runs at once; the Carillon checks its group and compares its rank's fields. -/
def execEngineCommandStart (s : State) : Host.Outcome State Fault Refusal :=
  let e := s.arg.u
  .next (match s.fab.cmds.find? fun c => c.eng = e && !c.running && s.live c.k .engines with
  | none => s
  | some c =>
    if e < 32 && (s.regField .dieFence (e / 4) 1 = 1 || 8 ≤ (s.fab.cmds.filter fun x => x.eng = e && x.running).length) then s
    else
      let s := s.modCmd c.id fun x => { x with running := true, age := s.cyc }
      if c.kind ≠ 4 then s
      else if s.badColl c then s.modCmd c.id fun x => { x with cause := 6 }
      else (s.collArrive { grp := c.grp, cseq := c.cseq, rank := (groupOf (s.groupBytes c.grp)).rank, ck := c.f 0x1C 1, opf := c.f 0x1D 1,
                           count := c.f 0x18 4, root := c.f 0x1E 1 }).routesChanged)

/-- A peer port's state; one that nothing has used is as after reset. -/
def State.port (s : State) (p : Nat) : Port := (s.ports.find? fun x => x.p = p).getD { p := p }

def State.setPort (s : State) (x : Port) : State := { s with ports := s.ports.filter (fun y => y.p ≠ x.p) ++ [x] }

/-- Sends a chunk toward a package where R396 and R397 let it leave: a port that is up, with a credit of channel 0 and room
among its 512 unacknowledged flits. -/
def State.sendChunk (s : State) (pkg : Nat) (c : Chunk) : Option State :=
  match s.routeTo pkg with
  | none => none
  | some p =>
    let x := s.port p
    if x.cred0 = 0 || 512 ≤ x.unacked.length then none
    else some (s.setPort { x with cred0 := x.cred0 - 1, next := (x.next + 1) % 2 ^ 32,
                                  unacked := x.unacked ++ [{ seq := x.next, pkg := pkg, chunk := c }],
                                  lastAck := if x.unacked.isEmpty then s.cyc else x.lastAck })

/-- Sends chunk `j` of this rank's contribution to rank `r` (R395, R399). Which rank needs which chunks is not stated, so
the agenda chooses (DESIGN CHOICE, log 58). -/
def State.collSend (s : State) (c : Cmd) (r j : Nat) : State :=
  let g := groupOf (s.groupBytes c.grp)
  let n := min 54 (c.f 0x18 4 - 54 * j)
  if r = g.rank || g.n ≤ r || n = 0 then s
  else match s.unitRead c.die c.k c.v (c.srcVa + 216 * j) (4 * n) c.src with
    | (s, .ok b _) =>
      (s.sendChunk ((g.pkid.drop r).headD 0)
        { grp := c.grp, cseq := c.cseq, rank := g.rank, off := 54 * j,
          words := (upto n).map fun i => BitVec.ofNat 32 (recField b (4 * i) 4) }).getD s
    | (s, x) => s.engineMet c (engMet x)

/-- COLL_COMPLETE (R193, R399): collective `n` of the list of commands, which every rank has issued, writes `m` bytes or granules of
its destination, at least one, from `j` places ahead on; with `flag`, it sends chunk `j` of its contribution to rank `u` instead. -/
def execCollComplete (s : State) : Host.Outcome State Fault Refusal :=
  .next (match (s.fab.cmds.drop s.arg.n).head? with
  | none => s
  | some c =>
    if c.kind ≠ 4 || !s.engineRuns c || c.writ || c.cause ≠ 0 then s
    else if s.arg.flag then s.collSend c s.arg.u s.arg.j
    else if !s.allArrived c then s
    else engineMoves c.id s.arg.j false (max 1 s.arg.m) s)

/-- COLL_ROUTE_TIMEOUT (R399): command `n` of the list has had no route to a rank for 2,400,000 cycles. -/
def execCollRouteTimeout (s : State) : Host.Outcome State Fault Refusal :=
  .next (match (s.fab.cmds.drop s.arg.n).head? with
  | none => s
  | some c =>
    match c.lostAt with
    | some t =>
      if c.kind = 4 && c.running && !c.published && c.cause = 0 && decide (t + 2400000 ≤ s.cyc) then s.modCmd c.id fun x => { x with cause := 7 }
      else s
    | none => s)

end Sys2Proof.Machine
end

