-- ==== Sys2Proof/Machine/Links.lean ====
section
/-! DEFINITION. The peer ports (R395 to R397, R399) and the failure of a UCIe boundary (R394). -/

namespace Sys2Proof.Machine

/-- Whether a peer port is in service. -/
def State.portUp (s : State) (p : Nat) : Bool := s.regField (.linkStat p) 31 1 = 1

/-- A flit's bytes (R395). -/
def flitBytes (d : BitVec 2048) : List Byte := (upto 256).map fun i => d.extractLsb' (8 * i) 8

/-- The chunk of a TYPE 1 flit (R395). -/
def flitChunk (b : List Byte) : Chunk :=
  { grp := recField b 0x10 4, cseq := recField b 0x14 4, rank := recField b 0x18 1, off := recField b 0x1C 4,
    words := (upto 54).map fun i => BitVec.ofNat 32 (recField b (0x20 + 4 * i) 4) }

/-- Whether a collective has already ended at this rank, so that its chunks are duplicates. -/
def State.collEnded (s : State) (grp cseq : Nat) : Bool :=
  decide ((s.nextColl grp + 2 ^ 32 - 1 - cseq) % 2 ^ 32 < 2 ^ 31) && decide (s.nextColl grp ≠ cseq) &&
    !(s.fab.cmds.any fun c => c.kind = 4 && c.grp = grp && c.cseq = cseq)

/-- A chunk arrives; one that is held already, or belongs to a collective that has ended, is discarded (R399). -/
def State.takeChunk (s : State) (c : Chunk) : State :=
  if s.collEnded c.grp c.cseq || s.chunks.any (fun x => x.grp = c.grp && x.cseq = c.cseq && x.rank = c.rank && x.off = c.off) then s
  else { s with chunks := s.chunks ++ [c] }

/-- Unacknowledged flits after an acknowledgement. -/
def dropAcked (ack : Nat) (l : List Sent) : List Sent := l.filter fun x => decide (2 ^ 31 ≤ (ack + 2 ^ 32 - x.seq) % 2 ^ 32)

/-- The acknowledgement and the credits that a flit carries. -/
def Port.credited (x : Port) (now : Nat) (b : List Byte) : Port :=
  let u := dropAcked (recField b 8 4) x.unacked
  let n := recField b 3 1
  let vc := recField b 2 1 % 4
  let x := if u.length < x.unacked.length then { x with unacked := u, replays := 0, lastAck := now } else x
  { x with expect := (x.expect + 1) % 2 ^ 32, cred0 := if vc = 0 then x.cred0 + n else x.cred0,
           cred1 := if vc = 1 then x.cred1 + n else x.cred1 }

/-- FLIT_RECEIVE (R396): port `u` receives the flit `data`. -/
def execFlitReceive (s : State) : Host.Outcome State Fault Refusal :=
  .next (match s.arg.data with
  | none => s
  | some d =>
    let p := s.arg.u
    let b := flitBytes d
    let x := s.port p
    if !s.portUp p then s
    else if recField b 0xF8 8 ≠ (Config.crc64 (b.take 0xF8)).toNat || recField b 4 4 ≠ x.expect || 4 ≤ recField b 0 1 then
      s.bumpSat (.linkStat p) 0 16
    else
      let s := s.setPort (x.credited s.cyc b)
      if recField b 0 1 = 1 then s.takeChunk (flitChunk b) else s)

/-- A port leaves service (R396, R397). -/
def State.portDown (s : State) (p : Nat) : State :=
  let s := (s.setField (.linkStat p) 31 1 0).bumpSat (.linkStat p) 16 8
  (s.setPort { s.port p with training := false, replays := 0 }).routesChanged

/-- Chunks that a port which is down had not seen acknowledged leave on the route that R397 gives now (R399). -/
def resend (p : Nat) : List Sent → State → State
  | [], s => s
  | x :: r, s =>
    match s.sendChunk x.pkg x.chunk with
    | some s =>
      let y := s.port p
      resend p r (s.setPort { y with unacked := dropFirst (fun z => z = x) y.unacked })
    | none => resend p r s

/-- LINK_REPLAY_TIMEOUT (R396, R399): port `u` has seen no acknowledgement for 4,800 cycles and resends; after eight replays
in a row it goes down with LINK_DOWN. The chunks of a port that is down are sent on another. -/
def execLinkReplayTimeout (s : State) : Host.Outcome State Fault Refusal :=
  let p := s.arg.u
  let x := s.port p
  .next (if !s.portUp p then resend p x.unacked s
  else if x.unacked.isEmpty || s.cyc < x.lastAck + 4800 then s
  else if x.replays < 8 then s.setPort { x with replays := x.replays + 1, lastAck := s.cyc }
  else (s.portDown p).hostEvent { type := 4, slot := 0xFF, a := p, b := 0, cyc := 0 })

/-- LINK_TRAIN (R397): a write of 1 to LINK_STAT.UP of port `u`. -/
def execLinkTrain (s : State) : Host.Outcome State Fault Refusal :=
  let p := s.arg.u
  .next (if s.portUp p then s else s.setPort { s.port p with training := true })

/-- LINK_TAKE_DOWN (R397): a write of 0 to LINK_STAT.UP of port `u`. -/
def execLinkTakeDown (s : State) : Host.Outcome State Fault Refusal :=
  let p := s.arg.u
  .next (if s.portUp p then s.portDown p else s.setPort { s.port p with training := false })

/-- Gives flits sequence numbers from 0 on. -/
def renumber : Nat → List Sent → List Sent
  | _, [] => []
  | n, x :: r => { x with seq := n } :: renumber (n + 1) r

/-- LINK_TRAINED (R397): port `u` completes training and is in service, with all credits and flits numbered from 0 (DESIGN CHOICE, log 58). -/
def execLinkTrained (s : State) : Host.Outcome State Fault Refusal :=
  let p := s.arg.u
  let x := s.port p
  .next (if !x.training then s
  else
    let n := x.unacked.length
    let s := s.setPort { p := p, next := n, unacked := renumber 0 x.unacked, cred0 := 128 - n, lastAck := s.cyc }
    (s.setField (.linkStat p) 31 1 1).routesChanged)

/-- UCIE_BOUNDARY_FAIL (R394): publish `n` on its way is re-sent with its sequence number, `j` cycles later: with `flag` the
first copy was caught, else it is a second copy, whose application is dropped as a duplicate. Delivery `m` on its way,
which the boundary caught, is re-sent once. -/
def execUcieBoundaryFail (s : State) : Host.Outcome State Fault Refusal :=
  let late (d : Delivery) : Delivery := { d with ready := max d.ready (s.cyc + s.arg.j) }
  let s : State := match (s.pubs.drop s.arg.n).head? with
    | none => s
    | some p =>
      let q : Publish := { p with ready := max p.ready (s.cyc + s.arg.j) }
      if s.arg.flag then { s with pubs := putAt s.pubs s.arg.n q }
      else { s with pubs := s.pubs ++ [{ q with fire := none, core := none, cmd := none, task := none }] }
  .next (match (s.delivs.drop s.arg.m).head? with
  | none => s
  | some d => { s with delivs := putAt s.delivs s.arg.m (late d) })

end Sys2Proof.Machine
end

