-- ==== Sys2Proof/Machine/Pekor.lean ====
section
/-! DEFINITION. Pekor programs (R406, R407), what they mean (R408), and what a translation of one must keep (R294, R409). -/

namespace Sys2Proof.Machine

/-! Programs (R407). -/

/-- An affine row: its coefficients, the constant term last. -/
abbrev AffRow := List Int

/-- An array: its TY code, its KBASE index and byte offset, and the parameters that are its extents. -/
structure PekorArray where
  ty   : Nat
  base : Nat
  off  : Nat
  ext  : List Nat
  deriving DecidableEq, Repr

/-- What an access does: a read, a write, or an atomic with its opcode. -/
inductive PekorKind | read | write | atomic (op : Nat)
  deriving DecidableEq, Repr

/-- An access: its array, kind and qualifiers, and one row for each dimension. -/
structure PekorAccess where
  arr  : Nat
  kind : PekorKind
  sc   : Scope
  acq  : Bool := false
  rel  : Bool := false
  rows : List AffRow
  deriving DecidableEq, Repr

/-- A body node: an operation on two nodes, an access by its index, or a fence (R149). -/
inductive PekorNode
  | op (code ty q x y : Nat)
  | access (n x : Nat)
  | fence (sc : Scope) (acq rel : Bool)
  deriving DecidableEq, Repr

/-- A statement: the constraints of its domain, `true` for an equality, and its body. -/
structure PekorStmt where
  depth : Nat
  cons  : List (Bool × AffRow)
  body  : List PekorNode
  deriving DecidableEq, Repr

/-- A node of the schedule tree. -/
inductive PekorSched
  | band (rows : List AffRow) (kid : Nat)
  | sequence (kids : List Nat)
  | filter (stmts : List Nat) (kid : Nat)
  | mark (reduction : Bool) (kid : Nat)
  | leaf
  deriving DecidableEq, Repr

/-- A kernel: its statements and the root of its tree. -/
structure PekorKernel where
  stmts : List Nat
  root  : Nat
  deriving DecidableEq, Repr

/-- A Pekor program; parameters by KBASE index and byte offset. -/
structure Pekor where
  params  : List (Nat × Nat)
  arrays  : List PekorArray
  stmts   : List PekorStmt
  accs    : List PekorAccess
  sched   : List PekorSched
  kernels : List PekorKernel
  deriving DecidableEq, Repr

/-- Whether an opcode may stand in a body: groups 0x0 to 0x7 (R407). -/
def pekorOp (op : Nat) : Bool := decide (op < 0x200)

/-- Whether a program keeps the limits of R407: every count in its range and every index below its table's size. -/
def Pekor.ok (p : Pekor) : Bool :=
  let row (d : Nat) (r : AffRow) : Bool := r.length = d + p.params.length + 1 && r.all fun c => decide (-(2 ^ 31) ≤ c) && decide (c < 2 ^ 31)
  let node (n : Nat) : PekorNode → Bool
    | .op code ty _ x y => pekorOp code && decide (ty < 15) && decide (x < n) && decide (y < n)
    | .access a x => decide (a < p.accs.length) && decide (x < n)
    | .fence _ _ _ => true
  let arr (a : PekorArray) : Bool :=
    decide (a.ty < 15) && 1 ≤ a.ext.length && a.ext.length ≤ 4 && decide (a.base < 16) && a.ext.all fun e => decide (e < p.params.length)
  let acc (a : PekorAccess) : Bool :=
    (match a.kind with | .atomic op => decide (0x2C0 ≤ op) && decide (op < 0x300) | _ => true) &&
      ((p.arrays.drop a.arr).head?.any fun x => x.ext.length = a.rows.length)
  let sched : PekorSched → Bool
    | .band _ k => decide (k < p.sched.length)
    | .sequence ks => ks.all fun k => decide (k < p.sched.length)
    | .filter ss k => decide (k < p.sched.length) && ss.all fun s => decide (s < p.stmts.length)
    | .mark _ k => decide (k < p.sched.length)
    | .leaf => true
  p.params.all (fun x => decide (x.1 < 16) && decide (x.2 < 2 ^ 24)) && p.arrays.all arr && p.accs.all acc && p.sched.all sched &&
    (p.stmts.all fun s => 1 ≤ s.depth && s.depth ≤ 16 && s.body.length ≤ 128 && s.cons.all (fun c => row s.depth c.2) && s.body.all (node s.body.length)) &&
    p.kernels.all fun k => decide (k.root < p.sched.length) && k.stmts.all fun s => decide (s < p.stmts.length)

/-! Meaning (R408). -/

/-- The value of a row at iteration variables and parameters. -/
def affAt (r : AffRow) (vars params : List Int) : Int := ((r.zip (vars ++ params ++ [1])).map fun x => x.1 * x.2).sum

/-- Whether a point lies in a statement's domain. -/
def PekorStmt.holds (s : PekorStmt) (params vars : List Int) : Bool :=
  s.cons.all fun c => if c.1 then affAt c.2 vars params = 0 else decide (0 ≤ affAt c.2 vars params)

/-- The points of `d` coordinates of 32 bits, in lexicographic order. -/
def intPoints : Nat → List (List Int)
  | 0 => [[]]
  | d + 1 => (upto (2 ^ 32)).flatMap fun i => (intPoints d).map fun r => ((i : Int) - 2 ^ 31) :: r

/-- A statement instance: its statement and its point. -/
abbrev PekorInst := Nat × List Int

/-- The statement instances of a kernel (R406). -/
def Pekor.instances (p : Pekor) (k : PekorKernel) (params : List Int) : List PekorInst :=
  k.stmts.flatMap fun n => match (p.stmts.drop n).head? with
    | some s => ((intPoints s.depth).filter (s.holds params)).map fun v => (n, v)
    | none => []

/-- Whether one list of numbers is below another, at the first place where they differ. -/
def intLess : List Int → List Int → Bool
  | a :: r, b :: t => decide (a < b) || (a = b && intLess r t)
  | _, _ => false

/-- A rising list of keys with one more. -/
def insertKey (k : List Int) : List (List Int) → List (List Int)
  | [] => [k]
  | a :: r => if a = k then a :: r else if intLess k a then k :: a :: r else a :: insertKey k r

/-- The reference order of instances below a node of the schedule tree (R406, R408): a band by the values of its rows, a sequence
child by child. `red` is the innermost reduction mark passed, and goes with each instance. -/
def Pekor.order (p : Pekor) (params : List Int) : Nat → Nat → Option Nat → List PekorInst → List (PekorInst × Option Nat)
  | 0, _, red, l => l.map fun x => (x, red)
  | fuel + 1, n, red, l =>
    match (p.sched.drop n).head? with
    | some (.band rows kid) =>
      let key (x : PekorInst) : List Int := rows.map fun r => affAt r x.2 params
      ((l.map key).foldl (fun ks k => insertKey k ks) []).flatMap fun k => p.order params fuel kid red (l.filter fun x => key x = k)
    | some (.sequence kids) => kids.flatMap fun c =>
      let mine (x : PekorInst) : Bool := match (p.sched.drop c).head? with | some (.filter ss _) => ss.contains x.1 | _ => true
      p.order params fuel c red (l.filter mine)
    | some (.filter ss kid) => p.order params fuel kid red (l.filter fun x => ss.contains x.1)
    | some (.mark r kid) => p.order params fuel kid (if r then some n else red) l
    | _ => l.map fun x => (x, red)

/-- An event of a program: an access to a location, or a fence. `red` is the reduction mark that it stands under. -/
structure PekorEv where
  loc  : Option (Nat × Int)
  kind : PekorKind := .read
  sc   : Scope
  acq  : Bool
  rel  : Bool
  red  : Option Nat := none
  deriving DecidableEq, Repr

/-- The place of an element: the KBASE index of its array and its byte offset there; elements are words, the last dimension varies
fastest (DESIGN CHOICE, log 16). -/
def Pekor.place (p : Pekor) (a : PekorAccess) (params vars : List Int) : Option (Nat × Int) :=
  (p.arrays.drop a.arr).head?.map fun x =>
    let idx := a.rows.map fun r => affAt r vars params
    let ext := x.ext.map fun e => (params.drop e).headD 0
    (x.base, (x.off : Int) + 4 * (idx.zip ext).foldl (fun n y => n * y.2 + y.1) 0)

/-- The events of a kernel in the order of the reference schedule (R408). -/
def Pekor.events (p : Pekor) (k : PekorKernel) (params : List Int) : List PekorEv :=
  (p.order params (p.sched.length + 1) k.root none (p.instances k params)).flatMap fun x =>
    (((p.stmts.drop x.1.1).head?.map PekorStmt.body).getD []).filterMap fun n => match n with
      | .access i _ => (p.accs.drop i).head?.map fun a =>
        { loc := p.place a params x.1.2, kind := a.kind, sc := a.sc, acq := a.acq, rel := a.rel, red := x.2 }
      | .fence sc acq rel => some { loc := none, sc := sc, acq := acq, rel := rel }
      | .op _ _ _ _ _ => none

/-- Whether an event orders others. -/
def PekorEv.orders (e : PekorEv) : Bool := e.acq || e.rel

def PekorEv.writes (e : PekorEv) : Bool := e.loc.isSome && e.kind ≠ .read

/-- Whether two events, the first before the second in the reference schedule, are ordered by the program (R408): they meet at one
location that one of them writes, or a qualifier or a fence orders them. -/
def PekorEv.before (a b : PekorEv) : Bool :=
  (a.loc.isSome && a.loc = b.loc && (a.writes || b.writes)) || a.acq || b.rel

/-- The sums under reduction marks: for each mark and location, the places of its events in order (R408). -/
def pekorSums (es : List PekorEv) : List (Nat × (Nat × Int) × List Nat) :=
  let keys := (es.filterMap fun e => match e.red, e.loc with | some r, some l => if e.writes then some (r, l) else none | _, _ => none).eraseDups
  keys.map fun k => (k.1, k.2, (upto es.length).filter fun i =>
    ((es.drop i).head?.any fun e => e.red = some k.1 && e.loc = some k.2 && e.writes))

/-! Translation (R294, R409). -/

/-- An event of the native code: the events of the source that it performs, more than one where they are merged, and the bytes of
it where one is split. -/
structure NativeEv where
  srcs : List Nat
  part : Option (Nat × Nat) := none
  sc   : Scope
  acq  : Bool
  rel  : Bool
  deriving DecidableEq, Repr

/-- What native code does for a program: its events, the pairs of them that it keeps in order, and the order of its sums. -/
structure NativePlan where
  evs  : List NativeEv
  ord  : List (Nat × Nat)
  sums : List (Nat × (Nat × Int) × List Nat)
  deriving DecidableEq, Repr

/-- Whether a source event is single-copy atomic (R139): an atomic, or an aligned word. -/
def PekorEv.oneCopy (e : PekorEv) : Bool :=
  match e.kind, e.loc with
  | .atomic _, _ => true
  | _, some l => decide (l.2 % 4 = 0)
  | _, none => true

/-- The number of a scope, the wider the greater. -/
def Scope.rank (s : Scope) : Nat := s.toBits.toNat

/-- Whether a native event merges only accesses of one scope between which no event of the source orders others (R294). -/
def NativeEv.mergesWell (es : List PekorEv) (n : NativeEv) : Bool :=
  let l := n.srcs.filterMap fun i => (es.drop i).head?
  let lo := n.srcs.foldl min (n.srcs.headD 0)
  let hi := n.srcs.foldl max 0
  n.srcs.length ≤ 1 ||
    (l.all (fun e => e.loc.isSome && e.loc = (l.head?.bind PekorEv.loc) && some e.sc = l.head?.map PekorEv.sc) &&
      ((es.drop lo).take (hi + 1 - lo)).all fun e => !e.orders)

/-- Whether a native event splits only what is not single-copy atomic (R294). -/
def NativeEv.splitsWell (es : List PekorEv) (n : NativeEv) : Bool :=
  n.part.isNone || n.srcs.all fun i => (es.drop i).head?.all fun e => !e.oneCopy

/-- Whether some native event performs a source event with its acquire, release and scope, or stronger ones (R294). -/
def NativePlan.keeps1 (pl : NativePlan) (i : Nat) (e : PekorEv) : Bool :=
  let l := pl.evs.filter fun n => n.srcs.contains i
  !l.isEmpty && l.all fun n => decide (Scope.rank e.sc ≤ Scope.rank n.sc) && (!e.acq || n.acq) && (!e.rel || n.rel)

/-- Whether native events stand in the order of two source events that the program orders (R294, R408). -/
def NativePlan.inOrder (pl : NativePlan) (i j : Nat) : Bool :=
  let of_ (i : Nat) : List Nat := (upto pl.evs.length).filter fun n => (pl.evs.drop n).head?.any fun e => e.srcs.contains i
  (of_ i).all fun n => (of_ j).all fun m => n = m || pl.ord.contains (n, m)

/-- What R294 and R408 ask of native code for a list of events of the source. -/
def NativePlan.keeps (pl : NativePlan) (es : List PekorEv) : Bool :=
  pl.evs.all (fun n => !n.srcs.isEmpty && n.srcs.all (fun i => decide (i < es.length)) && n.mergesWell es && n.splitsWell es) &&
    ((upto es.length).zip es).all (fun x => pl.keeps1 x.1 x.2) &&
    (((upto es.length).zip es).all fun x => ((upto es.length).zip es).all fun y =>
      decide (y.1 ≤ x.1) || !x.2.before y.2 || pl.inOrder x.1 y.1) &&
    pl.sums = pekorSums es

end Sys2Proof.Machine

namespace Sys2Proof

/-- The program that the sections of a Pekor image hold; none where they do not hold one. The manual gives the contents of the
sections and not every byte of their records (R407, DESIGN CHOICE, log 16). -/
opaque Config.pekorParse : List Byte → Option Machine.Pekor

/-- What the translator makes of a Pekor image: a native image, and what its code does for each kernel and each value of the
parameters, which keeps every order of the source (R294, R408, R409). -/
structure PekorCode (b : List Byte) where
  image : List Byte
  plan  : Nat → List Int → Machine.NativePlan
  keeps : ∀ p n k ps, Config.pekorParse b = some p → p.kernels[n]? = some k → (plan n ps).keeps (p.events k ps) = true

/-- The translation of a Pekor image for a reported minor and a patch level; none where the translator refuses (R409, DESIGN
CHOICE, log 16). -/
opaque Config.pekorTranslate : (b : List Byte) → Nat → Nat → Option (PekorCode b)

end Sys2Proof
end

