-- ==== Sys2Proof/Machine/Images.lean ====
section
/-! DEFINITION. The loader's checks of a native image (R67, R82, R405, R480, R483) and the placing of an image (R403 to
R405). -/

namespace Sys2Proof.Machine

/-- A failed check: its STATUS and the image offset of the offending byte (R405). -/
abbrev Fail := Nat × Nat

/-! The image header (R82). -/

/-- A field of an image's header. -/
def imgField (img : List Byte) (o n : Nat) : Nat := recField img o n

/-- Whether the image header breaks R82. -/
def badHeader (img : List Byte) : Bool :=
  let f (o n : Nat) : Nat := recField img o n
  let n := img.length
  n < 64 || f 0 4 ≠ 0x4D495859 || f 4 1 ≠ 4 || f 6 2 = 0 || 4096 < f 6 2 || n < f 8 8 + 32 * f 6 2 ||
  f 0x10 8 % 64 ≠ 0 || n < f 0x10 8 + f 0x18 8 || f 0x20 8 % 64 ≠ 0 || n < f 0x20 8 + f 0x28 8 ||
  65536 < f 0x38 4 || f 0x30 8 % 8 ≠ 0 || f 0x3C 4 ≠ 0

/-- The launch records that the image lists (R483). -/
def launchOffsets (img : List Byte) : List Nat := (upto (recField img 0x38 4)).map fun i => recField img (recField img 0x30 8 + 8 * i) 8

/-- Whether a list of offsets rises. -/
def rises : List Nat → Bool
  | a :: b :: r => decide (a < b) && rises (b :: r)
  | _ => true

/-- Whether the launch-record table breaks R483. -/
def badRecords (img : List Byte) : Bool :=
  let dat := recField img 0x20 8
  let fin := dat + recField img 0x28 8
  let tab := recField img 0x30 8
  let n := recField img 0x38 4
  let bad (o : Nat) : Bool := o % 64 ≠ 0 || decide (o < dat) || decide (fin < o + 256) || recField img o 2 ≠ 0x1A7C
  if n = 0 then tab ≠ 0
  else tab < dat || fin < tab + 8 * n || !rises (launchOffsets img) || (launchOffsets img).any bad

/-- The blocks of an image, each under its offset, and what stops their list. -/
def walkBlocks (img : List Byte) (fin : Nat) : Nat → Nat → List Loaded × List Fail
  | 0, _ => ([], [])
  | n + 1, o =>
    if fin ≤ o then ([], [])
    else if fin < o + 16 then ([], [(2, 0x18)])
    else
      let h := BitVec.ofNat 128 (recField img o 16)
      if bitsAt h.toNat 112 16 ≠ 0x59C4 then ([], [(4, o + 14)])
      else if fin < o + blockLen h then ([], [(2, 0x18)])
      else
        let r := walkBlocks img fin n (o + (blockLen h + 63) / 64 * 64)
        (parseBlock (.bay 0 0) 0 0 o ((img.drop o).take (blockLen h)) :: r.1, r.2)

def imageBlocks (img : List Byte) : List Loaded × List Fail :=
  let o := recField img 0x10 8
  let n := recField img 0x18 8
  walkBlocks img (o + n) (n / 64 + 1) o

/-! The checks of one block (R67, R405). -/

/-- The minor version in which a code was assigned (R74, R467). -/
def sinceOf (op : Nat) : Nat :=
  if [0x00D, 0x00E, 0x053, 0x14F, 0x38A].contains op then 1 else if op = 0x00F then 2 else 0

/-- PM of a word. -/
def pmOf (w : DWord) : Nat := bitsAt w.toNat 52 2

/-- The targets of a word that name slots: T0 of RECONF names a configuration port (R127). -/
def slotTargets (w : DWord) : List Target :=
  let t := wordTargets w
  (if opOf w = 0x186 then [t.2.1, t.2.2] else [t.1, t.2.1, t.2.2]).filterMap id

/-- The words of a block that target a slot of word `i`. -/
def targeting (ws : List (Nat × DWord)) (i : Nat) (sl : Slot) : List DWord :=
  (ws.filter fun x => (slotTargets x.2).any fun t => t.idx.toNat = i && t.slot = sl).map Prod.snd

/-- Whether a result token of a word always carries a predicate (R22). -/
def carriesPred (w : DWord) : Bool := pmOf w = 3 || ((opOf w = 0x240 || opOf w = 0x242) && bitsAt w.toNat 42 1 = 1)

/-- Whether a word uses slot a; of a code that the part does not know, the slot counts as used (R65, R468). -/
def usesA (w : DWord) : Bool :=
  match decodeWord w with
  | some i => i.ownSlots.contains .a || i.optionalSlot = some .a
  | none => true

/-- Whether a block breaks R65 at an entry, or R22 at a predicate slot: the words that do. -/
def predFails (l : Loaded) (ws : List (Nat × DWord)) : List Nat :=
  (ws.filter fun x =>
    let ps := targeting ws x.1 .p
    if pmOf x.2 = 0 then !ps.isEmpty
    else ps.isEmpty && (decide (x.1 ≤ hdrNENT l.hdr) || (targeting ws x.1 .a).any fun w => !carriesPred w)).map Prod.fst

def entryFails (l : Loaded) (ws : List (Nat × DWord)) : Bool :=
  (upto (hdrNENT l.hdr + 1)).any fun k => match ws.find? fun x => x.1 = k with
    | some x => !usesA x.2
    | none => true

/-- The block that an exit descriptor of an image names. -/
def exitBlock (bs : List Loaded) (l : Loaded) (e : Nat) : Option Loaded :=
  (l.exits.drop e).head?.bind fun x => if x = 0 then none else bs.find? fun b => b.blk = x.toNat

/-- Whether a word breaks R172, R201 or R307 with its exits. -/
def exitFails (bs : List Loaded) (l : Loaded) (w : DWord) : Bool :=
  let x (lo n : Nat) : Nat := bitsAt w.toNat lo n
  let next := hdrNEXT l.hdr
  let systolic (b : Loaded) : Bool := hdrPLACE b.hdr = 2
  let to_ (e ent : Nat) : Bool := match exitBlock bs l e with
    | some b => systolic b || decide (hdrNENT b.hdr < ent)
    | none => false
  if opOf w = 0x300 then next < x 10 4 || !((exitBlock bs l (x 10 4)).map systolic).getD false
  else if opOf w = 0x380 then next < x 0 4 || to_ (x 0 4) (x 4 4)
  else if opOf w = 0x381 then
    next < x 0 4 || next < x 10 4 || to_ (x 0 4) (x 4 4) || to_ (x 10 4) 0 || (l.exits.drop (x 10 4)).headD 0 = 0 ||
      !((exitBlock bs l (x 0 4)).map fun b => hdrFUNC b.hdr && decide (1 ≤ hdrNENT b.hdr)).getD false
  else false

/-- A class of placement. -/
inductive Cls | spatial | temporal | systolic
  deriving DecidableEq, Repr

/-- Whether a class accepts an instruction (R74). -/
def Cls.accepts (c : Cls) (op : Nat) : Bool :=
  let matrix := decide (0x303 ≤ op) && decide (op ≤ 0x305)
  match c with
  | .spatial => !matrix && !temporalOnly op
  | .temporal => !matrix
  | .systolic => matrix || op = 0x0C0 || op = 0x0C7

/-- The classes that PLACE allows (R64). -/
def placeClasses (h : BitVec 128) : List Cls :=
  match hdrPLACE h with | 0 => [.spatial] | 1 => [.temporal] | 2 => [.systolic] | _ => [.spatial, .temporal, .systolic]

/-- The classes that can hold a block (R35, R242). -/
def Loaded.classes (l : Loaded) : List Cls :=
  let ws := codeWords l.words
  (placeClasses l.hdr).filter fun c => (ws.all fun x => c.accepts (opOf x.2)) &&
    (c ≠ .spatial || decide ((ws.filter fun x => opOf x.2 / 64 = 7).length ≤ 32))

/-- Whether FRAME breaks R64. -/
def frameFails (l : Loaded) : Bool :=
  let n := hdrFRAME l.hdr
  if hdrPLACE l.hdr = 1 || hdrPLACE l.hdr = 3 then n % 16 ≠ 0 || n < 16 * l.words.length || 65536 < n else n ≠ 0

/-- Whether a block with PLACE systolic breaks R172. -/
def systolicFails (l : Loaded) : Bool :=
  let n (op : Nat) : Nat := ((codeWords l.words).filter fun x => opOf x.2 = op).length
  hdrPLACE l.hdr = 2 && (n 0x304 ≠ 1 || decide (1 < n 0x303) || n 0x305 = 0)

/-- The indices that tokens of word `i` reach. -/
def reachedFrom (ws : List (Nat × DWord)) : Nat → List Nat → List Nat
  | 0, l => l
  | n + 1, l =>
    reachedFrom ws n ((l ++ (ws.filter fun x => l.contains x.1).flatMap fun x => (slotTargets x.2).map fun t => t.idx.toNat).eraseDups)

/-- The stores of R202, whose order-out tokens must reach every closing EXIT, CALL and RET. -/
def isStore (op : Nat) : Bool := [0x204, 0x205, 0x206, 0x207, 0x241, 0x243, 0x281, 0x283].contains op

/-- Whether a word closes its invocation (R201). -/
def closesBlock (w : DWord) : Bool :=
  ((opOf w = 0x380 || opOf w = 0x381) && bitsAt w.toNat 8 1 = 0) || (opOf w = 0x382 && bitsAt w.toNat 4 1 = 0)

/-- The words of an idempotent block that R127, R149, R182, R202 or R213 refuses. -/
def idemFails (ws : List (Nat × DWord)) : List Nat :=
  let closers := (ws.filter fun x => closesBlock x.2).map Prod.fst
  let reaches (i c : Nat) : Bool :=
    let r := reachedFrom ws ws.length [i]
    ws.any fun x => r.contains x.1 && (slotTargets x.2).any fun t => t.idx.toNat = c && t.slot = .c
  (ws.filter fun x => idemRefuses x.2 || opOf x.2 = 0x186 || (isStore (opOf x.2) && closers.any fun c => !reaches x.1 c)).map Prod.fst

/-- Whether an RDLY holds more than 16,384 elements (R169). -/
def rdlyFails (w : DWord) : Bool :=
  match decodeWord w with
  | some (.rdly _ depth rt _) => decide (16384 < (rt.toNat + 1) * (depth.toNat + 1))
  | _ => false

/-- Whether no class that accepts the block has room for it (R248, R256). -/
def capacityFails (l : Loaded) : Bool :=
  let ok (c : Cls) : Bool := match c with
    | .spatial => decide (loftNeed l.hdr l.words ≤ 8192)
    | .temporal => decide (poolNeed l.hdr l.words ≤ poolBytes)
    | .systolic => true
  !l.classes.isEmpty && !l.classes.any ok

/-- The failed checks of one block; `minor` is the version that the part reports, and `imin` the image's (R67, R401,
R405). -/
def blockFails (minor imin : Nat) (slots : List PatchSlot) (bs : List Loaded) (l : Loaded) : List Fail :=
  let h := l.hdr.toNat
  let o := l.blk
  let ws := codeWords l.words
  let lits := litFlags false l.words
  let last := l.words.length - 1
  let at_ (i : Nat) : Nat := o + 16 + 8 * i
  let one (c : Nat) (bad : Bool) (off : Nat) : List Fail := if bad then [(c, off)] else []
  let words (c : Nat) (bad : Nat × DWord → Bool) : List Fail := (ws.filter bad).map fun x => (c, at_ x.1)
  let badTarget (x : Nat × DWord) : Bool := (targetFields x.2).any fun t => match t with
    | some t => decide (last < t.idx.toNat) || (lits.drop t.idx.toNat).headD false
    | none => false
  let badExit (e : DWord) : Bool :=
    bitsAt e.toNat 60 4 ≠ 0 || bitsAt e.toNat 0 6 ≠ 0 || (e ≠ 0 && !(bs.any fun b => b.blk = e.toNat))
  let illegal (w : DWord) : Bool := (claimOf slots w).isNone && ((decodeBase w).isNone || l.illegalHere slots w)
  one 3 (decide (minor < bitsAt h 96 8) || decide (imin < bitsAt h 96 8)) (o + 12) ++
  words 3 (fun x => decide (bitsAt h 96 8 < sinceOf (opOf x.2))) ++
  one 4 (bitsAt h 104 8 ≠ 4) (o + 13) ++ one 4 (3 < hdrPLACE l.hdr || bitsAt h 67 2 ≠ 0) (o + 8) ++
  one 5 (l.sum ≠ 0) o ++
  words 6 (fun x => (opOf x.2 = 0xC2 && (x.1 = 127 || x.1 = last)) || badTarget x) ++
  (((upto l.exits.length).zip l.exits).filter fun e => badExit e.2).map (fun e => (7, at_ (l.words.length + e.1))) ++
  one 8 (entryFails l ws) o ++ (predFails l ws).map (fun i => (8, at_ i)) ++
  one 9 (l.classes.isEmpty || frameFails l || systolicFails l || ((hdrREEVE l.hdr || hdrHANDLER l.hdr) && hdrPLACE l.hdr ≠ 1)) o ++
  words 9 (fun x => exitFails bs l x.2 || ((opOf x.2 = 0x38C || opOf x.2 = 0x38D) && !hdrREEVE l.hdr) ||
    (opOf x.2 = 0x385 && !hdrHANDLER l.hdr)) ++
  (if hdrIDEM l.hdr then (idemFails ws).map fun i => (9, at_ i) else []) ++
  words 10 (fun x => illegal x.2) ++
  one 11 (levClash l.hdr l.words || capacityFails l) o ++ words 11 (fun x => rdlyFails x.2)

/-! Depths (R482). -/

/-- The greatest depth that a push of a block reaches, above its invocation's. -/
def Loaded.peak (l : Loaded) : Int :=
  let m := blockLevels l.hdr l.words
  let all := (codeWords l.words).flatMap fun x =>
    (levEdges (hdrSPACE l.hdr + 1) m x.1 x.2).map (fun e => e.2.bits) ++
      (match levFind m x.1 .a with | some v => [if opOf x.2 = 0x381 then v.bits + 1 else v.bits] | none => [])
  all.foldl max 0

/-- A return that an open CALL waits for: its block, and the blocks of the path before the call. -/
abbrev Return := Loaded × List Nat

/-- Where the tokens of one word take their strand: the next block, its depth, the open returns and the path. -/
def nextDepths (bs : List Loaded) (chan : Loaded → Nat) (l : Loaded) (d : Int) (st : List Return) (path : List Nat) (x : Nat × DWord)
    (lev : Int) : List (Loaded × Int × List Return × List Nat) :=
  let f (lo n : Nat) : Nat := bitsAt x.2.toNat lo n
  let here := l.blk :: path
  let dep := d + lev
  if opOf x.2 = 0x380 then ((exitBlock bs l (f 0 4)).map fun b => (b, dep, st, here)).toList
  else if opOf x.2 = 0x381 then
    let st := match exitBlock bs l (f 10 4) with | some r => (r, here) :: st | none => st
    ((exitBlock bs l (f 0 4)).map fun b => (b, dep + 1, st, here)).toList
  else if opOf x.2 = 0x382 then
    match st with
    | r :: st => if dep < 1 then [] else [(r.1, dep - 1, st, r.2)]
    | [] => []
  else if opOf x.2 = 0x383 then
    (bs.filter fun b => hdrHANDLER b.hdr && chan b = f 0 6).map fun b => (b, dep, [], here)
  else []

/-- The pushes that can exceed 44 from an entry of a block at depth `d`; each block of a path is taken once, which leaves a
cycle its first turn. -/
def depthFails (bs : List Loaded) (chan : Loaded → Nat) : Nat → Loaded → Int → List Return → List Nat → List Fail
  | 0, _, _, _, _ => []
  | n + 1, l, d, st, path =>
    if path.contains l.blk then []
    else
      let m := blockLevels l.hdr l.words
      (if 44 < d + l.peak then [(11, l.blk)] else []) ++
        (codeWords l.words).flatMap fun x => match levFind m x.1 .a with
          | none => []
          | some v => (nextDepths bs chan l d st path x v.bits).flatMap fun y => depthFails bs chan n y.1 y.2.1 y.2.2.1 y.2.2.2

/-! The whole image. -/

/-- The failed checks of kernel `k` of an image (R82, R236, R241, R480, R482); `whole` says that the list of its blocks was found
whole. -/
def kernelFails (img : List Byte) (bs : List Loaded) (whole : Bool) (chan : Loaded → Nat) (k : Nat) : List Fail :=
  let o := recField img 8 8 + 32 * k
  let f (x n : Nat) : Nat := recField img (o + x) n
  let dat := recField img 0x20 8
  let desc := f 8 8
  let mine := (bs.dropWhile fun b => b.blk ≠ f 0 8).take (f 0x14 4)
  let bad := f 0x14 4 = 0 || (whole && mine.length ≠ f 0x14 4) || 64 < f 0x10 2 || 1 < f 0x18 4 || f 0x1C 4 ≠ 0 || desc % 64 ≠ 0 ||
    (f 0x10 2 ≠ 0 && (desc < dat || dat + recField img 0x28 8 < desc + 64 * f 0x10 2))
  let allocs := mine.filter fun b => (codeWords b.words).any fun x => opOf x.2 = 0x100
  if bad then [(2, o)]
  else match mine with
    | [] => []
    | e :: _ =>
      (if hdrNENT e.hdr ≠ 0 then [(8, e.blk)] else []) ++ (if 6 < allocs.length then [(11, e.blk)] else []) ++
        depthFails bs chan ((bs.length + 1) * (bs.length + 1)) e 0 [] []

/-- The failed checks of a native image under the part's minor version and patch slots. -/
def imageFails (img : List Byte) (minor : Nat) (slots : List PatchSlot) (chan : Loaded → Nat) : List Fail :=
  if badHeader img || badRecords img then [(2, 0)]
  else
    let bs := imageBlocks img
    let imin := recField img 5 1
    (if minor < imin then [(3, 5)] else []) ++ bs.2 ++
    (upto (recField img 6 2)).flatMap (kernelFails img bs.1 bs.2.isEmpty chan) ++
    bs.1.flatMap (blockFails minor imin slots bs.1) ++
    (bs.1.filter fun b => hdrHANDLER b.hdr).flatMap fun b => depthFails bs.1 chan ((bs.1.length + 1) * (bs.1.length + 1)) b 0 [] []

/-- The failure of the lowest code, at its lowest offset (R405). -/
def firstFail (l : List Fail) : Option Fail := minBy (fun f => f.1 * 2 ^ 64 + f.2) l

/-! Requests (R403). -/

/-- A load request. -/
structure LoadReq where
  op   : Nat
  k    : Nat
  src  : Nat
  len  : Nat
  dst  : Nat
  dlen : Nat
  res  : Nat
  deriving DecidableEq, Repr

def loadReq (b : List Byte) : LoadReq :=
  let f (o n : Nat) : Nat := recField b o n
  { op := f 2 1, k := f 3 1 % 32, src := f 8 8, len := f 0x10 8, dst := f 0x18 8, dlen := f 0x20 8,
    res := bitsAt (f 0x28 8) 6 38 * 64 }

/-- Whether a request is refused with STATUS 1. -/
def badRequest (b : List Byte) : Bool :=
  let f (o n : Nat) : Nat := recField b o n
  f 0 2 ≠ 0x1D6E || f 2 1 = 0 || 3 < f 2 1 || 32 ≤ f 3 1 || f 4 4 ≠ 0 || 2 ^ 60 ≤ f 8 8 || 2 ^ 60 ≤ f 0x18 8 || f 0x18 8 % 64 ≠ 0 ||
  f 0x28 8 % 64 ≠ 0 || 2 ^ 44 ≤ f 0x28 8 || (b.drop 0x30).any (· ≠ 0) || (f 2 1 ≠ 3 && (f 0x10 8 < 64 || 2 ^ 32 < f 0x10 8))

/-- What a request ends with (R405). -/
structure LoadEnd where
  code : Nat
  srch : Nat := 0
  off  : Nat := 0
  base : Nat := 0
  plen : Nat := 0
  minr : Nat := 0
  deriving DecidableEq, Repr

/-- The result record. -/
def LoadEnd.record (e : LoadEnd) : List Byte :=
  leBytes 2 e.code ++ leBytes 2 0 ++ leBytes 4 e.srch ++ leBytes 8 e.off ++ leBytes 8 e.base ++ leBytes 8 e.plen ++ leBytes 1 e.minr ++
    recZero 31

/-- Every entry of the translation store goes (R412). -/
def State.flushStore (s : State) : State := { s with tc := [], tcFlushing := false }

/-- The request at the head of the queue ends: its record is written, DONE advances and IMG_DONE is raised (R404, step 6);
a flush that waited for it takes place. -/
def State.endLoad (s : State) (r : LoadReq) (e : LoadEnd) : Host.Outcome State Fault Refusal :=
  atPhysical r.res (.next (
    let s := s.writePa r.res e.record
    let s : State := { s with loadq := s.loadq.drop 1, loadFault := none, loadFailed := false }
    let s := (s.setField .imgStat 32 5 s.loadq.length).bump .imgStat 0 32
    let s := s.hostEvent { type := 5, slot := r.k, a := 0, b := s.regField .imgStat 0 32, cyc := 0 }
    if s.tcFlushing then s.flushStore else s))

/-- What the loader meets at a page: it goes on, waits, or ends with STATUS 12. -/
inductive PageGot | ok | wait | no
  deriving DecidableEq, Repr

/-- A page fault of the loader is waited on; FAIL and a missing permission end the request (R403). -/
def State.loaderMet (s : State) (g : UnitGot) : State × PageGot :=
  match g with
  | .ok _ _ => (s, .ok)
  | .wait d f => ({ s with loadFault := some (d, f) }, .wait)
  | .ats => (s, .wait)
  | _ => (s, .no)

/-- Translates the pages from an address on, under a need. -/
def State.pagesOk (s : State) (k : Nat) (need : Need) : Nat → Nat → State × PageGot
  | 0, _ => (s, .ok)
  | n + 1, va =>
    match s.unitAt 0 k va need srcIo with
    | (s, .inl g) => s.loaderMet g
    | (s, .inr _) => s.pagesOk k need n (va / 4096 * 4096 + 4096)

/-- The pages that a range of bytes touches. -/
def pageCount (va n : Nat) : Nat := (va % 4096 + n + 4095) / 4096

/-- Copies an image's bytes and poison from one virtual address to another, 64 bytes at a time. -/
def copyImage (k src dst len : Nat) : Nat → Nat → State → State
  | 0, _, s => s
  | n + 1, o, s =>
    let m := min 64 (len - o)
    match s.unitRead 0 k 4096 (src + o) m srcIo with
    | (s, .ok b p) => copyImage k src dst len n (o + 64) (s.unitWrite 0 k 4096 (dst + o) b p srcIo).1
    | (s, _) => s

/-- The bytes that step 3 of R404 changes, by image offset. -/
def relocations (img : List Byte) (dst : Nat) : List (Nat × List Byte) :=
  let block (l : Loaded) : List (Nat × List Byte) :=
    let exits := l.exits.map fun e => if e = 0 then e else BitVec.ofNat 64 ((e.toNat + dst) % 2 ^ 60)
    let bare : Loaded := { l with hdr := BitVec.ofNat 128 (l.hdr.toNat / 2 ^ 16 * 2 ^ 16), exits := exits }
    (l.blk, leBytes 2 ((2 ^ 16 - bare.sum) % 2 ^ 16)) ::
      ((upto exits.length).zip exits).map fun e => (l.blk + 16 + 8 * (l.words.length + e.1), leBytes 8 e.2.toNat)
  (imageBlocks img).1.flatMap block ++
    (launchOffsets img).map fun o => (o + 8, leBytes 8 ((recField img (o + 8) 8 + dst) % 2 ^ 64))

/-- Steps 2 to 6 of R404 for the native image that stands at DST. -/
def State.placeImage (s : State) (r : LoadReq) (img : List Byte) (srch : Nat) : Host.Outcome State Fault Refusal :=
  let chan (l : Loaded) : Nat := Config.handlerDecl (r.dst + l.blk) % 64
  let others := s.images.filter fun i => !(i.k = r.k && i.base = r.dst)
  match firstFail (imageFails img (s.regField .belId 40 8) s.slots chan) with
  | some f => s.endLoad r { code := f.1, off := f.2, srch := srch }
  | none =>
    if 64 ≤ (others.filter fun i => i.k = r.k).length then s.endLoad r { code := 13, srch := srch }
    else
      let s := foldState (fun s (p : Nat × List Byte) => (s.unitWrite 0 r.k 4096 (r.dst + p.1) p.2 false srcIo).1) s (relocations img r.dst)
      let s := s.codepub r.k r.dst img.length
      let s : State := { s with images := others ++ [{ k := r.k, base := r.dst, len := img.length, minr := recField img 5 1 }] }
      s.endLoad r { code := 0, srch := srch, base := r.dst, plen := img.length, minr := recField img 5 1 }

/-- The request at the head of the queue, when it may go on, is taken by the step for its OP; one with a bad OP or form is
refused by any. -/
def State.headRequest (s : State) (op : Nat) (act : LoadReq → Host.Outcome State Fault Refusal) : Host.Outcome State Fault Refusal :=
  match s.loadq with
  | [] => .next s
  | pa :: _ =>
    let waits := match s.loadFault with | some (d, f) => s.pfaults.any fun p => p.die = d && p.fid = f | none => false
    if waits then .next s
    else atPhysical pa (
      let b := s.readPaB pa 64
      let r := loadReq b
      if badRequest b then s.endLoad r { code := 1 }
      else if s.loadFailed then s.endLoad r { code := 12 }
      else if r.op = op then act r
      else .next s)

/-- LOAD_NATIVE (R403, R404): the loader places the native image of the request at the head of the queue. -/
def execLoadNative (s : State) : Host.Outcome State Fault Refusal :=
  s.headRequest 1 fun r =>
    match s.unitRead 0 r.k 4096 r.src r.len srcIo with
    | (s, .ok img _) =>
      if r.dlen < r.len then
        let f := firstFail (imageFails img (s.regField .belId 40 8) s.slots fun l => Config.handlerDecl (r.dst + l.blk) % 64)
        s.endLoad r (match f with | some f => if f.1 < 12 then { code := f.1, off := f.2 } else { code := 12 } | none => { code := 12 })
      else match s.pagesOk r.k { r := true, w := true, x := true } (pageCount r.dst r.len) r.dst with
        | (s, .ok) =>
          let s := if r.src = r.dst then s else copyImage r.k r.src r.dst r.len (r.len / 64 + 1) 0 s
          match s.unitRead 0 r.k 4096 r.dst r.len srcIo with
          | (s, .ok img _) => s.placeImage r img 0
          | (s, _) => s.endLoad r { code := 12 }
        | (s, .wait) => .next s
        | (s, .no) => s.endLoad r { code := 12 }
    | (s, g) => match s.loaderMet g with
      | (s, .no) => s.endLoad r { code := 12 }
      | (s, _) => .next s

/-! Pekor and the translation store (R406 to R412). -/

/-- Whether a Pekor image breaks R407. -/
def badPekor (b : List Byte) : Bool :=
  let n := recField b 6 2
  let desc (i : Nat) : Nat := 64 + 16 * i
  let types := (upto n).map fun i => recField b (desc i) 2
  let badSec (i : Nat) : Bool :=
    recField b (desc i) 2 = 0 || 6 < recField b (desc i) 2 || recField b (desc i + 2) 2 ≠ 0 || recField b (desc i + 8) 8 % 8 ≠ 0 ||
      b.length < recField b (desc i + 8) 8
  b.length < 64 || recField b 0 4 ≠ 0x524B4550 || recField b 4 1 ≠ 1 || recField b 5 1 ≠ 0 || n = 0 || 15 < n ||
    ((b.take 64).drop 8).any (· ≠ 0) || b.length < desc n || (upto n).any badSec || types.eraseDups.length ≠ n || !((Config.pekorParse b).map Pekor.ok).getD false

/-- The key of an image in the translation store (R410). -/
def State.storeKey (s : State) (b : List Byte) : List Byte :=
  leBytes 32 (Config.sha256 b).toNat ++ leBytes 1 (s.regField .belId 40 8) ++ leBytes 4 (s.regField .belId 0 32)

/-- Bytes that the store's entries take. -/
def storeUsed (l : List TcEntry) : Nat := (l.map fun e => e.image.length).sum

/-- The entry that R411 evicts first; ties go to the lower index. -/
def victimEntry (now : Nat) (l : List TcEntry) : Option TcEntry :=
  minBy (fun e => 2 ^ 128 - (now - e.lastUse) * (200000 - min e.er 100000)) l

/-- Evicts entries until an image of `n` bytes fits. -/
def evictRoom (n : Nat) : Nat → State → State
  | 0, s => s
  | fuel + 1, s =>
    if storeUsed s.tc + n ≤ 2 ^ 34 && s.tc.length < 65536 then s
    else match victimEntry s.tcLook s.tc with
      | none => s
      | some e => evictRoom n fuel (({ s with tc := dropFirst (fun x => x = e) s.tc }).bumpSat .tcStat 32 16)

/-- Inserts a translated image as one event (R411). ER of the blocks that it takes is a free value (DESIGN CHOICE, log 19). -/
def State.insertImage (s : State) (key img : List Byte) : State × Bool :=
  if s.regField .tcCtl 0 1 = 0 || 2 ^ 26 < img.length then (s, false)
  else
    let s := evictRoom img.length s.tc.length s
    let e : TcEntry := { key := key, image := img, digest := Config.sha256 img, lastUse := s.tcLook, er := s.choice }
    (({ s with tc := s.tc ++ [e] }).chose, true)

/-- A lookup (R411): the image of a matching entry whose digest holds. -/
def State.lookupImage (s : State) (key : List Byte) : State × Option (List Byte) :=
  let s : State := { s with tcLook := s.tcLook + 1 }
  match if s.regField .tcCtl 0 1 = 1 then s.tc.find? fun e => e.key = key else none with
  | none => (s.bumpSat .tcStat 16 16, none)
  | some e =>
    if Config.sha256 e.image = e.digest then
      let use (x : TcEntry) : TcEntry := { x with lastUse := s.tcLook }
      (({ s with tc := mapFirst (fun x => x = e) use s.tc }).bumpSat .tcStat 0 16, some e.image)
    else ((({ s with tc := dropFirst (fun x => x = e) s.tc }).bumpSat .tcStat 48 16).bumpSat .tcStat 16 16, none)

/-- The native image that a Pekor image gives: from the store, else translated and inserted, with SRCH; none where the
translator refuses, or forms no image that passes the loader's checks (R409). -/
def State.translated (s : State) (b : List Byte) (dst : Nat) : State × Option (List Byte × Nat) :=
  match s.lookupImage (s.storeKey b) with
  | (s, some img) => (s, some (img, 1))
  | (s, none) =>
    match Config.pekorTranslate b (s.regField .belId 40 8) (s.regField .belId 0 32) with
    | none => (s, none)
    | some code =>
      if (firstFail (imageFails code.image (s.regField .belId 40 8) s.slots fun l => Config.handlerDecl (dst + l.blk) % 64)).isSome then (s, none)
      else
        let (s, ins) := s.insertImage (s.storeKey b) code.image
        (s, some (code.image, if ins then 2 else 0))

/-- LOAD_PEKOR (R403, R404, R409 to R411): the loader translates the Pekor image of the request at the head of the queue and
places what results. -/
def execLoadPekor (s : State) : Host.Outcome State Fault Refusal :=
  s.headRequest 2 fun r =>
    match s.unitRead 0 r.k 4096 r.src r.len srcIo with
    | (s, .ok b _) =>
      match s.pagesOk r.k { r := true, w := true, x := true } (pageCount r.dst r.dlen) r.dst with
      | (s, .wait) => .next s
      | (s, got) =>
        if badPekor b then s.endLoad r { code := 14 }
        else match s.translated b r.dst with
          | (s, none) => s.endLoad r { code := 15 }
          | (s, some (img, srch)) =>
            if r.dlen < img.length || got = .no then s.endLoad r { code := 12, srch := srch }
            else (s.unitWrite 0 r.k 4096 r.dst img false srcIo).1.placeImage r img srch
    | (s, g) => match s.loaderMet g with
      | (s, .no) => s.endLoad r { code := 12 }
      | (s, _) => .next s

/-- UNLOAD (R405): the image at DST leaves its slot's table, unless an instance of the slot names it. -/
def execUnload (s : State) : Host.Outcome State Fault Refusal :=
  s.headRequest 3 fun r =>
    if !(s.images.any fun i => i.k = r.k && i.base = r.dst) || s.insts.any (fun i => i.k = r.k && i.base = r.dst) then
      s.endLoad r { code := 16 }
    else ({ s with images := s.images.filter fun i => !(i.k = r.k && i.base = r.dst) }).endLoad r { code := 0, base := r.dst }

/-- TC_FLUSH (R412): a write `val` of TC_CTL with FLUSH; it waits for the request in progress. -/
def execTcFlush (s : State) : Host.Outcome State Fault Refusal :=
  let s := s.writeReg .tcCtl s.arg.val
  .next (if s.loadFault.isSome then { s with tcFlushing := true } else s.flushStore)

end Sys2Proof.Machine
end

