-- ==== Sys2Proof/Machine/Belfry.lean ====
section
/-! DEFINITION. Patch images and firmware images: their checks (R440, R444 to R446, R465), and how they are installed (R448,
R450). -/

namespace Sys2Proof.Machine

/-! The limits of a patch image. -/

/-- Whether every byte of a field is zero. -/
def zeroField (b : List Byte) (o n : Nat) : Bool := ((b.drop o).take n).all (· = 0)

/-- A target field of a replacement word as an ordinary field (R440); none for a reserved value. -/
def repTarget (nrep v : Nat) : Option Nat :=
  if v = 0x1FF then some v
  else if 0x100 ≤ v && v < 0x100 + 4 * nrep then some (v - 0x100)
  else if 0x180 ≤ v && v < 0x183 then some 0
  else none

/-- A replacement word with its targets read as ordinary ones; none where one is reserved. -/
def plainTargets (nrep : Nat) (w : DWord) : Option DWord :=
  match repTarget nrep (bitsAt w.toNat 31 9), repTarget nrep (bitsAt w.toNat 22 9) with
  | some a, some b =>
    let w := putField (putField w 31 9 a) 22 9 b
    if formatB (opOf w) then (repTarget nrep (bitsAt w.toNat 13 9)).map fun c => putField w 13 9 c else some w
  | _, _ => none

/-- Whether a replacement word is legal (R76, R440). An X that will be copied is left unjudged: some X makes the word legal,
and the values tried hold one for every opcode that has any. -/
def repLegal (nrep : Nat) (copies : Bool) (w : DWord) : Bool :=
  match plainTargets nrep w with
  | none => false
  | some w =>
    if copies then ((upto 16) ++ [0x801]).any fun x => (decodeBase (putField w 0 22 x)).isSome else (decodeBase w).isSome

/-- The slots of replacement words that a replacement word's targets feed, as 4 j + s. -/
def repFeeds (w : DWord) : List Nat :=
  ([bitsAt w.toNat 31 9, bitsAt w.toNat 22 9] ++ if formatB (opOf w) then [bitsAt w.toNat 13 9] else []).filterMap fun v =>
    if 0x100 ≤ v && v < 0x110 then some (v - 0x100) else none

/-- The slots that a replacement word needs, once the slots that are fed are known (R22, R134). -/
def repNeeds (w : DWord) (fed : Slot → Bool) : List Slot :=
  match decodeWord (putField (putField w 31 9 0x1FF) 22 9 0x1FF) with
  | some i =>
    i.ownSlots ++ (match i.optionalSlot with | some sl => if fed sl then [sl] else [] | none => []) ++
      (if pmOf w ≠ 0 && fed .p then [.p] else [])
  | none => [.a]

/-- Whether a slot record breaks R436 or R440. -/
def badSlot (b : List Byte) (p : PatchSlot) : Bool :=
  let f (o : Nat) : Nat := recField b o 1
  let ents := (upto 4).map fun s => f (0x0C + s)
  let fed (j : Nat) (sl : Slot) : Bool :=
    (ents.any fun e => bitsAt e 7 1 = 1 && bitsAt e 0 4 = 4 * j + sl.toBits.toNat) ||
      (upto p.nrep).any fun i => i ≠ j && (repFeeds ((p.rep.drop i).headD 0)).contains (4 * j + sl.toBits.toNat)
  let only7 := p.opm.toNat / 64 = 15 && p.opv.toNat / 64 = 7
  let badRep (j : Nat) : Bool :=
    let w := (p.rep.drop j).headD 0
    let g := opOf w / 64
    let copies := p.cpx.getLsbD j
    opOf w = 0x0C2 || g = 4 || g = 0xC || g = 0xE || g = 0xF || !repLegal p.nrep copies w || (copies && formatB (opOf w)) ||
      (repNeeds w (fed j)).any (fun sl => !fed j sl) || (g = 7 && (j ≠ 0 || !only7))
  16 ≤ f 0 || 4 ≤ f 1 || 1024 ≤ recField b 2 2 || 1024 ≤ recField b 4 2 || 32 ≤ f 6 || 8 ≤ f 7 || 16 ≤ f 0x0B ||
    (ents.any fun e => bitsAt e 4 3 ≠ 0) || !zeroField b 0x14 12 || p.hoff % 64 ≠ 0 ||
    (if p.act = 2 then p.nrep = 0 || 4 < p.nrep else p.nrep ≠ 0) || ((p.rep.drop p.nrep).any (· ≠ 0)) ||
    (p.act = 2 && ((ents.any fun e => bitsAt e 7 1 = 1 && decide (p.nrep ≤ bitsAt e 2 2)) || (upto p.nrep).any badRep))

/-- A hook record (R444). -/
def parseHook (b : List Byte) (n : Nat) : Hook :=
  { n := n, kind := recField b 0 1, act := recField b 1 1, cnt := recField b 2 1, scls := recField b 3 1, tcode := recField b 4 2,
    cause := recField b 6 1 }

/-- Whether a hook record breaks R444. -/
def badHook (b : List Byte) : Bool :=
  let h := parseHook b 0
  2 < h.kind || 2 < h.act || (if h.act = 1 then h.cnt = 0 || 15 < h.cnt else h.cnt ≠ 0) || 6 < h.scls || !zeroField b 7 9 ||
    (h.act = 1 && !(h.kind = 1 && (h.scls = 0 || h.scls = 6))) || (h.act = 2 && h.kind ≠ 2)

/-- The hooks of an image. -/
def imageHooks (b : List Byte) : List Hook :=
  (upto (recField b 0x0E 1)).map fun n => parseHook (b.drop (0x80 + 64 * recField b 0x0D 1 + 16 * n)) n

/-- The code area of a patch image. -/
def patchArea (b : List Byte) : List Byte := (b.drop (recField b 0x10 8)).take (recField b 0x18 8)

/-- Whether the patch handler blocks break R445: every HOFF names one, which is entered at DEP 0 and pushes no tag past 44 (R19,
R482), and the code area has at most 256 words. -/
def badHandlers (b : List Byte) : Bool :=
  let area := patchArea b
  let bs := walkBlocks area area.length (area.length / 64 + 1) 0
  let ok (l : Loaded) : Bool := hdrHANDLER l.hdr && hdrNENT l.hdr = 4 && l.exits.all (· = 0) &&
    (blockFails (recField b 0x0C 1) 255 [] bs.1 l).isEmpty && (depthFails bs.1 (fun _ => 64) 1 l 0 [] []).isEmpty
  let named (p : PatchSlot) : Bool := p.act < 2 || bs.1.any fun l => l.blk = p.hoff && ok l
  !bs.2.isEmpty || (bs.1.any fun l => !(l.exits.all (· = 0))) || 256 < (bs.1.map fun l => l.words.length).sum ||
    !(imageSlots b).all named

/-- Whether a patch image breaks R445. -/
def badPatchImage (b : List Byte) : Bool :=
  let f (o n : Nat) : Nat := recField b o n
  let ns := f 0x0D 1
  let nh := f 0x0E 1
  let recs := 0x80 + 64 * ns + 16 * nh
  let slot (n : Nat) : Bool := let r := b.drop (0x80 + 64 * n); badSlot r (parseSlot r n)
  b.length < 256 || f 0 4 ≠ 0x4C454259 || f 4 2 ≠ 1 || f 8 4 = 0 || f 0x0C 1 = 0 || 16 < ns || 8 < nh || f 0x0F 1 ≠ 0 ||
    f 0x10 8 % 64 ≠ 0 || 2048 < f 0x18 8 || b.length < f 0x10 8 + f 0x18 8 + 64 || f 0x10 8 < recs || b.length < recs + 64 ||
    !zeroField b 0x60 32 || (upto ns).any slot || (upto nh).any (fun n => badHook (b.drop (0x80 + 64 * ns + 16 * n))) ||
    badHandlers b

/-- The checks of R446 in order: the key, the signature, the version against the counter; 0 where all pass. -/
def signCheck (b : List Byte) (svnmin : Nat) : Nat :=
  let key := (b.drop 0x20).take 64
  if Config.sha256 key ≠ Config.fusedKeyHash then 3
  else if !Config.ecdsaValid key (Config.sha256 (b.take (b.length - 64))) (b.drop (b.length - 64)) then 4
  else if recField b 6 2 < svnmin then 5
  else 0

/-- RES of R448 for a patch image: 0 where it is accepted. -/
def patchCheck (b : List Byte) (svnmin : Nat) : Nat := if badPatchImage b then 2 else signCheck b svnmin

/-- RES of R465 for a firmware image: 0 where it is accepted. -/
def fwCheck (b : List Byte) (svnmin : Nat) : Nat :=
  let f (o n : Nat) : Nat := recField b o n
  if b.length < 256 || f 0 4 ≠ 0x49574659 || f 4 2 ≠ 1 || f 0x0C 4 ≠ 0 || f 0x10 8 % 64 ≠ 0 || b.length < f 0x10 8 + f 0x18 8 + 64 ||
      f 0x10 8 < 0x80 || !zeroField b 0x60 32 then 2
  else signCheck b svnmin

/-! Flash copies (R447). -/

/-- Rank of a copy: SVN, then PLEVEL or VERSION; an empty copy ranks lowest. -/
def copyRank (b : List Byte) : Nat := if b = [] then 0 else recField b 6 2 * 2 ^ 32 + recField b 8 4 + 1

/-- The copy that a persisted image replaces: the lower one, of equals A (DESIGN CHOICE, log 62). -/
def lowerCopy (l : List (List Byte)) : Nat := if copyRank ((l.drop 1).headD []) < copyRank (l.headD []) then 1 else 0

/-- The copies in the order in which boot tries them. -/
def copyOrder (l : List (List Byte)) : List Nat := if lowerCopy l = 1 then [0, 1] else [1, 0]

/-! A load at run time (R448). -/

/-- A request of R448 or R465 at a physical address: the image's address, its length, and PERSIST; none where its format is
wrong. -/
def State.fwRequest (s : State) (pa top : Nat) : Option (Nat × Nat × Bool) :=
  let b := s.readPaB pa 16
  let addr := recField b 0 8
  let len := recField b 8 4
  if addr % 64 ≠ 0 || reservedPa addr || len < 256 || top < len || 2 ≤ recField b 0x0C 1 || !zeroField b 0x0D 3 then none
  else some (addr, len, recField b 0x0C 1 = 1)

/-- The outcome of the last load in BEL_STAT. -/
def State.belEnds (s : State) (res : Nat) : State := ({ s with belLoad := none }.setField .belStat 48 8 res).setField .belStat 63 1 0

/-- BELFRY_LOAD (R448, step 1): a write `val` of BEL_LDREQ; discarded while a load is in progress. -/
def execBelfryLoad (s : State) : Host.Outcome State Fault Refusal :=
  let pa := bitsAt s.arg.val.toNat 4 40 * 16
  if s.belLoad.isSome then .next s
  else atPhysical pa (.next (match s.fwRequest pa (2 ^ 20) with
    | none => s.belEnds 1
    | some (addr, len, persist) =>
      let b := s.readPaB addr len
      match patchCheck b (s.regField .belStat 32 16) with
      | 0 => ({ s with belLoad := some { bytes := b, persist := persist, started := s.cyc } }).setField .belStat 63 1 1
      | n => s.belEnds n))

/-- Whether the drain of a load has ended: no configuration is in progress, and no affected block stands on a unit (R448,
step 3). -/
def State.belDrained (s : State) (new_ : List PatchSlot) : Bool :=
  let onUnit (h : Holder) : Bool := match h.barn? with | some b => decide (b < 64) | none => true
  s.fetches.isEmpty && !(s.fab.blocks.any fun l => onUnit l.holder && (l.st = .configuring || l.affected s.slots new_))

/-- The slots, hooks and patch handlers of an image take force (R448, step 4; R402, R412, R450). -/
def State.installPatch (s : State) (b : List Byte) : State :=
  let minr := recField b 0x0C 1
  let plevel := recField b 8 4
  let svn := recField b 6 2
  let id := BitVec.ofNat 64 (svn * 2 ^ 48 + minr * 2 ^ 40 + plevel)
  let fresh (l : Loaded) : Loaded := if l.holder.temporal then { l with refetch := true } else l
  let age (i : Image) : Image := if minr < i.minr then { i with stale := true } else i
  let s : State := { s with slots := imageSlots b, hooks := imageHooks b, patchCode := patchArea b, patchImg := b, ccache := [],
                            images := s.images.map age, tc := if s.tcLevel = plevel then s.tc else [], tcLevel := plevel,
                            fab := { s.fab with blocks := s.fab.blocks.map fresh } }
  (s.setReg .belId id).setField .belStat 32 16 (max svn (s.regField .belStat 32 16))

/-- BELFRY_SWITCH (R448, steps 4 and 5): cycle S. With `flag` the flash store fails to take a persisted image. -/
def execBelfrySwitch (s : State) : Host.Outcome State Fault Refusal :=
  .next (match s.belLoad with
  | none => s
  | some r =>
    if !s.belDrained (imageSlots r.bytes) || r.started + 1024 * s.regField .belCtl 0 24 < s.cyc then s
    else
      let s := ((s.installPatch r.bytes).bumpSat .belStat 0 16).belEnds (if r.persist && s.arg.flag then 7 else 0)
      if r.persist && !s.arg.flag then { s with belCopies := putAt s.belCopies (lowerCopy s.belCopies) r.bytes } else s)

/-- BELFRY_DRAIN_TIMEOUT (R448, step 4): the drain has not finished in 1,024 × DRT cycles. -/
def execBelfryDrainTimeout (s : State) : Host.Outcome State Fault Refusal :=
  .next (match s.belLoad with
  | none => s
  | some r => if r.started + 1024 * s.regField .belCtl 0 24 ≤ s.cyc && !s.belDrained (imageSlots r.bytes) then s.belEnds 6 else s)

/-! Firmware (R465). -/

def State.fwEnds (s : State) (res : Nat) : State := ({ s with fwReq := none }.setField .fwStat 48 8 res).setField .fwStat 63 1 0

/-- FW_LOAD (R465): a write `val` of FW_LDREQ; discarded while a load is in progress. -/
def execFwLoad (s : State) : Host.Outcome State Fault Refusal :=
  let pa := bitsAt s.arg.val.toNat 4 40 * 16
  if s.fwReq.isSome then .next s
  else atPhysical pa (.next (match s.fwRequest pa (2 ^ 24) with
    | none => s.fwEnds 1
    | some (addr, len, persist) =>
      let b := s.readPaB addr len
      match fwCheck b (s.regField .fwStat 32 16) with
      | 0 => ({ s with fwReq := some { bytes := b, persist := persist, started := s.cyc } }).setField .fwStat 63 1 1
      | n => s.fwEnds n))

/-- A firmware image runs. -/
def State.installFw (s : State) (b : List Byte) : State :=
  (({ s with fwImg := b }).setField .fwStat 0 32 (recField b 8 4)).setField .fwStat 32 16 (max (recField b 6 2) (s.regField .fwStat 32 16))

/-- FW_TAKEOVER (R465): the new firmware takes over once no load request is in progress. With `flag` the flash store fails to
take a persisted image. -/
def execFwTakeover (s : State) : Host.Outcome State Fault Refusal :=
  .next (match s.fwReq with
  | none => s
  | some r =>
    if s.loadFault.isSome then s
    else
      let s := (s.installFw r.bytes).fwEnds (if r.persist && s.arg.flag then 7 else 0)
      if r.persist && !s.arg.flag then { s with fwCopies := putAt s.fwCopies (lowerCopy s.fwCopies) r.bytes } else s)

end Sys2Proof.Machine
end

