-- ==== Sys2Proof/Machine/Freeze.lean ====
section
/-! DEFINITION. Hardware faults and the freeze of a partition (R432, R434, R459). -/

namespace Sys2Proof.Machine

/-- The contexts placed in a partition: those of a barn, or the one that the Reeve runs. -/
def State.placedPart (s : State) (p : Nat) : List Nat := if p = 64 then s.reeveK.toList else s.placedIn p

/-- A freeze begins with a detection (R434); one that freezes already keeps its registers. -/
def State.freeze (s : State) (p cause cls loc : Nat) : State :=
  if s.freezes.any fun f => f.p = p then s
  else
    let s : State := { s with freezes := s.freezes ++ [{ p := p, at_ := s.cyc }] }
    let s := (s.setReg (.frzCyc p) (BitVec.ofNat 64 s.cyc)).setReg (.frzStat p)
      (BitVec.ofNat 64 (cause % 256 * 2 ^ 16 + cls % 16 * 2 ^ 12 + loc % 2 ^ 12))
    let s := s.hostEvent { type := 6, slot := 0xFF, a := p, b := 0, cyc := 0 }
    if s.regField .gongCtl 30 1 = 1 then s.gong 3 0 else s

/-- Marks the token at a place of the input queues as poisoned. -/
def poisonToken (l : List QTok) (n : Nat) : List QTok :=
  match (l.drop n).head? with
  | some q => putAt l n { q with tok := { q.tok with poi := true } }
  | none => l

/-- A set with its token of a slot poisoned. -/
def PSet.poisoned (x : PSet) (sl : Slot) : PSet :=
  let f (t : Option Tok) : Option Tok := t.map fun t => { t with poi := true }
  match sl with
  | .a => { x with a := f x.a }
  | .b => { x with b := f x.b }
  | .c => { x with c := f x.c }
  | .p => { x with p := f x.p }

/-- Token data in error (class 2): place `j` of the input queues, of the sets, of the edge queues or of the channel queues, as `u`
of the event says. -/
def Fabric.badToken (g : Fabric) (where_ j : Nat) (sl : Slot) : Fabric :=
  let poi (t : Tok) : Tok := { t with poi := true }
  match where_ with
  | 0 => { g with queues := poisonToken g.queues j }
  | 1 => { g with sets := match (g.sets.drop j).head? with | some x => putAt g.sets j (x.poisoned sl) | none => g.sets }
  | 2 => { g with eqs := match (g.eqs.drop j).head? with | some x => putAt g.eqs j { x with tok := x.tok.map poi } | none => g.eqs }
  | _ => { g with chans := match (g.chans.drop j).head? with | some x => putAt g.chans j { x with tok := poi x.tok } | none => g.chans }

/-- A latch half or an accumulator entry of region `j` in error (class 3). -/
def Fabric.badRegion (g : Fabric) (j n : Nat) (acc : Bool) : Fabric :=
  match (g.regions.drop j).head? with
  | none => g
  | some r =>
    let r := if acc then { r with accs := match (r.accs.drop n).head? with | some e => putAt r.accs n { e with poi := true } | none => r.accs }
      else if n = 0 then { r with half0 := { r.half0 with poi := true } }
      else { r with half1 := { r.half1 with poi := true } }
    { g with regions := putAt g.regions j r }

/-- An uncorrected error of class 2, 3 or 4 in barn `p` (R432): a token takes POI = 1, a word of the weight buffer, a latch or an
accumulator is poisoned, or the bytes of buffered store `j` are. `k` says which structure of the class, and `val` where. -/
def State.softError (s : State) (p cls : Nat) : State :=
  let v := s.arg.val.toNat
  let e : ErrEntry := { unit := p, cls := cls, slot := 0xFF, out := 0, loc := s.arg.j, addr := 0, cyc := 0 }
  s.uncorrected e 0 fun s =>
    if cls = 2 then s.modFab fun g => g.badToken s.arg.k s.arg.j s.arg.slot
    else if cls = 3 then
      (if s.arg.k = 0 then s.setPoison .wbuf (p * 2 ^ 21 + v % 2 ^ 21) true
      else s.modFab fun g => g.badRegion s.arg.j v (decide (s.arg.k = 2)))
    else
      match (s.fab.sbuf.drop s.arg.j).head?.bind SbufEntry.acc with
      | some id => s.modAcc id fun a => { a with poi := true }
      | none => s

/-- HW_FAULT_DETECT (R432, R434): partition `n`, cause `m`, and for cause 0 class `u` with place `k`. A class-5 error, a failed
protocol or parity check freezes the partition; an I/O-die mismatch (cause 4) every one. Errors of classes 2 to 4 poison. With
`flag`, the error was corrected, and is counted. -/
def execHwFaultDetect (s : State) : Host.Outcome State Fault Refusal :=
  let p := s.arg.n
  let cause := s.arg.m
  let cls := s.arg.u
  .next (if cause = 4 then foldState (fun s q => s.freeze q 4 0 0) s (upto 65)
  else if 65 ≤ p || 3 ≤ cause then s
  else if cause ≠ 0 then s.freeze p cause 0 0
  else if s.arg.flag then (if cls ≤ 6 then s.bumpSat (.errCe p cls) 0 32 else s)
  else if cls = 5 then
    ((((s.errHook 5).1.bumpSat (.errUe p 5) 0 32)).logErr { unit := p, cls := 5, slot := 0xFF, out := 2, loc := s.arg.k, addr := 0, cyc := 0 }).freeze
      p 0 5 s.arg.k
  else if 2 ≤ cls && cls ≤ 4 && p < 64 then s.softError p cls
  else s)

/-- A context placed in a frozen partition is stopped (R434). -/
def State.freezeStop (s : State) (k : Nat) : State :=
  match s.ctxState k with
  | 0 => { (s.setCtxState k 1) with stops := s.stops ++ [{ k := k, freeze := true, asked := false }] }
  | 1 => s.modStop k fun x => { x with freeze := true }
  | _ => s

/-- PARTITION_CLOCK_GATE (R434): partition `n` is gated from the eighth cycle after detection on, and its contexts are
stopped. -/
def execPartitionClockGate (s : State) : Host.Outcome State Fault Refusal :=
  let p := s.arg.n
  .next (match s.freezes.find? fun f => f.p = p with
  | none => s
  | some f =>
    if f.gated || s.cyc < f.at_ + 8 then s
    else
      let gate (x : Freeze) : Freeze := if x.p = p then { x with gated := true } else x
      let s : State := { s with freezes := s.freezes.map gate }
      foldState State.freezeStop (s.setField (.frzStat p) 31 1 1) (s.placedPart p))

/-- MGMT_FREEZE_REQUEST (R434): the management port freezes partition `n`. -/
def execMgmtFreezeRequest (s : State) : Host.Outcome State Fault Refusal :=
  .next (if s.arg.n < 65 then s.freeze s.arg.n 3 0 0 else s)

/-- A partition's clock is ungated. -/
def State.ungate (s : State) (p : Nat) : State :=
  ({ s with freezes := s.freezes.filter fun f => f.p ≠ p }).setField (.frzStat p) 31 1 0

/-- Whether the clock of a partition is gated, so that a write of FRZ_ACT can act. -/
def State.frozenPart (s : State) (p : Nat) : Bool := s.freezes.any fun f => f.p = p && f.gated

/-- A context that only freezes stopped runs again, once no partition that it is placed in is frozen. -/
def State.thaw (s : State) (k : Nat) : State :=
  if (upto 65).any fun q => s.frozenPart q && (s.placedPart q).contains k then s
  else match s.stop? k with
    | some x =>
      if !x.freeze then s
      else if x.asked then s.modStop k fun x => { x with freeze := false }
      else ({ s with stops := s.stops.filter fun y => y.k ≠ k }).setCtxState k 0
    | none => s

/-- FRZ_RESUME (R459, R476): a write of FRZ_ACT of partition `n` with ACT 0, for a freeze by request; refused while the part
is too hot. -/
def execFrzResume (s : State) : Host.Outcome State Fault Refusal :=
  let p := s.arg.n
  .next (if !s.frozenPart p || s.regField (.frzStat p) 16 8 ≠ 3 || s.overtemp then s
  else foldState State.thaw (s.ungate p) (s.placedPart p))

/-- The slots of a frozen partition are released, it is scrubbed and ungated (R459). -/
def State.frzKill (s : State) (p : Nat) : State :=
  let s := foldState State.release s (s.placedPart p)
  let s := if p < 64 then
      (s.zeroUnits { barn := p, k := 0, weight := false, base := 0, size := 48 }).zeroUnits
        { barn := p, k := 0, weight := true, base := 0, size := 32 }
    else s
  s.ungate p

/-- FRZ_KILL (R459): a write with ACT 1. -/
def execFrzKill (s : State) : Host.Outcome State Fault Refusal :=
  .next (if s.frozenPart s.arg.n then s.frzKill s.arg.n else s)

/-- FRZ_KILL_FENCE (R459): a write with ACT 2; the barn is then fenced. -/
def execFrzKillFence (s : State) : Host.Outcome State Fault Refusal :=
  let p := s.arg.n
  .next (if s.frozenPart p then
    let s := s.frzKill p
    if p < 64 then s.setField (.svcCtl p) 31 1 1 else s
  else s)

end Sys2Proof.Machine
end

