-- ==== Sys2Proof/Machine/Service.lean ====
section
/-! DEFINITION. The Gong and its snapshots (R453 to R455), the memory checkpoint (R460), and service without a stop (R461 to
R464). -/

namespace Sys2Proof.Machine

/-! The Gong. -/

/-- The value that a write of a register leaves when it covers all 8 bytes (part 0), the low half (part 1) or the high half
(part 2) (R479). -/
def partMask (part : Nat) : DWord := if part = 1 then 0xFFFFFFFF else if part = 2 then 0xFFFFFFFF00000000 else 0xFFFFFFFFFFFFFFFF

/-- A write of part of a 64-bit register by its access codes. -/
def State.writePart (s : State) (r : Reg) (v : DWord) (part : Nat) : State :=
  let m := partMask part
  s.setReg r ((s.reg r &&& ~~~m) ||| (r.written (s.reg r) v &&& m))

/-- A write of GONG_CTL (R454): writing ARM with 1 clears MISSED. -/
def State.writeGong (s : State) (v : DWord) (part : Nat) : State :=
  let s := s.writePart .gongCtl v part
  if part ≠ 2 && v.getLsbD 31 then s.setField .gongCtl 16 8 0 else s

/-- GONG_RAISE (R453, R454): a host write `val` of GONG_CTL with RAISE; `j` is the part that it covers. -/
def execGongRaise (s : State) : Host.Outcome State Fault Refusal := .next ((s.writeGong s.arg.val s.arg.j).gong 1 0)

/-- MGMT_GONG_REQUEST (R453). -/
def execMgmtGongRequest (s : State) : Host.Outcome State Fault Refusal := .next (s.gong 2 0)

/-- Numbers of the units that hold snapshot registers (R455, DESIGN CHOICE, log 61). -/
def snapSlot (k : Nat) : Nat := 1 + k
def snapBarn (b : Nat) : Nat := 64 + b
def snapNode (n : Nat) : Nat := 256 + n
def snapEngine (e : Nat) : Nat := 1024 + e
def snapPort (p : Nat) : Nat := 1088 + p

/-- Values of a unit's snapshot registers, in the order of R455. -/
def snapItems (unit : Nat) (vals : List Nat) : List SnapItem :=
  ((upto vals.length).zip vals).map fun x => { unit := unit, item := x.1, val := x.2 }

/-- The state of a bay: 0 free, 1 configuring, 2 serving, 3 closing (R243). -/
def State.baySnap (s : State) (b f : Nat) : Nat :=
  match s.fab.blocks.find? fun l => l.holder = .bay b f with
  | some l => match l.st with | .configuring => 1 | .serving => 2 | .closing => 3
  | none => if s.fetches.any fun x => x.holder = .bay b f then 1 else 0

/-- The cycle up to which a partition's latches have moved: a gated one stands at its gating (R434). -/
def State.partCyc (s : State) (p : Nat) : Nat :=
  match s.freezes.find? fun f => f.p = p with
  | some f => min s.cyc (f.at_ + 7)
  | none => s.cyc

/-- The greatest age counter of a barn (R259): of a queue's head, a set, an edge or channel queue's head, a wait on a presence bit
or an instruction that waits. -/
def State.oldestAge (s : State) (b : Nat) : Nat :=
  let g := s.fab
  let ts := ((g.queues.filter fun q => q.site.holder.barn? = some b).map fun q => max q.since q.head) ++
    ((g.sets.filter fun x => x.site.holder.barn? = some b).map PSet.since) ++
    ((g.eqs.filter fun e => e.barn = b).filterMap EqTok.age) ++ ((g.chans.filter fun c => c.barn = b).filterMap ChanWord.age) ++
    ((g.accs.filter fun a => a.barn = b && a.wf && a.waiting).map Access.since) ++
    ((g.waits.filter fun w => w.fire.site.holder.barn? = some b).map Wait.since) ++
    ((g.cores.filter fun c => c.id.barn = b && c.waiting).map Core.since)
  (ts.map fun t => s.partCyc b - t).foldl max 0

def State.slotSnap (s : State) (k : Nat) : List SnapItem :=
  let r (x : Reg) : Nat := (s.reg x).toNat
  snapItems (snapSlot k) ([r (.flagLo k), r (.flagHi k)] ++ ((upto 16).map fun n => r (.amax k n)) ++
    [r (.ctxRun k), r (.sheafStat k), (s.traps.filter fun t => t.k = k).length])

def State.barnSnap (s : State) (b : Nat) : List SnapItem :=
  let is := s.insts.filter fun i => i.barns.contains b
  let loft := ((upto 8).map fun f => s.loftUsed (.bay b f)).sum
  snapItems (snapBarn b) ([s.countOf b, (is.map Inst.ops).sum, (is.map Inst.bytes).sum] ++ ((upto 8).map (s.baySnap b)) ++
    [loft, s.oldestAge b] ++ ((upto 7).map fun n => (s.reg (.errCe b n)).toNat) ++ ((upto 7).map fun n => (s.reg (.errUe b n)).toNat) ++
    [(s.reg (.svcCtl b)).toNat])

/-- Requests that wait at a memory node: 512 nodes, one for each channel. -/
def State.nodeDepth (s : State) (n : Nat) : Nat :=
  (s.fab.accs.filter fun a => !a.done && match (a.pieces.drop a.pos).head?.bind Piece.place with
    | some (.dev, x) => decide (x / 2 ^ 31 = n)
    | _ => false).length

def State.nodeSnap (s : State) (n : Nat) : List SnapItem :=
  snapItems (snapNode n) [s.nodeDepth n, s.countOf (1000 + n), (s.reg (.errCe memUnit 6)).toNat, (s.reg (.errUe memUnit 6)).toNat]

def State.engineSnap (s : State) (e : Nat) : List SnapItem :=
  snapItems (snapEngine e) [(s.fab.cmds.filter fun c => c.eng = e).length, s.countOf (2000 + e)]

def State.portSnap (s : State) (p : Nat) : List SnapItem :=
  snapItems (snapPort p) [(s.reg (.linkStat p)).toNat, (s.port p).next, ((s.port p).expect + 2 ^ 32 - 1) % 2 ^ 32]

/-- What every unit latches (R455); an item that is not listed holds 0. -/
def State.snapshot (s : State) : List SnapItem :=
  (snapItems 0 [s.cyc, (s.reg .hostEvt).toNat, (s.reg .hostEvht).toNat, (s.reg .belStat).toNat] ++
    (upto 32).flatMap s.slotSnap ++ (upto 64).flatMap s.barnSnap ++ (upto 512).flatMap s.nodeSnap ++ (upto 33).flatMap s.engineSnap ++
    (upto 8).flatMap s.portSnap).filter fun x => x.val ≠ 0

/-- GONG_LATCH (R453): every snapshot register latches at the end of cycle G. -/
def execGongLatch (s : State) : Host.Outcome State Fault Refusal :=
  .next (if s.gongAt = some s.cyc then { s with snap := s.snapshot, gongAt := none } else s)

/-! The memory checkpoint (R460). -/

/-- Whether a request breaks R460. -/
def badCheckpoint (b : List Byte) : Bool :=
  let f (o n : Nat) : Nat := recField b o n
  f 0 2 ≠ 0x3CE5 || 2 ≤ f 2 1 || !zeroField b 3 5 || f 8 8 % 2 ^ 21 ≠ 0 || f 0x10 8 % 2 ^ 21 ≠ 0 || 2 ^ 40 ≤ f 8 8 || 2 ^ 40 < f 8 8 + f 0x10 8 ||
    f 0x18 8 % 4096 ≠ 0 || reservedPa (0x20000000000 + f 0x18 8) || f 0x20 8 % 64 ≠ 0 || 2 ^ 44 ≤ f 0x20 8 || !zeroField b 0x28 24

/-- A checkpoint request ends (step 5). -/
def State.endCheckpoint (s : State) (res status bytes : Nat) : State :=
  let s := { s with mck := none }.writePa res (leBytes 2 status ++ recZero 6 ++ leBytes 8 bytes)
  ((s.setField .mckStat 63 1 0).setField .mckStat 32 16 status).bump .mckStat 0 32

/-- Slots with a placement. -/
def State.placedSlots (s : State) : List Nat := (upto 32).filter s.hasPlacement

/-- MEM_CHECKPOINT (R460, steps 1 to 3): a write `val` of MCK_REQ; while a checkpoint is in progress it only sets OVF. -/
def execMemCheckpoint (s : State) : Host.Outcome State Fault Refusal :=
  let pa := bitsAt s.arg.val.toNat 6 38 * 64
  if s.mck.isSome then .next (s.setField .mckStat 62 1 1)
  else atPhysical pa (
    let b := s.readPaB pa 64
    let res := bitsAt (recField b 0x20 8) 6 38 * 64
    if badCheckpoint b then atPhysical res (.next (s.endCheckpoint res 1 0))
    else if s.placedSlots.any fun k => s.regField (.ctxSave k) 44 20 = 0 then atPhysical res (.next (s.endCheckpoint res 2 0))
    else
      let m : MemCkpt := { src := recField b 8 8, len := recField b 0x10 8, dst := recField b 0x18 8, res := res,
                           resume := recField b 2 1 = 1, slots := s.placedSlots }
      .next (foldState State.startStop (({ s with mck := some m }).setField .mckStat 63 1 1) s.placedSlots))

/-- Lines of device memory are copied to host memory with their poison. -/
def State.copyOut (s : State) (src dst n : Nat) : State :=
  let cells := s.dmem.filter fun c => decide (src ≤ c.1) && decide (c.1 < src + n)
  let poi := s.poisD.filter fun u => decide (src ≤ 64 * u) && decide (64 * u < src + n)
  let s : State := { s with
    hmem := cells.foldl (fun l c => putCell l (dst + (c.1 - src)) c.2) (clearRange s.hmem dst n)
    poisH := poi.foldl (fun l u => insNat l ((dst + (64 * u - src)) / 64))
      (s.poisH.filter fun u => decide (64 * u < dst) || decide (dst + n ≤ 64 * u)) }
  foldState (fun s j => s.agentTake (dst + 64 * j) true true) s (upto (n / 64))

/-- A slot that the checkpoint saved is restored (step 6). -/
def State.resumeSlot (s : State) (k : Nat) : State :=
  if s.ctxState k = 3 then
    { (s.setCtxState k 2) with saved := s.saved.map fun (x : Saved) => if x.k = k then { x with restoring := true } else x }
  else s

/-- MEM_CHECKPOINT_DONE (R460, steps 4 to 6): once every slot is saved the copy ends; with `flag` the host refused the writes
from line `n` on. A save that passed its area ends the request with STATUS 3. -/
def execMemCheckpointDone (s : State) : Host.Outcome State Fault Refusal :=
  match s.mck with
  | none => .next s
  | some m =>
    let passed (k : Nat) : Bool := ((s.stop? k).map Stop.ovf).getD false
    if m.slots.any passed then atPhysical m.res (.next (s.endCheckpoint m.res 3 0))
    else if !(m.slots.all fun k => s.ctxState k = 3 || (s.ctxState k = 0 && !s.hasPlacement k)) then .next s
    else
      let n := if s.arg.flag then min (64 * s.arg.n) m.len else m.len
      atPhysical m.res (.next (
        let s := (s.copyOut m.src m.dst n).endCheckpoint m.res (if s.arg.flag then 4 else 0) n
        if m.resume then foldState State.resumeSlot s m.slots else s))

/-! Repair and re-mapping. -/

/-- Whether some bay frame or region of a barn still uses the old map of a spare column (R461): `lo` is 0 for spare 0, and 8
for spare 1. -/
def State.spareBusy (s : State) (b lo : Nat) : Bool :=
  s.fab.blocks.any fun l => l.holder.barn? = some b && !l.holder.temporal &&
    (bitsAt l.cols lo 8 ≠ s.regField (.svcCtl b) lo 8)

/-- SVC_CTL_WRITE (R461): barn `u`, value `val`. -/
def execSvcCtlWrite (s : State) : Host.Outcome State Fault Refusal :=
  let r : Reg := .svcCtl s.arg.u
  let v := (r.written (s.reg r) s.arg.val).toNat
  let same := bitsAt v 7 1 = 1 && bitsAt v 15 1 = 1 && bitsAt v 0 5 = bitsAt v 8 5
  let moves (lo : Nat) : Bool := bitsAt v lo 8 ≠ s.regField r lo 8 && s.spareBusy s.arg.u lo
  .next (if same || moves 0 || moves 8 then s else s.setReg r (BitVec.ofNat 64 v))

/-- A list of numbers has no repeats. -/
def distinct : List Nat → Bool
  | [] => true
  | x :: r => !r.contains x && distinct r

/-- CTX_BMAP_WRITE (R462): slot `k`, the `m` registers from logical barn `n` on (one where `m` is 0), a byte of `val` each. -/
def execCtxBmapWrite (s : State) : Host.Outcome State Fault Refusal :=
  let k := s.arg.k
  let m := max 1 s.arg.m
  let map := (upto 64).map fun i =>
    if s.arg.n ≤ i && i < s.arg.n + m then bitsAt s.arg.val.toNat (8 * (i - s.arg.n)) 6 else s.physBarn k i
  .next (if (s.ctxState k ≠ 3 && s.hasPlacement k) || !distinct map then s
  else foldState (fun s i => s.setReg (.ctxBmap k i) (BitVec.ofNat 64 ((map.drop i).headD 0))) s (upto 64))

/-- Takes a frame out of a free list; none where it is not in it. -/
def State.pullFrame (s : State) (desc c frame : Nat) : Option State :=
  let at_ := desc + 16 * c
  let list := s.readPa at_ 8
  let cap := s.readPa (at_ + 8) 4
  let free := s.readPa (at_ + 12) 4
  if cap < free || 2 ^ 44 ≤ list then none else
  let entry (i : Nat) : Nat := s.readPa (list + 8 * i) 8
  (lowest (fun i => entry i = frame) free).map fun i =>
    let s := foldState (fun s j => s.writePaN (list + 8 * j) 8 (entry (j + 1))) s (upFrom i (free - 1 - i))
    s.writePaN (at_ + 12) 4 (free - 1)

/-- A frame joins the retired list. -/
def State.retireFrame (s : State) (f : Nat) : State := { s with retired := insNat s.retired f }.bumpSat .hbmRetstat 32 16

/-- HBM_RETIRE (R463): a write `val` of HBM_RETREQ; discarded while a retirement is in progress. The new frame of a mapped
page comes from the channel of its stack that the device chooses (DESIGN CHOICE, log 7). -/
def execHbmRetire (s : State) : Host.Outcome State Fault Refusal :=
  let pa := bitsAt s.arg.val.toNat 5 39 * 32
  if s.regField .hbmRetstat 63 1 = 1 then .next s
  else atPhysical pa (
    let b := s.readPaB pa 32
    let frame := recField b 0 8
    let c := recField b 8 1
    let mapped := recField b 9 1
    let asid := recField b 0x0A 2
    let va := recField b 0x10 8
    let res := recField b 0x18 8
    let ch := frame / 2 ^ 31
    atPhysical res (.next (
      if 3 < c || 1 < mapped || !zeroField b 0x0C 4 || 2 ^ 40 ≤ frame || frame % classSize c ≠ 0 || 2 ^ 60 ≤ va then s.endRetire res 1 0
      else if s.retired.contains frame then s.endRetire res 3 0
      else if mapped = 0 then
        match s.pullFrame (s.channelList ch) c frame with
        | none => s.endRetire res 3 0
        | some s => (s.retireFrame frame).endRetire res 0 0
      else match s.leafOf asid va with
        | none => s.endRetire res 3 0
        | some l =>
          if l.frame ≠ frame || l.size ≠ classSize c then s.endRetire res 3 0
          else
            let try_ (x : Nat) : Option (State × Nat) := match s.takeFrame (s.channelList x) c with
              | .got s f => some (s, f)
              | _ => none
            let order := (upto 32).map fun i => ch / 32 * 32 + (s.choice + i) % 32
            match order.findSome? try_ with
            | none => s.endRetire res 2 0
            | some (s, f) =>
              let s := (s.chose.retireFrame frame).setField .hbmRetstat 63 1 1
              s.movePage asid va l f none (some (res, f)))))

/-- DIE_FENCE_WRITE (R464): a write `val`; a die that becomes fenced sets FENCE in its eight barns. -/
def execDieFenceWrite (s : State) : Host.Outcome State Fault Refusal :=
  let old := (s.reg .dieFence).toNat
  let s := s.writeReg .dieFence s.arg.val
  let new_ (b : Nat) : Bool := bitsAt (s.reg .dieFence).toNat (b / 8) 1 = 1 && bitsAt old (b / 8) 1 = 0
  .next (foldState (fun s b => s.setField (.svcCtl b) 31 1 1) s ((upto 64).filter new_))

end Sys2Proof.Machine
end

