-- ==== Sys2Proof/Machine/Boot.lean ====
section
/-! DEFINITION. Reset and boot (R474), loss of power (R411), power and throttling (R476), and identity (R477). -/

namespace Sys2Proof.Machine

/-! Reset. -/

/-- The machine as reset is released, with what a reset does not reach: the agenda, the host's memory, the flash copies, the
translation store and the two anti-rollback counters (R411, R446, R447, R465). -/
def State.afterReset (s : State) : State :=
  let t : State := { State.reset with
    agenda := s.agenda, ctr := s.ctr, hmem := s.hmem, poisH := s.poisH, tc := s.tc, tcLevel := s.tcLevel, tcLook := s.tcLook,
    belCopies := s.belCopies, fwCopies := s.fwCopies }
  (t.setField .belStat 32 16 (s.regField .belStat 32 16)).setField .fwStat 32 16 (s.regField .fwStat 32 16)

/-- Step of R474 in progress. -/
def State.phase (s : State) : Nat := s.regField .pkgStat 8 3

def State.setPhase (s : State) (n : Nat) : State := s.setField .pkgStat 8 3 n

/-- A cold reset starts: its first step is in progress (R474). -/
def State.coldStart (s : State) : State := s.afterReset.setPhase 1

/-- POWER_ON (R474). -/
def execPowerOn (s : State) : Host.Outcome State Fault Refusal := .next s.coldStart

/-- POWER_LOSS (R411): what is not held through a power cycle is lost, and boot does not run until power returns. -/
def execPowerLoss (s : State) : Host.Outcome State Fault Refusal := .next s.afterReset

/-- The first copy that a check accepts, with its number. -/
def firstAccepted (l : List (List Byte)) (check : List Byte → Nat) : Option (Nat × List Byte) :=
  (copyOrder l).findSome? fun i =>
    let b := (l.drop i).headD []
    if check b = 0 then some (i, b) else none

/-- Step 1: the firmware starts, or boot stops with PHASE 7. -/
def State.bootFirmware (s : State) : State :=
  match firstAccepted s.fwCopies fun b => fwCheck b (s.regField .fwStat 32 16) with
  | none => s.setPhase 7
  | some (i, b) => ((s.installFw b).setField .pkgStat 1 1 i).setPhase 2

/-- Step 2: the Belfry image is installed, or none is (R447). -/
def State.bootBelfry (s : State) : State :=
  match firstAccepted s.belCopies fun b => patchCheck b (s.regField .belStat 32 16) with
  | none => s.setPhase 3
  | some (i, b) => (((s.installPatch b).bumpSat .belStat 0 16).setField .pkgStat 0 1 i).setPhase 3

/-- Step 3: every SRAM is zero and every presence bit 0. -/
def State.bootSram (s : State) : State :=
  ({ s with scr := [], wbuf := [], pres := [], poisS := [], poisW := [] } : State).setPhase 4

/-- Step 4: a die whose boundary or stack fails to train is fenced, with its eight barns (R464). -/
def State.bootTrain (s : State) : State :=
  let bad := (Config.trainFailures s.ctr).toNat
  let s := ({ s with ctr := s.ctr + 1 } : State).setReg .dieFence (BitVec.ofNat 64 bad)
  (foldState (fun s b => s.setField (.svcCtl b) 31 1 1) s ((upto 64).filter fun b => bitsAt bad (b / 8) 1 = 1)).setPhase 5

/-- Step 5: the translation store compares patch levels (R412). -/
def State.bootStore (s : State) : State :=
  let level := s.regField .belId 0 32
  ({ s with tc := if s.tcLevel = level then s.tc else [], tcLevel := level } : State).setPhase 6

/-- Step 6: the CXL ports are trained and READY is 1. -/
def State.bootReady (s : State) : State := (({ s with cxl := [0, 1] } : State).setPhase 0).setField .pkgStat 31 1 1

/-- COLD_RESET (R474, R475): with `flag` a host write of 1 to PKG_RST.COLD starts a cold reset; otherwise the step of R474 in
progress ends. -/
def execColdReset (s : State) : Host.Outcome State Fault Refusal :=
  .next (if s.arg.flag then s.coldStart
  else match s.phase with
    | 1 => s.bootFirmware
    | 2 => s.bootBelfry
    | 3 => s.bootSram
    | 4 => s.bootTrain
    | 5 => s.bootStore
    | 6 => s.bootReady
    | _ => s)

/-! Power (R476). -/

/-- THROTTLE_STEP (R476): the end of a millisecond with an average power of `n` watts and a hottest die at `m` °C. -/
def execThrottleStep (s : State) : Host.Outcome State Fault Refusal :=
  let hot := decide (85 < s.arg.m)
  let high := decide (s.regField .pwrCfg 0 12 < s.arg.n)
  let f := s.regField .pwrStat 20 12
  let f := if hot || high then max 1200 (f - 75) else min 2400 (f + 75)
  let v := f * 2 ^ 20 + (if hot then 2 ^ 19 else 0) + (if high then 2 ^ 18 else 0) + s.arg.m % 256
  .next { s.setReg .pwrStat (BitVec.ofNat 64 v) with overtemp := s.overtemp && decide (85 ≤ s.arg.m) }

/-- OVERTEMP_FREEZE (R476): the hottest die stands at `n` °C; from 105 °C on the management port freezes every partition. -/
def execOvertempFreeze (s : State) : Host.Outcome State Fault Refusal :=
  .next (if s.arg.n < 105 then s
  else
    let s : State := { s.setField .pwrStat 0 8 (min s.arg.n 255) with overtemp := true }
    foldState (fun s p => s.freeze p 3 0 0) s (upto 65))

/-! Identity (R477): each answer is appended to those on DOE. -/

def State.reply (s : State) (r : DoeReply) : State := { s with doe := s.doe ++ [r] }

/-- GET_VERSION (R477). -/
def execGetVersion (s : State) : Host.Outcome State Fault Refusal := .next (s.reply .version)

/-- GET_CAPABILITIES (R477). -/
def execGetCapabilities (s : State) : Host.Outcome State Fault Refusal := .next (s.reply .capabilities)

/-- NEGOTIATE_ALGORITHMS (R477): ECDSA P-256 and SHA-256, the only ones. -/
def execNegotiateAlgorithms (s : State) : Host.Outcome State Fault Refusal := .next (s.reply .algorithms)

/-- GET_DIGESTS (R477): the digest of the chain of slot 0. -/
def execGetDigests (s : State) : Host.Outcome State Fault Refusal := .next (s.reply (.digests (Config.sha256 Config.certChain)))

/-- GET_CERTIFICATE (R477): the chain of slot `n`; only slot 0 holds one, and any other is answered empty (DESIGN CHOICE, log 18). -/
def execGetCertificate (s : State) : Host.Outcome State Fault Refusal :=
  .next (s.reply (.certificate (if s.arg.n = 0 then Config.certChain else [])))

/-- CHALLENGE (R477): nonce `val`, signed with the device key. -/
def execChallenge (s : State) : Host.Outcome State Fault Refusal :=
  .next (s.reply (.challengeAuth s.arg.val.toNat (Config.deviceSign (leBytes 8 s.arg.val.toNat))))

/-- A measurement: 1 the firmware's digest and SVN, 2 the Belfry image's digest and BEL_ID, 3 the ISA major and reported
minor; any other index measures nothing (DESIGN CHOICE, log 18). -/
def State.measurement (s : State) (n : Nat) : List Byte :=
  if n = 1 then leBytes 32 (Config.sha256 s.fwImg).toNat ++ leBytes 2 (recField s.fwImg 6 2)
  else if n = 2 then leBytes 32 (Config.sha256 s.patchImg).toNat ++ leBytes 8 (s.reg .belId).toNat
  else if n = 3 then leBytes 1 4 ++ leBytes 1 (s.regField .belId 40 8)
  else []

/-- GET_MEASUREMENTS (R477): index `n`. -/
def execGetMeasurements (s : State) : Host.Outcome State Fault Refusal :=
  .next (s.reply (.measurement s.arg.n (s.measurement s.arg.n)))

/-- SPDM_UNSUPPORTED (R477): ERROR with UnsupportedRequest. -/
def execSpdmUnsupported (s : State) : Host.Outcome State Fault Refusal := .next (s.reply .unsupportedRequest)

end Sys2Proof.Machine
end

