-- ==== Sys2Proof/Machine/Integer.lean ====
section
/-! DEFINITION. Integer and address arithmetic, group 0x0 (R86 to R90) and ABSD (R467). -/

namespace Sys2Proof.Machine

/-- A lane-wise integer operation on slots a and b. -/
def intBinary (s : State) (h : Hdr) (lat : Nat) (sat : Bool) (op : Int → Int → Int) :
    Host.Outcome State Fault Refusal :=
  compute s h lat h.ty fun f => intLanes h.ty sat fun k => op (laneInt h.ty (f.data .a) k) (laneInt h.ty (f.data .b) k)

/-- A lane-wise integer operation on slot a. -/
def intUnary (s : State) (h : Hdr) (lat : Nat) (sat : Bool) (op : Int → Int) : Host.Outcome State Fault Refusal :=
  compute s h lat h.ty fun f => intLanes h.ty sat fun k => op (laneInt h.ty (f.data .a) k)

/-- One exact integer result of the instruction's type in lane 0. -/
def intScalar (s : State) (h : Hdr) (lat : Nat) (ty : Ty) (sat : Bool) (g : Firing → Int) :
    Host.Outcome State Fault Refusal :=
  compute s h lat ty fun f =>
    let r := reduceInt (g f) 32 ty.isSigned sat
    (BitVec.ofNat 32 r.1, [r.2])

/-- Slot data as the instruction's scalar type. -/
def Firing.int (f : Firing) (t : Ty) (sl : Slot) : Int := laneInt t (f.data sl) 0

def execAdd (h : Hdr) (sat : Bool) (s : State) : Host.Outcome State Fault Refusal := intBinary s h 1 sat (· + ·)
def execSub (h : Hdr) (sat : Bool) (s : State) : Host.Outcome State Fault Refusal := intBinary s h 1 sat (· - ·)
def execMul (h : Hdr) (sat : Bool) (s : State) : Host.Outcome State Fault Refusal := intBinary s h 3 sat (· * ·)

/-- MULH (R88): the high half of the exact product. -/
def execMulh (h : Hdr) (s : State) : Host.Outcome State Fault Refusal :=
  intScalar s h 3 h.ty false fun f => (f.int h.ty .a * f.int h.ty .b) / 2 ^ 32

def execMad (h : Hdr) (sat : Bool) (s : State) : Host.Outcome State Fault Refusal :=
  intScalar s h 3 h.ty sat fun f => f.int h.ty .a * f.int h.ty .b + f.int h.ty .c

def execNeg (h : Hdr) (sat : Bool) (s : State) : Host.Outcome State Fault Refusal := intUnary s h 1 sat fun x => -x
def execAbs (h : Hdr) (sat : Bool) (s : State) : Host.Outcome State Fault Refusal :=
  intUnary s h 1 sat fun x => (x.natAbs : Int)
def execMin (h : Hdr) (s : State) : Host.Outcome State Fault Refusal := intBinary s h 1 false fun x y => if x ≤ y then x else y
def execMax (h : Hdr) (s : State) : Host.Outcome State Fault Refusal := intBinary s h 1 false fun x y => if x ≤ y then y else x

def execAddi (h : Hdr) (sat : Bool) (imm : BitVec 22) (s : State) : Host.Outcome State Fault Refusal :=
  intUnary s h 1 sat fun x => x + sext imm
def execMuli (h : Hdr) (sat : Bool) (imm : BitVec 22) (s : State) : Host.Outcome State Fault Refusal :=
  intUnary s h 3 sat fun x => x * sext imm

/-- LEA (R89). -/
def execLea (h : Hdr) (disp : BitVec 19) (sh : BitVec 3) (s : State) : Host.Outcome State Fault Refusal :=
  intScalar s h 1 h.ty false fun f => f.int h.ty .a + f.int h.ty .b * 2 ^ sh.toNat + sext disp

/-- CIDX2 (R89). -/
def execCidx2 (h : Hdr) (sat : Bool) (e : BitVec 22) (s : State) : Host.Outcome State Fault Refusal :=
  intScalar s h 3 h.ty sat fun f => f.int h.ty .a * (e.toNat : Int) + f.int h.ty .b

/-- CIDX3 (R89). -/
def execCidx3 (h : Hdr) (sat : Bool) (e1 : BitVec 11) (e0 : BitVec 11) (s : State) : Host.Outcome State Fault Refusal :=
  intScalar s h 3 h.ty sat fun f =>
    (f.int h.ty .a * (e1.toNat : Int) + f.int h.ty .b) * (e0.toNat : Int) + f.int h.ty .c

/-- DOT4 (R88): slot c and the result are i32 for i8x4 and n32 for n8x4. -/
def execDot4 (h : Hdr) (sat : Bool) (s : State) : Host.Outcome State Fault Refusal :=
  let rt : Ty := if h.ty.isSigned then .i32 else .n32
  intScalar s h 3 rt sat fun f =>
    ((upto 4).map fun k => laneInt h.ty (f.data .a) k * laneInt h.ty (f.data .b) k).foldl (· + ·) (f.int rt .c)

/-- DIV (R90): truncation toward zero; division by zero gives all ones and raises DZ alone. -/
def execDiv (h : Hdr) (sat : Bool) (s : State) : Host.Outcome State Fault Refusal :=
  compute s h 34 h.ty fun f =>
    let y := f.int h.ty .b
    if y = 0 then (0xFFFFFFFF, [flDZ])
    else
      let r := reduceInt (Int.tdiv (f.int h.ty .a) y) 32 h.ty.isSigned sat
      (BitVec.ofNat 32 r.1, [r.2])

/-- REM (R90). -/
def execRem (h : Hdr) (s : State) : Host.Outcome State Fault Refusal :=
  compute s h 34 h.ty fun f =>
    let x := f.int h.ty .a
    let y := f.int h.ty .b
    if y = 0 then (f.data .a, [flDZ]) else (BitVec.ofNat 32 (wrapNat (x - y * Int.tdiv x y) 32), [0])

/-- ABSD (R467): the exact absolute difference of two i32 values, as n32. -/
def execAbsd (h : Hdr) (s : State) : Host.Outcome State Fault Refusal :=
  compute s h 1 .n32 fun f => (BitVec.ofNat 32 (f.int .i32 .a - f.int .i32 .b).natAbs, [0])

end Sys2Proof.Machine
end

