-- ==== Sys2Proof/Machine/Logic.lean ====
section
/-! DEFINITION. Logic, shifts and bit fields, group 0x1 (R91 to R94); compares and predicates, group 0x2 (R95, R96). -/

namespace Sys2Proof.Machine

/-- A bitwise operation on the 32 bits of slots a and b (R92). -/
def bitwise (s : State) (h : Hdr) (op : Word → Word → Word) : Host.Outcome State Fault Refusal :=
  compute s h 1 h.ty fun f => (op (f.data .a) (f.data .b), [0])

/-- A shift of each lane by the unsigned lane of slot b. -/
def shiftLanes (s : State) (h : Hdr) (op : Nat → Nat → Nat → Nat) : Host.Outcome State Fault Refusal :=
  compute s h 1 h.ty fun f =>
    bitLanes h.ty fun k => op h.ty.width (laneBits (f.data .a) h.ty.width k) (laneBits (f.data .b) h.ty.width k)

/-- A shift of each lane by an immediate count. -/
def shiftImm (s : State) (h : Hdr) (n : BitVec 5) (op : Nat → Nat → Nat → Nat) : Host.Outcome State Fault Refusal :=
  compute s h 1 h.ty fun f => bitLanes h.ty fun k => op h.ty.width (laneBits (f.data .a) h.ty.width k) n.toNat

/-- The shifts of R92 on a lane of width `w` with bits `u` and count `n`. -/
def shlLane (w u n : Nat) : Nat := if n < w then (u <<< n) % 2 ^ w else 0
def shrLane (w u n : Nat) : Nat := if n < w then u >>> n else 0
def sraLane (w u n : Nat) : Nat :=
  let sg := bitsAt u (w - 1) 1
  if n < w then (u >>> n) ||| (sg * (2 ^ w - 2 ^ (w - n))) else sg * (2 ^ w - 1)
def rolLane (w u n : Nat) : Nat := ((u <<< (n % w)) ||| (u >>> (w - n % w))) % 2 ^ w
def rorLane (w u n : Nat) : Nat := ((u >>> (n % w)) ||| (u <<< (w - n % w))) % 2 ^ w

def execAnd (h : Hdr) (s : State) : Host.Outcome State Fault Refusal := bitwise s h (· &&& ·)
def execOr (h : Hdr) (s : State) : Host.Outcome State Fault Refusal := bitwise s h (· ||| ·)
def execXor (h : Hdr) (s : State) : Host.Outcome State Fault Refusal := bitwise s h (· ^^^ ·)
def execAndn (h : Hdr) (s : State) : Host.Outcome State Fault Refusal := bitwise s h fun a b => a &&& ~~~b
def execNot (h : Hdr) (s : State) : Host.Outcome State Fault Refusal :=
  compute s h 1 h.ty fun f => (~~~(f.data .a), [0])
def execShl (h : Hdr) (s : State) : Host.Outcome State Fault Refusal := shiftLanes s h shlLane
def execShr (h : Hdr) (s : State) : Host.Outcome State Fault Refusal := shiftLanes s h shrLane
def execSra (h : Hdr) (s : State) : Host.Outcome State Fault Refusal := shiftLanes s h sraLane
def execRol (h : Hdr) (s : State) : Host.Outcome State Fault Refusal := shiftLanes s h rolLane
def execRor (h : Hdr) (s : State) : Host.Outcome State Fault Refusal := shiftLanes s h rorLane
def execShli (h : Hdr) (n : BitVec 5) (s : State) : Host.Outcome State Fault Refusal := shiftImm s h n shlLane
def execShri (h : Hdr) (n : BitVec 5) (s : State) : Host.Outcome State Fault Refusal := shiftImm s h n shrLane
def execSrai (h : Hdr) (n : BitVec 5) (s : State) : Host.Outcome State Fault Refusal := shiftImm s h n sraLane

/-- A function of slot a's 32 bits, with its own result type. -/
def wordUnary (s : State) (h : Hdr) (ty : Ty) (op : Nat → Nat) : Host.Outcome State Fault Refusal :=
  compute s h 1 ty fun f => (BitVec.ofNat 32 (op (f.data .a).toNat), [0])

/-- BFX (R93): `len` holds LEN - 1. -/
def execBfx (h : Hdr) (len : BitVec 5) (pos : BitVec 5) (s : State) : Host.Outcome State Fault Refusal :=
  wordUnary s h h.ty fun x =>
    let n := len.toNat + 1
    let f := bitsAt x pos.toNat n
    if h.ty = .i32 then wrapNat (signedOf f n) 32 else f

/-- BFI (R93). -/
def execBfi (h : Hdr) (len : BitVec 5) (pos : BitVec 5) (s : State) : Host.Outcome State Fault Refusal :=
  compute s h 1 h.ty fun f =>
    let m : Word := BitVec.ofNat 32 ((2 ^ (len.toNat + 1) - 1) <<< pos.toNat)
    ((f.data .a &&& ~~~m) ||| ((f.data .b <<< pos.toNat) &&& m), [0])

def execPopc (h : Hdr) (s : State) : Host.Outcome State Fault Refusal :=
  wordUnary s h .n32 fun x => ((upto 32).filter fun i => bitsAt x i 1 = 1).length
def execClz (h : Hdr) (s : State) : Host.Outcome State Fault Refusal :=
  wordUnary s h .n32 fun x => if x = 0 then 32 else 31 - Nat.log2 x
def execCtz (h : Hdr) (s : State) : Host.Outcome State Fault Refusal :=
  wordUnary s h .n32 fun x => (lowest (fun i => bitsAt x i 1 = 1) 32).getD 32
def execBrev (h : Hdr) (s : State) : Host.Outcome State Fault Refusal :=
  wordUnary s h h.ty fun x => packLanes 1 ((upto 32).map fun i => bitsAt x (31 - i) 1)

/-- PRMT (R94). -/
def execPrmt (h : Hdr) (sel : BitVec 16) (s : State) : Host.Outcome State Fault Refusal :=
  compute s h 1 h.ty fun f =>
    let both := (f.data .a).toNat + (f.data .b).toNat * 2 ^ 32
    (pack 8 ((upto 4).map fun k =>
      let x := bitsAt sel.toNat (4 * k) 4
      let b := bitsAt both (8 * (x % 8)) 8
      if x < 8 then b else if bitsAt b 7 1 = 1 then 0xFF else 0), [0])

/-- A predicate result: TY pred, data 0 or 1 (R15). -/
def predicate (s : State) (h : Hdr) (g : Firing → Bool) : Host.Outcome State Fault Refusal :=
  compute s h 1 .pred fun f => (predWord (g f), [0])

/-- The second operand of a compare (R96): the payload, sign-extended for i32, or slot b. -/
def cmpOperand (h : Hdr) (imm : Bool) (val : BitVec 21) (f : Firing) : Int :=
  if imm then (if h.ty = .i32 then sext val else (val.toNat : Int)) else laneInt h.ty (f.data .b) 0

/-- An integer compare (R96). -/
def compareInt (s : State) (h : Hdr) (imm : Bool) (val : BitVec 21) (p : Int → Int → Bool) :
    Host.Outcome State Fault Refusal :=
  predicate s h fun f => p (laneInt h.ty (f.data .a) 0) (cmpOperand h imm val f)

def execCmpeq (h : Hdr) (imm : Bool) (val : BitVec 21) (s : State) : Host.Outcome State Fault Refusal :=
  compareInt s h imm val fun x y => decide (x = y)
def execCmpne (h : Hdr) (imm : Bool) (val : BitVec 21) (s : State) : Host.Outcome State Fault Refusal :=
  compareInt s h imm val fun x y => decide (x ≠ y)
def execCmplt (h : Hdr) (imm : Bool) (val : BitVec 21) (s : State) : Host.Outcome State Fault Refusal :=
  compareInt s h imm val fun x y => decide (x < y)
def execCmple (h : Hdr) (imm : Bool) (val : BitVec 21) (s : State) : Host.Outcome State Fault Refusal :=
  compareInt s h imm val fun x y => decide (x ≤ y)
def execCmpgt (h : Hdr) (imm : Bool) (val : BitVec 21) (s : State) : Host.Outcome State Fault Refusal :=
  compareInt s h imm val fun x y => decide (y < x)
def execCmpge (h : Hdr) (imm : Bool) (val : BitVec 21) (s : State) : Host.Outcome State Fault Refusal :=
  compareInt s h imm val fun x y => decide (y ≤ x)

/-- Bit 0 of a slot's data. -/
def Firing.bit (f : Firing) (sl : Slot) : Bool := (f.data sl).toNat % 2 = 1

def execPand (h : Hdr) (s : State) : Host.Outcome State Fault Refusal := predicate s h fun f => f.bit .a && f.bit .b
def execPor (h : Hdr) (s : State) : Host.Outcome State Fault Refusal := predicate s h fun f => f.bit .a || f.bit .b
def execPxor (h : Hdr) (s : State) : Host.Outcome State Fault Refusal := predicate s h fun f => f.bit .a != f.bit .b
def execPandn (h : Hdr) (s : State) : Host.Outcome State Fault Refusal := predicate s h fun f => f.bit .a && !f.bit .b
def execPnot (h : Hdr) (s : State) : Host.Outcome State Fault Refusal := predicate s h fun f => !f.bit .a

/-- SELECT (R96); slot c is a predicate, so poison in it raises POISON (R433). -/
def execSelect (h : Hdr) (s : State) : Host.Outcome State Fault Refusal :=
  onFiring s fun f =>
    s.fired { h := h, targets := [h.t0, h.t1], clean := [.c] } f fun s =>
      s.emitAll f.site 1 (f.result h false h.ty (if f.bit .c then f.data .a else f.data .b)) [h.t0, h.t1]

/-- TESTZ (R96): an immediate mask of 0 stands for all ones. -/
def execTestz (h : Hdr) (imm : Bool) (val : BitVec 21) (s : State) : Host.Outcome State Fault Refusal :=
  predicate s h fun f =>
    let m : Word := if imm then (if val = 0 then 0xFFFFFFFF else val.setWidth 32) else f.data .b
    decide (f.data .a &&& m = 0)

end Sys2Proof.Machine
end

