-- ==== Sys2Proof/Machine/Memory.lean ====
section
/-! DEFINITION. Flat loads and stores, group 0x8 (R140, R141), scratchpad and presence, group 0x9 (R142 to R144), the
atomics and FENCE, group 0xB (R145 to R148). A firing issues its access; the memory node or the bank performs it, and its
response sends the tokens. -/

namespace Sys2Proof.Machine

/-- A flat load of `n` bytes. -/
def flatLoad (s : State) (h : Hdr) (sc : Scope) (acq : Bool) (t2 : Option Target) (bsel : BitVec 4) (disp : BitVec 9)
    (n : Nat) : Host.Outcome State Fault Refusal :=
  onFiring s fun f =>
    s.fired (memShape h t2 true) f fun s =>
      s.withFlat f bsel disp .read n fun va => s.issue { f.access .read h.ty sc with acq := acq, pieces := pieces va n 0 }

/-- A flat store of the low `n` bytes of slot b (R141, R150, R151). -/
def flatStore (s : State) (h : Hdr) (sc : Scope) (rel : Bool) (t2 : Option Target) (bsel : BitVec 4) (disp : BitVec 9)
    (n : Nat) : Host.Outcome State Fault Refusal :=
  onFiring s fun f =>
    s.fired (memShape h t2 true) f fun s =>
      s.withFlat f bsel disp .write n fun va =>
        let d := (f.data .b).toNat % 2 ^ (8 * n)
        s.store f { f.access .write h.ty sc with rel := rel, poi := (f.b.map Tok.poi).getD false, pieces := pieces va n d }
          [h.t0, h.t1, t2] (f.orderOut h true)

def execLdb (h : Hdr) (sc : Scope) (acq : Bool) (t2 : Option Target) (bsel : BitVec 4) (disp : BitVec 9) (s : State) :
    Host.Outcome State Fault Refusal := flatLoad s h sc acq t2 bsel disp 1
def execLdh (h : Hdr) (sc : Scope) (acq : Bool) (t2 : Option Target) (bsel : BitVec 4) (disp : BitVec 9) (s : State) :
    Host.Outcome State Fault Refusal := flatLoad s h sc acq t2 bsel disp 2
def execLd (h : Hdr) (sc : Scope) (acq : Bool) (t2 : Option Target) (bsel : BitVec 4) (disp : BitVec 9) (s : State) :
    Host.Outcome State Fault Refusal := flatLoad s h sc acq t2 bsel disp 4
def execLdp (h : Hdr) (sc : Scope) (acq : Bool) (t2 : Option Target) (bsel : BitVec 4) (disp : BitVec 9) (s : State) :
    Host.Outcome State Fault Refusal := flatLoad s h sc acq t2 bsel disp 8
def execStb (h : Hdr) (sc : Scope) (rel : Bool) (t2 : Option Target) (bsel : BitVec 4) (disp : BitVec 9) (s : State) :
    Host.Outcome State Fault Refusal := flatStore s h sc rel t2 bsel disp 1
def execSth (h : Hdr) (sc : Scope) (rel : Bool) (t2 : Option Target) (bsel : BitVec 4) (disp : BitVec 9) (s : State) :
    Host.Outcome State Fault Refusal := flatStore s h sc rel t2 bsel disp 2
def execSt (h : Hdr) (sc : Scope) (rel : Bool) (t2 : Option Target) (bsel : BitVec 4) (disp : BitVec 9) (s : State) :
    Host.Outcome State Fault Refusal := flatStore s h sc rel t2 bsel disp 4

/-- STP (R141): two words from slots b and c, two events; each word at a misaligned address is split on its own (R139; DESIGN
CHOICE, log 104), and poison of either token marks the destinations of both (R151; DESIGN CHOICE, log 105). -/
def execStp (h : Hdr) (sc : Scope) (rel : Bool) (t2 : Option Target) (bsel : BitVec 4) (disp : BitVec 9) (s : State) :
    Host.Outcome State Fault Refusal :=
  onFiring s fun f =>
    s.fired (memShape h t2 false) f fun s =>
      s.withFlat f bsel disp .write 8 fun va =>
        let x := (f.data .b).toNat
        let y := (f.data .c).toNat
        let poi := (f.b.map Tok.poi).getD false || (f.c.map Tok.poi).getD false
        s.store f { f.access .write h.ty sc with rel := rel, poi := poi, pieces := pieces va 4 x ++ pieces (va + 4) 4 y }
          [h.t0, h.t1, t2] (f.orderOut h false)

/-- PREFETCH (R141): fills a translation, and for host memory the cache agent; it never traps. -/
def execPrefetch (h : Hdr) (sc : Scope) (t2 : Option Target) (bsel : BitVec 4) (disp : BitVec 9) (s : State) :
    Host.Outcome State Fault Refusal :=
  onFiring s fun f =>
    s.fired (memShape h t2 true) f fun s =>
      if (f.a.map Tok.poi).getD false then s.poisonTrap f .a
      else
        s.issue { f.access .prefetch h.ty sc with pieces :=
          [{ addr := s.flatAddr f.k f.v bsel disp (f.data .a), size := 1, mask := 0xFF, data := 0 }] }

/-! Scratchpad. -/

/-- A scratchpad load of `n` bytes with its presence options (R143). -/
def scratchLoad (s : State) (h : Hdr) (sc : Scope) (nb clr wf : Bool) (t2 : Option Target) (disp : BitVec 13) (n : Nat) :
    Host.Outcome State Fault Refusal :=
  onFiring s fun f =>
    s.fired (memShape h t2 true) f fun s =>
      s.withScratch f disp n 0 fun sa =>
        s.issue { f.access .read h.ty sc with area := .scratch, acq := wf, wf := wf, clr := clr, nb := nb,
                                              pieces := [{ addr := sa, size := n, mask := 2 ^ (8 * n) - 1, data := 0 }] }

/-- A scratchpad store of `n` bytes (R143): one event with `.once`, else one event of 4 bytes each (R139). Poison of either token
of STSP marks the granule (R151; DESIGN CHOICE, log 105). -/
def scratchStore (s : State) (h : Hdr) (sc : Scope) (once : Bool) (t2 : Option Target) (disp : BitVec 13) (n d : Nat)
    (poi orderIn : Bool) (f : Firing) : State :=
  s.fired (memShape h t2 orderIn) f fun s =>
    s.withScratch f disp n 1 fun sa =>
      let ps : List Piece := if once || n = 4 then [{ addr := sa, size := n, mask := 2 ^ (8 * n) - 1, data := d }]
        else [{ addr := sa, size := 4, mask := 2 ^ 32 - 1, data := d % 2 ^ 32 }, { addr := sa + 4, size := 4, mask := 2 ^ 32 - 1, data := d >>> 32 }]
      s.store f { f.access .write h.ty sc with area := .scratch, rel := once, once := once, poi := poi, pieces := ps }
        [h.t0, h.t1, t2] (f.orderOut h orderIn)

def execLds (h : Hdr) (sc : Scope) (nb : Bool) (clr : Bool) (wf : Bool) (t2 : Option Target) (disp : BitVec 13) (s : State) :
    Host.Outcome State Fault Refusal := scratchLoad s h sc nb clr wf t2 disp 4
def execLdsp (h : Hdr) (sc : Scope) (nb : Bool) (clr : Bool) (wf : Bool) (t2 : Option Target) (disp : BitVec 13)
    (s : State) : Host.Outcome State Fault Refusal := scratchLoad s h sc nb clr wf t2 disp 8

def execSts (h : Hdr) (sc : Scope) (once : Bool) (t2 : Option Target) (disp : BitVec 13) (s : State) :
    Host.Outcome State Fault Refusal :=
  onFiring s fun f =>
    scratchStore s h sc once t2 disp 4 (f.data .b).toNat ((f.b.map Tok.poi).getD false) true f

def execStsp (h : Hdr) (sc : Scope) (once : Bool) (t2 : Option Target) (disp : BitVec 13) (s : State) :
    Host.Outcome State Fault Refusal :=
  onFiring s fun f =>
    scratchStore s h sc once t2 disp 8 ((f.data .b).toNat + (f.data .c).toNat * 2 ^ 32)
      ((f.b.map Tok.poi).getD false || (f.c.map Tok.poi).getD false) false f

/-- A presence operation on the granule of the address (R143); the address names any byte of it. -/
def presenceOp (s : State) (h : Hdr) (sc : Scope) (acq rel : Bool) (t2 : Option Target) (disp : BitVec 13)
    (kind : AccKind) : Host.Outcome State Fault Refusal :=
  onFiring s fun f =>
    s.fired (memShape h t2 true) f fun s =>
      s.withScratch f disp 1 kind.code fun sa =>
        s.issue { f.access kind h.ty sc with area := .scratch, acq := acq, rel := rel,
                                             pieces := [{ addr := sa, size := 1, mask := 0, data := 0 }] }

def execPset (h : Hdr) (sc : Scope) (once : Bool) (t2 : Option Target) (disp : BitVec 13) (s : State) :
    Host.Outcome State Fault Refusal := presenceOp s h sc false true t2 disp (.presence true false once false)
def execPclr (h : Hdr) (sc : Scope) (t2 : Option Target) (disp : BitVec 13) (s : State) :
    Host.Outcome State Fault Refusal := presenceOp s h sc false false t2 disp (.presence false true false false)
def execPtest (h : Hdr) (sc : Scope) (acq : Bool) (t2 : Option Target) (disp : BitVec 13) (s : State) :
    Host.Outcome State Fault Refusal := presenceOp s h sc acq false t2 disp (.presence false false false true)

/-! Atomics. -/

/-- An atomic of `n` bytes with its operands (R145, R146, R151). Where several traps apply to one firing, the address comes
first, then ALIGN, then POISON of an operand (R152; DESIGN CHOICE, log 106). -/
def atomicAccess (s : State) (h : Hdr) (sc : Scope) (acq rel : Bool) (t2 : Option Target) (bsel : BitVec 4)
    (disp : BitVec 9) (op : AtOp) (n : Nat) (orderIn : Bool) (opnd cmp : Firing → Nat) (checked : List Slot) :
    Host.Outcome State Fault Refusal :=
  onFiring s fun f =>
    s.fired (memShape h t2 orderIn) f fun s =>
      s.withFlat f bsel disp (.atomic op h.ty) n fun va =>
        if va % n ≠ 0 then s.alignTrap f va n
        else match checked.find? fun sl => ((f.tok? sl).map Tok.poi).getD false with
          | some sl => s.poisonTrap f sl
          | none =>
            s.issue { f.access (.atomic op h.ty) h.ty sc with
                      acq := acq, rel := rel, opnd := opnd f, cmp := cmp f,
                      pieces := [{ addr := va, size := n, mask := 2 ^ (8 * n) - 1, data := 0 }] }

/-- A 32-bit atomic whose operand is slot b. -/
def atomic32 (s : State) (h : Hdr) (sc : Scope) (acq rel : Bool) (t2 : Option Target) (bsel : BitVec 4) (disp : BitVec 9)
    (op : AtOp) : Host.Outcome State Fault Refusal :=
  atomicAccess s h sc acq rel t2 bsel disp op 4 true (fun f => (f.data .b).toNat) (fun _ => 0) [.b]

/-- A 64-bit atomic whose operand is slots b and c. -/
def atomic64 (s : State) (h : Hdr) (sc : Scope) (acq rel : Bool) (t2 : Option Target) (bsel : BitVec 4) (disp : BitVec 9)
    (op : AtOp) : Host.Outcome State Fault Refusal :=
  atomicAccess s h sc acq rel t2 bsel disp op 8 false
    (fun f => (f.data .b).toNat + (f.data .c).toNat * 2 ^ 32) (fun _ => 0) [.b, .c]

def execAtadd (h : Hdr) (sc : Scope) (acq : Bool) (rel : Bool) (t2 : Option Target) (bsel : BitVec 4) (disp : BitVec 9)
    (s : State) : Host.Outcome State Fault Refusal := atomic32 s h sc acq rel t2 bsel disp .add
def execAtadd64 (h : Hdr) (sc : Scope) (acq : Bool) (rel : Bool) (t2 : Option Target) (bsel : BitVec 4) (disp : BitVec 9)
    (s : State) : Host.Outcome State Fault Refusal := atomic64 s h sc acq rel t2 bsel disp .add
def execAtmin (h : Hdr) (sc : Scope) (acq : Bool) (rel : Bool) (t2 : Option Target) (bsel : BitVec 4) (disp : BitVec 9)
    (s : State) : Host.Outcome State Fault Refusal := atomic32 s h sc acq rel t2 bsel disp .min
def execAtmin64 (h : Hdr) (sc : Scope) (acq : Bool) (rel : Bool) (t2 : Option Target) (bsel : BitVec 4) (disp : BitVec 9)
    (s : State) : Host.Outcome State Fault Refusal := atomic64 s h sc acq rel t2 bsel disp .min
def execAtmax (h : Hdr) (sc : Scope) (acq : Bool) (rel : Bool) (t2 : Option Target) (bsel : BitVec 4) (disp : BitVec 9)
    (s : State) : Host.Outcome State Fault Refusal := atomic32 s h sc acq rel t2 bsel disp .max
def execAtmax64 (h : Hdr) (sc : Scope) (acq : Bool) (rel : Bool) (t2 : Option Target) (bsel : BitVec 4) (disp : BitVec 9)
    (s : State) : Host.Outcome State Fault Refusal := atomic64 s h sc acq rel t2 bsel disp .max
def execAtand (h : Hdr) (sc : Scope) (acq : Bool) (rel : Bool) (t2 : Option Target) (bsel : BitVec 4) (disp : BitVec 9)
    (s : State) : Host.Outcome State Fault Refusal := atomic32 s h sc acq rel t2 bsel disp .and
def execAtand64 (h : Hdr) (sc : Scope) (acq : Bool) (rel : Bool) (t2 : Option Target) (bsel : BitVec 4) (disp : BitVec 9)
    (s : State) : Host.Outcome State Fault Refusal := atomic64 s h sc acq rel t2 bsel disp .and
def execAtor (h : Hdr) (sc : Scope) (acq : Bool) (rel : Bool) (t2 : Option Target) (bsel : BitVec 4) (disp : BitVec 9)
    (s : State) : Host.Outcome State Fault Refusal := atomic32 s h sc acq rel t2 bsel disp .or
def execAtor64 (h : Hdr) (sc : Scope) (acq : Bool) (rel : Bool) (t2 : Option Target) (bsel : BitVec 4) (disp : BitVec 9)
    (s : State) : Host.Outcome State Fault Refusal := atomic64 s h sc acq rel t2 bsel disp .or
def execAtxor (h : Hdr) (sc : Scope) (acq : Bool) (rel : Bool) (t2 : Option Target) (bsel : BitVec 4) (disp : BitVec 9)
    (s : State) : Host.Outcome State Fault Refusal := atomic32 s h sc acq rel t2 bsel disp .xor
def execAtxor64 (h : Hdr) (sc : Scope) (acq : Bool) (rel : Bool) (t2 : Option Target) (bsel : BitVec 4) (disp : BitVec 9)
    (s : State) : Host.Outcome State Fault Refusal := atomic64 s h sc acq rel t2 bsel disp .xor
def execAtswap (h : Hdr) (sc : Scope) (acq : Bool) (rel : Bool) (t2 : Option Target) (bsel : BitVec 4) (disp : BitVec 9)
    (s : State) : Host.Outcome State Fault Refusal := atomic32 s h sc acq rel t2 bsel disp .swap
def execAtswap64 (h : Hdr) (sc : Scope) (acq : Bool) (rel : Bool) (t2 : Option Target) (bsel : BitVec 4) (disp : BitVec 9)
    (s : State) : Host.Outcome State Fault Refusal := atomic64 s h sc acq rel t2 bsel disp .swap

def execAtcas (h : Hdr) (sc : Scope) (acq : Bool) (rel : Bool) (t2 : Option Target) (bsel : BitVec 4) (disp : BitVec 9)
    (s : State) : Host.Outcome State Fault Refusal :=
  atomicAccess s h sc acq rel t2 bsel disp .cas 4 false (fun f => (f.data .b).toNat) (fun f => (f.data .c).toNat) [.b, .c]

def execAtfadd (h : Hdr) (sc : Scope) (acq : Bool) (rel : Bool) (rm : Rnd) (t2 : Option Target) (bsel : BitVec 4)
    (disp : BitVec 9) (s : State) : Host.Outcome State Fault Refusal :=
  atomic32 s h sc acq rel t2 bsel disp (.fadd rm)

/-- ATCAS64 (R146): its comparand and new value are the granule that slot b names; a first piece reads the granule, which
keeps its presence bit, and the second is the atomic. -/
def execAtcas64 (h : Hdr) (sc : Scope) (acq : Bool) (rel : Bool) (t2 : Option Target) (bsel : BitVec 4) (disp : BitVec 9)
    (s : State) : Host.Outcome State Fault Refusal :=
  onFiring s fun f =>
    s.fired (memShape h t2 true) f fun s =>
      s.withFlat f bsel disp (.atomic .cas h.ty) 8 fun va =>
        if va % 8 ≠ 0 then s.alignTrap f va 8
        else if (f.b.map Tok.poi).getD false then s.poisonTrap f .b
        else match scratchAddr (f.data .b) 0 with
          | none => s.permTrap f 4 (f.data .b).toNat 0
          | some g =>
            if g % 16 ≠ 0 then s.alignTrap f g 16
            else if (s.scratchPlace f.k g).isNone then s.permTrap f 4 g 0
            else
              s.issue { f.access (.atomic .cas h.ty) h.ty sc with
                        acq := acq, rel := rel,
                        pieces := [{ addr := 0xFFFFF0000000000 + g, size := 16, mask := 0, data := 0 },
                                   { addr := va, size := 8, mask := 2 ^ 64 - 1, data := 0 }] }

/-- FENCE (R148): a release, an acquire, or both; its order-out leaves once it is performed. -/
def execFence (h : Hdr) (sc : Scope) (acq : Bool) (rel : Bool) (t2 : Option Target) (s : State) :
    Host.Outcome State Fault Refusal :=
  onFiring s fun f =>
    s.fired (memShape h t2 true) f fun s =>
      s.issue (f.order sc (acq || !rel) (rel || !acq))

end Sys2Proof.Machine
end

