-- ==== Sys2Proof/Machine/Readback.lean ====
section
/-! DEFINITION. The readback map (R456 to R458, R478, R479): the write of a register without behaviour of its own (R9), and
what a host read returns. A read changes no state. -/

namespace Sys2Proof.Machine

/-! Offsets. -/

/-- The package register at a BAR0 offset of its own (R479). -/
def pkgReg (o : Nat) : Option Reg :=
  ([.pkgStat, .pkgRst, .pwrCfg, .pwrStat, .pkgCyc, .dieFence, .gongCtl, .gongCyc, .mckReq, .mckStat, .hbmRetreq, .hbmRetstat,
    .fwLdreq, .fwStat, .rbPage 0, .rbPage 1, .hostEvt, .hostEvmask, .hostEvht, .hostApctl, .linkId, .winCfg, .carGtab, .trAtab,
    .trCfl, .trInvva, .trInv, .trInvstat, .imgLdreq, .imgStat, .tcCtl, .tcStat, .belId, .belStat, .belCtl, .belLdreq, .frzAct 64,
    .frzStat 64, .frzCyc 64] : List Reg).find? fun r => r.offset = o

/-- The register of context slot `k` at an offset in its page. -/
def slotReg (k o : Nat) : Option Reg :=
  match ([.ctxRun k, .ctxSave k, .schedPre k, .schedQtab k, .schedCtx k, .sheafCtl k, .sheafStat k, .sheafOvf k, .sheafRet k,
    .trSlot k, .trapArea k, .trapRes k, .ctxShdpool k, .flagLo k, .flagHi k, .stallim k, .trapch k, .codegen k, .cyclo k,
    .cychi k] : List Reg).find? fun r => r.offset = 0x20000 + 0x1000 * k + o with
  | some r => some r
  | none =>
    if 0x80 ≤ o && o < 0xC0 then some (.ctxBmap k (o - 0x80))
    else if 0x440 ≤ o && o < 0x480 && o % 4 = 0 then some (.amax k ((o - 0x440) / 4))
    else none

/-- The register of die `d` at an offset in its region. -/
def dieReg (d o : Nat) : Option Reg :=
  if o = 0 then some (.trFqb d) else if o = 8 then some (.trFqht d) else if o = 0x10 then some (.trFqres d) else none

/-- The register of barn `b` at an offset in its region. -/
def barnReg (b o : Nat) : Option Reg :=
  if o = 0 then some (.svcCtl b) else if o = 8 then some (.frzAct b) else if o = 0x10 then some (.frzStat b)
  else if o = 0x18 then some (.frzCyc b)
  else if o % 4 ≠ 0 then none
  else if 0x100 ≤ o && o < 0x180 then some (.spadAlloc b ((o - 0x100) / 4))
  else if 0x200 ≤ o && o < 0x280 then some (.wbufAlloc b ((o - 0x200) / 4))
  else if 0x300 ≤ o && o < 0x31C then some (.errCe b ((o - 0x300) / 4))
  else if 0x340 ≤ o && o < 0x35C then some (.errUe b ((o - 0x340) / 4))
  else none

/-- The register at a BAR0 offset (R479). -/
def regAt (o : Nat) : Option Reg :=
  if o < 0x10000 then
    if 0xC0 ≤ o && o < 0xE0 && o % 4 = 0 then some (.linkStat ((o - 0xC0) / 4))
    else if 0x100 ≤ o && o < 0x200 && o % 4 = 0 then some (.linkRoute ((o - 0x100) / 4))
    else if 0x300 ≤ o && o < 0x380 && o % 4 = 0 then some (.schedTq ((o - 0x300) / 4))
    else if 0x400 ≤ o && o < 0x420 && o % 4 = 0 then some (.belHookcnt ((o - 0x400) / 4))
    else pkgReg o
  else if 0x20000 ≤ o && o < 0x40000 then slotReg ((o - 0x20000) / 0x1000) (o % 0x1000)
  else if 0x40000 ≤ o && o < 0x80000 then dieReg ((o - 0x40000) / 0x8000) (o % 0x8000)
  else if 0x100000 ≤ o && o < 0x500000 then barnReg ((o - 0x100000) / 0x10000) (o % 0x10000)
  else none

/-- The register that an access of `m` bytes at an offset reaches, and the part of it: 0 whole, 1 the low half, 2 the high
half (R479). -/
def regPart (o m : Nat) : Option (Reg × Nat) :=
  match regAt o with
  | some r =>
    if m * 8 = r.width then some (r, 0) else if r.width = 64 && m = 4 then some (r, 1) else none
  | none =>
    if m = 4 && o % 8 = 4 then
      match regAt (o - 4) with
      | some r => if r.width = 64 then some (r, 2) else none
      | none => none
    else none

/-! Writes. -/

/-- A load request joins the loader's queue, or is discarded with OVF where 16 are in it (R403). -/
def State.queueLoad (s : State) (v : DWord) : State :=
  if 16 ≤ s.loadq.length then s.setField .imgStat 63 1 1
  else
    let s : State := { s with loadq := s.loadq ++ [bitsAt v.toNat 6 38 * 64] }
    s.setField .imgStat 32 5 s.loadq.length

/-- A written value as it stands in a whole register. -/
def wholeValue (v : DWord) (part : Nat) : DWord := if part = 2 then v <<< 32 else v &&& partMask part

/-- A write of a register by access code, with what its rule says of the write: CAP out of range is discarded (R476), TR_SLOT
and SCHED_CTX are discarded while the slot holds a placement (R361, R339), IMG_LDREQ enqueues (R403), a route that changes
lets waiting collectives go on (R397). A register whose write is an event of its own takes none here. -/
def State.writePlain (s : State) (r : Reg) (v : DWord) (part : Nat) : State :=
  let v := wholeValue v part
  match r with
  | .pwrCfg => let c := bitsAt v.toNat 0 12; if 600 ≤ c && c ≤ 2400 then s.writeReg r v else s
  | .trSlot k => if s.hasPlacement k then s else s.writeReg r v
  | .schedCtx k => if s.hasPlacement k then s else s.writeReg r v
  | .imgLdreq => s.queueLoad v
  | .linkRoute _ => (s.writeReg r v).routesChanged
  | .gongCtl => if v.getLsbD 29 then s else s.writeGong v part
  | .ctxRun _ => if bitsAt v.toNat 30 2 = 0 then s.writeReg r v else s
  | .tcCtl => if v.getLsbD 1 then s else s.writeReg r v
  | .schedQtab _ | .sheafRet _ | .sheafOvf _ | .ctxShdpool _ | .spadAlloc _ _ | .wbufAlloc _ _ | .linkStat _ | .trapRes _
  | .stallim _ | .frzAct _ | .belLdreq | .mckReq | .svcCtl _ | .ctxBmap _ _ | .hbmRetreq | .dieFence | .fwLdreq | .pkgRst
  | .trInv | .trFqres _ => s
  | _ => s.writePart r v part

/-- The state-space address that an offset in the state window of a port names (R456). -/
def State.windowAddr (s : State) (port o : Nat) : Nat := s.regField (.rbPage port) 23 25 * 2 ^ 23 + (o - 0x800000)

/-- A write of MASK in a handler table (R249): the entry of channel c of tile t lies at 512 t + 8 c. -/
def State.writeMask (s : State) (a : Nat) (v : DWord) : State :=
  let b := bitsAt a 32 8
  let t := bitsAt a 9 23
  let e := (b, t, bitsAt a 3 6)
  if bitsAt a 40 8 = 0x22 && b < 64 && t < 8 && a % 8 = 0 then
    let l := s.masks.filter fun x => x ≠ e
    { s with masks := if v.getLsbD 10 then l ++ [e] else l }
  else s

/-- The slot and the queue whose doorbell a write of `m` bytes at a BAR0 offset reaches (R334, R456). -/
def doorbellAt (o m : Nat) : Option (Nat × Nat) :=
  if 0x10000 ≤ o && o < 0x12000 && m = 4 && o % 4 = 0 then some ((o - 0x10000) / 0x100, o % 0x100 / 4) else none

/-- REGISTER_WRITE (R9, R334, R458, R479): a write `val` of `m` bytes at BAR0 offset `n` of port `u`. -/
def execRegisterWrite (s : State) : Host.Outcome State Fault Refusal :=
  let o := s.arg.n
  .next (if 0x800000 ≤ o then
    (if o < 0x1000000 && (s.arg.m = 4 || s.arg.m = 8) then s.writeMask (s.windowAddr s.arg.u o) s.arg.val else s)
  else match doorbellAt o s.arg.m with
    | some (k, q) => s.doorbell k q (s.arg.val.toNat % 2 ^ 32)
    | none =>
      match regPart o s.arg.m with
      | some (r, part) => s.writePlain r s.arg.val part
      | none => s)

/-! Reads. -/

/-- What a register shows: PKG_CYC counts (R452), FENCED and the P bits follow from the fabric (R461), the rest is stored. -/
def State.shows (s : State) (r : Reg) : DWord :=
  match r with
  | .pkgCyc => BitVec.ofNat 64 s.cyc
  | .cyclo _ => BitVec.ofNat 64 (s.cyc % 2 ^ 32)
  | .cychi _ => BitVec.ofNat 64 (s.cyc / 2 ^ 32 % 2 ^ 32)
  | .svcCtl b =>
    let bit (n : Nat) (x : Bool) (v : DWord) : DWord := putField v n 1 (if x then 1 else 0)
    let fenced := (s.reg r).getLsbD 31 && (s.placedIn b).isEmpty
    bit 30 fenced (bit 14 (s.spareBusy b 8) (bit 6 (s.spareBusy b 0) (s.reg r)))
  | _ => s.reg r

/-- BEL_SLOT.n (R436): record n of the installed patch image, or zeros. -/
def State.belSlot (s : State) (n : Nat) : List Byte :=
  if n < recField s.patchImg 0x0D 1 then (s.patchImg.drop (0x80 + 64 * n)).take 64 else recZero 64

/-- Bytes `o` to `o + m - 1` of a list, zero beyond its end. -/
def bytesAt (l : List Byte) (o m : Nat) : DWord := BitVec.ofNat 64 (recField l o m)

/-- A handler table entry (R249). -/
def State.handlerEntry (s : State) (b t ch : Nat) : List Byte :=
  let q := (s.fab.chans.filter fun c => c.barn = b && c.tile = t && c.ch = some ch).length
  let bit (x : Bool) (n : Nat) : Nat := if x then 2 ^ n else 0
  let mask := bit (s.masks.contains (b, t, ch)) 10 + bit (decide (0 < q)) 9 + q * 2 ^ 16
  match s.fab.handlers.find? fun h => h.barn = b && h.tile = t && h.ch = ch with
  | some h =>
    let link := ((s.inst? h.k h.v).map fun i => (h.blk - i.base) / 64).getD 0
    leBytes 4 (mask + bit true 11 + bit h.active 8 + h.pri) ++ leBytes 4 link
  | none => leBytes 4 mask ++ leBytes 4 0

/-- The 32 bytes at entry `n` of a die's Sheaf Table: set × 16 + way. -/
def State.sheafEntry (s : State) (die n : Nat) : List Byte :=
  match s.sheaves.find? fun e => e.way = some (n % 16) && sheafHome e.asid e.tid e.tile = (die, n / 16) with
  | some e => s.sheafBytes e
  | none => recZero 32

/-- An ERR_LOG entry (R432). -/
def ErrEntry.bytes (e : ErrEntry) : List Byte :=
  leBytes 1 e.unit ++ leBytes 1 e.cls ++ leBytes 1 e.slot ++ leBytes 1 e.out ++ leBytes 4 e.loc ++ leBytes 8 e.addr ++
  leBytes 8 e.cyc ++ recZero 8

/-- A host event queue entry (R430). -/
def HostEvent.bytes (e : HostEvent) : List Byte :=
  leBytes 1 e.type ++ leBytes 1 e.slot ++ leBytes 2 e.a ++ leBytes 4 e.b ++ leBytes 8 e.cyc

/-- The item of a ring of `n` that holds the last items of a list, of which `total` were ever written. -/
def ringItem {α : Type} (l : List α) (n total i : Nat) : Option α :=
  (lowest (fun j => (total - l.length + j) % n = i) l.length).bind fun j => (l.drop j).head?

/-- An entry of a slot's image table (R404): base, length, MIN; their places are the model's (DESIGN CHOICE, log 14). -/
def Image.bytes (i : Image) : List Byte := recordOf 0x2B 16 (leBytes 8 i.base ++ leBytes 4 i.len ++ leBytes 1 i.minr)

/-- A record of a waiter pool (R348). -/
def State.poolRecord (s : State) (pool n : Nat) : List Byte :=
  match s.waiters.find? fun w => w.pool = pool && !w.spill && w.id % 32768 = n with
  | some w => s.waiterBytes w
  | none => recZero 64

/-- A structure of the state space as the 64 bytes at a multiple of 64 (R457). Scan latches, whose layout the manual does not give,
are free (DESIGN CHOICE, log 14). -/
def State.windowLine (s : State) (kind index line : Nat) : List Byte :=
  let sub (n size : Nat) (f : Nat → List Byte) : List Byte := (upto n).flatMap fun i => f (64 * line / size + i)
  if 1 ≤ kind && kind ≤ 14 then
    match (s.saveSections index).find? fun x => x.1 = kind with
    | some x => (x.2.2.drop (64 * line)).take 64
    | none => recZero 64
  else if kind = 0x20 then s.loftLine index line
  else if kind = 0x21 then s.tableLine index line
  else if kind = 0x24 then s.poolRecord index line
  else if kind = 0x22 then sub 8 8 fun n => s.handlerEntry index (n / 64) (n % 64)
  else if kind = 0x23 then sub 2 32 (s.sheafEntry index)
  else if kind = 0x25 then
    match s.traps.find? fun t => t.k = index && t.index = line with
    | some t => t.record
    | none => recZero 64
  else if kind = 0x26 then
    let log := leBytes 4 s.errCount ++ recZero 4 ++ (upto 32).flatMap fun i =>
      ((ringItem s.errLog 32 s.errCount i).map ErrEntry.bytes).getD (recZero 32)
    let ctr (f : Nat → Reg) : List Byte := (upto 7).flatMap fun n => leBytes 4 (s.reg (f n)).toNat
    ((log ++ ctr (Reg.errCe index) ++ ctr (Reg.errUe index)).drop (64 * line)).take 64
  else if kind = 0x27 then sub 4 16 fun n => ((ringItem s.hostEvts 64 (s.regField .hostEvht 32 32 + 64) n).map HostEvent.bytes).getD (recZero 16)
  else if kind = 0x28 && !s.frozenPart index then List.replicate 64 0xFF
  else if kind = 0x29 then sub 8 8 fun n => leBytes 8 (((s.snap.find? fun x => x.unit = index && x.item = n).map SnapItem.val).getD 0)
  else if kind = 0x2A then s.winnowLine index line
  else if kind = 0x2B then sub 4 16 fun n => (((s.images.filter fun i => i.k = index).drop n).head?.map Image.bytes).getD (recZero 16)
  else if kind = 0x2C then (if line = 0 then leBytes 8 (((s.shadowDrop.find? fun p => p.1 = index).map Prod.snd).getD 0) ++ recZero 56 else recZero 64)
  else if kind = 0x28 then freeBytes ((s.ctr * 256 + index) * 2 ^ 26 + line) 64
  else recZero 64

/-- A read of `m` bytes at a state-space address. -/
def State.windowRead (s : State) (a m : Nat) : DWord :=
  bytesAt (s.windowLine (bitsAt a 40 8) (bitsAt a 32 8) (bitsAt a 6 26)) (a % 64) m

/-- What a host read of `m` bytes, aligned, at a BAR0 offset of port `u` returns (R456, R458, R474, R479). -/
def State.bar0Read (s : State) (u o m : Nat) : DWord :=
  if s.regField .pkgStat 31 1 = 0 && o ≠ 0 then (if m = 8 then 0xFFFFFFFFFFFFFFFF else 0xFFFFFFFF)
  else if 0x800000 ≤ o then (if o < 0x1000000 then s.windowRead (s.windowAddr u o) m else 0)
  else if 0x800 ≤ o && o < 0xC00 then bytesAt (s.belSlot ((o - 0x800) / 64)) (o % 64) m
  else match regPart o m with
    | some (r, part) => if part = 2 then s.shows r >>> 32 else s.shows r &&& partMask part
    | none => 0

end Sys2Proof.Machine
end

