-- ==== Sys2Proof/Machine/Dispatch.lean ====
section
/-! DEFINITION. The dispatch: one arm per instruction, a direct call of its meaning. -/

namespace Sys2Proof.Machine

/-- The meaning of an instruction or event in a state. -/
def exec (i : Instr) (s : State) : Host.Outcome State Fault Refusal :=
  match i with
  | .add h sat => Sys2Proof.Machine.execAdd h sat s
  | .sub h sat => Sys2Proof.Machine.execSub h sat s
  | .mul h sat => Sys2Proof.Machine.execMul h sat s
  | .mulh h => Sys2Proof.Machine.execMulh h s
  | .mad h sat => Sys2Proof.Machine.execMad h sat s
  | .neg h sat => Sys2Proof.Machine.execNeg h sat s
  | .abs h sat => Sys2Proof.Machine.execAbs h sat s
  | .min h => Sys2Proof.Machine.execMin h s
  | .max h => Sys2Proof.Machine.execMax h s
  | .addi h sat imm => Sys2Proof.Machine.execAddi h sat imm s
  | .muli h sat imm => Sys2Proof.Machine.execMuli h sat imm s
  | .lea h disp sh => Sys2Proof.Machine.execLea h disp sh s
  | .cidx2 h sat e => Sys2Proof.Machine.execCidx2 h sat e s
  | .cidx3 h sat e1 e0 => Sys2Proof.Machine.execCidx3 h sat e1 e0 s
  | .dot4 h sat => Sys2Proof.Machine.execDot4 h sat s
  | .div h sat => Sys2Proof.Machine.execDiv h sat s
  | .rem h => Sys2Proof.Machine.execRem h s
  | .absd h => Sys2Proof.Machine.execAbsd h s
  | .and h => Sys2Proof.Machine.execAnd h s
  | .or h => Sys2Proof.Machine.execOr h s
  | .xor h => Sys2Proof.Machine.execXor h s
  | .andn h => Sys2Proof.Machine.execAndn h s
  | .not h => Sys2Proof.Machine.execNot h s
  | .shl h => Sys2Proof.Machine.execShl h s
  | .shr h => Sys2Proof.Machine.execShr h s
  | .sra h => Sys2Proof.Machine.execSra h s
  | .rol h => Sys2Proof.Machine.execRol h s
  | .ror h => Sys2Proof.Machine.execRor h s
  | .shli h n => Sys2Proof.Machine.execShli h n s
  | .shri h n => Sys2Proof.Machine.execShri h n s
  | .srai h n => Sys2Proof.Machine.execSrai h n s
  | .bfx h len pos => Sys2Proof.Machine.execBfx h len pos s
  | .bfi h len pos => Sys2Proof.Machine.execBfi h len pos s
  | .popc h => Sys2Proof.Machine.execPopc h s
  | .clz h => Sys2Proof.Machine.execClz h s
  | .ctz h => Sys2Proof.Machine.execCtz h s
  | .brev h => Sys2Proof.Machine.execBrev h s
  | .prmt h sel => Sys2Proof.Machine.execPrmt h sel s
  | .cmpeq h imm val => Sys2Proof.Machine.execCmpeq h imm val s
  | .cmpne h imm val => Sys2Proof.Machine.execCmpne h imm val s
  | .cmplt h imm val => Sys2Proof.Machine.execCmplt h imm val s
  | .cmple h imm val => Sys2Proof.Machine.execCmple h imm val s
  | .cmpgt h imm val => Sys2Proof.Machine.execCmpgt h imm val s
  | .cmpge h imm val => Sys2Proof.Machine.execCmpge h imm val s
  | .pand h => Sys2Proof.Machine.execPand h s
  | .por h => Sys2Proof.Machine.execPor h s
  | .pxor h => Sys2Proof.Machine.execPxor h s
  | .pandn h => Sys2Proof.Machine.execPandn h s
  | .pnot h => Sys2Proof.Machine.execPnot h s
  | .select h => Sys2Proof.Machine.execSelect h s
  | .testz h imm val => Sys2Proof.Machine.execTestz h imm val s
  | .mov h t2 => Sys2Proof.Machine.execMov h t2 s
  | .const h imm => Sys2Proof.Machine.execConst h imm s
  | .lit h => Sys2Proof.Machine.execLit h s
  | .switch h => Sys2Proof.Machine.execSwitch h s
  | .merge h => Sys2Proof.Machine.execMerge h s
  | .gate h => Sys2Proof.Machine.execGate h s
  | .sync h c3 => Sys2Proof.Machine.execSync h c3 s
  | .drop h => Sys2Proof.Machine.execDrop h s
  | .null h => Sys2Proof.Machine.execNull h s
  | .alloc h lim => Sys2Proof.Machine.execAlloc h lim s
  | .free h => Sys2Proof.Machine.execFree h s
  | .enter h idx imm n => Sys2Proof.Machine.execEnter h idx imm n s
  | .leave h n => Sys2Proof.Machine.execLeave h n s
  | .tagrd h w off sel => Sys2Proof.Machine.execTagrd h w off sel s
  | .tagwr h w off => Sys2Proof.Machine.execTagwr h w off s
  | .fadd h sat rm => Sys2Proof.Machine.execFadd h sat rm s
  | .fsub h sat rm => Sys2Proof.Machine.execFsub h sat rm s
  | .fmul h sat rm => Sys2Proof.Machine.execFmul h sat rm s
  | .ffma h sat rm => Sys2Proof.Machine.execFfma h sat rm s
  | .ffms h sat rm => Sys2Proof.Machine.execFfms h sat rm s
  | .fmin h => Sys2Proof.Machine.execFmin h s
  | .fmax h => Sys2Proof.Machine.execFmax h s
  | .fabs h => Sys2Proof.Machine.execFabs h s
  | .fneg h => Sys2Proof.Machine.execFneg h s
  | .fcpys h => Sys2Proof.Machine.execFcpys h s
  | .fcmpeq h lane => Sys2Proof.Machine.execFcmpeq h lane s
  | .fcmpne h lane => Sys2Proof.Machine.execFcmpne h lane s
  | .fcmplt h lane => Sys2Proof.Machine.execFcmplt h lane s
  | .fcmple h lane => Sys2Proof.Machine.execFcmple h lane s
  | .fcmpun h lane => Sys2Proof.Machine.execFcmpun h lane s
  | .fdot2 h sat rm => Sys2Proof.Machine.execFdot2 h sat rm s
  | .fcvt h amx sat rm areg lane src => Sys2Proof.Machine.execFcvt h amx sat rm areg lane src s
  | .fcvtp h sat rm src => Sys2Proof.Machine.execFcvtp h sat rm src s
  | .fcvtx h sat rm pos lane src => Sys2Proof.Machine.execFcvtx h sat rm pos lane src s
  | .frnd h rm => Sys2Proof.Machine.execFrnd h rm s
  | .fldexp h sat rm expf => Sys2Proof.Machine.execFldexp h sat rm expf s
  | .fgetexp h => Sys2Proof.Machine.execFgetexp h s
  | .reconf h sat rm => Sys2Proof.Machine.execReconf h sat rm s
  | .fexp2f h => Sys2Proof.Machine.execFexp2f h s
  | .flog2 h => Sys2Proof.Machine.execFlog2 h s
  | .frcp h => Sys2Proof.Machine.execFrcp h s
  | .frsq h => Sys2Proof.Machine.execFrsq h s
  | .fsqrt h rm => Sys2Proof.Machine.execFsqrt h rm s
  | .fsin2 h => Sys2Proof.Machine.execFsin2 h s
  | .fcos2 h => Sys2Proof.Machine.execFcos2 h s
  | .ldb h sc acq t2 bsel disp => Sys2Proof.Machine.execLdb h sc acq t2 bsel disp s
  | .ldh h sc acq t2 bsel disp => Sys2Proof.Machine.execLdh h sc acq t2 bsel disp s
  | .ld h sc acq t2 bsel disp => Sys2Proof.Machine.execLd h sc acq t2 bsel disp s
  | .ldp h sc acq t2 bsel disp => Sys2Proof.Machine.execLdp h sc acq t2 bsel disp s
  | .stb h sc rel t2 bsel disp => Sys2Proof.Machine.execStb h sc rel t2 bsel disp s
  | .sth h sc rel t2 bsel disp => Sys2Proof.Machine.execSth h sc rel t2 bsel disp s
  | .st h sc rel t2 bsel disp => Sys2Proof.Machine.execSt h sc rel t2 bsel disp s
  | .stp h sc rel t2 bsel disp => Sys2Proof.Machine.execStp h sc rel t2 bsel disp s
  | .prefetch h sc t2 bsel disp => Sys2Proof.Machine.execPrefetch h sc t2 bsel disp s
  | .lds h sc nb clr wf t2 disp => Sys2Proof.Machine.execLds h sc nb clr wf t2 disp s
  | .sts h sc once t2 disp => Sys2Proof.Machine.execSts h sc once t2 disp s
  | .ldsp h sc nb clr wf t2 disp => Sys2Proof.Machine.execLdsp h sc nb clr wf t2 disp s
  | .stsp h sc once t2 disp => Sys2Proof.Machine.execStsp h sc once t2 disp s
  | .pset h sc once t2 disp => Sys2Proof.Machine.execPset h sc once t2 disp s
  | .pclr h sc t2 disp => Sys2Proof.Machine.execPclr h sc t2 disp s
  | .ptest h sc acq t2 disp => Sys2Proof.Machine.execPtest h sc acq t2 disp s
  | .atadd h sc acq rel t2 bsel disp => Sys2Proof.Machine.execAtadd h sc acq rel t2 bsel disp s
  | .atmin h sc acq rel t2 bsel disp => Sys2Proof.Machine.execAtmin h sc acq rel t2 bsel disp s
  | .atmax h sc acq rel t2 bsel disp => Sys2Proof.Machine.execAtmax h sc acq rel t2 bsel disp s
  | .atand h sc acq rel t2 bsel disp => Sys2Proof.Machine.execAtand h sc acq rel t2 bsel disp s
  | .ator h sc acq rel t2 bsel disp => Sys2Proof.Machine.execAtor h sc acq rel t2 bsel disp s
  | .atxor h sc acq rel t2 bsel disp => Sys2Proof.Machine.execAtxor h sc acq rel t2 bsel disp s
  | .atswap h sc acq rel t2 bsel disp => Sys2Proof.Machine.execAtswap h sc acq rel t2 bsel disp s
  | .atcas h sc acq rel t2 bsel disp => Sys2Proof.Machine.execAtcas h sc acq rel t2 bsel disp s
  | .atfadd h sc acq rel rm t2 bsel disp => Sys2Proof.Machine.execAtfadd h sc acq rel rm t2 bsel disp s
  | .atadd64 h sc acq rel t2 bsel disp => Sys2Proof.Machine.execAtadd64 h sc acq rel t2 bsel disp s
  | .atmin64 h sc acq rel t2 bsel disp => Sys2Proof.Machine.execAtmin64 h sc acq rel t2 bsel disp s
  | .atmax64 h sc acq rel t2 bsel disp => Sys2Proof.Machine.execAtmax64 h sc acq rel t2 bsel disp s
  | .atand64 h sc acq rel t2 bsel disp => Sys2Proof.Machine.execAtand64 h sc acq rel t2 bsel disp s
  | .ator64 h sc acq rel t2 bsel disp => Sys2Proof.Machine.execAtor64 h sc acq rel t2 bsel disp s
  | .atxor64 h sc acq rel t2 bsel disp => Sys2Proof.Machine.execAtxor64 h sc acq rel t2 bsel disp s
  | .atswap64 h sc acq rel t2 bsel disp => Sys2Proof.Machine.execAtswap64 h sc acq rel t2 bsel disp s
  | .atcas64 h sc acq rel t2 bsel disp => Sys2Proof.Machine.execAtcas64 h sc acq rel t2 bsel disp s
  | .fence h sc acq rel t2 => Sys2Proof.Machine.execFence h sc acq rel t2 s
  | .ldt h sc t2 desc => Sys2Proof.Machine.execLdt h sc t2 desc s
  | .stt h sc t2 desc => Sys2Proof.Machine.execStt h sc t2 desc s
  | .strm h sw shp desc => Sys2Proof.Machine.execStrm h sw shp desc s
  | .strmw h sc sw shp desc => Sys2Proof.Machine.execStrmw h sc sw shp desc s
  | .sred h sat rm ops sw => Sys2Proof.Machine.execSred h sat rm ops sw s
  | .sscan h sat rm ops sw => Sys2Proof.Machine.execSscan h sat rm ops sw s
  | .szip h trunc sw => Sys2Proof.Machine.execSzip h trunc sw s
  | .rdly h depth rt sw => Sys2Proof.Machine.execRdly h depth rt sw s
  | .rmax h rt sw => Sys2Proof.Machine.execRmax h rt sw s
  | .rsumx h rm rt sw => Sys2Proof.Machine.execRsumx h rm rt sw s
  | .rsqs h rm rt sw => Sys2Proof.Machine.execRsqs h rm rt sw s
  | .rrel h rm tgt => Sys2Proof.Machine.execRrel h rm tgt s
  | .mregion h e wm hm => Sys2Proof.Machine.execMregion h e wm hm s
  | .mfree h => Sys2Proof.Machine.execMfree h s
  | .wload h t2 cmp gsz wfmt => Sys2Proof.Machine.execWload h t2 cmp gsz wfmt s
  | .wswap h => Sys2Proof.Machine.execWswap h s
  | .mmac h iext sw mrows ires => Sys2Proof.Machine.execMmac h iext sw mrows ires s
  | .mdrain h sat sw pen port => Sys2Proof.Machine.execMdrain h sat sw pen port s
  | .ttask h sc t2 bsel disp => Sys2Proof.Machine.execTtask h sc t2 bsel disp s
  | .cpy h sc t2 bsel disp => Sys2Proof.Machine.execCpy h sc t2 bsel disp s
  | .gath h sc t2 bsel disp => Sys2Proof.Machine.execGath h sc t2 bsel disp s
  | .scat h sc t2 bsel disp => Sys2Proof.Machine.execScat h sc t2 bsel disp s
  | .coll h sc t2 bsel disp => Sys2Proof.Machine.execColl h sc t2 bsel disp s
  | .publish h sc t2 desc => Sys2Proof.Machine.execPublish h sc t2 desc s
  | .await h sc t2 desc => Sys2Proof.Machine.execAwait h sc t2 desc s
  | .roll h sc t2 => Sys2Proof.Machine.execRoll h sc t2 s
  | .rollArr h sc t2 bsel disp => Sys2Proof.Machine.execRollArr h sc t2 bsel disp s
  | .barwait h sc t2 bsel disp => Sys2Proof.Machine.execBarwait h sc t2 bsel disp s
  | .barinit h sc t2 bsel disp => Sys2Proof.Machine.execBarinit h sc t2 bsel disp s
  | .exit h part ent e => Sys2Proof.Machine.execExit h part ent e s
  | .call h rx f part ent e => Sys2Proof.Machine.execCall h rx f part ent e s
  | .ret h part ent => Sys2Proof.Machine.execRet h part ent s
  | .send h loc barn tile ch => Sys2Proof.Machine.execSend h loc barn tile ch s
  | .trap h code => Sys2Proof.Machine.execTrap h code s
  | .eret h act => Sys2Proof.Machine.execEret h act s
  | .crrd h num => Sys2Proof.Machine.execCrrd h num s
  | .crwr h num => Sys2Proof.Machine.execCrwr h num s
  | .gong h cause => Sys2Proof.Machine.execGong h cause s
  | .codepub h sc t2 bsel disp => Sys2Proof.Machine.execCodepub h sc t2 bsel disp s
  | .fetchsync h sc t2 => Sys2Proof.Machine.execFetchsync h sc t2 s
  | .launch h sc t2 bsel disp => Sys2Proof.Machine.execLaunch h sc t2 bsel disp s
  | .lqtake h t2 lq => Sys2Proof.Machine.execLqtake h t2 lq s
  | .kdone h => Sys2Proof.Machine.execKdone h s
  | .xpush q rs1 rs2 => Sys2Proof.Machine.execXpush q rs1 rs2 s
  | .xpushe q rs2 => Sys2Proof.Machine.execXpushe q rs2 s
  | .xpushn q rs2 => Sys2Proof.Machine.execXpushn q rs2 s
  | .xpop q rd => Sys2Proof.Machine.execXpop q rd s
  | .xpopnb q rd => Sys2Proof.Machine.execXpopnb q rd s
  | .xqcnt q rd => Sys2Proof.Machine.execXqcnt q rd s
  | .xlw bsel disp rs1 rd => Sys2Proof.Machine.execXlw bsel disp rs1 rd s
  | .xsw bsel disp rs2 rs1 => Sys2Proof.Machine.execXsw bsel disp rs2 rs1 s
  | .xlq bsel rs2 rs1 q => Sys2Proof.Machine.execXlq bsel rs2 rs1 q s
  | .xqst bsel q rs1 => Sys2Proof.Machine.execXqst bsel q rs1 s
  | .xcpy bsel n rs1 => Sys2Proof.Machine.execXcpy bsel n rs1 s
  | .xgath bsel n rs1 => Sys2Proof.Machine.execXgath bsel n rs1 s
  | .xscat bsel n rs1 => Sys2Proof.Machine.execXscat bsel n rs1 s
  | .xcoll bsel n rs1 => Sys2Proof.Machine.execXcoll bsel n rs1 s
  | .xttask bsel n rs1 => Sys2Proof.Machine.execXttask bsel n rs1 s
  | .xpub desc rs2 rs1 n => Sys2Proof.Machine.execXpub desc rs2 rs1 n s
  | .xawait desc rs2 rs1 n => Sys2Proof.Machine.execXawait desc rs2 rs1 n s
  | .xbarr bsel n rs1 => Sys2Proof.Machine.execXbarr bsel n rs1 s
  | .xbarw bsel n rs1 rd => Sys2Proof.Machine.execXbarw bsel n rs1 rd s
  | .xfence rel acq n => Sys2Proof.Machine.execXfence rel acq n s
  | .waitc l st c t => Sys2Proof.Machine.execWaitc l st c t s
  | .rpt stp2 stp1 stpd rep => Sys2Proof.Machine.execRpt stp2 stp1 stpd rep s
  | .xsend rs2 rs1 => Sys2Proof.Machine.execXsend rs2 rs1 s
  | .xcr num rd => Sys2Proof.Machine.execXcr num rd s
  | .ecall => Sys2Proof.Machine.execEcall s
  | .ebreak => Sys2Proof.Machine.execEbreak s
  | .baseInstruction w comp => Sys2Proof.Machine.execBaseInstruction w comp s
  | .tokenHop => Sys2Proof.Machine.execTokenHop s
  | .matchToken => Sys2Proof.Machine.execMatchToken s
  | .reconfTokenArrival => Sys2Proof.Machine.execReconfTokenArrival s
  | .configInForce => Sys2Proof.Machine.execConfigInForce s
  | .trapNodeFire => Sys2Proof.Machine.execTrapNodeFire s
  | .emulationFire => Sys2Proof.Machine.execEmulationFire s
  | .blockFetch => Sys2Proof.Machine.execBlockFetch s
  | .fetchRetry => Sys2Proof.Machine.execFetchRetry s
  | .gatherDelivery => Sys2Proof.Machine.execGatherDelivery s
  | .gatherTake => Sys2Proof.Machine.execGatherTake s
  | .baySelect => Sys2Proof.Machine.execBaySelect s
  | .bayConfigured => Sys2Proof.Machine.execBayConfigured s
  | .bayIdleTimeout => Sys2Proof.Machine.execBayIdleTimeout s
  | .bayFree => Sys2Proof.Machine.execBayFree s
  | .tileLoad => Sys2Proof.Machine.execTileLoad s
  | .handlerSelect => Sys2Proof.Machine.execHandlerSelect s
  | .invocationClose => Sys2Proof.Machine.execInvocationClose s
  | .instanceComplete => Sys2Proof.Machine.execInstanceComplete s
  | .memNodeRequest => Sys2Proof.Machine.execMemNodeRequest s
  | .bankRequest => Sys2Proof.Machine.execBankRequest s
  | .accessResponse => Sys2Proof.Machine.execAccessResponse s
  | .backInvalidate => Sys2Proof.Machine.execBackInvalidate s
  | .hostMemAccess => Sys2Proof.Machine.execHostMemAccess s
  | .hostApertureAccess => Sys2Proof.Machine.execHostApertureAccess s
  | .barAtomicRequest => Sys2Proof.Machine.execBarAtomicRequest s
  | .hostSnoop => Sys2Proof.Machine.execHostSnoop s
  | .walkComplete => Sys2Proof.Machine.execWalkComplete s
  | .atsResponse => Sys2Proof.Machine.execAtsResponse s
  | .faultQueueWrite => Sys2Proof.Machine.execFaultQueueWrite s
  | .priRequest => Sys2Proof.Machine.execPriRequest s
  | .priResponse => Sys2Proof.Machine.execPriResponse s
  | .fqresRetry => Sys2Proof.Machine.execFqresRetry s
  | .fqresFail => Sys2Proof.Machine.execFqresFail s
  | .invAll => Sys2Proof.Machine.execInvAll s
  | .invAsid => Sys2Proof.Machine.execInvAsid s
  | .invRange => Sys2Proof.Machine.execInvRange s
  | .invAsidEntry => Sys2Proof.Machine.execInvAsidEntry s
  | .invComplete => Sys2Proof.Machine.execInvComplete s
  | .atsInvalidate => Sys2Proof.Machine.execAtsInvalidate s
  | .spadAllocWrite => Sys2Proof.Machine.execSpadAllocWrite s
  | .wbufAllocWrite => Sys2Proof.Machine.execWbufAllocWrite s
  | .scrubDone => Sys2Proof.Machine.execScrubDone s
  | .ctxShdpoolWrite => Sys2Proof.Machine.execCtxShdpoolWrite s
  | .shadowFrameReturn => Sys2Proof.Machine.execShadowFrameReturn s
  | .pageMigration => Sys2Proof.Machine.execPageMigration s
  | .streamTokenSend => Sys2Proof.Machine.execStreamTokenSend s
  | .strmwComplete => Sys2Proof.Machine.execStrmwComplete s
  | .regionRowEntry => Sys2Proof.Machine.execRegionRowEntry s
  | .mmacTileComplete => Sys2Proof.Machine.execMmacTileComplete s
  | .mdrainResult => Sys2Proof.Machine.execMdrainResult s
  | .wloadComplete => Sys2Proof.Machine.execWloadComplete s
  | .wswapInForce => Sys2Proof.Machine.execWswapInForce s
  | .mfreeRelease => Sys2Proof.Machine.execMfreeRelease s
  | .taskTake => Sys2Proof.Machine.execTaskTake s
  | .taskIssue => Sys2Proof.Machine.execTaskIssue s
  | .tileTaskStep => Sys2Proof.Machine.execTileTaskStep s
  | .engineCommandStart => Sys2Proof.Machine.execEngineCommandStart s
  | .engineCommandComplete => Sys2Proof.Machine.execEngineCommandComplete s
  | .collRankArrival => Sys2Proof.Machine.execCollRankArrival s
  | .collComplete => Sys2Proof.Machine.execCollComplete s
  | .sheafPublishApply => Sys2Proof.Machine.execSheafPublishApply s
  | .sheafRegisterApply => Sys2Proof.Machine.execSheafRegisterApply s
  | .barwaitServe => Sys2Proof.Machine.execBarwaitServe s
  | .edgeQueueDeliver => Sys2Proof.Machine.execEdgeQueueDeliver s
  | .coreProgramStart => Sys2Proof.Machine.execCoreProgramStart s
  | .coreProgramEnd => Sys2Proof.Machine.execCoreProgramEnd s
  | .countedAccessDone => Sys2Proof.Machine.execCountedAccessDone s
  | .doorbellWrite => Sys2Proof.Machine.execDoorbellWrite s
  | .directClaim => Sys2Proof.Machine.execDirectClaim s
  | .placementTurn => Sys2Proof.Machine.execPlacementTurn s
  | .winnowWindowEnd => Sys2Proof.Machine.execWinnowWindowEnd s
  | .schedQtabWrite => Sys2Proof.Machine.execSchedQtabWrite s
  | .reeveRelease => Sys2Proof.Machine.execReeveRelease s
  | .reeveSelect => Sys2Proof.Machine.execReeveSelect s
  | .sheafRetWrite => Sys2Proof.Machine.execSheafRetWrite s
  | .sheafOvfWrite => Sys2Proof.Machine.execSheafOvfWrite s
  | .preemptRequest => Sys2Proof.Machine.execPreemptRequest s
  | .preemptDeadline => Sys2Proof.Machine.execPreemptDeadline s
  | .ctxCheckpoint => Sys2Proof.Machine.execCtxCheckpoint s
  | .ctxRestore => Sys2Proof.Machine.execCtxRestore s
  | .ctxRelease => Sys2Proof.Machine.execCtxRelease s
  | .stopRequestReceive => Sys2Proof.Machine.execStopRequestReceive s
  | .stopComplete => Sys2Proof.Machine.execStopComplete s
  | .saveComplete => Sys2Proof.Machine.execSaveComplete s
  | .restoreComplete => Sys2Proof.Machine.execRestoreComplete s
  | .flitReceive => Sys2Proof.Machine.execFlitReceive s
  | .linkReplayTimeout => Sys2Proof.Machine.execLinkReplayTimeout s
  | .linkTrain => Sys2Proof.Machine.execLinkTrain s
  | .linkTakeDown => Sys2Proof.Machine.execLinkTakeDown s
  | .linkTrained => Sys2Proof.Machine.execLinkTrained s
  | .collRouteTimeout => Sys2Proof.Machine.execCollRouteTimeout s
  | .ucieBoundaryFail => Sys2Proof.Machine.execUcieBoundaryFail s
  | .decoderCommit => Sys2Proof.Machine.execDecoderCommit s
  | .loadNative => Sys2Proof.Machine.execLoadNative s
  | .loadPekor => Sys2Proof.Machine.execLoadPekor s
  | .unload => Sys2Proof.Machine.execUnload s
  | .tcFlush => Sys2Proof.Machine.execTcFlush s
  | .trapWordEnqueue => Sys2Proof.Machine.execTrapWordEnqueue s
  | .trapResResume => Sys2Proof.Machine.execTrapResResume s
  | .trapResSupply => Sys2Proof.Machine.execTrapResSupply s
  | .trapResKill => Sys2Proof.Machine.execTrapResKill s
  | .ctxStallimWrite => Sys2Proof.Machine.execCtxStallimWrite s
  | .stallAge => Sys2Proof.Machine.execStallAge s
  | .hwFaultDetect => Sys2Proof.Machine.execHwFaultDetect s
  | .partitionClockGate => Sys2Proof.Machine.execPartitionClockGate s
  | .mgmtFreezeRequest => Sys2Proof.Machine.execMgmtFreezeRequest s
  | .frzResume => Sys2Proof.Machine.execFrzResume s
  | .frzKill => Sys2Proof.Machine.execFrzKill s
  | .frzKillFence => Sys2Proof.Machine.execFrzKillFence s
  | .belfryLoad => Sys2Proof.Machine.execBelfryLoad s
  | .belfrySwitch => Sys2Proof.Machine.execBelfrySwitch s
  | .belfryDrainTimeout => Sys2Proof.Machine.execBelfryDrainTimeout s
  | .gongRaise => Sys2Proof.Machine.execGongRaise s
  | .mgmtGongRequest => Sys2Proof.Machine.execMgmtGongRequest s
  | .gongLatch => Sys2Proof.Machine.execGongLatch s
  | .memCheckpoint => Sys2Proof.Machine.execMemCheckpoint s
  | .memCheckpointDone => Sys2Proof.Machine.execMemCheckpointDone s
  | .svcCtlWrite => Sys2Proof.Machine.execSvcCtlWrite s
  | .ctxBmapWrite => Sys2Proof.Machine.execCtxBmapWrite s
  | .hbmRetire => Sys2Proof.Machine.execHbmRetire s
  | .dieFenceWrite => Sys2Proof.Machine.execDieFenceWrite s
  | .fwLoad => Sys2Proof.Machine.execFwLoad s
  | .fwTakeover => Sys2Proof.Machine.execFwTakeover s
  | .powerOn => Sys2Proof.Machine.execPowerOn s
  | .coldReset => Sys2Proof.Machine.execColdReset s
  | .throttleStep => Sys2Proof.Machine.execThrottleStep s
  | .overtempFreeze => Sys2Proof.Machine.execOvertempFreeze s
  | .getVersion => Sys2Proof.Machine.execGetVersion s
  | .getCapabilities => Sys2Proof.Machine.execGetCapabilities s
  | .negotiateAlgorithms => Sys2Proof.Machine.execNegotiateAlgorithms s
  | .getDigests => Sys2Proof.Machine.execGetDigests s
  | .getCertificate => Sys2Proof.Machine.execGetCertificate s
  | .challenge => Sys2Proof.Machine.execChallenge s
  | .getMeasurements => Sys2Proof.Machine.execGetMeasurements s
  | .spdmUnsupported => Sys2Proof.Machine.execSpdmUnsupported s
  | .registerWrite => Sys2Proof.Machine.execRegisterWrite s
  | .powerLoss => Sys2Proof.Machine.execPowerLoss s
  | .cxlPortTrained => Sys2Proof.Machine.execCxlPortTrained s

end Sys2Proof.Machine
end

