-- ==== Sys2Proof/Machine/Fetch.lean ====
section
/-! DEFINITION. A turn of the machine: how the clock moves, which complete set a node or a tile fires and with what
instruction (R26, R248, R257), and how a core fetches (R216). -/

namespace Sys2Proof.Machine

/-! The clock. -/

/-- The end of a cycle: indices that FREE released are free and those that ALLOC took are taken; an instance without any
goes (R104, R105). -/
def Fabric.endCycle (g : Fabric) : Fabric :=
  let free (x : Space) : Space :=
    { x with bits := (x.bits - (x.bits &&& x.freeing)) ||| x.taking, freeing := 0, taking := 0, takenBy := 0 }
  { g with spaces := (g.spaces.map free).filter fun x => x.bits ≠ 0 }

/-- Ages of a context that is stopped, or has an outstanding page fault, do not advance (R259, R369). -/
def State.pauseAges (s : State) (dt : Nat) : State :=
  let idle (k : Nat) : Bool := s.ctxState k ≠ 0 || s.hasFault k
  let q (x : QTok) : QTok := if idle (tagK x.tok.tag) then { x with head := x.head + dt } else x
  let p (x : PSet) : PSet := if idle (tagK x.tag) then { x with since := x.since + dt } else x
  let w (x : Wait) : Wait := if idle x.k then { x with since := x.since + dt } else x
  let a (x : Access) : Access := if idle x.k then { x with since := x.since + dt } else x
  let e (x : EqTok) : EqTok := if idle x.k then { x with age := x.age.map (· + dt) } else x
  let c (x : ChanWord) : ChanWord := if idle x.k then { x with age := x.age.map (· + dt) } else x
  let j (x : Cmd) : Cmd := if idle x.k then { x with age := x.age + dt } else x
  let m (x : Core) : Core := if idle x.k then { x with since := x.since + dt } else x
  let t (x : Gather) : Gather := if idle x.k then { x with age := max x.age (x.ready.getD 0) + dt } else x
  { s with
    fab := { s.fab with queues := s.fab.queues.map q, sets := s.fab.sets.map p, waits := s.fab.waits.map w,
                        accs := s.fab.accs.map a, eqs := s.fab.eqs.map e, chans := s.fab.chans.map c,
                        cores := s.fab.cores.map m, cmds := s.fab.cmds.map j }
    gathers := s.gathers.map t }

/-- Begins the age of each edge queue's head (R259); `seen` are the queues whose head is known. -/
def headEdges (now : Nat) : List (Nat × Bool × Nat) → List EqTok → List EqTok
  | _, [] => []
  | seen, e :: r =>
    let q := (e.barn, e.out, e.q)
    (if seen.contains q then e else { e with age := some (e.age.getD now) }) :: headEdges now (q :: seen) r

/-- Begins the age of each channel queue's head (R259). -/
def headChans (now : Nat) : List (Nat × Nat × Option Nat) → List ChanWord → List ChanWord
  | _, [] => []
  | seen, c :: r =>
    let q := (c.barn, c.tile, c.ch)
    (if seen.contains q then c else { c with age := some (c.age.getD (max now c.since)) }) :: headChans now (q :: seen) r

/-- The tokens that stand at the head of an edge or channel queue at the end of a cycle begin to age (R259). -/
def State.markHeads (s : State) : State :=
  s.modFab fun g => { g with eqs := headEdges s.cyc [] g.eqs, chans := headChans s.cyc [] g.chans }

/-- The clock moves by `dt` cycles. -/
def State.tick (s : State) (dt : Nat) : State :=
  if dt = 0 then s
  else
    let s := s.markHeads
    let s := if (upto 32).any fun k => s.ctxState k ≠ 0 || s.hasFault k then s.pauseAges dt else s
    { (s.modFab Fabric.endCycle) with cyc := s.cyc + dt, raised := [] }

/-! Which set fires. -/

/-- Whether a trap's hold stands for a firing at a node under a tag. -/
def Hold.under (h : Hold) (site : Site) (t : DWord) (d : Nat) : Bool :=
  let at_ (f : Firing) : Bool := f.site = site && isPrefix t d f.tag f.dep
  match h with
  | .firing f => at_ f
  | .emulation f _ => at_ f
  | .stream f _ => at_ f
  | _ => false

/-- Whether an access was issued by a node under a tag. -/
def Origin.under (o : Origin) (site : Site) (t : DWord) (d : Nat) : Bool :=
  let at_ (f : Firing) : Bool := f.site = site && isPrefix t d f.tag f.dep
  match o with
  | .firing f => at_ f
  | .stream f _ => at_ f
  | .streamWrite f => at_ f
  | _ => false

/-- Whether a roll set must wait (R254, R257): its node holds a complete data set, a stream, a region's tile or drain, or
work that has not sent its tokens, under its tag. -/
def State.rollBlocked (s : State) (site : Site) (t : DWord) (d : Nat) : Bool :=
  (s.fab.sets.any fun x => x.site = site && x.done.isSome && !x.roll && isPrefix t d x.tag x.dep) ||
  (s.fab.streams.any fun x => x.site = site && isPrefix t d x.tag x.dep) ||
  (s.fab.accs.any fun a => a.origin.under site t d) ||
  (s.owing.any fun f => f.site = site && isPrefix t d f.tag f.dep) ||
  (s.traps.any fun x => x.hold.under site t d) ||
  (s.fab.regions.any fun r => (r.drains.any fun x => x.site = site && isPrefix t d x.tag x.dep) ||
    (site.holder = .region r.barn r.r && r.tiles.any fun x => isPrefix t d x.tag x.dep))

/-- A set as the firing of its node. -/
def State.firingOf (s : State) (x : PSet) : Firing :=
  let (w, lit) := s.nodeWord x.site
  { site := x.site, word := w, lit := lit, tag := x.tag, dep := x.dep, a := x.a, b := x.b, c := x.c, p := x.p,
    since := x.opened }

/-- Whether a set may fire in this cycle, its node apart (R26). -/
def State.mayFire (s : State) (x : PSet) : Bool :=
  (match x.done with | some d => decide (d < s.cyc) | none => false) && s.runs (tagK x.tag) x.site.holder &&
    !(x.roll && s.rollBlocked x.site x.tag x.dep)

/-- Whether the node can fire: its output stage holds nothing back (R29), and its interval is over (R111, R133). -/
def State.nodeFree (s : State) (site : Site) : Bool :=
  decide (s.timeOf site.holder site.blk site.idx ≤ s.cyc) &&
    (site.holder.temporal || !(s.fab.flights.any fun x => x.src = site && x.out && decide (x.ready < s.cyc)))

/-- Puts a set at its place by age: cycle of completion, then slot (R26). -/
def insertSet (x : PSet) : List PSet → List PSet
  | [] => [x]
  | y :: r =>
    if x.done.getD 0 * 4 + x.last.toBits.toNat < y.done.getD 0 * 4 + y.last.toBits.toNat then x :: y :: r else y :: insertSet x r

def sortSets : List PSet → List PSet
  | [] => []
  | x :: r => insertSet x (sortSets r)

/-! Frames of a tile. -/

/-- Whether a node that fired under a frame's tag has sent everything that its firing sends (R248). -/
def State.delivered (s : State) (site : Site) (fr : Frame) : Bool :=
  !((s.fab.flights.any fun x => x.src = site && x.tok.tag = fr.tag && x.tok.dep = fr.dep) ||
    (s.fab.accs.any fun a => a.origin.under site fr.tag fr.dep) ||
    (s.owing.any fun f => f.site = site && f.tag = fr.tag && f.dep = fr.dep) ||
    (s.traps.any fun x => x.hold.under site fr.tag fr.dep) ||
    (s.fab.streams.any fun x => x.site = site && x.tag = fr.tag && x.dep = fr.dep) ||
    (s.fab.sets.any fun x => x.site = site && x.tag = fr.tag && x.dep = fr.dep && x.done.isSome))

/-- Whether a node is of the level of a frame. -/
def ofLevel (m : LevMap) (lev : Int) (x : Site) : Bool :=
  match instrLev m (wordIndex x) with
  | some l => l.depth = lev
  | none => lev = 0

/-- Whether a node has delivered in a frame, or been passed in it without a firing (R248). -/
def State.passedBy (s : State) (fr : Frame) (y : Site) : Bool :=
  if fr.fired.contains y.idx then s.delivered y fr else fr.passed.contains y.idx

/-- Whether the program counter of a frame may pass a node (R248): it fired, or its set is incomplete though every node of the
level that feeds it has delivered or been passed. -/
def State.passable (s : State) (m : LevMap) (nodes : List Site) (fr : Frame) (x : Site) : Bool :=
  fr.passed.contains x.idx || !ofLevel m fr.lev x ||
  (!(s.fab.sets.any fun y => y.site = x && y.tag = fr.tag && y.dep = fr.dep && y.done.isSome) &&
   !(s.fab.queues.any fun q => q.site = x && q.tok.tag = fr.tag && q.tok.dep = fr.dep) &&
   !(s.fab.flights.any fun y => y.dst = x && y.tok.tag = fr.tag && y.tok.dep = fr.dep) &&
   nodes.all fun y => !((s.nodeTargets y).any fun t => t.1 = x) || !ofLevel m fr.lev y || s.passedBy fr y)

/-- The program counter of a frame advances over what it may pass. -/
def State.advanceFrame (s : State) (m : LevMap) (nodes : List Site) : Nat → Frame → Frame
  | 0, fr => fr
  | n + 1, fr =>
    match (nodes.drop fr.pc).head? with
    | none => fr
    | some x =>
      if s.passable m nodes fr x then
        s.advanceFrame m nodes n { fr with pc := fr.pc + 1, passed := if fr.passed.contains x.idx then fr.passed else fr.passed ++ [x.idx] }
      else fr

/-- Every frame of a tile stands at the instruction it may issue next; one that has passed the last is released once no set
stands in it (R247, R248). -/
def State.advanceFrames (s : State) (h : Holder) : State :=
  let one (fr : Frame) : Option Frame :=
    if fr.holder ≠ h then some fr
    else match s.block? h fr.blk with
      | none => some fr
      | some l =>
        let nodes := s.nodesOf h fr.blk
        let fr := s.advanceFrame (blockLevels l.hdr l.words) nodes (nodes.length + 1) fr
        let held := s.fab.sets.any fun y => y.site.holder = h && y.site.blk = fr.blk && y.tag = fr.tag && y.dep = fr.dep
        if nodes.length ≤ fr.pc && !held then none else some fr
  s.modFab fun g => { g with frames := g.frames.filterMap one }

/-- Whether a set of a tile stands outside every frame: one that fires again, or an origin of STRMW (R247). -/
def State.frameless (s : State) (x : PSet) : Bool :=
  x.place = .outside || x.place = .asDefined ||
    match s.nodeInstr x.site with
    | some (.strmw _ _ _ _ _) => x.a.isNone
    | _ => false

/-- Whether the program counter of a set's frame has reached its node. -/
def State.atPc (s : State) (x : PSet) : Bool :=
  match s.frameOf? x.site.holder x.site.blk x.tag x.dep with
  | some fr => ((s.nodesOf x.site.holder x.site.blk).drop fr.pc).head? = some x.site
  | none => false

/-- Whether a block runs as an active handler (R248). -/
def State.handlerBlock (s : State) (h : Holder) (blk : Nat) : Bool :=
  ((s.block? h blk).map fun l => hdrHANDLER l.hdr).getD false

/-- When the frame of a set was taken; a set outside every frame counts from its first token. -/
def State.frameAge (s : State) (x : PSet) : Nat :=
  ((s.frameOf? x.site.holder x.site.blk x.tag x.dep).map Frame.opened).getD x.opened

/-- Puts a set at its place on a tile: cycle of completion, then the older frame (R248). -/
def State.insertTile (s : State) (x : PSet) : List PSet → List PSet
  | [] => [x]
  | y :: r =>
    if x.done.getD 0 < y.done.getD 0 || (x.done.getD 0 = y.done.getD 0 && s.frameAge x ≤ s.frameAge y) then x :: y :: r
    else y :: s.insertTile x r

def State.sortTile (s : State) : List PSet → List PSet
  | [] => []
  | x :: r => s.insertTile x (s.sortTile r)

/-- Groups that a tile's arithmetic unit serves (DEDUCED, log 100). -/
def usesArith (w : DWord) : Bool :=
  decide (opOf w / 64 ≤ 2) || (decide (5 ≤ opOf w / 64) && decide (opOf w / 64 ≤ 7))

/-- Whether a tile's arithmetic unit is busy with a DIV or REM (R111). -/
def State.arithBusy (s : State) (h : Holder) : Bool :=
  s.fab.blocks.any fun l => l.holder = h && l.fired.any fun p => p.1 = 5001 && decide (s.cyc < p.2)

/-- The sets that a tile may issue, first choice first (R248). -/
def State.tileSets (s : State) (h : Holder) : List PSet :=
  let l := s.sortTile (s.fab.sets.filter fun x => x.site.holder = h && s.mayFire x && s.nodeFree x.site &&
    (s.frameless x || s.atPc x) && !(s.arithBusy h && usesArith (s.nodeWord x.site).1))
  (l.filter fun x => s.handlerBlock h x.site.blk) ++ l.filter fun x => !s.handlerBlock h x.site.blk

/-- Whether a tile has issued in this cycle. -/
def State.tileIssued (s : State) (h : Holder) : Bool :=
  s.fab.blocks.any fun l => l.holder = h && l.fired.any fun p => p.1 = 5000 && decide (s.cyc < p.2)

/-- The sets that a node may fire, the oldest first (R26). -/
def State.nodeSets (s : State) (site : Site) : List PSet :=
  if s.nodeFree site then sortSets (s.fab.sets.filter fun x => x.site = site && s.mayFire x) else []

/-! Firing. -/

/-- Cycles between firings of a node (R111, R133, R215). -/
def interval (w : DWord) : Nat :=
  match decodeWord w with
  | some (.fsqrt _ _) => 6
  | some (.gong _ _) => 64
  | _ => 1

/-- What fires at a node: its instruction, or what a trap or emulation node does (R76, R439, R442). -/
def State.fireInstr (s : State) (x : PSet) : Instr :=
  let w := (s.nodeWord x.site).1
  let plain := (decodeBase w).getD .trapNodeFire
  if x.place = .asDefined then plain
  else match s.nodeKind x.site with
    | .plain => plain
    | .emulate _ => .emulationFire
    | _ => .trapNodeFire

/-- The set leaves its place for its firing instant, in focus. -/
def State.focus (s : State) (x : PSet) : State :=
  { (s.modFab fun g => { g with sets := dropFirst (fun y => y = x) g.sets }) with cur := some (s.firingOf x), held := false, left := false }

/-- What follows a firing at its node (R25, R26, R248). -/
def State.afterFire (s : State) (x : PSet) : State :=
  let h := x.site.holder
  let s := (match h.barn? with | some b => s.countUp b 1 | none => s)
  let s := { s with cur := none }.setTime h x.site.blk x.site.idx (s.cyc + interval (s.nodeWord x.site).1)
  if h.temporal then
    let pass (fr : Frame) : Frame :=
      if fr.holder = h && fr.blk = x.site.blk && fr.tag = x.tag && fr.dep = x.dep then
        { fr with passed := fr.passed ++ [x.site.idx], fired := fr.fired ++ [x.site.idx] }
      else fr
    let s := (s.modFab fun g => { g with frames := g.frames.map pass }).setTime h x.site.blk 5000 (s.cyc + 1)
    match decodeWord (s.nodeWord x.site).1 with
    | some (.div _ _) => s.setTime h x.site.blk 5001 (s.cyc + 34)
    | some (.rem _) => s.setTime h x.site.blk 5001 (s.cyc + 34)
    | _ => s
  else s.promote x.site

/-- A set that its instruction cannot take yet stays and is held (R103). -/
def State.markHeld (s : State) (x : PSet) : State :=
  s.modFab fun g => { g with sets := mapFirst (fun y => y = x) (fun y => { y with held := true }) g.sets }

/-- The PE of an ALLOC left with no index fires nothing else in this cycle (R104). -/
def State.idle (s : State) (x : PSet) : State := s.setTime x.site.holder x.site.blk x.site.idx (s.cyc + 1)

/-- Fires the first set of a list that is not held. -/
def fireSets (run : Instr → State → Host.Outcome State Fault Refusal) (s : State) :
    List PSet → Host.Outcome State Fault Refusal
  | [] => .next s
  | x :: r =>
    match run (s.fireInstr x) (s.focus x) with
    | .next t =>
      if !t.held then .next (t.afterFire x)
      else if t.left && !x.site.holder.temporal then .next ((s.markHeld x).idle x)
      else fireSets run (s.markHeld x) r
    | e => e

/-- A turn of a node: a tile or the Reeve issues from its frames, any other node fires its oldest set. -/
def fireTurn (run : Instr → State → Host.Outcome State Fault Refusal) (site : Site) (s : State) :
    Host.Outcome State Fault Refusal :=
  if site.holder.temporal then
    let s := s.advanceFrames site.holder
    if s.tileIssued site.holder then .next s else fireSets run s (s.tileSets site.holder)
  else fireSets run s (s.nodeSets site)

/-! Cores. -/

/-- The instruction at the program counter of a core; one that ends beyond the instruction store is read as zero, whose
meaning takes the access fault (R217). -/
def Core.fetch (c : Core) : Instr :=
  if 0x10000 < c.pc.toNat + coreLen (c.wordAt c.pc.toNat) then .baseInstruction 0 true
  else (decodeCoreBytes (getBytes c.istore c.pc.toNat 4)).1

/-- A turn of a core: it executes the instruction at its program counter; one that cannot begin yet is tried again. -/
def coreTurn (run : Instr → State → Host.Outcome State Fault Refusal) (c : CoreId) (s : State) :
    Host.Outcome State Fault Refusal :=
  match s.core? c with
  | none => .next s
  | some x =>
    if !x.active || x.waiting || x.stopped || !s.live x.k (.barn c.barn) || s.gatedPart c.barn then .next s
    else match run x.fetch { s with curCore := some c, held := false } with
      | .next t => if t.held then .next s else .next { t with curCore := none }
      | e => e

/-! Placing one instruction (DESIGN CHOICE, log 3). -/

/-- The core that runs a word placed as the next instruction: the pops and counts of output queues belong to storers, all
else to a loader (R224). -/
def wordCore (i : Instr) : CoreId :=
  match i with
  | .xpop _ _ => ⟨0, true⟩
  | .xpopnb _ _ => ⟨0, true⟩
  | .xqst _ _ _ => ⟨0, true⟩
  | _ => ⟨0, false⟩

/-- A core instruction stands at the program counter of a core of BARN.0, which acts next. -/
def State.placeCore (s : State) (w : Nat) : State :=
  let c := wordCore (decodeCoreBytes (leBytes 4 w)).1
  let old : Core := (s.core? c).getD
    { id := c, k := 0, v := 0, active := true, x := List.replicate 32 0, pc := 0, istore := [], dmem := [], csrs := [] }
  let new : Core := { old with active := true, waiting := false, stopped := false,
                               istore := putBytes old.istore old.pc.toNat (leBytes 4 w) }
  { (s.modFab fun g => { g with cores := g.cores.filter (fun x => x.id ≠ c) ++ [new] }) with
    agenda := { act := .core c } :: s.agenda }

/-- Address of the block that holds a placed word. -/
def placedBlk : Nat := 0x40

/-- A block instruction stands alone in a block of bay frame 0 of BARN.0, with a complete set of zero tokens under an empty
tag; its node acts next. -/
def State.placeBlock (s : State) (w : Nat) : State :=
  let site : Site := ⟨.bay 0 0, placedBlk, 0⟩
  let l : Loaded := { holder := .bay 0 0, k := 0, v := 0, blk := placedBlk, hdr := 0, words := [BitVec.ofNat 64 w], exits := [],
                      kinds := [], qcfg := [], codegen := 0, st := .serving, since := s.cyc }
  let s := s.modFab fun g => { g with blocks := g.blocks.filter (fun x => x.holder ≠ .bay 0 0) ++ [l] }
  let al := s.alone site
  let slots : List Slot :=
    if al.isEmpty then s.needs site
    else if ((s.needs site).filter fun sl => !al.contains sl).isEmpty then [.a] else (s.needs site).filter fun sl => !al.contains sl
  let k : Tok := { tag := 0, dep := 0, data := 0, ty := .b32 }
  let x : PSet := { site := site, tag := 0, dep := 0, place := .table 0, opened := s.cyc, since := s.cyc, done := some s.cyc }
  { (s.modFab fun g => { g with sets := g.sets.filter (fun y => y.site.holder ≠ .bay 0 0) ++
      [slots.foldl (fun x sl => x.put sl k) x] }) with
    agenda := { act := .fire site } :: s.agenda }

/-- Whether an event is a host's write of a register (R479). -/
def hostWrite (i : Instr) (arg : EventArg) : Bool :=
  match i with
  | .schedQtabWrite | .sheafRetWrite | .sheafOvfWrite | .doorbellWrite | .ctxCheckpoint | .ctxRestore | .ctxRelease | .fqresRetry
  | .fqresFail | .invAll | .invAsid | .invRange | .invAsidEntry | .ctxShdpoolWrite | .spadAllocWrite | .wbufAllocWrite | .linkTrain
  | .linkTakeDown | .tcFlush | .trapResResume | .trapResSupply | .trapResKill | .ctxStallimWrite | .frzResume | .frzKill
  | .frzKillFence | .belfryLoad | .gongRaise | .memCheckpoint | .svcCtlWrite | .ctxBmapWrite | .hbmRetire | .dieFenceWrite | .fwLoad
  | .registerWrite => true
  | .coldReset => arg.flag
  | _ => false

/-- What acts in a turn. While READY is 0 every write of a register is discarded (R474). -/
def actTurn (run : Instr → State → Host.Outcome State Fault Refusal) (a : Act) (s : State) :
    Host.Outcome State Fault Refusal :=
  match a with
  | .fire site => fireTurn run site s
  | .core c => coreTurn run c s
  | .event i arg => if hostWrite i arg && s.regField .pkgStat 31 1 = 0 then .next s else run i { s with arg := arg }

/-- One turn of the agenda (DESIGN CHOICE, log 1); with none left the clock advances. -/
def turn (run : Instr → State → Host.Outcome State Fault Refusal) (s : State) : Host.Outcome State Fault Refusal :=
  let s := { s with cur := none, curCore := none, held := false }
  match s.agenda with
  | [] => .next (s.tick 1)
  | t :: r => actTurn run t.act ({ s with agenda := r }.tick t.dt)

end Sys2Proof.Machine
end

