-- ==== Sys2Proof/Machine/Step.lean ====
section
/-! DEFINITION. The step of the machine, and the placement of one instruction where the step takes its next one. -/

namespace Sys2Proof.Machine

/-- One step: one turn of the agenda (DESIGN CHOICE, log 1). -/
def step (s : State) : Host.Outcome State Fault Refusal := turn exec s

/-- The state with one instruction word placed where the next step takes it: a core instruction at the program counter of
a core, a block instruction in a bay with a complete set of zeros. -/
def State.withFetchWord (s : State) (nbits w : Nat) : State :=
  if nbits ≤ 32 then s.placeCore w else s.placeBlock w

end Sys2Proof.Machine
end

