-- ==== Sys2Proof/Safety.lean ====
section
/-! DEFINITION. What counts as a sound state and a safe step, in the terms that claims use. -/

namespace Sys2Proof.Machine

/-- The memories of the module stand in their canonical form. -/
abbrev State.memWf (s : State) : Prop :=
  Memory.wf s.dmem = true ∧ Memory.wf s.hmem = true ∧ Memory.wf s.scr = true ∧ Memory.wf s.wbuf = true

/-- A step that goes on. -/
def goesOn (o : Host.Outcome State Fault Refusal) : Prop := ∃ t, o = .next t

end Sys2Proof.Machine
end

