-- ==== Sys2Proof/Claims.lean ====
section
/-! DEFINITION. The vocabulary that the statements share: when a firing executes, and what it sends. -/

namespace Sys2Proof.Claims

open Sys2Proof.Machine

/-- A firing in focus whose set executes: it holds a token beside slot p, no marker and no null token, no poison in a slot that
R433 keeps clean, and PM lets it execute (R27, R28). Poison of other slots is allowed. -/
structure Runs (s : State) (f : Firing) (h : Hdr) (clean : List Slot) : Prop where
  focus : s.cur = some f
  fed   : f.a.isSome = true ∨ f.b.isSome = true ∨ f.c.isSome = true
  plain : ∀ x ∈ f.toks, x.2.nul = false ∧ x.2.eos = false ∧ x.2.rol = false
  clean : ∀ sl ∈ (if h.pm ≠ .always then Slot.p :: clean else clean), ((f.tok? sl).map Tok.poi).getD false = false
  pm    : executes h.pm f.pred = true

/-- The state after a firing that counts its operations (R337), raises flags in lanes from 0 on, and sends one result on T0 and
T1; nothing else changes. -/
def computed (s : State) (f : Firing) (h : Hdr) (lat : Nat) (ty : Ty) (w : Word) (fl : List Nat) : State :=
  ((s.counted f h.ty).raiseLanes f.k 0 fl).emitAll f.site lat (f.result h false ty w) [h.t0, h.t1]

/-- Lane `k` of a slot's data under the type of the instruction (R85). -/
def laneOf (f : Firing) (h : Hdr) (sl : Slot) (k : Nat) : Int := laneInt h.ty (f.data sl) k

/-- Bits `b` and flags `fl` are the exact result `r` reduced to `w` bits (R37): saturated outside the range under `.sat`, else
modulo `2^w`. -/
def Reduced (w : Nat) (sgn sat : Bool) (r : Int) (b fl : Nat) : Prop :=
  b < 2 ^ w ∧
  if sat = true ∧ maxInt w sgn < r then fl = flSAT ∧ (b : Int) = maxInt w sgn % 2 ^ w
  else if sat = true ∧ r < minInt w sgn then fl = flSAT ∧ (b : Int) = minInt w sgn % 2 ^ w
  else fl = 0 ∧ (b : Int) = r % 2 ^ w

/-- The outcome sends a word whose every lane is the reduced exact result of that lane, with its flags. -/
def SendsLanes (o : Host.Outcome State Fault Refusal) (s : State) (f : Firing) (h : Hdr) (lat : Nat) (sat : Bool)
    (r : Nat → Int) : Prop :=
  ∃ w fl, o = .next (computed s f h lat h.ty w fl) ∧ fl.length = h.ty.lanes ∧
    ∀ k < h.ty.lanes, Reduced h.ty.width h.ty.isSigned sat (r k) (laneBits w h.ty.width k) (fl.getD k 0)

/-- The outcome sends one 32-bit integer, the reduced exact result. -/
def SendsInt (o : Host.Outcome State Fault Refusal) (s : State) (f : Firing) (h : Hdr) (lat : Nat) (ty : Ty) (sat : Bool)
    (r : Int) : Prop :=
  ∃ w fl, o = .next (computed s f h lat ty w [fl]) ∧ Reduced 32 ty.isSigned sat r w.toNat fl

/-- The outcome sends a word whose every lane has the bits that a function of lane and bit number gives; no flag is raised. -/
def SendsBits (o : Host.Outcome State Fault Refusal) (s : State) (f : Firing) (h : Hdr) (g : Nat → Nat → Bool) : Prop :=
  ∃ w, o = .next (computed s f h 1 h.ty w []) ∧
    ∀ k < h.ty.lanes, ∀ i < h.ty.width, (laneBits w h.ty.width k).testBit i = g k i

/-- The outcome sends one predicate (R15). -/
def SendsPred (o : Host.Outcome State Fault Refusal) (s : State) (f : Firing) (h : Hdr) (p : Prop) : Prop :=
  ∃ w : Word, o = .next (computed s f h 1 .pred w []) ∧ ((p ∧ w = 1) ∨ (¬p ∧ w = 0))

/-- Lane `k` of a slot as an exact value under an element type (R39). -/
def valOf (f : Firing) (t : Ty) (sl : Slot) (k : Nat) : Val := laneVal t (f.data sl) k

/-- Bits `b` and flags `fl` are an exact value rounded once into a format; a NaN gives the canonical NaN and NV (R46, R114). -/
def Rounded (fm : Fmt) (rm : Rnd) (sat : Bool) (v : Val) (b fl : Nat) : Prop :=
  (v = .nan ∧ b = fm.canonNaN ∧ fl = flNV) ∨ (v ≠ .nan ∧ (b, fl) = roundToFormat v fm rm sat)

/-- The outcome sends a word whose lanes and flags meet a condition. -/
def SendsWith (o : Host.Outcome State Fault Refusal) (s : State) (f : Firing) (h : Hdr) (lat : Nat)
    (p : Nat → Nat → Nat → Prop) : Prop :=
  ∃ w fl, o = .next (computed s f h lat h.ty w fl) ∧ fl.length = h.ty.lanes ∧
    ∀ k < h.ty.lanes, p k (laneBits w h.ty.width k) (fl.getD k 0)

/-! Streams. -/

/-- The parent of a set's tag under an index field of `w` bits, and the index (R161). -/
def parentOf (f : Firing) (w : Nat) : DWord := withNest f.tag (tagNest f.tag / 2 ^ w)
def indexOf (f : Firing) (w : Nat) : Nat := tagNest f.tag % 2 ^ w

/-- The state that a stream node keeps of a set's parent: what it holds, or a new entry where fewer than 8 are in use (R161). -/
def Known (s : State) (f : Firing) (w : Nat) (x : Stream) : Prop :=
  s.stream? f.site (parentOf f w) (f.dep - w) = some x ∨
  (s.stream? f.site (parentOf f w) (f.dep - w) = none ∧ s.streamCount f.site < 8 ∧
    x = { site := f.site, tag := parentOf f w, dep := f.dep - w, since := s.cyc })

/-- A set whose index is the next of its stream, at a node that holds, in the slots `sls`, no token that contradicts it: for a
marker no data token from its count on, for a data token no marker up to its index (R161). -/
structure InTurn (s : State) (f : Firing) (w : Nat) (sls : List Slot) (eos : Bool) (x : Stream) : Prop where
  focus : s.cur = some f
  deep  : w ≤ f.dep
  known : Known s f w x
  next  : x.next = indexOf f w
  fits  : s.waiting f.site sls (parentOf f w) (f.dep - w) w
    (fun e i => if eos then !e && decide (x.next ≤ i) else e && decide (i ≤ x.next)) = false

/-- A set that holds one token, in slot a, that is no roll token. -/
def OnlyA (f : Firing) (k : Tok) : Prop := f.a = some k ∧ f.b = none ∧ f.c = none ∧ f.p = none ∧ k.rol = false

/-- The stream of a node after a token: the next index, and what its results carry of poison and order. -/
def stepped (s : State) (f : Firing) (x : Stream) : Stream := { x.taint f with next := x.next + 1, since := s.cyc }

/-- The first `n` elements of a token added to the sums of a stream, in ascending order (R165). -/
def summed (t : Ty) (ops : Bool) (rm : Rnd) (d : Word) : Nat → Stream → Stream
  | 0, x => x
  | n + 1, x => ((summed t ops rm d n x).accumulate t ops rm d n).1

/-- The value that Reduce gives a sum (R165): the f32 sum itself, or the exact integer sum reduced to 32 bits. -/
def ReducedSum (t : Ty) (sat : Bool) (x : Stream) (d : Word) (fl : Nat) : Prop :=
  if t.isFloat then d = x.facc ∧ fl = 0 else Reduced 32 t.isSigned sat x.iacc d.toNat fl

/-- The first `n` elements of a token taken into the running value of a row (R168). -/
def rowValue (t : Ty) (one : Word → Val → Nat × Nat) (d : Word) : Nat → Word → Word
  | 0, v => v
  | n + 1, v => BitVec.ofNat 32 (one (rowValue t one d n v) (laneVal t d n)).1

/-- What an instruction of the row statistics does with a row's running value and one element (R168). -/
def rowStep : Instr → Word → Val → Nat × Nat
  | .rmax _ _ _ => maxMagnitude
  | .rsumx _ rm _ _ => fun v e => addElem v e false rm
  | .rsqs _ rm _ _ => fun v e => addElem v e true rm
  | _ => fun v _ => (v.toNat, 0)

/-! Accesses of firings. -/

/-- Whether slot `sl` of a firing holds poison. -/
def poisonIn (f : Firing) (sl : Slot) : Bool := ((f.tok? sl).map Tok.poi).getD false

/-- The flat address of R135 before its check. -/
def flatVa (s : State) (f : Firing) (bsel : BitVec 4) (disp : BitVec 9) : Nat :=
  (((s.kbase f.k f.v bsel.toNat : Int) + ((f.data .a).toNat : Int) + disp.toInt) % 2 ^ 64).toNat

/-- An address that a context may access: it is canonical, and in a window it lies in the context's allocation; no atomic reaches
the weight window (R135, R262). -/
def AllowedFor (s : State) (k : Nat) (atomic : Bool) (va : Nat) : Prop :=
  match windowOf va with
  | .bad => False
  | .paged => True
  | .scratch _ => (s.windowPlace k va).isSome = true
  | .weight _ _ => (s.windowPlace k va).isSome = true ∧ atomic = false

/-- An address that a firing may access. -/
def Allowed (s : State) (f : Firing) (atomic : Bool) (va : Nat) : Prop := AllowedFor s f.k atomic va

/-- The scratch address of R136 that a firing may access with `n` bytes. -/
def ScratchAt (s : State) (f : Firing) (disp : BitVec 13) (n sa : Nat) : Prop :=
  (f.data .a).toNat < 2 ^ 28 ∧ ((f.data .a).toNat : Int) + disp.toInt = sa ∧ sa < 2 ^ 28 ∧ sa % n = 0 ∧
    (s.scratchPlace f.k sa).isSome = true

/-- A state with one more access, numbered and dated (R274). -/
def issued (s : State) (a : Access) : State :=
  { s with fresh := s.fresh + 1, fab := { s.fab with accs := s.fab.accs ++ [{ a with id := s.fresh, born := s.cyc, since := s.cyc }] } }

/-- What a store leaves: in an ordinary block its access; in an idempotent block with room, also its place in the store buffer, and
its order-out at once, which names the store to what comes after it (R150). -/
def Stored (o : Host.Outcome State Fault Refusal) (s : State) (f : Firing) (h : Hdr) (t2 : Option Target) (orderIn : Bool)
    (a : Access) : Prop :=
  (s.idem f = false → o = .next (issued s a)) ∧
  (s.idem f = true → s.sbufRoom f = .free → ∃ e : SbufEntry, e.holder = f.site.holder ∧ e.acc = some s.fresh ∧ e.commit = false ∧
    o = .next ((issued { s with fab := { s.fab with sbuf := s.fab.sbuf ++ [e] } } a).emitAll f.site 1
      { f.orderOut h orderIn with after := f.after ++ [s.fresh] } [h.t0, h.t1, t2])) ∧
  (s.idem f = true → s.sbufRoom f = .wait → o = .next { s with held := true }) ∧
  (∀ n, s.idem f = true → s.sbufRoom f = .overflow n →
    o = .next (s.trapFiring f { code := tcSbufOverflow, aux0 := f.site.holder.unit, aux1 := n }))

/-- Access `n` of the fabric can have its next piece `p`, which lies at `x` of store `st`, performed in this turn: it is
translated, nothing that R137, R138, R150 and R268 name holds it back, it is its turn at its bank (R144, R264), and the turn finds no
memory error. -/
structure CanPerform (s : State) (a : Access) (p : Piece) (st : Store) (x : Nat) : Prop where
  acc    : (s.fab.accs.drop s.arg.n).head? = some a
  piece  : (a.pieces.drop a.pos).head? = some p
  place  : p.place = some (st, x)
  placed : s.nextPiece a = none
  ready  : a.waiting = false ∧ a.done = false ∧ a.trans = .ready
  order  : s.mayPerform a = true
  commit : s.committed a = true
  line   : s.mustInvalidate a st x = false
  scrub  : s.scrubbing st x = false
  turn   : s.bankTurn a st x = true
  host   : (a.rel && decide (a.sc = .sys) && s.hostBusy.any fun h => decide (h.2 = a.k)) = false
  error  : s.arg.ecc = none

/-- What performing a piece leaves of its access: one more piece answered, with a value and poison. -/
def answered (a : Access) (p : Piece) (pv : Nat) (v : Nat) (poi : Bool) : Access :=
  { a with pos := a.pos + 1, done := decide (a.pieces.length ≤ a.pos + 1), flags := pv,
           pieces := putAt a.pieces a.pos { p with resp := some v, poi := poi } }

/-- Access `n` of the fabric, and no other, changed to `b`. -/
def AccessNow (s t : State) (b : Access) : Prop :=
  (t.fab.accs.drop s.arg.n).head? = some b ∧ t.fab.accs.length = s.fab.accs.length ∧
    ∀ m ≠ s.arg.n, t.fab.accs[m]? = s.fab.accs[m]?

/-- The four memories, the presence bits and the poison marks are the same. -/
def SameMemory (s t : State) : Prop :=
  (∀ st, t.cells st = s.cells st) ∧ t.pres = s.pres ∧ ∀ st, t.poisons st = s.poisons st

/-- Numbers of the accesses are distinct, as each takes a fresh one. -/
def DistinctIds (s : State) : Prop := (s.fab.accs.map Access.id).Nodup

/-- A set that leaves a block (R202): slot a holds a token that is no roll token; an order-in token and a predicate do not make it a
mixed set, and PM lets it execute. -/
structure Leaves (s : State) (f : Firing) (h : Hdr) (k : Tok) : Prop where
  focus : s.cur = some f
  tok   : f.a = some k
  roll  : k.rol = false
  order : ∀ c, f.c = some c → c.rol = false ∧ c.eos = k.eos
  pred  : ∀ p, f.p = some p → p.rol = false ∧ p.eos = false ∧ p.poi = false
  pm    : executes h.pm f.pred = true

/-- What a firing that leaves its block delivers: one that does not close puts these values on their way to their gather entries, at
once in an ordinary block; one that closes also begins the close of its invocation. With no room the set is held, and with no open
invocation a closing firing raises EXIT_STATE (R202). -/
def Delivers (o : Host.Outcome State Fault Refusal) (s : State) (f : Firing) (part : Bool) (vals : List Value) : Prop :=
  let sent := fun (t : State) => ∃ d ∈ t.delivs, d.k = f.k ∧ d.v = f.v ∧ d.vals = vals ∧ d.close = !part ∧ d.fire = some f ∧
    s.cyc + 4 ≤ d.ready
  let room := ∀ x ∈ vals, s.gatherRoom f.k f.v x = true
  (part = true → room → s.idem f = false → ∃ t, o = .next t ∧ sent t ∧ t.fab = s.fab ∧ ∀ d ∈ s.delivs, d ∈ t.delivs) ∧
  (∀ i, part = false → room → s.closing? f = some i → (s.idem f && s.loading i) = false → ∃ t, o = .next t ∧ sent t ∧
    (∀ d ∈ s.delivs, d ∈ t.delivs) ∧ (∃ j ∈ t.fab.invocs, j.key = i.key ∧ j.closing = true) ∧
    ∀ e ∈ t.fab.sbuf, e.holder = i.holder → e.blk = i.blk → e.tag = i.tag → e.dep = i.dep → e.commit = true ∧ e.deliver = none) ∧
  (part = false → room → s.closing? f = none → ∃ c : Cause, c.code = tcExitState ∧ o = .next (s.trapFiring f c)) ∧
  (¬room → o = .next { s with held := true })

/-! Translation. -/

/-- An access whose piece `i`, `p`, waits for its translation as one piece of a flat address in memory. -/
structure Untranslated (s : State) (a : Access) (i : Nat) (p : Piece) : Prop where
  acc   : (s.fab.accs.drop s.arg.n).head? = some a
  next  : s.nextPiece a = some i
  piece : (a.pieces.drop i).head? = some p
  flat  : a.area = .flat ∧ a.tens = none
  kind  : a.kind ≠ .prefetch
  open_ : a.waiting = false ∧ a.done = false ∧ s.sends a = true
  ids   : DistinctIds s

/-! Cores. -/

/-- A core in focus. -/
structure InCore (s : State) (id : CoreId) (x : Core) : Prop where
  focus : s.curCore = some id
  core  : s.core? id = some x
  name  : x.id = id

/-- The address of a core instruction (R226). -/
def coreVa (s : State) (x : Core) (bsel : BitVec 4) (disp : Int) (rs1 : BitVec 5) : Nat :=
  (((s.kbase x.k x.v bsel.toNat : Int) + ((x.get rs1.toNat).toNat : Int) + disp) % 2 ^ 64).toNat

/-- A core waits for an access that it has issued. -/
def coreWaits (s : State) (id : CoreId) (a : Access) : State :=
  (issued s a).modCore id fun y => { y with waiting := true, since := s.cyc }

/-- A core has issued a counted access and goes on. -/
def coreCounts (s : State) (id : CoreId) (a : Access) (g : Core → Core) : State := ((issued s a).modCore id g).coreGoes id

/-- A push of a token with a type's data and marks to an input queue (R221, R223, R225): with a free position, a bound queue and an
index in range, it stands last in its queue, under the parent's tag with the index, and the core goes on. -/
def Pushes (o : Host.Outcome State Fault Refusal) (s : State) (id : CoreId) (x : Core) (q idx : Nat) (data : Word)
    (nul eos : Bool) : Prop :=
  let b := x.binding q
  let full := 64 ≤ (s.edge id.barn false q).length
  let k : Tok := { tag := withNest x.tag (tagNest x.tag * 2 ^ b.sw + idx), dep := x.dep + b.sw, data := data, ty := b.ty,
                   nul := nul, eos := eos }
  (¬full → b.kind ≠ 0 → idx < 2 ^ b.sw → x.dep + b.sw ≤ 44 → ∃ (v : State) (e : EqTok), o = .next (v.coreGoes id) ∧
    v.fab = { s.fab with eqs := s.fab.eqs ++ [e] } ∧ v.cyc = s.cyc ∧ e.barn = id.barn ∧ e.out = false ∧ e.q = q ∧ e.k = x.k ∧
    e.v = x.v ∧ e.bind = b ∧ e.tok = some k) ∧
  (full → o = .next { s with held := true }) ∧
  (¬full → b.kind = 0 → o = .next (s.coreTrapAt id { code := tcEqBind, aux0 := q })) ∧
  (¬full → b.kind ≠ 0 → 2 ^ b.sw ≤ idx → o = .next (s.coreTrapAt id { code := tcStreamShape, aux0 := idx, aux1 := b.sw })) ∧
  (¬full → b.kind ≠ 0 → idx < 2 ^ b.sw → 44 < x.dep + b.sw →
    o = .next (s.coreTrapAt id { code := tcTagDepth, aux0 := x.dep, aux1 := b.sw }))

/-! Frames. -/

/-- The instructions that compute one result from their operands, with their common fields (groups 0x0 to 0x2 and 0x5 to 0x7, but for
RECONF). -/
def computes : Instr → Option Hdr
  | .add h _ | .sub h _ | .mul h _ | .mulh h | .mad h _ | .neg h _ | .abs h _ | .min h | .max h | .addi h _ _ | .muli h _ _
  | .lea h _ _ | .cidx2 h _ _ | .cidx3 h _ _ _ | .dot4 h _ | .absd h | .div h _ | .rem h | .and h | .or h | .xor h | .andn h
  | .not h | .shl h | .shr h | .sra h | .rol h | .ror h | .shli h _ | .shri h _ | .srai h _ | .bfx h _ _ | .bfi h _ _
  | .popc h | .clz h | .ctz h | .brev h | .prmt h _ | .cmpeq h _ _ | .cmpne h _ _ | .cmplt h _ _ | .cmple h _ _
  | .cmpgt h _ _ | .cmpge h _ _ | .pand h | .por h | .pxor h | .pandn h | .pnot h | .select h | .testz h _ _ | .fadd h _ _
  | .fsub h _ _ | .fmul h _ _ | .ffma h _ _ | .ffms h _ _ | .fmin h | .fmax h | .fabs h | .fneg h | .fcpys h | .fcmpeq h _
  | .fcmpne h _ | .fcmplt h _ | .fcmple h _ | .fcmpun h _ | .fdot2 h _ _ | .fcvt h _ _ _ _ _ _ | .fcvtp h _ _ _
  | .fcvtx h _ _ _ _ _ | .frnd h _ | .fldexp h _ _ _ | .fgetexp h | .fexp2f h | .flog2 h | .frcp h | .frsq h | .fsqrt h _
  | .fsin2 h | .fcos2 h => some h
  | _ => none

/-- The instructions that issue one access (groups 0x8, 0x9 and 0xB), with their common fields. -/
def accesses : Instr → Option Hdr
  | .ldb h _ _ _ _ _ | .ldh h _ _ _ _ _ | .ld h _ _ _ _ _ | .ldp h _ _ _ _ _ | .stb h _ _ _ _ _ | .sth h _ _ _ _ _
  | .st h _ _ _ _ _ | .stp h _ _ _ _ _ | .prefetch h _ _ _ _ | .lds h _ _ _ _ _ _ | .sts h _ _ _ _ | .ldsp h _ _ _ _ _ _
  | .stsp h _ _ _ _ | .pset h _ _ _ _ | .pclr h _ _ _ | .ptest h _ _ _ _ | .atadd h _ _ _ _ _ _ | .atmin h _ _ _ _ _ _
  | .atmax h _ _ _ _ _ _ | .atand h _ _ _ _ _ _ | .ator h _ _ _ _ _ _ | .atxor h _ _ _ _ _ _ | .atswap h _ _ _ _ _ _
  | .atcas h _ _ _ _ _ _ | .atfadd h _ _ _ _ _ _ _ | .atadd64 h _ _ _ _ _ _ | .atmin64 h _ _ _ _ _ _
  | .atmax64 h _ _ _ _ _ _ | .atand64 h _ _ _ _ _ _ | .ator64 h _ _ _ _ _ _ | .atxor64 h _ _ _ _ _ _
  | .atswap64 h _ _ _ _ _ _ | .atcas64 h _ _ _ _ _ _ | .fence h _ _ _ _ => some h
  | _ => none

/-- All of a state but its registers, the flags raised in this cycle, the operation counts of its instances, its traps and the trap counter marks, its tokens on their
way, its accesses and its store buffer is the same, and nothing is taken from these. -/
structure Framed (s t : State) : Prop where
  rest : t = { s with regs := t.regs, raised := t.raised, insts := t.insts, traps := t.traps, held := t.held, fresh := t.fresh,
                      fab := { s.fab with flights := t.fab.flights, accs := t.fab.accs, sbuf := t.fab.sbuf } }
  insts : (t.insts.map fun i => { i with ops := 0 }) = s.insts.map fun i => { i with ops := 0 }
  traps : s.traps <+: t.traps
  tokens : s.fab.flights <+: t.fab.flights
  accs : s.fab.accs <+: t.fab.accs
  sbuf : s.fab.sbuf <+: t.fab.sbuf

/-- The registers that a firing of slot `k` may change: its flags and running maxima, and the counters of the eight fault hooks. -/
def firingRegs (k : Nat) : List Reg :=
  [.flagLo k, .flagHi k] ++ ((upto 16).map fun n => .amax k n) ++ (upto 8).map Reg.belHookcnt

end Sys2Proof.Claims
end

