-- ==== Sys2Proof/Certificates/Slice0/Obligations.lean ====
section
/-! DEFINITION. The statements for the provers. -/

open Sys2Proof Sys2Proof.Machine Sys2Proof.Claims

/-- R87: the lane-wise integer instructions send the exact lane results, wrapped or saturated. -/
def Sys2Proof.Claims.IntegerLanes : Prop :=
  ∀ (s : State) (f : Firing) (h : Hdr) (sat : Bool) (imm : BitVec 22), Runs s f h [] →
    SendsLanes (exec (.add h sat) s) s f h 1 sat (fun k => laneOf f h .a k + laneOf f h .b k) ∧
    SendsLanes (exec (.sub h sat) s) s f h 1 sat (fun k => laneOf f h .a k - laneOf f h .b k) ∧
    SendsLanes (exec (.mul h sat) s) s f h 3 sat (fun k => laneOf f h .a k * laneOf f h .b k) ∧
    SendsLanes (exec (.neg h sat) s) s f h 1 sat (fun k => -laneOf f h .a k) ∧
    SendsLanes (exec (.abs h sat) s) s f h 1 sat (fun k => |laneOf f h .a k|) ∧
    SendsLanes (exec (.min h) s) s f h 1 false (fun k => min (laneOf f h .a k) (laneOf f h .b k)) ∧
    SendsLanes (exec (.max h) s) s f h 1 false (fun k => max (laneOf f h .a k) (laneOf f h .b k)) ∧
    SendsLanes (exec (.addi h sat imm) s) s f h 1 sat (fun k => laneOf f h .a k + imm.toInt) ∧
    SendsLanes (exec (.muli h sat imm) s) s f h 3 sat (fun k => laneOf f h .a k * imm.toInt)

/-- R88 to R90, R467: the integer instructions with one 32-bit result. -/
def Sys2Proof.Claims.IntegerScalars : Prop :=
  ∀ (s : State) (f : Firing) (h : Hdr) (sat : Bool) (disp : BitVec 19) (sh : BitVec 3) (e : BitVec 22) (e1 e0 : BitVec 11),
    Runs s f h [] →
    let a := laneOf f h .a 0
    let b := laneOf f h .b 0
    let c := laneOf f h .c 0
    SendsInt (exec (.mulh h) s) s f h 3 h.ty false (a * b / 2 ^ 32) ∧
    SendsInt (exec (.mad h sat) s) s f h 3 h.ty sat (a * b + c) ∧
    SendsInt (exec (.lea h disp sh) s) s f h 1 h.ty false (a + b * 2 ^ sh.toNat + disp.toInt) ∧
    SendsInt (exec (.cidx2 h sat e) s) s f h 3 h.ty sat (a * e.toNat + b) ∧
    SendsInt (exec (.cidx3 h sat e1 e0) s) s f h 3 h.ty sat ((a * e1.toNat + b) * e0.toNat + c) ∧
    (let rt : Ty := if h.ty.isSigned then .i32 else .n32
     SendsInt (exec (.dot4 h sat) s) s f h 3 rt sat
      (laneInt rt (f.data .c) 0 + laneOf f h .a 0 * laneOf f h .b 0 + laneOf f h .a 1 * laneOf f h .b 1 +
        laneOf f h .a 2 * laneOf f h .b 2 + laneOf f h .a 3 * laneOf f h .b 3)) ∧
    (b ≠ 0 → SendsInt (exec (.div h sat) s) s f h 34 h.ty sat (a.tdiv b)) ∧
    (b = 0 → exec (.div h sat) s = .next (computed s f h 34 h.ty 0xFFFFFFFF [flDZ])) ∧
    (b ≠ 0 → SendsInt (exec (.rem h) s) s f h 34 h.ty false (a - b * a.tdiv b)) ∧
    (b = 0 → exec (.rem h) s = .next (computed s f h 34 h.ty (f.data .a) [flDZ])) ∧
    SendsInt (exec (.absd h) s) s f h 1 .n32 false |(f.data .a).toInt - (f.data .b).toInt|

/-- R92: logic on the 32 bits of slots a and b, and shifts and rotations of each lane. A count of the lane width or more shifts
every bit out. -/
def Sys2Proof.Claims.LogicAndShifts : Prop :=
  ∀ (s : State) (f : Firing) (h : Hdr) (n : BitVec 5), Runs s f h [] →
    let w := h.ty.width
    let u := fun k => laneBits (f.data .a) w k
    let c := fun k => laneBits (f.data .b) w k
    exec (.and h) s = .next (computed s f h 1 h.ty (f.data .a &&& f.data .b) []) ∧
    exec (.or h) s = .next (computed s f h 1 h.ty (f.data .a ||| f.data .b) []) ∧
    exec (.xor h) s = .next (computed s f h 1 h.ty (f.data .a ^^^ f.data .b) []) ∧
    exec (.andn h) s = .next (computed s f h 1 h.ty (f.data .a &&& ~~~f.data .b) []) ∧
    exec (.not h) s = .next (computed s f h 1 h.ty (~~~f.data .a) []) ∧
    SendsBits (exec (.shl h) s) s f h (fun k i => decide (c k ≤ i) && (u k).testBit (i - c k)) ∧
    SendsBits (exec (.shr h) s) s f h (fun k i => (u k).testBit (i + c k)) ∧
    SendsBits (exec (.sra h) s) s f h (fun k i => (u k).testBit (min (i + c k) (w - 1))) ∧
    SendsBits (exec (.rol h) s) s f h (fun k i => (u k).testBit ((i + w - c k % w) % w)) ∧
    SendsBits (exec (.ror h) s) s f h (fun k i => (u k).testBit ((i + c k) % w)) ∧
    SendsBits (exec (.shli h n) s) s f h (fun k i => decide (n.toNat ≤ i) && (u k).testBit (i - n.toNat)) ∧
    SendsBits (exec (.shri h n) s) s f h (fun k i => (u k).testBit (i + n.toNat)) ∧
    SendsBits (exec (.srai h n) s) s f h (fun k i => (u k).testBit (min (i + n.toNat) (w - 1)))

/-- R93, R94: bit fields, counts, reversal and byte selection on 32 bits. `len` holds LEN - 1; the field lies in the word. -/
def Sys2Proof.Claims.BitFields : Prop :=
  ∀ (s : State) (f : Firing) (h : Hdr) (len pos : BitVec 5) (sel : BitVec 16), Runs s f h [] → pos.toNat + len.toNat < 32 →
    let x := f.data .a
    let y := f.data .b
    (∃ w : Word, exec (.bfx h len pos) s = .next (computed s f h 1 h.ty w []) ∧ ∀ i < 32, w.getLsbD i =
      (if i ≤ len.toNat then x.getLsbD (pos.toNat + i) else (decide (h.ty = .i32) && x.getLsbD (pos.toNat + len.toNat)))) ∧
    (∃ w : Word, exec (.bfi h len pos) s = .next (computed s f h 1 h.ty w []) ∧ ∀ i < 32, w.getLsbD i =
      (if pos.toNat ≤ i ∧ i ≤ pos.toNat + len.toNat then y.getLsbD (i - pos.toNat) else x.getLsbD i)) ∧
    exec (.popc h) s = .next (computed s f h 1 .n32 (BitVec.ofNat 32 ((List.range 32).countP fun i => x.getLsbD i)) []) ∧
    (∃ n ≤ 32, exec (.clz h) s = .next (computed s f h 1 .n32 (BitVec.ofNat 32 n) []) ∧
      (∀ i < n, x.getLsbD (31 - i) = false) ∧ (n < 32 → x.getLsbD (31 - n) = true)) ∧
    (∃ n ≤ 32, exec (.ctz h) s = .next (computed s f h 1 .n32 (BitVec.ofNat 32 n) []) ∧
      (∀ i < n, x.getLsbD i = false) ∧ (n < 32 → x.getLsbD n = true)) ∧
    (∃ w : Word, exec (.brev h) s = .next (computed s f h 1 h.ty w []) ∧ ∀ i < 32, w.getLsbD i = x.getLsbD (31 - i)) ∧
    (∃ w : Word, exec (.prmt h sel) s = .next (computed s f h 1 h.ty w []) ∧ ∀ k < 4, ∀ i < 8,
      let q := bitsAt sel.toNat (4 * k) 4
      let j := q % 8
      w.getLsbD (8 * k + i) = (y ++ x).getLsbD (8 * j + (if q < 8 then i else 7)))

/-- R96: compares against slot b or the immediate, the operations on predicates, SELECT and TESTZ. -/
def Obligations.ComparesAndPredicates : Prop :=
  ∀ (s : State) (f : Firing) (h : Hdr) (imm : Bool) (val : BitVec 21), Runs s f h [] →
    let x := laneOf f h .a 0
    let y := if imm then (if h.ty = .i32 then val.toInt else (val.toNat : Int)) else laneOf f h .b 0
    let p := (f.data .a).getLsbD 0 = true
    let q := (f.data .b).getLsbD 0 = true
    SendsPred (exec (.cmpeq h imm val) s) s f h (x = y) ∧
    SendsPred (exec (.cmpne h imm val) s) s f h (x ≠ y) ∧
    SendsPred (exec (.cmplt h imm val) s) s f h (x < y) ∧
    SendsPred (exec (.cmple h imm val) s) s f h (x ≤ y) ∧
    SendsPred (exec (.cmpgt h imm val) s) s f h (x > y) ∧
    SendsPred (exec (.cmpge h imm val) s) s f h (x ≥ y) ∧
    SendsPred (exec (.pand h) s) s f h (p ∧ q) ∧
    SendsPred (exec (.por h) s) s f h (p ∨ q) ∧
    SendsPred (exec (.pxor h) s) s f h ¬(p ↔ q) ∧
    SendsPred (exec (.pandn h) s) s f h (p ∧ ¬q) ∧
    SendsPred (exec (.pnot h) s) s f h ¬p ∧
    (Runs s f h [.c] → exec (.select h) s =
      .next (computed s f h 1 h.ty (if (f.data .c).getLsbD 0 then f.data .a else f.data .b) [])) ∧
    SendsPred (exec (.testz h imm val) s) s f h
      (f.data .a &&& (if imm then (if val = 0 then 0xFFFFFFFF else val.setWidth 32) else f.data .b) = 0)

/-- R98, R99: MOV, CONST, LIT, SWITCH, MERGE, GATE, SYNC, DROP and NULL send these tokens and change nothing else. The data bits of
a MOV, CONST or LIT of type pred stay (DEDUCED, log 97), and a MERGE set without slots a and p has a predicate of false (DESIGN
CHOICE, log 102). -/
def Obligations.Steering : Prop :=
  ∀ (s : State) (f : Firing) (h : Hdr) (t2 : Option Target) (imm : BitVec 22) (c3 : Bool), Runs s f h [] →
    let u := s.counted f h.ty
    let send := fun (d : Word) => f.result h false h.ty d
    exec (.mov h t2) s = .next (u.emitAll f.site 1 (send (f.data .a)) [h.t0, h.t1, t2]) ∧
    (∃ w : Word, exec (.const h imm) s = .next (u.emitAll f.site 1 (send w) [h.t0, h.t1]) ∧
      (h.ty = .i32 → w.toInt = imm.toInt) ∧ (h.ty = .n32 ∨ h.ty = .b32 → w.toNat = imm.toNat) ∧
      (h.ty = .f32 → w.toNat = imm.toNat * 2 ^ 10) ∧ (h.ty = .pred → w.toNat = imm.toNat % 2) ∧
      (1 < h.ty.lanes → ∀ k < h.ty.lanes, laneBits w h.ty.width k = imm.toNat % 2 ^ h.ty.width)) ∧
    exec (.lit h) s = .next ((u.emit f.site h.t0 1 (send (f.lit.setWidth 32))).emit f.site h.t1 1
      (send ((f.lit >>> 32).setWidth 32))) ∧
    (Runs s f h [.b] → exec (.switch h) s =
      .next (u.emit f.site (if (f.data .b).getLsbD 0 then h.t0 else h.t1) 1 (send (f.data .a)))) ∧
    (f.a.isSome = true → f.b = none → exec (.merge h) s = .next (u.emitAll f.site 1 (send (f.data .a)) [h.t0, h.t1])) ∧
    (f.a = none → f.b.isSome = true → exec (.merge h) s = .next (u.emitAll f.site 1 (send (f.data .b)) [h.t0, h.t1])) ∧
    (Runs s f h [.b] → (f.data .b).getLsbD 0 = true →
      exec (.gate h) s = .next (u.emitAll f.site 1 (send (f.data .a)) [h.t0, h.t1])) ∧
    (Runs s f h [.b] → (f.data .b).getLsbD 0 = false →
      exec (.gate h) s = .next (u.emitAll f.site 1 { send 0 with nul := true } [h.t0, h.t1])) ∧
    exec (.sync h c3) s = .next ((u.emit f.site h.t0 1 (send (f.data .a))).emit f.site h.t1 1 (send (f.data .b))) ∧
    exec (.drop h) s = .next u ∧
    exec (.null h) s = .next (u.emitAll f.site 1 { send 0 with nul := true } [h.t0, h.t1])

/-- R102 to R104: ALLOC takes the lowest index of its instance below the limit that was free at the start of the cycle and that no
ALLOC of the cycle took, sends the pushed tag on T0 and the index on T1, and the bit stands from the end of the cycle on. With none
free, or with the table full and no instance made, the set is held; with none left, its PE is left without one in this cycle. -/
def Sys2Proof.Claims.AllocTakesLowest : Prop :=
  ∀ (s : State) (f : Firing) (h : Hdr) (lim : BitVec 9), Runs s f h [] →
    let u := s.counted f h.ty
    let w := spaceWidth (u.spaceSize f)
    let top := if lim = 0 then u.spaceSize f else lim.toNat
    let x := u.space? f.site.holder f.site.blk f.tag f.dep
    let bits := (x.map Space.bits).getD 0
    let used := bits ||| (x.map Space.taking).getD 0
    (f.dep + w ≤ 44 →
      (∀ i < top, used.testBit i = false → (∀ j < i, used.testBit j = true) →
        (x.isSome = true ∨ u.spaceCount f.site.holder < 32) → (∀ y, x = some y → y.takenBy ≤ wordIndex f.site + 1) →
        ∃ (y : State) (z : Space), { y with fab := { y.fab with spaces := u.fab.spaces } } = u ∧
          y.space? f.site.holder f.site.blk f.tag f.dep = some z ∧ z.bits = bits ∧
          z.taking = (x.map Space.taking).getD 0 ||| 2 ^ i ∧ z.takenBy = wordIndex f.site + 1 ∧
          (∀ g b t d, (g, b, t, d) ≠ (f.site.holder, f.site.blk, f.tag, f.dep) → y.space? g b t d = u.space? g b t d) ∧
          exec (.alloc h lim) s = .next ((y.emit f.site h.t0 2 ((f.result h false h.ty (f.data .a)).retag
            (withNest f.tag ((tagNest f.tag <<< w) ||| i)) (f.dep + w))).emit f.site h.t1 2
            (f.result h false .n32 (BitVec.ofNat 32 i)))) ∧
      ((∀ i < top, bits.testBit i = true) → exec (.alloc h lim) s = .next { u with held := true }) ∧
      (x = none → 32 ≤ u.spaceCount f.site.holder → exec (.alloc h lim) s = .next { u with held := true }) ∧
      (∀ i < top, bits.testBit i = false → (∀ j < top, used.testBit j = true) →
        exec (.alloc h lim) s = .next { u with held := true, left := true })) ∧
    ∀ (g : Fabric) (z : Space), z ∈ g.spaces → z.taking ≠ 0 → ∃ y ∈ g.endCycle.spaces, y.holder = z.holder ∧ y.blk = z.blk ∧
      y.tag = z.tag ∧ y.dep = z.dep ∧ y.taking = 0 ∧
      ∀ i, y.bits.testBit i = ((z.bits.testBit i && !z.freeing.testBit i) || z.taking.testBit i)

/-- R105: FREE pops the innermost field and sends its token under the parent tag when the index is allocated; the index
returns at the end of the cycle. Otherwise it raises TAG_FREE. -/
def Sys2Proof.Claims.FreePopsField : Prop :=
  ∀ (s : State) (f : Firing) (h : Hdr), Runs s f h [] →
    let u := s.counted f h.ty
    let w := spaceWidth (u.spaceSize f)
    let i := tagNest f.tag % 2 ^ w
    let t := withNest f.tag (tagNest f.tag / 2 ^ w)
    (∀ x : Space, w ≤ f.dep → u.space? f.site.holder f.site.blk t (f.dep - w) = some x → i < u.spaceSize f →
      x.bits.testBit i = true →
      exec (.free h) s = .next ((u.modSpace f.site.holder f.site.blk t (f.dep - w) fun y =>
        { y with freeing := y.freeing ||| 2 ^ i }).emitAll f.site 2 ((f.result h false h.ty (f.data .a)).retag t (f.dep - w))
          [h.t0, h.t1])) ∧
    (f.dep < w → ∃ c : Cause, c.code = tcTagFree ∧ exec (.free h) s = .next (u.trapFiring f c)) ∧
    (w ≤ f.dep → u.space? f.site.holder f.site.blk t (f.dep - w) = none →
      ∃ c : Cause, c.code = tcTagFree ∧ exec (.free h) s = .next (u.trapFiring f c)) ∧
    (∀ x : Space, w ≤ f.dep → u.space? f.site.holder f.site.blk t (f.dep - w) = some x → x.bits.testBit i = false →
      ∃ c : Cause, c.code = tcTagFree ∧ exec (.free h) s = .next (u.trapFiring f c))

/-- R106, R107: ENTER pushes and LEAVE pops a field of a space of N tags, TAGRD reads a part of the tag and TAGWR rewrites a
slice of the nest stack. `n` holds N - 1 and `w` holds W - 1. A push beyond 44 bits, a pop and a slice beyond DEP raise
TAG_DEPTH, and an index of N or more raises TAG_RANGE. -/
def Sys2Proof.Claims.TagFields : Prop :=
  ∀ (s : State) (f : Firing) (h : Hdr) (idx : BitVec 8) (imm : Bool) (n : BitVec 8) (wv : BitVec 4) (off : BitVec 6)
    (sel : BitVec 3), Runs s f h [.b] →
    let u := s.counted f h.ty
    let i := if imm then idx.toNat else (f.data .b).toNat
    let w := spaceWidth (n.toNat + 1)
    let a := f.result h false h.ty (f.data .a)
    (i ≤ n.toNat → (u.feedsStream f.site && u.windowFull f.site f.tag f.dep w i) = false → f.dep + w ≤ 44 →
      exec (.enter h idx imm n) s = .next (u.emitAll f.site 1
        (a.retag (withNest f.tag ((tagNest f.tag <<< w) ||| i)) (f.dep + w)) [h.t0, h.t1])) ∧
    (n.toNat < i → exec (.enter h idx imm n) s =
      .next (u.trapFiring f { code := tcTagRange, aux0 := i, aux1 := n.toNat + 1 })) ∧
    (i ≤ n.toNat → (u.feedsStream f.site && u.windowFull f.site f.tag f.dep w i) = false → 44 < f.dep + w →
      exec (.enter h idx imm n) s = .next (u.trapFiring f { code := tcTagDepth, aux0 := f.dep, aux1 := w })) ∧
    (i ≤ n.toNat → (u.feedsStream f.site && u.windowFull f.site f.tag f.dep w i) = true →
      exec (.enter h idx imm n) s = .next { u with held := true }) ∧
    (w ≤ f.dep → exec (.leave h n) s = .next (u.emitAll f.site 1
      (a.retag (withNest f.tag (tagNest f.tag / 2 ^ w)) (f.dep - w)) [h.t0, h.t1])) ∧
    (f.dep < w → exec (.leave h n) s = .next (u.trapFiring f { code := tcTagDepth, aux0 := f.dep, aux1 := w })) ∧
    (∃ x : Word, exec (.tagrd h wv off sel) s = .next (computed s f h 1 h.ty x []) ∧
      (sel = 0 → x.toNat = f.tag.toNat / 2 ^ 61) ∧ (sel = 1 → x.toNat = f.tag.toNat / 2 ^ 56 % 32) ∧
      (sel = 2 → x.toNat = f.tag.toNat / 2 ^ 44 % 4096) ∧ (sel = 3 → f.dep < 64 → x.toNat = f.dep) ∧
      (sel = 4 → off.toNat + wv.toNat < 44 → x.toNat = f.tag.toNat / 2 ^ off.toNat % 2 ^ (wv.toNat + 1)) ∧
      (sel = 5 → x.toNat = f.tag.toNat % 2 ^ 32) ∧ (sel = 6 → x.toNat = f.tag.toNat / 2 ^ 32 % 4096)) ∧
    (off.toNat + wv.toNat + 1 ≤ f.dep → f.dep ≤ 44 →
      ∃ t : DWord, exec (.tagwr h wv off) s = .next (u.emitAll f.site 1 (a.retag t f.dep) [h.t0, h.t1]) ∧
        ∀ j < 64, t.getLsbD j = if off.toNat ≤ j ∧ j ≤ off.toNat + wv.toNat then (f.data .b).getLsbD (j - off.toNat)
          else f.tag.getLsbD j) ∧
    (f.dep < off.toNat + wv.toNat + 1 → exec (.tagwr h wv off) s =
      .next (u.trapFiring f { code := tcTagDepth, aux0 := f.dep, aux1 := off.toNat, aux2 := wv.toNat + 1 }))

/-- R114, R115: FADD, FSUB, FMUL, FFMA and FFMS round each lane's exact result once, and FDOT2 rounds its exact sum once to
f32. -/
def Sys2Proof.Claims.FloatRounded : Prop :=
  ∀ (s : State) (f : Firing) (h : Hdr) (sat : Bool) (rm : Rnd), Runs s f h [] → h.ty.isFloat = true →
    let fm := fmtOf h.ty
    let a := valOf f h.ty .a
    let b := valOf f h.ty .b
    let c := valOf f h.ty .c
    SendsWith (exec (.fadd h sat rm) s) s f h 4 (fun k => Rounded fm rm sat (Val.add rm (a k) (b k))) ∧
    SendsWith (exec (.fsub h sat rm) s) s f h 4 (fun k => Rounded fm rm sat (Val.add rm (a k) (b k).negate)) ∧
    SendsWith (exec (.fmul h sat rm) s) s f h 4 (fun k => Rounded fm rm sat (Val.mul (a k) (b k))) ∧
    SendsWith (exec (.ffma h sat rm) s) s f h 4 (fun k => Rounded fm rm sat (Val.add rm (Val.mul (a k) (b k)) (c k))) ∧
    SendsWith (exec (.ffms h sat rm) s) s f h 4 (fun k => Rounded fm rm sat (Val.add rm (Val.mul (a k) (b k)) (c k).negate)) ∧
    (∃ w fl, exec (.fdot2 h sat rm) s = .next (computed s f h 4 .f32 w [fl]) ∧
      Rounded .f32 rm sat
        (Val.add rm (Val.add rm (valOf f .f32 .c 0) (Val.mul (a 0) (b 0))) (Val.mul (a 1) (b 1))) w.toNat fl)

/-- R116, R117: FMIN and FMAX choose an operand, FABS, FNEG and FCPYS change the sign bit alone, a NaN lane gives the canonical
NaN and NV; a compare reads lane LANE and gives one predicate. -/
def Sys2Proof.Claims.FloatSignAndOrder : Prop :=
  ∀ (s : State) (f : Firing) (h : Hdr) (lane : BitVec 3), Runs s f h [] → h.ty.isFloat = true →
    let fm := fmtOf h.ty
    let a := valOf f h.ty .a
    let b := valOf f h.ty .b
    let x := fun k => laneBits (f.data .a) h.ty.width k
    let y := fun k => laneBits (f.data .b) h.ty.width k
    let sg := 2 ^ (h.ty.width - 1)
    let nan := fun (bits fl : Nat) => bits = fm.canonNaN ∧ fl = flNV
    let cmp := fun (o : Host.Outcome State Fault Refusal) (unord : Bool) (p : Bool) =>
      ∃ fl, o = .next (computed s f h 1 .pred
          (if (if (a lane.toNat).isNaN || (b lane.toNat).isNaN then unord else p) then 1 else 0) fl) ∧
        ∀ k, fl.getD k 0 = if ((a lane.toNat).isNaN || (b lane.toNat).isNaN) ∧ k = lane.toNat then flNV else 0
    SendsWith (exec (.fmin h) s) s f h 1 (fun k r fl => if (a k).isNaN || (b k).isNaN then nan r fl else
      fl = 0 ∧ ((r = x k ∧ (b k).lt (a k) = false) ∨ (r = y k ∧ (a k).lt (b k) = false))) ∧
    SendsWith (exec (.fmax h) s) s f h 1 (fun k r fl => if (a k).isNaN || (b k).isNaN then nan r fl else
      fl = 0 ∧ ((r = x k ∧ (a k).lt (b k) = false) ∨ (r = y k ∧ (b k).lt (a k) = false))) ∧
    SendsWith (exec (.fabs h) s) s f h 1 (fun k r fl => if (a k).isNaN then nan r fl else fl = 0 ∧ r = x k % sg) ∧
    SendsWith (exec (.fneg h) s) s f h 1 (fun k r fl => if (a k).isNaN then nan r fl else fl = 0 ∧ r = x k ^^^ sg) ∧
    SendsWith (exec (.fcpys h) s) s f h 1 (fun k r fl => if (a k).isNaN || (b k).isNaN then nan r fl else
      fl = 0 ∧ r = x k % sg + y k / sg * sg) ∧
    cmp (exec (.fcmpeq h lane) s) false ((a lane.toNat).eqv (b lane.toNat)) ∧
    cmp (exec (.fcmpne h lane) s) true (!(a lane.toNat).eqv (b lane.toNat)) ∧
    cmp (exec (.fcmplt h lane) s) false ((a lane.toNat).lt (b lane.toNat)) ∧
    cmp (exec (.fcmple h lane) s) false (!(b lane.toNat).lt (a lane.toNat)) ∧
    cmp (exec (.fcmpun h lane) s) true false

/-- R119, R120, R50: FCVT, FCVTP and FCVTX convert their lanes, into an integer lane by FpToInt and else rounded once; `.amx`
updates the AMAX register with every source lane. -/
def Sys2Proof.Claims.Conversions : Prop :=
  ∀ (s : State) (f : Firing) (h : Hdr) (amx sat : Bool) (rm : Rnd) (areg : BitVec 4) (lane pos : BitVec 3) (src : BitVec 4)
    (st : Ty), Runs s f h [] → Ty.ofBits src = some st →
    let conv := fun (v : Val) (b fl : Nat) =>
      if h.ty.isFloat then Rounded (fmtOf h.ty) rm sat v b fl else (b, fl) = fpToInt v h.ty.width h.ty.isSigned rm
    (∃ w fl, exec (.fcvt h amx sat rm areg lane src) s =
        .next ((let u := (s.counted f h.ty).raiseLanes f.k 0 fl
          if amx then u.amaxLanes f.k areg.toNat ((upto st.lanes).map (valOf f st .a)) else u).emitAll f.site 2
            (f.result h false h.ty w) [h.t0, h.t1]) ∧ fl.length = h.ty.lanes ∧
      ∀ k < h.ty.lanes,
        (st.lanes ≤ h.ty.lanes → k < st.lanes → conv (valOf f st .a k) (laneBits w h.ty.width k) (fl.getD k 0)) ∧
        (st.lanes ≤ h.ty.lanes → st.lanes ≤ k → laneBits w h.ty.width k = 0 ∧ fl.getD k 0 = 0) ∧
        (h.ty.lanes < st.lanes → conv (valOf f st .a (lane.toNat * h.ty.lanes + k)) (laneBits w h.ty.width k) (fl.getD k 0))) ∧
    SendsWith (exec (.fcvtp h sat rm src) s) s f h 2 (fun k => conv (if k < st.lanes then valOf f st .a k
      else valOf f st .b (k - st.lanes))) ∧
    SendsWith (exec (.fcvtx h sat rm pos lane src) s) s f h 2 (fun k b fl => if k = pos.toNat then
      conv (valOf f st .a lane.toNat) b fl else b = laneBits (f.data .b) h.ty.width k ∧ fl = 0)

/-- R123 to R125: FRND gives an integral value with the sign of its operand, FLDEXP scales by a power of two and rounds once,
FGETEXP gives the exponent. -/
def Sys2Proof.Claims.RoundingAndExponents : Prop :=
  ∀ (s : State) (f : Firing) (h : Hdr) (sat : Bool) (rm : Rnd) (expf : Bool), Runs s f h [] → h.ty.isFloat = true →
    let fm := fmtOf h.ty
    let a := valOf f h.ty .a
    SendsWith (exec (.frnd h rm) s) s f h 2 (fun k b fl =>
      (a k = .nan → b = fm.canonNaN ∧ fl = flNV) ∧ (∀ g, a k = .inf g → b = fm.infBits g ∧ fl = 0) ∧
      (∀ g m e, a k = .fin g m e false →
        b = (roundToFormat (.fin g (roundGrid m e 0 false g rm) 0 false) fm rm false).1 ∧ fl = 0)) ∧
    SendsWith (exec (.fldexp h sat rm expf) s) s f h 2 (fun k b fl =>
      (a k = .nan → b = fm.canonNaN ∧ fl = flNV) ∧
      (expf = true → Fmt.f32.value (f.data .b).toNat = .nan → b = fm.canonNaN ∧ fl = flNV) ∧
      (expf = false → ∀ g m e, a k = .fin g m e false → m ≠ 0 →
        (b, fl) = roundToFormat (.fin g m (e + (f.data .b).toInt) false) fm rm sat) ∧
      (expf = false → ∀ g, a k = .inf g → (b, fl) = roundToFormat (.inf g) fm rm sat)) ∧
    (∀ x : Val, valOf f .f32 .a 0 = x →
      ∃ w fl, exec (.fgetexp h) s = .next (computed s f h 1 .i32 w [fl]) ∧
        (x = .nan → w = 0x7FFFFFFF ∧ fl = flNV) ∧ (∀ g, x = .inf g → w = 0x7FFFFFFF ∧ fl = 0) ∧
        (∀ g e k, x = .fin g 0 e k → w = 0x80000000 ∧ fl = flDZ) ∧
        (∀ g m e k, x = .fin g m e k → m ≠ 0 → fl = 0 ∧ w.toInt = e + Nat.log2 m))

/-- R127, R128: RECONF sends the configuration bits of its word to the node that T0 names, over the mesh in spatial placement
and at once in temporal placement, where its acknowledgement leaves in the next cycle. With no such node it is acknowledged at once. -/
def Sys2Proof.Claims.ReconfigurationSent : Prop :=
  ∀ (s : State) (f : Firing) (h : Hdr) (sat : Bool) (rm : Rnd), Runs s f h [] →
    let u := s.counted f h.ty
    let k := f.result h false h.ty (f.data .a)
    let q := BitVec.ofBool sat ++ rm.toBits
    let node? := h.t0.bind (u.confTarget f.site)
    let answer := fun (v : State) => .next (v.emitAt f.site h.t1 (u.cyc + 1) k)
    (∀ t, h.t0 = some t → f.site.idx < 128 → node? = some { f.site with idx := t.idx.toNat }) ∧
    (node? = none → exec (.reconf h sat rm) s = answer u) ∧
    (∀ n, node? = some n → f.site.holder.temporal = false → exec (.reconf h sat rm) s = .next (u.modFab fun g =>
      { g with flights := g.flights ++ [{ src := f.site, dst := n, slot := .a, tok := k, out := true, conf := some q, ready := u.cyc + 1 }] })) ∧
    (∀ n, node? = some n → f.site.holder.temporal = true → u.reconfigurable n = true → exec (.reconf h sat rm) s =
      answer (u.modBlock f.site.holder f.site.blk fun l => l.setConf (u.confSite n).idx q)) ∧
    (∀ n, node? = some n → f.site.holder.temporal = true → u.reconfigurable n = false → exec (.reconf h sat rm) s = answer u) ∧
    ∀ (l : Loaded) (i : Nat), (l.setConf i q).conf? i = some q ∧ ∀ j ≠ i, (l.setConf i q).conf? j = l.conf? j

/-- R131 with R130: the special functions send one f32 result with its flags: the table of special inputs, and for the others the
bracketing or nearest value that the device's free choice takes (DESIGN CHOICE, log 7). For ordinary inputs the value is a free
choice among those that R130 allows (DESIGN CHOICE, log 7); nothing is said of it. DZ alone is raised for a result that is infinite
for a zero (DEDUCED, log 98). -/
def Obligations.SpecialFunctions : Prop :=
  ∀ (s : State) (f : Firing) (h : Hdr) (rm : Rnd), Runs s f h [] →
    let x := valOf f .f32 .a 0
    let sends := fun (i : Instr) (lat : Nat) (p : Word → Nat → Prop) => ∃ w fl, p w fl ∧
      exec i s = .next ((((s.counted f h.ty).chose).raiseFlags f.k 0 fl).emitAll f.site lat (f.result h false h.ty w) [h.t0, h.t1])
    let nan := fun (w : Word) (fl : Nat) => w = 0x7FC00000 ∧ fl = flNV
    let zero := fun (v : Val) => v.isZero = true
    let below := fun (v : Val) => ∃ m e, v = .fin true m e false ∧ m ≠ 0
    sends (.fexp2f h) 6 (fun w fl => (x = .nan → nan w fl) ∧ ((∃ g, x = .inf g) ∨ zero x → w = 0x3F800000 ∧ fl = 0)) ∧
    sends (.flog2 h) 8 (fun w fl => (x = .nan ∨ x = .inf true ∨ below x → nan w fl) ∧
      (x = .inf false → w = 0x7F800000 ∧ fl = 0) ∧ (zero x → w = 0xFF800000 ∧ fl = flDZ)) ∧
    sends (.frcp h) 6 (fun w fl => (x = .nan → nan w fl) ∧ (x = .inf false → w = 0 ∧ fl = 0) ∧
      (x = .inf true → w = 0x80000000 ∧ fl = 0) ∧
      (zero x → w = (if x.neg then 0xFF800000 else 0x7F800000) ∧ fl = flDZ)) ∧
    sends (.frsq h) 8 (fun w fl => (x = .nan ∨ x = .inf true ∨ below x → nan w fl) ∧
      (x = .inf false → w = 0 ∧ fl = 0) ∧ (zero x → w = (if x.neg then 0xFF800000 else 0x7F800000) ∧ fl = flDZ)) ∧
    sends (.fsin2 h) 10 (fun w fl => (x = .nan ∨ (∃ g, x = .inf g) → nan w fl) ∧
      (zero x → w = (if x.neg then 0x80000000 else 0) ∧ fl = 0)) ∧
    sends (.fcos2 h) 10 (fun w fl => (x = .nan ∨ (∃ g, x = .inf g) → nan w fl) ∧ (zero x → w = 0x3F800000 ∧ fl = 0)) ∧
    (∃ w fl, exec (.fsqrt h rm) s = .next (computed s f h 12 h.ty w [fl]) ∧
      (x = .nan ∨ x = .inf true ∨ below x → nan w fl) ∧ (x = .inf false → w = 0x7F800000 ∧ fl = 0) ∧
      (zero x → w = (if x.neg then 0x80000000 else 0) ∧ fl = 0))

/-- R44: rounding a magnitude to a multiple of a power of two: the result is one of the two neighbours, on the side that the
mode names, and the nearest one under rne and rna, with ties to even and away from zero. -/
def Sys2Proof.Claims.RoundingModes : Prop :=
  ∀ (m drop : Nat) (neg : Bool) (rm : Rnd),
    let q := roundAt m drop false neg rm
    let r := m / 2 ^ drop
    (q = r ∨ q = r + 1) ∧ (m % 2 ^ drop = 0 → q = r) ∧
    (rm = .rz → q = r) ∧
    (rm = .ru → m % 2 ^ drop ≠ 0 → q = if neg then r else r + 1) ∧
    (rm = .rd → m % 2 ^ drop ≠ 0 → q = if neg then r + 1 else r) ∧
    (rm = .rne ∨ rm = .rna → 2 * (m % 2 ^ drop) < 2 ^ drop → q = r) ∧
    (rm = .rne ∨ rm = .rna → 2 ^ drop < 2 * (m % 2 ^ drop) → q = r + 1) ∧
    (rm = .rne → 2 * (m % 2 ^ drop) = 2 ^ drop → q = r + r % 2) ∧
    (rm = .rna → 2 * (m % 2 ^ drop) = 2 ^ drop → q = r + 1)

/-- R46 with R39: the value of an encoding rounds to that encoding in every mode, without flags; NaN apart, and infinities
apart under saturation. -/
def Sys2Proof.Claims.EncodingsRoundToThemselves : Prop :=
  ∀ (fm : Fmt) (b : Nat) (rm : Rnd) (sat : Bool), b < 2 ^ fm.bits → fm.value b ≠ .nan →
    (sat = true → ∀ g, fm.value b ≠ .inf g) → roundToFormat (fm.value b) fm rm sat = (b, 0)

/-- R135, R140, R141: a flat load or PREFETCH issues one access at its address, cut into the pieces of R139; a flat store issues
the access of its bytes, at once or through the store buffer (R150). Poison in slot a, a non-canonical address and an address
outside the allocation trap. -/
def Sys2Proof.Claims.FlatAccesses : Prop :=
  ∀ (s : State) (f : Firing) (h : Hdr) (sc : Scope) (q : Bool) (t2 : Option Target) (bsel : BitVec 4) (disp : BitVec 9),
    Runs s f h [] →
    let u := s.counted f h.ty
    let va := flatVa u f bsel disp
    let load := fun (n : Nat) => .next (issued u { f.access .read h.ty sc with acq := q, pieces := pieces va n 0 })
    let store := fun (n : Nat) => { f.access .write h.ty sc with
      rel := q, poi := poisonIn f .b, pieces := pieces va n ((f.data .b).toNat % 2 ^ (8 * n)) }
    (poisonIn f .a = false → Allowed u f false va →
      exec (.ldb h sc q t2 bsel disp) s = load 1 ∧ exec (.ldh h sc q t2 bsel disp) s = load 2 ∧
      exec (.ld h sc q t2 bsel disp) s = load 4 ∧ exec (.ldp h sc q t2 bsel disp) s = load 8 ∧
      Stored (exec (.stb h sc q t2 bsel disp) s) u f h t2 true (store 1) ∧
      Stored (exec (.sth h sc q t2 bsel disp) s) u f h t2 true (store 2) ∧
      Stored (exec (.st h sc q t2 bsel disp) s) u f h t2 true (store 4) ∧
      Stored (exec (.stp h sc q t2 bsel disp) s) u f h t2 false { f.access .write h.ty sc with
        rel := q, poi := poisonIn f .b || poisonIn f .c,
        pieces := pieces va 4 (f.data .b).toNat ++ pieces (va + 4) 4 (f.data .c).toNat }) ∧
    (poisonIn f .a = false → exec (.prefetch h sc t2 bsel disp) s =
      .next (issued u { f.access .prefetch h.ty sc with pieces := [{ addr := va, size := 1, mask := 0xFF, data := 0 }] })) ∧
    (poisonIn f .a = true → exec (.prefetch h sc t2 bsel disp) s = .next (u.poisonTrap f .a)) ∧
    ∀ x ∈ [(Instr.ldb h sc q t2 bsel disp, 0, 1), (.ldh h sc q t2 bsel disp, 0, 2), (.ld h sc q t2 bsel disp, 0, 4),
        (.ldp h sc q t2 bsel disp, 0, 8), (.stb h sc q t2 bsel disp, 1, 1), (.sth h sc q t2 bsel disp, 1, 2),
        (.st h sc q t2 bsel disp, 1, 4), (.stp h sc q t2 bsel disp, 1, 8)],
      (poisonIn f .a = true → exec x.1 s = .next (u.poisonTrap f .a)) ∧
      (poisonIn f .a = false → 2 ^ 60 ≤ va → exec x.1 s =
        .next (u.trapFiring f { code := tcPage, cause := 2, aux0 := va, aux1 := u.asid f.k, aux2 := x.2.2 * 256 + x.2.1 })) ∧
      (poisonIn f .a = false → va < 2 ^ 60 → windowOf va ≠ .paged → (u.windowPlace f.k va).isNone = true →
        exec x.1 s = .next (u.trapFiring f { code := tcPerm, cause := 4, aux0 := va, aux1 := x.2.1 }))

/-- R139: an access of `r` bytes at an address is cut into naturally aligned pieces of at most 8 bytes in ascending order, which
cover its bytes and carry its data. -/
def Sys2Proof.Claims.PiecesCoverAccess : Prop :=
  ∀ (a r d : Nat), r ≤ 8 → d < 2 ^ (8 * r) →
    let ps := pieces a r d
    (∀ p ∈ ps, (p.size = 1 ∨ p.size = 2 ∨ p.size = 4 ∨ p.size = 8) ∧ p.addr % p.size = 0 ∧ p.mask = 2 ^ (8 * p.size) - 1) ∧
    (∀ x, (a ≤ x ∧ x < a + r) ↔ ∃ p ∈ ps, p.addr ≤ x ∧ x < p.addr + p.size) ∧
    List.Pairwise (fun p q : Piece => p.addr + p.size ≤ q.addr) ps ∧
    (∀ p ∈ ps, p.data = d / 2 ^ (8 * (p.addr - a)) % 2 ^ (8 * p.size))

/-- R136, R142, R143: the scratchpad instructions issue one access at their scratch address, with their presence options; a store
of 8 bytes without `.once` is two events of 4 bytes (R139). A misaligned address raises ALIGN, and one outside the allocation
PERM. -/
def Sys2Proof.Claims.ScratchAccesses : Prop :=
  ∀ (s : State) (f : Firing) (h : Hdr) (sc : Scope) (nb clr wf once acq : Bool) (t2 : Option Target) (disp : BitVec 13)
    (sa : Nat), Runs s f h [] → poisonIn f .a = false →
    let u := s.counted f h.ty
    let x := (f.data .b).toNat
    let y := (f.data .c).toNat
    let load := fun (n : Nat) => .next (issued u { f.access .read h.ty sc with
      area := .scratch, acq := wf, wf := wf, clr := clr, nb := nb,
      pieces := [{ addr := sa, size := n, mask := 2 ^ (8 * n) - 1, data := 0 }] })
    let store := fun (p : Bool) (l : List Piece) => { f.access .write h.ty sc with
      area := .scratch, rel := once, once := once, poi := p, pieces := l }
    let word := fun (a d : Nat) => ({ addr := a, size := 4, mask := 2 ^ 32 - 1, data := d } : Piece)
    let presence := fun (kind : AccKind) (a r : Bool) => .next (issued u { f.access kind h.ty sc with
      area := .scratch, acq := a, rel := r, pieces := [{ addr := sa, size := 1, mask := 0, data := 0 }] })
    (ScratchAt u f disp 4 sa → exec (.lds h sc nb clr wf t2 disp) s = load 4 ∧
      Stored (exec (.sts h sc once t2 disp) s) u f h t2 true (store (poisonIn f .b) [word sa x])) ∧
    (ScratchAt u f disp 8 sa → exec (.ldsp h sc nb clr wf t2 disp) s = load 8 ∧
      Stored (exec (.stsp h sc once t2 disp) s) u f h t2 false (store (poisonIn f .b || poisonIn f .c)
        (if once then [{ addr := sa, size := 8, mask := 2 ^ 64 - 1, data := x + y * 2 ^ 32 }]
         else [word sa x, word (sa + 4) y]))) ∧
    (ScratchAt u f disp 1 sa →
      exec (.pset h sc once t2 disp) s = presence (.presence true false once false) false true ∧
      exec (.pclr h sc t2 disp) s = presence (.presence false true false false) false false ∧
      exec (.ptest h sc acq t2 disp) s = presence (.presence false false false true) acq false) ∧
    ((f.data .a).toNat < 2 ^ 28 → ((f.data .a).toNat : Int) + disp.toInt = sa → sa < 2 ^ 28 →
      ∀ i ∈ [(Instr.lds h sc nb clr wf t2 disp, 0, 4), (.ldsp h sc nb clr wf t2 disp, 0, 8), (.sts h sc once t2 disp, 1, 4),
          (.stsp h sc once t2 disp, 1, 8), (.pset h sc once t2 disp, 1, 1), (.pclr h sc t2 disp, 1, 1), (.ptest h sc acq t2 disp, 1, 1)],
        (sa % i.2.2 ≠ 0 → exec i.1 s = .next (u.trapFiring f { code := tcAlign, aux0 := sa, aux1 := i.2.2 })) ∧
        (sa % i.2.2 = 0 → (u.scratchPlace f.k sa).isNone = true →
          exec i.1 s = .next (u.trapFiring f { code := tcPerm, cause := 4, aux0 := sa, aux1 := i.2.1 })))

/-- R145, R146: an atomic issues one access at its aligned address with its operand; a misaligned address raises ALIGN and poison
in an operand POISON. ATCAS64 also reads the granule that holds its operands. R148: FENCE issues a release, an acquire or both. -/
def Sys2Proof.Claims.AtomicsAndFence : Prop :=
  ∀ (s : State) (f : Firing) (h : Hdr) (sc : Scope) (acq rel : Bool) (rm : Rnd) (t2 : Option Target) (bsel : BitVec 4)
    (disp : BitVec 9), Runs s f h [] →
    let u := s.counted f h.ty
    let va := flatVa u f bsel disp
    let x := (f.data .b).toNat
    let y := (f.data .c).toNat
    let at_ := fun (op : AtOp) (n o c : Nat) => .next (issued u { f.access (.atomic op h.ty) h.ty sc with
      acq := acq, rel := rel, opnd := o, cmp := c, pieces := [{ addr := va, size := n, mask := 2 ^ (8 * n) - 1, data := 0 }] })
    (poisonIn f .a = false → poisonIn f .b = false → Allowed u f true va → va % 4 = 0 →
      exec (.atadd h sc acq rel t2 bsel disp) s = at_ .add 4 x 0 ∧ exec (.atmin h sc acq rel t2 bsel disp) s = at_ .min 4 x 0 ∧
      exec (.atmax h sc acq rel t2 bsel disp) s = at_ .max 4 x 0 ∧ exec (.atand h sc acq rel t2 bsel disp) s = at_ .and 4 x 0 ∧
      exec (.ator h sc acq rel t2 bsel disp) s = at_ .or 4 x 0 ∧ exec (.atxor h sc acq rel t2 bsel disp) s = at_ .xor 4 x 0 ∧
      exec (.atswap h sc acq rel t2 bsel disp) s = at_ .swap 4 x 0 ∧
      exec (.atfadd h sc acq rel rm t2 bsel disp) s = at_ (.fadd rm) 4 x 0 ∧
      (poisonIn f .c = false → exec (.atcas h sc acq rel t2 bsel disp) s = at_ .cas 4 x y)) ∧
    (poisonIn f .a = false → poisonIn f .b = false → poisonIn f .c = false → Allowed u f true va → va % 8 = 0 →
      exec (.atadd64 h sc acq rel t2 bsel disp) s = at_ .add 8 (x + y * 2 ^ 32) 0 ∧
      exec (.atmin64 h sc acq rel t2 bsel disp) s = at_ .min 8 (x + y * 2 ^ 32) 0 ∧
      exec (.atmax64 h sc acq rel t2 bsel disp) s = at_ .max 8 (x + y * 2 ^ 32) 0 ∧
      exec (.atand64 h sc acq rel t2 bsel disp) s = at_ .and 8 (x + y * 2 ^ 32) 0 ∧
      exec (.ator64 h sc acq rel t2 bsel disp) s = at_ .or 8 (x + y * 2 ^ 32) 0 ∧
      exec (.atxor64 h sc acq rel t2 bsel disp) s = at_ .xor 8 (x + y * 2 ^ 32) 0 ∧
      exec (.atswap64 h sc acq rel t2 bsel disp) s = at_ .swap 8 (x + y * 2 ^ 32) 0) ∧
    (poisonIn f .a = false → poisonIn f .b = false → Allowed u f true va → va % 8 = 0 → x < 2 ^ 28 → x % 16 = 0 →
      (u.scratchPlace f.k x).isSome = true →
      exec (.atcas64 h sc acq rel t2 bsel disp) s = .next (issued u { f.access (.atomic .cas h.ty) h.ty sc with
        acq := acq, rel := rel, pieces := [{ addr := 0xFFFFF0000000000 + x, size := 16, mask := 0, data := 0 },
          { addr := va, size := 8, mask := 2 ^ 64 - 1, data := 0 }] })) ∧
    (poisonIn f .a = false → Allowed u f true va → ∀ i ∈ [(Instr.atadd h sc acq rel t2 bsel disp, 4), (.atmin h sc acq rel t2 bsel disp, 4),
        (.atmax h sc acq rel t2 bsel disp, 4), (.atand h sc acq rel t2 bsel disp, 4), (.ator h sc acq rel t2 bsel disp, 4),
        (.atxor h sc acq rel t2 bsel disp, 4), (.atswap h sc acq rel t2 bsel disp, 4), (.atcas h sc acq rel t2 bsel disp, 4),
        (.atfadd h sc acq rel rm t2 bsel disp, 4), (.atadd64 h sc acq rel t2 bsel disp, 8), (.atmin64 h sc acq rel t2 bsel disp, 8),
        (.atmax64 h sc acq rel t2 bsel disp, 8), (.atand64 h sc acq rel t2 bsel disp, 8), (.ator64 h sc acq rel t2 bsel disp, 8),
        (.atxor64 h sc acq rel t2 bsel disp, 8), (.atswap64 h sc acq rel t2 bsel disp, 8), (.atcas64 h sc acq rel t2 bsel disp, 8)],
      (va % i.2 ≠ 0 → exec i.1 s = .next (u.trapFiring f { code := tcAlign, aux0 := va, aux1 := i.2 })) ∧
      (poisonIn f .b = true → va % i.2 = 0 → exec i.1 s = .next (u.poisonTrap f .b))) ∧
    exec (.fence h sc acq rel t2) s = .next (issued u { f.access .read .b32 sc with acq := acq || !rel, rel := rel || !acq })

/-- R274, R264: a memory node, or a bank for the scratchpad and the weight buffers, performs the write of a piece: the bits under
its mask take its data, and every other bit of every memory stays. -/
def Sys2Proof.Claims.WritesArePerformed : Prop :=
  ∀ (s : State) (a : Access) (p : Piece) (st : Store) (x : Nat), CanPerform s a p st x → DistinctIds s → a.kind = .write →
    a.once = false → a.operand = false → p.size ≤ 16 →
    ∃ (t : State), exec (if st = .dev ∨ st = .host then .memNodeRequest else .bankRequest) s = .next t ∧
      AccessNow s t (answered a p a.flags 0 false) ∧
      (∀ j < 8 * p.size, (t.readN st x p.size).testBit j =
        if p.mask.testBit j then p.data.testBit j else (s.readN st x p.size).testBit j) ∧
      (∀ y, (y < x ∨ x + p.size ≤ y) → getCell (t.cells st) y = getCell (s.cells st) y) ∧
      (∀ su ≠ st, t.cells su = s.cells su) ∧ t.pres = s.pres ∧ t.fab.cores = s.fab.cores

/-- R139, R141, R274: a memory node performs the read of a piece of an ordinary block: the piece has the bytes at its place, the
memories stay, and poison at the place poisons it (R151). -/
def Sys2Proof.Claims.ReadsArePerformed : Prop :=
  ∀ (s : State) (a : Access) (p : Piece) (st : Store) (x : Nat), CanPerform s a p st x → DistinctIds s → a.kind = .read →
    (st = .dev ∨ st = .host) → s.idemInvoc? a.origin = none → (s.poisonIn st x p.size && a.strict) = false → a.nb = false →
    ∃ (t : State), exec .memNodeRequest s = .next t ∧ SameMemory s t ∧
      AccessNow s t (answered a p a.flags (s.readN st x p.size) (s.poisonIn st x p.size)) ∧ t.fab.cores = s.fab.cores

/-- R146: an atomic reads, computes and writes its location as one event: its answer is the old value, and its location takes the
result of its operation. -/
def Sys2Proof.Claims.AtomicsArePerformed : Prop :=
  ∀ (s : State) (a : Access) (p : Piece) (st : Store) (x : Nat) (op : AtOp) (ty : Ty), CanPerform s a p st x → DistinctIds s →
    a.kind = .atomic op ty → (st = .dev ∨ st = .host) → a.pieces.length = 1 → a.pos = 0 → (p.size = 4 ∨ p.size = 8) →
    a.opnd < 2 ^ (8 * p.size) → s.poisonIn st x p.size = false →
    let old := s.readN st x p.size
    let w := 8 * p.size
    let less := if ty = .i32 then decide (signedOf a.opnd w < signedOf old w) else decide (a.opnd < old)
    ∃ (t : State), exec .memNodeRequest s = .next t ∧ AccessNow s t (answered a p a.flags old false) ∧
      (∀ y, (y < x ∨ x + p.size ≤ y) → getCell (t.cells st) y = getCell (s.cells st) y) ∧
      (∀ su ≠ st, t.cells su = s.cells su) ∧
      (op = .add → t.readN st x p.size = (old + a.opnd) % 2 ^ w) ∧
      (op = .min → t.readN st x p.size = if less then a.opnd else old) ∧
      (op = .max → t.readN st x p.size = if less then old else a.opnd) ∧
      (op = .and → t.readN st x p.size = old &&& a.opnd) ∧ (op = .or → t.readN st x p.size = old ||| a.opnd) ∧
      (op = .xor → t.readN st x p.size = old ^^^ a.opnd) ∧ (op = .swap → t.readN st x p.size = a.opnd) ∧
      (op = .cas → t.readN st x p.size = if old = a.cmp then a.opnd else old)

/-- R143: the presence bit of a granule: `.once` stores and PSET set it, `.clr` loads and PCLR clear it, PTEST reads it, a `.wf` load
of an empty granule waits, and a `.once` store or PSET of a full one raises ONCE_VIOLATION. -/
def Obligations.PresenceBits : Prop :=
  ∀ (s : State) (a : Access) (p : Piece) (x : Nat), CanPerform s a p .scr x → DistinctIds s → a.area = .scratch →
    a.operand = false → s.idemInvoc? a.origin = none → s.poisonIn .scr x p.size = false → p.size ≤ 16 →
    let g := x / 16
    let o := exec .bankRequest s
    (a.kind = .write → a.once = true → s.full g = false → ∃ (t : State), o = .next t ∧ t.full g = true) ∧
    (a.kind = .write → a.once = true → s.full g = true → o = .next
      (s.accessTrap a { code := tcOnceViolation, aux0 := p.addr, aux1 := 1 })) ∧
    (a.kind = .read → a.wf = true → a.nb = false → s.full g = false → o = .next s) ∧
    (a.kind = .read → a.nb = false → (a.wf = true → s.full g = true) →
      ∃ (t : State), o = .next t ∧ t.full g = (s.full g && !a.clr) ∧ (∀ su, t.cells su = s.cells su) ∧
        AccessNow s t (answered a p a.flags (s.readN .scr x p.size) false)) ∧
    (a.kind = .read → a.nb = true → s.full g = false → ∃ (t : State), o = .next t ∧ t.pres = s.pres ∧
      AccessNow s t (answered a p a.flags 0 false)) ∧
    (∀ once, a.kind = .presence true false once false → (once = true → s.full g = false) →
      ∃ (t : State), o = .next t ∧ t.full g = true ∧ ∀ su, t.cells su = s.cells su) ∧
    (a.kind = .presence true false true false → s.full g = true → o = .next
      (s.accessTrap a { code := tcOnceViolation, aux0 := p.addr, aux1 := 1 })) ∧
    (a.kind = .presence false true false false → ∃ (t : State), o = .next t ∧ t.full g = false ∧ ∀ su, t.cells su = s.cells su) ∧
    (a.kind = .presence false false false true → ∃ (t : State), o = .next t ∧ t.pres = s.pres ∧
      AccessNow s t (answered a p a.flags (if s.full g then 1 else 0) false))

/-- R134, R141, R146: the response of a performed access sends its data on T0 and T1 and its order-out on T2, and the access is
gone: a load one word, LDP and LDSP two, an atomic its old value, a store and FENCE the order-out alone. -/
def Obligations.ResponsesSendTokens : Prop :=
  ∀ (s : State) (a : Access) (f : Firing) (i : Instr), (s.fab.accs.drop s.arg.n).head? = some a → a.origin = .firing f →
    (∀ q, a.kind ≠ .claim q) → s.live a.k .ports = true → s.performed a = true → (s.sbufOf a.id).isSome = false →
    s.runs a.k f.site.holder = true → f.instr = some i →
    let u := s.dropAcc a.id
    let d := respNat a.pieces
    ∃ (t : State), exec .accessResponse s = .next t ∧
      (∀ h sc q t2 b x, i = .ldb h sc q t2 b x → t = u.sendWord a f h t2
        (if h.ty = .i32 then BitVec.ofInt 32 (signedOf (d % 2 ^ 8) 8) else BitVec.ofNat 32 d).toNat) ∧
      (∀ h sc q t2 b x, i = .ldh h sc q t2 b x → t = u.sendWord a f h t2
        (if h.ty = .i32 then BitVec.ofInt 32 (signedOf (d % 2 ^ 16) 16) else BitVec.ofNat 32 d).toNat) ∧
      (∀ h sc q t2 b x, i = .ld h sc q t2 b x → t = u.sendWord a f h t2 d) ∧
      (∀ h sc q t2 b x, i = .ldp h sc q t2 b x → t = u.sendPair a f h t2 d) ∧
      (∀ h sc nb c w t2 x, i = .lds h sc nb c w t2 x → t = u.sendWord a f h t2 d) ∧
      (∀ h sc nb c w t2 x, i = .ldsp h sc nb c w t2 x → t = u.sendPair a f h t2 d) ∧
      (∀ h sc t2 x, i = .ldt h sc t2 x → t = u.sendWord a f h t2 d) ∧
      (∀ h sc q r t2 b x, i = .atadd h sc q r t2 b x → a.kind = .atomic .add h.ty → (a.pieces.head?.map Piece.size) ≠ some 8 →
        t = u.sendWord a f h t2 d) ∧
      (∀ h sc q t2 b x, i = .st h sc q t2 b x → a.kind = .write → t = u.answer f 1 none) ∧
      (∀ h sc q r t2, i = .fence h sc q r t2 → a.kind = .read → t = u.answer f 1 none)

/-- R158, R160: LDT and STT issue one access for the word that the linear index in slot a names: its bits are those of the lanes in
range, and it has no piece when no lane is in range. A broken descriptor raises TENSOR_DESC, a misaligned coordinate ALIGN. -/
def Sys2Proof.Claims.TensorWords : Prop :=
  ∀ (s : State) (f : Firing) (h : Hdr) (sc : Scope) (t2 : Option Target) (desc : BitVec 6), Runs s f h [] →
    poisonIn f .a = false →
    let u := s.counted f h.ty
    let b := u.descEntry f.k f.v desc.toNat
    (∀ t : Tensor, tensorOf b = some t →
      let l := (f.data .a).toNat
      let e := fun i => (t.ext.drop i).headD 0
      let c := [l % e 0, l / e 0 % e 1, l / (e 0 * e 1) % e 2, l / (e 0 * e 1 * e 2)]
      l % e 0 % t.ty.lanes = 0 → (t.ttab = 0 → Allowed u f false (t.va c)) →
      exec (.ldt h sc t2 desc) s = .next (issued u { f.access .read h.ty sc with pieces := t.pieces c 0, tens := t.behind b c }) ∧
      Stored (exec (.stt h sc t2 desc) s) u f h t2 true { f.access .write h.ty sc with
        pieces := t.pieces c (f.data .b).toNat, tens := t.behind b c, poi := poisonIn f .b }) ∧
    (tensorOf b = none → ∃ x : Cause, x.code = tcTensorDesc ∧ x.aux0 = desc.toNat ∧
      exec (.ldt h sc t2 desc) s = .next (u.trapFiring f x) ∧ exec (.stt h sc t2 desc) s = .next (u.trapFiring f x)) ∧
    (∀ t : Tensor, tensorOf b = some t → (f.data .a).toNat % (t.ext.drop 0).headD 0 % t.ty.lanes ≠ 0 →
      ∃ x : Cause, x.code = tcAlign ∧ exec (.ldt h sc t2 desc) s = .next (u.trapFiring f x) ∧
        exec (.stt h sc t2 desc) s = .next (u.trapFiring f x))

/-- R163: STRM starts a stream of the parent's tag with the count of its window, and reads every word with a lane in range; words out
of range are 0. R164: an origin set of STRMW starts the stream that takes its words. A stream of more than 44 bits raises TAG_DEPTH,
a window that the shape does not allow STREAM_SHAPE. -/
def Sys2Proof.Claims.StreamsStart : Prop :=
  ∀ (s : State) (f : Firing) (h : Hdr) (sc : Scope) (sw : BitVec 5) (shp desc : BitVec 6) (w : Win),
    let u := s.counted f h.ty
    let n := sw.toNat + 1
    (Runs s f h [.a] → u.window f.k f.v desc.toNat shp.toNat (f.data .a).toNat n = .win w → f.dep + n ≤ 44 →
      u.stream? f.site f.tag f.dep = none → u.streamCount f.site < 8 →
      ∃ (t : State) (x : Stream), exec (.strm h sw shp desc) s = .next t ∧ t.stream? f.site f.tag f.dep = some x ∧ x.count = some w.count ∧ x.next = 0 ∧
        x.fire = some f ∧ SameMemory s t ∧
        ∀ j < w.count, if w.t.mask (w.at j) = 0 then (∃ k : Tok, (j, k) ∈ x.words ∧ k.data = 0)
          else ∃ a ∈ t.fab.accs, a.origin = .stream f j ∧ a.kind = .read ∧ a.pieces = w.t.pieces (w.at j) 0) ∧
    (Runs s f h [.a] → u.window f.k f.v desc.toNat shp.toNat (f.data .a).toNat n = .win w → 44 < f.dep + n →
      exec (.strm h sw shp desc) s = .next (u.trapFiring f { code := tcTagDepth, aux0 := f.dep, aux1 := n })) ∧
    (∀ c, Runs s f h [.a] → u.window f.k f.v desc.toNat shp.toNat (f.data .a).toNat n = .shape c →
      exec (.strm h sw shp desc) s = .next (u.trapFiring f { code := tcStreamShape, aux0 := c, aux1 := n })) ∧
    (Runs s f h [.b] → f.a = none → u.window f.k f.v desc.toNat shp.toNat (f.data .b).toNat n = .win w →
      u.stream? f.site f.tag f.dep = none → u.streamCount f.site < 8 →
      exec (.strmw h sc sw shp desc) s = .next { u with fab := { u.fab with streams := u.fab.streams ++
        [{ site := f.site, tag := f.tag, dep := f.dep, count := some w.count, fire := some f, since := u.cyc }] } })

/-- R161, R165 to R168: the nodes of a stream take its tokens in ascending order. A token ahead of its turn waits, one behind it raises
DUP_TOKEN, and a depth below the index field raises TAG_DEPTH. -/
def Sys2Proof.Claims.StreamTurns : Prop :=
  ∀ (s : State) (f : Firing) (h : Hdr) (sat tr : Bool) (rm : Rnd) (ops : Bool) (sw : BitVec 5) (rt : BitVec 14) (i : Instr),
    Runs s f h [] → i ∈ [Instr.sred h sat rm ops sw, .sscan h sat rm ops sw, .szip h tr sw, .rmax h rt sw, .rsumx h rm rt sw,
      .rsqs h rm rt sw] →
    let w := sw.toNat + 1
    let p := withNest f.tag (tagNest f.tag / 2 ^ w)
    let j := tagNest f.tag % 2 ^ w
    (f.dep < w → exec i s = .next (s.trapFiring f { code := tcTagDepth, aux0 := f.dep, aux1 := w })) ∧
    (∀ x : Stream, w ≤ f.dep → s.stream? f.site p (f.dep - w) = some x → x.next < j → (∀ y ∈ s.fab.sets, y.site ≠ f.site) →
      exec i s = .next { s with held := true }) ∧
    (∀ x : Stream, w ≤ f.dep → s.stream? f.site p (f.dep - w) = some x → j < x.next → (∀ y ∈ s.fab.sets, y.site ≠ f.site) →
      ∃ c : Cause, c.code = tcDupToken ∧ exec i s = .next (s.trapFiring f c)) ∧
    (w ≤ f.dep → s.stream? f.site p (f.dep - w) = none → s.streamCount f.site < 8 → 0 < j → (∀ y ∈ s.fab.sets, y.site ≠ f.site) →
      exec i s = .next { s with held := true })

/-- R165: SRED adds the elements of each token to its parent's running sum in ascending order, exactly for integers and rounded once
for each element to f32, and its marker sends the reduced sum under the parent's tag. SSCAN does so and sends the reduced sum after
each element under the element's index; its marker holds the count of elements. A null token adds nothing. -/
def Sys2Proof.Claims.StreamReduction : Prop :=
  ∀ (s : State) (f : Firing) (h : Hdr) (sat : Bool) (rm : Rnd) (ops : Bool) (sw : BitVec 5) (x : Stream) (k : Tok),
    let w := sw.toNat + 1
    let p := parentOf f w
    let dp := f.dep - w
    let n := h.ty.lanes
    let v := w + logLanes h.ty
    let y := stepped s f x
    let ty : Ty := if h.ty.isFloat then .f32 else if h.ty.isSigned then .i32 else .n32
    let sum := fun (i : Nat) => summed h.ty ops rm (f.data .a) i y
    let part := fun (d : Word) (i : Nat) => (f.streamResult p dp ty d.toNat y.poi y.after).under p dp v (n * x.next + i)
    OnlyA f k →
    (InTurn s f w [.a] false x → k.eos = false →
      (k.nul = false → ∃ t : State, exec (.sred h sat rm ops sw) s = .next t ∧ t.stream? f.site p dp = some (sum n) ∧
        t.fab.flights = s.fab.flights ∧ SameMemory s t) ∧
      (k.nul = true → exec (.sred h sat rm ops sw) s = .next (s.putStream y)) ∧
      (f.dep + logLanes h.ty ≤ 44 → s.windowFull f.site p dp v (n * x.next + n - 1) = false →
        (k.nul = false → ∃ (t : State) (d : Nat → Word), exec (.sscan h sat rm ops sw) s = .next t ∧ t.stream? f.site p dp = some (sum n) ∧
          (∀ i < n, ∃ fl, ReducedSum h.ty sat (sum (i + 1)) (d i) fl) ∧ SameMemory s t ∧
          t.fab.flights = (foldState (fun v i => v.emitAll f.site 4 (part (d i) i) [h.t0, h.t1]) s (upto n)).fab.flights) ∧
        (k.nul = true → exec (.sscan h sat rm ops sw) s = .next (foldState (fun v i =>
          v.emitAll f.site 4 ({ part 0 i with nul := true }) [h.t0, h.t1]) (s.putStream y) (upto n))))) ∧
    (InTurn s f w [.a] true x → k.eos = true →
      (∃ (d : Word) (fl : Nat), ReducedSum h.ty sat x d fl ∧ exec (.sred h sat rm ops sw) s =
        .next (((s.raiseFlags f.k 0 fl).dropStream f.site p dp).emitAll f.site 4 (f.streamResult p dp ty d.toNat x.poi x.after)
          [h.t0, h.t1])) ∧
      (f.dep + logLanes h.ty ≤ 44 → exec (.sscan h sat rm ops sw) s = .next ((s.dropStream f.site p dp).emitAll f.site 4
        (({ f.streamResult p dp ty 0 false with eos := true } : Tok).under p dp v (n * x.next)) [h.t0, h.t1]))) ∧
    (∀ (z : Stream) (d : Word) (i : Nat),
      let e := laneVal h.ty d i
      let o := laneInt h.ty d i
      let r := z.accumulate h.ty ops rm d i
      (h.ty.isFloat = true → r.1 = { z with facc := r.1.facc } ∧
        Rounded .f32 rm false (Val.add rm (Fmt.f32.value z.facc.toNat) (if ops then Val.mul e e else e)) (addElem z.facc e ops rm).1 r.2 ∧
        r.1.facc = BitVec.ofNat 32 (addElem z.facc e ops rm).1) ∧
      (h.ty.isFloat = false → r = ({ z with iacc := z.iacc + (if ops then o * o else o) }, 0)))

/-- R166: SZIP sends the data of slot a on T0 and of slot b on T1 for each pair of its streams, a null token on both where either is
null, and one marker at their common end. A marker that meets a data token raises STREAM_LEN without `.trunc`. -/
def Sys2Proof.Claims.StreamZip : Prop :=
  ∀ (s : State) (f : Firing) (h : Hdr) (trunc : Bool) (sw : BitVec 5) (x : Stream) (ka kb : Tok),
    let w := sw.toNat + 1
    let p := parentOf f w
    let o := exec (.szip h trunc sw) s
    let next := s.putStream { x with next := x.next + 1, since := s.cyc }
    f.a = some ka → f.b = some kb → f.c = none → f.p = none → ka.rol = false → kb.rol = false →
    (InTurn s f w [.a, .b] false x → ka.eos = false → kb.eos = false →
      (ka.nul = false → kb.nul = false → o = .next ((next.emit f.site h.t0 1 (f.result h false h.ty ka.data)).emit f.site h.t1 1
        (f.result h false h.ty kb.data))) ∧
      (ka.nul = true ∨ kb.nul = true → o = .next (next.emitAll f.site 1 (f.marker h false true false false) [h.t0, h.t1]))) ∧
    (InTurn s f w [.a, .b] true x → ka.eos = true → kb.eos = true →
      o = .next ((s.dropStream f.site p (f.dep - w)).emitAll f.site 1 (f.marker h false false true false) [h.t0, h.t1])) ∧
    (∀ eos, InTurn s f w [.a, .b] eos x → eos = ka.eos → ka.eos ≠ kb.eos → trunc = false →
      ∃ c : Cause, c.code = tcStreamLen ∧ o = .next (s.trapFiring f c))

/-- R168: RMAX, RSUMX and RSQS keep one value for a row of RT tokens: the largest magnitude, the sum, or the sum of squares of its
elements. They send it after the row's last token under the row's index; a token in a row's middle sends nothing, a null token adds
nothing, and the marker carries the count of rows. A count that is no multiple of RT raises STREAM_LEN. -/
def Sys2Proof.Claims.RowValues : Prop :=
  ∀ (s : State) (f : Firing) (h : Hdr) (rm : Rnd) (rt : BitVec 14) (sw : BitVec 5) (x : Stream) (k : Tok) (i : Instr),
    let w := sw.toNat + 1
    let p := parentOf f w
    let dp := f.dep - w
    let n := rt.toNat + 1
    let r := x.next / n
    let y := stepped s f (if x.next % n = 0 then { x with facc := 0, poi := false } else x)
    let v := if k.nul then y.facc else rowValue h.ty (rowStep i) (f.data .a) h.ty.lanes y.facc
    i ∈ [Instr.rmax h rt sw, .rsumx h rm rt sw, .rsqs h rm rt sw] → OnlyA f k →
    (InTurn s f w [.a] false x → k.eos = false → ∃ t : State,
      t.stream? f.site p dp = some { y with facc := v } ∧ t.fab.flights = s.fab.flights ∧ SameMemory s t ∧
      (k.nul = true → t = s.putStream { y with facc := v }) ∧
      exec i s = .next (if (x.next + 1) % n = 0 then
        t.emitAll f.site 4 ((f.streamResult p dp .f32 v.toNat y.poi y.after).under p dp w r) [h.t0, h.t1] else t)) ∧
    (InTurn s f w [.a] true x → k.eos = true →
      (x.next % n = 0 → exec i s = .next ((s.dropStream f.site p dp).emitAll f.site 4
        (({ f.streamResult p dp .f32 0 false with eos := true } : Tok).under p dp w r) [h.t0, h.t1])) ∧
      (x.next % n ≠ 0 → exec i s = .next (s.streamLen f .a x.next x.next))) ∧
    (∀ (a : Word) (e : Val) (sq : Bool),
      let m := Fmt.f32.value a.toNat
      (e = .nan → maxMagnitude a e = (Fmt.f32.canonNaN, flNV)) ∧
      (e ≠ .nan → m.isNaN = true → maxMagnitude a e = (Fmt.f32.canonNaN, 0)) ∧
      (e ≠ .nan → m.isNaN = false → m.lt e.magnitude = false → maxMagnitude a e = (a.toNat, 0)) ∧
      (e ≠ .nan → m.isNaN = false → m.lt e.magnitude = true → maxMagnitude a e = ((roundToFormat e.magnitude .f32 .rne false).1, 0)) ∧
      Rounded .f32 rm false (Val.add rm m (if sq then Val.mul e e else e)) (addElem a e sq rm).1 (addElem a e sq rm).2)

/-- R169: RDLY keeps a row's value until its elements come, and then sends each element in ascending index, with the row's value on T1;
after both markers it sends one. R170: RREL sends a row's scale and its inverse. -/
def Sys2Proof.Claims.RowDelayAndScale : Prop :=
  ∀ (s : State) (f : Firing) (h : Hdr) (depth : BitVec 2) (rt : BitVec 14) (sw : BitVec 5) (rm : Rnd) (tgt : BitVec 3) (k v : Tok)
    (x : Stream),
    let w := sw.toNat + 1
    let n := rt.toNat + 1
    let j := indexOf f w
    let o := exec (.rdly h depth rt sw) s
    (s.cur = some f → w ≤ f.dep → Known s f w x →
      (f.a = none → f.b = some v → f.c = none → f.p = none → v.rol = false →
        (v.eos = false → (∀ m, x.rowEnd = some m → j < m) → x.row ≤ j → (∀ y ∈ x.rows, y.1 ≠ j) →
          o = .next (s.putStream { x with rows := x.rows ++ [(j, v)], since := s.cyc })) ∧
        (v.eos = true → (∀ y ∈ x.rows, y.1 < j) → o = .next (s.putStream { x with rowEnd := some j, since := s.cyc }))) ∧
      (OnlyA f k → x.next = j →
        (k.eos = false → s.waiting f.site [.a] (parentOf f w) (f.dep - w) w (fun e c => e && decide (c ≤ j)) = false →
          x.rows.find? (fun y => decide (y.1 = j / n)) = some (j / n, v) →
          let nul := k.nul || v.nul
          let poi := k.poi || v.poi
          let y := { x with next := j + 1, row := (j + 1) / n, since := s.cyc,
                            rows := if (j + 1) % n = 0 then x.rows.filter fun y => decide (y.1 ≠ j / n) else x.rows }
          o = .next (((s.putStream y).emit f.site h.t0 1 { k with nul := nul, poi := poi, data := if nul then 0 else k.data }).emit
            f.site h.t1 1 { k with nul := nul, poi := poi, data := if nul then 0 else v.data, ty := v.ty })) ∧
        (k.eos = false → s.waiting f.site [.a] (parentOf f w) (f.dep - w) w (fun e c => e && decide (c ≤ j)) = false →
          (∀ y ∈ x.rows, y.1 ≠ j / n) → o = .next { s with held := true }) ∧
        (∀ m, k.eos = true → x.rowEnd = some m → j = n * m → o = .next ((s.dropStream f.site (parentOf f w) (f.dep - w)).emitAll f.site 1
          (f.marker h false false true false) [h.t0, h.t1])))) ∧
    (Runs s f h [] → ∃ (a b : Word) (fl : Nat), exec (.rrel h rm tgt) s =
        .next ((((s.counted f h.ty).raiseFlags f.k 0 fl).emit f.site h.t0 8 (f.result h false h.ty a)).emit f.site h.t1 8
          (f.result h false h.ty b)) ∧
      (valOf f .f32 .a 0 = .nan → a = 0x7FC00000 ∧ b = 0x7FC00000 ∧ fl = flNV) ∧
      (∀ g, valOf f .f32 .a 0 = .inf g → a = 0x7F800000 ∧ b = 0 ∧ fl = 0) ∧
      ((valOf f .f32 .a 0).isZero = true → a = 0x3F800000 ∧ b = 0x3F800000 ∧ fl = 0) ∧
      (∀ g n e st, valOf f .f32 .a 0 = .fin g n e st → n ≠ 0 →
        a = BitVec.ofNat 32 (roundToFormat (quotient n e (relTarget tgt.toNat) 0) .f32 rm false).1 ∧
        b = BitVec.ofNat 32 (roundToFormat (quotient (relTarget tgt.toNat) 0 n e) .f32 rm false).1))

/-! Systolic regions. -/

/-- R174: MREGION takes the free rectangle of lowest origin row, then column, and the lowest free region number; the new region has
active half 0, unloaded halves and free entries, and its handle goes to T0 and T1. With no rectangle or number free the set is held. -/
def Sys2Proof.Claims.RegionsBindFirstFree : Prop :=
  ∀ (s : State) (f : Firing) (hd : Hdr) (e : BitVec 4) (wm hm : BitVec 5) (b : Nat), Runs s f hd [] →
    f.site.holder.barn? = some b → s.belLoad = none →
    let u := s.counted f hd.ty
    let h := hm.toNat + 1
    let w := wm.toNat + 1
    (∀ row col r, row + h ≤ 32 → col + w ≤ 32 → u.rectFree b h w row col = true →
      (∀ y x, y + h ≤ 32 → x + w ≤ 32 → y < row ∨ (y = row ∧ x < col) → u.rectFree b h w y x = false) →
      r < 8 → u.region? b r = none → (∀ n < r, (u.region? b n).isSome = true) →
      ∃ (t : State) (x : Region), exec (.mregion hd e wm hm) s = .next t ∧ t.region? b r = some x ∧ t.fab.regions = u.fab.regions ++ [x] ∧
        x.h = h ∧ x.w = w ∧ x.row = row ∧ x.col = col ∧ x.k = f.k ∧ x.v = f.v ∧ x.active = 0 ∧ x.accs = [] ∧ x.tiles = [] ∧
        x.half0.loaded = false ∧ x.half1.loaded = false ∧
        (∃ y ∈ t.fetches, y.holder = .region b r ∧ y.blk = u.exitBlock f.site.holder f.site.blk e.toNat) ∧
        t.fab.flights = (u.emitAll f.site 6 (f.result hd false hd.ty
          (BitVec.ofNat 32 (u.regionGen b r * 2 ^ 16 + r * 64 + u.logicalBarn f.k b))) [hd.t0, hd.t1]).fab.flights) ∧
    ((∀ row col, row + h ≤ 32 → col + w ≤ 32 → u.rectFree b h w row col = false) ∨ (∀ n < 8, (u.region? b n).isSome = true) →
      exec (.mregion hd e wm hm) s = .next { u with held := true })

/-- R171, R174, R175, R176: MFREE, WLOAD and WSWAP act on the region of their handle or their block; a bad handle raises MATRIX_HANDLE,
and a WSWAP with no WLOAD before it MATRIX_STATE. -/
def Sys2Proof.Claims.RegionCommands : Prop :=
  ∀ (s : State) (f : Firing) (h : Hdr) (t2 : Option Target) (cmp : Bool) (gsz : BitVec 2) (wfmt : BitVec 4) (x : Region),
    let u := s.counted f h.ty
    (Runs s f h [] → u.byHandle f.k (f.data .a) = some x → x.freeBy = none →
      exec (.mfree h) s = .next (u.putRegion { x with freeBy := some f })) ∧
    (Runs s f h [.b] → u.byHandle f.k (f.data .a) = some x →
      ∃ (t : State) (y : Region), exec (.wload h t2 cmp gsz wfmt) s = .next t ∧ t.region? x.barn x.r = some y ∧
        y.loads.map (fun l => (l.fire, l.off, l.wfmt, l.gsz, l.cmp)) =
          x.loads.map (fun l => (l.fire, l.off, l.wfmt, l.gsz, l.cmp)) ++ [(f, (f.data .b).toNat, wfmt.toNat, gsz.toNat, cmp)] ∧
        (y.halfOf y.idle).fresh = true ∧ y.active = x.active ∧ t.fab.flights = u.fab.flights ∧ SameMemory u t) ∧
    (∀ b r, Runs s f h [] → f.site.holder = .region b r → u.region? b r = some x → (x.halfOf x.idle).fresh = true → x.swap = none →
      exec (.wswap h) s = .next (u.putRegion { x with swap := some f })) ∧
    (∀ b r, Runs s f h [] → f.site.holder = .region b r → u.region? b r = some x → (x.halfOf x.idle).fresh = false →
      exec (.wswap h) s = .next (u.trapFiring f { code := tcMatrixState, aux0 := u.handleOf x, aux1 := x.idle })) ∧
    (u.byHandle f.k (f.data .a) = none → (Runs s f h [] → exec (.mfree h) s = .next (u.handleTrap f)) ∧
      (Runs s f h [.b] → exec (.wload h t2 cmp gsz wfmt) s = .next (u.handleTrap f)))

/-- R177, R309: a token of a tile in progress enters its region row or waits in the row entry table; a marker with the right count ends
its stream, and one with another count raises STREAM_LEN. -/
def Sys2Proof.Claims.TileTokens : Prop :=
  ∀ (s : State) (f : Firing) (h : Hdr) (iext ires : Bool) (sw : BitVec 5) (mr : BitVec 6) (b r : Nat) (x : Region) (tl : MTile)
    (k : Tok),
    let w := sw.toNat + 1
    let j := tagNest f.tag % 2 ^ w
    let n := (mr.toNat + 1) * rowTokens x (x.halfOf tl.half) h.ty
    let row := j % rowTokens x (x.halfOf tl.half) h.ty / (weightsPerPe (x.halfOf tl.half).wfmt / h.ty.lanes)
    s.cur = some f → f.site.holder = .region b r → s.region? b r = some x → w ≤ f.dep → f.a = some k → f.b = none → f.c = none →
    f.p = none → k.rol = false →
    x.tiles.find? (fun t => decide (t.tag = withNest f.tag (tagNest f.tag / 2 ^ w)) && decide (t.dep = f.dep - w)) = some tl →
    (k.eos = false → j < n → (∀ p ∈ tl.toks, p.1 ≠ j) → (∀ e ∈ x.rowTab, ¬(e.2.1 = tl.id ∧ e.2.2.1 = j)) →
      (x.rowTab.filter fun e => e.1 = row).length < 16 →
      ∃ (t : State) (y : Region), exec (.mmac h iext sw mr ires) s = .next t ∧ t.region? b r = some y ∧ t.fab.flights = s.fab.flights ∧ SameMemory s t ∧
        (y.rowTab = x.rowTab ++ [(row, tl.id, j, k)] ∨ ∃ z ∈ y.tiles, z.id = tl.id ∧ (j, k) ∈ z.toks)) ∧
    (k.eos = true → j = n → exec (.mmac h iext sw mr ires) s =
      .next (s.putRegion (x.modTile tl.id fun z => { z with count := some j }))) ∧
    (k.eos = true → j ≠ n → exec (.mmac h iext sw mr ires) s = .next (s.streamLen f .a j n)) ∧
    (k.eos = false → n ≤ j → exec (.mmac h iext sw mr ires) s = .next (s.streamLen f .a j n))

/-- R177, R308: a tile takes MROWS entries of the active set at the lowest free base. A tile on an unloaded half raises MATRIX_STATE,
a pair of types that R173 does not accept MATRIX_SHAPE, and a region of 16 tiles makes it wait. -/
def Sys2Proof.Claims.TilesTakeLowestBase : Prop :=
  ∀ (s : State) (x : Region) (ty : Ty) (ires : Bool) (m : Nat) (p : DWord) (dp : Nat),
    let used := fun i => ∃ a ∈ x.accs, a.half = x.active ∧ a.idx = i
    let go := s.swapDue x = false ∧ x.tiles.length < 16
    (∀ b, go → (x.halfOf x.active).loaded = true → accepts (x.halfOf x.active).wfmt ty ires = true → b + m ≤ 64 →
      (∀ i < m, ¬used (b + i)) → (∀ c < b, ∃ i < m, used (c + i)) →
      ∃ (y : Region) (t : MTile), s.startTile x ty ires m p dp = .tile y t ∧ t.base = b ∧ t.half = x.active ∧ t.tag = p ∧ t.dep = dp ∧
        y.tiles = x.tiles ++ [t] ∧ y.accs.map (fun a => (a.half, a.idx, a.full)) =
          x.accs.map (fun a => (a.half, a.idx, a.full)) ++ (List.range m).map fun i => (x.active, b + i, false)) ∧
    (¬go → s.startTile x ty ires m p dp = .wait) ∧
    (go → (x.halfOf x.active).loaded = false → s.startTile x ty ires m p dp =
      .trap { code := tcMatrixState, aux0 := s.handleOf x, aux1 := x.active }) ∧
    (go → (x.halfOf x.active).loaded = true → accepts (x.halfOf x.active).wfmt ty ires = false → ∃ c : Cause, c.code = tcMatrixShape ∧
      s.startTile x ty ires m p dp = .trap c) ∧
    (go → (x.halfOf x.active).loaded = true → accepts (x.halfOf x.active).wfmt ty ires = true → m ≤ 64 →
      (∀ c ≤ 64 - m, ∃ i < m, used (c + i)) → s.startTile x ty ires m p dp = .wait)

/-- R58, R177: an integer result is the initial value plus the exact sum over k of (q - zp) x, where q is the weight of row k and
column n, zp its group's zero point, and x the activation. -/
def Sys2Proof.Claims.IntegerTileResult : Prop :=
  ∀ (x : Region) (hf : Machine.Half) (ty : Ty) (xs : Nat → Word) (init : Option Word) (m n : Nat),
    let kk := x.h * weightsPerPe hf.wfmt
    (x.dot hf ty true xs init m n).1 = (init.map BitVec.toInt).getD 0 + ((List.range kk).map fun k =>
      ((weightAt hf.bytes x.w hf.wfmt k n : Int) -
        (bitsAt (paramAt hf.bytes x.h x.w (k / groupSize hf.wfmt hf.gsz) n) 16 8 : Nat)) *
        laneInt ty (xs (m * rowTokens x hf ty + k / ty.lanes)) (k % ty.lanes)).sum

/-- R178: MDRAIN takes the entries that a completion word names, which then hold nothing to be drained, and refuses with MATRIX_STATE a
word with a reserved bit, entries past 64, or an entry with no undrained result; a count of 2^SW or more raises STREAM_SHAPE. -/
def Sys2Proof.Claims.DrainsTakeEntries : Prop :=
  ∀ (s : State) (f : Firing) (h : Hdr) (sat pen : Bool) (sw : BitVec 5) (port : BitVec 4) (b r : Nat) (x : Region),
    Runs s f h [] → f.site.holder = .region b r → s.region? b r = some x →
    let u := s.counted f h.ty
    let d := (f.data .a).toNat
    let base := d % 64
    let m := d / 64 % 128
    let set := d / 2 ^ 13 % 2
    let ires := decide (d / 2 ^ 14 % 2 = 1)
    let ok := d < 2 ^ 15 ∧ base + m ≤ 64 ∧ ires = decide (h.ty = .i32) ∧
      ∀ i < m, ∃ a ∈ x.accs, a.half = set ∧ a.idx = base + i ∧ a.full = true
    (ok → m * (8 * x.w) < 2 ^ (sw.toNat + 1) → f.dep + (sw.toNat + 1) ≤ 44 →
      ∃ (t : State) (y : Region) (dr : Drain), exec (.mdrain h sat sw pen port) s = .next t ∧ t.region? b r = some y ∧ y.drains = x.drains ++ [dr] ∧
        dr.site = f.site ∧ dr.tag = f.tag ∧ dr.dep = f.dep ∧ dr.half = set ∧ dr.base = base ∧ dr.m = m ∧ dr.ires = ires ∧ dr.next = 0 ∧
        y.accs = x.accs.map (fun a => if a.half = set ∧ base ≤ a.idx ∧ a.idx < base + m then { a with full := false } else a) ∧
        t.fab.flights = u.fab.flights ∧ SameMemory u t) ∧
    (¬ok → exec (.mdrain h sat sw pen port) s =
      .next (u.trapFiring f { code := tcMatrixState, aux0 := u.handleOf x, aux1 := set })) ∧
    (ok → 2 ^ (sw.toNat + 1) ≤ m * (8 * x.w) → exec (.mdrain h sat sw pen port) s =
      .next (u.trapFiring f { code := tcStreamShape, aux0 := m * (8 * x.w), aux1 := sw.toNat + 1 }))

/-- R175, R176, R177, R309: the events of a region. A waiting token enters its row; a tile whose streams have ended writes its results
and sends its completion word; a load latches a valid image; a swap makes the idle half active; a release frees the region. -/
def Sys2Proof.Claims.RegionEvents : Prop :=
  ∀ (s : State) (x : Region), s.field? s.arg.u s.arg.j = some x →
    (∀ site h iext w m ires id j k, s.mmacOf x = some (site, h, iext, w, m, ires) → x.rowNext h.ty s.arg.m = some (id, j, k) →
      x.rowReady s.arg.m s.cyc = true → ∃ (t : State) (y : Region), exec .regionRowEntry s = .next t ∧ t.region? x.barn x.r = some y ∧
        (∀ e ∈ y.rowTab, ¬(e.1 = s.arg.m ∧ e.2.1 = id ∧ e.2.2.1 = j)) ∧ ∃ z ∈ y.tiles, z.id = id ∧ (j, k) ∈ z.toks) ∧
    (∀ site h w m ires tl r, s.mmacOf x = some (site, h, false, w, m, ires) → s.targeted site .b = false → x.tiles = tl :: r →
      tl.count.isSome = true → tl.toks.length = m * rowTokens x (x.halfOf tl.half) h.ty → tl.lastIn + x.h + x.w + 8 ≤ s.cyc →
      ∃ (v : State) (y : Region) (k : Tok), exec .mmacTileComplete s = .next (v.emitAll site 0 k [h.t0, h.t1]) ∧
        v.fab.flights = s.fab.flights ∧ v.region? x.barn x.r = some y ∧ (∀ z ∈ y.tiles, z.id ≠ tl.id) ∧
        k.tag = tl.tag ∧ k.dep = tl.dep ∧
        k.data = BitVec.ofNat 32 ((if ires then 2 ^ 14 else 0) + tl.half * 2 ^ 13 + m * 64 + tl.base) ∧
        ∀ a ∈ y.accs, a.tile = tl.id → a.half = tl.half → a.full = true ∧ ∀ n < 8 * x.w, a.idx - tl.base < m →
          a.vals[n]? = some (x.dot (x.halfOf tl.half) h.ty ires (tokenAt tl.toks) none (a.idx - tl.base) n).1) ∧
    (∀ l r c hf, x.loads = l :: r → l.started = some c → l.cmp = false → l.off % 64 = 0 →
      imageBytes x.h x.w l.wfmt l.gsz ≤ (s.weightBytes x.barn x.k l.off).length →
      (s.block? (.region x.barn x.r) x.blk).isSome = true →
      loadHalf (s.raced l.seen (s.weightBytes x.barn x.k l.off)) x.h x.w l.wfmt l.gsz
        (s.weightPoison x.barn x.k l.off (imageBytes x.h x.w l.wfmt l.gsz)) = .inl hf →
      c + 12 + (imageBytes x.h x.w l.wfmt l.gsz + 255) / 256 ≤ s.cyc → r = [] →
      ∃ (t : State) (y : Region), exec .wloadComplete s = .next t ∧ t.region? x.barn x.r = some y ∧ y.loads = [] ∧ y.halfOf x.idle = hf) ∧
    (∀ f, x.swap = some f → x.tiles = [] → x.loads = [] → x.busyTo ≤ s.cyc →
      ∃ (v : State) (y : Region) (h : Hdr), exec .wswapInForce s =
          .next (v.emitAll f.site 2 (f.result h false h.ty (f.data .a)) [h.t0, h.t1]) ∧
        v.fab.flights = s.fab.flights ∧ v.region? x.barn x.r = some y ∧ y.active = 1 - x.active ∧ y.swap = none) ∧
    (∀ f, x.freeBy = some f → x.tiles = [] → x.loads = [] → x.drains = [] →
      ∃ (v : State) (h : Hdr), exec .mfreeRelease s = .next (v.emitAll f.site 4 (f.result h false .b32 0) [h.t0, h.t1]) ∧
        v.fab.flights = s.fab.flights ∧ v.region? x.barn x.r = none ∧ v.regionGen x.barn x.r = (x.gen + 1) % 2 ^ 16)

/-- R178, R254: MDRAIN_RESULT sends the next result of a drain under its index, unless a token or set of the drain lies 64 or more
indexes behind it, and after the last one the marker, whose entries become free. -/
def Sys2Proof.Claims.DrainResults : Prop :=
  ∀ (s : State) (x : Region) (d : Drain) (h : Hdr) (sat pen : Bool) (sw : BitVec 5) (port : BitVec 4),
    s.field? s.arg.u s.arg.j = some x → (x.drains.drop s.arg.n).head? = some d → s.nodeInstr d.site = some (.mdrain h sat sw pen port) →
    d.since < s.cyc → (pen = true → s.eqRoom x.barn port.toNat true = true) →
    let cnt := d.m * (8 * x.w)
    (∀ a, d.next < cnt → s.windowFull d.site d.tag d.dep (sw.toNat + 1) d.next = false → x.accs.find? (fun a => decide (a.half = d.half) && decide (a.idx = d.base + d.next / (8 * x.w))) = some a →
      let r := (drained d.ires sat ((a.vals.drop (d.next % (8 * x.w))).headD 0)).1
      ∃ (v : State) (y : Region), v.fab.flights = s.fab.flights ∧ v.region? x.barn x.r = some y ∧
        y.drains = putAt x.drains s.arg.n { d with next := d.next + 1, since := s.cyc } ∧ exec .mdrainResult s =
          .next (v.emitAll d.site 0 (Tok.under { tag := d.tag, dep := d.dep, data := BitVec.ofNat 32 r, ty := h.ty, poi := d.poi }
            d.tag d.dep (sw.toNat + 1) d.next) [h.t0, h.t1])) ∧
    (d.next = cnt → ∃ (v : State) (y : Region), v.fab.flights = s.fab.flights ∧ v.region? x.barn x.r = some y ∧
        (∀ a ∈ y.accs, ¬(a.half = d.half ∧ d.base ≤ a.idx ∧ a.idx < d.base + d.m)) ∧ exec .mdrainResult s =
          .next (v.emitAll d.site 0 (Tok.under { tag := d.tag, dep := d.dep, data := 0, ty := h.ty, poi := d.poi, eos := true } d.tag
            d.dep (sw.toNat + 1) cnt) [h.t0, h.t1])) ∧
    (∀ v : Int, 0 ≤ v → v < 2 ^ 32 → ∀ b fl, drained false sat v = (b, fl) →
      if sat = true ∧ v = 0x7F800000 then b = 0x7F7FFFFF ∧ fl = flSAT else if sat = true ∧ v = 0xFF800000 then b = 0xFF7FFFFF ∧ fl = flSAT
      else b = v.toNat ∧ fl = 0)

/-! Engine commands, launches, publishes and barriers. -/

/-- R185, R186, R210: an engine instruction and LAUNCH read their record word by word at its address, a multiple of 64; TTASK sends the
record's address to the context's queue after a release (R180, R335). -/
def Sys2Proof.Claims.RecordsAreRead : Prop :=
  ∀ (s : State) (f : Firing) (h : Hdr) (sc : Scope) (t2 : Option Target) (bsel : BitVec 4) (disp : BitVec 9), Runs s f h [] →
    poisonIn f .a = false →
    let u := s.counted f h.ty
    let va := flatVa u f bsel disp
    let read := fun (n : Nat) => ∃ a : Access, a.kind = .read ∧ a.origin = .firing f ∧ a.sc = sc ∧ a.pieces.length = n ∧
      (∀ j < n, a.pieces[j]? = some { addr := va + 4 * j, size := 4, mask := 2 ^ 32 - 1, data := 0 }) ∧
      ∀ i ∈ (if n = 64 then [Instr.launch h sc t2 bsel disp]
        else [.cpy h sc t2 bsel disp, .gath h sc t2 bsel disp, .scat h sc t2 bsel disp, .coll h sc t2 bsel disp]),
        exec i s = .next (issued u a)
    Allowed u f false va →
    (va % 64 = 0 → read 16 ∧ read 64) ∧
    (va % 64 ≠ 0 → ∀ i ∈ [Instr.cpy h sc t2 bsel disp, .gath h sc t2 bsel disp, .scat h sc t2 bsel disp, .coll h sc t2 bsel disp,
      .launch h sc t2 bsel disp, .ttask h sc t2 bsel disp], ∃ c : Cause, c.code = tcAlign ∧ c.aux0 = va ∧
        exec i s = .next (u.trapFiring f c)) ∧
    (∀ d, va % 64 = 0 → u.qdesc? f.k 64 = some d → d.en = true → d.count < 2 ^ d.log2n →
      exec (.ttask h sc t2 bsel disp) s = .next (issued u { f.access .read .b32 sc with rel := true, opnd := va })) ∧
    (∀ d, va % 64 = 0 → u.qdesc? f.k 64 = some d → d.en = true → 2 ^ d.log2n ≤ d.count →
      exec (.ttask h sc t2 bsel disp) s = .next { u with held := true }) ∧
    (∀ d, va % 64 = 0 → u.qdesc? f.k 64 = some d → d.en = false → ∃ c : Cause, c.code = tcTtaskFormat ∧ c.aux0 = va ∧
      exec (.ttask h sc t2 bsel disp) s = .next (u.trapFiring f c))

/-- R194, R196, R197: PUBLISH issues its release; AWAIT registers a waiter for its key and generation and waits outside its node. A
generation of more than 16 bits raises SHEAF_KEY, and an entry that is no tensor descriptor TENSOR_DESC. -/
def Sys2Proof.Claims.PublishAndAwait : Prop :=
  ∀ (s : State) (f : Firing) (h : Hdr) (sc : Scope) (t2 : Option Target) (desc : BitVec 6), Runs s f h [.a, .b] →
    let u := s.counted f h.ty
    let gen := (f.data .b).toNat
    let id := tensorOf (u.descEntry f.k f.v desc.toNat)
    (∀ t, gen < 2 ^ 16 → id = some t →
      exec (.publish h sc t2 desc) s = .next (issued u { f.access .read .b32 sc with rel := true }) ∧
      ((u.waiters.filter fun x => x.pool = poolOf f.site.holder && !x.spill).length < 32768 →
        ∃ (y : State) (w : Waiter), exec (.await h sc t2 desc) s = .next y ∧ y.waiters = u.waiters ++ [w] ∧ w.kind = 3 ∧ w.asid = u.asid f.k ∧
          w.inputs = [{ tid := t.base, tile := (f.data .a).toNat, egen := gen, count := 0, cnt := 0 }] ∧
          y.fab.waits = u.fab.waits ++ [{ id := u.fresh + 1, fire := f, k := f.k, why := .awaitSheaf w.id, since := u.cyc }] ∧
          y.fab.flights = u.fab.flights ∧ (u.regField (.sheafOvf f.k) 59 5 = 0 → SameMemory u y))) ∧
    (gen < 2 ^ 16 → id = none → exec (.publish h sc t2 desc) s = .next (u.tensorDesc f desc.toNat) ∧
      exec (.await h sc t2 desc) s = .next (u.tensorDesc f desc.toNat)) ∧
    (2 ^ 16 ≤ gen → exec (.publish h sc t2 desc) s = .next (u.trapFiring f { code := tcSheafKey, aux0 := gen }) ∧
      exec (.await h sc t2 desc) s = .next (u.trapFiring f { code := tcSheafKey, aux0 := gen }))

/-- R199, R200: BARINIT, ROLL with .arr and BARWAIT issue one access to the barrier object; ROLL without it sends a roll token. A set of
no roll token at ROLL .arr raises BAR_STATE. -/
def Sys2Proof.Claims.BarrierAccesses : Prop :=
  ∀ (s : State) (f : Firing) (h : Hdr) (sc : Scope) (t2 : Option Target) (bsel : BitVec 4) (disp : BitVec 9),
    let u := s.counted f h.ty
    let va := flatVa u f bsel disp
    let at_ := (((s.kbase f.k f.v bsel.toNat : Int) + disp.toInt) % 2 ^ 64).toNat
    let object := fun (x : Nat) => ([{ addr := x, size := 64, mask := 0, data := 0 }] : List Piece)
    (Runs s f h [] → poisonIn f .a = false → Allowed u f false va → va % 64 = 0 → exec (.barwait h sc t2 bsel disp) s =
      .next (issued u { f.access .barWait .b32 sc with acq := true, pieces := object va })) ∧
    (Runs s f h [.b] → poisonIn f .a = false → Allowed u f true va → va % 64 = 0 → exec (.barinit h sc t2 bsel disp) s =
      .next (issued u { f.access (.barInit (f.data .b).toNat) .b32 sc with rel := true, pieces := object va })) ∧
    (Runs s f h [] → exec (.roll h sc t2) s = .next (u.emitAll f.site 1
      { tag := f.tag, dep := f.dep, data := 0, ty := h.ty, rol := true, poi := f.poi false, after := f.after } [h.t0, h.t1, t2])) ∧
    (s.cur = some f → (∀ x ∈ f.toks, x.2.rol = true) → Allowed s f true at_ → at_ % 64 = 0 → exec (.rollArr h sc t2 bsel disp) s =
      .next (issued s { f.access .arrive .b32 sc with rel := true, pieces := object at_ })) ∧
    (Runs s f h [] → ∃ c : Cause, c.code = tcBarState ∧ c.aux0 = at_ ∧ exec (.rollArr h sc t2 bsel disp) s = .next (s.trapFiring f c))

/-! Leaving a block, channels and traps. -/

/-- R202: EXIT delivers its token, unchanged and under the set's tag, into slot ENT of its successor's entry. -/
def Sys2Proof.Claims.ExitDelivers : Prop :=
  ∀ (s : State) (f : Firing) (h : Hdr) (part : Bool) (ent e : BitVec 4) (k : Tok), Leaves s f h k →
    Delivers (exec (.exit h part ent e) s) s f part
      [{ blk := s.exitBlock f.site.holder f.site.blk e.toNat, tag := f.tag, dep := f.dep, ent := ent.toNat,
         tok := { k with tag := f.tag, dep := f.dep } }]

/-- R203: CALL pushes its call field and delivers its token and, when it closes, the link of its return exit in slot 0. Beyond 44 bits
it raises TAG_DEPTH. -/
def Sys2Proof.Claims.CallDelivers : Prop :=
  ∀ (s : State) (f : Firing) (h : Hdr) (rx ent e : BitVec 4) (fld part : Bool) (k : Tok) (i : Inst), Leaves s f h k →
    s.inst? f.k f.v = some i →
    let t := withNest f.tag (2 * tagNest f.tag + (if fld then 1 else 0))
    let callee := s.exitBlock f.site.holder f.site.blk e.toNat
    let link := (s.exitBlock f.site.holder f.site.blk rx.toNat - i.base) / 64
    let val : Value := { blk := callee, tag := t, dep := f.dep + 1, ent := ent.toNat, tok := { k with tag := t, dep := f.dep + 1 } }
    (f.dep + 1 ≤ 44 → Delivers (exec (.call h rx fld part ent e) s) s f part (if part then [val] else
      [val, { blk := callee, tag := t, dep := f.dep + 1, ent := 0,
              tok := { tag := t, dep := f.dep + 1, data := BitVec.ofNat 32 link, ty := .n32 } }])) ∧
    (44 < f.dep + 1 → exec (.call h rx fld part ent e) s = .next (s.trapFiring f { code := tcTagDepth, aux0 := f.dep }))

/-- R203: RET pops the call field and delivers its token to the block that its link names. A link outside the block area raises
CALL_LINK, an empty nest stack TAG_DEPTH, a poisoned link POISON and a null or end-of-stream link CALL_LINK. -/
def Sys2Proof.Claims.RetDelivers : Prop :=
  ∀ (s : State) (f : Firing) (h : Hdr) (ent : BitVec 4) (part : Bool) (k l : Tok) (i : Inst), Leaves s f h k → f.b = some l →
    s.inst? f.k f.v = some i →
    let y := l.data.toNat
    let t := withNest f.tag (tagNest f.tag / 2)
    let area := i.blkoff ≤ y * 64 ∧ y * 64 < i.blkoff + i.blklen
    let bad := .next (s.trapFiring f { code := tcCallLink, aux0 := y, aux1 := ent.toNat })
    (1 ≤ f.dep → l.poi = false → l.nul = false → l.eos = false → l.rol = false → area →
      (∀ w, s.peekHdr f.k (i.base + y * 64) = some w → ent.toNat ≤ hdrNENT w) →
      Delivers (exec (.ret h part ent) s) s f part [{ blk := i.base + y * 64, tag := t, dep := f.dep - 1, ent := ent.toNat,
                                                      tok := { k with tag := t, dep := f.dep - 1 }, ret := true }]) ∧
    (f.dep = 0 → exec (.ret h part ent) s = .next (s.trapFiring f { code := tcTagDepth, aux0 := 0 })) ∧
    (1 ≤ f.dep → l.poi = true → exec (.ret h part ent) s = .next (s.poisonTrap f .b)) ∧
    (1 ≤ f.dep → l.poi = false → l.nul = true ∨ l.eos = true → exec (.ret h part ent) s = bad) ∧
    (1 ≤ f.dep → l.poi = false → l.nul = false → l.eos = false → l.rol = false → ¬area → exec (.ret h part ent) s = bad)

/-- R204: SEND puts its word into the channel queue of its tile and sends its data on. A tile that the context does not hold raises
CHANNEL, and a full queue holds the set. R205: TRAP raises USER with its code and data. -/
def Sys2Proof.Claims.SendAndTrap : Prop :=
  ∀ (s : State) (f : Firing) (h : Hdr) (loc : Bool) (barn ch : BitVec 6) (tile : BitVec 3) (code : BitVec 16),
    let u := s.counted f h.ty
    let own := f.site.holder.barn?
    let dest := if loc then own else some (u.physBarn f.k barn.toNat)
    (∀ b, Runs s f h [.a] → dest = some b → u.tileOwner b tile.toNat = some f.k → u.chanCount b tile.toNat (some ch.toNat) < 16 →
      ∃ (v : State) (c : ChanWord), c.barn = b ∧ c.tile = tile.toNat ∧ c.ch = some ch.toNat ∧ c.k = f.k ∧ c.tok.tag = f.tag ∧
        c.tok.dep = f.dep ∧ c.tok.data = f.data .a ∧ u.cyc + 8 ≤ c.since ∧ v = u.enqueueWord c ∧
        exec (.send h loc barn tile ch) s = .next (v.emitAll f.site (c.since - u.cyc) (f.result h false h.ty (f.data .a)) [h.t0, h.t1])) ∧
    (∀ b, Runs s f h [.a] → dest = some b → u.tileOwner b tile.toNat = some f.k → 16 ≤ u.chanCount b tile.toNat (some ch.toNat) →
      exec (.send h loc barn tile ch) s = .next { u with held := true }) ∧
    (Runs s f h [.a] → (∀ b, dest = some b → u.tileOwner b tile.toNat ≠ some f.k) →
      ∃ c : Cause, c.code = tcChannel ∧ exec (.send h loc barn tile ch) s = .next (u.trapFiring f c)) ∧
    (Runs s f h [] → exec (.trap h code) s =
      .next (u.trapFiring f { code := tcUser, aux0 := code.toNat, aux1 := (f.data .a).toNat }))

/-- R205, R427: ERET resolves the pending trap of its trap word: ACT 0 fires the trapped set again, a set of TRAP sends its data, ACT 1
sends slot b's data in its place with a null token on T2; then ERET sends its own data. A word of no pending trap raises ERET_STATE. -/
def Sys2Proof.Claims.EretResolves : Prop :=
  ∀ (s : State) (f : Firing) (h : Hdr) (act : BitVec 2) (t : Trap) (g : Firing), Runs s f h [] →
    let u := s.counted f h.ty
    let v := u.freeTrap t
    let send := fun (x : State) => .next (x.emitAll f.site 1 (f.result h false h.ty (f.data .a)) [h.t0, h.t1])
    let again : Machine.PSet := { site := g.site, tag := g.tag, dep := g.dep, a := g.a, b := g.b, c := g.c, p := g.p, place := .outside,
                                  opened := g.since, done := some v.cyc, since := v.cyc }
    let res : Tok := { tag := g.tag, dep := g.dep, data := f.data .b, ty := g.hdr.ty, poi := poisonIn f .b }
    (u.byTrapWord f.k (f.data .a) = some t → t.cls = .F → t.hold = .firing g →
      (act = 1 → exec (.eret h act) s = send ((v.emitAll g.site 1 res [g.hdr.t0, g.hdr.t1]).emit g.site g.t2 1
        { res with data := 0, nul := true, poi := false })) ∧
      (act = 0 → opOf g.word = 0x384 → t.tcode = tcUser → exec (.eret h act) s = send (v.emitAll g.site 1
        (g.result g.hdr false g.hdr.ty (g.data .a)) [g.hdr.t0, g.hdr.t1])) ∧
      (act = 0 → opOf g.word ≠ 0x384 → t.tcode ≠ tcDupToken → exec (.eret h act) s = send { v with fab := { v.fab with sets := v.fab.sets ++ [again] } }) ∧
      (∀ x ∈ v.traps, ¬(x.k = t.k ∧ x.index = t.index))) ∧
    (u.byTrapWord f.k (f.data .a) = none → (f.k, f.data .a) ∉ u.voided →
      exec (.eret h act) s = .next (u.trapFiring f { code := tcEretState, aux0 := (f.data .a).toNat }))

/-- R378, R427: a kill takes every token, set, invocation, stream, access, core and gather entry of its instance out of the fabric, and
the instance keeps its outcome. Tokens of other instances stay. -/
def Sys2Proof.Claims.KillsEmptyInstance : Prop :=
  ∀ (s : State) (k v outc tcode : Nat) (i : Inst), s.inst? k v = some i →
    let t := s.killInst k v outc tcode
    (∀ q ∈ t.fab.queues, ofInst k v q.tok.tag = false) ∧ (∀ x ∈ t.fab.flights, ofInst k v x.tok.tag = false) ∧
    (∀ x ∈ t.fab.sets, ofInst k v x.tag = false) ∧ (∀ x ∈ t.fab.streams, ofInst k v x.tag = false) ∧
    (∀ x ∈ t.fab.spaces, ofInst k v x.tag = false) ∧ (∀ c ∈ t.fab.cores, ¬(c.k = k ∧ c.v = v)) ∧
    (∀ g ∈ t.gathers, ¬(g.k = k ∧ g.v = v)) ∧ (∀ d ∈ t.delivs, ¬(d.k = k ∧ d.v = v)) ∧ (∀ x ∈ t.traps, ¬(x.k = k ∧ x.v = v)) ∧
    (∀ r ∈ t.fab.regions, ¬(r.k = k ∧ r.v = v)) ∧
    (∃ j, t.inst? k v = some j ∧ j.outc = outc ∧ j.tcode = tcode) ∧
    ∀ x ∈ s.fab.flights, ofInst k v x.tok.tag = false → (∀ b r, x.src.holder ≠ .region b r ∧ x.dst.holder ≠ .region b r) →
      x ∈ t.fab.flights

/-! Control registers, code and the control plane. -/

/-- R206, R9: CRRD sends the register that its number names. CRWR writes it by its access codes: the flags of R52 clear where a written
bit is 1, AMAX, CTX_STALLIM and CTX_TRAPCH take their RW bits; a flag raised in this cycle stays (R53); the written data is sent on. -/
def Sys2Proof.Claims.ControlRegisterAccess : Prop :=
  ∀ (s : State) (f : Firing) (h : Hdr) (num : BitVec 12),
    let u := s.counted f h.ty
    let x := f.data .a
    let read := fun (w : Word) => exec (.crrd h num) s = .next (u.emitAll f.site 2 (f.result h false h.ty w) [h.t0, h.t1])
    let wrote := fun (r : Reg) (g : Nat → Bool) => ∃ v : State,
      (∀ j < 32, (v.reg r).getLsbD j = (g j || ((u.raisedBits r).getLsbD j && r.w1cMask.getLsbD j))) ∧ v.fab = u.fab ∧
      (∀ q : Reg, q.offset ≠ r.offset → v.reg q = u.reg q) ∧ SameMemory u v ∧
      exec (.crwr h num) s = .next (v.emitAll f.site 2 (f.result h false h.ty x) [h.t0, h.t1])
    (Runs s f h [] →
      (num = 0 → read ((u.reg (.flagLo f.k)).setWidth 32)) ∧ (num = 1 → read ((u.reg (.flagHi f.k)).setWidth 32)) ∧
      (∀ n < 16, num.toNat = 0x10 + n → read ((u.reg (.amax f.k n)).setWidth 32)) ∧
      (∀ n < 16, ∀ i, u.inst? f.k f.v = some i → num.toNat = 0x20 + 2 * n → read (((i.kbase.drop n).headD 0).setWidth 32)) ∧
      (∀ n < 16, ∀ i, u.inst? f.k f.v = some i → num.toNat = 0x21 + 2 * n → read ((((i.kbase.drop n).headD 0) >>> 32).setWidth 32)) ∧
      (num = 0x40 → read ((u.reg (.stallim f.k)).setWidth 32)) ∧ (num = 0x41 → read ((u.reg (.trapch f.k)).setWidth 32)) ∧
      (num = 0x42 → read ((u.reg (.codegen f.k)).setWidth 32)) ∧
      (num = 0x43 → read (BitVec.ofNat 32 u.cyc)) ∧ (num = 0x44 → read (BitVec.ofNat 32 (u.cyc / 2 ^ 32)))) ∧
    (Runs s f h [.a] →
      (num = 0 → wrote (.flagLo f.k) fun j => (u.reg (.flagLo f.k)).getLsbD j && !(decide (j % 8 < 6) && x.getLsbD j)) ∧
      (num = 1 → wrote (.flagHi f.k) fun j => (u.reg (.flagHi f.k)).getLsbD j && !(decide (j % 8 < 6) && x.getLsbD j)) ∧
      (∀ n < 16, num.toNat = 0x10 + n → wrote (.amax f.k n) fun j => if j < 31 then x.getLsbD j
        else (u.reg (.amax f.k n)).getLsbD j && !x.getLsbD j) ∧
      (num = 0x40 → wrote (.stallim f.k) fun j => if j < 24 then x.getLsbD j else (u.reg (.stallim f.k)).getLsbD j) ∧
      (num = 0x41 → wrote (.trapch f.k) fun j => if j < 16 ∨ j = 31 then x.getLsbD j else (u.reg (.trapch f.k)).getLsbD j))

/-- R207: GONG of a permitted context raises the Gong, armed, with its cause, and sends the latch cycle's low word once it has latched;
without permission it raises PRIV. -/
def Sys2Proof.Claims.GongRaises : Prop :=
  ∀ (s : State) (f : Firing) (h : Hdr) (cause : BitVec 8), Runs s f h [] →
    let u := s.counted f h.ty
    (u.regField .gongCtl (32 + f.k) 1 = 0 → exec (.gong h cause) s =
      .next (u.trapFiring f { code := tcPriv, aux0 := cause.toNat })) ∧
    (u.regField .gongCtl (32 + f.k) 1 = 1 → u.regField .gongCtl 31 1 = 1 → ∃ v : State, v.gongAt = some (u.cyc + 48) ∧
      v.regField .gongCtl 0 8 = cause.toNat ∧ v.regField .gongCtl 8 2 = 0 ∧ v.regField .gongCtl 31 1 = 0 ∧
      v.reg .gongCyc = BitVec.ofNat 64 (u.cyc + 48) ∧ v.fab = u.fab ∧
      exec (.gong h cause) s = .next (v.emitAll f.site 65 (f.result h false h.ty (BitVec.ofNat 32 (v.reg .gongCyc).toNat)) [h.t0, h.t1]))

/-- R208, R209, R211, R212: CODEPUB issues its release with its range, FETCHSYNC stops stale bays and issues its acquire, LQTAKE claims
a record of its queue, and KDONE sends the status of an instance that is complete or waits for one that is not. -/
def Obligations.ControlPlane : Prop :=
  ∀ (s : State) (f : Firing) (h : Hdr) (sc : Scope) (t2 : Option Target) (bsel : BitVec 4) (disp : BitVec 9) (lq : BitVec 6),
    let u := s.counted f h.ty
    let va := flatVa u f bsel disp
    let n := (f.data .a).toNat
    (Runs s f h [.b] → poisonIn f .a = false → Allowed u f false va → exec (.codepub h sc t2 bsel disp) s =
      .next (issued u { f.access .read .b32 sc with rel := true, opnd := va, cmp := (f.data .b).toNat })) ∧
    (Runs s f h [] → ∃ v : State, exec (.fetchsync h sc t2) s =
        .next (issued v { f.access .read .b32 sc with acq := true, opnd := (u.reg (.codegen f.k)).toNat }) ∧
      v.fab.blocks = u.fab.blocks.map (fun l => if l.stale f.k (u.reg (.codegen f.k)).toNat then { l with refetch := true } else l) ∧
      { v with fab := { v.fab with blocks := u.fab.blocks } } = u) ∧
    (∀ d, Runs s f h [] → u.qdesc? f.k lq.toNat = some d → d.en = true → d.direct = false → exec (.lqtake h t2 lq) s =
      .next (issued u { f.access (.claim lq.toNat) .b32 .sys with rel := true })) ∧
    (Runs s f h [] → (∀ d, u.qdesc? f.k lq.toNat = some d → d.en = false ∨ d.direct = true) →
      ∃ c : Cause, c.code = tcLaunchFormat ∧ exec (.lqtake h t2 lq) s = .next (u.trapFiring f c)) ∧
    (∀ i, Runs s f h [] → n < 4096 → u.inst? f.k n = some i → i.done = true → ∃ v : State, v.inst? f.k n = none ∧ v.fab = u.fab ∧
      exec (.kdone h) s = .next (v.emitAll f.site 20
        (f.result h false h.ty (BitVec.ofNat 32 (i.outc * 2 ^ 30 + i.tcode))) [h.t0, h.t1])) ∧
    (∀ i, Runs s f h [] → n < 4096 → u.inst? f.k n = some i → i.done = false → exec (.kdone h) s =
      .next { u with fresh := u.fresh + 1, fab := { u.fab with
        waits := u.fab.waits ++ [{ id := u.fresh, fire := f, k := f.k, why := .kdone n, since := u.cyc }] } }) ∧
    (Runs s f h [] → 4096 ≤ n ∨ u.inst? f.k n = none → exec (.kdone h) s =
      .next (u.trapFiring f { code := tcKernelState, aux0 := n }))

/-! Loader and storer cores. -/

/-- R221, R223, R225: XPUSH, XPUSHE and XPUSHN push a data token, a marker and a null token to an input queue of the loader core; a storer
core takes the illegal-instruction exception. -/
def Sys2Proof.Claims.CorePushes : Prop :=
  ∀ (s : State) (id : CoreId) (x : Core) (q : BitVec 4) (r1 r2 : BitVec 5), InCore s id x →
    let i := (x.get r2.toNat).toNat
    (id.storer = false → Pushes (exec (.xpush q r1 r2) s) s id x q.toNat i (x.get r1.toNat) false false ∧
      Pushes (exec (.xpushe q r2) s) s id x q.toNat i 0 false true ∧ Pushes (exec (.xpushn q r2) s) s id x q.toNat i 0 true false) ∧
    (id.storer = true → ∀ j ∈ [Instr.xpush q r1 r2, .xpushe q r2, .xpushn q r2], exec j s = .next (s.coreIllegal id x.word))

/-- R225: XPOP and XPOPNB take the head of an output queue: its data to rd, where a marker's reads as 0, its index and metadata to XPOPM;
with the queue empty XPOP waits and XPOPNB gives 0. XQCNT counts the tokens of a queue. A loader core takes the illegal-instruction
exception. -/
def Sys2Proof.Claims.CorePops : Prop :=
  ∀ (s : State) (id : CoreId) (x : Core) (q : BitVec 4) (rd : BitVec 5), InCore s id x →
    let l := s.edge id.barn true q.toNat
    let took := fun (o : Host.Outcome State Fault Refusal) (k : Tok) (r : List EqTok) (mask : Word) =>
      ∃ (t : State) (y : Core), o = .next t ∧ t.core? id = some y ∧ t.edge id.barn true q.toNat = r ∧
        (∀ b out n, (b, out, n) ≠ (id.barn, true, q.toNat) → t.edge b out n = s.edge b out n) ∧
        y = ((x.setCsr csrXpopm (BitVec.ofNat 32 (tagNest k.tag % 2 ^ 24 * 256 + k.meta6) ||| mask)).put rd.toNat
          (if k.eos then 0 else k.data)).advance s.cyc
    (∀ e r k, id.storer = true → l = e :: r → e.tok = some k → took (exec (.xpop q rd) s) k r 0 ∧ took (exec (.xpopnb q rd) s) k r 3) ∧
    (id.storer = true → l = [] → exec (.xpop q rd) s = .next { s with held := true } ∧
      ∃ (t : State), exec (.xpopnb q rd) s = .next t ∧ t.core? id = some (((x.setCsr csrXpopm 0).put rd.toNat 0).advance s.cyc)) ∧
    (id.storer = true → exec (.xqcnt q rd) s = .next (s.modCore id fun y =>
      (y.put rd.toNat (BitVec.ofNat 32 (l.filter fun e => e.tok.isSome).length)).advance s.cyc)) ∧
    (id.storer = false → ∀ j ∈ [Instr.xpop q rd, .xpopnb q rd], exec j s = .next (s.coreIllegal id x.word))

/-- R226: XLW waits for its load; XSW, XLQ and XQST issue counted accesses and the core goes on; they wait at their counter's limit. XLQ
reserves its queue position, and XQST stores a popped data token alone. A misaligned address raises ALIGN. -/
def Obligations.CoreMemory : Prop :=
  ∀ (s : State) (id : CoreId) (x : Core) (bsel : BitVec 4) (disp : BitVec 8) (r1 r2 rd : BitVec 5) (q : BitVec 4), InCore s id x →
    let va := coreVa s x bsel disp.toInt r1
    let vq := coreVa s x bsel 0 r1
    let word := fun (a d : Nat) => ([{ addr := a, size := 4, mask := 2 ^ 32 - 1, data := d }] : List Piece)
    let store := fun (a d : Nat) (p : Bool) => { x.access 0 .write .pkg with origin := .coreCount id x.pc.toNat none 0, poi := p, pieces := word a d }
    let up := fun (y : Core) => { y with st := y.st + 1 }
    let l := s.edge id.barn true q.toNat
    let b := x.binding q.toNat
    let i := (x.get r2.toNat).toNat
    (AllowedFor s x.k false va → va % 4 = 0 → exec (.xlw bsel disp r1 rd) s =
        .next (coreWaits s id { x.access rd.toNat .read .pkg with pieces := word va 0 }) ∧
      (x.st < 63 → exec (.xsw bsel disp r2 r1) s = .next (coreCounts s id (store va i false) up)) ∧
      (63 ≤ x.st → exec (.xsw bsel disp r2 r1) s = .next { s with held := true })) ∧
    (AllowedFor s x.k false va → va % 4 ≠ 0 → ∀ j ∈ [Instr.xlw bsel disp r1 rd, .xsw bsel disp r2 r1],
      exec j s = .next (s.coreTrapAt id { code := tcAlign, aux0 := va, aux1 := 4 })) ∧
    (2 ^ 60 ≤ va → exec (.xlw bsel disp r1 rd) s = .next (s.coreTrapAt id
      { code := tcPage, cause := 2, aux0 := va, aux1 := s.asid x.k, aux2 := 4 * 256 })) ∧
    (id.storer = false → AllowedFor s x.k false vq → vq % 4 = 0 → x.ld < 63 → (s.edge id.barn false q.toNat).length < 64 → b.kind ≠ 0 →
      i < 2 ^ b.sw → x.dep + b.sw ≤ 44 → ∃ (v : State) (e : EqTok) (a : Access), e.barn = id.barn ∧ e.out = false ∧ e.q = q.toNat ∧
        e.tok = none ∧ e.bind = b ∧ e.id = s.fresh ∧ v.fab = { s.fab with eqs := s.fab.eqs ++ [e] } ∧
        a.tag = withNest x.tag (tagNest x.tag * 2 ^ b.sw + i) ∧ a.dep = x.dep + b.sw ∧ a.kind = .read ∧ a.pieces = word vq 0 ∧
        a.origin = .coreCount id x.pc.toNat (some q.toNat) s.fresh ∧
        exec (.xlq bsel r2 r1 q) s = .next (coreCounts v id a fun y => { y with ld := y.ld + 1 })) ∧
    (∀ e r k, id.storer = true → AllowedFor s x.k false vq → vq % 4 = 0 → x.st < 63 → l = e :: r → e.tok = some k →
      ∃ v : State, v.edge id.barn true q.toNat = r ∧ v.core? id = some (x.setCsr csrXpopm k.popm) ∧ v.cyc = s.cyc ∧ v.fresh = s.fresh ∧
        v.fab.accs = s.fab.accs ∧ exec (.xqst bsel q r1) s =
          .next (if k.nul || k.eos then v.coreGoes id else coreCounts v id (store vq k.data.toNat k.poi) up)) ∧
    (id.storer = true → AllowedFor s x.k false vq → vq % 4 = 0 → l = [] → exec (.xqst bsel q r1) s = .next { s with held := true })

/-- R227, R229: the engine and task instructions, XPUB, XAWAIT, XBARR, XBARW and XFENCE issue what the instructions that they mirror issue,
and the core waits for it; a command waits while its class is at its limit. -/
def Sys2Proof.Claims.CoreIssues : Prop :=
  ∀ (s : State) (id : CoreId) (x : Core) (bsel : BitVec 4) (sc : BitVec 3) (r1 r2 rd : BitVec 5) (desc : BitVec 6) (rel acq : Bool)
    (p : Scope), InCore s id x → Scope.ofBits sc = some p →
    let va := coreVa s x bsel 0 r1
    let gen := (x.get r2.toNat).toNat
    let engines := [Instr.xcpy bsel sc r1, .xgath bsel sc r1, .xscat bsel sc r1, .xcoll bsel sc r1]
    (AllowedFor s x.k false va → va % 64 = 0 →
      (x.cpy < 31 → ∃ a : Access, a.kind = .read ∧ a.sc = p ∧ a.origin = .core id x.pc.toNat 0 ∧ a.pieces.length = 16 ∧
        (∀ j < 16, a.pieces[j]? = some { addr := va + 4 * j, size := 4, mask := 2 ^ 32 - 1, data := 0 }) ∧
        ∀ i ∈ engines, exec i s = .next (coreWaits s id a)) ∧
      (31 ≤ x.cpy → ∀ i ∈ engines, exec i s = .next { s with held := true }) ∧
      (∀ d, x.tt < 31 → s.qdesc? x.k 64 = some d → d.en = true → d.count < 2 ^ d.log2n → exec (.xttask bsel sc r1) s =
        .next (coreWaits s id { x.access 0 .read p with rel := true, opnd := va })) ∧
      (31 ≤ x.tt → exec (.xttask bsel sc r1) s = .next { s with held := true }) ∧
      exec (.xbarw bsel sc r1 rd) s = .next (coreWaits s id { x.access rd.toNat .barWait p with
        acq := true, pieces := [{ addr := va, size := 64, mask := 0, data := 0 }] })) ∧
    (AllowedFor s x.k true va → va % 64 = 0 → exec (.xbarr bsel sc r1) s = .next (coreWaits s id { x.access 0 .arrive p with
        rel := true, pieces := [{ addr := va, size := 64, mask := 0, data := 0 }] })) ∧
    exec (.xfence rel acq sc) s = .next (coreWaits s id { x.access 0 .read p with acq := acq || !rel, rel := rel || !acq }) ∧
    (∀ t, sc = 3 ∨ sc = 4 → gen < 2 ^ 16 → tensorOf (s.descEntry x.k x.v desc.toNat) = some t →
      exec (.xpub desc r2 r1 sc) s = .next (coreWaits s id { x.access 0 .read p with
        rel := true, opnd := (x.get r1.toNat).toNat, cmp := gen }) ∧
      ((s.waiters.filter fun y => y.pool = dieOf id.barn && !y.spill).length < 32768 →
        ∃ (y : State) (w : Waiter) (z : Wait), exec (.xawait desc r2 r1 sc) s = .next y ∧ y.waiters = s.waiters ++ [w] ∧ w.kind = 3 ∧ w.asid = s.asid x.k ∧
          w.inputs = [{ tid := t.base, tile := (x.get r1.toNat).toNat, egen := gen, count := 0, cnt := 0 }] ∧
          y.fab.waits = s.fab.waits ++ [z] ∧ z.core = some id ∧ z.why = .awaitSheaf w.id ∧
          (y.core? id).map Core.waiting = some true)) ∧
    (2 ^ 16 ≤ gen → sc = 3 ∨ sc = 4 → ∀ i ∈ [Instr.xpub desc r2 r1 sc, .xawait desc r2 r1 sc],
      exec i s = .next (s.coreTrapAt id { code := tcSheafKey, aux0 := gen })) ∧
    (sc ≠ 3 → sc ≠ 4 → ∀ i ∈ [Instr.xpub desc r2 r1 sc, .xawait desc r2 r1 sc], exec i s = .next (s.coreIllegal id x.word))

/-- R228, R229: WAITC goes on once every count is at or below its bound and waits until then; XSEND sends a word to a channel; XCR reads a
register that R206 lists. -/
def Sys2Proof.Claims.CoreControl : Prop :=
  ∀ (s : State) (id : CoreId) (x : Core) (l st : BitVec 6) (c t r1 r2 rd : BitVec 5) (num : BitVec 12), InCore s id x →
    let met := x.ld ≤ l.toNat ∧ x.st ≤ st.toNat ∧ x.cpy ≤ c.toNat ∧ x.tt ≤ t.toNat
    let w := (x.get r2.toNat).toNat
    let tile := w / 2 ^ 6 % 8
    let b := if w / 2 ^ 15 % 2 = 1 then id.barn else s.physBarn x.k (w / 2 ^ 9 % 64)
    (met → exec (.waitc l st c t) s = .next (s.coreGoes id)) ∧ (¬met → exec (.waitc l st c t) s = .next { s with held := true }) ∧
    (w < 2 ^ 16 → s.tileOwner b tile = some x.k → s.chanCount b tile (some (w % 64)) < 16 →
      ∃ e : ChanWord, e.barn = b ∧ e.tile = tile ∧ e.ch = some (w % 64) ∧ e.k = x.k ∧
        e.tok = { tag := x.tag, dep := x.dep, data := x.get r1.toNat, ty := .b32 } ∧
        exec (.xsend r2 r1) s = .next ((s.enqueueWord e).coreGoes id)) ∧
    (w < 2 ^ 16 → s.tileOwner b tile = some x.k → 16 ≤ s.chanCount b tile (some (w % 64)) →
      exec (.xsend r2 r1) s = .next { s with held := true }) ∧
    (2 ^ 16 ≤ w → ∃ y : Cause, y.code = tcChannel ∧ exec (.xsend r2 r1) s = .next (s.coreTrapAt id y)) ∧
    (num = 0x43 → exec (.xcr num rd) s = .next (s.coreWrites id rd.toNat (BitVec.ofNat 32 s.cyc))) ∧
    (num = 0x44 → exec (.xcr num rd) s = .next (s.coreWrites id rd.toNat (BitVec.ofNat 32 (s.cyc / 2 ^ 32)))) ∧
    (num = 0x40 → exec (.xcr num rd) s = .next (s.coreWrites id rd.toNat ((s.reg (.stallim x.k)).setWidth 32))) ∧
    (0x44 < num.toNat → exec (.xcr num rd) s = .next (s.coreIllegal id x.word))

/-- R231: RPT executes the instruction behind it with its fields stepped by DONE, one execution a step: what it steps to is what that
instruction gives, the core stays at RPT with DONE advanced, and after execution REP it goes on behind the instruction with DONE 0. A
DONE past REP ends the repeat at once. An instruction that may not be repeated is illegal. -/
def Sys2Proof.Claims.RepeatPrefix : Prop :=
  ∀ (s : State) (id : CoreId) (x : Core) (b2 b1 bd : Bool) (rep : BitVec 6), InCore s id x →
    let i := x.wordAt (x.pc.toNat + 4)
    let fits := (bd = true → i / 2 ^ 7 % 32 + rep.toNat + 1 ≤ 31) ∧ (b1 = true → i / 2 ^ 15 % 32 + rep.toNat + 1 ≤ 31) ∧
      (b2 = true → i / 2 ^ 20 % 32 + rep.toNat + 1 ≤ 31)
    let runs := x.pc.toNat + 8 ≤ 0x10000 ∧ i % 4 = 3 ∧ fits ∧ repeats i = true
    let stepped := decodeCore32 (BitVec.ofNat 32 x.word)
    (runs → x.done ≤ rep.toNat + 1 → ∀ l st c t r2 r1 q,
      (stepped = .xpop q r1 → exec (.rpt b2 b1 bd rep) s = exec (.xpop q r1) s) ∧
      (stepped = .xpush q r1 r2 → exec (.rpt b2 b1 bd rep) s = exec (.xpush q r1 r2) s) ∧
      (stepped = .xsw l st r2 r1 → exec (.rpt b2 b1 bd rep) s = exec (.xsw l st r2 r1) s) ∧
      (stepped = .baseInstruction c t → exec (.rpt b2 b1 bd rep) s = exec (.baseInstruction (BitVec.ofNat 32 x.word) false) s)) ∧
    (∀ q r1 e r k, runs → x.done ≤ rep.toNat + 1 → stepped = .xpop q r1 → id.storer = true →
      s.edge id.barn true q.toNat = e :: r → e.tok = some k →
      ∃ (t : State), exec (.rpt b2 b1 bd rep) s = .next t ∧ t.edge id.barn true q.toNat = r ∧
        t.core? id = some (((x.setCsr csrXpopm k.popm).put r1.toNat k.popped).advance s.cyc)) ∧
    (∀ rd r1 r2, runs → x.done ≤ rep.toNat + 1 → rd < 32 → r1 < 32 → r2 < 32 → x.word = encR 0 r2 r1 0 rd 0x33 →
      exec (.rpt b2 b1 bd rep) s = .next (s.coreWrites id rd (x.get r1 + x.get r2))) ∧
    (runs → rep.toNat + 1 < x.done → exec (.rpt b2 b1 bd rep) s = .next (s.modCore id fun y =>
      { y.setCsr csrXrpt 0 with pc := y.pc + 8, waiting := false, since := s.cyc })) ∧
    (x.pc.toNat + 8 ≤ 0x10000 → i % 4 = 3 → ¬fits ∨ repeats i = false →
      exec (.rpt b2 b1 bd rep) s = .next (s.coreIllegal id (x.wordAt x.pc.toNat))) ∧
    (isRpt (x.wordAt x.pc.toNat) = true → ∀ cyc, let n := x.wordAt x.pc.toNat / 2 ^ 20 % 64 + 2;
      (x.done + 1 < n → (x.advance cyc).pc = x.pc ∧ (x.done + 1 < 2 ^ 7 → (x.advance cyc).done = x.done + 1)) ∧
      (n ≤ x.done + 1 → (x.advance cyc).pc = x.pc + 8 ∧ (x.advance cyc).done = 0))

/-- R220, R234: ECALL ends a program; EBREAK takes the breakpoint exception: while mtvec is not 0 mepc, mcause and mtval are written and
the core goes to mtvec with interrupts off, and while it is 0 the core stops with CORE_FAULT. -/
def Sys2Proof.Claims.CoreEnvironment : Prop :=
  ∀ (s : State) (id : CoreId) (x : Core), InCore s id x →
    exec .ecall s = .next (s.modCore id fun y => { y with ending := true, waiting := true, since := s.cyc }) ∧
    (x.csr 0x305 ≠ 0 → ∃ (t : State) (y : Core), exec .ebreak s = .next t ∧ t.core? id = some y ∧ y.csr 0x341 = x.pc ∧ y.csr 0x342 = 3 ∧
      y.csr 0x343 = x.pc ∧ y.pc = x.csr 0x305 &&& 0xFFFFFFFC ∧ y.csr 0x300 = 0x1800 ||| ((x.csr 0x300 &&& 8) <<< 4) ∧ y.x = x.x ∧
      y.dmem = x.dmem) ∧
    (x.csr 0x305 = 0 → exec .ebreak s =
      .next (s.coreTrapAt id { code := tcCoreFault, aux0 := 3, aux1 := x.pc.toNat, aux2 := x.pc.toNat }))

/-- R216, R217: base instructions of a core, by the encodings of the published RISC-V specifications (PRESUMED, log 50): the integer
operations, the loads and stores of its own memories, branches and jumps; an access outside them takes an access fault. The
encodings are those of the published RISC-V specifications (PRESUMED, log 50), which the manual names. -/
def Obligations.CoreBaseInstructions : Prop :=
  ∀ (s : State) (id : CoreId) (x : Core) (rd r1 r2 imm : Nat), InCore s id x → rd < 32 → r1 < 32 → r2 < 32 → imm < 4096 →
    isRpt (x.wordAt x.pc.toNat) = false → x.wordAt x.pc.toNat % 4 = 3 → x.pc.toNat + 4 ≤ 0x10000 →
    let run := fun (w : Nat) => exec (.baseInstruction (BitVec.ofNat 32 w) false) s
    let gives := fun (w : Nat) (v : Word) => run w = .next (s.coreWrites id rd v)
    let a := x.get r1
    let b := x.get r2
    let i : Word := (BitVec.ofNat 12 imm).signExtend 32
    gives (encR 0 r2 r1 0 rd 0x33) (a + b) ∧ gives (encR 0x20 r2 r1 0 rd 0x33) (a - b) ∧
    gives (encR 0 r2 r1 2 rd 0x33) (if a.toInt < b.toInt then 1 else 0) ∧ gives (encR 0 r2 r1 6 rd 0x33) (a ||| b) ∧
    gives (encR 1 r2 r1 0 rd 0x33) (a * b) ∧ gives (encR 1 r2 r1 5 rd 0x33) (if b = 0 then 0xFFFFFFFF else a / b) ∧
    gives (encI imm r1 0 rd 0x13) (a + i) ∧ gives (encI imm r1 7 rd 0x13) (a &&& i) ∧
    (let p := (a + i).toNat
     (0x10000 ≤ p → p + 4 ≤ 0x18000 → p % 4 = 0 → gives (encI imm r1 2 rd 0x03) (BitVec.ofNat 32 (getNat x.dmem p 4)) ∧
       run (encS imm r2 r1 2) = .next (s.modCore id fun y => ({ y with dmem := putNat y.dmem p 4 b.toNat }).advance s.cyc)) ∧
     (p % 4 ≠ 0 → run (encI imm r1 2 rd 0x03) = .next (s.coreExc id 4 p) ∧ run (encS imm r2 r1 2) = .next (s.coreExc id 6 p)) ∧
     (p < 0x10000 → p % 4 = 0 → run (encS imm r2 r1 2) = .next (s.coreExc id 7 p)) ∧
     (0x18000 ≤ p → p % 4 = 0 → run (encI imm r1 2 rd 0x03) = .next (s.coreExc id 5 p))) ∧
    (a ≠ b → run (encB imm r2 r1 0) = .next (s.coreGoes id)) ∧
    (a = b → imm % 2 = 0 → ∃ (t : State) (y : Core), run (encB imm r2 r1 0) = .next t ∧ t.core? id = some y ∧ y.pc = x.pc + BitVec.ofNat 32 imm ∧ y.x = x.x) ∧
    (∃ (t : State) (y : Core), run (encI imm r1 0 rd 0x67) = .next t ∧ t.core? id = some y ∧ y.pc = ((a + i) &&& 0xFFFFFFFE) ∧
      (rd ≠ 0 → rd < x.x.length → y.get rd = x.pc + 4)) ∧
    run 0x10500073 = .next (s.coreGoes id)

/-! Tokens, sets and nodes. -/

/-- R29, R30, R31: a result leaves its output stage for the first link of its path and moves one link on at a time, each of which holds
one token; past its last link it enters its input queue, the last of it, while that holds fewer than 4 tokens. Results of one edge keep
their order, and a result that is held back or finds no room stays. -/
def Sys2Proof.Claims.TokensHop : Prop :=
  ∀ (s : State) (x : Flight), (s.fab.flights.drop s.arg.n).head? = some x →
    let may := x.ready ≤ s.cyc ∧ behind s.fab.flights s.arg.n x = false ∧ s.runs (tagK x.tok.tag) x.dst.holder = true
    let moved := putAt s.fab.flights s.arg.n { x with out := false, hop := if x.out then 0 else x.hop + 1, ready := s.cyc + 1 }
    let held := fun (e : Nat × Nat) => s.linkHeld x.dst.holder x.dst.blk e = true
    (∀ e, may → s.nextLink x = some e → ¬held e → exec .tokenHop s = .next { s with fab := { s.fab with flights := moved } }) ∧
    (may → s.nextLink x = none → x.conf = none → (s.queue x.dst x.slot).length < 4 → ∃ (t : State) (e : QTok), exec .tokenHop s = .next t ∧ e.tok = x.tok ∧
      t.fab.flights = dropAt s.fab.flights s.arg.n ∧ t.queue x.dst x.slot = s.queue x.dst x.slot ++ [e] ∧
      (∀ n sl, (n, sl) ≠ (x.dst, x.slot) → t.queue n sl = s.queue n sl) ∧ t.fab.sets = s.fab.sets ∧ SameMemory s t) ∧
    (¬may ∨ (∃ e, s.nextLink x = some e ∧ held e) ∨ (s.nextLink x = none ∧ x.conf = none ∧ 4 ≤ (s.queue x.dst x.slot).length) →
      exec .tokenHop s = .next s)

/-- R21, R23: the matching stage takes the head of a queue: it joins the set of its tag, or opens a set in the lowest free entry of a PE,
and its slot taken raises DUP_TOKEN, which holds that token alone. -/
def Sys2Proof.Claims.TokensMatch : Prop :=
  ∀ (s : State) (q : QTok) (r : List QTok),
    let n := s.arg.site
    let sl := s.arg.slot
    s.queue n sl = q :: r → s.runs (tagK q.tok.tag) n.holder = true → s.mayMatch n sl = true →
    s.confWaits n q.since = false → s.truncated n sl q.tok = none → s.streamRoom n sl q.tok = true →
    (∀ x, s.joins n sl q.tok = some x → x.tok? sl = none → x.place ≠ .loft → ∃ (t : State) (y : Machine.PSet), exec .matchToken s = .next t ∧
      (t.queue n sl).map QTok.tok = r.map QTok.tok ∧ y ∈ t.fab.sets ∧ y.tok? sl = some q.tok ∧ (∀ o ≠ sl, y.tok? o = x.tok? o) ∧
      y.site = x.site ∧ y.tag = x.tag ∧ y.place = x.place ∧ (y.done.isSome = true ↔ s.completeSet (x.put sl q.tok) = true ∨ x.done.isSome = true) ∧
      t.fab.flights = s.fab.flights ∧ (n.holder.temporal = false → SameMemory s t)) ∧
    (∀ e i, n.holder.temporal = false → (∀ y ∈ s.fab.sets, ¬(y.site = n ∧ y.tag = q.tok.tag ∧ y.dep = q.tok.dep)) →
      s.nodeInstr n = some i → (∀ h d rt sw, i ≠ .rdly h d rt sw) → s.freeEntry n = some e → ∃ (t : State) (y : Machine.PSet), exec .matchToken s = .next t ∧
        (t.queue n sl).map QTok.tok = r.map QTok.tok ∧ t.fab.sets = s.fab.sets ++ [y] ∧ y.site = n ∧ y.tag = q.tok.tag ∧
        y.dep = q.tok.dep ∧ y.tok? sl = some q.tok ∧ (∀ o ≠ sl, y.tok? o = none) ∧ y.place = .table e ∧ SameMemory s t) ∧
    (∀ x k, s.joins n sl q.tok = some x → x.tok? sl = some k →
      let t := s.dupToken n sl q.tok (if x.place = .loft then 10 else 1)
      exec .matchToken s = .next (if (t.queue n sl).length < (s.queue n sl).length then t.openStream n sl q.tok else t))

/-- R32, R128: a reconfiguration token arrives at a converter's configuration port, or is acknowledged at once elsewhere; it comes into
force, and is acknowledged on T1 of its sender, once nothing of the old configuration is left at the node. -/
def Sys2Proof.Claims.Reconfigures : Prop :=
  ∀ (s : State),
    let ack := fun (v : State) (src : Site) => Target.decode (Fields.ofWord (v.nodeWord src).1).t1
    (∀ (x : Flight) (q : BitVec 4) (l : Loaded), (s.fab.flights.drop s.arg.n).head? = some x → x.conf = some q → x.out = false →
      s.nextLink x = none → x.ready ≤ s.cyc → behind s.fab.flights s.arg.n x = false → s.runs (tagK x.tok.tag) x.dst.holder = true →
      let v : State := { s with fab := { s.fab with flights := dropAt s.fab.flights s.arg.n } }
      (v.reconfigurable x.dst = true → s.block? x.dst.holder x.dst.blk = some l → ∃ (t : State) (y : Loaded) (r : Reconf), exec .reconfTokenArrival s = .next t ∧
        t.block? x.dst.holder x.dst.blk = some y ∧ y.reconf = l.reconf ++ [r] ∧ r.idx = (v.confSite x.dst).idx ∧ r.q = q ∧ r.src = x.src ∧
        r.tok = x.tok ∧ (r.arrived = some s.cyc ↔ ∀ z ∈ l.reconf, z.idx ≠ (v.confSite x.dst).idx)) ∧
      (v.reconfigurable x.dst = false → exec .reconfTokenArrival s = .next (v.emit x.src (ack v x.src) 1 x.tok))) ∧
    (∀ (l : Loaded) (r : Reconf) (n : Nat),
      let site := s.arg.site
      s.block? site.holder site.blk = some l → l.reconf.find? (fun y => decide (y.idx = site.idx)) = some r → r.arrived = some n →
      n < s.cyc → s.timeOf site.holder site.blk site.idx ≤ s.cyc → s.oldWork site n = false →
      s.runs l.k site.holder = true → ∃ (v : State) (y : Loaded), v.block? site.holder site.blk = some y ∧ y.conf? site.idx = some r.q ∧
        (∀ j ≠ site.idx, y.conf? j = l.conf? j) ∧ y.reconf.length + 1 = l.reconf.length ∧ v.fab.flights = s.fab.flights ∧
        exec .configInForce s = .next (v.emit r.src (ack v r.src) 0 r.tok))

/-- R76, R439, R442: a set at a node that traps raises ILLEGAL, or PATCHED with its slot; an emulated set takes a trap index with cause
1 for its patch handler, or traps with cause 2 where the context holds no tile in the barn. -/
def Sys2Proof.Claims.TrapNodes : Prop :=
  ∀ (s : State) (f : Firing),
    (∀ h, Runs s f h [] → (s.nodeKind f.site = .illegal → exec .trapNodeFire s = .next (s.trapFiring f { code := tcIllegal })) ∧
      ∀ n c, s.nodeKind f.site = .trap n c → exec .trapNodeFire s = .next (s.trapFiring f { code := tcPatched, cause := c, aux0 := n })) ∧
    (∀ n, Runs s f (emulationShape f).h [] → s.nodeKind f.site = .emulate n →
      let u := s.counted f (emulationShape f).h.ty
      (∀ t, u.firstTile f.k f.site.holder.barnNo = some t → u.chanCount f.site.holder.barnNo t none < 16 →
        exec .emulationFire s = .next (u.raise (u.firingTrap f { code := tcPatched, cause := 1, aux0 := n } (.emulation f n)))) ∧
      (u.firstTile f.k f.site.holder.barnNo = none → exec .emulationFire s =
        .next (u.trapFiring f { code := tcPatched, cause := 2, aux0 := n })))

/-! Blocks, bays and tiles. -/

/-- R67, R68: a fetch reads its whole block and configures it on its holder; a block under rewrite or with a wrong sum is read again 64
cycles later, and a block that a check refuses, or whose sum is wrong a fourth time, raises BLOCK_FORMAT. -/
def Sys2Proof.Claims.BlockFetches : Prop :=
  ∀ (s v : State) (f : Fetch) (ev : Instr) (b : List Byte) (p : Bool), (s.fetches.drop s.arg.n).head? = some f →
    (ev = .blockFetch ∧ f.again = 0) ∨ (ev = .fetchRetry ∧ f.again ≠ 0 ∧ f.again ≤ s.cyc) → s.fetchRuns f = true →
    s.cached f.holder f.k f.blk = none →
    s.wholeBlock (dieNo f.holder.barnNo) f.k f.v f.blk (srcBarn f.holder.barnNo) = (v, .ok b p) →
    let l := parseBlock f.holder f.k f.v f.blk b
    let put := fun (g : Fetch) => .next { v with fetches := mapFirst (fun x => x = f) (fun _ => g) v.fetches }
    let chk := blockCheck (v.regField .belId 40 8) l
    (chk = .ok → l.fits = true → ∃ (t : State) (y : Loaded), exec ev s = .next t ∧ y ∈ t.fab.blocks ∧ y.holder = f.holder ∧ y.k = f.k ∧ y.v = f.v ∧
      y.blk = f.blk ∧ y.hdr = l.hdr ∧ y.words = l.words ∧ y.exits = l.exits ∧ y.st = .configuring ∧ y.since = v.cyc ∧
      t.fetches = dropFirst (fun x => x = f) v.fetches) ∧
    (chk = .mark → exec ev s = put { f with again := v.cyc + 64 }) ∧
    (chk = .sum → f.fails < 3 → exec ev s = put { f with fails := f.fails + 1, again := v.cyc + 64 }) ∧
    (chk = .sum → 3 ≤ f.fails → exec ev s = .next (v.fetchTrap f { code := tcBlockFormat })) ∧
    (chk = .bad → exec ev s = .next (v.fetchTrap f { code := tcBlockFormat }))

/-- R243, R244, R246: a free bay fetches the first candidate block; a configured holder serves its block; a bay without entries closes
and becomes free once its invocations have drained; a tile fetches the block that it needs. -/
def Sys2Proof.Claims.BaysAndTiles : Prop :=
  ∀ (s : State),
    let h := s.arg.holder
    (∀ b f c v, h = .bay b f → s.fillCands = v → v.holderFree h = true → v.noConfig h = false →
      bestOf v.rank (v.bayCands h fun c => decide (v.frameOwner b f = some c.k) && v.bayBlock h c.k c.blk) = some c →
      exec .baySelect s = .next { v with fetches := v.fetches ++ [{ holder := h, k := c.k, v := c.v, blk := c.blk, since := v.cyc }] }) ∧
    (∀ (l : List Candidate) c, bestOf s.rank l = some c → c ∈ l ∧ ∀ d ∈ l, lexLess (s.rank d) (s.rank c) = false) ∧
    (∀ l ∈ s.fab.blocks, l.holder = h → l.st = .configuring → l.since + configCycles l ≤ s.cyc → ∃ (t : State), exec .bayConfigured s = .next t ∧
      { l with st := .serving, since := s.cyc, lastTake := s.cyc, taken := 0 } ∈ t.fab.blocks ∧ t.fab.blocks.length = s.fab.blocks.length) ∧
    (∀ b f, h = .bay b f → ∀ l ∈ s.fab.blocks, l.holder = h → l.st = .serving → s.pinned h l.blk = false →
      s.live l.k (stopUnitOf h) = true → s.mustClose l (s.belLoad.map fun r => imageSlots r.bytes) = true →
      ∃ (t : State), exec .bayIdleTimeout s = .next t ∧ { l with st := .closing, since := s.cyc } ∈ t.fab.blocks) ∧
    (∀ b f, h = .bay b f → ∀ l ∈ s.fab.blocks, l.holder = h → l.st = .closing → s.drain.live l.k (stopUnitOf h) = true →
      s.drain.idleBlock h l.blk = true → (∀ y ∈ s.fab.blocks, y.holder = h → y.refetch = false) →
      ∃ (t : State), exec .bayFree s = .next t ∧ l ∉ t.fab.blocks ∧ ∀ y ∈ s.fab.blocks, y.holder ≠ h → y ∈ t.fab.blocks) ∧
    (∀ k v blk u w, s.drain.tileContext h = some k → h.temporal = true → s.drain.noConfig h = false →
      (∀ f ∈ s.fetches, f.holder ≠ h) → (∀ l ∈ s.drain.fab.blocks, l.holder = h → l.k = k) → u = s.drain →
      u.tileNeed h k = some (v, blk) → u.makeRoom h (u.storeWords h k blk) 9 = some w → ∃ (t : State), exec .tileLoad s = .next t ∧
        t.fetches = w.fetches ++ [{ holder := h, k := k, v := v, blk := blk, since := w.cyc }])

/-! Strands. -/

/-- R202, R237, R240: a delivery puts its value into the gather entry of its block and tag; a value whose slot is taken raises DUP_TOKEN;
an invocation closes once its committed stores are performed; the entry that became ready first is taken, and its values go to the
entry slots of the block. -/
def Sys2Proof.Claims.StrandsMove : Prop :=
  ∀ (s : State),
    (∀ (d : Delivery) (x : Value), (s.delivs.drop s.arg.n).head? = some d → d.ready ≤ s.cyc → s.live d.k .io = true →
      (s.freeTrapIndex d.k).isSome = true → d.vals = [x] → s.headerWait d x = none → x.ent < 16 → x.ret = false →
      (x.blk ≠ 0 → (∀ g, s.forming? d.k d.v x.blk x.tag x.dep = some g → g.vals.length = 16 ∧ g.vals[x.ent]? = some none) →
        ∃ (t : State) (g : Gather), exec .gatherDelivery s = .next t ∧ t.delivs = dropAt s.delivs s.arg.n ∧ g ∈ t.gathers ∧ g.k = d.k ∧ g.v = d.v ∧
          g.blk = x.blk ∧ g.tag = x.tag ∧ g.dep = x.dep ∧ g.vals[x.ent]? = some (some { x.tok with after := [] })) ∧
      (∀ g k f, x.blk ≠ 0 → s.forming? d.k d.v x.blk x.tag x.dep = some g → g.vals[x.ent]? = some (some k) → d.fire = some f →
        ∃ v : State, exec .gatherDelivery s = .next (v.trapFiring f { code := tcDupToken, slot := 0, aux0 := x.blk, aux1 := x.ent }) ∧
          v.gathers = s.gathers ∧ v.delivs = dropAt s.delivs s.arg.n)) ∧
    (∀ i, (s.fab.invocs.drop s.arg.n).head? = some i → i.closing = true → i.closed = false → s.mayClose i.key = true →
      ∃ (t : State), exec .invocationClose s = .next t ∧ (∃ j ∈ t.fab.invocs, j.key = i.key ∧ j.closed = true) ∧
        ∀ g ∈ t.gathers, i.key ∉ g.from_) ∧
    (∀ g l,
      let u := s.drain
      let h := s.arg.holder
      u.nextEntry h = some (g, l) →
      (∀ x ∈ u.gathers, ∀ m ∈ u.fab.blocks, u.routable h x = true → u.reeveTakes h x.k = true → m.holder = h → u.mayBegin m = true →
        m.serves x = true → g.ready.getD 0 ≤ x.ready.getD 0) ∧
      ∃ (t : State) (i : Invoc), exec .gatherTake s = .next t ∧ t.gathers = dropFirst (fun y => y = g) u.gathers ∧ i ∈ t.fab.invocs ∧ i.holder = h ∧
        i.blk = l.blk ∧ i.k = g.k ∧ i.v = g.v ∧ i.tag = g.tag ∧ i.dep = g.dep ∧ i.closed = false ∧ i.taken = u.cyc)

/-- R212, R250, R332: a tile with no handler active runs its first runnable word in an invocation of its handler; an instance whose work is
gone writes its status record and completes, and is forgotten unless REAP keeps it. -/
def Sys2Proof.Claims.HandlersAndCompletion : Prop :=
  ∀ (s : State),
    let u := s.drain
    (∀ k r l,
      let h : Holder := .tile s.arg.u s.arg.j
      u.tileOwner s.arg.u s.arg.j = some k → (∀ i ∈ u.fab.invocs, i.holder = h → i.handler = none ∧ i.patch = none) →
      u.runs k h = true → (∀ c ∈ u.scrubs, ¬(c.k = k ∧ c.barn = s.arg.u)) →
      bestOf u.runRank (u.runnables s.arg.u s.arg.j k) = some r → r.blk < patchBase → u.block? h r.blk = some l → u.mayBegin l = true →
      u.noConfig h = false → ∃ (t : State) (i : Invoc), exec .handlerSelect s = .next t ∧ t.fab.chans = dropAt u.fab.chans r.n ∧ i ∈ t.fab.invocs ∧
        i.holder = h ∧ i.blk = r.blk ∧ i.k = k ∧ i.tag = r.word.tok.tag ∧ i.dep = r.word.tok.dep ∧ i.handler = r.word.ch ∧
        i.vals.head? = some (some r.word.tok)) ∧
    (∀ i, u.inst? s.arg.k s.arg.n = some i → i.done = false → u.instDone i = true →
      let b := leBytes 4 (i.outc * 2 ^ 30 + i.tcode) ++ leBytes 4 (u.exitOf i false).toNat ++ leBytes 4 (u.exitOf i true).toNat ++
        leBytes 4 (u.cyc % 2 ^ 32)
      (recField i.recBytes 0x38 8 = 0 → i.reap = false →
        (∀ w ∈ u.fab.waits, w.k = i.k → w.why = .kdone i.v → u.reeveHas w.fire.site.holder w.k = true) →
        ∃ (t : State), exec .instanceComplete s = .next t ∧ t.inst? s.arg.k s.arg.n = none) ∧
      (recField i.recBytes 0x38 8 = 0 → i.reap = true → (∀ w ∈ u.fab.waits, ¬(w.k = i.k ∧ w.why = .kdone i.v)) →
        ∃ (t : State) (j : Inst), exec .instanceComplete s = .next t ∧ t.inst? s.arg.k s.arg.n = some j ∧ j.done = true ∧ j.status = i.status) ∧
      let wrote := (∀ a ∈ u.fab.accs, ¬(a.k = i.k ∧ a.v = i.v)) ∧ ∀ h ∈ u.hostBusy, h.2 ≠ i.k
      (∀ v p, recField i.recBytes 0x38 8 ≠ 0 → i.outc < 4 → i.tcode < 2 ^ 30 → wrote →
        u.sysWrite 0 i.k i.v (recField i.recBytes 0x38 8) b srcIo = (v, .ok [] p) → exec .instanceComplete s = .next (v.retire i)) ∧
      (recField i.recBytes 0x38 8 ≠ 0 → ¬wrote → exec .instanceComplete s = .next u))


/-! The host's side of device memory. -/

/-- R390, R391: a host access through a committed decoder takes a copy of its line, writes under its mask or gives the line up; R391: a
back-invalidation takes the host's copy, whose dirty bytes alone come back. -/
def Sys2Proof.Claims.HostMemory : Prop :=
  ∀ (s : State),
    let put := fun (t : State) (line d m : Nat) =>
      (∀ i < 64, getCell t.dmem (64 * line + i) =
        if bitsAt m i 1 = 1 then BitVec.ofNat 8 (bitsAt d (8 * i) 8) else getCell s.dmem (64 * line + i)) ∧
      (∀ x, (x < 64 * line ∨ 64 * line + 64 ≤ x) → getCell t.dmem x = getCell s.dmem x) ∧
      t.hmem = s.hmem ∧ t.scr = s.scr ∧ t.wbuf = s.wbuf ∧ t.pres = s.pres
    (∀ a own, s.decoded s.arg.u s.arg.val.toNat = some a → s.arg.hostOp = .read own →
      (s.snoop.length < 4194304 ∨ a / 64 ∈ s.snoop → ∃ (t : State), exec .hostMemAccess s = .next t ∧ a / 64 ∈ t.snoop ∧
        t.snoop.getLast? = some (a / 64) ∧ (∀ l ≠ a / 64, l ∈ t.snoop ↔ l ∈ s.snoop) ∧ SameMemory s t ∧
        (a / 64, BitVec.ofNat 512 (s.readN .dev (64 * (a / 64)) 64)) ∈ t.hostCopy ∧ ∀ c, c.1 ≠ a / 64 → (c ∈ t.hostCopy ↔ c ∈ s.hostCopy)) ∧
      (4194304 ≤ s.snoop.length → a / 64 ∉ s.snoop → exec .hostMemAccess s = .next s)) ∧
    (∀ a d m, s.decoded s.arg.u s.arg.val.toNat = some a → s.arg.hostOp = .write d m →
      ∃ (t : State), exec .hostMemAccess s = .next t ∧ put t (a / 64) d.toNat m.toNat ∧ t.snoop = s.snoop ∧
        (a / 64 ∈ s.snoop → (a / 64, BitVec.ofNat 512 (t.readN .dev (64 * (a / 64)) 64)) ∈ t.hostCopy)) ∧
    (∀ a, s.decoded s.arg.u s.arg.val.toNat = some a → s.arg.hostOp = .flush → ∃ (t : State), exec .hostMemAccess s = .next t ∧
      (∀ l, l ∈ t.snoop ↔ l ∈ s.snoop ∧ l ≠ a / 64) ∧ (∀ x ∈ t.hostBusy, x.1 ≠ a / 64) ∧ SameMemory s t) ∧
    (s.arg.n ∈ s.snoop → ∃ (t : State), exec .backInvalidate s = .next t ∧ (∀ l, l ∈ t.snoop ↔ l ∈ s.snoop ∧ l ≠ s.arg.n) ∧
      (∀ x ∈ t.hostBusy, x.1 ≠ s.arg.n) ∧ (∀ c ∈ t.hostCopy, c.1 ≠ s.arg.n) ∧ (s.arg.data = none → SameMemory s t) ∧
      ∀ d, s.arg.data = some d → put t s.arg.n d.toNat s.arg.val.toNat) ∧
    (s.arg.n ∉ s.snoop → exec .backInvalidate s = .next s)

/-- R388, R390, R392, R393: aperture writes under byte enables, PCIe atomics, decoder commits, and the host's snoops and ports of the
cache agents. -/
def Sys2Proof.Claims.HostPorts : Prop :=
  ∀ (s : State),
    let off := s.arg.n / 4 * 4
    let st : Store := if s.arg.flag then .wbuf else .scr
    let on := s.regField .hostApctl (if s.arg.flag then 1 else 0) 1 = 1
    (on → (s.arg.flag = false → off % 2 ^ 22 < 0x300000) → s.arg.j = 1 → s.scrubbing st off = false →
      ∃ (t : State), exec .hostApertureAccess s = .next t ∧
        (∀ i < 4, getCell (t.cells st) (off + i) = if bitsAt s.arg.m i 1 = 1 then BitVec.ofNat 8 (bitsAt s.arg.val.toNat (8 * i) 8)
          else getCell (s.cells st) (off + i)) ∧
        (∀ x, (x < off ∨ off + 4 ≤ x) → getCell (t.cells st) x = getCell (s.cells st) x) ∧
        (∀ su ≠ st, t.cells su = s.cells su) ∧ t.pres = s.pres) ∧
    (¬on ∨ (s.arg.flag = false ∧ 0x300000 ≤ off % 2 ^ 22) ∨ s.scrubbing st off = true → exec .hostApertureAccess s = .next s) ∧
    exec .barAtomicRequest s = .next s ∧
    (∃ (t : State), exec .hostSnoop s = .next t ∧ (s.arg.data = none → SameMemory s t) ∧
      (∀ d, s.arg.data = some d → (∀ e ∈ t.agent, e.2.1 ≠ s.arg.n) → ∀ i < 64, getCell t.hmem (64 * s.arg.n + i) =
        if bitsAt s.arg.val.toNat i 1 = 1 then BitVec.ofNat 8 (bitsAt d.toNat (8 * i) 8) else getCell s.hmem (64 * s.arg.n + i)) ∧
      (∀ x, (x < 64 * s.arg.n ∨ 64 * s.arg.n + 64 ≤ x) → getCell t.hmem x = getCell s.hmem x) ∧ t.dmem = s.dmem ∧ t.scr = s.scr ∧
      (s.arg.flag = true → ∀ e ∈ t.agent, ¬(e.1 = s.arg.u ∧ e.2.1 = s.arg.n)) ∧
      (s.arg.flag = false → ∀ e ∈ t.agent, e.1 = s.arg.u → e.2.1 = s.arg.n → e.2.2 = (false, false)) ∧
      ∀ e ∈ s.agent, ¬(e.1 = s.arg.u ∧ e.2.1 = s.arg.n) → e ∈ t.agent) ∧
    (∃ (t : State), exec .cxlPortTrained s = .next t ∧ t.agent = [] ∧ SameMemory s t ∧
      ∀ p, p ∈ t.cxl ↔ (p = s.arg.u ∧ s.arg.flag = true) ∨ (p ≠ s.arg.u ∧ p ∈ s.cxl)) ∧
    (s.arg.j = 40 → (s.arg.n = 2 ∧ s.arg.m ∈ [256, 512, 1024, 2048, 4096]) ∨ (s.arg.n = 1 ∧ s.arg.u = 0) →
      ∃ (t : State), exec .decoderCommit s = .next t ∧ t.decoders.find? (fun d => d.1 = s.arg.u) = some (s.arg.u, s.arg.n, s.arg.m) ∧
        SameMemory s t) ∧
    (¬(s.arg.j = 40 ∧ ((s.arg.n = 2 ∧ s.arg.m ∈ [256, 512, 1024, 2048, 4096]) ∨ (s.arg.n = 1 ∧ s.arg.u = 0))) →
      exec .decoderCommit s = .next s)

/-! Translation. -/

/-- R364, R365, R369: a piece gets its place from its window, from a cached translation that grants its need, or from the walk of its
page, once its memory node has room; a page that does not grant it raises PERM with cause 3, and an absent one a page fault with cause
0, on which the access waits or which aborts its idempotent invocation. -/
def Sys2Proof.Claims.WalksTranslate : Prop :=
  ∀ (s : State) (a : Access) (i : Nat) (p : Piece), Untranslated s a i p → a.trans = .ready →
    let o := exec .walkComplete s
    let die := dieNo a.barn
    let n := a.kind.need
    let at_ := fun (st : Store) (y : Nat) => ∃ (t : State), o = .next t ∧ SameMemory s t ∧
      (st ≠ .dev ∨ s.nodeRoom a y = true → AccessNow s t (a.placed i st y s.cyc)) ∧
      (st = .dev → s.nodeRoom a y = false → t.fab = s.fab)
    let fault := fun (c : Nat) => ∃ (t : State) (fid : Nat), o = .next t ∧ (s.idemInvoc? a.origin = none → SameMemory s t) ∧
      (∃ q ∈ t.pfaults, q.die = die ∧ q.fid = fid ∧ q.k = a.k ∧ q.cause = c ∧ q.va / 4096 = p.addr / 4096) ∧
      (s.idemInvoc? a.origin = none → AccessNow s t { a with trans := .fault die fid }) ∧
      ∀ j, s.idemInvoc? a.origin = some j → t.fab.accs = (s.fab.discard j).accs ∧
        t.fab.sets.map (fun x => (x.site, x.tag, x.toks)) = (s.fab.discard j).sets.map (fun x => (x.site, x.tag, x.toks)) ∧
        t.fab.queues = (s.fab.discard j).queues ∧ t.fab.sbuf = (s.fab.discard j).sbuf ∧ t.fab.spaces = (s.fab.discard j).spaces ∧
        ∃ g ∈ t.gathers, g.k = j.k ∧ g.blk = j.blk ∧ g.tag = j.tag ∧ g.vals = j.vals ∧ g.ready = none ∧ g.fid = some (die, fid)
    (∀ st y, windowOf p.addr ≠ .paged → s.windowPlace a.k p.addr = some (st, y) → at_ st y) ∧
    (∀ asid, windowOf p.addr = .paged → s.asid? a.k = some asid →
      let cached := s.tlbFind die a.port asid p.addr
      (∀ e st y, cached = some e → grants n e.r e.w e.x e.tt = true → e.place p.addr = .at st y → at_ st y) ∧
      ((cached = none ∧ (∀ e ∈ s.walks, ¬(e.die = die ∧ e.asid = asid)) ∧ (∀ e ∈ s.asids, ¬(e.die = die ∧ e.asid = asid))) ∨
          (∃ e, cached = some e ∧ grants n e.r e.w e.x e.tt = false) →
        (∀ base size frame pin tt x w r, s.walk a.k p.addr = .page base size frame pin tt x w r →
          (∀ st y, grants n r w x tt = true → physical (frame + (p.addr - base)) = some (st, y) → at_ st y) ∧
          (grants n r w x tt = false → ∃ (v : State), v.fab = s.fab ∧ v.traps = s.traps ∧
            o = .next (v.accessTrap a (permCause 3 p.addr a.kind.code)))) ∧
        (∀ m, s.walk a.k p.addr = .absent m → fault 0)))

/-- R366, R369: an ATS response that grants the need places its piece at the host address it names; one that grants neither read nor
write faults with cause 1. -/
def Sys2Proof.Claims.AtsAnswers : Prop :=
  ∀ (s : State) (a : Access) (i : Nat) (p : Piece), Untranslated s a i p → a.trans = .ats → s.arg.flag = false →
    let o := exec .atsResponse s
    (∀ g, s.arg.grant = some g → (g.r = true ∨ g.w = true) → grants a.kind.need g.r g.w false false = true →
      ∃ (t : State), o = .next t ∧ SameMemory s t ∧
        AccessNow s t (({ a with trans := .ready } : Access).placed i .host (g.hpa + p.addr % 2 ^ g.size) s.cyc)) ∧
    ((s.arg.grant = none ∨ ∃ g, s.arg.grant = some g ∧ g.r = false ∧ g.w = false) → s.idemInvoc? a.origin = none →
      ∃ (t : State) (fid : Nat), o = .next t ∧ SameMemory s t ∧ AccessNow s t { a with trans := .fault (dieNo a.barn) fid } ∧
        ∃ q ∈ t.pfaults, q.die = dieNo a.barn ∧ q.fid = fid ∧ q.k = a.k ∧ q.cause = 1 ∧ q.va / 4096 = p.addr / 4096)

/-- R370, R373: a page fault with cause 0 is written to the fault queue of its die as a 32-byte entry, and TAIL advances; one with cause 1
is requested from the host, with at most 512 outstanding; no entry is written while the queue is full or absent. -/
def Sys2Proof.Claims.FaultsAreSent : Prop :=
  ∀ (s : State),
    let d := s.arg.u
    let n := s.regField (.trFqb d) 60 4
    let base := s.regField (.trFqb d) 5 39 * 32
    let head := s.regField (.trFqht d) 0 32
    let tail := s.regField (.trFqht d) 32 32
    let full := n < 4 ∨ 2 ^ n ≤ (tail + 2 ^ 32 - head) % 2 ^ 32
    let first := s.pfaults.find? fun p => p.die = d && p.cause = 0 && !p.sent && !p.failed
    (∀ p st x, first = some p → (∀ q ∈ s.pfaults, q.die = d → q.fid = p.fid → q = p) → ¬full → physical base = some (st, x) →
      physical (base + 32 * (tail % 2 ^ n)) = some (st, x + 32 * (tail % 2 ^ n)) →
      ∃ (t : State), exec .faultQueueWrite s = .next t ∧ t.readB st (x + 32 * (tail % 2 ^ n)) 32 = p.entry ∧
        t.regField (.trFqht d) 32 32 = (tail + 1) % 2 ^ 32 ∧ t.regField (.trFqht d) 0 32 = head ∧
        (∃ q ∈ t.pfaults, q = { p with sent := true }) ∧ (tail = head → t.regField .hostEvt 1 1 = 1) ∧
        ∀ y, (y < x + 32 * (tail % 2 ^ n) ∨ x + 32 * (tail % 2 ^ n) + 32 ≤ y) → getCell (t.cells st) y = getCell (s.cells st) y) ∧
    (full ∨ first = none → exec .faultQueueWrite s = .next s) ∧
    (∀ p, s.fault? s.arg.u s.arg.n 1 = some p → p.sent = false →
      let out := (s.pfaults.filter fun p => p.cause = 1 && p.sent && !p.failed).length
      (out < 512 → ∃ (t : State), exec .priRequest s = .next t ∧ t.pfaults.length = s.pfaults.length ∧
        (∃ q ∈ t.pfaults, q.die = p.die ∧ q.fid = p.fid ∧ q.sent = true) ∧ SameMemory s t) ∧
      (512 ≤ out → exec .priRequest s = .next s))

/-- R371, R372, R373: RETRY frees every access, entry, fetch and command that waits on the fault; FAIL, or a failing answer of the
host, delivers PAGE for an access that waits on it, with the record of R152. -/
def Sys2Proof.Claims.FaultsAreResolved : Prop :=
  ∀ (s : State) (ev : Instr) (retry : Bool) (p : PageFault),
    let id := bitsAt s.arg.val.toNat 0 24
    ((ev = .fqresRetry ∧ retry = true ∧ s.fault? s.arg.u id 0 = some p) ∨
      (ev = .fqresFail ∧ retry = false ∧ s.fault? s.arg.u id 0 = some p) ∨
      (ev = .priResponse ∧ retry = s.arg.flag ∧ s.fault? s.arg.u s.arg.n 1 = some p ∧ p.sent = true)) →
    let at_ := some (p.die, p.fid)
    (retry = true → ∃ (t : State), exec ev s = .next t ∧ ((∀ g ∈ s.gathers, g.fid ≠ at_) → SameMemory s t) ∧ (∀ q ∈ t.pfaults, ¬(q.die = p.die ∧ q.fid = p.fid)) ∧
      (∀ (m : Nat) (a : Access), s.fab.accs[m]? = some a →
        t.fab.accs[m]? = some (if a.trans = .fault p.die p.fid then { a with trans := .ready } else a)) ∧
      (∀ (m : Nat) (g : Gather), s.gathers[m]? = some g → ∃ (y : Gather), t.gathers[m]? = some y ∧ y.vals = g.vals ∧ y.tag = g.tag ∧
        (g.fid = at_ → y.fid = none ∧ y.ready = some s.cyc) ∧ (g.fid ≠ at_ → y = g)) ∧
      (∀ f ∈ t.fetches, f.fault ≠ at_) ∧ (∀ c ∈ t.fab.cmds, c.fault ≠ at_) ∧ ∀ x ∈ t.tasks, x.fault ≠ at_) ∧
    (∀ (f : Firing) (a : Access), retry = false → s.fab.accs.filter (fun a => a.trans = .fault p.die p.fid) = [a] → a.origin = .firing f →
      (∀ g ∈ s.gathers, g.fid ≠ at_) → (∀ x ∈ s.fetches, x.fault ≠ at_) → (∀ c ∈ s.fab.cmds, c.fault ≠ at_) →
      (∀ x ∈ s.tasks, x.fault ≠ at_) → s.loadFault ≠ at_ → (s.freeTrapIndex f.k).isSome = true →
      ∃ (t : State) (r : Trap), exec ev s = .next t ∧ r ∈ t.traps ∧ r.k = f.k ∧ r.tcode = tcPage ∧ r.cause = p.cause ∧
        (p.tile ≠ none → r.aux0 = BitVec.ofNat 64 p.va) ∧
        (∀ i q, p.tile = none → s.nextPiece a = some i → (a.pieces.drop i).head? = some q → r.aux0 = BitVec.ofNat 64 q.addr) ∧ r.hold = .word a.id ∧ (∀ q ∈ t.pfaults, ¬(q.die = p.die ∧ q.fid = p.fid)) ∧
        ∃ y ∈ t.fab.accs, y.id = a.id ∧ y.waiting = true)

/-- R367: a command of TR_INV at an idle queue drops every cached translation that it covers, and the cached ASID entry unless it
is of KIND 2; behind others it waits its turn; one beyond 64 pending or with a reserved or unaligned value sets OVF alone. -/
def Sys2Proof.Claims.InvalidationsDrop : Prop :=
  ∀ (s : State) (ev : Instr) (kind : Nat),
    (ev, kind) ∈ [(.invAll, 0), (.invAsid, 1), (.invRange, 2), (.invAsidEntry, 3)] →
    let v := s.arg.val.toNat
    let log2 := bitsAt v 56 6
    let va := s.regField .trInvva 0 60
    let asid := bitsAt v 0 16
    let ok := (s.invq.filter fun c => !c.ats).length < 64 ∧ bitsAt v 16 40 = 0 ∧
      (kind = 2 → 12 ≤ log2 ∧ log2 ≤ 60 ∧ va % 2 ^ log2 = 0)
    let covered := fun (a x z : Nat) => kind = 0 ∨ (kind = 1 ∧ a = asid) ∨ (kind = 2 ∧ a = asid ∧ x < va + 2 ^ log2 ∧ va < x + z)
    (ok → s.invq = [] → ∃ (t : State) (c : InvCmd), exec ev s = .next t ∧ t.invq = [c] ∧ c.kind = kind ∧ c.asid = asid ∧
      (∀ e, e ∈ t.tlb ↔ e ∈ s.tlb ∧ ¬covered e.asid e.va e.size) ∧ (∀ e, e ∈ t.walks ↔ e ∈ s.walks ∧ ¬covered e.asid e.va e.size) ∧
      (∀ e, e ∈ t.asids ↔ e ∈ s.asids ∧ ¬(kind = 0 ∨ ((kind = 1 ∨ kind = 3) ∧ e.asid = asid))) ∧
      (∀ m, m ∈ c.wait ↔ ∃ a ∈ s.fab.accs, a.id = m ∧ a.done = false ∧ ∃ p ∈ a.pieces, covered (s.asid a.k) p.addr p.size ∧
        ∃ x, p.place = some (.dev, x) ∨ p.place = some (.host, x)) ∧ SameMemory s t) ∧
    (ok → s.invq ≠ [] → ∃ (t : State) (c : InvCmd), exec ev s = .next t ∧ t.invq = s.invq ++ [c] ∧ c.kind = kind ∧ c.asid = asid ∧
      (kind = 2 → c.va = va ∧ c.log2 = log2) ∧ t.tlb = s.tlb ∧ t.asids = s.asids) ∧
    (¬ok → exec ev s = .next (s.setField .trInvstat 63 1 1))

/-- R367: the oldest command completes, and DONE advances, once every access that used a translation it dropped is performed; an ATS
invalidation acts as a command of KIND 2 for every ASID that has its PASID. -/
def Sys2Proof.Claims.InvalidationsComplete : Prop :=
  ∀ (s : State),
    (∀ c r, s.invq = c :: r →
      ((∃ a ∈ s.fab.accs, a.id ∈ c.wait ∧ a.done = false) → exec .invComplete s = .next s) ∧
      ((∀ a ∈ s.fab.accs, a.id ∈ c.wait → a.done = true) → c.back = none → c.retire = none →
        ∃ (t : State), exec .invComplete s = .next t ∧ t.invq.length = r.length ∧ SameMemory s t ∧
          t.regField .trInvstat 0 32 = if c.ats then s.regField .trInvstat 0 32 else (s.regField .trInvstat 0 32 + 1) % 2 ^ 32)) ∧
    (s.invq = [] → ∃ (t : State) (c : InvCmd), exec .atsInvalidate s = .next t ∧ t.invq = [c] ∧ c.ats = true ∧ SameMemory s t ∧
      ∀ e, e ∈ t.tlb ↔ e ∈ s.tlb ∧
        ¬(s.pasid? e.asid = some s.arg.n ∧ e.va < s.arg.val.toNat + 2 ^ s.arg.m ∧ s.arg.val.toNat < e.va + e.size))

/-! Allocations and frames. -/

/-- R261, R268, R270: an accepted allocation starts its scrub, in place of an earlier one of its register; one that passes the slice or meets another slot's is discarded; a
scrub that is done leaves zeros, presence bits of 0 and no poison in its units and nothing else changed, and clears BUSY. -/
def Sys2Proof.Claims.AllocationsScrub : Prop :=
  ∀ (s : State),
    let b := s.arg.u
    let k := s.arg.k
    let v := s.arg.val.toNat
    let clear := fun (r : Nat → Reg) (base size : Nat) =>
      size ≠ 0 → ∀ j < 32, j ≠ k → s.regField (r j) 8 6 ≠ 0 → ¬(base < s.regField (r j) 0 6 + s.regField (r j) 8 6 ∧ s.regField (r j) 0 6 < base + size)
    let starts := fun (ev : Instr) (r : Reg) (weight : Bool) (base : Nat) => ∃ (t : State) (c : Scrub), exec ev s = .next t ∧
      t.scrubs = s.scrubs.filter (fun c => !(c.barn = b && c.k = k && c.weight = weight)) ++ [c] ∧ c.barn = b ∧ c.k = k ∧ c.weight = weight ∧ c.base = base ∧ c.size = bitsAt v 8 6 ∧
      t.regField r 31 1 = 1 ∧ t.regField r 8 6 = bitsAt v 8 6 ∧ t.regField r 0 6 = base ∧ SameMemory s t
    ((bitsAt v 0 6 + bitsAt v 8 6 ≤ 48 ∧ clear (.spadAlloc b) (bitsAt v 0 6) (bitsAt v 8 6)) →
      starts .spadAllocWrite (.spadAlloc b k) false (bitsAt v 0 6)) ∧
    (¬(bitsAt v 0 6 + bitsAt v 8 6 ≤ 48 ∧ clear (.spadAlloc b) (bitsAt v 0 6) (bitsAt v 8 6)) →
      exec .spadAllocWrite s = .next s) ∧
    (s.regField (.wbufAlloc b k) 5 1 = 0 → (bitsAt v 0 5 + bitsAt v 8 6 ≤ 32 ∧ clear (.wbufAlloc b) (bitsAt v 0 5) (bitsAt v 8 6)) →
      starts .wbufAllocWrite (.wbufAlloc b k) true (bitsAt v 0 5)) ∧
    (¬(bitsAt v 0 5 + bitsAt v 8 6 ≤ 32 ∧ clear (.wbufAlloc b) (bitsAt v 0 5) (bitsAt v 8 6)) →
      exec .wbufAllocWrite s = .next s) ∧
    (∀ c, (s.scrubs.drop s.arg.n).head? = some c → ∃ (t : State), exec .scrubDone s = .next t ∧ t.scrubs = dropAt s.scrubs s.arg.n ∧
      t.dmem = s.dmem ∧ t.hmem = s.hmem ∧
      ((∀ d ∈ dropAt s.scrubs s.arg.n, ¬(d.barn = c.barn ∧ d.k = c.k ∧ d.weight = c.weight)) →
        t.regField (if c.weight then .wbufAlloc c.barn c.k else .spadAlloc c.barn c.k) 31 1 = 0) ∧
      (c.weight = false → t.wbuf = s.wbuf ∧
        let in_ := fun x => c.barn * 2 ^ 22 + c.base * 2 ^ 16 ≤ x ∧ x < c.barn * 2 ^ 22 + c.base * 2 ^ 16 + c.size * 2 ^ 16
        (∀ x, in_ x → getCell t.scr x = 0 ∧ t.full (x / 16) = false ∧ t.poisoned .scr x = false) ∧
        ∀ x, ¬in_ x → getCell t.scr x = getCell s.scr x ∧ t.full (x / 16) = s.full (x / 16)) ∧
      (c.weight = true → t.scr = s.scr ∧ t.pres = s.pres ∧
        let in_ := fun x => c.barn * 2 ^ 21 + c.base * 2 ^ 16 ≤ x ∧ x < c.barn * 2 ^ 21 + c.base * 2 ^ 16 + c.size * 2 ^ 16
        (∀ x, in_ x → getCell t.wbuf x = 0 ∧ t.poisoned .wbuf x = false) ∧ ∀ x, ¬in_ x → getCell t.wbuf x = getCell s.wbuf x))

/-- R277, R278, R368: a write of CTX_SHDPOOL waits for no shadowed command: it is discarded while one is queued or runs; a shadow frame
returns at entry FREE once no access uses it; a page moves to a free frame of a nearest channel, and its invalidation is queued. -/
def Sys2Proof.Claims.FramesMove : Prop :=
  ∀ (s : State),
    ((∃ c ∈ s.fab.cmds, c.k = s.arg.k ∧ recField c.bytes 3 1 % 2 = 1) → exec .ctxShdpoolWrite s = .next s) ∧
    ((∀ c ∈ s.fab.cmds, c.k = s.arg.k → recField c.bytes 3 1 % 2 ≠ 1) → ∃ (t : State), exec .ctxShdpoolWrite s = .next t ∧
      t.reg (.ctxShdpool s.arg.k) = (s.reg (.ctxShdpool s.arg.k) &&& ~~~0xfffffffffc1) ||| (s.arg.val &&& 0xfffffffffc1) ∧ SameMemory s t) ∧
    (∀ k c f, (s.shadowRet.drop s.arg.n).head? = some (k, c, f) →
      let used := ∃ a ∈ s.fab.accs, a.done = false ∧ ∃ p ∈ a.pieces, p.resp = none ∧ ∃ x, p.place = some (.dev, x) ∧ f ≤ x ∧ x < f + classSize c
      (used → exec .shadowFrameReturn s = .next s) ∧
      (∀ d w, ¬used → s.shadowPool k = some d → ({ s with shadowRet := dropAt s.shadowRet s.arg.n } : State).giveFrame d c f = some w →
        exec .shadowFrameReturn s = .next w) ∧
      (∀ d, ¬used → s.shadowPool k = some d → ({ s with shadowRet := dropAt s.shadowRet s.arg.n } : State).giveFrame d c f = none →
        ∃ (t : State), exec .shadowFrameReturn s = .next t ∧ t.shadowRet = dropAt s.shadowRet s.arg.n ∧ SameMemory s t ∧
          ∃ m, (k, m + 1) ∈ t.shadowDrop ∧ (m = 0 ∨ (k, m) ∈ s.shadowDrop))) ∧
    (∀ (d c f : Nat),
      (s.readPa (d + 16 * c + 8) 4 ≤ s.readPa (d + 16 * c + 12) 4 ∨ 2 ^ 44 ≤ s.readPa (d + 16 * c) 8 ↔ s.giveFrame d c f = none) ∧
      (∀ w, s.giveFrame d c f = some w → w = (s.writePaN (s.readPa (d + 16 * c) 8 + 8 * s.readPa (d + 16 * c + 12) 4) 8 f).writePaN
        (d + 16 * c + 12) 4 (s.readPa (d + 16 * c + 12) 4 + 1))) ∧
    (∀ i va port r l c f w,
      (s.insts.drop s.arg.n).head? = some i → s.settling i = false → i.migr = (va, port) :: r →
      let u := s.modInst i.k i.v fun i => { i with migr := r }
      let near := nearest ((lowest (fun b => i.barns.contains b) 64).getD 0) port
      u.leafOf (u.asid i.k) va = some l → l.size ≤ 2 ^ 21 → bitsAt l.entry 7 1 = 0 → l.frame < 2 ^ 40 → l.frame / 2 ^ 31 ∉ near →
      classOf l.size = some c → near.findSome? (fun ch => match u.takeFrame (u.channelList ch) c with
        | .got x y => some (x, y)
        | _ => none) = some (w, f) →
      exec .pageMigration s = .next (w.movePage (u.asid i.k) va l f (some (c, l.frame)) none).placedStrands ∧
      ∃ (q : InvCmd), (w.movePage (u.asid i.k) va l f (some (c, l.frame)) none).invq.getLast? = some q ∧ q.kind = 2 ∧ q.asid = u.asid i.k ∧
        q.va = va / l.size * l.size ∧ 2 ^ q.log2 = l.size ∧ q.back = some (c, l.frame))

/-! Streams, tasks and engines as they run. -/

/-- R163, R164: a STRM node sends the word of each index in ascending order under its child tag, then one marker that holds the count, and
traps in the turn of a word that cannot be read; a STRMW node sends its completion token once its writes are performed. -/
def Sys2Proof.Claims.StreamsSend : Prop :=
  ∀ (s : State) (x : Stream) (f : Firing), (s.fab.streams.drop s.arg.n).head? = some x → x.fire = some f →
    s.runs f.k x.site.holder = true →
    (∀ h sw shp desc m, f.instr = some (.strm h sw shp desc) → x.count = some m → x.stuck = false → x.since < s.cyc →
      s.windowFull x.site x.tag x.dep (sw.toNat + 1) x.next = false →
      let w := sw.toNat + 1
      let a? := s.fab.accs.find? fun a => a.origin = .stream f x.next
      (x.next = m → exec .streamTokenSend s = .next ((s.dropStream x.site x.tag x.dep).emitAll x.site 1
        (({ f.result h true h.ty 0 with eos := true, poi := false } : Tok).under x.tag x.dep w m) [h.t0, h.t1])) ∧
      (∀ k, x.next ≠ m → a? = none → x.words.find? (fun p => decide (p.1 = x.next)) = some (x.next, k) →
        ∃ (v : State), exec .streamTokenSend s = .next (v.emitAll x.site 1 (k.under x.tag x.dep w x.next) [h.t0, h.t1]) ∧
          v.fab.flights = s.fab.flights ∧ v.cyc = s.cyc ∧
          (s.stream? x.site x.tag x.dep = some x → (v.stream? x.site x.tag x.dep).map Stream.next = some (x.next + 1))) ∧
      (∀ a c, x.next ≠ m → a? = some a → a.trans = .failed c → (s.freeTrapIndex f.k).isSome = true →
        ∃ (t : State) (r : Trap), exec .streamTokenSend s = .next t ∧ r ∈ t.traps ∧ r.tcode = c.code ∧ r.hold = .stream f x.next ∧
          t.fab.flights = s.fab.flights)) ∧
    (∀ h sc sw shp desc, f.instr = some (.strmw h sc sw shp desc) → x.done = true → x.writes = 0 →
      exec .strmwComplete s = .next ((s.dropStream x.site x.tag x.dep).emitAll x.site 1
        { tag := x.tag, dep := x.dep, data := 0, ty := .b32, poi := f.poi true, after := (x.after ++ f.after).eraseDups } [h.t0, h.t1]))

/-- R181, R311: the scheduler of a die takes the next record of a slot's tile-task queue: one without input sheaves is ready at once, and
one that breaks its layout raises TTASK_FORMAT with its address and the offset. -/
def Sys2Proof.Claims.TasksAreTaken : Prop :=
  ∀ (s v : State) (x : TaskSlot) (b : List Byte),
    let k := s.arg.k
    let die := s.arg.u
    s.taskQ.find? (fun y => decide (y.k = k) && !y.taken && !y.freed) = some x → s.schedulerUp die = true → s.onDie k die = true →
    s.arg.ecc = none → s.live k .io = true → (s.freeTrapIndex k).isSome = true → s.unitRead die k x.v x.recAt 192 { code := 98 + die } = (v, .ok b false) →
    let t : Task := { id := s.fresh, die := die, k := k, v := x.v, recAt := x.recAt, bytes := b, core := x.core, order := x.order, slot := x.slot }
    let w : State := { v with
      taskQ := v.taskQ.map fun (y : TaskSlot) => if y.k = k && y.slot = x.slot then { y with taken := true } else y
      tasks := v.tasks ++ [t]
      fresh := v.fresh + 1 }
    (badTask t = none → t.nin = 0 → (∀ y ∈ s.tasks, y.id ≠ s.fresh) → ∃ (z : State), exec .taskTake s = .next z ∧
      { t with ready := some s.cyc } ∈ z.tasks ∧ z.tasks.length = s.tasks.length + 1 ∧ z.fab = v.fab) ∧
    (∀ o, badTask t = some o → (v.freeTrapIndex k).isSome = true → exec .taskTake s =
      .next (((w.discardTask t.id).settleFallback).unitTrap k x.v 6 die x.recAt { code := tcTtaskFormat, aux0 := x.recAt, aux1 := o }))

/-- R311, R312: in a cycle the scheduler of a die issues the first ready record of its ranking that a barn of its slot can place, and none
behind an aged one that cannot be placed: it binds its region, holds its staging room, frees its waiter and its queue slot. -/
def Sys2Proof.Claims.TasksAreIssued : Prop :=
  ∀ (s : State) (t : Task) (b o : Nat) (v : State) (x : Region),
    let ready := fun (t : Task) => decide (t.die = s.arg.u) && t.run.isNone && readySeen t.ready t.waiter s.cyc && s.live t.k .io
    let l := s.tasks.filter ready
    let may := s.schedulerUp s.arg.u = true ∧ ∀ u ∈ s.tasks, u.die = s.arg.u → u.issued.map Prod.fst ≠ some s.cyc
    (∀ n l, (l.map Task.id).Nodup → s.firstTask n l = some (t, b, o) → t ∈ l ∧ s.taskPlace t = some (b, o) ∧
      ∀ u ∈ l, lexLess (s.taskRank u) (s.taskRank t) = true → s.taskPlace u = none ∧ s.cyc < u.ready.getD 0 + agedAt) ∧
    (may → s.firstTask (l.length + 1) l = some (t, b, o) → s.bindRegion t.k t.v b t.h t.w 0 = some (v, x) →
      let v := v.putRegion { x with task := some t.id }
      let v := match t.waiter with | some w => v.freeWaiter w | none => v
      exec .taskIssue s = .next (((v.modTask t.id fun u =>
        { u with waiter := none, run := some (b, x.r, .stage), issued := some (v.cyc, v.fresh), stageAt := o }).bumpFresh).freeTaskSlot t.k t.slot)) ∧
    (s.firstTask (l.length + 1) l = none ∨ ¬may → exec .taskIssue s = .next s)

/-- R180: a task takes its steps one after another: its image is staged and latched, its half swaps, its activations are read, its tile is
computed, its results drain with their flags and are written, its output is published once, and its region is freed and the task has
completed. -/
def Sys2Proof.Claims.TasksStep : Prop :=
  ∀ (s : State) (t : Task) (b r : Nat) (step : TaskStep) (x : Region),
    (s.tasks.drop s.arg.n).head? = some t → t.run = some (b, r, step) → t.fault = none → s.live t.k .io = true → s.gatedPart b = false →
    s.region? b r = some x →
    let o := exec .tileTaskStep s
    let goes := fun (v : State) (st : TaskStep) => v.modTask t.id fun y => { y with run := y.run.map fun r => (r.1, r.2.1, st), pos := 0 }
    (step = .bind → o = .next (goes s .stage)) ∧
    (∀ v img p a hf, step = .stage → t.bit 2 = false → s.unitRead t.die t.k t.v (t.f 8 8) t.wlen t.src = (v, .ok img p) →
      v.weightPlace t.k (v.logicalBarn t.k x.barn) t.stageAt = some a →
      let w := v.storeBytes .wbuf a img p
      (∀ i, (h : i < img.length) → getCell w.wbuf (a + i) = img[i]) ∧
      (loadHalf (w.weightBytes x.barn t.k t.stageAt) t.h t.w t.wfmt t.gsz
          (w.weightPoison x.barn t.k t.stageAt (imageBytes t.h t.w t.wfmt t.gsz)) = .inl hf →
        o = .next (goes (w.putRegion (x.setHalf x.idle hf)) .swap))) ∧
    (step = .swap → o = .next (goes (s.putRegion { (x.setHalf x.idle { x.halfOf x.idle with fresh := false }) with active := x.idle }) .stream)) ∧
    (∀ v acts y tl, step = .stream → t.hasInit = false → s.taskStream t (t.f 0x18 1) (t.f 0x19 1) (t.f 0x20 4)
        (t.m * rowTokens x (x.halfOf x.active) t.ty) = (v, .ok acts) →
      v.startTile x t.ty (t.bit 0) t.m (mkTag 0 t.k t.v 0) 0 = .tile y tl →
      o = .next (goes (v.putRegion (y.modTile tl.id fun u => { u with toks := acts, inits := [] })) .mmac)) ∧
    (∀ tl, step = .mmac → t.hasInit = false → x.tiles.head? = some tl → ∃ (z : State) (y : Region), o = .next z ∧ z.region? b r = some y ∧
      y.tiles = [] ∧ (∃ u ∈ z.tasks, u.id = t.id ∧ u.run = some (b, r, .drain)) ∧
      ∀ a ∈ y.accs, a.tile = tl.id → a.half = tl.half → a.full = true ∧ ∀ n < 8 * x.w, a.idx - tl.base < t.m →
        a.vals[n]? = some (x.dot (x.halfOf tl.half) t.ty (t.bit 0) (tokenAt tl.toks) none (a.idx - tl.base) n).1) ∧
    (step = .drain → o = .next (goes (s.raiseFlags t.k 0
      (((upto (t.m * (8 * t.w))).map fun i => (t.result x i).2).foldl (· ||| ·) 0)) .write)) ∧
    (step = .write → t.m * (8 * t.w) ≤ t.pos → ∀ w c, s.window t.k t.v (t.f 0x1A 1) (t.f 0x1B 1) (t.f 0x24 4) 24 = .win w → w.count = c →
      c = t.m * (8 * t.w) → o = .next (goes (s.modTask t.id fun y => { y with pos := t.pos }) (if t.hasOut then .publish else .free))) ∧
    (step = .publish → t.pos = 0 → s.publishesFirst t = false → o = .next ((s.modTask t.id fun y => { y with pos := 1 }).sendPublish (98 + t.die)
      { k := t.k, asid := s.asid t.k, tid := t.f 0x80 8, tile := t.f 0x88 4, gen := t.f 0x8C 2, seq := 0, fire := none, core := none,
        cmd := none, task := some t.id, ready := 0 })) ∧
    (step = .publish → t.pos ≠ 0 ∨ s.publishesFirst t = true → o = .next s) ∧
    (step = .free → ∃ (z : State), o = .next z ∧ (∀ y ∈ z.tasks, y.id ≠ t.id) ∧ z.region? b r = none)

/-- R189: an engine takes the first command of its queue while fewer than 8 run; R192: the Carillon ends one whose group fails with
cause 6. -/
def Sys2Proof.Claims.EnginesStart : Prop :=
  ∀ (s : State) (c : Cmd),
    let e := s.arg.u
    s.fab.cmds.find? (fun c => decide (c.eng = e) && !c.running && s.live c.k .engines) = some c → (s.fab.cmds.map Cmd.id).Nodup →
    let some_ := fun (f : Cmd → Cmd) => s.fab.cmds.map fun x => if x.id = c.id then f x else x
    let runs := (s.fab.cmds.filter fun x => x.eng = e && x.running).length
    (e < 32 → s.regField .dieFence (e / 4) 1 = 0 → runs < 8 → c.kind ≠ 4 → ∃ (t : State), exec .engineCommandStart s = .next t ∧
      t.fab.cmds = some_ (fun x => { x with running := true, age := s.cyc }) ∧ SameMemory s t) ∧
    (e < 32 → 8 ≤ runs → exec .engineCommandStart s = .next s) ∧
    (32 ≤ e → c.kind = 4 → (s.modCmd c.id fun x => { x with running := true, age := s.cyc }).badColl c = true → ∃ (t : State),
      exec .engineCommandStart s = .next t ∧ t.fab.cmds = some_ fun x => { x with running := true, age := s.cyc, cause := 6 })

/-- R189, R190, R266: a running CPY writes its bytes, one event each and in any order: a byte of its source, which may be read before,
stands at its place in the destination, and a granule of a slice that it covers is written as one and becomes full. -/
def Sys2Proof.Claims.EnginesMove : Prop :=
  ∀ (s : State) (c : Cmd),
    let q := c.pos + s.arg.j
    (s.fab.cmds.drop s.arg.n).head? = some c → s.engineRuns c = true → c.published = false → c.cause = 0 → c.writ = false → c.kind = 1 →
    c.shd = false → s.arg.m ≤ 1 → s.arg.ecc = none → q < c.total → c.wrote q = false → s.cmd? c.id = some c → (s.fab.cmds.map Cmd.id).Nodup →
    (∀ v b p, s.arg.flag = true → c.got = [] → c.unit 0 q = (q, 1) →
      s.unitRead c.die c.k c.v (c.srcVa + q) 1 c.src = (v, .ok [b] p) → ∃ (t : State) (y : Cmd), exec .engineCommandComplete s = .next t ∧
        t.cmd? c.id = some y ∧ y = { c with got := [(q, b, p)] } ∧ SameMemory s t) ∧
    (∀ v w st x b p, s.arg.flag = false → c.unit 0 q = (q, 1) →
      ((v = s ∧ c.got = [(q, b, p)]) ∨ (c.got = [] ∧ s.unitRead c.die c.k c.v (c.srcVa + q) 1 c.src = (v, .ok [b] p))) →
      v.unitAt c.die c.k (c.dstVa + q) { w := true } c.src = (w, .inr (st, x)) →
      ∃ (t : State) (y : Cmd), exec .engineCommandComplete s = .next t ∧ getCell (t.cells st) x = b ∧
        (∀ z ≠ x, getCell (t.cells st) z = getCell (s.cells st) z) ∧ (∀ su ≠ st, t.cells su = s.cells su) ∧ t.pres = s.pres ∧
        t.cmd? c.id = some y ∧ y.wrote q = true ∧ (∀ i ≠ q, y.wrote i = c.wrote i) ∧ (y.writ = true ↔ c.total ≤ y.pos)) ∧
    (∀ v w x l lo, s.arg.flag = false → c.unit 0 q = (lo, 16) → engineReads c.id 0 16 lo [] s = (v, .inr l) →
      v.unitAt c.die c.k (c.dstVa + lo) { w := true } c.src = (w, .inr (.scr, x)) → x % 16 = 0 →
      ∃ (t : State), exec .engineCommandComplete s = .next t ∧ (∀ i, (h : i < l.length) → getCell t.scr (x + i) = (l[i]).1) ∧
        t.full (x / 16) = true ∧ (∀ g ≠ x / 16, t.full g = s.full g) ∧ ∀ su ≠ .scr, t.cells su = s.cells su)

/-- R191: a command whose writes are performed publishes, and PEND of its barrier then falls by the bytes charged, which completes a
barrier with every arrival; a fault raises ENGINE with its cause, publishes nothing, and sets FAULT. -/
def Sys2Proof.Claims.EnginesComplete : Prop :=
  ∀ (s : State) (c : Cmd), (s.fab.cmds.drop s.arg.n).head? = some c → s.engineRuns c = true → s.cmd? c.id = some c →
    (s.fab.cmds.map Cmd.id).Nodup →
    let o := exec .engineCommandComplete s
    (c.published = false → c.cause = 0 → c.writ = true → c.psys = false → c.f 0x30 8 = 0 → c.shadow = [] → ∃ (t : State),
      o = .next t ∧ t.cmd? c.id = some { c with published := true } ∧ SameMemory s t) ∧
    (c.published = false → c.cause ≠ 0 → (s.freeTrapIndex c.k).isSome = true → ∃ (t : State) (r : Trap) (y : Cmd), o = .next t ∧ r ∈ t.traps ∧
      r.k = c.k ∧ r.tcode = tcEngine ∧ r.cause = c.cause ∧ r.aux0 = BitVec.ofNat 64 c.recAt ∧ r.cls = .E ∧ t.cmd? c.id = some y ∧
      y.published = true ∧ y.shadow = [] ∧ t.sheaves = s.sheaves ∧ t.cells .dev = s.cells .dev) ∧
    (c.published = true → c.f 0x38 8 = 0 → ∃ (t : State), o = .next t ∧ (∀ y ∈ t.fab.cmds, y.id ≠ c.id) ∧ SameMemory s t) ∧
    (∀ v st x, c.published = true → c.f 0x38 8 ≠ 0 → s.unitAt c.die c.k (c.f 0x38 8) { r := true, w := true } c.src = (v, .inr (st, x)) →
      let b := v.bar st x
      ∃ (t : State), o = .next t ∧ (∀ y ∈ t.fab.cmds, y.id ≠ c.id) ∧ (t.bar st x).pend = b.pend - c.charged ∧ (t.bar st x).arr = b.arr ∧
        (t.bar st x).sinks = b.sinks ∧ (t.bar st x).gen = b.gen ∧ ((t.bar st x).failed = true ↔ b.failed = true ∨ c.cause ≠ 0) ∧
        ((t.bar st x).done = true ↔ b.done = true ∨ (b.armed = true ∧ b.arr = b.sinks ∧ b.pend ≤ c.charged)))

/-- R192, R193, R399: a rank's arrival is recorded, and one that disagrees with another rank's ends the commands of its collective with
cause 6; a collective that every rank has issued writes the bytes of its words; a rank without a route for 2,400,000 cycles ends it with cause 7. -/
def Sys2Proof.Claims.CollectivesRun : Prop :=
  ∀ (s : State),
    let v := s.arg.val.toNat
    let a : RankArrival := { grp := s.arg.n, cseq := s.arg.m, rank := s.arg.j, ck := bitsAt v 32 8, opf := bitsAt v 40 8, count := bitsAt v 0 32,
                             root := bitsAt v 48 8 }
    let agrees := ∀ x ∈ s.ranks, x.grp = a.grp → x.cseq = a.cseq → x.rank = a.rank ∨ (x.ck = a.ck ∧ x.opf = a.opf ∧ x.count = a.count ∧ x.root = a.root)
    (∃ (t : State), exec .collRankArrival s = .next t ∧ a ∈ t.ranks ∧ SameMemory s t ∧ (agrees → t.fab = s.fab) ∧
      (¬agrees → ∀ (i : Nat) (c : Cmd), s.fab.cmds[i]? = some c → t.fab.cmds[i]? = some (if c.kind = 4 ∧ c.running = true ∧ c.grp = a.grp ∧ c.cseq = a.cseq ∧
        c.cause = 0 then { c with cause := 6 } else c))) ∧
    (∀ c, (s.fab.cmds.drop s.arg.n).head? = some c → c.kind = 4 →
      (s.engineRuns c = true → c.writ = false → c.cause = 0 → s.arg.flag = false → s.allArrived c = true → s.arg.m ≤ 1 → s.arg.ecc = none →
        s.cmd? c.id = some c →
        let q := c.pos + s.arg.j
        (∀ v u w p fl st x, q < c.charged → c.wrote q = false → c.got = [] → c.shd = false → c.unit 0 q = (q, 1) →
          s.collWord c (q / 4) = (v, .inr (w, p, fl)) →
          let kept : State := v.modCmd c.id fun y => { y with
            got := y.got ++ ((upto 4).map fun o => (q / 4 * 4 + o, (BitVec.ofNat 8 (bitsAt w.toNat (8 * o) 8), p))).filter fun b => !c.wrote b.1
            lanes := fl.foldl orLanes y.lanes }
          kept.unitAt c.die c.k (c.dstVa + q) { w := true } c.src = (u, .inr (st, x)) →
          ∃ (t : State), exec .collComplete s = .next t ∧ getCell (t.cells st) x = BitVec.ofNat 8 (w.toNat / 2 ^ (8 * (q % 4)) % 256) ∧
            (∀ z ≠ x, getCell (t.cells st) z = getCell (s.cells st) z) ∧ ∀ su ≠ st, t.cells su = s.cells su) ∧
        (c.charged ≤ c.pos → exec .collComplete s = .next (s.modCmd c.id fun x => { x with writ := true, since := s.cyc }))) ∧
      (s.allArrived c = false → s.arg.flag = false → exec .collComplete s = .next s) ∧
      (∀ n, c.lostAt = some n → c.running = true → c.published = false → c.cause = 0 →
        (n + 2400000 ≤ s.cyc → exec .collRouteTimeout s = .next (s.modCmd c.id fun x => { x with cause := 7 })) ∧
        (s.cyc < n + 2400000 → exec .collRouteTimeout s = .next s)))

/-! Sheaves and waiters. -/

/-- R196, R350, R359: a publish applies once it is the earliest operation due at its entry: it sets its entry's generation, its sequence number and the count of its publishes; a re-sent one
changes nothing, one older than its entry raises SHEAF_STALE at its source, and one that can create no entry is dropped and counted. -/
def Sys2Proof.Claims.PublishesApply : Prop :=
  ∀ (s : State) (p : Publish), (s.pubs.drop s.arg.n).head? = some p → s.publishDue p ≤ s.cyc →
    s.entryBusy p.asid p.tid p.tile (s.publishDue p) [0, p.seq] = false → (s.freeTrapIndex p.k).isSome = true → p.asid = s.asid p.k →
    let done := fun (x : State) => .next (x.mirrorOvf p.k)
    let u : State := { s with pubs := dropAt s.pubs s.arg.n }
    let o := exec .sheafPublishApply s
    (∀ e, s.sheaf? p.asid p.tid p.tile = some e →
      (e.pub = true → e.gen = p.gen → e.seq = p.seq → o = done (u.published p)) ∧
      (e.pub = true → newer e.gen p.gen = true → o = done ((u.pruneSheaves).publishStale p e.gen)) ∧
      (¬(e.pub = true ∧ ((e.gen = p.gen ∧ e.seq = p.seq) ∨ newer e.gen p.gen = true)) → (∀ w ∈ s.waiters, w.linked p.asid p.tid p.tile = false) →
        ∃ (v : State), o = done (v.published p) ∧ v.fab = s.fab ∧ v.sheaf? p.asid p.tid p.tile = some { e with
          gen := p.gen, seq := p.seq, pub := true, ngen := if e.pub = true ∧ e.gen = p.gen then min 65535 (e.ngen + 1) else 1 })) ∧
    (s.sheaf? p.asid p.tid p.tile = none →
      (u.newSheaf p.k p.tid p.tile = none → o = done ((u.bumpSat (.sheafStat p.k) 16 16).published p)) ∧
      ((u.newSheaf p.k p.tid p.tile).isSome = true → (∀ w ∈ s.waiters, w.linked p.asid p.tid p.tile = false) → ∃ (v : State) (e : Sheaf),
        o = done (v.published p) ∧ v.sheaf? p.asid p.tid p.tile = some e ∧ e.gen = p.gen ∧ e.seq = p.seq ∧ e.pub = true ∧ e.ngen = 1))

/-- R196, R348, R352: a publish at the generation that a waiter expects counts one of its input down, and makes the waiter ready when every
input is complete; at an older expectation it raises SHEAF_STALE against the waiter, and one too many SHEAF_UNDERFLOW. -/
def Sys2Proof.Claims.PublishesReachWaiters : Prop :=
  ∀ (s : State) (p : Publish) (e : Sheaf) (w : Waiter) (i : Nat) (x : WInput), (s.pubs.drop s.arg.n).head? = some p →
    s.publishDue p ≤ s.cyc → s.entryBusy p.asid p.tid p.tile (s.publishDue p) [0, p.seq] = false → (s.freeTrapIndex p.k).isSome = true → p.asid = s.asid p.k → s.sheaf? p.asid p.tid p.tile = some e → e.pub = false →
    s.waiters.filter (fun y => y.linked p.asid p.tid p.tile) = [w] → (s.waiters.map Waiter.id).Nodup → w.kind ≠ 3 → (∀ z ∈ s.insts, z.graph = false) →
    w.inputs[i]? = some x → x.reg = true → x.tid = p.tid → x.tile = p.tile →
    (∀ j y, j ≠ i → w.inputs[j]? = some y → ¬(y.reg = true ∧ y.tid = p.tid ∧ y.tile = p.tile)) → (s.freeTrapIndex w.k).isSome = true →
    ∃ (t : State) (y : Waiter), exec .sheafPublishApply s = .next t ∧ y ∈ t.waiters ∧ y.id = w.id ∧
      (x.egen = p.gen → 0 < x.cnt → y.inputs[i]? = some { x with cnt := x.cnt - 1 } ∧ t.traps = s.traps ∧
        (y.ready = true ↔ w.ready = true ∨ (w.fault = false ∧ x.cnt = 1 ∧ ∀ j z, j ≠ i → w.inputs[j]? = some z → z.reg = true ∧ z.cnt = 0))) ∧
      (x.egen = p.gen → x.cnt = 0 → y = w ∧ ∃ r ∈ t.traps, r.k = w.k ∧ r.tcode = tcSheafUnderflow ∧ r.cls = .W ∧ r.hold = .waiter w.id i) ∧
      (newer p.gen x.egen = true → y.fault = true ∧ y.inputs = w.inputs ∧ ∃ r ∈ t.traps, r.k = w.k ∧ r.tcode = tcSheafStale ∧ r.cls = .W ∧
        r.hold = .waiter w.id i)

/-- R349, R350: an input of a waiter is registered at its entry with the publishes that are still to come; an entry at a newer generation
raises SHEAF_STALE, and one with more publishes than expected SHEAF_UNDERFLOW. -/
def Sys2Proof.Claims.InputsRegister : Prop :=
  ∀ (s : State) (w : Waiter) (i : WInput) (e : Sheaf), (s.waiters.drop s.arg.n).head? = some w → (w.inputs.drop s.arg.m).head? = some i →
    i.reg = false → s.registerDue w i ≤ s.cyc → s.entryBusy w.asid i.tid i.tile (s.registerDue w i) [1, w.id] = false →
    (s.freeTrapIndex w.k).isSome = true →
    w.asid = s.asid w.k → w.kind ≠ 3 → s.sheaf? w.asid i.tid i.tile = some e → (s.waiters.map Waiter.id).Nodup → (∀ z ∈ s.insts, z.graph = false) →
    let stale := e.pub = true ∧ newer e.gen i.egen = true
    let same := e.pub = true ∧ e.gen = i.egen
    ∃ (t : State) (y : Waiter), exec .sheafRegisterApply s = .next t ∧ y ∈ t.waiters ∧ y.id = w.id ∧
      y.inputs[s.arg.m]? = some { i with reg := true, link := s.fresh, cnt := if same then i.count - e.ngen else i.count } ∧
      (y.fault = true ↔ w.fault = true ∨ stale) ∧ t.sheaves = s.sheaves ∧
      (stale → ∃ r ∈ t.traps, r.k = w.k ∧ r.tcode = tcSheafStale ∧ r.cls = .W) ∧
      (same → i.count < e.ngen → ∃ r ∈ t.traps, r.k = w.k ∧ r.tcode = tcSheafUnderflow ∧ r.cls = .W) ∧
      (¬stale → ¬(same ∧ i.count < e.ngen) → t.traps = s.traps)

/-- R346, R353: SHEAF_RET frees the entries of its tensor that no waiter is linked to; SHEAF_OVF is written unless the context holds
something spilled or LOG2CAP is neither 0 nor 7 to 24. R200: a barrier is examined again for each BARWAIT that waits. -/
def Sys2Proof.Claims.SheafRegisters : Prop :=
  ∀ (s : State),
    (∃ (t : State), exec .sheafRetWrite s = .next t ∧ SameMemory s t ∧ t.waiters = s.waiters ∧
      ∀ e, e ∈ t.sheaves ↔ e ∈ s.sheaves ∧ ¬(e.asid = s.asid s.arg.k ∧ e.tid = bitsAt s.arg.val.toNat 0 60 ∧
        ∀ w ∈ s.waiters, w.linked e.asid e.tid e.tile = false)) ∧
    (let l := bitsAt s.arg.val.toNat 59 5
     let ok := s.ovfUsed s.arg.k = 0 ∧ (l = 0 ∨ (7 ≤ l ∧ l ≤ 24))
     let v := s.writeReg (.sheafOvf s.arg.k) s.arg.val
     (ok → l = 0 → exec .sheafOvfWrite s = .next v) ∧
     (ok → l ≠ 0 → ∃ (t : State), exec .sheafOvfWrite s = .next t ∧ t.regs = v.regs ∧ t.fab = s.fab ∧ t.sheaves = s.sheaves ∧ t.waiters = s.waiters) ∧
     (¬ok → exec .sheafOvfWrite s = .next s)) ∧
    (∀ a p st x, CanPerform s a p st x → a.kind = .barWait → a.pos = 0 → a.operand = false → DistinctIds s →
      let b := s.bar st x
      (b.armed = true → b.done = true → b.failed = false → ∃ (t : State), exec .barwaitServe s = .next t ∧
        AccessNow s t (answered a p a.flags b.gen false) ∧ SameMemory s t) ∧
      (b.armed = true → b.done = false → exec .barwaitServe s = .next s) ∧
      (b.armed = true → b.done = true → b.failed = true → exec .barwaitServe s = .next (s.accessTrap a { code := tcBarFault, aux0 := p.addr })) ∧
      (b.armed = false → ∃ c : Cause, c.code = tcBarState ∧ c.aux0 = p.addr ∧ exec .barwaitServe s = .next (s.accessTrap a c)))

/-! Edge queues and core programs. -/

/-- R221, R222: the head of an input edge queue moves into the gather entry that it is bound to, or into the slot of its region's MMAC while
that has room; a value whose slot is taken raises DUP_TOKEN. -/
def Sys2Proof.Claims.EdgeQueuesDeliver : Prop :=
  ∀ (s : State) (e : EqTok) (k : Tok), (s.edge s.arg.u false s.arg.n).head? = some e → e.tok = some k →
    (∀ t ∈ s.traps, t.hold ≠ .edge e.barn e.q) → s.live e.k (.barn e.barn) = true → s.gatedPart e.barn = false →
    let x : Value := { blk := ((s.inst? e.k e.v).map Inst.base).getD 0 + e.bind.tgt.toNat * 64, tag := k.tag, dep := k.dep, ent := e.bind.ent, tok := k }
    let d : Delivery := { k := e.k, v := e.v, vals := [x], core := some ⟨e.barn, false⟩, ready := s.cyc }
    (e.bind.kind = 1 → s.gatherRoom e.k e.v x = true → s.headerWait d x = none → s.dupValue d x = false →
      exec .edgeQueueDeliver s = .next (putValue d (s.dropEdge e) x).readyGathers ∧
      (putValue d (s.dropEdge e) x).fab.eqs = dropFirst (fun y => decide (y.barn = e.barn) && !y.out && decide (y.q = e.q)) s.fab.eqs ∧
      (x.blk ≠ 0 → x.ent < 16 → (∀ g ∈ s.gathers, g.vals.length = 16) → ∃ g ∈ (putValue d (s.dropEdge e) x).gathers, g.k = e.k ∧ g.v = e.v ∧ g.blk = x.blk ∧
        g.tag = k.tag ∧ g.dep = k.dep ∧ g.vals[x.ent]? = some (some { k with after := [] }))) ∧
    (e.bind.kind = 1 → s.gatherRoom e.k e.v x = true → s.headerWait d x = none → s.dupValue d x = true →
      exec .edgeQueueDeliver s = .next (s.edgeTrap e { code := tcDupToken, slot := 0, aux0 := x.blk, aux1 := x.ent })) ∧
    (∀ r site h iext sw m ires, e.bind.kind ≠ 1 → s.byHandle e.k e.bind.tgt = some r → r.barn = e.barn →
      (∃ l ∈ s.fab.blocks, l.holder = .region r.barn r.r ∧ l.st = .serving) → s.mmacOf r = some (site, h, iext, sw, m, ires) →
      let sl : Slot := if e.bind.kind = 2 then .a else .b
      (sl = .b → iext = true ∨ s.targeted site .b = true) →
      ((s.queue site sl).length < 4 → ∃ (t : State) (q : QTok), exec .edgeQueueDeliver s = .next t ∧ t.queue site sl = s.queue site sl ++ [q] ∧ q.tok = k ∧
        t.fab.eqs = dropFirst (fun y => decide (y.barn = e.barn) && !y.out && decide (y.q = e.q)) s.fab.eqs ∧ SameMemory s t) ∧
      (4 ≤ (s.queue site sl).length → exec .edgeQueueDeliver s = .next s)) ∧
    (e.bind.kind ≠ 1 → s.byHandle e.k e.bind.tgt = none →
      exec .edgeQueueDeliver s = .next (s.edgeTrap e { code := tcMatrixHandle, aux0 := e.bind.tgt.toNat }))

/-- R218, R219, R220: a core starts the program of its instance's record with its number in a0, its barn in a1, its image in the
instruction store and its data from 0x1_0000 on; a record that breaks its layout raises LAUNCH_FORMAT; an ended program leaves a0. -/
def Sys2Proof.Claims.CoreProgramsRun : Prop :=
  ∀ (s : State),
    let id : CoreId := ⟨s.arg.u, s.arg.flag⟩
    (∀ i v r, s.servedBy id.barn = some i → (id.barn, id.storer) ∈ i.progs →
      (∀ c ∈ s.fab.cores, c.id.barn = id.barn → c.active = true → c.id ≠ id ∧ c.k = i.k ∧ c.v = i.v) → i.migr = [] → s.settling i = false →
      s.live i.k (.barn id.barn) = true → s.gatedPart id.barn = false →
      s.unitRead 0 i.k i.v (recField i.recBytes 0x20 8) 64 srcIo = (v, .ok r false) →
      (∀ w z code data pc pd, badCoreRecord r = none → bitsAt (recField r 2 1) (if id.storer then 1 else 0) 1 = 1 →
        let o := if id.storer then 0x18 else 0x08
        v.unitRead 0 i.k i.v (recField r o 8) (recField r (o + 8) 4) srcIo = (w, .ok code pc) →
        w.unitRead 0 i.k i.v (recField r 0x28 8) (recField r 0x30 4) srcIo = (z, .ok data pd) →
        ∃ (t : State) (x : Core), exec .coreProgramStart s = .next t ∧ x ∈ t.fab.cores ∧ x.id = id ∧ x.k = i.k ∧ x.v = i.v ∧ x.active = true ∧
          x.pc = BitVec.ofNat 32 (recField r (o + 12) 4) ∧ x.get 10 = BitVec.ofNat 32 i.v ∧ x.get 11 = BitVec.ofNat 32 (s.logicalBarn i.k id.barn) ∧
          (∀ n < 32, n ≠ 10 → n ≠ 11 → x.get n = 0) ∧ (∀ n, (h : n < code.length) → getCell x.istore n = code[n]) ∧
          (∀ n, (h : n < data.length) → getCell x.dmem (0x10000 + n) = data[n]) ∧ x.ld = 0 ∧ x.st = 0 ∧ x.cpy = 0 ∧ x.tt = 0) ∧
      (badCoreRecord r = none → bitsAt (recField r 2 1) (if id.storer then 1 else 0) 1 = 0 → ∃ (t : State), exec .coreProgramStart s = .next t ∧
        t.fab.cores = s.fab.cores ∧ (s.inst? i.k i.v = some i → ∃ j, t.inst? i.k i.v = some j ∧ (id.barn, id.storer) ∉ j.progs)) ∧
      (∀ n, badCoreRecord r = some n → (s.freeTrapIndex i.k).isSome = true → ∃ (t : State) (q : Trap), exec .coreProgramStart s = .next t ∧ q ∈ t.traps ∧
        q.k = i.k ∧ q.tcode = tcLaunchFormat ∧ q.aux0 = BitVec.ofNat 64 (recField i.recBytes 0x20 8) ∧ q.aux1 = BitVec.ofNat 64 n)) ∧
    (∀ x, s.core? id = some x → x.ending = true → x.stopped = false → s.live x.k (.barn id.barn) = true → s.gatedPart id.barn = false →
      (x.ld = 0 → x.st = 0 → x.cpy = 0 → x.tt = 0 → ∃ (t : State), exec .coreProgramEnd s = .next t ∧ (∀ c ∈ t.fab.cores, c.id ≠ id) ∧
        (∀ i, s.inst? x.k x.v = some i → ∃ j, t.inst? x.k x.v = some j ∧ j.exits = i.exits ++ [(id.storer, x.get 10)] ∧
          j.progs = i.progs.filter fun p => decide (p ≠ (id.barn, id.storer))) ∧ SameMemory s t) ∧
      (¬(x.ld = 0 ∧ x.st = 0 ∧ x.cpy = 0 ∧ x.tt = 0) → exec .coreProgramEnd s = .next s)) ∧
    (∀ a c pc q m, (s.fab.accs.drop s.arg.n).head? = some a → a.origin = .coreCount c pc q m → s.performed a = true → s.live a.k .ports = true →
      ∃ (t : State), exec .countedAccessDone s = .next t ∧ (∀ b ∈ t.fab.accs, b.id ≠ a.id) ∧ SameMemory s t ∧
        (∀ x, s.core? c = some x → ∃ y, t.core? c = some y ∧ y.x = x.x ∧ y.pc = x.pc ∧
          (q = none → y.st = x.st - 1 ∧ y.ld = x.ld) ∧ (q ≠ none → y.ld = x.ld - 1 ∧ y.st = x.st)) ∧
        (q = none → t.fab.eqs = s.fab.eqs) ∧
        (q ≠ none → ∀ e ∈ s.fab.eqs, e.id = m → e.tok = none → ∃ y ∈ t.fab.eqs, y.id = m ∧ y.q = e.q ∧ ∃ k, y.tok = some k ∧ k.tag = a.tag ∧
          k.dep = a.dep ∧ k.data = BitVec.ofNat 32 (respNat a.pieces) ∧ k.ty = e.bind.ty ∧ k.poi = respPoi a.pieces))

/-! Launch, placement, pre-emption, saves and restores. -/

/-- R333, R334, R335: a write of SCHED_QTAB installs the descriptors that the table holds; a doorbell moves TAIL, or is refused with
LQ_OVERRUN; a direct claim takes one record, whose instance it creates, or which raises LAUNCH_FORMAT. -/
def Sys2Proof.Claims.QueuesAreFed : Prop :=
  ∀ (s : State) (d : QDesc),
    let k := s.arg.k
    let q := s.arg.n
    (∀ v b p, bitsAt s.arg.val.toNat 0 60 ≠ 0 → s.unitRead 0 k 4096 (bitsAt s.arg.val.toNat 0 60) 2080 srcIo = (v, .ok b p) →
      ∃ (t : State), exec .schedQtabWrite s = .next t ∧ t.reg (.schedQtab k) = Reg.written (.schedQtab k) (v.reg (.schedQtab k)) s.arg.val ∧
        (∀ q < 65, t.qdesc? k q = some (queueDesc k q ((b.drop (32 * q)).take 32))) ∧ ∀ j ≠ k, ∀ q, t.qdesc? j q = v.qdesc? j q) ∧
    (bitsAt s.arg.val.toNat 0 60 = 0 → ∃ (t : State), exec .schedQtabWrite s = .next t ∧ ∀ q, t.qdesc? k q = none) ∧
    (q < 64 → s.qdesc? k q = some d →
      let v := s.arg.val.toNat % 2 ^ 32
      let n := (v + 2 ^ 32 - d.tail) % 2 ^ 32
      (d.en = true → n ≠ 0 → n ≤ 2 ^ d.log2n - d.count → ∃ (t : State), exec .doorbellWrite s = .next t ∧
        (t.qdesc? k q).map (fun e => (e.head, e.tail, e.base, e.log2n, e.en, e.direct)) = some (d.head, v, d.base, d.log2n, d.en, d.direct) ∧
        t.hostEvts = s.hostEvts) ∧
      (d.en = true → n = 0 → exec .doorbellWrite s = .next s) ∧
      (d.en = false ∨ 2 ^ d.log2n - d.count < n → exec .doorbellWrite s =
        .next (s.hostEvent { type := 2, slot := k, a := q, b := v, cyc := 0 }))) ∧
    (let v := s.flushBack k
     let mine := v.fab.accs.find? fun a => a.origin = .direct k q
     v.qdesc? k q = some d →
      (mine = none → v.claimable d = true → s.mck = none → (∀ e ∈ v.qtab, e.k = k → e.q < q → v.claimable e = false) →
        ∃ (w : State) (a : Access), exec .directClaim s = .next (issued w a) ∧ a.origin = .direct k q ∧ a.kind = .read ∧ a.sc = .sys ∧
          a.pieces = (List.range 64).map (fun j => { addr := d.slotAt d.head + 4 * j, size := 4, mask := 2 ^ 32 - 1, data := 0 }) ∧
          w.qdesc? k q = some { d with claimed := some s.cyc } ∧ w.fab = v.fab) ∧
      (∀ a y got, mine = some a → (∀ c, a.trans ≠ .failed c) → v.performed a = true → respPoi a.pieces = false →
        let r := respBytes a.pieces
        v.kernelOf k 4096 (recField r 8 8) (recField r 4 2) = (y, got) → got ≠ .wait →
        let head := fun (t : State) => (t.qdesc? k q).map QDesc.head = some ((d.head + 1) % 2 ^ 32)
        (∀ g n, got = .info g → badLaunch r got true = none → y.freeInvocation k = some n → ∃ (t : State) (i : Inst),
          exec .directClaim s = .next t ∧ head t ∧ i ∈ t.insts ∧
          i.k = k ∧ i.v = n ∧ i.recBytes = r ∧ i.recAt = d.slotAt d.head ∧ (recField r 6 1 = 0 → i.ready = some s.cyc)) ∧
        (∀ o, badLaunch r got true = some o → (y.freeTrapIndex k).isSome = true → ∃ (t : State) (z : Trap), exec .directClaim s = .next t ∧
          head t ∧ z ∈ t.traps ∧ z.tcode = tcLaunchFormat ∧ z.aux0 = BitVec.ofNat 64 q ∧ z.aux1 = BitVec.ofNat 64 (d.head % 2 ^ d.log2n) ∧
          z.aux2 = BitVec.ofNat 32 o ∧ z.cls = .E ∧ t.insts = y.insts)))

/-- R338, R340: in a placement turn the engine places the first ready instance, in rank order, that its barns admit; none passes an aged
one. Its slot's allocations are scrubbed in the barns that it newly enters, and its handlers are installed. -/
def Sys2Proof.Claims.PlacementTurns : Prop :=
  ∀ (s : State), s.cyc % 8 = 0 → s.mck = none → s.turnAt ≠ some s.cyc →
    let z : State := { s.endPreempt with turnAt := some s.cyc }
    let l := z.insts.filter z.inReadyQueue
    let chosen := z.firstPlaceable (l.length + 1) l
    (∀ i bs, chosen = some (i, bs) → i ∈ l ∧ z.barnsFor i false = some bs ∧
      ∀ j ∈ l, lexLess (z.readyRank j) (z.readyRank i) = true → z.barnsFor j false = none ∧ z.agedInst j = false) ∧
    (∀ i bs, z.barnsFor i false = some bs → (∀ b ∈ bs, z.barnAdmits i.k b false = true) ∧ (z.bset i ≠ [] → bs = z.bset i) ∧
      (z.bset i = [] → bs.length = recField i.recBytes 0x18 1 ∧ bs.Nodup)) ∧
    (∀ i bs v h, chosen = some (i, bs) → recField i.recBytes 0x28 8 = 0 →
      handlerBlocks i.k i.v i.nblk i.entry (z.countTurns (if bestOf z.readyRank l = some i then none else bestOf z.readyRank l)) = (v, some h) →
      ∃ (t : State) (y : Inst), exec .placementTurn s = .next t ∧ y ∈ t.insts ∧ y.k = i.k ∧ y.v = i.v ∧ y.placed = some v.cyc ∧ y.barns = bs ∧
        (∀ x ∈ t.handlersOf i bs h, x ∈ t.fab.handlers) ∧
        ∀ b ∈ bs, (v.placedIn b).contains i.k = false → ∃ c ∈ t.scrubs, c.barn = b ∧ c.k = i.k ∧ c.weight = false) ∧
    (chosen = none → exec .placementTurn s = .next (z.countTurns (bestOf z.readyRank l)))

/-- R337: at the end of a window each instance that is no graph, and that computed or moved bytes, is compute-bound or memory-bound in
it; its class is its first window's, and changes after two windows running of the other class. -/
def Sys2Proof.Claims.WindowsClassify : Prop :=
  ∀ (s : State), s.cyc % 65536 = 0 → ∃ (t : State), exec .winnowWindowEnd s = .next t ∧ SameMemory s t ∧
    t.insts.length = s.insts.length ∧ ∀ (n : Nat) (i : Inst), s.insts[n]? = some i → ∃ (c : Nat) (o : Bool),
      t.insts[n]? = some { i with ops := 0, bytes := 0, cls := c, other := o } ∧
      (i.graph = true ∨ (i.ops = 0 ∧ i.bytes = 0) → c = i.cls ∧ o = i.other) ∧
      ∀ w, i.graph = false → (i.ops ≠ 0 ∨ i.bytes ≠ 0) →
        (w = 1 ∧ s.regField .winCfg 0 16 * i.bytes ≤ i.ops * 16) ∨ (w = 2 ∧ i.ops * 16 < s.regField .winCfg 0 16 * i.bytes) →
        (i.cls = 0 ∨ i.cls = w ∨ i.other = true → c = w ∧ o = false) ∧
        (i.cls ≠ 0 → i.cls ≠ w → i.other = false → c = i.cls ∧ o = true)

/-- R336: the Reeve gives up its context after 64 cycles without a ready entry of it, or after 64 invocations while an older entry of
another waits; drained of all but invocations that wait, it takes the context whose oldest entry or finished wait ranks first. -/
def Sys2Proof.Claims.ReeveChooses : Prop :=
  ∀ (s : State),
    (∀ k, s.reeveK = some k → (∀ x ∈ s.fab.spaces, x.holder ≠ .reeve) →
      ((∀ g ∈ s.reeveReady, g.k ≠ k) ∧ s.reeveLast + 64 ≤ s.cyc) ∨
        (64 ≤ s.reeveTaken ∧ ∃ g ∈ s.reeveReady, g.k ≠ k ∧ g.from + 16384 ≤ s.cyc) →
      exec .reeveRelease s = .next { s with reeveClose := true }) ∧
    (s.reeveK = none → exec .reeveRelease s = .next s) ∧
    (let v := s.drain
     (∀ i ∈ v.fab.invocs, i.holder = .reeve → v.onlyWaits i = true) → (v.reeveK = none ∨ v.reeveClose = true) →
      (∀ g, bestOf v.reeveRank v.reeveOldest = some g → (∀ h ∈ v.reeveOldest, lexLess (v.reeveRank h) (v.reeveRank g) = false) ∧
        (∀ h ∈ v.rivals, h.k = g.k → g.from_ ≤ h.from_) ∧
        ∃ (t : State), exec .reeveSelect s = .next t ∧ t.reeveK = some g.k ∧ t.reeveTaken = 0 ∧ t.reeveClose = false ∧
          ∀ b ∈ t.fab.blocks, b.holder = .reeve → b.k = g.k ∨ ∃ i ∈ v.fab.invocs, i.holder = .reeve ∧ i.blk = b.blk ∧ i.k = b.k) ∧
      (v.reeveOldest = [] → exec .reeveSelect s = .next v))

/-- R374 to R378: the first ready instance, unplaced for 64 turns, makes one slot of each full barn that it needs give way: victims take no
pre-emption bar and hold lower priorities only; killed instances end at once, and the rest are checkpointed when their drained ones
have ended or at the deadline. -/
def Sys2Proof.Claims.Preempts : Prop :=
  ∀ (s : State) (n : Inst) (bs : List Nat),
    let w := 4096 * recField n.recBytes 7 1
    let full := bs.filter fun b => !(s.placedIn b).contains n.k && decide (8 ≤ (s.placedIn b).length)
    (∀ b k, s.victimIn n b = some k → k ∈ s.placedIn b ∧ s.regField (.schedPre k) 30 1 = 0 ∧ ∀ i ∈ s.insts, i.k = k → i.prio < n.prio) ∧
    (s.preempt = none → bestOf s.readyRank (s.insts.filter s.inReadyQueue) = some n → s.barnsFor n false = none →
      s.barnsFor n true = some bs → w ≠ 0 → 64 ≤ n.turns →
      ((∀ b ∈ full, (s.victimIn n b).isSome = true) → ∃ (t : State) (p : Preempt), exec .preemptRequest s = .next t ∧ t.preempt = some p ∧
        p.k = n.k ∧ p.v = n.v ∧ p.dueAt = s.cyc + w ∧ (∀ k, k ∈ p.victims ↔ ∃ b ∈ full, s.victimIn n b = some k) ∧
        ∀ k ∈ p.victims, ∀ i ∈ s.running k, (s.fate i w = .drain → (i.k, i.v) ∈ p.drains) ∧
          (s.fate i w = .kill → ∃ y ∈ t.insts, y.k = i.k ∧ y.v = i.v ∧ y.outc = 3)) ∧
      ((∃ b ∈ full, s.victimIn n b = none) → exec .preemptRequest s = .next s)) ∧
    (∀ p, s.preempt = some p → exec .preemptRequest s = .next s ∧ ∃ (t : State), exec .preemptDeadline s = .next t ∧
      ∀ k ∈ p.victims, s.running k ≠ [] → (s.drainedOut p k = true ∨ p.dueAt ≤ s.cyc) → s.ctxState k = 0 →
        t.ctxState k = 1 ∧ ∃ x ∈ t.stops, x.k = k ∧ x.frozen = []) ∧
    (s.preempt = none → exec .preemptDeadline s = .next s)

/-- R381: a checkpoint is accepted in state 0 with a placement, a restore in state 3, a release in state 3 or in state 0 with no
instance; any other command sets ERR and has no other effect. A release ends everything of the slot. -/
def Sys2Proof.Claims.ContextCommands : Prop :=
  ∀ (s : State),
    let k := s.arg.k
    let fresh := ((s.stop? k).map Stop.ovf).getD false = false
    let refused := fun (o : Host.Outcome State Fault Refusal) => ∃ (t : State), o = .next t ∧ t.regField (.ctxRun k) 24 1 = 1 ∧
      t.ctxState k = s.ctxState k ∧ { t with regs := s.regs } = s
    (fresh → s.ctxState k = 0 → s.hasPlacement k = true → ∃ (t : State), exec .ctxCheckpoint s = .next t ∧ t.ctxState k = 1 ∧
      (∃ x ∈ t.stops, x.k = k ∧ x.frozen = []) ∧ t.fab = s.fab ∧ SameMemory s t) ∧
    (fresh → s.ctxState k ≠ 0 ∨ s.hasPlacement k = false → refused (exec .ctxCheckpoint s)) ∧
    (∀ x, s.stop? k = some x → x.ovf = true → ∃ (t : State), exec .ctxCheckpoint s = .next t ∧ t.stop? k = some { x with ovf := false } ∧
      t.ctxState k = s.ctxState k) ∧
    (s.ctxState k = 3 → ∃ (t : State), exec .ctxRestore s = .next t ∧ t.ctxState k = 2 ∧ ∀ x ∈ t.saved, x.k = k → x.restoring = true) ∧
    (s.ctxState k ≠ 3 → refused (exec .ctxRestore s)) ∧
    (k < 32 → s.ctxState k = 3 ∨ (s.ctxState k = 0 ∧ ∀ i ∈ s.insts, i.k ≠ k) → (s.insts.map fun i => (i.k, i.v)).Nodup →
      ∃ (t : State), exec .ctxRelease s = .next t ∧ t.ctxState k = 0 ∧ (∀ x ∈ t.traps, x.k ≠ k) ∧ (∀ p ∈ t.pfaults, p.k ≠ k) ∧
        (∀ e ∈ t.sheaves, e.asid ≠ s.asid k) ∧ (∀ w ∈ t.waiters, w.asid ≠ s.asid k) ∧ (∀ x ∈ t.saved, x.k ≠ k) ∧
        ∀ i ∈ t.insts, i.k = k → i.done = true ∨ i.outc ≠ 0) ∧
    (s.ctxState k = 1 ∨ s.ctxState k = 2 ∨ (s.ctxState k = 0 ∧ ∃ i ∈ s.insts, i.k = k) → refused (exec .ctxRelease s))

/-- R379: a unit that receives a stop request freezes the slot; once every unit that holds state of it is frozen and its accesses are
answered, the save begins. -/
def Sys2Proof.Claims.StopsSpread : Prop :=
  ∀ (s : State) (x : Stop),
    let k := s.arg.k
    let u := s.arg.stop
    s.stop? k = some x → s.ctxState k = 1 → k < 32 →
    (x.frozen.contains u = false → s.patchBusy k u = false → (u = .engines → s.midPiece k = false) → ∃ (t : State),
      exec .stopRequestReceive s = .next t ∧ (t.stop? k).map Stop.frozen = some (x.frozen ++ [u]) ∧ t.live k u = false ∧
      ((∀ i ∈ s.fab.invocs, i.k ≠ k) → (∀ w ∈ s.fab.waits, w.k ≠ k) → SameMemory s t)) ∧
    (x.frozen.contains u = true ∨ (u = .engines ∧ s.midPiece k = true) → exec .stopRequestReceive s = .next s) ∧
    (x.freeze = false → (∀ u ∈ s.stopUnits k, x.frozen.contains u = true) → (∀ a ∈ s.fab.accs, a.k = k → s.inFlight a = false) →
      exec .stopComplete s = .next (s.setCtxState k 2) ∧ (s.setCtxState k 2).ctxState k = 2) ∧
    ((∃ u ∈ s.stopUnits k, x.frozen.contains u = false) → exec .stopComplete s = .next s)

/-- R381, R382: a save writes the image at the save area and leaves the slot saved with no placement; one that would pass the area stops
with OVF and SAVE_OVF. -/
def Sys2Proof.Claims.SavesWrite : Prop :=
  ∀ (s : State) (x : Stop),
    let k := s.arg.k
    let img := s.saveImage k
    let base := s.regField (.ctxSave k) 12 32 * 2 ^ 12
    let fits := img.length ≤ s.regField (.ctxSave k) 44 20 * 2 ^ 20
    img.take 5 = [0x58, 0x54, 0x43, 0x59, 4] ∧ (img.drop 6).take 1 = leBytes 1 k ∧
    (s.stop? k = some x → s.ctxState k = 2 → x.ovf = false →
      (fits → reservedPa base = false → reservedPa (base + img.length - 1) = false → ∃ (t : State), exec .saveComplete s = .next t ∧
        t.ctxState k = 3 ∧ (∀ st a, physical base = some (st, a) → ∀ i, (h : i < img.length) → getCell (t.cells st) (a + i) = img[i]) ∧
        (∀ i ∈ t.insts, i.k = k → i.placed = none) ∧ (∃ y ∈ t.saved, y.k = k ∧ y.asid = s.asid k) ∧ t.stop? k = none) ∧
      (¬fits → ∃ (t : State), exec .saveComplete s = .next t ∧ t.regField (.ctxRun k) 25 1 = 1 ∧ t.ctxState k = 2 ∧
        t.regField .hostEvt 3 1 = 1 ∧ t.stop? k = some { x with ovf := true } ∧ t.fab = s.fab ∧ SameMemory s t)) ∧
    (s.stop? k = none → exec .saveComplete s = .next s)

/-- R384: a restore whose ASID or allocations no longer hold sets ERR and keeps the image; one that its barns admit puts the context back
on units in state 0, and one that they do not admit yet waits. -/
def Sys2Proof.Claims.RestoresReturn : Prop :=
  ∀ (s : State) (x : Saved),
    let k := s.arg.k
    let base := s.regField (.schedQtab k) 0 60
    s.saved.find? (fun x => decide (x.k = k) && x.restoring) = some x →
    (s.restorable x = false → ∃ (t : State), exec .restoreComplete s = .next t ∧ t.regField (.ctxRun k) 24 1 = 1 ∧ t.ctxState k = 3 ∧
      { x with restoring := false } ∈ t.saved ∧ t.fab = s.fab ∧ SameMemory s t) ∧
    (∀ v q z, s.restorable x = true → s.readQtab k base = (v, some q) → v.putBack x = some z → ∃ (t : State),
      exec .restoreComplete s = .next t ∧ t.ctxState k = 0 ∧ (∀ y ∈ t.saved, y.k ≠ k) ∧ t.fab = z.fab ∧ SameMemory z t) ∧
    (∀ v q, s.restorable x = true → s.readQtab k base = (v, some q) → v.putBack x = none → exec .restoreComplete s = .next v) ∧
    (s.restorable x = true → (s.asid? k = some x.asid ∧ ∀ m ∈ x.scr, m.size ≤ s.regField (.spadAlloc (s.physBarn k m.barn) k) 8 6))

/-! Peer links, image loads and traps. -/

/-- R394, R395, R396: a port takes a flit with the expected sequence number, a sound CRC and a known TYPE, with its acknowledgement,
credits and chunk, and counts any other in ERRS; what a failed boundary caught comes later, once. -/
def Sys2Proof.Claims.FlitsArrive : Prop :=
  ∀ (s : State) (d : BitVec 2048),
    let p := s.arg.u
    let b := flitBytes d
    let x := s.port p
    let good := recField b 0xF8 8 = (Config.crc64 (b.take 0xF8)).toNat ∧ recField b 4 4 = x.expect ∧ recField b 0 1 < 4
    let errs := s.regField (.linkStat p) 0 16
    (s.arg.data = some d → s.portUp p = true → good → ∃ (t : State), exec .flitReceive s = .next t ∧
      (t.ports.find? fun y => decide (y.p = p)).map Port.expect = some ((x.expect + 1) % 2 ^ 32) ∧ t.regs = s.regs ∧
      (∀ y ∈ (t.port p).unacked, 2 ^ 31 ≤ (recField b 8 4 + 2 ^ 32 - y.seq) % 2 ^ 32) ∧
      (recField b 0 1 = 1 → s.collEnded (recField b 0x10 4) (recField b 0x14 4) = false → ∃ c ∈ t.chunks, c.grp = recField b 0x10 4 ∧
        c.cseq = recField b 0x14 4 ∧ c.rank = recField b 0x18 1 ∧ c.off = recField b 0x1C 4) ∧
      (recField b 0 1 ≠ 1 ∨ s.collEnded (recField b 0x10 4) (recField b 0x14 4) = true → t.chunks = s.chunks)) ∧
    (s.arg.data = some d → s.portUp p = true → ¬good → ∃ (t : State), exec .flitReceive s = .next t ∧ { t with regs := s.regs } = s ∧
      t.regField (.linkStat p) 0 16 = if errs = 65535 then errs else errs + 1) ∧
    (s.arg.data = some d → s.portUp p = false → exec .flitReceive s = .next s) ∧
    (∀ q y, (s.pubs.drop s.arg.n).head? = some q → (s.delivs.drop s.arg.m).head? = some y → ∃ (t : State),
      exec .ucieBoundaryFail s = .next t ∧
      (s.arg.flag = true → t.pubs = putAt s.pubs s.arg.n { q with ready := max q.ready (s.cyc + s.arg.j) }) ∧
      (s.arg.flag = false → ∃ z, t.pubs = s.pubs ++ [z] ∧ z.seq = q.seq ∧ z.tid = q.tid ∧ z.tile = q.tile ∧ z.gen = q.gen) ∧
      t.delivs = putAt s.delivs s.arg.m { y with ready := max y.ready (s.cyc + s.arg.j) } ∧ t.fab = s.fab ∧ SameMemory s t)

/-- R396, R397: without an acknowledgement for 4,800 cycles a port resends, and after eight replays it goes down with LINK_DOWN; a write
of UP starts training or takes it down, and a trained port is in service with all its credits. -/
def Sys2Proof.Claims.PortsServe : Prop :=
  ∀ (s : State),
    let p := s.arg.u
    let x := s.port p
    let downs := s.regField (.linkStat p) 16 8
    let down := fun (t : State) => t.portUp p = false ∧ t.regField (.linkStat p) 16 8 = (if downs = 255 then downs else downs + 1) ∧
      (t.port p).training = false ∧ SameMemory s t
    let late := s.portUp p = true ∧ x.unacked ≠ [] ∧ x.lastAck + 4800 ≤ s.cyc
    (late → x.replays < 8 → exec .linkReplayTimeout s = .next (s.setPort { x with replays := x.replays + 1, lastAck := s.cyc })) ∧
    (late → 8 ≤ x.replays → ∃ (t : State), exec .linkReplayTimeout s = .next t ∧ down t ∧ t.regField .hostEvt 4 1 = 1) ∧
    (s.portUp p = true → (x.unacked = [] ∨ s.cyc < x.lastAck + 4800) → exec .linkReplayTimeout s = .next s) ∧
    (s.portUp p = true → exec .linkTrain s = .next s ∧ ∃ (t : State), exec .linkTakeDown s = .next t ∧ down t) ∧
    (s.portUp p = false → exec .linkTrain s = .next (s.setPort { x with training := true }) ∧
      exec .linkTakeDown s = .next (s.setPort { x with training := false })) ∧
    (x.training = true → ∃ (t : State) (y : Port), exec .linkTrained s = .next t ∧ t.portUp p = true ∧
      t.ports.find? (fun y => decide (y.p = p)) = some y ∧ y.unacked.map Sent.chunk = x.unacked.map Sent.chunk ∧ y.expect = 0 ∧
      y.next = x.unacked.length ∧ y.cred0 = 128 - x.unacked.length ∧ y.cred1 = 128 ∧ y.replays = 0 ∧ y.training = false) ∧
    (x.training = false → exec .linkTrained s = .next s)

/-- A load request at the head of the queue ends with a STATUS (R404, R405): its record at RES begins with it, DONE advances, and
IMG_DONE is raised. -/
def Sys2Proof.Claims.LoadEnded (o : Host.Outcome State Fault Refusal) (s : State) (r : LoadReq) (code : Nat) (p : State → Prop) : Prop :=
  reservedPa r.res = false → ∃ (t : State), o = .next t ∧ t.loadq = s.loadq.drop 1 ∧ t.regField .hostEvt 5 1 = 1 ∧
    t.regField .imgStat 0 32 = (s.regField .imgStat 0 32 + 1) % 2 ^ 32 ∧ t.regField .imgStat 32 5 = (s.loadq.drop 1).length % 32 ∧
    (∀ st a, physical r.res = some (st, a) → ∀ i < 2, getCell (t.cells st) (a + i) = BitVec.ofNat 8 (code / 256 ^ i)) ∧ p t

/-- R403, R404, R405: the request at the head is refused with STATUS 1, ends at the first failed check with its code, or enters its
image in the slot's table of 64; an unload takes the image out unless an instance names it. -/
def Sys2Proof.Claims.LoadsPlace : Prop :=
  ∀ (s : State) (pa : Nat),
    let b := s.readPaB pa 64
    let r := loadReq b
    s.loadq.head? = some pa → s.loadFault = none → s.loadFailed = false → reservedPa pa = false →
    let same := fun (t : State) => t.images = s.images
    let placed := fun (o : Host.Outcome State Fault Refusal) (x : State) (img : List Byte) =>
      let fails := imageFails img (x.regField .belId 40 8) x.slots fun l => Config.handlerDecl (r.dst + l.blk) % 64
      let others := s.images.filter fun i => !(i.k = r.k && i.base = r.dst)
      let full := 64 ≤ (others.filter fun i => i.k = r.k).length
      (∀ f, firstFail fails = some f → f ∈ fails ∧ (∀ g ∈ fails, f.1 * 2 ^ 64 + f.2 ≤ g.1 * 2 ^ 64 + g.2) ∧
        Claims.LoadEnded o s r f.1 same) ∧
      (firstFail fails = none → full → Claims.LoadEnded o s r 13 same) ∧
      (firstFail fails = none → ¬full → Claims.LoadEnded o s r 0 fun t =>
        t.images = others ++ [{ k := r.k, base := r.dst, len := img.length, minr := recField img 5 1 }])
    (badRequest b = true → Claims.LoadEnded (exec .loadNative s) s r 1 same ∧ Claims.LoadEnded (exec .loadPekor s) s r 1 same ∧
      Claims.LoadEnded (exec .unload s) s r 1 same) ∧
    (badRequest b = false → r.op = 1 → ∀ v w x img img' p p', r.len ≤ r.dlen → r.src = r.dst →
      s.unitRead 0 r.k 4096 r.src r.len srcIo = (v, .ok img p) →
      v.pagesOk r.k { r := true, w := true, x := true } (pageCount r.dst r.len) r.dst = (w, .ok) →
      w.unitRead 0 r.k 4096 r.dst r.len srcIo = (x, .ok img' p') → placed (exec .loadNative s) x img') ∧
    (badRequest b = false → r.op = 2 → ∀ v w x bytes img p srch,
      s.unitRead 0 r.k 4096 r.src r.len srcIo = (v, .ok bytes p) →
      v.pagesOk r.k { r := true, w := true, x := true } (pageCount r.dst r.dlen) r.dst = (w, .ok) →
      (badPekor bytes = true → Claims.LoadEnded (exec .loadPekor s) s r 14 same) ∧
      (badPekor bytes = false → w.translated bytes r.dst = (x, none) → Claims.LoadEnded (exec .loadPekor s) s r 15 same) ∧
      (badPekor bytes = false → w.translated bytes r.dst = (x, some (img, srch)) → img.length ≤ r.dlen →
        placed (exec .loadPekor s) (x.unitWrite 0 r.k 4096 r.dst img false srcIo).1 img)) ∧
    (badRequest b = false → r.op = 3 →
      let here := s.images.any fun i => i.k = r.k && i.base = r.dst
      let used := s.insts.any fun i => i.k = r.k && i.base = r.dst
      (here = true → used = false → Claims.LoadEnded (exec .unload s) s r 0 fun t =>
        t.images = s.images.filter fun i => !(i.k = r.k && i.base = r.dst)) ∧
      (here = false ∨ used = true → Claims.LoadEnded (exec .unload s) s r 16 same)) ∧
    (∃ (t : State), exec .tcFlush s = .next t ∧ t.tc = [] ∧ t.tcFlushing = false ∧ SameMemory s t)

/-- R423, R424, R429, R430, R442: a pending trap's word enters the channel queue that CTX_TRAPCH names while it has room, an emulated firing
the patch queue of a tile, and a trap without a channel goes to the host, which TRAP_HOST tells. -/
def Sys2Proof.Claims.TrapsDeliver : Prop :=
  ∀ (s : State) (t : Trap), s.byTrapIndex s.arg.k s.arg.n = some t → t.stage = .raised → s.ctxState t.k = 0 →
    (∀ a ∈ s.fab.accs, a.origin ≠ .trapRec t.k t.index) →
    (∀ x ∈ s.traps.takeWhile fun x => !(x.k = t.k && x.index = t.index), ¬(x.k = t.k ∧ x.cyc = t.cyc ∧ x.stage = .raised)) →
    let o := exec .trapWordEnqueue s
    let plain := ∀ f n, t.hold ≠ .emulation f n
    let told := ∃ (v : State), o = .next v ∧ v.byTrapIndex t.k t.index = some { t with stage := .host } ∧ v.regField .hostEvt 0 1 = 1 ∧
      v.fab = s.fab
    t.wordOf = BitVec.ofNat 32 (t.tcode * 2 ^ 16 + t.index) ∧
    (∀ b u ch, plain → s.trapDest t = some (b, u, ch) → s.chanCount b u (some ch) < 16 → ∃ (v : State) (c : ChanWord), o = .next v ∧
      v.fab = { s.fab with chans := s.fab.chans ++ [c] } ∧ c.barn = b ∧ c.tile = u ∧ c.ch = some ch ∧ c.k = t.k ∧ c.tok.data = t.wordOf ∧
      c.tok.dep = 0 ∧ tagK c.tok.tag = t.k % 32 ∧ v.byTrapIndex t.k t.index = some { t with stage := .channel }) ∧
    (∀ b u ch, plain → s.trapDest t = some (b, u, ch) → 16 ≤ s.chanCount b u (some ch) → o = .next s) ∧
    (plain → s.trapDest t = none → told) ∧
    (∀ f n u, t.hold = .emulation f n → t.toHost = false → s.firstTile t.k t.barn = some u → s.chanCount t.barn u none < 16 →
      ∃ (v : State) (c : ChanWord), o = .next v ∧ v.fab = { s.fab with chans := s.fab.chans ++ [c] } ∧ c.barn = t.barn ∧ c.tile = u ∧
        c.ch = none ∧ c.ops = f.emulated ∧ c.tok.data = t.wordOf ∧ c.tok.tag = f.tag ∧ c.tok.dep = f.dep) ∧
    (∀ f n, t.hold = .emulation f n → t.toHost = true ∨ s.firstTile t.k t.barn = none → told)

/-- R427, R429: a write of TRAP_RES resolves the pending trap that it names: ACT 0 fires a trapped set again, ACT 1 supplies its data,
and ACT 2 kills the instance; with none pending it sets ERR. -/
def Sys2Proof.Claims.TrapsResolve : Prop :=
  ∀ (s : State),
    let k := s.arg.k
    let d := BitVec.ofNat 32 (bitsAt s.arg.val.toNat 32 32)
    let gone := fun (v : State) (t : Trap) => ∀ x ∈ v.traps, ¬(x.k = t.k ∧ x.index = t.index)
    let erred := fun (o : Host.Outcome State Fault Refusal) => ∃ (v : State), o = .next v ∧ v.regField (.ctxRun k) 24 1 = 1 ∧
      { v with regs := s.regs } = s
    (s.byTrapIndex k (bitsAt s.arg.val.toNat 0 8) = none →
      erred (exec .trapResResume s) ∧ erred (exec .trapResSupply s) ∧ erred (exec .trapResKill s)) ∧
    (∀ t f, s.byTrapIndex k (bitsAt s.arg.val.toNat 0 8) = some t → t.cls = .F → t.hold = .firing f →
      (t.tcode ≠ tcDupToken → t.tcode ≠ tcUser → ∃ (v : State) (x : Machine.PSet), exec .trapResResume s = .next v ∧ x ∈ v.fab.sets ∧ gone v t ∧
        x.site = f.site ∧ x.tag = f.tag ∧ x.dep = f.dep ∧ x.a = f.a ∧ x.b = f.b ∧ x.c = f.c ∧ x.p = f.p ∧ x.done = some s.cyc) ∧
      (exec .trapResSupply s = .next ((s.freeTrap t).supply f d false)) ∧
      ((∃ i ∈ s.insts, i.k = t.k ∧ i.v = t.v) → ∃ (v : State) (i : Inst), exec .trapResKill s = .next v ∧ i ∈ v.insts ∧ i.k = t.k ∧ i.v = t.v ∧
        i.outc = 1 ∧ i.tcode = t.tcode ∧ gone v t)) ∧
    (∀ t, s.byTrapIndex k (bitsAt s.arg.val.toNat 0 8) = some t → t.cls = .E ∨ t.cls = .A →
      exec .trapResResume s = .next (s.freeTrap t) ∧ exec .trapResSupply s = .next (s.freeTrap t) ∧ gone (s.freeTrap t) t)

/-- R259, R260, R431: an item that waits for its context's limit raises STALL_AGE with its age, and its age restarts; while its alarm
is pending only the age restarts. A limit below 1,024 counts as 1,024, and 0 disables alarms. -/
def Sys2Proof.Claims.AlarmsRise : Prop :=
  ∀ (s : State),
    (∃ (t : State), exec .ctxStallimWrite s = .next t ∧ t.fab = s.fab ∧ SameMemory s t ∧
      t.stallLimit s.arg.k = let l := bitsAt s.arg.val.toNat 0 24; if l = 0 then none else some (max l 1024)) ∧
    (∀ x lim, s.stalled s.arg.item = some x → s.stallLimit x.k = some lim → s.ctxState x.k = 0 → s.hasFault x.k = false →
      let same := fun (t : Trap) => t.k = x.k ∧ t.tcode = tcStallAge ∧ t.srck = x.srck ∧ t.barn = x.barn ∧ t.unit = x.unit ∧ t.idx = x.idx ∧
        t.blk = x.blk ∧ t.tag = x.tag ∧ t.dep = x.dep ∧ t.slot = x.slot
      (x.since + lim ≤ s.cyc → (∀ t ∈ s.traps, ¬same t) → (s.freeTrapIndex x.k).isSome = true → ∃ (v : State) (r : Trap),
        exec .stallAge s = .next v ∧ r ∈ v.traps ∧ same r ∧ r.cls = .A ∧ r.aux0 = BitVec.ofNat 64 (min (s.cyc - x.since) (2 ^ 24 - 1)) ∧ SameMemory s v) ∧
      (x.since + lim ≤ s.cyc → (∃ t ∈ s.traps, same t) → exec .stallAge s = .next (s.restartAge s.arg.item)) ∧
      (s.cyc < x.since + lim → x.now = false → exec .stallAge s = .next s)) ∧
    (∀ x, s.stalled s.arg.item = some x → s.stallLimit x.k = none → exec .stallAge s = .next s)

/-! Freezes, the Gong, patch images and service. -/

/-- A freeze of a partition has begun in this cycle (R434): FRZ_CYC and FRZ_STAT say when and why, and FREEZE is raised. -/
def Sys2Proof.Claims.Freezes (s t : State) (p cause cls loc : Nat) : Prop :=
  (∃ f ∈ t.freezes, f.p = p ∧ f.at_ = s.cyc ∧ f.gated = false) ∧ t.reg (.frzCyc p) = BitVec.ofNat 64 s.cyc ∧
    t.regField (.frzStat p) 16 8 = cause ∧ t.regField (.frzStat p) 12 4 = cls ∧ t.regField (.frzStat p) 0 12 = loc % 2 ^ 12 ∧
    t.regField .hostEvt 6 1 = 1

/-- R432, R434: a corrected error counts in ERR_CE; an uncorrected one poisons what it touched, counts in ERR_UE and enters ERR_LOG; one of class 5, a failed check or a request
freezes its partition, and an I/O-die mismatch every one; a partition that freezes already keeps its registers. -/
def Sys2Proof.Claims.FaultsFreeze : Prop :=
  ∀ (s : State),
    let p := s.arg.n
    let cls := s.arg.u
    let cold := ∀ f ∈ s.freezes, f.p ≠ p
    (p < 65 → cold → (s.arg.m = 1 ∨ s.arg.m = 2 → ∃ (t : State), exec .hwFaultDetect s = .next t ∧ Claims.Freezes s t p s.arg.m 0 0) ∧
      (s.arg.m = 0 → s.arg.flag = false → cls = 5 → ∃ (t : State), exec .hwFaultDetect s = .next t ∧ Claims.Freezes s t p 0 5 s.arg.k) ∧
      ∃ (t : State), exec .mgmtFreezeRequest s = .next t ∧ Claims.Freezes s t p 3 0 0) ∧
    (p < 65 → ¬cold → (s.arg.m = 1 ∨ s.arg.m = 2 → exec .hwFaultDetect s = .next s) ∧ exec .mgmtFreezeRequest s = .next s) ∧
    (s.arg.m = 4 → ∃ (t : State), exec .hwFaultDetect s = .next t ∧ ∀ q < 65, ∃ f ∈ t.freezes, f.p = q) ∧
    (p < 64 → s.arg.m = 0 → s.arg.flag = true → cls ≤ 6 → ∃ (t : State), exec .hwFaultDetect s = .next t ∧ { t with regs := s.regs } = s ∧
      t.regField (.errCe p cls) 0 32 =
        if s.regField (.errCe p cls) 0 32 = 2 ^ 32 - 1 then 2 ^ 32 - 1 else s.regField (.errCe p cls) 0 32 + 1) ∧
    (p < 64 → s.arg.m = 0 → s.arg.flag = false → (∀ h ∈ s.hooks, ¬(h.kind = 1 ∧ h.scls = cls)) → ∃ (t : State), exec .hwFaultDetect s = .next t ∧
      (2 ≤ cls → cls ≤ 4 → t.regField (.errUe p cls) 0 32 =
        (if s.regField (.errUe p cls) 0 32 = 2 ^ 32 - 1 then 2 ^ 32 - 1 else s.regField (.errUe p cls) 0 32 + 1) ∧
        (∃ e, t.errLog.getLast? = some e ∧ e.unit = p ∧ e.cls = cls ∧ e.out = 0) ∧ t.freezes = s.freezes) ∧
      (cls = 2 → s.arg.k = 0 → ∀ q, (s.fab.queues.drop s.arg.j).head? = some q →
        t.fab.queues = putAt s.fab.queues s.arg.j { q with tok := { q.tok with poi := true } }) ∧
      (cls = 3 → s.arg.k = 0 → t.poisoned .wbuf (p * 2 ^ 21 + s.arg.val.toNat % 2 ^ 21) = true ∧ ∀ st, t.cells st = s.cells st) ∧
      (cls = 4 → ∀ e id, (s.fab.sbuf.drop s.arg.j).head? = some e → e.acc = some id → (∃ a ∈ s.fab.accs, a.id = id) →
        ∃ a ∈ t.fab.accs, a.id = id ∧ a.poi = true))

/-- R434, R459, R476: from the eighth cycle on the partition's clock is gated and its contexts are stopped; a resume, of a freeze by
request only, ungates it and lets them run; a kill releases its slots and scrubs it, and may fence its barn. -/
def Sys2Proof.Claims.FreezesEnd : Prop :=
  ∀ (s : State),
    let p := s.arg.n
    (∀ f, s.freezes.find? (fun f => decide (f.p = p)) = some f → f.gated = false →
      (f.at_ + 8 ≤ s.cyc → ∃ (t : State), exec .partitionClockGate s = .next t ∧ t.regField (.frzStat p) 31 1 = 1 ∧ t.frozenPart p = true ∧
        ∀ k ∈ s.placedPart p, s.ctxState k = 0 → t.ctxState k = 1 ∧ ∃ x ∈ t.stops, x.k = k ∧ x.freeze = true) ∧
      (s.cyc < f.at_ + 8 → exec .partitionClockGate s = .next s)) ∧
    ((∀ f ∈ s.freezes, f.p ≠ p) → exec .partitionClockGate s = .next s) ∧
    (s.frozenPart p = true → s.regField (.frzStat p) 16 8 = 3 → s.overtemp = false → ∃ (t : State), exec .frzResume s = .next t ∧
      (∀ f ∈ t.freezes, f.p ≠ p) ∧ t.regField (.frzStat p) 31 1 = 0 ∧ SameMemory s t ∧
      ∀ k x, k ∈ s.placedPart p → s.stop? k = some x → x.freeze = true → x.asked = false →
        (∀ q < 65, q ≠ p → ¬(s.frozenPart q = true ∧ k ∈ s.placedPart q)) → t.ctxState k = 0) ∧
    (s.frozenPart p = false ∨ s.regField (.frzStat p) 16 8 ≠ 3 ∨ s.overtemp = true → exec .frzResume s = .next s) ∧
    (s.frozenPart p = true → p < 64 → (s.insts.map fun i => (i.k, i.v)).Nodup →
      let killed := fun (t : State) => (∀ f ∈ t.freezes, f.p ≠ p) ∧ t.regField (.frzStat p) 31 1 = 0 ∧
        (∀ x, p * 2 ^ 22 ≤ x → x < p * 2 ^ 22 + 3145728 → getCell t.scr x = 0 ∧ ∀ g ∈ t.pres, ¬(p * 2 ^ 18 ≤ g ∧ g < p * 2 ^ 18 + 196608)) ∧
        (∀ x, p * 2 ^ 21 ≤ x → x < p * 2 ^ 21 + 2097152 → getCell t.wbuf x = 0) ∧
        ∀ i ∈ t.insts, i.k ∈ s.placedPart p → i.done = true ∨ i.outc ≠ 0
      (∃ (t : State), exec .frzKill s = .next t ∧ killed t) ∧
      ∃ (t : State), exec .frzKillFence s = .next t ∧ killed t ∧ t.regField (.svcCtl p) 31 1 = 1) ∧
    (s.frozenPart p = false → exec .frzKill s = .next s ∧ exec .frzKillFence s = .next s)

/-- A raise of the Gong (R453): with ARM it latches 48 cycles later and clears ARM; without, it is missed. -/
def Sys2Proof.Claims.Gonged (o : Host.Outcome State Fault Refusal) (v : State) (src : Nat) : Prop :=
  let missed := v.regField .gongCtl 16 8
  (v.regField .gongCtl 31 1 = 1 → ∃ (t : State), o = .next t ∧ t.gongAt = some (v.cyc + 48) ∧
    t.reg .gongCyc = BitVec.ofNat 64 (v.cyc + 48) ∧ t.regField .gongCtl 31 1 = 0 ∧ t.regField .gongCtl 8 2 = src ∧
    t.regField .gongCtl 0 8 = 0 ∧ SameMemory v t) ∧
  (v.regField .gongCtl 31 1 = 0 → v.gongAt ≠ some (v.cyc + 48) → ∃ (t : State), o = .next t ∧ { t with regs := v.regs } = v ∧
    t.regField .gongCtl 16 8 = if missed = 255 then 255 else missed + 1) ∧
  (v.regField .gongCtl 31 1 = 0 → v.gongAt = some (v.cyc + 48) → v.regField .gongCtl 8 2 ≤ src → o = .next v)

/-- R453, R454, R455: a host write with RAISE, and the management port, raise the Gong; in cycle G every snapshot register latches. -/
def Sys2Proof.Claims.GongLatches : Prop :=
  ∀ (s : State),
    Claims.Gonged (exec .gongRaise s) (s.writeGong s.arg.val s.arg.j) 1 ∧ Claims.Gonged (exec .mgmtGongRequest s) s 2 ∧
    (s.gongAt = some s.cyc → ∃ (t : State), exec .gongLatch s = .next t ∧ t.gongAt = none ∧ SameMemory s t ∧ t.regs = s.regs ∧
      ∀ u i n, ({ unit := u, item := i, val := n } : SnapItem) ∈ t.snap → (u = 0 → i = 0 → n = s.cyc) ∧
        (u = 0 → i = 1 → n = (s.reg .hostEvt).toNat) ∧ (∀ p < 8, u = snapPort p → i = 0 → n = (s.reg (.linkStat p)).toNat)) ∧
    (s.gongAt ≠ some s.cyc → exec .gongLatch s = .next s)

/-- R447, R448, R450, R465: a patch image that passes its checks waits for its drain, and then its slots, hooks, code and identity take force at
once; one that fails, or does not drain in time, leaves what is installed. Firmware takes over likewise. -/
def Sys2Proof.Claims.ImagesInstall : Prop :=
  ∀ (s : State),
    let pa := bitsAt s.arg.val.toNat 4 40 * 16
    let ended := fun (t : State) (r : Reg) (n : Nat) => t.regField r 48 8 = n % 256 ∧ t.regField r 63 1 = 0 ∧ t.slots = s.slots ∧ t.fwImg = s.fwImg
    (s.belLoad = none → reservedPa pa = false →
      (s.fwRequest pa (2 ^ 20) = none → ∃ (t : State), exec .belfryLoad s = .next t ∧ ended t .belStat 1) ∧
      (∀ a n x, s.fwRequest pa (2 ^ 20) = some (a, n, x) →
        let chk := patchCheck (s.readPaB a n) (s.regField .belStat 32 16)
        (chk = 0 → ∃ (t : State), exec .belfryLoad s = .next t ∧ t.regField .belStat 63 1 = 1 ∧
          t.belLoad = some { bytes := s.readPaB a n, persist := x, started := s.cyc } ∧ t.slots = s.slots) ∧
        (chk ≠ 0 → ∃ (t : State), exec .belfryLoad s = .next t ∧ ended t .belStat chk ∧ t.belLoad = none))) ∧
    (s.belLoad.isSome = true → exec .belfryLoad s = .next s) ∧
    (∀ r, s.belLoad = some r →
      let late := r.started + 1024 * s.regField .belCtl 0 24
      (s.belDrained (imageSlots r.bytes) = true → s.cyc ≤ late → ∃ (t : State), exec .belfrySwitch s = .next t ∧
        t.slots = imageSlots r.bytes ∧ t.hooks = imageHooks r.bytes ∧ t.patchCode = patchArea r.bytes ∧ t.belLoad = none ∧
        t.regField .belId 0 32 = recField r.bytes 8 4 ∧ t.regField .belId 40 8 = recField r.bytes 0x0C 1 ∧
        t.regField .belId 48 16 = recField r.bytes 6 2 ∧
        t.regField .belStat 32 16 = max (recField r.bytes 6 2) (s.regField .belStat 32 16) ∧ t.regField .belStat 63 1 = 0 ∧
        t.regField .belStat 48 8 = (if r.persist && s.arg.flag then 7 else 0) ∧
        (r.persist = true → s.arg.flag = false → t.belCopies = putAt s.belCopies (lowerCopy s.belCopies) r.bytes)) ∧
      (s.belDrained (imageSlots r.bytes) = false → exec .belfrySwitch s = .next s) ∧
      (s.belDrained (imageSlots r.bytes) = false → late ≤ s.cyc → ∃ (t : State), exec .belfryDrainTimeout s = .next t ∧ ended t .belStat 6 ∧
        t.belLoad = none)) ∧
    (s.fwReq = none → reservedPa pa = false →
      (s.fwRequest pa (2 ^ 24) = none → ∃ (t : State), exec .fwLoad s = .next t ∧ ended t .fwStat 1) ∧
      (∀ a n x, s.fwRequest pa (2 ^ 24) = some (a, n, x) → fwCheck (s.readPaB a n) (s.regField .fwStat 32 16) = 0 →
        ∃ (t : State), exec .fwLoad s = .next t ∧ t.regField .fwStat 63 1 = 1 ∧
          t.fwReq = some { bytes := s.readPaB a n, persist := x, started := s.cyc })) ∧
    (∀ r, s.fwReq = some r → s.loadFault = none → ∃ (t : State), exec .fwTakeover s = .next t ∧ t.fwImg = r.bytes ∧ t.fwReq = none ∧
      t.regField .fwStat 0 32 = recField r.bytes 8 4 ∧ t.regField .fwStat 63 1 = 0 ∧ t.slots = s.slots ∧
      t.regField .fwStat 32 16 = max (recField r.bytes 6 2) (s.regField .fwStat 32 16))

/-- R460: a checkpoint request that is malformed ends with STATUS 1, and one whose placed slots lack a save area with 2; else every placed slot is
stopped, and once all are saved the range is copied to the host. -/
def Sys2Proof.Claims.CheckpointsCopy : Prop :=
  ∀ (s : State),
    let pa := bitsAt s.arg.val.toNat 6 38 * 64
    let b := s.readPaB pa 64
    let res := bitsAt (recField b 0x20 8) 6 38 * 64
    let small := ∃ k ∈ s.placedSlots, s.regField (.ctxSave k) 44 20 = 0
    let ended := fun (t : State) (n : Nat) => t.mck = none ∧ t.regField .mckStat 63 1 = 0 ∧ t.regField .mckStat 32 16 = n ∧
      t.regField .mckStat 0 32 = (s.regField .mckStat 0 32 + 1) % 2 ^ 32
    (s.mck = none → reservedPa pa = false → reservedPa res = false →
      (badCheckpoint b = true → ∃ (t : State), exec .memCheckpoint s = .next t ∧ ended t 1 ∧ t.fab = s.fab) ∧
      (badCheckpoint b = false → small → ∃ (t : State), exec .memCheckpoint s = .next t ∧ ended t 2 ∧ t.fab = s.fab) ∧
      (badCheckpoint b = false → ¬small → ∃ (t : State) (m : MemCkpt), exec .memCheckpoint s = .next t ∧ t.mck = some m ∧
        m.src = recField b 8 8 ∧ m.len = recField b 0x10 8 ∧ m.dst = recField b 0x18 8 ∧ m.slots = s.placedSlots ∧
        t.regField .mckStat 63 1 = 1 ∧ ∀ k ∈ s.placedSlots, s.ctxState k = 0 → t.ctxState k = 1)) ∧
    (s.mck.isSome = true → ∃ (t : State), exec .memCheckpoint s = .next t ∧ t.regField .mckStat 62 1 = 1 ∧ { t with regs := s.regs } = s) ∧
    (∀ m x, s.mck = some m → reservedPa m.res = false → physical m.res = some (.dev, x) →
      ((∃ k ∈ m.slots, ((s.stop? k).map Stop.ovf).getD false = true) → ∃ (t : State), exec .memCheckpointDone s = .next t ∧ ended t 3 ∧
        t.hmem = s.hmem) ∧
      ((∀ k ∈ m.slots, ((s.stop? k).map Stop.ovf).getD false = false) → (∀ k ∈ m.slots, s.ctxState k = 3) → m.resume = false →
        s.arg.flag = false → Memory.wf s.dmem = true → Memory.wf s.hmem = true → ∃ (t : State), exec .memCheckpointDone s = .next t ∧ ended t 0 ∧
          (∀ i < m.len, getCell t.hmem (m.dst + i) = getCell s.dmem (m.src + i)) ∧
          ∀ y, (y < m.dst ∨ m.dst + m.len ≤ y) → getCell t.hmem y = getCell s.hmem y) ∧
      ((∀ k ∈ m.slots, ((s.stop? k).map Stop.ovf).getD false = false) → (∃ k ∈ m.slots, s.ctxState k = 1 ∨ s.ctxState k = 2) →
        exec .memCheckpointDone s = .next s)) ∧
    (s.mck = none → exec .memCheckpointDone s = .next s)

/-- R461 to R464: a column map, a barn map and a die fence take the value written unless their rule discards it, and a retired frame leaves its
free list, or moves its page. -/
def Sys2Proof.Claims.ServiceWrites : Prop :=
  ∀ (s : State),
    let u := s.arg.u
    let v := Reg.written (.svcCtl u) (s.reg (.svcCtl u)) s.arg.val
    let same := bitsAt v.toNat 7 1 = 1 ∧ bitsAt v.toNat 15 1 = 1 ∧ bitsAt v.toNat 0 5 = bitsAt v.toNat 8 5
    let moves := fun (lo : Nat) => bitsAt v.toNat lo 8 ≠ s.regField (.svcCtl u) lo 8 ∧ s.spareBusy u lo = true
    let k := s.arg.k
    let to_ := fun (i : Nat) => if s.arg.n ≤ i ∧ i < s.arg.n + max 1 s.arg.m then bitsAt s.arg.val.toNat (8 * (i - s.arg.n)) 6 else s.physBarn k i
    let held := s.ctxState k ≠ 3 ∧ s.hasPlacement k = true
    let clash := ∃ i < 64, ∃ j < 64, i ≠ j ∧ to_ i = to_ j
    (¬same → ¬moves 0 → ¬moves 8 → ∃ (t : State), exec .svcCtlWrite s = .next t ∧ t.reg (.svcCtl u) = v ∧ { t with regs := s.regs } = s) ∧
    (same ∨ moves 0 ∨ moves 8 → exec .svcCtlWrite s = .next s) ∧
    (¬held → ¬clash → ∃ (t : State), exec .ctxBmapWrite s = .next t ∧ (∀ i < 64, t.physBarn k i = to_ i) ∧ { t with regs := s.regs } = s) ∧
    (held ∨ clash → exec .ctxBmapWrite s = .next s) ∧
    (∃ (t : State), exec .dieFenceWrite s = .next t ∧ t.regField .dieFence 0 8 = bitsAt s.arg.val.toNat 0 8 ∧ { t with regs := s.regs } = s ∧
      ∀ b < 64, t.regField (.svcCtl b) 31 1 =
        if bitsAt s.arg.val.toNat (b / 8) 1 = 1 ∧ s.regField .dieFence (b / 8) 1 = 0 then 1 else s.regField (.svcCtl b) 31 1) ∧
    (let pa := bitsAt s.arg.val.toNat 5 39 * 32
     let b := s.readPaB pa 32
     let frame := recField b 0 8
     let c := recField b 8 1
     let res := recField b 0x18 8
     let bad := 3 < c ∨ 1 < recField b 9 1 ∨ zeroField b 0x0C 4 = false ∨ 2 ^ 40 ≤ frame ∨ frame % classSize c ≠ 0 ∨ 2 ^ 60 ≤ recField b 0x10 8
     (s.regField .hbmRetstat 63 1 = 1 → exec .hbmRetire s = .next s) ∧
     (s.regField .hbmRetstat 63 1 = 0 → reservedPa pa = false → reservedPa res = false →
      (bad → exec .hbmRetire s = .next (s.endRetire res 1 0)) ∧
      (¬bad → s.retired.contains frame = true → exec .hbmRetire s = .next (s.endRetire res 3 0)) ∧
      (¬bad → s.retired.contains frame = false → recField b 9 1 = 0 → s.pullFrame (s.channelList (frame / 2 ^ 31)) c frame = none →
        exec .hbmRetire s = .next (s.endRetire res 3 0)) ∧
      (∀ w, ¬bad → s.retired.contains frame = false → recField b 9 1 = 0 → s.pullFrame (s.channelList (frame / 2 ^ 31)) c frame = some w →
        ∃ (t : State), exec .hbmRetire s = .next t ∧ frame ∈ t.retired ∧ t.regField .hbmRetstat 63 1 = 0) ∧
      (∀ l, ¬bad → s.retired.contains frame = false → recField b 9 1 = 1 → s.leafOf (recField b 0x0A 2) (recField b 0x10 8) = some l →
        (l.frame ≠ frame ∨ l.size ≠ classSize c → exec .hbmRetire s = .next (s.endRetire res 3 0)) ∧
        (l.frame = frame → l.size = classSize c → exec .hbmRetire s = .next (s.endRetire res 2 0) ∨
          ∃ (t : State), exec .hbmRetire s = .next t ∧ frame ∈ t.retired ∧ t.regField .hbmRetstat 63 1 = 1))))

/-! Boot, power, identity and plain register writes. -/

/-- R474, R475, R411: power-on and a write of PKG_RST.COLD start step 1 of the boot with every register at its reset value and all state lost
but what flash, the translation store and the host hold; a loss of power loses the same. -/
def Sys2Proof.Claims.ResetsStart : Prop :=
  ∀ (s : State),
    let cleared := fun (t : State) => t.cyc = 0 ∧ t.insts = [] ∧ t.traps = [] ∧ t.fab = {} ∧ t.dmem = [] ∧ t.scr = [] ∧ t.wbuf = [] ∧ t.pres = [] ∧
      t.sheaves = [] ∧ t.slots = [] ∧ t.hmem = s.hmem ∧ t.tc = s.tc ∧ t.belCopies = s.belCopies ∧ t.fwCopies = s.fwCopies ∧
      t.regField .belStat 32 16 = s.regField .belStat 32 16 ∧ t.regField .fwStat 32 16 = s.regField .fwStat 32 16 ∧
      t.regField .pkgStat 31 1 = 0 ∧
      ∀ r : Reg, r.offset ≠ Reg.pkgStat.offset → r.offset ≠ Reg.belStat.offset → r.offset ≠ Reg.fwStat.offset → t.reg r = r.reset
    (∃ (t : State), exec .powerOn s = .next t ∧ cleared t ∧ t.phase = 1) ∧
    (s.arg.flag = true → ∃ (t : State), exec .coldReset s = .next t ∧ cleared t ∧ t.phase = 1) ∧
    (∃ (t : State), exec .powerLoss s = .next t ∧ cleared t ∧ t.phase = 0)

/-- R474, R447, R464, R412: each step of the boot starts when the step before it ends; with no sound firmware it stops with PHASE 7. -/
def Sys2Proof.Claims.BootSteps : Prop :=
  ∀ (s : State), s.arg.flag = false →
    let o := exec .coldReset s
    let fw := firstAccepted s.fwCopies fun b => fwCheck b (s.regField .fwStat 32 16)
    let bel := firstAccepted s.belCopies fun b => patchCheck b (s.regField .belStat 32 16)
    (s.phase = 1 → (fw = none → ∃ (t : State), o = .next t ∧ t.phase = 7) ∧
      ∀ i b, fw = some (i, b) → ∃ (t : State), o = .next t ∧ t.phase = 2 ∧ t.fwImg = b ∧ t.regField .pkgStat 1 1 = i % 2 ∧
        fwCheck b (s.regField .fwStat 32 16) = 0) ∧
    (s.phase = 2 → (bel = none → ∃ (t : State), o = .next t ∧ t.phase = 3 ∧ t.slots = s.slots) ∧
      ∀ i b, bel = some (i, b) → ∃ (t : State), o = .next t ∧ t.phase = 3 ∧ t.slots = imageSlots b ∧ t.regField .pkgStat 0 1 = i % 2 ∧
        patchCheck b (s.regField .belStat 32 16) = 0) ∧
    (s.phase = 3 → ∃ (t : State), o = .next t ∧ t.phase = 4 ∧ t.scr = [] ∧ t.wbuf = [] ∧ t.pres = []) ∧
    (s.phase = 4 → ∃ (t : State), o = .next t ∧ t.phase = 5 ∧
      ∀ b < 64, t.regField .dieFence (b / 8) 1 = 1 → t.regField (.svcCtl b) 31 1 = 1) ∧
    (s.phase = 5 → ∃ (t : State), o = .next t ∧ t.phase = 6 ∧ t.tcLevel = s.regField .belId 0 32 ∧
      (s.tcLevel ≠ s.regField .belId 0 32 → t.tc = []) ∧ (s.tcLevel = s.regField .belId 0 32 → t.tc = s.tc)) ∧
    (s.phase = 6 → ∃ (t : State), o = .next t ∧ t.phase = 0 ∧ t.regField .pkgStat 31 1 = 1 ∧ t.cxl = [0, 1]) ∧
    (s.phase = 0 ∨ s.phase = 7 → o = .next s)

/-- R476: at the end of a millisecond the fabric clock steps by 75 MHz, down while a cause of WHY holds and else up, within 1,200 and 2,400 MHz;
at 105 °C every partition is frozen. -/
def Sys2Proof.Claims.PowerSteps : Prop :=
  ∀ (s : State),
    let hot := 85 < s.arg.m
    let high := s.regField .pwrCfg 0 12 < s.arg.n
    let f := s.regField .pwrStat 20 12
    (∃ (t : State), exec .throttleStep s = .next t ∧ t.fab = s.fab ∧ SameMemory s t ∧ t.cyc = s.cyc ∧
      t.regField .pwrStat 20 12 = (if hot ∨ high then max 1200 (f - 75) else min 2400 (f + 75)) ∧
      t.regField .pwrStat 19 1 = (if hot then 1 else 0) ∧ t.regField .pwrStat 18 1 = (if high then 1 else 0) ∧
      t.regField .pwrStat 0 8 = s.arg.m % 256 ∧ (t.overtemp = true ↔ s.overtemp = true ∧ 85 ≤ s.arg.m)) ∧
    (105 ≤ s.arg.n → ∃ (t : State), exec .overtempFreeze s = .next t ∧ t.overtemp = true ∧ ∀ q < 65, ∃ x ∈ t.freezes, x.p = q) ∧
    (s.arg.n < 105 → exec .overtempFreeze s = .next s)

/-- R477: each request that the part supports has its answer on DOE, with values of this cycle; any other receives ERROR with
UnsupportedRequest. -/
def Sys2Proof.Claims.IdentityAnswers : Prop :=
  ∀ (s : State),
    let answers := fun (i : Instr) (r : DoeReply) => exec i s = .next { s with doe := s.doe ++ [r] }
    answers .getVersion .version ∧ answers .getCapabilities .capabilities ∧ answers .negotiateAlgorithms .algorithms ∧
    answers .getDigests (.digests (Config.sha256 Config.certChain)) ∧
    (s.arg.n = 0 → answers .getCertificate (.certificate Config.certChain)) ∧
    (∃ x, answers .challenge (.challengeAuth s.arg.val.toNat x)) ∧
    (s.arg.n = 1 → answers .getMeasurements (.measurement 1 (leBytes 32 (Config.sha256 s.fwImg).toNat ++ leBytes 2 (recField s.fwImg 6 2)))) ∧
    (s.arg.n = 2 → answers .getMeasurements (.measurement 2 (leBytes 32 (Config.sha256 s.patchImg).toNat ++ leBytes 8 (s.reg .belId).toNat))) ∧
    (s.arg.n = 3 → answers .getMeasurements (.measurement 3 [4, BitVec.ofNat 8 (s.regField .belId 40 8)])) ∧
    answers .spdmUnsupported .unsupportedRequest

/-- R9, R458, R479: a host write takes effect on the bits of its register that are RW or W1C, in the half that it covers, and nowhere else; R476,
R361, R339, R403: what these rules discard is discarded, and IMG_LDREQ enqueues; R334: a 4-byte write at the address of a queue's doorbell rings it. -/
def Sys2Proof.Claims.RegistersTakeWrites : Prop :=
  ∀ (s : State) (r : Reg) (part : Nat), s.arg.n < 0x800000 →
    let o := exec .registerWrite s
    let v := s.arg.val
    let bell := 0x10000 ≤ s.arg.n ∧ s.arg.n < 0x12000 ∧ s.arg.m = 4 ∧ s.arg.n % 4 = 0
    let plain : List Reg := [.winCfg, .hostEvmask, .hostApctl, .linkId, .carGtab, .trAtab, .trCfl, .trInvva, .rbPage 0, .rbPage 1, .hostEvt,
      .hostEvht, .gongCyc, .pkgCyc, .belId, .belStat, .fwStat]
    let half := fun (lo : Nat) (old new_ : DWord) => ∀ i < 32, new_.getLsbD (lo + i) = old.getLsbD (lo + i)
    (regPart s.arg.n s.arg.m = some (r, part) → r ∈ plain → ∃ (t : State), o = .next t ∧ { t with regs := s.regs } = s ∧
      (∀ q : Reg, q.offset ≠ r.offset → t.reg q = s.reg q) ∧
      (∀ i < 64, r.rwMask.getLsbD i = false → r.w1cMask.getLsbD i = false → (t.reg r).getLsbD i = (s.reg r).getLsbD i) ∧
      (part = 0 → t.reg r = r.written (s.reg r) v ||| (s.raisedBits r &&& r.w1cMask)) ∧
      (part = 1 → half 32 (s.reg r) (t.reg r)) ∧ (part = 2 → half 0 (s.reg r) (t.reg r)) ∧
      (part = 1 → ∀ i < 32, r.rwMask.getLsbD i = true → (t.reg r).getLsbD i = v.getLsbD i) ∧
      (part = 2 → ∀ i < 32, r.rwMask.getLsbD (32 + i) = true → (t.reg r).getLsbD (32 + i) = v.getLsbD i)) ∧
    (¬bell → regPart s.arg.n s.arg.m = none → o = .next s) ∧
    (∀ k < 32, ∀ q < 64, s.arg.m = 4 → s.arg.n = 0x10000 + 0x100 * k + 4 * q →
      o = .next (s.doorbell k q (v.toNat % 2 ^ 32))) ∧
    (regPart s.arg.n s.arg.m = some (.pwrCfg, 0) →
      (600 ≤ bitsAt v.toNat 0 12 → bitsAt v.toNat 0 12 ≤ 2400 → ∃ (t : State), o = .next t ∧ t.regField .pwrCfg 0 12 = bitsAt v.toNat 0 12) ∧
      (bitsAt v.toNat 0 12 < 600 ∨ 2400 < bitsAt v.toNat 0 12 → o = .next s)) ∧
    (∀ k, regPart s.arg.n s.arg.m = some (.trSlot k, 0) ∨ regPart s.arg.n s.arg.m = some (.schedCtx k, 0) → s.hasPlacement k = true → o = .next s) ∧
    (∀ k, regPart s.arg.n s.arg.m = some (.trSlot k, 0) → s.hasPlacement k = false → ∃ (t : State), o = .next t ∧
      t.asid? k = if bitsAt v.toNat 31 1 = 1 then some (bitsAt v.toNat 0 16) else none) ∧
    (regPart s.arg.n s.arg.m = some (.imgLdreq, 0) →
      (s.loadq.length < 16 → ∃ (t : State), o = .next t ∧ t.loadq = s.loadq ++ [bitsAt v.toNat 6 38 * 64] ∧
        t.regField .imgStat 32 5 = s.loadq.length + 1) ∧
      (16 ≤ s.loadq.length → ∃ (t : State), o = .next t ∧ t.loadq = s.loadq ∧ t.regField .imgStat 63 1 = 1))

/-! The machine as a whole. -/

/-- Every word of a well-formed block instruction, and every parcel of a core instruction, decodes to that instruction, whatever
stands behind it. A 32-bit base instruction is one that no row of R224 claims. -/
def Sys2Proof.Claims.EveryEncodingDecodes : Prop :=
  ∀ (i : Instr) (bs rest : List Byte), i.wellFormed = true → encode i = some bs →
    ((encodeWord i).isSome = true → decodeBlockBytes (bs ++ rest) = some (i, rest)) ∧
    ((encodeWord i).isSome = false → (∀ w, i = .baseInstruction w false → decodeCore32 w = i) → decodeCoreBytes (bs ++ rest) = (i, rest))

/-- A word that decodes is the encoding of what it decodes to, which is well formed: no bit of a word is dropped. -/
def Sys2Proof.Claims.DecodedWordsEncode : Prop :=
  (∀ (w : DWord) (i : Instr), decodeWord w = some i → i.wellFormed = true ∧ encodeWord i = some w) ∧
  (∀ (w : Word), encodeCore (decodeCore32 w) = some w)

/-- Words that the manual prints, and the instructions that it prints for them (R76, R98, R205, R224). -/
def Obligations.PrintedWordsDecode : Prop :=
  let plain : Ty → Option Target → Hdr := fun ty t0 => { pm := .always, ty := ty, t0 := t0, t1 := none }
  decodeWord 0x0100000E7FC00000 = some (.mad (plain .i32 (some ⟨7, .a⟩)) false) ∧
  decodeWord 0x03C000107FC00000 = some (.absd (plain .i32 (some ⟨8, .a⟩))) ∧
  decodeWord 0x024000027FC00005 = some (.addi (plain .i32 (some ⟨1, .a⟩)) false 5) ∧
  decodeWord 0xE14E00027FC00000 = some (.eret (plain .b32 (some ⟨1, .a⟩)) 0) ∧
  decodeCore32 0x8238002B = .xttask 1 3 16 ∧ decodeCore32 0x006291AB = .xpub 0 6 5 3 ∧ decodeCore32 0x806291AB = .xawait 0 6 5 3 ∧
  decodeWord 0xFFFFFFFFFFFFFFFF = none

/-- A turn of the agenda: with none left the clock advances by one cycle; a core runs the instruction that its fetch decodes; a node
runs the instruction that its word decodes to; an event runs with its parameters, but a host write is discarded while READY is 0.
The agenda, which says whose turn it is, is the model's own (DESIGN CHOICE, log 1). -/
def Obligations.StepRunsDecoded : Prop :=
  ∀ (s : State),
    let clean : State := { s with cur := none, curCore := none, held := false }
    (s.agenda = [] → step s = .next (clean.tick 1)) ∧
    (∀ (a : Act) (dt : Nat) (r : List Turn), s.agenda = { dt := dt, act := a } :: r →
      let v : State := ({ clean with agenda := r } : State).tick dt
      (∀ c x t, a = .core c → v.core? c = some x → x.active = true → x.waiting = false → x.stopped = false → v.live x.k (.barn c.barn) = true →
        v.gatedPart c.barn = false →
        (x.pc.toNat + coreLen (x.wordAt x.pc.toNat) ≤ 0x10000 → x.fetch = (decodeCoreBytes (getBytes x.istore x.pc.toNat 4)).1) ∧
        (exec x.fetch { v with curCore := some c, held := false } = .next t → t.held = false → step s = .next { t with curCore := none }) ∧
        (exec x.fetch { v with curCore := some c, held := false } = .next t → t.held = true → step s = .next v)) ∧
      (∀ site x rest t, a = .fire site → site.holder.temporal = false → v.nodeSets site = x :: rest →
        (∀ i, v.nodeKind x.site = .plain → decodeBase (v.nodeWord x.site).1 = some i → v.fireInstr x = i) ∧
        (exec (v.fireInstr x) (v.focus x) = .next t → t.held = false → step s = .next (t.afterFire x))) ∧
      (∀ i arg, a = .event i arg → (hostWrite i arg = false ∨ v.regField .pkgStat 31 1 = 1) → step s = exec i { v with arg := arg }) ∧
      (∀ i arg, a = .event i arg → hostWrite i arg = true → v.regField .pkgStat 31 1 = 0 → step s = .next v))

/-- The invariant of memory: a step from a state whose four memories are in canonical form, with rising addresses and no byte that
an unlisted address would read as, leaves them so. The form is the model's; that an unlisted byte reads 0 is log 2 (DESIGN CHOICE).
-/
def Obligations.StepKeepsMemoryForm : Prop := ∀ (s t : State), s.memWf → step s = .next t → t.memWf

/-- After reset the memories have their canonical form, READY is 0, no instance, trap or work exists, and every register holds the
value that its map gives. Registers for which the manual gives no reset value hold 0 (PRESUMED, log 50). -/
def Obligations.ResetHolds : Prop :=
  State.reset.memWf ∧ State.reset.insts = [] ∧ State.reset.traps = [] ∧ State.reset.fab = {} ∧ State.reset.cyc = 0 ∧
  (∀ r : Reg, State.reset.reg r = r.reset) ∧ State.reset.regField .pkgStat 31 1 = 0 ∧ State.reset.regField .pwrCfg 0 12 = 2400 ∧
  State.reset.regField .gongCtl 31 1 = 1 ∧ State.reset.regField .winCfg 31 1 = 1 ∧ State.reset.regField .winCfg 0 16 = 0x400 ∧
  (∀ t, State.reset.regField (.schedTq t) 16 7 = 64 ∧ State.reset.regField (.schedTq t) 0 8 = 0xFF) ∧
  (∀ k, State.reset.regField (.schedPre k) 0 24 = 0x4000 ∧ State.reset.ctxState k = 0) ∧
  (∀ k n, n < 64 → State.reset.physBarn k n = n) ∧ State.reset.regField .tcCtl 0 1 = 1

/-- R27, R28, R433: how an instruction that computes one result takes a set that does not execute: roll tokens, end-of-stream
markers and null tokens pass on every target, a mixed set raises STREAM_LEN, a poisoned predicate POISON, and a predicate that PM
refuses sends nothing. A null token at slot p makes a null set (DEDUCED, log 36), and poison of a marker follows rule 5 of R28
(DEDUCED, log 35). -/
def Obligations.MarkersPass : Prop :=
  ∀ (s : State) (f : Firing) (i : Instr) (h : Hdr), s.cur = some f → Claims.computes i = some h →
    let o := exec i s
    let k : Tok := { tag := f.tag, dep := f.dep, data := 0, ty := h.ty, poi := f.poi false, after := f.after }
    let sends := fun (k : Tok) => ∃ lat, o = .next (s.emitAll f.site lat k [h.t0, h.t1])
    let roll := ∀ x ∈ f.toks, x.2.rol = true
    let eos := ∀ x ∈ f.toks, x.1 ≠ .p → x.2.eos = true
    let data := ¬roll ∧ ¬eos ∧ ∀ x ∈ f.toks, x.2.eos = false ∧ x.2.nul = false
    (roll → sends { k with rol := true }) ∧ (¬roll → eos → sends { k with eos := true }) ∧
    (¬roll → ¬eos → ∀ x, (f.toks.find? fun x => x.2.eos) = some x → o = .next (s.streamLen f x.1 0 0)) ∧
    (¬roll → ¬eos → (∀ x ∈ f.toks, x.2.eos = false) → (∃ x ∈ f.toks, x.2.nul = true) → sends { k with nul := true }) ∧
    (data → h.pm ≠ .always → ((f.tok? .p).map Tok.poi).getD false = true → o = .next (s.poisonTrap f .p)) ∧
    (data → (∀ x ∈ f.toks, x.2.poi = false) → executes h.pm f.pred = false → o = .next s)

/-- What an instruction that computes one result, or that issues one access, leaves unchanged, whichever way it ends: all memory, every core,
queue and set, every control register but the flags and running maxima of its context and the counters of fault hooks. -/
def Sys2Proof.Claims.FiringFrame : Prop :=
  ∀ (s t : State) (f : Firing) (i : Instr), s.cur = some f → (∀ h ∈ s.hooks, h.n < 8) → exec i s = .next t →
    (Claims.computes i).isSome = true ∨ (Claims.accesses i).isSome = true →
    Claims.Framed s t ∧ SameMemory s t ∧
      (∀ r : Reg, (∀ q ∈ Claims.firingRegs f.k, r.offset ≠ q.offset) → t.reg r = s.reg r) ∧
      ((Claims.computes i).isSome = true → t.fab.sbuf = s.fab.sbuf) ∧
      ((Claims.accesses i).isSome = true → ∀ r : Reg, (∀ n < 8, r.offset ≠ (Reg.belHookcnt n).offset) → t.reg r = s.reg r)

/-- R274, R312, R378: memory changes only where a memory unit, an engine or the host acts: a block or core instruction leaves all four
memories, the presence bits and the poison marks as they are. ERET is apart, as it may end an instance (R333). -/
def Sys2Proof.Claims.OnlyUnitsStore : Prop :=
  ∀ (s t : State) (i : Instr), (encode i).isSome = true → (∀ h a, i ≠ .eret h a) → exec i s = .next t → SameMemory s t

/-- R423, R425: a trap takes the lowest free index of its context, and its record, in the layout of R425, is written to the trap area as a
release at .pkg; with all 256 indices in use it is held. -/
def Sys2Proof.Claims.TrapEntry : Prop :=
  ∀ (s : State) (t : Trap),
    let v := s.raise t
    let area := bitsAt (s.reg (.trapArea t.k)).toNat 6 54 * 64
    (∀ i, s.freeTrapIndex t.k = some i → (∀ h ∈ s.hooks, h.n < 8) → t.k < 32 → ∃ r : Trap, v.traps = s.traps ++ [r] ∧ r.index = i ∧ i < 256 ∧
      r.cyc = s.cyc ∧ r.stage = .raised ∧ r = { t with index := i, cyc := s.cyc, stage := .raised, toHost := r.toHost } ∧
      (∀ x ∈ s.traps, x.k = t.k → x.index ≠ i) ∧ (∀ j < i, ∃ x ∈ s.traps, x.k = t.k ∧ x.index = j) ∧
      SameMemory s v ∧ (area = 0 → v.fab = s.fab) ∧
      (area ≠ 0 → ∃ a : Access, v.fab = { s.fab with accs := s.fab.accs ++ [a] } ∧ a.origin = .trapRec t.k i ∧ a.kind = .write ∧ a.rel = true ∧
        a.sc = .pkg ∧ a.k = t.k ∧ a.pieces = (upto 8).map fun j =>
          { addr := area + 64 * i + 8 * j, size := 8, mask := 2 ^ 64 - 1, data := recField r.record (8 * j) 8 })) ∧
    (s.freeTrapIndex t.k = none → v = { s with held := true } ∧ ∀ j < 256, ∃ x ∈ s.traps, x.k = t.k ∧ x.index = j) ∧
    (let b := t.record
     b.length = 64 ∧ recField b 0 2 = t.tcode % 2 ^ 16 ∧ recField b 2 1 = t.index % 256 ∧ recField b 3 1 = t.cause % 256 ∧
      recField b 4 1 = t.srck % 256 ∧ recField b 5 1 = t.barn % 256 ∧ recField b 6 1 = t.unit % 256 ∧ recField b 7 1 = t.idx % 256 ∧
      recField b 8 8 = t.blk % 2 ^ 64 ∧ recField b 16 8 = t.word.toNat ∧ recField b 24 8 = t.tag.toNat ∧ recField b 32 1 = t.dep % 256 ∧
      recField b 33 1 = t.slot % 256 ∧ recField b 36 4 = t.aux2.toNat ∧ recField b 40 8 = t.aux0.toNat ∧ recField b 48 8 = t.aux1.toNat ∧
      recField b 56 8 = t.cyc % 2 ^ 64)

/-! The statements that join several of the above. -/

/-- The integer instructions send the exact results, wrapped or saturated. -/
def Obligations.IntegerResults : Prop :=
  Claims.IntegerLanes ∧ Claims.IntegerScalars

/-- Logic, shifts, rotations, bit fields, counts, reversal and byte selection, bit by bit. -/
def Obligations.LogicAndBitFields : Prop :=
  Claims.LogicAndShifts ∧ Claims.BitFields

/-- ALLOC, FREE, ENTER, LEAVE, TAGRD and TAGWR on the nest stack and its spaces. The hold of an ENTER that feeds a stream is a
reading of the window rule (DEDUCED, log 41). -/
def Obligations.TagSpaces : Prop :=
  Claims.AllocTakesLowest ∧ Claims.FreePopsField ∧ Claims.TagFields

/-- Floating-point arithmetic rounds each exact lane result once; minimum, maximum, signs and compares. -/
def Obligations.FloatArithmetic : Prop :=
  Claims.FloatRounded ∧ Claims.FloatSignAndOrder

/-- Conversions, rounding to integral values and exponents. -/
def Obligations.FloatConversions : Prop :=
  Claims.Conversions ∧ Claims.RoundingAndExponents

/-- Rounding takes the neighbour that the mode names, and every encoding rounds to itself. -/
def Obligations.FloatRounding : Prop :=
  Claims.RoundingModes ∧ Claims.EncodingsRoundToThemselves

/-- Flat loads and stores issue their access in aligned pieces, or trap. Each word of a misaligned STP is cut on its own (DESIGN
CHOICE, log 104), and poison of either of its data tokens marks both (DESIGN CHOICE, log 105). -/
def Obligations.FlatMemory : Prop :=
  Claims.FlatAccesses ∧ Claims.PiecesCoverAccess

/-- Scratchpad loads and stores, presence operations, atomics and FENCE issue their access, or trap. Which trap is raised when
several apply is that of log 106 (DESIGN CHOICE), and poison of either data token of an STSP marks both words (DESIGN CHOICE, log
105). -/
def Obligations.ScratchAndAtomics : Prop :=
  Claims.ScratchAccesses ∧ Claims.AtomicsAndFence

/-- A memory node or bank performs a piece: what is written, read or computed, and that every other byte stays. How turns are spread
over agents is the agenda of the model (DESIGN CHOICE, log 1). -/
def Obligations.MemoryPerforms : Prop :=
  Claims.WritesArePerformed ∧ Claims.ReadsArePerformed ∧ Claims.AtomicsArePerformed

/-- LDT and STT access the word of an index; STRM and STRMW start their streams. Addresses of tensor words are taken modulo 2^64
(DEDUCED, log 109), and STRMW raises STREAM_SHAPE at its origin (DESIGN CHOICE, log 110). -/
def Obligations.TensorsAndStreamStarts : Prop :=
  Claims.TensorWords ∧ Claims.StreamsStart

/-- Stream nodes take tokens in ascending order; SRED and SSCAN add them, SZIP pairs them. DUP_TOKEN for an index behind its turn
and TAG_DEPTH at a consumer are readings (DEDUCED, logs 39 and 40). -/
def Obligations.StreamOrder : Prop :=
  Claims.StreamTurns ∧ Claims.StreamReduction ∧ Claims.StreamZip

/-- RMAX, RSUMX, RSQS, RDLY and RREL on rows of a stream. The token of RDLY on T1 keeps the element's PP and PV (DESIGN CHOICE, log
108). -/
def Obligations.RowStatistics : Prop :=
  Claims.RowValues ∧ Claims.RowDelayAndScale

/-- MREGION binds the first free rectangle; MFREE, WLOAD and WSWAP act on a region. The cycle that MREGION sends its handle in is a
reading (DEDUCED, log 48). -/
def Obligations.MatrixRegions : Prop :=
  Claims.RegionsBindFirstFree ∧ Claims.RegionCommands

/-- Tiles take the lowest free entries, their tokens enter in order, and integer results are exact sums. -/
def Obligations.MatrixTiles : Prop :=
  Claims.TileTokens ∧ Claims.TilesTakeLowestBase ∧ Claims.IntegerTileResult

/-- MDRAIN takes entries and sends their results; region events end tiles, loads, swaps and releases. -/
def Obligations.MatrixResults : Prop :=
  Claims.DrainsTakeEntries ∧ Claims.DrainResults ∧ Claims.RegionEvents

/-- Engine commands, LAUNCH and TTASK read or send their record; PUBLISH, AWAIT and barriers. ALIGN of a barrier address is a
reading (DEDUCED, log 91). -/
def Obligations.CommandsAndBarriers : Prop :=
  Claims.RecordsAreRead ∧ Claims.PublishAndAwait ∧ Claims.BarrierAccesses

/-- EXIT, CALL and RET deliver their values and close their invocation. -/
def Obligations.BlockExits : Prop :=
  Claims.ExitDelivers ∧ Claims.CallDelivers ∧ Claims.RetDelivers

/-- SEND and TRAP, ERET resolves a trap, and a kill takes an instance out of the fabric. -/
def Obligations.ChannelsAndTraps : Prop :=
  Claims.SendAndTrap ∧ Claims.EretResolves ∧ Claims.KillsEmptyInstance

/-- CRRD and CRWR on each register that they reach, and GONG. CRRD of the flags reads those of the moment (DEDUCED, log 64). -/
def Obligations.ControlRegisters : Prop :=
  Claims.ControlRegisterAccess ∧ Claims.GongRaises

/-- XPUSH, XPUSHE, XPUSHN, XPOP, XPOPNB and XQCNT on the edge queues. When a push is checked and what XQCNT counts are readings
(DEDUCED, logs 11 and 13). -/
def Obligations.CoreQueues : Prop :=
  Claims.CorePushes ∧ Claims.CorePops

/-- Commands, publishes, barriers, WAITC, XSEND and XCR of a core. -/
def Obligations.CoreCommands : Prop :=
  Claims.CoreIssues ∧ Claims.CoreControl

/-- RPT, ECALL and EBREAK: repetition, the end of a program and exception entry. The machine CSRs of an exception entry are those of
the published RISC-V specifications (PRESUMED, log 50). -/
def Obligations.CoreRepeatsAndExceptions : Prop :=
  Claims.RepeatPrefix ∧ Claims.CoreEnvironment

/-- Tokens hop, enter queues in order, match by tag; illegal, patched and emulated nodes trap. Turns come from the agenda (DESIGN
CHOICE, log 1). -/
def Obligations.TokensMove : Prop :=
  Claims.TokensHop ∧ Claims.TokensMatch ∧ Claims.TrapNodes

/-- RECONF sends a configuration, which comes into force once the old work is gone. -/
def Obligations.Reconfiguration : Prop :=
  Claims.ReconfigurationSent ∧ Claims.Reconfigures

/-- Blocks are fetched and checked, bays are selected, configured, closed and freed. The rank among candidates includes logs 28
(DEDUCED) and 46 (DESIGN CHOICE). The order of a fetch's checks is that of log 101 (DESIGN CHOICE). -/
def Obligations.BlocksAndBays : Prop :=
  Claims.BlockFetches ∧ Claims.BaysAndTiles

/-- Gather entries form and are taken in order, invocations close, handlers run, instances complete. -/
def Obligations.StrandsAndHandlers : Prop :=
  Claims.StrandsMove ∧ Claims.HandlersAndCompletion

/-- Host reads, writes, flushes, back-invalidations, apertures, snoops and decoder commits. -/
def Obligations.HostAccess : Prop :=
  Claims.HostMemory ∧ Claims.HostPorts

/-- Windows, cached translations, walks and ATS answers place a piece or fault; faults are sent and resolved. Where the device may
evict or cache, the model keeps entries as logs 7 (DESIGN CHOICE) and 89 (DEDUCED) say. -/
def Obligations.Translation : Prop :=
  Claims.WalksTranslate ∧ Claims.AtsAnswers ∧ Claims.FaultsAreSent ∧ Claims.FaultsAreResolved

/-- Invalidations drop what they cover, in order, and complete once older accesses are performed. -/
def Obligations.Invalidations : Prop :=
  Claims.InvalidationsDrop ∧ Claims.InvalidationsComplete

/-- Allocations are checked and scrubbed; shadow frames return and pages migrate. -/
def Obligations.MemoryPools : Prop :=
  Claims.AllocationsScrub ∧ Claims.FramesMove

/-- STRM sends in order; tile tasks are taken, issued by rank and run step by step. -/
def Obligations.StreamsAndTasks : Prop :=
  Claims.StreamsSend ∧ Claims.TasksAreTaken ∧ Claims.TasksAreIssued ∧ Claims.TasksStep

/-- Engine commands start, move their bytes, complete their barrier; collectives agree, run and fail. The order of pieces is the
agenda's (DESIGN CHOICE, log 84). -/
def Obligations.Engines : Prop :=
  Claims.EnginesStart ∧ Claims.EnginesMove ∧ Claims.EnginesComplete ∧ Claims.CollectivesRun

/-- Publishes update entries and waiters, inputs register, entries retire, barriers are examined. -/
def Obligations.SheafTable : Prop :=
  Claims.PublishesApply ∧ Claims.PublishesReachWaiters ∧ Claims.InputsRegister ∧ Claims.SheafRegisters

/-- Edge queues deliver; core programs start, count their accesses and end. Fields of an absent program are not checked (DEDUCED,
log 15), and record faults are those of log 21 (DEDUCED). -/
def Obligations.CorePrograms : Prop :=
  Claims.EdgeQueuesDeliver ∧ Claims.CoreProgramsRun

/-- Doorbells and direct claims, placement by rank, window classes and the choice of the Reeve. The fields of the LAUNCH_FORMAT
trap of a direct record are those of log 69 (PRESUMED), and placement turns those of log 25 (DEDUCED). That invocations which wait
keep their block in the Reeve, and compete for it once their wait is over, is log 115 (DESIGN CHOICE). -/
def Obligations.LaunchAndPlacement : Prop :=
  Claims.QueuesAreFed ∧ Claims.PlacementTurns ∧ Claims.WindowsClassify ∧ Claims.ReeveChooses

/-- Pre-emption takes victims of lower priority; context commands are accepted or refused; stops freeze units. Ties among victims
are those of log 56 (DEDUCED). -/
def Obligations.StopsAndPreemption : Prop :=
  Claims.Preempts ∧ Claims.ContextCommands ∧ Claims.StopsSpread

/-- A save writes its image or overflows; a restore puts the context back, waits or fails. Bytes that R382 does not place are free
(DESIGN CHOICE, log 14). -/
def Obligations.SavesAndRestores : Prop :=
  Claims.SavesWrite ∧ Claims.RestoresReturn

/-- Flits are accepted in sequence, replays and training bring ports down and up. The CRC of a flit is opaque and numbers start from
0 after training (DESIGN CHOICE, log 58). -/
def Obligations.PeerLinks : Prop :=
  Claims.FlitsArrive ∧ Claims.PortsServe

/-- Load requests end with the code of their first failed check, or place their image. The order of checks inside a rule and the
limits that the manual leaves open are those of log 70 (DESIGN CHOICE), and the translation of Pekor images is opaque (DESIGN
CHOICE, log 16). -/
def Obligations.ImageLoads : Prop :=
  Claims.LoadsPlace

/-- A trap takes an index and writes its record, is delivered to its channel or the host, and is resolved. Which value of a packed
AUX field is low is the family convention of log 34 (PRESUMED) and not stated here. -/
def Obligations.TrapDelivery : Prop :=
  Claims.TrapEntry ∧ Claims.TrapsDeliver ∧ Claims.TrapsResolve ∧ Claims.AlarmsRise

/-- Errors count, poison and freeze; frozen partitions are gated, resumed or killed; the Gong latches. Where errors strike is an
input of the event (log 59 (DESIGN CHOICE) and log 79 (DESIGN CHOICE)), the numbers of snapshot units are those of log 61 (DESIGN
CHOICE), and a write that raises applies its other fields first (DEDUCED, log 71). -/
def Obligations.FreezesAndGong : Prop :=
  Claims.FaultsFreeze ∧ Claims.FreezesEnd ∧ Claims.GongLatches

/-- Patch images and firmware install whole, memory checkpoints copy, maps and fences take writes. Which slots a checkpoint stops is
the reading of log 72 (DEDUCED), and which copy a tie replaces that of log 62 (DESIGN CHOICE). -/
def Obligations.ServiceFunctions : Prop :=
  Claims.ImagesInstall ∧ Claims.CheckpointsCopy ∧ Claims.ServiceWrites

/-- Power-on and cold reset start the boot, its steps follow, and the clock steps with heat and power. One turn of COLD_RESET for
each phase is the reading of log 74 (DEDUCED), and the millisecond that of log 76 (DEDUCED). -/
def Obligations.BootAndPower : Prop :=
  Claims.ResetsStart ∧ Claims.BootSteps ∧ Claims.PowerSteps

/-- Host register writes change exactly the writable bits; identity requests are answered. The answers to indices that hold nothing
are not stated (DESIGN CHOICE, log 18), and measurement digests are opaque (DESIGN CHOICE, log 17). -/
def Obligations.RegistersAndIdentity : Prop :=
  Claims.RegistersTakeWrites ∧ Claims.IdentityAnswers

/-- Decoding the encoding of any well-formed instruction gives it back, and a decoded word is its encoding. -/
def Obligations.EncodingsRoundTrip : Prop :=
  Claims.EveryEncodingDecodes ∧ Claims.DecodedWordsEncode

/-- What computing and accessing instructions leave unchanged, and that no block or core instruction stores by itself. -/
def Obligations.InstructionFrames : Prop :=
  Claims.FiringFrame ∧ Claims.OnlyUnitsStore
end

