-- ==== Sys2Proof/Laws/Firing.lean ====
section
/-! SUPPORT. What a firing does, said once: a set that executes runs its act, whatever its instruction. -/

namespace Sys2Proof.Laws

open Sys2Proof Sys2Proof.Machine Sys2Proof.Claims

theorem mem_toks {f : Firing} {sl : Slot} {t : Tok} : (sl, t) ∈ f.toks ↔ f.tok? sl = some t := by
  cases sl <;> cases ha : f.a <;> cases hb : f.b <;> cases hc : f.c <;> cases hp : f.p <;>
    simp [Firing.toks, Firing.tok?, ha, hb, hc, hp, eq_comm]

/-- A set without markers and null tokens is a data set (R28). -/
theorem kind_data {f : Firing} (o : Bool) (hf : f.a.isSome = true ∨ f.b.isSome = true ∨ f.c.isSome = true)
    (hp : ∀ x ∈ f.toks, x.2.nul = false ∧ x.2.eos = false ∧ x.2.rol = false) : f.kind o = .data := by
  obtain ⟨x, hx, hxp⟩ : ∃ x ∈ f.toks, x.1 ≠ Slot.p := by
    rcases hf with h | h | h <;> obtain ⟨t, ht⟩ := Option.isSome_iff_exists.mp h
    · exact ⟨(.a, t), mem_toks.2 ht, by simp⟩
    · exact ⟨(.b, t), mem_toks.2 ht, by simp⟩
    · exact ⟨(.c, t), mem_toks.2 ht, by simp⟩
  have h1 : (f.toks.all fun x => x.2.rol) = false :=
    List.all_eq_false.2 ⟨x, hx, by simp [(hp x hx).2.2]⟩
  have h2 : ((f.toks.filter fun x => decide (x.1 ≠ .p)).all fun x => x.2.eos) = false :=
    List.all_eq_false.2 ⟨x, List.mem_filter.2 ⟨hx, by simpa using hxp⟩, by simp [(hp x hx).2.1]⟩
  have h3 : (f.toks.find? fun x => x.2.eos) = none :=
    List.find?_eq_none.2 fun y hy => by simp [(hp y hy).2.1]
  have h4 : ((f.dataToks o).any fun x => x.2.nul) = false :=
    List.any_eq_false.2 fun y hy => by simp [(hp y (List.mem_of_mem_filter hy)).1]
  simp only [Firing.kind, h1, h2, h3, h4, Bool.false_eq_true, if_false]

/-- A firing that executes runs its act on the state with its operations counted. -/
theorem fired_runs {s : State} {f : Firing} {sh : Shape} {act : State → State} (hr : Runs s f sh.h sh.clean) :
    s.fired sh f act = act (s.counted f sh.h.ty) := by
  have hk := kind_data sh.orderIn hr.fed hr.plain
  have hc : ((if sh.h.pm ≠ .always then Slot.p :: sh.clean else sh.clean).find? fun sl =>
      ((f.tok? sl).map Tok.poi).getD false) = none :=
    List.find?_eq_none.2 fun sl hsl => by simpa using hr.clean sl hsl
  simp only [State.fired, hk, hc, hr.pm, if_true]

theorem onFiring_runs {s : State} {f : Firing} {h : Hdr} {cl : List Slot} {g : Firing → State} (hr : Runs s f h cl) :
    onFiring s g = .next (g f) := by
  simp [onFiring, hr.focus]

/-- A one-result instruction that executes sends its result with its flags. -/
theorem compute_runs {s : State} {f : Firing} {h : Hdr} {lat : Nat} {ty : Ty} {g : Firing → Word × List Nat}
    (hr : Runs s f h []) : compute s h lat ty g = .next (computed s f h lat ty (g f).1 (g f).2) := by
  rw [compute, onFiring_runs hr]
  exact congrArg Host.Outcome.next (fired_runs (sh := { h := h, targets := [h.t0, h.t1], lat := lat }) hr)

end Sys2Proof.Laws
end

