-- ==== Sys2Proof/Laws/Access.lean ====
section
/-! SUPPORT. How a firing comes to issue an access: address checks that pass, and what a store leaves. -/

namespace Sys2Proof.Laws

open Sys2Proof Sys2Proof.Machine Sys2Proof.Claims

/-- An allowed address passes its checks. -/
theorem withVa_allowed {s : State} {f : Firing} {va : Nat} {kind : AccKind} {n : Nat} {act : Nat → State}
    (h : Allowed s f (kind.code = 2) va) : s.withVa f va kind n act = act va := by
  unfold Allowed AllowedFor at h
  unfold State.withVa
  cases hw : windowOf va <;> simp_all
  intro h2; simp [h2] at h

theorem flat_ok {s : State} {f : Firing} {b : BitVec 4} {d : BitVec 9} {kind : AccKind} {n : Nat} {act : Nat → State}
    (ha : poisonIn f .a = false) (h : Allowed s f (kind.code = 2) (flatVa s f b d)) :
    s.withFlat f b d kind n act = act (flatVa s f b d) := by
  have ha' : (f.a.map Tok.poi).getD false = false := ha
  unfold State.withFlat
  rw [ha']
  simp only [Bool.false_eq_true, if_false]
  exact withVa_allowed h

/-- A store does what the statements call `Stored`. -/
theorem stored_ok {s : State} {f : Firing} {a : Access} {h : Hdr} {t2 : Option Target} {oi : Bool} :
    Stored (.next (s.store f a [h.t0, h.t1, t2] (f.orderOut h oi))) s f h t2 oi a := by
  refine ⟨?_, ?_, ?_, ?_⟩
  · intro h1; simp [State.store, h1]; rfl
  · intro h1 h2; simp only [State.store, h1, h2, if_true]
    exact ⟨_, rfl, rfl, rfl, rfl⟩
  · intro h1 h2; simp [State.store, h1, h2]
  · intro n h1 h2; simp [State.store, h1, h2]

/-- The scratch address of R136 in range. -/
theorem scratchAddr_ok {x : Word} {disp : BitVec 13} {sa : Nat} (h1 : x.toNat < 2 ^ 28)
    (h2 : (x.toNat : Int) + disp.toInt = sa) (h3 : sa < 2 ^ 28) : scratchAddr x (sext disp) = some sa := by
  have e1 : bitsAt x.toNat 0 28 = x.toNat := by simp only [bitsAt, Nat.shiftRight_zero, Nat.mod_eq_of_lt h1]
  have e2 : bitsAt x.toNat 28 4 = 0 := by
    simp only [bitsAt, Nat.shiftRight_eq_div_pow, Nat.div_eq_of_lt h1]; rfl
  simp only [scratchAddr, e1, e2, sext, h2]
  have h3' : ¬ ((2 : Int) ^ 28 ≤ sa) := by push_cast at *; omega
  simp
  norm_num at h3' ⊢
  omega

theorem scratch_ok {s : State} {f : Firing} {disp : BitVec 13} {n code sa : Nat} {act : Nat → State}
    (hp : poisonIn f .a = false) (h : ScratchAt s f disp n sa) : s.withScratch f disp n code act = act sa := by
  obtain ⟨h1, h2, h3, h4, h5⟩ := h
  have ha' : (f.a.map Tok.poi).getD false = false := hp
  have h5' : (s.scratchPlace f.k sa).isNone = false := by simpa [Option.isSome_iff_ne_none] using h5
  simp [State.withScratch, ha', scratchAddr_ok h1 h2 h3, h4, h5']

end Sys2Proof.Laws
end

