-- ==== Sys2Proof/Laws/Lanes.lean ====
section
/-! SUPPORT. Lanes: what packing a list of lanes into a word gives back. -/

namespace Sys2Proof.Laws

open Sys2Proof Sys2Proof.Machine

theorem upFrom_length (i n : Nat) : (upFrom i n).length = n := by
  induction n generalizing i with
  | zero => rfl
  | succ n ih => simp [upFrom, ih]

theorem upFrom_get (n : Nat) : ∀ i k, k < n → (upFrom i n)[k]? = some (i + k) := by
  induction n with
  | zero => intro i k h; omega
  | succ n ih =>
    intro i k h
    cases k with
    | zero => rfl
    | succ k => simpa [upFrom, Nat.add_assoc, Nat.add_comm 1 k] using ih (i + 1) k (by omega)

@[simp] theorem upto_length (n : Nat) : (upto n).length = n := upFrom_length 0 n

theorem upto_get {n k : Nat} (h : k < n) : (upto n)[k]? = some k := by
  rw [upto, upFrom_get n 0 k h, Nat.zero_add]

theorem upto_eq (n : Nat) : upto n = List.range n := by
  apply List.ext_getElem?
  intro k
  by_cases h : k < n
  · rw [upto_get h, List.getElem?_range h]
  · simp [h]

/-- Lane `k` of packed lanes is the `k`th of the list, reduced to the width. -/
theorem packLanes_lane (w : Nat) (l : List Nat) (k : Nat) : packLanes w l / 2 ^ (w * k) % 2 ^ w = l.getD k 0 % 2 ^ w := by
  induction l generalizing k with
  | nil => simp [packLanes]
  | cons a l ih =>
    cases k with
    | zero => simp [packLanes, Nat.add_mul_mod_self_right]
    | succ k =>
      have hpos : 0 < 2 ^ w := Nat.pow_pos (by decide)
      have : (a % 2 ^ w + packLanes w l * 2 ^ w) / 2 ^ (w * (k + 1)) = packLanes w l / 2 ^ (w * k) := by
        rw [Nat.mul_succ, Nat.add_comm (w * k), Nat.pow_add, ← Nat.div_div_eq_div_mul, Nat.add_mul_div_right _ _ hpos,
          Nat.div_eq_of_lt (Nat.mod_lt _ hpos), Nat.zero_add]
      simpa [packLanes, this] using ih k

theorem packLanes_lt (w : Nat) (l : List Nat) : packLanes w l < 2 ^ (w * l.length) := by
  induction l with
  | nil => simp [packLanes]
  | cons a l ih =>
    have h : a % 2 ^ w < 2 ^ w := Nat.mod_lt _ (Nat.pow_pos (by decide))
    have : packLanes w l * 2 ^ w + 2 ^ w ≤ 2 ^ (w * l.length) * 2 ^ w := by
      rw [← Nat.succ_mul]; exact Nat.mul_le_mul_right _ ih
    simp only [packLanes, List.length_cons, Nat.mul_succ, Nat.pow_add]
    omega

/-- The lanes of a word that `pack` forms from lanes that fill at most 32 bits. -/
theorem laneBits_pack {w : Nat} {l : List Nat} {k : Nat} (hw : w * l.length ≤ 32) :
    laneBits (pack w l) w k = l.getD k 0 % 2 ^ w := by
  have : packLanes w l < 2 ^ 32 := lt_of_lt_of_le (packLanes_lt w l) (Nat.pow_le_pow_right (by decide) hw)
  rw [laneBits, pack, BitVec.toNat_ofNat, Nat.mod_eq_of_lt this, bitsAt, Nat.shiftRight_eq_div_pow, packLanes_lane]

theorem lanes_fill (t : Ty) : t.width * t.lanes ≤ 32 := by cases t <;> decide

/-- The lanes of a lane-wise result. -/
theorem lanewise_lane {t : Ty} {g : Nat → Nat × Nat} {k : Nat} (h : k < t.lanes) :
    laneBits (lanewise t g).1 t.width k = (g k).1 % 2 ^ t.width := by
  rw [lanewise, laneBits_pack (by simpa using lanes_fill t)]
  simp [List.getD_eq_getElem?_getD, upto_get h]

theorem lanewise_flags {t : Ty} {g : Nat → Nat × Nat} {k : Nat} (h : k < t.lanes) :
    (lanewise t g).2.getD k 0 = (g k).2 := by
  simp [lanewise, List.getD_eq_getElem?_getD, upto_get h]

theorem lanewise_flags_length (t : Ty) (g : Nat → Nat × Nat) : (lanewise t g).2.length = t.lanes := by
  simp [lanewise]

end Sys2Proof.Laws
end

