-- ==== Sys2Proof/Laws/Integers.lean ====
section
/-! SUPPORT. Integers reduced to a width: wrapped or saturated (R37), for one lane and for all lanes of a word. -/

namespace Sys2Proof.Laws

open Sys2Proof Sys2Proof.Machine Sys2Proof.Claims

theorem wrapNat_cast (v : Int) (w : Nat) : ((wrapNat v w : Nat) : Int) = v % 2 ^ w := by
  have : (0:Int) ≤ v % ((2 ^ w : Nat) : Int) := Int.emod_nonneg _ (by positivity)
  simp only [wrapNat, Int.toNat_of_nonneg this]; push_cast; rfl

theorem wrapNat_lt (v : Int) (w : Nat) : wrapNat v w < 2 ^ w := by
  have h : v % ((2 ^ w : Nat) : Int) < ((2 ^ w : Nat) : Int) := Int.emod_lt_of_pos _ (by positivity)
  have := wrapNat_cast v w
  zify; rw [this]; push_cast at h; exact h

/-- Reduction is what the statements call `Reduced`. -/
theorem reduced (r : Int) (w : Nat) (sgn sat : Bool) : Reduced w sgn sat r (reduceInt r w sgn sat).1 (reduceInt r w sgn sat).2 := by
  unfold Reduced reduceInt satInt
  cases sat <;> simp only [Bool.false_eq_true, false_and, if_false, true_and, if_true]
  · exact ⟨wrapNat_lt _ _, wrapNat_cast _ _⟩
  · refine ⟨wrapNat_lt _ _, ?_⟩
    split
    · exact ⟨rfl, wrapNat_cast _ _⟩
    · split
      · exact ⟨rfl, wrapNat_cast _ _⟩
      · exact ⟨rfl, wrapNat_cast _ _⟩

/-- A lane-wise instruction sends the reduced lanes. -/
theorem sendsLanes {s : State} {f : Firing} {h : Hdr} {lat : Nat} {sat : Bool} {g : Firing → Nat → Int} (hr : Runs s f h []) :
    SendsLanes (compute s h lat h.ty fun f => intLanes h.ty sat (g f)) s f h lat sat (g f) := by
  refine ⟨_, _, compute_runs hr, lanewise_flags_length _ _, fun k hk => ?_⟩
  dsimp only [intLanes]
  rw [lanewise_lane hk, lanewise_flags hk, Nat.mod_eq_of_lt]
  · exact reduced _ _ _ _
  · exact (reduced _ _ _ _).1

/-- An instruction with one integer result sends it reduced. -/
theorem sendsInt {s : State} {f : Firing} {h : Hdr} {lat : Nat} {ty : Ty} {sat : Bool} {g : Firing → Int} (hr : Runs s f h []) :
    SendsInt (intScalar s h lat ty sat g) s f h lat ty sat (g f) := by
  refine ⟨_, _, compute_runs hr, ?_⟩
  dsimp only
  rw [BitVec.toNat_ofNat, Nat.mod_eq_of_lt (reduced _ _ _ _).1]
  exact reduced _ _ _ _

end Sys2Proof.Laws
end

