-- ==== Sys2Proof/Laws/Memory.lean ====
section
/-! SUPPORT. Memories: a read after a write, and that every memory operation keeps the canonical form. -/

namespace Sys2Proof.Machine

/-- A byte that was just written reads as written. -/
@[simp] theorem getCell_putCell_self (l : List Host.Cell) (a : Nat) (v : Byte) : getCell (putCell l a v) a = v := by
  have drop : ∀ l : List Host.Cell, getCell (dropCell l a) a = 0 := by
    intro l
    induction l with
    | nil => rfl
    | cons c r ih => obtain ⟨x, b⟩ := c; by_cases hx : x = a <;> simp [dropCell, getCell, hx, ih]
  have ins : ∀ l : List Host.Cell, getCell (insertCell l a v) a = v := by
    intro l
    induction l with
    | nil => simp [insertCell, getCell]
    | cons c r ih =>
      obtain ⟨x, b⟩ := c
      simp only [insertCell]
      split
      · simp [getCell]
      · split
        · simp [getCell]
        · rename_i _ h2; simp [getCell, Ne.symm h2, ih]
  unfold putCell
  split
  · next hv => rw [drop, hv]
  · exact ins l

theorem getCell_dropCell (l : List Host.Cell) {a x : Nat} (h : x ≠ a) : getCell (dropCell l a) x = getCell l x := by
  induction l with
  | nil => rfl
  | cons c r ih =>
    obtain ⟨y, b⟩ := c
    by_cases hy : y = a
    · subst hy; simp [dropCell, getCell, ih, Ne.symm h]
    · simp [dropCell, getCell, hy, ih]

theorem getCell_insertCell (l : List Host.Cell) {a x : Nat} (v : Byte) (h : x ≠ a) :
    getCell (insertCell l a v) x = getCell l x := by
  induction l with
  | nil => simp [insertCell, getCell, Ne.symm h]
  | cons c r ih =>
    obtain ⟨y, b⟩ := c
    simp only [insertCell]
    split
    · simp [getCell, Ne.symm h]
    · split
      · next hy => subst hy; simp [getCell, Ne.symm h]
      · simp [getCell, ih]

/-- Every other byte reads as before. -/
theorem getCell_putCell_ne (l : List Host.Cell) {a x : Nat} (v : Byte) (h : x ≠ a) :
    getCell (putCell l a v) x = getCell l x := by
  unfold putCell
  split
  · exact getCell_dropCell l h
  · exact getCell_insertCell l v h

theorem cellsAbove_mono {l : List Host.Cell} {i j : Nat} (h : i ≤ j) (hl : cellsAbove j l = true) : cellsAbove i l = true := by
  cases l with
  | nil => rfl
  | cons c r =>
    obtain ⟨a, b⟩ := c
    simp only [cellsAbove, Bool.and_eq_true, decide_eq_true_eq] at hl ⊢
    exact ⟨⟨by omega, hl.1.2⟩, hl.2⟩

theorem cellsAbove_filter (p : Host.Cell → Bool) {l : List Host.Cell} {i : Nat} (hl : cellsAbove i l = true) :
    cellsAbove i (l.filter p) = true := by
  induction l generalizing i with
  | nil => rfl
  | cons c r ih =>
    obtain ⟨a, b⟩ := c
    simp only [cellsAbove, Bool.and_eq_true, decide_eq_true_eq] at hl
    simp only [List.filter_cons]
    split
    · simp only [cellsAbove, Bool.and_eq_true, decide_eq_true_eq]
      exact ⟨hl.1, ih hl.2⟩
    · exact cellsAbove_mono (by omega) (ih hl.2)

theorem dropCell_eq (l : List Host.Cell) (a : Nat) : dropCell l a = l.filter fun c => decide (c.1 ≠ a) := by
  induction l with
  | nil => rfl
  | cons c r ih => obtain ⟨x, b⟩ := c; by_cases h : x = a <;> simp [dropCell, h, ih]

theorem cellsAbove_cons {i a : Nat} {b : Byte} {r : List Host.Cell} :
    cellsAbove i ((a, b) :: r) = true ↔ (i ≤ a ∧ b ≠ 0) ∧ cellsAbove (a + 1) r = true := by
  simp only [cellsAbove, Bool.and_eq_true, decide_eq_true_eq]

theorem cellsAbove_insertCell {l : List Host.Cell} {i a : Nat} {v : Byte} (hi : i ≤ a) (hv : v ≠ 0)
    (hl : cellsAbove i l = true) : cellsAbove i (insertCell l a v) = true := by
  induction l generalizing i with
  | nil => exact cellsAbove_cons.2 ⟨⟨hi, hv⟩, rfl⟩
  | cons c r ih =>
    obtain ⟨x, b⟩ := c
    have hc := cellsAbove_cons.1 hl
    simp only [insertCell]
    split
    · next h => exact cellsAbove_cons.2 ⟨⟨hi, hv⟩, cellsAbove_cons.2 ⟨⟨h, hc.1.2⟩, hc.2⟩⟩
    · split
      · next h => subst h; exact cellsAbove_cons.2 ⟨⟨hc.1.1, hv⟩, hc.2⟩
      · next h1 h2 => exact cellsAbove_cons.2 ⟨hc.1, ih (show x + 1 ≤ a by omega) hc.2⟩

/-- A byte write keeps the canonical form. -/
theorem putCell_wf {l : List Host.Cell} (a : Nat) (v : Byte) (h : Memory.wf l = true) : Memory.wf (putCell l a v) = true := by
  unfold putCell
  split
  · rw [dropCell_eq]; exact cellsAbove_filter _ h
  · next hv => exact cellsAbove_insertCell (Nat.zero_le a) hv h

/-- A write of bytes keeps the canonical form. -/
theorem putBytes_wf {l : List Host.Cell} (a : Nat) (b : List Byte) (h : Memory.wf l = true) :
    Memory.wf (putBytes l a b) = true := by
  induction b generalizing l a with
  | nil => exact h
  | cons x r ih => exact ih (a + 1) (putCell_wf a x h)

theorem putNat_wf {l : List Host.Cell} (a n v : Nat) (h : Memory.wf l = true) : Memory.wf (putNat l a n v) = true :=
  putBytes_wf a _ h

/-- A range cleared, as a scrub, a trim or a discard does, keeps the canonical form. -/
theorem clearRange_wf {l : List Host.Cell} (a n : Nat) (h : Memory.wf l = true) : Memory.wf (clearRange l a n) = true :=
  cellsAbove_filter _ h

/-- Cells put one after another keep the canonical form. -/
theorem putCells_wf (g : Host.Cell → Nat) {l : List Host.Cell} (cs : List Host.Cell) (h : Memory.wf l = true) :
    Memory.wf (cs.foldl (fun l c => putCell l (g c) c.2) l) = true := by
  induction cs generalizing l with
  | nil => exact h
  | cons c r ih => exact ih (putCell_wf _ _ h)

/-- A range copied within a memory keeps the canonical form. -/
theorem copyRange_wf {l : List Host.Cell} (src dst n : Nat) (h : Memory.wf l = true) :
    Memory.wf (copyRange l src dst n) = true :=
  putCells_wf Prod.fst _ (clearRange_wf dst n h)

theorem setCells_memWf {s : State} {st : Store} {l : List Host.Cell} (h : s.memWf) (hl : Memory.wf l = true) :
    (s.setCells st l).memWf := by
  obtain ⟨h1, h2, h3, h4⟩ := h
  cases st <;> exact ⟨by assumption, by assumption, by assumption, by assumption⟩

theorem cells_wf {s : State} (st : Store) (h : s.memWf) : Memory.wf (s.cells st) = true := by
  obtain ⟨h1, h2, h3, h4⟩ := h
  cases st <;> assumption

/-- A write to a store keeps the canonical form of all four memories. -/
theorem writeB_memWf {s : State} (st : Store) (a : Nat) (b : List Byte) (h : s.memWf) : (s.writeB st a b).memWf :=
  setCells_memWf h (putBytes_wf a b (cells_wf st h))

theorem writeN_memWf {s : State} (st : Store) (a n v : Nat) (h : s.memWf) : (s.writeN st a n v).memWf :=
  writeB_memWf st a _ h

/-- The memories after reset are in canonical form. -/
theorem reset_memWf : State.reset.memWf := by decide

/-- A write of bytes leaves every byte outside it. -/
theorem getCell_putBytes_ne (b : List Byte) : ∀ (l : List Host.Cell) (a : Nat) {x : Nat}, (x < a ∨ a + b.length ≤ x) →
    getCell (putBytes l a b) x = getCell l x := by
  induction b with
  | nil => intro l a x _; rfl
  | cons v r ih =>
    intro l a x h
    simp only [List.length_cons] at h
    rw [putBytes, ih _ _ (by omega), getCell_putCell_ne _ _ (by omega)]

/-- A write of bytes reads back. -/
theorem getCell_putBytes (b : List Byte) : ∀ (l : List Host.Cell) (a i : Nat) (h : i < b.length),
    getCell (putBytes l a b) (a + i) = b[i] := by
  induction b with
  | nil => intro l a i h; exact absurd h (by simp)
  | cons v r ih =>
    intro l a i h
    cases i with
    | zero =>
      rw [putBytes, getCell_putBytes_ne r _ _ (by omega)]
      exact getCell_putCell_self l a v
    | succ i =>
      have := ih (putCell l a v) (a + 1) i (by simpa using h)
      simpa [putBytes, Nat.add_assoc, Nat.add_comm 1 i] using this

@[simp] theorem cells_setCells_self (s : State) (st : Store) (l : List Host.Cell) : (s.setCells st l).cells st = l := by
  cases st <;> rfl

theorem cells_setCells_ne (s : State) {st su : Store} (l : List Host.Cell) (h : su ≠ st) :
    (s.setCells st l).cells su = s.cells su := by
  cases st <;> cases su <;> first | rfl | exact absurd rfl h

end Sys2Proof.Machine
end

