-- ==== Sys2Proof/Laws/State.lean ====
section
/-! SUPPORT. One lemma for each field of a state under each named update: what the update writes, and that it keeps the rest. -/

namespace Sys2Proof.Machine

variable {s : State}

@[simp] theorem State.modFab_cyc {g : Fabric → Fabric} : (s.modFab g).cyc = s.cyc := rfl
@[simp] theorem State.modFab_agenda {g : Fabric → Fabric} : (s.modFab g).agenda = s.agenda := rfl
@[simp] theorem State.modFab_cur {g : Fabric → Fabric} : (s.modFab g).cur = s.cur := rfl
@[simp] theorem State.modFab_curCore {g : Fabric → Fabric} : (s.modFab g).curCore = s.curCore := rfl
@[simp] theorem State.modFab_arg {g : Fabric → Fabric} : (s.modFab g).arg = s.arg := rfl
@[simp] theorem State.modFab_held {g : Fabric → Fabric} : (s.modFab g).held = s.held := rfl
@[simp] theorem State.modFab_left {g : Fabric → Fabric} : (s.modFab g).left = s.left := rfl
@[simp] theorem State.modFab_ctr {g : Fabric → Fabric} : (s.modFab g).ctr = s.ctr := rfl
@[simp] theorem State.modFab_fresh {g : Fabric → Fabric} : (s.modFab g).fresh = s.fresh := rfl
@[simp] theorem State.modFab_regs {g : Fabric → Fabric} : (s.modFab g).regs = s.regs := rfl
@[simp] theorem State.modFab_raised {g : Fabric → Fabric} : (s.modFab g).raised = s.raised := rfl
@[simp] theorem State.modFab_dmem {g : Fabric → Fabric} : (s.modFab g).dmem = s.dmem := rfl
@[simp] theorem State.modFab_hmem {g : Fabric → Fabric} : (s.modFab g).hmem = s.hmem := rfl
@[simp] theorem State.modFab_scr {g : Fabric → Fabric} : (s.modFab g).scr = s.scr := rfl
@[simp] theorem State.modFab_wbuf {g : Fabric → Fabric} : (s.modFab g).wbuf = s.wbuf := rfl
@[simp] theorem State.modFab_pres {g : Fabric → Fabric} : (s.modFab g).pres = s.pres := rfl
@[simp] theorem State.modFab_poisD {g : Fabric → Fabric} : (s.modFab g).poisD = s.poisD := rfl
@[simp] theorem State.modFab_poisH {g : Fabric → Fabric} : (s.modFab g).poisH = s.poisH := rfl
@[simp] theorem State.modFab_poisS {g : Fabric → Fabric} : (s.modFab g).poisS = s.poisS := rfl
@[simp] theorem State.modFab_poisW {g : Fabric → Fabric} : (s.modFab g).poisW = s.poisW := rfl
@[simp] theorem State.modFab_fab {g : Fabric → Fabric} : (s.modFab g).fab = g s.fab := rfl
@[simp] theorem State.modFab_saved {g : Fabric → Fabric} : (s.modFab g).saved = s.saved := rfl
@[simp] theorem State.modFab_stops {g : Fabric → Fabric} : (s.modFab g).stops = s.stops := rfl
@[simp] theorem State.modFab_insts {g : Fabric → Fabric} : (s.modFab g).insts = s.insts := rfl
@[simp] theorem State.modFab_gathers {g : Fabric → Fabric} : (s.modFab g).gathers = s.gathers := rfl
@[simp] theorem State.modFab_cands {g : Fabric → Fabric} : (s.modFab g).cands = s.cands := rfl
@[simp] theorem State.modFab_delivs {g : Fabric → Fabric} : (s.modFab g).delivs = s.delivs := rfl
@[simp] theorem State.modFab_fetches {g : Fabric → Fabric} : (s.modFab g).fetches = s.fetches := rfl
@[simp] theorem State.modFab_ccache {g : Fabric → Fabric} : (s.modFab g).ccache = s.ccache := rfl
@[simp] theorem State.modFab_traps {g : Fabric → Fabric} : (s.modFab g).traps = s.traps := rfl
@[simp] theorem State.modFab_voided {g : Fabric → Fabric} : (s.modFab g).voided = s.voided := rfl
@[simp] theorem State.modFab_hostEvts {g : Fabric → Fabric} : (s.modFab g).hostEvts = s.hostEvts := rfl
@[simp] theorem State.modFab_pfaults {g : Fabric → Fabric} : (s.modFab g).pfaults = s.pfaults := rfl
@[simp] theorem State.modFab_nextFid {g : Fabric → Fabric} : (s.modFab g).nextFid = s.nextFid := rfl
@[simp] theorem State.modFab_tlb {g : Fabric → Fabric} : (s.modFab g).tlb = s.tlb := rfl
@[simp] theorem State.modFab_walks {g : Fabric → Fabric} : (s.modFab g).walks = s.walks := rfl
@[simp] theorem State.modFab_asids {g : Fabric → Fabric} : (s.modFab g).asids = s.asids := rfl
@[simp] theorem State.modFab_tileEnts {g : Fabric → Fabric} : (s.modFab g).tileEnts = s.tileEnts := rfl
@[simp] theorem State.modFab_invq {g : Fabric → Fabric} : (s.modFab g).invq = s.invq := rfl
@[simp] theorem State.modFab_scrubs {g : Fabric → Fabric} : (s.modFab g).scrubs = s.scrubs := rfl
@[simp] theorem State.modFab_regGens {g : Fabric → Fabric} : (s.modFab g).regGens = s.regGens := rfl
@[simp] theorem State.modFab_qtab {g : Fabric → Fabric} : (s.modFab g).qtab = s.qtab := rfl
@[simp] theorem State.modFab_sheaves {g : Fabric → Fabric} : (s.modFab g).sheaves = s.sheaves := rfl
@[simp] theorem State.modFab_waiters {g : Fabric → Fabric} : (s.modFab g).waiters = s.waiters := rfl
@[simp] theorem State.modFab_pubs {g : Fabric → Fabric} : (s.modFab g).pubs = s.pubs := rfl
@[simp] theorem State.modFab_pubSeq {g : Fabric → Fabric} : (s.modFab g).pubSeq = s.pubSeq := rfl
@[simp] theorem State.modFab_tasks {g : Fabric → Fabric} : (s.modFab g).tasks = s.tasks := rfl
@[simp] theorem State.modFab_taskQ {g : Fabric → Fabric} : (s.modFab g).taskQ = s.taskQ := rfl
@[simp] theorem State.modFab_ranks {g : Fabric → Fabric} : (s.modFab g).ranks = s.ranks := rfl
@[simp] theorem State.modFab_chunks {g : Fabric → Fabric} : (s.modFab g).chunks = s.chunks := rfl
@[simp] theorem State.modFab_collSeq {g : Fabric → Fabric} : (s.modFab g).collSeq = s.collSeq := rfl
@[simp] theorem State.modFab_ports {g : Fabric → Fabric} : (s.modFab g).ports = s.ports := rfl
@[simp] theorem State.modFab_snoop {g : Fabric → Fabric} : (s.modFab g).snoop = s.snoop := rfl
@[simp] theorem State.modFab_hostCopy {g : Fabric → Fabric} : (s.modFab g).hostCopy = s.hostCopy := rfl
@[simp] theorem State.modFab_agent {g : Fabric → Fabric} : (s.modFab g).agent = s.agent := rfl
@[simp] theorem State.modFab_decoders {g : Fabric → Fabric} : (s.modFab g).decoders = s.decoders := rfl
@[simp] theorem State.modFab_cxl {g : Fabric → Fabric} : (s.modFab g).cxl = s.cxl := rfl
@[simp] theorem State.modFab_hostBusy {g : Fabric → Fabric} : (s.modFab g).hostBusy = s.hostBusy := rfl
@[simp] theorem State.modFab_loadq {g : Fabric → Fabric} : (s.modFab g).loadq = s.loadq := rfl
@[simp] theorem State.modFab_loadFault {g : Fabric → Fabric} : (s.modFab g).loadFault = s.loadFault := rfl
@[simp] theorem State.modFab_loadFailed {g : Fabric → Fabric} : (s.modFab g).loadFailed = s.loadFailed := rfl
@[simp] theorem State.modFab_tcFlushing {g : Fabric → Fabric} : (s.modFab g).tcFlushing = s.tcFlushing := rfl
@[simp] theorem State.modFab_images {g : Fabric → Fabric} : (s.modFab g).images = s.images := rfl
@[simp] theorem State.modFab_tcLevel {g : Fabric → Fabric} : (s.modFab g).tcLevel = s.tcLevel := rfl
@[simp] theorem State.modFab_tcLook {g : Fabric → Fabric} : (s.modFab g).tcLook = s.tcLook := rfl
@[simp] theorem State.modFab_tc {g : Fabric → Fabric} : (s.modFab g).tc = s.tc := rfl
@[simp] theorem State.modFab_slots {g : Fabric → Fabric} : (s.modFab g).slots = s.slots := rfl
@[simp] theorem State.modFab_hooks {g : Fabric → Fabric} : (s.modFab g).hooks = s.hooks := rfl
@[simp] theorem State.modFab_patchCode {g : Fabric → Fabric} : (s.modFab g).patchCode = s.patchCode := rfl
@[simp] theorem State.modFab_patchImg {g : Fabric → Fabric} : (s.modFab g).patchImg = s.patchImg := rfl
@[simp] theorem State.modFab_belCopies {g : Fabric → Fabric} : (s.modFab g).belCopies = s.belCopies := rfl
@[simp] theorem State.modFab_belLoad {g : Fabric → Fabric} : (s.modFab g).belLoad = s.belLoad := rfl
@[simp] theorem State.modFab_fwImg {g : Fabric → Fabric} : (s.modFab g).fwImg = s.fwImg := rfl
@[simp] theorem State.modFab_fwCopies {g : Fabric → Fabric} : (s.modFab g).fwCopies = s.fwCopies := rfl
@[simp] theorem State.modFab_fwReq {g : Fabric → Fabric} : (s.modFab g).fwReq = s.fwReq := rfl
@[simp] theorem State.modFab_preempt {g : Fabric → Fabric} : (s.modFab g).preempt = s.preempt := rfl
@[simp] theorem State.modFab_turnAt {g : Fabric → Fabric} : (s.modFab g).turnAt = s.turnAt := rfl
@[simp] theorem State.modFab_reeveK {g : Fabric → Fabric} : (s.modFab g).reeveK = s.reeveK := rfl
@[simp] theorem State.modFab_reeveTaken {g : Fabric → Fabric} : (s.modFab g).reeveTaken = s.reeveTaken := rfl
@[simp] theorem State.modFab_reeveLast {g : Fabric → Fabric} : (s.modFab g).reeveLast = s.reeveLast := rfl
@[simp] theorem State.modFab_reeveClose {g : Fabric → Fabric} : (s.modFab g).reeveClose = s.reeveClose := rfl
@[simp] theorem State.modFab_gongAt {g : Fabric → Fabric} : (s.modFab g).gongAt = s.gongAt := rfl
@[simp] theorem State.modFab_snap {g : Fabric → Fabric} : (s.modFab g).snap = s.snap := rfl
@[simp] theorem State.modFab_freezes {g : Fabric → Fabric} : (s.modFab g).freezes = s.freezes := rfl
@[simp] theorem State.modFab_errLog {g : Fabric → Fabric} : (s.modFab g).errLog = s.errLog := rfl
@[simp] theorem State.modFab_errCount {g : Fabric → Fabric} : (s.modFab g).errCount = s.errCount := rfl
@[simp] theorem State.modFab_masks {g : Fabric → Fabric} : (s.modFab g).masks = s.masks := rfl
@[simp] theorem State.modFab_mck {g : Fabric → Fabric} : (s.modFab g).mck = s.mck := rfl
@[simp] theorem State.modFab_shadowRet {g : Fabric → Fabric} : (s.modFab g).shadowRet = s.shadowRet := rfl
@[simp] theorem State.modFab_shadowDrop {g : Fabric → Fabric} : (s.modFab g).shadowDrop = s.shadowDrop := rfl
@[simp] theorem State.modFab_badBound {g : Fabric → Fabric} : (s.modFab g).badBound = s.badBound := rfl
@[simp] theorem State.modFab_retired {g : Fabric → Fabric} : (s.modFab g).retired = s.retired := rfl
@[simp] theorem State.modFab_overtemp {g : Fabric → Fabric} : (s.modFab g).overtemp = s.overtemp := rfl
@[simp] theorem State.modFab_counts {g : Fabric → Fabric} : (s.modFab g).counts = s.counts := rfl
@[simp] theorem State.modFab_doe {g : Fabric → Fabric} : (s.modFab g).doe = s.doe := rfl

@[simp] theorem State.setReg_cyc {r : Reg} {v : DWord} : (s.setReg r v).cyc = s.cyc := rfl
@[simp] theorem State.setReg_agenda {r : Reg} {v : DWord} : (s.setReg r v).agenda = s.agenda := rfl
@[simp] theorem State.setReg_cur {r : Reg} {v : DWord} : (s.setReg r v).cur = s.cur := rfl
@[simp] theorem State.setReg_curCore {r : Reg} {v : DWord} : (s.setReg r v).curCore = s.curCore := rfl
@[simp] theorem State.setReg_arg {r : Reg} {v : DWord} : (s.setReg r v).arg = s.arg := rfl
@[simp] theorem State.setReg_held {r : Reg} {v : DWord} : (s.setReg r v).held = s.held := rfl
@[simp] theorem State.setReg_left {r : Reg} {v : DWord} : (s.setReg r v).left = s.left := rfl
@[simp] theorem State.setReg_ctr {r : Reg} {v : DWord} : (s.setReg r v).ctr = s.ctr := rfl
@[simp] theorem State.setReg_fresh {r : Reg} {v : DWord} : (s.setReg r v).fresh = s.fresh := rfl
@[simp] theorem State.setReg_regs {r : Reg} {v : DWord} : (s.setReg r v).regs = if v = r.reset then dropReg s.regs r.offset else putReg s.regs r.offset v := rfl
@[simp] theorem State.setReg_raised {r : Reg} {v : DWord} : (s.setReg r v).raised = s.raised := rfl
@[simp] theorem State.setReg_dmem {r : Reg} {v : DWord} : (s.setReg r v).dmem = s.dmem := rfl
@[simp] theorem State.setReg_hmem {r : Reg} {v : DWord} : (s.setReg r v).hmem = s.hmem := rfl
@[simp] theorem State.setReg_scr {r : Reg} {v : DWord} : (s.setReg r v).scr = s.scr := rfl
@[simp] theorem State.setReg_wbuf {r : Reg} {v : DWord} : (s.setReg r v).wbuf = s.wbuf := rfl
@[simp] theorem State.setReg_pres {r : Reg} {v : DWord} : (s.setReg r v).pres = s.pres := rfl
@[simp] theorem State.setReg_poisD {r : Reg} {v : DWord} : (s.setReg r v).poisD = s.poisD := rfl
@[simp] theorem State.setReg_poisH {r : Reg} {v : DWord} : (s.setReg r v).poisH = s.poisH := rfl
@[simp] theorem State.setReg_poisS {r : Reg} {v : DWord} : (s.setReg r v).poisS = s.poisS := rfl
@[simp] theorem State.setReg_poisW {r : Reg} {v : DWord} : (s.setReg r v).poisW = s.poisW := rfl
@[simp] theorem State.setReg_fab {r : Reg} {v : DWord} : (s.setReg r v).fab = s.fab := rfl
@[simp] theorem State.setReg_saved {r : Reg} {v : DWord} : (s.setReg r v).saved = s.saved := rfl
@[simp] theorem State.setReg_stops {r : Reg} {v : DWord} : (s.setReg r v).stops = s.stops := rfl
@[simp] theorem State.setReg_insts {r : Reg} {v : DWord} : (s.setReg r v).insts = s.insts := rfl
@[simp] theorem State.setReg_gathers {r : Reg} {v : DWord} : (s.setReg r v).gathers = s.gathers := rfl
@[simp] theorem State.setReg_cands {r : Reg} {v : DWord} : (s.setReg r v).cands = s.cands := rfl
@[simp] theorem State.setReg_delivs {r : Reg} {v : DWord} : (s.setReg r v).delivs = s.delivs := rfl
@[simp] theorem State.setReg_fetches {r : Reg} {v : DWord} : (s.setReg r v).fetches = s.fetches := rfl
@[simp] theorem State.setReg_ccache {r : Reg} {v : DWord} : (s.setReg r v).ccache = s.ccache := rfl
@[simp] theorem State.setReg_traps {r : Reg} {v : DWord} : (s.setReg r v).traps = s.traps := rfl
@[simp] theorem State.setReg_voided {r : Reg} {v : DWord} : (s.setReg r v).voided = s.voided := rfl
@[simp] theorem State.setReg_hostEvts {r : Reg} {v : DWord} : (s.setReg r v).hostEvts = s.hostEvts := rfl
@[simp] theorem State.setReg_pfaults {r : Reg} {v : DWord} : (s.setReg r v).pfaults = s.pfaults := rfl
@[simp] theorem State.setReg_nextFid {r : Reg} {v : DWord} : (s.setReg r v).nextFid = s.nextFid := rfl
@[simp] theorem State.setReg_tlb {r : Reg} {v : DWord} : (s.setReg r v).tlb = s.tlb := rfl
@[simp] theorem State.setReg_walks {r : Reg} {v : DWord} : (s.setReg r v).walks = s.walks := rfl
@[simp] theorem State.setReg_asids {r : Reg} {v : DWord} : (s.setReg r v).asids = s.asids := rfl
@[simp] theorem State.setReg_tileEnts {r : Reg} {v : DWord} : (s.setReg r v).tileEnts = s.tileEnts := rfl
@[simp] theorem State.setReg_invq {r : Reg} {v : DWord} : (s.setReg r v).invq = s.invq := rfl
@[simp] theorem State.setReg_scrubs {r : Reg} {v : DWord} : (s.setReg r v).scrubs = s.scrubs := rfl
@[simp] theorem State.setReg_regGens {r : Reg} {v : DWord} : (s.setReg r v).regGens = s.regGens := rfl
@[simp] theorem State.setReg_qtab {r : Reg} {v : DWord} : (s.setReg r v).qtab = s.qtab := rfl
@[simp] theorem State.setReg_sheaves {r : Reg} {v : DWord} : (s.setReg r v).sheaves = s.sheaves := rfl
@[simp] theorem State.setReg_waiters {r : Reg} {v : DWord} : (s.setReg r v).waiters = s.waiters := rfl
@[simp] theorem State.setReg_pubs {r : Reg} {v : DWord} : (s.setReg r v).pubs = s.pubs := rfl
@[simp] theorem State.setReg_pubSeq {r : Reg} {v : DWord} : (s.setReg r v).pubSeq = s.pubSeq := rfl
@[simp] theorem State.setReg_tasks {r : Reg} {v : DWord} : (s.setReg r v).tasks = s.tasks := rfl
@[simp] theorem State.setReg_taskQ {r : Reg} {v : DWord} : (s.setReg r v).taskQ = s.taskQ := rfl
@[simp] theorem State.setReg_ranks {r : Reg} {v : DWord} : (s.setReg r v).ranks = s.ranks := rfl
@[simp] theorem State.setReg_chunks {r : Reg} {v : DWord} : (s.setReg r v).chunks = s.chunks := rfl
@[simp] theorem State.setReg_collSeq {r : Reg} {v : DWord} : (s.setReg r v).collSeq = s.collSeq := rfl
@[simp] theorem State.setReg_ports {r : Reg} {v : DWord} : (s.setReg r v).ports = s.ports := rfl
@[simp] theorem State.setReg_snoop {r : Reg} {v : DWord} : (s.setReg r v).snoop = s.snoop := rfl
@[simp] theorem State.setReg_hostCopy {r : Reg} {v : DWord} : (s.setReg r v).hostCopy = s.hostCopy := rfl
@[simp] theorem State.setReg_agent {r : Reg} {v : DWord} : (s.setReg r v).agent = s.agent := rfl
@[simp] theorem State.setReg_decoders {r : Reg} {v : DWord} : (s.setReg r v).decoders = s.decoders := rfl
@[simp] theorem State.setReg_cxl {r : Reg} {v : DWord} : (s.setReg r v).cxl = s.cxl := rfl
@[simp] theorem State.setReg_hostBusy {r : Reg} {v : DWord} : (s.setReg r v).hostBusy = s.hostBusy := rfl
@[simp] theorem State.setReg_loadq {r : Reg} {v : DWord} : (s.setReg r v).loadq = s.loadq := rfl
@[simp] theorem State.setReg_loadFault {r : Reg} {v : DWord} : (s.setReg r v).loadFault = s.loadFault := rfl
@[simp] theorem State.setReg_loadFailed {r : Reg} {v : DWord} : (s.setReg r v).loadFailed = s.loadFailed := rfl
@[simp] theorem State.setReg_tcFlushing {r : Reg} {v : DWord} : (s.setReg r v).tcFlushing = s.tcFlushing := rfl
@[simp] theorem State.setReg_images {r : Reg} {v : DWord} : (s.setReg r v).images = s.images := rfl
@[simp] theorem State.setReg_tcLevel {r : Reg} {v : DWord} : (s.setReg r v).tcLevel = s.tcLevel := rfl
@[simp] theorem State.setReg_tcLook {r : Reg} {v : DWord} : (s.setReg r v).tcLook = s.tcLook := rfl
@[simp] theorem State.setReg_tc {r : Reg} {v : DWord} : (s.setReg r v).tc = s.tc := rfl
@[simp] theorem State.setReg_slots {r : Reg} {v : DWord} : (s.setReg r v).slots = s.slots := rfl
@[simp] theorem State.setReg_hooks {r : Reg} {v : DWord} : (s.setReg r v).hooks = s.hooks := rfl
@[simp] theorem State.setReg_patchCode {r : Reg} {v : DWord} : (s.setReg r v).patchCode = s.patchCode := rfl
@[simp] theorem State.setReg_patchImg {r : Reg} {v : DWord} : (s.setReg r v).patchImg = s.patchImg := rfl
@[simp] theorem State.setReg_belCopies {r : Reg} {v : DWord} : (s.setReg r v).belCopies = s.belCopies := rfl
@[simp] theorem State.setReg_belLoad {r : Reg} {v : DWord} : (s.setReg r v).belLoad = s.belLoad := rfl
@[simp] theorem State.setReg_fwImg {r : Reg} {v : DWord} : (s.setReg r v).fwImg = s.fwImg := rfl
@[simp] theorem State.setReg_fwCopies {r : Reg} {v : DWord} : (s.setReg r v).fwCopies = s.fwCopies := rfl
@[simp] theorem State.setReg_fwReq {r : Reg} {v : DWord} : (s.setReg r v).fwReq = s.fwReq := rfl
@[simp] theorem State.setReg_preempt {r : Reg} {v : DWord} : (s.setReg r v).preempt = s.preempt := rfl
@[simp] theorem State.setReg_turnAt {r : Reg} {v : DWord} : (s.setReg r v).turnAt = s.turnAt := rfl
@[simp] theorem State.setReg_reeveK {r : Reg} {v : DWord} : (s.setReg r v).reeveK = s.reeveK := rfl
@[simp] theorem State.setReg_reeveTaken {r : Reg} {v : DWord} : (s.setReg r v).reeveTaken = s.reeveTaken := rfl
@[simp] theorem State.setReg_reeveLast {r : Reg} {v : DWord} : (s.setReg r v).reeveLast = s.reeveLast := rfl
@[simp] theorem State.setReg_reeveClose {r : Reg} {v : DWord} : (s.setReg r v).reeveClose = s.reeveClose := rfl
@[simp] theorem State.setReg_gongAt {r : Reg} {v : DWord} : (s.setReg r v).gongAt = s.gongAt := rfl
@[simp] theorem State.setReg_snap {r : Reg} {v : DWord} : (s.setReg r v).snap = s.snap := rfl
@[simp] theorem State.setReg_freezes {r : Reg} {v : DWord} : (s.setReg r v).freezes = s.freezes := rfl
@[simp] theorem State.setReg_errLog {r : Reg} {v : DWord} : (s.setReg r v).errLog = s.errLog := rfl
@[simp] theorem State.setReg_errCount {r : Reg} {v : DWord} : (s.setReg r v).errCount = s.errCount := rfl
@[simp] theorem State.setReg_masks {r : Reg} {v : DWord} : (s.setReg r v).masks = s.masks := rfl
@[simp] theorem State.setReg_mck {r : Reg} {v : DWord} : (s.setReg r v).mck = s.mck := rfl
@[simp] theorem State.setReg_shadowRet {r : Reg} {v : DWord} : (s.setReg r v).shadowRet = s.shadowRet := rfl
@[simp] theorem State.setReg_shadowDrop {r : Reg} {v : DWord} : (s.setReg r v).shadowDrop = s.shadowDrop := rfl
@[simp] theorem State.setReg_badBound {r : Reg} {v : DWord} : (s.setReg r v).badBound = s.badBound := rfl
@[simp] theorem State.setReg_retired {r : Reg} {v : DWord} : (s.setReg r v).retired = s.retired := rfl
@[simp] theorem State.setReg_overtemp {r : Reg} {v : DWord} : (s.setReg r v).overtemp = s.overtemp := rfl
@[simp] theorem State.setReg_counts {r : Reg} {v : DWord} : (s.setReg r v).counts = s.counts := rfl
@[simp] theorem State.setReg_doe {r : Reg} {v : DWord} : (s.setReg r v).doe = s.doe := rfl

@[simp] theorem State.setFull_cyc {g : Nat} {b : Bool} : (s.setFull g b).cyc = s.cyc := rfl
@[simp] theorem State.setFull_agenda {g : Nat} {b : Bool} : (s.setFull g b).agenda = s.agenda := rfl
@[simp] theorem State.setFull_cur {g : Nat} {b : Bool} : (s.setFull g b).cur = s.cur := rfl
@[simp] theorem State.setFull_curCore {g : Nat} {b : Bool} : (s.setFull g b).curCore = s.curCore := rfl
@[simp] theorem State.setFull_arg {g : Nat} {b : Bool} : (s.setFull g b).arg = s.arg := rfl
@[simp] theorem State.setFull_held {g : Nat} {b : Bool} : (s.setFull g b).held = s.held := rfl
@[simp] theorem State.setFull_left {g : Nat} {b : Bool} : (s.setFull g b).left = s.left := rfl
@[simp] theorem State.setFull_ctr {g : Nat} {b : Bool} : (s.setFull g b).ctr = s.ctr := rfl
@[simp] theorem State.setFull_fresh {g : Nat} {b : Bool} : (s.setFull g b).fresh = s.fresh := rfl
@[simp] theorem State.setFull_regs {g : Nat} {b : Bool} : (s.setFull g b).regs = s.regs := rfl
@[simp] theorem State.setFull_raised {g : Nat} {b : Bool} : (s.setFull g b).raised = s.raised := rfl
@[simp] theorem State.setFull_dmem {g : Nat} {b : Bool} : (s.setFull g b).dmem = s.dmem := rfl
@[simp] theorem State.setFull_hmem {g : Nat} {b : Bool} : (s.setFull g b).hmem = s.hmem := rfl
@[simp] theorem State.setFull_scr {g : Nat} {b : Bool} : (s.setFull g b).scr = s.scr := rfl
@[simp] theorem State.setFull_wbuf {g : Nat} {b : Bool} : (s.setFull g b).wbuf = s.wbuf := rfl
@[simp] theorem State.setFull_pres {g : Nat} {b : Bool} : (s.setFull g b).pres = if b then insNat s.pres g else delNat s.pres g := rfl
@[simp] theorem State.setFull_poisD {g : Nat} {b : Bool} : (s.setFull g b).poisD = s.poisD := rfl
@[simp] theorem State.setFull_poisH {g : Nat} {b : Bool} : (s.setFull g b).poisH = s.poisH := rfl
@[simp] theorem State.setFull_poisS {g : Nat} {b : Bool} : (s.setFull g b).poisS = s.poisS := rfl
@[simp] theorem State.setFull_poisW {g : Nat} {b : Bool} : (s.setFull g b).poisW = s.poisW := rfl
@[simp] theorem State.setFull_fab {g : Nat} {b : Bool} : (s.setFull g b).fab = s.fab := rfl
@[simp] theorem State.setFull_saved {g : Nat} {b : Bool} : (s.setFull g b).saved = s.saved := rfl
@[simp] theorem State.setFull_stops {g : Nat} {b : Bool} : (s.setFull g b).stops = s.stops := rfl
@[simp] theorem State.setFull_insts {g : Nat} {b : Bool} : (s.setFull g b).insts = s.insts := rfl
@[simp] theorem State.setFull_gathers {g : Nat} {b : Bool} : (s.setFull g b).gathers = s.gathers := rfl
@[simp] theorem State.setFull_cands {g : Nat} {b : Bool} : (s.setFull g b).cands = s.cands := rfl
@[simp] theorem State.setFull_delivs {g : Nat} {b : Bool} : (s.setFull g b).delivs = s.delivs := rfl
@[simp] theorem State.setFull_fetches {g : Nat} {b : Bool} : (s.setFull g b).fetches = s.fetches := rfl
@[simp] theorem State.setFull_ccache {g : Nat} {b : Bool} : (s.setFull g b).ccache = s.ccache := rfl
@[simp] theorem State.setFull_traps {g : Nat} {b : Bool} : (s.setFull g b).traps = s.traps := rfl
@[simp] theorem State.setFull_voided {g : Nat} {b : Bool} : (s.setFull g b).voided = s.voided := rfl
@[simp] theorem State.setFull_hostEvts {g : Nat} {b : Bool} : (s.setFull g b).hostEvts = s.hostEvts := rfl
@[simp] theorem State.setFull_pfaults {g : Nat} {b : Bool} : (s.setFull g b).pfaults = s.pfaults := rfl
@[simp] theorem State.setFull_nextFid {g : Nat} {b : Bool} : (s.setFull g b).nextFid = s.nextFid := rfl
@[simp] theorem State.setFull_tlb {g : Nat} {b : Bool} : (s.setFull g b).tlb = s.tlb := rfl
@[simp] theorem State.setFull_walks {g : Nat} {b : Bool} : (s.setFull g b).walks = s.walks := rfl
@[simp] theorem State.setFull_asids {g : Nat} {b : Bool} : (s.setFull g b).asids = s.asids := rfl
@[simp] theorem State.setFull_tileEnts {g : Nat} {b : Bool} : (s.setFull g b).tileEnts = s.tileEnts := rfl
@[simp] theorem State.setFull_invq {g : Nat} {b : Bool} : (s.setFull g b).invq = s.invq := rfl
@[simp] theorem State.setFull_scrubs {g : Nat} {b : Bool} : (s.setFull g b).scrubs = s.scrubs := rfl
@[simp] theorem State.setFull_regGens {g : Nat} {b : Bool} : (s.setFull g b).regGens = s.regGens := rfl
@[simp] theorem State.setFull_qtab {g : Nat} {b : Bool} : (s.setFull g b).qtab = s.qtab := rfl
@[simp] theorem State.setFull_sheaves {g : Nat} {b : Bool} : (s.setFull g b).sheaves = s.sheaves := rfl
@[simp] theorem State.setFull_waiters {g : Nat} {b : Bool} : (s.setFull g b).waiters = s.waiters := rfl
@[simp] theorem State.setFull_pubs {g : Nat} {b : Bool} : (s.setFull g b).pubs = s.pubs := rfl
@[simp] theorem State.setFull_pubSeq {g : Nat} {b : Bool} : (s.setFull g b).pubSeq = s.pubSeq := rfl
@[simp] theorem State.setFull_tasks {g : Nat} {b : Bool} : (s.setFull g b).tasks = s.tasks := rfl
@[simp] theorem State.setFull_taskQ {g : Nat} {b : Bool} : (s.setFull g b).taskQ = s.taskQ := rfl
@[simp] theorem State.setFull_ranks {g : Nat} {b : Bool} : (s.setFull g b).ranks = s.ranks := rfl
@[simp] theorem State.setFull_chunks {g : Nat} {b : Bool} : (s.setFull g b).chunks = s.chunks := rfl
@[simp] theorem State.setFull_collSeq {g : Nat} {b : Bool} : (s.setFull g b).collSeq = s.collSeq := rfl
@[simp] theorem State.setFull_ports {g : Nat} {b : Bool} : (s.setFull g b).ports = s.ports := rfl
@[simp] theorem State.setFull_snoop {g : Nat} {b : Bool} : (s.setFull g b).snoop = s.snoop := rfl
@[simp] theorem State.setFull_hostCopy {g : Nat} {b : Bool} : (s.setFull g b).hostCopy = s.hostCopy := rfl
@[simp] theorem State.setFull_agent {g : Nat} {b : Bool} : (s.setFull g b).agent = s.agent := rfl
@[simp] theorem State.setFull_decoders {g : Nat} {b : Bool} : (s.setFull g b).decoders = s.decoders := rfl
@[simp] theorem State.setFull_cxl {g : Nat} {b : Bool} : (s.setFull g b).cxl = s.cxl := rfl
@[simp] theorem State.setFull_hostBusy {g : Nat} {b : Bool} : (s.setFull g b).hostBusy = s.hostBusy := rfl
@[simp] theorem State.setFull_loadq {g : Nat} {b : Bool} : (s.setFull g b).loadq = s.loadq := rfl
@[simp] theorem State.setFull_loadFault {g : Nat} {b : Bool} : (s.setFull g b).loadFault = s.loadFault := rfl
@[simp] theorem State.setFull_loadFailed {g : Nat} {b : Bool} : (s.setFull g b).loadFailed = s.loadFailed := rfl
@[simp] theorem State.setFull_tcFlushing {g : Nat} {b : Bool} : (s.setFull g b).tcFlushing = s.tcFlushing := rfl
@[simp] theorem State.setFull_images {g : Nat} {b : Bool} : (s.setFull g b).images = s.images := rfl
@[simp] theorem State.setFull_tcLevel {g : Nat} {b : Bool} : (s.setFull g b).tcLevel = s.tcLevel := rfl
@[simp] theorem State.setFull_tcLook {g : Nat} {b : Bool} : (s.setFull g b).tcLook = s.tcLook := rfl
@[simp] theorem State.setFull_tc {g : Nat} {b : Bool} : (s.setFull g b).tc = s.tc := rfl
@[simp] theorem State.setFull_slots {g : Nat} {b : Bool} : (s.setFull g b).slots = s.slots := rfl
@[simp] theorem State.setFull_hooks {g : Nat} {b : Bool} : (s.setFull g b).hooks = s.hooks := rfl
@[simp] theorem State.setFull_patchCode {g : Nat} {b : Bool} : (s.setFull g b).patchCode = s.patchCode := rfl
@[simp] theorem State.setFull_patchImg {g : Nat} {b : Bool} : (s.setFull g b).patchImg = s.patchImg := rfl
@[simp] theorem State.setFull_belCopies {g : Nat} {b : Bool} : (s.setFull g b).belCopies = s.belCopies := rfl
@[simp] theorem State.setFull_belLoad {g : Nat} {b : Bool} : (s.setFull g b).belLoad = s.belLoad := rfl
@[simp] theorem State.setFull_fwImg {g : Nat} {b : Bool} : (s.setFull g b).fwImg = s.fwImg := rfl
@[simp] theorem State.setFull_fwCopies {g : Nat} {b : Bool} : (s.setFull g b).fwCopies = s.fwCopies := rfl
@[simp] theorem State.setFull_fwReq {g : Nat} {b : Bool} : (s.setFull g b).fwReq = s.fwReq := rfl
@[simp] theorem State.setFull_preempt {g : Nat} {b : Bool} : (s.setFull g b).preempt = s.preempt := rfl
@[simp] theorem State.setFull_turnAt {g : Nat} {b : Bool} : (s.setFull g b).turnAt = s.turnAt := rfl
@[simp] theorem State.setFull_reeveK {g : Nat} {b : Bool} : (s.setFull g b).reeveK = s.reeveK := rfl
@[simp] theorem State.setFull_reeveTaken {g : Nat} {b : Bool} : (s.setFull g b).reeveTaken = s.reeveTaken := rfl
@[simp] theorem State.setFull_reeveLast {g : Nat} {b : Bool} : (s.setFull g b).reeveLast = s.reeveLast := rfl
@[simp] theorem State.setFull_reeveClose {g : Nat} {b : Bool} : (s.setFull g b).reeveClose = s.reeveClose := rfl
@[simp] theorem State.setFull_gongAt {g : Nat} {b : Bool} : (s.setFull g b).gongAt = s.gongAt := rfl
@[simp] theorem State.setFull_snap {g : Nat} {b : Bool} : (s.setFull g b).snap = s.snap := rfl
@[simp] theorem State.setFull_freezes {g : Nat} {b : Bool} : (s.setFull g b).freezes = s.freezes := rfl
@[simp] theorem State.setFull_errLog {g : Nat} {b : Bool} : (s.setFull g b).errLog = s.errLog := rfl
@[simp] theorem State.setFull_errCount {g : Nat} {b : Bool} : (s.setFull g b).errCount = s.errCount := rfl
@[simp] theorem State.setFull_masks {g : Nat} {b : Bool} : (s.setFull g b).masks = s.masks := rfl
@[simp] theorem State.setFull_mck {g : Nat} {b : Bool} : (s.setFull g b).mck = s.mck := rfl
@[simp] theorem State.setFull_shadowRet {g : Nat} {b : Bool} : (s.setFull g b).shadowRet = s.shadowRet := rfl
@[simp] theorem State.setFull_shadowDrop {g : Nat} {b : Bool} : (s.setFull g b).shadowDrop = s.shadowDrop := rfl
@[simp] theorem State.setFull_badBound {g : Nat} {b : Bool} : (s.setFull g b).badBound = s.badBound := rfl
@[simp] theorem State.setFull_retired {g : Nat} {b : Bool} : (s.setFull g b).retired = s.retired := rfl
@[simp] theorem State.setFull_overtemp {g : Nat} {b : Bool} : (s.setFull g b).overtemp = s.overtemp := rfl
@[simp] theorem State.setFull_counts {g : Nat} {b : Bool} : (s.setFull g b).counts = s.counts := rfl
@[simp] theorem State.setFull_doe {g : Nat} {b : Bool} : (s.setFull g b).doe = s.doe := rfl

@[simp] theorem State.bumpFresh_cyc : (s.bumpFresh).cyc = s.cyc := rfl
@[simp] theorem State.bumpFresh_agenda : (s.bumpFresh).agenda = s.agenda := rfl
@[simp] theorem State.bumpFresh_cur : (s.bumpFresh).cur = s.cur := rfl
@[simp] theorem State.bumpFresh_curCore : (s.bumpFresh).curCore = s.curCore := rfl
@[simp] theorem State.bumpFresh_arg : (s.bumpFresh).arg = s.arg := rfl
@[simp] theorem State.bumpFresh_held : (s.bumpFresh).held = s.held := rfl
@[simp] theorem State.bumpFresh_left : (s.bumpFresh).left = s.left := rfl
@[simp] theorem State.bumpFresh_ctr : (s.bumpFresh).ctr = s.ctr := rfl
@[simp] theorem State.bumpFresh_fresh : (s.bumpFresh).fresh = s.fresh + 1 := rfl
@[simp] theorem State.bumpFresh_regs : (s.bumpFresh).regs = s.regs := rfl
@[simp] theorem State.bumpFresh_raised : (s.bumpFresh).raised = s.raised := rfl
@[simp] theorem State.bumpFresh_dmem : (s.bumpFresh).dmem = s.dmem := rfl
@[simp] theorem State.bumpFresh_hmem : (s.bumpFresh).hmem = s.hmem := rfl
@[simp] theorem State.bumpFresh_scr : (s.bumpFresh).scr = s.scr := rfl
@[simp] theorem State.bumpFresh_wbuf : (s.bumpFresh).wbuf = s.wbuf := rfl
@[simp] theorem State.bumpFresh_pres : (s.bumpFresh).pres = s.pres := rfl
@[simp] theorem State.bumpFresh_poisD : (s.bumpFresh).poisD = s.poisD := rfl
@[simp] theorem State.bumpFresh_poisH : (s.bumpFresh).poisH = s.poisH := rfl
@[simp] theorem State.bumpFresh_poisS : (s.bumpFresh).poisS = s.poisS := rfl
@[simp] theorem State.bumpFresh_poisW : (s.bumpFresh).poisW = s.poisW := rfl
@[simp] theorem State.bumpFresh_fab : (s.bumpFresh).fab = s.fab := rfl
@[simp] theorem State.bumpFresh_saved : (s.bumpFresh).saved = s.saved := rfl
@[simp] theorem State.bumpFresh_stops : (s.bumpFresh).stops = s.stops := rfl
@[simp] theorem State.bumpFresh_insts : (s.bumpFresh).insts = s.insts := rfl
@[simp] theorem State.bumpFresh_gathers : (s.bumpFresh).gathers = s.gathers := rfl
@[simp] theorem State.bumpFresh_cands : (s.bumpFresh).cands = s.cands := rfl
@[simp] theorem State.bumpFresh_delivs : (s.bumpFresh).delivs = s.delivs := rfl
@[simp] theorem State.bumpFresh_fetches : (s.bumpFresh).fetches = s.fetches := rfl
@[simp] theorem State.bumpFresh_ccache : (s.bumpFresh).ccache = s.ccache := rfl
@[simp] theorem State.bumpFresh_traps : (s.bumpFresh).traps = s.traps := rfl
@[simp] theorem State.bumpFresh_voided : (s.bumpFresh).voided = s.voided := rfl
@[simp] theorem State.bumpFresh_hostEvts : (s.bumpFresh).hostEvts = s.hostEvts := rfl
@[simp] theorem State.bumpFresh_pfaults : (s.bumpFresh).pfaults = s.pfaults := rfl
@[simp] theorem State.bumpFresh_nextFid : (s.bumpFresh).nextFid = s.nextFid := rfl
@[simp] theorem State.bumpFresh_tlb : (s.bumpFresh).tlb = s.tlb := rfl
@[simp] theorem State.bumpFresh_walks : (s.bumpFresh).walks = s.walks := rfl
@[simp] theorem State.bumpFresh_asids : (s.bumpFresh).asids = s.asids := rfl
@[simp] theorem State.bumpFresh_tileEnts : (s.bumpFresh).tileEnts = s.tileEnts := rfl
@[simp] theorem State.bumpFresh_invq : (s.bumpFresh).invq = s.invq := rfl
@[simp] theorem State.bumpFresh_scrubs : (s.bumpFresh).scrubs = s.scrubs := rfl
@[simp] theorem State.bumpFresh_regGens : (s.bumpFresh).regGens = s.regGens := rfl
@[simp] theorem State.bumpFresh_qtab : (s.bumpFresh).qtab = s.qtab := rfl
@[simp] theorem State.bumpFresh_sheaves : (s.bumpFresh).sheaves = s.sheaves := rfl
@[simp] theorem State.bumpFresh_waiters : (s.bumpFresh).waiters = s.waiters := rfl
@[simp] theorem State.bumpFresh_pubs : (s.bumpFresh).pubs = s.pubs := rfl
@[simp] theorem State.bumpFresh_pubSeq : (s.bumpFresh).pubSeq = s.pubSeq := rfl
@[simp] theorem State.bumpFresh_tasks : (s.bumpFresh).tasks = s.tasks := rfl
@[simp] theorem State.bumpFresh_taskQ : (s.bumpFresh).taskQ = s.taskQ := rfl
@[simp] theorem State.bumpFresh_ranks : (s.bumpFresh).ranks = s.ranks := rfl
@[simp] theorem State.bumpFresh_chunks : (s.bumpFresh).chunks = s.chunks := rfl
@[simp] theorem State.bumpFresh_collSeq : (s.bumpFresh).collSeq = s.collSeq := rfl
@[simp] theorem State.bumpFresh_ports : (s.bumpFresh).ports = s.ports := rfl
@[simp] theorem State.bumpFresh_snoop : (s.bumpFresh).snoop = s.snoop := rfl
@[simp] theorem State.bumpFresh_hostCopy : (s.bumpFresh).hostCopy = s.hostCopy := rfl
@[simp] theorem State.bumpFresh_agent : (s.bumpFresh).agent = s.agent := rfl
@[simp] theorem State.bumpFresh_decoders : (s.bumpFresh).decoders = s.decoders := rfl
@[simp] theorem State.bumpFresh_cxl : (s.bumpFresh).cxl = s.cxl := rfl
@[simp] theorem State.bumpFresh_hostBusy : (s.bumpFresh).hostBusy = s.hostBusy := rfl
@[simp] theorem State.bumpFresh_loadq : (s.bumpFresh).loadq = s.loadq := rfl
@[simp] theorem State.bumpFresh_loadFault : (s.bumpFresh).loadFault = s.loadFault := rfl
@[simp] theorem State.bumpFresh_loadFailed : (s.bumpFresh).loadFailed = s.loadFailed := rfl
@[simp] theorem State.bumpFresh_tcFlushing : (s.bumpFresh).tcFlushing = s.tcFlushing := rfl
@[simp] theorem State.bumpFresh_images : (s.bumpFresh).images = s.images := rfl
@[simp] theorem State.bumpFresh_tcLevel : (s.bumpFresh).tcLevel = s.tcLevel := rfl
@[simp] theorem State.bumpFresh_tcLook : (s.bumpFresh).tcLook = s.tcLook := rfl
@[simp] theorem State.bumpFresh_tc : (s.bumpFresh).tc = s.tc := rfl
@[simp] theorem State.bumpFresh_slots : (s.bumpFresh).slots = s.slots := rfl
@[simp] theorem State.bumpFresh_hooks : (s.bumpFresh).hooks = s.hooks := rfl
@[simp] theorem State.bumpFresh_patchCode : (s.bumpFresh).patchCode = s.patchCode := rfl
@[simp] theorem State.bumpFresh_patchImg : (s.bumpFresh).patchImg = s.patchImg := rfl
@[simp] theorem State.bumpFresh_belCopies : (s.bumpFresh).belCopies = s.belCopies := rfl
@[simp] theorem State.bumpFresh_belLoad : (s.bumpFresh).belLoad = s.belLoad := rfl
@[simp] theorem State.bumpFresh_fwImg : (s.bumpFresh).fwImg = s.fwImg := rfl
@[simp] theorem State.bumpFresh_fwCopies : (s.bumpFresh).fwCopies = s.fwCopies := rfl
@[simp] theorem State.bumpFresh_fwReq : (s.bumpFresh).fwReq = s.fwReq := rfl
@[simp] theorem State.bumpFresh_preempt : (s.bumpFresh).preempt = s.preempt := rfl
@[simp] theorem State.bumpFresh_turnAt : (s.bumpFresh).turnAt = s.turnAt := rfl
@[simp] theorem State.bumpFresh_reeveK : (s.bumpFresh).reeveK = s.reeveK := rfl
@[simp] theorem State.bumpFresh_reeveTaken : (s.bumpFresh).reeveTaken = s.reeveTaken := rfl
@[simp] theorem State.bumpFresh_reeveLast : (s.bumpFresh).reeveLast = s.reeveLast := rfl
@[simp] theorem State.bumpFresh_reeveClose : (s.bumpFresh).reeveClose = s.reeveClose := rfl
@[simp] theorem State.bumpFresh_gongAt : (s.bumpFresh).gongAt = s.gongAt := rfl
@[simp] theorem State.bumpFresh_snap : (s.bumpFresh).snap = s.snap := rfl
@[simp] theorem State.bumpFresh_freezes : (s.bumpFresh).freezes = s.freezes := rfl
@[simp] theorem State.bumpFresh_errLog : (s.bumpFresh).errLog = s.errLog := rfl
@[simp] theorem State.bumpFresh_errCount : (s.bumpFresh).errCount = s.errCount := rfl
@[simp] theorem State.bumpFresh_masks : (s.bumpFresh).masks = s.masks := rfl
@[simp] theorem State.bumpFresh_mck : (s.bumpFresh).mck = s.mck := rfl
@[simp] theorem State.bumpFresh_shadowRet : (s.bumpFresh).shadowRet = s.shadowRet := rfl
@[simp] theorem State.bumpFresh_shadowDrop : (s.bumpFresh).shadowDrop = s.shadowDrop := rfl
@[simp] theorem State.bumpFresh_badBound : (s.bumpFresh).badBound = s.badBound := rfl
@[simp] theorem State.bumpFresh_retired : (s.bumpFresh).retired = s.retired := rfl
@[simp] theorem State.bumpFresh_overtemp : (s.bumpFresh).overtemp = s.overtemp := rfl
@[simp] theorem State.bumpFresh_counts : (s.bumpFresh).counts = s.counts := rfl
@[simp] theorem State.bumpFresh_doe : (s.bumpFresh).doe = s.doe := rfl

@[simp] theorem State.chose_cyc : (s.chose).cyc = s.cyc := rfl
@[simp] theorem State.chose_agenda : (s.chose).agenda = s.agenda := rfl
@[simp] theorem State.chose_cur : (s.chose).cur = s.cur := rfl
@[simp] theorem State.chose_curCore : (s.chose).curCore = s.curCore := rfl
@[simp] theorem State.chose_arg : (s.chose).arg = s.arg := rfl
@[simp] theorem State.chose_held : (s.chose).held = s.held := rfl
@[simp] theorem State.chose_left : (s.chose).left = s.left := rfl
@[simp] theorem State.chose_ctr : (s.chose).ctr = s.ctr + 1 := rfl
@[simp] theorem State.chose_fresh : (s.chose).fresh = s.fresh := rfl
@[simp] theorem State.chose_regs : (s.chose).regs = s.regs := rfl
@[simp] theorem State.chose_raised : (s.chose).raised = s.raised := rfl
@[simp] theorem State.chose_dmem : (s.chose).dmem = s.dmem := rfl
@[simp] theorem State.chose_hmem : (s.chose).hmem = s.hmem := rfl
@[simp] theorem State.chose_scr : (s.chose).scr = s.scr := rfl
@[simp] theorem State.chose_wbuf : (s.chose).wbuf = s.wbuf := rfl
@[simp] theorem State.chose_pres : (s.chose).pres = s.pres := rfl
@[simp] theorem State.chose_poisD : (s.chose).poisD = s.poisD := rfl
@[simp] theorem State.chose_poisH : (s.chose).poisH = s.poisH := rfl
@[simp] theorem State.chose_poisS : (s.chose).poisS = s.poisS := rfl
@[simp] theorem State.chose_poisW : (s.chose).poisW = s.poisW := rfl
@[simp] theorem State.chose_fab : (s.chose).fab = s.fab := rfl
@[simp] theorem State.chose_saved : (s.chose).saved = s.saved := rfl
@[simp] theorem State.chose_stops : (s.chose).stops = s.stops := rfl
@[simp] theorem State.chose_insts : (s.chose).insts = s.insts := rfl
@[simp] theorem State.chose_gathers : (s.chose).gathers = s.gathers := rfl
@[simp] theorem State.chose_cands : (s.chose).cands = s.cands := rfl
@[simp] theorem State.chose_delivs : (s.chose).delivs = s.delivs := rfl
@[simp] theorem State.chose_fetches : (s.chose).fetches = s.fetches := rfl
@[simp] theorem State.chose_ccache : (s.chose).ccache = s.ccache := rfl
@[simp] theorem State.chose_traps : (s.chose).traps = s.traps := rfl
@[simp] theorem State.chose_voided : (s.chose).voided = s.voided := rfl
@[simp] theorem State.chose_hostEvts : (s.chose).hostEvts = s.hostEvts := rfl
@[simp] theorem State.chose_pfaults : (s.chose).pfaults = s.pfaults := rfl
@[simp] theorem State.chose_nextFid : (s.chose).nextFid = s.nextFid := rfl
@[simp] theorem State.chose_tlb : (s.chose).tlb = s.tlb := rfl
@[simp] theorem State.chose_walks : (s.chose).walks = s.walks := rfl
@[simp] theorem State.chose_asids : (s.chose).asids = s.asids := rfl
@[simp] theorem State.chose_tileEnts : (s.chose).tileEnts = s.tileEnts := rfl
@[simp] theorem State.chose_invq : (s.chose).invq = s.invq := rfl
@[simp] theorem State.chose_scrubs : (s.chose).scrubs = s.scrubs := rfl
@[simp] theorem State.chose_regGens : (s.chose).regGens = s.regGens := rfl
@[simp] theorem State.chose_qtab : (s.chose).qtab = s.qtab := rfl
@[simp] theorem State.chose_sheaves : (s.chose).sheaves = s.sheaves := rfl
@[simp] theorem State.chose_waiters : (s.chose).waiters = s.waiters := rfl
@[simp] theorem State.chose_pubs : (s.chose).pubs = s.pubs := rfl
@[simp] theorem State.chose_pubSeq : (s.chose).pubSeq = s.pubSeq := rfl
@[simp] theorem State.chose_tasks : (s.chose).tasks = s.tasks := rfl
@[simp] theorem State.chose_taskQ : (s.chose).taskQ = s.taskQ := rfl
@[simp] theorem State.chose_ranks : (s.chose).ranks = s.ranks := rfl
@[simp] theorem State.chose_chunks : (s.chose).chunks = s.chunks := rfl
@[simp] theorem State.chose_collSeq : (s.chose).collSeq = s.collSeq := rfl
@[simp] theorem State.chose_ports : (s.chose).ports = s.ports := rfl
@[simp] theorem State.chose_snoop : (s.chose).snoop = s.snoop := rfl
@[simp] theorem State.chose_hostCopy : (s.chose).hostCopy = s.hostCopy := rfl
@[simp] theorem State.chose_agent : (s.chose).agent = s.agent := rfl
@[simp] theorem State.chose_decoders : (s.chose).decoders = s.decoders := rfl
@[simp] theorem State.chose_cxl : (s.chose).cxl = s.cxl := rfl
@[simp] theorem State.chose_hostBusy : (s.chose).hostBusy = s.hostBusy := rfl
@[simp] theorem State.chose_loadq : (s.chose).loadq = s.loadq := rfl
@[simp] theorem State.chose_loadFault : (s.chose).loadFault = s.loadFault := rfl
@[simp] theorem State.chose_loadFailed : (s.chose).loadFailed = s.loadFailed := rfl
@[simp] theorem State.chose_tcFlushing : (s.chose).tcFlushing = s.tcFlushing := rfl
@[simp] theorem State.chose_images : (s.chose).images = s.images := rfl
@[simp] theorem State.chose_tcLevel : (s.chose).tcLevel = s.tcLevel := rfl
@[simp] theorem State.chose_tcLook : (s.chose).tcLook = s.tcLook := rfl
@[simp] theorem State.chose_tc : (s.chose).tc = s.tc := rfl
@[simp] theorem State.chose_slots : (s.chose).slots = s.slots := rfl
@[simp] theorem State.chose_hooks : (s.chose).hooks = s.hooks := rfl
@[simp] theorem State.chose_patchCode : (s.chose).patchCode = s.patchCode := rfl
@[simp] theorem State.chose_patchImg : (s.chose).patchImg = s.patchImg := rfl
@[simp] theorem State.chose_belCopies : (s.chose).belCopies = s.belCopies := rfl
@[simp] theorem State.chose_belLoad : (s.chose).belLoad = s.belLoad := rfl
@[simp] theorem State.chose_fwImg : (s.chose).fwImg = s.fwImg := rfl
@[simp] theorem State.chose_fwCopies : (s.chose).fwCopies = s.fwCopies := rfl
@[simp] theorem State.chose_fwReq : (s.chose).fwReq = s.fwReq := rfl
@[simp] theorem State.chose_preempt : (s.chose).preempt = s.preempt := rfl
@[simp] theorem State.chose_turnAt : (s.chose).turnAt = s.turnAt := rfl
@[simp] theorem State.chose_reeveK : (s.chose).reeveK = s.reeveK := rfl
@[simp] theorem State.chose_reeveTaken : (s.chose).reeveTaken = s.reeveTaken := rfl
@[simp] theorem State.chose_reeveLast : (s.chose).reeveLast = s.reeveLast := rfl
@[simp] theorem State.chose_reeveClose : (s.chose).reeveClose = s.reeveClose := rfl
@[simp] theorem State.chose_gongAt : (s.chose).gongAt = s.gongAt := rfl
@[simp] theorem State.chose_snap : (s.chose).snap = s.snap := rfl
@[simp] theorem State.chose_freezes : (s.chose).freezes = s.freezes := rfl
@[simp] theorem State.chose_errLog : (s.chose).errLog = s.errLog := rfl
@[simp] theorem State.chose_errCount : (s.chose).errCount = s.errCount := rfl
@[simp] theorem State.chose_masks : (s.chose).masks = s.masks := rfl
@[simp] theorem State.chose_mck : (s.chose).mck = s.mck := rfl
@[simp] theorem State.chose_shadowRet : (s.chose).shadowRet = s.shadowRet := rfl
@[simp] theorem State.chose_shadowDrop : (s.chose).shadowDrop = s.shadowDrop := rfl
@[simp] theorem State.chose_badBound : (s.chose).badBound = s.badBound := rfl
@[simp] theorem State.chose_retired : (s.chose).retired = s.retired := rfl
@[simp] theorem State.chose_overtemp : (s.chose).overtemp = s.overtemp := rfl
@[simp] theorem State.chose_counts : (s.chose).counts = s.counts := rfl
@[simp] theorem State.chose_doe : (s.chose).doe = s.doe := rfl

@[simp] theorem State.modInst_cyc {k v : Nat} {g : Inst → Inst} : (s.modInst k v g).cyc = s.cyc := rfl
@[simp] theorem State.modInst_agenda {k v : Nat} {g : Inst → Inst} : (s.modInst k v g).agenda = s.agenda := rfl
@[simp] theorem State.modInst_cur {k v : Nat} {g : Inst → Inst} : (s.modInst k v g).cur = s.cur := rfl
@[simp] theorem State.modInst_curCore {k v : Nat} {g : Inst → Inst} : (s.modInst k v g).curCore = s.curCore := rfl
@[simp] theorem State.modInst_arg {k v : Nat} {g : Inst → Inst} : (s.modInst k v g).arg = s.arg := rfl
@[simp] theorem State.modInst_held {k v : Nat} {g : Inst → Inst} : (s.modInst k v g).held = s.held := rfl
@[simp] theorem State.modInst_left {k v : Nat} {g : Inst → Inst} : (s.modInst k v g).left = s.left := rfl
@[simp] theorem State.modInst_ctr {k v : Nat} {g : Inst → Inst} : (s.modInst k v g).ctr = s.ctr := rfl
@[simp] theorem State.modInst_fresh {k v : Nat} {g : Inst → Inst} : (s.modInst k v g).fresh = s.fresh := rfl
@[simp] theorem State.modInst_regs {k v : Nat} {g : Inst → Inst} : (s.modInst k v g).regs = s.regs := rfl
@[simp] theorem State.modInst_raised {k v : Nat} {g : Inst → Inst} : (s.modInst k v g).raised = s.raised := rfl
@[simp] theorem State.modInst_dmem {k v : Nat} {g : Inst → Inst} : (s.modInst k v g).dmem = s.dmem := rfl
@[simp] theorem State.modInst_hmem {k v : Nat} {g : Inst → Inst} : (s.modInst k v g).hmem = s.hmem := rfl
@[simp] theorem State.modInst_scr {k v : Nat} {g : Inst → Inst} : (s.modInst k v g).scr = s.scr := rfl
@[simp] theorem State.modInst_wbuf {k v : Nat} {g : Inst → Inst} : (s.modInst k v g).wbuf = s.wbuf := rfl
@[simp] theorem State.modInst_pres {k v : Nat} {g : Inst → Inst} : (s.modInst k v g).pres = s.pres := rfl
@[simp] theorem State.modInst_poisD {k v : Nat} {g : Inst → Inst} : (s.modInst k v g).poisD = s.poisD := rfl
@[simp] theorem State.modInst_poisH {k v : Nat} {g : Inst → Inst} : (s.modInst k v g).poisH = s.poisH := rfl
@[simp] theorem State.modInst_poisS {k v : Nat} {g : Inst → Inst} : (s.modInst k v g).poisS = s.poisS := rfl
@[simp] theorem State.modInst_poisW {k v : Nat} {g : Inst → Inst} : (s.modInst k v g).poisW = s.poisW := rfl
@[simp] theorem State.modInst_fab {k v : Nat} {g : Inst → Inst} : (s.modInst k v g).fab = s.fab := rfl
@[simp] theorem State.modInst_saved {k v : Nat} {g : Inst → Inst} : (s.modInst k v g).saved = s.saved := rfl
@[simp] theorem State.modInst_stops {k v : Nat} {g : Inst → Inst} : (s.modInst k v g).stops = s.stops := rfl
@[simp] theorem State.modInst_insts {k v : Nat} {g : Inst → Inst} : (s.modInst k v g).insts = mapFirst (fun i => i.k = k && i.v = v) g s.insts := rfl
@[simp] theorem State.modInst_gathers {k v : Nat} {g : Inst → Inst} : (s.modInst k v g).gathers = s.gathers := rfl
@[simp] theorem State.modInst_cands {k v : Nat} {g : Inst → Inst} : (s.modInst k v g).cands = s.cands := rfl
@[simp] theorem State.modInst_delivs {k v : Nat} {g : Inst → Inst} : (s.modInst k v g).delivs = s.delivs := rfl
@[simp] theorem State.modInst_fetches {k v : Nat} {g : Inst → Inst} : (s.modInst k v g).fetches = s.fetches := rfl
@[simp] theorem State.modInst_ccache {k v : Nat} {g : Inst → Inst} : (s.modInst k v g).ccache = s.ccache := rfl
@[simp] theorem State.modInst_traps {k v : Nat} {g : Inst → Inst} : (s.modInst k v g).traps = s.traps := rfl
@[simp] theorem State.modInst_voided {k v : Nat} {g : Inst → Inst} : (s.modInst k v g).voided = s.voided := rfl
@[simp] theorem State.modInst_hostEvts {k v : Nat} {g : Inst → Inst} : (s.modInst k v g).hostEvts = s.hostEvts := rfl
@[simp] theorem State.modInst_pfaults {k v : Nat} {g : Inst → Inst} : (s.modInst k v g).pfaults = s.pfaults := rfl
@[simp] theorem State.modInst_nextFid {k v : Nat} {g : Inst → Inst} : (s.modInst k v g).nextFid = s.nextFid := rfl
@[simp] theorem State.modInst_tlb {k v : Nat} {g : Inst → Inst} : (s.modInst k v g).tlb = s.tlb := rfl
@[simp] theorem State.modInst_walks {k v : Nat} {g : Inst → Inst} : (s.modInst k v g).walks = s.walks := rfl
@[simp] theorem State.modInst_asids {k v : Nat} {g : Inst → Inst} : (s.modInst k v g).asids = s.asids := rfl
@[simp] theorem State.modInst_tileEnts {k v : Nat} {g : Inst → Inst} : (s.modInst k v g).tileEnts = s.tileEnts := rfl
@[simp] theorem State.modInst_invq {k v : Nat} {g : Inst → Inst} : (s.modInst k v g).invq = s.invq := rfl
@[simp] theorem State.modInst_scrubs {k v : Nat} {g : Inst → Inst} : (s.modInst k v g).scrubs = s.scrubs := rfl
@[simp] theorem State.modInst_regGens {k v : Nat} {g : Inst → Inst} : (s.modInst k v g).regGens = s.regGens := rfl
@[simp] theorem State.modInst_qtab {k v : Nat} {g : Inst → Inst} : (s.modInst k v g).qtab = s.qtab := rfl
@[simp] theorem State.modInst_sheaves {k v : Nat} {g : Inst → Inst} : (s.modInst k v g).sheaves = s.sheaves := rfl
@[simp] theorem State.modInst_waiters {k v : Nat} {g : Inst → Inst} : (s.modInst k v g).waiters = s.waiters := rfl
@[simp] theorem State.modInst_pubs {k v : Nat} {g : Inst → Inst} : (s.modInst k v g).pubs = s.pubs := rfl
@[simp] theorem State.modInst_pubSeq {k v : Nat} {g : Inst → Inst} : (s.modInst k v g).pubSeq = s.pubSeq := rfl
@[simp] theorem State.modInst_tasks {k v : Nat} {g : Inst → Inst} : (s.modInst k v g).tasks = s.tasks := rfl
@[simp] theorem State.modInst_taskQ {k v : Nat} {g : Inst → Inst} : (s.modInst k v g).taskQ = s.taskQ := rfl
@[simp] theorem State.modInst_ranks {k v : Nat} {g : Inst → Inst} : (s.modInst k v g).ranks = s.ranks := rfl
@[simp] theorem State.modInst_chunks {k v : Nat} {g : Inst → Inst} : (s.modInst k v g).chunks = s.chunks := rfl
@[simp] theorem State.modInst_collSeq {k v : Nat} {g : Inst → Inst} : (s.modInst k v g).collSeq = s.collSeq := rfl
@[simp] theorem State.modInst_ports {k v : Nat} {g : Inst → Inst} : (s.modInst k v g).ports = s.ports := rfl
@[simp] theorem State.modInst_snoop {k v : Nat} {g : Inst → Inst} : (s.modInst k v g).snoop = s.snoop := rfl
@[simp] theorem State.modInst_hostCopy {k v : Nat} {g : Inst → Inst} : (s.modInst k v g).hostCopy = s.hostCopy := rfl
@[simp] theorem State.modInst_agent {k v : Nat} {g : Inst → Inst} : (s.modInst k v g).agent = s.agent := rfl
@[simp] theorem State.modInst_decoders {k v : Nat} {g : Inst → Inst} : (s.modInst k v g).decoders = s.decoders := rfl
@[simp] theorem State.modInst_cxl {k v : Nat} {g : Inst → Inst} : (s.modInst k v g).cxl = s.cxl := rfl
@[simp] theorem State.modInst_hostBusy {k v : Nat} {g : Inst → Inst} : (s.modInst k v g).hostBusy = s.hostBusy := rfl
@[simp] theorem State.modInst_loadq {k v : Nat} {g : Inst → Inst} : (s.modInst k v g).loadq = s.loadq := rfl
@[simp] theorem State.modInst_loadFault {k v : Nat} {g : Inst → Inst} : (s.modInst k v g).loadFault = s.loadFault := rfl
@[simp] theorem State.modInst_loadFailed {k v : Nat} {g : Inst → Inst} : (s.modInst k v g).loadFailed = s.loadFailed := rfl
@[simp] theorem State.modInst_tcFlushing {k v : Nat} {g : Inst → Inst} : (s.modInst k v g).tcFlushing = s.tcFlushing := rfl
@[simp] theorem State.modInst_images {k v : Nat} {g : Inst → Inst} : (s.modInst k v g).images = s.images := rfl
@[simp] theorem State.modInst_tcLevel {k v : Nat} {g : Inst → Inst} : (s.modInst k v g).tcLevel = s.tcLevel := rfl
@[simp] theorem State.modInst_tcLook {k v : Nat} {g : Inst → Inst} : (s.modInst k v g).tcLook = s.tcLook := rfl
@[simp] theorem State.modInst_tc {k v : Nat} {g : Inst → Inst} : (s.modInst k v g).tc = s.tc := rfl
@[simp] theorem State.modInst_slots {k v : Nat} {g : Inst → Inst} : (s.modInst k v g).slots = s.slots := rfl
@[simp] theorem State.modInst_hooks {k v : Nat} {g : Inst → Inst} : (s.modInst k v g).hooks = s.hooks := rfl
@[simp] theorem State.modInst_patchCode {k v : Nat} {g : Inst → Inst} : (s.modInst k v g).patchCode = s.patchCode := rfl
@[simp] theorem State.modInst_patchImg {k v : Nat} {g : Inst → Inst} : (s.modInst k v g).patchImg = s.patchImg := rfl
@[simp] theorem State.modInst_belCopies {k v : Nat} {g : Inst → Inst} : (s.modInst k v g).belCopies = s.belCopies := rfl
@[simp] theorem State.modInst_belLoad {k v : Nat} {g : Inst → Inst} : (s.modInst k v g).belLoad = s.belLoad := rfl
@[simp] theorem State.modInst_fwImg {k v : Nat} {g : Inst → Inst} : (s.modInst k v g).fwImg = s.fwImg := rfl
@[simp] theorem State.modInst_fwCopies {k v : Nat} {g : Inst → Inst} : (s.modInst k v g).fwCopies = s.fwCopies := rfl
@[simp] theorem State.modInst_fwReq {k v : Nat} {g : Inst → Inst} : (s.modInst k v g).fwReq = s.fwReq := rfl
@[simp] theorem State.modInst_preempt {k v : Nat} {g : Inst → Inst} : (s.modInst k v g).preempt = s.preempt := rfl
@[simp] theorem State.modInst_turnAt {k v : Nat} {g : Inst → Inst} : (s.modInst k v g).turnAt = s.turnAt := rfl
@[simp] theorem State.modInst_reeveK {k v : Nat} {g : Inst → Inst} : (s.modInst k v g).reeveK = s.reeveK := rfl
@[simp] theorem State.modInst_reeveTaken {k v : Nat} {g : Inst → Inst} : (s.modInst k v g).reeveTaken = s.reeveTaken := rfl
@[simp] theorem State.modInst_reeveLast {k v : Nat} {g : Inst → Inst} : (s.modInst k v g).reeveLast = s.reeveLast := rfl
@[simp] theorem State.modInst_reeveClose {k v : Nat} {g : Inst → Inst} : (s.modInst k v g).reeveClose = s.reeveClose := rfl
@[simp] theorem State.modInst_gongAt {k v : Nat} {g : Inst → Inst} : (s.modInst k v g).gongAt = s.gongAt := rfl
@[simp] theorem State.modInst_snap {k v : Nat} {g : Inst → Inst} : (s.modInst k v g).snap = s.snap := rfl
@[simp] theorem State.modInst_freezes {k v : Nat} {g : Inst → Inst} : (s.modInst k v g).freezes = s.freezes := rfl
@[simp] theorem State.modInst_errLog {k v : Nat} {g : Inst → Inst} : (s.modInst k v g).errLog = s.errLog := rfl
@[simp] theorem State.modInst_errCount {k v : Nat} {g : Inst → Inst} : (s.modInst k v g).errCount = s.errCount := rfl
@[simp] theorem State.modInst_masks {k v : Nat} {g : Inst → Inst} : (s.modInst k v g).masks = s.masks := rfl
@[simp] theorem State.modInst_mck {k v : Nat} {g : Inst → Inst} : (s.modInst k v g).mck = s.mck := rfl
@[simp] theorem State.modInst_shadowRet {k v : Nat} {g : Inst → Inst} : (s.modInst k v g).shadowRet = s.shadowRet := rfl
@[simp] theorem State.modInst_shadowDrop {k v : Nat} {g : Inst → Inst} : (s.modInst k v g).shadowDrop = s.shadowDrop := rfl
@[simp] theorem State.modInst_badBound {k v : Nat} {g : Inst → Inst} : (s.modInst k v g).badBound = s.badBound := rfl
@[simp] theorem State.modInst_retired {k v : Nat} {g : Inst → Inst} : (s.modInst k v g).retired = s.retired := rfl
@[simp] theorem State.modInst_overtemp {k v : Nat} {g : Inst → Inst} : (s.modInst k v g).overtemp = s.overtemp := rfl
@[simp] theorem State.modInst_counts {k v : Nat} {g : Inst → Inst} : (s.modInst k v g).counts = s.counts := rfl
@[simp] theorem State.modInst_doe {k v : Nat} {g : Inst → Inst} : (s.modInst k v g).doe = s.doe := rfl

@[simp] theorem State.modTrap_cyc {k n : Nat} {g : Trap → Trap} : (s.modTrap k n g).cyc = s.cyc := rfl
@[simp] theorem State.modTrap_agenda {k n : Nat} {g : Trap → Trap} : (s.modTrap k n g).agenda = s.agenda := rfl
@[simp] theorem State.modTrap_cur {k n : Nat} {g : Trap → Trap} : (s.modTrap k n g).cur = s.cur := rfl
@[simp] theorem State.modTrap_curCore {k n : Nat} {g : Trap → Trap} : (s.modTrap k n g).curCore = s.curCore := rfl
@[simp] theorem State.modTrap_arg {k n : Nat} {g : Trap → Trap} : (s.modTrap k n g).arg = s.arg := rfl
@[simp] theorem State.modTrap_held {k n : Nat} {g : Trap → Trap} : (s.modTrap k n g).held = s.held := rfl
@[simp] theorem State.modTrap_left {k n : Nat} {g : Trap → Trap} : (s.modTrap k n g).left = s.left := rfl
@[simp] theorem State.modTrap_ctr {k n : Nat} {g : Trap → Trap} : (s.modTrap k n g).ctr = s.ctr := rfl
@[simp] theorem State.modTrap_fresh {k n : Nat} {g : Trap → Trap} : (s.modTrap k n g).fresh = s.fresh := rfl
@[simp] theorem State.modTrap_regs {k n : Nat} {g : Trap → Trap} : (s.modTrap k n g).regs = s.regs := rfl
@[simp] theorem State.modTrap_raised {k n : Nat} {g : Trap → Trap} : (s.modTrap k n g).raised = s.raised := rfl
@[simp] theorem State.modTrap_dmem {k n : Nat} {g : Trap → Trap} : (s.modTrap k n g).dmem = s.dmem := rfl
@[simp] theorem State.modTrap_hmem {k n : Nat} {g : Trap → Trap} : (s.modTrap k n g).hmem = s.hmem := rfl
@[simp] theorem State.modTrap_scr {k n : Nat} {g : Trap → Trap} : (s.modTrap k n g).scr = s.scr := rfl
@[simp] theorem State.modTrap_wbuf {k n : Nat} {g : Trap → Trap} : (s.modTrap k n g).wbuf = s.wbuf := rfl
@[simp] theorem State.modTrap_pres {k n : Nat} {g : Trap → Trap} : (s.modTrap k n g).pres = s.pres := rfl
@[simp] theorem State.modTrap_poisD {k n : Nat} {g : Trap → Trap} : (s.modTrap k n g).poisD = s.poisD := rfl
@[simp] theorem State.modTrap_poisH {k n : Nat} {g : Trap → Trap} : (s.modTrap k n g).poisH = s.poisH := rfl
@[simp] theorem State.modTrap_poisS {k n : Nat} {g : Trap → Trap} : (s.modTrap k n g).poisS = s.poisS := rfl
@[simp] theorem State.modTrap_poisW {k n : Nat} {g : Trap → Trap} : (s.modTrap k n g).poisW = s.poisW := rfl
@[simp] theorem State.modTrap_fab {k n : Nat} {g : Trap → Trap} : (s.modTrap k n g).fab = s.fab := rfl
@[simp] theorem State.modTrap_saved {k n : Nat} {g : Trap → Trap} : (s.modTrap k n g).saved = s.saved := rfl
@[simp] theorem State.modTrap_stops {k n : Nat} {g : Trap → Trap} : (s.modTrap k n g).stops = s.stops := rfl
@[simp] theorem State.modTrap_insts {k n : Nat} {g : Trap → Trap} : (s.modTrap k n g).insts = s.insts := rfl
@[simp] theorem State.modTrap_gathers {k n : Nat} {g : Trap → Trap} : (s.modTrap k n g).gathers = s.gathers := rfl
@[simp] theorem State.modTrap_cands {k n : Nat} {g : Trap → Trap} : (s.modTrap k n g).cands = s.cands := rfl
@[simp] theorem State.modTrap_delivs {k n : Nat} {g : Trap → Trap} : (s.modTrap k n g).delivs = s.delivs := rfl
@[simp] theorem State.modTrap_fetches {k n : Nat} {g : Trap → Trap} : (s.modTrap k n g).fetches = s.fetches := rfl
@[simp] theorem State.modTrap_ccache {k n : Nat} {g : Trap → Trap} : (s.modTrap k n g).ccache = s.ccache := rfl
@[simp] theorem State.modTrap_traps {k n : Nat} {g : Trap → Trap} : (s.modTrap k n g).traps = mapFirst (fun t => t.k = k && t.index = n) g s.traps := rfl
@[simp] theorem State.modTrap_voided {k n : Nat} {g : Trap → Trap} : (s.modTrap k n g).voided = s.voided := rfl
@[simp] theorem State.modTrap_hostEvts {k n : Nat} {g : Trap → Trap} : (s.modTrap k n g).hostEvts = s.hostEvts := rfl
@[simp] theorem State.modTrap_pfaults {k n : Nat} {g : Trap → Trap} : (s.modTrap k n g).pfaults = s.pfaults := rfl
@[simp] theorem State.modTrap_nextFid {k n : Nat} {g : Trap → Trap} : (s.modTrap k n g).nextFid = s.nextFid := rfl
@[simp] theorem State.modTrap_tlb {k n : Nat} {g : Trap → Trap} : (s.modTrap k n g).tlb = s.tlb := rfl
@[simp] theorem State.modTrap_walks {k n : Nat} {g : Trap → Trap} : (s.modTrap k n g).walks = s.walks := rfl
@[simp] theorem State.modTrap_asids {k n : Nat} {g : Trap → Trap} : (s.modTrap k n g).asids = s.asids := rfl
@[simp] theorem State.modTrap_tileEnts {k n : Nat} {g : Trap → Trap} : (s.modTrap k n g).tileEnts = s.tileEnts := rfl
@[simp] theorem State.modTrap_invq {k n : Nat} {g : Trap → Trap} : (s.modTrap k n g).invq = s.invq := rfl
@[simp] theorem State.modTrap_scrubs {k n : Nat} {g : Trap → Trap} : (s.modTrap k n g).scrubs = s.scrubs := rfl
@[simp] theorem State.modTrap_regGens {k n : Nat} {g : Trap → Trap} : (s.modTrap k n g).regGens = s.regGens := rfl
@[simp] theorem State.modTrap_qtab {k n : Nat} {g : Trap → Trap} : (s.modTrap k n g).qtab = s.qtab := rfl
@[simp] theorem State.modTrap_sheaves {k n : Nat} {g : Trap → Trap} : (s.modTrap k n g).sheaves = s.sheaves := rfl
@[simp] theorem State.modTrap_waiters {k n : Nat} {g : Trap → Trap} : (s.modTrap k n g).waiters = s.waiters := rfl
@[simp] theorem State.modTrap_pubs {k n : Nat} {g : Trap → Trap} : (s.modTrap k n g).pubs = s.pubs := rfl
@[simp] theorem State.modTrap_pubSeq {k n : Nat} {g : Trap → Trap} : (s.modTrap k n g).pubSeq = s.pubSeq := rfl
@[simp] theorem State.modTrap_tasks {k n : Nat} {g : Trap → Trap} : (s.modTrap k n g).tasks = s.tasks := rfl
@[simp] theorem State.modTrap_taskQ {k n : Nat} {g : Trap → Trap} : (s.modTrap k n g).taskQ = s.taskQ := rfl
@[simp] theorem State.modTrap_ranks {k n : Nat} {g : Trap → Trap} : (s.modTrap k n g).ranks = s.ranks := rfl
@[simp] theorem State.modTrap_chunks {k n : Nat} {g : Trap → Trap} : (s.modTrap k n g).chunks = s.chunks := rfl
@[simp] theorem State.modTrap_collSeq {k n : Nat} {g : Trap → Trap} : (s.modTrap k n g).collSeq = s.collSeq := rfl
@[simp] theorem State.modTrap_ports {k n : Nat} {g : Trap → Trap} : (s.modTrap k n g).ports = s.ports := rfl
@[simp] theorem State.modTrap_snoop {k n : Nat} {g : Trap → Trap} : (s.modTrap k n g).snoop = s.snoop := rfl
@[simp] theorem State.modTrap_hostCopy {k n : Nat} {g : Trap → Trap} : (s.modTrap k n g).hostCopy = s.hostCopy := rfl
@[simp] theorem State.modTrap_agent {k n : Nat} {g : Trap → Trap} : (s.modTrap k n g).agent = s.agent := rfl
@[simp] theorem State.modTrap_decoders {k n : Nat} {g : Trap → Trap} : (s.modTrap k n g).decoders = s.decoders := rfl
@[simp] theorem State.modTrap_cxl {k n : Nat} {g : Trap → Trap} : (s.modTrap k n g).cxl = s.cxl := rfl
@[simp] theorem State.modTrap_hostBusy {k n : Nat} {g : Trap → Trap} : (s.modTrap k n g).hostBusy = s.hostBusy := rfl
@[simp] theorem State.modTrap_loadq {k n : Nat} {g : Trap → Trap} : (s.modTrap k n g).loadq = s.loadq := rfl
@[simp] theorem State.modTrap_loadFault {k n : Nat} {g : Trap → Trap} : (s.modTrap k n g).loadFault = s.loadFault := rfl
@[simp] theorem State.modTrap_loadFailed {k n : Nat} {g : Trap → Trap} : (s.modTrap k n g).loadFailed = s.loadFailed := rfl
@[simp] theorem State.modTrap_tcFlushing {k n : Nat} {g : Trap → Trap} : (s.modTrap k n g).tcFlushing = s.tcFlushing := rfl
@[simp] theorem State.modTrap_images {k n : Nat} {g : Trap → Trap} : (s.modTrap k n g).images = s.images := rfl
@[simp] theorem State.modTrap_tcLevel {k n : Nat} {g : Trap → Trap} : (s.modTrap k n g).tcLevel = s.tcLevel := rfl
@[simp] theorem State.modTrap_tcLook {k n : Nat} {g : Trap → Trap} : (s.modTrap k n g).tcLook = s.tcLook := rfl
@[simp] theorem State.modTrap_tc {k n : Nat} {g : Trap → Trap} : (s.modTrap k n g).tc = s.tc := rfl
@[simp] theorem State.modTrap_slots {k n : Nat} {g : Trap → Trap} : (s.modTrap k n g).slots = s.slots := rfl
@[simp] theorem State.modTrap_hooks {k n : Nat} {g : Trap → Trap} : (s.modTrap k n g).hooks = s.hooks := rfl
@[simp] theorem State.modTrap_patchCode {k n : Nat} {g : Trap → Trap} : (s.modTrap k n g).patchCode = s.patchCode := rfl
@[simp] theorem State.modTrap_patchImg {k n : Nat} {g : Trap → Trap} : (s.modTrap k n g).patchImg = s.patchImg := rfl
@[simp] theorem State.modTrap_belCopies {k n : Nat} {g : Trap → Trap} : (s.modTrap k n g).belCopies = s.belCopies := rfl
@[simp] theorem State.modTrap_belLoad {k n : Nat} {g : Trap → Trap} : (s.modTrap k n g).belLoad = s.belLoad := rfl
@[simp] theorem State.modTrap_fwImg {k n : Nat} {g : Trap → Trap} : (s.modTrap k n g).fwImg = s.fwImg := rfl
@[simp] theorem State.modTrap_fwCopies {k n : Nat} {g : Trap → Trap} : (s.modTrap k n g).fwCopies = s.fwCopies := rfl
@[simp] theorem State.modTrap_fwReq {k n : Nat} {g : Trap → Trap} : (s.modTrap k n g).fwReq = s.fwReq := rfl
@[simp] theorem State.modTrap_preempt {k n : Nat} {g : Trap → Trap} : (s.modTrap k n g).preempt = s.preempt := rfl
@[simp] theorem State.modTrap_turnAt {k n : Nat} {g : Trap → Trap} : (s.modTrap k n g).turnAt = s.turnAt := rfl
@[simp] theorem State.modTrap_reeveK {k n : Nat} {g : Trap → Trap} : (s.modTrap k n g).reeveK = s.reeveK := rfl
@[simp] theorem State.modTrap_reeveTaken {k n : Nat} {g : Trap → Trap} : (s.modTrap k n g).reeveTaken = s.reeveTaken := rfl
@[simp] theorem State.modTrap_reeveLast {k n : Nat} {g : Trap → Trap} : (s.modTrap k n g).reeveLast = s.reeveLast := rfl
@[simp] theorem State.modTrap_reeveClose {k n : Nat} {g : Trap → Trap} : (s.modTrap k n g).reeveClose = s.reeveClose := rfl
@[simp] theorem State.modTrap_gongAt {k n : Nat} {g : Trap → Trap} : (s.modTrap k n g).gongAt = s.gongAt := rfl
@[simp] theorem State.modTrap_snap {k n : Nat} {g : Trap → Trap} : (s.modTrap k n g).snap = s.snap := rfl
@[simp] theorem State.modTrap_freezes {k n : Nat} {g : Trap → Trap} : (s.modTrap k n g).freezes = s.freezes := rfl
@[simp] theorem State.modTrap_errLog {k n : Nat} {g : Trap → Trap} : (s.modTrap k n g).errLog = s.errLog := rfl
@[simp] theorem State.modTrap_errCount {k n : Nat} {g : Trap → Trap} : (s.modTrap k n g).errCount = s.errCount := rfl
@[simp] theorem State.modTrap_masks {k n : Nat} {g : Trap → Trap} : (s.modTrap k n g).masks = s.masks := rfl
@[simp] theorem State.modTrap_mck {k n : Nat} {g : Trap → Trap} : (s.modTrap k n g).mck = s.mck := rfl
@[simp] theorem State.modTrap_shadowRet {k n : Nat} {g : Trap → Trap} : (s.modTrap k n g).shadowRet = s.shadowRet := rfl
@[simp] theorem State.modTrap_shadowDrop {k n : Nat} {g : Trap → Trap} : (s.modTrap k n g).shadowDrop = s.shadowDrop := rfl
@[simp] theorem State.modTrap_badBound {k n : Nat} {g : Trap → Trap} : (s.modTrap k n g).badBound = s.badBound := rfl
@[simp] theorem State.modTrap_retired {k n : Nat} {g : Trap → Trap} : (s.modTrap k n g).retired = s.retired := rfl
@[simp] theorem State.modTrap_overtemp {k n : Nat} {g : Trap → Trap} : (s.modTrap k n g).overtemp = s.overtemp := rfl
@[simp] theorem State.modTrap_counts {k n : Nat} {g : Trap → Trap} : (s.modTrap k n g).counts = s.counts := rfl
@[simp] theorem State.modTrap_doe {k n : Nat} {g : Trap → Trap} : (s.modTrap k n g).doe = s.doe := rfl

@[simp] theorem State.modFault_cyc {d n : Nat} {g : PageFault → PageFault} : (s.modFault d n g).cyc = s.cyc := rfl
@[simp] theorem State.modFault_agenda {d n : Nat} {g : PageFault → PageFault} : (s.modFault d n g).agenda = s.agenda := rfl
@[simp] theorem State.modFault_cur {d n : Nat} {g : PageFault → PageFault} : (s.modFault d n g).cur = s.cur := rfl
@[simp] theorem State.modFault_curCore {d n : Nat} {g : PageFault → PageFault} : (s.modFault d n g).curCore = s.curCore := rfl
@[simp] theorem State.modFault_arg {d n : Nat} {g : PageFault → PageFault} : (s.modFault d n g).arg = s.arg := rfl
@[simp] theorem State.modFault_held {d n : Nat} {g : PageFault → PageFault} : (s.modFault d n g).held = s.held := rfl
@[simp] theorem State.modFault_left {d n : Nat} {g : PageFault → PageFault} : (s.modFault d n g).left = s.left := rfl
@[simp] theorem State.modFault_ctr {d n : Nat} {g : PageFault → PageFault} : (s.modFault d n g).ctr = s.ctr := rfl
@[simp] theorem State.modFault_fresh {d n : Nat} {g : PageFault → PageFault} : (s.modFault d n g).fresh = s.fresh := rfl
@[simp] theorem State.modFault_regs {d n : Nat} {g : PageFault → PageFault} : (s.modFault d n g).regs = s.regs := rfl
@[simp] theorem State.modFault_raised {d n : Nat} {g : PageFault → PageFault} : (s.modFault d n g).raised = s.raised := rfl
@[simp] theorem State.modFault_dmem {d n : Nat} {g : PageFault → PageFault} : (s.modFault d n g).dmem = s.dmem := rfl
@[simp] theorem State.modFault_hmem {d n : Nat} {g : PageFault → PageFault} : (s.modFault d n g).hmem = s.hmem := rfl
@[simp] theorem State.modFault_scr {d n : Nat} {g : PageFault → PageFault} : (s.modFault d n g).scr = s.scr := rfl
@[simp] theorem State.modFault_wbuf {d n : Nat} {g : PageFault → PageFault} : (s.modFault d n g).wbuf = s.wbuf := rfl
@[simp] theorem State.modFault_pres {d n : Nat} {g : PageFault → PageFault} : (s.modFault d n g).pres = s.pres := rfl
@[simp] theorem State.modFault_poisD {d n : Nat} {g : PageFault → PageFault} : (s.modFault d n g).poisD = s.poisD := rfl
@[simp] theorem State.modFault_poisH {d n : Nat} {g : PageFault → PageFault} : (s.modFault d n g).poisH = s.poisH := rfl
@[simp] theorem State.modFault_poisS {d n : Nat} {g : PageFault → PageFault} : (s.modFault d n g).poisS = s.poisS := rfl
@[simp] theorem State.modFault_poisW {d n : Nat} {g : PageFault → PageFault} : (s.modFault d n g).poisW = s.poisW := rfl
@[simp] theorem State.modFault_fab {d n : Nat} {g : PageFault → PageFault} : (s.modFault d n g).fab = s.fab := rfl
@[simp] theorem State.modFault_saved {d n : Nat} {g : PageFault → PageFault} : (s.modFault d n g).saved = s.saved := rfl
@[simp] theorem State.modFault_stops {d n : Nat} {g : PageFault → PageFault} : (s.modFault d n g).stops = s.stops := rfl
@[simp] theorem State.modFault_insts {d n : Nat} {g : PageFault → PageFault} : (s.modFault d n g).insts = s.insts := rfl
@[simp] theorem State.modFault_gathers {d n : Nat} {g : PageFault → PageFault} : (s.modFault d n g).gathers = s.gathers := rfl
@[simp] theorem State.modFault_cands {d n : Nat} {g : PageFault → PageFault} : (s.modFault d n g).cands = s.cands := rfl
@[simp] theorem State.modFault_delivs {d n : Nat} {g : PageFault → PageFault} : (s.modFault d n g).delivs = s.delivs := rfl
@[simp] theorem State.modFault_fetches {d n : Nat} {g : PageFault → PageFault} : (s.modFault d n g).fetches = s.fetches := rfl
@[simp] theorem State.modFault_ccache {d n : Nat} {g : PageFault → PageFault} : (s.modFault d n g).ccache = s.ccache := rfl
@[simp] theorem State.modFault_traps {d n : Nat} {g : PageFault → PageFault} : (s.modFault d n g).traps = s.traps := rfl
@[simp] theorem State.modFault_voided {d n : Nat} {g : PageFault → PageFault} : (s.modFault d n g).voided = s.voided := rfl
@[simp] theorem State.modFault_hostEvts {d n : Nat} {g : PageFault → PageFault} : (s.modFault d n g).hostEvts = s.hostEvts := rfl
@[simp] theorem State.modFault_pfaults {d n : Nat} {g : PageFault → PageFault} : (s.modFault d n g).pfaults = mapFirst (fun p => p.die = d && p.fid = n) g s.pfaults := rfl
@[simp] theorem State.modFault_nextFid {d n : Nat} {g : PageFault → PageFault} : (s.modFault d n g).nextFid = s.nextFid := rfl
@[simp] theorem State.modFault_tlb {d n : Nat} {g : PageFault → PageFault} : (s.modFault d n g).tlb = s.tlb := rfl
@[simp] theorem State.modFault_walks {d n : Nat} {g : PageFault → PageFault} : (s.modFault d n g).walks = s.walks := rfl
@[simp] theorem State.modFault_asids {d n : Nat} {g : PageFault → PageFault} : (s.modFault d n g).asids = s.asids := rfl
@[simp] theorem State.modFault_tileEnts {d n : Nat} {g : PageFault → PageFault} : (s.modFault d n g).tileEnts = s.tileEnts := rfl
@[simp] theorem State.modFault_invq {d n : Nat} {g : PageFault → PageFault} : (s.modFault d n g).invq = s.invq := rfl
@[simp] theorem State.modFault_scrubs {d n : Nat} {g : PageFault → PageFault} : (s.modFault d n g).scrubs = s.scrubs := rfl
@[simp] theorem State.modFault_regGens {d n : Nat} {g : PageFault → PageFault} : (s.modFault d n g).regGens = s.regGens := rfl
@[simp] theorem State.modFault_qtab {d n : Nat} {g : PageFault → PageFault} : (s.modFault d n g).qtab = s.qtab := rfl
@[simp] theorem State.modFault_sheaves {d n : Nat} {g : PageFault → PageFault} : (s.modFault d n g).sheaves = s.sheaves := rfl
@[simp] theorem State.modFault_waiters {d n : Nat} {g : PageFault → PageFault} : (s.modFault d n g).waiters = s.waiters := rfl
@[simp] theorem State.modFault_pubs {d n : Nat} {g : PageFault → PageFault} : (s.modFault d n g).pubs = s.pubs := rfl
@[simp] theorem State.modFault_pubSeq {d n : Nat} {g : PageFault → PageFault} : (s.modFault d n g).pubSeq = s.pubSeq := rfl
@[simp] theorem State.modFault_tasks {d n : Nat} {g : PageFault → PageFault} : (s.modFault d n g).tasks = s.tasks := rfl
@[simp] theorem State.modFault_taskQ {d n : Nat} {g : PageFault → PageFault} : (s.modFault d n g).taskQ = s.taskQ := rfl
@[simp] theorem State.modFault_ranks {d n : Nat} {g : PageFault → PageFault} : (s.modFault d n g).ranks = s.ranks := rfl
@[simp] theorem State.modFault_chunks {d n : Nat} {g : PageFault → PageFault} : (s.modFault d n g).chunks = s.chunks := rfl
@[simp] theorem State.modFault_collSeq {d n : Nat} {g : PageFault → PageFault} : (s.modFault d n g).collSeq = s.collSeq := rfl
@[simp] theorem State.modFault_ports {d n : Nat} {g : PageFault → PageFault} : (s.modFault d n g).ports = s.ports := rfl
@[simp] theorem State.modFault_snoop {d n : Nat} {g : PageFault → PageFault} : (s.modFault d n g).snoop = s.snoop := rfl
@[simp] theorem State.modFault_hostCopy {d n : Nat} {g : PageFault → PageFault} : (s.modFault d n g).hostCopy = s.hostCopy := rfl
@[simp] theorem State.modFault_agent {d n : Nat} {g : PageFault → PageFault} : (s.modFault d n g).agent = s.agent := rfl
@[simp] theorem State.modFault_decoders {d n : Nat} {g : PageFault → PageFault} : (s.modFault d n g).decoders = s.decoders := rfl
@[simp] theorem State.modFault_cxl {d n : Nat} {g : PageFault → PageFault} : (s.modFault d n g).cxl = s.cxl := rfl
@[simp] theorem State.modFault_hostBusy {d n : Nat} {g : PageFault → PageFault} : (s.modFault d n g).hostBusy = s.hostBusy := rfl
@[simp] theorem State.modFault_loadq {d n : Nat} {g : PageFault → PageFault} : (s.modFault d n g).loadq = s.loadq := rfl
@[simp] theorem State.modFault_loadFault {d n : Nat} {g : PageFault → PageFault} : (s.modFault d n g).loadFault = s.loadFault := rfl
@[simp] theorem State.modFault_loadFailed {d n : Nat} {g : PageFault → PageFault} : (s.modFault d n g).loadFailed = s.loadFailed := rfl
@[simp] theorem State.modFault_tcFlushing {d n : Nat} {g : PageFault → PageFault} : (s.modFault d n g).tcFlushing = s.tcFlushing := rfl
@[simp] theorem State.modFault_images {d n : Nat} {g : PageFault → PageFault} : (s.modFault d n g).images = s.images := rfl
@[simp] theorem State.modFault_tcLevel {d n : Nat} {g : PageFault → PageFault} : (s.modFault d n g).tcLevel = s.tcLevel := rfl
@[simp] theorem State.modFault_tcLook {d n : Nat} {g : PageFault → PageFault} : (s.modFault d n g).tcLook = s.tcLook := rfl
@[simp] theorem State.modFault_tc {d n : Nat} {g : PageFault → PageFault} : (s.modFault d n g).tc = s.tc := rfl
@[simp] theorem State.modFault_slots {d n : Nat} {g : PageFault → PageFault} : (s.modFault d n g).slots = s.slots := rfl
@[simp] theorem State.modFault_hooks {d n : Nat} {g : PageFault → PageFault} : (s.modFault d n g).hooks = s.hooks := rfl
@[simp] theorem State.modFault_patchCode {d n : Nat} {g : PageFault → PageFault} : (s.modFault d n g).patchCode = s.patchCode := rfl
@[simp] theorem State.modFault_patchImg {d n : Nat} {g : PageFault → PageFault} : (s.modFault d n g).patchImg = s.patchImg := rfl
@[simp] theorem State.modFault_belCopies {d n : Nat} {g : PageFault → PageFault} : (s.modFault d n g).belCopies = s.belCopies := rfl
@[simp] theorem State.modFault_belLoad {d n : Nat} {g : PageFault → PageFault} : (s.modFault d n g).belLoad = s.belLoad := rfl
@[simp] theorem State.modFault_fwImg {d n : Nat} {g : PageFault → PageFault} : (s.modFault d n g).fwImg = s.fwImg := rfl
@[simp] theorem State.modFault_fwCopies {d n : Nat} {g : PageFault → PageFault} : (s.modFault d n g).fwCopies = s.fwCopies := rfl
@[simp] theorem State.modFault_fwReq {d n : Nat} {g : PageFault → PageFault} : (s.modFault d n g).fwReq = s.fwReq := rfl
@[simp] theorem State.modFault_preempt {d n : Nat} {g : PageFault → PageFault} : (s.modFault d n g).preempt = s.preempt := rfl
@[simp] theorem State.modFault_turnAt {d n : Nat} {g : PageFault → PageFault} : (s.modFault d n g).turnAt = s.turnAt := rfl
@[simp] theorem State.modFault_reeveK {d n : Nat} {g : PageFault → PageFault} : (s.modFault d n g).reeveK = s.reeveK := rfl
@[simp] theorem State.modFault_reeveTaken {d n : Nat} {g : PageFault → PageFault} : (s.modFault d n g).reeveTaken = s.reeveTaken := rfl
@[simp] theorem State.modFault_reeveLast {d n : Nat} {g : PageFault → PageFault} : (s.modFault d n g).reeveLast = s.reeveLast := rfl
@[simp] theorem State.modFault_reeveClose {d n : Nat} {g : PageFault → PageFault} : (s.modFault d n g).reeveClose = s.reeveClose := rfl
@[simp] theorem State.modFault_gongAt {d n : Nat} {g : PageFault → PageFault} : (s.modFault d n g).gongAt = s.gongAt := rfl
@[simp] theorem State.modFault_snap {d n : Nat} {g : PageFault → PageFault} : (s.modFault d n g).snap = s.snap := rfl
@[simp] theorem State.modFault_freezes {d n : Nat} {g : PageFault → PageFault} : (s.modFault d n g).freezes = s.freezes := rfl
@[simp] theorem State.modFault_errLog {d n : Nat} {g : PageFault → PageFault} : (s.modFault d n g).errLog = s.errLog := rfl
@[simp] theorem State.modFault_errCount {d n : Nat} {g : PageFault → PageFault} : (s.modFault d n g).errCount = s.errCount := rfl
@[simp] theorem State.modFault_masks {d n : Nat} {g : PageFault → PageFault} : (s.modFault d n g).masks = s.masks := rfl
@[simp] theorem State.modFault_mck {d n : Nat} {g : PageFault → PageFault} : (s.modFault d n g).mck = s.mck := rfl
@[simp] theorem State.modFault_shadowRet {d n : Nat} {g : PageFault → PageFault} : (s.modFault d n g).shadowRet = s.shadowRet := rfl
@[simp] theorem State.modFault_shadowDrop {d n : Nat} {g : PageFault → PageFault} : (s.modFault d n g).shadowDrop = s.shadowDrop := rfl
@[simp] theorem State.modFault_badBound {d n : Nat} {g : PageFault → PageFault} : (s.modFault d n g).badBound = s.badBound := rfl
@[simp] theorem State.modFault_retired {d n : Nat} {g : PageFault → PageFault} : (s.modFault d n g).retired = s.retired := rfl
@[simp] theorem State.modFault_overtemp {d n : Nat} {g : PageFault → PageFault} : (s.modFault d n g).overtemp = s.overtemp := rfl
@[simp] theorem State.modFault_counts {d n : Nat} {g : PageFault → PageFault} : (s.modFault d n g).counts = s.counts := rfl
@[simp] theorem State.modFault_doe {d n : Nat} {g : PageFault → PageFault} : (s.modFault d n g).doe = s.doe := rfl

@[simp] theorem State.modQdesc_cyc {k q : Nat} {g : QDesc → QDesc} : (s.modQdesc k q g).cyc = s.cyc := rfl
@[simp] theorem State.modQdesc_agenda {k q : Nat} {g : QDesc → QDesc} : (s.modQdesc k q g).agenda = s.agenda := rfl
@[simp] theorem State.modQdesc_cur {k q : Nat} {g : QDesc → QDesc} : (s.modQdesc k q g).cur = s.cur := rfl
@[simp] theorem State.modQdesc_curCore {k q : Nat} {g : QDesc → QDesc} : (s.modQdesc k q g).curCore = s.curCore := rfl
@[simp] theorem State.modQdesc_arg {k q : Nat} {g : QDesc → QDesc} : (s.modQdesc k q g).arg = s.arg := rfl
@[simp] theorem State.modQdesc_held {k q : Nat} {g : QDesc → QDesc} : (s.modQdesc k q g).held = s.held := rfl
@[simp] theorem State.modQdesc_left {k q : Nat} {g : QDesc → QDesc} : (s.modQdesc k q g).left = s.left := rfl
@[simp] theorem State.modQdesc_ctr {k q : Nat} {g : QDesc → QDesc} : (s.modQdesc k q g).ctr = s.ctr := rfl
@[simp] theorem State.modQdesc_fresh {k q : Nat} {g : QDesc → QDesc} : (s.modQdesc k q g).fresh = s.fresh := rfl
@[simp] theorem State.modQdesc_regs {k q : Nat} {g : QDesc → QDesc} : (s.modQdesc k q g).regs = s.regs := rfl
@[simp] theorem State.modQdesc_raised {k q : Nat} {g : QDesc → QDesc} : (s.modQdesc k q g).raised = s.raised := rfl
@[simp] theorem State.modQdesc_dmem {k q : Nat} {g : QDesc → QDesc} : (s.modQdesc k q g).dmem = s.dmem := rfl
@[simp] theorem State.modQdesc_hmem {k q : Nat} {g : QDesc → QDesc} : (s.modQdesc k q g).hmem = s.hmem := rfl
@[simp] theorem State.modQdesc_scr {k q : Nat} {g : QDesc → QDesc} : (s.modQdesc k q g).scr = s.scr := rfl
@[simp] theorem State.modQdesc_wbuf {k q : Nat} {g : QDesc → QDesc} : (s.modQdesc k q g).wbuf = s.wbuf := rfl
@[simp] theorem State.modQdesc_pres {k q : Nat} {g : QDesc → QDesc} : (s.modQdesc k q g).pres = s.pres := rfl
@[simp] theorem State.modQdesc_poisD {k q : Nat} {g : QDesc → QDesc} : (s.modQdesc k q g).poisD = s.poisD := rfl
@[simp] theorem State.modQdesc_poisH {k q : Nat} {g : QDesc → QDesc} : (s.modQdesc k q g).poisH = s.poisH := rfl
@[simp] theorem State.modQdesc_poisS {k q : Nat} {g : QDesc → QDesc} : (s.modQdesc k q g).poisS = s.poisS := rfl
@[simp] theorem State.modQdesc_poisW {k q : Nat} {g : QDesc → QDesc} : (s.modQdesc k q g).poisW = s.poisW := rfl
@[simp] theorem State.modQdesc_fab {k q : Nat} {g : QDesc → QDesc} : (s.modQdesc k q g).fab = s.fab := rfl
@[simp] theorem State.modQdesc_saved {k q : Nat} {g : QDesc → QDesc} : (s.modQdesc k q g).saved = s.saved := rfl
@[simp] theorem State.modQdesc_stops {k q : Nat} {g : QDesc → QDesc} : (s.modQdesc k q g).stops = s.stops := rfl
@[simp] theorem State.modQdesc_insts {k q : Nat} {g : QDesc → QDesc} : (s.modQdesc k q g).insts = s.insts := rfl
@[simp] theorem State.modQdesc_gathers {k q : Nat} {g : QDesc → QDesc} : (s.modQdesc k q g).gathers = s.gathers := rfl
@[simp] theorem State.modQdesc_cands {k q : Nat} {g : QDesc → QDesc} : (s.modQdesc k q g).cands = s.cands := rfl
@[simp] theorem State.modQdesc_delivs {k q : Nat} {g : QDesc → QDesc} : (s.modQdesc k q g).delivs = s.delivs := rfl
@[simp] theorem State.modQdesc_fetches {k q : Nat} {g : QDesc → QDesc} : (s.modQdesc k q g).fetches = s.fetches := rfl
@[simp] theorem State.modQdesc_ccache {k q : Nat} {g : QDesc → QDesc} : (s.modQdesc k q g).ccache = s.ccache := rfl
@[simp] theorem State.modQdesc_traps {k q : Nat} {g : QDesc → QDesc} : (s.modQdesc k q g).traps = s.traps := rfl
@[simp] theorem State.modQdesc_voided {k q : Nat} {g : QDesc → QDesc} : (s.modQdesc k q g).voided = s.voided := rfl
@[simp] theorem State.modQdesc_hostEvts {k q : Nat} {g : QDesc → QDesc} : (s.modQdesc k q g).hostEvts = s.hostEvts := rfl
@[simp] theorem State.modQdesc_pfaults {k q : Nat} {g : QDesc → QDesc} : (s.modQdesc k q g).pfaults = s.pfaults := rfl
@[simp] theorem State.modQdesc_nextFid {k q : Nat} {g : QDesc → QDesc} : (s.modQdesc k q g).nextFid = s.nextFid := rfl
@[simp] theorem State.modQdesc_tlb {k q : Nat} {g : QDesc → QDesc} : (s.modQdesc k q g).tlb = s.tlb := rfl
@[simp] theorem State.modQdesc_walks {k q : Nat} {g : QDesc → QDesc} : (s.modQdesc k q g).walks = s.walks := rfl
@[simp] theorem State.modQdesc_asids {k q : Nat} {g : QDesc → QDesc} : (s.modQdesc k q g).asids = s.asids := rfl
@[simp] theorem State.modQdesc_tileEnts {k q : Nat} {g : QDesc → QDesc} : (s.modQdesc k q g).tileEnts = s.tileEnts := rfl
@[simp] theorem State.modQdesc_invq {k q : Nat} {g : QDesc → QDesc} : (s.modQdesc k q g).invq = s.invq := rfl
@[simp] theorem State.modQdesc_scrubs {k q : Nat} {g : QDesc → QDesc} : (s.modQdesc k q g).scrubs = s.scrubs := rfl
@[simp] theorem State.modQdesc_regGens {k q : Nat} {g : QDesc → QDesc} : (s.modQdesc k q g).regGens = s.regGens := rfl
@[simp] theorem State.modQdesc_qtab {k q : Nat} {g : QDesc → QDesc} : (s.modQdesc k q g).qtab = mapFirst (fun d => d.k = k && d.q = q) g s.qtab := rfl
@[simp] theorem State.modQdesc_sheaves {k q : Nat} {g : QDesc → QDesc} : (s.modQdesc k q g).sheaves = s.sheaves := rfl
@[simp] theorem State.modQdesc_waiters {k q : Nat} {g : QDesc → QDesc} : (s.modQdesc k q g).waiters = s.waiters := rfl
@[simp] theorem State.modQdesc_pubs {k q : Nat} {g : QDesc → QDesc} : (s.modQdesc k q g).pubs = s.pubs := rfl
@[simp] theorem State.modQdesc_pubSeq {k q : Nat} {g : QDesc → QDesc} : (s.modQdesc k q g).pubSeq = s.pubSeq := rfl
@[simp] theorem State.modQdesc_tasks {k q : Nat} {g : QDesc → QDesc} : (s.modQdesc k q g).tasks = s.tasks := rfl
@[simp] theorem State.modQdesc_taskQ {k q : Nat} {g : QDesc → QDesc} : (s.modQdesc k q g).taskQ = s.taskQ := rfl
@[simp] theorem State.modQdesc_ranks {k q : Nat} {g : QDesc → QDesc} : (s.modQdesc k q g).ranks = s.ranks := rfl
@[simp] theorem State.modQdesc_chunks {k q : Nat} {g : QDesc → QDesc} : (s.modQdesc k q g).chunks = s.chunks := rfl
@[simp] theorem State.modQdesc_collSeq {k q : Nat} {g : QDesc → QDesc} : (s.modQdesc k q g).collSeq = s.collSeq := rfl
@[simp] theorem State.modQdesc_ports {k q : Nat} {g : QDesc → QDesc} : (s.modQdesc k q g).ports = s.ports := rfl
@[simp] theorem State.modQdesc_snoop {k q : Nat} {g : QDesc → QDesc} : (s.modQdesc k q g).snoop = s.snoop := rfl
@[simp] theorem State.modQdesc_hostCopy {k q : Nat} {g : QDesc → QDesc} : (s.modQdesc k q g).hostCopy = s.hostCopy := rfl
@[simp] theorem State.modQdesc_agent {k q : Nat} {g : QDesc → QDesc} : (s.modQdesc k q g).agent = s.agent := rfl
@[simp] theorem State.modQdesc_decoders {k q : Nat} {g : QDesc → QDesc} : (s.modQdesc k q g).decoders = s.decoders := rfl
@[simp] theorem State.modQdesc_cxl {k q : Nat} {g : QDesc → QDesc} : (s.modQdesc k q g).cxl = s.cxl := rfl
@[simp] theorem State.modQdesc_hostBusy {k q : Nat} {g : QDesc → QDesc} : (s.modQdesc k q g).hostBusy = s.hostBusy := rfl
@[simp] theorem State.modQdesc_loadq {k q : Nat} {g : QDesc → QDesc} : (s.modQdesc k q g).loadq = s.loadq := rfl
@[simp] theorem State.modQdesc_loadFault {k q : Nat} {g : QDesc → QDesc} : (s.modQdesc k q g).loadFault = s.loadFault := rfl
@[simp] theorem State.modQdesc_loadFailed {k q : Nat} {g : QDesc → QDesc} : (s.modQdesc k q g).loadFailed = s.loadFailed := rfl
@[simp] theorem State.modQdesc_tcFlushing {k q : Nat} {g : QDesc → QDesc} : (s.modQdesc k q g).tcFlushing = s.tcFlushing := rfl
@[simp] theorem State.modQdesc_images {k q : Nat} {g : QDesc → QDesc} : (s.modQdesc k q g).images = s.images := rfl
@[simp] theorem State.modQdesc_tcLevel {k q : Nat} {g : QDesc → QDesc} : (s.modQdesc k q g).tcLevel = s.tcLevel := rfl
@[simp] theorem State.modQdesc_tcLook {k q : Nat} {g : QDesc → QDesc} : (s.modQdesc k q g).tcLook = s.tcLook := rfl
@[simp] theorem State.modQdesc_tc {k q : Nat} {g : QDesc → QDesc} : (s.modQdesc k q g).tc = s.tc := rfl
@[simp] theorem State.modQdesc_slots {k q : Nat} {g : QDesc → QDesc} : (s.modQdesc k q g).slots = s.slots := rfl
@[simp] theorem State.modQdesc_hooks {k q : Nat} {g : QDesc → QDesc} : (s.modQdesc k q g).hooks = s.hooks := rfl
@[simp] theorem State.modQdesc_patchCode {k q : Nat} {g : QDesc → QDesc} : (s.modQdesc k q g).patchCode = s.patchCode := rfl
@[simp] theorem State.modQdesc_patchImg {k q : Nat} {g : QDesc → QDesc} : (s.modQdesc k q g).patchImg = s.patchImg := rfl
@[simp] theorem State.modQdesc_belCopies {k q : Nat} {g : QDesc → QDesc} : (s.modQdesc k q g).belCopies = s.belCopies := rfl
@[simp] theorem State.modQdesc_belLoad {k q : Nat} {g : QDesc → QDesc} : (s.modQdesc k q g).belLoad = s.belLoad := rfl
@[simp] theorem State.modQdesc_fwImg {k q : Nat} {g : QDesc → QDesc} : (s.modQdesc k q g).fwImg = s.fwImg := rfl
@[simp] theorem State.modQdesc_fwCopies {k q : Nat} {g : QDesc → QDesc} : (s.modQdesc k q g).fwCopies = s.fwCopies := rfl
@[simp] theorem State.modQdesc_fwReq {k q : Nat} {g : QDesc → QDesc} : (s.modQdesc k q g).fwReq = s.fwReq := rfl
@[simp] theorem State.modQdesc_preempt {k q : Nat} {g : QDesc → QDesc} : (s.modQdesc k q g).preempt = s.preempt := rfl
@[simp] theorem State.modQdesc_turnAt {k q : Nat} {g : QDesc → QDesc} : (s.modQdesc k q g).turnAt = s.turnAt := rfl
@[simp] theorem State.modQdesc_reeveK {k q : Nat} {g : QDesc → QDesc} : (s.modQdesc k q g).reeveK = s.reeveK := rfl
@[simp] theorem State.modQdesc_reeveTaken {k q : Nat} {g : QDesc → QDesc} : (s.modQdesc k q g).reeveTaken = s.reeveTaken := rfl
@[simp] theorem State.modQdesc_reeveLast {k q : Nat} {g : QDesc → QDesc} : (s.modQdesc k q g).reeveLast = s.reeveLast := rfl
@[simp] theorem State.modQdesc_reeveClose {k q : Nat} {g : QDesc → QDesc} : (s.modQdesc k q g).reeveClose = s.reeveClose := rfl
@[simp] theorem State.modQdesc_gongAt {k q : Nat} {g : QDesc → QDesc} : (s.modQdesc k q g).gongAt = s.gongAt := rfl
@[simp] theorem State.modQdesc_snap {k q : Nat} {g : QDesc → QDesc} : (s.modQdesc k q g).snap = s.snap := rfl
@[simp] theorem State.modQdesc_freezes {k q : Nat} {g : QDesc → QDesc} : (s.modQdesc k q g).freezes = s.freezes := rfl
@[simp] theorem State.modQdesc_errLog {k q : Nat} {g : QDesc → QDesc} : (s.modQdesc k q g).errLog = s.errLog := rfl
@[simp] theorem State.modQdesc_errCount {k q : Nat} {g : QDesc → QDesc} : (s.modQdesc k q g).errCount = s.errCount := rfl
@[simp] theorem State.modQdesc_masks {k q : Nat} {g : QDesc → QDesc} : (s.modQdesc k q g).masks = s.masks := rfl
@[simp] theorem State.modQdesc_mck {k q : Nat} {g : QDesc → QDesc} : (s.modQdesc k q g).mck = s.mck := rfl
@[simp] theorem State.modQdesc_shadowRet {k q : Nat} {g : QDesc → QDesc} : (s.modQdesc k q g).shadowRet = s.shadowRet := rfl
@[simp] theorem State.modQdesc_shadowDrop {k q : Nat} {g : QDesc → QDesc} : (s.modQdesc k q g).shadowDrop = s.shadowDrop := rfl
@[simp] theorem State.modQdesc_badBound {k q : Nat} {g : QDesc → QDesc} : (s.modQdesc k q g).badBound = s.badBound := rfl
@[simp] theorem State.modQdesc_retired {k q : Nat} {g : QDesc → QDesc} : (s.modQdesc k q g).retired = s.retired := rfl
@[simp] theorem State.modQdesc_overtemp {k q : Nat} {g : QDesc → QDesc} : (s.modQdesc k q g).overtemp = s.overtemp := rfl
@[simp] theorem State.modQdesc_counts {k q : Nat} {g : QDesc → QDesc} : (s.modQdesc k q g).counts = s.counts := rfl
@[simp] theorem State.modQdesc_doe {k q : Nat} {g : QDesc → QDesc} : (s.modQdesc k q g).doe = s.doe := rfl

@[simp] theorem State.modSheaf_cyc {a t i : Nat} {g : Sheaf → Sheaf} : (s.modSheaf a t i g).cyc = s.cyc := rfl
@[simp] theorem State.modSheaf_agenda {a t i : Nat} {g : Sheaf → Sheaf} : (s.modSheaf a t i g).agenda = s.agenda := rfl
@[simp] theorem State.modSheaf_cur {a t i : Nat} {g : Sheaf → Sheaf} : (s.modSheaf a t i g).cur = s.cur := rfl
@[simp] theorem State.modSheaf_curCore {a t i : Nat} {g : Sheaf → Sheaf} : (s.modSheaf a t i g).curCore = s.curCore := rfl
@[simp] theorem State.modSheaf_arg {a t i : Nat} {g : Sheaf → Sheaf} : (s.modSheaf a t i g).arg = s.arg := rfl
@[simp] theorem State.modSheaf_held {a t i : Nat} {g : Sheaf → Sheaf} : (s.modSheaf a t i g).held = s.held := rfl
@[simp] theorem State.modSheaf_left {a t i : Nat} {g : Sheaf → Sheaf} : (s.modSheaf a t i g).left = s.left := rfl
@[simp] theorem State.modSheaf_ctr {a t i : Nat} {g : Sheaf → Sheaf} : (s.modSheaf a t i g).ctr = s.ctr := rfl
@[simp] theorem State.modSheaf_fresh {a t i : Nat} {g : Sheaf → Sheaf} : (s.modSheaf a t i g).fresh = s.fresh := rfl
@[simp] theorem State.modSheaf_regs {a t i : Nat} {g : Sheaf → Sheaf} : (s.modSheaf a t i g).regs = s.regs := rfl
@[simp] theorem State.modSheaf_raised {a t i : Nat} {g : Sheaf → Sheaf} : (s.modSheaf a t i g).raised = s.raised := rfl
@[simp] theorem State.modSheaf_dmem {a t i : Nat} {g : Sheaf → Sheaf} : (s.modSheaf a t i g).dmem = s.dmem := rfl
@[simp] theorem State.modSheaf_hmem {a t i : Nat} {g : Sheaf → Sheaf} : (s.modSheaf a t i g).hmem = s.hmem := rfl
@[simp] theorem State.modSheaf_scr {a t i : Nat} {g : Sheaf → Sheaf} : (s.modSheaf a t i g).scr = s.scr := rfl
@[simp] theorem State.modSheaf_wbuf {a t i : Nat} {g : Sheaf → Sheaf} : (s.modSheaf a t i g).wbuf = s.wbuf := rfl
@[simp] theorem State.modSheaf_pres {a t i : Nat} {g : Sheaf → Sheaf} : (s.modSheaf a t i g).pres = s.pres := rfl
@[simp] theorem State.modSheaf_poisD {a t i : Nat} {g : Sheaf → Sheaf} : (s.modSheaf a t i g).poisD = s.poisD := rfl
@[simp] theorem State.modSheaf_poisH {a t i : Nat} {g : Sheaf → Sheaf} : (s.modSheaf a t i g).poisH = s.poisH := rfl
@[simp] theorem State.modSheaf_poisS {a t i : Nat} {g : Sheaf → Sheaf} : (s.modSheaf a t i g).poisS = s.poisS := rfl
@[simp] theorem State.modSheaf_poisW {a t i : Nat} {g : Sheaf → Sheaf} : (s.modSheaf a t i g).poisW = s.poisW := rfl
@[simp] theorem State.modSheaf_fab {a t i : Nat} {g : Sheaf → Sheaf} : (s.modSheaf a t i g).fab = s.fab := rfl
@[simp] theorem State.modSheaf_saved {a t i : Nat} {g : Sheaf → Sheaf} : (s.modSheaf a t i g).saved = s.saved := rfl
@[simp] theorem State.modSheaf_stops {a t i : Nat} {g : Sheaf → Sheaf} : (s.modSheaf a t i g).stops = s.stops := rfl
@[simp] theorem State.modSheaf_insts {a t i : Nat} {g : Sheaf → Sheaf} : (s.modSheaf a t i g).insts = s.insts := rfl
@[simp] theorem State.modSheaf_gathers {a t i : Nat} {g : Sheaf → Sheaf} : (s.modSheaf a t i g).gathers = s.gathers := rfl
@[simp] theorem State.modSheaf_cands {a t i : Nat} {g : Sheaf → Sheaf} : (s.modSheaf a t i g).cands = s.cands := rfl
@[simp] theorem State.modSheaf_delivs {a t i : Nat} {g : Sheaf → Sheaf} : (s.modSheaf a t i g).delivs = s.delivs := rfl
@[simp] theorem State.modSheaf_fetches {a t i : Nat} {g : Sheaf → Sheaf} : (s.modSheaf a t i g).fetches = s.fetches := rfl
@[simp] theorem State.modSheaf_ccache {a t i : Nat} {g : Sheaf → Sheaf} : (s.modSheaf a t i g).ccache = s.ccache := rfl
@[simp] theorem State.modSheaf_traps {a t i : Nat} {g : Sheaf → Sheaf} : (s.modSheaf a t i g).traps = s.traps := rfl
@[simp] theorem State.modSheaf_voided {a t i : Nat} {g : Sheaf → Sheaf} : (s.modSheaf a t i g).voided = s.voided := rfl
@[simp] theorem State.modSheaf_hostEvts {a t i : Nat} {g : Sheaf → Sheaf} : (s.modSheaf a t i g).hostEvts = s.hostEvts := rfl
@[simp] theorem State.modSheaf_pfaults {a t i : Nat} {g : Sheaf → Sheaf} : (s.modSheaf a t i g).pfaults = s.pfaults := rfl
@[simp] theorem State.modSheaf_nextFid {a t i : Nat} {g : Sheaf → Sheaf} : (s.modSheaf a t i g).nextFid = s.nextFid := rfl
@[simp] theorem State.modSheaf_tlb {a t i : Nat} {g : Sheaf → Sheaf} : (s.modSheaf a t i g).tlb = s.tlb := rfl
@[simp] theorem State.modSheaf_walks {a t i : Nat} {g : Sheaf → Sheaf} : (s.modSheaf a t i g).walks = s.walks := rfl
@[simp] theorem State.modSheaf_asids {a t i : Nat} {g : Sheaf → Sheaf} : (s.modSheaf a t i g).asids = s.asids := rfl
@[simp] theorem State.modSheaf_tileEnts {a t i : Nat} {g : Sheaf → Sheaf} : (s.modSheaf a t i g).tileEnts = s.tileEnts := rfl
@[simp] theorem State.modSheaf_invq {a t i : Nat} {g : Sheaf → Sheaf} : (s.modSheaf a t i g).invq = s.invq := rfl
@[simp] theorem State.modSheaf_scrubs {a t i : Nat} {g : Sheaf → Sheaf} : (s.modSheaf a t i g).scrubs = s.scrubs := rfl
@[simp] theorem State.modSheaf_regGens {a t i : Nat} {g : Sheaf → Sheaf} : (s.modSheaf a t i g).regGens = s.regGens := rfl
@[simp] theorem State.modSheaf_qtab {a t i : Nat} {g : Sheaf → Sheaf} : (s.modSheaf a t i g).qtab = s.qtab := rfl
@[simp] theorem State.modSheaf_sheaves {a t i : Nat} {g : Sheaf → Sheaf} : (s.modSheaf a t i g).sheaves = mapFirst (fun e => e.asid = a && e.tid = t && e.tile = i) g s.sheaves := rfl
@[simp] theorem State.modSheaf_waiters {a t i : Nat} {g : Sheaf → Sheaf} : (s.modSheaf a t i g).waiters = s.waiters := rfl
@[simp] theorem State.modSheaf_pubs {a t i : Nat} {g : Sheaf → Sheaf} : (s.modSheaf a t i g).pubs = s.pubs := rfl
@[simp] theorem State.modSheaf_pubSeq {a t i : Nat} {g : Sheaf → Sheaf} : (s.modSheaf a t i g).pubSeq = s.pubSeq := rfl
@[simp] theorem State.modSheaf_tasks {a t i : Nat} {g : Sheaf → Sheaf} : (s.modSheaf a t i g).tasks = s.tasks := rfl
@[simp] theorem State.modSheaf_taskQ {a t i : Nat} {g : Sheaf → Sheaf} : (s.modSheaf a t i g).taskQ = s.taskQ := rfl
@[simp] theorem State.modSheaf_ranks {a t i : Nat} {g : Sheaf → Sheaf} : (s.modSheaf a t i g).ranks = s.ranks := rfl
@[simp] theorem State.modSheaf_chunks {a t i : Nat} {g : Sheaf → Sheaf} : (s.modSheaf a t i g).chunks = s.chunks := rfl
@[simp] theorem State.modSheaf_collSeq {a t i : Nat} {g : Sheaf → Sheaf} : (s.modSheaf a t i g).collSeq = s.collSeq := rfl
@[simp] theorem State.modSheaf_ports {a t i : Nat} {g : Sheaf → Sheaf} : (s.modSheaf a t i g).ports = s.ports := rfl
@[simp] theorem State.modSheaf_snoop {a t i : Nat} {g : Sheaf → Sheaf} : (s.modSheaf a t i g).snoop = s.snoop := rfl
@[simp] theorem State.modSheaf_hostCopy {a t i : Nat} {g : Sheaf → Sheaf} : (s.modSheaf a t i g).hostCopy = s.hostCopy := rfl
@[simp] theorem State.modSheaf_agent {a t i : Nat} {g : Sheaf → Sheaf} : (s.modSheaf a t i g).agent = s.agent := rfl
@[simp] theorem State.modSheaf_decoders {a t i : Nat} {g : Sheaf → Sheaf} : (s.modSheaf a t i g).decoders = s.decoders := rfl
@[simp] theorem State.modSheaf_cxl {a t i : Nat} {g : Sheaf → Sheaf} : (s.modSheaf a t i g).cxl = s.cxl := rfl
@[simp] theorem State.modSheaf_hostBusy {a t i : Nat} {g : Sheaf → Sheaf} : (s.modSheaf a t i g).hostBusy = s.hostBusy := rfl
@[simp] theorem State.modSheaf_loadq {a t i : Nat} {g : Sheaf → Sheaf} : (s.modSheaf a t i g).loadq = s.loadq := rfl
@[simp] theorem State.modSheaf_loadFault {a t i : Nat} {g : Sheaf → Sheaf} : (s.modSheaf a t i g).loadFault = s.loadFault := rfl
@[simp] theorem State.modSheaf_loadFailed {a t i : Nat} {g : Sheaf → Sheaf} : (s.modSheaf a t i g).loadFailed = s.loadFailed := rfl
@[simp] theorem State.modSheaf_tcFlushing {a t i : Nat} {g : Sheaf → Sheaf} : (s.modSheaf a t i g).tcFlushing = s.tcFlushing := rfl
@[simp] theorem State.modSheaf_images {a t i : Nat} {g : Sheaf → Sheaf} : (s.modSheaf a t i g).images = s.images := rfl
@[simp] theorem State.modSheaf_tcLevel {a t i : Nat} {g : Sheaf → Sheaf} : (s.modSheaf a t i g).tcLevel = s.tcLevel := rfl
@[simp] theorem State.modSheaf_tcLook {a t i : Nat} {g : Sheaf → Sheaf} : (s.modSheaf a t i g).tcLook = s.tcLook := rfl
@[simp] theorem State.modSheaf_tc {a t i : Nat} {g : Sheaf → Sheaf} : (s.modSheaf a t i g).tc = s.tc := rfl
@[simp] theorem State.modSheaf_slots {a t i : Nat} {g : Sheaf → Sheaf} : (s.modSheaf a t i g).slots = s.slots := rfl
@[simp] theorem State.modSheaf_hooks {a t i : Nat} {g : Sheaf → Sheaf} : (s.modSheaf a t i g).hooks = s.hooks := rfl
@[simp] theorem State.modSheaf_patchCode {a t i : Nat} {g : Sheaf → Sheaf} : (s.modSheaf a t i g).patchCode = s.patchCode := rfl
@[simp] theorem State.modSheaf_patchImg {a t i : Nat} {g : Sheaf → Sheaf} : (s.modSheaf a t i g).patchImg = s.patchImg := rfl
@[simp] theorem State.modSheaf_belCopies {a t i : Nat} {g : Sheaf → Sheaf} : (s.modSheaf a t i g).belCopies = s.belCopies := rfl
@[simp] theorem State.modSheaf_belLoad {a t i : Nat} {g : Sheaf → Sheaf} : (s.modSheaf a t i g).belLoad = s.belLoad := rfl
@[simp] theorem State.modSheaf_fwImg {a t i : Nat} {g : Sheaf → Sheaf} : (s.modSheaf a t i g).fwImg = s.fwImg := rfl
@[simp] theorem State.modSheaf_fwCopies {a t i : Nat} {g : Sheaf → Sheaf} : (s.modSheaf a t i g).fwCopies = s.fwCopies := rfl
@[simp] theorem State.modSheaf_fwReq {a t i : Nat} {g : Sheaf → Sheaf} : (s.modSheaf a t i g).fwReq = s.fwReq := rfl
@[simp] theorem State.modSheaf_preempt {a t i : Nat} {g : Sheaf → Sheaf} : (s.modSheaf a t i g).preempt = s.preempt := rfl
@[simp] theorem State.modSheaf_turnAt {a t i : Nat} {g : Sheaf → Sheaf} : (s.modSheaf a t i g).turnAt = s.turnAt := rfl
@[simp] theorem State.modSheaf_reeveK {a t i : Nat} {g : Sheaf → Sheaf} : (s.modSheaf a t i g).reeveK = s.reeveK := rfl
@[simp] theorem State.modSheaf_reeveTaken {a t i : Nat} {g : Sheaf → Sheaf} : (s.modSheaf a t i g).reeveTaken = s.reeveTaken := rfl
@[simp] theorem State.modSheaf_reeveLast {a t i : Nat} {g : Sheaf → Sheaf} : (s.modSheaf a t i g).reeveLast = s.reeveLast := rfl
@[simp] theorem State.modSheaf_reeveClose {a t i : Nat} {g : Sheaf → Sheaf} : (s.modSheaf a t i g).reeveClose = s.reeveClose := rfl
@[simp] theorem State.modSheaf_gongAt {a t i : Nat} {g : Sheaf → Sheaf} : (s.modSheaf a t i g).gongAt = s.gongAt := rfl
@[simp] theorem State.modSheaf_snap {a t i : Nat} {g : Sheaf → Sheaf} : (s.modSheaf a t i g).snap = s.snap := rfl
@[simp] theorem State.modSheaf_freezes {a t i : Nat} {g : Sheaf → Sheaf} : (s.modSheaf a t i g).freezes = s.freezes := rfl
@[simp] theorem State.modSheaf_errLog {a t i : Nat} {g : Sheaf → Sheaf} : (s.modSheaf a t i g).errLog = s.errLog := rfl
@[simp] theorem State.modSheaf_errCount {a t i : Nat} {g : Sheaf → Sheaf} : (s.modSheaf a t i g).errCount = s.errCount := rfl
@[simp] theorem State.modSheaf_masks {a t i : Nat} {g : Sheaf → Sheaf} : (s.modSheaf a t i g).masks = s.masks := rfl
@[simp] theorem State.modSheaf_mck {a t i : Nat} {g : Sheaf → Sheaf} : (s.modSheaf a t i g).mck = s.mck := rfl
@[simp] theorem State.modSheaf_shadowRet {a t i : Nat} {g : Sheaf → Sheaf} : (s.modSheaf a t i g).shadowRet = s.shadowRet := rfl
@[simp] theorem State.modSheaf_shadowDrop {a t i : Nat} {g : Sheaf → Sheaf} : (s.modSheaf a t i g).shadowDrop = s.shadowDrop := rfl
@[simp] theorem State.modSheaf_badBound {a t i : Nat} {g : Sheaf → Sheaf} : (s.modSheaf a t i g).badBound = s.badBound := rfl
@[simp] theorem State.modSheaf_retired {a t i : Nat} {g : Sheaf → Sheaf} : (s.modSheaf a t i g).retired = s.retired := rfl
@[simp] theorem State.modSheaf_overtemp {a t i : Nat} {g : Sheaf → Sheaf} : (s.modSheaf a t i g).overtemp = s.overtemp := rfl
@[simp] theorem State.modSheaf_counts {a t i : Nat} {g : Sheaf → Sheaf} : (s.modSheaf a t i g).counts = s.counts := rfl
@[simp] theorem State.modSheaf_doe {a t i : Nat} {g : Sheaf → Sheaf} : (s.modSheaf a t i g).doe = s.doe := rfl

@[simp] theorem State.modWaiter_cyc {n : Nat} {g : Waiter → Waiter} : (s.modWaiter n g).cyc = s.cyc := rfl
@[simp] theorem State.modWaiter_agenda {n : Nat} {g : Waiter → Waiter} : (s.modWaiter n g).agenda = s.agenda := rfl
@[simp] theorem State.modWaiter_cur {n : Nat} {g : Waiter → Waiter} : (s.modWaiter n g).cur = s.cur := rfl
@[simp] theorem State.modWaiter_curCore {n : Nat} {g : Waiter → Waiter} : (s.modWaiter n g).curCore = s.curCore := rfl
@[simp] theorem State.modWaiter_arg {n : Nat} {g : Waiter → Waiter} : (s.modWaiter n g).arg = s.arg := rfl
@[simp] theorem State.modWaiter_held {n : Nat} {g : Waiter → Waiter} : (s.modWaiter n g).held = s.held := rfl
@[simp] theorem State.modWaiter_left {n : Nat} {g : Waiter → Waiter} : (s.modWaiter n g).left = s.left := rfl
@[simp] theorem State.modWaiter_ctr {n : Nat} {g : Waiter → Waiter} : (s.modWaiter n g).ctr = s.ctr := rfl
@[simp] theorem State.modWaiter_fresh {n : Nat} {g : Waiter → Waiter} : (s.modWaiter n g).fresh = s.fresh := rfl
@[simp] theorem State.modWaiter_regs {n : Nat} {g : Waiter → Waiter} : (s.modWaiter n g).regs = s.regs := rfl
@[simp] theorem State.modWaiter_raised {n : Nat} {g : Waiter → Waiter} : (s.modWaiter n g).raised = s.raised := rfl
@[simp] theorem State.modWaiter_dmem {n : Nat} {g : Waiter → Waiter} : (s.modWaiter n g).dmem = s.dmem := rfl
@[simp] theorem State.modWaiter_hmem {n : Nat} {g : Waiter → Waiter} : (s.modWaiter n g).hmem = s.hmem := rfl
@[simp] theorem State.modWaiter_scr {n : Nat} {g : Waiter → Waiter} : (s.modWaiter n g).scr = s.scr := rfl
@[simp] theorem State.modWaiter_wbuf {n : Nat} {g : Waiter → Waiter} : (s.modWaiter n g).wbuf = s.wbuf := rfl
@[simp] theorem State.modWaiter_pres {n : Nat} {g : Waiter → Waiter} : (s.modWaiter n g).pres = s.pres := rfl
@[simp] theorem State.modWaiter_poisD {n : Nat} {g : Waiter → Waiter} : (s.modWaiter n g).poisD = s.poisD := rfl
@[simp] theorem State.modWaiter_poisH {n : Nat} {g : Waiter → Waiter} : (s.modWaiter n g).poisH = s.poisH := rfl
@[simp] theorem State.modWaiter_poisS {n : Nat} {g : Waiter → Waiter} : (s.modWaiter n g).poisS = s.poisS := rfl
@[simp] theorem State.modWaiter_poisW {n : Nat} {g : Waiter → Waiter} : (s.modWaiter n g).poisW = s.poisW := rfl
@[simp] theorem State.modWaiter_fab {n : Nat} {g : Waiter → Waiter} : (s.modWaiter n g).fab = s.fab := rfl
@[simp] theorem State.modWaiter_saved {n : Nat} {g : Waiter → Waiter} : (s.modWaiter n g).saved = s.saved := rfl
@[simp] theorem State.modWaiter_stops {n : Nat} {g : Waiter → Waiter} : (s.modWaiter n g).stops = s.stops := rfl
@[simp] theorem State.modWaiter_insts {n : Nat} {g : Waiter → Waiter} : (s.modWaiter n g).insts = s.insts := rfl
@[simp] theorem State.modWaiter_gathers {n : Nat} {g : Waiter → Waiter} : (s.modWaiter n g).gathers = s.gathers := rfl
@[simp] theorem State.modWaiter_cands {n : Nat} {g : Waiter → Waiter} : (s.modWaiter n g).cands = s.cands := rfl
@[simp] theorem State.modWaiter_delivs {n : Nat} {g : Waiter → Waiter} : (s.modWaiter n g).delivs = s.delivs := rfl
@[simp] theorem State.modWaiter_fetches {n : Nat} {g : Waiter → Waiter} : (s.modWaiter n g).fetches = s.fetches := rfl
@[simp] theorem State.modWaiter_ccache {n : Nat} {g : Waiter → Waiter} : (s.modWaiter n g).ccache = s.ccache := rfl
@[simp] theorem State.modWaiter_traps {n : Nat} {g : Waiter → Waiter} : (s.modWaiter n g).traps = s.traps := rfl
@[simp] theorem State.modWaiter_voided {n : Nat} {g : Waiter → Waiter} : (s.modWaiter n g).voided = s.voided := rfl
@[simp] theorem State.modWaiter_hostEvts {n : Nat} {g : Waiter → Waiter} : (s.modWaiter n g).hostEvts = s.hostEvts := rfl
@[simp] theorem State.modWaiter_pfaults {n : Nat} {g : Waiter → Waiter} : (s.modWaiter n g).pfaults = s.pfaults := rfl
@[simp] theorem State.modWaiter_nextFid {n : Nat} {g : Waiter → Waiter} : (s.modWaiter n g).nextFid = s.nextFid := rfl
@[simp] theorem State.modWaiter_tlb {n : Nat} {g : Waiter → Waiter} : (s.modWaiter n g).tlb = s.tlb := rfl
@[simp] theorem State.modWaiter_walks {n : Nat} {g : Waiter → Waiter} : (s.modWaiter n g).walks = s.walks := rfl
@[simp] theorem State.modWaiter_asids {n : Nat} {g : Waiter → Waiter} : (s.modWaiter n g).asids = s.asids := rfl
@[simp] theorem State.modWaiter_tileEnts {n : Nat} {g : Waiter → Waiter} : (s.modWaiter n g).tileEnts = s.tileEnts := rfl
@[simp] theorem State.modWaiter_invq {n : Nat} {g : Waiter → Waiter} : (s.modWaiter n g).invq = s.invq := rfl
@[simp] theorem State.modWaiter_scrubs {n : Nat} {g : Waiter → Waiter} : (s.modWaiter n g).scrubs = s.scrubs := rfl
@[simp] theorem State.modWaiter_regGens {n : Nat} {g : Waiter → Waiter} : (s.modWaiter n g).regGens = s.regGens := rfl
@[simp] theorem State.modWaiter_qtab {n : Nat} {g : Waiter → Waiter} : (s.modWaiter n g).qtab = s.qtab := rfl
@[simp] theorem State.modWaiter_sheaves {n : Nat} {g : Waiter → Waiter} : (s.modWaiter n g).sheaves = s.sheaves := rfl
@[simp] theorem State.modWaiter_waiters {n : Nat} {g : Waiter → Waiter} : (s.modWaiter n g).waiters = mapFirst (fun w => w.id = n) g s.waiters := rfl
@[simp] theorem State.modWaiter_pubs {n : Nat} {g : Waiter → Waiter} : (s.modWaiter n g).pubs = s.pubs := rfl
@[simp] theorem State.modWaiter_pubSeq {n : Nat} {g : Waiter → Waiter} : (s.modWaiter n g).pubSeq = s.pubSeq := rfl
@[simp] theorem State.modWaiter_tasks {n : Nat} {g : Waiter → Waiter} : (s.modWaiter n g).tasks = s.tasks := rfl
@[simp] theorem State.modWaiter_taskQ {n : Nat} {g : Waiter → Waiter} : (s.modWaiter n g).taskQ = s.taskQ := rfl
@[simp] theorem State.modWaiter_ranks {n : Nat} {g : Waiter → Waiter} : (s.modWaiter n g).ranks = s.ranks := rfl
@[simp] theorem State.modWaiter_chunks {n : Nat} {g : Waiter → Waiter} : (s.modWaiter n g).chunks = s.chunks := rfl
@[simp] theorem State.modWaiter_collSeq {n : Nat} {g : Waiter → Waiter} : (s.modWaiter n g).collSeq = s.collSeq := rfl
@[simp] theorem State.modWaiter_ports {n : Nat} {g : Waiter → Waiter} : (s.modWaiter n g).ports = s.ports := rfl
@[simp] theorem State.modWaiter_snoop {n : Nat} {g : Waiter → Waiter} : (s.modWaiter n g).snoop = s.snoop := rfl
@[simp] theorem State.modWaiter_hostCopy {n : Nat} {g : Waiter → Waiter} : (s.modWaiter n g).hostCopy = s.hostCopy := rfl
@[simp] theorem State.modWaiter_agent {n : Nat} {g : Waiter → Waiter} : (s.modWaiter n g).agent = s.agent := rfl
@[simp] theorem State.modWaiter_decoders {n : Nat} {g : Waiter → Waiter} : (s.modWaiter n g).decoders = s.decoders := rfl
@[simp] theorem State.modWaiter_cxl {n : Nat} {g : Waiter → Waiter} : (s.modWaiter n g).cxl = s.cxl := rfl
@[simp] theorem State.modWaiter_hostBusy {n : Nat} {g : Waiter → Waiter} : (s.modWaiter n g).hostBusy = s.hostBusy := rfl
@[simp] theorem State.modWaiter_loadq {n : Nat} {g : Waiter → Waiter} : (s.modWaiter n g).loadq = s.loadq := rfl
@[simp] theorem State.modWaiter_loadFault {n : Nat} {g : Waiter → Waiter} : (s.modWaiter n g).loadFault = s.loadFault := rfl
@[simp] theorem State.modWaiter_loadFailed {n : Nat} {g : Waiter → Waiter} : (s.modWaiter n g).loadFailed = s.loadFailed := rfl
@[simp] theorem State.modWaiter_tcFlushing {n : Nat} {g : Waiter → Waiter} : (s.modWaiter n g).tcFlushing = s.tcFlushing := rfl
@[simp] theorem State.modWaiter_images {n : Nat} {g : Waiter → Waiter} : (s.modWaiter n g).images = s.images := rfl
@[simp] theorem State.modWaiter_tcLevel {n : Nat} {g : Waiter → Waiter} : (s.modWaiter n g).tcLevel = s.tcLevel := rfl
@[simp] theorem State.modWaiter_tcLook {n : Nat} {g : Waiter → Waiter} : (s.modWaiter n g).tcLook = s.tcLook := rfl
@[simp] theorem State.modWaiter_tc {n : Nat} {g : Waiter → Waiter} : (s.modWaiter n g).tc = s.tc := rfl
@[simp] theorem State.modWaiter_slots {n : Nat} {g : Waiter → Waiter} : (s.modWaiter n g).slots = s.slots := rfl
@[simp] theorem State.modWaiter_hooks {n : Nat} {g : Waiter → Waiter} : (s.modWaiter n g).hooks = s.hooks := rfl
@[simp] theorem State.modWaiter_patchCode {n : Nat} {g : Waiter → Waiter} : (s.modWaiter n g).patchCode = s.patchCode := rfl
@[simp] theorem State.modWaiter_patchImg {n : Nat} {g : Waiter → Waiter} : (s.modWaiter n g).patchImg = s.patchImg := rfl
@[simp] theorem State.modWaiter_belCopies {n : Nat} {g : Waiter → Waiter} : (s.modWaiter n g).belCopies = s.belCopies := rfl
@[simp] theorem State.modWaiter_belLoad {n : Nat} {g : Waiter → Waiter} : (s.modWaiter n g).belLoad = s.belLoad := rfl
@[simp] theorem State.modWaiter_fwImg {n : Nat} {g : Waiter → Waiter} : (s.modWaiter n g).fwImg = s.fwImg := rfl
@[simp] theorem State.modWaiter_fwCopies {n : Nat} {g : Waiter → Waiter} : (s.modWaiter n g).fwCopies = s.fwCopies := rfl
@[simp] theorem State.modWaiter_fwReq {n : Nat} {g : Waiter → Waiter} : (s.modWaiter n g).fwReq = s.fwReq := rfl
@[simp] theorem State.modWaiter_preempt {n : Nat} {g : Waiter → Waiter} : (s.modWaiter n g).preempt = s.preempt := rfl
@[simp] theorem State.modWaiter_turnAt {n : Nat} {g : Waiter → Waiter} : (s.modWaiter n g).turnAt = s.turnAt := rfl
@[simp] theorem State.modWaiter_reeveK {n : Nat} {g : Waiter → Waiter} : (s.modWaiter n g).reeveK = s.reeveK := rfl
@[simp] theorem State.modWaiter_reeveTaken {n : Nat} {g : Waiter → Waiter} : (s.modWaiter n g).reeveTaken = s.reeveTaken := rfl
@[simp] theorem State.modWaiter_reeveLast {n : Nat} {g : Waiter → Waiter} : (s.modWaiter n g).reeveLast = s.reeveLast := rfl
@[simp] theorem State.modWaiter_reeveClose {n : Nat} {g : Waiter → Waiter} : (s.modWaiter n g).reeveClose = s.reeveClose := rfl
@[simp] theorem State.modWaiter_gongAt {n : Nat} {g : Waiter → Waiter} : (s.modWaiter n g).gongAt = s.gongAt := rfl
@[simp] theorem State.modWaiter_snap {n : Nat} {g : Waiter → Waiter} : (s.modWaiter n g).snap = s.snap := rfl
@[simp] theorem State.modWaiter_freezes {n : Nat} {g : Waiter → Waiter} : (s.modWaiter n g).freezes = s.freezes := rfl
@[simp] theorem State.modWaiter_errLog {n : Nat} {g : Waiter → Waiter} : (s.modWaiter n g).errLog = s.errLog := rfl
@[simp] theorem State.modWaiter_errCount {n : Nat} {g : Waiter → Waiter} : (s.modWaiter n g).errCount = s.errCount := rfl
@[simp] theorem State.modWaiter_masks {n : Nat} {g : Waiter → Waiter} : (s.modWaiter n g).masks = s.masks := rfl
@[simp] theorem State.modWaiter_mck {n : Nat} {g : Waiter → Waiter} : (s.modWaiter n g).mck = s.mck := rfl
@[simp] theorem State.modWaiter_shadowRet {n : Nat} {g : Waiter → Waiter} : (s.modWaiter n g).shadowRet = s.shadowRet := rfl
@[simp] theorem State.modWaiter_shadowDrop {n : Nat} {g : Waiter → Waiter} : (s.modWaiter n g).shadowDrop = s.shadowDrop := rfl
@[simp] theorem State.modWaiter_badBound {n : Nat} {g : Waiter → Waiter} : (s.modWaiter n g).badBound = s.badBound := rfl
@[simp] theorem State.modWaiter_retired {n : Nat} {g : Waiter → Waiter} : (s.modWaiter n g).retired = s.retired := rfl
@[simp] theorem State.modWaiter_overtemp {n : Nat} {g : Waiter → Waiter} : (s.modWaiter n g).overtemp = s.overtemp := rfl
@[simp] theorem State.modWaiter_counts {n : Nat} {g : Waiter → Waiter} : (s.modWaiter n g).counts = s.counts := rfl
@[simp] theorem State.modWaiter_doe {n : Nat} {g : Waiter → Waiter} : (s.modWaiter n g).doe = s.doe := rfl

@[simp] theorem State.modTask_cyc {n : Nat} {g : Task → Task} : (s.modTask n g).cyc = s.cyc := rfl
@[simp] theorem State.modTask_agenda {n : Nat} {g : Task → Task} : (s.modTask n g).agenda = s.agenda := rfl
@[simp] theorem State.modTask_cur {n : Nat} {g : Task → Task} : (s.modTask n g).cur = s.cur := rfl
@[simp] theorem State.modTask_curCore {n : Nat} {g : Task → Task} : (s.modTask n g).curCore = s.curCore := rfl
@[simp] theorem State.modTask_arg {n : Nat} {g : Task → Task} : (s.modTask n g).arg = s.arg := rfl
@[simp] theorem State.modTask_held {n : Nat} {g : Task → Task} : (s.modTask n g).held = s.held := rfl
@[simp] theorem State.modTask_left {n : Nat} {g : Task → Task} : (s.modTask n g).left = s.left := rfl
@[simp] theorem State.modTask_ctr {n : Nat} {g : Task → Task} : (s.modTask n g).ctr = s.ctr := rfl
@[simp] theorem State.modTask_fresh {n : Nat} {g : Task → Task} : (s.modTask n g).fresh = s.fresh := rfl
@[simp] theorem State.modTask_regs {n : Nat} {g : Task → Task} : (s.modTask n g).regs = s.regs := rfl
@[simp] theorem State.modTask_raised {n : Nat} {g : Task → Task} : (s.modTask n g).raised = s.raised := rfl
@[simp] theorem State.modTask_dmem {n : Nat} {g : Task → Task} : (s.modTask n g).dmem = s.dmem := rfl
@[simp] theorem State.modTask_hmem {n : Nat} {g : Task → Task} : (s.modTask n g).hmem = s.hmem := rfl
@[simp] theorem State.modTask_scr {n : Nat} {g : Task → Task} : (s.modTask n g).scr = s.scr := rfl
@[simp] theorem State.modTask_wbuf {n : Nat} {g : Task → Task} : (s.modTask n g).wbuf = s.wbuf := rfl
@[simp] theorem State.modTask_pres {n : Nat} {g : Task → Task} : (s.modTask n g).pres = s.pres := rfl
@[simp] theorem State.modTask_poisD {n : Nat} {g : Task → Task} : (s.modTask n g).poisD = s.poisD := rfl
@[simp] theorem State.modTask_poisH {n : Nat} {g : Task → Task} : (s.modTask n g).poisH = s.poisH := rfl
@[simp] theorem State.modTask_poisS {n : Nat} {g : Task → Task} : (s.modTask n g).poisS = s.poisS := rfl
@[simp] theorem State.modTask_poisW {n : Nat} {g : Task → Task} : (s.modTask n g).poisW = s.poisW := rfl
@[simp] theorem State.modTask_fab {n : Nat} {g : Task → Task} : (s.modTask n g).fab = s.fab := rfl
@[simp] theorem State.modTask_saved {n : Nat} {g : Task → Task} : (s.modTask n g).saved = s.saved := rfl
@[simp] theorem State.modTask_stops {n : Nat} {g : Task → Task} : (s.modTask n g).stops = s.stops := rfl
@[simp] theorem State.modTask_insts {n : Nat} {g : Task → Task} : (s.modTask n g).insts = s.insts := rfl
@[simp] theorem State.modTask_gathers {n : Nat} {g : Task → Task} : (s.modTask n g).gathers = s.gathers := rfl
@[simp] theorem State.modTask_cands {n : Nat} {g : Task → Task} : (s.modTask n g).cands = s.cands := rfl
@[simp] theorem State.modTask_delivs {n : Nat} {g : Task → Task} : (s.modTask n g).delivs = s.delivs := rfl
@[simp] theorem State.modTask_fetches {n : Nat} {g : Task → Task} : (s.modTask n g).fetches = s.fetches := rfl
@[simp] theorem State.modTask_ccache {n : Nat} {g : Task → Task} : (s.modTask n g).ccache = s.ccache := rfl
@[simp] theorem State.modTask_traps {n : Nat} {g : Task → Task} : (s.modTask n g).traps = s.traps := rfl
@[simp] theorem State.modTask_voided {n : Nat} {g : Task → Task} : (s.modTask n g).voided = s.voided := rfl
@[simp] theorem State.modTask_hostEvts {n : Nat} {g : Task → Task} : (s.modTask n g).hostEvts = s.hostEvts := rfl
@[simp] theorem State.modTask_pfaults {n : Nat} {g : Task → Task} : (s.modTask n g).pfaults = s.pfaults := rfl
@[simp] theorem State.modTask_nextFid {n : Nat} {g : Task → Task} : (s.modTask n g).nextFid = s.nextFid := rfl
@[simp] theorem State.modTask_tlb {n : Nat} {g : Task → Task} : (s.modTask n g).tlb = s.tlb := rfl
@[simp] theorem State.modTask_walks {n : Nat} {g : Task → Task} : (s.modTask n g).walks = s.walks := rfl
@[simp] theorem State.modTask_asids {n : Nat} {g : Task → Task} : (s.modTask n g).asids = s.asids := rfl
@[simp] theorem State.modTask_tileEnts {n : Nat} {g : Task → Task} : (s.modTask n g).tileEnts = s.tileEnts := rfl
@[simp] theorem State.modTask_invq {n : Nat} {g : Task → Task} : (s.modTask n g).invq = s.invq := rfl
@[simp] theorem State.modTask_scrubs {n : Nat} {g : Task → Task} : (s.modTask n g).scrubs = s.scrubs := rfl
@[simp] theorem State.modTask_regGens {n : Nat} {g : Task → Task} : (s.modTask n g).regGens = s.regGens := rfl
@[simp] theorem State.modTask_qtab {n : Nat} {g : Task → Task} : (s.modTask n g).qtab = s.qtab := rfl
@[simp] theorem State.modTask_sheaves {n : Nat} {g : Task → Task} : (s.modTask n g).sheaves = s.sheaves := rfl
@[simp] theorem State.modTask_waiters {n : Nat} {g : Task → Task} : (s.modTask n g).waiters = s.waiters := rfl
@[simp] theorem State.modTask_pubs {n : Nat} {g : Task → Task} : (s.modTask n g).pubs = s.pubs := rfl
@[simp] theorem State.modTask_pubSeq {n : Nat} {g : Task → Task} : (s.modTask n g).pubSeq = s.pubSeq := rfl
@[simp] theorem State.modTask_tasks {n : Nat} {g : Task → Task} : (s.modTask n g).tasks = mapFirst (fun t => t.id = n) g s.tasks := rfl
@[simp] theorem State.modTask_taskQ {n : Nat} {g : Task → Task} : (s.modTask n g).taskQ = s.taskQ := rfl
@[simp] theorem State.modTask_ranks {n : Nat} {g : Task → Task} : (s.modTask n g).ranks = s.ranks := rfl
@[simp] theorem State.modTask_chunks {n : Nat} {g : Task → Task} : (s.modTask n g).chunks = s.chunks := rfl
@[simp] theorem State.modTask_collSeq {n : Nat} {g : Task → Task} : (s.modTask n g).collSeq = s.collSeq := rfl
@[simp] theorem State.modTask_ports {n : Nat} {g : Task → Task} : (s.modTask n g).ports = s.ports := rfl
@[simp] theorem State.modTask_snoop {n : Nat} {g : Task → Task} : (s.modTask n g).snoop = s.snoop := rfl
@[simp] theorem State.modTask_hostCopy {n : Nat} {g : Task → Task} : (s.modTask n g).hostCopy = s.hostCopy := rfl
@[simp] theorem State.modTask_agent {n : Nat} {g : Task → Task} : (s.modTask n g).agent = s.agent := rfl
@[simp] theorem State.modTask_decoders {n : Nat} {g : Task → Task} : (s.modTask n g).decoders = s.decoders := rfl
@[simp] theorem State.modTask_cxl {n : Nat} {g : Task → Task} : (s.modTask n g).cxl = s.cxl := rfl
@[simp] theorem State.modTask_hostBusy {n : Nat} {g : Task → Task} : (s.modTask n g).hostBusy = s.hostBusy := rfl
@[simp] theorem State.modTask_loadq {n : Nat} {g : Task → Task} : (s.modTask n g).loadq = s.loadq := rfl
@[simp] theorem State.modTask_loadFault {n : Nat} {g : Task → Task} : (s.modTask n g).loadFault = s.loadFault := rfl
@[simp] theorem State.modTask_loadFailed {n : Nat} {g : Task → Task} : (s.modTask n g).loadFailed = s.loadFailed := rfl
@[simp] theorem State.modTask_tcFlushing {n : Nat} {g : Task → Task} : (s.modTask n g).tcFlushing = s.tcFlushing := rfl
@[simp] theorem State.modTask_images {n : Nat} {g : Task → Task} : (s.modTask n g).images = s.images := rfl
@[simp] theorem State.modTask_tcLevel {n : Nat} {g : Task → Task} : (s.modTask n g).tcLevel = s.tcLevel := rfl
@[simp] theorem State.modTask_tcLook {n : Nat} {g : Task → Task} : (s.modTask n g).tcLook = s.tcLook := rfl
@[simp] theorem State.modTask_tc {n : Nat} {g : Task → Task} : (s.modTask n g).tc = s.tc := rfl
@[simp] theorem State.modTask_slots {n : Nat} {g : Task → Task} : (s.modTask n g).slots = s.slots := rfl
@[simp] theorem State.modTask_hooks {n : Nat} {g : Task → Task} : (s.modTask n g).hooks = s.hooks := rfl
@[simp] theorem State.modTask_patchCode {n : Nat} {g : Task → Task} : (s.modTask n g).patchCode = s.patchCode := rfl
@[simp] theorem State.modTask_patchImg {n : Nat} {g : Task → Task} : (s.modTask n g).patchImg = s.patchImg := rfl
@[simp] theorem State.modTask_belCopies {n : Nat} {g : Task → Task} : (s.modTask n g).belCopies = s.belCopies := rfl
@[simp] theorem State.modTask_belLoad {n : Nat} {g : Task → Task} : (s.modTask n g).belLoad = s.belLoad := rfl
@[simp] theorem State.modTask_fwImg {n : Nat} {g : Task → Task} : (s.modTask n g).fwImg = s.fwImg := rfl
@[simp] theorem State.modTask_fwCopies {n : Nat} {g : Task → Task} : (s.modTask n g).fwCopies = s.fwCopies := rfl
@[simp] theorem State.modTask_fwReq {n : Nat} {g : Task → Task} : (s.modTask n g).fwReq = s.fwReq := rfl
@[simp] theorem State.modTask_preempt {n : Nat} {g : Task → Task} : (s.modTask n g).preempt = s.preempt := rfl
@[simp] theorem State.modTask_turnAt {n : Nat} {g : Task → Task} : (s.modTask n g).turnAt = s.turnAt := rfl
@[simp] theorem State.modTask_reeveK {n : Nat} {g : Task → Task} : (s.modTask n g).reeveK = s.reeveK := rfl
@[simp] theorem State.modTask_reeveTaken {n : Nat} {g : Task → Task} : (s.modTask n g).reeveTaken = s.reeveTaken := rfl
@[simp] theorem State.modTask_reeveLast {n : Nat} {g : Task → Task} : (s.modTask n g).reeveLast = s.reeveLast := rfl
@[simp] theorem State.modTask_reeveClose {n : Nat} {g : Task → Task} : (s.modTask n g).reeveClose = s.reeveClose := rfl
@[simp] theorem State.modTask_gongAt {n : Nat} {g : Task → Task} : (s.modTask n g).gongAt = s.gongAt := rfl
@[simp] theorem State.modTask_snap {n : Nat} {g : Task → Task} : (s.modTask n g).snap = s.snap := rfl
@[simp] theorem State.modTask_freezes {n : Nat} {g : Task → Task} : (s.modTask n g).freezes = s.freezes := rfl
@[simp] theorem State.modTask_errLog {n : Nat} {g : Task → Task} : (s.modTask n g).errLog = s.errLog := rfl
@[simp] theorem State.modTask_errCount {n : Nat} {g : Task → Task} : (s.modTask n g).errCount = s.errCount := rfl
@[simp] theorem State.modTask_masks {n : Nat} {g : Task → Task} : (s.modTask n g).masks = s.masks := rfl
@[simp] theorem State.modTask_mck {n : Nat} {g : Task → Task} : (s.modTask n g).mck = s.mck := rfl
@[simp] theorem State.modTask_shadowRet {n : Nat} {g : Task → Task} : (s.modTask n g).shadowRet = s.shadowRet := rfl
@[simp] theorem State.modTask_shadowDrop {n : Nat} {g : Task → Task} : (s.modTask n g).shadowDrop = s.shadowDrop := rfl
@[simp] theorem State.modTask_badBound {n : Nat} {g : Task → Task} : (s.modTask n g).badBound = s.badBound := rfl
@[simp] theorem State.modTask_retired {n : Nat} {g : Task → Task} : (s.modTask n g).retired = s.retired := rfl
@[simp] theorem State.modTask_overtemp {n : Nat} {g : Task → Task} : (s.modTask n g).overtemp = s.overtemp := rfl
@[simp] theorem State.modTask_counts {n : Nat} {g : Task → Task} : (s.modTask n g).counts = s.counts := rfl
@[simp] theorem State.modTask_doe {n : Nat} {g : Task → Task} : (s.modTask n g).doe = s.doe := rfl

@[simp] theorem State.modStop_cyc {k : Nat} {g : Stop → Stop} : (s.modStop k g).cyc = s.cyc := rfl
@[simp] theorem State.modStop_agenda {k : Nat} {g : Stop → Stop} : (s.modStop k g).agenda = s.agenda := rfl
@[simp] theorem State.modStop_cur {k : Nat} {g : Stop → Stop} : (s.modStop k g).cur = s.cur := rfl
@[simp] theorem State.modStop_curCore {k : Nat} {g : Stop → Stop} : (s.modStop k g).curCore = s.curCore := rfl
@[simp] theorem State.modStop_arg {k : Nat} {g : Stop → Stop} : (s.modStop k g).arg = s.arg := rfl
@[simp] theorem State.modStop_held {k : Nat} {g : Stop → Stop} : (s.modStop k g).held = s.held := rfl
@[simp] theorem State.modStop_left {k : Nat} {g : Stop → Stop} : (s.modStop k g).left = s.left := rfl
@[simp] theorem State.modStop_ctr {k : Nat} {g : Stop → Stop} : (s.modStop k g).ctr = s.ctr := rfl
@[simp] theorem State.modStop_fresh {k : Nat} {g : Stop → Stop} : (s.modStop k g).fresh = s.fresh := rfl
@[simp] theorem State.modStop_regs {k : Nat} {g : Stop → Stop} : (s.modStop k g).regs = s.regs := rfl
@[simp] theorem State.modStop_raised {k : Nat} {g : Stop → Stop} : (s.modStop k g).raised = s.raised := rfl
@[simp] theorem State.modStop_dmem {k : Nat} {g : Stop → Stop} : (s.modStop k g).dmem = s.dmem := rfl
@[simp] theorem State.modStop_hmem {k : Nat} {g : Stop → Stop} : (s.modStop k g).hmem = s.hmem := rfl
@[simp] theorem State.modStop_scr {k : Nat} {g : Stop → Stop} : (s.modStop k g).scr = s.scr := rfl
@[simp] theorem State.modStop_wbuf {k : Nat} {g : Stop → Stop} : (s.modStop k g).wbuf = s.wbuf := rfl
@[simp] theorem State.modStop_pres {k : Nat} {g : Stop → Stop} : (s.modStop k g).pres = s.pres := rfl
@[simp] theorem State.modStop_poisD {k : Nat} {g : Stop → Stop} : (s.modStop k g).poisD = s.poisD := rfl
@[simp] theorem State.modStop_poisH {k : Nat} {g : Stop → Stop} : (s.modStop k g).poisH = s.poisH := rfl
@[simp] theorem State.modStop_poisS {k : Nat} {g : Stop → Stop} : (s.modStop k g).poisS = s.poisS := rfl
@[simp] theorem State.modStop_poisW {k : Nat} {g : Stop → Stop} : (s.modStop k g).poisW = s.poisW := rfl
@[simp] theorem State.modStop_fab {k : Nat} {g : Stop → Stop} : (s.modStop k g).fab = s.fab := rfl
@[simp] theorem State.modStop_saved {k : Nat} {g : Stop → Stop} : (s.modStop k g).saved = s.saved := rfl
@[simp] theorem State.modStop_stops {k : Nat} {g : Stop → Stop} : (s.modStop k g).stops = mapFirst (fun x => x.k = k) g s.stops := rfl
@[simp] theorem State.modStop_insts {k : Nat} {g : Stop → Stop} : (s.modStop k g).insts = s.insts := rfl
@[simp] theorem State.modStop_gathers {k : Nat} {g : Stop → Stop} : (s.modStop k g).gathers = s.gathers := rfl
@[simp] theorem State.modStop_cands {k : Nat} {g : Stop → Stop} : (s.modStop k g).cands = s.cands := rfl
@[simp] theorem State.modStop_delivs {k : Nat} {g : Stop → Stop} : (s.modStop k g).delivs = s.delivs := rfl
@[simp] theorem State.modStop_fetches {k : Nat} {g : Stop → Stop} : (s.modStop k g).fetches = s.fetches := rfl
@[simp] theorem State.modStop_ccache {k : Nat} {g : Stop → Stop} : (s.modStop k g).ccache = s.ccache := rfl
@[simp] theorem State.modStop_traps {k : Nat} {g : Stop → Stop} : (s.modStop k g).traps = s.traps := rfl
@[simp] theorem State.modStop_voided {k : Nat} {g : Stop → Stop} : (s.modStop k g).voided = s.voided := rfl
@[simp] theorem State.modStop_hostEvts {k : Nat} {g : Stop → Stop} : (s.modStop k g).hostEvts = s.hostEvts := rfl
@[simp] theorem State.modStop_pfaults {k : Nat} {g : Stop → Stop} : (s.modStop k g).pfaults = s.pfaults := rfl
@[simp] theorem State.modStop_nextFid {k : Nat} {g : Stop → Stop} : (s.modStop k g).nextFid = s.nextFid := rfl
@[simp] theorem State.modStop_tlb {k : Nat} {g : Stop → Stop} : (s.modStop k g).tlb = s.tlb := rfl
@[simp] theorem State.modStop_walks {k : Nat} {g : Stop → Stop} : (s.modStop k g).walks = s.walks := rfl
@[simp] theorem State.modStop_asids {k : Nat} {g : Stop → Stop} : (s.modStop k g).asids = s.asids := rfl
@[simp] theorem State.modStop_tileEnts {k : Nat} {g : Stop → Stop} : (s.modStop k g).tileEnts = s.tileEnts := rfl
@[simp] theorem State.modStop_invq {k : Nat} {g : Stop → Stop} : (s.modStop k g).invq = s.invq := rfl
@[simp] theorem State.modStop_scrubs {k : Nat} {g : Stop → Stop} : (s.modStop k g).scrubs = s.scrubs := rfl
@[simp] theorem State.modStop_regGens {k : Nat} {g : Stop → Stop} : (s.modStop k g).regGens = s.regGens := rfl
@[simp] theorem State.modStop_qtab {k : Nat} {g : Stop → Stop} : (s.modStop k g).qtab = s.qtab := rfl
@[simp] theorem State.modStop_sheaves {k : Nat} {g : Stop → Stop} : (s.modStop k g).sheaves = s.sheaves := rfl
@[simp] theorem State.modStop_waiters {k : Nat} {g : Stop → Stop} : (s.modStop k g).waiters = s.waiters := rfl
@[simp] theorem State.modStop_pubs {k : Nat} {g : Stop → Stop} : (s.modStop k g).pubs = s.pubs := rfl
@[simp] theorem State.modStop_pubSeq {k : Nat} {g : Stop → Stop} : (s.modStop k g).pubSeq = s.pubSeq := rfl
@[simp] theorem State.modStop_tasks {k : Nat} {g : Stop → Stop} : (s.modStop k g).tasks = s.tasks := rfl
@[simp] theorem State.modStop_taskQ {k : Nat} {g : Stop → Stop} : (s.modStop k g).taskQ = s.taskQ := rfl
@[simp] theorem State.modStop_ranks {k : Nat} {g : Stop → Stop} : (s.modStop k g).ranks = s.ranks := rfl
@[simp] theorem State.modStop_chunks {k : Nat} {g : Stop → Stop} : (s.modStop k g).chunks = s.chunks := rfl
@[simp] theorem State.modStop_collSeq {k : Nat} {g : Stop → Stop} : (s.modStop k g).collSeq = s.collSeq := rfl
@[simp] theorem State.modStop_ports {k : Nat} {g : Stop → Stop} : (s.modStop k g).ports = s.ports := rfl
@[simp] theorem State.modStop_snoop {k : Nat} {g : Stop → Stop} : (s.modStop k g).snoop = s.snoop := rfl
@[simp] theorem State.modStop_hostCopy {k : Nat} {g : Stop → Stop} : (s.modStop k g).hostCopy = s.hostCopy := rfl
@[simp] theorem State.modStop_agent {k : Nat} {g : Stop → Stop} : (s.modStop k g).agent = s.agent := rfl
@[simp] theorem State.modStop_decoders {k : Nat} {g : Stop → Stop} : (s.modStop k g).decoders = s.decoders := rfl
@[simp] theorem State.modStop_cxl {k : Nat} {g : Stop → Stop} : (s.modStop k g).cxl = s.cxl := rfl
@[simp] theorem State.modStop_hostBusy {k : Nat} {g : Stop → Stop} : (s.modStop k g).hostBusy = s.hostBusy := rfl
@[simp] theorem State.modStop_loadq {k : Nat} {g : Stop → Stop} : (s.modStop k g).loadq = s.loadq := rfl
@[simp] theorem State.modStop_loadFault {k : Nat} {g : Stop → Stop} : (s.modStop k g).loadFault = s.loadFault := rfl
@[simp] theorem State.modStop_loadFailed {k : Nat} {g : Stop → Stop} : (s.modStop k g).loadFailed = s.loadFailed := rfl
@[simp] theorem State.modStop_tcFlushing {k : Nat} {g : Stop → Stop} : (s.modStop k g).tcFlushing = s.tcFlushing := rfl
@[simp] theorem State.modStop_images {k : Nat} {g : Stop → Stop} : (s.modStop k g).images = s.images := rfl
@[simp] theorem State.modStop_tcLevel {k : Nat} {g : Stop → Stop} : (s.modStop k g).tcLevel = s.tcLevel := rfl
@[simp] theorem State.modStop_tcLook {k : Nat} {g : Stop → Stop} : (s.modStop k g).tcLook = s.tcLook := rfl
@[simp] theorem State.modStop_tc {k : Nat} {g : Stop → Stop} : (s.modStop k g).tc = s.tc := rfl
@[simp] theorem State.modStop_slots {k : Nat} {g : Stop → Stop} : (s.modStop k g).slots = s.slots := rfl
@[simp] theorem State.modStop_hooks {k : Nat} {g : Stop → Stop} : (s.modStop k g).hooks = s.hooks := rfl
@[simp] theorem State.modStop_patchCode {k : Nat} {g : Stop → Stop} : (s.modStop k g).patchCode = s.patchCode := rfl
@[simp] theorem State.modStop_patchImg {k : Nat} {g : Stop → Stop} : (s.modStop k g).patchImg = s.patchImg := rfl
@[simp] theorem State.modStop_belCopies {k : Nat} {g : Stop → Stop} : (s.modStop k g).belCopies = s.belCopies := rfl
@[simp] theorem State.modStop_belLoad {k : Nat} {g : Stop → Stop} : (s.modStop k g).belLoad = s.belLoad := rfl
@[simp] theorem State.modStop_fwImg {k : Nat} {g : Stop → Stop} : (s.modStop k g).fwImg = s.fwImg := rfl
@[simp] theorem State.modStop_fwCopies {k : Nat} {g : Stop → Stop} : (s.modStop k g).fwCopies = s.fwCopies := rfl
@[simp] theorem State.modStop_fwReq {k : Nat} {g : Stop → Stop} : (s.modStop k g).fwReq = s.fwReq := rfl
@[simp] theorem State.modStop_preempt {k : Nat} {g : Stop → Stop} : (s.modStop k g).preempt = s.preempt := rfl
@[simp] theorem State.modStop_turnAt {k : Nat} {g : Stop → Stop} : (s.modStop k g).turnAt = s.turnAt := rfl
@[simp] theorem State.modStop_reeveK {k : Nat} {g : Stop → Stop} : (s.modStop k g).reeveK = s.reeveK := rfl
@[simp] theorem State.modStop_reeveTaken {k : Nat} {g : Stop → Stop} : (s.modStop k g).reeveTaken = s.reeveTaken := rfl
@[simp] theorem State.modStop_reeveLast {k : Nat} {g : Stop → Stop} : (s.modStop k g).reeveLast = s.reeveLast := rfl
@[simp] theorem State.modStop_reeveClose {k : Nat} {g : Stop → Stop} : (s.modStop k g).reeveClose = s.reeveClose := rfl
@[simp] theorem State.modStop_gongAt {k : Nat} {g : Stop → Stop} : (s.modStop k g).gongAt = s.gongAt := rfl
@[simp] theorem State.modStop_snap {k : Nat} {g : Stop → Stop} : (s.modStop k g).snap = s.snap := rfl
@[simp] theorem State.modStop_freezes {k : Nat} {g : Stop → Stop} : (s.modStop k g).freezes = s.freezes := rfl
@[simp] theorem State.modStop_errLog {k : Nat} {g : Stop → Stop} : (s.modStop k g).errLog = s.errLog := rfl
@[simp] theorem State.modStop_errCount {k : Nat} {g : Stop → Stop} : (s.modStop k g).errCount = s.errCount := rfl
@[simp] theorem State.modStop_masks {k : Nat} {g : Stop → Stop} : (s.modStop k g).masks = s.masks := rfl
@[simp] theorem State.modStop_mck {k : Nat} {g : Stop → Stop} : (s.modStop k g).mck = s.mck := rfl
@[simp] theorem State.modStop_shadowRet {k : Nat} {g : Stop → Stop} : (s.modStop k g).shadowRet = s.shadowRet := rfl
@[simp] theorem State.modStop_shadowDrop {k : Nat} {g : Stop → Stop} : (s.modStop k g).shadowDrop = s.shadowDrop := rfl
@[simp] theorem State.modStop_badBound {k : Nat} {g : Stop → Stop} : (s.modStop k g).badBound = s.badBound := rfl
@[simp] theorem State.modStop_retired {k : Nat} {g : Stop → Stop} : (s.modStop k g).retired = s.retired := rfl
@[simp] theorem State.modStop_overtemp {k : Nat} {g : Stop → Stop} : (s.modStop k g).overtemp = s.overtemp := rfl
@[simp] theorem State.modStop_counts {k : Nat} {g : Stop → Stop} : (s.modStop k g).counts = s.counts := rfl
@[simp] theorem State.modStop_doe {k : Nat} {g : Stop → Stop} : (s.modStop k g).doe = s.doe := rfl

end Sys2Proof.Machine
end

