-- ==== Sys2Proof/Laws/Ops.lean ====
section
/-! SUPPORT. What each shared operation of a firing and of a core does, said once. -/

namespace Sys2Proof.Laws

open Sys2Proof Sys2Proof.Machine Sys2Proof.Claims

/-! Registers. -/

theorem findReg_dropReg_self (l : List (Nat × DWord)) (o : Nat) : findReg (dropReg l o) o = none := by
  induction l with
  | nil => rfl
  | cons c r ih => obtain ⟨a, v⟩ := c; by_cases h : a = o <;> simp [dropReg, findReg, h, ih]

theorem findReg_dropReg_ne (l : List (Nat × DWord)) {o p : Nat} (h : p ≠ o) : findReg (dropReg l o) p = findReg l p := by
  induction l with
  | nil => rfl
  | cons c r ih =>
    obtain ⟨a, v⟩ := c
    by_cases ha : a = o
    · subst ha; simp [dropReg, findReg, Ne.symm h, ih]
    · by_cases hp : a = p
      · subst hp; simp [dropReg, findReg, ha]
      · simp [dropReg, findReg, ha, hp, ih]

theorem findReg_putReg_self (l : List (Nat × DWord)) (o : Nat) (v : DWord) : findReg (putReg l o v) o = some v := by
  induction l with
  | nil => simp [putReg, findReg]
  | cons c r ih =>
    obtain ⟨a, w⟩ := c
    simp only [putReg]
    split
    · simp [findReg]
    · split
      · simp [findReg]
      · next h => simp [findReg, h, ih]

theorem findReg_putReg_ne (l : List (Nat × DWord)) {o p : Nat} (v : DWord) (h : p ≠ o) :
    findReg (putReg l o v) p = findReg l p := by
  induction l with
  | nil => simp [putReg, findReg, Ne.symm h]
  | cons c r ih =>
    obtain ⟨a, w⟩ := c
    simp only [putReg]
    split
    · simp [findReg, Ne.symm h]
    · split
      · next ha => subst ha; simp [findReg, Ne.symm h]
      · simp [findReg, ih]

/-- A register reads what was written to it. -/
@[simp] theorem reg_setReg_self (s : State) (r : Reg) (v : DWord) : (s.setReg r v).reg r = v := by
  simp only [State.reg, State.setReg_regs]
  split
  · next h => rw [findReg_dropReg_self, h]; rfl
  · rw [findReg_putReg_self]; rfl

/-- A register of another address keeps its value. -/
theorem reg_setReg_ne (s : State) {r q : Reg} (v : DWord) (h : q.offset ≠ r.offset) : (s.setReg r v).reg q = s.reg q := by
  simp only [State.reg, State.setReg_regs]
  split
  · rw [findReg_dropReg_ne _ h]
  · rw [findReg_putReg_ne _ v h]

/-- Raising flags changes nothing but the record of the cycle's raises and registers, and of these the two flag words of the
context. -/
theorem raiseFlags_frame (s : State) (k lane fl : Nat) : ∃ rs rd, s.raiseFlags k lane fl = { s with regs := rs, raised := rd } ∧
    ∀ q : Reg, q.offset ≠ (Reg.flagLo k).offset → q.offset ≠ (Reg.flagHi k).offset → (s.raiseFlags k lane fl).reg q = s.reg q := by
  unfold State.raiseFlags
  split
  · exact ⟨s.regs, s.raised, rfl, fun _ _ _ => rfl⟩
  · refine ⟨_, _, rfl, fun q h1 h2 => ?_⟩
    dsimp only
    split
    · exact reg_setReg_ne s _ h1
    · exact reg_setReg_ne s _ h2

theorem raiseLanes_frame (s : State) (k lane : Nat) (fl : List Nat) :
    ∃ rs rd, s.raiseLanes k lane fl = { s with regs := rs, raised := rd } ∧
    ∀ q : Reg, q.offset ≠ (Reg.flagLo k).offset → q.offset ≠ (Reg.flagHi k).offset → (s.raiseLanes k lane fl).reg q = s.reg q := by
  induction fl generalizing s lane with
  | nil => exact ⟨s.regs, s.raised, rfl, fun _ _ _ => rfl⟩
  | cons f r ih =>
    obtain ⟨rs, rd, e, h⟩ := raiseFlags_frame s k lane f
    obtain ⟨rs', rd', e', h'⟩ := ih (s.raiseFlags k lane f) (lane + 1)
    exact ⟨rs', rd', by rw [State.raiseLanes, e', e], fun q h1 h2 => (h' q h1 h2).trans (h q h1 h2)⟩

/-! Results and accesses. -/

/-- Sending a token on one target adds at most one token to those on their way. -/
theorem emitAt_cases (s : State) (site : Site) (t : Option Target) (ready : Nat) (k : Tok) : ∃ l : List Flight, l.length ≤ 1 ∧
    (∀ x ∈ l, x.tok = k ∧ x.src = site ∧ x.out = true) ∧
    s.emitAt site t ready k = { s with fab := { s.fab with flights := s.fab.flights ++ l } } := by
  unfold State.emitAt
  split
  · exact ⟨[], by simp, by simp, by simp⟩
  · exact ⟨[_], by simp, by simp, rfl⟩

theorem emit_cases (s : State) (site : Site) (t : Option Target) (lat : Nat) (k : Tok) : ∃ l : List Flight, l.length ≤ 1 ∧
    (∀ x ∈ l, x.tok = k ∧ x.src = site ∧ x.out = true) ∧
    s.emit site t lat k = { s with fab := { s.fab with flights := s.fab.flights ++ l } } :=
  emitAt_cases s site t _ k

theorem emitAll_cases (site : Site) (lat : Nat) (k : Tok) (ts : List (Option Target)) : ∀ s : State, ∃ l : List Flight,
    (∀ x ∈ l, x.tok = k ∧ x.src = site ∧ x.out = true) ∧
    s.emitAll site lat k ts = { s with fab := { s.fab with flights := s.fab.flights ++ l } } := by
  induction ts with
  | nil => exact fun s => ⟨[], by simp, by simp [State.emitAll]⟩
  | cons t r ih =>
    intro s
    obtain ⟨l, -, hl, e⟩ := emit_cases s site t lat k
    obtain ⟨m, hm, e'⟩ := ih (s.emit site t lat k)
    exact ⟨l ++ m, fun x hx => (List.mem_append.1 hx).elim (hl x) (hm x), by
      rw [State.emitAll, e', e]; simp [List.append_assoc]⟩

/-- Issuing an access numbers and dates it, and adds it to the accesses of the fabric. -/
theorem issue_eq (s : State) (a : Access) : s.issue a = issued s a := rfl

/-- A count of operations changes instances alone. -/
theorem counted_cases (s : State) (f : Firing) (t : Ty) : ∃ l, s.counted f t = { s with insts := l } := by
  unfold State.counted
  split
  · exact ⟨s.insts, rfl⟩
  · exact ⟨_, rfl⟩

/-! Traps. -/

/-- The write of a trap record issues at most one access. -/
theorem recordWrite_cases (s : State) (t : Trap) : s.recordWrite t = s ∨ ∃ a, s.recordWrite t = issued s a := by
  unfold State.recordWrite
  dsimp only
  split
  · exact .inl rfl
  · exact .inr ⟨_, rfl⟩

theorem bumpSat_cases (s : State) (r : Reg) (lo w : Nat) : ∃ rs, s.bumpSat r lo w = { s with regs := rs } := ⟨_, rfl⟩

/-- Raising a trap is held, or adds one trap, at most one access, and counts at most one fault hook. -/
theorem raise_cases (s : State) (t : Trap) : s.raise t = { s with held := true } ∨
    ∃ (i : Nat) (rs : List (Nat × DWord)) (r : Trap), s.freeTrapIndex t.k = some i ∧ r.index = i ∧ r.k = t.k ∧ r.tcode = t.tcode ∧
      r.hold = t.hold ∧ (s.raise t = { s with regs := rs, traps := s.traps ++ [r] } ∨
        ∃ a, s.raise t = issued { s with regs := rs, traps := s.traps ++ [r] } a) := by
  unfold State.raise
  split
  · exact .inl rfl
  · next i hi =>
    refine .inr ?_
    cases s.hookFor t.tcode t.cause with
    | none =>
      exact ⟨i, s.regs, { t with index := i, cyc := s.cyc, stage := .raised, toHost := t.toHost || false }, hi, rfl, rfl, rfl, rfl,
        recordWrite_cases _ _⟩
    | some h =>
      obtain ⟨rs, e⟩ := bumpSat_cases s (.belHookcnt h.n) 0 32
      refine ⟨i, rs, { t with index := i, cyc := s.cyc, stage := .raised, toHost := t.toHost || decide (h.act = 2) }, hi, rfl, rfl,
        rfl, rfl, ?_⟩
      simp only [e]
      exact recordWrite_cases _ _

/-! Firings and cores. -/

/-- How a firing can end: a marker or null token on its targets, a trap, its act on the counted state, or nothing. -/
theorem fired_cases (s : State) (sh : Shape) (f : Firing) (act : State → State) :
    (∃ k, s.fired sh f act = s.emitAll f.site sh.lat k sh.targets) ∨
    (∃ c, s.fired sh f act = s.trapFiring f c) ∨
    (f.kind sh.orderIn = .data ∧ executes sh.h.pm f.pred = true ∧ s.fired sh f act = act (s.counted f sh.h.ty)) ∨
    (f.kind sh.orderIn = .data ∧ executes sh.h.pm f.pred = false ∧ s.fired sh f act = s) := by
  unfold State.fired
  dsimp only
  cases hk : f.kind sh.orderIn with
  | roll => exact .inl ⟨_, rfl⟩
  | eos => exact .inl ⟨_, rfl⟩
  | mixed sl => exact .inr (.inl ⟨_, rfl⟩)
  | nul => exact .inl ⟨_, rfl⟩
  | data =>
    dsimp only
    split
    · exact .inr (.inl ⟨_, rfl⟩)
    · split
      · next hp => exact .inr (.inr (.inl ⟨rfl, hp, rfl⟩))
      · next hp =>
        split
        · exact .inl ⟨_, rfl⟩
        · exact .inr (.inr (.inr ⟨rfl, by simpa using hp, rfl⟩))

/-- With a core in focus an instruction acts on that core. -/
theorem onCore_runs {s : State} {id : CoreId} {x : Core} {g : CoreId → Core → State} (h : InCore s id x) :
    onCore s g = .next (g id x) := by
  simp [onCore, h.focus, h.core]

/-- With nothing in focus a firing's instruction does nothing. -/
theorem onFiring_idle {s : State} {g : Firing → State} (h : s.cur = none) : onFiring s g = .next s := by
  simp [onFiring, h]

/-- Register x0 of a core reads zero, and a write of it is discarded. -/
@[simp] theorem core_get_zero (c : Core) : c.get 0 = 0 := rfl
@[simp] theorem core_put_zero (c : Core) (v : Word) : c.put 0 v = c := rfl

end Sys2Proof.Laws
end

