-- ==== Sys2Proof/Laws/PerInstr.lean ====
section
/-! SUPPORT. The family Encodes: the common fields of every instruction stand in its encoding (R69); core instructions and events
have none. -/

namespace Sys2Proof.Laws

/-- The common fields of an instruction are those of its encoded word, and it has a word of a block exactly where it has them. -/
def Encodes.Statement (i : Instr) : Prop :=
  match i.hdr?, encodeFields i with
  | some h, some f =>
    f.pm = h.pm.toBits ∧ f.ty = h.ty.toBits ∧ f.t0 = Target.encode h.t0 ∧ f.t1 = Target.encode h.t1
  | none, none => True
  | _, _ => False

theorem Encodes.add (h : Hdr) (sat : Bool) : Encodes.Statement (.add h sat) := ⟨rfl, rfl, rfl, rfl⟩
theorem Encodes.sub (h : Hdr) (sat : Bool) : Encodes.Statement (.sub h sat) := ⟨rfl, rfl, rfl, rfl⟩
theorem Encodes.mul (h : Hdr) (sat : Bool) : Encodes.Statement (.mul h sat) := ⟨rfl, rfl, rfl, rfl⟩
theorem Encodes.mulh (h : Hdr) : Encodes.Statement (.mulh h) := ⟨rfl, rfl, rfl, rfl⟩
theorem Encodes.mad (h : Hdr) (sat : Bool) : Encodes.Statement (.mad h sat) := ⟨rfl, rfl, rfl, rfl⟩
theorem Encodes.neg (h : Hdr) (sat : Bool) : Encodes.Statement (.neg h sat) := ⟨rfl, rfl, rfl, rfl⟩
theorem Encodes.abs (h : Hdr) (sat : Bool) : Encodes.Statement (.abs h sat) := ⟨rfl, rfl, rfl, rfl⟩
theorem Encodes.min (h : Hdr) : Encodes.Statement (.min h) := ⟨rfl, rfl, rfl, rfl⟩
theorem Encodes.max (h : Hdr) : Encodes.Statement (.max h) := ⟨rfl, rfl, rfl, rfl⟩
theorem Encodes.addi (h : Hdr) (sat : Bool) (imm : BitVec 22) : Encodes.Statement (.addi h sat imm) := ⟨rfl, rfl, rfl, rfl⟩
theorem Encodes.muli (h : Hdr) (sat : Bool) (imm : BitVec 22) : Encodes.Statement (.muli h sat imm) := ⟨rfl, rfl, rfl, rfl⟩
theorem Encodes.lea (h : Hdr) (disp : BitVec 19) (sh : BitVec 3) : Encodes.Statement (.lea h disp sh) := ⟨rfl, rfl, rfl, rfl⟩
theorem Encodes.cidx2 (h : Hdr) (sat : Bool) (e : BitVec 22) : Encodes.Statement (.cidx2 h sat e) := ⟨rfl, rfl, rfl, rfl⟩
theorem Encodes.cidx3 (h : Hdr) (sat : Bool) (e1 : BitVec 11) (e0 : BitVec 11) :
    Encodes.Statement (.cidx3 h sat e1 e0) := ⟨rfl, rfl, rfl, rfl⟩
theorem Encodes.dot4 (h : Hdr) (sat : Bool) : Encodes.Statement (.dot4 h sat) := ⟨rfl, rfl, rfl, rfl⟩
theorem Encodes.div (h : Hdr) (sat : Bool) : Encodes.Statement (.div h sat) := ⟨rfl, rfl, rfl, rfl⟩
theorem Encodes.rem (h : Hdr) : Encodes.Statement (.rem h) := ⟨rfl, rfl, rfl, rfl⟩
theorem Encodes.absd (h : Hdr) : Encodes.Statement (.absd h) := ⟨rfl, rfl, rfl, rfl⟩
theorem Encodes.and (h : Hdr) : Encodes.Statement (.and h) := ⟨rfl, rfl, rfl, rfl⟩
theorem Encodes.or (h : Hdr) : Encodes.Statement (.or h) := ⟨rfl, rfl, rfl, rfl⟩
theorem Encodes.xor (h : Hdr) : Encodes.Statement (.xor h) := ⟨rfl, rfl, rfl, rfl⟩
theorem Encodes.andn (h : Hdr) : Encodes.Statement (.andn h) := ⟨rfl, rfl, rfl, rfl⟩
theorem Encodes.not (h : Hdr) : Encodes.Statement (.not h) := ⟨rfl, rfl, rfl, rfl⟩
theorem Encodes.shl (h : Hdr) : Encodes.Statement (.shl h) := ⟨rfl, rfl, rfl, rfl⟩
theorem Encodes.shr (h : Hdr) : Encodes.Statement (.shr h) := ⟨rfl, rfl, rfl, rfl⟩
theorem Encodes.sra (h : Hdr) : Encodes.Statement (.sra h) := ⟨rfl, rfl, rfl, rfl⟩
theorem Encodes.rol (h : Hdr) : Encodes.Statement (.rol h) := ⟨rfl, rfl, rfl, rfl⟩
theorem Encodes.ror (h : Hdr) : Encodes.Statement (.ror h) := ⟨rfl, rfl, rfl, rfl⟩
theorem Encodes.shli (h : Hdr) (s : BitVec 5) : Encodes.Statement (.shli h s) := ⟨rfl, rfl, rfl, rfl⟩
theorem Encodes.shri (h : Hdr) (s : BitVec 5) : Encodes.Statement (.shri h s) := ⟨rfl, rfl, rfl, rfl⟩
theorem Encodes.srai (h : Hdr) (s : BitVec 5) : Encodes.Statement (.srai h s) := ⟨rfl, rfl, rfl, rfl⟩
theorem Encodes.bfx (h : Hdr) (len : BitVec 5) (pos : BitVec 5) : Encodes.Statement (.bfx h len pos) := ⟨rfl, rfl, rfl, rfl⟩
theorem Encodes.bfi (h : Hdr) (len : BitVec 5) (pos : BitVec 5) : Encodes.Statement (.bfi h len pos) := ⟨rfl, rfl, rfl, rfl⟩
theorem Encodes.popc (h : Hdr) : Encodes.Statement (.popc h) := ⟨rfl, rfl, rfl, rfl⟩
theorem Encodes.clz (h : Hdr) : Encodes.Statement (.clz h) := ⟨rfl, rfl, rfl, rfl⟩
theorem Encodes.ctz (h : Hdr) : Encodes.Statement (.ctz h) := ⟨rfl, rfl, rfl, rfl⟩
theorem Encodes.brev (h : Hdr) : Encodes.Statement (.brev h) := ⟨rfl, rfl, rfl, rfl⟩
theorem Encodes.prmt (h : Hdr) (sel : BitVec 16) : Encodes.Statement (.prmt h sel) := ⟨rfl, rfl, rfl, rfl⟩
theorem Encodes.cmpeq (h : Hdr) (imm : Bool) (val : BitVec 21) : Encodes.Statement (.cmpeq h imm val) := ⟨rfl, rfl, rfl, rfl⟩
theorem Encodes.cmpne (h : Hdr) (imm : Bool) (val : BitVec 21) : Encodes.Statement (.cmpne h imm val) := ⟨rfl, rfl, rfl, rfl⟩
theorem Encodes.cmplt (h : Hdr) (imm : Bool) (val : BitVec 21) : Encodes.Statement (.cmplt h imm val) := ⟨rfl, rfl, rfl, rfl⟩
theorem Encodes.cmple (h : Hdr) (imm : Bool) (val : BitVec 21) : Encodes.Statement (.cmple h imm val) := ⟨rfl, rfl, rfl, rfl⟩
theorem Encodes.cmpgt (h : Hdr) (imm : Bool) (val : BitVec 21) : Encodes.Statement (.cmpgt h imm val) := ⟨rfl, rfl, rfl, rfl⟩
theorem Encodes.cmpge (h : Hdr) (imm : Bool) (val : BitVec 21) : Encodes.Statement (.cmpge h imm val) := ⟨rfl, rfl, rfl, rfl⟩
theorem Encodes.pand (h : Hdr) : Encodes.Statement (.pand h) := ⟨rfl, rfl, rfl, rfl⟩
theorem Encodes.por (h : Hdr) : Encodes.Statement (.por h) := ⟨rfl, rfl, rfl, rfl⟩
theorem Encodes.pxor (h : Hdr) : Encodes.Statement (.pxor h) := ⟨rfl, rfl, rfl, rfl⟩
theorem Encodes.pandn (h : Hdr) : Encodes.Statement (.pandn h) := ⟨rfl, rfl, rfl, rfl⟩
theorem Encodes.pnot (h : Hdr) : Encodes.Statement (.pnot h) := ⟨rfl, rfl, rfl, rfl⟩
theorem Encodes.select (h : Hdr) : Encodes.Statement (.select h) := ⟨rfl, rfl, rfl, rfl⟩
theorem Encodes.testz (h : Hdr) (imm : Bool) (val : BitVec 21) : Encodes.Statement (.testz h imm val) := ⟨rfl, rfl, rfl, rfl⟩
theorem Encodes.mov (h : Hdr) (t2 : Option Target) : Encodes.Statement (.mov h t2) := ⟨rfl, rfl, rfl, rfl⟩
theorem Encodes.const (h : Hdr) (imm : BitVec 22) : Encodes.Statement (.const h imm) := ⟨rfl, rfl, rfl, rfl⟩
theorem Encodes.lit (h : Hdr) : Encodes.Statement (.lit h) := ⟨rfl, rfl, rfl, rfl⟩
theorem Encodes.switch (h : Hdr) : Encodes.Statement (.switch h) := ⟨rfl, rfl, rfl, rfl⟩
theorem Encodes.merge (h : Hdr) : Encodes.Statement (.merge h) := ⟨rfl, rfl, rfl, rfl⟩
theorem Encodes.gate (h : Hdr) : Encodes.Statement (.gate h) := ⟨rfl, rfl, rfl, rfl⟩
theorem Encodes.sync (h : Hdr) (c3 : Bool) : Encodes.Statement (.sync h c3) := ⟨rfl, rfl, rfl, rfl⟩
theorem Encodes.drop (h : Hdr) : Encodes.Statement (.drop h) := ⟨rfl, rfl, rfl, rfl⟩
theorem Encodes.null (h : Hdr) : Encodes.Statement (.null h) := ⟨rfl, rfl, rfl, rfl⟩
theorem Encodes.alloc (h : Hdr) (lim : BitVec 9) : Encodes.Statement (.alloc h lim) := ⟨rfl, rfl, rfl, rfl⟩
theorem Encodes.free (h : Hdr) : Encodes.Statement (.free h) := ⟨rfl, rfl, rfl, rfl⟩
theorem Encodes.enter (h : Hdr) (idx : BitVec 8) (imm : Bool) (n : BitVec 8) :
    Encodes.Statement (.enter h idx imm n) := ⟨rfl, rfl, rfl, rfl⟩
theorem Encodes.leave (h : Hdr) (n : BitVec 8) : Encodes.Statement (.leave h n) := ⟨rfl, rfl, rfl, rfl⟩
theorem Encodes.tagrd (h : Hdr) (w : BitVec 4) (off : BitVec 6) (sel : BitVec 3) :
    Encodes.Statement (.tagrd h w off sel) := ⟨rfl, rfl, rfl, rfl⟩
theorem Encodes.tagwr (h : Hdr) (w : BitVec 4) (off : BitVec 6) : Encodes.Statement (.tagwr h w off) := ⟨rfl, rfl, rfl, rfl⟩
theorem Encodes.fadd (h : Hdr) (sat : Bool) (rm : Rnd) : Encodes.Statement (.fadd h sat rm) := ⟨rfl, rfl, rfl, rfl⟩
theorem Encodes.fsub (h : Hdr) (sat : Bool) (rm : Rnd) : Encodes.Statement (.fsub h sat rm) := ⟨rfl, rfl, rfl, rfl⟩
theorem Encodes.fmul (h : Hdr) (sat : Bool) (rm : Rnd) : Encodes.Statement (.fmul h sat rm) := ⟨rfl, rfl, rfl, rfl⟩
theorem Encodes.ffma (h : Hdr) (sat : Bool) (rm : Rnd) : Encodes.Statement (.ffma h sat rm) := ⟨rfl, rfl, rfl, rfl⟩
theorem Encodes.ffms (h : Hdr) (sat : Bool) (rm : Rnd) : Encodes.Statement (.ffms h sat rm) := ⟨rfl, rfl, rfl, rfl⟩
theorem Encodes.fmin (h : Hdr) : Encodes.Statement (.fmin h) := ⟨rfl, rfl, rfl, rfl⟩
theorem Encodes.fmax (h : Hdr) : Encodes.Statement (.fmax h) := ⟨rfl, rfl, rfl, rfl⟩
theorem Encodes.fabs (h : Hdr) : Encodes.Statement (.fabs h) := ⟨rfl, rfl, rfl, rfl⟩
theorem Encodes.fneg (h : Hdr) : Encodes.Statement (.fneg h) := ⟨rfl, rfl, rfl, rfl⟩
theorem Encodes.fcpys (h : Hdr) : Encodes.Statement (.fcpys h) := ⟨rfl, rfl, rfl, rfl⟩
theorem Encodes.fcmpeq (h : Hdr) (lane : BitVec 3) : Encodes.Statement (.fcmpeq h lane) := ⟨rfl, rfl, rfl, rfl⟩
theorem Encodes.fcmpne (h : Hdr) (lane : BitVec 3) : Encodes.Statement (.fcmpne h lane) := ⟨rfl, rfl, rfl, rfl⟩
theorem Encodes.fcmplt (h : Hdr) (lane : BitVec 3) : Encodes.Statement (.fcmplt h lane) := ⟨rfl, rfl, rfl, rfl⟩
theorem Encodes.fcmple (h : Hdr) (lane : BitVec 3) : Encodes.Statement (.fcmple h lane) := ⟨rfl, rfl, rfl, rfl⟩
theorem Encodes.fcmpun (h : Hdr) (lane : BitVec 3) : Encodes.Statement (.fcmpun h lane) := ⟨rfl, rfl, rfl, rfl⟩
theorem Encodes.fdot2 (h : Hdr) (sat : Bool) (rm : Rnd) : Encodes.Statement (.fdot2 h sat rm) := ⟨rfl, rfl, rfl, rfl⟩
theorem Encodes.fcvt (h : Hdr) (amx : Bool) (sat : Bool) (rm : Rnd) (areg : BitVec 4) (lane : BitVec 3) (src : BitVec 4) :
    Encodes.Statement (.fcvt h amx sat rm areg lane src) := ⟨rfl, rfl, rfl, rfl⟩
theorem Encodes.fcvtp (h : Hdr) (sat : Bool) (rm : Rnd) (src : BitVec 4) :
    Encodes.Statement (.fcvtp h sat rm src) := ⟨rfl, rfl, rfl, rfl⟩
theorem Encodes.fcvtx (h : Hdr) (sat : Bool) (rm : Rnd) (pos : BitVec 3) (lane : BitVec 3) (src : BitVec 4) :
    Encodes.Statement (.fcvtx h sat rm pos lane src) := ⟨rfl, rfl, rfl, rfl⟩
theorem Encodes.frnd (h : Hdr) (rm : Rnd) : Encodes.Statement (.frnd h rm) := ⟨rfl, rfl, rfl, rfl⟩
theorem Encodes.fldexp (h : Hdr) (sat : Bool) (rm : Rnd) (expf : Bool) :
    Encodes.Statement (.fldexp h sat rm expf) := ⟨rfl, rfl, rfl, rfl⟩
theorem Encodes.fgetexp (h : Hdr) : Encodes.Statement (.fgetexp h) := ⟨rfl, rfl, rfl, rfl⟩
theorem Encodes.reconf (h : Hdr) (sat : Bool) (rm : Rnd) : Encodes.Statement (.reconf h sat rm) := ⟨rfl, rfl, rfl, rfl⟩
theorem Encodes.fexp2f (h : Hdr) : Encodes.Statement (.fexp2f h) := ⟨rfl, rfl, rfl, rfl⟩
theorem Encodes.flog2 (h : Hdr) : Encodes.Statement (.flog2 h) := ⟨rfl, rfl, rfl, rfl⟩
theorem Encodes.frcp (h : Hdr) : Encodes.Statement (.frcp h) := ⟨rfl, rfl, rfl, rfl⟩
theorem Encodes.frsq (h : Hdr) : Encodes.Statement (.frsq h) := ⟨rfl, rfl, rfl, rfl⟩
theorem Encodes.fsqrt (h : Hdr) (rm : Rnd) : Encodes.Statement (.fsqrt h rm) := ⟨rfl, rfl, rfl, rfl⟩
theorem Encodes.fsin2 (h : Hdr) : Encodes.Statement (.fsin2 h) := ⟨rfl, rfl, rfl, rfl⟩
theorem Encodes.fcos2 (h : Hdr) : Encodes.Statement (.fcos2 h) := ⟨rfl, rfl, rfl, rfl⟩
theorem Encodes.ldb (h : Hdr) (sc : Scope) (acq : Bool) (t2 : Option Target) (bsel : BitVec 4) (disp : BitVec 9) :
    Encodes.Statement (.ldb h sc acq t2 bsel disp) := ⟨rfl, rfl, rfl, rfl⟩
theorem Encodes.ldh (h : Hdr) (sc : Scope) (acq : Bool) (t2 : Option Target) (bsel : BitVec 4) (disp : BitVec 9) :
    Encodes.Statement (.ldh h sc acq t2 bsel disp) := ⟨rfl, rfl, rfl, rfl⟩
theorem Encodes.ld (h : Hdr) (sc : Scope) (acq : Bool) (t2 : Option Target) (bsel : BitVec 4) (disp : BitVec 9) :
    Encodes.Statement (.ld h sc acq t2 bsel disp) := ⟨rfl, rfl, rfl, rfl⟩
theorem Encodes.ldp (h : Hdr) (sc : Scope) (acq : Bool) (t2 : Option Target) (bsel : BitVec 4) (disp : BitVec 9) :
    Encodes.Statement (.ldp h sc acq t2 bsel disp) := ⟨rfl, rfl, rfl, rfl⟩
theorem Encodes.stb (h : Hdr) (sc : Scope) (rel : Bool) (t2 : Option Target) (bsel : BitVec 4) (disp : BitVec 9) :
    Encodes.Statement (.stb h sc rel t2 bsel disp) := ⟨rfl, rfl, rfl, rfl⟩
theorem Encodes.sth (h : Hdr) (sc : Scope) (rel : Bool) (t2 : Option Target) (bsel : BitVec 4) (disp : BitVec 9) :
    Encodes.Statement (.sth h sc rel t2 bsel disp) := ⟨rfl, rfl, rfl, rfl⟩
theorem Encodes.st (h : Hdr) (sc : Scope) (rel : Bool) (t2 : Option Target) (bsel : BitVec 4) (disp : BitVec 9) :
    Encodes.Statement (.st h sc rel t2 bsel disp) := ⟨rfl, rfl, rfl, rfl⟩
theorem Encodes.stp (h : Hdr) (sc : Scope) (rel : Bool) (t2 : Option Target) (bsel : BitVec 4) (disp : BitVec 9) :
    Encodes.Statement (.stp h sc rel t2 bsel disp) := ⟨rfl, rfl, rfl, rfl⟩
theorem Encodes.prefetch (h : Hdr) (sc : Scope) (t2 : Option Target) (bsel : BitVec 4) (disp : BitVec 9) :
    Encodes.Statement (.prefetch h sc t2 bsel disp) := ⟨rfl, rfl, rfl, rfl⟩
theorem Encodes.lds (h : Hdr) (sc : Scope) (nb : Bool) (clr : Bool) (wf : Bool) (t2 : Option Target) (disp : BitVec 13) :
    Encodes.Statement (.lds h sc nb clr wf t2 disp) := ⟨rfl, rfl, rfl, rfl⟩
theorem Encodes.sts (h : Hdr) (sc : Scope) (once : Bool) (t2 : Option Target) (disp : BitVec 13) :
    Encodes.Statement (.sts h sc once t2 disp) := ⟨rfl, rfl, rfl, rfl⟩
theorem Encodes.ldsp (h : Hdr) (sc : Scope) (nb : Bool) (clr : Bool) (wf : Bool) (t2 : Option Target) (disp : BitVec 13) :
    Encodes.Statement (.ldsp h sc nb clr wf t2 disp) := ⟨rfl, rfl, rfl, rfl⟩
theorem Encodes.stsp (h : Hdr) (sc : Scope) (once : Bool) (t2 : Option Target) (disp : BitVec 13) :
    Encodes.Statement (.stsp h sc once t2 disp) := ⟨rfl, rfl, rfl, rfl⟩
theorem Encodes.pset (h : Hdr) (sc : Scope) (once : Bool) (t2 : Option Target) (disp : BitVec 13) :
    Encodes.Statement (.pset h sc once t2 disp) := ⟨rfl, rfl, rfl, rfl⟩
theorem Encodes.pclr (h : Hdr) (sc : Scope) (t2 : Option Target) (disp : BitVec 13) :
    Encodes.Statement (.pclr h sc t2 disp) := ⟨rfl, rfl, rfl, rfl⟩
theorem Encodes.ptest (h : Hdr) (sc : Scope) (acq : Bool) (t2 : Option Target) (disp : BitVec 13) :
    Encodes.Statement (.ptest h sc acq t2 disp) := ⟨rfl, rfl, rfl, rfl⟩
theorem Encodes.atadd (h : Hdr) (sc : Scope) (acq : Bool) (rel : Bool) (t2 : Option Target) (bsel : BitVec 4) (disp : BitVec 9) :
    Encodes.Statement (.atadd h sc acq rel t2 bsel disp) := ⟨rfl, rfl, rfl, rfl⟩
theorem Encodes.atmin (h : Hdr) (sc : Scope) (acq : Bool) (rel : Bool) (t2 : Option Target) (bsel : BitVec 4) (disp : BitVec 9) :
    Encodes.Statement (.atmin h sc acq rel t2 bsel disp) := ⟨rfl, rfl, rfl, rfl⟩
theorem Encodes.atmax (h : Hdr) (sc : Scope) (acq : Bool) (rel : Bool) (t2 : Option Target) (bsel : BitVec 4) (disp : BitVec 9) :
    Encodes.Statement (.atmax h sc acq rel t2 bsel disp) := ⟨rfl, rfl, rfl, rfl⟩
theorem Encodes.atand (h : Hdr) (sc : Scope) (acq : Bool) (rel : Bool) (t2 : Option Target) (bsel : BitVec 4) (disp : BitVec 9) :
    Encodes.Statement (.atand h sc acq rel t2 bsel disp) := ⟨rfl, rfl, rfl, rfl⟩
theorem Encodes.ator (h : Hdr) (sc : Scope) (acq : Bool) (rel : Bool) (t2 : Option Target) (bsel : BitVec 4) (disp : BitVec 9) :
    Encodes.Statement (.ator h sc acq rel t2 bsel disp) := ⟨rfl, rfl, rfl, rfl⟩
theorem Encodes.atxor (h : Hdr) (sc : Scope) (acq : Bool) (rel : Bool) (t2 : Option Target) (bsel : BitVec 4) (disp : BitVec 9) :
    Encodes.Statement (.atxor h sc acq rel t2 bsel disp) := ⟨rfl, rfl, rfl, rfl⟩
theorem Encodes.atswap (h : Hdr) (sc : Scope) (acq : Bool) (rel : Bool) (t2 : Option Target) (bsel : BitVec 4) (disp : BitVec 9) :
    Encodes.Statement (.atswap h sc acq rel t2 bsel disp) := ⟨rfl, rfl, rfl, rfl⟩
theorem Encodes.atcas (h : Hdr) (sc : Scope) (acq : Bool) (rel : Bool) (t2 : Option Target) (bsel : BitVec 4) (disp : BitVec 9) :
    Encodes.Statement (.atcas h sc acq rel t2 bsel disp) := ⟨rfl, rfl, rfl, rfl⟩
theorem Encodes.atfadd (h : Hdr) (sc : Scope) (acq : Bool) (rel : Bool) (rm : Rnd) (t2 : Option Target) (bsel : BitVec 4) (disp : BitVec 9) :
    Encodes.Statement (.atfadd h sc acq rel rm t2 bsel disp) := ⟨rfl, rfl, rfl, rfl⟩
theorem Encodes.atadd64 (h : Hdr) (sc : Scope) (acq : Bool) (rel : Bool) (t2 : Option Target) (bsel : BitVec 4) (disp : BitVec 9) :
    Encodes.Statement (.atadd64 h sc acq rel t2 bsel disp) := ⟨rfl, rfl, rfl, rfl⟩
theorem Encodes.atmin64 (h : Hdr) (sc : Scope) (acq : Bool) (rel : Bool) (t2 : Option Target) (bsel : BitVec 4) (disp : BitVec 9) :
    Encodes.Statement (.atmin64 h sc acq rel t2 bsel disp) := ⟨rfl, rfl, rfl, rfl⟩
theorem Encodes.atmax64 (h : Hdr) (sc : Scope) (acq : Bool) (rel : Bool) (t2 : Option Target) (bsel : BitVec 4) (disp : BitVec 9) :
    Encodes.Statement (.atmax64 h sc acq rel t2 bsel disp) := ⟨rfl, rfl, rfl, rfl⟩
theorem Encodes.atand64 (h : Hdr) (sc : Scope) (acq : Bool) (rel : Bool) (t2 : Option Target) (bsel : BitVec 4) (disp : BitVec 9) :
    Encodes.Statement (.atand64 h sc acq rel t2 bsel disp) := ⟨rfl, rfl, rfl, rfl⟩
theorem Encodes.ator64 (h : Hdr) (sc : Scope) (acq : Bool) (rel : Bool) (t2 : Option Target) (bsel : BitVec 4) (disp : BitVec 9) :
    Encodes.Statement (.ator64 h sc acq rel t2 bsel disp) := ⟨rfl, rfl, rfl, rfl⟩
theorem Encodes.atxor64 (h : Hdr) (sc : Scope) (acq : Bool) (rel : Bool) (t2 : Option Target) (bsel : BitVec 4) (disp : BitVec 9) :
    Encodes.Statement (.atxor64 h sc acq rel t2 bsel disp) := ⟨rfl, rfl, rfl, rfl⟩
theorem Encodes.atswap64 (h : Hdr) (sc : Scope) (acq : Bool) (rel : Bool) (t2 : Option Target) (bsel : BitVec 4) (disp : BitVec 9) :
    Encodes.Statement (.atswap64 h sc acq rel t2 bsel disp) := ⟨rfl, rfl, rfl, rfl⟩
theorem Encodes.atcas64 (h : Hdr) (sc : Scope) (acq : Bool) (rel : Bool) (t2 : Option Target) (bsel : BitVec 4) (disp : BitVec 9) :
    Encodes.Statement (.atcas64 h sc acq rel t2 bsel disp) := ⟨rfl, rfl, rfl, rfl⟩
theorem Encodes.fence (h : Hdr) (sc : Scope) (acq : Bool) (rel : Bool) (t2 : Option Target) :
    Encodes.Statement (.fence h sc acq rel t2) := ⟨rfl, rfl, rfl, rfl⟩
theorem Encodes.ldt (h : Hdr) (sc : Scope) (t2 : Option Target) (desc : BitVec 6) :
    Encodes.Statement (.ldt h sc t2 desc) := ⟨rfl, rfl, rfl, rfl⟩
theorem Encodes.stt (h : Hdr) (sc : Scope) (t2 : Option Target) (desc : BitVec 6) :
    Encodes.Statement (.stt h sc t2 desc) := ⟨rfl, rfl, rfl, rfl⟩
theorem Encodes.strm (h : Hdr) (sw : BitVec 5) (shp : BitVec 6) (desc : BitVec 6) :
    Encodes.Statement (.strm h sw shp desc) := ⟨rfl, rfl, rfl, rfl⟩
theorem Encodes.strmw (h : Hdr) (sc : Scope) (sw : BitVec 5) (shp : BitVec 6) (desc : BitVec 6) :
    Encodes.Statement (.strmw h sc sw shp desc) := ⟨rfl, rfl, rfl, rfl⟩
theorem Encodes.sred (h : Hdr) (sat : Bool) (rm : Rnd) (ops : Bool) (sw : BitVec 5) :
    Encodes.Statement (.sred h sat rm ops sw) := ⟨rfl, rfl, rfl, rfl⟩
theorem Encodes.sscan (h : Hdr) (sat : Bool) (rm : Rnd) (ops : Bool) (sw : BitVec 5) :
    Encodes.Statement (.sscan h sat rm ops sw) := ⟨rfl, rfl, rfl, rfl⟩
theorem Encodes.szip (h : Hdr) (trunc : Bool) (sw : BitVec 5) : Encodes.Statement (.szip h trunc sw) := ⟨rfl, rfl, rfl, rfl⟩
theorem Encodes.rdly (h : Hdr) (depth : BitVec 2) (rt : BitVec 14) (sw : BitVec 5) :
    Encodes.Statement (.rdly h depth rt sw) := ⟨rfl, rfl, rfl, rfl⟩
theorem Encodes.rmax (h : Hdr) (rt : BitVec 14) (sw : BitVec 5) : Encodes.Statement (.rmax h rt sw) := ⟨rfl, rfl, rfl, rfl⟩
theorem Encodes.rsumx (h : Hdr) (rm : Rnd) (rt : BitVec 14) (sw : BitVec 5) :
    Encodes.Statement (.rsumx h rm rt sw) := ⟨rfl, rfl, rfl, rfl⟩
theorem Encodes.rsqs (h : Hdr) (rm : Rnd) (rt : BitVec 14) (sw : BitVec 5) :
    Encodes.Statement (.rsqs h rm rt sw) := ⟨rfl, rfl, rfl, rfl⟩
theorem Encodes.rrel (h : Hdr) (rm : Rnd) (tgt : BitVec 3) : Encodes.Statement (.rrel h rm tgt) := ⟨rfl, rfl, rfl, rfl⟩
theorem Encodes.mregion (h : Hdr) (e : BitVec 4) (wm : BitVec 5) (hm : BitVec 5) :
    Encodes.Statement (.mregion h e wm hm) := ⟨rfl, rfl, rfl, rfl⟩
theorem Encodes.mfree (h : Hdr) : Encodes.Statement (.mfree h) := ⟨rfl, rfl, rfl, rfl⟩
theorem Encodes.wload (h : Hdr) (t2 : Option Target) (cmp : Bool) (gsz : BitVec 2) (wfmt : BitVec 4) :
    Encodes.Statement (.wload h t2 cmp gsz wfmt) := ⟨rfl, rfl, rfl, rfl⟩
theorem Encodes.wswap (h : Hdr) : Encodes.Statement (.wswap h) := ⟨rfl, rfl, rfl, rfl⟩
theorem Encodes.mmac (h : Hdr) (iext : Bool) (sw : BitVec 5) (mrows : BitVec 6) (ires : Bool) :
    Encodes.Statement (.mmac h iext sw mrows ires) := ⟨rfl, rfl, rfl, rfl⟩
theorem Encodes.mdrain (h : Hdr) (sat : Bool) (sw : BitVec 5) (pen : Bool) (port : BitVec 4) :
    Encodes.Statement (.mdrain h sat sw pen port) := ⟨rfl, rfl, rfl, rfl⟩
theorem Encodes.ttask (h : Hdr) (sc : Scope) (t2 : Option Target) (bsel : BitVec 4) (disp : BitVec 9) :
    Encodes.Statement (.ttask h sc t2 bsel disp) := ⟨rfl, rfl, rfl, rfl⟩
theorem Encodes.cpy (h : Hdr) (sc : Scope) (t2 : Option Target) (bsel : BitVec 4) (disp : BitVec 9) :
    Encodes.Statement (.cpy h sc t2 bsel disp) := ⟨rfl, rfl, rfl, rfl⟩
theorem Encodes.gath (h : Hdr) (sc : Scope) (t2 : Option Target) (bsel : BitVec 4) (disp : BitVec 9) :
    Encodes.Statement (.gath h sc t2 bsel disp) := ⟨rfl, rfl, rfl, rfl⟩
theorem Encodes.scat (h : Hdr) (sc : Scope) (t2 : Option Target) (bsel : BitVec 4) (disp : BitVec 9) :
    Encodes.Statement (.scat h sc t2 bsel disp) := ⟨rfl, rfl, rfl, rfl⟩
theorem Encodes.coll (h : Hdr) (sc : Scope) (t2 : Option Target) (bsel : BitVec 4) (disp : BitVec 9) :
    Encodes.Statement (.coll h sc t2 bsel disp) := ⟨rfl, rfl, rfl, rfl⟩
theorem Encodes.publish (h : Hdr) (sc : Scope) (t2 : Option Target) (desc : BitVec 6) :
    Encodes.Statement (.publish h sc t2 desc) := ⟨rfl, rfl, rfl, rfl⟩
theorem Encodes.await (h : Hdr) (sc : Scope) (t2 : Option Target) (desc : BitVec 6) :
    Encodes.Statement (.await h sc t2 desc) := ⟨rfl, rfl, rfl, rfl⟩
theorem Encodes.roll (h : Hdr) (sc : Scope) (t2 : Option Target) : Encodes.Statement (.roll h sc t2) := ⟨rfl, rfl, rfl, rfl⟩
theorem Encodes.rollArr (h : Hdr) (sc : Scope) (t2 : Option Target) (bsel : BitVec 4) (disp : BitVec 9) :
    Encodes.Statement (.rollArr h sc t2 bsel disp) := ⟨rfl, rfl, rfl, rfl⟩
theorem Encodes.barwait (h : Hdr) (sc : Scope) (t2 : Option Target) (bsel : BitVec 4) (disp : BitVec 9) :
    Encodes.Statement (.barwait h sc t2 bsel disp) := ⟨rfl, rfl, rfl, rfl⟩
theorem Encodes.barinit (h : Hdr) (sc : Scope) (t2 : Option Target) (bsel : BitVec 4) (disp : BitVec 9) :
    Encodes.Statement (.barinit h sc t2 bsel disp) := ⟨rfl, rfl, rfl, rfl⟩
theorem Encodes.exit (h : Hdr) (part : Bool) (ent : BitVec 4) (e : BitVec 4) :
    Encodes.Statement (.exit h part ent e) := ⟨rfl, rfl, rfl, rfl⟩
theorem Encodes.call (h : Hdr) (rx : BitVec 4) (f : Bool) (part : Bool) (ent : BitVec 4) (e : BitVec 4) :
    Encodes.Statement (.call h rx f part ent e) := ⟨rfl, rfl, rfl, rfl⟩
theorem Encodes.ret (h : Hdr) (part : Bool) (ent : BitVec 4) : Encodes.Statement (.ret h part ent) := ⟨rfl, rfl, rfl, rfl⟩
theorem Encodes.send (h : Hdr) (loc : Bool) (barn : BitVec 6) (tile : BitVec 3) (ch : BitVec 6) :
    Encodes.Statement (.send h loc barn tile ch) := ⟨rfl, rfl, rfl, rfl⟩
theorem Encodes.trap (h : Hdr) (code : BitVec 16) : Encodes.Statement (.trap h code) := ⟨rfl, rfl, rfl, rfl⟩
theorem Encodes.eret (h : Hdr) (act : BitVec 2) : Encodes.Statement (.eret h act) := ⟨rfl, rfl, rfl, rfl⟩
theorem Encodes.crrd (h : Hdr) (num : BitVec 12) : Encodes.Statement (.crrd h num) := ⟨rfl, rfl, rfl, rfl⟩
theorem Encodes.crwr (h : Hdr) (num : BitVec 12) : Encodes.Statement (.crwr h num) := ⟨rfl, rfl, rfl, rfl⟩
theorem Encodes.gong (h : Hdr) (cause : BitVec 8) : Encodes.Statement (.gong h cause) := ⟨rfl, rfl, rfl, rfl⟩
theorem Encodes.codepub (h : Hdr) (sc : Scope) (t2 : Option Target) (bsel : BitVec 4) (disp : BitVec 9) :
    Encodes.Statement (.codepub h sc t2 bsel disp) := ⟨rfl, rfl, rfl, rfl⟩
theorem Encodes.fetchsync (h : Hdr) (sc : Scope) (t2 : Option Target) :
    Encodes.Statement (.fetchsync h sc t2) := ⟨rfl, rfl, rfl, rfl⟩
theorem Encodes.launch (h : Hdr) (sc : Scope) (t2 : Option Target) (bsel : BitVec 4) (disp : BitVec 9) :
    Encodes.Statement (.launch h sc t2 bsel disp) := ⟨rfl, rfl, rfl, rfl⟩
theorem Encodes.lqtake (h : Hdr) (t2 : Option Target) (lq : BitVec 6) : Encodes.Statement (.lqtake h t2 lq) := ⟨rfl, rfl, rfl, rfl⟩
theorem Encodes.kdone (h : Hdr) : Encodes.Statement (.kdone h) := ⟨rfl, rfl, rfl, rfl⟩
theorem Encodes.xpush (q : BitVec 4) (rs1 : BitVec 5) (rs2 : BitVec 5) : Encodes.Statement (.xpush q rs1 rs2) := trivial
theorem Encodes.xpushe (q : BitVec 4) (rs2 : BitVec 5) : Encodes.Statement (.xpushe q rs2) := trivial
theorem Encodes.xpushn (q : BitVec 4) (rs2 : BitVec 5) : Encodes.Statement (.xpushn q rs2) := trivial
theorem Encodes.xpop (q : BitVec 4) (rd : BitVec 5) : Encodes.Statement (.xpop q rd) := trivial
theorem Encodes.xpopnb (q : BitVec 4) (rd : BitVec 5) : Encodes.Statement (.xpopnb q rd) := trivial
theorem Encodes.xqcnt (q : BitVec 4) (rd : BitVec 5) : Encodes.Statement (.xqcnt q rd) := trivial
theorem Encodes.xlw (bsel : BitVec 4) (disp : BitVec 8) (rs1 : BitVec 5) (rd : BitVec 5) :
    Encodes.Statement (.xlw bsel disp rs1 rd) := trivial
theorem Encodes.xsw (bsel : BitVec 4) (disp : BitVec 8) (rs2 : BitVec 5) (rs1 : BitVec 5) :
    Encodes.Statement (.xsw bsel disp rs2 rs1) := trivial
theorem Encodes.xlq (bsel : BitVec 4) (rs2 : BitVec 5) (rs1 : BitVec 5) (q : BitVec 4) :
    Encodes.Statement (.xlq bsel rs2 rs1 q) := trivial
theorem Encodes.xqst (bsel : BitVec 4) (q : BitVec 4) (rs1 : BitVec 5) : Encodes.Statement (.xqst bsel q rs1) := trivial
theorem Encodes.xcpy (bsel : BitVec 4) (s : BitVec 3) (rs1 : BitVec 5) : Encodes.Statement (.xcpy bsel s rs1) := trivial
theorem Encodes.xgath (bsel : BitVec 4) (s : BitVec 3) (rs1 : BitVec 5) : Encodes.Statement (.xgath bsel s rs1) := trivial
theorem Encodes.xscat (bsel : BitVec 4) (s : BitVec 3) (rs1 : BitVec 5) : Encodes.Statement (.xscat bsel s rs1) := trivial
theorem Encodes.xcoll (bsel : BitVec 4) (s : BitVec 3) (rs1 : BitVec 5) : Encodes.Statement (.xcoll bsel s rs1) := trivial
theorem Encodes.xttask (bsel : BitVec 4) (s : BitVec 3) (rs1 : BitVec 5) : Encodes.Statement (.xttask bsel s rs1) := trivial
theorem Encodes.xpub (desc : BitVec 6) (rs2 : BitVec 5) (rs1 : BitVec 5) (s : BitVec 3) :
    Encodes.Statement (.xpub desc rs2 rs1 s) := trivial
theorem Encodes.xawait (desc : BitVec 6) (rs2 : BitVec 5) (rs1 : BitVec 5) (s : BitVec 3) :
    Encodes.Statement (.xawait desc rs2 rs1 s) := trivial
theorem Encodes.xbarr (bsel : BitVec 4) (s : BitVec 3) (rs1 : BitVec 5) : Encodes.Statement (.xbarr bsel s rs1) := trivial
theorem Encodes.xbarw (bsel : BitVec 4) (s : BitVec 3) (rs1 : BitVec 5) (rd : BitVec 5) :
    Encodes.Statement (.xbarw bsel s rs1 rd) := trivial
theorem Encodes.xfence (rel : Bool) (acq : Bool) (s : BitVec 3) : Encodes.Statement (.xfence rel acq s) := trivial
theorem Encodes.waitc (l : BitVec 6) (st : BitVec 6) (c : BitVec 5) (t : BitVec 5) : Encodes.Statement (.waitc l st c t) := trivial
theorem Encodes.rpt (stp2 : Bool) (stp1 : Bool) (stpd : Bool) (rep : BitVec 6) :
    Encodes.Statement (.rpt stp2 stp1 stpd rep) := trivial
theorem Encodes.xsend (rs2 : BitVec 5) (rs1 : BitVec 5) : Encodes.Statement (.xsend rs2 rs1) := trivial
theorem Encodes.xcr (num : BitVec 12) (rd : BitVec 5) : Encodes.Statement (.xcr num rd) := trivial
theorem Encodes.ecall : Encodes.Statement .ecall := trivial
theorem Encodes.ebreak : Encodes.Statement .ebreak := trivial
theorem Encodes.baseInstruction (w : BitVec 32) (comp : Bool) : Encodes.Statement (.baseInstruction w comp) := trivial
theorem Encodes.tokenHop : Encodes.Statement .tokenHop := trivial
theorem Encodes.matchToken : Encodes.Statement .matchToken := trivial
theorem Encodes.reconfTokenArrival : Encodes.Statement .reconfTokenArrival := trivial
theorem Encodes.configInForce : Encodes.Statement .configInForce := trivial
theorem Encodes.trapNodeFire : Encodes.Statement .trapNodeFire := trivial
theorem Encodes.emulationFire : Encodes.Statement .emulationFire := trivial
theorem Encodes.blockFetch : Encodes.Statement .blockFetch := trivial
theorem Encodes.fetchRetry : Encodes.Statement .fetchRetry := trivial
theorem Encodes.gatherDelivery : Encodes.Statement .gatherDelivery := trivial
theorem Encodes.gatherTake : Encodes.Statement .gatherTake := trivial
theorem Encodes.baySelect : Encodes.Statement .baySelect := trivial
theorem Encodes.bayConfigured : Encodes.Statement .bayConfigured := trivial
theorem Encodes.bayIdleTimeout : Encodes.Statement .bayIdleTimeout := trivial
theorem Encodes.bayFree : Encodes.Statement .bayFree := trivial
theorem Encodes.tileLoad : Encodes.Statement .tileLoad := trivial
theorem Encodes.handlerSelect : Encodes.Statement .handlerSelect := trivial
theorem Encodes.invocationClose : Encodes.Statement .invocationClose := trivial
theorem Encodes.instanceComplete : Encodes.Statement .instanceComplete := trivial
theorem Encodes.memNodeRequest : Encodes.Statement .memNodeRequest := trivial
theorem Encodes.bankRequest : Encodes.Statement .bankRequest := trivial
theorem Encodes.accessResponse : Encodes.Statement .accessResponse := trivial
theorem Encodes.backInvalidate : Encodes.Statement .backInvalidate := trivial
theorem Encodes.hostMemAccess : Encodes.Statement .hostMemAccess := trivial
theorem Encodes.hostApertureAccess : Encodes.Statement .hostApertureAccess := trivial
theorem Encodes.barAtomicRequest : Encodes.Statement .barAtomicRequest := trivial
theorem Encodes.hostSnoop : Encodes.Statement .hostSnoop := trivial
theorem Encodes.walkComplete : Encodes.Statement .walkComplete := trivial
theorem Encodes.atsResponse : Encodes.Statement .atsResponse := trivial
theorem Encodes.faultQueueWrite : Encodes.Statement .faultQueueWrite := trivial
theorem Encodes.priRequest : Encodes.Statement .priRequest := trivial
theorem Encodes.priResponse : Encodes.Statement .priResponse := trivial
theorem Encodes.fqresRetry : Encodes.Statement .fqresRetry := trivial
theorem Encodes.fqresFail : Encodes.Statement .fqresFail := trivial
theorem Encodes.invAll : Encodes.Statement .invAll := trivial
theorem Encodes.invAsid : Encodes.Statement .invAsid := trivial
theorem Encodes.invRange : Encodes.Statement .invRange := trivial
theorem Encodes.invAsidEntry : Encodes.Statement .invAsidEntry := trivial
theorem Encodes.invComplete : Encodes.Statement .invComplete := trivial
theorem Encodes.atsInvalidate : Encodes.Statement .atsInvalidate := trivial
theorem Encodes.spadAllocWrite : Encodes.Statement .spadAllocWrite := trivial
theorem Encodes.wbufAllocWrite : Encodes.Statement .wbufAllocWrite := trivial
theorem Encodes.scrubDone : Encodes.Statement .scrubDone := trivial
theorem Encodes.ctxShdpoolWrite : Encodes.Statement .ctxShdpoolWrite := trivial
theorem Encodes.shadowFrameReturn : Encodes.Statement .shadowFrameReturn := trivial
theorem Encodes.pageMigration : Encodes.Statement .pageMigration := trivial
theorem Encodes.streamTokenSend : Encodes.Statement .streamTokenSend := trivial
theorem Encodes.strmwComplete : Encodes.Statement .strmwComplete := trivial
theorem Encodes.regionRowEntry : Encodes.Statement .regionRowEntry := trivial
theorem Encodes.mmacTileComplete : Encodes.Statement .mmacTileComplete := trivial
theorem Encodes.mdrainResult : Encodes.Statement .mdrainResult := trivial
theorem Encodes.wloadComplete : Encodes.Statement .wloadComplete := trivial
theorem Encodes.wswapInForce : Encodes.Statement .wswapInForce := trivial
theorem Encodes.mfreeRelease : Encodes.Statement .mfreeRelease := trivial
theorem Encodes.taskTake : Encodes.Statement .taskTake := trivial
theorem Encodes.taskIssue : Encodes.Statement .taskIssue := trivial
theorem Encodes.tileTaskStep : Encodes.Statement .tileTaskStep := trivial
theorem Encodes.engineCommandStart : Encodes.Statement .engineCommandStart := trivial
theorem Encodes.engineCommandComplete : Encodes.Statement .engineCommandComplete := trivial
theorem Encodes.collRankArrival : Encodes.Statement .collRankArrival := trivial
theorem Encodes.collComplete : Encodes.Statement .collComplete := trivial
theorem Encodes.sheafPublishApply : Encodes.Statement .sheafPublishApply := trivial
theorem Encodes.sheafRegisterApply : Encodes.Statement .sheafRegisterApply := trivial
theorem Encodes.barwaitServe : Encodes.Statement .barwaitServe := trivial
theorem Encodes.edgeQueueDeliver : Encodes.Statement .edgeQueueDeliver := trivial
theorem Encodes.coreProgramStart : Encodes.Statement .coreProgramStart := trivial
theorem Encodes.coreProgramEnd : Encodes.Statement .coreProgramEnd := trivial
theorem Encodes.countedAccessDone : Encodes.Statement .countedAccessDone := trivial
theorem Encodes.doorbellWrite : Encodes.Statement .doorbellWrite := trivial
theorem Encodes.directClaim : Encodes.Statement .directClaim := trivial
theorem Encodes.placementTurn : Encodes.Statement .placementTurn := trivial
theorem Encodes.winnowWindowEnd : Encodes.Statement .winnowWindowEnd := trivial
theorem Encodes.schedQtabWrite : Encodes.Statement .schedQtabWrite := trivial
theorem Encodes.reeveRelease : Encodes.Statement .reeveRelease := trivial
theorem Encodes.reeveSelect : Encodes.Statement .reeveSelect := trivial
theorem Encodes.sheafRetWrite : Encodes.Statement .sheafRetWrite := trivial
theorem Encodes.sheafOvfWrite : Encodes.Statement .sheafOvfWrite := trivial
theorem Encodes.preemptRequest : Encodes.Statement .preemptRequest := trivial
theorem Encodes.preemptDeadline : Encodes.Statement .preemptDeadline := trivial
theorem Encodes.ctxCheckpoint : Encodes.Statement .ctxCheckpoint := trivial
theorem Encodes.ctxRestore : Encodes.Statement .ctxRestore := trivial
theorem Encodes.ctxRelease : Encodes.Statement .ctxRelease := trivial
theorem Encodes.stopRequestReceive : Encodes.Statement .stopRequestReceive := trivial
theorem Encodes.stopComplete : Encodes.Statement .stopComplete := trivial
theorem Encodes.saveComplete : Encodes.Statement .saveComplete := trivial
theorem Encodes.restoreComplete : Encodes.Statement .restoreComplete := trivial
theorem Encodes.flitReceive : Encodes.Statement .flitReceive := trivial
theorem Encodes.linkReplayTimeout : Encodes.Statement .linkReplayTimeout := trivial
theorem Encodes.linkTrain : Encodes.Statement .linkTrain := trivial
theorem Encodes.linkTakeDown : Encodes.Statement .linkTakeDown := trivial
theorem Encodes.linkTrained : Encodes.Statement .linkTrained := trivial
theorem Encodes.collRouteTimeout : Encodes.Statement .collRouteTimeout := trivial
theorem Encodes.ucieBoundaryFail : Encodes.Statement .ucieBoundaryFail := trivial
theorem Encodes.decoderCommit : Encodes.Statement .decoderCommit := trivial
theorem Encodes.loadNative : Encodes.Statement .loadNative := trivial
theorem Encodes.loadPekor : Encodes.Statement .loadPekor := trivial
theorem Encodes.unload : Encodes.Statement .unload := trivial
theorem Encodes.tcFlush : Encodes.Statement .tcFlush := trivial
theorem Encodes.trapWordEnqueue : Encodes.Statement .trapWordEnqueue := trivial
theorem Encodes.trapResResume : Encodes.Statement .trapResResume := trivial
theorem Encodes.trapResSupply : Encodes.Statement .trapResSupply := trivial
theorem Encodes.trapResKill : Encodes.Statement .trapResKill := trivial
theorem Encodes.ctxStallimWrite : Encodes.Statement .ctxStallimWrite := trivial
theorem Encodes.stallAge : Encodes.Statement .stallAge := trivial
theorem Encodes.hwFaultDetect : Encodes.Statement .hwFaultDetect := trivial
theorem Encodes.partitionClockGate : Encodes.Statement .partitionClockGate := trivial
theorem Encodes.mgmtFreezeRequest : Encodes.Statement .mgmtFreezeRequest := trivial
theorem Encodes.frzResume : Encodes.Statement .frzResume := trivial
theorem Encodes.frzKill : Encodes.Statement .frzKill := trivial
theorem Encodes.frzKillFence : Encodes.Statement .frzKillFence := trivial
theorem Encodes.belfryLoad : Encodes.Statement .belfryLoad := trivial
theorem Encodes.belfrySwitch : Encodes.Statement .belfrySwitch := trivial
theorem Encodes.belfryDrainTimeout : Encodes.Statement .belfryDrainTimeout := trivial
theorem Encodes.gongRaise : Encodes.Statement .gongRaise := trivial
theorem Encodes.mgmtGongRequest : Encodes.Statement .mgmtGongRequest := trivial
theorem Encodes.gongLatch : Encodes.Statement .gongLatch := trivial
theorem Encodes.memCheckpoint : Encodes.Statement .memCheckpoint := trivial
theorem Encodes.memCheckpointDone : Encodes.Statement .memCheckpointDone := trivial
theorem Encodes.svcCtlWrite : Encodes.Statement .svcCtlWrite := trivial
theorem Encodes.ctxBmapWrite : Encodes.Statement .ctxBmapWrite := trivial
theorem Encodes.hbmRetire : Encodes.Statement .hbmRetire := trivial
theorem Encodes.dieFenceWrite : Encodes.Statement .dieFenceWrite := trivial
theorem Encodes.fwLoad : Encodes.Statement .fwLoad := trivial
theorem Encodes.fwTakeover : Encodes.Statement .fwTakeover := trivial
theorem Encodes.powerOn : Encodes.Statement .powerOn := trivial
theorem Encodes.coldReset : Encodes.Statement .coldReset := trivial
theorem Encodes.throttleStep : Encodes.Statement .throttleStep := trivial
theorem Encodes.overtempFreeze : Encodes.Statement .overtempFreeze := trivial
theorem Encodes.getVersion : Encodes.Statement .getVersion := trivial
theorem Encodes.getCapabilities : Encodes.Statement .getCapabilities := trivial
theorem Encodes.negotiateAlgorithms : Encodes.Statement .negotiateAlgorithms := trivial
theorem Encodes.getDigests : Encodes.Statement .getDigests := trivial
theorem Encodes.getCertificate : Encodes.Statement .getCertificate := trivial
theorem Encodes.challenge : Encodes.Statement .challenge := trivial
theorem Encodes.getMeasurements : Encodes.Statement .getMeasurements := trivial
theorem Encodes.spdmUnsupported : Encodes.Statement .spdmUnsupported := trivial
theorem Encodes.registerWrite : Encodes.Statement .registerWrite := trivial
theorem Encodes.powerLoss : Encodes.Statement .powerLoss := trivial
theorem Encodes.cxlPortTrained : Encodes.Statement .cxlPortTrained := trivial

end Sys2Proof.Laws
end

