-- ==== Sys2Proof/Tests/Slice0.lean ====
section
/-! SUPPORT. Tests of the model: decoding, ill-formed terms, one-step results by hand from the rules, and for each statement states and
operands that meet its hypotheses. -/

namespace Sys2Proof.Tests

set_option Elab.async false

open Sys2Proof Sys2Proof.Machine Sys2Proof.Claims

/-- The header of the decode tests: predicate match true, T0 slot b of index 5, T1 slot c of index 9. -/
def hd (ty : Ty) : Hdr := ⟨.whenTrue, ty, some ⟨5, .b⟩, some ⟨9, .c⟩⟩

/-- The same header without a predicate match. -/
def hp (ty : Ty) : Hdr := { hd ty with pm := .always }

/-- A header without targets. -/
def sink (ty : Ty) : Hdr := ⟨.always, ty, none, none⟩

/-! Decoding: one word for every block row and every core row, written out from the encoding tables of the manual (R69 to R74, R224). -/

theorem test_decode_integer_1 :
    decodeWord 0x0017080A89800000 = some (.add (hd .i8x4) true) ∧
    decodeWord 0x005C080A89800000 = some (.sub (hd .n16x2) true) ∧
    decodeWord 0x009B080A89800000 = some (.mul (hd .i16x2) true) ∧
    decodeWord 0x0111080A89800000 = some (.mad (hd .n32) true) ∧
    decodeWord 0x0157080A89800000 = some (.neg (hd .i8x4) true) ∧
    decodeWord 0x019B080A89800000 = some (.abs (hd .i16x2) true) ∧
    decodeWord 0x0398080A89800000 = some (.dot4 (hd .n8x4) true) ∧
    decodeWord 0x0411080A89800000 = some (.div (hd .n32) true) ∧
    decodeWord 0x00D1000A89800000 = some (.mulh (hd .n32)) ∧
    decodeWord 0x01D8000A89800000 = some (.min (hd .n8x4)) := by decide

theorem test_decode_integer_2 :
    decodeWord 0x0210000A89800000 = some (.max (hd .i32)) ∧
    decodeWord 0x03D0000A89800000 = some (.absd (hd .i32)) ∧
    decodeWord 0x0450000A89800000 = some (.rem (hd .i32)) ∧
    decodeWord 0x0250080A89BFFFFE = some (.addi (hd .i32) true 0x3FFFFE) ∧
    decodeWord 0x0291000A89A00001 = some (.muli (hd .n32) false 0x200001) ∧
    decodeWord 0x02D0000A89A0001D = some (.lea (hd .i32) 0x40003 5) ∧
    decodeWord 0x0311080A89955555 = some (.cidx2 (hd .n32) true 0x155555) ∧
    decodeWord 0x0351000A89B008A3 = some (.cidx3 (hd .n32) false 0x601 0x0A3) := by decide

theorem test_decode_logic_1 :
    decodeWord 0x101A000A89800000 = some (.and (hd .n4x8)) ∧
    decodeWord 0x1059000A89800000 = some (.or (hd .i4x8)) ∧
    decodeWord 0x109E000A89800000 = some (.xor (hd .b32)) ∧
    decodeWord 0x10D1000A89800000 = some (.andn (hd .n32)) ∧
    decodeWord 0x111B000A89800000 = some (.not (hd .i16x2)) ∧
    decodeWord 0x1157000A89800000 = some (.shl (hd .i8x4)) ∧
    decodeWord 0x119C000A89800000 = some (.shr (hd .n16x2)) ∧
    decodeWord 0x11D0000A89800000 = some (.sra (hd .i32)) ∧
    decodeWord 0x1218000A89800000 = some (.rol (hd .n8x4)) ∧
    decodeWord 0x125E000A89800000 = some (.ror (hd .b32)) := by decide

theorem test_decode_logic_2 :
    decodeWord 0x13D0000A89800000 = some (.popc (hd .i32)) ∧
    decodeWord 0x1411000A89800000 = some (.clz (hd .n32)) ∧
    decodeWord 0x145E000A89800000 = some (.ctz (hd .b32)) ∧
    decodeWord 0x1491000A89800000 = some (.brev (hd .n32)) ∧
    decodeWord 0x1297000A89800007 = some (.shli (hd .i8x4) 7) ∧
    decodeWord 0x12DC000A8980000F = some (.shri (hd .n16x2) 15) ∧
    decodeWord 0x131E000A8980001F = some (.srai (hd .b32) 31) ∧
    decodeWord 0x1350000A898002E8 = some (.bfx (hd .i32) 23 8) ∧
    decodeWord 0x1391000A8980001F = some (.bfi (hd .n32) 0 31) ∧
    decodeWord 0x14DE000A89807A3F = some (.prmt (hd .b32) 0x7A3F) := by decide

theorem test_decode_compare_1 :
    decodeWord 0x201E000A89BF0001 = some (.cmpeq (hd .b32) true 0x1F0001) ∧
    decodeWord 0x2090000A89BF0001 = some (.cmplt (hd .i32) true 0x1F0001) ∧
    decodeWord 0x2111000A89BF0001 = some (.cmpgt (hd .n32) true 0x1F0001) ∧
    decodeWord 0x2051000A89800000 = some (.cmpne (hd .n32) false 0) ∧
    decodeWord 0x20D0000A89800000 = some (.cmple (hd .i32) false 0) ∧
    decodeWord 0x2151000A89800000 = some (.cmpge (hd .n32) false 0) ∧
    decodeWord 0x219D000A89800000 = some (.pand (hd .pred)) ∧
    decodeWord 0x21DD000A89800000 = some (.por (hd .pred)) ∧
    decodeWord 0x221D000A89800000 = some (.pxor (hd .pred)) ∧
    decodeWord 0x225D000A89800000 = some (.pandn (hd .pred)) := by decide

theorem test_decode_compare_2 :
    decodeWord 0x229D000A89800000 = some (.pnot (hd .pred)) ∧
    decodeWord 0x22D6000A89800000 = some (.select (hd .e5m2x4)) ∧
    decodeWord 0x231E000A89A0F0F0 = some (.testz (hd .b32) true 0x0F0F0) := by decide

theorem test_decode_steering :
    decodeWord 0x3013000A8985E000 = some (.mov (hd .f16x2) (some ⟨11, .p⟩)) ∧
    decodeWord 0x3050000A89BABCDE = some (.const (hd .i32) 0x3ABCDE) ∧
    decodeWord 0x309E000A89800000 = some (.lit (hd .b32)) ∧
    decodeWord 0x30D4000A89800000 = some (.switch (hd .bf16x2)) ∧
    decodeWord 0x3114000A89800000 = some (.merge (hd .bf16x2)) ∧
    decodeWord 0x3154000A89800000 = some (.gate (hd .bf16x2)) ∧
    decodeWord 0x3214000A89800000 = some (.null (hd .bf16x2)) ∧
    decodeWord 0x319D000A89800001 = some (.sync (hd .pred) true) ∧
    decodeWord 0x31C800FFFFC00000 = some (.drop (sink .n8x4)) := by decide

theorem test_decode_tag :
    decodeWord 0x401E000A89800001 = some (.alloc (hd .b32) 0x001) ∧
    decodeWord 0x4050000A89800000 = some (.free (hd .i32)) ∧
    decodeWord 0x409E000A8980557F = some (.enter (hd .b32) 0x2A true 0x7F) ∧
    decodeWord 0x40D2000A8980000F = some (.leave (hd .f32) 0x0F) ∧
    decodeWord 0x4111000A898016A4 = some (.tagrd (hd .n32) 11 20 4) ∧
    decodeWord 0x415E000A89800744 = some (.tagwr (hd .b32) 3 40) := by decide

theorem test_decode_float_1 :
    decodeWord 0x5012090A89800000 = some (.fadd (hd .f32) true .rz) ∧
    decodeWord 0x50530A0A89800000 = some (.fsub (hd .f16x2) true .ru) ∧
    decodeWord 0x50940B0A89800000 = some (.fmul (hd .bf16x2) true .rd) ∧
    decodeWord 0x50D50C0A89800000 = some (.ffma (hd .e4m3x4) true .rna) ∧
    decodeWord 0x5116080A89800000 = some (.ffms (hd .e5m2x4) true .rne) ∧
    decodeWord 0x53D3090A89800000 = some (.fdot2 (hd .f16x2) true .rz) ∧
    decodeWord 0x5152000A89800000 = some (.fmin (hd .f32)) ∧
    decodeWord 0x5193000A89800000 = some (.fmax (hd .f16x2)) ∧
    decodeWord 0x51D4000A89800000 = some (.fabs (hd .bf16x2)) ∧
    decodeWord 0x5215000A89800000 = some (.fneg (hd .e4m3x4)) := by decide

theorem test_decode_float_2 :
    decodeWord 0x5256000A89800000 = some (.fcpys (hd .e5m2x4)) ∧
    decodeWord 0x5295000A89800003 = some (.fcmpeq (hd .e4m3x4) 3) ∧
    decodeWord 0x52D3000A89800001 = some (.fcmpne (hd .f16x2) 1) ∧
    decodeWord 0x5316000A89800002 = some (.fcmplt (hd .e5m2x4) 2) ∧
    decodeWord 0x5354000A89800001 = some (.fcmple (hd .bf16x2) 1) ∧
    decodeWord 0x5392000A89800000 = some (.fcmpun (hd .f32) 0) := by decide

theorem test_decode_convert :
    decodeWord 0x60151A0A89802402 = some (.fcvt (hd .e4m3x4) true true .ru 9 0 2) ∧
    decodeWord 0x60530B0A89800002 = some (.fcvtp (hd .f16x2) true .rd 2) ∧
    decodeWord 0x6096010A89800193 = some (.fcvtx (hd .e5m2x4) false .rz 3 1 3) ∧
    decodeWord 0x60D4040A89800000 = some (.frnd (hd .bf16x2) .rna) ∧
    decodeWord 0x6113090A89800001 = some (.fldexp (hd .f16x2) true .rz true) ∧
    decodeWord 0x6152000A89800000 = some (.fgetexp (hd .f32)) ∧
    decodeWord 0x619E0B0A09800000 = some (.reconf ⟨.whenTrue, .b32, some ⟨5, .a⟩, some ⟨9, .c⟩⟩ true .rd) := by decide

theorem test_decode_special :
    decodeWord 0x7012000A89800000 = some (.fexp2f (hd .f32)) ∧
    decodeWord 0x7052000A89800000 = some (.flog2 (hd .f32)) ∧
    decodeWord 0x7092000A89800000 = some (.frcp (hd .f32)) ∧
    decodeWord 0x70D2000A89800000 = some (.frsq (hd .f32)) ∧
    decodeWord 0x7152000A89800000 = some (.fsin2 (hd .f32)) ∧
    decodeWord 0x7192000A89800000 = some (.fcos2 (hd .f32)) ∧
    decodeWord 0x7112020A89800000 = some (.fsqrt (hd .f32) .ru) := by decide

theorem test_decode_flat :
    decodeWord 0x8010300A8985EBF3 = some (.ldb (hd .i32) .barn true (some ⟨11, .p⟩) 5 0x1F3) ∧
    decodeWord 0x8051500A8985EBF3 = some (.ldh (hd .n32) .die true (some ⟨11, .p⟩) 5 0x1F3) ∧
    decodeWord 0x8093700A8985EBF3 = some (.ld (hd .f16x2) .pkg true (some ⟨11, .p⟩) 5 0x1F3) ∧
    decodeWord 0x80DE900A8985EBF3 = some (.ldp (hd .b32) .sys true (some ⟨11, .p⟩) 5 0x1F3) ∧
    decodeWord 0x8111080A8985EBF3 = some (.stb (hd .n32) .blk true (some ⟨11, .p⟩) 5 0x1F3) ∧
    decodeWord 0x815E280A8985EBF3 = some (.sth (hd .b32) .barn true (some ⟨11, .p⟩) 5 0x1F3) ∧
    decodeWord 0x8196480A8985EBF3 = some (.st (hd .e5m2x4) .die true (some ⟨11, .p⟩) 5 0x1F3) ∧
    decodeWord 0x81DE680A8985EBF3 = some (.stp (hd .b32) .pkg true (some ⟨11, .p⟩) 5 0x1F3) ∧
    decodeWord 0x821E600A8985EBF3 = some (.prefetch (hd .b32) .pkg (some ⟨11, .p⟩) 5 0x1F3) := by decide

theorem test_decode_scratch :
    decodeWord 0x9012230A8985FABC = some (.lds (hd .f32) .barn false true true (some ⟨11, .p⟩) 0x1ABC) ∧
    decodeWord 0x909E860A8985E004 = some (.ldsp (hd .b32) .sys true true false (some ⟨11, .p⟩) 0x0004) ∧
    decodeWord 0x9059410A8985FFFC = some (.sts (hd .i4x8) .die true (some ⟨11, .p⟩) 0x1FFC) ∧
    decodeWord 0x90DE010A8985E008 = some (.stsp (hd .b32) .blk true (some ⟨11, .p⟩) 8) ∧
    decodeWord 0x911E610A8985E010 = some (.pset (hd .b32) .pkg true (some ⟨11, .p⟩) 16) ∧
    decodeWord 0x915E200A8985E020 = some (.pclr (hd .b32) .barn (some ⟨11, .p⟩) 32) ∧
    decodeWord 0x919D900A8985E030 = some (.ptest (hd .pred) .sys true (some ⟨11, .p⟩) 48) := by decide

theorem test_decode_stream_1 :
    decodeWord 0xA015800A8985E003 = some (.ldt (hd .e4m3x4) .sys (some ⟨11, .p⟩) 3) ∧
    decodeWord 0xA059400A8985E03F = some (.stt (hd .i4x8) .die (some ⟨11, .p⟩) 63) ∧
    decodeWord 0xA092000A89817142 = some (.strm (hd .f32) 23 5 2) ∧
    decodeWord 0xA0CC600A8980987E = some (.strmw (hp .n16x2) .pkg 9 33 62) ∧
    decodeWord 0xA107080A8980002B = some (.sred (hp .i8x4) true .rne true 11) ∧
    decodeWord 0xA143020A89800007 = some (.sscan (hp .f16x2) false .ru false 7) ∧
    decodeWord 0xA18E100A89800004 = some (.szip (hp .b32) true 4) ∧
    decodeWord 0xA1C1000A89924686 = some (.rdly (hp .n32) 2 0x1234 6) ∧
    decodeWord 0xA206000A89840025 = some (.rmax (hp .e5m2x4) 0x2001 5) ∧
    decodeWord 0xA242010A898009A8 = some (.rsumx (hp .f32) .rz 77 8) := by decide

theorem test_decode_stream_2 :
    decodeWord 0xA284030A8987FFF7 = some (.rsqs (hp .bf16x2) .rd 0x3FFF 23) ∧
    decodeWord 0xA2D2040A89800004 = some (.rrel (hd .f32) .rna 4) := by decide

theorem test_decode_atomic_1 :
    decodeWord 0xB010900A8985EBF3 = some (.atadd (hd .i32) .sys true false (some ⟨11, .p⟩) 5 0x1F3) ∧
    decodeWord 0xB051080A8985EBF3 = some (.atmin (hd .n32) .blk false true (some ⟨11, .p⟩) 5 0x1F3) ∧
    decodeWord 0xB090300A8985EBF3 = some (.atmax (hd .i32) .barn true false (some ⟨11, .p⟩) 5 0x1F3) ∧
    decodeWord 0xB0DE480A8985EBF3 = some (.atand (hd .b32) .die false true (some ⟨11, .p⟩) 5 0x1F3) ∧
    decodeWord 0xB111700A8985EBF3 = some (.ator (hd .n32) .pkg true false (some ⟨11, .p⟩) 5 0x1F3) ∧
    decodeWord 0xB150880A8985EBF3 = some (.atxor (hd .i32) .sys false true (some ⟨11, .p⟩) 5 0x1F3) ∧
    decodeWord 0xB19E100A8985EBF3 = some (.atswap (hd .b32) .blk true false (some ⟨11, .p⟩) 5 0x1F3) ∧
    decodeWord 0xB1D1280A8985EBF3 = some (.atcas (hd .n32) .barn false true (some ⟨11, .p⟩) 5 0x1F3) ∧
    decodeWord 0xB251500A8985EBF3 = some (.atadd64 (hd .n32) .die true false (some ⟨11, .p⟩) 5 0x1F3) ∧
    decodeWord 0xB290680A8985EBF3 = some (.atmin64 (hd .i32) .pkg false true (some ⟨11, .p⟩) 5 0x1F3) := by decide

theorem test_decode_atomic_2 :
    decodeWord 0xB2D1900A8985EBF3 = some (.atmax64 (hd .n32) .sys true false (some ⟨11, .p⟩) 5 0x1F3) ∧
    decodeWord 0xB31E080A8985EBF3 = some (.atand64 (hd .b32) .blk false true (some ⟨11, .p⟩) 5 0x1F3) ∧
    decodeWord 0xB350300A8985EBF3 = some (.ator64 (hd .i32) .barn true false (some ⟨11, .p⟩) 5 0x1F3) ∧
    decodeWord 0xB391480A8985EBF3 = some (.atxor64 (hd .n32) .die false true (some ⟨11, .p⟩) 5 0x1F3) ∧
    decodeWord 0xB3DE700A8985EBF3 = some (.atswap64 (hd .b32) .pkg true false (some ⟨11, .p⟩) 5 0x1F3) ∧
    decodeWord 0xB41E880A8985EBF3 = some (.atcas64 (hd .b32) .sys false true (some ⟨11, .p⟩) 5 0x1F3) ∧
    decodeWord 0xB2145C0A8985EBF3 = some (.atfadd (hd .bf16x2) .die true true .rna (some ⟨11, .p⟩) 5 0x1F3) ∧
    decodeWord 0xB45E880A8985E000 = some (.fence (hd .b32) .sys false true (some ⟨11, .p⟩)) := by decide

theorem test_decode_matrix :
    decodeWord 0xC01E000A898027EF = some (.mregion (hd .b32) 9 31 15) ∧
    decodeWord 0xC05E000A89800000 = some (.mfree (hd .b32)) ∧
    decodeWord 0xC09E000A8985E061 = some (.wload (hd .b32) (some ⟨11, .p⟩) true 2 1) ∧
    decodeWord 0xC0CE000A89800000 = some (.wswap (hp .b32)) ∧
    decodeWord 0xC107000A898017D1 = some (.mmac (hp .i8x4) true 15 40 true) ∧
    decodeWord 0xC142080A8980019A = some (.mdrain (hp .f32) true 12 true 10) ∧
    decodeWord 0xC19E600A8985EBF3 = some (.ttask (hd .b32) .pkg (some ⟨11, .p⟩) 5 0x1F3) := by decide

theorem test_decode_engine :
    decodeWord 0xD01E000A8985EBF3 = some (.cpy (hd .b32) .blk (some ⟨11, .p⟩) 5 0x1F3) ∧
    decodeWord 0xD05E200A8985EBF3 = some (.gath (hd .b32) .barn (some ⟨11, .p⟩) 5 0x1F3) ∧
    decodeWord 0xD09E400A8985EBF3 = some (.scat (hd .b32) .die (some ⟨11, .p⟩) 5 0x1F3) ∧
    decodeWord 0xD0DE600A8985EBF3 = some (.coll (hd .b32) .pkg (some ⟨11, .p⟩) 5 0x1F3) ∧
    decodeWord 0xD1DE800A8985EBF3 = some (.barwait (hd .b32) .sys (some ⟨11, .p⟩) 5 0x1F3) ∧
    decodeWord 0xD21E000A8985EBF3 = some (.barinit (hd .b32) .blk (some ⟨11, .p⟩) 5 0x1F3) ∧
    decodeWord 0xD11E800A8985E007 = some (.publish (hd .b32) .sys (some ⟨11, .p⟩) 7) ∧
    decodeWord 0xD15E600A8985E029 = some (.await (hd .b32) .pkg (some ⟨11, .p⟩) 41) ∧
    decodeWord 0xD19E400A8985E000 = some (.roll (hd .b32) .die (some ⟨11, .p⟩)) ∧
    decodeWord 0xD19E810A8985EBF3 = some (.rollArr (hd .b32) .sys (some ⟨11, .p⟩) 5 0x1F3) := by decide

theorem test_decode_system_1 :
    decodeWord 0xE00200FFFFC001E9 = some (.exit (sink .f32) true 14 9) ∧
    decodeWord 0xE04E00FFFFC01A3C = some (.call (sink .b32) 6 true false 3 12) ∧
    decodeWord 0xE08B00FFFFC00017 = some (.ret (sink .i16x2) true 7) ∧
    decodeWord 0xE0D1000A89804B72 = some (.send (hd .n32) false 37 5 50) ∧
    decodeWord 0xE11E000A8980BEEF = some (.trap (hd .b32) 0xBEEF) ∧
    decodeWord 0xE15E000A89800001 = some (.eret (hd .b32) 1) ∧
    decodeWord 0xE19E000A89800021 = some (.crrd (hd .b32) 0x021) ∧
    decodeWord 0xE1DE000A89800041 = some (.crwr (hd .b32) 0x041) ∧
    decodeWord 0xE21E000A898000A5 = some (.gong (hd .b32) 0xA5) ∧
    decodeWord 0xE25E800A8985EBF3 = some (.codepub (hd .b32) .sys (some ⟨11, .p⟩) 5 0x1F3) := by decide

theorem test_decode_system_2 :
    decodeWord 0xE29E600A8985E000 = some (.fetchsync (hd .b32) .pkg (some ⟨11, .p⟩)) ∧
    decodeWord 0xE2DE400A8985EBF3 = some (.launch (hd .b32) .die (some ⟨11, .p⟩) 5 0x1F3) ∧
    decodeWord 0xE31E000A8985E021 = some (.lqtake (hd .b32) (some ⟨11, .p⟩) 33) ∧
    decodeWord 0xE35E000A89800000 = some (.kdone (hd .b32)) := by decide

theorem test_decode_core_1 :
    decodeCore32 0x00B5048B = .xpush 9 10 11 ∧
    decodeCore32 0x02B0048B = .xpushe 9 11 ∧
    decodeCore32 0x05F0078B = .xpushn 15 31 ∧
    decodeCore32 0x0020150B = .xpop 2 10 ∧
    decodeCore32 0x02E01F8B = .xpopnb 14 31 ∧
    decodeCore32 0x0470128B = .xqcnt 7 5 ∧
    decodeCore32 0xCB38A30B = .xlw 12 0xB3 17 6 ∧
    decodeCore32 0xCB28B98B = .xsw 12 0xB3 18 17 ∧
    decodeCore32 0x134AC68B = .xlq 9 20 21 13 ∧
    decodeCore32 0x12DAD00B = .xqst 9 13 21 := by decide

theorem test_decode_core_2 :
    decodeCore32 0x160B002B = .xcpy 11 0 22 ∧
    decodeCore32 0x361B002B = .xgath 11 1 22 ∧
    decodeCore32 0x562B002B = .xscat 11 2 22 ∧
    decodeCore32 0x763B002B = .xcoll 11 3 22 ∧
    decodeCore32 0x964B002B = .xttask 11 4 22 ∧
    decodeCore32 0x5B7C122B = .xpub 0x2D 23 24 4 ∧
    decodeCore32 0xDB7C11AB = .xawait 0x2D 23 24 3 ∧
    decodeCore32 0x0C2CA02B = .xbarr 6 2 25 ∧
    decodeCore32 0x2C4CAD2B = .xbarw 6 4 25 26 ∧
    decodeCore32 0x0140302B = .xfence true false 4 := by decide

theorem test_decode_core_3 :
    decodeCore32 0x86A8C4AB = .waitc 33 0x2A 17 9 ∧
    decodeCore32 0x1610502B = .rpt true false true 0x21 ∧
    decodeCore32 0x01BE602B = .xsend 27 28 ∧
    decodeCore32 0x04107EAB = .xcr 0x041 29 ∧
    decodeCore32 0x00000073 = .ecall ∧
    decodeCore32 0x00100073 = .ebreak ∧
    decodeCore32 0x00B50533 = .baseInstruction 0x00B50533 false ∧
    decodeCore32 0x1000000B = .baseInstruction 0x1000000B false := by decide

/-! Ill-formed terms: the check refuses each, and the decoder refuses the word that its encoding tables give it (R76, R86 to R209). -/

/-- An instruction that the check refuses, whose word the decoder refuses. -/
def refused (i : Instr) : Bool :=
  !i.wellFormed && match encodeWord i with | some w => decodeWord w = none | none => false

theorem test_types_refused : ∀ i ∈ [Instr.add (hp .f32) false, .add (hp .b32) false, .mulh (hp .i8x4), .addi (hp .i16x2) false 1, .sra (hp .i4x8),
    .shl (hp .f32), .bfx (hp .i8x4) 0 0, .prmt (hp .i32) 0, .cmplt (hp .f32) false 0, .pand (hp .b32), .testz (hp .i8x4) true 1, .tagrd (hp .i32) 0 0 0,
    .fadd (hp .i32) false .rne, .fdot2 (hp .f32) false .rne, .frnd (hp .e4m3x4) .rne, .fgetexp (hp .f16x2), .fsqrt (hp .f16x2) .rne], refused i = true := by
  decide

theorem test_memory_types_refused : ∀ i ∈ [Instr.ldb (hp .f32) .blk false none 0 0, .sth (hp .n16x2) .blk false none 0 0, .ldp (hp .i32) .blk false none 0 0,
    .pset (hp .i32) .blk false none 0, .ptest (hp .b32) .blk false none 0, .atadd (hp .f32) .blk false false none 0 0,
    .atfadd (hp .e4m3x4) .blk false false .rne none 0 0, .atcas64 (hp .i32) .blk false false none 0 0, .fence (hp .i32) .blk false false none,
    .ldt (hp .pred) .blk none 0, .sred (hp .b32) false .rne false 0, .rmax (hp .i32) 0 0, .rrel (hp .f16x2) .rne 0], refused i = true := by decide

theorem test_command_types_refused : ∀ i ∈ [Instr.mregion (hp .i32) 0 0 0, .mfree (hp .i32), .wload (hp .i32) none false 0 0, .mmac (hp .f32) false 0 0 false,
    .mdrain (hp .b32) false 0 false 0, .cpy (hp .i32) .blk none 0 0, .publish (hp .i32) .pkg none 0, .roll (hp .i32) .blk none, .crrd (hp .i32) 0,
    .gong (hp .f32) 0, .lqtake (hp .i32) none 0, .kdone (hp .i32)], refused i = true := by decide

theorem test_targets_refused : ∀ i ∈ [Instr.drop (hp .b32), .exit (hp .b32) false 0 0, .call (hp .b32) 0 false false 1 0, .ret (hp .b32) false 0],
    refused i = true := by decide

/-- Slot p of index 127 has the code that names no target (R70). -/
theorem test_target_unnameable : (Instr.not ⟨.always, .b32, some ⟨127, .p⟩, none⟩).wellFormed = false ∧
    (Instr.not ⟨.always, .b32, some ⟨127, .c⟩, none⟩).wellFormed = true := by decide

theorem test_predicate_match_refused : ∀ i ∈ [Instr.sred (hd .i32) false .rne false 0, .strmw (hd .i32) .blk 0 0 0, .rdly (hd .i32) 0 0 0, .wswap (hd .b32),
    .mmac (hd .i8x4) false 0 0 false, .lds { hd .b32 with pm := .either } .blk true false false none 0], refused i = true := by decide

theorem test_limits_refused : ∀ i ∈ [Instr.cidx2 (hp .i32) false 0, .cidx3 (hp .i32) false 1 0, .cidx3 (hp .i32) false 0 1, .shli (hp .i8x4) 8,
    .shri (hp .i16x2) 16, .srai (hp .i8x4) 8, .bfx (hp .i32) 31 1, .bfi (hp .b32) 1 31, .cmpeq (hp .i32) false 1, .testz (hp .b32) false 1,
    .const (hp .i8x4) 0x100, .const (hp .pred) 2, .enter (hp .b32) 8 true 7, .enter (hp .b32) 1 false 7, .tagrd (hp .n32) 0 0 7, .tagrd (hp .n32) 15 29 4,
    .tagwr (hp .b32) 0 44, .fcmpeq (hp .f16x2) 2], refused i = true := by decide

theorem test_stream_limits_refused : ∀ i ∈ [Instr.fcvt (hp .i32) false true .rne 0 0 2, .fcvt (hp .f32) false false .rne 0 4 7, .fcvt (hp .f32) false false .rne 1 0 3,
    .fcvtp (hp .f32) false .rne 3, .fcvtx (hp .f16x2) false .rne 2 0 2, .reconf ⟨.always, .b32, some ⟨1, .b⟩, none⟩ false .rne,
    .lds (hp .b32) .blk true false true none 0, .strm (hp .b32) 24 0 0, .sscan (hp .i8x4) false .rne false 22, .szip (hp .b32) false 24,
    .rrel (hp .f32) .rne 5, .wload (hp .b32) none false 3 0, .wload (hp .b32) none false 1 2, .wload (hp .b32) none false 0 6,
    .mmac (hp .i8x4) false 24 0 false, .mdrain (hp .i32) false 24 false 0], refused i = true := by decide

theorem test_control_limits_refused : ∀ i ∈ [Instr.publish (hp .b32) .blk none 0, .await (hp .b32) .die none 0, .call (sink .b32) 0 false false 0 0,
    .eret (hp .b32) 3, .crrd (hp .b32) 0x45, .crwr (hp .b32) 0x42, .codepub (hp .b32) .die none 0 0, .fetchsync (hp .b32) .barn none], refused i = true := by decide

/-- A base instruction's parcels agree with its length (R216). -/
theorem test_base_refused : (Instr.baseInstruction 0x13 true).wellFormed = false ∧ (Instr.baseInstruction 0x12 false).wellFormed = false ∧
    (Instr.baseInstruction 0x10000 true).wellFormed = false := by decide

/-- Reserved bits, an unassigned code and the reserved element type (R72, R74, R76). -/
theorem test_reserved_words_refused : decodeWord 0x0100000E7FC00001 = none ∧ decodeWord 0xFFC00000FFC00000 = none ∧ decodeWord 0x000F00027FC00000 = none ∧
    decodeWord 0x0100000E7FC00000 ≠ none := by decide

/-! Firings: a small state with one set in focus. -/

/-- A plain token. -/
def tk (d : Word) : Tok := { tag := 0, dep := 0, data := d, ty := .b32 }

/-- A node of a bay. -/
def node : Site := ⟨.bay 0 0, 0x40, 0⟩

/-- A set of three tokens at that node. -/
def set3 (a b c : Word) : Firing :=
  { site := node, word := 0, tag := 0, dep := 0, a := some (tk a), b := some (tk b), c := some (tk c) }

/-- The reset state with a set in focus. -/
def at_ (f : Firing) : State := { State.reset with cur := some f }

/-- A header without predicate match and with one target. -/
def h1 (ty : Ty) : Hdr := ⟨.always, ty, some ⟨1, .a⟩, none⟩

/-- The data and the marks that an instruction sends, in order. -/
def sent (i : Instr) (s : State) : List (Word × Bool × Bool) :=
  match exec i s with
  | .next t => t.fab.flights.map fun x => (x.tok.data, x.tok.nul, x.tok.eos)
  | _ => []

/-- The flags of lane 0 to 3 of context slot 0 after an instruction, and the data that it sends. -/
def gives (i : Instr) (a b c : Word) : List Word × Nat :=
  match exec i (at_ (set3 a b c)) with
  | .next t => (t.fab.flights.map fun x => x.tok.data, (t.reg (.flagLo 0)).toNat)
  | _ => ([], 0)

/-- The trap codes that an instruction raises. -/
def traps (i : Instr) (s : State) : List Nat :=
  match exec i s with
  | .next t => t.traps.map Trap.tcode
  | _ => []

/-! Integer arithmetic: R87 to R90, by hand. -/

theorem test_add_lanes_saturate : gives (.add (h1 .i8x4) true) 0x7F80017F 0x01FF0102 0 = ([0x7F80027F], 0x20200020) := by decide
theorem test_add_wraps : gives (.add (h1 .i32) false) 0x7FFFFFFF 1 0 = ([0x80000000], 0) := by decide
theorem test_sub_unsigned_saturates : gives (.sub (h1 .n32) true) 3 5 0 = ([0], 0x20) := by decide
theorem test_mul_lanes : gives (.mul (h1 .i16x2) false) 0x0003FFFF 0x4000FFFF 0 = ([0xC0000001], 0) := by decide
theorem test_mulh_signed : gives (.mulh (h1 .i32)) 0xFFFFFFFF 2 0 = ([0xFFFFFFFF], 0) := by decide
theorem test_mad_exact : gives (.mad (h1 .n32) true) 0x10000 0x10000 1 = ([0xFFFFFFFF], 0x20) := by decide
theorem test_neg_saturates : gives (.neg (h1 .i32) true) 0x80000000 0 0 = ([0x7FFFFFFF], 0x20) := by decide
theorem test_abs_wraps : gives (.abs (h1 .i32) false) 0x80000000 0 0 = ([0x80000000], 0) := by decide
theorem test_min_signed : gives (.min (h1 .i8x4)) 0x80017F00 0x7F02807F 0 = ([0x80018000], 0) := by decide
theorem test_max_unsigned : gives (.max (h1 .n8x4)) 0x80017F00 0x7F02807F 0 = ([0x8002807F], 0) := by decide
theorem test_addi_negative : gives (.addi (h1 .i32) false 0x3FFFFF) 5 0 0 = ([4], 0) := by decide
theorem test_muli_unsigned_saturates : gives (.muli (h1 .n32) true 0x3FFFFF) 5 0 0 = ([0], 0x20) := by decide
theorem test_lea : gives (.lea (h1 .n32) 0x7FFFF 3) 0x100 2 0 = ([0x10F], 0) := by decide
theorem test_cidx2 : gives (.cidx2 (h1 .n32) false 10) 7 3 0 = ([73], 0) := by decide
theorem test_cidx3 : gives (.cidx3 (h1 .n32) false 5 4) 2 3 1 = ([53], 0) := by decide
theorem test_dot4 : gives (.dot4 (h1 .i8x4) false) 0x01020304 0xFF010101 100 = ([108], 0) := by decide
theorem test_div_truncates : gives (.div (h1 .i32) false) 0xFFFFFFF9 2 0 = ([0xFFFFFFFD], 0) := by decide
theorem test_div_by_zero : gives (.div (h1 .i32) false) 7 0 0 = ([0xFFFFFFFF], 8) := by decide
theorem test_rem_sign : gives (.rem (h1 .i32)) 0xFFFFFFF9 2 0 = ([0xFFFFFFFF], 0) := by decide
theorem test_absd : gives (.absd (h1 .i32)) 0x80000000 0x7FFFFFFF 0 = ([0xFFFFFFFF], 0) := by decide

/-! Logic, shifts and fields: R92 to R94. -/

theorem test_andn : gives (.andn (h1 .b32)) 0xFF00FF00 0x0FF00FF0 0 = ([0xF000F000], 0) := by decide
theorem test_not : gives (.not (h1 .b32)) 0xFF00FF00 0 0 = ([0x00FF00FF], 0) := by decide
theorem test_shl_width : gives (.shl (h1 .i8x4)) 0x81818181 0x08070100 0 = ([0x00800281], 0) := by decide
theorem test_sra_sign : gives (.sra (h1 .n32)) 0x80000010 4 0 = ([0xF8000001], 0) := by decide
theorem test_shr_lanes : gives (.shr (h1 .n16x2)) 0x80018001 0x00010010 0 = ([0x40000000], 0) := by decide
theorem test_rol_lanes : gives (.rol (h1 .n8x4)) 0x81818181 0x09080100 0 = ([0x03810381], 0) := by decide
theorem test_ror : gives (.ror (h1 .b32)) 1 1 0 = ([0x80000000], 0) := by decide
theorem test_srai : gives (.srai (h1 .i8x4) 7) 0x807F80FF 0 0 = ([0xFF00FFFF], 0) := by decide
theorem test_bfx_sign : gives (.bfx (h1 .i32) 3 4) 0x80 0 0 = ([0xFFFFFFF8], 0) := by decide
theorem test_bfi : gives (.bfi (h1 .b32) 7 8) 0xFFFFFFFF 0x12 0 = ([0xFFFF12FF], 0) := by decide
theorem test_counts : gives (.popc (h1 .b32)) 0xF00F 0 0 = ([8], 0) ∧ gives (.clz (h1 .b32)) 0 0 0 = ([32], 0) ∧
    gives (.ctz (h1 .b32)) 0x80000000 0 0 = ([31], 0) ∧ gives (.brev (h1 .b32)) 0x00000003 0 0 = ([0xC0000000], 0) := by decide

/-! Predicates: R96, R98, R99. -/

theorem test_cmplt_signed : gives (.cmplt (h1 .i32) true 0x1FFFFF) 0xFFFFFFFE 0 0 = ([1], 0) ∧
    gives (.cmplt (h1 .n32) true 0x1FFFFF) 0xFFFFFFFE 0 0 = ([0], 0) := by decide
theorem test_select : gives (.select (h1 .b32)) 5 6 0 = ([6], 0) := by decide
theorem test_testz_any : gives (.testz (h1 .b32) true 0) 0x80000000 0 0 = ([0], 0) := by decide
theorem test_const : gives (.const (h1 .f32) 0x0FF000) 0 0 0 = ([0x3FC00000], 0) ∧
    gives (.const (h1 .i32) 0x3FFFFF) 0 0 0 = ([0xFFFFFFFF], 0) ∧ gives (.const (h1 .i8x4) 0x81) 0 0 0 = ([0x81818181], 0) := by decide
theorem test_gate_closed : sent (.gate (h1 .b32)) (at_ (set3 7 0 0)) = [(0, true, false)] := by decide
theorem test_switch_false : sent (.switch ⟨.always, .b32, some ⟨1, .a⟩, some ⟨2, .a⟩⟩) (at_ (set3 7 0 0)) = [(7, false, false)] := by decide
theorem test_predicate_refuses :
    sent (.add ⟨.whenTrue, .i32, some ⟨1, .a⟩, none⟩ false) (at_ { set3 7 0 0 with p := some (tk 0) }) = [] := by decide
theorem test_null_passes : sent (.add (h1 .i32) false) (at_ { set3 7 0 0 with b := some { tk 0 with nul := true } }) = [(0, true, false)] := by
  decide
theorem test_mixed_set_traps :
    traps (.add (h1 .i32) false) (at_ { set3 7 0 0 with b := some { tk 0 with eos := true } }) = [tcStreamLen] := by decide

/-! Tags: R102, R105 to R107. -/

theorem test_enter_pushes :
    (match exec (.enter (h1 .b32) 5 true 7) (at_ { set3 9 0 0 with tag := 3, dep := 2 }) with
      | .next t => t.fab.flights.map fun x => (tagNest x.tok.tag, x.tok.dep)
      | _ => []) = [(29, 5)] := by decide
theorem test_enter_range : traps (.enter (h1 .b32) 0 false 7) (at_ (set3 9 8 0)) = [tcTagRange] := by decide
theorem test_leave_empty : traps (.leave (h1 .b32) 7) (at_ (set3 9 0 0)) = [tcTagDepth] := by decide
theorem test_tagwr_slice :
    (match exec (.tagwr (h1 .b32) 3 4) (at_ { set3 9 0xA 0 with tag := 0xFF, dep := 8 }) with
      | .next t => t.fab.flights.map fun x => tagNest x.tok.tag
      | _ => []) = [0xAF] := by decide

/-! Floating point: the examples of R46, R48 and R119, and hand calculation. -/

theorem test_fadd_saturates : gives (.fadd (h1 .e4m3x4) true .rne) 0x00007F7E 0x0000387E 0 = ([0x00007F7E], 0x1025) := by decide
theorem test_fadd_overflows : gives (.fadd (h1 .e4m3x4) false .rne) 0x00007F7E 0x0000387E 0 = ([0x00007F7F], 0x1005) := by decide
theorem test_fadd_cancels : gives (.fadd (h1 .f32) false .rd) 0x3F800000 0xBF800000 0 = ([0x80000000], 0) := by decide
theorem test_fmul : gives (.fmul (h1 .f32) false .rne) 0x40000000 0xC0400000 0 = ([0xC0C00000], 0) := by decide
theorem test_ffma_once : gives (.ffma (h1 .f32) false .rne) 0x3F800001 0x3F800001 0xBF800002 = ([0x28800000], 0) := by decide
theorem test_fmin_nan : gives (.fmin (h1 .f32)) 0x7F800001 0 0 = ([0x7FC00000], 0x10) := by decide
theorem test_fneg : gives (.fneg (h1 .f16x2)) 0x80003C00 0 0 = ([0x0000BC00], 0) := by decide
theorem test_fcmplt_lane : gives (.fcmplt (h1 .f16x2) 1) 0x3C000000 0x40000000 0 = ([1], 0) := by decide
theorem test_fcmpun_flags : gives (.fcmpun (h1 .f16x2) 1) 0x7E000000 0 0 = ([1], 0x1000) := by decide
theorem test_fcvt_ties : gives (.fcvt (h1 .e4m3x4) false false .rne 0 0 2) 0x40580000 0 0 = ([0x46], 1) ∧
    gives (.fcvt (h1 .e4m3x4) false false .rz 0 0 2) 0xC0580000 0 0 = ([0xC5], 1) ∧
    gives (.fcvt (h1 .e4m3x4) false false .rna 0 0 2) 0x3A800000 0 0 = ([1], 3) := by decide
theorem test_fcvtp_packs : gives (.fcvtp (h1 .e4m3x4) true .rne 3) 0x7E006000 0x80001A00 0 = ([0x80027F7E], 0x00031025) := by decide
theorem test_fcvtx_inserts : gives (.fcvtx (h1 .f16x2) false .rne 1 0 2) 0x3F800000 0x12345678 0 = ([0x3C005678], 0) := by decide
theorem test_frnd_negative : gives (.frnd (h1 .f32) .ru) 0xBF000000 0 0 = ([0x80000000], 0) := by decide
theorem test_fldexp : gives (.fldexp (h1 .f32) false .rne false) 0x3F800000 0xFFFFFF6B 0 = ([1], 0) := by decide
theorem test_fgetexp_subnormal : gives (.fgetexp (h1 .f32)) 1 0 0 = ([0xFFFFFF6B], 0) := by decide
theorem test_fsqrt : gives (.fsqrt (h1 .f32) .rne) 0x40800000 0 0 = ([0x40000000], 0) := by decide
theorem test_frcp_zero : gives (.frcp (h1 .f32)) 0x80000000 0 0 = ([0xFF800000], 8) := by decide
theorem test_flog2_negative : gives (.flog2 (h1 .f32)) 0xBF800000 0 0 = ([0x7FC00000], 0x10) := by decide

/-! Witnesses: states and operands that meet the hypotheses of each statement, at boundary values where its clauses meet. -/

/-- What `Runs` asks of a set, its focus apart. -/
def runsOk (f : Firing) (h : Hdr) (clean : List Slot) : Bool :=
  (f.a.isSome || f.b.isSome || f.c.isSome) && (f.toks.all fun x => !x.2.nul && !x.2.eos && !x.2.rol) &&
    ((if h.pm ≠ .always then Slot.p :: clean else clean).all fun sl => !((f.tok? sl).map Tok.poi).getD false) &&
    executes h.pm f.pred

theorem runs_of {s : State} {f : Firing} {h : Hdr} {cl : List Slot} (hc : s.cur = some f) (hb : runsOk f h cl = true) :
    Runs s f h cl := by
  simp only [runsOk, Bool.and_eq_true, Bool.or_eq_true, List.all_eq_true, Bool.not_eq_true'] at hb
  obtain ⟨⟨⟨h1, h2⟩, h3⟩, h4⟩ := hb
  exact ⟨hc, by tauto, fun x hx => by simpa [and_assoc] using h2 x hx, h3, h4⟩

/-- A set of zeros that executes, in any state. -/
def zeros : Firing := set3 0 0 0

/-- A state with one loaded block at bay frame 0 of BARN.0. -/
def block (h : Holder) (hdr : Nat) (words : List DWord) : Loaded :=
  { holder := h, k := 0, v := 0, blk := 0x40, hdr := BitVec.ofNat 128 hdr, words := words, exits := [], kinds := [], qcfg := [],
    codegen := 0, st := .serving, since := 0 }

/-- The reset state with a set in focus and a fabric. -/
def at_fab (f : Firing) (g : Fabric) : State := { State.reset with cur := some f, fab := g }

theorem witness_IntegerResults :
    Runs (at_ (set3 7 2 1)) (set3 7 2 1) (h1 .i32) [] ∧ laneOf (set3 7 2 1) (h1 .i32) .b 0 ≠ 0 ∧
    Runs (at_ (set3 7 0 1)) (set3 7 0 1) (h1 .i32) [] ∧ laneOf (set3 7 0 1) (h1 .i32) .b 0 = 0 :=
  ⟨runs_of rfl (by decide), by decide, runs_of rfl (by decide), by decide⟩

theorem witness_LogicAndBitFields : Runs (at_ zeros) zeros (h1 .b32) [] ∧ (31 : BitVec 5).toNat + (0 : BitVec 5).toNat < 32 ∧
    (0 : BitVec 5).toNat + (31 : BitVec 5).toNat < 32 := ⟨runs_of rfl (by decide), by decide⟩

theorem witness_ComparesAndPredicates : Runs (at_ zeros) zeros (h1 .i32) [.a, .b, .c] := runs_of rfl (by decide)

theorem witness_Steering : Runs (at_ (set3 0 1 0)) (set3 0 1 0) (h1 .b32) [.b] ∧ ((set3 0 1 0).data .b).getLsbD 0 = true ∧
    Runs (at_ zeros) zeros (h1 .b32) [.b] ∧ (zeros.data .b).getLsbD 0 = false ∧
    Runs (at_ { zeros with b := none }) { zeros with b := none } (h1 .b32) [] ∧
    Runs (at_ { zeros with a := none }) { zeros with a := none } (h1 .b32) [] :=
  ⟨runs_of rfl (by decide), by decide, runs_of rfl (by decide), by decide, runs_of rfl (by decide), runs_of rfl (by decide)⟩

/-- A space instance of the block of `node`. -/
def space (tag : DWord) (dep bits : Nat) : Space := { holder := .bay 0 0, blk := 0x40, tag := tag, dep := dep, bits := bits }

/-- ALLOC: a first index with no instance, at 44 bits of depth; a full instance; no room for a 33rd instance. FREE: an allocated index;
an empty stack; no instance; an index that is free. -/
theorem witness_TagSpaces :
    (let f := { zeros with dep := 43 }
     Runs (at_ f) f (h1 .b32) [] ∧ f.dep + spaceWidth ((at_ f).spaceSize f) = 44 ∧ (at_ f).spaceCount f.site.holder < 32) ∧
    (let s := at_fab zeros { blocks := [block (.bay 0 0) (3 * 2 ^ 73) []], spaces := [space 0 0 7] }
     Runs s zeros (h1 .b32) [] ∧ s.spaceSize zeros = 4 ∧ (∀ i < 3, (7 : Nat).testBit i = true) ∧ (7 : Nat).testBit 3 = false ∧
       (s.space? zeros.site.holder zeros.site.blk 0 0).map Space.bits = some 7) ∧
    (let s := at_fab zeros { spaces := [space 0 0 1] }
     Runs s zeros (h1 .b32) [] ∧ s.spaceSize zeros = 1 ∧ (s.space? zeros.site.holder zeros.site.blk 0 0).map Space.bits = some 1) ∧
    (let s := at_fab zeros { spaces := (upto 32).map fun n => space 0 (n + 1) 1 }
     Runs s zeros (h1 .b32) [] ∧ s.space? zeros.site.holder zeros.site.blk 0 0 = none ∧ s.spaceCount zeros.site.holder = 32) ∧
    (let f := { zeros with dep := 1 }
     let s := at_fab f { spaces := [space 0 0 1] }
     Runs s f (h1 .b32) [] ∧ s.space? f.site.holder f.site.blk 0 0 = some (space 0 0 1) ∧ spaceWidth (s.spaceSize f) = 1) ∧
    (let f := { zeros with dep := 1 }
     Runs (at_ f) f (h1 .b32) [] ∧ (at_ f).space? f.site.holder f.site.blk 0 0 = none) ∧
    (let f := { zeros with dep := 1 }
     let s := at_fab f { spaces := [space 0 0 0] }
     Runs s f (h1 .b32) [] ∧ s.space? f.site.holder f.site.blk 0 0 = some (space 0 0 0)) ∧
    (Runs (at_ zeros) zeros (h1 .b32) [.b] ∧ zeros.dep < spaceWidth ((at_ zeros).spaceSize zeros)) ∧
    (∀ by_ ∈ [1, 2], let x := { space 0 0 3 with taking := 12, takenBy := by_ }
     let s := at_fab zeros { blocks := [block (.bay 0 0) (3 * 2 ^ 73) []], spaces := [x] }
     s.space? zeros.site.holder zeros.site.blk 0 0 = some x ∧ (∀ j < 4, (3 ||| 12 : Nat).testBit j = true) ∧ (3 : Nat).testBit 2 = false ∧
       (x.takenBy ≤ wordIndex zeros.site + 1 ↔ by_ = 1) ∧ x ∈ s.fab.spaces ∧ x.taking ≠ 0) := by
  have r (f : Firing) (g : Fabric) (cl : List Slot) (h : runsOk f (h1 .b32) cl = true) : Runs (at_fab f g) f (h1 .b32) cl := runs_of rfl h
  refine ⟨⟨r _ {} _ (by decide), by decide⟩, ⟨r _ _ _ (by decide), by decide +kernel⟩, ⟨r _ _ _ (by decide), by decide⟩, ?_⟩
  refine ⟨⟨r _ _ _ (by decide), by decide⟩, ⟨r _ _ _ (by decide), by decide⟩, ⟨r _ {} _ (by decide), by decide⟩, ?_⟩
  exact ⟨⟨r _ _ _ (by decide), by decide⟩, ⟨r _ {} _ (by decide), by decide⟩, by decide +kernel⟩

/-- An ENTER that feeds a stream, whose window is full at index 64 while index 0 is at its node. -/
def streaming : State :=
  at_fab (set3 0 64 0)
    { blocks := [block (.bay 0 0) 0 [0x408E00027FC0007F, 0xA10000FFFFC00006]],
      sets := [{ site := node, tag := 0, dep := 7, place := .table 0, opened := 0, since := 0 }] }

theorem witness_TagFields :
    (let f := { set3 0 7 0 with dep := 41 }
     Runs (at_ f) f (h1 .b32) [.b] ∧ (f.data .b).toNat = 7 ∧ (at_ f).feedsStream f.site = false ∧ f.dep + spaceWidth 8 = 44) ∧
    Runs (at_ (set3 0 8 0)) (set3 0 8 0) (h1 .b32) [.b] ∧ ((set3 0 8 0).data .b).toNat = 8 ∧
    (let f := { set3 0 7 0 with dep := 42 }
     Runs (at_ f) f (h1 .b32) [.b] ∧ f.dep + spaceWidth 8 = 45) ∧
    (Runs streaming (set3 0 64 0) (h1 .b32) [.b] ∧ streaming.feedsStream node = true ∧ streaming.windowFull node 0 0 7 64 = true) ∧
    (let f := { zeros with dep := 3 }
     Runs (at_ f) f (h1 .b32) [.b] ∧ spaceWidth ((7 : BitVec 8).toNat + 1) = f.dep) ∧
    (let f := { zeros with dep := 2 }
     Runs (at_ f) f (h1 .b32) [.b] ∧ f.dep < spaceWidth ((7 : BitVec 8).toNat + 1)) ∧
    (40 : BitVec 6).toNat + (3 : BitVec 4).toNat < 44 ∧ (40 : BitVec 6).toNat + (3 : BitVec 4).toNat + 1 ≤ 44 ∧
    43 < (40 : BitVec 6).toNat + (3 : BitVec 4).toNat + 1 := by
  have r (f : Firing) (g : Fabric) (h : runsOk f (h1 .b32) [.b] = true) : Runs (at_fab f g) f (h1 .b32) [.b] := runs_of rfl h
  refine ⟨⟨r _ {} (by decide), by decide +kernel⟩, r _ {} (by decide), by decide, ⟨r _ {} (by decide), by decide⟩, ?_⟩
  exact ⟨⟨r _ _ (by decide), by decide⟩, ⟨r _ {} (by decide), by decide⟩, ⟨r _ {} (by decide), by decide⟩, by decide +kernel⟩

theorem witness_FloatArithmetic : Runs (at_ zeros) zeros (h1 .f32) [] ∧ Ty.f32.isFloat = true ∧
    (valOf (set3 0x7FC00000 0 0) .f32 .a 0).isNaN = true ∧ (valOf zeros .f32 .a 0).isNaN = false :=
  ⟨runs_of rfl (by decide), rfl, by decide⟩

/-- The exponents of 2 to the minus 149, 1 and the specials; source and destination lanes of 1, 2 and 8; a converter in a tile. -/
theorem witness_FloatConversions :
    Runs (at_ zeros) zeros (h1 .e4m3x4) [] ∧ Ty.ofBits 2 = some .f32 ∧ Ty.f32.lanes ≤ Ty.e4m3x4.lanes ∧ Ty.ofBits 9 = some .i4x8 ∧
    Ty.f32.lanes < Ty.i4x8.lanes ∧ Ty.f32.isFloat = true ∧
    valOf (set3 0x7FC00000 0 0) .f32 .a 0 = .nan ∧ valOf (set3 0xFF800000 0 0) .f32 .a 0 = .inf true ∧
    (∃ m e, valOf (set3 1 0 0) .f32 .a 0 = .fin false m e false ∧ m ≠ 0) ∧ (∃ e, valOf zeros .f32 .a 0 = .fin false 0 e false) ∧
    Fmt.f32.value ((set3 0 0x7F800001 0).data .b).toNat = .nan ∧
    (let s := at_fab { zeros with site := ⟨.tile 0 0, 0x40, 0⟩ } { blocks := [block (.tile 0 0) 0 [0, 0x6002000000000002]] }
     Runs s { zeros with site := ⟨.tile 0 0, 0x40, 0⟩ } (h1 .b32) [] ∧ s.reconfigurable ⟨.tile 0 0, 0x40, 1⟩ = true ∧
       s.reconfigurable ⟨.tile 0 0, 0x40, 0⟩ = false ∧
       ∀ n < 2, (some (⟨BitVec.ofNat 7 n, .a⟩ : Target)).bind (s.confTarget ⟨.tile 0 0, 0x40, 0⟩) = some ⟨.tile 0 0, 0x40, n⟩) ∧
    node.holder.temporal = false ∧ (none : Option Target).bind ((at_ zeros).confTarget node) = none ∧
    (at_ zeros).confTarget { node with idx := 128 } ⟨0x40, .b⟩ = some { node with idx := 128 } := by
  refine ⟨runs_of rfl (by decide), by decide, by decide, by decide, by decide, rfl, ?_⟩
  exact ⟨by decide, by decide, ⟨1, -149, by decide⟩, ⟨-149, by decide⟩, by decide, ⟨runs_of rfl (by decide), by decide⟩, by decide +kernel⟩

theorem witness_SpecialFunctions : Runs (at_ zeros) zeros (h1 .f32) [] ∧ (valOf zeros .f32 .a 0).isZero = true ∧
    valOf (set3 0x7F800000 0 0) .f32 .a 0 = .inf false ∧ valOf (set3 0xFF800000 0 0) .f32 .a 0 = .inf true ∧
    valOf (set3 0xFFC00000 0 0) .f32 .a 0 = .nan ∧
    (∃ m e, valOf (set3 0x80000001 0 0) .f32 .a 0 = .fin true m e false ∧ m ≠ 0) :=
  ⟨runs_of rfl (by decide), by decide, by decide, by decide, by decide, 1, -149, by decide⟩

theorem witness_FloatRounding : (6 % 2 ^ 2 ≠ 0 ∧ 2 * (6 % 2 ^ 2) = 2 ^ 2) ∧ 2 * (5 % 2 ^ 2) < 2 ^ 2 ∧ 2 ^ 2 < 2 * (7 % 2 ^ 2) ∧
    4 % 2 ^ 2 = 0 ∧ 0x3F800000 < 2 ^ Fmt.f32.bits ∧ Fmt.f32.value 0x3F800000 ≠ .nan ∧ (∀ g, Fmt.f32.value 0x3F800000 ≠ .inf g) ∧
    Fmt.f32.value 0x7F800000 = .inf false :=
  by decide +kernel

/-! Memory. -/

/-- A kernel instance of slot 0, placed in BARN.0, whose KBASE.1 is the scratch window. -/
def inst0 : Inst :=
  { k := 0, v := 0, recAt := 0x1000, recBytes := recZero 256, kbase := [0, 0xFFFFF0000000000], desc := [], graph := false, entry := 0x40,
    nblk := 1, base := 0, blkoff := 0x40, blklen := 0x400, seq := 0, placed := some 0, barns := [0] }

theorem allowed_paged {s : State} {f : Firing} {at_ : Bool} {va : Nat} (h : windowOf va = .paged) : Allowed s f at_ va := by
  simp [Allowed, AllowedFor, h]

/-- The reset state with a set in focus and that instance. -/
def inKernel (f : Firing) (g : Fabric) : State := { at_fab f g with insts := [inst0] }

/-- A block that is idempotent. -/
def idemBlock : Loaded := block (.bay 0 0) (2 ^ 69) []

/-- An invocation of the block of `node`. -/
def invoc0 : Invoc := { holder := .bay 0 0, blk := 0x40, k := 0, v := 0, tag := 0, dep := 0, vals := [], taken := 0 }

/-- A store-buffer entry of the invocation with a DEP. -/
def sbufEntry (dep n : Nat) : SbufEntry := { holder := .bay 0 0, blk := 0x40, tag := 0, dep := dep, acc := some n }

theorem witness_FlatMemory :
    (let s := inKernel (set3 0x100 0 0) {}
     Runs s (set3 0x100 0 0) (h1 .b32) [] ∧ Allowed s (set3 0x100 0 0) false (flatVa s (set3 0x100 0 0) 0 0) ∧ s.idem (set3 0x100 0 0) = false) ∧
    (let s := inKernel zeros {}
     flatVa s zeros 0 0x1FF = 2 ^ 64 - 1 ∧ flatVa s zeros 1 0 = 0xFFFFF0000000000 ∧ flatVa s zeros 1 0 < 2 ^ 60 ∧
       windowOf (flatVa s zeros 1 0) ≠ .paged ∧ (s.windowPlace 0 (flatVa s zeros 1 0)).isNone = true) ∧
    (let f := { zeros with a := some { tk 0 with poi := true } }
     Runs (inKernel f {}) f (h1 .b32) [] ∧ poisonIn f .a = true) ∧
    (let s := inKernel zeros { blocks := [idemBlock], invocs := [invoc0] }
     s.idem zeros = true ∧ s.sbufRoom zeros = .free) ∧
    (let s := inKernel zeros { blocks := [idemBlock], invocs := [invoc0], sbuf := List.replicate 512 (sbufEntry 1 0) }
     s.idem zeros = true ∧ s.sbufRoom zeros = .wait) ∧
    (let s := inKernel zeros { blocks := [idemBlock], invocs := [invoc0], sbuf := List.replicate 512 (sbufEntry 0 0) }
     s.idem zeros = true ∧ s.sbufRoom zeros = .overflow 512) ∧ (8 : Nat) ≤ 8 ∧ 0xFFFFFFFFFFFFFFFF < 2 ^ (8 * 8) :=
  ⟨⟨runs_of rfl (by decide), allowed_paged (by decide), by decide⟩, by decide, ⟨runs_of rfl (by decide), by decide⟩, by decide +kernel⟩

/-- Slot 0 with one 64 KiB unit in slice 0. -/
def withUnit (s : State) : State := s.setReg (.spadAlloc 0 0) 0x100

theorem witness_ScratchAndAtomics :
    (let s := withUnit (inKernel (set3 0xFFF8 0 0) {})
     Runs s (set3 0xFFF8 0 0) (h1 .b32) [] ∧ poisonIn (set3 0xFFF8 0 0) .a = false ∧ ScratchAt s (set3 0xFFF8 0 0) 0 8 0xFFF8 ∧
       ScratchAt s (set3 0xFFF8 0 0) 4 4 0xFFFC ∧ ScratchAt s (set3 0xFFF8 0 0) 7 1 0xFFFF ∧
       0xFFFA % 4 ≠ 0 ∧ 0x10000 % 8 = 0 ∧ (s.scratchPlace 0 0x10000).isNone = true) ∧
    (let s := withUnit (inKernel (set3 0x108 16 0) {})
     let f := set3 0x108 16 0
     Runs s f (h1 .b32) [] ∧ Allowed s f true (flatVa s f 0 0) ∧ flatVa s f 0 0 % 8 = 0 ∧ flatVa s f 0 4 % 8 ≠ 0 ∧ flatVa s f 0 4 % 4 = 0 ∧
       flatVa s f 0 2 % 4 ≠ 0 ∧ Allowed s f true (flatVa s f 0 2) ∧ poisonIn f .b = false ∧ poisonIn f .c = false ∧
       (s.scratchPlace f.k 16).isSome = true) ∧
    (let f := { zeros with b := some { tk 0 with poi := true } }
     Runs (inKernel f {}) f (h1 .b32) [] ∧ poisonIn f .b = true ∧ flatVa (inKernel f {}) f 0 0 % 8 = 0) :=
  ⟨⟨runs_of rfl (by decide), by decide, by unfold ScratchAt; decide, by unfold ScratchAt; decide, by unfold ScratchAt; decide, by decide +kernel⟩, ⟨runs_of rfl (by decide), allowed_paged (by decide), by decide, by decide, by decide, by decide, allowed_paged (by decide), by decide +kernel⟩,
    ⟨runs_of rfl (by decide), by decide⟩⟩

/-- An access of `zeros` with one placed piece of 4 bytes. -/
def acc0 (kind : AccKind) (area : Area) (st : Store) : Access :=
  { zeros.access kind .b32 .pkg with area := area, pieces := [{ addr := 0x40, size := 4, mask := 0xFFFFFFFF, data := 5, place := some (st, 0x40) }] }

def piece0 (st : Store) : Piece := { addr := 0x40, size := 4, mask := 0xFFFFFFFF, data := 5, place := some (st, 0x40) }

/-- The reset state with one access. -/
def withAcc (a : Access) : State := { State.reset with fab := { accs := [a] } }

theorem witness_MemoryPerforms :
    (CanPerform (withAcc (acc0 .write .flat .dev)) (acc0 .write .flat .dev) (piece0 .dev) .dev 0x40 ∧
      DistinctIds (withAcc (acc0 .write .flat .dev)) ∧ (acc0 .write .flat .dev).operand = false) ∧
    (CanPerform (withAcc (acc0 .read .flat .host)) (acc0 .read .flat .host) (piece0 .host) .host 0x40 ∧
      (withAcc (acc0 .read .flat .host)).idemInvoc? (acc0 .read .flat .host).origin = none) ∧
    CanPerform (withAcc (acc0 (.atomic .cas .b32) .flat .dev)) (acc0 (.atomic .cas .b32) .flat .dev) (piece0 .dev) .dev 0x40 :=
  ⟨⟨by constructor <;> decide, by simp [DistinctIds, withAcc], by decide⟩, ⟨by constructor <;> decide, by decide⟩, by constructor <;> decide⟩

/-- A load with .wf, .clr or .nb, or another presence access, of granule 4, which is empty, or full under `withFull`. -/
def loadWf (wf clr nb : Bool) : Access := { acc0 .read .scratch .scr with wf := wf, clr := clr, nb := nb }

def onceStore : Access := { acc0 .write .scratch .scr with once := true }

def withFull (s : State) : State := { s with pres := [4] }

theorem witness_PresenceBits :
    (CanPerform (withAcc onceStore) onceStore (piece0 .scr) .scr 0x40 ∧ (withAcc onceStore).full 4 = false ∧
      CanPerform (withFull (withAcc onceStore)) onceStore (piece0 .scr) .scr 0x40 ∧ (withFull (withAcc onceStore)).full 4 = true) ∧
    (CanPerform (withAcc (loadWf true true false)) (loadWf true true false) (piece0 .scr) .scr 0x40 ∧
      CanPerform (withFull (withAcc (loadWf true true false))) (loadWf true true false) (piece0 .scr) .scr 0x40) ∧
    CanPerform (withAcc (loadWf false false true)) (loadWf false false true) (piece0 .scr) .scr 0x40 ∧
    (∀ x ∈ [(true, false, false, false), (true, false, true, false), (false, true, false, false), (false, false, false, true)],
      let a := acc0 (.presence x.1 x.2.1 x.2.2.1 x.2.2.2) .scratch .scr
      ((withAcc a).fab.accs.drop 0).head? = some a ∧ a.operand = false) ∧
    (let a := acc0 (.presence true false true false) .scratch .scr
     CanPerform (withFull (withAcc a)) a (piece0 .scr) .scr 0x40) := by
  refine ⟨⟨?_, by decide, ?_, by decide⟩, ⟨?_, ?_⟩, ?_, by decide, ?_⟩
  all_goals constructor <;> decide

/-- A performed load of LD at `node`, and the same for every instruction named, by their words. -/
def loaded (w : DWord) (kind : AccKind) : Access :=
  { acc0 kind .flat .dev with origin := .firing { zeros with word := w }, pos := 1, done := true }

theorem witness_ResponsesSendTokens :
    ∀ x ∈ [(decodeWord 0x808E60027FFFE000, loaded 0x808E60027FFFE000 .read), (decodeWord 0x818E60FFFFFFE000, loaded 0x818E60FFFFFFE000 .write)],
      ∃ i, x.1 = some i ∧ ((withAcc x.2).fab.accs.drop (withAcc x.2).arg.n).head? = some x.2 ∧
        x.2.origin = .firing { zeros with word := if x.2.kind = .read then 0x808E60027FFFE000 else 0x818E60FFFFFFE000 } ∧
        (withAcc x.2).live x.2.k .ports = true ∧ (withAcc x.2).performed x.2 = true ∧ ((withAcc x.2).sbufOf x.2.id).isSome = false ∧
        (withAcc x.2).runs x.2.k node.holder = true := by
  intro x hx
  simp only [List.mem_cons, List.not_mem_nil, or_false] at hx
  rcases hx with rfl | rfl
  · exact ⟨.ld ⟨.always, .b32, some ⟨1, .a⟩, none⟩ .pkg false none 0 0, by decide +kernel⟩
  · exact ⟨.st ⟨.always, .b32, none, none⟩ .pkg false none 0 0, by decide +kernel⟩

/-! Tensors and streams. -/

/-- A descriptor of a tensor of eight i32 words at 0x10000, of one of 16-bit pairs, and a shape record of four words. -/
def vecDesc : List Byte := [1, 0] ++ recZero 6 ++ leBytes 8 0x10000 ++ leBytes 4 8 ++ leBytes 4 1 ++ leBytes 4 1 ++ leBytes 4 1 ++ recZero 32

def pairDesc : List Byte := [1, 0xB] ++ recZero 6 ++ leBytes 8 0x10000 ++ leBytes 4 8 ++ leBytes 4 1 ++ leBytes 4 1 ++ leBytes 4 1 ++ recZero 32

def rowShape : List Byte := [2, 0] ++ recZero 14 ++ leBytes 4 4 ++ leBytes 4 1 ++ leBytes 4 1 ++ leBytes 4 1 ++ recZero 32

/-- The state of `inKernel` with these entries. -/
def inTensors (f : Firing) (g : Fabric) : State := { at_fab f g with insts := [{ inst0 with desc := [vecDesc, rowShape, pairDesc] }] }

def vec : Tensor := { ty := .i32, base := 0x10000, ext := [8, 1, 1, 1], str := [0, 0, 0], ttab := 0 }

def win : Win := { t := vec, b := vecDesc, orig := [2, 0, 0, 0], shape := [4, 1, 1, 1] }

theorem witness_TensorsAndStreamStarts :
    (let s := inTensors (set3 7 0 0) {}
     Runs s (set3 7 0 0) (h1 .b32) [] ∧ poisonIn (set3 7 0 0) .a = false ∧ tensorOf (s.descEntry 0 0 0) = some vec ∧
       7 % 8 % Ty.i32.lanes = 0 ∧ Allowed s (set3 7 0 0) false (vec.va [7, 0, 0, 0]) ∧ tensorOf (s.descEntry 0 0 1) = none ∧
       (tensorOf (s.descEntry 0 0 2)).map (fun t => 7 % 8 % t.ty.lanes) = some 1) ∧
    (let f := { set3 2 2 0 with dep := 41 }
     let s := inTensors f {}
     Runs s f (h1 .b32) [.a] ∧ s.window 0 0 0 1 2 3 = .win win ∧ f.dep + 3 = 44 ∧ s.stream? f.site f.tag f.dep = none ∧
       s.streamCount f.site < 8) ∧
    (let f := { set3 2 0 0 with dep := 42 }
     Runs (inTensors f {}) f (h1 .b32) [.a] ∧ 44 < f.dep + 3) ∧
    (let s := inTensors (set3 2 0 0) {}
     Runs s (set3 2 0 0) (h1 .b32) [.a] ∧ s.window 0 0 0 1 2 2 = .shape 4) ∧
    (let f := { set3 0 2 0 with a := none }
     let s := inTensors f {}
     Runs s f (h1 .b32) [.b] ∧ s.window 0 0 0 1 2 3 = .win win ∧ s.stream? f.site f.tag f.dep = none) :=
  ⟨⟨runs_of rfl (by decide), by decide, by decide, by decide, allowed_paged (by decide), by decide⟩,
    ⟨runs_of rfl (by decide), by decide +kernel⟩, ⟨runs_of rfl (by decide), by decide⟩,
    ⟨runs_of rfl (by decide), by decide⟩, ⟨runs_of rfl (by decide), by decide⟩⟩

/-- A set of a stream with index `j` in a field of 3 bits, and a stream of its parent that is at index 2. -/
def word2 (j : Nat) (a b : Option Tok) : Firing :=
  { site := node, word := 0, tag := BitVec.ofNat 64 j, dep := 3, a := a, b := b }

def stream2 : Stream := { site := node, tag := 0, dep := 0, next := 2, since := 0 }

def eosTok : Tok := { tk 0 with eos := true }

/-- The hypotheses of a turn in a stream: a set in focus at its stream's next index, with no other set at the node. -/
def inTurn (f : Firing) : State := at_fab f { streams := [stream2] }

/-- What `InTurn` asks, its focus apart. -/
def inTurnOk (s : State) (f : Firing) (w : Nat) (sls : List Slot) (eos : Bool) (x : Stream) : Bool :=
  decide (w ≤ f.dep) && decide (x.next = indexOf f w) &&
    !(s.waiting f.site sls (parentOf f w) (f.dep - w) w fun e i => if eos then !e && decide (x.next ≤ i) else e && decide (i ≤ x.next))

theorem inTurn_of {s : State} {f : Firing} {w : Nat} {sls : List Slot} {eos : Bool} {x : Stream} (hc : s.cur = some f) (hk : Known s f w x)
    (hb : inTurnOk s f w sls eos x = true) : InTurn s f w sls eos x := by
  simp only [inTurnOk, Bool.and_eq_true, decide_eq_true_eq, Bool.not_eq_true'] at hb
  exact ⟨hc, hb.1.1, hk, hb.1.2, hb.2⟩

/-- The stream that index 0 of a parent begins. -/
def stream0 : Stream := { site := node, tag := 0, dep := 0, since := 0 }

/-- Sets in their turn: a token, a null token and a marker of one stream, and of two, at index 2, and at index 0 of a stream that is not known
yet; a set that comes too early; room for a scan, at the deepest tag. -/
theorem witness_StreamOrder :
    (let f := word2 2 (some (tk 5)) none
     Runs (inTurn f) f (h1 .i32) [] ∧ f.dep < 4 ∧ (inTurn f).stream? node 0 0 = some stream2 ∧ f.dep = 3) ∧
    (∀ j ∈ [1, 3], runsOk (word2 j (some (tk 5)) none) (h1 .i32) [] = true ∧ indexOf (word2 j none none) 3 = j) ∧
    (let f := word2 1 (some (tk 5)) none
     (at_ f).stream? node 0 0 = none ∧ (at_ f).streamCount node < 8 ∧ 0 < indexOf f 3) ∧
    (∀ x ∈ [(some (tk 5), none, false), (some { tk 0 with nul := true }, none, false), (some eosTok, none, true), (some (tk 1), some (tk 2), false),
        (some eosTok, some eosTok, true), (some eosTok, some (tk 2), true), (some (tk 1), some eosTok, false)],
      let f := word2 2 x.1 x.2.1
      InTurn (inTurn f) f 3 (if x.2.1.isSome then [.a, .b] else [.a]) x.2.2 stream2) ∧
    (let f := word2 0 (some (tk 5)) none
     InTurn (at_ f) f 3 [.a] false stream0 ∧ OnlyA f (tk 5)) ∧
    Ty.i32.isFloat = false ∧ Ty.f32.isFloat = true ∧ 44 - logLanes .i8x4 + logLanes .i8x4 ≤ 44 ∧
    (inTurn (word2 2 none none)).windowFull node 0 0 3 2 = false := by
  refine ⟨⟨runs_of rfl (by decide), by decide +kernel⟩, by decide +kernel, by decide +kernel, ?_, ⟨?_, rfl, rfl, rfl, rfl, rfl⟩, by decide +kernel⟩
  · intro x hx
    refine inTurn_of rfl (.inl (by revert x; decide +kernel)) (by revert x; decide +kernel)
  · exact inTurn_of rfl (.inr (by decide)) (by decide)

/-- Rows of 3 and of 2 tokens end and do not end at index 2; a marker closes rows of 2 and cuts a row of 3. Of RDLY: a row value and the end of
the rows, at the indices that they may have; an element whose row value is there, or not; the end behind the last row. Of RMAX: each comparison. -/
theorem witness_RowStatistics : (2 + 1) % ((2 : BitVec 14).toNat + 1) = 0 ∧ (2 + 1) % ((1 : BitVec 14).toNat + 1) ≠ 0 ∧
    2 % ((1 : BitVec 14).toNat + 1) = 0 ∧ 2 % ((2 : BitVec 14).toNat + 1) ≠ 0 ∧
    (∀ k ∈ [tk 9, eosTok], let f := word2 2 none (some k)
     (inTurn f).cur = some f ∧ 3 ≤ f.dep ∧ Known (inTurn f) f 3 stream2 ∧ indexOf f 3 = 2 ∧ (∀ m, stream2.rowEnd = some m → 2 < m) ∧
       stream2.row ≤ 2 ∧ (∀ y ∈ stream2.rows, y.1 ≠ 2) ∧ ∀ y ∈ stream2.rows, y.1 < 2) ∧
    (∀ m, ({ stream2 with rowEnd := some 3 } : Stream).rowEnd = some m → 2 < m) ∧
    (let x := { stream2 with rows := [(1, tk 9)] }
     let f := word2 2 (some (tk 5)) none
     let s := at_fab f { streams := [x] }
     OnlyA f (tk 5) ∧ Known s f 3 x ∧ x.next = indexOf f 3 ∧ s.waiting f.site [.a] 0 0 3 (fun e c => e && decide (c ≤ 2)) = false ∧
       x.rows.find? (fun y => decide (y.1 = 2 / ((1 : BitVec 14).toNat + 1))) = some (2 / ((1 : BitVec 14).toNat + 1), tk 9) ∧
       ∀ y ∈ x.rows, y.1 ≠ 2 / ((2 : BitVec 14).toNat + 1)) ∧
    (let x := { stream2 with rowEnd := some 1 }
     let f := word2 2 (some eosTok) none
     OnlyA f eosTok ∧ Known (at_fab f { streams := [x] }) f 3 x ∧ x.next = ((1 : BitVec 14).toNat + 1) * 1) ∧
    (Fmt.f32.value 0x7FC00000).isNaN = true ∧ ((Fmt.f32.value 0x3F800000).lt (Val.magnitude (Fmt.f32.value 0xC0000000))) = true ∧
    ((Fmt.f32.value 0x40000000).lt (Val.magnitude (Fmt.f32.value 0x3F800000))) = false ∧
    Runs (at_ zeros) zeros (h1 .f32) [] ∧ (valOf zeros .f32 .a 0).isZero = true ∧
    (∃ e, valOf (set3 0x42000000 0 0) .f32 .a 0 = .fin false 0x800000 e false) := by
  refine ⟨by decide, by decide, by decide, by decide, ?_, fun m h => by cases h; decide,
    ⟨⟨rfl, rfl, rfl, rfl, rfl⟩, .inl (by decide), by decide +kernel⟩, ?_⟩
  · intro k hk
    exact ⟨rfl, Nat.le_refl 3, .inl (by revert k; decide +kernel), by revert k; decide +kernel, nofun, by decide, nofun, nofun⟩
  · exact ⟨⟨⟨rfl, rfl, rfl, rfl, rfl⟩, .inl (by decide), by decide⟩, by decide +kernel, by decide +kernel, by decide +kernel, runs_of rfl (by decide), by decide, -18,
      by decide⟩

/-! Systolic regions. -/

/-- A region of 8 rows and 1 column of slot 0 in BARN.0, with an INT8 image in half 0. -/
def half0 : Machine.Half := { loaded := true, wfmt := 1, bytes := List.replicate 256 1 ++ List.replicate 32 0 }

def region0 : Region := { barn := 0, r := 0, k := 0, v := 0, gen := 3, h := 8, w := 1, row := 0, col := 0, half0 := half0, blk := 0x80 }

/-- Its block: an MMAC with IRES = 1, one row and SW = 6, a WSWAP and an MDRAIN. -/
def systolic : Loaded :=
  { block (.region 0 0) 0 [0xC10700047FC00281, 0xC0CE00FFFFC00000, 0xC14000FFFFC000A0] with blk := 0x80 }

def mmacNode : Site := ⟨.region 0 0, 0x80, 0⟩

/-- A set at a node of that block. -/
def inRegion (f : Firing) (x : Region) : State := at_fab f { regions := [x], blocks := [systolic] }

/-- The handle of that region. -/
def handle0 : Word := 0x30000

theorem witness_MatrixRegions :
    (let s := at_ zeros
     Runs s zeros (h1 .b32) [] ∧ zeros.site.holder.barn? = some 0 ∧ s.belLoad = none ∧ s.rectFree 0 32 32 0 0 = true ∧ s.region? 0 0 = none) ∧
    (let s := at_fab zeros { regions := [{ region0 with h := 32, w := 32 }] }
     Runs s zeros (h1 .b32) [] ∧ ∀ r < 32, ∀ c < 32, s.rectFree 0 1 1 r c = false) ∧
    (let s := at_fab zeros { regions := (upto 8).map fun n => { region0 with r := n } }
     ∀ n < 8, (s.region? 0 n).isSome = true) ∧
    (let s := inRegion (set3 handle0 0 0) region0
     Runs s (set3 handle0 0 0) (h1 .b32) [.b] ∧ s.byHandle 0 handle0 = some region0 ∧ region0.freeBy = none) ∧
    (let f := { set3 0 0 0 with site := mmacNode }
     let x := { region0 with half1 := { half0 with fresh := true } }
     Runs (inRegion f x) f (h1 .b32) [] ∧ (inRegion f x).region? 0 0 = some x ∧ (x.halfOf x.idle).fresh = true ∧ x.swap = none ∧
       (region0.halfOf region0.idle).fresh = false) ∧
    (let s := inRegion (set3 0x40000 0 0) region0
     Runs s (set3 0x40000 0 0) (h1 .b32) [.b] ∧ s.byHandle 0 0x40000 = none) :=
  ⟨⟨runs_of rfl (by decide +kernel), by decide +kernel⟩, ⟨runs_of rfl (by decide +kernel), by decide +kernel⟩, by decide +kernel,
    ⟨runs_of rfl (by decide +kernel), by decide +kernel⟩, ⟨runs_of rfl (by decide +kernel), by decide +kernel⟩,
    ⟨runs_of rfl (by decide +kernel), by decide +kernel⟩⟩

/-- A tile in progress, and a set of its activation stream. -/
def tile0 : MTile := { id := 1, tag := 0, dep := 0, half := 0, base := 0, next := List.replicate 8 0, toks := [], inits := [], started := 0 }

def act (j : Nat) (k : Tok) : Firing := { site := mmacNode, word := 0, tag := BitVec.ofNat 64 j, dep := 6, a := some k }

theorem witness_MatrixTiles :
    (let x := { region0 with tiles := [tile0] }
     let s := inRegion (act 7 (tk 1)) x
     s.cur = some (act 7 (tk 1)) ∧ s.region? 0 0 = some x ∧ x.tiles.find? (fun t => decide (t.tag = 0) && decide (t.dep = 0)) = some tile0 ∧
       rowTokens x (x.halfOf 0) .i8x4 = 8 ∧ tagNest (act 7 (tk 1)).tag % 64 = 7 ∧ tagNest (act 8 eosTok).tag % 64 = 8 ∧
       (x.rowTab.filter fun e => e.1 = 7).length < 16) ∧
    (let s := inRegion zeros region0
     s.swapDue region0 = false ∧ region0.tiles.length < 16 ∧ (region0.halfOf region0.active).loaded = true ∧
       accepts 1 .i8x4 true = true ∧ accepts 1 .f32 false = false ∧ 0 + 64 ≤ 64 ∧ region0.accs = [] ∧ (region0.halfOf 1).loaded = false) ∧
    (let x := { region0 with accs := [{ half := 0, idx := 32, tile := 1, full := false, vals := [] }] }
     ∀ c ≤ 64 - 33, ∃ i < 33, ∃ a ∈ x.accs, a.half = x.active ∧ a.idx = c + i) ∧
    (inRegion zeros { region0 with swap := some zeros }).swapDue { region0 with swap := some zeros } = true := by decide +kernel

/-- An entry with results; a drain of it; a completion word that names it. -/
def entry0 : AccEntry := { half := 0, idx := 0, tile := 1, full := true, vals := [1, 2, 3, 4, 5, 6, 7, 8] }

def drainNode : Site := ⟨.region 0 0, 0x80, 2⟩

def drainSet (w : Word) : Firing := { set3 w 0 0 with site := drainNode, b := none, c := none }

def drain0 (n : Nat) : Drain := { site := drainNode, tag := 0, dep := 0, half := 0, base := 0, m := 1, ires := true, next := n }

theorem witness_MatrixResults :
    (let f := drainSet 0x4040
     let x := { region0 with accs := [entry0] }
     Runs (inRegion f x) f (h1 .i32) [] ∧ (inRegion f x).region? 0 0 = some x ∧ 0x4040 % 64 + 0x4040 / 64 % 128 ≤ 64 ∧
       decide (0x4040 / 2 ^ 14 % 2 = 1) = decide ((h1 .i32).ty = .i32) ∧ entry0.full = true ∧ 1 * (8 * 1) < 2 ^ 4 ∧ 2 ^ 3 ≤ 1 * (8 * 1)) ∧
    (let f := drainSet 0x8040
     Runs (inRegion f region0) f (h1 .i32) [] ∧ ¬(0x8040 < 2 ^ 15)) ∧
    (let x := { region0 with accs := [entry0], drains := [drain0 7] }
     let s := { inRegion zeros x with cyc := 1 }
     s.field? s.arg.u s.arg.j = some x ∧ (x.drains.drop s.arg.n).head? = some (drain0 7) ∧ (drain0 7).since < s.cyc ∧
       (s.nodeInstr drainNode).isSome = true ∧ (drain0 7).next < 1 * (8 * 1) ∧ (drain0 8).next = 1 * (8 * 1) ∧
       s.windowFull drainNode 0 0 6 7 = false) ∧
    (let tl := { tile0 with count := some 8, toks := (upto 8).map fun j => (j, tk 1) }
     let x := { region0 with tiles := [tl], accs := [entry0] }
     let s := { inRegion zeros x with cyc := 100 }
     (s.mmacOf x).isSome = true ∧ s.targeted mmacNode .b = false ∧ tl.count.isSome = true ∧ tl.lastIn + x.h + x.w + 8 ≤ s.cyc) ∧
    (let x := { region0 with tiles := [tile0], rowTab := [(0, 1, 0, tk 1)] }
     let s := inRegion zeros x
     (s.mmacOf x).isSome = true ∧ x.rowNext .i8x4 s.arg.m = some (1, 0, tk 1) ∧ x.rowReady s.arg.m s.cyc = true) ∧
    (let l : WLoad := { fire := zeros, off := 0xFF00, wfmt := 2, gsz := 0, cmp := false, started := some 0 }
     let x := { region0 with loads := [l] }
     let s := ({ inRegion zeros x with cyc := 100 } : State).setReg (.wbufAlloc 0 0) 0x100
     s.field? 0 0 = some x ∧ l.off % 64 = 0 ∧ imageBytes 8 1 2 0 ≤ (s.weightBytes 0 0 0xFF00).length ∧
       (s.block? (.region 0 0) x.blk).isSome = true ∧ 0 + 12 + (imageBytes 8 1 2 0 + 255) / 256 ≤ s.cyc ∧
       (match loadHalf (s.raced l.seen (s.weightBytes 0 0 0xFF00)) 8 1 2 0 false with | .inl _ => true | .inr _ => false) = true) ∧
    (let x := { region0 with swap := some zeros, freeBy := some zeros }
     (inRegion zeros x).field? 0 0 = some x ∧ x.tiles = [] ∧ x.loads = [] ∧ x.drains = [] ∧ x.busyTo ≤ 0) :=
  ⟨⟨runs_of rfl (by decide +kernel), by decide +kernel⟩, ⟨runs_of rfl (by decide +kernel), by decide +kernel⟩,
    by decide +kernel⟩

/-! Commands, exits, channels, traps and control registers. -/

/-- A ring of 2^log2n records in which n stand. -/
def ring (q n : Nat) (en direct : Bool) : QDesc :=
  { k := 0, q := q, base := 0x2000, log2n := 1, en := en, direct := direct, head := 0xFFFFFFFF, tail := (0xFFFFFFFF + n) % 2 ^ 32 }

/-- A waiter's place: 32,767 waiters of the pool. -/
def waiter0 : Waiter := { id := 0, kind := 0, asid := 0, k := 0, v := 0, recAt := 0, pool := 0, inputs := [] }

theorem witness_CommandsAndBarriers :
    (let f := set3 0x40 0 0
     let s := inKernel f {}
     Runs s f (h1 .b32) [] ∧ poisonIn f .a = false ∧ Allowed s f false (flatVa s f 0 0) ∧ flatVa s f 0 0 % 64 = 0 ∧ flatVa s f 0 63 % 64 = 63 ∧
       Allowed s f false (flatVa s f 0 63)) ∧
    (let s := { inKernel zeros {} with qtab := [ring 64 1 true false] }
     s.qdesc? zeros.k 64 = some (ring 64 1 true false) ∧ (ring 64 1 true false).en = true ∧ (ring 64 1 true false).count < 2 ^ 1 ∧
       2 ^ 1 ≤ (ring 64 2 true false).count ∧ (ring 64 1 false false).en = false) ∧
    (let f := set3 0 0xFFFF 0
     let s := inTensors f {}
     Runs s f (h1 .b32) [.a, .b] ∧ (f.data .b).toNat < 2 ^ 16 ∧ tensorOf (s.descEntry f.k f.v 0) = some vec ∧
       tensorOf (s.descEntry f.k f.v 1) = none ∧ s.waiters.length < 32768 ∧ poolOf f.site.holder = 0 ∧ s.regField (.sheafOvf f.k) 59 5 = 0) ∧
    (let f := set3 0 0x10000 0
     Runs (at_ f) f (h1 .b32) [.a, .b] ∧ 2 ^ 16 ≤ (f.data .b).toNat) ∧
    (let f := set3 0x40 2 0
     Runs (inKernel f {}) f (h1 .b32) [.b] ∧ Allowed (inKernel f {}) f true (flatVa (inKernel f {}) f 0 0)) ∧
    (let r : Tok := { tk 0 with rol := true }
     let f := { zeros with a := some r, b := some r, c := none }
     (inKernel f {}).cur = some f ∧ (∀ x ∈ f.toks, x.2.rol = true) ∧ Allowed (inKernel f {}) f true 0x40) ∧
    (((inKernel zeros {}).kbase 0 0 0 : Int) + (0x40 : BitVec 9).toInt) % 2 ^ 64 = 0x40 :=
  ⟨⟨runs_of rfl (by decide), by decide, allowed_paged (by decide), by decide, by decide, allowed_paged (by decide)⟩,
    by decide, ⟨runs_of rfl (by decide), by decide +kernel⟩, ⟨runs_of rfl (by decide), by decide⟩,
    ⟨runs_of rfl (by decide), allowed_paged (by decide)⟩, ⟨by decide, by decide, allowed_paged (by decide)⟩, by decide⟩

/-- The block of `node` with an exit, and its open invocation with nest depth `dep`. -/
def exiting (f : Firing) (idem : Bool) (gathers : List Gather) : State :=
  { inKernel f { blocks := [{ block (.bay 0 0) (if idem then 2 ^ 69 else 0) [] with exits := [0x80] }],
                 invocs := [{ invoc0 with dep := f.dep }] } with gathers := gathers }

/-- A gather entry of a block. -/
def gather0 (blk : Nat) : Gather := { k := 0, v := 0, blk := blk, tag := 0, dep := 0, vals := [some (tk 0)], since := 0 }

/-- A value for an entry of a block. -/
def val0 (blk ent : Nat) : Value := { blk := blk, tag := 0, dep := 0, ent := ent, tok := tk 7 }

def leaver (y dep : Nat) : Firing := { site := node, word := 0, tag := 0, dep := dep, a := some (tk 7), b := some (tk (BitVec.ofNat 32 y)) }

theorem leaves_of {s : State} {f : Firing} {h : Hdr} {k : Tok} (hc : s.cur = some f) (ha : f.a = some k) (hr : k.rol = false)
    (h3 : f.c = none) (hp : f.p = none) (he : executes h.pm f.pred = true) : Leaves s f h k :=
  ⟨hc, ha, hr, by simp [h3], by simp [hp], he⟩

theorem witness_BlockExits :
    (∀ d ∈ [0, 44], Leaves (exiting (leaver 0 d) false []) (leaver 0 d) (h1 .b32) (tk 7) ∧ (exiting (leaver 0 d) false []).inst? 0 0 = some inst0) ∧
    (let v := val0 0x80 0
     let s := exiting (leaver 0 0) false []
     s.gatherRoom 0 0 v = true ∧ s.idem (leaver 0 0) = false ∧ s.closing? (leaver 0 0) = some invoc0 ∧
       (exiting (leaver 0 0) false [gather0 0xC0]).gatherRoom 0 0 v = true ∧ (exiting (leaver 0 0) false [gather0 0x80]).gatherRoom 0 0 v = true) ∧
    (at_ (leaver 0 0)).closing? (leaver 0 0) = none ∧
    (let s : State := { exiting (leaver 0 0) false [{ gather0 0x80 with tag := 1 }] with insts := [{ inst0 with tails := [(0x80, 1)] }] }
     s.gatherRoom 0 0 (val0 0x80 0) = false) ∧
    (let s := exiting (leaver 0 0) true []
     s.idem (leaver 0 0) = true ∧ s.loading invoc0 = false) ∧
    44 < (leaver 0 44).dep + 1 ∧ (leaver 0 43).dep + 1 = 44 ∧ (leaver 0 0).dep = 0 ∧ 1 ≤ (leaver 16 1).dep ∧
    (inst0.blkoff ≤ 16 * 64 ∧ 16 * 64 < inst0.blkoff + inst0.blklen) ∧ ¬(17 * 64 < inst0.blkoff + inst0.blklen) ∧
    (∀ w, (exiting (leaver 16 1) false []).peekHdr 0 (16 * 64) = some w → (0 : Nat) ≤ hdrNENT w) ∧
    ({ tk 0 with poi := true } : Tok).poi = true ∧ ({ tk 0 with nul := true } : Tok).nul = true := by
  refine ⟨fun d hd => ⟨leaves_of rfl rfl rfl rfl rfl rfl, rfl⟩, by decide, by decide, by decide, ?_⟩
  refine ⟨by decide, by decide, by decide, by decide, by decide, ?_⟩
  exact ⟨by decide, by decide, fun _ _ => Nat.zero_le _, by decide⟩

/-- A channel word to a tile of slot 0, and a trap of slot 0 that holds a firing. -/
def chan0 : ChanWord := { barn := 0, tile := 7, ch := some 63, k := 0, tok := tk 0, since := 0 }

def held (f : Firing) (tcode : Nat) : Trap :=
  { k := 0, index := 5, tcode := tcode, cause := 0, cls := .F, srck := 0, barn := 0, unit := 0, idx := 0, blk := 0x40, word := f.word,
    tag := 0, dep := 0, slot := 0, aux0 := 0, aux1 := 0, aux2 := 0, cyc := 0, v := 0, hold := .firing f }

theorem witness_ChannelsAndTraps :
    (let s := inKernel zeros {}
     Runs s zeros (h1 .b32) [.a] ∧ zeros.site.holder.barn? = some 0 ∧ s.tileOwner 0 7 = some 0 ∧ s.chanCount 0 7 (some 63) < 16 ∧
       s.physBarn 0 0 = 0) ∧
    (let s := inKernel zeros { chans := List.replicate 16 chan0 }
     s.tileOwner 0 7 = some 0 ∧ 16 ≤ s.chanCount 0 7 (some 63)) ∧
    (at_ zeros).tileOwner 0 7 ≠ some 0 ∧
    (let g := { zeros with word := 0xE10E000FFFC00000 }
     let t := held g tcUser
     let f := set3 t.wordOf 1 0
     let s := { inKernel f {} with traps := [t] }
     Runs s f (h1 .b32) [] ∧ s.byTrapWord f.k (f.data .a) = some t ∧ opOf g.word = 0x384 ∧ t.cls = .F ∧ t.hold = .firing g) ∧
    (opOf (0 : DWord) ≠ 0x384 ∧ (held zeros tcUser).tcode ≠ tcDupToken) ∧
    (at_ zeros).byTrapWord zeros.k (zeros.data .a) = none ∧ (zeros.k, zeros.data .a) ∉ (at_ zeros).voided ∧
    (inKernel zeros {}).inst? 0 0 = some inst0 :=
  ⟨⟨runs_of rfl (by decide), by decide +kernel⟩, by decide +kernel, by decide +kernel,
    ⟨runs_of rfl (by decide), by decide +kernel⟩, by decide, by decide, by decide, rfl⟩

theorem witness_ControlRegisters : Runs (at_ zeros) zeros (h1 .b32) [.a] ∧ (at_ zeros).inst? 0 0 = none ∧
    (inKernel zeros {}).inst? 0 0 = some inst0 ∧ (0x1F : BitVec 12).toNat = 0x10 + 15 ∧ (0x3F : BitVec 12).toNat = 0x21 + 2 * 15 ∧
    (let s := (at_ zeros).setReg .gongCtl (2 ^ 32 + 2 ^ 31)
     Runs s zeros (h1 .b32) [] ∧ s.regField .gongCtl (32 + zeros.k) 1 = 1 ∧ s.regField .gongCtl 31 1 = 1) ∧
    (at_ zeros).regField .gongCtl (32 + zeros.k) 1 = 0 :=
  ⟨runs_of rfl (by decide), by decide, rfl, by decide, by decide, ⟨runs_of rfl (by decide), by decide⟩, by decide⟩

theorem witness_ControlPlane :
    (let s := inKernel (set3 0x40 0x100 0) {}
     Runs s (set3 0x40 0x100 0) (h1 .b32) [.b] ∧ poisonIn (set3 0x40 0x100 0) .a = false ∧ Allowed s (set3 0x40 0x100 0) false (flatVa s (set3 0x40 0x100 0) 0 0)) ∧
    (∀ q ∈ [0, 63], ({ inKernel zeros {} with qtab := [ring q 0 true false] } : State).qdesc? zeros.k q = some (ring q 0 true false)) ∧
    ((ring 0 0 false false).en = false ∧ (ring 0 0 true true).direct = true ∧ (at_ zeros).qdesc? 0 0 = none) ∧
    (let s := { inKernel zeros {} with insts := [{ inst0 with done := true, outc := 1 }] }
     Runs s zeros (h1 .b32) [] ∧ (s.inst? zeros.k 0).map Inst.done = some true) ∧
    (let f := set3 4095 0 0
     Runs (at_ f) f (h1 .b32) [] ∧ (f.data .a).toNat < 4096 ∧ (at_ f).inst? f.k 4095 = none) ∧
    ((inKernel zeros {}).inst? 0 0).map Inst.done = some false ∧ 4096 ≤ ((set3 4096 0 0).data .a).toNat :=
  ⟨⟨runs_of rfl (by decide), by decide, allowed_paged (by decide)⟩, by decide, by decide, ⟨runs_of rfl (by decide), by decide⟩,
    ⟨runs_of rfl (by decide), by decide⟩, by decide⟩

/-! Cores. -/

def loader : CoreId := ⟨0, false⟩

def storer : CoreId := ⟨0, true⟩

/-- A core with cleared registers that stands at the first of these words. -/
def core0 (id : CoreId) (words : List Nat) : Core :=
  { id := id, k := 0, v := 0, active := true, x := List.replicate 32 0, pc := 0,
    istore := (words.flatMap (leBytes 4)).zipIdx.filterMap fun x => if x.1 = 0 then none else some (x.2, x.1), dmem := [], csrs := [] }

/-- The state of `inKernel` with this core in focus. -/
def onCore0 (x : Core) (g : Fabric) : State :=
  { State.reset with curCore := some x.id, insts := [{ inst0 with desc := [vecDesc, rowShape, pairDesc] }], fab := { g with cores := [x] } }

theorem core_of {g : Fabric} (x : Core) : InCore (onCore0 x g) x.id x :=
  ⟨rfl, by simp [onCore0, State.core?], rfl⟩

theorem allowedFor_paged {s : State} {k : Nat} {at_ : Bool} {va : Nat} (h : windowOf va = .paged) : AllowedFor s k at_ va := by
  simp [AllowedFor, h]

/-- Binding of input queue 0 to an entry (kind 1) with a field of 2 bits and the type i32. -/
def bound (x : Core) : Core := x.setCsr 0x7E0 (BitVec.ofNat 32 (2 ^ 30 + 2 ^ 21))

/-- A position of queue 15 of BARN.0 that holds a token, a marker or a null token. -/
def pos (out : Bool) (q : Nat) (k : Option Tok) : EqTok :=
  { barn := 0, out := out, q := q, k := 0, v := 0, tok := k, bind := ⟨0, 0, .b32, 1, 0⟩, since := 0 }

theorem witness_CoreQueues :
    (let x := bound (core0 loader [])
     InCore (onCore0 x {}) loader x ∧ ((onCore0 x {}).edge 0 false 0).length = 0 ∧ (x.binding 0).kind ≠ 0 ∧ (3 : Nat) < 2 ^ (x.binding 0).sw ∧
       ¬(4 : Nat) < 2 ^ (x.binding 0).sw ∧ x.dep + (x.binding 0).sw ≤ 44 ∧ (x.binding 15).kind = 0) ∧
    (let x := (bound (core0 loader [])).setCsr csrXtaghi (BitVec.ofNat 32 (43 * 2 ^ 16))
     InCore (onCore0 x {}) loader x ∧ 44 < x.dep + (x.binding 0).sw) ∧
    (let s := onCore0 (core0 loader []) { eqs := List.replicate 64 (pos false 0 (some (tk 0))) }
     64 ≤ (s.edge 0 false 0).length) ∧
    InCore (onCore0 (core0 storer []) {}) storer (core0 storer []) ∧ ((onCore0 (core0 storer []) {}).edge 0 true 15) = [] ∧
    (∀ k ∈ [tk 9, eosTok], (onCore0 (core0 storer []) { eqs := [pos true 15 (some k)] }).edge 0 true 15 = [pos true 15 (some k)]) :=
  ⟨⟨core_of _, by decide +kernel⟩, ⟨core_of _, by decide⟩, by decide +kernel, core_of _, by decide⟩

/-- Core 0 with value `v` in register 1. -/
def with1 (id : CoreId) (v : Word) : Core := (core0 id []).put 1 v

theorem witness_CoreMemory :
    (let x := { with1 loader 0x104 with st := 62, ld := 62 }
     InCore (onCore0 x {}) loader x ∧ AllowedFor (onCore0 x {}) x.k false (coreVa (onCore0 x {}) x 0 0 1) ∧ coreVa (onCore0 x {}) x 0 0 1 % 4 = 0 ∧
       coreVa (onCore0 x {}) x 0 1 1 % 4 ≠ 0 ∧ AllowedFor (onCore0 x {}) x.k false (coreVa (onCore0 x {}) x 0 1 1)) ∧
    2 ^ 60 ≤ coreVa (onCore0 (core0 loader []) {}) (core0 loader []) 0 (-4) 0 ∧
    (let x := { bound (with1 loader 0x104) with ld := 62 }
     InCore (onCore0 x {}) loader x ∧ ((onCore0 x {}).edge 0 false 0).length < 64 ∧ (x.binding 0).kind ≠ 0 ∧ (x.get 2).toNat < 2 ^ (x.binding 0).sw ∧
       x.dep + (x.binding 0).sw ≤ 44) ∧
    (∀ k ∈ [tk 9, eosTok], (onCore0 { with1 storer 0x104 with st := 62 } { eqs := [pos true 15 (some k)] }).edge 0 true 15 = [pos true 15 (some k)]) ∧
    InCore (onCore0 { with1 storer 0x104 with st := 63 } {}) storer { with1 storer 0x104 with st := 63 } :=
  ⟨⟨core_of _, allowedFor_paged (by decide), by decide, by decide,
      allowedFor_paged (by decide)⟩,
    by decide, ⟨core_of _, by decide +kernel⟩, by decide, core_of _⟩

theorem witness_CoreCommands :
    (let x := { with1 loader 0x40 with cpy := 30, tt := 30 }
     let s := { onCore0 x {} with qtab := [ring 64 1 true false] }
     InCore s loader x ∧ Scope.ofBits 4 = some .sys ∧ Scope.ofBits 0 = some .blk ∧ coreVa s x 0 0 1 % 64 = 0 ∧ windowOf (coreVa s x 0 0 1) = .paged ∧
       s.qdesc? x.k 64 = some (ring 64 1 true false) ∧ (ring 64 1 true false).count < 2 ^ 1) ∧
    (let x := { with1 loader 0xFFFF with cpy := 31, tt := 31 }
     InCore (onCore0 x {}) loader x ∧ (x.get 1).toNat < 2 ^ 16 ∧ tensorOf ((onCore0 x {}).descEntry x.k x.v 0) = some vec ∧
       (onCore0 x {}).waiters.length < 32768) ∧
    2 ^ 16 ≤ ((with1 loader 0x10000).get 1).toNat ∧ (2 : BitVec 3) ≠ 3 ∧ (2 : BitVec 3) ≠ 4 ∧ Scope.ofBits 2 = some .die := by
  refine ⟨⟨⟨rfl, rfl, rfl⟩, by decide +kernel⟩, ⟨core_of _, by decide +kernel⟩,
    by decide +kernel⟩

/-- RPT #3 on rd before XPOP, RPT on rs1 and rs2 before XPUSH, and before ADD. -/
theorem witness_CoreRepeatsAndExceptions :
    (∀ w ∈ [0x0020150B, 0x0020E00B + 0x2000, 0x00000033, 0x00002023], let c := core0 storer [0x0420502B, w]
      InCore (onCore0 c {}) storer c ∧ isRpt (c.wordAt c.pc.toNat) = true ∧ c.pc.toNat + 8 ≤ 0x10000 ∧ c.wordAt (c.pc.toNat + 4) % 4 = 3) ∧
    (∀ w ∈ [0x0020150B, 0x00000033], repeats w = true) ∧ repeats 0x03FFCFAB = false ∧ repeats 0x00000063 = false ∧
    (let c := (core0 storer [0x0420502B, 0x0020150B]).setCsr csrXrpt 3
     c.done = (2 : BitVec 6).toNat + 1 ∧ (c.setCsr csrXrpt 4).done = (2 : BitVec 6).toNat + 2 ∧
       (core0 storer [0x0420502B, 0x00000033]).word = encR 0 0 0 0 0 0x33 ∧
       ∃ e, (onCore0 c { eqs := [pos true 2 (some (tk 9))] }).edge c.id.barn true 2 = [e] ∧ e.tok = some (tk 9)) ∧
    (28 : Nat) + (2 : BitVec 6).toNat + 1 ≤ 31 ∧ ¬((29 : Nat) + (2 : BitVec 6).toNat + 1 ≤ 31) ∧
    decodeCore32 (BitVec.ofNat 32 (core0 storer [0x0420502B, 0x0020150B]).word) = .xpop 2 10 ∧
    (let x := core0 loader []
     InCore (onCore0 x {}) loader x ∧ x.csr 0x305 = 0 ∧ (x.setCsr 0x305 0x101).csr 0x305 ≠ 0) := by
  refine ⟨fun w hw => ⟨core_of _, ?_⟩, by decide, by decide, by decide, ⟨by decide +kernel, by decide, by decide +kernel, _, rfl, rfl⟩, ?_⟩
  · revert w; decide +kernel
  · exact ⟨by decide, by decide, by decide +kernel, core_of _, by decide⟩

/-- Offsets to the two ends of the data memory, behind each, and to an odd place; equal and unequal operands. -/
theorem witness_CoreBaseInstructions :
    (let x := with1 loader 0x10000
     let x := { x with istore := [(0, 0x33)] }
     InCore (onCore0 x {}) loader x ∧ isRpt (x.wordAt x.pc.toNat) = false ∧ x.wordAt x.pc.toNat % 4 = 3 ∧ x.pc.toNat + 4 ≤ 0x10000 ∧
       (x.get 1 + (BitVec.ofNat 12 0).signExtend 32).toNat = 0x10000 ∧ (x.get 1 + (BitVec.ofNat 12 0xFFC).signExtend 32).toNat = 0xFFFC ∧
       (x.get 1 + (BitVec.ofNat 12 1).signExtend 32).toNat % 4 = 1 ∧ x.get 1 ≠ x.get 2 ∧ x.get 2 = x.get 0) ∧
    ((with1 loader 0x17FFC).get 1 + (BitVec.ofNat 12 0).signExtend 32).toNat + 4 = 0x18000 ∧
    ((with1 loader 0x17FFC).get 1 + (BitVec.ofNat 12 4).signExtend 32).toNat = 0x18000 :=
  ⟨⟨core_of _, by decide +kernel⟩, by decide⟩

/-! Tokens, blocks and strands. -/

/-- The reset state with an event's parameters, the kernel instance and a fabric. -/
def acts (arg : EventArg) (g : Fabric) : State := { State.reset with arg := arg, insts := [inst0], fab := g }

/-- A node of the block of a region. -/
def rnode (n : Nat) : Site := ⟨.region 0 0, 0x40, n⟩

/-- A result of word 0 of the block of a region for slot b of its word 1, which are one link apart. -/
def flight (out : Bool) (conf : Option (BitVec 4)) : Flight :=
  { src := rnode 0, dst := rnode 1, slot := .b, tok := tk 5, out := out, conf := conf, ready := 0 }

def queued (k : Tok) : QTok := { site := { node with idx := 1 }, slot := .b, tok := k, since := 0 }

/-- A block of two nodes, ADD and FCVT. -/
def two : Loaded := { block (.bay 0 0) 0 [0x0000000000000000, 0x6002000000000000] with qcfg := [0, 0], kinds := [.illegal, .trap 3 4] }

def setAt (k : Option Tok) : Machine.PSet :=
  { site := { node with idx := 1 }, tag := 0, dep := 0, b := k, a := none, place := .table 0, opened := 0, since := 0 }

theorem witness_TokensMove :
    (∀ x ∈ [flight true none, flight false none], let s := acts {} { flights := [x] }
      (s.fab.flights.drop s.arg.n).head? = some x ∧ x.ready ≤ s.cyc ∧ behind s.fab.flights s.arg.n x = false ∧
        s.runs (tagK x.tok.tag) x.dst.holder = true ∧ (s.queue x.dst x.slot).length < 4 ∧
        s.nextLink x = (if x.out then some (0, 5) else none) ∧ s.linkHeld x.dst.holder x.dst.blk (0, 5) = !x.out) ∧
    (let s := acts {} { flights := [flight true none, flight false none] }
     s.nextLink (flight true none) = some (0, 5) ∧ s.linkHeld (.region 0 0) 0x40 (0, 5) = true ∧
       behind s.fab.flights s.arg.n (flight true none) = false) ∧
    (let s := acts {} { flights := [flight false none], queues := List.replicate 4 { queued (tk 1) with site := rnode 1 } }
     4 ≤ (s.queue (flight false none).dst .b).length ∧ s.nextLink (flight false none) = none) ∧
    (let arg : EventArg := { site := { node with idx := 1 }, slot := .b }
     let q := queued (tk 1)
     let s := acts arg { queues := [q], blocks := [two], sets := [{ setAt none with a := some (tk 2) }] }
     s.queue arg.site arg.slot = [q] ∧ s.runs (tagK q.tok.tag) arg.site.holder = true ∧ s.mayMatch arg.site .b = true ∧
       s.confWaits arg.site q.since = false ∧ s.truncated arg.site .b q.tok = none ∧ s.streamRoom arg.site .b q.tok = true ∧
       s.joins arg.site .b q.tok = some { setAt none with a := some (tk 2) }) ∧
    (let arg : EventArg := { site := { node with idx := 1 }, slot := .b }
     let s := acts arg { queues := [queued (tk 1)], blocks := [two] }
     (s.nodeInstr arg.site).isSome = true ∧ s.freeEntry arg.site = some 0 ∧ s.fab.sets = [] ∧ arg.site.holder.temporal = false ∧
       (match s.nodeInstr arg.site with | some (.rdly _ _ _ _) => false | _ => true) = true) ∧
    (∀ p ∈ [Place.table 0, .loft], let arg : EventArg := { site := { node with idx := 1 }, slot := .b }
     let x := { setAt (some (tk 3)) with place := p }
     let s := acts arg { queues := [queued (tk 1)], blocks := [two], sets := [x] }
     s.joins arg.site .b (tk 1) = some x) ∧
    (let s := at_fab zeros { blocks := [two] }
     let g := { zeros with site := { node with idx := 1 } }
     Runs s zeros (h1 .b32) [] ∧ s.nodeKind zeros.site = .illegal ∧ Runs (at_fab g { blocks := [two] }) g (h1 .b32) [] ∧
       (at_fab g { blocks := [two] }).nodeKind g.site = .trap 3 4) ∧
    (let f := zeros
     let s := inKernel f { blocks := [{ two with kinds := [.emulate 7] }] }
     Runs s f (emulationShape f).h [] ∧ s.nodeKind f.site = .emulate 7 ∧ s.firstTile f.k f.site.holder.barnNo = some 0 ∧
       s.chanCount f.site.holder.barnNo 0 none < 16 ∧ (at_ f).firstTile f.k f.site.holder.barnNo = none) := by
  refine ⟨by decide, by decide, by decide, by decide +kernel, ?_⟩
  exact ⟨by decide +kernel, by decide +kernel, ⟨runs_of rfl (by decide), by decide, runs_of rfl (by decide), by decide⟩,
    runs_of rfl (by decide), by decide +kernel⟩

def reconf0 : Reconf := { idx := 1, q := 5, src := node, tok := tk 0, arrived := some 0 }

/-- The same block without what the Belfry makes of it. -/
def plain2 : Loaded := { two with kinds := [] }

theorem witness_Reconfiguration :
    (let s := at_fab zeros { blocks := [plain2] }
     Runs s zeros ⟨.always, .b32, some ⟨1, .a⟩, none⟩ [] ∧ zeros.site.holder.temporal = false ∧
       s.confTarget node ⟨1, .a⟩ = some { node with idx := 1 }) ∧
    (∀ n ∈ [0, 1], let x := { flight false (some 5) with dst := rnode n }
     let l := { plain2 with holder := .region 0 0 }
     let s := acts {} { flights := [x], blocks := [l] }
     (s.fab.flights.drop s.arg.n).head? = some x ∧ x.conf = some 5 ∧ s.nextLink x = none ∧ behind s.fab.flights s.arg.n x = false ∧
       s.runs (tagK x.tok.tag) x.dst.holder = true ∧ s.block? x.dst.holder x.dst.blk = some l ∧ s.reconfigurable x.dst = decide (n = 1)) ∧
    (let arg : EventArg := { site := { node with idx := 1 } }
     let l := { plain2 with reconf := [reconf0] }
     let s := { acts arg { blocks := [l] } with cyc := 1 }
     s.block? arg.site.holder arg.site.blk = some l ∧ l.reconf.find? (fun y => decide (y.idx = arg.site.idx)) = some reconf0 ∧
       s.timeOf arg.site.holder arg.site.blk arg.site.idx ≤ s.cyc ∧ s.oldWork arg.site 0 = false ∧
       s.runs l.k arg.site.holder = true) :=
  ⟨⟨runs_of rfl (by decide), by decide⟩, by decide⟩

/-- A block of one word and no exit in the patch store: its header, a word, an exit entry of zeros; `mark`, `sum` and `minor` may be wrong. -/
def blockBytes (mark sum minor : Nat) : List Byte :=
  leBytes 16 (mark * 2 ^ 112 + 4 * 2 ^ 104 + minor * 2 ^ 96 + 2 ^ 70 + sum) ++ leBytes 8 0 ++ leBytes 8 0

def fetch0 (blk fails again : Nat) : Fetch :=
  { holder := .tile 0 0, k := 0, v := 0, blk := blk, fails := fails, again := again, since := 0 }

/-- The state with one fetch of a block in the patch store. -/
def fetching (b : List Byte) (f : Fetch) : State := { acts {} {} with fetches := [f], patchCode := b, cyc := 64 }

/-- A ready gather entry. -/
def ready0 (blk : Nat) : Gather := { gather0 blk with ready := some 0, closed := true }

/-- A sum that makes the block valid, and the state of a tile that runs a ready entry. -/
def goodSum : Nat := 41468

theorem witness_BlocksAndBays :
    (∀ x ∈ [(fetch0 patchBase 0 0, blockBytes 0x59C4 goodSum 0, BlockCheck.ok), (fetch0 patchBase 3 64, blockBytes 0x59C4 0 0, .sum),
        (fetch0 patchBase 2 0, blockBytes 0x59C4 0 0, .sum), (fetch0 patchBase 0 0, blockBytes 0 0 0, .mark),
        (fetch0 patchBase 0 0, blockBytes 0x59C4 0 255, .bad)],
      let f := x.1
      let s := fetching x.2.1 f
      let l := parseBlock f.holder f.k f.v f.blk x.2.1
      (s.fetches.drop s.arg.n).head? = some f ∧ f.again ≤ s.cyc ∧ s.fetchRuns f = true ∧ s.cached f.holder f.k f.blk = none ∧
        (s.wholeBlock (dieNo f.holder.barnNo) f.k f.v f.blk (srcBarn f.holder.barnNo)).2 = .ok x.2.1 false ∧
        blockCheck ((s.wholeBlock (dieNo f.holder.barnNo) f.k f.v f.blk (srcBarn f.holder.barnNo)).1.regField .belId 40 8) l = x.2.2 ∧
        (x.2.2 = .ok → l.fits = true)) ∧
    (let s := { acts { holder := .bay 0 0 } {} with gathers := [ready0 0x40] }
     let v := s.fillCands
     v.holderFree s.arg.holder = true ∧ v.noConfig s.arg.holder = false ∧ v.frameOwner 0 0 = some 0 ∧
       (bestOf v.rank (v.bayCands s.arg.holder fun c => decide (v.frameOwner 0 0 = some c.k) && v.bayBlock s.arg.holder c.k c.blk)).map Candidate.blk =
         some 0x40) ∧
    (let l := { two with st := .configuring }
     let s := { acts { holder := .bay 0 0 } { blocks := [l] } with cyc := 9 }
     l.holder = s.arg.holder ∧ l.since + configCycles l = 9) ∧
    (let s := { acts { holder := .bay 0 0 } { blocks := [two] } with cyc := 64 }
     two.st = .serving ∧ s.pinned s.arg.holder two.blk = false ∧ s.live two.k (stopUnitOf s.arg.holder) = true ∧ s.mustClose two none = true) ∧
    (let l := { two with st := .closing }
     let s := acts { holder := .bay 0 0 } { blocks := [l] }
     s.drain.live l.k (stopUnitOf s.arg.holder) = true ∧ s.drain.idleBlock s.arg.holder l.blk = true ∧ l.refetch = false) ∧
    (let h : Holder := .tile 0 0
     let s := { fetching (blockBytes 0x59C4 goodSum 0) (fetch0 0 0 0) with arg := { holder := h }, fetches := [], gathers := [ready0 patchBase] }
     s.drain.tileContext h = some 0 ∧ h.temporal = true ∧ s.drain.noConfig h = false ∧ s.drain.tileNeed h 0 = some (0, patchBase) ∧
       (s.drain.makeRoom h (s.drain.storeWords h 0 patchBase) 9).isSome = true) := by
  refine by decide +kernel

/-- A delivery of a firing with one value. -/
def deliv0 (blk ent : Nat) : Delivery :=
  { k := 0, v := 0, vals := [val0 blk ent], fire := some zeros, from_ := some invoc0.key, close := false, ready := 0 }

/-- A forming entry with slot 15 taken. -/
def forming (blk : Nat) : Gather := { gather0 blk with vals := List.replicate 15 none ++ [some (tk 1)] }

/-- A handler of channel 63 in tile 7 of BARN.0, and its block. -/
def handler0 : Handler := { k := 0, barn := 0, tile := 7, ch := 63, v := 0, blk := 0x40, pri := 3, active := false }

def tileBlock0 : Loaded := { block (.tile 0 7) (2 ^ 65) [0] with v := 0 }

theorem witness_StrandsAndHandlers :
    (∀ e ∈ [0, 14], let s := { acts {} { invocs := [invoc0] } with delivs := [deliv0 patchBase e], gathers := [forming patchBase] }
      (s.delivs.drop s.arg.n).head? = some (deliv0 patchBase e) ∧ s.live 0 .io = true ∧ (s.freeTrapIndex 0).isSome = true ∧
        s.headerWait (deliv0 patchBase e) (val0 patchBase e) = none ∧ (val0 patchBase e).ret = false ∧ s.forming? 0 0 patchBase 0 0 = some (forming patchBase) ∧
        (forming patchBase).vals.length = 16 ∧ (forming patchBase).vals[e]? = some none) ∧
    (let s := { acts {} {} with delivs := [deliv0 patchBase 15], gathers := [forming patchBase] }
     s.headerWait (deliv0 patchBase 15) (val0 patchBase 15) = none ∧ (forming patchBase).vals[15]? = some (some (tk 1))) ∧
    (let i := { invoc0 with closing := true }
     let s := acts {} { invocs := [i] }
     (s.fab.invocs.drop s.arg.n).head? = some i ∧ i.closed = false ∧ s.mayClose i.key = true) ∧
    (let s := { acts { holder := .bay 0 0 } { blocks := [two] } with gathers := [ready0 0x40] }
     s.drain.nextEntry s.arg.holder = some (ready0 0x40, two)) ∧
    (let h : Holder := .tile 0 7
     let w := { chan0 with tile := 7 }
     let s := acts { u := 0, j := 7 } { blocks := [{ tileBlock0 with st := .serving }], chans := [w], handlers := [handler0] }
     s.drain.tileOwner 0 7 = some 0 ∧ s.drain.runs 0 h = true ∧ bestOf s.drain.runRank (s.drain.runnables 0 7 0) = some ⟨0, w, 3, 0x40⟩ ∧
       0x40 < patchBase ∧ s.drain.block? h 0x40 = some tileBlock0 ∧ s.drain.mayBegin tileBlock0 = true ∧ s.drain.noConfig h = false ∧ s.scrubs = []) ∧
    (let s := { acts {} {} with insts := [{ inst0 with strand := true }] }
     s.drain.instDone { inst0 with strand := true } = true ∧ (s.drain.inst? s.arg.k s.arg.n).map Inst.done = some false ∧ recField inst0.recBytes 0x38 8 = 0 ∧
       inst0.reap = false) ∧
    (let i := { inst0 with strand := true, recBytes := recZero 3 ++ [1] ++ recZero 252 }
     let s := { acts {} {} with insts := [i] }
     s.drain.instDone i = true ∧ recField i.recBytes 0x38 8 = 0 ∧ i.reap = true ∧ s.drain.fab.waits = []) ∧
    (let i := { inst0 with strand := true, recBytes := recZero 0x38 ++ leBytes 8 0xFFFFF0000000000 ++ recZero 192 }
     let s := withUnit { acts {} {} with insts := [i] }
     let u := s.drain
     let b := leBytes 4 (i.outc * 2 ^ 30 + i.tcode) ++ leBytes 4 (u.exitOf i false).toNat ++ leBytes 4 (u.exitOf i true).toNat ++
       leBytes 4 (u.cyc % 2 ^ 32)
     u.instDone i = true ∧ recField i.recBytes 0x38 8 ≠ 0 ∧ u.fab.accs = [] ∧ u.hostBusy = [] ∧
       (u.sysWrite 0 i.k i.v (recField i.recBytes 0x38 8) b srcIo).2 = .ok [] false) ∧
    (let a := acc0 .write .flat .dev
     a.k = inst0.k ∧ a.v = inst0.v ∧ a ∈ ({ accs := [a] } : Fabric).accs) := by
  refine by decide +kernel

/-! The host, translation and memory pools. -/

theorem witness_HostAccess :
    (∀ op ∈ [HostOp.read true, .write 5 1, .flush], let s : State := { acts { u := 0, val := 0xFFFFFFFFFF, hostOp := op } {} with decoders := [(0, 1, 256)] }
      s.decoded s.arg.u s.arg.val.toNat = some (2 ^ 40 - 1) ∧ s.arg.hostOp = op ∧ s.snoop.length < 4194304) ∧
    (let s : State := { acts { n := 7 } {} with snoop := [7] }
     s.arg.n ∈ s.snoop ∧ (acts { n := 7 } {}).arg.n ∉ (acts { n := 7 } {}).snoop) ∧
    (let s := acts { n := 7, data := some 5, val := 1 } {}
     s.arg.data = some 5 ∧ (∀ e ∈ s.agent, e.2.1 ≠ s.arg.n) ∧ 5 / 64 ∉ s.snoop ∧ 5 / 64 ∈ ({ s with snoop := [0] } : State).snoop) ∧
    (∀ w ∈ [true, false], let s := (acts { n := 0x2FFFFC, j := 1, flag := w } {}).setReg .hostApctl 3
      s.regField .hostApctl (if s.arg.flag then 1 else 0) 1 = 1 ∧ s.arg.n / 4 * 4 % 2 ^ 22 < 0x300000 ∧
        s.scrubbing (if s.arg.flag then .wbuf else .scr) (s.arg.n / 4 * 4) = false) ∧
    (acts { n := 0x300000 } {}).regField .hostApctl 0 1 = 0 ∧ 0x300000 ≤ 0x300000 / 4 * 4 % 2 ^ 22 ∧
    (let s := acts { j := 40, n := 2, m := 4096 } {}
     s.arg.j = 40 ∧ s.arg.n = 2 ∧ s.arg.m ∈ [256, 512, 1024, 2048, 4096]) ∧ ¬((acts { j := 39 } {}).arg.j = 40) := by
  refine ⟨?_, by decide +kernel⟩
  intro op h
  simp only [List.mem_cons, List.not_mem_nil, or_false] at h
  rcases h with rfl | rfl | rfl <;> exact ⟨by decide, rfl, by decide⟩

/-- ASID entry 0 names a root at 0x1000, whose entry 0 names a table at 0x2000, whose entry 0 is a page of 16 GiB with R and W. -/
def tables : List Host.Cell := [(0, 0x01), (1, 0x10), (0x1000, 0x01), (0x1001, 0x20), (0x2000, 0x0E)]

/-- An access with one piece that has no place yet. -/
def untranslated (kind : AccKind) (va : Nat) (tr : Trans) : Access :=
  { zeros.access kind .b32 .pkg with pieces := [{ addr := va, size := 4, mask := 0xFFFFFFFF, data := 5 }], trans := tr }

/-- Slot 0 bound to ASID 0 with those tables and that access. -/
def walking (cells : List Host.Cell) (a : Access) (arg : EventArg) : State :=
  ({ acts arg { accs := [a] } with dmem := cells }).setReg (.trSlot 0) (2 ^ 31)

def page0 (r w : Bool) : TlbEntry :=
  { die := 0, port := none, asid := 0, va := 0, size := 4096, frame := 0, host := false, r := r, w := w, x := false, tt := false }

theorem untranslated_of {s : State} {a : Access} {p : Piece} (h : s.fab.accs = [a]) (hn : s.arg.n = 0) (h1 : s.nextPiece a = some 0)
    (h2 : (a.pieces.drop 0).head? = some p) (h3 : a.area = .flat ∧ a.tens = none) (h4 : a.kind ≠ .prefetch)
    (h5 : a.waiting = false ∧ a.done = false ∧ s.sends a = true) : Untranslated s a 0 p :=
  ⟨by simp [h, hn], h1, h2, h3, h4, h5, by simp [DistinctIds, h]⟩

/-- Fault 7 of die 0, and a state that holds it with a fault queue of 2^n entries at 0x8000 whose TAIL is 15. -/
def fault0 : PageFault :=
  { die := 0, fid := 7, k := 0, asid := 0, va := 0x1234, cause := 0, tile := none, access := 0, malf := false, idem := false, src := 0, cyc := 0 }

def faulty (n : Nat) : State :=
  ((({ acts { n := 7, val := 7 } {} with pfaults := [fault0] } : State).setReg (.trFqb 0) (BitVec.ofNat 64 (n * 2 ^ 60 + 0x8000))).setReg (.trFqht 0)
    (BitVec.ofNat 64 (15 * 2 ^ 32)))

theorem witness_Translation :
    (∀ x ∈ [(AccKind.read, 0xFFFFF0000000000), (.write, 0x3FFFFFFFC), (.atomic .add .b32, 0x400000000)], let a := untranslated x.1 x.2 .ready
      ∃ p, Untranslated (walking tables a {}) a 0 p ∧ a.trans = .ready ∧ p.addr = x.2) ∧
    (windowOf 0xFFFFF0000000000 ≠ .paged ∧ ((withUnit (walking tables (untranslated .read 0xFFFFF0000000000 .ready) {})).windowPlace 0 0xFFFFF0000000000).isSome = true) ∧
    (let a := untranslated .write 0x3FFFFFFFC .ready
     let s := walking tables a {}
     s.nodeRoom a 0x40 = true ∧
       ({ s with fab := { accs := a :: List.replicate 256 (acc0 .read .flat .dev) } } : State).nodeRoom a 0x40 = false) ∧
    (let a := untranslated .write 0x3FFFFFFFC .ready
     let s := walking tables a {}
     windowOf 0x3FFFFFFFC = .paged ∧ s.asid? 0 = some 0 ∧ s.tlbFind 0 a.port 0 0x3FFFFFFFC = none ∧ s.walks = [] ∧ s.asids = [] ∧
       s.walk 0 0x3FFFFFFFC = .page 0 (2 ^ 34) 0 false false false true true ∧ s.walk 0 (2 ^ 34) = .absent false ∧
       grants AccKind.write.need true true false false = true ∧ grants AccKind.fetch.need true true false false = false ∧
       physical 0x3FFFFFFFC = some (.dev, 0x3FFFFFFFC)) ∧
    (let s : State := { walking tables (untranslated .read 0xFFC .ready) {} with tlb := [page0 true false] }
     s.tlbFind 0 (untranslated .read 0xFFC .ready).port 0 0xFFC = some (page0 true false) ∧ (page0 true false).place 0xFFC = .at .dev 0xFFC ∧
       grants AccKind.write.need true false false false = false) ∧
    (let a := untranslated .read 0x400000000 .ats
     ∃ p, Untranslated (walking tables a { grant := some { hpa := 0x5000, size := 12, r := true, w := false } }) a 0 p ∧ a.trans = .ats) ∧
    (walking tables (untranslated .read 0 .ready) {}).idemInvoc? (untranslated .read 0 .ready).origin = none ∧
    (let s := faulty 4
     s.arg.u = 0 ∧ s.pfaults.find? (fun p => p.die = s.arg.u && p.cause = 0 && !p.sent && !p.failed) = some fault0 ∧ s.regField (.trFqb 0) 60 4 = 4 ∧
       s.regField (.trFqb 0) 5 39 * 32 = 0x8000 ∧ physical 0x8000 = some (.dev, 0x8000) ∧ s.regField (.trFqht 0) 0 32 = 0 ∧
       s.regField (.trFqht 0) 32 32 = 15 ∧ physical (0x8000 + 32 * 15) = some (.dev, 0x8000 + 32 * 15)) ∧
    (faulty 3).regField (.trFqb 0) 60 4 < 4 ∧
    (let s : State := { faulty 4 with pfaults := [{ fault0 with cause := 1 }] }
     s.fault? s.arg.u s.arg.n 1 = some { fault0 with cause := 1 } ∧ (s.pfaults.filter fun p => p.cause = 1 && p.sent && !p.failed).length < 512) ∧
    (let a := { untranslated .read 0 (.fault 0 7) with id := 3 }
     let s : State := { faulty 4 with fab := { accs := [a] } }
     s.fault? s.arg.u (bitsAt s.arg.val.toNat 0 24) 0 = some fault0 ∧ s.fab.accs.filter (fun a => a.trans = .fault 0 7) = [a] ∧
       a.origin = .firing zeros ∧ s.loadFault = none ∧ (s.freeTrapIndex 0).isSome = true ∧ s.gathers = [] ∧ fault0.tile = none ∧
       ({ fault0 with tile := some 0 } : PageFault).tile ≠ none ∧ (s.nextPiece { a with trans := .ready }).isSome = true) := by
  refine ⟨?_, by decide, by decide +kernel, by decide, by decide, ⟨_, untranslated_of rfl rfl (by decide) rfl ⟨rfl, rfl⟩ (by decide) (by decide), rfl⟩, by decide +kernel⟩
  intro x h
  simp only [List.mem_cons, List.not_mem_nil, or_false] at h
  rcases h with rfl | rfl | rfl <;> exact ⟨_, untranslated_of rfl rfl (by decide) rfl ⟨rfl, rfl⟩ (by decide) (by decide), rfl, rfl⟩

/-- A cached translation and a walk entry of ASID 1 at address 0. -/
def cached1 (s : State) : State :=
  { s with tlb := [{ page0 true true with asid := 1 }], walks := [{ die := 0, asid := 1, va := 0, size := 2 ^ 34, table := 0x2000 }],
           asids := [{ die := 0, asid := 1, root := 0x1000, pasid := none }] }

theorem witness_Invalidations :
    (∀ log2 ∈ [12, 60], let s := cached1 (acts { val := BitVec.ofNat 64 (log2 * 2 ^ 56 + 1) } {})
      (s.invq.filter fun c => !c.ats).length < 64 ∧ bitsAt s.arg.val.toNat 16 40 = 0 ∧ bitsAt s.arg.val.toNat 56 6 = log2 ∧
        s.regField .trInvva 0 60 % 2 ^ log2 = 0 ∧ bitsAt s.arg.val.toNat 0 16 = 1 ∧ s.invq = []) ∧
    (let q : InvCmd := { kind := 0, asid := 0, va := 0, log2 := 0, ats := false, wait := [5] }
     let s : State := { acts {} { accs := [{ untranslated .read 0 .ready with id := 5 }] } with invq := List.replicate 63 q }
     (s.invq.filter fun c => !c.ats).length < 64 ∧ s.invq ≠ [] ∧ ∃ a ∈ s.fab.accs, a.id ∈ q.wait ∧ a.done = false) ∧
    (let q : InvCmd := { kind := 0, asid := 0, va := 0, log2 := 0, ats := false, wait := [5] }
     let s : State := { acts { val := 2 ^ 16 } {} with invq := List.replicate 64 q }
     ¬((s.invq.filter fun c => !c.ats).length < 64) ∧ ¬(bitsAt s.arg.val.toNat 16 40 = 0) ∧ s.invq = q :: List.replicate 63 q ∧
       (∀ a ∈ s.fab.accs, a.id ∈ q.wait → a.done = true) ∧ q.back = none ∧ q.retire = none) := by
  refine ⟨by decide, ⟨by decide, by decide, _, List.mem_cons_self, by decide⟩, by decide, by decide, by rfl, by decide +kernel⟩

/-- Shadow pool descriptors at 0x4000: class 0 has room for one frame, class 1 is full. -/
def pools : List Host.Cell := [(0x4001, 0x60), (0x4008, 1), (0x4018, 1), (0x401C, 1)]

/-- A page of 2 MiB of ASID 0 at frame 0x200000 in channel 0, and a free list that gives channel 2 a frame of its class. -/
def movable : List Host.Cell :=
  [(0, 0x01), (1, 0x10), (0x1000, 0x01), (0x1001, 0x20), (0x2000, 0x01), (0x2001, 0x30), (0x3000, 0x01), (0x3001, 0x50), (0x5000, 0x0E), (0x5002, 0x20),
   (0x80B1, 0x90), (0x80B8, 1), (0x80BC, 1), (0x9004, 1)]

theorem witness_MemoryPools :
    (∀ x ∈ [(47, 1), (0, 48), (48, 0)], let s := acts { u := 0, k := 0, val := BitVec.ofNat 64 (x.2 * 2 ^ 8 + x.1) } {}
      bitsAt s.arg.val.toNat 0 6 + bitsAt s.arg.val.toNat 8 6 = 48 ∧ (∀ j < 32, j ≠ s.arg.k → s.regField (.spadAlloc 0 j) 8 6 = 0)) ∧
    (let s := acts { val := BitVec.ofNat 64 (32 * 2 ^ 8 + 1) } {}
     ¬(bitsAt s.arg.val.toNat 0 5 + bitsAt s.arg.val.toNat 8 6 ≤ 32) ∧ s.regField (.wbufAlloc 0 0) 5 1 = 0) ∧
    (∀ w ∈ [true, false], let c : Scrub := { barn := 63, k := 31, weight := w, base := 3, size := 2 }
      ({ acts {} {} with scrubs := [c] } : State).scrubs.drop (acts {} {}).arg.n = [c] ∧ dropAt [c] 0 = []) ∧
    (let c : Cmd := { id := 0, eng := 0, k := 0, v := 0, asid := 0, barn := 0, recAt := 0, bytes := recZero 3 ++ [1] ++ recZero 60, charged := 0,
                      core := none, since := 0 }
     let s := acts {} { cmds := [c] }
     ∃ c ∈ s.fab.cmds, c.k = s.arg.k ∧ recField c.bytes 3 1 % 2 = 1) ∧
    (∀ c ∈ [0, 1], let s := ({ acts {} {} with dmem := pools, shadowRet := [(0, c, 0x10000)] } : State).setReg (.ctxShdpool 0) 0x4001
      (s.shadowRet.drop s.arg.n).head? = some (0, c, 0x10000) ∧ s.fab.accs = [] ∧ s.shadowPool 0 = some 0x4000 ∧
        (s.giveFrame 0x4000 c 0x10000).isSome = decide (c = 0)) ∧
    (let i := { inst0 with migr := [(0, 1)] }
     let s := ({ acts {} {} with insts := [i], dmem := movable } : State).setReg .trCfl 0x8000
     let u := s.modInst i.k i.v fun i => { i with migr := [] }
     (s.insts.drop s.arg.n).head? = some i ∧ s.settling i = false ∧ (lowest (fun b => i.barns.contains b) 64).getD 0 = 0 ∧
       u.leafOf (u.asid i.k) 0 = some ⟨0x5000, 1, 0x20000E, 2 ^ 21⟩ ∧ bitsAt 0x20000E 7 1 = 0 ∧
       (Leaf.frame ⟨0x5000, 1, 0x20000E, 2 ^ 21⟩) / 2 ^ 31 ∉ nearest 0 1 ∧ classOf (2 ^ 21) = some 3 ∧
       ((nearest 0 1).findSome? (fun ch => match u.takeFrame (u.channelList ch) 3 with
        | .got x y => some (x, y)
        | _ => none)).map Prod.snd = some (2 ^ 32)) := by
  refine ⟨by decide, by decide, by decide, ⟨_, List.mem_cons_self, by decide⟩, by decide +kernel⟩

/-! Streams, tasks and engines as they run, sheaves and core programs. -/

/-- A set of a STRM or STRMW node, by the words of the decode tests, and a stream that it started, at index 2. -/
def strmSet (w : DWord) : Firing := { zeros with word := w }

def running (f : Firing) : Stream := { stream2 with fire := some f }

/-- The virtual address of logical barn 0's slice of the scratchpad window, and slot 0 with a unit of it. -/
def win0 : Nat := 0xFFFFF0000000000

/-- Scratchpad bytes from the start of BARN.0's slice on. -/
def scrBytes (b : List Byte) : List Host.Cell := b.zipIdx.filterMap fun x => if x.1 = 0 then none else some (x.2, x.1)

/-- The kernel state with those bytes in the scratchpad. -/
def inScratch (arg : EventArg) (b : List Byte) (g : Fabric) : State := { withUnit (acts arg g) with scr := scrBytes b }

/-- A tile-task record of one i8 row of a region of 8 rows and 1 column; `r` in bytes 0x30 on must be zeros. -/
def taskRec (r : Nat) : List Byte :=
  [0x5D, 0x7A, 0, 0, 7, 0, 1, 7] ++ leBytes 8 win0 ++ recZero 11 ++ [1] ++ recZero 12 ++ leBytes 4 0xFFFFFFFF ++ recZero 4 ++ leBytes 1 r ++ recZero 143

def slot0 : TaskSlot := { k := 0, v := 0, recAt := win0, core := none, slot := 5 }

def task0 (step : TaskStep) : Task :=
  { id := 1, die := 0, k := 0, v := 0, recAt := win0, bytes := taskRec 0, core := none, order := 0, slot := 5, ready := some 0, run := some (0, 0, step) }

/-- A task in its step, in the region that it bound. -/
def tasking (t : Task) (x : Region) : State := { acts {} { regions := [x] } with tasks := [t] }

theorem witness_StreamsAndTasks :
    (∀ n ∈ [2, 3], let f := strmSet 0xA092000A89817142
     let x := { running f with count := some n, words := [(2, tk 9)] }
     let s : State := { acts {} { streams := [x] } with cyc := 1 }
     (s.fab.streams.drop s.arg.n).head? = some x ∧ x.fire = some f ∧ s.runs f.k x.site.holder = true ∧
       f.instr = some (.strm ⟨.whenTrue, .f32, some ⟨5, .b⟩, some ⟨9, .c⟩⟩ 23 5 2) ∧ x.stuck = false ∧ x.since < s.cyc ∧
       s.windowFull x.site x.tag x.dep 24 x.next = false ∧ (s.fab.accs.find? fun a => a.origin = .stream f x.next) = none ∧
       x.words.find? (fun p => decide (p.1 = x.next)) = some (2, tk 9) ∧ s.stream? x.site x.tag x.dep = some x) ∧
    (let f := strmSet 0xA092000A89817142
     let a := { untranslated .read 0 (.failed { code := tcPerm }) with origin := .stream f 2 }
     (({ streams := [running f], accs := [a] } : Fabric).accs.find? fun a => a.origin = .stream f 2) = some a ∧
       ((acts {} {}).freeTrapIndex f.k).isSome = true) ∧
    (let f := strmSet 0xA0CC600A8980987E
     let x := { running f with done := true }
     f.instr = some (.strmw ⟨.always, .n16x2, some ⟨5, .b⟩, some ⟨9, .c⟩⟩ .pkg 9 33 62) ∧ x.done = true ∧ x.writes = 0 ∧
       (acts {} { streams := [x] }).runs f.k x.site.holder = true) ∧
    (∀ r ∈ [0, 1], let s : State := { inScratch {} (taskRec r) {} with taskQ := [slot0] }
     s.taskQ.find? (fun y => decide (y.k = 0) && !y.taken && !y.freed) = some slot0 ∧ s.schedulerUp 0 = true ∧ s.onDie 0 0 = true ∧
       s.live 0 .io = true ∧ (s.freeTrapIndex 0).isSome = true ∧ (s.unitRead 0 0 0 win0 192 { code := 98 }).2 = .ok (taskRec r) false ∧ s.tasks = [] ∧
       s.arg.ecc = none ∧
       badTask { task0 .bind with bytes := taskRec r } = if r = 0 then none else some 0x30) ∧
    (let t := { task0 .bind with run := none }
     let s := ({ acts {} {} with tasks := [t] } : State).setReg (.wbufAlloc 0 0) 0x100
     s.schedulerUp 0 = true ∧ s.firstTask 2 [t] = some (t, 0, 0) ∧ (s.bindRegion 0 0 0 t.h t.w 0).isSome = true ∧
       (s.tasks.filter fun t => decide (t.die = s.arg.u) && t.run.isNone && readySeen t.ready t.waiter s.cyc && s.live t.k .io) = [t] ∧
       t.issued = none) ∧
    ({ task0 .bind with issued := some (0, 0) } : Task).issued.map Prod.fst = some State.reset.cyc ∧
    (acts {} {}).firstTask 1 [] = none ∧ ((acts {} {}).setReg .dieFence 1).schedulerUp 0 = false ∧
    (∀ step ∈ [TaskStep.bind, .swap, .drain, .publish, .free], let t := task0 step
     let s := tasking t region0
     (s.tasks.drop s.arg.n).head? = some t ∧ t.run = some (0, 0, step) ∧ t.fault = none ∧ s.live t.k .io = true ∧ s.gatedPart 0 = false ∧
       s.region? 0 0 = some region0 ∧ t.pos = 0 ∧ s.publishesFirst t = false) ∧
    (let t := { task0 .publish with issued := some (0, 2) }
     ({ acts {} {} with tasks := [t, { t with id := 2, issued := some (0, 1) }] } : State).publishesFirst t = true) ∧
    (let t := { task0 .stage with bytes := (taskRec 0).set 5 0 }
     let s := (withUnit (tasking t region0)).setReg (.wbufAlloc 0 0) 0x100
     t.bit 2 = false ∧ (s.unitRead 0 0 0 (t.f 8 8) t.wlen t.src).2 = .ok [] false ∧ s.weightPlace 0 (s.logicalBarn 0 0) t.stageAt = some 0 ∧
       (match loadHalf (s.weightBytes 0 0 0) t.h t.w t.wfmt t.gsz (s.weightPoison 0 0 0 (imageBytes t.h t.w t.wfmt t.gsz)) with
        | .inl _ => true | .inr _ => false) = true) ∧
    (let t := { task0 .stream with bytes := (taskRec 0).set 0x19 1 }
     let a : List Byte := [1, 7] ++ recZero 6 ++ leBytes 8 win0 ++ leBytes 4 32 ++ leBytes 4 1 ++ leBytes 4 1 ++ leBytes 4 1 ++ recZero 32
     let d : List Byte := [2, 0] ++ recZero 14 ++ leBytes 4 32 ++ leBytes 4 1 ++ leBytes 4 1 ++ leBytes 4 1 ++ recZero 32
     let s := withUnit { tasking t region0 with insts := [{ inst0 with desc := [a, d] }] }
     t.hasInit = false ∧ t.m * rowTokens region0 (region0.halfOf region0.active) t.ty = 8 ∧
       (match s.taskStream t (t.f 0x18 1) (t.f 0x19 1) (t.f 0x20 4) 8 with | (_, .ok l) => decide (l.length = 8) | _ => false) = true ∧
       (match s.startTile region0 t.ty (t.bit 0) t.m (mkTag 0 0 0 0) 0 with | .tile _ _ => true | _ => false) = true) ∧
    (({ region0 with tiles := [tile0] } : Region).tiles.head? = some tile0 ∧ (task0 .mmac).hasInit = false) ∧
    (let t := { task0 .write with pos := 8, bytes := taskRec 0 }
     let d : List Byte := [2, 0] ++ recZero 14 ++ leBytes 4 8 ++ leBytes 4 1 ++ leBytes 4 1 ++ leBytes 4 1 ++ recZero 32
     let s : State := { tasking t region0 with insts := [{ inst0 with desc := [vecDesc, d] }] }
     t.m * (8 * t.w) = 8 ∧ (s.tasks.drop s.arg.n).head? = some t ∧ (match s.window t.k t.v (t.f 0x1A 1) (t.f 0x1B 1) (t.f 0x24 4) 24 with | .win w => w.count | _ => 0) = 8) := by
  refine ⟨by decide +kernel, by decide +kernel, by decide +kernel, by decide +kernel, ?_⟩
  refine ⟨by decide +kernel, by decide +kernel, by decide +kernel, by decide +kernel, by decide +kernel, ?_⟩
  exact ⟨by decide +kernel, by decide +kernel, by decide +kernel, by decide +kernel, by decide +kernel, by decide +kernel⟩

/-- A command record: CPY of 65 bytes, or a collective; with a tensor to publish and a barrier that it completes. -/
def cmdRec (kind flags : Nat) (tid bar : Nat) : List Byte :=
  [0, 0, BitVec.ofNat 8 kind, BitVec.ofNat 8 flags] ++ recZero 4 ++ leBytes 8 win0 ++ leBytes 8 (win0 + 0x40) ++ leBytes 8 65 ++ recZero 16 ++
    leBytes 8 tid ++ leBytes 8 bar

def cmd0 (kind flags tid bar : Nat) : Cmd :=
  { id := 9, eng := if kind = 4 then 32 else 31, k := 0, v := 0, asid := 0, barn := 0, recAt := 0x80, bytes := cmdRec kind flags tid bar,
    charged := 4, core := none, since := 0 }

/-- The state with one command, which runs. -/
def engine (arg : EventArg) (c : Cmd) : State := inScratch arg [] { cmds := [c] }

/-- A barrier object whose last charge is 4 bytes: PEND 4, SINKS 1, ARR 1, GEN 2, armed. -/
def barBytes (st : Nat) : List Byte := leBytes 8 4 ++ leBytes 4 1 ++ leBytes 4 1 ++ leBytes 2 2 ++ leBytes 1 st

def arrival (j : Nat) : RankArrival := { grp := 0, cseq := 0, rank := j, ck := 0, opf := 0, count := 0, root := 0 }

theorem witness_Engines :
    (let c := cmd0 1 0 0 0
     let s := engine { u := 31 } c
     s.fab.cmds.find? (fun c => decide (c.eng = s.arg.u) && !c.running && s.live c.k .engines) = some c ∧ (s.fab.cmds.map Cmd.id) = [9] ∧ s.arg.u < 32 ∧
       s.regField .dieFence (s.arg.u / 4) 1 = 0 ∧ (s.fab.cmds.filter fun x => x.eng = s.arg.u && x.running).length < 8 ∧ c.kind ≠ 4) ∧
    (let c := cmd0 1 0 0 0
     let s := acts { u := 31 } { cmds := ((upto 8).map fun n => { c with id := n, running := true }) ++ [c] }
     (s.fab.cmds.map Cmd.id).Nodup ∧ s.fab.cmds.find? (fun c => decide (c.eng = s.arg.u) && !c.running && s.live c.k .engines) = some c ∧
       8 ≤ (s.fab.cmds.filter fun x => x.eng = s.arg.u && x.running).length) ∧
    (let c := cmd0 4 0 0 0
     let s := engine { u := 32 } c
     s.fab.cmds.find? (fun c => decide (c.eng = s.arg.u) && !c.running && s.live c.k .engines) = some c ∧ c.kind = 4 ∧
       (s.modCmd c.id fun x => { x with running := true, age := s.cyc }).badColl c = true) ∧
    (∀ x ∈ [(true, 64, 0, 64, 1), (false, 64, 0, 64, 1), (false, 0, 0, 0, 16), (false, 0, 15, 0, 16)],
      let c := { cmd0 1 0 0 0 with running := true, pos := x.2.1 }
      let s := engine { m := 1, j := x.2.2.1, flag := x.1 } c
      let q := x.2.1 + x.2.2.1
      (s.fab.cmds.drop s.arg.n).head? = some c ∧ s.engineRuns c = true ∧ q < c.total ∧ c.total = 65 ∧ c.wrote q = false ∧ s.arg.ecc = none ∧
        s.cmd? c.id = some c ∧ c.shd = false ∧ c.got = [] ∧ c.unit 0 q = x.2.2.2 ∧
        (match s.unitRead c.die c.k c.v (c.srcVa + q) 1 c.src with | (_, .ok b _) => decide (b = [0]) | _ => false) = true ∧
        (match engineReads c.id 0 x.2.2.2.2 x.2.2.2.1 [] s with | (_, .inr l) => decide (l.length = x.2.2.2.2) | _ => false) = true ∧
        (match s.unitAt c.die c.k (c.dstVa + x.2.2.2.1) { w := true } c.src with | (_, .inr y) => decide (y = (.scr, 0x40 + x.2.2.2.1)) | _ => false) = true) ∧
    ({ cmd0 1 0 0 0 with got := [(64, 0, false)] } : Cmd).got = [(64, 0, false)] ∧
    (let c := { cmd0 1 0 0 0 with running := true, writ := true }
     (engine {} c).engineRuns c = true ∧ c.psys = false ∧ c.f 0x30 8 = 0 ∧ c.f 0x38 8 = 0 ∧ ((engine {} c).freeTrapIndex c.k).isSome = true) ∧
    (let c := { cmd0 1 0 0 win0 with running := true, published := true }
     let s := inScratch {} (barBytes 1) { cmds := [c] }
     c.f 0x38 8 ≠ 0 ∧ (s.bar .scr 0).armed = true ∧ (s.bar .scr 0).arr = (s.bar .scr 0).sinks ∧ (s.bar .scr 0).pend ≤ c.charged ∧
       (match s.unitAt c.die c.k (c.f 0x38 8) { r := true, w := true } c.src with | (_, .inr x) => decide (x = (.scr, 0)) | _ => false) = true) ∧
    (∀ x ∈ (acts {} {}).ranks, x.rank = 0) ∧ (let s : State := { acts { m := 0, j := 1, val := 5 } {} with ranks := [arrival 0] }
     ¬∀ x ∈ s.ranks, x.grp = 0 → x.cseq = 0 → x.rank = 1 ∨ x.count = 5) ∧
    (let c := { cmd0 4 0 0 0 with running := true, lostAt := some 0 }
     let s : State := { engine {} c with cyc := 2400000, dmem := [(2, 1)] }
     s.engineRuns c = true ∧ c.kind = 4 ∧ c.writ = false ∧ c.cause = 0 ∧ s.allArrived c = false ∧ (groupOf (s.groupBytes c.grp)).n = 1 ∧
       ({ s with ranks := [arrival 0] } : State).allArrived c = true ∧ c.pos < c.charged ∧ c.charged ≤ ({ c with pos := 4 } : Cmd).pos ∧
       c.wrote 3 = false ∧ c.got = [] ∧ c.shd = false ∧ c.unit 0 3 = (3, 1) ∧ s.cmd? c.id = some c ∧
       (match s.collWord c 0 with | (_, .inr _) => true | _ => false) = true ∧
       (match s.unitAt c.die c.k (c.dstVa + 3) { w := true } c.src with | (_, .inr x) => decide (x = (.scr, 0x43)) | _ => false) = true ∧
       0 + 2400000 ≤ s.cyc) := by
  refine ⟨by decide +kernel, by decide +kernel, by decide +kernel, ?_⟩
  refine ⟨by decide +kernel, by decide, by decide +kernel, by decide +kernel, ?_⟩
  exact ⟨by decide +kernel, by decide +kernel, by decide +kernel⟩

/-- A publish of generation 3 of tensor 0x40, an entry, and a waiter with one input of it. -/
def pub0 : Publish := { k := 0, asid := 0, tid := 0x40, tile := 0, gen := 3, seq := 1, fire := none, core := none, cmd := none, ready := 0 }

def sheaf0 (gen seq : Nat) (pub : Bool) : Sheaf := { asid := 0, tid := 0x40, tile := 0, gen := gen, seq := seq, pub := pub, ngen := 1, way := some 0 }

def wait0 (egen cnt : Nat) (reg : Bool) : Waiter :=
  { id := 4, kind := 1, asid := 0, k := 0, v := 0, recAt := 0, pool := 0,
    inputs := [{ tid := 0x40, tile := 0, egen := egen, count := 2, cnt := cnt, reg := reg }] }

/-- The state with a publish at its home die. -/
def publishing (l : List Sheaf) (ws : List Waiter) : State := { acts {} {} with pubs := [pub0], sheaves := l, waiters := ws }

/-- A barrier access in scratchpad memory, and the state of the barrier's byte 0x12. -/
def barAcc : Access := { acc0 .barWait .scratch .scr with pieces := [{ addr := 0x40, size := 64, mask := 0, data := 0, place := some (.scr, 0x40) }] }

def barState0 (st : Nat) : State := { withAcc barAcc with scr := if st = 0 then [] else [(0x52, BitVec.ofNat 8 st)] }

theorem witness_SheafTable :
    (let s := publishing [] []
     (s.pubs.drop s.arg.n).head? = some pub0 ∧ s.publishDue pub0 ≤ s.cyc ∧ s.entryBusy 0 0x40 0 (s.publishDue pub0) [0, 1] = false ∧
       (s.freeTrapIndex 0).isSome = true ∧ pub0.asid = s.asid 0 ∧
       s.sheaf? 0 0x40 0 = none ∧ (s.newSheaf 0 0x40 0).isSome = true) ∧
    (let l := (upto 16).map fun w => { sheaf0 0 0 true with tid := (1 ^^^ (w + 1)) * 64, tile := w + 1, way := some w }
     let s := publishing l []
     (s.newSheaf 0 0x40 0).isNone = true ∧ s.sheaf? 0 0x40 0 = none) ∧
    (∀ x ∈ [(3, 1), (3, 0), (4, 0), (32770, 0), (2, 0), (32771, 0)], (publishing [sheaf0 x.1 x.2 true] []).sheaf? 0 0x40 0 = some (sheaf0 x.1 x.2 true)) ∧
    newer 32770 3 = true ∧ newer 32771 3 = false ∧
    (∀ x ∈ [(3, 1), (3, 0), (2, 1)], let w := wait0 x.1 x.2 true
     let s := publishing [sheaf0 0 0 false] [w]
     s.entryBusy 0 0x40 0 (s.publishDue pub0) [0, 1] = false ∧ s.publishDue pub0 ≤ s.cyc ∧ s.waiters.filter (fun y => y.linked 0 0x40 0) = [w] ∧ w.kind ≠ 3 ∧ (∀ z ∈ s.insts, z.graph = false) ∧ (w.inputs[0]?).isSome = true ∧
       (s.freeTrapIndex w.k).isSome = true) ∧ newer 3 2 = true ∧
    (∀ x ∈ [(3, 1), (4, 1), (3, 3)], let w := wait0 3 0 false
     let i : WInput := { tid := 0x40, tile := 0, egen := 3, count := 2, cnt := 0, reg := false }
     let s : State := { publishing [{ sheaf0 x.1 0 true with ngen := x.2 }] [w] with cyc := 164, pubs := [] }
     (s.waiters.drop s.arg.n).head? = some w ∧ (w.inputs.drop s.arg.m).head? = some i ∧ s.registerDue w i ≤ s.cyc ∧
       s.entryBusy 0 0x40 0 (s.registerDue w i) [1, w.id] = false ∧ w.asid = s.asid w.k ∧
       (s.sheaf? w.asid 0x40 0).isSome = true) ∧
    (let s := acts { val := BitVec.ofNat 64 (24 * 2 ^ 59) } {}
     s.ovfUsed s.arg.k = 0 ∧ bitsAt s.arg.val.toNat 59 5 = 24) ∧ bitsAt (6 * 2 ^ 59) 59 5 = 6 ∧
    (∀ st ∈ [0, 1, 3, 7], (∀ p, p ∈ barAcc.pieces → CanPerform (barState0 st) barAcc p .scr 0x40) ∧ barAcc.pos = 0 ∧ barAcc.operand = false ∧
      ((barState0 st).fab.accs.map Access.id).length = 1 ∧ ((barState0 st).bar .scr 0x40).st = st) := by
  refine ⟨by decide +kernel, by decide +kernel, by decide +kernel, by decide, by decide, ?_⟩
  refine ⟨by decide +kernel, by decide, by decide +kernel, by decide +kernel, by decide, ?_⟩
  intro st h
  refine ⟨fun p hp => ?_, by decide, by decide, by simp [barState0, withAcc], ?_⟩
  · simp only [barAcc, List.mem_singleton] at hp
    subst hp
    simp only [List.mem_cons, List.not_mem_nil, or_false] at h
    rcases h with rfl | rfl | rfl | rfl <;> constructor <;> decide
  · simp only [List.mem_cons, List.not_mem_nil, or_false] at h
    rcases h with rfl | rfl | rfl | rfl <;> decide

/-- A head token of an input edge queue bound to an entry, or to a region's MMAC. -/
def edge0 (kind : Nat) (tgt : Word) : EqTok :=
  { barn := 0, out := false, q := 0, k := 0, v := 0, tok := some (tk 9), bind := ⟨kind, tgt, .i8x4, 1, 15⟩, since := 0 }

/-- A core record with a loader program of 4 bytes at its own first bytes, and no data; `n` in byte 3 must be 0. -/
def coreRec (has n : Nat) : List Byte :=
  [0x53, 0x4C, BitVec.ofNat 8 has, BitVec.ofNat 8 n] ++ recZero 4 ++ leBytes 8 win0 ++ leBytes 4 4 ++ recZero 44

/-- The value that it delivers. -/
def val9 : Value := { val0 patchBase 15 with tok := tk 9 }

def progInst : Inst := { inst0 with recBytes := recZero 0x20 ++ leBytes 8 win0 ++ recZero 216, progs := [(0, false)] }

theorem witness_CorePrograms :
    (let e := edge0 1 1
     let s := acts {} { eqs := [e] }
     (s.edge s.arg.u false s.arg.n).head? = some e ∧ e.tok = some (tk 9) ∧ s.traps = [] ∧ s.live e.k (.barn e.barn) = true ∧ s.gatedPart e.barn = false ∧
       s.gatherRoom 0 0 val9 = true ∧
       s.headerWait { k := 0, v := 0, vals := [val9], core := some loader, ready := 0 } val9 = none ∧
       s.dupValue { k := 0, v := 0, vals := [], ready := 0 } val9 = false) ∧
    (let s : State := { acts {} {} with gathers := [forming patchBase] }
     s.gatherRoom 0 0 val9 = true ∧ s.dupValue { k := 0, v := 0, vals := [], ready := 0 } val9 = true) ∧
    (∀ n ∈ [3, 4], let e := edge0 2 handle0
     let q : QTok := { site := mmacNode, slot := .a, tok := tk 0, since := 0 }
     let s := acts {} { eqs := [e], regions := [region0], blocks := [systolic], queues := List.replicate n q }
     s.byHandle e.k e.bind.tgt = some region0 ∧ region0.barn = e.barn ∧ (∃ l ∈ s.fab.blocks, l.holder = .region 0 0 ∧ l.st = .serving) ∧
       (s.mmacOf region0).map Prod.fst = some mmacNode ∧ (s.queue mmacNode .a).length = n) ∧
    (acts {} { eqs := [edge0 2 0] }).byHandle 0 0 = none ∧
    (∀ x ∈ [(1, 0), (0, 0), (1, 1)], let s : State := { inScratch {} (coreRec x.1 x.2) {} with insts := [progInst] }
     s.servedBy 0 = some progInst ∧ (0, false) ∈ progInst.progs ∧ s.fab.cores = [] ∧ progInst.migr = [] ∧ s.settling progInst = false ∧
       s.live 0 (.barn 0) = true ∧ s.gatedPart 0 = false ∧ (s.unitRead 0 0 0 (recField progInst.recBytes 0x20 8) 64 srcIo).2 = .ok (coreRec x.1 x.2) false ∧
       badCoreRecord (coreRec x.1 x.2) = (if x.2 = 0 then none else some 3) ∧ bitsAt (recField (coreRec x.1 x.2) 2 1) 0 1 = x.1 ∧
       (s.freeTrapIndex 0).isSome = true ∧
       (s.unitRead 0 0 0 (recField (coreRec 1 0) 8 8) (recField (coreRec 1 0) 16 4) srcIo).2 = .ok ((coreRec x.1 x.2).take 4) false ∧
       (s.unitRead 0 0 0 (recField (coreRec 1 0) 0x28 8) (recField (coreRec 1 0) 0x30 4) srcIo).2 = .ok [] false) ∧
    (∀ n ∈ [0, 1], let x := { core0 loader [] with ending := true, ld := n }
     let s := acts {} { cores := [x] }
     s.core? ⟨s.arg.u, s.arg.flag⟩ = some x ∧ x.stopped = false ∧ s.live x.k (.barn 0) = true) ∧
    (∀ q ∈ [none, some 0], let a := { loaded 0 .read with origin := .coreCount loader 0 q 7 }
     let s := acts {} { accs := [a], cores := [core0 loader []], eqs := [{ edge0 1 0 with id := 7, tok := none }] }
     (s.fab.accs.drop s.arg.n).head? = some a ∧ s.performed a = true ∧ s.live a.k .ports = true ∧ s.core? loader = some (core0 loader [])) := by
  refine ⟨by decide +kernel, by decide +kernel, ?_, by decide +kernel⟩
  intro n hn
  simp only [List.mem_cons, List.not_mem_nil, or_false] at hn
  rcases hn with rfl | rfl <;>
    exact ⟨by decide +kernel, by decide, ⟨systolic, List.mem_cons_self, by decide⟩, by decide +kernel⟩

/-! Launch, placement, pre-emption, saves and restores. -/

/-- A launch record of kernel 0 of the image at `win0`; `bad` in its reserved byte 0x1F must be 0. -/
def launchRec (bad : Nat) : List Byte :=
  [0x7C, 0x1A, 0, 0, 0, 0, 0, 0] ++ leBytes 8 win0 ++ recZero 8 ++ [1, 4, 0, 0, 0, 0, 0, BitVec.ofNat 8 bad] ++ recZero 224

/-- An image of one kernel at `win0`, that record in slot 1 of the ring at `win0 + 0x100`, and the image's entry. -/
def launching (bad : Nat) (arg : EventArg) : State :=
  let d : QDesc := { ring 3 1 true true with base := win0 + 0x100 }
  { inScratch arg (recZero 6 ++ [1, 0, 64] ++ recZero 55 ++ recZero 448 ++ launchRec bad) {} with
    images := [{ k := 0, base := win0, len := 0x400, minr := 0 }]
    qtab := [d] }

/-- The read of that record by queue 3, with its bytes. -/
def claim0 (bad : Nat) : Access :=
  { acc0 .read .flat .scr with origin := .direct 0 3, done := true, pos := 64, pieces := (upto 64).map fun j =>
      { addr := win0 + 0x200 + 4 * j, size := 4, mask := 0xFFFFFFFF, data := 0, resp := some (recField (launchRec bad) (4 * j) 4) } }

/-- An instance that is ready in slot 0, with one barn to be placed in and a priority, a wait of one unit, or those of `r`. -/
def readyInst (v prio : Nat) : Inst :=
  let r : List Byte := recZero 2 ++ [BitVec.ofNat 8 prio] ++ recZero 4 ++ [1] ++ recZero 16 ++ [1] ++ recZero 231
  { inst0 with v := v, ready := some 0, placed := none, barns := [], recBytes := r }

/-- Slot 0 with a unit in BARN.0 and BARN.1; its tenant may use die 0. -/
def admitting (s : State) : State :=
  (((s.setReg (.spadAlloc 0 0) 0x100).setReg (.spadAlloc 1 0) 0x100).setReg (.schedTq 0) 0x400FF)

/-- Slots 0 and 1 with a graph instance each. -/
def graphs (l : List Gather) : State :=
  { State.reset with insts := [{ inst0 with graph := true, barns := [] }, { inst0 with k := 1, graph := true, barns := [] }], gathers := l }

def placing (l : List Inst) : State := admitting { State.reset with insts := l }

theorem witness_LaunchAndPlacement :
    (let s : State := { inScratch { val := BitVec.ofNat 64 win0 } [] {} with qtab := [ring 64 0 true false] }
     bitsAt s.arg.val.toNat 0 60 = win0 ∧ (match s.unitRead 0 0 4096 win0 2080 srcIo with | (_, .ok b _) => decide (b.length = 2080) | _ => false) = true) ∧
    bitsAt (acts {} {}).arg.val.toNat 0 60 = 0 ∧
    (∀ x ∈ [(0, true, 1), (2, true, 0), (0, true, 3), (0, false, 1)], let s : State := { acts { n := 63, val := BitVec.ofNat 64 (0xFFFFFFFF + x.1 + x.2.2) } {} with
        qtab := [ring 63 x.1 x.2.1 false] }
      let d := ring 63 x.1 x.2.1 false
      s.qdesc? 0 63 = some d ∧ d.en = x.2.1 ∧ (s.arg.val.toNat % 2 ^ 32 + 2 ^ 32 - d.tail) % 2 ^ 32 = x.2.2 ∧ 2 ^ d.log2n - d.count = 2 - x.1) ∧
    (let s := (launching 0 { n := 3 }).flushBack 0
     let d : QDesc := { ring 3 1 true true with base := win0 + 0x100 }
     s.qdesc? 0 3 = some d ∧ (s.fab.accs.find? fun a => a.origin = .direct 0 3) = none ∧ s.claimable d = true ∧ s.mck = none ∧
       d.slotAt d.head = win0 + 0x200 ∧ ∀ e ∈ s.qtab, e.k = 0 → e.q < 3 → s.claimable e = false) ∧
    (∀ bad ∈ [0, 1], let a := claim0 bad
     let s := ({ launching bad { n := 3 } with fab := { accs := [a] } } : State).flushBack 0
     (s.fab.accs.find? fun a => a.origin = .direct 0 3) = some a ∧ a.trans = .ready ∧ s.performed a = true ∧ respPoi a.pieces = false ∧
       respBytes a.pieces = launchRec bad ∧
       (match s.kernelOf 0 4096 (recField (launchRec bad) 8 8) (recField (launchRec bad) 4 2) with
        | (y, .info g) => decide (badLaunch (launchRec bad) (.info g) true = if bad = 0 then none else some 0x1C) && decide (y.freeInvocation 0 = some 1) &&
            (y.freeTrapIndex 0).isSome
        | _ => false) = true) ∧
    (let s := placing [readyInst 0 0, readyInst 1 7]
     let z : State := { s.endPreempt with turnAt := some s.cyc }
     s.cyc % 8 = 0 ∧ s.mck = none ∧ s.turnAt ≠ some s.cyc ∧ z.firstPlaceable 3 (z.insts.filter z.inReadyQueue) = some (readyInst 1 7, [0]) ∧
       recField (readyInst 1 7).recBytes 0x28 8 = 0) ∧
    (let i := { readyInst 1 7 with entry := win0 }
     let s := placing [readyInst 0 0, i]
     let z : State := { s.endPreempt with turnAt := some s.cyc }
     z.firstPlaceable 3 (z.insts.filter z.inReadyQueue) = some (i, [0]) ∧ bestOf z.readyRank (z.insts.filter z.inReadyQueue) = some i ∧
       (match handlerBlocks 0 1 1 win0 (z.countTurns none) with | (v, some h) => decide (h = []) && (v.placedIn 0).isEmpty | _ => false) = true) ∧
    (let s : State := { State.reset with insts := [readyInst 0 0] }
     let z : State := { s.endPreempt with turnAt := some s.cyc }
     s.cyc % 8 = 0 ∧ z.firstPlaceable 2 (z.insts.filter z.inReadyQueue) = none) ∧
    (∀ x ∈ [(64, 1), (63, 2), (0, 1)], let i := { inst0 with ops := x.1, bytes := if x.1 = 0 then 0 else 1 }
     let s : State := { State.reset with insts := [i] }
     s.cyc % 65536 = 0 ∧ s.regField .winCfg 0 16 = 1024 ∧ (i.ops = 0 ∧ i.bytes = 0 ∨
       (x.2 = 1 ∧ s.regField .winCfg 0 16 * i.bytes ≤ i.ops * 16) ∨ (x.2 = 2 ∧ i.ops * 16 < s.regField .winCfg 0 16 * i.bytes))) ∧
    (let g := { ready0 0x80 with k := 1 }
     let s : State := { graphs [g] with cyc := 16384, reeveK := some 0, reeveTaken := 64 }
     s.reeveK = some 0 ∧ s.fab.spaces = [] ∧ g ∈ s.reeveReady ∧ g.from + 16384 ≤ s.cyc) ∧
    (let s : State := { acts {} {} with cyc := 64, reeveK := some 0 }
     s.reeveReady = [] ∧ s.reeveLast + 64 ≤ s.cyc) ∧
    (let s : State := { graphs [ready0 0x80] with reeveK := some 1, reeveClose := true }
     let v := s.drain
     v.fab.invocs = [] ∧ v.reeveClose = true ∧ bestOf v.reeveRank v.reeveOldest = some ⟨0, 0, 0⟩ ∧ (∀ h ∈ v.rivals, h.k = 0 → 0 ≤ h.from_)) ∧
    (acts {} {}).drain.reeveOldest = [] ∧ (acts {} {}).reeveK = none := by
  refine ⟨by decide +kernel, by decide, by decide +kernel, by decide +kernel, by decide +kernel, ?_⟩
  refine ⟨by decide +kernel, by decide +kernel, by decide +kernel, by decide +kernel, by decide +kernel, ?_⟩
  exact ⟨by decide +kernel, by decide +kernel, by decide +kernel⟩

/-- Slot 1 has stood first and unplaced for 64 turns, and BARN.0, the only one that it may enter, holds slots 2 to 9, each with one
instance that ends within the wait. -/
def waiting (turns : Nat) : State :=
  let est (b : List Byte) : List Byte := b.take 28 ++ [1, 0, 0] ++ b.drop 31
  let n : Inst := { readyInst 0 7 with k := 1, turns := turns }
  let old : List Inst := (upto 8).map fun j => { inst0 with k := j + 2, recBytes := est (recZero 256) }
  { (({ State.reset with insts := n :: old } : State).setReg (.spadAlloc 0 1) 0x100).setReg (.schedTq 0) 0x400FF with cyc := 100 }

/-- The state with slot 0 in a state of CTX_RUN, and its stop. -/
def stopping (n : Nat) (arg : EventArg) (l : List Stop) : State := ({ acts arg {} with stops := l } : State).setCtxState 0 n

theorem witness_StopsAndPreemption :
    (let s := waiting 64
     let n : Inst := { readyInst 0 7 with k := 1, turns := 64 }
     s.preempt = none ∧ bestOf s.readyRank (s.insts.filter s.inReadyQueue) = some n ∧ s.barnsFor n false = none ∧ s.barnsFor n true = some [0] ∧
       4096 * recField n.recBytes 7 1 ≠ 0 ∧ ((s.placedIn 0).length = 8 ∧ (s.placedIn 0).contains 1 = false) ∧ s.victimIn n 0 = some 9) ∧
    (let s := foldState (fun s k => s.setReg (.schedPre k) (2 ^ 30)) (waiting 64) (upto 32)
     let n : Inst := { readyInst 0 7 with k := 1, turns := 64 }
     s.preempt = none ∧ bestOf s.readyRank (s.insts.filter s.inReadyQueue) = some n ∧ s.barnsFor n false = none ∧ s.barnsFor n true = some [0] ∧
       s.victimIn n 0 = none) ∧
    (∀ due ∈ [100, 101], let p : Preempt := { k := 1, v := 0, victims := [9], drains := if due = 100 then [(9, 0)] else [], dueAt := due }
     let s : State := { waiting 0 with preempt := some p }
     s.running 9 ≠ [] ∧ (s.drainedOut p 9 = true ∨ p.dueAt ≤ s.cyc) ∧ s.ctxState 9 = 0 ∧ s.drainedOut p 9 = decide (due = 101)) ∧
    ((acts {} {}).ctxState 0 = 0 ∧ (acts {} {}).hasPlacement 0 = true ∧ (acts {} {}).stop? 0 = none) ∧
    ((acts { k := 1 } {}).ctxState 1 = 0 ∧ (acts { k := 1 } {}).hasPlacement 1 = false ∧ (∀ i ∈ (acts { k := 1 } {}).insts, i.k ≠ 1) ∧
      ((acts { k := 1 } {}).insts.map fun i => (i.k, i.v)).Nodup) ∧
    ((stopping 2 {} [{ k := 0, ovf := true }]).stop? 0 = some { k := 0, ovf := true }) ∧
    (∀ n ∈ [1, 2, 3], (stopping n {} []).ctxState 0 = n) ∧
    (let x : Stop := { k := 0, frozen := [.ports] }
     let s := stopping 1 { stop := .io } [x]
     s.stop? 0 = some x ∧ s.ctxState 0 = 1 ∧ x.frozen.contains s.arg.stop = false ∧ s.patchBusy 0 s.arg.stop = false ∧ s.midPiece 0 = false ∧ (∀ w ∈ s.fab.waits, w.k ≠ 0) ∧ s.fab.invocs = [] ∧
       (s.stopUnits 0).any (fun u => !x.frozen.contains u) = true) ∧
    (let c := { cmd0 1 0 0 0 with running := true, pos := 8 }
     let s := ({ stopping 1 { stop := .engines } [{ k := 0 }] with fab := { cmds := [c] } } : State)
     s.midPiece 0 = true ∧ s.arg.stop = .engines) ∧
    (let x : Stop := { k := 0, frozen := [.io, .ports, .engines, .barn 0] }
     let s := stopping 1 { stop := .io } [x]
     s.stop? 0 = some x ∧ s.ctxState 0 = 1 ∧ x.frozen.contains s.arg.stop = true ∧ x.freeze = false ∧
       (∀ u ∈ s.stopUnits 0, x.frozen.contains u = true) ∧ s.fab.accs = []) := by
  refine ⟨by decide +kernel, by decide +kernel, by decide +kernel, by decide +kernel, ?_⟩
  exact ⟨by decide +kernel, by decide +kernel, by decide +kernel, by decide +kernel, by decide +kernel, by decide +kernel⟩

/-- A saved record of slot 0, bound to ASID 0, with one granted unit of logical barn 0. -/
def saved0 (size : Nat) : Saved :=
  { k := 0, asid := 0, scr := [{ barn := 0, size := size, cells := [] }], wbuf := [], insts := [{ v := 0, barns := [0], since := 5 }],
    bmap := upto 64, restoring := true }

def restoring (l : List Inst) (size : Nat) : State :=
  (admitting ({ State.reset with insts := l, saved := [saved0 size] } : State)).setReg (.trSlot 0) (2 ^ 31)

theorem witness_SavesAndRestores :
    (∀ n ∈ [0, 1], let s := (stopping 2 {} [{ k := 0 }]).setReg (.ctxSave 0) (BitVec.ofNat 64 (n * 2 ^ 44 + 0x1000))
     s.stop? 0 = some { k := 0 } ∧ s.ctxState 0 = 2 ∧ s.regField (.ctxSave 0) 12 32 * 2 ^ 12 = 0x1000 ∧ reservedPa 0x1000 = false ∧
       ((s.saveImage 0).length ≤ s.regField (.ctxSave 0) 44 20 * 2 ^ 20 ↔ n = 1) ∧ reservedPa (0x1000 + (s.saveImage 0).length - 1) = false ∧
       physical 0x1000 = some (.dev, 0x1000)) ∧
    (acts {} {}).stop? 0 = none ∧
    (∀ size ∈ [1, 2], let s := restoring [{ inst0 with placed := none, barns := [] }] size
     s.saved.find? (fun x => decide (x.k = 0) && x.restoring) = some (saved0 size) ∧ s.restorable (saved0 size) = decide (size = 1)) ∧
    (let s := restoring [{ inst0 with placed := none, barns := [] }] 1
     s.regField (.schedQtab 0) 0 60 = 0 ∧ (s.readQtab 0 0).2 = some [] ∧ (s.putBack (saved0 1)).isSome = true) ∧
    (let s := restoring ((upto 8).map fun j => { inst0 with k := j + 2 }) 1
     (s.readQtab 0 0).2 = some [] ∧ (s.putBack (saved0 1)).isNone = true) := by decide +kernel

/-! Peer links, image loads and traps. -/

theorem append_low (c : BitVec 64) (x : BitVec 1984) (i : Nat) (h : i < 248) :
    ((c ++ x : BitVec 2048).extractLsb' (8 * i) 8) = x.extractLsb' (8 * i) 8 := by
  ext j hj
  simp only [BitVec.getElem_extractLsb', BitVec.getLsbD_append]
  rw [if_pos (by omega)]

theorem append_high (c : BitVec 64) (x : BitVec 1984) (i : Nat) :
    ((c ++ x : BitVec 2048).extractLsb' (8 * (248 + i)) 8).toNat = c.toNat / 2 ^ (8 * i) % 256 := by
  have e : ((c ++ x : BitVec 2048).extractLsb' (8 * (248 + i)) 8) = c.extractLsb' (8 * i) 8 := by
    ext j hj
    simp only [BitVec.getElem_extractLsb', BitVec.getLsbD_append]
    rw [if_neg (by omega), show 8 * (248 + i) + j - 1984 = 8 * i + j by omega]
  rw [e, BitVec.extractLsb'_toNat, Nat.shiftRight_eq_div_pow]

/-- The bytes of a flit before its CRC, and a flit of them with its CRC. -/
def bodyBytes (x : BitVec 1984) : List Byte := (upto 248).map fun i => x.extractLsb' (8 * i) 8

def flit (x : BitVec 1984) : BitVec 2048 := Config.crc64 (bodyBytes x) ++ x

theorem flitBytes_flit (x : BitVec 1984) : flitBytes (flit x) = bodyBytes x ++ (upto 8).map fun i => (flit x).extractLsb' (8 * (248 + i)) 8 := by
  have h : upto 256 = upto 248 ++ (upto 8).map fun i => 248 + i := by decide +kernel
  have hu : ∀ i ∈ upto 248, i < 248 := by decide +kernel
  have hz : (upto 248).map (fun i => (flit x).extractLsb' (8 * i) 8) = bodyBytes x := by
    apply List.map_congr_left
    intro i hi
    have hx := append_low (Config.crc64 (bodyBytes x)) x i (hu i hi)
    simpa only [flit] using hx
  rw [flitBytes, h, List.map_append, hz, List.map_map]
  rfl

theorem leNat_upto8 (g : Nat → Byte) (c : Nat) (hc : c < 2 ^ 64) (h : ∀ i < 8, (g i).toNat = c / 2 ^ (8 * i) % 256) :
    leNat ((upto 8).map g) = c := by
  change leNat [g 0, g 1, g 2, g 3, g 4, g 5, g 6, g 7] = c
  simp only [leNat]
  rw [h 0 (by decide), h 1 (by decide), h 2 (by decide), h 3 (by decide), h 4 (by decide), h 5 (by decide), h 6 (by decide), h 7 (by decide)]
  omega

theorem bodyBytes_length (x : BitVec 1984) : (bodyBytes x).length = 0xF8 := by
  have h : (upto 248).length = 248 := by decide +kernel
  rw [bodyBytes, List.length_map, h]

theorem flit_crc (x : BitVec 1984) : recField (flitBytes (flit x)) 0xF8 8 = (Config.crc64 ((flitBytes (flit x)).take 0xF8)).toNat := by
  have ht : (flitBytes (flit x)).take 0xF8 = bodyBytes x := by
    rw [flitBytes_flit]; exact List.take_left' (bodyBytes_length x)
  have hd : (flitBytes (flit x)).drop 0xF8 = (upto 8).map fun i => (flit x).extractLsb' (8 * (248 + i)) 8 := by
    rw [flitBytes_flit]; exact List.drop_left' (bodyBytes_length x)
  have hk : ((upto 8).map fun i => (flit x).extractLsb' (8 * (248 + i)) 8).take 8 = (upto 8).map fun i => (flit x).extractLsb' (8 * (248 + i)) 8 :=
    List.take_of_length_le (by rw [List.length_map]; decide)
  rw [recField, hd, ht, hk]
  exact leNat_upto8 _ _ (Config.crc64 (bodyBytes x)).isLt fun i _ => append_high (Config.crc64 (bodyBytes x)) x i

theorem flit_field (x : BitVec 1984) (o n : Nat) (h : o + n ≤ 248) : recField (flitBytes (flit x)) o n = recField (bodyBytes x) o n := by
  have hl := bodyBytes_length x
  rw [recField, flitBytes_flit, List.drop_append_of_le_length (by omega), List.take_append_of_le_length (by rw [List.length_drop]; omega)]
  rfl

/-- A port in service, or not, that receives a flit. -/
def receiving (up : Bool) (x : BitVec 1984) : State :=
  (acts { data := some (flit x) } {}).setReg (.linkStat 0) (if up then 2 ^ 31 else 0)

/-- A port's unacknowledged flit, and the port. -/
def sent0 : Sent := { seq := 0, pkg := 1, chunk := { grp := 0, cseq := 0, rank := 0, off := 0, words := [] } }

def ported (up : Bool) (x : Port) (cyc : Nat) : State :=
  ({ acts {} {} with ports := [x], cyc := cyc } : State).setReg (.linkStat 0) (if up then 2 ^ 31 else 0)

theorem witness_PeerLinks :
    (∀ x ∈ [(0 : BitVec 1984), 1, 3], let s := receiving true x
     s.arg.data = some (flit x) ∧ s.portUp 0 = true ∧ recField (flitBytes (flit x)) 0xF8 8 = (Config.crc64 ((flitBytes (flit x)).take 0xF8)).toNat ∧
       recField (flitBytes (flit x)) 4 4 = (s.port 0).expect ∧ recField (flitBytes (flit x)) 0 1 < 4 ∧ s.collEnded 0 0 = false) ∧
    (recField (flitBytes (flit 1)) 0 1 = 1 ∧ recField (flitBytes (flit 1)) 0x10 4 = 0 ∧ recField (flitBytes (flit 1)) 0x14 4 = 0) ∧
    (∀ x ∈ [(4 : BitVec 1984), 1 <<< 32], (receiving true x).portUp 0 = true ∧
      ¬(recField (flitBytes (flit x)) 4 4 = ((receiving true x).port 0).expect ∧ recField (flitBytes (flit x)) 0 1 < 4)) ∧
    (receiving false 0).portUp 0 = false ∧
    (∀ w ∈ [true, false], let s : State := { acts { flag := w, j := 9 } {} with pubs := [pub0], delivs := [deliv0 0x80 0] }
     (s.pubs.drop s.arg.n).head? = some pub0 ∧ (s.delivs.drop s.arg.m).head? = some (deliv0 0x80 0) ∧ s.arg.flag = w) ∧
    (∀ n ∈ [7, 8], let x : Port := { p := 0, unacked := [sent0], replays := n, lastAck := 1 }
     let s := ported true x 4801
     s.port 0 = x ∧ s.portUp 0 = true ∧ x.unacked ≠ [] ∧ x.lastAck + 4800 ≤ s.cyc ∧ (x.replays < 8 ↔ n = 7)) ∧
    (let x : Port := { p := 0, unacked := [sent0], lastAck := 1 }
     (ported true x 4800).portUp 0 = true ∧ (ported true x 4800).port 0 = x ∧ (ported true x 4800).cyc < x.lastAck + 4800) ∧
    (∀ w ∈ [true, false], let x : Port := { p := 0, unacked := [sent0], training := w }
     (ported false x 0).portUp 0 = false ∧ (ported false x 0).port 0 = x ∧ x.training = w) := by
  refine ⟨?_, by rw [flit_field _ _ _ (by decide), flit_field _ _ _ (by decide), flit_field _ _ _ (by decide)]; decide +kernel, ?_,
    by decide +kernel⟩
  · intro x hx
    refine ⟨rfl, ?_, flit_crc x, ?_⟩
    · simp only [List.mem_cons, List.not_mem_nil, or_false] at hx
      rcases hx with rfl | rfl | rfl <;> decide +kernel
    rw [flit_field _ _ _ (by decide), flit_field _ _ _ (by decide)]
    simp only [List.mem_cons, List.not_mem_nil, or_false] at hx
    rcases hx with rfl | rfl | rfl <;> exact by decide +kernel
  · intro x hx
    rw [flit_field _ _ _ (by decide), flit_field _ _ _ (by decide)]
    simp only [List.mem_cons, List.not_mem_nil, or_false] at hx
    rcases hx with rfl | rfl <;> exact by decide +kernel

/-- A native image of one block of one NEG without targets, in one kernel; its header's MAGIC starts with `m`. -/
def img0 (m : Byte) : List Byte :=
  [m, 0x58, 0x49, 0x4D, 4, 0, 1, 0] ++ leBytes 8 0x40 ++ leBytes 8 0x80 ++ leBytes 8 0x20 ++ leBytes 8 0x80 ++ recZero 24 ++
    leBytes 8 0x80 ++ recZero 12 ++ [1] ++ recZero 43 ++
    leBytes 16 (0x59C4 * 2 ^ 112 + 4 * 2 ^ 104 + 41021) ++ leBytes 8 0x014000FFFFC00000 ++ leBytes 8 0

/-- A load request with an operation, and the state with it at the head of the queue and an image at SRC. -/
def requestRec (op : Nat) : List Byte :=
  [0x6E, 0x1D, BitVec.ofNat 8 op, 0, 0, 0, 0, 0] ++ leBytes 8 0 ++ leBytes 8 160 ++ leBytes 8 0 ++ leBytes 8 160 ++ leBytes 8 0x9000 ++ recZero 16

/-- The tables of `tables`, whose page also has X and stands at 16 GiB. -/
def codeTables : List Host.Cell :=
  [(0, 0x01), (1, 0x10), (0x1000, 0x01), (0x1001, 0x20), (0x2000, 0x1E), (0x2004, 0x04)]

def loading (op : Nat) (img : List Byte) (imgs : List Image) : State :=
  let req : List Host.Cell := (requestRec op).zipIdx.filterMap fun x => if x.1 = 0 then none else some (x.2 + 0x8000, x.1)
  let code : List Host.Cell := img.zipIdx.filterMap fun x => if x.1 = 0 then none else some (x.2 + 0x400000000, x.1)
  ({ acts {} {} with insts := [], dmem := codeTables ++ req ++ code, loadq := [0x8000], images := imgs } : State).setReg (.trSlot 0) (2 ^ 31)

/-- What a run of the clauses of native loads needs. -/
def loadsNative (img : List Byte) (imgs : List Image) : Bool :=
  let s := loading 1 img imgs
  match s.unitRead 0 0 4096 0 160 srcIo with
  | (v, .ok b _) => match v.pagesOk 0 { r := true, w := true, x := true } (pageCount 0 160) 0 with
    | (w, .ok) => match w.unitRead 0 0 4096 0 160 srcIo with
      | (_, .ok c _) => decide (b = img) && decide (c = img)
      | _ => false
    | _ => false
  | _ => false

def image0 (n : Nat) : Image := { k := 0, base := n * 0x1000, len := 160, minr := 0 }

/-- A Pekor image of one empty section of type 1, in 160 bytes. -/
def pekor0 : List Byte := [0x50, 0x45, 0x4B, 0x52, 1, 0, 1, 0] ++ recZero 56 ++ [1, 0, 0, 0] ++ recZero 92

/-- The translation store that holds a translation of it. -/
def stored (s : State) : State :=
  { s with tc := [{ key := s.storeKey pekor0, image := img0 0x59, digest := Config.sha256 (img0 0x59), lastUse := 0, er := 0 }] }

theorem stored_found {s : State} {b : List Byte} {d : Nat} {e : TcEntry} (ht : s.regField .tcCtl 0 1 = 1) (hc : s.tc = [e]) (hk : e.key = s.storeKey b)
    (hd : Config.sha256 e.image = e.digest) : (s.translated b d).2 = some (e.image, 1) := by
  have hr : ({ s with tcLook := s.tcLook + 1 } : State).regField .tcCtl 0 1 = 1 := ht
  have hf : s.tc.find? (fun x => decide (x.key = s.storeKey b)) = some e := by rw [hc]; simp [hk]
  simp only [State.translated, State.lookupImage, hr, hf, hd, if_true]

/-- Loads: a refused request; a native image that fails, one that passes, and one for a full table; a Pekor image that is bad, and one
that is stored, if its sections are sound, which the model leaves open; an unload of an image that is there, is not, or is in use. -/
theorem witness_ImageLoads :
    (∀ op ∈ [0, 4], let s := loading op (img0 0x59) []
     s.loadq.head? = some 0x8000 ∧ s.loadFault = none ∧ s.loadFailed = false ∧ reservedPa 0x8000 = false ∧
       badRequest (s.readPaB 0x8000 64) = true ∧ reservedPa (loadReq (s.readPaB 0x8000 64)).res = false) ∧
    (∀ x ∈ [(0x59, 0), (0x59, 63), (0x59, 64), (0x58, 0)], let imgs := (upto x.2).map fun n => image0 (n + 1)
     let s := loading 1 (img0 (BitVec.ofNat 8 x.1)) imgs
     let r := loadReq (s.readPaB 0x8000 64)
     badRequest (s.readPaB 0x8000 64) = false ∧ r = { op := 1, k := 0, src := 0, len := 160, dst := 0, dlen := 160, res := 0x9000 } ∧
       loadsNative (img0 (BitVec.ofNat 8 x.1)) imgs = true ∧ physical 0x9000 = some (.dev, 0x9000) ∧
       firstFail (imageFails (img0 (BitVec.ofNat 8 x.1)) 1 [] fun l => Config.handlerDecl (0 + l.blk) % 64) = (if x.1 = 0x59 then none else some (2, 0)) ∧
       ((s.images.filter fun i => !(i.k = r.k && i.base = r.dst)).filter fun i => i.k = r.k).length = x.2) ∧
    (let s := loading 2 (img0 0x59) []
     badRequest (s.readPaB 0x8000 64) = false ∧ (loadReq (s.readPaB 0x8000 64)).op = 2 ∧ badPekor (img0 0x59) = true ∧
       (s.unitRead 0 0 4096 0 160 srcIo).2 = .ok (img0 0x59) false) ∧
    (let s := stored (loading 2 pekor0 [])
     ∀ p, Config.pekorParse pekor0 = some p → p.ok = true → badPekor pekor0 = false ∧ (s.translated pekor0 0).2 = some (img0 0x59, 1)) ∧
    (∀ x ∈ [([image0 0], true), ([], true), ([image0 0], false)], let s : State := { loading 3 [] x.1 with insts := if x.2 then [] else [inst0] }
     badRequest (s.readPaB 0x8000 64) = false ∧ (loadReq (s.readPaB 0x8000 64)).op = 3 ∧
       (s.images.any fun i => i.k = 0 && i.base = 0) = !x.1.isEmpty ∧ (s.insts.any fun i => i.k = 0 && i.base = 0) = !x.2) := by
  refine ⟨by decide +kernel, by decide +kernel, by decide +kernel, fun p h hp => ⟨?_, ?_⟩, by decide +kernel⟩
  · unfold badPekor
    simp only [h, Option.map_some, Option.getD_some, hp]
    decide +kernel
  · have ht : (stored (loading 2 pekor0 [])).regField .tcCtl 0 1 = 1 := by decide +kernel
    exact stored_found ht rfl rfl rfl

/-- A trap of `zeros` that its firing holds, or that a patch handler emulates; the state with it, with CTX_TRAPCH and with words in the
queue of channel 63 of tile 7. -/
def trap0 (h : Hold) (cls : TrapClass) (toHost : Bool) : Trap := { held zeros tcPoison with hold := h, cls := cls, toHost := toHost }

def delivering (ch : Nat) (t : Trap) (words : List ChanWord) : State :=
  ({ acts { n := 5, val := 5 } { chans := words } with traps := [t] } : State).setReg (.trapch 0) (BitVec.ofNat 64 ch)

/-- A partial set at `node`, of slot 0, and its item. -/
def alarmed (cyc : Nat) (pending : Bool) : State :=
  let x : Machine.PSet := { site := node, tag := 0, dep := 0, a := some (tk 1), place := .table 0, opened := 0, since := 1 }
  let t : Trap := { held zeros tcStallAge with cls := .A, hold := .none, slot := 1 }
  ({ acts { item := .set 0 } { blocks := [block (.bay 0 0) 0 [0x0000000E7FC00000]], sets := [x] } with
      cyc := cyc, traps := if pending then [t] else [] } : State).setReg (.stallim 0) 3

theorem witness_TrapDelivery :
    (∀ x ∈ [(2 ^ 31 + 2 ^ 15 + 511, 0), (2 ^ 31 + 511, 15), (2 ^ 31 + 511, 16), (511, 0)], let t := trap0 (.firing zeros) .F false
     let s := delivering x.1 t (List.replicate x.2 chan0)
     s.byTrapIndex s.arg.k s.arg.n = some t ∧ t.stage = .raised ∧ s.ctxState t.k = 0 ∧ s.fab.accs = [] ∧
       (s.traps.takeWhile fun x => !(x.k = t.k && x.index = t.index)) = [] ∧
       s.trapDest t = (if x.1 < 2 ^ 31 then none else some (0, 7, 63)) ∧ s.chanCount 0 7 (some 63) = x.2) ∧
    (∀ h ∈ [true, false], let t := trap0 (.emulation zeros 3) .W h
     let s := delivering 0 t []
     s.byTrapIndex s.arg.k s.arg.n = some t ∧ t.stage = .raised ∧ t.toHost = h ∧ s.firstTile t.k t.barn = some 0 ∧ s.chanCount t.barn 0 none = 0) ∧
    (∀ c ∈ [TrapClass.F, .E, .A], let t := trap0 (.firing zeros) c false
     let s := delivering 0 t []
     s.byTrapIndex s.arg.k (bitsAt s.arg.val.toNat 0 8) = some t ∧ t.cls = c ∧ t.tcode ≠ tcDupToken ∧ t.tcode ≠ tcUser ∧
       (∃ i ∈ s.insts, i.k = t.k ∧ i.v = t.v)) ∧
    (acts {} {}).byTrapIndex 0 0 = none ∧
    (∀ x ∈ [(1025, false), (1025, true), (1024, false)], let s := alarmed x.1 x.2
     s.stalled s.arg.item = some (stalledAt node 0x0000000E7FC00000 0 0 1 1) ∧ s.stallLimit 0 = some 1024 ∧ s.ctxState 0 = 0 ∧ s.hasFault 0 = false ∧
       (1 + 1024 ≤ s.cyc ↔ x.1 = 1025) ∧ (s.freeTrapIndex 0).isSome = true ∧
       (s.traps.any fun t => t.k = 0 && t.tcode = tcStallAge && t.srck = 0 && t.barn = 0 && t.unit = 0 && t.idx = 0 && t.blk = 0x40 && t.tag = 0 &&
         t.dep = 0 && t.slot = 1) = x.2 ∧ (stalledAt node 0x0000000E7FC00000 0 0 1 1).now = false) ∧
    (let s := (alarmed 1025 false).setReg (.stallim 0) 0
     s.stalled s.arg.item = some (stalledAt node 0x0000000E7FC00000 0 0 1 1) ∧ s.stallLimit 0 = none) := by
  refine ⟨by decide +kernel, by decide +kernel, ?_, by decide +kernel⟩
  intro c h
  simp only [List.mem_cons, List.not_mem_nil, or_false] at h
  rcases h with rfl | rfl | rfl <;>
    exact ⟨by decide +kernel, by decide, by decide, by decide, inst0, List.mem_cons_self, by decide⟩

/-! Freezes, the Gong, patch images and service. -/

/-- A partition that freezes from a cycle on. -/
def freezing (p from_ : Nat) (gated : Bool) (arg : EventArg) (cyc : Nat) : State :=
  { acts arg {} with freezes := [{ p := p, at_ := from_, gated := gated }], cyc := cyc }

/-- BARN.0 is gated, with a cause in FRZ_STAT, and slot 0, placed in it, is stopped by the freeze. -/
def frozen (cause : Nat) (hot : Bool) : State :=
  ({ freezing 0 0 true {} 8 with stops := [{ k := 0, freeze := true, asked := false }], overtemp := hot } : State).setReg (.frzStat 0)
    (BitVec.ofNat 64 (cause * 2 ^ 16))

theorem witness_FreezesAndGong :
    (∀ x ∈ [(0, 0, 5), (64, 0, 5), (64, 1, 0), (63, 2, 0), (0, 4, 0), (63, 0, 4), (0, 0, 2), (0, 0, 6)],
      let s := acts { n := x.1, m := x.2.1, u := x.2.2 } {}
      s.arg.n < 65 ∧ (∀ f ∈ s.freezes, f.p ≠ s.arg.n) ∧ s.arg.m = x.2.1 ∧ s.arg.u = x.2.2 ∧ s.arg.flag = false ∧ s.arg.k = 0 ∧ (∀ h ∈ s.hooks, ¬(h.kind = 1 ∧ h.scls = x.2.2))) ∧
    ((acts { n := 63, u := 6, flag := true } {}).arg.flag = true ∧
      ((acts {} {}).setReg (.errCe 63 6) 0xFFFFFFFF).regField (.errCe 63 6) 0 32 = 2 ^ 32 - 1) ∧
    (¬∀ f ∈ (freezing 64 0 false { n := 64 } 0).freezes, f.p ≠ (freezing 64 0 false { n := 64 } 0).arg.n) ∧
    (let e := sbufEntry 0 3
     let a := { acc0 .write .flat .dev with id := 3 }
     let s := acts { u := 4 } { sbuf := [e], accs := [a], queues := [queued (tk 0)] }
     (s.fab.sbuf.drop s.arg.j).head? = some e ∧ e.acc = some 3 ∧ (∃ a ∈ s.fab.accs, a.id = 3) ∧ (s.fab.queues.drop s.arg.j).head? = some (queued (tk 0))) ∧
    (∀ cyc ∈ [8, 7], let s := freezing 0 0 false {} cyc
     s.freezes.find? (fun f => decide (f.p = s.arg.n)) = some { p := 0, at_ := 0 } ∧ (0 + 8 ≤ s.cyc ↔ cyc = 8) ∧ s.placedPart 0 = [0] ∧ s.ctxState 0 = 0) ∧
    (∀ x ∈ [(3, false), (0, false), (3, true)], let s := frozen x.1 x.2
     s.frozenPart 0 = true ∧ s.regField (.frzStat 0) 16 8 = x.1 ∧ s.overtemp = x.2 ∧ s.placedPart 0 = [0] ∧
       s.stop? 0 = some { k := 0, freeze := true, asked := false } ∧ (∀ q < 65, q ≠ 0 → s.frozenPart q = false) ∧
       (s.insts.map fun i => (i.k, i.v)).Nodup) ∧
    ((freezing 0 0 false {} 0).frozenPart 0 = false ∧ ∀ f ∈ (acts {} {}).freezes, f.p ≠ 0) ∧
    (∀ x ∈ [(1, none), (0, none), (0, some 48)], let s : State := { (acts { val := BitVec.ofNat 64 (x.1 * 2 ^ 31 + 2 ^ 29) } {}).setReg .gongCtl (BitVec.ofNat 64 (x.1 * 2 ^ 31 + 0x200)) with gongAt := x.2 }
      let v := s.writeGong s.arg.val s.arg.j
      s.regField .gongCtl 31 1 = x.1 ∧ v.regField .gongCtl 31 1 = x.1 ∧ v.gongAt = x.2 ∧ v.cyc = 0 ∧ s.regField .gongCtl 8 2 = 2) ∧
    ({ acts {} {} with gongAt := some 0 } : State).gongAt = some (acts {} {}).cyc ∧ (acts {} {}).gongAt ≠ some (acts {} {}).cyc := by
  refine ⟨by decide +kernel, by decide +kernel, by decide, ⟨by decide, rfl, ⟨_, List.mem_cons_self, rfl⟩, by decide⟩, ?_⟩
  exact ⟨by decide +kernel, by decide +kernel, by decide +kernel, by decide +kernel, rfl, by decide⟩

/-- Bytes in device memory from an address on. -/
def devBytes (at_ : Nat) (b : List Byte) : List Host.Cell := b.zipIdx.filterMap fun x => if x.1 = 0 then none else some (x.2 + at_, x.1)

/-- A patch image, or a firmware image, without records, PLEVEL or VERSION 7 and SVN 2; its signature is not judged here. -/
def patch0 (m : Byte) : List Byte := [m, 0x42, 0x45, 0x4C, 1, 0, 2, 0, 7, 0, 0, 0, 1] ++ recZero 3 ++ leBytes 8 0x80 ++ recZero 232

def firmware0 : List Byte := [0x59, 0x46, 0x57, 0x49, 1, 0, 2, 0, 7, 0, 0, 0, 0] ++ recZero 3 ++ leBytes 8 0x80 ++ recZero 232

/-- A request at 0x100 for an image of 256 bytes at 0x400; `r` in its reserved bytes must be 0. -/
def imageReq (r : Nat) (img : List Byte) (arg : EventArg) : State :=
  let req : List Byte := leBytes 8 0x400 ++ leBytes 4 256 ++ [1, BitVec.ofNat 8 r]
  { acts { arg with val := 0x100 } {} with dmem := devBytes 0x100 req ++ devBytes 0x400 img }

/-- A load of a patch image that began in cycle 0, and a block that drains, or none. -/
def switching (busy : Bool) (cyc : Nat) (flag : Bool) : State :=
  ({ acts { flag := flag } {} with belLoad := some { bytes := patch0 0x59, persist := true, started := 0 }, cyc := cyc,
                                   fetches := if busy then [fetch0 0x40 0 0] else [] } : State).setReg .belCtl 1

/-- A memory checkpoint request of 2 MiB at 0x200000, whose record is `r` in its reserved bytes; slot 0 has a save area of `n` MiB. -/
def checkpointing (r n : Nat) : State :=
  let req : List Byte := [0xE5, 0x3C, 0, BitVec.ofNat 8 r] ++ recZero 4 ++ leBytes 8 0x200000 ++ leBytes 8 0x200000 ++ leBytes 8 0x1000 ++ leBytes 8 0x9000
  ({ acts { val := 0x100 } {} with dmem := devBytes 0x100 req } : State).setReg (.ctxSave 0) (BitVec.ofNat 64 (n * 2 ^ 44))

def mck0 : MemCkpt := { src := 0x200000, len := 0x200000, dst := 0x1000, res := 0x9000, resume := false, slots := [0] }

/-- A retirement request for a frame of class 3 that is mapped, or free. -/
def retiring (frame mapped reserved : Nat) (gone : List Nat) (lists : List Host.Cell) : State :=
  let req : List Byte := leBytes 8 frame ++ [3, BitVec.ofNat 8 mapped, 0, 0, BitVec.ofNat 8 reserved, 0, 0, 0] ++ leBytes 8 0 ++ leBytes 8 0x9000
  ({ acts { val := 0x100 } {} with dmem := lists ++ devBytes 0x100 req, retired := gone } : State).setReg .trCfl 0x8000

theorem witness_ServiceFunctions :
    (∀ x ∈ [(0, 0x58), (1, 0x59)], let s := imageReq x.1 (patch0 (BitVec.ofNat 8 x.2)) {}
     s.belLoad = none ∧ s.fwReq = none ∧ reservedPa (bitsAt s.arg.val.toNat 4 40 * 16) = false ∧
       s.fwRequest 0x100 (2 ^ 20) = (if x.1 = 0 then some (0x400, 256, true) else none) ∧ s.fwRequest 0x100 (2 ^ 24) = s.fwRequest 0x100 (2 ^ 20) ∧
       s.readPaB 0x400 256 = patch0 (BitVec.ofNat 8 x.2) ∧ (x.1 = 0 → badPatchImage (patch0 (BitVec.ofNat 8 x.2)) = true)) ∧
    (∀ svn, signCheck (patch0 0x59) svn = 0 → patchCheck (patch0 0x59) svn = 0) ∧
    (∀ svn, signCheck firmware0 svn = 0 → fwCheck firmware0 svn = 0) ∧
    ((imageReq 0 firmware0 {}).fwReq = none ∧ (imageReq 0 firmware0 {}).readPaB 0x400 256 = firmware0) ∧
    (∀ x ∈ [(false, 1024, true), (false, 1024, false), (true, 1024, false), (true, 0, true)], let s := switching x.1 x.2.1 x.2.2
     s.belLoad.isSome = true ∧ s.belDrained (imageSlots (patch0 0x59)) = !x.1 ∧ 1024 * s.regField .belCtl 0 24 = 1024 ∧ s.cyc ≤ 1024 ∧ s.arg.flag = x.2.2) ∧
    (let s : State := { acts {} {} with fwReq := some { bytes := firmware0, persist := false, started := 0 } }
     s.fwReq.isSome = true ∧ s.loadFault = none) ∧
    (∀ x ∈ [(1, 1), (0, 0), (0, 1)], let s := checkpointing x.1 x.2
     s.mck = none ∧ badCheckpoint (s.readPaB 0x100 64) = decide (x.1 = 1) ∧ bitsAt (recField (s.readPaB 0x100 64) 0x20 8) 6 38 * 64 = 0x9000 ∧
       s.placedSlots = [0] ∧ (s.regField (.ctxSave 0) 44 20 = 0 ↔ x.2 = 0) ∧ s.ctxState 0 = 0 ∧ reservedPa 0x100 = false ∧ reservedPa 0x9000 = false) ∧
    (∀ n ∈ [1, 2, 3], let s : State := { stopping n {} (if n = 2 then [{ k := 0, ovf := true }] else []) with mck := some mck0 }
     s.mck = some mck0 ∧ physical mck0.res = some (.dev, 0x9000) ∧ s.ctxState 0 = n ∧ ((s.stop? 0).map Stop.ovf).getD false = decide (n = 2) ∧
       s.arg.flag = false ∧ Memory.wf s.dmem = true ∧ Memory.wf s.hmem = true) ∧
    (let v (s : State) := (Reg.written (.svcCtl s.arg.u) (s.reg (.svcCtl s.arg.u)) s.arg.val).toNat
     let s := acts { u := 63, val := 0x818000000080 } {}
     ¬(bitsAt (v s) 7 1 = 1 ∧ bitsAt (v s) 15 1 = 1 ∧ bitsAt (v s) 0 5 = bitsAt (v s) 8 5) ∧ s.spareBusy 63 0 = false ∧
       (let t := acts { u := 63, val := 0x8585 } {}
        bitsAt (v t) 7 1 = 1 ∧ bitsAt (v t) 15 1 = 1 ∧ bitsAt (v t) 0 5 = bitsAt (v t) 8 5) ∧
       (let t := acts { val := 0x80 } { blocks := [{ block (.bay 0 0) 0 [] with cols := 1 }] }
        bitsAt (v t) 0 8 ≠ t.regField (.svcCtl 0) 0 8 ∧ t.spareBusy 0 0 = true)) ∧
    (∀ x ∈ [(1, 62, 0x3E3F), (1, 62, 0x3F3F), (0, 0, 0x0001)], let s := acts { k := x.1, n := x.2.1, m := 2, val := BitVec.ofNat 64 x.2.2 } {}
     let to_ := fun (i : Nat) => if s.arg.n ≤ i ∧ i < s.arg.n + max 1 s.arg.m then bitsAt s.arg.val.toNat (8 * (i - s.arg.n)) 6 else s.physBarn s.arg.k i
     (s.hasPlacement s.arg.k = true ↔ x.1 = 0) ∧ s.ctxState s.arg.k ≠ 3 ∧ (to_ 62 = to_ 63 ↔ x.2.2 = 0x3F3F) ∧
       ((∀ i < 64, ∀ j < 64, i ≠ j → to_ i ≠ to_ j) ↔ x.2.2 ≠ 0x3F3F)) ∧
    ((acts { val := 0x81 } {}).regField .dieFence 0 8 = 0 ∧ ((acts {} {}).setReg .hbmRetstat (2 ^ 63)).regField .hbmRetstat 63 1 = 1) ∧
    (let lists : List Host.Cell := [(0x8031, 0x90), (0x8038, 1), (0x803C, 1), (0x9002, 0x20)]
     (retiring 0x200000 0 0 [] lists).pullFrame ((retiring 0x200000 0 0 [] lists).channelList 0) 3 0x200000 ≠ none ∧
       (retiring 0x200000 0 0 [] []).pullFrame ((retiring 0x200000 0 0 [] []).channelList 0) 3 0x200000 = none ∧
       (retiring 0x200000 0 0 [0x200000] []).retired.contains 0x200000 = true ∧ zeroField ((retiring 0 0 1 [] []).readPaB 0x100 32) 0x0C 4 = false ∧
       zeroField ((retiring 0x200000 0 0 [] []).readPaB 0x100 32) 0x0C 4 = true ∧ 0x200000 % classSize 3 = 0 ∧
       (retiring 0x200000 0 0 [] []).regField .hbmRetstat 63 1 = 0) := by
  have hp : badPatchImage (patch0 0x59) = false := by decide +kernel
  have hf : ∀ svn, fwCheck firmware0 svn = signCheck firmware0 svn := fun svn => by
    have : (firmware0.length < 256 || recField firmware0 0 4 ≠ 0x49574659 || recField firmware0 4 2 ≠ 1 || recField firmware0 0x0C 4 ≠ 0 ||
      recField firmware0 0x10 8 % 64 ≠ 0 || firmware0.length < recField firmware0 0x10 8 + recField firmware0 0x18 8 + 64 ||
      recField firmware0 0x10 8 < 0x80 || !zeroField firmware0 0x60 32) = false := by decide +kernel
    simp only [fwCheck, this, if_false, Bool.false_eq_true]
  refine ⟨by decide +kernel, fun svn h => by rw [patchCheck, hp]; exact h, fun svn h => by rw [hf]; exact h, ?_⟩
  refine ⟨by decide +kernel, by decide +kernel, by decide +kernel, by decide +kernel, ?_⟩
  exact ⟨by decide +kernel, by decide +kernel, by decide +kernel, by decide +kernel, by decide +kernel⟩

/-! Boot, power, identity, registers and the machine as a whole. -/

/-- The state in a step of the boot, with these copies in flash. -/
def booting (n : Nat) (fw bel : List (List Byte)) : State := ({ State.reset with fwCopies := fw, belCopies := bel } : State).setPhase n

theorem accepts_first {a b : List Byte} {check : List Byte → Nat} (ho : copyOrder [a, b] = [0, 1]) (h : check a = 0) :
    firstAccepted [a, b] check = some (0, a) := by simp [firstAccepted, ho, h]

theorem accepts_second {a b : List Byte} {check : List Byte → Nat} (ho : copyOrder [a, b] = [1, 0]) (h : check b = 0) :
    firstAccepted [a, b] check = some (1, b) := by simp [firstAccepted, ho, h]

theorem witness_BootAndPower :
    (acts { flag := true } {}).arg.flag = true ∧
    (∀ n < 8, (booting n [] []).arg.flag = false ∧ (booting n [] []).phase = n) ∧
    (let s := booting 1 [[], []] [[], []]
     firstAccepted s.fwCopies (fun b => fwCheck b (s.regField .fwStat 32 16)) = none ∧
       firstAccepted s.belCopies (fun b => patchCheck b (s.regField .belStat 32 16)) = none) ∧
    (signCheck firmware0 0 = 0 → signCheck (patch0 0x59) 0 = 0 →
     let s := booting 1 [firmware0, []] [[], patch0 0x59]
     firstAccepted s.fwCopies (fun b => fwCheck b (s.regField .fwStat 32 16)) = some (0, firmware0) ∧
       firstAccepted s.belCopies (fun b => patchCheck b (s.regField .belStat 32 16)) = some (1, patch0 0x59)) ∧
    (∀ x ∈ [(85, 104), (86, 105), (85, 2401)], let s := acts { m := x.1, n := x.2 } {}
     (85 < s.arg.m ↔ x.1 = 86) ∧ (s.regField .pwrCfg 0 12 < s.arg.n ↔ x.2 = 2401) ∧ (105 ≤ s.arg.n ↔ x.2 ≠ 104)) := by
  refine ⟨rfl, by decide +kernel, by decide +kernel, fun hf hb => ?_, by decide +kernel⟩
  have h1 : ∀ svn, fwCheck firmware0 svn = signCheck firmware0 svn := fun svn => by
    have : (firmware0.length < 256 || recField firmware0 0 4 ≠ 0x49574659 || recField firmware0 4 2 ≠ 1 || recField firmware0 0x0C 4 ≠ 0 ||
      recField firmware0 0x10 8 % 64 ≠ 0 || firmware0.length < recField firmware0 0x10 8 + recField firmware0 0x18 8 + 64 ||
      recField firmware0 0x10 8 < 0x80 || !zeroField firmware0 0x60 32) = false := by decide +kernel
    simp only [fwCheck, this, if_false, Bool.false_eq_true]
  have h2 : badPatchImage (patch0 0x59) = false := by decide +kernel
  have r1 : (booting 1 [firmware0, []] [[], patch0 0x59]).regField .fwStat 32 16 = 0 := by decide +kernel
  have r2 : (booting 1 [firmware0, []] [[], patch0 0x59]).regField .belStat 32 16 = 0 := by decide +kernel
  have o1 : copyOrder [firmware0, []] = [0, 1] := by decide +kernel
  have o2 : copyOrder [[], patch0 0x59] = [1, 0] := by decide +kernel
  refine ⟨?_, ?_⟩
  · change firstAccepted [firmware0, []] _ = _
    exact accepts_first o1 (by rw [r1, h1]; exact hf)
  · change firstAccepted [[], patch0 0x59] _ = _
    exact accepts_second o2 (by rw [r2, patchCheck, h2]; exact hb)

theorem witness_RegistersAndIdentity :
    (∀ n < 4, (acts { n := n } {}).arg.n = n) ∧
    (∀ x ∈ [(8, 0, 0), (4, 0, 1), (4, 4, 2)], regPart (Reg.belId.offset + x.2.1) x.1 = some (.belId, x.2.2)) ∧
    (∀ k < 32, ∀ q ∈ [0, 63], regPart (0x10000 + 0x100 * k + 4 * q) 4 = none ∧ 0x10000 + 0x100 * k + 4 * q < 0x12000) ∧
    regPart Reg.winCfg.offset 4 = some (.winCfg, 0) ∧ regPart (Reg.hostEvt.offset + 1) 4 = none ∧ Reg.belId.offset < 0x800000 ∧
    (∀ v ∈ [599, 600, 2400, 2401], let s := acts { n := Reg.pwrCfg.offset, m := 4, val := BitVec.ofNat 64 v } {}
     regPart s.arg.n s.arg.m = some (.pwrCfg, 0) ∧ bitsAt s.arg.val.toNat 0 12 = v ∧ s.arg.n < 0x800000) ∧
    (∀ k ∈ [0, 31], let s := acts { n := (Reg.trSlot k).offset, m := 4, val := 0x8000FFFF } {}
     regPart s.arg.n s.arg.m = some (.trSlot k, 0) ∧ (s.hasPlacement k = true ↔ k = 0) ∧ s.arg.n < 0x800000 ∧
       regPart (Reg.schedCtx k).offset 4 = some (.schedCtx k, 0)) ∧
    (∀ n ∈ [15, 16], let s : State := { acts { n := Reg.imgLdreq.offset, m := 8, val := 0x140 } {} with loadq := List.replicate n 0x100 }
     regPart s.arg.n s.arg.m = some (.imgLdreq, 0) ∧ s.loadq.length = n ∧ s.arg.n < 0x800000) := by decide +kernel

/-- The words of the encodings: a block word, and a 32-bit and a 16-bit parcel of a core. -/
theorem witness_EncodingsRoundTrip :
    (let i : Instr := .mad ⟨.always, .i32, some ⟨7, .a⟩, none⟩ false
     i.wellFormed = true ∧ encode i = some (leBytes 8 0x0100000E7FC00000) ∧ (encodeWord i).isSome = true ∧ decodeWord 0x0100000E7FC00000 = some i) ∧
    (∀ x ∈ [(Instr.xttask 1 3 16, 4, 0x8238002B), (.baseInstruction 0x13 false, 4, 0x13), (.baseInstruction 1 true, 2, 1)],
      x.1.wellFormed = true ∧ encode x.1 = some (leBytes x.2.1 x.2.2) ∧ (encodeWord x.1).isSome = false ∧
        (x.2.1 = 4 → decodeCore32 (BitVec.ofNat 32 x.2.2) = x.1)) := by
  refine ⟨by decide, fun x hx => ?_⟩
  simp only [List.mem_cons, List.not_mem_nil, or_false] at hx
  rcases hx with rfl | rfl | rfl <;> decide

/-- An agenda with one turn. -/
def agenda (a : Act) (g : Fabric) : State := { acts {} g with agenda := [{ dt := 0, act := a }] }

/-- What an outcome holds. -/
def heldBy (o : Host.Outcome State Fault Refusal) : Option Bool := match o with | .next t => some t.held | _ => none

theorem witness_StepRunsDecoded :
    (acts {} {}).agenda = [] ∧
    (∀ full ∈ [false, true], let x := bound (core0 loader [0x0020150B])
     let s := agenda (.core loader) { cores := [x], eqs := if full then List.replicate 64 (pos false 0 (some (tk 0))) else [] }
     s.agenda = [{ dt := 0, act := .core loader }] ∧ (s.tick 0).core? loader = some x ∧ x.active = true ∧ x.waiting = false ∧ x.stopped = false ∧
       s.live x.k (.barn 0) = true ∧ s.gatedPart 0 = false ∧ x.pc.toNat + coreLen (x.wordAt x.pc.toNat) ≤ 0x10000) ∧
    (let x : Machine.PSet := { site := node, tag := 0, dep := 0, a := some (tk 1), b := some (tk 2), place := .table 0, opened := 0, since := 0, done := some 0 }
     let s := { agenda (.fire node) { blocks := [block (.bay 0 0) 0 [0x0000000E7FC00000]], sets := [x] } with cyc := 9 }
     node.holder.temporal = false ∧ s.nodeSets node = [x] ∧ s.nodeKind x.site = .plain ∧
       decodeBase (s.nodeWord x.site).1 = some (.add ⟨.always, .i32, some ⟨7, .a⟩, none⟩ false) ∧
       heldBy (exec (.add ⟨.always, .i32, some ⟨7, .a⟩, none⟩ false) (s.focus x)) = some false) ∧
    (hostWrite .gongRaise {} = true ∧ (acts {} {}).regField .pkgStat 31 1 = 0 ∧
      ((acts {} {}).setReg .pkgStat (2 ^ 31)).regField .pkgStat 31 1 = 1 ∧ hostWrite .gongLatch {} = false) := by
  decide +kernel

/-- After reset the memories have their form, and a turn answers a next state. -/
theorem witness_StepKeepsMemoryForm : State.reset.memWf ∧ ∃ t, step State.reset = .next t := ⟨by decide, _, rfl⟩

/-- A set at `node` of tokens with these marks in slot b, and a marked predicate. -/
def marked (a b : Tok) (p : Option Tok) : Firing := { zeros with a := some a, b := some b, c := none, p := p }

theorem witness_MarkersPass :
    (let r := { tk 0 with rol := true }
     (at_ (marked r r none)).cur = some (marked r r none) ∧ ∀ x ∈ (marked r r none).toks, x.2.rol = true) ∧
    (∀ x ∈ (marked eosTok eosTok (some (tk 0))).toks, x.1 ≠ .p → x.2.eos = true) ∧ (¬∀ x ∈ (marked eosTok eosTok none).toks, x.2.rol = true) ∧
    (let f := marked (tk 0) eosTok none
     (¬∀ x ∈ f.toks, x.2.rol = true) ∧ (¬∀ x ∈ f.toks, x.1 ≠ .p → x.2.eos = true) ∧ f.toks.find? (fun x => x.2.eos) = some (.b, eosTok)) ∧
    (let f := marked (tk 0) { tk 0 with nul := true } none
     (∀ x ∈ f.toks, x.2.eos = false) ∧ ∃ x ∈ f.toks, x.2.nul = true) ∧
    (let f := marked (tk 0) (tk 0) (some { tk 0 with poi := true })
     (∀ x ∈ f.toks, x.2.eos = false ∧ x.2.nul = false) ∧ ((f.tok? .p).map Tok.poi).getD false = true) ∧
    (let f := marked (tk 0) (tk 0) (some (tk 0))
     (∀ x ∈ f.toks, x.2.eos = false ∧ x.2.nul = false) ∧ (∀ x ∈ f.toks, x.2.poi = false) ∧ executes .whenTrue f.pred = false) ∧
    (computes (.add (h1 .i32) false)).isSome = true ∧ (computes (.fcos2 (h1 .f32))).isSome = true := by
  refine ⟨by decide, by decide, by decide, by decide, ⟨by decide, (.b, { tk 0 with nul := true }), by decide⟩, by decide +kernel⟩

theorem witness_InstructionFrames :
    (let s := at_ zeros
     s.cur = some zeros ∧ (∀ h ∈ s.hooks, h.n < 8) ∧ heldBy (exec (.add (h1 .i32) false) s) = some false ∧
       (computes (.add (h1 .i32) false)).isSome = true) ∧
    (let s := inKernel zeros {}
     let i : Instr := .ld (h1 .b32) .pkg false none 0 0
     s.cur = some zeros ∧ heldBy (exec i s) = some false ∧ (accesses i).isSome = true ∧ (encode i).isSome = true ∧ ∀ h a, i ≠ .eret h a) ∧
    (let t := held zeros tcPoison
     State.reset.freeTrapIndex t.k = some 0 ∧ t.k < 32 ∧ bitsAt (State.reset.reg (.trapArea t.k)).toNat 6 54 * 64 = 0 ∧
       bitsAt ((State.reset.setReg (.trapArea 0) 0x40).reg (.trapArea t.k)).toNat 6 54 * 64 = 0x40 ∧
       ({ State.reset with traps := (upto 256).map fun n => { t with index := n } } : State).freeTrapIndex t.k = none) := by
  refine ⟨by decide +kernel, ⟨rfl, by decide +kernel, by decide, by decide, fun h a e => ?_⟩, by decide +kernel⟩
  cases e

/-! Words that the manual prints in its examples and programs, with the fields that it works them from. -/

/-- A header of type b32 with a T0. -/
def onT0 (t : Target) : Hdr := ⟨.always, .b32, some t, none⟩

theorem test_printed_examples :
    decodeWord 0x400E000607000000 = some (.alloc ⟨.always, .b32, some ⟨3, .a⟩, some ⟨7, .a⟩⟩ 0) ∧
    decodeWord 0x6045080A7FC00003 = some (.fcvtp ⟨.always, .e4m3x4, some ⟨5, .a⟩, none⟩ true .rne 3) ∧
    decodeWord 0x808E90127FC645F8 = some (.ld (onT0 ⟨9, .a⟩) .sys true (some ⟨12, .c⟩) 2 (-8)) ∧
    decodeWord 0xD10E80FFFFCA4007 = some (.publish ⟨.always, .b32, none, none⟩ .sys (some ⟨20, .c⟩) 7) ∧
    decodeWord 0xE00E00FFFFC00000 = some (.exit ⟨.always, .b32, none, none⟩ false 0 0) ∧
    decodeWord 0xE00100FFFFC00101 = some (.exit ⟨.always, .n32, none, none⟩ true 0 1) ∧
    decodeWord 0x9040612E7FFFE000 = some (.sts ⟨.always, .i32, some ⟨23, .a⟩, none⟩ .pkg true none 0) ∧
    decodeWord 0xA28200187FC000F7 = some (.rsqs ⟨.always, .f32, some ⟨12, .a⟩, none⟩ .rne 7 23) := by decide

theorem test_printed_programs :
    decodeWord 0x6005182EFFC00002 = some (.fcvt ⟨.always, .e4m3x4, some ⟨23, .b⟩, none⟩ true true .rne 0 0 2) ∧
    decodeWord 0xC00E00067FC00407 = some (.mregion (onT0 ⟨3, .a⟩) 1 0 7) ∧
    decodeWord 0xC10500047FC00602 = some (.mmac ⟨.always, .e4m3x4, some ⟨2, .a⟩, none⟩ false 12 1 false) ∧
    decodeWord 0xC14200FFFFC001D0 = some (.mdrain ⟨.always, .f32, none, none⟩ false 14 true 0) ∧
    decodeWord 0xC08E001A7FFFE000 = some (.wload (onT0 ⟨13, .a⟩) none false 0 0) ∧
    decodeWord 0xE2CE60227FFFE600 = some (.launch (onT0 ⟨17, .a⟩) .pkg none 3 0) ∧
    decodeWord 0xD18E61FFFFFFEA00 = some (.rollArr ⟨.always, .b32, none, none⟩ .pkg none 5 0) ∧
    decodeWord 0xA102001F7FC00013 = some (.sred ⟨.always, .f32, some ⟨15, .c⟩, none⟩ false .rne false 19) ∧
    decodeCore32 0x03FFCFAB = .waitc 0 63 31 31 ∧ decodeCore32 0x00F8400B = .xlq 0 15 16 0 := by decide

/-! Memory, control and the cores: hand calculation from the rules named. -/

/-- The accesses that an instruction issues: the addresses and sizes of their pieces. -/
def issues (i : Instr) (s : State) : List (Nat × Nat) :=
  match exec i s with
  | .next t => t.fab.accs.flatMap fun a => a.pieces.map fun p => (p.addr, p.size)
  | _ => []

/-- R135: KBASE.1 plus the index, DISP sign-extended; R138: pieces within natural boundaries. -/
theorem test_ld_address : issues (.ld (h1 .b32) .blk false none 0 (-8)) (inKernel (set3 0x108 0 0) {}) = [(0x100, 4)] ∧
    issues (.ld (h1 .b32) .blk false none 1 4) (withUnit (inKernel (set3 0x10 0 0) {})) = [(win0 + 0x14, 4)] := by decide +kernel
/-- R136, R141: a scratch access aligns to its size. -/
theorem test_lds_misaligned : traps (.lds (h1 .b32) .blk false false false none 2) (withUnit (inKernel (set3 0x100 0 0) {})) = [tcAlign] ∧
    issues (.lds (h1 .b32) .blk false false false none 4) (withUnit (inKernel (set3 0x100 0 0) {})) = [(0x104, 4)] := by decide +kernel
/-- R135: an address with bits 63 to 60 set faults with PAGE. -/
theorem test_ld_noncanonical : traps (.ld (h1 .b32) .blk false none 0 0x1FF) (inKernel zeros {}) = [tcPage] := by decide +kernel
/-- R205: USER with the code and the data of slot a. -/
theorem test_trap_user : (match exec (.trap (h1 .b32) 0x1234) (inKernel (set3 0xABCD 0 0) {}) with
    | .next t => t.traps.map fun x => (x.tcode, x.aux0, x.aux1)
    | _ => []) = [(tcUser, 0x1234, 0xABCD)] := by decide +kernel
/-- R206: CRRD of register 0 sends the flags of lanes 0 to 3 of the context. -/
theorem test_crrd_flags : sent (.crrd (h1 .b32) 0) ((inKernel zeros {}).setReg (.flagLo 0) 0x12345678) = [(0x12345678, false, false)] := by
  decide +kernel

/-- The registers 5 and 6 and the program counter of a core after an instruction. -/
def after (i : Instr) (x : Core) (g : Fabric) : Option (Word × Word × Nat) :=
  match exec i (onCore0 x g) with
  | .next t => (t.core? x.id).map fun y => (y.get 5, y.get 6, y.pc.toNat)
  | _ => none

/-- R216: addi x5, x1, -1; a branch taken by -4 from 8; lui x5; the printed encodings of RISC-V. -/
theorem test_core_addi : after (.baseInstruction 0xFFF08293 false) ((core0 loader [0xFFF08293]).put 1 0) {} = some (0xFFFFFFFF, 0, 4) := by decide +kernel
theorem test_core_beq : after (.baseInstruction 0xFE000EE3 false) { core0 loader [] with pc := 8 } {} = some (0, 0, 4) := by decide +kernel
theorem test_core_lui : after (.baseInstruction 0x123452B7 false) (core0 loader [0x123452B7]) {} = some (0x12345000, 0, 4) := by decide +kernel
/-- R224, R225: XPOP rd 5 from queue 2 takes the head of the output queue. -/
theorem test_core_xpop : decodeCore32 0x0020128B = .xpop 2 5 ∧
    after (.xpop 2 5) (core0 storer [0x0020128B]) { eqs := [pos true 2 (some (tk 0x77))] } = some (0x77, 0, 4) := by decide +kernel

end Sys2Proof.Tests
end

section
/-! PROOF. Register fields and writes by access codes: what a read returns after each, bit by bit. -/

namespace Sys2Proof.Laws

open Sys2Proof Sys2Proof.Machine Sys2Proof.Claims

/-! Fields of a double word. -/

theorem testBit_bitsAt (x lo w i : Nat) : (bitsAt x lo w).testBit i = (decide (i < w) && x.testBit (lo + i)) := by
  simp [bitsAt, Nat.testBit_mod_two_pow]

/-- A field that is replaced holds the new value in its bits, and the other bits stay. -/
theorem getLsbD_putField (v : DWord) {lo w : Nat} (x i : Nat) (hw : lo + w ≤ 64) :
    (putField v lo w x).getLsbD i = if lo ≤ i ∧ i < lo + w then x.testBit (i - lo) else v.getLsbD i := by
  have hbits : (putField v lo w x).getLsbD i = ((v.getLsbD i && (decide (i < 64) &&
      !(decide (i < 64) && (decide (lo ≤ i) && decide (i - lo < w))))) ||
      (decide (i < 64) && (decide (lo ≤ i) && (decide (i - lo < w) && x.testBit (i - lo))))) := by
    simp only [putField, BitVec.getLsbD_or, BitVec.getLsbD_and, BitVec.getLsbD_not, BitVec.getLsbD_ofNat, Nat.testBit_shiftLeft,
      Nat.testBit_mod_two_pow, Nat.testBit_two_pow_sub_one, ge_iff_le]
  rw [hbits]
  by_cases hin : lo ≤ i ∧ i < lo + w
  · have h64 : i < 64 := by omega
    have hlt : i - lo < w := by omega
    simp [hin, h64, hlt]
  · have hout : (decide (lo ≤ i) && decide (i - lo < w)) = false := by
      rw [← Bool.decide_and, decide_eq_false_iff_not]
      omega
    rw [if_neg hin, ← Bool.and_assoc (decide (lo ≤ i)), hout]
    by_cases h64 : i < 64
    · simp [h64]
    · simp [BitVec.getLsbD_of_ge v i (by omega)]

/-- A replaced field reads its new value, reduced to its width. -/
theorem bitsAt_putField_same (v : DWord) {lo w : Nat} (x : Nat) (hw : lo + w ≤ 64) :
    bitsAt (putField v lo w x).toNat lo w = x % 2 ^ w := by
  apply Nat.eq_of_testBit_eq
  intro i
  rw [testBit_bitsAt, BitVec.testBit_toNat, getLsbD_putField v x _ hw, Nat.testBit_mod_two_pow]
  by_cases h : i < w <;> simp [h]

/-- A field that shares no bit with the replaced one keeps its value. -/
theorem bitsAt_putField_disjoint (v : DWord) {lo w lo' w' : Nat} (x : Nat) (hw : lo + w ≤ 64)
    (hd : lo' + w' ≤ lo ∨ lo + w ≤ lo') : bitsAt (putField v lo w x).toNat lo' w' = bitsAt v.toNat lo' w' := by
  apply Nat.eq_of_testBit_eq
  intro i
  rw [testBit_bitsAt, testBit_bitsAt, BitVec.testBit_toNat, BitVec.testBit_toNat, getLsbD_putField v x _ hw]
  by_cases h : i < w'
  · rw [if_neg (by omega)]
  · simp [h]

/-! Fields of registers. -/

/-- What registers read follows from the list of registers alone. -/
theorem reg_of_regs {s t : State} (h : t.regs = s.regs) (r : Reg) : t.reg r = s.reg r := by rw [State.reg, h, State.reg]

theorem regField_of_regs {s t : State} (h : t.regs = s.regs) (r : Reg) (lo w : Nat) : t.regField r lo w = s.regField r lo w := by
  rw [State.regField, reg_of_regs h, State.regField]

theorem reg_setField_ne (s : State) {r q : Reg} (lo w x : Nat) (h : q.offset ≠ r.offset) :
    (s.setField r lo w x).reg q = s.reg q := reg_setReg_ne s _ h

theorem regField_setReg_ne (s : State) {r q : Reg} (v : DWord) (lo w : Nat) (h : q.offset ≠ r.offset) :
    (s.setReg r v).regField q lo w = s.regField q lo w := by
  rw [State.regField, reg_setReg_ne s v h, State.regField]

theorem regField_setField_same (s : State) (r : Reg) {lo w : Nat} (x : Nat) (hw : lo + w ≤ 64) :
    (s.setField r lo w x).regField r lo w = x % 2 ^ w := by
  rw [State.regField, State.setField, reg_setReg_self, bitsAt_putField_same _ _ hw]

theorem regField_setField_disjoint (s : State) (r : Reg) {lo w lo' w' : Nat} (x : Nat) (hw : lo + w ≤ 64)
    (hd : lo' + w' ≤ lo ∨ lo + w ≤ lo') : (s.setField r lo w x).regField r lo' w' = s.regField r lo' w' := by
  rw [State.regField, State.setField, reg_setReg_self, bitsAt_putField_disjoint _ _ hw hd, State.regField]

/-! Writes by access codes (R9). -/

/-- Each bit of a register after a write: RW bits take the written value, a written 1 clears a W1C bit, and a bit raised in
this cycle stays (R53). -/
theorem getLsbD_reg_writeReg (s : State) (r : Reg) (v : DWord) (i : Nat) : ((s.writeReg r v).reg r).getLsbD i =
    (((s.reg r).getLsbD i && !r.rwMask.getLsbD i && !(r.w1cMask.getLsbD i && v.getLsbD i)) ||
      (v.getLsbD i && r.rwMask.getLsbD i) || ((s.raisedBits r).getLsbD i && r.w1cMask.getLsbD i)) := by
  by_cases h : i < 64
  · simp [State.writeReg, Reg.written, h]
  · simp [BitVec.getLsbD_of_ge _ _ (Nat.le_of_not_lt h)]

theorem reg_writeReg_ne (s : State) {r q : Reg} (v : DWord) (h : q.offset ≠ r.offset) : (s.writeReg r v).reg q = s.reg q :=
  reg_setReg_ne s _ h

/-- A write of a register reaches no memory. -/
theorem sameMemory_writeReg (s : State) (r : Reg) (v : DWord) : SameMemory s (s.writeReg r v) :=
  ⟨fun st => by cases st <;> rfl, rfl, fun st => by cases st <;> rfl⟩

/-- A write of a whole register by `writePart` leaves the value of its access codes alone: no bit raised in this cycle enters it. -/
theorem reg_writePart_whole (s : State) (r : Reg) (v : DWord) : (s.writePart r v 0).reg r = r.written (s.reg r) v := by
  have hm : partMask 0 = BitVec.allOnes 64 := by decide
  rw [State.writePart, reg_setReg_self, hm, BitVec.not_allOnes, BitVec.and_zero, BitVec.zero_or, BitVec.and_allOnes]

end Sys2Proof.Laws
end

section
/-! PROOF. The state after reset, which `Obligations.ResetHolds` describes. -/

namespace Sys2Proof.Laws

open Sys2Proof Sys2Proof.Machine

@[simp] theorem reset_reg (r : Reg) : State.reset.reg r = r.reset := rfl

/-- After reset a logical barn stands for the physical barn of its number (R462). -/
theorem reset_physBarn (k : Nat) {n : Nat} (h : n < 64) : State.reset.physBarn k n = n := by
  simp [State.physBarn, State.regField, Reg.reset, bitsAt, Nat.mod_eq_of_lt h]

end Sys2Proof.Laws

namespace Sys2Proof.Proofs

open Sys2Proof Sys2Proof.Machine Sys2Proof.Laws

/-- Settles O57: after reset no register is listed, so each one reads the reset value of its map. -/
theorem resetHolds : Obligations.ResetHolds := by
  unfold Obligations.ResetHolds
  refine ⟨reset_memWf, rfl, rfl, rfl, rfl, reset_reg, by decide, by decide, by decide, by decide, by decide, fun t => ?_,
    fun k => ?_, fun k n => reset_physBarn k, by decide⟩
  · simp only [State.regField, reset_reg, Reg.reset]
    decide
  · simp only [State.ctxState, State.regField, reset_reg, Reg.reset]
    decide

end Sys2Proof.Proofs
end

section
/-! PROOF. CRRD, CRWR and GONG: what each sends and writes when its set executes. -/

namespace Sys2Proof.Laws

open Sys2Proof Sys2Proof.Machine Sys2Proof.Claims

variable {s : State} {f : Firing} {h : Hdr} {num : BitVec 12}

/-! Reads. -/

/-- An executing CRRD sends the value of the register that its number names. -/
theorem crrd_runs (hr : Runs s f h []) {w : Word} (hw : (s.counted f h.ty).crValue f.k f.v num.toNat = w) :
    exec (.crrd h num) s =
      .next ((s.counted f h.ty).emitAll f.site 2 (f.result h false h.ty w) [h.t0, h.t1]) := by
  subst hw
  exact (onFiring_runs hr).trans (congrArg Host.Outcome.next
    (fired_runs (sh := { h := h, targets := [h.t0, h.t1], lat := 2, nullOut := true }) hr))

/-- A number that names a register reads its low word. -/
theorem crValue_reg {k v n : Nat} {r : Reg} (hc : crReg k n = some r) : s.crValue k v n = (s.reg r).setWidth 32 := by
  simp only [State.crValue, hc, BitVec.ofNat_toNat]

theorem crReg_amax (k : Nat) {n : Nat} (hn : n < 16) : crReg k (0x10 + n) = some (.amax k n) := by
  have h2 : ¬ 0x10 + n = 1 := by omega
  have h3 : 0x10 + n ≤ 0x1F := by omega
  simp [crReg, h2, h3]

theorem crReg_kbase (k : Nat) {n : Nat} (h1 : 0x20 ≤ n) (h2 : n < 0x40) : crReg k n = none := by
  have hamax : ¬ (0x10 ≤ n ∧ n ≤ 0x1F) := by omega
  have h40 : n ≠ 0x40 ∧ n ≠ 0x41 ∧ n ≠ 0x42 ∧ n ≠ 0 ∧ n ≠ 1 := by omega
  simp [crReg, hamax, h40]

/-- An even number of the KBASE range reads the low word of its base. -/
theorem crValue_kbase_low {k v n : Nat} {i : Inst} (hn : n < 16) (hi : s.inst? k v = some i) :
    s.crValue k v (0x20 + 2 * n) = ((i.kbase.drop n).headD 0).setWidth 32 := by
  have h1 : ¬ 0x20 + 2 * n = 0x43 := by omega
  have h2 : ¬ 0x20 + 2 * n = 0x44 := by omega
  have h3 : (0x20 + 2 * n - 0x20) / 2 = n := by omega
  have h4 : (0x20 + 2 * n) % 2 = 0 := by omega
  simp only [State.crValue, crReg_kbase k (n := 0x20 + 2 * n) (by omega) (by omega), h1, h2, h3, h4, hi, if_false, if_true,
    Option.map_some, Option.getD_some, BitVec.ofNat_toNat]

/-- An odd one reads the high word. -/
theorem crValue_kbase_high {k v n : Nat} {i : Inst} (hn : n < 16) (hi : s.inst? k v = some i) :
    s.crValue k v (0x21 + 2 * n) = (((i.kbase.drop n).headD 0) >>> 32).setWidth 32 := by
  have h1 : ¬ 0x21 + 2 * n = 0x43 := by omega
  have h2 : ¬ 0x21 + 2 * n = 0x44 := by omega
  have h3 : (0x21 + 2 * n - 0x20) / 2 = n := by omega
  have h4 : ¬ (0x21 + 2 * n) % 2 = 0 := by omega
  simp only [State.crValue, crReg_kbase k (n := 0x21 + 2 * n) (by omega) (by omega), h1, h2, h3, h4, hi, if_false,
    Option.map_some, Option.getD_some, ← Nat.shiftRight_eq_div_pow, ← BitVec.toNat_ushiftRight, BitVec.ofNat_toNat]

/-! Writes. -/

/-- CRWR of a number that names a register writes it by its access codes and sends the data on. -/
theorem crwr_runs {r : Reg} (hr : Runs s f h [.a]) (hc : crReg f.k num.toNat = some r) : exec (.crwr h num) s =
    .next (((s.counted f h.ty).writeReg r ((f.data .a).setWidth 64)).emitAll f.site 2
      (f.result h false h.ty (f.data .a)) [h.t0, h.t1]) := by
  refine (onFiring_runs hr).trans (congrArg Host.Outcome.next
    ((fired_runs (sh := { h := h, targets := [h.t0, h.t1], lat := 2, nullOut := true, clean := [.a] }) hr).trans ?_))
  rw [hc]

/-- What CRWR leaves of the register that it writes, given its bits apart from those raised in this cycle; all else that the state
holds stays. -/
theorem crwr_wrote {r : Reg} {g : Nat → Bool} (hr : Runs s f h [.a]) (hc : crReg f.k num.toNat = some r)
    (hg : ∀ j < 32, ((((s.counted f h.ty).reg r).getLsbD j && !r.rwMask.getLsbD j &&
      !(r.w1cMask.getLsbD j && (f.data .a).getLsbD j)) || ((f.data .a).getLsbD j && r.rwMask.getLsbD j)) = g j) :
    ∃ v : State, (∀ j < 32, (v.reg r).getLsbD j =
        (g j || (((s.counted f h.ty).raisedBits r).getLsbD j && r.w1cMask.getLsbD j))) ∧ v.fab = (s.counted f h.ty).fab ∧
      (∀ q : Reg, q.offset ≠ r.offset → v.reg q = (s.counted f h.ty).reg q) ∧ SameMemory (s.counted f h.ty) v ∧
      exec (.crwr h num) s = .next (v.emitAll f.site 2 (f.result h false h.ty (f.data .a)) [h.t0, h.t1]) := by
  refine ⟨(s.counted f h.ty).writeReg r ((f.data .a).setWidth 64), fun j hj => ?_, rfl, fun q hq => reg_writeReg_ne _ _ hq,
    sameMemory_writeReg _ _ _, crwr_runs hr hc⟩
  have hx : ((f.data .a).setWidth 64).getLsbD j = (f.data .a).getLsbD j := by
    simp [Nat.lt_of_lt_of_le hj (by decide : 32 ≤ 64)]
  rw [getLsbD_reg_writeReg, hx, hg j hj]

/-! The access codes of the low word of each register that CRWR writes. -/

theorem flag_w1cBits : ∀ j < 32, (0x3f3f3f3f : DWord).getLsbD j = decide (j % 8 < 6) := by decide

/-- A flag word has no RW bit, and a written 1 clears a flag. -/
theorem flag_written (old : DWord) (x : Word) {j : Nat} (hj : j < 32) :
    ((old.getLsbD j && !(0 : DWord).getLsbD j && !((0x3f3f3f3f : DWord).getLsbD j && x.getLsbD j)) ||
      (x.getLsbD j && (0 : DWord).getLsbD j)) = (old.getLsbD j && !(decide (j % 8 < 6) && x.getLsbD j)) := by
  rw [flag_w1cBits j hj]
  simp

theorem amax_rwBits : ∀ j < 32, (0x7fffffff : DWord).getLsbD j = decide (j < 31) := by decide

theorem amax_w1cBits : ∀ j < 32, (0x80000000 : DWord).getLsbD j = decide (¬ j < 31) := by decide

theorem stallim_rwBits : ∀ j < 32, (0xffffff : DWord).getLsbD j = decide (j < 24) := by decide

theorem trapch_rwBits : ∀ j < 32, (0x8000ffff : DWord).getLsbD j = decide (j < 16 ∨ j = 31) := by decide

/-! The Gong. -/

/-- The Gong no longer armed, with the cycle in which it latches. -/
def gongDisarmed (s : State) : State := (s.setField .gongCtl 31 1 0).setReg .gongCyc (BitVec.ofNat 64 (s.cyc + 48))

/-- The Gong with the source and the cause of a raise. -/
def gongNamed (s : State) (src cause : Nat) : State := (s.setField .gongCtl 8 2 src).setField .gongCtl 0 8 cause

section
variable (src cause : Nat) (ha : s.regField .gongCtl 31 1 = 1)
include ha

/-- An armed Gong that is raised is disarmed, takes its source and cause, and latches 48 cycles later. -/
theorem gong_armed :
    s.gong src cause = { gongNamed (gongDisarmed s) src cause with gongAt := some (s.cyc + 48) } := by
  rw [State.gong, if_pos ha]
  rfl

theorem gong_armed_regs :
    (s.gong src cause).regs = (gongNamed (gongDisarmed s) src cause).regs := by rw [gong_armed src cause ha]

theorem gong_armed_gongAt : (s.gong src cause).gongAt = some (s.cyc + 48) := by
  rw [gong_armed src cause ha]

theorem gong_armed_fab : (s.gong src cause).fab = s.fab := by
  rw [gong_armed src cause ha]
  rfl

theorem gong_armed_cause :
    (s.gong src cause).regField .gongCtl 0 8 = cause % 2 ^ 8 :=
  (regField_of_regs (gong_armed_regs src cause ha) _ _ _).trans (regField_setField_same _ _ _ (by decide))

theorem gong_armed_src :
    (s.gong src cause).regField .gongCtl 8 2 = src % 2 ^ 2 :=
  calc (s.gong src cause).regField .gongCtl 8 2
      = (gongNamed (gongDisarmed s) src cause).regField .gongCtl 8 2 := regField_of_regs (gong_armed_regs src cause ha) _ _ _
    _ = ((gongDisarmed s).setField .gongCtl 8 2 src).regField .gongCtl 8 2 :=
        regField_setField_disjoint _ _ _ (by decide) (by decide)
    _ = src % 2 ^ 2 := regField_setField_same _ _ _ (by decide)

/-- A raise disarms the Gong. -/
theorem gong_armed_arm : (s.gong src cause).regField .gongCtl 31 1 = 0 :=
  calc (s.gong src cause).regField .gongCtl 31 1
      = (gongNamed (gongDisarmed s) src cause).regField .gongCtl 31 1 := regField_of_regs (gong_armed_regs src cause ha) _ _ _
    _ = ((gongDisarmed s).setField .gongCtl 8 2 src).regField .gongCtl 31 1 :=
        regField_setField_disjoint _ _ _ (by decide) (by decide)
    _ = (gongDisarmed s).regField .gongCtl 31 1 := regField_setField_disjoint _ _ _ (by decide) (by decide)
    _ = (s.setField .gongCtl 31 1 0).regField .gongCtl 31 1 := regField_setReg_ne _ _ _ _ (by decide)
    _ = 0 := regField_setField_same _ _ _ (by decide)

theorem gong_armed_gongCyc :
    (s.gong src cause).reg .gongCyc = BitVec.ofNat 64 (s.cyc + 48) :=
  calc (s.gong src cause).reg .gongCyc
      = (gongNamed (gongDisarmed s) src cause).reg .gongCyc := reg_of_regs (gong_armed_regs src cause ha) _
    _ = ((gongDisarmed s).setField .gongCtl 8 2 src).reg .gongCyc := reg_setField_ne _ _ _ _ (by decide)
    _ = (gongDisarmed s).reg .gongCyc := reg_setField_ne _ _ _ _ (by decide)
    _ = BitVec.ofNat 64 (s.cyc + 48) := reg_setReg_self _ _ _

end

/-- An executing GONG tests the permission of its context (R207). -/
theorem gong_runs {cause : BitVec 8} (hr : Runs s f h []) : exec (.gong h cause) s =
    .next (if (s.counted f h.ty).regField .gongCtl (32 + f.k) 1 = 0 then
        (s.counted f h.ty).trapFiring f { code := tcPriv, aux0 := cause.toNat }
      else ((s.counted f h.ty).gong 0 cause.toNat).emitAll f.site 65
        (f.result h false h.ty (BitVec.ofNat 32 (((s.counted f h.ty).gong 0 cause.toNat).reg .gongCyc).toNat)) [h.t0, h.t1]) :=
  (onFiring_runs hr).trans (congrArg Host.Outcome.next
    (fired_runs (sh := { h := h, targets := [h.t0, h.t1], lat := 64, nullOut := true }) hr))

end Sys2Proof.Laws

namespace Sys2Proof.Proofs

open Sys2Proof Sys2Proof.Machine Sys2Proof.Claims Sys2Proof.Laws

/-- R206: each number reads its register, base or counter, and each write is the `writeReg` of its register. -/
theorem controlRegisterAccess : Claims.ControlRegisterAccess := by
  intro s f h num
  constructor
  · intro hr
    refine ⟨?_, ?_, ?_, ?_, ?_, ?_, ?_, ?_, ?_, ?_⟩
    · rintro rfl; exact crrd_runs hr (crValue_reg rfl)
    · rintro rfl; exact crrd_runs hr (crValue_reg rfl)
    · intro n hn e; exact crrd_runs hr (e ▸ crValue_reg (crReg_amax _ hn))
    · intro n hn i hi e; exact crrd_runs hr (e ▸ crValue_kbase_low hn hi)
    · intro n hn i hi e; exact crrd_runs hr (e ▸ crValue_kbase_high hn hi)
    · rintro rfl; exact crrd_runs hr (crValue_reg rfl)
    · rintro rfl; exact crrd_runs hr (crValue_reg rfl)
    · rintro rfl; exact crrd_runs hr (crValue_reg rfl)
    · rintro rfl; exact crrd_runs hr rfl
    · rintro rfl; exact crrd_runs hr rfl
  · intro hr
    refine ⟨?_, ?_, ?_, ?_, ?_⟩
    · rintro rfl; exact crwr_wrote hr rfl fun j hj => flag_written _ _ hj
    · rintro rfl; exact crwr_wrote hr rfl fun j hj => flag_written _ _ hj
    · intro n hn e
      refine crwr_wrote hr (e ▸ crReg_amax _ hn) fun j hj => ?_
      simp only [Reg.rwMask, Reg.w1cMask, amax_rwBits j hj, amax_w1cBits j hj]
      by_cases h31 : j < 31 <;> simp [h31]
    · rintro rfl
      refine crwr_wrote hr rfl fun j hj => ?_
      simp only [Reg.rwMask, Reg.w1cMask, stallim_rwBits j hj]
      by_cases h24 : j < 24 <;> simp [h24]
    · rintro rfl
      refine crwr_wrote hr rfl fun j hj => ?_
      simp only [Reg.rwMask, Reg.w1cMask, trapch_rwBits j hj]
      by_cases hrw : j < 16 ∨ j = 31 <;> simp [hrw]

/-- R207: without permission GONG raises PRIV; an armed Gong latches 48 cycles after the raise. -/
theorem gongRaises : Claims.GongRaises := by
  intro s f h cause hr
  refine ⟨fun hp => by rw [gong_runs hr, if_pos hp], fun hp ha => ?_⟩
  refine ⟨(s.counted f h.ty).gong 0 cause.toNat, gong_armed_gongAt _ _ ha, ?_, gong_armed_src _ _ ha, gong_armed_arm _ _ ha, gong_armed_gongCyc _ _ ha,
    gong_armed_fab _ _ ha, ?_⟩
  · rw [gong_armed_cause _ _ ha, Nat.mod_eq_of_lt cause.isLt]
  · rw [gong_runs hr, if_neg (by rw [hp]; decide)]

/-- Settles O24: an executing CRRD sends `crValue`, an executing CRWR makes one `writeReg`, and GONG one raise. -/
theorem controlRegisters : Obligations.ControlRegisters := ⟨controlRegisterAccess, gongRaises⟩

end Sys2Proof.Proofs
end

section
/-! PROOF. A host write of HOST_EVT does not keep a bit raised in its cycle, as `Obligations.RegistersAndIdentity` asks of every
register written whole. -/

namespace Sys2Proof.Proofs

open Sys2Proof Sys2Proof.Machine Sys2Proof.Laws

/-- A 4-byte host write at the offset of HOST_EVT is a write of the whole register by `writePart`. -/
theorem registerWrite_hostEvt {s : State} (hn : s.arg.n = Reg.hostEvt.offset) (hm : s.arg.m = 4) :
    exec .registerWrite s = .next (s.writePart .hostEvt (wholeValue s.arg.val 0) 0) := by
  have hd : doorbellAt Reg.hostEvt.offset 4 = none := by decide
  have hp : regPart Reg.hostEvt.offset 4 = some (.hostEvt, 0) := by decide
  have hw : ¬ 0x800000 ≤ Reg.hostEvt.offset := by decide
  show execRegisterWrite s = _
  simp only [execRegisterWrite, hn, hm, hd, hp, if_neg hw]
  rfl

/-- The host writes 1 to TRAP_HOST of HOST_EVT, which is 1 and is listed as raised in this cycle. -/
def clearsRaisedEvent : State :=
  { State.reset.setReg .hostEvt 1 with
    arg := { n := Reg.hostEvt.offset, m := 4, val := 1 }, raised := [(Reg.hostEvt.offset, 1)] }

/-- Refutes O52: the value claimed for a register written whole keeps the bits raised in this cycle; the model writes HOST_EVT by
`writePart`, which takes none of them. The claim is of every state, one that lists a raise of HOST_EVT among them, though only
`raiseFlags` adds to that list and it names flag words alone. -/
theorem not_registersAndIdentity : ¬ Obligations.RegistersAndIdentity := by
  unfold Obligations.RegistersAndIdentity
  rintro ⟨hwrites, -⟩
  obtain ⟨hplain, -⟩ := hwrites clearsRaisedEvent .hostEvt 0 (by decide)
  obtain ⟨t, ht, -, -, -, hkeeps, -⟩ := hplain (by decide) (by decide)
  have hmodel : t.reg .hostEvt = 0 := by
    rw [registerWrite_hostEvt rfl rfl] at ht
    obtain rfl := Host.Outcome.next.inj ht
    rw [reg_writePart_whole]
    decide
  have hclaim : t.reg .hostEvt = 1 := (hkeeps rfl).trans (by decide)
  exact absurd (hmodel.symm.trans hclaim) (by decide)

end Sys2Proof.Proofs
end

section
/-! SUPPORT. Lists with one element replaced or taken out, and what follows for the input queues, the blocks and the sets of the
fabric, which are such lists. -/

namespace Sys2Proof.Laws

open Sys2Proof Sys2Proof.Machine Sys2Proof.Claims

/-! Lists. -/

section
variable {α : Type} {p : α → Bool} {g : α → α}

/-- Taking out the first element that meets a condition takes the head of those that meet it. -/
theorem filter_dropFirst_self (p : α → Bool) (l : List α) : (dropFirst p l).filter p = (l.filter p).tail := by
  induction l with
  | nil => rfl
  | cons x r ih => by_cases h : p x <;> simp [dropFirst, h, ih]

/-- Those that meet another condition stay as they are. -/
theorem filter_dropFirst_disjoint {q : α → Bool} (h : ∀ x, p x = true → q x = false) (l : List α) :
    (dropFirst p l).filter q = l.filter q := by
  induction l with
  | nil => rfl
  | cons x r ih => by_cases hp : p x <;> simp [dropFirst, hp, h x, List.filter_cons, ih]

/-- A change of the first element that meets a condition keeps what it does not touch of those that meet it. -/
theorem map_filter_mapFirst {β : Type} {v : α → β} (hp : ∀ x, p x = true → p (g x) = true) (hv : ∀ x, v (g x) = v x) (l : List α) :
    ((mapFirst p g l).filter p).map v = (l.filter p).map v := by
  induction l with
  | nil => rfl
  | cons x r ih => by_cases h : p x <;> simp [mapFirst, h, hp x, hv x, ih]

theorem find?_mapFirst (hp : ∀ x, p x = true → p (g x) = true) (l : List α) : (mapFirst p g l).find? p = (l.find? p).map g := by
  induction l with
  | nil => rfl
  | cons x r ih => by_cases h : p x <;> simp [mapFirst, h, hp x, ih]

theorem length_mapFirst (p : α → Bool) (g : α → α) (l : List α) : (mapFirst p g l).length = l.length := by
  induction l with
  | nil => rfl
  | cons x r ih => by_cases h : p x <;> simp [mapFirst, h, ih]

theorem length_dropFirst {x : α} {l : List α} (h : l.find? p = some x) : (dropFirst p l).length + 1 = l.length := by
  induction l with
  | nil => cases h
  | cons y r ih => by_cases hp : p y <;> simp_all [dropFirst]

/-- An element that replaces one of a list stands in it. -/
theorem mem_mapFirst_eq [DecidableEq α] {x y : α} {l : List α} (h : x ∈ l) : y ∈ mapFirst (fun z => z = x) (fun _ => y) l := by
  induction l with
  | nil => cases h
  | cons z r ih =>
    by_cases hz : z = x
    · simp [mapFirst, hz]
    · simpa [mapFirst, hz] using .inr (ih ((List.mem_cons.1 h).resolve_left (Ne.symm hz)))

end

/-! Memory. -/

/-- A state that differs in its fabric alone has the same memory. -/
theorem sameMemory_fab (s : State) (g : Fabric) : SameMemory s { s with fab := g } :=
  ⟨fun st => by cases st <;> rfl, rfl, fun st => by cases st <;> rfl⟩

theorem sameMemory_trans {s t u : State} (h : SameMemory s t) (h' : SameMemory t u) : SameMemory s u := by
  obtain ⟨hc, hp, hq⟩ := h
  obtain ⟨hc', hp', hq'⟩ := h'
  exact ⟨fun st => (hc' st).trans (hc st), hp'.trans hp, fun st => (hq' st).trans (hq st)⟩

/-! Input queues and blocks. -/

variable {s : State} {n m : Site} {sl : Slot} {k : Tok} {c : Nat}

/-- A token that enters a queue is the last of it. -/
theorem queue_enqueue_self : ∃ e : QTok, e.tok = k ∧ (s.enqueue n sl k).queue n sl = s.queue n sl ++ [e] :=
  ⟨{ site := n, slot := sl, tok := k, since := s.cyc, head := s.cyc }, rfl, by
    simp [State.queue, State.enqueue, List.filter_append]⟩

theorem queue_enqueue_ne {so : Slot} (h : (m, so) ≠ (n, sl)) : (s.enqueue n sl k).queue m so = s.queue m so := by
  have hne : n = m → ¬ sl = so := fun hn hs => h (by rw [hn, hs])
  simpa [State.queue, State.enqueue, List.filter_append] using hne

/-- The head of a handled queue has left it. -/
theorem queue_handled : ((s.handled n sl c).queue n sl).map QTok.tok = (s.queue n sl).tail.map QTok.tok := by
  rw [State.queue, State.queue, ← filter_dropFirst_self]
  refine map_filter_mapFirst (g := fun q : QTok => { q with head := s.cyc }) (fun q hq => ?_) (fun _ => rfl) _
  exact hq

@[simp] theorem handled_sets : (s.handled n sl c).fab.sets = s.fab.sets := rfl
@[simp] theorem handled_flights : (s.handled n sl c).fab.flights = s.fab.flights := rfl

theorem sameMemory_handled : SameMemory s (s.handled n sl c) := sameMemory_fab s _

/-- A change of a block that keeps its place is what its place then holds. -/
theorem block?_modBlock {h : Holder} {blk : Nat} {l : Loaded} {g : Loaded → Loaded} (hl : s.block? h blk = some l)
    (hg : ∀ l, (g l).holder = l.holder ∧ (g l).blk = l.blk) : (s.modBlock h blk g).block? h blk = some (g l) := by
  refine (find?_mapFirst (fun l hp => ?_) _).trans (congrArg (Option.map g) hl)
  rw [(hg l).1, (hg l).2]
  exact hp

end Sys2Proof.Laws
end

section
/-! PROOF. Tokens on the operand mesh, at the matching stage, and at nodes that trap or emulate (R21 to R31, R76, R439, R442). -/

namespace Sys2Proof.Laws

open Sys2Proof Sys2Proof.Machine Sys2Proof.Claims

/-! Hops. -/

/-- A flight may move in this turn: it is ready, no other of its edge is before it (R30), and its holder runs its context. -/
abbrev MayMove (s : State) (x : Flight) : Prop :=
  x.ready ≤ s.cyc ∧ behind s.fab.flights s.arg.n x = false ∧ s.runs (tagK x.tok.tag) x.dst.holder = true

/-- The test by which the model holds a flight back. -/
theorem mayMove_iff {s : State} {x : Flight} : MayMove s x ↔
    (s.cyc < x.ready || behind s.fab.flights s.arg.n x || !s.runs (tagK x.tok.tag) x.dst.holder) = false := by
  simp [MayMove, and_assoc]

section
variable {s : State} {x : Flight} (hx : (s.fab.flights.drop s.arg.n).head? = some x)
include hx

/-- A flight that may not move stays. -/
theorem tokenHop_waits (h : ¬MayMove s x) : exec .tokenHop s = .next s := by
  have hc := Bool.eq_true_of_not_eq_false (mt mayMove_iff.2 h)
  show execTokenHop s = _
  simp only [execTokenHop, hx, hc, if_true]

section
variable (hm : MayMove s x)
include hm

/-- A flight before a link moves on to it when its register is free. -/
theorem tokenHop_link {e : Nat × Nat} (he : s.nextLink x = some e) : exec .tokenHop s =
    .next (if s.linkHeld x.dst.holder x.dst.blk e then s else { s with fab := { s.fab with
      flights := putAt s.fab.flights s.arg.n { x with out := false, hop := if x.out then 0 else x.hop + 1, ready := s.cyc + 1 } } }) := by
  show execTokenHop s = _
  simp only [execTokenHop, hx, mayMove_iff.1 hm, he, Bool.false_eq_true, if_false]
  rfl

/-- A flight past its last link enters its queue when that has room. -/
theorem tokenHop_enters (hn : s.nextLink x = none) (hc : x.conf = none) : exec .tokenHop s =
    .next (if 4 ≤ (s.queue x.dst x.slot).length then s else
      (s.modFab fun g => { g with flights := dropAt g.flights s.arg.n }).enqueue x.dst x.slot x.tok) := by
  show execTokenHop s = _
  simp only [execTokenHop, hx, mayMove_iff.1 hm, hn, hc, Bool.false_eq_true, if_false, Option.isSome_none, Bool.false_or,
    decide_eq_true_eq]

end
end

/-! Sets. -/

section
variable {s : State} {x : Machine.PSet} {sl : Slot} {k : Tok}

theorem put_tok? (so : Slot) : (x.put sl k).tok? so = if so = sl then some k else x.tok? so := by cases sl <;> cases so <;> rfl
@[simp] theorem put_tok?_self : (x.put sl k).tok? sl = some k := (put_tok? sl).trans (if_pos rfl)
theorem put_tok?_ne {so : Slot} (h : so ≠ sl) : (x.put sl k).tok? so = x.tok? so := (put_tok? so).trans (if_neg h)
@[simp] theorem put_site : (x.put sl k).site = x.site := by cases sl <;> rfl
@[simp] theorem put_tag : (x.put sl k).tag = x.tag := by cases sl <;> rfl
@[simp] theorem put_dep : (x.put sl k).dep = x.dep := by cases sl <;> rfl
@[simp] theorem put_place : (x.put sl k).place = x.place := by cases sl <;> rfl
@[simp] theorem put_done : (x.put sl k).done = x.done := by cases sl <;> rfl

/-- The place of a set is apart from its tokens. -/
theorem place_tok? {p : Place} {so : Slot} : ({ x with place := p } : Machine.PSet).tok? so = x.tok? so := by cases so <;> rfl

/-- A set after the matching stage has put the token of a slot in it: one that is now complete is dated (R26). -/
def dated (s : State) (sl : Slot) (x : Machine.PSet) : Machine.PSet :=
  if s.completeSet x then { x with done := some s.cyc, last := sl } else x

@[simp] theorem dated_tok? (so : Slot) : (dated s sl x).tok? so = x.tok? so := by
  unfold dated; split <;> cases so <;> rfl
@[simp] theorem dated_site : (dated s sl x).site = x.site := by unfold dated; split <;> rfl
@[simp] theorem dated_tag : (dated s sl x).tag = x.tag := by unfold dated; split <;> rfl
@[simp] theorem dated_dep : (dated s sl x).dep = x.dep := by unfold dated; split <;> rfl
@[simp] theorem dated_place : (dated s sl x).place = x.place := by unfold dated; split <;> rfl
theorem dated_done : (dated s sl x).done.isSome = true ↔ s.completeSet x = true ∨ x.done.isSome = true := by
  unfold dated; split <;> simp_all

end

/-! The matching stage. -/

section
variable {s : State} {n : Site} {sl : Slot} {k : Tok} {x : Machine.PSet}

/-- A token joins a set that the node holds. -/
theorem joins_mem (h : s.joins n sl k = some x) : x ∈ s.fab.sets := by
  unfold State.joins at h
  dsimp only at h
  split at h
  · next hf => cases h; exact List.mem_of_find?_eq_some hf
  · exact List.mem_of_find?_eq_some h

/-- A token joins no set where the node holds none of its tag. -/
theorem joins_none (h : ∀ y ∈ s.fab.sets, ¬(y.site = n ∧ y.tag = k.tag ∧ y.dep = k.dep)) : s.joins n sl k = none := by
  have hy : ∀ y ∈ s.fab.sets, (decide (y.site = n) && decide (y.tag = k.tag) && decide (y.dep = k.dep)) = false := fun y hm => by
    simpa only [← Bool.decide_and, decide_eq_false_iff_not, and_assoc] using h y hm
  have hnone : ∀ q : Machine.PSet → Bool, s.fab.sets.find? (fun y =>
      decide (y.site = n) && decide (y.tag = k.tag) && decide (y.dep = k.dep) && q y) = none :=
    fun q => List.find?_eq_none.2 fun y hm => by simp [hy y hm]
  unfold State.joins
  simp only [Bool.and_assoc] at hnone ⊢
  simp only [hnone]

/-- A frame's word lies in its tile's pool, so at a bay or a region nothing is written. -/
theorem frameWord_spatial (h : n.holder.temporal = false) (t : DWord) (d : Nat) (w : Word) : s.frameWord n t d sl w = s := by
  have hp : ∀ off, poolPlace n.holder off = none := by
    intro off
    cases hh : n.holder with
    | tile => rw [hh] at h; cases h
    | bay | reeve | region => rfl
  unfold State.frameWord
  cases s.frameOf? n.holder n.blk t d <;> simp only [hp]

@[simp] theorem frameWord_fab (t : DWord) (d : Nat) (w : Word) : (s.frameWord n t d sl w).fab = s.fab := by
  unfold State.frameWord
  split
  · rfl
  · split <;> rfl

/-- The state in which a token stands in a set, and its data in its frame. -/
def joined (s : State) (n : Site) (sl : Slot) (k : Tok) (x : Machine.PSet) : State :=
  (s.modFab fun g => { g with sets := mapFirst (fun z => z = x) (fun _ => dated s sl (x.put sl k)) g.sets }).frameWord
    n k.tag k.dep sl k.data

@[simp] theorem joined_fab : (joined s n sl k x).fab =
    { s.fab with sets := mapFirst (fun z => z = x) (fun _ => dated s sl (x.put sl k)) s.fab.sets } := frameWord_fab _ _ _

/-- At a bay or a region a token that joins a set writes no memory. -/
theorem sameMemory_joined (h : n.holder.temporal = false) : SameMemory s (joined s n sl k x) := by
  rw [joined, frameWord_spatial h]
  exact sameMemory_fab s _

/-- A token that joins a set outside the loft in a free slot stands in it. -/
theorem match_joins (hj : s.joins n sl k = some x) (hf : x.tok? sl = none) (hp : x.place ≠ .loft) :
    s.match_ n sl k = (joined s n sl k x).handled n sl (matchHold x.place) := by
  unfold State.match_
  simp only [hj, hf, hp, Option.isSome_none, Bool.false_eq_true, if_false, decide_false, Bool.false_and]
  rfl

/-- A token whose slot is taken raises DUP_TOKEN. -/
theorem match_taken {y : Tok} (hj : s.joins n sl k = some x) (hf : x.tok? sl = some y) :
    s.match_ n sl k = s.dupToken n sl k (matchHold x.place) := by
  unfold State.match_
  simp only [hj, hf, Option.isSome_some, if_true]

/-- The set that a token opens. -/
def opened (s : State) (n : Site) (sl : Slot) (k : Tok) (p : Place) : Machine.PSet :=
  { dated s sl (({ site := n, tag := k.tag, dep := k.dep, place := .frame, opened := s.cyc, since := s.cyc } : Machine.PSet).put sl k) with
    place := p }

section
variable {p : Place}

theorem opened_site : (opened s n sl k p).site = n := dated_site.trans put_site
theorem opened_tag : (opened s n sl k p).tag = k.tag := dated_tag.trans put_tag
theorem opened_dep : (opened s n sl k p).dep = k.dep := dated_dep.trans put_dep
theorem opened_tok?_self : (opened s n sl k p).tok? sl = some k :=
  place_tok?.trans ((dated_tok? _).trans put_tok?_self)
theorem opened_tok?_ne {so : Slot} (h : so ≠ sl) : (opened s n sl k p).tok? so = none :=
  place_tok?.trans ((dated_tok? _).trans ((put_tok?_ne h).trans (by cases so <;> rfl)))

end

/-- The cycles that a queue is held for when its token opens a set: a probe of the loft takes 10 (R23). -/
def openHold (s : State) (n : Site) : Nat :=
  if (s.fab.sets.any fun x => x.site = n && x.place = .loft && x.done.isNone) then 10 else 1

/-- A token without a set, at a node of a bay or a region that is no RDLY, opens one in the lowest free entry of its PE. -/
theorem match_opens {e : Nat} {i : Instr} (hs : n.holder.temporal = false) (hj : s.joins n sl k = none) (hi : s.nodeInstr n = some i)
    (hr : ∀ h d rt sw, i ≠ .rdly h d rt sw) (he : s.freeEntry n = some e) : s.match_ n sl k =
      (s.modFab fun g => { g with sets := g.sets ++ [opened s n sl k (.table e)] }).handled n sl (openHold s n) := by
  unfold State.match_
  simp only [hj, hs, hi, he, Bool.false_eq_true, if_false]
  split
  · next hd => exact absurd (Option.some.inj hd) (hr _ _ _ _)
  · next he' _ => cases he'; rfl
  · next he' _ => cases he'

/-- A token that opens a stream changes the streams alone. -/
theorem openStream_cases (t : State) : ∃ l, t.openStream n sl k = { t with fab := { t.fab with streams := l } } := by
  unfold State.openStream
  split
  · exact ⟨t.fab.streams, rfl⟩
  · exact ⟨t.fab.streams, rfl⟩
  · exact ⟨t.fab.streams, rfl⟩
  · split
    · exact ⟨t.fab.streams, rfl⟩
    · exact ⟨_, rfl⟩

/-- A state after the matching stage, with the stream that the token opens once it has left its queue (R161). -/
def matched (s t : State) (n : Site) (sl : Slot) (k : Tok) : State :=
  if (t.queue n sl).length < (s.queue n sl).length then t.openStream n sl k else t

theorem matched_cases (t : State) : ∃ l, matched s t n sl k = { t with fab := { t.fab with streams := l } } := by
  unfold matched
  split
  · exact openStream_cases t
  · exact ⟨t.fab.streams, rfl⟩

/-- Once a token is handled its queue is one shorter; the sets, the tokens on their way and the memory are those it was matched in. -/
theorem matched_handled {t : State} (ht : t.fab.queues = s.fab.queues) {q : QTok} {r : List QTok} (hq : s.queue n sl = q :: r) (c : Nat) :
    ∃ u : State, matched s (t.handled n sl c) n sl k = u ∧ (u.queue n sl).map QTok.tok = r.map QTok.tok ∧ u.fab.sets = t.fab.sets ∧
      u.fab.flights = t.fab.flights ∧ SameMemory t u := by
  obtain ⟨l, hu⟩ := matched_cases (s := s) (n := n) (sl := sl) (k := k) (t.handled n sl c)
  have htq : t.queue n sl = q :: r := by rw [← hq, State.queue, State.queue, ht]
  refine ⟨_, hu, ?_, rfl, rfl, sameMemory_trans sameMemory_handled (sameMemory_fab _ _)⟩
  exact (queue_handled (s := t) (c := c)).trans (by rw [htq, List.tail_cons])

/-- The matching stage takes the head of a queue that nothing holds back. -/
theorem matchToken_takes {q : QTok} {r : List QTok} (hq : s.queue s.arg.site s.arg.slot = q :: r)
    (hl : s.runs (tagK q.tok.tag) s.arg.site.holder = true) (hm : s.mayMatch s.arg.site s.arg.slot = true)
    (hc : s.confWaits s.arg.site q.since = false) (ht : s.truncated s.arg.site s.arg.slot q.tok = none)
    (hr : s.streamRoom s.arg.site s.arg.slot q.tok = true) : exec .matchToken s =
      .next (matched s (s.match_ s.arg.site s.arg.slot q.tok) s.arg.site s.arg.slot q.tok) := by
  show execMatchToken s = _
  simp only [execMatchToken, hq, List.head?_cons, hl, hm, hc, ht, hr, Bool.not_true, Bool.or_false, Bool.false_eq_true, if_false]
  rw [matched, hq]

end

/-! Nodes that trap or emulate. -/

section
variable {s : State} {f : Firing} {h : Hdr} {cl : List Slot}

/-- A set that executes at an illegal node raises ILLEGAL (R76). -/
theorem trapNode_illegal (hr : Runs s f h cl) (hk : s.nodeKind f.site = .illegal) :
    exec .trapNodeFire s = .next (s.trapFiring f { code := tcIllegal }) := by
  refine (onFiring_runs hr).trans ?_
  simp only [kind_data false hr.fed hr.plain, hk]

/-- A set that executes at a TRAP node raises PATCHED with the slot's number (R439). -/
theorem trapNode_trap {n c : Nat} (hr : Runs s f h cl) (hk : s.nodeKind f.site = .trap n c) :
    exec .trapNodeFire s = .next (s.trapFiring f { code := tcPatched, cause := c, aux0 := n }) := by
  refine (onFiring_runs hr).trans ?_
  simp only [kind_data false hr.fed hr.plain, hk]

section
variable {n : Nat} {u : State} (hr : Runs s f (emulationShape f).h []) (hk : s.nodeKind f.site = .emulate n)
  (hu : u = s.counted f (emulationShape f).h.ty)
include hr hk hu

/-- A set that executes at an emulation node goes to the patch handler of its context's first tile in the barn (R442). -/
theorem emulation_served {t : Nat} (ht : u.firstTile f.k f.site.holder.barnNo = some t)
    (hc : u.chanCount f.site.holder.barnNo t none < 16) : exec .emulationFire s =
      .next (u.raise (u.firingTrap f { code := tcPatched, cause := 1, aux0 := n } (.emulation f n))) := by
  subst hu
  refine (onFiring_runs hr).trans (congrArg Host.Outcome.next ?_)
  simp only [hk, fired_runs (sh := emulationShape f) hr, ht, if_neg (Nat.not_le.2 hc)]

/-- Without a tile of the context in the barn it raises PATCHED with cause 2. -/
theorem emulation_unserved (ht : u.firstTile f.k f.site.holder.barnNo = none) :
    exec .emulationFire s = .next (u.trapFiring f { code := tcPatched, cause := 2, aux0 := n }) := by
  subst hu
  refine (onFiring_runs hr).trans (congrArg Host.Outcome.next ?_)
  simp only [hk, fired_runs (sh := emulationShape f) hr, ht]

end
end

end Sys2Proof.Laws

namespace Sys2Proof.Proofs

open Sys2Proof Sys2Proof.Machine Sys2Proof.Laws

/-- R29 to R31, by the next link of the flight. -/
theorem tokensHop : Claims.TokensHop := by
  intro s x hx
  dsimp only
  refine ⟨fun e hm he hf => ?_, fun hm hn hc hlt => ?_, ?_⟩
  · rw [tokenHop_link hx hm he, if_neg hf]
  · obtain ⟨e, he, hq⟩ := queue_enqueue_self (s := s.modFab fun g => { g with flights := dropAt g.flights s.arg.n })
      (n := x.dst) (sl := x.slot) (k := x.tok)
    refine ⟨_, e, ?_, he, rfl, hq, fun n sl h => queue_enqueue_ne h, rfl, sameMemory_fab s _⟩
    rw [tokenHop_enters hx hm hn hc, if_neg (by omega)]
  · by_cases hm : MayMove s x
    · rintro (h | ⟨e, he, hh⟩ | ⟨hn, hc, h4⟩)
      · exact absurd hm h
      · rw [tokenHop_link hx hm he, if_pos hh]
      · rw [tokenHop_enters hx hm hn hc, if_pos h4]
    · exact fun _ => tokenHop_waits hx hm

/-- R21 and R23, by whether the token joins a set, opens one or finds its slot taken. -/
theorem tokensMatch : Claims.TokensMatch := by
  intro s q r
  dsimp only
  intro hq hl hm hc ht hr
  rw [matchToken_takes hq hl hm hc ht hr]
  refine ⟨fun x hj hf hp => ?_, fun e i hs hn hi hd he => ?_, fun x k hj hf => ?_⟩
  · obtain ⟨t, hu, htq, hts, htf, htm⟩ := matched_handled (s := s) (k := q.tok) (t := joined s s.arg.site s.arg.slot q.tok x)
      (by rw [joined_fab]) hq (matchHold x.place)
    rw [joined_fab] at hts htf
    refine ⟨t, dated s s.arg.slot (x.put s.arg.slot q.tok), by rw [match_joins hj hf hp, hu], htq, ?_, by simp, fun o ho => ?_, by simp,
      by simp, by simp, ?_, htf, fun hs => sameMemory_trans (sameMemory_joined hs) htm⟩
    · rw [hts]
      exact mem_mapFirst_eq (joins_mem hj)
    · rw [dated_tok?, put_tok?_ne ho]
    · rw [dated_done, put_done]
  · obtain ⟨t, hu, htq, hts, -, htm⟩ := matched_handled (s := s) (k := q.tok)
      (t := s.modFab fun g => { g with sets := g.sets ++ [opened s s.arg.site s.arg.slot q.tok (.table e)] }) rfl hq
      (openHold s s.arg.site)
    exact ⟨t, opened s s.arg.site s.arg.slot q.tok (.table e), by rw [match_opens hs (joins_none hn) hi hd he, hu], htq, hts,
      opened_site, opened_tag, opened_dep, opened_tok?_self, fun o ho => opened_tok?_ne ho, rfl, htm⟩
  · rw [match_taken hj hf]
    rfl

/-- R76, R439 and R442. -/
theorem trapNodes : Claims.TrapNodes := fun _ _ =>
  ⟨fun _ hr => ⟨trapNode_illegal hr, fun _ _ => trapNode_trap hr⟩,
    fun _ hr hk => ⟨fun _ => emulation_served hr hk rfl, emulation_unserved hr hk rfl⟩⟩

/-- Settles O31: a token hops along its path, joins or opens the set of its tag, and a set at a node that traps raises its trap. -/
theorem tokensMove : Obligations.TokensMove := ⟨tokensHop, tokensMatch, trapNodes⟩

end Sys2Proof.Proofs
end

section
/-! PROOF. RECONF, and the reconfiguration of converter nodes (R32, R127, R128). -/

namespace Sys2Proof.Laws

open Sys2Proof Sys2Proof.Machine Sys2Proof.Claims

/-! RECONF. -/

section
variable {s : State} {f : Firing} {h : Hdr} {sat : Bool} {rm : Rnd}

/-- An executing RECONF acts on the node that its T0 names. -/
theorem reconf_runs {u : State} {k : Tok} (hr : Runs s f h []) (hu : u = s.counted f h.ty) (hk : k = f.result h false h.ty (f.data .a)) :
    exec (.reconf h sat rm) s = .next (match h.t0.bind (u.confTarget f.site) with
      | none => u.emitAt f.site h.t1 (u.cyc + 1) k
      | some n =>
        if f.site.holder.temporal then
          (if u.reconfigurable n then
            u.modBlock f.site.holder f.site.blk fun l => l.setConf (u.confSite n).idx (reconfBits sat rm)
           else u).emitAt f.site h.t1 (u.cyc + 1) k
        else
          u.modFab fun g => { g with flights := g.flights ++
            [{ src := f.site, dst := n, slot := .a, tok := k, out := true, conf := some (reconfBits sat rm), ready := u.cyc + 1 }] }) := by
  subst hu hk
  refine (onFiring_runs hr).trans (congrArg Host.Outcome.next ((fired_runs (sh := { h := h, targets := [h.t1] }) hr).trans ?_))
  rfl

end

/-! Configurations of a block. -/

section
variable {l : Loaded} {i j : Nat} {q : BitVec 4}

theorem conf?_setConf_self : (l.setConf i q).conf? i = some q := by
  have hnone : (l.qcfg.filter fun x => x.1 ≠ i).find? (fun x => x.1 = i) = none := by
    simp [List.find?_eq_none]
  simp only [Loaded.conf?, Loaded.setConf, List.find?_append, hnone]
  simp

theorem conf?_setConf_ne (h : j ≠ i) : (l.setConf i q).conf? j = l.conf? j := by
  have hkeep : ∀ c : List (Nat × BitVec 4), (c.filter fun x => x.1 ≠ i).find? (fun x => x.1 = j) = c.find? fun x => x.1 = j := by
    intro c
    rw [List.find?_filter]
    congr 1
    funext x
    by_cases hx : x.1 = j <;> simp [hx, h]
  simp only [Loaded.conf?, Loaded.setConf, List.find?_append, hkeep]
  simp [Ne.symm h]

end

/-! Arrival and coming into force. -/

section
variable {s : State}

/-- A reconfiguration token as it waits at its node: it counts as arrived unless another waits there before it (R128). -/
def arrival (s : State) (x : Flight) (idx : Nat) (q : BitVec 4) (l : Loaded) : Reconf :=
  { idx := idx, q := q, src := x.src, tok := x.tok, arrived := if l.reconf.any fun r => r.idx = idx then none else some s.cyc }

theorem arrival_arrived {x : Flight} {idx : Nat} {q : BitVec 4} {l : Loaded} :
    (arrival s x idx q l).arrived = some s.cyc ↔ ∀ z ∈ l.reconf, z.idx ≠ idx := by
  simp [arrival]

/-- A block with one more reconfiguration that waits. -/
def withArrival (s : State) (x : Flight) (idx : Nat) (q : BitVec 4) (l : Loaded) : Loaded :=
  { l with reconf := l.reconf ++ [arrival s x idx q l] }

/-- A reconfiguration token past its last link leaves the mesh and waits at its converter; elsewhere it is acknowledged. -/
theorem reconfTokenArrival_runs {x : Flight} {q : BitVec 4} (hx : (s.fab.flights.drop s.arg.n).head? = some x) (hq : x.conf = some q)
    (ho : x.out = false) (hn : s.nextLink x = none) (hm : MayMove s x) {v : State}
    (hv : v = { s with fab := { s.fab with flights := dropAt s.fab.flights s.arg.n } }) :
    exec .reconfTokenArrival s = .next (if v.reconfigurable x.dst then
      v.modBlock x.dst.holder x.dst.blk (withArrival s x (v.confSite x.dst).idx q)
    else v.emit x.src (Target.decode (Fields.ofWord (v.nodeWord x.src).1).t1) 1 x.tok) := by
  subst hv
  obtain ⟨hr, hb, hl⟩ := hm
  have hgo : (x.out || (s.nextLink x).isSome || s.cyc < x.ready || behind s.fab.flights s.arg.n x ||
      !s.runs (tagK x.tok.tag) x.dst.holder) = false := by simp [ho, hn, hb, hl, hr]
  show execReconfTokenArrival s = _
  simp only [execReconfTokenArrival, hx, hq, hgo, Bool.false_eq_true, if_false]
  rfl

/-- A block with the oldest reconfiguration of a node in force, and the next one counted as arriving (R128). -/
def inForce (s : State) (idx : Nat) (q : BitVec 4) (l : Loaded) : Loaded :=
  { l.setConf idx q with reconf := nextConf s.cyc idx (dropFirst (fun x => x.idx = idx) l.reconf) }

theorem length_inForce_reconf {idx : Nat} {q : BitVec 4} {l : Loaded} {r : Reconf}
    (h : l.reconf.find? (fun y => decide (y.idx = idx)) = some r) : (inForce s idx q l).reconf.length + 1 = l.reconf.length :=
  (congrArg (· + 1) (length_mapFirst _ _ _)).trans (length_dropFirst h)

/-- The oldest reconfiguration of a node comes into force, and is acknowledged, once nothing holds it back. -/
theorem configInForce_runs {l : Loaded} {r : Reconf} {n : Nat} (hl : s.block? s.arg.site.holder s.arg.site.blk = some l)
    (hf : l.reconf.find? (fun y => decide (y.idx = s.arg.site.idx)) = some r) (ha : r.arrived = some n) (hn : n < s.cyc)
    (ht : s.timeOf s.arg.site.holder s.arg.site.blk s.arg.site.idx ≤ s.cyc) (ho : s.oldWork s.arg.site n = false)
    (hr : s.runs l.k s.arg.site.holder = true) {v : State}
    (hv : v = s.modBlock s.arg.site.holder s.arg.site.blk (inForce s s.arg.site.idx r.q)) :
    exec .configInForce s = .next (v.emit r.src (Target.decode (Fields.ofWord (v.nodeWord r.src).1).t1) 0 r.tok) := by
  subst hv
  have hgo : (s.cyc ≤ n || s.cyc < s.timeOf s.arg.site.holder s.arg.site.blk s.arg.site.idx || s.oldWork s.arg.site n ||
      !s.runs l.k s.arg.site.holder) = false := by simp [ho, hr, hn, ht]
  show execConfigInForce s = _
  simp only [execConfigInForce, hl, hf, ha, hgo, Bool.false_eq_true, if_false]
  rfl

end

end Sys2Proof.Laws

namespace Sys2Proof.Proofs

open Sys2Proof Sys2Proof.Machine Sys2Proof.Laws

/-- R127 and R128, by whether T0 names a node and by the placement. -/
theorem reconfigurationSent : Claims.ReconfigurationSent := by
  intro s f h sat rm hr
  dsimp only
  refine ⟨fun t ht hi => ?_, fun hn => ?_, fun n hn hs => ?_, fun n hn ht hc => ?_, fun n hn ht hc => ?_,
    fun l i => ⟨conf?_setConf_self, fun j hj => conf?_setConf_ne hj⟩⟩
  · rw [ht, Option.bind_some, State.confTarget, if_pos hi]
  · rw [reconf_runs hr rfl rfl, hn]
  · rw [reconf_runs hr rfl rfl, hn]
    simp only [hs, Bool.false_eq_true, if_false]
    rfl
  · rw [reconf_runs hr rfl rfl, hn]
    simp only [ht, hc, if_true]
    rfl
  · rw [reconf_runs hr rfl rfl, hn]
    simp only [ht, hc, Bool.false_eq_true, if_true, if_false]

/-- R32 and R128: a reconfiguration token arrives, and its configuration comes into force. -/
theorem reconfigures : Claims.Reconfigures := by
  intro s ack
  refine ⟨fun x q l hx hq ho hn hr hb hl => ?_, fun l r n => ?_⟩
  · intro v
    have hrun := reconfTokenArrival_runs hx hq ho hn ⟨hr, hb, hl⟩ (v := v) rfl
    refine ⟨fun hc hblk => ?_, fun hc => ?_⟩
    · refine ⟨_, withArrival s x (v.confSite x.dst).idx q l, arrival s x (v.confSite x.dst).idx q l, hrun.trans (congrArg _ (if_pos hc)),
        block?_modBlock hblk fun _ => ⟨rfl, rfl⟩, rfl, rfl, rfl, rfl, rfl, arrival_arrived⟩
    · exact hrun.trans (congrArg _ (if_neg (by rw [hc]; decide)))
  · intro site hl hf ha hn ht ho hr
    exact ⟨s.modBlock site.holder site.blk (inForce s site.idx r.q), inForce s site.idx r.q l,
      block?_modBlock hl fun _ => ⟨rfl, rfl⟩, conf?_setConf_self, fun j hj => conf?_setConf_ne hj, length_inForce_reconf hf, rfl,
      configInForce_runs hl hf ha hn ht ho hr rfl⟩

/-- Settles O32: RECONF sends its configuration, which waits at its converter until nothing of the old one is left there. -/
theorem reconfiguration : Obligations.Reconfiguration := ⟨reconfigurationSent, reconfigures⟩

end Sys2Proof.Proofs
end

section
/-! PROOF. What the rules of R28 make of a set that does not execute at an instruction that computes one result. -/

namespace Sys2Proof.Laws

open Sys2Proof Sys2Proof.Machine Sys2Proof.Claims

/-! The kind of a set (R28). -/

section
variable {f : Firing}

theorem dataToks_false (f : Firing) : f.dataToks false = f.toks := List.filter_eq_self.2 fun _ _ => rfl

/-- The slots of a set beside slot p all hold end-of-stream markers just when its filtered list does. -/
theorem all_eos_iff : ((f.toks.filter fun x => decide (x.1 ≠ .p)).all fun x => x.2.eos) = true ↔ ∀ x ∈ f.toks, x.1 ≠ .p → x.2.eos = true := by
  simp only [List.all_eq_true, List.mem_filter, decide_eq_true_eq, and_imp]

theorem kind_roll {o : Bool} (hr : ∀ x ∈ f.toks, x.2.rol = true) : f.kind o = .roll := by
  rw [Firing.kind, if_pos (List.all_eq_true.2 hr)]

section
variable (hr : ¬∀ x ∈ f.toks, x.2.rol = true)
include hr

theorem kind_eos {o : Bool} (he : ∀ x ∈ f.toks, x.1 ≠ .p → x.2.eos = true) : f.kind o = .eos := by
  rw [Firing.kind, if_neg (mt List.all_eq_true.1 hr), if_pos (all_eos_iff.2 he)]

section
variable (he : ¬∀ x ∈ f.toks, x.1 ≠ .p → x.2.eos = true)
include he

theorem kind_mixed {o : Bool} {x : Slot × Tok} (hx : (f.toks.find? fun x => x.2.eos) = some x) : f.kind o = .mixed x.1 := by
  rw [Firing.kind, if_neg (mt List.all_eq_true.1 hr), if_neg (mt all_eos_iff.1 he), hx]

/-- A set without a marker is a null set or a data set by whether a token of it is null. -/
theorem kind_unmarked (hn : ∀ x ∈ f.toks, x.2.eos = false) :
    f.kind false = if f.toks.any fun x => x.2.nul then .nul else .data := by
  have hx : (f.toks.find? fun x => x.2.eos) = none := List.find?_eq_none.2 fun x hx => by simp [hn x hx]
  rw [Firing.kind, if_neg (mt List.all_eq_true.1 hr), if_neg (mt all_eos_iff.1 he), hx, dataToks_false]

theorem kind_of_data (hd : ∀ x ∈ f.toks, x.2.eos = false ∧ x.2.nul = false) : f.kind false = .data := by
  rw [kind_unmarked hr he fun x hx => (hd x hx).1, if_neg]
  exact fun hn => by obtain ⟨x, hx, hz⟩ := List.any_eq_true.1 hn; rw [(hd x hx).2] at hz; cases hz

end
end
end

/-! Instructions that compute one result. -/

/-- The shape of an instruction that computes one result (R84): it sends on T0 and T1 and has no order-in slot. -/
def computeShape (h : Hdr) (lat : Nat) (cl : List Slot) : Shape := { h := h, targets := [h.t0, h.t1], lat := lat, clean := cl }

section
variable {s : State} {f : Firing} {sh : Shape} {act : State → State}

/-- How a set that does not execute leaves its instruction, by its kind (R28). -/
theorem fired_roll (h : f.kind sh.orderIn = .roll) :
    s.fired sh f act = s.emitAll f.site sh.lat (f.marker sh.h sh.orderIn false false true) sh.targets := by
  simp only [State.fired, h]

theorem fired_eos (h : f.kind sh.orderIn = .eos) :
    s.fired sh f act = s.emitAll f.site sh.lat (f.marker sh.h sh.orderIn false true false) sh.targets := by
  simp only [State.fired, h]

theorem fired_mixed {sl : Slot} (h : f.kind sh.orderIn = .mixed sl) : s.fired sh f act = s.streamLen f sl 0 0 := by
  simp only [State.fired, h]

theorem fired_nul (h : f.kind sh.orderIn = .nul) :
    s.fired sh f act = s.emitAll f.site sh.lat (f.marker sh.h sh.orderIn true false false) sh.targets := by
  simp only [State.fired, h]

/-- A poisoned predicate that PM tests raises POISON, before every other slot (R433). -/
theorem fired_poisoned_pred (h : f.kind sh.orderIn = .data) (hp : sh.h.pm ≠ .always) (hpoi : ((f.tok? .p).map Tok.poi).getD false = true) :
    s.fired sh f act = s.poisonTrap f .p := by
  simp only [State.fired, h, if_pos hp, List.find?_cons, hpoi]

/-- A clean set that PM refuses is consumed (R27). -/
theorem fired_refused (h : f.kind sh.orderIn = .data) (hpoi : ∀ x ∈ f.toks, x.2.poi = false) (hp : executes sh.h.pm f.pred = false)
    (hn : sh.nullOut = false) : s.fired sh f act = s := by
  have hc : ∀ cl : List Slot, (cl.find? fun sl => ((f.tok? sl).map Tok.poi).getD false) = none := by
    refine fun cl => List.find?_eq_none.2 fun sl _ => ?_
    cases ht : f.tok? sl with
    | none => decide
    | some t => simpa using hpoi (sl, t) (mem_toks.2 ht)
  simp only [State.fired, h, hc, hp, hn, Bool.false_eq_true, if_false]

end

/-- Every instruction that computes one result takes its sets alike. -/
theorem computes_fired {i : Instr} {h : Hdr} (hc : computes i = some h) : ∃ (lat : Nat) (cl : List Slot) (act : Firing → State → State → State),
    ∀ s, exec i s = onFiring s fun f => s.fired (computeShape h lat cl) f (act f s) := by
  unfold computes at hc
  split at hc <;> cases hc <;> exact ⟨_, _, _, fun _ => rfl⟩

end Sys2Proof.Laws

namespace Sys2Proof.Proofs

open Sys2Proof Sys2Proof.Machine Sys2Proof.Laws

/-- Settles O58: each clause is the kind that R28 gives the set, and what `State.fired` does with it. -/
theorem markersPass : Obligations.MarkersPass := by
  intro s f i h hf hc
  obtain ⟨lat, cl, act, ha⟩ := computes_fired hc
  have ho : exec i s = .next (s.fired (computeShape h lat cl) f (act f s)) := by rw [ha, onFiring, hf]
  dsimp only
  rw [ho]
  refine ⟨fun hr => ⟨lat, ?_⟩, fun hr he => ⟨lat, ?_⟩, fun hr he x hx => ?_, fun hr he hn hz => ⟨lat, ?_⟩, fun ⟨hr, he, hd⟩ hp hpoi => ?_,
    fun ⟨hr, he, hd⟩ hpoi hp => ?_⟩
  · exact congrArg _ (fired_roll (kind_roll hr))
  · exact congrArg _ (fired_eos (kind_eos hr he))
  · exact congrArg _ (fired_mixed (kind_mixed hr he hx))
  · exact congrArg _ (fired_nul ((kind_unmarked hr he hn).trans (if_pos (List.any_eq_true.2 hz))))
  · exact congrArg _ (fired_poisoned_pred (kind_of_data hr he hd) hp hpoi)
  · exact congrArg _ (fired_refused (kind_of_data hr he hd) hpoi hp rfl)

end Sys2Proof.Proofs
end

section
/-! PROOF. A turn of the agenda: whose it is, and the instruction that it runs. -/

namespace Sys2Proof.Laws

open Sys2Proof Sys2Proof.Machine Sys2Proof.Claims

/-- The state that a turn begins with: no firing and no core in focus, and nothing held. -/
def cleared (s : State) : State := { s with cur := none, curCore := none, held := false }

theorem step_empty {s : State} (h : s.agenda = []) : step s = .next ((cleared s).tick 1) := by
  show turn exec s = _
  unfold turn
  dsimp only
  split
  · rfl
  · next h' => cases h.symm.trans h'

/-- The state in which the first turn of an agenda acts. -/
def begun (s : State) (dt : Nat) (r : List Turn) : State := ({ cleared s with agenda := r } : State).tick dt

theorem step_turn {s : State} {a : Act} {dt : Nat} {r : List Turn} (h : s.agenda = { dt := dt, act := a } :: r) :
    step s = actTurn exec a (begun s dt r) := by
  show turn exec s = _
  unfold turn
  dsimp only
  split
  · next h' => cases h.symm.trans h'
  · next h' => cases h.symm.trans h'; rfl

section
variable {v t : State}

/-- A core that may run executes what it fetches; one that cannot begin yet leaves the state alone. -/
theorem coreTurn_runs {c : CoreId} {x : Core} (hx : v.core? c = some x) (ha : x.active = true) (hw : x.waiting = false)
    (hs : x.stopped = false) (hl : v.live x.k (.barn c.barn) = true) (hg : v.gatedPart c.barn = false)
    (he : exec x.fetch { v with curCore := some c, held := false } = .next t) :
    actTurn exec (.core c) v = .next (if t.held then v else { t with curCore := none }) := by
  show coreTurn exec c v = _
  simp only [coreTurn, hx, ha, hw, hs, hl, hg, he, Bool.not_true, Bool.or_false, Bool.false_eq_true, if_false]
  split <;> rfl

/-- An instruction that ends within the instruction store is fetched from it. -/
theorem fetch_inside {x : Core} (h : x.pc.toNat + coreLen (x.wordAt x.pc.toNat) ≤ 0x10000) :
    x.fetch = (decodeCoreBytes (getBytes x.istore x.pc.toNat 4)).1 := if_neg (by omega)

/-- A plain node fires as the instruction of its word. -/
theorem fireInstr_plain {x : Machine.PSet} {i : Instr} (hk : v.nodeKind x.site = .plain) (hi : decodeBase (v.nodeWord x.site).1 = some i) :
    v.fireInstr x = i := by
  simp only [State.fireInstr, hk, hi, Option.getD_some, ite_self]

/-- A node of a bay or a region fires its oldest set. -/
theorem fireTurn_runs {site : Site} {x : Machine.PSet} {rest : List Machine.PSet} (ht : site.holder.temporal = false)
    (hn : v.nodeSets site = x :: rest) (he : exec (v.fireInstr x) (v.focus x) = .next t) (hh : t.held = false) :
    actTurn exec (.fire site) v = .next (t.afterFire x) := by
  show fireTurn exec site v = _
  simp only [fireTurn, ht, hn, fireSets, he, hh, Bool.false_eq_true, if_false, Bool.not_false, if_true]

/-- An event runs, but for a host's write while READY is 0 (R474). -/
theorem actTurn_event (i : Instr) (arg : EventArg) : actTurn exec (.event i arg) v =
    if hostWrite i arg && v.regField .pkgStat 31 1 = 0 then .next v else exec i { v with arg := arg } := rfl

end

end Sys2Proof.Laws

namespace Sys2Proof.Proofs

open Sys2Proof Sys2Proof.Machine Sys2Proof.Laws

/-- Settles O55: a step is the act of the first turn, in the state that the clock has reached by then. -/
theorem stepRunsDecoded : Obligations.StepRunsDecoded := by
  intro s clean
  refine ⟨step_empty, fun a dt r h => ?_⟩
  intro v
  rw [show step s = actTurn exec a v from step_turn h]
  clear_value v
  refine ⟨fun c x t hc hx ha hw hs hl hg => ⟨fetch_inside, fun he hh => ?_, fun he hh => ?_⟩,
    fun site x rest t hf ht hn => ⟨fun i => fireInstr_plain, fun he hh => ?_⟩, fun i arg hev hrun => ?_, fun i arg hev hw h0 => ?_⟩
  · rw [hc, coreTurn_runs hx ha hw hs hl hg he, hh]
    rfl
  · rw [hc, coreTurn_runs hx ha hw hs hl hg he, hh]
    rfl
  · rw [hf, fireTurn_runs ht hn he hh]
  · have hruns : ¬(hostWrite i arg && decide (v.regField .pkgStat 31 1 = 0)) = true := by
      rcases hrun with hw | hr
      · simp [hw]
      · simp [hr]
    rw [hev, actTurn_event, if_neg hruns]
  · rw [hev, actTurn_event, if_pos (Bool.and_eq_true_iff.2 ⟨hw, decide_eq_true h0⟩)]

end Sys2Proof.Proofs
end

section
/-! PROOF. Rounding (R44, R46): the neighbour that each mode names, and the encodings that round to themselves. -/

namespace Sys2Proof.Laws

open Sys2Proof Sys2Proof.Machine Sys2Proof.Claims

/-! What rounding discards. -/

/-- The part of an exact magnitude below bit `drop`, compared with half of the last place kept. -/
theorem restOf_exact (m drop : Nat) : restOf m drop false =
    if m % 2 ^ drop = 0 then .none else if 2 * (m % 2 ^ drop) < 2 ^ drop then .low
    else if 2 * (m % 2 ^ drop) = 2 ^ drop then .half else .high := by
  rcases drop with _ | d
  · simp [restOf, Nat.mod_one]
  · have hp : 2 ^ (d + 1) = 2 * 2 ^ d := by rw [Nat.pow_succ, Nat.mul_comm]
    by_cases hbig : d + 1 > Nat.log2 m + 2
    · have hm : m < 2 ^ d := lt_of_lt_of_le Nat.lt_log2_self (Nat.pow_le_pow_right (by decide) (by omega))
      have hr : m % 2 ^ (d + 1) = m := Nat.mod_eq_of_lt (by omega)
      rw [restOf, if_neg d.succ_ne_zero, if_pos hbig, hr, hp]
      by_cases h0 : m = 0
      · simp [h0]
      · simp [h0, hm]
    · rw [restOf, if_neg d.succ_ne_zero, if_neg hbig, hp, Nat.add_sub_cancel]
      generalize hr : m % (2 * 2 ^ d) = r
      by_cases h0 : r = 0
      · simp [h0]
      · simp [h0]

/-- Rounding keeps the magnitude below the discarded part, or takes the next one. -/
theorem roundAt_cases (m drop : Nat) (stk neg : Bool) (rm : Rnd) :
    roundAt m drop stk neg rm = m / 2 ^ drop ∨ roundAt m drop stk neg rm = m / 2 ^ drop + 1 := by
  rw [roundAt, Nat.shiftRight_eq_div_pow]
  split
  · exact .inr rfl
  · exact .inl rfl

/-- A mode that does not round up keeps the magnitude, one that does takes the next. -/
theorem roundAt_eq {m drop : Nat} {neg : Bool} {rm : Rnd} {up : Bool}
    (h : roundsUp rm neg (m / 2 ^ drop % 2 = 1) (restOf m drop false) = up) :
    roundAt m drop false neg rm = m / 2 ^ drop + up.toNat := by
  subst h
  rw [roundAt, Nat.shiftRight_eq_div_pow]
  split
  · next hu => rw [hu]; rfl
  · next hu => rw [Bool.eq_false_iff.2 hu]; rfl

theorem roundsUp_none (rm : Rnd) (neg odd : Bool) : roundsUp rm neg odd .none = false := by cases rm <;> rfl

/-- With nothing to discard the magnitude stays. -/
theorem roundAt_exact {m drop : Nat} (neg : Bool) (rm : Rnd) (h : m % 2 ^ drop = 0) :
    roundAt m drop false neg rm = m / 2 ^ drop :=
  roundAt_eq (up := false) (by rw [restOf_exact, if_pos h, roundsUp_none])

@[simp] theorem roundAt_zero (m : Nat) (neg : Bool) (rm : Rnd) : roundAt m 0 false neg rm = m := by
  rw [roundAt_exact neg rm (by rw [Nat.pow_zero, Nat.mod_one]), Nat.pow_zero, Nat.div_one]

theorem restOf_low {m drop : Nat} (h0 : m % 2 ^ drop ≠ 0) (h : 2 * (m % 2 ^ drop) < 2 ^ drop) : restOf m drop false = .low := by
  rw [restOf_exact, if_neg h0, if_pos h]

theorem restOf_half {m drop : Nat} (h : 2 * (m % 2 ^ drop) = 2 ^ drop) : restOf m drop false = .half := by
  have hpos : 0 < 2 ^ drop := Nat.two_pow_pos drop
  rw [restOf_exact, if_neg (by omega), if_neg (by omega), if_pos h]

theorem restOf_high {m drop : Nat} (h : 2 ^ drop < 2 * (m % 2 ^ drop)) : restOf m drop false = .high := by
  rw [restOf_exact, if_neg (by omega), if_neg (by omega), if_neg (by omega)]

theorem restOf_ne_none {m drop : Nat} (h : m % 2 ^ drop ≠ 0) : restOf m drop false ≠ .none := by
  rw [restOf_exact, if_neg h]
  split
  · decide
  · split <;> decide

/-! Encodings. -/

/-- The fields of an encoding put together again. -/
theorem signed_fields (fm : Fmt) {b : Nat} (hb : b < 2 ^ fm.bits) :
    fm.signed (bitsAt b (fm.bits - 1) 1 = 1) (bitsAt b fm.frac fm.expW * 2 ^ fm.frac + bitsAt b 0 fm.frac) = b := by
  cases fm <;> simp only [Fmt.signed, Fmt.bits, Fmt.frac, Fmt.expW, bitsAt, Nat.shiftRight_eq_div_pow, decide_eq_true_eq] at hb ⊢ <;>
    split <;> omega

/-- Every format has a normal value. -/
theorem minExp_le_topExp (fm : Fmt) : fm.minExp ≤ fm.topExp := by cases fm <;> decide

/-- A zero rounds to the zero of its sign. -/
theorem roundToFormat_zero (fm : Fmt) (s : Bool) (e : Int) (rm : Rnd) (sat : Bool) :
    roundToFormat (.fin s 0 e false) fm rm sat = (fm.zeroBits s, 0) := by simp [roundToFormat]

/-- A subnormal value rounds to the encoding of its fraction. -/
theorem roundToFormat_subnormal (fm : Fmt) (s : Bool) {m : Nat} (rm : Rnd) (sat : Bool) (h0 : m ≠ 0) (hm : m < 2 ^ fm.frac) :
    roundToFormat (.fin s m fm.gridExp false) fm rm sat = (fm.signed s m, 0) := by
  have hl : m.log2 < fm.frac := (Nat.log2_lt h0).2 hm
  have hd : m.log2 + 1 - (fm.frac + 1) = 0 := by omega
  have htop : fm.gridExp + (m.log2 : Int) < fm.minExp := by unfold Fmt.gridExp; omega
  have hle := minExp_le_topExp fm
  have hno : ¬ fm.topExp < fm.gridExp + (m.log2 : Int) := by omega
  have hne : ¬ fm.gridExp + (m.log2 : Int) = fm.topExp := by omega
  simp [roundToFormat, h0, hd, htop, hno, hne, roundGrid, gridInexact]

/-- A significand of a normal value has full precision. -/
theorem log2_normal {fm : Fmt} {m : Nat} (hm : m < 2 ^ fm.frac) : (2 ^ fm.frac + m).log2 = fm.frac := by
  have hpos : 0 < 2 ^ fm.frac := Nat.two_pow_pos _
  exact (Nat.log2_eq_iff (by omega)).2 ⟨by omega, by rw [Nat.pow_succ]; omega⟩

/-- A normal value in the range of its format rounds to the encoding of its exponent field `n` and fraction. -/
theorem roundToFormat_normal (fm : Fmt) (s : Bool) {m n : Nat} (rm : Rnd) (sat : Bool) (hm : m < 2 ^ fm.frac) (hn : n ≠ 0)
    (hmax : (n : Int) - fm.bias < fm.topExp ∨ (n : Int) - fm.bias = fm.topExp ∧ 2 ^ fm.frac + m ≤ fm.topSig) :
    roundToFormat (.fin s (2 ^ fm.frac + m) ((n : Int) - fm.bias - fm.frac) false) fm rm sat =
      (fm.signed s (n * 2 ^ fm.frac + m), 0) := by
  have hl := log2_normal hm
  have htop : (n : Int) - fm.bias - fm.frac + fm.frac = n - fm.bias := by omega
  have hmin : ¬ (n : Int) - fm.bias < fm.minExp := by unfold Fmt.minExp; omega
  have hover : ¬ (fm.topExp < (n : Int) - fm.bias ∨ (n : Int) - fm.bias = fm.topExp ∧ fm.topSig < 2 ^ fm.frac + m) := by omega
  simp [roundToFormat, hl, htop, hmin, hover, Nat.shiftLeft_eq, restOf, -Int.sub_add_cancel]

/-- The exponent fields of finite values, but for 0, reach the exponent and the significand of the largest one. -/
theorem finite_le_top (fm : Fmt) {n m : Nat} (hn : n < 2 ^ fm.expW) (hm : m < 2 ^ fm.frac)
    (hinf : fm.hasInf = true → n ≠ 2 ^ fm.expW - 1) (hnan : fm.hasInf = false → n = 2 ^ fm.expW - 1 → m ≠ 2 ^ fm.frac - 1) :
    (n : Int) - fm.bias < fm.topExp ∨ (n : Int) - fm.bias = fm.topExp ∧ 2 ^ fm.frac + m ≤ fm.topSig := by
  cases fm <;> simp only [Fmt.expW, Fmt.bits, Fmt.frac, Fmt.hasInf, Fmt.bias, Fmt.topExp, Fmt.topSig] at * <;> simp at * <;> omega

/-- What an encoding stands for (R39): NaN, an infinity, a subnormal value or zero, or a normal value in the range of its format. -/
theorem value_cases (fm : Fmt) {b : Nat} (hb : b < 2 ^ fm.bits) : fm.value b = .nan ∨
    (∃ g, fm.value b = .inf g ∧ fm.hasInf = true ∧ b = fm.infBits g) ∨
    (∃ g m, fm.value b = .fin g m fm.gridExp false ∧ m < 2 ^ fm.frac ∧ b = fm.signed g m) ∨
    (∃ g m, ∃ n : Nat, fm.value b = .fin g (2 ^ fm.frac + m) ((n : Int) - fm.bias - fm.frac) false ∧ m < 2 ^ fm.frac ∧ n ≠ 0 ∧
      ((n : Int) - fm.bias < fm.topExp ∨ (n : Int) - fm.bias = fm.topExp ∧ 2 ^ fm.frac + m ≤ fm.topSig) ∧
      b = fm.signed g (n * 2 ^ fm.frac + m)) := by
  have hfields := signed_fields fm hb
  have hn : bitsAt b fm.frac fm.expW < 2 ^ fm.expW := Nat.mod_lt _ (Nat.two_pow_pos _)
  have hm : bitsAt b 0 fm.frac < 2 ^ fm.frac := Nat.mod_lt _ (Nat.two_pow_pos _)
  unfold Fmt.value
  dsimp only
  generalize bitsAt b fm.frac fm.expW = n at hfields hn ⊢
  generalize bitsAt b 0 fm.frac = m at hfields hm ⊢
  generalize decide (bitsAt b (fm.bits - 1) 1 = 1) = g at hfields ⊢
  split
  · next hinf =>
    obtain ⟨hn', hi⟩ := Bool.and_eq_true_iff.1 hinf
    split
    · next hm0 =>
      refine .inr (.inl ⟨g, rfl, hi, ?_⟩)
      rw [← hfields, Fmt.infBits, Nat.shiftLeft_eq, of_decide_eq_true hn', hm0, Nat.add_zero]
    · exact .inl rfl
  · next hinf =>
    split
    · exact .inl rfl
    · next hnan =>
      split
      · next hn0 => exact .inr (.inr (.inl ⟨g, m, rfl, hm, by rw [← hfields, hn0, Nat.zero_mul, Nat.zero_add]⟩))
      · next hn0 =>
        refine .inr (.inr (.inr ⟨g, m, n, rfl, hm, hn0, finite_le_top fm hn hm ?_ ?_, hfields.symm⟩))
        · intro hi hn'
          simp [hi, hn'] at hinf
        · intro hi hn' hm'
          simp [hi, hn', hm'] at hnan

end Sys2Proof.Laws

namespace Sys2Proof.Proofs

open Sys2Proof Sys2Proof.Machine Sys2Proof.Claims Sys2Proof.Laws

/-- R44: the rest that is discarded decides, under each mode, between the two neighbours. -/
theorem roundingModes : Claims.RoundingModes := by
  intro m drop neg rm
  refine ⟨roundAt_cases m drop false neg rm, fun h => roundAt_exact neg rm h, ?_, ?_, ?_, ?_, ?_, ?_, ?_⟩
  · rintro rfl
    exact roundAt_eq (up := false) rfl
  · rintro rfl h
    rw [roundAt_eq (up := !neg) (by simp [roundsUp, restOf_ne_none h])]
    cases neg <;> rfl
  · rintro rfl h
    rw [roundAt_eq (up := neg) (by simp [roundsUp, restOf_ne_none h])]
    cases neg <;> rfl
  · intro hrm h
    by_cases h0 : m % 2 ^ drop = 0
    · exact roundAt_exact neg rm h0
    · refine roundAt_eq (up := false) ?_
      rw [restOf_low h0 h]
      rcases hrm with rfl | rfl <;> rfl
  · intro hrm h
    refine roundAt_eq (up := true) ?_
    rw [restOf_high h]
    rcases hrm with rfl | rfl <;> rfl
  · rintro rfl h
    rw [roundAt_eq (up := decide (m / 2 ^ drop % 2 = 1)) (by rw [restOf_half h]; rfl)]
    rcases Nat.mod_two_eq_zero_or_one (m / 2 ^ drop) with h2 | h2 <;> rw [h2] <;> rfl
  · rintro rfl h
    exact roundAt_eq (up := true) (by rw [restOf_half h]; rfl)

/-- R46: a finite value has no more digits than its format keeps, so nothing is discarded. -/
theorem encodingsRoundToThemselves : Claims.EncodingsRoundToThemselves := by
  intro fm b rm sat hb hnan hsat
  obtain h | ⟨g, h, hi, rfl⟩ | ⟨g, m, h, hm, rfl⟩ | ⟨g, m, n, h, hm, hn, hmax, rfl⟩ := value_cases fm hb
  · exact absurd h hnan
  · have hs : ¬ sat = true := fun hs => hsat hs g h
    rw [h, roundToFormat, if_neg hs, if_pos hi]
  · rw [h]
    by_cases h0 : m = 0
    · rw [h0, roundToFormat_zero]
      rfl
    · exact roundToFormat_subnormal fm g rm sat h0 hm
  · rw [h]
    exact roundToFormat_normal fm g rm sat hm hn hmax

/-- Settles O9: each mode compares what it discards with half of the last place, and encodings discard nothing. -/
theorem floatRounding : Obligations.FloatRounding := ⟨roundingModes, encodingsRoundToThemselves⟩

end Sys2Proof.Proofs
end

section
/-! PROOF. Conversions, FRND, FLDEXP and FGETEXP (R50, R119 to R125): what their lanes hold. -/

namespace Sys2Proof.Laws

open Sys2Proof Sys2Proof.Machine Sys2Proof.Claims

/-! Results fit the width of their lane. -/

theorem width_fmtOf {t : Ty} (h : t.isFloat = true) : (fmtOf t).bits = t.width := by revert h; cases t <;> decide

/-- An encoding is a sign beside an exponent field and a fraction. -/
theorem signed_lt (fm : Fmt) (neg : Bool) {b : Nat} (hb : b < 2 ^ (fm.bits - 1)) : fm.signed neg b < 2 ^ fm.bits := by
  have hp : 2 ^ fm.bits = 2 ^ (fm.bits - 1) + 2 ^ (fm.bits - 1) := by cases fm <;> rfl
  unfold Fmt.signed
  split <;> omega

theorem canonNaN_lt (fm : Fmt) : fm.canonNaN < 2 ^ fm.bits := by cases fm <;> decide

theorem infBits_lt (fm : Fmt) (g : Bool) : fm.infBits g < 2 ^ fm.bits := signed_lt fm g (by cases fm <;> decide)

theorem maxFinite_lt (fm : Fmt) (g : Bool) : fm.signed g fm.maxFinite < 2 ^ fm.bits := signed_lt fm g (by cases fm <;> decide)

theorem zeroBits_lt (fm : Fmt) (g : Bool) : fm.zeroBits g < 2 ^ fm.bits := signed_lt fm g (Nat.two_pow_pos _)

/-- Rounding stays at or below a bound that the magnitude is below. -/
theorem roundAt_le {m drop b : Nat} (stk neg : Bool) (rm : Rnd) (h : m < b * 2 ^ drop) : roundAt m drop stk neg rm ≤ b := by
  have hq : m / 2 ^ drop < b := (Nat.div_lt_iff_lt_mul (Nat.two_pow_pos drop)).2 h
  rcases roundAt_cases m drop stk neg rm with hr | hr <;> omega

/-- Rounding to `2^drop` keeps the top exponent of a magnitude, or takes the next. -/
theorem log2_le_log2_roundAt (m drop : Nat) (stk neg : Bool) (rm : Rnd) : m.log2 ≤ drop + (roundAt m drop stk neg rm).log2 := by
  by_cases h0 : m = 0
  · simp [h0]
  · have hle : m / 2 ^ drop ≤ roundAt m drop stk neg rm := by
      rcases roundAt_cases m drop stk neg rm with hr | hr <;> omega
    have hlt := (Nat.div_lt_iff_lt_mul (Nat.two_pow_pos drop)).1 (lt_of_le_of_lt hle Nat.lt_log2_self)
    rw [← Nat.pow_add] at hlt
    have := (Nat.log2_lt h0).2 hlt
    omega

/-- A magnitude below the least normal value rounds to at most the encoding of that value. -/
theorem roundGrid_le (fm : Fmt) {m : Nat} {e : Int} (stk neg : Bool) (rm : Rnd) (h : m ≠ 0 → e + m.log2 < fm.minExp) :
    roundGrid m e fm.gridExp stk neg rm ≤ 2 ^ fm.frac := by
  have hmin : fm.minExp = fm.gridExp + fm.frac := by unfold Fmt.gridExp; omega
  unfold roundGrid
  split
  · next hge =>
    refine roundAt_le stk neg rm ?_
    by_cases h0 : m = 0
    · simp [h0]
    · have := h h0
      rw [Nat.shiftLeft_eq, Nat.pow_zero, Nat.mul_one]
      calc m * 2 ^ (e - fm.gridExp).toNat < 2 ^ (m.log2 + 1) * 2 ^ (e - fm.gridExp).toNat :=
            Nat.mul_lt_mul_of_pos_right Nat.lt_log2_self (Nat.two_pow_pos _)
        _ = 2 ^ (m.log2 + 1 + (e - fm.gridExp).toNat) := (Nat.pow_add ..).symm
        _ ≤ 2 ^ fm.frac := Nat.pow_le_pow_right (by decide) (by omega)
  · next hlt =>
    refine roundAt_le stk neg rm ?_
    by_cases h0 : m = 0
    · simp [h0]
    · have := h h0
      rw [← Nat.pow_add]
      exact lt_of_lt_of_le Nat.lt_log2_self (Nat.pow_le_pow_right (by decide) (by omega))

/-- A significand brought to `p` bits has no more. -/
theorem significand_lt (q p : Nat) :
    (if p ≤ q.log2 then q >>> (q.log2 + 1 - p) else q <<< (p - 1 - q.log2)) < 2 ^ p := by
  split
  · next h =>
    rw [Nat.shiftRight_eq_div_pow, Nat.div_lt_iff_lt_mul (Nat.two_pow_pos _), ← Nat.pow_add,
      show p + (q.log2 + 1 - p) = q.log2 + 1 by omega]
    exact Nat.lt_log2_self
  · next h =>
    rw [Nat.shiftLeft_eq]
    calc q * 2 ^ (p - 1 - q.log2) < 2 ^ (q.log2 + 1) * 2 ^ (p - 1 - q.log2) :=
          Nat.mul_lt_mul_of_pos_right Nat.lt_log2_self (Nat.two_pow_pos _)
      _ = 2 ^ p := by rw [← Nat.pow_add]; congr 1; omega

/-- Exponents up to the top one leave room for the sign. -/
theorem normal_lt (fm : Fmt) {e : Int} {sig : Nat} (he : e ≤ fm.topExp) (hs : sig < 2 ^ (fm.frac + 1)) :
    (e + fm.bias).toNat <<< fm.frac + (sig - 2 ^ fm.frac) < 2 ^ (fm.bits - 1) := by
  cases fm <;> simp only [Fmt.topExp, Fmt.frac, Fmt.bias, Fmt.bits, Nat.shiftLeft_eq] at * <;> omega

/-- The result of RoundToFormat is an encoding of its format. -/
theorem roundToFormat_lt (v : Val) (fm : Fmt) (rm : Rnd) (sat : Bool) : (roundToFormat v fm rm sat).1 < 2 ^ fm.bits := by
  cases v with
  | nan => exact canonNaN_lt fm
  | inf g =>
    unfold roundToFormat
    dsimp only
    split
    · exact maxFinite_lt fm g
    · split
      · exact infBits_lt fm g
      · exact canonNaN_lt fm
  | fin g m e stk =>
    have htop := log2_le_log2_roundAt m (m.log2 + 1 - (fm.frac + 1)) stk g rm
    have hsig := significand_lt (roundAt m (m.log2 + 1 - (fm.frac + 1)) stk g rm) (fm.frac + 1)
    unfold roundToFormat
    dsimp only
    generalize m.log2 + 1 - (fm.frac + 1) = drop at htop hsig ⊢
    generalize roundAt m drop stk g rm = q at htop hsig ⊢
    generalize (if fm.frac + 1 ≤ q.log2 then q >>> (q.log2 + 1 - (fm.frac + 1)) else q <<< (fm.frac + 1 - 1 - q.log2)) = sig at hsig ⊢
    split
    · exact zeroBits_lt fm g
    · split
      · split
        · exact maxFinite_lt fm g
        · split
          · dsimp only
            split
            · exact infBits_lt fm g
            · exact canonNaN_lt fm
          · exact maxFinite_lt fm g
      · next hover =>
        have hle : e + drop + q.log2 ≤ fm.topExp := by
          by_contra hgt
          simp [Int.not_le.1 hgt] at hover
        split
        · next hmin =>
          refine signed_lt fm g (lt_of_le_of_lt (roundGrid_le fm stk g rm fun h0 => ?_) (by cases fm <;> decide))
          simp [h0] at hmin
          omega
        · exact signed_lt fm g (normal_lt fm hle hsig)

theorem roundLane_lt (v : Val) (fm : Fmt) (rm : Rnd) (sat : Bool) : (roundLane v fm rm sat).1 < 2 ^ fm.bits := by
  unfold roundLane
  split
  · exact canonNaN_lt fm
  · exact roundToFormat_lt _ fm rm sat

/-- Rounding a lane is what the statements call `Rounded`. -/
theorem rounded_roundLane (v : Val) (fm : Fmt) (rm : Rnd) (sat : Bool) :
    Rounded fm rm sat v (roundLane v fm rm sat).1 (roundLane v fm rm sat).2 := by
  unfold roundLane
  split
  · exact .inl ⟨rfl, rfl, rfl⟩
  · next h => exact .inr ⟨h, rfl⟩

theorem fpToInt_lt (v : Val) (w : Nat) (sgn : Bool) (rm : Rnd) : (fpToInt v w sgn rm).1 < 2 ^ w := by
  cases v with
  | nan => exact Nat.two_pow_pos w
  | inf g => exact wrapNat_lt _ w
  | fin g m e stk =>
    unfold fpToInt
    dsimp only
    generalize (if g = true then -(roundGrid m e 0 stk g rm : Int) else (roundGrid m e 0 stk g rm : Int)) = i
    split
    · exact wrapNat_lt _ w
    · split <;> exact wrapNat_lt _ w

theorem convLane_lt (v : Val) (t : Ty) (rm : Rnd) (sat : Bool) : (convLane v t rm sat).1 < 2 ^ t.width := by
  unfold convLane
  split
  · next h => exact width_fmtOf h ▸ roundLane_lt v (fmtOf t) rm sat
  · exact fpToInt_lt v t.width t.isSigned rm

/-- A converted lane: rounded once into a format, by FpToInt into an integer type (R119). -/
theorem convLane_converts (v : Val) (t : Ty) (rm : Rnd) (sat : Bool) :
    if t.isFloat then Rounded (fmtOf t) rm sat v (convLane v t rm sat).1 (convLane v t rm sat).2
    else ((convLane v t rm sat).1, (convLane v t rm sat).2) = fpToInt v t.width t.isSigned rm := by
  unfold convLane
  split
  · exact rounded_roundLane v (fmtOf t) rm sat
  · rfl

/-! Lanes of instructions. -/

/-- The lanes of a lane-wise result whose bits fit them. -/
theorem lanewise_lane_of_lt {t : Ty} {g : Nat → Nat × Nat} {k : Nat} (hk : k < t.lanes) (hlt : (g k).1 < 2 ^ t.width) :
    laneBits (lanewise t g).1 t.width k = (g k).1 := by rw [lanewise_lane hk, Nat.mod_eq_of_lt hlt]

/-- A lane-wise instruction whose lanes fit and meet a condition sends such a word. -/
theorem sendsWith {s : State} {f : Firing} {h : Hdr} {lat : Nat} {g : Firing → Nat → Nat × Nat} {p : Nat → Nat → Nat → Prop}
    (hr : Runs s f h []) (hlt : ∀ k, (g f k).1 < 2 ^ h.ty.width) (hp : ∀ k, p k (g f k).1 (g f k).2) :
    SendsWith (compute s h lat h.ty fun f => lanewise h.ty (g f)) s f h lat p := by
  refine ⟨_, _, compute_runs hr, lanewise_flags_length _ _, fun k hk => ?_⟩
  rw [lanewise_lane_of_lt hk (hlt k), lanewise_flags hk]
  exact hp k

theorem srcTy_eq {c : BitVec 4} {t : Ty} (h : Ty.ofBits c = some t) : srcTy c = t := by rw [srcTy, h]; rfl

section
variable {s : State} {f : Firing} {h : Hdr} {sat : Bool} {rm : Rnd} {src : BitVec 4} {st : Ty}

/-- Lane `k` of FCVT and its flags (R119): a source lane that the destination has room for, the zeros beside them, or a lane of
the part that LANE names. -/
def cvtLane (f : Firing) (st dst : Ty) (lane : Nat) (rm : Rnd) (sat : Bool) (k : Nat) : Nat × Nat :=
  if st.lanes ≤ dst.lanes then (if k < st.lanes then convLane (valOf f st .a k) dst rm sat else (0, 0))
  else convLane (valOf f st .a (lane * dst.lanes + k)) dst rm sat

theorem cvtLane_lt (lane k : Nat) : (cvtLane f st h.ty lane rm sat k).1 < 2 ^ h.ty.width := by
  unfold cvtLane
  split
  · split
    · exact convLane_lt ..
    · exact Nat.two_pow_pos _
  · exact convLane_lt ..

/-- An executing FCVT sends its lanes with their flags, and with `.amx` has every source lane update its AMAX register. -/
theorem fcvt_runs {amx : Bool} {areg : BitVec 4} {lane : BitVec 3} (hr : Runs s f h []) (hst : Ty.ofBits src = some st) :
    exec (.fcvt h amx sat rm areg lane src) s =
      .next ((let u := (s.counted f h.ty).raiseLanes f.k 0 (lanewise h.ty (cvtLane f st h.ty lane.toNat rm sat)).2
        if amx then u.amaxLanes f.k areg.toNat ((upto st.lanes).map (valOf f st .a)) else u).emitAll f.site 2
          (f.result h false h.ty (lanewise h.ty (cvtLane f st h.ty lane.toNat rm sat)).1) [h.t0, h.t1]) := by
  obtain rfl := srcTy_eq hst
  exact (onFiring_runs hr).trans (congrArg Host.Outcome.next
    (fired_runs (sh := { h := h, targets := [h.t0, h.t1], lat := 2 }) hr))

end

/-! FLDEXP. -/

section
variable {fm : Fmt} {rm : Rnd} {sat : Bool}

theorem ldexpLane_lt (a : Val) (e : Scale) : (ldexpLane a e fm rm sat).1 < 2 ^ fm.bits := by
  unfold ldexpLane
  split
  case h_1 | h_2 | h_3 | h_5 => exact canonNaN_lt fm
  all_goals exact roundToFormat_lt ..

@[simp] theorem ldexpLane_nan (e : Scale) : ldexpLane .nan e fm rm sat = (fm.canonNaN, flNV) := by cases e <;> rfl

@[simp] theorem ldexpLane_by_nan (a : Val) : ldexpLane a .nan fm rm sat = (fm.canonNaN, flNV) := by cases a <;> rfl

@[simp] theorem ldexpLane_inf_by (g : Bool) (n : Int) :
    ldexpLane (.inf g) (.by n) fm rm sat = roundToFormat (.inf g) fm rm sat := rfl

/-- A finite value other than zero is scaled in its exponent. -/
theorem ldexpLane_fin_by (g : Bool) {m : Nat} (x : Int) (k : Bool) (n : Int) (hm : m ≠ 0) :
    ldexpLane (.fin g m x k) (.by n) fm rm sat = roundToFormat (.fin g m (x + n) k) fm rm sat := by
  obtain ⟨m, rfl⟩ := Nat.exists_eq_succ_of_ne_zero hm
  rfl

theorem scaleOf_float_nan {y : Word} (h : Fmt.f32.value y.toNat = .nan) : scaleOf true y = .nan := by
  simp only [scaleOf, h, if_true]

@[simp] theorem scaleOf_int (y : Word) : scaleOf false y = .by y.toInt := rfl

end

/-! FGETEXP. -/

/-- The result of FGETEXP for a value, and its flags (R125). -/
def expWord : Val → Word × Nat
  | .nan => (0x7FFFFFFF, flNV)
  | .inf _ => (0x7FFFFFFF, 0)
  | .fin _ m e _ => if m = 0 then (0x80000000, flDZ) else (BitVec.ofInt 32 (e + m.log2), 0)

theorem fgetexp_runs {s : State} {f : Firing} {h : Hdr} (hr : Runs s f h []) : exec (.fgetexp h) s =
    .next (computed s f h 1 .i32 (expWord (valOf f .f32 .a 0)).1 [(expWord (valOf f .f32 .a 0)).2]) := by
  refine (compute_runs hr).trans ?_
  rw [show f.lane .f32 .a 0 = valOf f .f32 .a 0 from rfl]
  cases valOf f .f32 .a 0 with
  | nan => rfl
  | inf g => rfl
  | fin g m e k => by_cases hm : m = 0 <;> simp [expWord, hm]

/-- The exponent of a value of an encoding lies between those of the least and of the largest value of its format. -/
theorem exponent_bounds (fm : Fmt) {b : Nat} (hb : b < 2 ^ fm.bits) {g : Bool} {m : Nat} {e : Int} {k : Bool}
    (h : fm.value b = .fin g m e k) (hm : m ≠ 0) : fm.gridExp ≤ e + m.log2 ∧ e + m.log2 ≤ fm.topExp := by
  have hmin := minExp_le_topExp fm
  obtain h' | ⟨_, h', -⟩ | ⟨g', m', h', hm', -⟩ | ⟨g', m', n, h', hm', hn, htop, -⟩ := value_cases fm hb <;>
    rw [h] at h' <;> cases h'
  · have := (Nat.log2_lt hm).2 hm'
    unfold Fmt.gridExp at *
    omega
  · have hlog : (2 ^ fm.frac + m').log2 = fm.frac := log2_normal hm'
    rw [hlog]
    unfold Fmt.gridExp Fmt.minExp
    omega

/-- The exponent of an f32 value fits the result. -/
theorem toInt_expWord {b : Nat} (hb : b < 2 ^ 32) {g : Bool} {m : Nat} {e : Int} {k : Bool} (h : Fmt.f32.value b = .fin g m e k)
    (hm : m ≠ 0) : (expWord (.fin g m e k)).1.toInt = e + m.log2 := by
  obtain ⟨hlo, hhi⟩ := exponent_bounds .f32 hb h hm
  have h1 : Fmt.f32.gridExp = -149 := rfl
  have h2 : Fmt.f32.topExp = 127 := rfl
  simp only [expWord, if_neg hm, BitVec.toInt_ofInt]
  exact Int.bmod_eq_of_le (by omega) (by omega)

end Sys2Proof.Laws

namespace Sys2Proof.Proofs

open Sys2Proof Sys2Proof.Machine Sys2Proof.Claims Sys2Proof.Laws

/-- R119, R120, R50: each lane is a `convLane`, whose bits fit the lane. -/
theorem conversions : Claims.Conversions := by
  intro s f h amx sat rm areg lane pos src st hr hst conv
  have hconv : ∀ v, conv v (convLane v h.ty rm sat).1 (convLane v h.ty rm sat).2 := fun v => convLane_converts v h.ty rm sat
  refine ⟨⟨_, _, fcvt_runs hr hst, lanewise_flags_length _ _, fun k hk => ?_⟩, ?_, ?_⟩
  · rw [lanewise_lane_of_lt hk (cvtLane_lt _ k), lanewise_flags hk]
    refine ⟨fun hle hks => ?_, fun hle hks => ?_, fun hlt => ?_⟩
    · rw [cvtLane, if_pos hle, if_pos hks]
      exact hconv _
    · rw [cvtLane, if_pos hle, if_neg (by omega)]
      exact ⟨rfl, rfl⟩
    · rw [cvtLane, if_neg (by omega)]
      exact hconv _
  · obtain rfl := srcTy_eq hst
    exact sendsWith hr (fun k => convLane_lt ..) (fun k => hconv _)
  · obtain rfl := srcTy_eq hst
    refine sendsWith hr (fun k => ?_) (fun k => ?_)
    · split
      · exact convLane_lt ..
      · exact Nat.mod_lt _ (Nat.two_pow_pos _)
    · by_cases hk : k = pos.toNat
      · simp only [if_pos hk]
        exact hconv _
      · simp only [if_neg hk]
        exact ⟨rfl, trivial⟩

/-- R123 to R125: the value of each lane decides which line of its definition holds. -/
theorem roundingAndExponents : Claims.RoundingAndExponents := by
  intro s f h sat rm expf hr hty fm a
  have hw : fm.bits = h.ty.width := width_fmtOf hty
  refine ⟨?_, ?_, ?_⟩
  · refine sendsWith hr (fun k => ?_) (fun k => ⟨fun hv => ?_, fun g hv => ?_, fun g m e hv => ?_⟩)
    · rw [← hw]
      split
      · exact canonNaN_lt fm
      · exact infBits_lt fm _
      · exact roundToFormat_lt ..
    all_goals
      rw [show f.lane h.ty .a k = _ from hv]
      exact ⟨rfl, rfl⟩
  · refine sendsWith hr (fun k => hw ▸ ldexpLane_lt _ _)
      (fun k => ⟨fun hv => ?_, fun he hv => ?_, fun he g m e hv hm => ?_, fun he g hv => ?_⟩)
    · rw [show f.lane h.ty .a k = _ from hv, ldexpLane_nan]
      exact ⟨rfl, rfl⟩
    · rw [he, scaleOf_float_nan hv, ldexpLane_by_nan]
      exact ⟨rfl, rfl⟩
    · rw [he, show f.lane h.ty .a k = _ from hv, scaleOf_int, ldexpLane_fin_by g e false _ hm]
    · rw [he, show f.lane h.ty .a k = _ from hv, scaleOf_int, ldexpLane_inf_by]
  · intro x hx
    refine ⟨_, _, fgetexp_runs hr, ?_⟩
    rw [hx]
    refine ⟨?_, ?_, ?_, ?_⟩
    · rintro rfl
      exact ⟨rfl, rfl⟩
    · rintro g rfl
      exact ⟨rfl, rfl⟩
    · rintro g e k rfl
      exact ⟨rfl, rfl⟩
    · rintro g m e k rfl hm
      exact ⟨by rw [expWord, if_neg hm], toInt_expWord (Nat.mod_lt _ (by decide)) hx hm⟩

/-- Settles O7: the bits of every lane are a conversion, a rounding or a scaling of its exact value. -/
theorem floatConversions : Obligations.FloatConversions := ⟨conversions, roundingAndExponents⟩

end Sys2Proof.Proofs
end

section
/-! PROOF. Tiles of a region (R58, R177, R308, R309): where a tile starts, how its tokens enter, and what an integer result is. -/

namespace Sys2Proof.Laws

open Sys2Proof Sys2Proof.Machine Sys2Proof.Claims

/-! Lowest numbers. -/

theorem upFrom_eq (b m : Nat) : upFrom b m = (List.range m).map (b + ·) := by
  rw [← List.range'_eq_map_range]
  induction m generalizing b with
  | zero => rfl
  | succ m ih => rw [upFrom, ih, List.range'_succ]

theorem lowest_eq_some {p : Nat → Bool} {n b : Nat} (hb : b < n) (hp : p b = true) (hl : ∀ c < b, p c = false) : lowest p n = some b := by
  rw [lowest, upto_eq, List.find?_range_eq_some]
  exact ⟨hp, List.mem_range.2 hb, fun c hc => by rw [hl c hc]; rfl⟩

theorem lowest_eq_none {p : Nat → Bool} {n : Nat} (hp : ∀ c < n, p c = false) : lowest p n = none := by
  rw [lowest, upto_eq, List.find?_range_eq_none]
  exact fun c hc => by rw [hp c hc]; rfl

/-! The start of a tile. -/

section
variable {s : State} {x : Region} {ty : Ty} {ires : Bool} {m : Nat} {p : DWord} {dp : Nat}

/-- Entry `i` of the active set of a region is in use. -/
def EntryUsed (x : Region) (i : Nat) : Prop := ∃ a ∈ x.accs, a.half = x.active ∧ a.idx = i

/-- A region may start a tile: no swap is due, and fewer than 16 tiles are in progress (R176, R177). -/
def MayStart (s : State) (x : Region) : Prop := s.swapDue x = false ∧ x.tiles.length < 16

/-- The `m` entries from base `b` on are free, as a start of a tile finds them. -/
def baseFree (x : Region) (m b : Nat) : Bool :=
  (upFrom b m).all fun i => !(x.accs.any fun a => a.half = x.active && a.idx = i)

theorem baseFree_iff {b : Nat} : baseFree x m b = true ↔ ∀ i < m, ¬EntryUsed x (b + i) := by
  simp [baseFree, upFrom_eq, EntryUsed]

theorem baseFree_false {b : Nat} : baseFree x m b = false ↔ ∃ i < m, EntryUsed x (b + i) := by
  rw [← Bool.not_eq_true, baseFree_iff]
  push Not
  rfl

theorem startTile_waits (h : ¬MayStart s x) : s.startTile x ty ires m p dp = .wait := by
  have hw : (s.swapDue x || decide (16 ≤ x.tiles.length)) = true := by
    by_contra hc
    simp only [Bool.or_eq_true, decide_eq_true_eq, not_or, Bool.not_eq_true, Nat.not_le] at hc
    exact h hc
  exact if_pos hw

theorem mayStart_bool (h : MayStart s x) : ¬(s.swapDue x || decide (16 ≤ x.tiles.length)) = true := by
  obtain ⟨hs, ht⟩ := h
  simp [hs, ht]

theorem startTile_unloaded (h : MayStart s x) (hl : (x.halfOf x.active).loaded = false) : s.startTile x ty ires m p dp =
    .trap { code := tcMatrixState, aux0 := s.handleOf x, aux1 := x.active } :=
  (if_neg (mayStart_bool h)).trans (if_pos (by rw [hl]; rfl))

theorem startTile_refused (h : MayStart s x) (hl : (x.halfOf x.active).loaded = true)
    (ha : accepts (x.halfOf x.active).wfmt ty ires = false) : s.startTile x ty ires m p dp =
    .trap { code := tcMatrixShape, aux0 := (x.halfOf x.active).wfmt, aux1 := ty.toBits.toNat, aux2 := if ires then 1 else 0 } :=
  (if_neg (mayStart_bool h)).trans ((if_neg (by rw [hl]; decide)).trans (if_pos (by rw [ha]; rfl)))

/-- The tile that starts at base `b`. -/
def tileAt (s : State) (x : Region) (p : DWord) (dp b : Nat) : MTile :=
  { id := x.nextTile, tag := p, dep := dp, half := x.active, base := b,
    next := (upto x.h).map fun _ => 0, toks := [], inits := [], started := s.cyc }

/-- The region in which that tile has taken its `m` entries. -/
def withTile (s : State) (x : Region) (m : Nat) (p : DWord) (dp b : Nat) : Region :=
  { x with nextTile := x.nextTile + 1, tiles := x.tiles ++ [tileAt s x p dp b],
           accs := x.accs ++ (upFrom b m).map fun i =>
             { half := x.active, idx := i, tile := x.nextTile, full := false, vals := [] } }

/-- A region that accepts a tile gives it the lowest free base; with none it makes it wait. -/
theorem startTile_accepted (h : MayStart s x) (hl : (x.halfOf x.active).loaded = true)
    (ha : accepts (x.halfOf x.active).wfmt ty ires = true) : s.startTile x ty ires m p dp =
    (lowest (baseFree x m) (65 - m)).elim .wait fun b => .tile (withTile s x m p dp b) (tileAt s x p dp b) := by
  refine (if_neg (mayStart_bool h)).trans ((if_neg (by rw [hl]; decide)).trans ((if_neg (by rw [ha]; decide)).trans ?_))
  split
  · next hlow =>
    rw [show lowest (baseFree x m) (65 - m) = _ from hlow]
    rfl
  · next b hlow =>
    rw [show lowest (baseFree x m) (65 - m) = _ from hlow]
    rfl

end

/-! Integer results. -/

theorem dotInts_eq (q zp x : Nat → Int) (n : Nat) (acc : Int) :
    dotInts q zp x n acc = acc + ((List.range n).map fun k => (q k - zp k) * x k).sum := by
  induction n generalizing acc with
  | zero => simp [dotInts]
  | succ n ih =>
    rw [dotInts, ih, List.range_succ, List.map_append, List.sum_append, List.map_singleton, List.sum_singleton]
    ring

/-! Tokens of a tile. -/

theorem kind_ne_roll {f : Firing} {o : Bool} {x : Slot × Tok} (hx : x ∈ f.toks) (hr : x.2.rol = false) : f.kind o ≠ .roll := by
  have hall : ¬(f.toks.all fun x => x.2.rol) = true := by
    rw [List.all_eq_true]
    intro h
    simp [h x hx] at hr
  unfold Firing.kind
  dsimp only
  rw [if_neg hall]
  split
  · simp
  · split
    · simp
    · split <;> simp

/-- A region that takes the place of another is what its place then holds. -/
theorem region?_putRegion {s : State} {b r : Nat} {x y : Region} (hx : s.region? b r = some x) (hb : y.barn = x.barn) (hr : y.r = x.r) :
    (s.putRegion y).region? b r = some y := by
  have hplace := List.find?_some hx
  simp only [Bool.and_eq_true, decide_eq_true_eq] at hplace
  obtain ⟨rfl, rfl⟩ := hplace
  rw [← hb, ← hr] at hx ⊢
  exact (find?_mapFirst (g := fun _ => y) (fun _ _ => by simp) _).trans (congrArg (Option.map fun _ => y) hx)

/-- A list with an element that meets a condition holds the change of one that meets it. -/
theorem exists_mem_mapFirst {α : Type} {p : α → Bool} (g : α → α) {l : List α} {x : α} (hx : x ∈ l) (hp : p x = true) :
    ∃ y, p y = true ∧ g y ∈ mapFirst p g l := by
  induction l with
  | nil => cases hx
  | cons z r ih =>
    by_cases hz : p z = true
    · exact ⟨z, hz, by simp [mapFirst, hz]⟩
    · obtain ⟨y, hy, hmem⟩ := ih ((List.mem_cons.1 hx).resolve_left fun he => hz (he ▸ hp))
      exact ⟨y, hy, by simp [mapFirst, hz, hmem]⟩

/-- A tile in progress that takes a token at a region row holds it. -/
theorem mem_enter {x : Region} {tl : MTile} (h : tl ∈ x.tiles) (row j : Nat) (k : Tok) (cyc : Nat) :
    ∃ z ∈ (x.enter tl.id row j k cyc).tiles, z.id = tl.id ∧ (j, k) ∈ z.toks := by
  obtain ⟨u, hu, hmem⟩ := exists_mem_mapFirst (p := fun t => decide (t.id = tl.id))
    (fun t => { t with toks := t.toks ++ [(j, k)], lastIn := cyc, next := putAt t.next row (nth t.next row + 1) }) h (decide_eq_true rfl)
  exact ⟨_, hmem, of_decide_eq_true hu, by simp⟩

/-- The region row that token `j` of a tile enters (R177). -/
def entryRow (x : Region) (t : Ty) (tl : MTile) (j : Nat) : Nat :=
  j % rowTokens x (x.halfOf tl.half) t / (weightsPerPe (x.halfOf tl.half).wfmt / t.lanes)

/-- An activation token enters its row, or waits while the table has room (R309). -/
theorem enterOrWait_takes {x : Region} {t : Ty} {tl : MTile} {j : Nat} {k : Tok} {cyc : Nat} (h : tl ∈ x.tiles)
    (hroom : (x.rowTab.filter fun e => e.1 = entryRow x t tl j).length < 16) :
    ∃ y, x.enterOrWait t tl j k cyc = some y ∧ y.barn = x.barn ∧ y.r = x.r ∧
      (y.rowTab = x.rowTab ++ [(entryRow x t tl j, tl.id, j, k)] ∨ ∃ z ∈ y.tiles, z.id = tl.id ∧ (j, k) ∈ z.toks) := by
  unfold entryRow at *
  unfold Region.enterOrWait
  dsimp only
  rw [if_pos hroom]
  split_ifs
  · exact ⟨_, rfl, rfl, rfl, .inr (mem_enter h _ j k cyc)⟩
  · exact ⟨_, rfl, rfl, rfl, .inl rfl⟩

section
variable {s : State} {f : Firing} {x : Region} {t : Ty} {m : Nat} {tl : MTile} {k : Tok} {j : Nat}

/-- The tokens of the activation stream of a tile of `m` rows (R177). -/
def activations (x : Region) (t : Ty) (m : Nat) (tl : MTile) : Nat := m * rowTokens x (x.halfOf tl.half) t

theorem mmacToken_marker (he : k.eos = true) (hj : j = activations x t m tl) :
    mmacToken s f x t m tl .a k j = s.putRegion (x.modTile tl.id fun z => { z with count := some j }) := by
  subst hj
  simp [mmacToken, activations, he]

/-- A marker with another count, and a data token past the last one, raise STREAM_LEN. -/
theorem mmacToken_streamLen (h : k.eos = true ∧ j ≠ activations x t m tl ∨ k.eos = false ∧ activations x t m tl ≤ j) :
    mmacToken s f x t m tl .a k j = s.streamLen f .a j (activations x t m tl) := by
  refine if_pos ?_
  simpa [activations] using h

/-- A new data token is offered to the entry stage of the region. -/
theorem mmacToken_data (he : k.eos = false) (hj : j < activations x t m tl) (ht : ∀ p ∈ tl.toks, p.1 ≠ j)
    (hw : ∀ e ∈ x.rowTab, ¬(e.2.1 = tl.id ∧ e.2.2.1 = j)) {y : Region} (hy : x.enterOrWait t tl j k s.cyc = some y) :
    mmacToken s f x t m tl .a k j = s.putRegion y := by
  have hlen : ¬ activations x t m tl ≤ j := by omega
  have hdup : ((tl.toks.any fun p => decide (p.1 = j)) || (x.rowTab.any fun e => decide (e.2.1 = tl.id) && decide (e.2.2.1 = j))) = false := by
    simpa using ⟨fun a b h => ht (a, b) h, fun a b c d h he hc => hw (a, b, c, d) h ⟨he, hc⟩⟩
  unfold activations at hlen
  simp only [mmacToken, he, hdup, hy]
  simp [hlen]

theorem popField_eq (f : Firing) (w : Nat) : popField f.tag f.dep w = (parentOf f w, f.dep - w, indexOf f w) := by
  rw [popField, Nat.shiftRight_eq_div_pow, parentOf, indexOf]

/-- A token in slot a of MMAC, whose tile is in progress, goes to that tile. -/
theorem mmac_runs {h : Hdr} {iext ires : Bool} {sw : BitVec 5} {mr : BitVec 6} {b r : Nat} (hcur : s.cur = some f)
    (hsite : f.site.holder = .region b r) (hx : s.region? b r = some x) (hdep : sw.toNat + 1 ≤ f.dep) (ha : f.a = some k)
    (hrol : k.rol = false) (htl : x.tiles.find? (fun t => decide (t.tag = parentOf f (sw.toNat + 1)) &&
      decide (t.dep = f.dep - (sw.toNat + 1))) = some tl) :
    exec (.mmac h iext sw mr ires) s =
      .next (mmacToken s f x h.ty (mr.toNat + 1) tl .a k (indexOf f (sw.toNat + 1))) := by
  have hk : f.kind false ≠ .roll := kind_ne_roll (mem_toks.2 (show f.tok? .a = some k from ha)) hrol
  have hdep' : ¬ f.dep < sw.toNat + 1 := Nat.not_lt.2 hdep
  show execMmac h iext sw mr ires s = _
  simp only [execMmac, onFiring, hcur, hsite, hx, ha, reduceCtorEq, decide_false, Bool.false_and, Bool.false_eq_true, if_false,
    if_neg hdep', popField_eq, htl]

end

end Sys2Proof.Laws

namespace Sys2Proof.Proofs

open Sys2Proof Sys2Proof.Machine Sys2Proof.Claims Sys2Proof.Laws

/-- R177, R309: the token goes to its tile, where its count and its mark decide which rule it meets. -/
theorem tileTokens : Claims.TileTokens := by
  intro s f h iext ires sw mr b r x tl k w j n row hcur hsite hx hdep ha _ _ _ hrol htl
  rw [mmac_runs hcur hsite hx hdep ha hrol htl]
  refine ⟨fun he hj ht hw hroom => ?_, fun he hj => ?_, fun he hj => ?_, fun he hj => ?_⟩
  · obtain ⟨y, hy, hyb, hyr, htaken⟩ := enterOrWait_takes (k := k) (cyc := s.cyc) (List.mem_of_find?_eq_some htl) hroom
    exact ⟨_, y, congrArg Host.Outcome.next (mmacToken_data he hj ht hw hy), region?_putRegion hx hyb hyr, rfl, sameMemory_fab s _, htaken⟩
  · exact congrArg Host.Outcome.next (mmacToken_marker he hj)
  · exact congrArg Host.Outcome.next (mmacToken_streamLen (.inl ⟨he, hj⟩))
  · exact congrArg Host.Outcome.next (mmacToken_streamLen (.inr ⟨he, hj⟩))

/-- R177, R308: a base is free where none of its entries is used, and the lowest free one is taken. -/
theorem tilesTakeLowestBase : Claims.TilesTakeLowestBase := by
  intro s x ty ires m p dp used go
  refine ⟨fun b hgo hl ha hbm hfree hlow => ?_, startTile_waits, startTile_unloaded,
    fun hgo hl ha => ⟨_, rfl, startTile_refused hgo hl ha⟩, fun hgo hl ha hm hused => ?_⟩
  · have hb : lowest (baseFree x m) (65 - m) = some b :=
      lowest_eq_some (by omega) (baseFree_iff.2 hfree) fun c hc => baseFree_false.2 (hlow c hc)
    refine ⟨_, _, by rw [startTile_accepted hgo hl ha, hb]; rfl, rfl, rfl, rfl, rfl, rfl, ?_⟩
    simp [withTile, upFrom_eq]
  · rw [startTile_accepted hgo hl ha, lowest_eq_none fun c hc => baseFree_false.2 (hused c (by omega))]
    rfl

/-- R58, R177: the sum adds the term of every index once. -/
theorem integerTileResult : Claims.IntegerTileResult := by
  intro x hf ty xs init m n kk
  exact dotInts_eq ..

/-- Settles O19: tokens of a tile, the start of a tile, and the exact sum of its integer results. -/
theorem matrixTiles : Obligations.MatrixTiles := ⟨tileTokens, tilesTakeLowestBase, integerTileResult⟩

end Sys2Proof.Proofs
end

section
/-! PROOF. Encodings: a well-formed instruction is read back from its word, and a word that decodes is written back bit by bit
(R69 to R77, R216, R224). -/

namespace Sys2Proof.Laws

open Sys2Proof

/-! Bits of a concatenation. -/

section
variable {m n lo len i : Nat} {a : BitVec m} {b : BitVec n}

/-- Bits within the low part; the premise asks for no sum, so numerals decide it. -/
theorem extractLsb'_append_low (h : len ≤ n - lo) : (a ++ b).extractLsb' lo len = b.extractLsb' lo len := by
  rcases Nat.eq_zero_or_pos len with rfl | hl
  · exact BitVec.eq_of_zero_length rfl
  · exact BitVec.extractLsb'_append_eq_of_add_le (by omega)

theorem getLsbD_append_low (h : i < n) : (a ++ b).getLsbD i = b.getLsbD i := by rw [BitVec.getLsbD_append, if_pos h]

theorem getLsbD_append_high (h : n ≤ i) : (a ++ b).getLsbD i = a.getLsbD (i - n) := by
  rw [BitVec.getLsbD_append, if_neg (Nat.not_lt.2 h)]

/-- Parts that are the fields of `x` side by side are the field of both. -/
theorem append_eq_extractLsb' {w : Nat} {x : BitVec w} (ha : a = x.extractLsb' (lo + n) m) (hb : b = x.extractLsb' lo n) :
    a ++ b = x.extractLsb' lo (m + n) := by
  subst ha hb
  rw [← BitVec.extractLsb'_append_extractLsb'_eq_extractLsb' rfl]

end

theorem getLsbD_ofBool_zero (b : Bool) : (BitVec.ofBool b).getLsbD 0 = b := by cases b <;> rfl

theorem ofBool_getLsbD {n : Nat} (x : BitVec n) (i : Nat) : BitVec.ofBool (x.getLsbD i) = x.extractLsb' i 1 := by
  ext j hj
  obtain rfl : j = 0 := by omega
  simp

/-! Codes of the operand vocabulary (R44, R69 to R73). -/

theorem rnd_ofBits_toBits (r : Rnd) : Rnd.ofBits r.toBits = some r := by cases r <;> rfl

theorem rnd_ofBits_eq_some {b : BitVec 3} {r : Rnd} : Rnd.ofBits b = some r ↔ r.toBits = b := by
  refine ⟨?_, fun h => h ▸ rnd_ofBits_toBits r⟩
  revert b
  cases r <;> decide

theorem scope_ofBits_toBits (c : Scope) : Scope.ofBits c.toBits = some c := by cases c <;> rfl

theorem scope_ofBits_eq_some {b : BitVec 3} {c : Scope} : Scope.ofBits b = some c ↔ c.toBits = b := by
  refine ⟨?_, fun h => h ▸ scope_ofBits_toBits c⟩
  revert b
  cases c <;> decide

theorem ty_ofBits_toBits (t : Ty) : Ty.ofBits t.toBits = some t := by cases t <;> rfl

theorem ty_toBits_of_ofBits {t : Ty} : ∀ b : BitVec 4, Ty.ofBits b = some t → t.toBits = b := by cases t <;> decide

theorem predMatch_ofBits_toBits (p : PredMatch) : PredMatch.ofBits p.toBits = p := by cases p <;> rfl

theorem predMatch_toBits_ofBits : ∀ b : BitVec 2, (PredMatch.ofBits b).toBits = b := by decide

theorem slot_ofBits_toBits (s : Slot) : Slot.ofBits s.toBits = s := by cases s <;> rfl

theorem slot_toBits_ofBits : ∀ b : BitVec 2, (Slot.ofBits b).toBits = b := by decide

theorem target_encode_decode (b : BitVec 9) : Target.encode (Target.decode b) = b := by
  unfold Target.decode
  split
  · next h => exact h.symm
  · exact (append_eq_extractLsb' rfl (slot_toBits_ofBits _)).trans BitVec.extractLsb'_eq_self

/-- The one target whose field names no target is slot p of index 127 (R70). -/
theorem target_encode_eq_none_iff {t : Target} : Target.encode (some t) = 0x1FF ↔ t = ⟨127, .p⟩ := by
  refine ⟨fun h => ?_, fun h => h ▸ rfl⟩
  obtain ⟨idx, slot⟩ := t
  have hi : idx = (0x1FF : BitVec 9).extractLsb' 2 7 := BitVec.extractLsb'_append_eq_left.symm.trans (congrArg (BitVec.extractLsb' 2 7) h)
  have hs : slot.toBits = (0x1FF : BitVec 9).extractLsb' 0 2 :=
    BitVec.extractLsb'_append_eq_right.symm.trans (congrArg (BitVec.extractLsb' 0 2) h)
  subst hi
  cases slot with
  | a | b | c => exact absurd hs (by decide)
  | p => rfl

theorem target_decode_encode {t : Option Target} (h : t ≠ some ⟨127, .p⟩) : Target.decode (Target.encode t) = t := by
  cases t with
  | none => rfl
  | some t =>
    have hi : (Target.encode (some t)).extractLsb' 2 7 = t.idx := BitVec.extractLsb'_append_eq_left
    have hs : (Target.encode (some t)).extractLsb' 0 2 = t.slot.toBits := BitVec.extractLsb'_append_eq_right
    rw [Target.decode, if_neg fun he => h (congrArg some (target_encode_eq_none_iff.1 he)), hi, hs, slot_ofBits_toBits]

/-! Headers and words (R69). -/

theorem fields_ofWord_toWord (f : Fields) : Fields.ofWord f.toWord = f := by
  simp only [Fields.ofWord, Fields.toWord, extractLsb'_append_low, BitVec.extractLsb'_append_eq_of_le, Nat.reduceLeDiff,
    Nat.reduceSub, BitVec.extractLsb'_eq_self]

theorem fields_toWord_ofWord (w : DWord) : (Fields.ofWord w).toWord = w := by
  refine Eq.trans ?_ BitVec.extractLsb'_eq_self
  repeat' refine append_eq_extractLsb' ?_ ?_
  all_goals rfl

theorem hdr?_fields {h : Hdr} (h0 : h.t0 ≠ some ⟨127, .p⟩) (h1 : h.t1 ≠ some ⟨127, .p⟩) (g : BitVec 4) (n : BitVec 6)
    (q : BitVec 8) (x : BitVec 22) : (h.fields g n q x).hdr? = some h := by
  simp only [Fields.hdr?, Hdr.fields, ty_ofBits_toBits, Option.map_some, predMatch_ofBits_toBits, target_decode_encode h0,
    target_decode_encode h1]

theorem fields_of_hdr? {f : Fields} {h : Hdr} (hh : f.hdr? = some h) : h.fields f.grp f.fn f.q f.x = f := by
  obtain ⟨ty, hty, rfl⟩ := Option.map_eq_some_iff.1 hh
  simp only [Hdr.fields, predMatch_toBits_ofBits, ty_toBits_of_ofBits _ hty, target_encode_decode]

/-- Fields that a decoder has read, with the header, are those of the word. -/
theorem fields_congr {f : Fields} {h : Hdr} {g : BitVec 4} {n : BitVec 6} {q : BitVec 8} {x : BitVec 22} (hh : f.hdr? = some h)
    (hg : f.grp.toNat = g.toNat) (hn : f.fn.toNat = n.toNat) (hq : q = f.q) (hx : x = f.x) :
    some (h.fields g n q x) = some f := by
  rw [hq, hx, ← BitVec.eq_of_toNat_eq hn, ← BitVec.eq_of_toNat_eq hg, fields_of_hdr? hh]

/-! Block instructions. -/

/-- The fields of an encoding are its header with a group, a function code, qualifiers and a payload. -/
theorem encodeFields_hdr {i : Instr} {f : Fields} (he : encodeFields i = some f) :
    ∃ h g n q x, i.hdr? = some h ∧ f = Hdr.fields h g n q x := by
  cases i <;> cases he <;> exact ⟨_, _, _, _, _, rfl, rfl⟩

/-- An encoding decodes, instruction by instruction: each reserved bit reads zero, and each operand reads back from its place. -/
theorem decodeFields_of_encodeFields {i : Instr} {f : Fields} {h : Hdr} (hi : i.hdr? = some h) (hh : f.hdr? = some h)
    (ht : Target.decode (Target.encode i.t2?) = i.t2?) (he : encodeFields i = some f) : decodeFields f = some i := by
  cases i
  -- an event or a core instruction has no fields; a block instruction has those of its header
  all_goals cases he
  all_goals cases hi
  all_goals dsimp only [Instr.t2?] at ht
  all_goals rw [decodeFields, hh]
  -- the group and the function code are numerals, and every field is a part of a concatenation
  all_goals simp only [↓Option.bind_some, ↓Hdr.fields, ↓BitVec.reduceToNat,
    decodeGroup0, decodeGroup1, decodeGroup2, decodeGroup3, decodeGroup4, decodeGroup5, decodeGroup6, decodeGroup7, decodeGroup8,
    decodeGroup9, decodeGroupA, decodeGroupB, decodeGroupC, decodeGroupD, decodeGroupE,
    extractLsb'_append_low, BitVec.extractLsb'_append_eq_of_le, BitVec.extractLsb'_eq_self, BitVec.extractLsb'_zero,
    getLsbD_append_low, getLsbD_append_high, getLsbD_ofBool_zero, Nat.reduceLeDiff, Nat.reduceLT, Nat.reduceSub,
    BitVec.ofNat_eq_ofNat, BitVec.reduceEq, and_self, and_false, false_and, if_true, if_false,
    ht, rnd_ofBits_toBits, scope_ofBits_toBits, Option.bind_some]

/-- Fields that decode are the encoding of the instruction, function code by function code: what the decoder has read, put side
by side, is the whole word. -/
theorem encodeFields_of_decodeFields {i : Instr} {f : Fields} (hd : decodeFields f = some i) : encodeFields i = some f := by
  obtain ⟨h, hh, hd⟩ := Option.bind_eq_some_iff.1 hd
  -- the groups, of which 0xF decodes nothing, and in each the function codes
  split at hd
  case h_16 => cases hd
  all_goals simp only [decodeGroup0, decodeGroup1, decodeGroup2, decodeGroup3, decodeGroup4, decodeGroup5, decodeGroup6,
    decodeGroup7, decodeGroup8, decodeGroup9, decodeGroupA, decodeGroupB, decodeGroupC, decodeGroupD, decodeGroupE] at hd
  all_goals split at hd
  -- what the decoder has checked and read
  all_goals simp only [ite_eq_iff, and_false, or_false, Option.bind_eq_some_iff, Option.some.injEq, reduceCtorEq,
    rnd_ofBits_eq_some, scope_ofBits_eq_some] at hd
  all_goals casesm* _ ∧ _, ∃ _, _, _ ∨ _
  all_goals
    subst i
    refine fields_congr hh ‹_› ‹_› ?_ ?_
  -- the parts of the qualifiers and of the payload, each the field in its place
  all_goals refine Eq.trans ?_ BitVec.extractLsb'_eq_self
  all_goals repeat' refine append_eq_extractLsb' ?_ ?_
  all_goals simp only [Nat.reduceAdd, BitVec.ofNat_eq_ofNat, ofBool_getLsbD, target_encode_decode, *]

theorem wellFormed_parts {i : Instr} (h : i.wellFormed = true) : i.targetsOk = true ∧ i.limitsOk = true := by
  simp only [Instr.wellFormed, Bool.and_eq_true] at h
  obtain ⟨⟨⟨-, ht⟩, -⟩, hl⟩ := h
  exact ⟨ht, hl⟩

/-- Every word of a well-formed block instruction decodes to it. -/
theorem decodeWord_of_encodeWord {i : Instr} {w : DWord} (hw : i.wellFormed = true) (he : encodeWord i = some w) :
    decodeWord w = some i := by
  obtain ⟨f, hf, rfl⟩ := Option.map_eq_some_iff.1 he
  obtain ⟨h, g, n, q, x, hi, hx⟩ := encodeFields_hdr hf
  have htg := (wellFormed_parts hw).1
  obtain ⟨h0, h1, h2⟩ : h.t0 ≠ some ⟨127, .p⟩ ∧ h.t1 ≠ some ⟨127, .p⟩ ∧ i.t2? ≠ some ⟨127, .p⟩ := by
    simp only [Instr.targetsOk, hi, Bool.and_eq_true, bne_iff_ne] at htg
    obtain ⟨⟨⟨h0, h1⟩, h2⟩, -⟩ := htg
    exact ⟨h0, h1, h2⟩
  have hh : f.hdr? = some h := hx ▸ hdr?_fields h0 h1 g n q x
  rw [decodeWord, fields_ofWord_toWord, decodeFields_of_encodeFields hi hh (target_decode_encode h2) hf]
  exact if_pos hw

/-- A word that decodes is the encoding of what it decodes to, which is well formed. -/
theorem encodeWord_of_decodeWord {w : DWord} {i : Instr} (hd : decodeWord w = some i) :
    i.wellFormed = true ∧ encodeWord i = some w := by
  obtain ⟨j, hj, hi⟩ := Option.bind_eq_some_iff.1 hd
  obtain ⟨hw, rfl⟩ : j.wellFormed = true ∧ j = i := by simpa using hi
  exact ⟨hw, by rw [encodeWord, encodeFields_of_decodeFields hj, Option.map_some, fields_toWord_ofWord]⟩

/-! Core instructions (R224). -/

theorem encodeCore_ite {c : Prop} [Decidable c] {i j : Instr} {w : Word} (hi : c → encodeCore i = some w)
    (hj : encodeCore j = some w) : encodeCore (if c then i else j) = some w := by
  split
  · next h => exact hi h
  · exact hj

/-- Every 32-bit parcel is the encoding of what it decodes to, row by row of R224. -/
theorem encodeCore_decodeCore32 (w : Word) : encodeCore (decodeCore32 w) = some w := by
  unfold decodeCore32
  repeat' refine encodeCore_ite (fun hw => congrArg some ?_) ?_
  case refine_2 => rfl
  all_goals
    casesm* _ ∧ _
    refine Eq.trans ?_ BitVec.extractLsb'_eq_self
    repeat' refine append_eq_extractLsb' ?_ ?_
  all_goals simp only [↓BitVec.extractLsb'_append_eq_left, ↓BitVec.extractLsb'_append_eq_right, Nat.reduceAdd,
    BitVec.ofNat_eq_ofNat, ofBool_getLsbD, *]

/-- A displacement cut in two, as XSW holds it. -/
theorem disp_split (d : BitVec 8) : d.extractLsb' 5 3 ++ d.extractLsb' 0 5 = d :=
  (append_eq_extractLsb' rfl rfl).trans BitVec.extractLsb'_eq_self

/-- The parcel of a row of R224 decodes to it: the major opcode, funct3 and the row's own code tell the rows apart. -/
theorem decodeCore32_of_encodeCore {i : Instr} {w : Word} (he : encodeCore i = some w)
    (hb : ∀ x c, i = .baseInstruction x c → decodeCore32 w = i) : decodeCore32 w = i := by
  cases i
  case baseInstruction x c => exact hb x c rfl
  all_goals cases he
  all_goals simp only [decodeCore32, disp_split,
    extractLsb'_append_low, BitVec.extractLsb'_append_eq_of_le, BitVec.extractLsb'_eq_self, BitVec.extractLsb'_zero,
    getLsbD_append_low, getLsbD_append_high, getLsbD_ofBool_zero, Nat.reduceLeDiff, Nat.reduceLT, Nat.reduceSub,
    BitVec.ofNat_eq_ofNat, BitVec.reduceEq, and_self, and_false, false_and, if_true, if_false]

/-! Bytes (R3, R61, R216). -/

@[simp] theorem length_leBytes (n v : Nat) : (leBytes n v).length = n := by
  induction n generalizing v with
  | zero => rfl
  | succ n ih => rw [leBytes, List.length_cons, ih]

theorem leNat_leBytes (n v : Nat) : leNat (leBytes n v) = v % 256 ^ n := by
  induction n generalizing v with
  | zero => simp [leBytes, leNat, Nat.mod_one]
  | succ n ih =>
    calc leNat (leBytes (n + 1) v) = v % 256 + 256 * (v / 256 % 256 ^ n) := by rw [leBytes, leNat, ih, BitVec.toNat_ofNat]
      _ = v % 256 ^ (n + 1) := by rw [Nat.pow_succ', ← Nat.mod_mul]

theorem take_leBytes {m n : Nat} (h : m ≤ n) (v : Nat) : (leBytes n v).take m = leBytes m v := by
  induction m generalizing n v with
  | zero => rfl
  | succ m ih =>
    cases n with
    | zero => exact absurd h (Nat.not_succ_le_zero m)
    | succ n => rw [leBytes, leBytes, List.take_succ_cons, ih (Nat.le_of_succ_le_succ h)]

/-- The first bytes of a parcel read as its value, reduced to their number. -/
theorem leNat_take_leBytes_append {m n : Nat} (h : m ≤ n) (v : Nat) (rest : List Byte) :
    leNat ((leBytes n v ++ rest).take m) = v % 256 ^ m := by
  rw [List.take_append_of_le_length (by rwa [length_leBytes]), take_leBytes h, leNat_leBytes]

theorem drop_leBytes_append (n v : Nat) (rest : List Byte) : (leBytes n v ++ rest).drop n = rest :=
  List.drop_left' (length_leBytes n v)

/-- A word that fits a number of bytes is what they hold. -/
theorem ofNat_toNat_mod {n k : Nat} {w : BitVec n} (h : w.toNat < 256 ^ k) : BitVec.ofNat n (w.toNat % 256 ^ k) = w := by
  rw [Nat.mod_eq_of_lt h, BitVec.ofNat_toNat, BitVec.setWidth_eq]

theorem decodeBlockBytes_leBytes {w : DWord} {i : Instr} (h : decodeWord w = some i) (rest : List Byte) :
    decodeBlockBytes (leBytes 8 w.toNat ++ rest) = some (i, rest) := by
  rw [decodeBlockBytes, leNat_take_leBytes_append (Nat.le_refl 8), drop_leBytes_append, ofNat_toNat_mod (k := 8) w.isLt, h, Option.map_some]

/-- A parcel whose two low bits are 11 has 32 bits. -/
theorem decodeCoreBytes_wide {w : Word} (h : w.toNat % 4 = 3) (rest : List Byte) :
    decodeCoreBytes (leBytes 4 w.toNat ++ rest) = (decodeCore32 w, rest) := by
  rw [decodeCoreBytes, leNat_take_leBytes_append (by decide), if_pos (by omega), leNat_take_leBytes_append (Nat.le_refl 4),
    drop_leBytes_append, ofNat_toNat_mod (k := 4) w.isLt]

/-- Any other parcel has 16 bits. -/
theorem decodeCoreBytes_narrow {w : Word} (hlt : w.toNat < 2 ^ 16) (h : w.toNat % 4 ≠ 3) (rest : List Byte) :
    decodeCoreBytes (leBytes 2 w.toNat ++ rest) = (.baseInstruction w true, rest) := by
  rw [decodeCoreBytes, leNat_take_leBytes_append (by decide), if_neg (by omega), leNat_take_leBytes_append (Nat.le_refl 2),
    drop_leBytes_append, ofNat_toNat_mod (k := 2) hlt]

/-- The bytes of an instruction that is no block instruction: a compressed parcel, or a parcel of 32 bits. -/
theorem encode_core {i : Instr} {bs : List Byte} (hn : encodeWord i = none) (he : encode i = some bs) :
    (∃ w, i = .baseInstruction w true ∧ bs = leBytes 2 w.toNat) ∨
      ∃ w, encodeCore i = some w ∧ (∀ x, i ≠ .baseInstruction x true) ∧ bs = leBytes 4 w.toNat := by
  unfold encode at he
  rw [hn] at he
  dsimp only at he
  split at he
  · next w => exact .inl ⟨w, rfl, (Option.some.inj he).symm⟩
  · next hne =>
    obtain ⟨w, hw, rfl⟩ := Option.map_eq_some_iff.1 he
    exact .inr ⟨w, hw, hne, rfl⟩

/-- Every 32-bit parcel ends in 11 (R216). -/
theorem encodeCore_low_bits {i : Instr} {w : Word} (hw : i.wellFormed = true) (hc : ∀ x, i ≠ .baseInstruction x true)
    (he : encodeCore i = some w) : w.toNat % 4 = 3 := by
  have hlow : w.toNat % 4 = (w.extractLsb' 0 2).toNat := by rw [BitVec.extractLsb'_toNat, Nat.shiftRight_zero]
  cases i
  case baseInstruction x c =>
    cases he
    cases c with
    | true => exact absurd rfl (hc w)
    | false => simpa [Instr.limitsOk] using (wellFormed_parts hw).2
  all_goals cases he
  all_goals
    rw [hlow]
    simp only [extractLsb'_append_low, Nat.reduceLeDiff, Nat.reduceSub]
    rfl

end Sys2Proof.Laws

namespace Sys2Proof.Proofs

open Sys2Proof Sys2Proof.Laws

/-- R69 to R77, R216, R224: by the kind of the encoding, a word of a block, or a parcel of 16 or of 32 bits. -/
theorem everyEncodingDecodes : Claims.EveryEncodingDecodes := by
  intro i bs rest hwf he
  refine ⟨fun hs => ?_, fun hs hb => ?_⟩
  · obtain ⟨w, hw⟩ := Option.isSome_iff_exists.1 hs
    obtain rfl : leBytes 8 w.toNat = bs := by simpa [encode, hw] using he
    exact decodeBlockBytes_leBytes (decodeWord_of_encodeWord hwf hw) rest
  · rcases encode_core (Option.not_isSome_iff_eq_none.1 (by simp [hs])) he with ⟨w, rfl, rfl⟩ | ⟨w, hw, hc, rfl⟩
    · obtain ⟨hlt, hlow⟩ : w.toNat < 2 ^ 16 ∧ w.toNat % 4 ≠ 3 := by
        simpa [Instr.limitsOk] using (wellFormed_parts hwf).2
      exact decodeCoreBytes_narrow hlt hlow rest
    · rw [decodeCoreBytes_wide (encodeCore_low_bits hwf hc hw)]
      refine congrArg (·, rest) (decodeCore32_of_encodeCore hw fun x c hi => ?_)
      subst hi
      cases hw
      cases c with
      | true => exact absurd rfl (hc w)
      | false => exact hb w rfl

/-- R69 to R72, R224: decoding drops no bit. -/
theorem decodedWordsEncode : Claims.DecodedWordsEncode := ⟨fun _ _ => encodeWord_of_decodeWord, encodeCore_decodeCore32⟩

/-- Settles O53: every encoding decodes to its instruction, and every word that decodes is an encoding. -/
theorem encodingsRoundTrip : Obligations.EncodingsRoundTrip := ⟨everyEncodingDecodes, decodedWordsEncode⟩

/-- Settles O54, by running the decoder on each printed word. -/
theorem printedWordsDecode : Obligations.PrintedWordsDecode := by
  unfold Obligations.PrintedWordsDecode
  decide

end Sys2Proof.Proofs
end

section
/-! PROOF. The fetch of a block (R67, R68), and how bays and tiles are selected, configured, closed and freed (R243 to R246). -/

namespace Sys2Proof.Laws

open Sys2Proof Sys2Proof.Machine

/-! The least of a list by rank. -/

/-- Ranks are compared as lists of numbers are. -/
theorem lexLess_iff {a b : List Nat} : lexLess a b = true ↔ a < b := by
  induction a generalizing b with
  | nil => cases b <;> simp [lexLess]
  | cons x r ih =>
    cases b with
    | nil => simp [lexLess]
    | cons y t => simp [lexLess, ih, List.cons_lt_cons_iff]

theorem lexLess_eq_false_iff {a b : List Nat} : lexLess a b = false ↔ b ≤ a := by
  rw [← not_lt, ← lexLess_iff, Bool.not_eq_true]

theorem bestOf_eq_none {α : Type} {key : α → List Nat} {l : List α} (h : bestOf key l = none) : l = [] := by
  cases l with
  | nil => rfl
  | cons x r =>
    rw [bestOf] at h
    split at h
    · cases h
    · split at h <;> cases h

/-- The best of a list is one of its least. -/
theorem bestOf_mem_le {α : Type} {key : α → List Nat} {l : List α} {c : α} (h : bestOf key l = some c) :
    c ∈ l ∧ ∀ d ∈ l, key c ≤ key d := by
  induction l generalizing c with
  | nil => cases h
  | cons x r ih =>
    rw [bestOf] at h
    cases hb : bestOf key r with
    | none =>
      obtain rfl := bestOf_eq_none hb
      simp only [hb, Option.some.injEq] at h
      subst h
      simp
    | some y =>
      obtain ⟨hy, hle⟩ := ih hb
      simp only [hb] at h
      split at h
      · next hlt =>
        cases h
        exact ⟨.tail x hy, List.forall_mem_cons.2 ⟨(lexLess_iff.1 hlt).le, hle⟩⟩
      · next hlt =>
        cases h
        have hx : key x ≤ key y := lexLess_eq_false_iff.1 (Bool.eq_false_iff.2 hlt)
        exact ⟨.head r, List.forall_mem_cons.2 ⟨le_rfl, fun d hd => hx.trans (hle d hd)⟩⟩

/-! A fetch. -/

section
variable {s v : State} {f : Fetch} {b : List Byte} {p : Bool}

/-- The events of a fetch read its block while it runs, the first time or when its delay is over. -/
theorem fetch_runs {ev : Instr} (hf : (s.fetches.drop s.arg.n).head? = some f)
    (hev : (ev = .blockFetch ∧ f.again = 0) ∨ (ev = .fetchRetry ∧ f.again ≠ 0 ∧ f.again ≤ s.cyc)) (hr : s.fetchRuns f = true) :
    exec ev s = .next (s.fetchOnce f) := by
  rcases hev with ⟨rfl, h0⟩ | ⟨rfl, h0, hc⟩
  · show execBlockFetch s = _
    simp [execBlockFetch, hf, h0, hr]
  · show execFetchRetry s = _
    simp [execFetchRetry, hf, h0, hc, hr]

theorem fallbacks_cases (s : State) (n : Nat) : ∃ rs, s.fallbacks n = { s with regs := rs } := by
  unfold State.fallbacks
  split
  · exact ⟨s.regs, rfl⟩
  · exact ⟨_, rfl⟩

/-- The block that a configuration adds is the one given, under the slots in force; beside it only a count of fallbacks changes. -/
theorem configure_adds (s : State) (l : Loaded) (st : BayState) : ∃ y rs,
    s.configure l st = { s with regs := rs, fab := { s.fab with blocks := s.fab.blocks ++ [y] } } ∧ y.holder = l.holder ∧ y.k = l.k ∧
      y.v = l.v ∧ y.blk = l.blk ∧ y.hdr = l.hdr ∧ y.words = l.words ∧ y.exits = l.exits ∧ y.st = st ∧ y.since = s.cyc := by
  unfold State.configure
  dsimp only
  generalize Prod.snd _ = n
  obtain ⟨rs, e⟩ := fallbacks_cases _ n
  exact ⟨_, rs, e, rfl, rfl, rfl, rfl, rfl, rfl, rfl, rfl, rfl⟩

/-- A fetched block that fits its holder is configured there, and its fetch is over. -/
theorem loaded_fits {l : Loaded} (hl : l.fits = true) : ∃ y, y ∈ (v.loaded f l).fab.blocks ∧ y.holder = l.holder ∧ y.k = l.k ∧ y.v = l.v ∧
    y.blk = l.blk ∧ y.hdr = l.hdr ∧ y.words = l.words ∧ y.exits = l.exits ∧ y.st = .configuring ∧ y.since = v.cyc ∧
    (v.loaded f l).fetches = dropFirst (fun x => x = f) v.fetches := by
  obtain ⟨y, rs, e, hh, hk, hv, hb, hhdr, hw, hx, hst, hs⟩ :=
    configure_adds { v.cacheBlock l with fetches := dropFirst (fun x => x = f) v.fetches } l .configuring
  have ht : v.loaded f l = _ := (if_pos hl).trans e
  rw [ht]
  exact ⟨y, List.mem_append_right _ (List.mem_singleton_self y), hh, hk, hv, hb, hhdr, hw, hx, hst, hs, rfl⟩

section
variable (hc : s.cached f.holder f.k f.blk = none)
  (hr : s.wholeBlock (dieNo f.holder.barnNo) f.k f.v f.blk (srcBarn f.holder.barnNo) = (v, .ok b p))
include hc hr

theorem fetchOnce_ok (hk : blockCheck (v.regField .belId 40 8) (parseBlock f.holder f.k f.v f.blk b) = .ok) :
    s.fetchOnce f = v.loaded f (parseBlock f.holder f.k f.v f.blk b) := by
  simp only [State.fetchOnce, hc, hr, hk]

theorem fetchOnce_mark (hk : blockCheck (v.regField .belId 40 8) (parseBlock f.holder f.k f.v f.blk b) = .mark) :
    s.fetchOnce f = v.putFetch f { f with again := v.cyc + 64 } := by
  simp only [State.fetchOnce, hc, hr, hk]

theorem fetchOnce_sum (hk : blockCheck (v.regField .belId 40 8) (parseBlock f.holder f.k f.v f.blk b) = .sum) :
    s.fetchOnce f = if 3 ≤ f.fails then v.fetchTrap f { code := tcBlockFormat }
      else v.putFetch f { f with fails := f.fails + 1, again := v.cyc + 64 } := by
  simp only [State.fetchOnce, hc, hr, hk]

theorem fetchOnce_bad (hk : blockCheck (v.regField .belId 40 8) (parseBlock f.holder f.k f.v f.blk b) = .bad) :
    s.fetchOnce f = v.fetchTrap f { code := tcBlockFormat } := by
  simp only [State.fetchOnce, hc, hr, hk]

end
end

/-! Bays and tiles. -/

section
variable {s : State} {h : Holder}

/-- A free bay frame fetches its first candidate. -/
theorem baySelect_fetches {b f : Nat} {c : Candidate} (hh : s.arg.holder = .bay b f) (hf : s.fillCands.holderFree s.arg.holder = true)
    (hn : s.fillCands.noConfig s.arg.holder = false)
    (hc : bestOf s.fillCands.rank (s.fillCands.bayCands s.arg.holder fun c =>
      decide (s.fillCands.frameOwner b f = some c.k) && s.fillCands.bayBlock s.arg.holder c.k c.blk) = some c) :
    exec .baySelect s = .next (s.fillCands.startFetch s.arg.holder c.k c.v c.blk) := by
  rw [hh] at hf hn hc
  show execBaySelect s = _
  simp only [execBaySelect, hh, hf, hn, hc, Bool.not_true, Bool.or_self, Bool.false_eq_true, if_false]

/-- A holder serves its block once the cycles of its configuration are over. -/
theorem bayConfigured_serves {l : Loaded} (hl : l ∈ s.fab.blocks) (hh : l.holder = s.arg.holder) (hst : l.st = .configuring)
    (hdue : l.since + configCycles l ≤ s.cyc) : ∃ t : State, exec .bayConfigured s = .next t ∧
      { l with st := .serving, since := s.cyc, lastTake := s.cyc, taken := 0 } ∈ t.fab.blocks ∧
      t.fab.blocks.length = s.fab.blocks.length :=
  ⟨_, rfl, List.mem_map.2 ⟨l, hl, if_pos (by simp [hh, hst, hdue])⟩, List.length_map _⟩

/-- A serving bay that must close, and is not pinned, does. -/
theorem bayIdleTimeout_closes {b f : Nat} {l : Loaded} (hb : s.arg.holder = .bay b f) (hl : l ∈ s.fab.blocks)
    (hh : l.holder = s.arg.holder) (hst : l.st = .serving) (hp : s.pinned s.arg.holder l.blk = false)
    (hlive : s.live l.k (stopUnitOf s.arg.holder) = true)
    (hm : s.mustClose l (s.belLoad.map fun r => imageSlots r.bytes) = true) :
    ∃ t : State, exec .bayIdleTimeout s = .next t ∧ { l with st := .closing, since := s.cyc } ∈ t.fab.blocks := by
  rw [hb] at hp hlive
  refine ⟨_, rfl, List.mem_map.2 ⟨l, hl, if_pos ?_⟩⟩
  simp [hb, hh, hst, hp, hlive, hm]

/-- Without a block to be fetched again nothing is. -/
theorem fetchAgain_none (hr : ∀ y ∈ s.fab.blocks, y.holder = h → y.refetch = false) : s.fetchAgain h = s := by
  unfold State.fetchAgain
  dsimp only
  split
  · next l hl =>
    have hd := List.find?_some hl
    simp only [Bool.and_eq_true, decide_eq_true_eq] at hd
    obtain ⟨⟨⟨⟨hh, hf⟩, -⟩, -⟩, -⟩ := hd
    rw [hr l (List.mem_of_find?_eq_some hl) hh] at hf
    cases hf
  · rfl

/-- A closing bay that is idle loses its block, and every other holder keeps its own. -/
theorem bayFree_frees {b f : Nat} {l : Loaded} (hb : s.arg.holder = .bay b f)
    (hh : l.holder = s.arg.holder) (hst : l.st = .closing) (hlive : s.drain.live l.k (stopUnitOf s.arg.holder) = true)
    (hidle : s.drain.idleBlock s.arg.holder l.blk = true)
    (hr : ∀ y ∈ s.fab.blocks, y.holder = s.arg.holder → y.refetch = false) :
    ∃ t : State, exec .bayFree s = .next t ∧ l ∉ t.fab.blocks ∧ ∀ y ∈ s.fab.blocks, y.holder ≠ s.arg.holder → y ∈ t.fab.blocks := by
  refine ⟨_, congrArg Host.Outcome.next (fetchAgain_none fun y hy => hr y (List.mem_of_mem_filter hy)), fun hm => ?_, fun y hy hn => ?_⟩
  · rw [hb] at hlive hidle
    have hgoes := (List.mem_filter.1 hm).2
    simp [hb, hh, hst, hlive, hidle] at hgoes
  · exact List.mem_filter.2 ⟨hy, by simp [hn]⟩

/-- A tile with no block of another context, nothing to hold it back and a block that it needs fetches it, once it has room. -/
theorem tileLoad_fetches {k v blk : Nat} {w : State} (hk : s.drain.tileContext s.arg.holder = some k)
    (ht : s.arg.holder.temporal = true) (hn : s.drain.noConfig s.arg.holder = false) (hf : ∀ f ∈ s.fetches, f.holder ≠ s.arg.holder)
    (ho : ∀ l ∈ s.drain.fab.blocks, l.holder = s.arg.holder → l.k = k) (hb : s.drain.tileNeed s.arg.holder k = some (v, blk))
    (hw : s.drain.makeRoom s.arg.holder (s.drain.storeWords s.arg.holder k blk) 9 = some w) :
    exec .tileLoad s = .next (w.startFetch s.arg.holder k v blk) := by
  have hother : ∀ l ∈ s.drain.fab.blocks, (decide (l.holder = s.arg.holder) && decide (l.k ≠ k)) = false := fun l hl => by
    by_cases hh : l.holder = s.arg.holder
    · simp [ho l hl hh]
    · simp [hh]
  have hany : (s.drain.fab.blocks.any fun l => decide (l.holder = s.arg.holder) && decide (l.k ≠ k) &&
      !s.drain.idleBlock s.arg.holder l.blk) = false :=
    List.any_eq_false.2 fun l hl => by rw [hother l hl, Bool.false_and]; exact Bool.false_ne_true
  have hkeep : (s.drain.modFab fun g => { g with blocks := g.blocks.filter fun l =>
      !(decide (l.holder = s.arg.holder) && decide (l.k ≠ k) && s.drain.idleBlock s.arg.holder l.blk) }) = s.drain := by
    have hall : (s.drain.fab.blocks.filter fun l => !(decide (l.holder = s.arg.holder) && decide (l.k ≠ k) &&
        s.drain.idleBlock s.arg.holder l.blk)) = s.drain.fab.blocks :=
      List.filter_eq_self.2 fun l hl => by rw [hother l hl, Bool.false_and, Bool.not_false]
    simp only [State.modFab, hall]
  have hnone : (s.drain.fetches.any fun f => decide (f.holder = s.arg.holder)) = false :=
    List.any_eq_false.2 fun f hm => by simpa using hf f hm
  show execTileLoad s = _
  simp only [execTileLoad, hk, ht, hn, hany, hnone, hkeep, hb, hw, Bool.not_true, Bool.or_self, Bool.and_false, Bool.false_eq_true,
    if_false]

end

end Sys2Proof.Laws

namespace Sys2Proof.Proofs

open Sys2Proof Sys2Proof.Machine Sys2Proof.Laws

/-- R67 and R68, by the outcome of the checks. -/
theorem blockFetches : Claims.BlockFetches := by
  intro s v f ev b p hf hev hrun hc hr
  dsimp only
  rw [fetch_runs hf hev hrun]
  refine ⟨fun hk hl => ?_, fun hk => ?_, fun hk hlt => ?_, fun hk hle => ?_, fun hk => ?_⟩
  · rw [fetchOnce_ok hc hr hk]
    obtain ⟨y, hy⟩ := loaded_fits (v := v) (f := f) hl
    exact ⟨_, y, rfl, hy⟩
  · rw [fetchOnce_mark hc hr hk]
    rfl
  · rw [fetchOnce_sum hc hr hk, if_neg (by omega)]
    rfl
  · rw [fetchOnce_sum hc hr hk, if_pos hle]
  · rw [fetchOnce_bad hc hr hk]

/-- R243, R244 and R246, event by event. -/
theorem baysAndTiles : Claims.BaysAndTiles := by
  intro s h
  refine ⟨?_, fun l c hc => ?_, fun _ => bayConfigured_serves, fun _ _ hb _ => bayIdleTimeout_closes hb,
    fun _ _ hb _ _ => bayFree_frees hb, ?_⟩
  · rintro b f c _ hb rfl hfree hn hc
    exact baySelect_fetches hb hfree hn hc
  · obtain ⟨hm, hle⟩ := bestOf_mem_le hc
    exact ⟨hm, fun d hd => lexLess_eq_false_iff.2 (hle d hd)⟩
  · rintro k v blk _ w hk ht hn hf ho rfl hb hw
    exact ⟨_, tileLoad_fetches hk ht hn hf ho hb hw, rfl⟩

/-- Settles O33: by the outcome of a fetch's checks, and by the event of a bay or tile. -/
theorem blocksAndBays : Obligations.BlocksAndBays := ⟨blockFetches, baysAndTiles⟩

end Sys2Proof.Proofs
end

section
/-! PROOF. Integer arithmetic (R86 to R90, R467): the exact result of each lane or of the word, reduced. -/

namespace Sys2Proof.Laws

open Sys2Proof Sys2Proof.Machine Sys2Proof.Claims

/-! Results. -/

section
variable {s : State} {f : Firing} {h : Hdr} {lat : Nat} {ty : Ty} {sat : Bool}

/-- A one-result instruction that executes sends what its function gives of the set. -/
theorem compute_eq {g : Firing → Word × List Nat} {w : Word} {fl : List Nat} (hr : Runs s f h []) (hg : g f = (w, fl)) :
    compute s h lat ty g = .next (computed s f h lat ty w fl) := by rw [compute_runs hr, hg]

/-- Two exact results that agree on every lane ask the same of an outcome. -/
theorem sendsLanes_congr {o : Host.Outcome State Fault Refusal} {r q : Nat → Int} (ho : SendsLanes o s f h lat sat r)
    (hrq : ∀ k, r k = q k) : SendsLanes o s f h lat sat q := funext hrq ▸ ho

/-- One exact integer that is reduced to the word that an instruction sends. -/
theorem sendsInt_reduceInt {o : Host.Outcome State Fault Refusal} {r : Int}
    (ho : o = .next (computed s f h lat ty (BitVec.ofNat 32 (reduceInt r 32 ty.isSigned sat).1)
      [(reduceInt r 32 ty.isSigned sat).2])) :
    SendsInt o s f h lat ty sat r := by
  refine ⟨_, _, ho, ?_⟩
  rw [BitVec.toNat_ofNat, Nat.mod_eq_of_lt (reduced ..).1]
  exact reduced ..

end

/-! Words of one lane. -/

/-- A type with one lane reads the whole word. -/
@[simp] theorem laneBits_word (x : Word) : laneBits x 32 0 = x.toNat := Nat.mod_eq_of_lt x.isLt

/-- The bits of a vector as a two's complement number. -/
theorem signedOf_toNat {n : Nat} (x : BitVec n) : signedOf x.toNat n = x.toInt := by
  rw [signedOf, BitVec.toInt_eq_toNat_cond]
  refine if_congr ?_ rfl rfl
  cases n with
  | zero => simp [BitVec.eq_nil x]
  | succ n => rw [Nat.add_sub_cancel, Nat.pow_succ]; omega

theorem laneInt_i32 (x : Word) : laneInt .i32 x 0 = x.toInt := (congrArg (signedOf · 32) (laneBits_word x)).trans (signedOf_toNat x)

/-- The difference of two i32 values fits n32, so that its reduction is the value itself (R467). -/
theorem reduceInt_absDiff (x y : Word) : reduceInt |x.toInt - y.toInt| 32 Ty.n32.isSigned false = ((x.toInt - y.toInt).natAbs, 0) := by
  have hx := x.toInt_lt
  have hx' := x.le_toInt
  have hy := y.toInt_lt
  have hy' := y.le_toInt
  refine Prod.ext ?_ rfl
  change wrapNat |x.toInt - y.toInt| 32 = _
  rw [Int.abs_eq_natAbs, wrapNat]
  omega

end Sys2Proof.Laws

namespace Sys2Proof.Proofs

open Sys2Proof Sys2Proof.Machine Sys2Proof.Claims Sys2Proof.Laws

/-- R87, instruction by instruction. -/
theorem integerLanes : Claims.IntegerLanes := by
  intro s f h sat imm hr
  refine ⟨sendsLanes hr, sendsLanes hr, sendsLanes hr, sendsLanes hr, sendsLanes_congr (sendsLanes hr) fun k => ?_,
    sendsLanes_congr (sendsLanes hr) fun k => ?_, sendsLanes_congr (sendsLanes hr) fun k => ?_, sendsLanes hr, sendsLanes hr⟩
  · exact (Int.abs_eq_natAbs _).symm
  · exact (min_def _ _).symm
  · exact (max_def _ _).symm

/-- R88 to R90 and R467, instruction by instruction. -/
theorem integerScalars : Claims.IntegerScalars := by
  intro s f h sat disp sh e e1 e0 hr
  refine ⟨sendsInt hr, sendsInt hr, sendsInt hr, sendsInt hr, sendsInt hr, sendsInt hr, fun hb => ?_, fun hb => ?_, fun hb => ?_,
    fun hb => ?_, ?_⟩
  · exact sendsInt_reduceInt (compute_eq hr (if_neg hb))
  · exact compute_eq hr (if_pos hb)
  · exact sendsInt_reduceInt (compute_eq hr (if_neg hb))
  · exact compute_eq hr (if_pos hb)
  · refine sendsInt_reduceInt (compute_eq hr ?_)
    rw [reduceInt_absDiff, ← laneInt_i32, ← laneInt_i32]
    rfl

/-- Settles O1: every result is an exact integer that the instruction reduces. -/
theorem integerResults : Obligations.IntegerResults := ⟨integerLanes, integerScalars⟩

end Sys2Proof.Proofs
end

section
/-! PROOF. Logic, shifts, bit fields, counts and byte selection (R92 to R94), bit by bit. -/

namespace Sys2Proof.Laws

open Sys2Proof Sys2Proof.Machine Sys2Proof.Claims

/-! Results that raise nothing. -/

theorem raiseLanes_zeros (s : State) (k lane : Nat) {fl : List Nat} (hz : ∀ x ∈ fl, x = 0) : s.raiseLanes k lane fl = s := by
  induction fl generalizing lane with
  | nil => rfl
  | cons x r ih =>
    rw [State.raiseLanes, hz x List.mem_cons_self, State.raiseFlags, if_pos rfl]
    exact ih _ fun y hy => hz y (List.mem_cons_of_mem _ hy)

section
variable {s : State} {f : Firing} {h : Hdr} {lat : Nat} {ty : Ty}

/-- Zero flags raise nothing. -/
theorem computed_zeros {w : Word} {fl : List Nat} (hz : ∀ x ∈ fl, x = 0) :
    computed s f h lat ty w fl = computed s f h lat ty w [] := by
  rw [computed, raiseLanes_zeros _ _ _ hz]
  rfl

/-- An instruction whose result raises no flag. -/
theorem compute_quiet {g : Firing → Word × List Nat} {w : Word} (hr : Runs s f h []) (hg : g f = (w, [0])) :
    compute s h lat ty g = .next (computed s f h lat ty w []) :=
  (compute_eq hr hg).trans (congrArg _ (computed_zeros (by simp)))

/-- A lane-wise result of raw bits sends the bits of its lanes. -/
theorem sendsBits {op : Firing → Nat → Nat} {g : Nat → Nat → Bool} (hr : Runs s f h [])
    (hg : ∀ k, ∀ i < h.ty.width, (op f k).testBit i = g k i) :
    SendsBits (compute s h 1 h.ty fun f => bitLanes h.ty (op f)) s f h g := by
  refine ⟨_, (compute_runs hr).trans (congrArg _ (computed_zeros fun x hx => ?_)), fun k hk i hi => ?_⟩
  · obtain ⟨_, rfl⟩ : (∃ k, k ∈ upto h.ty.lanes) ∧ x = 0 := by simpa [bitLanes, lanewise, eq_comm] using hx
    rfl
  · rw [bitLanes, lanewise_lane hk, Nat.testBit_mod_two_pow, hg k i hi, decide_eq_true hi, Bool.true_and]

end

/-! Shifts and rotations of a lane (R92). -/

/-- A field of one bit is that bit. -/
theorem bitsAt_one (x i : Nat) : bitsAt x i 1 = (x.testBit i).toNat := by
  rw [Nat.toNat_testBit, bitsAt, Nat.shiftRight_eq_div_pow, Nat.pow_one]

@[simp] theorem bitsAt_one_eq_one {x i : Nat} : bitsAt x i 1 = 1 ↔ x.testBit i = true := by
  rw [bitsAt_one]
  cases x.testBit i <;> decide

@[simp] theorem bitsAt_one_eq_zero {x i : Nat} : bitsAt x i 1 = 0 ↔ x.testBit i = false := by
  rw [bitsAt_one]
  cases x.testBit i <;> decide

theorem laneBits_lt (x : Word) (w k : Nat) : laneBits x w k < 2 ^ w := Nat.mod_lt _ (Nat.two_pow_pos w)

/-- The copies of a lane's sign that an arithmetic shift brings in. -/
theorem testBit_signs {w u i m : Nat} (hm : m ≤ w) : (bitsAt u (w - 1) 1 * (2 ^ w - 2 ^ (w - m))).testBit i =
    (u.testBit (w - 1) && (decide (w - m ≤ i) && decide (i < w))) := by
  have hones : 2 ^ w - 2 ^ (w - m) = (2 ^ m - 1) <<< (w - m) := by
    rw [Nat.shiftLeft_eq, Nat.sub_mul, ← Nat.pow_add, Nat.add_sub_cancel' hm, Nat.one_mul]
  have hlt : w - m ≤ i → (i - (w - m) < m ↔ i < w) := by omega
  rw [bitsAt_one, hones]
  cases u.testBit (w - 1) with
  | false => simp
  | true =>
    by_cases h : w - m ≤ i
    · simp [Nat.testBit_shiftLeft, h, hlt h]
    · simp [Nat.testBit_shiftLeft, h]

section
variable {w u i : Nat} (n : Nat)

theorem testBit_shlLane (hi : i < w) : (shlLane w u n).testBit i = (decide (n ≤ i) && u.testBit (i - n)) := by
  unfold shlLane
  split
  · simp [hi]
  · simp [show ¬ n ≤ i by omega]

section
variable (hu : u < 2 ^ w)
include hu

/-- A lane has no bit at or above its width. -/
theorem testBit_above (h : w ≤ i) : u.testBit i = false :=
  Nat.testBit_lt_two_pow (lt_of_lt_of_le hu (Nat.pow_le_pow_right (by decide) h))

theorem testBit_shrLane : (shrLane w u n).testBit i = u.testBit (i + n) := by
  unfold shrLane
  split
  · rw [Nat.testBit_shiftRight, Nat.add_comm]
  · rw [Nat.zero_testBit, testBit_above hu (by omega)]

theorem testBit_sraLane (hi : i < w) : (sraLane w u n).testBit i = u.testBit (min (i + n) (w - 1)) := by
  unfold sraLane
  by_cases hn : n < w
  · rw [if_pos hn, Nat.testBit_or, Nat.testBit_shiftRight, testBit_signs hn.le, Nat.add_comm n]
    by_cases hin : w ≤ i + n
    · simp [testBit_above hu hin, hi, show w ≤ i + n from hin, show min (i + n) (w - 1) = w - 1 by omega]
    · have hmin : min (i + n) (w - 1) = i + n := by omega
      simp [hmin, show ¬ w - n ≤ i by omega]
  · have hsg := testBit_signs (u := u) (i := i) (Nat.le_refl w)
    rw [Nat.sub_self, Nat.pow_zero] at hsg
    rw [if_neg hn, hsg, show min (i + n) (w - 1) = w - 1 by omega]
    simp [hi]

/-- The bits of a rotation left by `m`, which is less than the width. -/
theorem testBit_rotated {m : Nat} (hm : m ≤ w) (hi : i < w) :
    (((u <<< m) ||| (u >>> (w - m))) % 2 ^ w).testBit i = u.testBit ((i + w - m) % w) := by
  simp only [Nat.testBit_mod_two_pow, Nat.testBit_or, Nat.testBit_shiftLeft, Nat.testBit_shiftRight, hi, decide_true, Bool.true_and]
  by_cases h : m ≤ i
  · have hmod : (i + w - m) % w = i - m := by rw [show i + w - m = i - m + w by omega, Nat.add_mod_right, Nat.mod_eq_of_lt (by omega)]
    simp [h, hmod, testBit_above hu (show w ≤ w - m + i by omega)]
  · rw [Nat.mod_eq_of_lt (show i + w - m < w by omega), show w - m + i = i + w - m by omega]
    simp [h]

theorem testBit_rolLane (hi : i < w) : (rolLane w u n).testBit i = u.testBit ((i + w - n % w) % w) :=
  testBit_rotated hu (Nat.mod_lt n (by omega)).le hi

/-- A rotation right is one left by what is left of the width. -/
theorem testBit_rorLane (hi : i < w) : (rorLane w u n).testBit i = u.testBit ((i + n) % w) := by
  have hn : n % w < w := Nat.mod_lt n (by omega)
  have h := testBit_rotated hu (Nat.sub_le w (n % w)) hi
  rw [Nat.sub_sub_self hn.le, Nat.lor_comm, show i + w - (w - n % w) = i + n % w by omega, Nat.add_mod_mod] at h
  exact h

end
end

end Sys2Proof.Laws

namespace Sys2Proof.Proofs

open Sys2Proof Sys2Proof.Machine Sys2Proof.Claims Sys2Proof.Laws

/-- R92, instruction by instruction. -/
theorem logicAndShifts : Claims.LogicAndShifts := by
  intro s f h n hr
  have hu := laneBits_lt (f.data .a) h.ty.width
  exact ⟨compute_quiet hr rfl, compute_quiet hr rfl, compute_quiet hr rfl, compute_quiet hr rfl, compute_quiet hr rfl,
    sendsBits hr fun _ _ hi => testBit_shlLane _ hi, sendsBits hr fun k _ _ => testBit_shrLane _ (hu k),
    sendsBits hr fun k _ hi => testBit_sraLane _ (hu k) hi, sendsBits hr fun k _ hi => testBit_rolLane _ (hu k) hi,
    sendsBits hr fun k _ hi => testBit_rorLane _ (hu k) hi, sendsBits hr fun _ _ hi => testBit_shlLane _ hi,
    sendsBits hr fun k _ _ => testBit_shrLane _ (hu k), sendsBits hr fun k _ hi => testBit_sraLane _ (hu k) hi⟩

end Sys2Proof.Proofs
end

section
/-! PROOF. Bit fields, counts, reversal and byte selection on 32 bits (R93, R94). -/

namespace Sys2Proof.Laws

open Sys2Proof Sys2Proof.Machine Sys2Proof.Claims

/-! Bit fields (R93). -/

theorem ofNat_wrapNat (v : Int) : BitVec.ofNat 32 (wrapNat v 32) = BitVec.ofInt 32 v := by
  apply BitVec.eq_of_toNat_eq
  rw [BitVec.toNat_ofNat, Nat.mod_eq_of_lt (wrapNat_lt v 32), BitVec.toNat_ofInt, wrapNat]

/-- A field of a word, brought to 32 bits by its type. -/
theorem bfxWord_eq (x : Word) (t : Ty) (pos n : Nat) :
    BitVec.ofNat 32 (if t = .i32 then wrapNat (signedOf (bitsAt x.toNat pos n) n) 32 else bitsAt x.toNat pos n) =
      if t = .i32 then (x.extractLsb' pos n).signExtend 32 else (x.extractLsb' pos n).setWidth 32 := by
  have hx : bitsAt x.toNat pos n = (x.extractLsb' pos n).toNat := (BitVec.extractLsb'_toNat ..).symm
  rw [hx]
  by_cases ht : t = .i32
  · rw [if_pos ht, if_pos ht, signedOf_toNat, ofNat_wrapNat]
    rfl
  · rw [if_neg ht, if_neg ht, BitVec.ofNat_toNat]

theorem getLsbD_bfxWord {x : Word} {t : Ty} {pos len i : Nat} (hi : i < 32) :
    (if t = .i32 then (x.extractLsb' pos (len + 1)).signExtend 32 else (x.extractLsb' pos (len + 1)).setWidth 32).getLsbD i =
      if i ≤ len then x.getLsbD (pos + i) else (decide (t = .i32) && x.getLsbD (pos + len)) := by
  have hmsb : (x.extractLsb' pos (len + 1)).msb = x.getLsbD (pos + len) := by
    simp [BitVec.msb_eq_getLsbD_last]
  by_cases ht : t = .i32
  · rw [if_pos ht, BitVec.getLsbD_signExtend, hmsb]
    by_cases h : i ≤ len <;> simp [h, hi, ht]
  · rw [if_neg ht]
    by_cases h : i ≤ len <;> simp [h, hi, ht]

/-- The mask of the field that BFI writes. -/
def bfiMask (pos len : Nat) : Word := BitVec.ofNat 32 ((2 ^ (len + 1) - 1) <<< pos)

theorem getLsbD_bfiMask {pos len i : Nat} (hi : i < 32) : (bfiMask pos len).getLsbD i = decide (pos ≤ i ∧ i ≤ pos + len) := by
  rw [bfiMask, BitVec.getLsbD_ofNat, Nat.testBit_shiftLeft, Nat.testBit_two_pow_sub_one]
  simp only [← Bool.decide_and]
  exact decide_eq_decide.2 (by omega)

/-- BFI puts the low bits of `y` in the field of `x` (R93). -/
theorem getLsbD_bfi {x y : Word} {pos len i : Nat} (hi : i < 32) :
    ((x &&& ~~~bfiMask pos len) ||| ((y <<< pos) &&& bfiMask pos len)).getLsbD i =
      if pos ≤ i ∧ i ≤ pos + len then y.getLsbD (i - pos) else x.getLsbD i := by
  rw [BitVec.getLsbD_or, BitVec.getLsbD_and, BitVec.getLsbD_and, BitVec.getLsbD_not, getLsbD_bfiMask hi]
  by_cases h : pos ≤ i ∧ i ≤ pos + len
  · simp [h, hi, Nat.not_lt.2 h.1, BitVec.getLsbD_eq_getElem (show i - pos < 32 by omega)]
  · simp [h, hi]

/-! Counts (R94). -/

theorem popc_eq (x : Word) :
    ((upto 32).filter fun i => bitsAt x.toNat i 1 = 1).length = (List.range 32).countP fun i => x.getLsbD i := by
  simp [upto_eq, List.countP_eq_length_filter, BitVec.testBit_toNat]

theorem clz_bits (x : Word) : ∃ n ≤ 32, (if x.toNat = 0 then 32 else 31 - Nat.log2 x.toNat) = n ∧
    (∀ i < n, x.getLsbD (31 - i) = false) ∧ (n < 32 → x.getLsbD (31 - n) = true) := by
  by_cases h : x.toNat = 0
  · refine ⟨32, le_rfl, if_pos h, fun i _ => ?_, fun h => absurd h (by decide)⟩
    rw [← BitVec.testBit_toNat, h, Nat.zero_testBit]
  · have hlog : x.toNat.log2 < 32 := (Nat.log2_lt h).2 x.isLt
    refine ⟨31 - x.toNat.log2, by omega, if_neg h, fun i hi => ?_, fun _ => ?_⟩
    · exact Nat.testBit_lt_two_pow ((Nat.log2_lt h).1 (by omega))
    · rw [show 31 - (31 - x.toNat.log2) = x.toNat.log2 by omega]
      exact Nat.testBit_log2 h

/-- What the lowest number below a bound that meets a condition, or the bound itself, is. -/
theorem lowest_getD (p : Nat → Bool) (n : Nat) :
    ∃ m ≤ n, (lowest p n).getD n = m ∧ (∀ i < m, p i = false) ∧ (m < n → p m = true) := by
  rw [lowest, upto_eq]
  cases h : (List.range n).find? p with
  | none =>
    rw [List.find?_range_eq_none] at h
    exact ⟨n, le_rfl, rfl, fun i hi => by simpa using h i hi, fun h => absurd h (lt_irrefl n)⟩
  | some m =>
    obtain ⟨hp, hm, hl⟩ := List.find?_range_eq_some.1 h
    exact ⟨m, (List.mem_range.1 hm).le, rfl, fun i hi => by simpa using hl i hi, fun _ => hp⟩

/-! Lanes and bits. -/

theorem getLsbD_lane (x : Word) {w k i : Nat} (hi : i < w) : x.getLsbD (w * k + i) = (laneBits x w k).testBit i := by
  rw [laneBits, testBit_bitsAt, decide_eq_true hi, Bool.true_and, BitVec.testBit_toNat]

/-- The bits of a word packed from `n` lanes that a rule gives. -/
theorem getLsbD_pack {w n k i : Nat} {g : Nat → Nat} (hw : w * n ≤ 32) (hk : k < n) (hi : i < w) :
    (pack w ((upto n).map g)).getLsbD (w * k + i) = (g k).testBit i := by
  rw [getLsbD_lane _ hi, laneBits_pack (by simpa using hw), Nat.testBit_mod_two_pow, decide_eq_true hi, Bool.true_and]
  simp [List.getD_eq_getElem?_getD, upto_get hk]

/-- The eight bytes that PRMT selects from (R94). -/
theorem toNat_bytes (x y : Word) : x.toNat + y.toNat * 2 ^ 32 = (y ++ x).toNat := by
  rw [BitVec.toNat_append, ← Nat.shiftLeft_add_eq_or_of_lt x.isLt, Nat.shiftLeft_eq, Nat.add_comm]

/-- A byte of PRMT: byte `q % 8`, or eight copies of its top bit. -/
theorem testBit_prmtByte (v : DWord) (q : Nat) {i : Nat} (hi : i < 8) :
    (let b := bitsAt v.toNat (8 * (q % 8)) 8
     if q < 8 then b else if bitsAt b 7 1 = 1 then 0xFF else 0).testBit i = v.getLsbD (8 * (q % 8) + if q < 8 then i else 7) := by
  dsimp only
  by_cases h : q < 8
  · rw [if_pos h, if_pos h, testBit_bitsAt, decide_eq_true hi, Bool.true_and, BitVec.testBit_toNat]
  · rw [if_neg h, if_neg h]
    simp only [bitsAt_one_eq_one, testBit_bitsAt, BitVec.testBit_toNat]
    cases v.getLsbD (8 * (q % 8) + 7) with
    | false => simp
    | true => simpa using (Nat.testBit_two_pow_sub_one 8 i).trans (decide_eq_true hi)

end Sys2Proof.Laws

namespace Sys2Proof.Proofs

open Sys2Proof Sys2Proof.Machine Sys2Proof.Claims Sys2Proof.Laws

/-- R93 and R94, instruction by instruction. -/
theorem bitFields : Claims.BitFields := by
  intro s f h len pos sel hr hlen
  refine ⟨⟨_, compute_quiet hr rfl, fun i hi => ?_⟩, ⟨_, compute_quiet hr rfl, fun i hi => getLsbD_bfi hi⟩, ?_, ?_, ?_, ?_, ?_⟩
  · rw [bfxWord_eq]
    exact getLsbD_bfxWord hi
  · rw [← popc_eq]
    exact compute_quiet hr rfl
  · obtain ⟨n, hn, e, hb⟩ := clz_bits (f.data .a)
    exact ⟨n, hn, compute_quiet hr (by rw [← e]), hb⟩
  · obtain ⟨n, hn, e, hl, hp⟩ := lowest_getD (fun i => bitsAt (f.data .a).toNat i 1 = 1) 32
    simp only [bitsAt_one_eq_one, BitVec.testBit_toNat, Bool.decide_eq_true] at hl hp
    exact ⟨n, hn, compute_quiet hr (by rw [← e]), hl, hp⟩
  · refine ⟨_, compute_quiet hr rfl, fun i hi => ?_⟩
    have hbit := getLsbD_pack (g := fun i => bitsAt (f.data .a).toNat (31 - i) 1) (w := 1) (Nat.le_refl 32) hi Nat.zero_lt_one
    rw [Nat.one_mul, testBit_bitsAt, BitVec.testBit_toNat, decide_eq_true Nat.zero_lt_one, Bool.true_and] at hbit
    exact hbit
  · refine ⟨_, compute_quiet hr rfl, fun k hk i hi => ?_⟩
    rw [getLsbD_pack (Nat.le_refl 32) hk hi, toNat_bytes]
    exact testBit_prmtByte _ _ hi

/-- Settles O2: each result is given bit by bit. -/
theorem logicAndBitFields : Obligations.LogicAndBitFields := ⟨logicAndShifts, bitFields⟩

end Sys2Proof.Proofs
end

section
/-! PROOF. Compares, predicate logic, SELECT and TESTZ (R96), and token steering (R98, R99). -/

namespace Sys2Proof.Laws

open Sys2Proof Sys2Proof.Machine Sys2Proof.Claims

section
variable {s : State} {f : Firing} {h : Hdr} {cl : List Slot}

/-! Firings that act. -/

/-- A set that executes needs no slot clean beyond those that its instruction names. -/
theorem runs_unclean (hr : Runs s f h cl) : Runs s f h [] where
  focus := hr.focus
  fed := hr.fed
  plain := hr.plain
  clean := fun sl hsl => by
    by_cases hp : h.pm = .always
    · simp [hp] at hsl
    · rw [if_pos hp, List.mem_singleton] at hsl
      exact hr.clean sl (by simp [hp, hsl])
  pm := hr.pm

/-- An instruction whose set executes acts on the state with its operations counted. -/
theorem firing_acts {sh : Firing → Shape} {act : Firing → State → State} {t : State} (hr : Runs s f (sh f).h (sh f).clean)
    (ha : act f (s.counted f (sh f).h.ty) = t) : onFiring s (fun f => s.fired (sh f) f (act f)) = .next t :=
  (onFiring_runs hr).trans (congrArg _ ((fired_runs hr).trans ha))

/-! Predicates (R15, R96). -/

/-- Bit 0 of a slot, as the instructions on predicates read it. -/
theorem bit_eq (sl : Slot) : f.bit sl = (f.data sl).getLsbD 0 := (Nat.testBit_zero _).symm

theorem data_odd_iff {sl : Slot} : (f.data sl).toNat % 2 = 1 ↔ (f.data sl).getLsbD 0 = true := by
  rw [← bit_eq, Firing.bit, decide_eq_true_iff]

/-- An instruction with a predicate result sends 1 when it holds, and 0 when it does not. -/
theorem sendsPred {g : Firing → Bool} {p : Prop} (hr : Runs s f h []) (hp : g f = true ↔ p) :
    SendsPred (predicate s h g) s f h p := by
  refine ⟨_, compute_quiet hr rfl, ?_⟩
  by_cases hg : g f = true
  · exact .inl ⟨hp.1 hg, by rw [hg]; rfl⟩
  · exact .inr ⟨fun h => hg (hp.2 h), by rw [Bool.eq_false_iff.2 hg]; rfl⟩

/-- A compare of the operands of R96. -/
theorem sendsCompare {imm : Bool} {val : BitVec 21} {c : Int → Int → Prop} [∀ x y, Decidable (c x y)] (hr : Runs s f h []) :
    SendsPred (compareInt s h imm val fun x y => decide (c x y)) s f h (c (laneOf f h .a 0) (cmpOperand h imm val f)) :=
  sendsPred hr decide_eq_true_iff

end

/-! The immediate of CONST (R98). -/

theorem constWord_f32 (imm : BitVec 22) : (constWord .f32 imm).toNat = imm.toNat * 2 ^ 10 := by
  have := imm.isLt
  simp only [constWord, BitVec.toNat_shiftLeft, BitVec.toNat_setWidth, Nat.shiftLeft_eq]
  omega

theorem constWord_pred (imm : BitVec 22) : (constWord .pred imm).toNat = imm.toNat % 2 := by
  rcases Nat.mod_two_eq_zero_or_one imm.toNat with hi | hi <;> rw [constWord, hi] <;> rfl

theorem constWord_i32 (imm : BitVec 22) : (constWord .i32 imm).toInt = imm.toInt := by
  exact BitVec.toInt_signExtend_of_le (by decide)

theorem constWord_word {t : Ty} (ht : t = .n32 ∨ t = .b32) (imm : BitVec 22) : (constWord t imm).toNat = imm.toNat := by
  rcases ht with rfl | rfl <;> exact BitVec.toNat_setWidth_of_le (by decide)

/-- A type of several lanes takes the immediate in each. -/
theorem constWord_lane {t : Ty} {k : Nat} (ht : 1 < t.lanes) (hk : k < t.lanes) (imm : BitVec 22) :
    laneBits (constWord t imm) t.width k = imm.toNat % 2 ^ t.width := by
  have hpack : constWord t imm = pack t.width ((upto t.lanes).map fun _ => imm.toNat) := by
    unfold constWord
    split
    case h_6 => rfl
    all_goals exact absurd ht (by decide)
  rw [hpack, laneBits_pack (by simpa using lanes_fill t)]
  simp only [List.getD_eq_getElem?_getD, List.getElem?_map, upto_get hk, Option.map_some, Option.getD_some]

end Sys2Proof.Laws

namespace Sys2Proof.Proofs

open Sys2Proof Sys2Proof.Machine Sys2Proof.Claims Sys2Proof.Laws

/-- Settles O3: each instruction sends the predicate that it decides. -/
theorem comparesAndPredicates : Obligations.ComparesAndPredicates := by
  intro s f h imm val hr
  refine ⟨sendsCompare (c := (· = ·)) hr, sendsCompare (c := (· ≠ ·)) hr, sendsCompare (c := (· < ·)) hr,
    sendsCompare (c := (· ≤ ·)) hr, sendsCompare (c := (· > ·)) hr, sendsCompare (c := (· ≥ ·)) hr, sendsPred hr ?_,
    sendsPred hr ?_, sendsPred hr ?_, sendsPred hr ?_, sendsPred hr ?_, fun hc => ?_, sendsPred hr ?_⟩
  · simp [bit_eq]
  · simp [bit_eq]
  · rw [bne_iff_ne, Ne, Bool.eq_iff_iff, bit_eq, bit_eq]
  · simp [bit_eq]
  · simp [bit_eq]
  · refine firing_acts hc ?_
    rw [bit_eq]
    rfl
  · exact decide_eq_true_iff

/-- Settles O4: each instruction acts on the counted state, with its set as the rules have it. -/
theorem steering : Obligations.Steering := by
  intro s f h t2 imm c3 hr
  refine ⟨firing_acts hr rfl, ⟨_, compute_quiet hr rfl, ?_, ?_, ?_, ?_, ?_⟩, firing_acts hr rfl, fun hb => firing_acts hb ?_,
    fun ha hb => firing_acts hr ?_, fun ha hb => firing_acts hr ?_, fun hb hp => firing_acts hb ?_,
    fun hb hp => firing_acts hb ?_, firing_acts hr rfl, firing_acts hr rfl, firing_acts hr rfl⟩
  · intro ht
    rw [ht, constWord_i32]
  · exact fun ht => constWord_word ht imm
  · intro ht
    rw [ht, constWord_f32]
  · intro ht
    rw [ht, constWord_pred]
  · exact fun ht k hk => constWord_lane ht hk imm
  · rw [if_congr data_odd_iff rfl rfl]
  · rw [if_pos ha]
  · rw [ha]
    rfl
  · dsimp only
    rw [if_pos (data_odd_iff.2 hp)]
  · dsimp only
    rw [if_neg (mt data_odd_iff.1 (Bool.eq_false_iff.1 hp))]
    rfl

end Sys2Proof.Proofs
end

section
/-! PROOF. Tag spaces (R100 to R107): the entries of the space table, the nest stack as a field of the tag, and the instructions
on them. -/

namespace Sys2Proof.Laws

open Sys2Proof Sys2Proof.Machine Sys2Proof.Claims

/-! Numbers as sets of bits. -/

/-- Numbers that share no bit add as they join. -/
theorem add_eq_or_of_and_eq_zero {a b : Nat} (h : a &&& b = 0) : a + b = a ||| b := by
  have ha : a < 2 ^ (a + b) := lt_of_lt_of_le Nat.lt_two_pow_self (Nat.pow_le_pow_right (by decide) (Nat.le_add_right a b))
  have hb : b < 2 ^ (a + b) := lt_of_lt_of_le Nat.lt_two_pow_self (Nat.pow_le_pow_right (by decide) (Nat.le_add_left b a))
  have hz : BitVec.ofNat (a + b) a &&& BitVec.ofNat (a + b) b = 0#(a + b) := by rw [← BitVec.ofNat_and, h]
  have hor := congrArg BitVec.toNat (BitVec.add_eq_or_of_and_eq_zero _ _ hz)
  rw [BitVec.toNat_add_of_and_eq_zero hz, BitVec.toNat_or, BitVec.toNat_ofNat, BitVec.toNat_ofNat, Nat.mod_eq_of_lt ha,
    Nat.mod_eq_of_lt hb] at hor
  exact hor

/-- Subtracting bits that a number holds takes them out of it. -/
theorem sub_and_eq_ldiff (x y : Nat) : x - (x &&& y) = Nat.ldiff x y := by
  have hand : (x &&& y) &&& Nat.ldiff x y = 0 := by
    apply Nat.eq_of_testBit_eq
    intro i
    simp only [Nat.testBit_and, Nat.testBit_ldiff, Nat.zero_testBit]
    cases y.testBit i <;> simp
  have hor : (x &&& y) ||| Nat.ldiff x y = x := by
    apply Nat.eq_of_testBit_eq
    intro i
    simp only [Nat.testBit_or, Nat.testBit_and, Nat.testBit_ldiff]
    cases y.testBit i <;> simp
  rw [← add_eq_or_of_and_eq_zero hand] at hor
  omega

/-- A slice of a number that is replaced holds the new value, and the other bits stay. -/
theorem testBit_replaced (x y lo n i : Nat) : (x - bitsAt x lo n <<< lo + (y % 2 ^ n) <<< lo).testBit i =
    if lo ≤ i ∧ i < lo + n then y.testBit (i - lo) else x.testBit i := by
  have hslice : bitsAt x lo n <<< lo = x &&& (2 ^ n - 1) <<< lo := by
    apply Nat.eq_of_testBit_eq
    intro j
    simp only [Nat.testBit_shiftLeft, testBit_bitsAt, Nat.testBit_and, Nat.testBit_two_pow_sub_one]
    by_cases h : lo ≤ j
    · simp [h, Bool.and_comm]
    · simp [h]
  have hand : Nat.ldiff x ((2 ^ n - 1) <<< lo) &&& (y % 2 ^ n) <<< lo = 0 := by
    apply Nat.eq_of_testBit_eq
    intro j
    simp only [Nat.testBit_and, Nat.testBit_ldiff, Nat.testBit_shiftLeft, Nat.testBit_two_pow_sub_one, Nat.testBit_mod_two_pow,
      Nat.zero_testBit]
    cases decide (lo ≤ j) <;> cases decide (j - lo < n) <;> simp
  rw [hslice, sub_and_eq_ldiff, add_eq_or_of_and_eq_zero hand]
  simp only [Nat.testBit_or, Nat.testBit_ldiff, Nat.testBit_shiftLeft, Nat.testBit_two_pow_sub_one, Nat.testBit_mod_two_pow]
  by_cases hlo : lo ≤ i
  · by_cases hn : i - lo < n
    · rw [if_pos (by omega)]
      simp [hlo, hn]
    · rw [if_neg (by omega)]
      simp [hn]
  · rw [if_neg (by omega)]
    simp [hlo]

/-- A number that meets a condition has a lowest one below it. -/
theorem lowest_isSome {p : Nat → Bool} {n i : Nat} (hi : i < n) (hp : p i = true) : ∃ m, lowest p n = some m := by
  rw [← Option.isSome_iff_exists, lowest, upto_eq, List.find?_isSome]
  exact ⟨i, List.mem_range.2 hi, hp⟩

/-! The nest stack in a tag (R17, R238). -/

theorem tagNest_lt (t : DWord) : tagNest t < 2 ^ 44 := Nat.mod_lt _ (by decide)

/-- A tag with another nest stack keeps what stands above it. -/
theorem getLsbD_withNest (t : DWord) (x i : Nat) : (withNest t x).getLsbD i = if i < 44 then x.testBit i else t.getLsbD i := by
  have ht := t.isLt
  have hval : (withNest t x).toNat = 2 ^ 44 * (t.toNat / 2 ^ 44) + x % 2 ^ 44 := by
    simp only [withNest, mkTag, tagD, tagK, tagV, bitsAt, BitVec.toNat_ofNat, Nat.shiftRight_eq_div_pow, Nat.shiftLeft_eq]
    omega
  rw [← BitVec.testBit_toNat, hval, Nat.testBit_two_pow_mul_add _ (Nat.mod_lt _ (by decide)), Nat.testBit_mod_two_pow,
    Nat.testBit_div_two_pow]
  by_cases hi : i < 44
  · simp [hi]
  · rw [if_neg hi, if_neg hi, Nat.sub_add_cancel (by omega), BitVec.testBit_toNat]

theorem testBit_tagNest (t : DWord) {i : Nat} (hi : i < 44) : (tagNest t).testBit i = t.getLsbD i := by
  rw [tagNest, testBit_bitsAt, decide_eq_true hi, Bool.true_and, Nat.zero_add, BitVec.testBit_toNat]

/-- A field of the nest stack is a field of the tag. -/
theorem bitsAt_tagNest (t : DWord) {lo n : Nat} (h : lo + n ≤ 44) : bitsAt (tagNest t) lo n = t.toNat / 2 ^ lo % 2 ^ n := by
  rw [← Nat.shiftRight_eq_div_pow]
  apply Nat.eq_of_testBit_eq
  intro i
  rw [testBit_bitsAt, Nat.testBit_mod_two_pow, Nat.testBit_shiftRight]
  by_cases hi : i < n
  · rw [testBit_tagNest t (by omega), BitVec.testBit_toNat]
  · simp [hi]

/-- A replaced slice of the nest stack is a replaced slice of the tag (R107). -/
theorem getLsbD_replaced {t : DWord} {y off n i : Nat} (h : off + n ≤ 44) :
    (withNest t (tagNest t - bitsAt (tagNest t) off n <<< off + (y % 2 ^ n) <<< off)).getLsbD i =
      if off ≤ i ∧ i < off + n then y.testBit (i - off) else t.getLsbD i := by
  rw [getLsbD_withNest, testBit_replaced]
  by_cases hi : i < 44
  · rw [if_pos hi, testBit_tagNest t hi]
  · rw [if_neg hi, if_neg (by omega)]

theorem pushField_fits {t : DWord} {d i w : Nat} (h : d + w ≤ 44) :
    pushField t d i w = some (withNest t ((tagNest t <<< w) ||| i), d + w) := if_neg (Nat.not_lt.2 h)

theorem pushField_deep {t : DWord} {d i w : Nat} (h : 44 < d + w) : pushField t d i w = none := if_pos h

/-! Entries of the space table (R100). -/

theorem find?_mapFirst_disjoint {α : Type} {p q : α → Bool} {g : α → α}
    (h : ∀ x, p x = true → q x = false ∧ q (g x) = false) (l : List α) : (mapFirst p g l).find? q = l.find? q := by
  induction l with
  | nil => rfl
  | cons x r ih =>
    by_cases hp : p x = true
    · simp [mapFirst, hp, (h x hp).1, (h x hp).2]
    · simp [mapFirst, hp, List.find?_cons, ih]

section
variable {s : State} {f : Firing} {g : Space → Space} {k k' : Holder} {b b' : Nat} {t t' : DWord} {d d' : Nat} {n top i : Nat}

/-- The key by which an entry is found. -/
def hasKey (k : Holder) (b : Nat) (t : DWord) (d : Nat) (x : Space) : Bool := x.holder = k && x.blk = b && x.tag = t && x.dep = d

/-- An entry of one key is none of another. -/
theorem hasKey_ne (hne : (k', b', t', d') ≠ (k, b, t, d)) {x : Space} (hx : hasKey k b t d x = true) : hasKey k' b' t' d' x = false := by
  refine Bool.eq_false_iff.2 fun hx' => hne ?_
  simp only [hasKey, Bool.and_eq_true, decide_eq_true_eq] at hx hx'
  obtain ⟨⟨⟨rfl, rfl⟩, rfl⟩, rfl⟩ := hx
  obtain ⟨⟨⟨rfl, rfl⟩, rfl⟩, rfl⟩ := hx'
  rfl

/-- A change of an entry that keeps its key. -/
def KeepsKey (g : Space → Space) : Prop := ∀ k b t d x, hasKey k b t d (g x) = hasKey k b t d x

theorem space?_modSpace_self (hg : KeepsKey g) : (s.modSpace k b t d g).space? k b t d = (s.space? k b t d).map g :=
  find?_mapFirst (p := hasKey k b t d) (fun x hx => (hg k b t d x).trans hx) _

theorem space?_modSpace_ne (hg : KeepsKey g) (hne : (k', b', t', d') ≠ (k, b, t, d)) :
    (s.modSpace k b t d g).space? k' b' t' d' = s.space? k' b' t' d' :=
  find?_mapFirst_disjoint (p := hasKey k b t d)
    (fun x hx => ⟨hasKey_ne hne hx, (hg k' b' t' d' x).trans (hasKey_ne hne hx)⟩) _

/-- A new entry stands behind those that there are. -/
theorem space?_append (x : Space) : (s.modFab fun w => { w with spaces := w.spaces ++ [x] }).space? k b t d =
    (s.space? k b t d).or ([x].find? (hasKey k b t d)) := List.find?_append

/-! ALLOC (R102 to R104). -/

/-- The entry of a firing's tag. -/
def spaceOf (s : State) (f : Firing) : Option Space := s.space? f.site.holder f.site.blk f.tag f.dep

/-- The indices of an entry that were allocated at the start of the cycle, and those that the ALLOCs of the cycle took. -/
def allocated (x : Option Space) : Nat := (x.map Space.bits).getD 0
def taken (x : Option Space) : Nat := (x.map Space.taking).getD 0

@[simp] theorem allocated_none : allocated none = 0 := rfl
@[simp] theorem taken_none : taken none = 0 := rfl

/-- The first ALLOC of a key finds index 0. -/
theorem allocFound_first (hx : spaceOf s f = none) (hc : s.spaceCount f.site.holder < 32) (ht : 0 < top) :
    s.allocFound f top = .index 0 := by
  have hlow : lowest (fun _ => true) top = some 0 := lowest_eq_some ht rfl (by simp)
  unfold spaceOf at hx
  simp only [State.allocFound, hx, hlow, if_neg (Nat.not_le.2 hc)]

/-- With no room for a new entry ALLOC finds none. -/
theorem allocFound_noRoom (hx : spaceOf s f = none) (hc : 32 ≤ s.spaceCount f.site.holder) : s.allocFound f top = .none := by
  unfold spaceOf at hx
  simp only [State.allocFound, hx, if_pos hc]

section
variable {x : Space} (hx : spaceOf s f = some x)
include hx

/-- With no index of its entry free at the start of the cycle ALLOC finds none. -/
theorem allocFound_full (h : ∀ j < top, x.bits.testBit j = true) : s.allocFound f top = .none := by
  have hnone : lowest (fun i => bitsAt x.bits i 1 = 0) top = none := lowest_eq_none fun j hj => by simp [h j hj]
  unfold spaceOf at hx
  simp only [State.allocFound, hx, hnone]

variable (hi : i < top)
include hi

/-- With every index that was free taken in the cycle ALLOC is left without one. -/
theorem allocFound_left (hfree : x.bits.testBit i = false) (hall : ∀ j < top, (x.bits ||| x.taking).testBit j = true) :
    s.allocFound f top = .left := by
  obtain ⟨m, hm⟩ := lowest_isSome (p := fun i => bitsAt x.bits i 1 = 0) hi (by simp [hfree])
  have hnone : lowest (fun i => bitsAt (x.bits ||| x.taking) i 1 = 0) top = none :=
    lowest_eq_none fun j hj => by simp only [bitsAt_one_eq_zero, hall j hj, Bool.true_eq_false, decide_false]
  unfold spaceOf at hx
  simp only [State.allocFound, hx, hm, hnone]

/-- ALLOC finds the lowest index that is free and not taken, when it is its turn among the ALLOCs of its cycle. -/
theorem allocFound_next (hfree : (x.bits ||| x.taking).testBit i = false) (hlow : ∀ j < i, (x.bits ||| x.taking).testBit j = true)
    (hturn : x.takenBy ≤ wordIndex f.site + 1) : s.allocFound f top = .index i := by
  have hbits : x.bits.testBit i = false := by
    rw [Nat.testBit_or, Bool.or_eq_false_iff] at hfree
    exact hfree.1
  obtain ⟨m, hm⟩ := lowest_isSome (p := fun i => bitsAt x.bits i 1 = 0) hi (by simp [hbits])
  have hsome : lowest (fun i => bitsAt (x.bits ||| x.taking) i 1 = 0) top = some i :=
    lowest_eq_some hi (by simpa using hfree) fun j hj => by simp only [bitsAt_one_eq_zero, hlow j hj, Bool.true_eq_false, decide_false]
  unfold spaceOf at hx
  simp only [State.allocFound, hx, hm, hsome, if_neg (Nat.not_lt.2 hturn)]

end

/-- What ALLOC finds where an index is free and not taken, there is room for its entry, and it is its turn. -/
theorem allocFound_index (hi : i < top) (hfree : (allocated (spaceOf s f) ||| taken (spaceOf s f)).testBit i = false)
    (hlow : ∀ j < i, (allocated (spaceOf s f) ||| taken (spaceOf s f)).testBit j = true)
    (hroom : (spaceOf s f).isSome = true ∨ s.spaceCount f.site.holder < 32)
    (hturn : ∀ y, spaceOf s f = some y → y.takenBy ≤ wordIndex f.site + 1) : s.allocFound f top = .index i := by
  cases hx : spaceOf s f with
  | none =>
    rw [hx] at hlow hroom
    obtain rfl : i = 0 := Nat.eq_zero_of_not_pos fun hpos => by simpa using hlow 0 hpos
    exact allocFound_first hx (hroom.resolve_left Bool.false_ne_true) hi
  | some x =>
    rw [hx] at hfree hlow
    exact allocFound_next hx hi hfree hlow (hturn x hx)

/-- What ALLOC finds where every index that was free has been taken in the cycle. -/
theorem allocFound_allTaken (hi : i < top) (hfree : (allocated (spaceOf s f)).testBit i = false)
    (hall : ∀ j < top, (allocated (spaceOf s f) ||| taken (spaceOf s f)).testBit j = true) : s.allocFound f top = .left := by
  cases hx : spaceOf s f with
  | none => simpa [hx] using hall i hi
  | some x =>
    rw [hx] at hfree hall
    exact allocFound_left hx hi hfree hall

/-- What ALLOC finds where every index below its limit, which is not 0, was allocated at the start of the cycle. -/
theorem allocFound_none (ht : 0 < top) (h : ∀ j < top, (allocated (spaceOf s f)).testBit j = true) : s.allocFound f top = .none := by
  cases hx : spaceOf s f with
  | none => simpa [hx] using h 0 ht
  | some x =>
    rw [hx] at h
    exact allocFound_full hx h

/-- An index taken for a firing, in its entry. -/
def spaceTaking (f : Firing) (i : Nat) (x : Space) : Space := { x with taking := x.taking ||| 1 <<< i, takenBy := wordIndex f.site + 1 }

/-- The entry that the first ALLOC of a key makes. -/
def newSpace (f : Firing) : Space := { holder := f.site.holder, blk := f.site.blk, tag := f.tag, dep := f.dep, bits := 0 }

theorem spaceTaking_bits (x : Option Space) : (spaceTaking f i (x.getD (newSpace f))).bits = allocated x := by cases x <;> rfl

theorem spaceTaking_taking (x : Option Space) : (spaceTaking f i (x.getD (newSpace f))).taking = taken x ||| 2 ^ i := by
  rw [← Nat.one_shiftLeft]
  cases x <;> rfl

/-- Taking an index changes the entry of the firing, which the first ALLOC of a key makes, and nothing else. -/
theorem takeIndex_takes (s : State) (f : Firing) (i : Nat) :
    { s.takeIndex f i with fab := { (s.takeIndex f i).fab with spaces := s.fab.spaces } } = s ∧
      spaceOf (s.takeIndex f i) f = some (spaceTaking f i ((spaceOf s f).getD (newSpace f))) ∧
      ∀ g b t d, (g, b, t, d) ≠ (f.site.holder, f.site.blk, f.tag, f.dep) → (s.takeIndex f i).space? g b t d = s.space? g b t d := by
  cases hx : spaceOf s f with
  | none =>
    unfold spaceOf at hx
    have he : s.takeIndex f i = s.modFab fun g => { g with spaces := g.spaces ++ [spaceTaking f i (newSpace f)] } := by
      rw [State.takeIndex, hx]
      rfl
    rw [he]
    refine ⟨rfl, ?_, fun g b t d hne => ?_⟩
    · rw [spaceOf, space?_append, hx]
      simp [hasKey, spaceTaking, newSpace]
    · rw [space?_append, List.find?_cons_of_neg, List.find?_nil, Option.or_none]
      exact Bool.eq_false_iff.1 (hasKey_ne hne (by simp [hasKey, spaceTaking, newSpace]))
  | some x =>
    unfold spaceOf at hx
    have he : s.takeIndex f i = s.modSpace f.site.holder f.site.blk f.tag f.dep (spaceTaking f i) := by
      rw [State.takeIndex, hx]
      rfl
    have hkey : KeepsKey (spaceTaking f i) := fun _ _ _ _ _ => rfl
    rw [he]
    refine ⟨rfl, ?_, fun g b t d hne => space?_modSpace_ne hkey hne⟩
    rw [spaceOf, space?_modSpace_self hkey, hx]
    rfl

end

/-! The end of a cycle (R104, R105). -/

/-- An entry that an ALLOC of the cycle took an index of stands after it, with that index allocated and those released free. -/
theorem endCycle_keeps {g : Fabric} {z : Space} (hz : z ∈ g.spaces) (ht : z.taking ≠ 0) :
    ∃ y ∈ g.endCycle.spaces, y.holder = z.holder ∧ y.blk = z.blk ∧ y.tag = z.tag ∧ y.dep = z.dep ∧ y.taking = 0 ∧
    ∀ i, y.bits.testBit i = ((z.bits.testBit i && !z.freeing.testBit i) || z.taking.testBit i) := by
  refine ⟨_, List.mem_filter.2 ⟨List.mem_map_of_mem hz, ?_⟩, rfl, rfl, rfl, rfl, rfl, fun i => ?_⟩
  · simp [Nat.or_eq_zero_iff, ht]
  · rw [sub_and_eq_ldiff, Nat.testBit_or, Nat.testBit_ldiff]

section
variable {s : State} {f : Firing} {h : Hdr}

/-- How an ALLOC ends by what it finds (R102 to R104). -/
def allocEnd (u : State) (f : Firing) (h : Hdr) : AllocFound → State
  | .none => { u with held := true }
  | .left => { u with held := true, left := true }
  | .index i =>
    let w := spaceWidth (u.spaceSize f)
    ((u.takeIndex f i).emit f.site h.t0 2 ((f.result h false h.ty (f.data .a)).retag
      (withNest f.tag ((tagNest f.tag <<< w) ||| i)) (f.dep + w))).emit f.site h.t1 2 (f.result h false .n32 (BitVec.ofNat 32 i))

/-- The indices that an ALLOC may take lie below its limit, or below the size of its space (R102). -/
def allocTop (u : State) (f : Firing) (lim : BitVec 9) : Nat := if lim = 0 then u.spaceSize f else lim.toNat

theorem spaceSize_pos (u : State) (f : Firing) : 0 < u.spaceSize f := by
  unfold State.spaceSize
  split <;> exact Nat.succ_pos _

theorem allocTop_pos (u : State) (f : Firing) (lim : BitVec 9) : 0 < allocTop u f lim := by
  unfold allocTop
  split
  · exact spaceSize_pos u f
  · next hl => exact Nat.pos_of_ne_zero fun h0 => hl (BitVec.eq_of_toNat_eq h0)

/-- An ALLOC whose field fits the nest stack ends by what it finds. -/
theorem alloc_runs {lim : BitVec 9} {r : AllocFound} (hr : Runs s f h [])
    (hd : f.dep + spaceWidth ((s.counted f h.ty).spaceSize f) ≤ 44)
    (hf : (s.counted f h.ty).allocFound f (allocTop (s.counted f h.ty) f lim) = r) :
    exec (.alloc h lim) s = .next (allocEnd (s.counted f h.ty) f h r) := by
  subst hf
  refine firing_acts hr ?_
  simp only [pushField_fits hd]
  unfold allocTop
  cases (s.counted f h.ty).allocFound f (if lim = 0 then (s.counted f h.ty).spaceSize f else lim.toNat) <;> rfl

/-! FREE (R105). -/

/-- An instruction whose act on the counted state is a trap of a cause. -/
theorem firing_traps {sh : Firing → Shape} {act : Firing → State → State} {p : Cause → Prop} {u : State}
    (hr : Runs s f (sh f).h (sh f).clean)
    (ha : ∃ c, p c ∧ act f (s.counted f (sh f).h.ty) = u.trapFiring f c) :
    ∃ c, p c ∧ onFiring s (fun f => s.fired (sh f) f (act f)) = .next (u.trapFiring f c) :=
  ha.imp fun _ hc => ⟨hc.1, firing_acts hr hc.2⟩

/-- FREE with less than a field on the nest stack. -/
theorem free_shallow (hr : Runs s f h []) (hd : f.dep < spaceWidth ((s.counted f h.ty).spaceSize f)) :
    ∃ c : Cause, c.code = tcTagFree ∧ exec (.free h) s = .next ((s.counted f h.ty).trapFiring f c) :=
  firing_traps hr ⟨_, rfl, if_pos hd⟩

section
variable {w : Nat} (hr : Runs s f h []) (hw : spaceWidth ((s.counted f h.ty).spaceSize f) = w) (hd : w ≤ f.dep)
include hr hw hd

/-- FREE without an entry at the parent tag. -/
theorem free_noSpace (hx : (s.counted f h.ty).space? f.site.holder f.site.blk (parentOf f w) (f.dep - w) = none) :
    ∃ c : Cause, c.code = tcTagFree ∧ exec (.free h) s = .next ((s.counted f h.ty).trapFiring f c) := by
  subst hw
  refine firing_traps hr ?_
  simp only [if_neg (Nat.not_lt.2 hd), popField_eq, hx, Option.filter_none]
  exact ⟨_, rfl, rfl⟩

section
variable {x : Space} (hx : (s.counted f h.ty).space? f.site.holder f.site.blk (parentOf f w) (f.dep - w) = some x)
include hx

/-- FREE of an index that is not allocated; an entry without any index counts as none. -/
theorem free_unallocated (hb : x.bits.testBit (indexOf f w) = false) :
    ∃ c : Cause, c.code = tcTagFree ∧ exec (.free h) s = .next ((s.counted f h.ty).trapFiring f c) := by
  subst hw
  refine firing_traps hr ?_
  by_cases h0 : x.bits = 0
  · have hfilter : (some x).filter (fun x => decide (x.bits ≠ 0)) = none := by simp [h0]
    simp only [if_neg (Nat.not_lt.2 hd), popField_eq, hx, hfilter]
    exact ⟨_, rfl, rfl⟩
  · have hfilter : (some x).filter (fun x => decide (x.bits ≠ 0)) = some x := by simp [h0]
    simp only [if_neg (Nat.not_lt.2 hd), popField_eq, hx, hfilter, bitsAt_one_eq_zero, hb, decide_true, Bool.or_true, if_true]
    exact ⟨_, rfl, rfl⟩

/-- FREE of an allocated index releases it at the end of the cycle and sends its token under the parent tag. -/
theorem free_allocated (hi : indexOf f w < (s.counted f h.ty).spaceSize f) (hb : x.bits.testBit (indexOf f w) = true) :
    exec (.free h) s = .next (((s.counted f h.ty).modSpace f.site.holder f.site.blk (parentOf f w) (f.dep - w) fun y =>
      { y with freeing := y.freeing ||| 2 ^ indexOf f w }).emitAll f.site 2 ((f.result h false h.ty (f.data .a)).retag (parentOf f w)
        (f.dep - w)) [h.t0, h.t1]) := by
  subst hw
  refine firing_acts hr ?_
  have h0 : x.bits ≠ 0 := fun h0 => by simp [h0] at hb
  have hfilter : (some x).filter (fun x => decide (x.bits ≠ 0)) = some x := by simp [h0]
  have hlive : (decide ((s.counted f h.ty).spaceSize f ≤ indexOf f (spaceWidth ((s.counted f h.ty).spaceSize f))) ||
      decide (bitsAt x.bits (indexOf f (spaceWidth ((s.counted f h.ty).spaceSize f))) 1 = 0)) = false := by simpa [hb] using hi
  simp only [if_neg (Nat.not_lt.2 hd), popField_eq, hx, hfilter, hlive, Bool.false_eq_true, if_false, Nat.one_shiftLeft]

end
end
end

/-! ENTER, LEAVE, TAGRD and TAGWR (R106, R107). -/

section
variable {s : State} {f : Firing} {h : Hdr}

/-- The index that ENTER pushes (R106). -/
def enterIndex (f : Firing) (idx : BitVec 8) (imm : Bool) : Nat := if imm then idx.toNat else (f.data .b).toNat

/-- The window of a stream holds an ENTER that feeds it back (log 41). -/
def windowHolds (u : State) (f : Firing) (n i : Nat) : Bool :=
  u.feedsStream f.site && u.windowFull f.site f.tag f.dep (spaceWidth (n + 1)) i

section
variable {idx n : BitVec 8} {imm : Bool} (hr : Runs s f h (if imm then [] else [.b]))
include hr

/-- ENTER of an index outside its space. -/
theorem enter_range (hi : n.toNat < enterIndex f idx imm) : exec (.enter h idx imm n) s =
    .next ((s.counted f h.ty).trapFiring f { code := tcTagRange, aux0 := enterIndex f idx imm, aux1 := n.toNat + 1 }) :=
  firing_acts hr (if_pos hi)

variable (hi : enterIndex f idx imm ≤ n.toNat)
include hi

/-- ENTER that the window holds back. -/
theorem enter_held (hwin : windowHolds (s.counted f h.ty) f n.toNat (enterIndex f idx imm) = true) :
    exec (.enter h idx imm n) s = .next { s.counted f h.ty with held := true } :=
  firing_acts hr ((if_neg (Nat.not_le.2 (Nat.lt_succ_of_le hi))).trans (if_pos hwin))

variable (hwin : windowHolds (s.counted f h.ty) f n.toNat (enterIndex f idx imm) = false)
include hwin

/-- ENTER pushes its index as a field of the nest stack. -/
theorem enter_pushes (hd : f.dep + spaceWidth (n.toNat + 1) ≤ 44) : exec (.enter h idx imm n) s =
    .next ((s.counted f h.ty).emitAll f.site 1 ((f.result h false h.ty (f.data .a)).retag
      (withNest f.tag ((tagNest f.tag <<< spaceWidth (n.toNat + 1)) ||| enterIndex f idx imm)) (f.dep + spaceWidth (n.toNat + 1)))
      [h.t0, h.t1]) := by
  refine firing_acts hr ((if_neg (Nat.not_le.2 (Nat.lt_succ_of_le hi))).trans ((if_neg (Bool.eq_false_iff.1 hwin)).trans ?_))
  rw [pushField_fits hd]
  rfl

/-- ENTER of a field that the nest stack has no room for. -/
theorem enter_deep (hd : 44 < f.dep + spaceWidth (n.toNat + 1)) : exec (.enter h idx imm n) s =
    .next ((s.counted f h.ty).trapFiring f { code := tcTagDepth, aux0 := f.dep, aux1 := spaceWidth (n.toNat + 1) }) := by
  refine firing_acts hr ((if_neg (Nat.not_le.2 (Nat.lt_succ_of_le hi))).trans ((if_neg (Bool.eq_false_iff.1 hwin)).trans ?_))
  rw [pushField_deep hd]
  rfl

end

/-- LEAVE pops a field of the nest stack. -/
theorem leave_pops {n : BitVec 8} (hr : Runs s f h []) (hd : spaceWidth (n.toNat + 1) ≤ f.dep) : exec (.leave h n) s =
    .next ((s.counted f h.ty).emitAll f.site 1 ((f.result h false h.ty (f.data .a)).retag (parentOf f (spaceWidth (n.toNat + 1)))
      (f.dep - spaceWidth (n.toNat + 1))) [h.t0, h.t1]) := by
  refine firing_acts hr ((if_neg (Nat.not_lt.2 hd)).trans ?_)
  simp only [popField_eq]

/-- TAGWR rewrites a slice of the nest stack. -/
theorem tagwr_rewrites {wv : BitVec 4} {off : BitVec 6} (hr : Runs s f h [.b]) (hs : off.toNat + wv.toNat + 1 ≤ f.dep) :
    exec (.tagwr h wv off) s = .next ((s.counted f h.ty).emitAll f.site 1 ((f.result h false h.ty (f.data .a)).retag
      (withNest f.tag (tagNest f.tag - bitsAt (tagNest f.tag) off.toNat (wv.toNat + 1) <<< off.toNat +
        ((f.data .b).toNat % 2 ^ (wv.toNat + 1)) <<< off.toNat)) f.dep) [h.t0, h.t1]) :=
  firing_acts hr (if_neg (Nat.not_lt.2 hs))

end

/-- A field of at most 32 bits fits the word that TAGRD sends. -/
theorem toNat_ofNat_bitsAt (x lo : Nat) {n : Nat} (hn : n ≤ 32) : (BitVec.ofNat 32 (bitsAt x lo n)).toNat = x / 2 ^ lo % 2 ^ n := by
  rw [BitVec.toNat_ofNat, bitsAt, Nat.shiftRight_eq_div_pow]
  exact Nat.mod_eq_of_lt (lt_of_lt_of_le (Nat.mod_lt _ (Nat.two_pow_pos n)) (Nat.pow_le_pow_right (by decide) hn))

theorem toNat_ofNat_nestField (t : DWord) {lo n : Nat} (h : lo + n ≤ 44) (hn : n ≤ 32) :
    (BitVec.ofNat 32 (bitsAt (tagNest t) lo n)).toNat = t.toNat / 2 ^ lo % 2 ^ n := by
  rw [toNat_ofNat_bitsAt _ _ hn, ← bitsAt_tagNest t h, bitsAt, Nat.shiftRight_eq_div_pow]

end Sys2Proof.Laws

namespace Sys2Proof.Proofs

open Sys2Proof Sys2Proof.Machine Sys2Proof.Claims Sys2Proof.Laws

/-- R102 to R104, by what ALLOC finds. -/
theorem allocTakesLowest : Claims.AllocTakesLowest := by
  intro s f h lim hr
  refine ⟨fun hd => ⟨fun i hi hfree hlow hroom hturn => ?_, fun hall => ?_, fun hx hc => ?_, fun i hi hb hall => ?_⟩,
    fun g z hz ht => endCycle_keeps hz ht⟩
  · obtain ⟨hrest, hself, hne⟩ := takeIndex_takes (s.counted f h.ty) f i
    have hrun := alloc_runs hr hd (allocFound_index hi hfree hlow hroom hturn)
    exact ⟨_, _, hrest, hself, spaceTaking_bits _, spaceTaking_taking _, rfl, hne, hrun⟩
  · exact alloc_runs hr hd (allocFound_none (allocTop_pos ..) hall)
  · exact alloc_runs hr hd (allocFound_noRoom hx hc)
  · exact alloc_runs hr hd (allocFound_allTaken hi hb hall)

/-- R105, by what FREE finds at the parent tag. -/
theorem freePopsField : Claims.FreePopsField := by
  intro s f h hr
  exact ⟨fun x hd hx hi hb => free_allocated hr rfl hd hx hi hb, fun hd => free_shallow hr hd, fun hd hx => free_noSpace hr rfl hd hx,
    fun x hd hx hb => free_unallocated hr rfl hd hx hb⟩

/-- R106 and R107, instruction by instruction. -/
theorem tagFields : Claims.TagFields := by
  intro s f h idx imm n wv off sel hb u i w a
  have hr := runs_unclean hb
  have he : Runs s f h (if imm then [] else [.b]) := by cases imm <;> assumption
  refine ⟨enter_pushes he, enter_range he, enter_deep he, enter_held he, leave_pops hr, fun hd => firing_acts hr (if_pos hd),
    ⟨_, compute_quiet hr rfl, ?_, ?_, ?_, ?_, ?_, ?_, ?_⟩, fun hs hd => ⟨_, tagwr_rewrites hb hs, fun j hj => ?_⟩,
    fun hs => firing_acts hb (if_pos hs)⟩
  · rintro rfl
    refine (toNat_ofNat_bitsAt f.tag.toNat 61 (n := 3) (by decide)).trans ?_
    have := f.tag.isLt
    omega
  · rintro rfl
    exact toNat_ofNat_bitsAt f.tag.toNat 56 (by decide)
  · rintro rfl
    exact toNat_ofNat_bitsAt f.tag.toNat 44 (by decide)
  · rintro rfl hd
    exact Nat.mod_eq_of_lt (show f.dep < 2 ^ 32 by omega)
  · rintro rfl hs
    exact toNat_ofNat_nestField f.tag (by omega) (by have := wv.isLt; omega)
  · rintro rfl
    exact (toNat_ofNat_nestField f.tag (lo := 0) (n := 32) (by decide) le_rfl).trans (by rw [Nat.pow_zero, Nat.div_one])
  · rintro rfl
    exact toNat_ofNat_nestField f.tag (lo := 32) (n := 12) le_rfl (by decide)
  · rw [getLsbD_replaced (by omega), BitVec.testBit_toNat]
    exact if_congr (by omega) rfl rfl

/-- Settles O5: by what each instruction finds of its space or of the nest stack. -/
theorem tagSpaces : Obligations.TagSpaces := ⟨allocTakesLowest, freePopsField, tagFields⟩

end Sys2Proof.Proofs
end

section
/-! PROOF. Floating-point arithmetic, minimum and maximum, signs and compares (R114 to R117). -/

namespace Sys2Proof.Laws

open Sys2Proof Sys2Proof.Machine Sys2Proof.Claims

/-! Operands. -/

section
variable {f : Firing} {t : Ty}

/-- A lane of a floating-point type is the value of its encoding. -/
theorem valOf_float (ht : t.isFloat = true) (sl : Slot) (k : Nat) : valOf f t sl k = (fmtOf t).value (laneBits (f.data sl) t.width k) :=
  if_pos ht

/-- Its encoding has the width of the format. -/
theorem laneBits_lt_fmt (ht : t.isFloat = true) (x : Word) (k : Nat) : laneBits x t.width k < 2 ^ (fmtOf t).bits :=
  width_fmtOf ht ▸ laneBits_lt x t.width k

end

/-! Results rounded once (R114, R115). -/

section
variable {s : State} {f : Firing} {h : Hdr} {lat : Nat} {rm : Rnd} {sat : Bool}

/-- Lanes of one exact value each, rounded once. -/
theorem sendsRounded {g : Firing → Nat → Val} (hr : Runs s f h []) (ht : h.ty.isFloat = true) :
    SendsWith (floatLanes s h lat rm sat g) s f h lat (fun k => Rounded (fmtOf h.ty) rm sat (g f k)) :=
  sendsWith hr (fun _ => width_fmtOf ht ▸ roundLane_lt ..) (fun _ => rounded_roundLane ..)

/-- The word of one f32 result holds the encoding that it was rounded to. -/
theorem rounded_word (v : Val) :
    Rounded .f32 rm sat v (BitVec.ofNat 32 (roundLane v .f32 rm sat).1).toNat (roundLane v .f32 rm sat).2 := by
  have hlt : (roundLane v .f32 rm sat).1 < 2 ^ 32 := roundLane_lt v .f32 rm sat
  rw [BitVec.toNat_ofNat, Nat.mod_eq_of_lt hlt]
  exact rounded_roundLane ..

end

/-! The order of values. -/

/-- A zero has a sign and an exponent, and no magnitude. -/
theorem isZero_iff {v : Val} : v.isZero = true ↔ ∃ g e, v = .fin g 0 e false := by
  cases v <;> simp [Val.isZero]

theorem lt_eq_false_of_lt {a b : Val} (h : a.lt b = true) : b.lt a = false := by
  cases a with
  | nan => cases h
  | inf g =>
    cases b with
    | nan => rfl
    | inf i => revert h; cases g <;> cases i <;> decide
    | fin i n y j => exact congrArg (!·) h
  | fin g m x k =>
    cases b with
    | nan => rfl
    | inf i => exact Bool.not_eq_true' i ▸ h
    | fin i n y j =>
      simp only [Val.lt, decide_eq_true_eq, decide_eq_false_iff_not] at h ⊢
      have he : (if y ≤ x then y else x) = if x ≤ y then x else y := by split <;> split <;> omega
      rw [he]
      exact Int.not_lt.2 (Int.le_of_lt h)

theorem lt_eq_false_of_zeros {a b : Val} (ha : a.isZero = true) (hb : b.isZero = true) : a.lt b = false := by
  obtain ⟨g, x, rfl⟩ := isZero_iff.1 ha
  obtain ⟨i, y, rfl⟩ := isZero_iff.1 hb
  simp [Val.lt, Val.scaled]

/-! Minimum and maximum (R116). -/

/-- A choice that takes the second operand when the first is below it, or on a condition under which the second is not below the
first, is ordered. -/
theorem choice_ordered {a b : Val} {x y : Nat} {q : Bool} (hq : q = true → b.lt a = false) :
    let r := if a.lt b || q then (y, 0) else (x, 0)
    r.2 = 0 ∧ ((r.1 = x ∧ a.lt b = false) ∨ (r.1 = y ∧ b.lt a = false)) := by
  intro r
  by_cases hc : (a.lt b || q) = true
  · have hr : r = (y, 0) := if_pos hc
    rw [hr]
    exact ⟨rfl, .inr ⟨rfl, ((Bool.or_eq_true ..).mp hc).elim lt_eq_false_of_lt hq⟩⟩
  · have hr : r = (x, 0) := if_neg hc
    rw [hr]
    exact ⟨rfl, .inl ⟨rfl, (Bool.or_eq_false_iff.1 (Bool.eq_false_iff.2 hc)).1⟩⟩

section
variable {fm : Fmt} {x y : Nat}

theorem lesserF_lt (hx : x < 2 ^ fm.bits) (hy : y < 2 ^ fm.bits) : (lesserF fm x y).1 < 2 ^ fm.bits := by
  unfold lesserF
  dsimp only
  split
  · exact canonNaN_lt fm
  · split <;> assumption

theorem greaterF_lt (hx : x < 2 ^ fm.bits) (hy : y < 2 ^ fm.bits) : (greaterF fm x y).1 < 2 ^ fm.bits := by
  unfold greaterF
  dsimp only
  split
  · exact canonNaN_lt fm
  · split <;> assumption

/-- Lesser is one of its operands that is not above the other, beside NaN. -/
theorem lesserF_chooses (fm : Fmt) (x y : Nat) :
    if (fm.value x).isNaN || (fm.value y).isNaN then (lesserF fm x y).1 = fm.canonNaN ∧ (lesserF fm x y).2 = flNV
    else (lesserF fm x y).2 = 0 ∧ (((lesserF fm x y).1 = x ∧ (fm.value y).lt (fm.value x) = false) ∨
      ((lesserF fm x y).1 = y ∧ (fm.value x).lt (fm.value y) = false)) := by
  unfold lesserF
  dsimp only
  split
  · exact ⟨rfl, rfl⟩
  · refine choice_ordered fun hz => ?_
    simp only [Bool.and_eq_true] at hz
    exact lt_eq_false_of_zeros hz.1.1.1 hz.1.1.2

/-- Greater is one of its operands that is not below the other, beside NaN. -/
theorem greaterF_chooses (fm : Fmt) (x y : Nat) :
    if (fm.value x).isNaN || (fm.value y).isNaN then (greaterF fm x y).1 = fm.canonNaN ∧ (greaterF fm x y).2 = flNV
    else (greaterF fm x y).2 = 0 ∧ (((greaterF fm x y).1 = x ∧ (fm.value x).lt (fm.value y) = false) ∨
      ((greaterF fm x y).1 = y ∧ (fm.value y).lt (fm.value x) = false)) := by
  unfold greaterF
  dsimp only
  split
  · exact ⟨rfl, rfl⟩
  · refine choice_ordered fun hz => ?_
    simp only [Bool.and_eq_true] at hz
    exact lt_eq_false_of_zeros hz.1.1.2 hz.1.1.1

end

/-! Signs (R116). -/

section
variable {t : Ty} (ht : t.isFloat = true)
include ht

theorem signLane_lt (x : Nat) (nan neg : Bool) : (signLane t x nan neg).1 < 2 ^ t.width := by
  rw [← width_fmtOf ht]
  unfold signLane
  split
  · exact canonNaN_lt _
  · exact signed_lt _ _ (width_fmtOf ht ▸ Nat.mod_lt _ (Nat.two_pow_pos _))

/-- A sign put on is the top bit. -/
theorem signed_eq (neg : Bool) (x : Nat) : (fmtOf t).signed neg x = x + neg.toNat * 2 ^ (t.width - 1) := by
  rw [Fmt.signed, width_fmtOf ht]
  cases neg <;> simp

variable {x : Nat} (hx : x < 2 ^ t.width) (hn : ((fmtOf t).value x).isNaN = false)
include hx hn

/-- The top bit of an encoding that is no NaN is the sign of its value. -/
theorem top_eq_neg : x / 2 ^ (t.width - 1) = ((fmtOf t).value x).neg.toNat := by
  have hp : 2 ^ t.width = 2 ^ (t.width - 1) * 2 := by cases t <;> rfl
  have htop : bitsAt x (t.width - 1) 1 = x / 2 ^ (t.width - 1) := by
    rw [bitsAt, Nat.shiftRight_eq_div_pow]
    exact Nat.mod_eq_of_lt (Nat.div_lt_of_lt_mul (hp ▸ hx))
  have hneg : ((fmtOf t).value x).neg = decide (bitsAt x (t.width - 1) 1 = 1) := by
    rw [← width_fmtOf ht]
    revert hn
    unfold Fmt.value
    dsimp only
    split_ifs <;> simp [Val.isNaN, Val.neg]
  rw [hneg, ← htop]
  rcases Nat.mod_two_eq_zero_or_one (x >>> (t.width - 1)) with h | h <;> simp [bitsAt, h]

/-- The other sign put on the magnitude of an encoding changes its top bit. -/
theorem signed_not : (fmtOf t).signed (!((fmtOf t).value x).neg) (x % 2 ^ (t.width - 1)) = x ^^^ 2 ^ (t.width - 1) := by
  have hdiv : (x ^^^ 2 ^ (t.width - 1)) / 2 ^ (t.width - 1) = (!((fmtOf t).value x).neg).toNat := by
    rw [Nat.xor_div_two_pow, Nat.div_self (Nat.two_pow_pos _), top_eq_neg ht hx hn]
    cases ((fmtOf t).value x).neg <;> rfl
  have hmod : (x ^^^ 2 ^ (t.width - 1)) % 2 ^ (t.width - 1) = x % 2 ^ (t.width - 1) := by
    rw [Nat.xor_mod_two_pow, Nat.mod_self, Nat.xor_zero]
  rw [signed_eq ht, ← hdiv, ← hmod, Nat.mul_comm, Nat.mod_add_div]

end

/-- A lane whose sign is replaced meets what its bits with that sign meet, beside NaN. -/
theorem signLane_meets {t : Ty} {x : Nat} {nan neg : Bool} {p : Nat → Prop}
    (hp : ((fmtOf t).value x).isNaN = false → nan = false → p ((fmtOf t).signed neg (x % 2 ^ (t.width - 1)))) :
    if ((fmtOf t).value x).isNaN || nan then (signLane t x nan neg).1 = (fmtOf t).canonNaN ∧ (signLane t x nan neg).2 = flNV
    else (signLane t x nan neg).2 = 0 ∧ p (signLane t x nan neg).1 := by
  unfold signLane
  split
  · exact ⟨rfl, rfl⟩
  · next hn =>
    obtain ⟨hx, hnan⟩ := Bool.or_eq_false_iff.1 (Bool.eq_false_iff.2 hn)
    exact ⟨rfl, hp hx hnan⟩

/-! Compares (R117). -/

/-- The flags of a compare: NV in its lane when an operand is NaN. -/
def compareFlags (lane : Nat) (nan : Bool) : List Nat := if nan then (upto lane).map (fun _ => 0) ++ [flNV] else [0]

theorem compareFlags_lane (lane : Nat) (nan : Bool) (k : Nat) :
    (compareFlags lane nan).getD k 0 = if nan ∧ k = lane then flNV else 0 := by
  cases nan with
  | false => cases k <;> simp [compareFlags]
  | true =>
    rcases Nat.lt_trichotomy k lane with hk | rfl | hk
    · simp [compareFlags, List.getElem?_append, hk.ne, hk]
    · simp [compareFlags]
    · simp [compareFlags, hk.ne', List.getElem?_eq_none, Nat.succ_le_of_lt hk]

/-- A compare sends the predicate of its two values, or the answer for unordered ones. -/
theorem compareF_runs {s : State} {f : Firing} {h : Hdr} {lane : BitVec 3} {unord : Bool} {p : Val → Val → Bool} (hr : Runs s f h []) :
    let a := valOf f h.ty .a lane.toNat
    let b := valOf f h.ty .b lane.toNat
    ∃ fl, compareF s h lane unord p = .next (computed s f h 1 .pred (predWord (if a.isNaN || b.isNaN then unord else p a b)) fl) ∧
      ∀ k, fl.getD k 0 = if (a.isNaN || b.isNaN) ∧ k = lane.toNat then flNV else 0 := by
  intro a b
  refine ⟨compareFlags lane.toNat (a.isNaN || b.isNaN), compute_eq hr ?_, compareFlags_lane _ _⟩
  change (if a.isNaN || b.isNaN then _ else _) = _
  unfold compareFlags
  split <;> rfl

end Sys2Proof.Laws

namespace Sys2Proof.Proofs

open Sys2Proof Sys2Proof.Machine Sys2Proof.Claims Sys2Proof.Laws

/-- R114 and R115: every lane is one exact value, rounded once. -/
theorem floatRounded : Claims.FloatRounded := by
  intro s f h sat rm hr ht
  exact ⟨sendsRounded hr ht, sendsRounded hr ht, sendsRounded hr ht, sendsRounded hr ht, sendsRounded hr ht,
    _, _, compute_runs hr, rounded_word _⟩

/-- R116 and R117, instruction by instruction. -/
theorem floatSignAndOrder : Claims.FloatSignAndOrder := by
  intro s f h lane hr ht fm a b x y sg nan cmp
  have ha : ∀ k, a k = fm.value (x k) := valOf_float ht .a
  have hb : ∀ k, b k = fm.value (y k) := valOf_float ht .b
  have hx : ∀ k, x k < 2 ^ fm.bits := laneBits_lt_fmt ht _
  have hy : ∀ k, y k < 2 ^ fm.bits := laneBits_lt_fmt ht _
  refine ⟨?_, ?_, ?_, ?_, ?_, compareF_runs (p := Val.eqv) hr, compareF_runs (p := fun x y => !x.eqv y) hr,
    compareF_runs (p := Val.lt) hr, compareF_runs (p := fun x y => !y.lt x) hr, compareF_runs (p := fun _ _ => false) hr⟩
  · refine sendsWith hr (fun k => width_fmtOf ht ▸ lesserF_lt (hx k) (hy k)) (fun k => ?_)
    rw [ha, hb]
    exact lesserF_chooses fm (x k) (y k)
  · refine sendsWith hr (fun k => width_fmtOf ht ▸ greaterF_lt (hx k) (hy k)) (fun k => ?_)
    rw [ha, hb]
    exact greaterF_chooses fm (x k) (y k)
  · refine sendsWith hr (fun k => signLane_lt ht ..) (fun k => ?_)
    rw [ha, ← Bool.or_false (fm.value (x k)).isNaN]
    exact signLane_meets (p := (· = x k % sg)) fun _ _ => rfl
  · refine sendsWith hr (fun k => signLane_lt ht ..) (fun k => ?_)
    rw [show f.lane h.ty .a k = fm.value (x k) from ha k, ha, ← Bool.or_false (fm.value (x k)).isNaN]
    exact signLane_meets (p := (· = x k ^^^ sg)) fun hn _ => signed_not ht (laneBits_lt ..) hn
  · refine sendsWith hr (fun k => signLane_lt ht ..) (fun k => ?_)
    rw [show f.lane h.ty .b k = fm.value (y k) from hb k, ha, hb]
    refine signLane_meets (p := (· = x k % sg + y k / sg * sg)) fun _ hn => ?_
    rw [signed_eq ht, ← top_eq_neg ht (laneBits_lt ..) hn]

/-- Settles O6: lanes are rounded once, chosen, or given a sign, and compares read one lane. -/
theorem floatArithmetic : Obligations.FloatArithmetic := ⟨floatRounded, floatSignAndOrder⟩

end Sys2Proof.Proofs
end

section
/-! PROOF. The special functions (R129 to R131): what each gives for the inputs of its table. -/

namespace Sys2Proof.Laws

open Sys2Proof Sys2Proof.Machine Sys2Proof.Claims

/-! Inputs of the tables. -/

/-- The inputs below the domain of the square root and the logarithm, NaN among them. -/
def BelowDomain (v : Val) : Prop := v = .nan ∨ v = .inf true ∨ ∃ m e, v = .fin true m e false ∧ m ≠ 0

/-- The inputs of which no fraction can be taken. -/
def NonFinite (v : Val) : Prop := v = .nan ∨ ∃ g, v = .inf g

/-- A zero is that of its sign, at some exponent. -/
theorem eq_of_isZero {v : Val} (hv : v.isZero = true) : ∃ e, v = .fin v.neg 0 e false := by
  obtain ⟨g, e, rfl⟩ := isZero_iff.1 hv
  exact ⟨e, rfl⟩

@[simp] theorem fracFix_zero (g : Bool) (e : Int) : fracFix g 0 e = 0 := by simp [fracFix]

/-! The functions of positive values (R131): FLOG2, FRSQ and FSQRT. -/

/-- A function that is invalid below zero, with its results for infinity and for a zero of either sign. -/
def onPositive (top : Nat × Nat) (zero : Bool → Nat × Nat) (g : Nat → Int → Nat × Nat) : Val → Nat × Nat
  | .nan => (Fmt.f32.canonNaN, flNV)
  | .inf s => if s then (Fmt.f32.canonNaN, flNV) else top
  | .fin s m e _ => if m = 0 then zero s else if s then (Fmt.f32.canonNaN, flNV) else g m e

section
variable {v : Val} {top : Nat × Nat} {zero : Bool → Nat × Nat} {g : Nat → Int → Nat × Nat}

theorem onPositive_belowDomain (hv : BelowDomain v) : onPositive top zero g v = (Fmt.f32.canonNaN, flNV) := by
  rcases hv with rfl | rfl | ⟨m, e, rfl, hm⟩
  · rfl
  · rfl
  · simp only [onPositive, if_neg hm, if_true]

theorem onPositive_infinity (hv : v = .inf false) : onPositive top zero g v = top := by rw [hv]; rfl

theorem onPositive_zero (hv : v.isZero = true) : onPositive top zero g v = zero v.neg := by
  obtain ⟨e, hv⟩ := eq_of_isZero hv
  rw [hv]
  rfl

end

theorem flog2_eq (x c : Nat) : flog2 x c =
    onPositive (Fmt.f32.infBits false, 0) (fun _ => (Fmt.f32.infBits true, flDZ)) (fun m e => bracketed (log2Val m e) c)
      (Fmt.f32.value x) := rfl

theorem frsq_eq (x c : Nat) : frsq x c =
    onPositive (0, 0) (fun s => (Fmt.f32.infBits s, flDZ)) (fun m e => bracketed (rsqrtVal m e) c) (Fmt.f32.value x) := rfl

theorem fsqrt_eq (x : Nat) (rm : Rnd) : fsqrt x rm =
    onPositive (Fmt.f32.infBits false, 0) (fun s => (Fmt.f32.zeroBits s, 0)) (fun m e => roundToFormat (sqrtVal m e) .f32 rm false)
      (Fmt.f32.value x) := rfl

/-! The other functions (R131). -/

section
variable {x c : Nat} {g : Bool}

theorem fexp2f_nan (hx : Fmt.f32.value x = .nan) : fexp2f x c = (Fmt.f32.canonNaN, flNV) := by simp only [fexp2f, hx]

theorem fexp2f_one (hx : (∃ g, Fmt.f32.value x = .inf g) ∨ (Fmt.f32.value x).isZero = true) : fexp2f x c = (0x3F800000, 0) := by
  rcases hx with ⟨g, hx⟩ | hx
  · simp only [fexp2f, hx]
  · obtain ⟨e, hx⟩ := eq_of_isZero hx
    rw [fexp2f, hx]
    exact if_pos (fracFix_zero ..)

theorem frcp_nan (hx : Fmt.f32.value x = .nan) : frcp x c = (Fmt.f32.canonNaN, flNV) := by simp only [frcp, hx]

theorem frcp_infinity (hx : Fmt.f32.value x = .inf g) : frcp x c = (Fmt.f32.zeroBits g, 0) := by simp only [frcp, hx]

theorem frcp_zero (hx : (Fmt.f32.value x).isZero = true) : frcp x c = (Fmt.f32.infBits (Fmt.f32.value x).neg, flDZ) := by
  obtain ⟨e, hx⟩ := eq_of_isZero hx
  rw [frcp, hx]
  rfl

theorem fsin2_nonFinite (hx : NonFinite (Fmt.f32.value x)) : fsin2 x c = (Fmt.f32.canonNaN, flNV) := by
  rcases hx with hx | ⟨g, hx⟩ <;> simp only [fsin2, hx]

theorem fsin2_zero (hx : (Fmt.f32.value x).isZero = true) : fsin2 x c = (Fmt.f32.zeroBits (Fmt.f32.value x).neg, 0) := by
  obtain ⟨e, hx⟩ := eq_of_isZero hx
  rw [fsin2, hx]
  rfl

theorem fcos2_nonFinite (hx : NonFinite (Fmt.f32.value x)) : fcos2 x c = (Fmt.f32.canonNaN, flNV) := by
  rcases hx with hx | ⟨g, hx⟩ <;> simp only [fcos2, hx]

theorem fcos2_zero (hx : (Fmt.f32.value x).isZero = true) : fcos2 x c = (0x3F800000, 0) := by
  obtain ⟨e, hx⟩ := eq_of_isZero hx
  rw [fcos2, hx]
  rfl

end

/-! The words that are sent. -/

theorem ofNat_infBits (g : Bool) : BitVec.ofNat 32 (Fmt.f32.infBits g) = if g then 0xFF800000 else 0x7F800000 := by
  cases g <;> rfl

theorem ofNat_zeroBits (g : Bool) : BitVec.ofNat 32 (Fmt.f32.zeroBits g) = if g then 0x80000000 else 0 := by cases g <;> rfl

/-- A result with its flags, as the word that holds it. -/
theorem word_of {r : Nat × Nat} {b fl : Nat} {w : Word} (hr : r = (b, fl)) (hw : BitVec.ofNat 32 b = w) :
    BitVec.ofNat 32 r.1 = w ∧ r.2 = fl := by
  subst hr
  exact ⟨hw, rfl⟩

/-- The operand of a special function. -/
theorem valOf_word (f : Firing) : valOf f .f32 .a 0 = Fmt.f32.value (f.data .a).toNat :=
  congrArg Fmt.f32.value (laneBits_word (f.data .a))

/-- A special function that executes sends its result and raises its flags, whatever the device chooses. -/
theorem special_sends {s : State} {f : Firing} {h : Hdr} {lat : Nat} {g : Nat → Nat → Nat × Nat} {p : Word → Nat → Prop}
    (hr : Runs s f h []) (hp : ∀ c, p (BitVec.ofNat 32 (g (f.data .a).toNat c).1) (g (f.data .a).toNat c).2) :
    ∃ w fl, p w fl ∧ special s h lat g =
      .next ((((s.counted f h.ty).chose).raiseFlags f.k 0 fl).emitAll f.site lat (f.result h false h.ty w) [h.t0, h.t1]) :=
  ⟨_, _, hp (s.counted f h.ty).choice, firing_acts hr rfl⟩

end Sys2Proof.Laws

namespace Sys2Proof.Proofs

open Sys2Proof Sys2Proof.Machine Sys2Proof.Claims Sys2Proof.Laws

/-- Settles O8: by the table of each function, whatever the device chooses elsewhere. -/
theorem specialFunctions : Obligations.SpecialFunctions := by
  intro s f h rm hr
  rw [valOf_word f]
  intro x sends nan zero below
  refine ⟨?_, ?_, ?_, ?_, ?_, ?_, _, _, compute_runs hr, ?_⟩
  · exact special_sends hr fun c => ⟨fun hx => word_of (fexp2f_nan hx) rfl, fun hx => word_of (fexp2f_one hx) rfl⟩
  · refine special_sends hr fun c => ?_
    rw [flog2_eq]
    exact ⟨fun hx => word_of (onPositive_belowDomain hx) rfl, fun hx => word_of (onPositive_infinity hx) rfl,
      fun hx => word_of (onPositive_zero hx) rfl⟩
  · exact special_sends hr fun c => ⟨fun hx => word_of (frcp_nan hx) rfl, fun hx => word_of (frcp_infinity hx) rfl,
      fun hx => word_of (frcp_infinity hx) rfl, fun hx => word_of (frcp_zero hx) (ofNat_infBits _)⟩
  · refine special_sends hr fun c => ?_
    rw [frsq_eq]
    exact ⟨fun hx => word_of (onPositive_belowDomain hx) rfl, fun hx => word_of (onPositive_infinity hx) rfl,
      fun hx => word_of (onPositive_zero hx) (ofNat_infBits _)⟩
  · exact special_sends hr fun c => ⟨fun hx => word_of (fsin2_nonFinite hx) rfl,
      fun hx => word_of (fsin2_zero hx) (ofNat_zeroBits _)⟩
  · exact special_sends hr fun c => ⟨fun hx => word_of (fcos2_nonFinite hx) rfl, fun hx => word_of (fcos2_zero hx) rfl⟩
  · rw [fsqrt_eq]
    exact ⟨fun hx => word_of (onPositive_belowDomain hx) rfl, fun hx => word_of (onPositive_infinity hx) rfl,
      fun hx => word_of (onPositive_zero hx) (ofNat_zeroBits _)⟩

end Sys2Proof.Proofs
end

section
/-! PROOF. Flat loads and stores (R135, R139 to R141, R150): the pieces of an access, and what each instruction issues or raises. -/

namespace Sys2Proof.Laws

open Sys2Proof Sys2Proof.Machine Sys2Proof.Claims

/-! Pieces (R139). -/

/-- A piece is naturally aligned and no larger than what is left. -/
theorem pieceSize_fits {a r : Nat} (hr : r ≠ 0) :
    (pieceSize a r = 1 ∨ pieceSize a r = 2 ∨ pieceSize a r = 4 ∨ pieceSize a r = 8) ∧ a % pieceSize a r = 0 ∧ pieceSize a r ≤ r := by
  unfold pieceSize
  split
  · next h => simp_all
  · split
    · next h => simp_all
    · split
      · next h => simp_all
      · exact ⟨.inl rfl, Nat.mod_one a, by omega⟩

theorem pieceSize_pos {a r : Nat} (hr : r ≠ 0) : 0 < pieceSize a r := by
  obtain ⟨h, -, -⟩ := pieceSize_fits (a := a) hr
  omega

theorem split_zero (n a d : Nat) : split n a 0 d = [] := by cases n <;> rfl

theorem split_succ {n a r d : Nat} (hr : r ≠ 0) : split (n + 1) a r d =
    { addr := a, size := pieceSize a r, mask := 2 ^ (8 * pieceSize a r) - 1, data := d % 2 ^ (8 * pieceSize a r) } ::
      split n (a + pieceSize a r) (r - pieceSize a r) (d >>> (8 * pieceSize a r)) := by
  rw [split, if_neg hr]

/-- A property of all pieces of an access: the first one has it, and the rest have it of what is left. -/
theorem split_forall {P : Nat → Nat → Nat → Piece → Prop}
    (first : ∀ a r d, r ≠ 0 → P a r d
      { addr := a, size := pieceSize a r, mask := 2 ^ (8 * pieceSize a r) - 1, data := d % 2 ^ (8 * pieceSize a r) })
    (rest : ∀ a r d p, r ≠ 0 → P (a + pieceSize a r) (r - pieceSize a r) (d >>> (8 * pieceSize a r)) p → P a r d p) :
    ∀ n a r d, ∀ p ∈ split n a r d, P a r d p := by
  intro n
  induction n with
  | zero => intro a r d p hp; cases hp
  | succ n ih =>
    intro a r d p hp
    by_cases hr : r = 0
    · rw [hr, split_zero] at hp; cases hp
    · rw [split_succ hr] at hp
      rcases List.mem_cons.1 hp with rfl | hp
      · exact first a r d hr
      · exact rest a r d p hr (ih _ _ _ p hp)

theorem split_aligned (n a r d : Nat) : ∀ p ∈ split n a r d,
    (p.size = 1 ∨ p.size = 2 ∨ p.size = 4 ∨ p.size = 8) ∧ p.addr % p.size = 0 ∧ p.mask = 2 ^ (8 * p.size) - 1 :=
  split_forall (P := fun _ _ _ p =>
      (p.size = 1 ∨ p.size = 2 ∨ p.size = 4 ∨ p.size = 8) ∧ p.addr % p.size = 0 ∧ p.mask = 2 ^ (8 * p.size) - 1)
    (fun a r _ hr => by
      obtain ⟨hz, ha, -⟩ := pieceSize_fits (a := a) hr
      exact ⟨hz, ha, rfl⟩)
    (fun _ _ _ _ _ h => h) n a r d

theorem split_addr_ge (n a r d : Nat) : ∀ p ∈ split n a r d, a ≤ p.addr :=
  split_forall (P := fun a _ _ p => a ≤ p.addr) (fun a _ _ _ => Nat.le_refl a) (fun _ _ _ _ _ h => by omega) n a r d

/-- A piece carries the bytes of the access at its own distance from its start. -/
theorem split_data (n a r d : Nat) : ∀ p ∈ split n a r d, p.data = d / 2 ^ (8 * (p.addr - a)) % 2 ^ (8 * p.size) := by
  intro p hp
  refine (split_forall (P := fun a _ d p => a ≤ p.addr ∧ p.data = d / 2 ^ (8 * (p.addr - a)) % 2 ^ (8 * p.size))
    (fun a r d _ => ⟨Nat.le_refl a, by simp⟩) (fun a r d p _ h => ?_) n a r d p hp).2
  obtain ⟨hge, hdata⟩ := h
  refine ⟨by omega, ?_⟩
  rw [hdata, Nat.shiftRight_eq_div_pow, Nat.div_div_eq_div_mul, ← Nat.pow_add, ← Nat.mul_add,
    show pieceSize a r + (p.addr - (a + pieceSize a r)) = p.addr - a by omega]

/-- The pieces rise without an overlap. -/
theorem split_ascending (n a r d : Nat) : (split n a r d).Pairwise fun p q : Piece => p.addr + p.size ≤ q.addr := by
  induction n generalizing a r d with
  | zero => exact List.Pairwise.nil
  | succ n ih =>
    by_cases hr : r = 0
    · rw [hr, split_zero]; exact List.Pairwise.nil
    · rw [split_succ hr]
      exact List.pairwise_cons.2 ⟨fun q hq => split_addr_ge _ _ _ _ q hq, ih _ _ _⟩

/-- The pieces hold the bytes of the access and no other. -/
theorem split_covers {n r : Nat} (hn : r ≤ n) (a d x : Nat) :
    (a ≤ x ∧ x < a + r) ↔ ∃ p ∈ split n a r d, p.addr ≤ x ∧ x < p.addr + p.size := by
  induction n generalizing a r d with
  | zero =>
    obtain rfl : r = 0 := Nat.le_zero.1 hn
    simp [split_zero]
  | succ n ih =>
    by_cases hr : r = 0
    · subst hr
      simp [split_zero]
    · obtain ⟨-, -, hle⟩ := pieceSize_fits (a := a) hr
      have hpos := pieceSize_pos (a := a) hr
      rw [split_succ hr, List.exists_mem_cons_iff, ← ih (by omega)]
      dsimp only
      omega

/-! Addresses that trap (R135, R151, R152). -/

variable {s : State} {f : Firing} {h : Hdr} {b : BitVec 4} {d : BitVec 9} {kind : AccKind} {n : Nat} {act : Nat → State}

theorem withFlat_poison (ha : poisonIn f .a = true) : s.withFlat f b d kind n act = s.poisonTrap f .a :=
  if_pos ha

theorem withFlat_clean (ha : poisonIn f .a = false) : s.withFlat f b d kind n act = s.withVa f (flatVa s f b d) kind n act :=
  if_neg (Bool.eq_false_iff.1 ha)

/-- An address of more than 60 bits is not canonical. -/
theorem withVa_nonCanonical {va : Nat} (hv : 2 ^ 60 ≤ va) : s.withVa f va kind n act =
    s.trapFiring f { code := tcPage, cause := 2, aux0 := va, aux1 := s.asid f.k, aux2 := n * 256 + kind.code } := by
  rw [State.withVa, show windowOf va = .bad from if_pos hv]
  rfl

theorem windowOf_ne_bad {va : Nat} (hv : va < 2 ^ 60) : windowOf va ≠ .bad := by
  unfold windowOf
  rw [if_neg (by omega)]
  split
  · simp
  · split <;> simp

/-- A window address outside the allocation has no place. -/
theorem withVa_outside {va : Nat} (hv : va < 2 ^ 60) (hw : windowOf va ≠ .paged) (hn : (s.windowPlace f.k va).isNone = true) :
    s.withVa f va kind n act = s.trapFiring f { code := tcPerm, cause := 4, aux0 := va, aux1 := kind.code } := by
  have hs : (s.windowPlace f.k va).isSome = false := by simpa using hn
  unfold State.withVa
  cases hc : windowOf va with
  | bad => exact absurd hc (windowOf_ne_bad hv)
  | paged => exact absurd hc hw
  | scratch sa => exact if_neg (by simp [hs])
  | weight barn off => exact if_pos hn

/-- The traps of a flat access, whatever it goes on to do at an address that passes. -/
theorem flat_traps {i : Instr} {o : State} (hi : exec i o = .next (s.withFlat f b d kind n act)) :
    (poisonIn f .a = true → exec i o = .next (s.poisonTrap f .a)) ∧
    (poisonIn f .a = false → 2 ^ 60 ≤ flatVa s f b d → exec i o = .next (s.trapFiring f
      { code := tcPage, cause := 2, aux0 := flatVa s f b d, aux1 := s.asid f.k, aux2 := n * 256 + kind.code })) ∧
    (poisonIn f .a = false → flatVa s f b d < 2 ^ 60 → windowOf (flatVa s f b d) ≠ .paged →
      (s.windowPlace f.k (flatVa s f b d)).isNone = true →
      exec i o = .next (s.trapFiring f { code := tcPerm, cause := 4, aux0 := flatVa s f b d, aux1 := kind.code })) := by
  rw [hi]
  refine ⟨fun ha => ?_, fun ha hv => ?_, fun ha hv hw hn => ?_⟩
  · rw [withFlat_poison ha]
  · rw [withFlat_clean ha, withVa_nonCanonical hv]
  · rw [withFlat_clean ha, withVa_outside hv hw hn]

/-! Loads, stores and PREFETCH (R140, R141). -/

variable {sc : Scope} {q : Bool} {t2 : Option Target}

theorem flatLoad_runs (hr : Runs s f h []) : flatLoad s h sc q t2 b d n =
    .next ((s.counted f h.ty).withFlat f b d .read n fun va =>
      issued (s.counted f h.ty) { f.access .read h.ty sc with acq := q, pieces := pieces va n 0 }) :=
  firing_acts hr rfl

theorem flatStore_runs (hr : Runs s f h []) : flatStore s h sc q t2 b d n =
    .next ((s.counted f h.ty).withFlat f b d .write n fun va => (s.counted f h.ty).store f
      { f.access .write h.ty sc with rel := q, poi := poisonIn f .b, pieces := pieces va n ((f.data .b).toNat % 2 ^ (8 * n)) }
      [h.t0, h.t1, t2] (f.orderOut h true)) :=
  firing_acts hr rfl

theorem stp_runs (hr : Runs s f h []) : exec (.stp h sc q t2 b d) s =
    .next ((s.counted f h.ty).withFlat f b d .write 8 fun va => (s.counted f h.ty).store f
      { f.access .write h.ty sc with
        rel := q, poi := poisonIn f .b || poisonIn f .c,
        pieces := pieces va 4 (f.data .b).toNat ++ pieces (va + 4) 4 (f.data .c).toNat } [h.t0, h.t1, t2] (f.orderOut h false)) :=
  firing_acts hr rfl

theorem prefetch_runs (hr : Runs s f h []) : exec (.prefetch h sc t2 b d) s = .next (if poisonIn f .a
    then (s.counted f h.ty).poisonTrap f .a
    else issued (s.counted f h.ty) { f.access .prefetch h.ty sc with
      pieces := [{ addr := flatVa (s.counted f h.ty) f b d, size := 1, mask := 0xFF, data := 0 }] }) :=
  firing_acts hr rfl

/-- A load at an allowed address issues its pieces. -/
theorem flatLoad_issues (hr : Runs s f h []) (ha : poisonIn f .a = false)
    (hv : Allowed (s.counted f h.ty) f false (flatVa (s.counted f h.ty) f b d)) :
    flatLoad s h sc q t2 b d n = .next (issued (s.counted f h.ty)
      { f.access .read h.ty sc with acq := q, pieces := pieces (flatVa (s.counted f h.ty) f b d) n 0 }) := by
  rw [flatLoad_runs hr, flat_ok ha hv]

/-- A store at an allowed address stores its pieces. -/
theorem flatStore_stores (hr : Runs s f h []) (ha : poisonIn f .a = false)
    (hv : Allowed (s.counted f h.ty) f false (flatVa (s.counted f h.ty) f b d)) :
    Stored (flatStore s h sc q t2 b d n) (s.counted f h.ty) f h t2 true { f.access .write h.ty sc with
      rel := q, poi := poisonIn f .b,
      pieces := pieces (flatVa (s.counted f h.ty) f b d) n ((f.data .b).toNat % 2 ^ (8 * n)) } := by
  rw [flatStore_runs hr, flat_ok ha hv]
  exact stored_ok

end Sys2Proof.Laws

namespace Sys2Proof.Proofs

open Sys2Proof Sys2Proof.Machine Sys2Proof.Claims Sys2Proof.Laws

/-- Each instruction checks its address, then issues what R140 and R141 name. -/
theorem flatAccesses : Claims.FlatAccesses := by
  intro s f h sc q t2 bsel disp hr
  refine ⟨fun ha hv => ⟨flatLoad_issues hr ha hv, flatLoad_issues hr ha hv, flatLoad_issues hr ha hv, flatLoad_issues hr ha hv,
    flatStore_stores hr ha hv, flatStore_stores hr ha hv, flatStore_stores hr ha hv, ?_⟩, fun ha => ?_, fun ha => ?_, ?_⟩
  · rw [stp_runs hr, flat_ok ha hv]
    exact stored_ok
  · rw [prefetch_runs hr, ha, if_neg Bool.false_ne_true]
  · rw [prefetch_runs hr, ha, if_pos rfl]
  · intro x hx
    simp only [List.mem_cons, List.not_mem_nil, or_false] at hx
    rcases hx with rfl | rfl | rfl | rfl | rfl | rfl | rfl | rfl
    · exact flat_traps (kind := .read) (flatLoad_runs hr)
    · exact flat_traps (kind := .read) (flatLoad_runs hr)
    · exact flat_traps (kind := .read) (flatLoad_runs hr)
    · exact flat_traps (kind := .read) (flatLoad_runs hr)
    · exact flat_traps (kind := .write) (flatStore_runs hr)
    · exact flat_traps (kind := .write) (flatStore_runs hr)
    · exact flat_traps (kind := .write) (flatStore_runs hr)
    · exact flat_traps (kind := .write) (stp_runs hr)

/-- The pieces of R139 are those that `split` cuts, with fuel for every byte. -/
theorem piecesCoverAccess : Claims.PiecesCoverAccess :=
  fun a r d _ _ => ⟨split_aligned r a r d, split_covers (Nat.le_refl r) a d, split_ascending r a r d, split_data r a r d⟩

/-- Settles O10: an instruction whose address passes its checks issues its pieces, and `split` cuts them one by one. -/
theorem flatMemory : Obligations.FlatMemory :=
  ⟨flatAccesses, piecesCoverAccess⟩

end Sys2Proof.Proofs
end

section
/-! PROOF. Scratchpad accesses and presence operations (R136, R142, R143), atomics and FENCE (R145 to R148): what each instruction
issues or raises. -/

namespace Sys2Proof.Laws

open Sys2Proof Sys2Proof.Machine Sys2Proof.Claims

variable {s : State} {f : Firing} {h : Hdr} {sc : Scope} {t2 : Option Target} {n : Nat}

/-! Scratch addresses (R136). -/

section
variable {disp : BitVec 13} {code sa : Nat} {act : Nat → State} {o : Host.Outcome State Fault Refusal}

/-- The traps of a scratchpad instruction whose address is in range, whatever it goes on to do. -/
theorem scratch_traps (ha : poisonIn f .a = false) (hlow : (f.data .a).toNat < 2 ^ 28)
    (hsa : ((f.data .a).toNat : Int) + disp.toInt = sa) (hhigh : sa < 2 ^ 28) (ho : o = .next (s.withScratch f disp n code act)) :
    (sa % n ≠ 0 → o = .next (s.trapFiring f { code := tcAlign, aux0 := sa, aux1 := n })) ∧
    (sa % n = 0 → (s.scratchPlace f.k sa).isNone = true →
      o = .next (s.trapFiring f { code := tcPerm, cause := 4, aux0 := sa, aux1 := code })) := by
  have hclean : ¬ (f.a.map Tok.poi).getD false = true := Bool.eq_false_iff.1 ha
  rw [ho, State.withScratch, if_neg hclean, scratchAddr_ok hlow hsa hhigh]
  refine ⟨fun hn => congrArg _ (if_pos hn), fun hn hp => ?_⟩
  dsimp only
  rw [if_neg (not_not.2 hn), if_pos hp]
  rfl

/-! Scratchpad instructions (R143). -/

variable {nb clr wf once acq rel poi oi : Bool} {kind : AccKind} {v : Nat}

theorem scratchLoad_runs (hr : Runs s f h []) : scratchLoad s h sc nb clr wf t2 disp n =
    .next ((s.counted f h.ty).withScratch f disp n 0 fun sa => issued (s.counted f h.ty) { f.access .read h.ty sc with
      area := .scratch, acq := wf, wf := wf, clr := clr, nb := nb,
      pieces := [{ addr := sa, size := n, mask := 2 ^ (8 * n) - 1, data := 0 }] }) :=
  firing_acts hr rfl

/-- The pieces of a scratchpad store of `n` bytes (R139, R143). -/
def scratchPieces (once : Bool) (n v sa : Nat) : List Piece :=
  if once || n = 4 then [{ addr := sa, size := n, mask := 2 ^ (8 * n) - 1, data := v }]
  else [{ addr := sa, size := 4, mask := 2 ^ 32 - 1, data := v % 2 ^ 32 }, { addr := sa + 4, size := 4, mask := 2 ^ 32 - 1, data := v >>> 32 }]

theorem scratchPieces_word (once : Bool) (v sa : Nat) :
    scratchPieces once 4 v sa = [{ addr := sa, size := 4, mask := 2 ^ 32 - 1, data := v }] := by
  cases once <;> rfl

/-- Two words are one event with `.once`, and one event each without. -/
theorem scratchPieces_pair (once : Bool) (x y : Word) (sa : Nat) : scratchPieces once 8 (x.toNat + y.toNat * 2 ^ 32) sa =
    if once then [{ addr := sa, size := 8, mask := 2 ^ 64 - 1, data := x.toNat + y.toNat * 2 ^ 32 }]
    else [{ addr := sa, size := 4, mask := 2 ^ 32 - 1, data := x.toNat }, { addr := sa + 4, size := 4, mask := 2 ^ 32 - 1, data := y.toNat }] := by
  have hlow : (x.toNat + y.toNat * 2 ^ 32) % 2 ^ 32 = x.toNat := by
    rw [Nat.add_mul_mod_self_right, Nat.mod_eq_of_lt x.isLt]
  have hhigh : (x.toNat + y.toNat * 2 ^ 32) >>> 32 = y.toNat := by
    rw [Nat.shiftRight_eq_div_pow, Nat.add_mul_div_right _ _ (by decide), Nat.div_eq_of_lt x.isLt, Nat.zero_add]
  rw [scratchPieces, hlow, hhigh]
  cases once <;> rfl

theorem scratchStore_runs (hr : Runs s f h []) : scratchStore s h sc once t2 disp n v poi oi f =
    (s.counted f h.ty).withScratch f disp n 1 fun sa => (s.counted f h.ty).store f { f.access .write h.ty sc with
      area := .scratch, rel := once, once := once, poi := poi, pieces := scratchPieces once n v sa }
      [h.t0, h.t1, t2] (f.orderOut h oi) :=
  fired_runs hr

theorem sts_runs (hr : Runs s f h []) : exec (.sts h sc once t2 disp) s =
    .next (scratchStore s h sc once t2 disp 4 (f.data .b).toNat (poisonIn f .b) true f) :=
  onFiring_runs hr

theorem stsp_runs (hr : Runs s f h []) : exec (.stsp h sc once t2 disp) s =
    .next (scratchStore s h sc once t2 disp 8 ((f.data .b).toNat + (f.data .c).toNat * 2 ^ 32) (poisonIn f .b || poisonIn f .c)
      false f) :=
  onFiring_runs hr

theorem presenceOp_runs (hr : Runs s f h []) : presenceOp s h sc acq rel t2 disp kind =
    .next ((s.counted f h.ty).withScratch f disp 1 kind.code fun sa => issued (s.counted f h.ty) { f.access kind h.ty sc with
      area := .scratch, acq := acq, rel := rel, pieces := [{ addr := sa, size := 1, mask := 0, data := 0 }] }) :=
  firing_acts hr rfl

theorem presenceOp_issues (hr : Runs s f h []) (ha : poisonIn f .a = false) (hs : ScratchAt (s.counted f h.ty) f disp 1 sa) :
    presenceOp s h sc acq rel t2 disp kind = .next (issued (s.counted f h.ty) { f.access kind h.ty sc with
      area := .scratch, acq := acq, rel := rel, pieces := [{ addr := sa, size := 1, mask := 0, data := 0 }] }) := by
  rw [presenceOp_runs hr, scratch_ok ha hs]

/-- A store at a scratch address of its allocation stores its pieces. -/
theorem scratchStore_stores (hr : Runs s f h []) (ha : poisonIn f .a = false) (hs : ScratchAt (s.counted f h.ty) f disp n sa) :
    Stored (.next (scratchStore s h sc once t2 disp n v poi oi f)) (s.counted f h.ty) f h t2 oi { f.access .write h.ty sc with
      area := .scratch, rel := once, once := once, poi := poi, pieces := scratchPieces once n v sa } := by
  rw [scratchStore_runs hr, scratch_ok ha hs]
  exact stored_ok

end

/-! Atomics (R145, R146). -/

section
variable {acq rel oi : Bool} {b : BitVec 4} {d : BitVec 9} {op : AtOp} {opnd cmp : Firing → Nat} {checked : List Slot}

/-- With an aligned address and clean operands an atomic issues its one access. -/
theorem atomicAccess_issues (hr : Runs s f h []) (ha : poisonIn f .a = false)
    (hv : Allowed (s.counted f h.ty) f true (flatVa (s.counted f h.ty) f b d)) (hal : flatVa (s.counted f h.ty) f b d % n = 0)
    (hc : ∀ sl ∈ checked, poisonIn f sl = false) :
    atomicAccess s h sc acq rel t2 b d op n oi opnd cmp checked = .next (issued (s.counted f h.ty)
      { f.access (.atomic op h.ty) h.ty sc with
        acq := acq, rel := rel, opnd := opnd f, cmp := cmp f,
        pieces := [{ addr := flatVa (s.counted f h.ty) f b d, size := n, mask := 2 ^ (8 * n) - 1, data := 0 }] }) := by
  refine firing_acts hr ?_
  have hnone : (checked.find? fun sl => ((f.tok? sl).map Tok.poi).getD false) = none :=
    List.find?_eq_none.2 fun sl hsl => Bool.eq_false_iff.1 (hc sl hsl)
  refine (flat_ok ha hv).trans ((if_neg (not_not.2 hal)).trans ?_)
  rw [hnone]
  rfl

/-- The traps of an atomic that checks slot b first. -/
theorem atomicAccess_traps (hr : Runs s f h []) (ha : poisonIn f .a = false)
    (hv : Allowed (s.counted f h.ty) f true (flatVa (s.counted f h.ty) f b d)) :
    let o := atomicAccess s h sc acq rel t2 b d op n oi opnd cmp (.b :: checked)
    (flatVa (s.counted f h.ty) f b d % n ≠ 0 →
      o = .next ((s.counted f h.ty).trapFiring f { code := tcAlign, aux0 := flatVa (s.counted f h.ty) f b d, aux1 := n })) ∧
    (poisonIn f .b = true → flatVa (s.counted f h.ty) f b d % n = 0 → o = .next ((s.counted f h.ty).poisonTrap f .b)) := by
  refine ⟨fun hn => firing_acts hr ((flat_ok ha hv).trans (if_pos hn)), fun hb hn => firing_acts hr ?_⟩
  refine (flat_ok ha hv).trans ((if_neg (not_not.2 hn)).trans ?_)
  have hfirst : ((Slot.b :: checked).find? fun sl => ((f.tok? sl).map Tok.poi).getD false) = some .b := List.find?_cons_of_pos hb
  rw [hfirst]
  rfl

/-- ATCAS64 reads the granule that slot b names before it performs its atomic. -/
theorem atcas64_issues (hr : Runs s f h []) (ha : poisonIn f .a = false) (hb : poisonIn f .b = false)
    (hv : Allowed (s.counted f h.ty) f true (flatVa (s.counted f h.ty) f b d)) (hal : flatVa (s.counted f h.ty) f b d % 8 = 0)
    (hx : (f.data .b).toNat < 2 ^ 28) (hg : (f.data .b).toNat % 16 = 0)
    (hp : ((s.counted f h.ty).scratchPlace f.k (f.data .b).toNat).isSome = true) :
    exec (.atcas64 h sc acq rel t2 b d) s = .next (issued (s.counted f h.ty) { f.access (.atomic .cas h.ty) h.ty sc with
      acq := acq, rel := rel,
      pieces := [{ addr := 0xFFFFF0000000000 + (f.data .b).toNat, size := 16, mask := 0, data := 0 },
        { addr := flatVa (s.counted f h.ty) f b d, size := 8, mask := 2 ^ 64 - 1, data := 0 }] }) := by
  have hclean : ¬ (f.b.map Tok.poi).getD false = true := Bool.eq_false_iff.1 hb
  have hsa : scratchAddr (f.data .b) 0 = some (f.data .b).toNat := scratchAddr_ok (disp := 0) hx (by simp) hx
  have hnn : ¬ ((s.counted f h.ty).scratchPlace f.k (f.data .b).toNat).isNone = true := by simpa [Option.isSome_iff_ne_none] using hp
  refine firing_acts hr ((flat_ok ha hv).trans ((if_neg (not_not.2 hal)).trans ((if_neg hclean).trans ?_)))
  rw [hsa]
  exact (if_neg (not_not.2 hg)).trans (if_neg hnn)

theorem atcas64_traps (hr : Runs s f h []) (ha : poisonIn f .a = false)
    (hv : Allowed (s.counted f h.ty) f true (flatVa (s.counted f h.ty) f b d)) :
    let o := exec (.atcas64 h sc acq rel t2 b d) s
    (flatVa (s.counted f h.ty) f b d % 8 ≠ 0 →
      o = .next ((s.counted f h.ty).trapFiring f { code := tcAlign, aux0 := flatVa (s.counted f h.ty) f b d, aux1 := 8 })) ∧
    (poisonIn f .b = true → flatVa (s.counted f h.ty) f b d % 8 = 0 → o = .next ((s.counted f h.ty).poisonTrap f .b)) :=
  ⟨fun hn => firing_acts hr ((flat_ok ha hv).trans (if_pos hn)),
    fun hb hn => firing_acts hr ((flat_ok ha hv).trans ((if_neg (not_not.2 hn)).trans (if_pos hb)))⟩

theorem fence_runs (hr : Runs s f h []) : exec (.fence h sc acq rel t2) s =
    .next (issued (s.counted f h.ty) { f.access .read .b32 sc with acq := acq || !rel, rel := rel || !acq }) :=
  firing_acts hr rfl

end

end Sys2Proof.Laws

namespace Sys2Proof.Proofs

open Sys2Proof Sys2Proof.Machine Sys2Proof.Claims Sys2Proof.Laws

/-- Each instruction checks its scratch address, then issues what R143 names. -/
theorem scratchAccesses : Claims.ScratchAccesses := by
  intro s f h sc nb clr wf once acq t2 disp sa hr ha
  refine ⟨fun hs => ⟨?_, ?_⟩, fun hs => ⟨?_, ?_⟩, fun hs => ⟨?_, ?_, ?_⟩, fun hlow hsa hhigh i hi => ?_⟩
  · exact (scratchLoad_runs hr).trans (congrArg _ (scratch_ok ha hs))
  · rw [sts_runs hr, ← scratchPieces_word once]
    exact scratchStore_stores hr ha hs
  · exact (scratchLoad_runs hr).trans (congrArg _ (scratch_ok ha hs))
  · rw [stsp_runs hr, ← scratchPieces_pair once]
    exact scratchStore_stores hr ha hs
  · exact presenceOp_issues hr ha hs
  · exact presenceOp_issues hr ha hs
  · exact presenceOp_issues hr ha hs
  · have traps {o n code act} := scratch_traps (s := s.counted f h.ty) (o := o) (n := n) (code := code) (act := act) ha hlow hsa hhigh
    simp only [List.mem_cons, List.not_mem_nil, or_false] at hi
    rcases hi with rfl | rfl | rfl | rfl | rfl | rfl | rfl
    · exact traps (scratchLoad_runs hr)
    · exact traps (scratchLoad_runs hr)
    · exact traps ((sts_runs hr).trans (congrArg _ (scratchStore_runs hr)))
    · exact traps ((stsp_runs hr).trans (congrArg _ (scratchStore_runs hr)))
    · exact traps (presenceOp_runs hr)
    · exact traps (presenceOp_runs hr)
    · exact traps (presenceOp_runs hr)

/-- Each atomic checks its address and its operands, then issues what R146 names. -/
theorem atomicsAndFence : Claims.AtomicsAndFence := by
  intro s f h sc acq rel rm t2 bsel disp hr
  refine ⟨fun ha hb hv hal => ?_, fun ha hb hc hv hal => ?_, fun ha hb hv hal hx hg hp => atcas64_issues hr ha hb hv hal hx hg hp,
    fun ha hv i hi => ?_, fence_runs hr⟩
  · have one : ∀ sl ∈ [Slot.b], poisonIn f sl = false := by simp [hb]
    refine ⟨?_, ?_, ?_, ?_, ?_, ?_, ?_, ?_, fun hc => ?_⟩
    on_goal 9 => exact atomicAccess_issues hr ha hv hal (by simp [hb, hc])
    all_goals exact atomicAccess_issues hr ha hv hal one
  · have both : ∀ sl ∈ [Slot.b, Slot.c], poisonIn f sl = false := by simp [hb, hc]
    refine ⟨?_, ?_, ?_, ?_, ?_, ?_, ?_⟩
    all_goals exact atomicAccess_issues hr ha hv hal both
  · simp only [List.mem_cons, List.not_mem_nil, or_false] at hi
    rcases hi with rfl | rfl | rfl | rfl | rfl | rfl | rfl | rfl | rfl | rfl | rfl | rfl | rfl | rfl | rfl | rfl | rfl
    on_goal 17 => exact atcas64_traps hr ha hv
    all_goals exact atomicAccess_traps hr ha hv

/-- Settles O11: an instruction whose address and operands pass their checks issues its access, and the first check that fails is
its trap. -/
theorem scratchAndAtomics : Obligations.ScratchAndAtomics :=
  ⟨scratchAccesses, atomicsAndFence⟩

end Sys2Proof.Proofs
end

section
/-! PROOF. The next piece of an access at its memory node or bank (R264, R274): what the unit writes, reads or computes (R139, R146), and
the presence bits of a granule (R143). -/

namespace Sys2Proof.Laws

open Sys2Proof Sys2Proof.Machine Sys2Proof.Claims

/-! Values in memory (R3). -/

theorem leNat_lt (bs : List Byte) : leNat bs < 256 ^ bs.length := by
  induction bs with
  | nil => exact Nat.one_pos
  | cons b r ih =>
    have hb : b.toNat < 256 := b.isLt
    rw [leNat, List.length_cons, Nat.pow_succ']
    omega

@[simp] theorem length_getBytes (l : List Host.Cell) (a n : Nat) : (getBytes l a n).length = n := by
  induction n generalizing a with
  | zero => rfl
  | succ n ih => rw [getBytes, List.length_cons, ih]

/-- Bytes read back as they were written. -/
theorem getBytes_putBytes (b : List Byte) (l : List Host.Cell) (a : Nat) : getBytes (putBytes l a b) a b.length = b := by
  induction b generalizing l a with
  | nil => rfl
  | cons v r ih =>
    have hhead : getCell (putBytes l a (v :: r)) a = v := getCell_putBytes (v :: r) l a 0 (Nat.succ_pos _)
    rw [List.length_cons, getBytes, hhead, putBytes, ih]

variable {s t : State} {st : Store} {x n v : Nat}

theorem readN_lt (s : State) (st : Store) (x n : Nat) : s.readN st x n < 2 ^ (8 * n) := by
  have h := leNat_lt (getBytes (s.cells st) x n)
  rwa [length_getBytes, show (256 : Nat) = 2 ^ 8 from rfl, ← Nat.pow_mul] at h

theorem cells_writeN_self : (s.writeN st x n v).cells st = putBytes (s.cells st) x (leBytes n v) := cells_setCells_self s st _

theorem cells_writeN_ne {su : Store} (h : su ≠ st) : (s.writeN st x n v).cells su = s.cells su := cells_setCells_ne s _ h

/-- A value reads back as it was written, reduced to its bytes. -/
theorem readN_writeN (s : State) (st : Store) (x n v : Nat) : (s.writeN st x n v).readN st x n = v % 2 ^ (8 * n) := by
  have hb := getBytes_putBytes (leBytes n v) (s.cells st) x
  rw [length_leBytes] at hb
  rw [State.readN, cells_writeN_self, getNat, hb, leNat_leBytes, show (256 : Nat) = 2 ^ 8 from rfl, ← Nat.pow_mul]

/-- A write leaves every byte outside its location. -/
theorem getCell_writeN {y : Nat} (h : y < x ∨ x + n ≤ y) : getCell ((s.writeN st x n v).cells st) y = getCell (s.cells st) y := by
  rw [cells_writeN_self, getCell_putBytes_ne _ _ _ (by rwa [length_leBytes])]

@[simp] theorem fab_setCells (s : State) (st : Store) (l : List Host.Cell) : (s.setCells st l).fab = s.fab := by cases st <;> rfl

@[simp] theorem pres_setCells (s : State) (st : Store) (l : List Host.Cell) : (s.setCells st l).pres = s.pres := by cases st <;> rfl

/-- A masked write: the bits under the mask take the data, and the others stay. -/
theorem testBit_readN_mergeBits (s : State) (st : Store) (x n mask data : Nat) {j : Nat} (hj : j < 8 * n) :
    ((s.mergeBits st x n mask data).readN st x n).testBit j =
      if mask.testBit j then data.testBit j else (s.readN st x n).testBit j := by
  have hdisj : Nat.ldiff (s.readN st x n) mask &&& (data &&& mask) = 0 := by
    apply Nat.eq_of_testBit_eq
    intro i
    simp only [Nat.testBit_and, Nat.testBit_ldiff, Nat.zero_testBit]
    cases mask.testBit i <;> simp
  rw [State.mergeBits, readN_writeN, sub_and_eq_ldiff, add_eq_or_of_and_eq_zero hdisj]
  simp only [Nat.testBit_mod_two_pow, Nat.testBit_or, Nat.testBit_and, Nat.testBit_ldiff, hj, decide_true, Bool.true_and]
  cases mask.testBit j <;> simp

/-! Presence bits as a list of numbers. -/

theorem contains_insNat (l : List Nat) (g : Nat) : (insNat l g).contains g = true := by
  induction l with
  | nil => simp [insNat]
  | cons a r ih =>
    rw [insNat]
    split
    · simp
    · split
      · next h => simp [h]
      · rw [List.contains_cons, ih, Bool.or_true]

theorem full_setFull (s : State) (g : Nat) (b : Bool) : (s.setFull g b).full g = b := by
  cases b with
  | true => exact contains_insNat _ _
  | false => simp [State.full, delNat]

theorem full_congr (h : t.pres = s.pres) (g : Nat) : t.full g = s.full g := congrArg (·.contains g) h

@[simp] theorem cells_setFull (s : State) (g : Nat) (b : Bool) (su : Store) : (s.setFull g b).cells su = s.cells su := by cases su <;> rfl

/-! An access of the fabric answered. -/

/-- A change of the access of a number changes that one, and no other. -/
theorem mapFirst_id_eq_set {l : List Access} {a : Access} {n : Nat} {g : Access → Access} (ha : l[n]? = some a)
    (hd : (l.map Access.id).Nodup) : mapFirst (fun y => y.id = a.id) g l = l.set n (g a) := by
  induction l generalizing n with
  | nil => cases ha
  | cons y r ih =>
    obtain ⟨hy, hr⟩ := List.nodup_cons.1 (List.map_cons ▸ hd)
    cases n with
    | zero =>
      obtain rfl : y = a := by simpa using ha
      simp [mapFirst]
    | succ n =>
      have har : r[n]? = some a := by simpa using ha
      have hne : y.id ≠ a.id := fun h => hy (h ▸ List.mem_map_of_mem (List.mem_of_getElem? har))
      simp [mapFirst, hne, ih har hr]

/-- A state whose fabric differs by one answered access differs in that access alone. -/
theorem accessNow_answered {a : Access} {p : Piece} {pv w : Nat} {poi : Bool} (ha : (s.fab.accs.drop s.arg.n).head? = some a)
    (hd : DistinctIds s) (ht : t.fab.accs = mapFirst (fun y => y.id = a.id) (fun y => answered y p pv w poi) s.fab.accs) :
    AccessNow s t (answered a p pv w poi) := by
  rw [List.head?_drop] at ha
  obtain ⟨hlt, -⟩ := List.getElem?_eq_some_iff.1 ha
  rw [mapFirst_id_eq_set ha hd] at ht
  refine ⟨?_, ?_, fun m hm => ?_⟩
  · rw [List.head?_drop, ht, List.getElem?_set_self hlt]
  · rw [ht, List.length_set]
  · rw [ht, List.getElem?_set_ne hm.symm]

/-! The turn of a unit. -/

section
variable {a : Access} {p : Piece} {serves : Store → Bool} {w pv : Nat} {poi : Bool}

theorem eccAt_none (h : s.arg.ecc = none) (st : Store) (x k : Nat) : s.eccAt st x k = s := by
  unfold State.eccAt
  split
  · rfl
  · next c hc => exact absurd (hc.symm.trans h) (by simp)

theorem mayServe_canPerform (hc : CanPerform s a p st x) : s.mayServe a st x = true := by
  obtain ⟨hw, hd, ht⟩ := hc.ready
  have hh := hc.host
  simp [State.mayServe, hw, hd, ht, hc.order, hc.commit, hc.line, hc.scrub, hh]

/-- The same fabric and the same memory: what counting bytes and recording cache lines leave. -/
def Untouched (s t : State) : Prop := t.fab = s.fab ∧ SameMemory s t

theorem untouched_refl (s : State) : Untouched s s := ⟨rfl, fun _ => rfl, rfl, fun _ => rfl⟩

theorem untouched_ite {u : State} {c : Prop} [Decidable c] (ht : Untouched s t) (hu : Untouched s u) : Untouched s (if c then t else u) := by
  split
  · exact ht
  · exact hu

theorem untouched_trans {u : State} (h : Untouched s t) (h' : Untouched t u) : Untouched s u := by
  obtain ⟨hfab, hmem⟩ := h
  obtain ⟨hfab', hmem'⟩ := h'
  exact ⟨hfab'.trans hfab, sameMemory_trans hmem hmem'⟩

/-- Cache lines, busy lines, counts and the bytes of instances are neither fabric nor memory. -/
theorem untouched_counts (s : State) (l : List (Nat × Nat × Bool × Bool)) (b c : List (Nat × Nat)) (i : List Inst) :
    Untouched s { s with agent := l, hostBusy := b, counts := c, insts := i } :=
  ⟨rfl, fun su => by cases su <;> rfl, rfl, fun su => by cases su <;> rfl⟩

theorem untouched_agentTake {hpa : Nat} {own dirty : Bool} : Untouched s (s.agentTake hpa own dirty) := untouched_counts s _ _ _ _

theorem untouched_hostBusy {c : Prop} [Decidable c] {b : List (Nat × Nat)} : Untouched s (if c then { s with hostBusy := b } else s) :=
  untouched_ite (untouched_counts s _ _ _ _) (untouched_refl s)

theorem untouched_countUp {key n : Nat} (h : Untouched s t) : Untouched s (t.countUp key n) :=
  untouched_trans h (untouched_counts t _ _ _ _)

theorem untouched_moved {k v n : Nat} (h : Untouched s t) : Untouched s (t.moved k v st n) :=
  untouched_ite (untouched_trans h (untouched_counts t _ _ _ _)) h

theorem modAcc_untouched {id : Nat} {g : Access → Access} (h : Untouched s t) :
    (t.modAcc id g).fab.accs = mapFirst (fun y => y.id = id) g s.fab.accs ∧ (t.modAcc id g).fab.cores = s.fab.cores ∧
      SameMemory s (t.modAcc id g) := by
  obtain ⟨hfab, hmem⟩ := h
  rw [← hfab]
  exact ⟨rfl, rfl, sameMemory_trans hmem (sameMemory_fab t _)⟩

/-- What a performed piece leaves: its access answered, and the memories as performing it left them. -/
theorem performNext_go {v : State} (hc : CanPerform s a p st x) (hs : serves st = true)
    (hf : (a.nb && decide (a.kind = .read) && s.full (x / 16)) = false) (he : s.performPiece a p st x = .go v w poi) :
    (s.performNext s.arg.n serves).fab.accs = mapFirst (fun y => y.id = a.id) (fun y => answered y p a.flags w poi) v.fab.accs ∧
      (s.performNext s.arg.n serves).fab.cores = v.fab.cores ∧ SameMemory v (s.performNext s.arg.n serves) := by
  obtain ⟨addr, size, mask, data, place, got, resp, poison⟩ := p
  obtain rfl : place = some (st, x) := hc.place
  unfold State.performNext
  simp only [hc.acc, hc.piece, hs, mayServe_canPerform hc, hc.turn, eccAt_none hc.error, he, hf, Bool.not_true, Bool.or_self,
    Bool.false_eq_true, if_false]
  have hagent : Untouched v (if st = .host then v.agentTake x a.kind.need.w (a.kind.code ≠ 0) else v) :=
    untouched_ite untouched_agentTake (untouched_refl v)
  refine modAcc_untouched (untouched_moved ?_)
  exact untouched_ite (untouched_countUp hagent) hagent

theorem performNext_wait (hc : CanPerform s a p st x) (hs : serves st = true) (he : s.performPiece a p st x = .wait) :
    s.performNext s.arg.n serves = s := by
  unfold State.performNext
  simp only [hc.acc, hc.piece, hc.place, hs, mayServe_canPerform hc, hc.turn, eccAt_none hc.error, he, Bool.not_true, Bool.or_self,
    Bool.false_eq_true, if_false]

theorem performNext_trap {c : Cause} (hc : CanPerform s a p st x) (hs : serves st = true) (he : s.performPiece a p st x = .trap c) :
    s.performNext s.arg.n serves = s.accessTrap a c := by
  unfold State.performNext
  simp only [hc.acc, hc.piece, hc.place, hs, mayServe_canPerform hc, hc.turn, eccAt_none hc.error, he, Bool.not_true, Bool.or_self,
    Bool.false_eq_true, if_false]

/-- The turn of the unit that performs pieces of a store: a memory node or the cache agent, or a bank. -/
def unitTurn (st : Store) : Instr := if st = .dev ∨ st = .host then .memNodeRequest else .bankRequest

theorem exec_unitTurn (hc : CanPerform s a p st x) :
    ∃ serves : Store → Bool, serves st = true ∧ exec (unitTurn st) s = .next (s.performNext s.arg.n serves) := by
  have bank : exec .bankRequest s = .next (s.performNext s.arg.n fun st => st = .scr || st = .wbuf) := by
    change execBankRequest s = _
    unfold execBankRequest
    simp only [hc.acc, hc.placed, ite_self]
  cases st with
  | dev => exact ⟨_, rfl, rfl⟩
  | host => exact ⟨_, rfl, rfl⟩
  | scr => exact ⟨_, rfl, bank⟩
  | wbuf => exact ⟨_, rfl, bank⟩

/-- A unit that performs a piece answers it, and leaves the memories as performing it did. -/
theorem unitTurn_answers {v : State} (hc : CanPerform s a p st x) (hd : DistinctIds s)
    (hf : (a.nb && decide (a.kind = .read) && s.full (x / 16)) = false) (he : s.performPiece a p st x = .go v w poi)
    (hv : v.fab = s.fab) : ∃ t : State, exec (unitTurn st) s = .next t ∧ AccessNow s t (answered a p a.flags w poi) ∧ SameMemory v t ∧
      t.fab.cores = s.fab.cores := by
  obtain ⟨serves, hs, hx⟩ := exec_unitTurn hc
  obtain ⟨haccs, hcores, hmem⟩ := performNext_go hc hs hf he
  rw [hv] at haccs hcores
  exact ⟨_, hx, accessNow_answered hc.acc hd haccs, hmem, hcores⟩

theorem unitTurn_waits (hc : CanPerform s a p st x) (he : s.performPiece a p st x = .wait) : exec (unitTurn st) s = .next s := by
  obtain ⟨serves, hs, hx⟩ := exec_unitTurn hc
  rw [hx, performNext_wait hc hs he]

theorem unitTurn_traps {c : Cause} (hc : CanPerform s a p st x) (he : s.performPiece a p st x = .trap c) :
    exec (unitTurn st) s = .next (s.accessTrap a c) := by
  obtain ⟨serves, hs, hx⟩ := exec_unitTurn hc
  rw [hx, performNext_trap hc hs he]

/-- A bank that answers a piece of the scratchpad. -/
theorem bank_answers {v : State} (hc : CanPerform s a p .scr x) (hd : DistinctIds s)
    (hf : (a.nb && decide (a.kind = .read) && s.full (x / 16)) = false) (he : s.performPiece a p .scr x = .go v w poi)
    (hv : v.fab = s.fab) : ∃ t : State, exec .bankRequest s = .next t ∧ AccessNow s t (answered a p a.flags w poi) ∧
      (∀ su, t.cells su = v.cells su) ∧ t.pres = v.pres := by
  obtain ⟨t, hx, hacc, ⟨hcells, hpres, -⟩, -⟩ := unitTurn_answers hc hd hf he hv
  exact ⟨t, hx, hacc, hcells, hpres⟩

/-! What performing a piece does, by the kind of its access. -/

@[simp] theorem fab_mergeBits (mask data : Nat) : (s.mergeBits st x n mask data).fab = s.fab := fab_setCells s st _

@[simp] theorem pres_mergeBits (mask data : Nat) : (s.mergeBits st x n mask data).pres = s.pres := pres_setCells s st _

/-- A mark of poison changes the poison of its store alone. -/
theorem setPoison_frame (s : State) (st : Store) (x : Nat) (b : Bool) :
    (s.setPoison st x b).fab = s.fab ∧ (∀ su, (s.setPoison st x b).cells su = s.cells su) ∧ (s.setPoison st x b).pres = s.pres := by
  cases st <;> exact ⟨rfl, fun su => by cases su <;> rfl, rfl⟩

theorem setPoison_ite_frame (s : State) (st : Store) (x : Nat) (c b : Bool) :
    (if c then s.setPoison st x b else s).fab = s.fab ∧ (∀ su, (if c then s.setPoison st x b else s).cells su = s.cells su) ∧
      (if c then s.setPoison st x b else s).pres = s.pres := by
  cases c with
  | true => exact setPoison_frame s st x b
  | false => exact ⟨rfl, fun _ => rfl, rfl⟩

/-- What a write leaves in memory: the bits under its mask replaced, its poison marked, and with `.once` its granule full. -/
def written (s : State) (a : Access) (p : Piece) (st : Store) (x : Nat) : State :=
  let u := s.mergeBits st x p.size p.mask p.data
  let u := if a.poi then u.setPoison st x true else u
  if a.once then u.setFull (x / 16) true else u

theorem written_fab : (written s a p st x).fab = s.fab := by
  obtain ⟨hfab, -, -⟩ := setPoison_ite_frame (s.mergeBits st x p.size p.mask p.data) st x a.poi true
  unfold written
  cases a.once <;> exact hfab.trans (fab_mergeBits _ _)

theorem written_cells (su : Store) : (written s a p st x).cells su = (s.mergeBits st x p.size p.mask p.data).cells su := by
  obtain ⟨-, hcells, -⟩ := setPoison_ite_frame (s.mergeBits st x p.size p.mask p.data) st x a.poi true
  unfold written
  cases a.once with
  | true => exact (cells_setFull _ _ _ su).trans (hcells su)
  | false => exact hcells su

theorem written_pres (h : a.once = false) : (written s a p st x).pres = s.pres := by
  obtain ⟨-, -, hpres⟩ := setPoison_ite_frame (s.mergeBits st x p.size p.mask p.data) st x a.poi true
  unfold written
  rw [h]
  exact hpres.trans (pres_mergeBits _ _)

theorem full_written (h : a.once = true) : (written s a p st x).full (x / 16) = true := by
  unfold written
  rw [h]
  exact full_setFull _ _ _

theorem performPiece_write (hk : a.kind = .write) (ho : a.operand = false) (hn : (a.once && s.full (x / 16)) = false) :
    ∃ v : State, s.performPiece a p st x = .go v 0 false ∧ Untouched (written s a p st x) v := by
  unfold State.performPiece
  simp only [ho, hk, hn, Bool.false_eq_true, if_false]
  exact ⟨_, rfl, untouched_hostBusy⟩

/-- A `.once` store of a full granule is a violation. -/
theorem performPiece_onceViolation (hk : a.kind = .write) (ho : a.operand = false) (hn : (a.once && s.full (x / 16)) = true) :
    s.performPiece a p st x = .trap { code := tcOnceViolation, aux0 := p.addr, aux1 := 1 } := by
  unfold State.performPiece
  simp only [ho, hk, hn, Bool.false_eq_true, if_false, if_true]

theorem operand_read (hk : a.kind = .read) : a.operand = false := by simp [Access.operand, hk]

/-- A read outside the store buffer of an invocation gives the bytes and the poison of its place. -/
theorem performPiece_read (hk : a.kind = .read) (hs : ¬(st = .scr ∧ a.area = .scratch)) (hi : s.idemInvoc? a.origin = none)
    (hp : (s.poisonIn st x p.size && a.strict) = false) :
    s.performPiece a p st x = .go s (s.readN st x p.size) (s.poisonIn st x p.size) := by
  have ho := operand_read hk
  have hs' : (decide (st = .scr) && decide (a.area = .scratch)) = false := by simpa using hs
  unfold State.performPiece
  simp only [ho, hk, hs', hi, State.readOwn, hp, Bool.or_false, Bool.false_eq_true, if_false]

/-- A scratchpad read, which waits for its granule with `.wf`, and empties it with `.clr`. -/
theorem performPiece_scratchRead (hk : a.kind = .read) (hs : a.area = .scratch) (hi : s.idemInvoc? a.origin = none)
    (hp : s.poisonIn .scr x p.size = false) (hnb : a.nb = false) (hw : (a.wf && !s.full (x / 16)) = false) :
    s.performPiece a p .scr x = .go (if a.clr then s.setFull (x / 16) false else s) (s.readN .scr x p.size) false := by
  have ho := operand_read hk
  obtain ⟨hp', hi', hr'⟩ : (if a.clr then s.setFull (x / 16) false else s).poisonIn .scr x p.size = false ∧
      (if a.clr then s.setFull (x / 16) false else s).idemInvoc? a.origin = none ∧
      (if a.clr then s.setFull (x / 16) false else s).readN .scr x p.size = s.readN .scr x p.size := by
    cases a.clr <;> exact ⟨hp, hi, rfl⟩
  unfold State.performPiece
  simp only [ho, hk, hs, hnb, hw, hp', hi', hr', State.readOwn, decide_true, Bool.and_self, Bool.false_and, Bool.false_eq_true, if_false,
    if_true]

theorem performPiece_scratchRead_waits (hk : a.kind = .read) (hs : a.area = .scratch) (hnb : a.nb = false)
    (hw : (a.wf && !s.full (x / 16)) = true) : s.performPiece a p .scr x = .wait := by
  have ho := operand_read hk
  unfold State.performPiece
  simp only [ho, hk, hs, hnb, hw, decide_true, Bool.and_self, Bool.false_eq_true, if_false, if_true]

theorem performPiece_scratchRead_nb (hk : a.kind = .read) (hs : a.area = .scratch) (hnb : a.nb = true)
    (hf : s.full (x / 16) = false) : s.performPiece a p .scr x = .go s 0 false := by
  have ho := operand_read hk
  unfold State.performPiece
  simp only [ho, hk, hs, hnb, hf, decide_true, Bool.and_self, Bool.false_eq_true, if_false, if_true]

/-- An atomic of one piece writes its value, raises the flags of that, and answers with the old value. -/
theorem performPiece_atomic {op : AtOp} {ty : Ty} (hk : a.kind = .atomic op ty) (hl : a.pieces.length = 1)
    (hp : s.poisonIn st x p.size = false) :
    let r := atomicValue op ty p.size (s.readN st x p.size) a.opnd a.cmp
    s.performPiece a p st x = .go ((s.writeN st x p.size r.1).raiseLanes a.k 0 r.2) (s.readN st x p.size) false := by
  have ho : a.operand = false := by cases op <;> simp [Access.operand, hk, hl]
  unfold State.performPiece
  simp only [ho, hk, hl, hp, Nat.reduceEqDiff, Bool.false_eq_true, if_false]

/-- The presence operations of R143. -/
theorem performPiece_presence {set clr once test : Bool} (hk : a.kind = .presence set clr once test)
    (ho : (set && once && s.full (x / 16)) = false) : s.performPiece a p st x =
      if test then .go s (if s.full (x / 16) then 1 else 0) false
      else .go (if set then s.setFull (x / 16) true else if clr then s.setFull (x / 16) false else s) 0 false := by
  have hop : a.operand = false := by simp [Access.operand, hk]
  unfold State.performPiece
  simp only [hop, hk, ho, Bool.false_eq_true, if_false]

/-- A `.once` PSET of a full granule is a violation. -/
theorem performPiece_presence_violation {clr : Bool} (hk : a.kind = .presence true clr true false) (hf : s.full (x / 16) = true) :
    s.performPiece a p st x = .trap { code := tcOnceViolation, aux0 := p.addr, aux1 := 1 } := by
  have hop : a.operand = false := by simp [Access.operand, hk]
  unfold State.performPiece
  simp only [hop, hk, hf, Bool.and_self, Bool.false_eq_true, if_false, if_true]

end

/-! Values of atomics (R146). -/

theorem atomicValue_lt {op : AtOp} {ty : Ty} {n old x cmp : Nat} (hf : ∀ rm, op ≠ .fadd rm) (ho : old < 2 ^ (8 * n))
    (hx : x < 2 ^ (8 * n)) : (atomicValue op ty n old x cmp).1 < 2 ^ (8 * n) := by
  cases op with
  | add => exact Nat.mod_lt _ (Nat.two_pow_pos _)
  | min | max => dsimp only [atomicValue]; split <;> split <;> assumption
  | cas => dsimp only [atomicValue]; split <;> assumption
  | and => exact Nat.and_lt_two_pow _ hx
  | or => exact Nat.or_lt_two_pow ho hx
  | xor => exact Nat.xor_lt_two_pow ho hx
  | swap => exact hx
  | fadd rm => exact absurd rfl (hf rm)

/-- The greater of equal values is either. -/
theorem atomicValue_max (ty : Ty) (n old x cmp : Nat) : (atomicValue .max ty n old x cmp).1 =
    if (if ty = .i32 then decide (signedOf x (8 * n) < signedOf old (8 * n)) else decide (x < old)) then old else x := by
  by_cases h : x = old
  · simp [atomicValue, h]
  · simp [atomicValue, h]

/-- What an atomic leaves: its location written, and the rest of every memory and the fabric as they were. -/
theorem atomic_leaves (s : State) (st : Store) (x n r k : Nat) (fl : List Nat) :
    ((s.writeN st x n r).raiseLanes k 0 fl).fab = s.fab ∧
      ∀ su, ((s.writeN st x n r).raiseLanes k 0 fl).cells su = (s.writeN st x n r).cells su := by
  obtain ⟨rs, rd, e, -⟩ := raiseLanes_frame (s.writeN st x n r) k 0 fl
  rw [e]
  exact ⟨fab_setCells s st _, fun su => by cases su <;> rfl⟩

end Sys2Proof.Laws

namespace Sys2Proof.Proofs

open Sys2Proof Sys2Proof.Machine Sys2Proof.Claims Sys2Proof.Laws

/-- A write merges its bits into its location. -/
theorem writesArePerformed : Claims.WritesArePerformed := by
  intro s a p st x hc hd hk honce hop _
  obtain ⟨v, he, hvfab, hvcells, hvpres, -⟩ := performPiece_write hk hop (by simp [honce])
  obtain ⟨t, hx, hacc, ⟨hcells, hpres, -⟩, hcores⟩ := unitTurn_answers hc hd (by simp [hk]) he (hvfab.trans written_fab)
  have hcell su : t.cells su = (s.mergeBits st x p.size p.mask p.data).cells su :=
    (hcells su).trans ((hvcells su).trans (written_cells su))
  refine ⟨t, hx, hacc, fun j hj => ?_, fun y hy => ?_, fun su hsu => ?_, hpres.trans (hvpres.trans (written_pres honce)), hcores⟩
  · rw [State.readN, hcell]
    exact testBit_readN_mergeBits s st x p.size p.mask p.data hj
  · rw [hcell]
    exact getCell_writeN hy
  · rw [hcell]
    exact cells_writeN_ne hsu

/-- A read answers with the bytes of its place. -/
theorem readsArePerformed : Claims.ReadsArePerformed := by
  intro s a p st x hc hd hk hst hi hp hnb
  have hplain : ¬(st = .scr ∧ a.area = .scratch) := by rintro ⟨rfl, -⟩; simp at hst
  obtain ⟨t, hx, hacc, hmem, hcores⟩ := unitTurn_answers hc hd (by simp [hnb]) (performPiece_read hk hplain hi hp) rfl
  rw [unitTurn, if_pos hst] at hx
  exact ⟨t, hx, hmem, hacc, hcores⟩

/-- An atomic writes the value of its operation, and answers with the old one. -/
theorem atomicsArePerformed : Claims.AtomicsArePerformed := by
  intro s a p st x op ty hc hd hk hst hlen hpos hsize hopnd hp
  obtain ⟨hfab, hleft⟩ := atomic_leaves s st x p.size (atomicValue op ty p.size (s.readN st x p.size) a.opnd a.cmp).1 a.k
    (atomicValue op ty p.size (s.readN st x p.size) a.opnd a.cmp).2
  obtain ⟨t, hx, hacc, ⟨hcells, -, -⟩, -⟩ := unitTurn_answers hc hd (by simp [hk]) (performPiece_atomic hk hlen hp) hfab
  rw [unitTurn, if_pos hst] at hx
  have hcell su := (hcells su).trans (hleft su)
  have hval (hf : ∀ rm, op ≠ .fadd rm) :
      t.readN st x p.size = (atomicValue op ty p.size (s.readN st x p.size) a.opnd a.cmp).1 := by
    rw [State.readN, hcell]
    exact (readN_writeN _ _ _ _ _).trans (Nat.mod_eq_of_lt (atomicValue_lt hf (readN_lt s st x p.size) hopnd))
  refine ⟨t, hx, hacc, fun y hy => ?_, fun su hsu => (hcell su).trans (cells_writeN_ne hsu), ?_, ?_, ?_, ?_, ?_, ?_, ?_, ?_⟩
  · rw [hcell]
    exact getCell_writeN hy
  case refine_4 =>
    rintro rfl
    exact (hval (by simp)).trans (atomicValue_max _ _ _ _ _)
  all_goals
    rintro rfl
    exact hval (by simp)

/-- Settles O12: the turn of the unit performs the piece by the kind of its access. -/
theorem memoryPerforms : Obligations.MemoryPerforms :=
  ⟨writesArePerformed, readsArePerformed, atomicsArePerformed⟩

/-- Settles O13: each clause is what performing the piece of its kind does with the presence bit. -/
theorem presenceBits : Obligations.PresenceBits := by
  intro s a p x hc hd harea hop hi hp _
  refine ⟨fun hk honce hf => ?_, fun hk honce hf => ?_, fun hk hwf hnb hf => ?_, fun hk hnb hwf => ?_, fun hk hnb hf => ?_,
    fun once hk hf => ?_, fun hk hf => ?_, fun hk => ?_, fun hk => ?_⟩
  · obtain ⟨v, he, hvfab, -, hvpres, -⟩ := performPiece_write hk hop (by rw [hf, Bool.and_false])
    obtain ⟨t, hx, -, -, hpres⟩ := bank_answers hc hd (by simp [hk]) he (hvfab.trans written_fab)
    exact ⟨t, hx, (full_congr (hpres.trans hvpres) _).trans (full_written honce)⟩
  · exact unitTurn_traps hc (performPiece_onceViolation hk hop (by rw [honce, hf]; rfl))
  · exact unitTurn_waits hc (performPiece_scratchRead_waits hk harea hnb (by rw [hwf, hf]; rfl))
  · have hw : (a.wf && !s.full (x / 16)) = false := by
      cases h : a.wf with
      | false => rfl
      | true => rw [hwf h]; rfl
    obtain ⟨t, hx, hacc, hcells, hpres⟩ :=
      bank_answers hc hd (by simp [hnb]) (performPiece_scratchRead hk harea hi hp hnb hw) (by split <;> rfl)
    refine ⟨t, hx, (full_congr hpres _).trans ?_, fun su => (hcells su).trans ?_, hacc⟩
    · cases a.clr <;> simp [full_setFull]
    · cases a.clr <;> simp
  · obtain ⟨t, hx, hacc, -, hpres⟩ := bank_answers hc hd (by simp [hf]) (performPiece_scratchRead_nb hk harea hnb hf) rfl
    exact ⟨t, hx, hpres, hacc⟩
  · have hn : (true && once && s.full (x / 16)) = false := by
      cases once with
      | false => rfl
      | true => exact hf rfl
    obtain ⟨t, hx, -, hcells, hpres⟩ := bank_answers hc hd (by simp [hk]) (performPiece_presence hk hn) rfl
    exact ⟨t, hx, (full_congr hpres _).trans (full_setFull s _ true), fun su => (hcells su).trans (cells_setFull s _ true su)⟩
  · exact unitTurn_traps hc (performPiece_presence_violation hk hf)
  · obtain ⟨t, hx, -, hcells, hpres⟩ := bank_answers hc hd (by simp [hk]) (performPiece_presence hk rfl) rfl
    exact ⟨t, hx, (full_congr hpres _).trans (full_setFull s _ false), fun su => (hcells su).trans (cells_setFull s _ false su)⟩
  · obtain ⟨t, hx, hacc, -, hpres⟩ := bank_answers hc hd (by simp [hk]) (performPiece_presence hk rfl) rfl
    exact ⟨t, hx, hpres, hacc⟩

end Sys2Proof.Proofs
end

section
/-! PROOF. Streams at the nodes that consume them (R161, R165, R166): the state kept of a parent, the turn of a set, and what SRED,
SSCAN and SZIP make of it. -/

namespace Sys2Proof.Laws

open Sys2Proof Sys2Proof.Machine Sys2Proof.Claims

/-! The state that a node keeps of a parent. -/

section
variable {s : State} {site : Site} {p : DWord} {d w : Nat} {f : Firing} {x : Stream}

theorem stream?_key (h : s.stream? site p d = some x) : x.site = site ∧ x.tag = p ∧ x.dep = d := by
  simpa [and_assoc] using List.find?_some h

/-- The state kept of a parent is found under that parent. -/
theorem known_key (h : Known s f w x) : x.site = f.site ∧ x.tag = parentOf f w ∧ x.dep = f.dep - w := by
  obtain h | ⟨-, -, rfl⟩ := h
  · exact stream?_key h
  · exact ⟨rfl, rfl, rfl⟩

/-- The state of a stream that is stored at its node is found there. -/
theorem stream?_putStream (s : State) (x : Stream) : (s.putStream x).stream? x.site x.tag x.dep = some x := by
  unfold State.putStream
  split
  · next h =>
    obtain ⟨y, hy⟩ := Option.isSome_iff_exists.1 h
    exact (find?_mapFirst (g := fun _ => x) (fun _ _ => by simp) _).trans (congrArg (Option.map fun _ => x) hy)
  · next h =>
    have hnone : s.stream? x.site x.tag x.dep = none := by simpa using h
    exact List.find?_append.trans (by rw [show s.fab.streams.find? _ = none from hnone]; simp)

/-- Storing it changes the streams alone. -/
theorem putStream_cases (s : State) (x : Stream) : ∃ l, s.putStream x = { s with fab := { s.fab with streams := l } } := by
  unfold State.putStream
  split <;> exact ⟨_, rfl⟩

@[simp] theorem putStream_flights (s : State) (x : Stream) : (s.putStream x).fab.flights = s.fab.flights := by
  obtain ⟨l, e⟩ := putStream_cases s x
  rw [e]

theorem sameMemory_putStream (s : State) (x : Stream) : SameMemory s (s.putStream x) := by
  obtain ⟨l, e⟩ := putStream_cases s x
  exact e ▸ sameMemory_fab s _

end

/-! States that differ in raised flags alone. -/

/-- A state and one in which, besides, flags have been raised. -/
def Flagged (s t : State) : Prop := ∃ rs rd, t = { s with regs := rs, raised := rd }

section
variable {s t u : State}

theorem flagged_refl (s : State) : Flagged s s := ⟨s.regs, s.raised, rfl⟩

theorem flagged_raiseFlags (h : Flagged s t) (k lane fl : Nat) : Flagged s (t.raiseFlags k lane fl) := by
  obtain ⟨rs, rd, rfl⟩ := h
  obtain ⟨rs', rd', e, -⟩ := raiseFlags_frame { s with regs := rs, raised := rd } k lane fl
  exact ⟨rs', rd', e⟩

theorem flagged_fab (h : Flagged s t) : t.fab = s.fab := by
  obtain ⟨rs, rd, rfl⟩ := h
  rfl

theorem sameMemory_flagged (h : Flagged s t) : SameMemory s t := by
  obtain ⟨rs, rd, rfl⟩ := h
  exact ⟨fun st => by cases st <;> rfl, rfl, fun st => by cases st <;> rfl⟩

/-- Flags do not bear on where a result goes. -/
theorem flagged_emitAll (h : Flagged s t) (site : Site) (lat : Nat) (k : Tok) (ts : List (Option Target)) :
    Flagged (s.emitAll site lat k ts) (t.emitAll site lat k ts) := by
  induction ts generalizing s t with
  | nil => exact h
  | cons a r ih =>
    refine ih ?_
    obtain ⟨rs, rd, rfl⟩ := h
    refine ⟨rs, rd, ?_⟩
    have hroute : ∀ a : Target, ({ s with regs := rs, raised := rd } : State).route site a = s.route site a := fun _ => rfl
    simp only [State.emit, State.emitAt, hroute]
    split <;> rfl

end

theorem sameMemory_emitAll (s : State) (site : Site) (lat : Nat) (k : Tok) (ts : List (Option Target)) :
    SameMemory s (s.emitAll site lat k ts) := by
  obtain ⟨l, -, e⟩ := emitAll_cases site lat k ts s
  exact e ▸ sameMemory_fab s _

/-! The turn of a set (R161). -/

section
variable {s : State} {f : Firing} {w : Nat} {sls : List Slot} {eos : Bool} {x : Stream}

/-- Whether the first slot of a stream node's set holds a marker. -/
def headEos (f : Firing) (sls : List Slot) : Bool := ((f.tok? (sls.headD .a)).map Tok.eos).getD false

/-- A set in its turn goes on with the state kept of its parent. -/
theorem turn_inTurn (h : InTurn s f w sls eos x) (he : headEos f sls = eos) :
    s.turn f sls w = .go (parentOf f w) (f.dep - w) x.next x := by
  obtain ⟨-, hdeep, hknown, hnext, hfits⟩ := h
  unfold headEos at he
  rw [hnext] at hfits ⊢
  unfold State.turn
  simp only [if_neg (Nat.not_lt.2 hdeep), popField_eq, he]
  obtain hx | ⟨hx, hroom, rfl⟩ := hknown
  · simp only [hx]
    cases eos <;> simp at hfits <;> simp [hfits, hnext]
  · have hj : indexOf f w = 0 := hnext.symm
    rw [hj] at hfits ⊢
    simp only [hx, if_neg (Nat.not_le.2 hroom)]
    cases eos <;> simp at hfits <;> simp [hfits]

/-- A set whose tag has no index field. -/
theorem turn_shallow (h : f.dep < w) : s.turn f sls w = .trap { code := tcTagDepth, aux0 := f.dep, aux1 := w } := if_pos h

section
variable (hdeep : w ≤ f.dep) (hsets : ∀ y ∈ s.fab.sets, y.site ≠ f.site)

theorem waiting_empty (hsets : ∀ y ∈ s.fab.sets, y.site ≠ f.site) (p : DWord) (dp : Nat) (c : Bool → Nat → Bool) :
    s.waiting f.site sls p dp w c = false := by
  refine List.any_eq_false.2 fun y hy => ?_
  simp [hsets y hy]

include hdeep hsets

theorem turn_ahead (hx : s.stream? f.site (parentOf f w) (f.dep - w) = some x) (hj : x.next < indexOf f w) : s.turn f sls w = .wait := by
  have hj' : ¬ indexOf f w < x.next := by omega
  unfold State.turn
  simp [if_neg (Nat.not_lt.2 hdeep), popField_eq, hx, waiting_empty hsets, hj, hj']

theorem turn_behind (hx : s.stream? f.site (parentOf f w) (f.dep - w) = some x) (hj : indexOf f w < x.next) (he : headEos f sls = false) :
    ∃ c : Cause, c.code = tcDupToken ∧ s.turn f sls w = .trap c := by
  unfold headEos at he
  unfold State.turn
  simp only [if_neg (Nat.not_lt.2 hdeep), popField_eq, hx, waiting_empty hsets, he, hj]
  exact ⟨_, rfl, rfl⟩

theorem turn_first_ahead (hx : s.stream? f.site (parentOf f w) (f.dep - w) = none) (hroom : s.streamCount f.site < 8)
    (hj : 0 < indexOf f w) : s.turn f sls w = .wait := by
  unfold State.turn
  simp [if_neg (Nat.not_lt.2 hdeep), popField_eq, hx, waiting_empty hsets, Nat.not_le.2 hroom, Nat.pos_iff_ne_zero.1 hj]

end

end

end Sys2Proof.Laws
end

section
/-! PROOF. SRED, SSCAN and SZIP (R165, R166): each takes the tokens of its streams in turn, adds or pairs them, and ends at the marker. -/

namespace Sys2Proof.Laws

open Sys2Proof Sys2Proof.Machine Sys2Proof.Claims

/-! The set of a stream node. -/

section
variable {f : Firing} {k : Tok}

theorem toks_onlyA (h : OnlyA f k) : f.toks = [(.a, k)] := by
  obtain ⟨ha, hb, hc, hp, -⟩ := h
  simp [Firing.toks, Firing.tok?, ha, hb, hc, hp]

/-- A set of one token is what its token is (R28). -/
theorem kind_onlyA (h : OnlyA f k) : f.kind false = if k.eos then .eos else if k.nul then .nul else .data := by
  have ht := toks_onlyA h
  obtain ⟨-, -, -, -, hr⟩ := h
  have hroll : ¬∀ x ∈ f.toks, x.2.rol = true := by simp [ht, hr]
  cases he : k.eos with
  | true => exact kind_eos hroll (by simp [ht, he])
  | false => exact (kind_unmarked hroll (by simp [ht, he])  (he := by simp [ht, he])).trans (by simp [ht])

theorem headEos_onlyA (h : OnlyA f k) : headEos f [.a] = k.eos := by
  simp [headEos, Firing.tok?, h.1]

/-- Rule 4 of R28 at a stream node: slot a holds a null token. -/
theorem nul_onlyA (h : OnlyA f k) : (f.a.map Tok.nul).getD false = k.nul := by simp [h.1]

end

/-! Nodes that take one stream (R165, R168). -/

section
variable {s : State} {f : Firing} {h : Hdr} {w lat : Nat} {token finish : Firing → DWord → Nat → Nat → Stream → State → State}
  (hcur : s.cur = some f) (hk : f.kind false ≠ .roll)
include hcur hk

theorem consume_waits (ht : s.turn f [.a] w = .wait) : consume s h w lat token finish = .next { s with held := true } := by
  simp only [consume, onFiring, hcur, ht]

theorem consume_traps {c : Cause} (ht : s.turn f [.a] w = .trap c) : consume s h w lat token finish = .next (s.trapFiring f c) := by
  simp only [consume, onFiring, hcur, ht]

theorem consume_goes {p : DWord} {dp j : Nat} {x : Stream} (ht : s.turn f [.a] w = .go p dp j x) :
    consume s h w lat token finish = .next (if f.kind false = .eos then finish f p dp j x s else token f p dp j x s) := by
  simp only [consume, onFiring, hcur, ht]

end

section
variable {s : State} {f : Firing} {h : Hdr} {w lat : Nat} {token finish : Firing → DWord → Nat → Nat → Stream → State → State} {x : Stream} {k : Tok}

/-- A data or null token in its turn goes to the node's act on tokens. -/
theorem consume_token (hf : OnlyA f k) (ht : InTurn s f w [.a] false x) (he : k.eos = false) :
    consume s h w lat token finish = .next (token f (parentOf f w) (f.dep - w) x.next x s) := by
  have hk := kind_onlyA hf
  rw [he] at hk
  have hdata : f.kind false ≠ .roll ∧ f.kind false ≠ .eos := by
    rw [hk]
    cases k.nul <;> decide
  rw [consume_goes ht.focus hdata.1 (turn_inTurn ht ((headEos_onlyA hf).trans he)), if_neg hdata.2]

/-- The marker in its turn goes to the node's act on markers. -/
theorem consume_marker (hf : OnlyA f k) (ht : InTurn s f w [.a] true x) (he : k.eos = true) :
    consume s h w lat token finish = .next (finish f (parentOf f w) (f.dep - w) x.next x s) := by
  have hk : f.kind false = .eos := (kind_onlyA hf).trans (if_pos he)
  rw [consume_goes ht.focus (by rw [hk]; decide) (turn_inTurn ht ((headEos_onlyA hf).trans he)), if_pos hk]

end

/-! Data sets at the nodes of R165, R166 and R168. -/

/-- The instructions that take each parent's tokens in ascending order. -/
def ordered (h : Hdr) (sat tr : Bool) (rm : Rnd) (ops : Bool) (sw : BitVec 5) (rt : BitVec 14) : List Instr :=
  [.sred h sat rm ops sw, .sscan h sat rm ops sw, .szip h tr sw, .rmax h rt sw, .rsumx h rm rt sw, .rsqs h rm rt sw]

/-- They hold a data set whose turn is to wait, and trap one whose turn is a trap. -/
theorem ordered_turn {s : State} {f : Firing} {h : Hdr} {sat tr : Bool} {rm : Rnd} {ops : Bool} {sw : BitVec 5} {rt : BitVec 14} {i : Instr}
    (hr : Runs s f h []) (hi : i ∈ ordered h sat tr rm ops sw rt) : ∃ sls : List Slot, headEos f sls = false ∧
      (s.turn f sls (sw.toNat + 1) = .wait → exec i s = .next { s with held := true }) ∧
      ∀ c, s.turn f sls (sw.toNat + 1) = .trap c → exec i s = .next (s.trapFiring f c) := by
  have hk : f.kind false = .data := kind_data false hr.fed hr.plain
  have hroll : f.kind false ≠ .roll := by rw [hk]; decide
  have hmark : (f.a.map Tok.eos).getD false = false := by
    cases ha : f.a with
    | none => rfl
    | some t => exact (hr.plain _ (mem_toks.2 (show f.tok? .a = some t from ha))).2.1
  have one : ∀ i, (∃ (w lat : Nat) (token finish : _), w = sw.toNat + 1 ∧ exec i s = consume s h w lat token finish) → ∃ sls : List Slot,
      headEos f sls = false ∧ (s.turn f sls (sw.toNat + 1) = .wait → exec i s = .next { s with held := true }) ∧
      ∀ c, s.turn f sls (sw.toNat + 1) = .trap c → exec i s = .next (s.trapFiring f c) := by
    rintro i ⟨w, lat, token, finish, rfl, he⟩
    exact ⟨[.a], hmark, fun ht => he.trans (consume_waits hr.focus hroll ht), fun c ht => he.trans (consume_traps hr.focus hroll ht)⟩
  have zip : ∃ sls : List Slot, headEos f sls = false ∧
      (s.turn f sls (sw.toNat + 1) = .wait → exec (.szip h tr sw) s = .next { s with held := true }) ∧
      ∀ c, s.turn f sls (sw.toNat + 1) = .trap c → exec (.szip h tr sw) s = .next (s.trapFiring f c) := by
    refine ⟨[.a, .b], hmark, fun ht => ?_, fun c ht => ?_⟩ <;>
    · show execSzip h tr sw s = _
      simp [execSzip, onFiring, hr.focus, hk, ht]
  simp only [ordered, List.mem_cons, List.not_mem_nil, or_false] at hi
  obtain rfl | rfl | rfl | rfl | rfl | rfl := hi
  · exact one _ ⟨_, _, _, _, rfl, show execSred h sat rm ops sw s = _ from rfl⟩
  · exact one _ ⟨_, _, _, _, rfl, show execSscan h sat rm ops sw s = _ by delta execSscan; rfl⟩
  · exact zip
  · exact one _ ⟨_, _, _, _, rfl, show execRmax h rt sw s = _ by delta execRmax rowNode; rfl⟩
  · exact one _ ⟨_, _, _, _, rfl, show execRsumx h rm rt sw s = _ by delta execRsumx rowNode; rfl⟩
  · exact one _ ⟨_, _, _, _, rfl, show execRsqs h rm rt sw s = _ by delta execRsqs rowNode; rfl⟩

/-! Sums (R165). -/

section
variable {t : Ty} {ops : Bool} {rm : Rnd} {d : Word} {x : Stream}

theorem accumulate_float (hf : t.isFloat = true) (k : Nat) : x.accumulate t ops rm d k =
    ({ x with facc := BitVec.ofNat 32 (addElem x.facc (laneVal t d k) ops rm).1 }, (addElem x.facc (laneVal t d k) ops rm).2) := if_pos hf

theorem accumulate_int (hf : t.isFloat = false) (k : Nat) : x.accumulate t ops rm d k =
    ({ x with iacc := x.iacc + if ops then laneInt t d k * laneInt t d k else laneInt t d k }, 0) := if_neg (by simp [hf])

/-- An element is added exactly, or rounded once to f32 (R59, R165). -/
theorem accumulate_float_rounded (hf : t.isFloat = true) (k : Nat) :
    (x.accumulate t ops rm d k).1 = { x with facc := (x.accumulate t ops rm d k).1.facc } ∧
    Rounded .f32 rm false (Val.add rm (Fmt.f32.value x.facc.toNat) (if ops then Val.mul (laneVal t d k) (laneVal t d k) else laneVal t d k))
      (addElem x.facc (laneVal t d k) ops rm).1 (x.accumulate t ops rm d k).2 ∧
    (x.accumulate t ops rm d k).1.facc = BitVec.ofNat 32 (addElem x.facc (laneVal t d k) ops rm).1 := by
  rw [accumulate_float hf]
  exact ⟨rfl, rounded_roundLane _ .f32 rm false, rfl⟩

/-- An element changes the sums of a stream alone. -/
theorem accumulate_cases (x : Stream) (t : Ty) (ops : Bool) (rm : Rnd) (d : Word) (k : Nat) :
    ∃ a b, (x.accumulate t ops rm d k).1 = { x with facc := a, iacc := b } := by
  unfold Stream.accumulate
  split
  · exact ⟨_, x.iacc, rfl⟩
  · exact ⟨x.facc, _, rfl⟩

theorem summed_cases (n : Nat) : ∃ a b, summed t ops rm d n x = { x with facc := a, iacc := b } := by
  induction n with
  | zero => exact ⟨x.facc, x.iacc, rfl⟩
  | succ n ih =>
    obtain ⟨a, b, e⟩ := ih
    obtain ⟨a', b', e'⟩ := accumulate_cases (summed t ops rm d n x) t ops rm d n
    exact ⟨a', b', by rw [summed, e', e]⟩

/-- Reduce gives a sum what the statements call `ReducedSum`. -/
theorem reducedSum (t : Ty) (sat : Bool) (x : Stream) : ReducedSum t sat x (BitVec.ofNat 32 (x.reduce t sat).1) (x.reduce t sat).2 := by
  unfold ReducedSum Stream.reduce
  split
  · exact ⟨BitVec.ofNat_toNat .., rfl⟩
  · have hred := reduced x.iacc 32 t.isSigned sat
    rwa [BitVec.toNat_ofNat, Nat.mod_eq_of_lt hred.1]

/-- The lanes of a token are added one after another, whatever is sent after each. -/
theorem scanLanes_fst {ctx : Nat} {send : Stream → Nat → State → State} (n k : Nat) (s : State) :
    (scanLanes t ops rm d ctx send n k (summed t ops rm d k x) s).1 = summed t ops rm d (k + n) x := by
  induction n generalizing k s with
  | zero => rfl
  | succ n ih => exact (ih (k + 1) _).trans (by rw [Nat.add_right_comm, Nat.add_assoc])

/-- With nothing sent, the lanes of a token raise their flags alone. -/
theorem scanLanes_quiet {ctx : Nat} {s v : State} (hv : Flagged s v) (n k : Nat) (x : Stream) :
    Flagged s (scanLanes t ops rm d ctx (fun _ _ s => s) n k x v).2 := by
  induction n generalizing k v x with
  | zero => exact hv
  | succ n ih => exact ih (flagged_raiseFlags hv ..) _ _

/-- The result that SSCAN sends after an element, as it does of each (R165). -/
def scanSend (ctx : Nat) (t : Ty) (sat : Bool) (site : Site) (ts : List (Option Target)) (tok : Stream → Nat → Tok) (x : Stream) (k : Nat)
    (s : State) : State :=
  (s.raiseFlags ctx 0 (x.reduce t sat).2).emitAll site 4 (tok x k) ts

/-- SSCAN's results are sent one after another, and flags are raised besides. -/
theorem scanLanes_sends {ctx : Nat} {sat : Bool} {site : Site} {ts : List (Option Target)} {tok : Stream → Nat → Tok} {u v : State}
    (hv : Flagged u v) (n k : Nat) :
    Flagged (foldState (fun v i => v.emitAll site 4 (tok (summed t ops rm d (i + 1) x) i) ts) u (upFrom k n))
      (scanLanes t ops rm d ctx (scanSend ctx t sat site ts tok) n k (summed t ops rm d k x) v).2 := by
  induction n generalizing k u v with
  | zero => exact hv
  | succ n ih => exact ih (flagged_emitAll (flagged_raiseFlags (flagged_raiseFlags hv ..) ..) ..) (k + 1)

end

theorem sameMemory_foldEmit {site : Site} {lat : Nat} {ts : List (Option Target)} (tok : Nat → Tok) (l : List Nat) (s : State) :
    SameMemory s (foldState (fun v i => v.emitAll site lat (tok i) ts) s l) := by
  induction l generalizing s with
  | nil => exact sameMemory_fab s s.fab
  | cons a r ih => exact sameMemory_trans (sameMemory_emitAll ..) (ih _)

/-- A null token goes under a parent's tag as its other token does. -/
theorem under_nul (k : Tok) (p : DWord) (dp w j : Nat) : ({ k with nul := true } : Tok).under p dp w j = { k.under p dp w j with nul := true } := by
  unfold Tok.under
  split <;> rfl

/-- The depth of SSCAN's results: that of its tokens and the bits of a lane. -/
theorem scanDepth {f : Firing} {w : Nat} (hdeep : w ≤ f.dep) (t : Ty) : f.dep - w + (w + logLanes t) = f.dep + logLanes t := by omega

section
variable {s : State} {f : Firing} {h : Hdr} {sat : Bool} {rm : Rnd} {ops : Bool} {sw : BitVec 5} {x : Stream} {k : Tok}

/-- A stream stepped and summed is found under its parent once it is stored. -/
theorem stream?_putStream_known {w : Nat} (hx : Known s f w x) {y : Stream} (hy : ∃ a b, y = { stepped s f x with facc := a, iacc := b })
    (v : State) : (v.putStream y).stream? f.site (parentOf f w) (f.dep - w) = some y := by
  obtain ⟨a, b, rfl⟩ := hy
  obtain ⟨h1, h2, h3⟩ := known_key hx
  have hfind := stream?_putStream v { stepped s f x with facc := a, iacc := b }
  rwa [show ({ stepped s f x with facc := a, iacc := b } : Stream).site = f.site from h1,
    show ({ stepped s f x with facc := a, iacc := b } : Stream).tag = parentOf f w from h2,
    show ({ stepped s f x with facc := a, iacc := b } : Stream).dep = f.dep - w from h3] at hfind

theorem sred_adds (hf : OnlyA f k) (ht : InTurn s f (sw.toNat + 1) [.a] false x) (he : k.eos = false) (hn : k.nul = false) :
    ∃ t : State, exec (.sred h sat rm ops sw) s = .next t ∧ t.stream? f.site (parentOf f (sw.toNat + 1)) (f.dep - (sw.toNat + 1)) =
      some (summed h.ty ops rm (f.data .a) h.ty.lanes (stepped s f x)) ∧ t.fab.flights = s.fab.flights ∧ SameMemory s t := by
  have hquiet : Flagged s (scanLanes h.ty ops rm (f.data .a) f.k (fun _ _ s => s) h.ty.lanes 0 (stepped s f x) s).2 :=
    scanLanes_quiet (flagged_refl s) ..
  have hsum : (scanLanes h.ty ops rm (f.data .a) f.k (fun _ _ s => s) h.ty.lanes 0 (stepped s f x) s).1 = _ :=
    (scanLanes_fst (x := stepped s f x) h.ty.lanes 0 s).trans (by rw [Nat.zero_add])
  refine ⟨_, show execSred h sat rm ops sw s = _ from consume_token hf ht he, ?_⟩
  simp only [nul_onlyA hf, hn, Bool.false_eq_true, if_false]
  change ((scanLanes h.ty ops rm (f.data .a) f.k (fun _ _ s => s) h.ty.lanes 0 (stepped s f x) s).2.putStream
    (scanLanes h.ty ops rm (f.data .a) f.k (fun _ _ s => s) h.ty.lanes 0 (stepped s f x) s).1).stream? _ _ _ = _ ∧ _
  rw [hsum]
  refine ⟨stream?_putStream_known ht.known (summed_cases _) _, ?_, ?_⟩
  · exact (putStream_flights ..).trans (congrArg Fabric.flights (flagged_fab hquiet))
  · exact sameMemory_trans (sameMemory_flagged hquiet) (hsum ▸ sameMemory_putStream ..)

theorem sred_nul (hf : OnlyA f k) (ht : InTurn s f (sw.toNat + 1) [.a] false x) (he : k.eos = false) (hn : k.nul = true) :
    exec (.sred h sat rm ops sw) s = .next (s.putStream (stepped s f x)) := by
  show execSred h sat rm ops sw s = _
  refine (consume_token hf ht he).trans ?_
  simp only [nul_onlyA hf, hn, if_true]
  rfl

theorem sred_ends (hf : OnlyA f k) (ht : InTurn s f (sw.toNat + 1) [.a] true x) (he : k.eos = true) :
    exec (.sred h sat rm ops sw) s = .next (((s.raiseFlags f.k 0 (x.reduce h.ty sat).2).dropStream f.site (parentOf f (sw.toNat + 1))
      (f.dep - (sw.toNat + 1))).emitAll f.site 4 (f.streamResult (parentOf f (sw.toNat + 1)) (f.dep - (sw.toNat + 1)) (reduceTy h.ty)
        (x.reduce h.ty sat).1 x.poi x.after) [h.t0, h.t1]) :=
  show execSred h sat rm ops sw s = _ from consume_marker hf ht he

/-- The result of SSCAN for element `i` of a token, from the sums up to it. -/
def scanTok (f : Firing) (t : Ty) (sat : Bool) (w b : Nat) (x : Stream) (i : Nat) : Tok :=
  (f.streamResult (parentOf f w) (f.dep - w) (reduceTy t) (x.reduce t sat).1 x.poi x.after).under (parentOf f w) (f.dep - w)
    (w + logLanes t) (b + i)

section
variable (hf : OnlyA f k) (hfits : f.dep + logLanes h.ty ≤ 44)
include hf hfits

section
variable (ht : InTurn s f (sw.toNat + 1) [.a] false x) (he : k.eos = false)
  (hw : s.windowFull f.site (parentOf f (sw.toNat + 1)) (f.dep - (sw.toNat + 1)) (sw.toNat + 1 + logLanes h.ty)
    (h.ty.lanes * x.next + h.ty.lanes - 1) = false)
include ht he hw

/-- A data token of SSCAN is scanned lane by lane, and the sums are stored. -/
theorem sscan_scans (hn : k.nul = false) {r : Stream × State} (hr : r = scanLanes h.ty ops rm (f.data .a) f.k (scanSend f.k h.ty sat f.site
      [h.t0, h.t1] (scanTok f h.ty sat (sw.toNat + 1) (h.ty.lanes * x.next))) h.ty.lanes 0 (stepped s f x) s) :
    exec (.sscan h sat rm ops sw) s = .next (r.2.putStream r.1) := by
  show execSscan h sat rm ops sw s = _
  delta execSscan
  refine (consume_token hf ht he).trans ?_
  simp only [nul_onlyA hf, hn, Bool.false_eq_true, if_false, scanDepth ht.deep, if_neg (Nat.not_lt.2 hfits), hw]
  subst hr
  rfl

theorem sscan_nul (hn : k.nul = true) : exec (.sscan h sat rm ops sw) s = .next (foldState (fun v i => v.emitAll f.site 4
    ({ f.streamResult (parentOf f (sw.toNat + 1)) (f.dep - (sw.toNat + 1)) (reduceTy h.ty) 0 (stepped s f x).poi (stepped s f x).after with
      nul := true }.under (parentOf f (sw.toNat + 1)) (f.dep - (sw.toNat + 1)) (sw.toNat + 1 + logLanes h.ty) (h.ty.lanes * x.next + i))
      [h.t0, h.t1]) (s.putStream (stepped s f x)) (upto h.ty.lanes)) := by
  show execSscan h sat rm ops sw s = _
  delta execSscan
  refine (consume_token hf ht he).trans ?_
  simp only [nul_onlyA hf, hn, Bool.false_eq_true, if_false, if_true, scanDepth ht.deep, if_neg (Nat.not_lt.2 hfits), hw]
  rfl

end

theorem sscan_ends (ht : InTurn s f (sw.toNat + 1) [.a] true x) (he : k.eos = true) : exec (.sscan h sat rm ops sw) s =
    .next ((s.dropStream f.site (parentOf f (sw.toNat + 1)) (f.dep - (sw.toNat + 1))).emitAll f.site 4
      (({ f.streamResult (parentOf f (sw.toNat + 1)) (f.dep - (sw.toNat + 1)) (reduceTy h.ty) 0 false with eos := true } : Tok).under
        (parentOf f (sw.toNat + 1)) (f.dep - (sw.toNat + 1)) (sw.toNat + 1 + logLanes h.ty) (h.ty.lanes * x.next)) [h.t0, h.t1]) := by
  show execSscan h sat rm ops sw s = _
  delta execSscan
  refine (consume_marker hf ht he).trans ?_
  simp only [scanDepth ht.deep, if_neg (Nat.not_lt.2 hfits)]

end

end

/-! SZIP (R166). -/

/-- A set that holds tokens in slots a and b alone, no roll token among them. -/
structure HoldsPair (f : Firing) (ka kb : Tok) : Prop where
  a : f.a = some ka
  b : f.b = some kb
  c : f.c = none
  p : f.p = none
  rola : ka.rol = false
  rolb : kb.rol = false

section
variable {s : State} {f : Firing} {h : Hdr} {trunc : Bool} {sw : BitVec 5} {x : Stream} {ka kb : Tok} (hf : HoldsPair f ka kb)
include hf

theorem toks_pair : f.toks = [(.a, ka), (.b, kb)] := by
  simp [Firing.toks, Firing.tok?, hf.a, hf.b, hf.c, hf.p]

theorem pair_noRoll : ¬∀ x ∈ f.toks, x.2.rol = true := by simp [toks_pair hf, hf.rola]

theorem kind_pair_tokens (ha : ka.eos = false) (hb : kb.eos = false) : f.kind false = if ka.nul || kb.nul then .nul else .data :=
  (kind_unmarked (pair_noRoll hf) (by simp [toks_pair hf, ha]) (by simp [toks_pair hf, ha, hb])).trans (by simp [toks_pair hf])

theorem kind_pair_markers (ha : ka.eos = true) (hb : kb.eos = true) : f.kind false = .eos :=
  kind_eos (pair_noRoll hf) (by simp [toks_pair hf, ha, hb])

/-- A marker that meets a data token makes a mixed set, which names the marker's slot. -/
theorem kind_pair_mixed (hne : ka.eos ≠ kb.eos) : ∃ sl, f.kind false = .mixed sl := by
  have hsome : (f.toks.find? fun x => x.2.eos).isSome = true := by
    rw [toks_pair hf, List.find?_isSome]
    cases ha : ka.eos <;> cases hb : kb.eos <;> simp_all
  obtain ⟨y, hy⟩ := Option.isSome_iff_exists.1 hsome
  refine ⟨y.1, kind_mixed (pair_noRoll hf) ?_ hy⟩
  rw [toks_pair hf]
  cases ha : ka.eos <;> cases hb : kb.eos <;> simp_all

theorem headEos_pair : headEos f [.a, .b] = ka.eos := by simp [headEos, Firing.tok?, hf.a]

variable {eos : Bool} (ht : InTurn s f (sw.toNat + 1) [.a, .b] eos x) (he : ka.eos = eos)
include ht he

theorem szip_turn : s.turn f [.a, .b] (sw.toNat + 1) = .go (parentOf f (sw.toNat + 1)) (f.dep - (sw.toNat + 1)) x.next x :=
  turn_inTurn ht ((headEos_pair hf).trans he)

theorem szip_data (hk : f.kind false = .data) : exec (.szip h trunc sw) s = .next (((s.putStream { x with next := x.next + 1, since := s.cyc }).emit
    f.site h.t0 1 (f.result h false h.ty ka.data)).emit f.site h.t1 1 (f.result h false h.ty kb.data)) := by
  have hda : f.data .a = ka.data := by simp [Firing.data, Firing.tok?, hf.a]
  have hdb : f.data .b = kb.data := by simp [Firing.data, Firing.tok?, hf.b]
  show execSzip h trunc sw s = _
  simp only [execSzip, onFiring, ht.focus, hk, Bool.false_eq_true, if_false, szip_turn hf ht he, hda, hdb]

theorem szip_nul (hk : f.kind false = .nul) : exec (.szip h trunc sw) s = .next ((s.putStream { x with next := x.next + 1, since := s.cyc }).emitAll
    f.site 1 (f.marker h false true false false) [h.t0, h.t1]) := by
  show execSzip h trunc sw s = _
  simp only [execSzip, onFiring, ht.focus, hk, Bool.false_eq_true, if_false, szip_turn hf ht he]

theorem szip_ends (hk : f.kind false = .eos) : exec (.szip h trunc sw) s = .next ((s.dropStream f.site (parentOf f (sw.toNat + 1))
    (f.dep - (sw.toNat + 1))).emitAll f.site 1 (f.marker h false false true false) [h.t0, h.t1]) := by
  show execSzip h trunc sw s = _
  simp only [execSzip, onFiring, ht.focus, hk, Bool.false_eq_true, if_false, szip_turn hf ht he]

theorem szip_mixed {sl : Slot} (hk : f.kind false = .mixed sl) : exec (.szip h false sw) s = .next (s.streamLen f sl x.next x.next) := by
  show execSzip h false sw s = _
  simp only [execSzip, onFiring, ht.focus, hk, Bool.false_eq_true, if_false, szip_turn hf ht he, Bool.not_false, if_true]

end

end Sys2Proof.Laws

namespace Sys2Proof.Proofs

open Sys2Proof Sys2Proof.Machine Sys2Proof.Claims Sys2Proof.Laws

/-- R161: the turn of a set is that of its index among those of its parent. -/
theorem streamTurns : Claims.StreamTurns := by
  intro s f h sat tr rm ops sw rt i hr hi w p j
  have hp : p = parentOf f w := rfl
  have hj : j = indexOf f w := rfl
  obtain ⟨sls, hhead, hwait, htrap⟩ := ordered_turn hr hi
  refine ⟨fun hd => htrap _ (turn_shallow hd), fun x hd hx hlt hs => hwait (turn_ahead hd hs hx hlt), fun x hd hx hlt hs => ?_,
    fun hd hx hroom hlt hs => hwait (turn_first_ahead hd hs hx hroom hlt)⟩
  obtain ⟨c, hc, ht⟩ := turn_behind hd hs hx hlt hhead
  exact ⟨c, hc, htrap c ht⟩

/-- R165: the sums of a token are those of its elements in ascending order, and the marker sends what they reduce to. -/
theorem streamReduction : Claims.StreamReduction := by
  intro s f h sat rm ops sw x k w p dp n v y ty sum part hf
  refine ⟨fun ht he => ⟨sred_adds hf ht he, sred_nul hf ht he, fun hfits hw => ⟨fun hn => ?_, fun hn => ?_⟩⟩, fun ht he =>
    ⟨⟨_, _, reducedSum h.ty sat x, ?_⟩, fun hfits => sscan_ends hf hfits ht he⟩, fun z d i =>
    ⟨fun hfl => accumulate_float_rounded hfl i, fun hfl => accumulate_int hfl i⟩⟩
  · have hsends := scanLanes_sends (t := h.ty) (ops := ops) (rm := rm) (d := f.data .a) (x := y) (ctx := f.k) (sat := sat) (site := f.site)
      (ts := [h.t0, h.t1]) (tok := scanTok f h.ty sat w (n * x.next)) (flagged_refl s) n 0
    have hsum := scanLanes_fst (t := h.ty) (ops := ops) (rm := rm) (d := f.data .a) (x := y) (ctx := f.k)
      (send := scanSend f.k h.ty sat f.site [h.t0, h.t1] (scanTok f h.ty sat w (n * x.next))) n 0 s
    rw [Nat.zero_add] at hsum
    have htok : ∀ i, scanTok f h.ty sat w (n * x.next) (sum (i + 1)) i = part (BitVec.ofNat 32 ((sum (i + 1)).reduce h.ty sat).1) i := by
      intro i
      obtain ⟨a, b, e⟩ := summed_cases (t := h.ty) (ops := ops) (rm := rm) (d := f.data .a) (x := y) (i + 1)
      simp only [scanTok, part, Firing.streamResult, BitVec.ofNat_toNat, BitVec.setWidth_eq]
      rw [show sum (i + 1) = _ from e]
      rfl
    refine ⟨_, fun i => BitVec.ofNat 32 ((sum (i + 1)).reduce h.ty sat).1, sscan_scans hf hfits ht he hw hn rfl, ?_,
      fun i _ => ⟨_, reducedSum h.ty sat _⟩, ?_, ?_⟩
    · exact (congrArg (fun z => (State.putStream _ z).stream? f.site p dp) hsum).trans
        (stream?_putStream_known ht.known (summed_cases _) _)
    · exact sameMemory_trans (sameMemory_trans (sameMemory_foldEmit _ _ s) (sameMemory_flagged hsends)) (sameMemory_putStream ..)
    · refine (putStream_flights ..).trans ((congrArg Fabric.flights (flagged_fab hsends)).trans ?_)
      simp only [← htok]
      rfl
  · rw [sscan_nul hf hfits ht he hw hn]
    simp only [under_nul]
    rfl
  · rw [sred_ends hf ht he]
    simp only [Firing.streamResult, BitVec.ofNat_toNat, BitVec.setWidth_eq]
    rfl

/-- R166: a pair of the two streams is a data, null, end or mixed set. -/
theorem streamZip : Claims.StreamZip := by
  intro s f h trunc sw x ka kb w p o next ha hb hc hp hra hrb
  have hf : HoldsPair f ka kb := ⟨ha, hb, hc, hp, hra, hrb⟩
  refine ⟨fun ht hea heb => ⟨fun hna hnb => ?_, fun hn => ?_⟩, fun ht hea heb => szip_ends hf ht hea (kind_pair_markers hf hea heb),
    fun eos ht he hne htr => ?_⟩
  · exact szip_data hf ht hea ((kind_pair_tokens hf hea heb).trans (by simp [hna, hnb]))
  · exact szip_nul hf ht hea ((kind_pair_tokens hf hea heb).trans (if_pos (by simpa using hn)))
  · subst htr
    obtain ⟨sl, hk⟩ := kind_pair_mixed hf hne
    exact ⟨_, rfl, szip_mixed hf ht he.symm hk⟩

/-- Settles O16: by the turn of a set, then by whether its tokens are data, null or markers. -/
theorem streamOrder : Obligations.StreamOrder := ⟨streamTurns, streamReduction, streamZip⟩

end Sys2Proof.Proofs
end

section
/-! PROOF. The row statistics, RDLY and RREL (R168 to R170). -/

namespace Sys2Proof.Laws

open Sys2Proof Sys2Proof.Machine Sys2Proof.Claims

/-! The running value of a row (R168). -/

section
variable {t : Ty} {d : Word} {one : Word → Val → Nat × Nat}

theorem rowLanes_fst {ctx : Nat} {v : Word} (n k : Nat) (s : State) :
    (rowLanes t d one ctx n k (rowValue t one d k v) s).1 = rowValue t one d (k + n) v := by
  induction n generalizing k s with
  | zero => rfl
  | succ n ih => exact (ih (k + 1) _).trans (by rw [Nat.add_right_comm, Nat.add_assoc])

theorem rowLanes_quiet {ctx : Nat} {s u : State} (hu : Flagged s u) (n k : Nat) (v : Word) :
    Flagged s (rowLanes t d one ctx n k v u).2 := by
  induction n generalizing k u v with
  | zero => exact hu
  | succ n ih => exact ih (flagged_raiseFlags hu ..) _ _

end

/-- The stream of a row node after a token: a row's first token clears the running value (R168). -/
def rowStepped (s : State) (f : Firing) (n : Nat) (x : Stream) : Stream :=
  stepped s f (if x.next % n = 0 then { x with facc := 0, poi := false } else x)

/-- The running value of a row after a token; a null token adds nothing (R168). -/
def rowTaken (s : State) (f : Firing) (h : Hdr) (n : Nat) (one : Word → Val → Nat × Nat) (nul : Bool) (x : Stream) : Word :=
  if nul then (rowStepped s f n x).facc else rowValue h.ty one (f.data .a) h.ty.lanes (rowStepped s f n x).facc

theorem rowStepped_eq (s : State) (f : Firing) (n : Nat) (x : Stream) : rowStepped s f n x =
    { (if x.next % n = 0 then { x with facc := 0, poi := false } else x).taint f with next := x.next + 1, since := s.cyc } := by
  unfold rowStepped
  split <;> rfl

theorem rowStepped_cases (s : State) (f : Firing) (n : Nat) (x : Stream) :
    ∃ b c, rowStepped s f n x = { stepped s f x with facc := b, poi := c } := by
  unfold rowStepped
  split
  · exact ⟨_, _, rfl⟩
  · exact ⟨x.facc, (stepped s f x).poi, rfl⟩

section
variable {s : State} {f : Firing} {h : Hdr} {n w : Nat} {one : Word → Val → Nat × Nat} {x : Stream} {k : Tok} (hf : OnlyA f k)
include hf

/-- A token of a row node (R168): the running value is stored, and sent after the row's last token. -/
theorem rowNode_token (ht : InTurn s f w [.a] false x) (he : k.eos = false) :
    ∃ u : State, Flagged s u ∧ (k.nul = true → u = s) ∧ rowNode s h n w one =
      .next (if (x.next + 1) % n = 0 then
        (u.putStream { rowStepped s f n x with facc := rowTaken s f h n one k.nul x }).emitAll f.site 4
          ((f.streamResult (parentOf f w) (f.dep - w) .f32 (rowTaken s f h n one k.nul x).toNat (rowStepped s f n x).poi
            (rowStepped s f n x).after).under (parentOf f w) (f.dep - w) w (x.next / n)) [h.t0, h.t1]
        else u.putStream { rowStepped s f n x with facc := rowTaken s f h n one k.nul x }) := by
  unfold rowTaken
  cases hn : k.nul with
  | true =>
    refine ⟨s, flagged_refl s, fun _ => rfl, (consume_token hf ht he).trans ?_⟩
    simp only [nul_onlyA hf, hn, if_true, rowStepped_eq]
  | false =>
    have hval : (rowLanes h.ty (f.data .a) one f.k h.ty.lanes 0 (rowStepped s f n x).facc s).1 =
        rowValue h.ty one (f.data .a) h.ty.lanes (rowStepped s f n x).facc :=
      (rowLanes_fst (v := (rowStepped s f n x).facc) h.ty.lanes 0 s).trans (by rw [Nat.zero_add])
    refine ⟨(rowLanes h.ty (f.data .a) one f.k h.ty.lanes 0 (rowStepped s f n x).facc s).2, rowLanes_quiet (flagged_refl s) .., nofun,
      (consume_token hf ht he).trans ?_⟩
    simp only [Bool.false_eq_true, if_false, ← hval]
    simp only [nul_onlyA hf, hn, Bool.false_eq_true, if_false, rowStepped_eq]

theorem rowNode_ends (ht : InTurn s f w [.a] true x) (he : k.eos = true) (hr : x.next % n = 0) : rowNode s h n w one =
    .next ((s.dropStream f.site (parentOf f w) (f.dep - w)).emitAll f.site 4
      (({ f.streamResult (parentOf f w) (f.dep - w) .f32 0 false with eos := true } : Tok).under (parentOf f w) (f.dep - w) w (x.next / n))
      [h.t0, h.t1]) := by
  refine (consume_marker hf ht he).trans ?_
  simp only [hr, ne_eq, not_true_eq_false, if_false]

theorem rowNode_streamLen (ht : InTurn s f w [.a] true x) (he : k.eos = true) (hr : x.next % n ≠ 0) :
    rowNode s h n w one = .next (s.streamLen f .a x.next x.next) :=
  (consume_marker hf ht he).trans (congrArg _ (if_pos hr))

end

/-- The instructions of the row statistics are row nodes, each with its step. -/
theorem exec_rowNode {s : State} {h : Hdr} {rm : Rnd} {rt : BitVec 14} {sw : BitVec 5} {i : Instr}
    (hi : i ∈ [Instr.rmax h rt sw, .rsumx h rm rt sw, .rsqs h rm rt sw]) :
    exec i s = rowNode s h (rt.toNat + 1) (sw.toNat + 1) (rowStep i) := by
  simp only [List.mem_cons, List.not_mem_nil, or_false] at hi
  obtain rfl | rfl | rfl := hi
  · show execRmax h rt sw s = _
    rfl
  · show execRsumx h rm rt sw s = _
    rfl
  · show execRsqs h rm rt sw s = _
    rfl

/-! The larger magnitude (R168). -/

section
variable {a : Word} {e : Val}

theorem maxMagnitude_of_ne_nan (he : e ≠ .nan) : maxMagnitude a e =
    if (Fmt.f32.value a.toNat).isNaN then (Fmt.f32.canonNaN, 0)
    else if (Fmt.f32.value a.toNat).lt e.magnitude then ((roundToFormat e.magnitude .f32 .rne false).1, 0) else (a.toNat, 0) := by
  cases e with
  | nan => exact absurd rfl he
  | inf g => rfl
  | fin g m x st => rfl

end

/-! RDLY (R169). -/

section
variable {s : State} {f : Firing} {h : Hdr} {depth : BitVec 2} {rt : BitVec 14} {sw : BitVec 5} {x : Stream} {k v : Tok}
  (hcur : s.cur = some f) (hdeep : sw.toNat + 1 ≤ f.dep) (hx : Known s f (sw.toNat + 1) x)

/-- A set of RDLY that holds no roll token acts on the state kept of its parent. -/
theorem rdly_known (hx : Known s f (sw.toNat + 1) x) :
    (s.stream? f.site (parentOf f (sw.toNat + 1)) (f.dep - (sw.toNat + 1))).getD
      { site := f.site, tag := parentOf f (sw.toNat + 1), dep := f.dep - (sw.toNat + 1), since := s.cyc } = x ∧
    ((s.stream? f.site (parentOf f (sw.toNat + 1)) (f.dep - (sw.toNat + 1))).isNone && decide (8 ≤ s.streamCount f.site)) = false := by
  obtain hx | ⟨hx, hroom, rfl⟩ := hx
  · simp [hx]
  · simp [hx, hroom]

include hcur hdeep hx

/-- A row value or row marker, in slot b. -/
theorem rdly_row (ha : f.a = none) (hb : f.b = some v) (hr : v.rol = false) : exec (.rdly h depth rt sw) s =
    .next (rdlyRow s f v (parentOf f (sw.toNat + 1)) (f.dep - (sw.toNat + 1)) (indexOf f (sw.toNat + 1)) x) := by
  obtain ⟨hget, hroom⟩ := rdly_known hx
  have hk : f.kind false ≠ .roll := kind_ne_roll (mem_toks.2 (show f.tok? .b = some v from hb)) hr
  show execRdly h depth rt sw s = _
  simp only [execRdly, onFiring, hcur, if_neg (Nat.not_lt.2 hdeep), popField_eq, hget, hroom, ha, hb, Bool.false_eq_true, if_false]

theorem rdly_keeps (ha : f.a = none) (hb : f.b = some v) (hr : v.rol = false) (he : v.eos = false)
    (hend : ∀ m, x.rowEnd = some m → indexOf f (sw.toNat + 1) < m) (hrow : x.row ≤ indexOf f (sw.toNat + 1))
    (hnew : ∀ y ∈ x.rows, y.1 ≠ indexOf f (sw.toNat + 1)) : exec (.rdly h depth rt sw) s =
      .next (s.putStream { x with rows := x.rows ++ [(indexOf f (sw.toNat + 1), v)], since := s.cyc }) := by
  have hin : (x.rowEnd.map fun m => decide (m ≤ indexOf f (sw.toNat + 1))).getD false = false := by
    cases hm : x.rowEnd with
    | none => rfl
    | some m => simpa using hend m hm
  have hold : ((x.rows.any fun y => decide (y.1 = indexOf f (sw.toNat + 1))) || decide (indexOf f (sw.toNat + 1) < x.row)) = false := by
    simpa [hrow] using fun a b hy => hnew (a, b) hy
  rw [rdly_row hcur hdeep hx ha hb hr]
  simp only [rdlyRow, he, hin, hold, Bool.false_eq_true, if_false]

theorem rdly_rowEnd (ha : f.a = none) (hb : f.b = some v) (hr : v.rol = false) (he : v.eos = true)
    (hlast : ∀ y ∈ x.rows, y.1 < indexOf f (sw.toNat + 1)) : exec (.rdly h depth rt sw) s =
      .next (s.putStream { x with rowEnd := some (indexOf f (sw.toNat + 1)), since := s.cyc }) := by
  have hin : (x.rows.any fun y => decide (indexOf f (sw.toNat + 1) ≤ y.1)) = false := by
    simpa using fun a b hy => hlast (a, b) hy
  rw [rdly_row hcur hdeep hx ha hb hr]
  simp only [rdlyRow, he, hin, Bool.false_eq_true, if_true, if_false]

section
variable (hf : OnlyA f k) (hj : x.next = indexOf f (sw.toNat + 1))
include hf hj

section
variable (he : k.eos = false) (hw : s.waiting f.site [.a] (parentOf f (sw.toNat + 1)) (f.dep - (sw.toNat + 1)) (sw.toNat + 1)
  (fun e c => e && decide (c ≤ indexOf f (sw.toNat + 1))) = false)
include he hw

theorem rdly_elem (hv : x.rows.find? (fun y => decide (y.1 = indexOf f (sw.toNat + 1) / (rt.toNat + 1))) =
      some (indexOf f (sw.toNat + 1) / (rt.toNat + 1), v)) :
    exec (.rdly h depth rt sw) s = .next (rdlyElem s h f k v (rt.toNat + 1) (indexOf f (sw.toNat + 1)) x) := by
  obtain ⟨hget, hroom⟩ := rdly_known hx
  have hk : f.kind false ≠ .roll := kind_ne_roll (mem_toks.2 (show f.tok? .a = some k from hf.1)) hf.2.2.2.2
  show execRdly h depth rt sw s = _
  simp only [execRdly, onFiring, hcur, if_neg (Nat.not_lt.2 hdeep), popField_eq, hget, hroom, hf.1, he, hw, hj, hv, Nat.lt_irrefl,
    Bool.false_eq_true, if_false]

/-- An element without its row's value waits. -/
theorem rdly_waits (hv : ∀ y ∈ x.rows, y.1 ≠ indexOf f (sw.toNat + 1) / (rt.toNat + 1)) :
    exec (.rdly h depth rt sw) s = .next { s with held := true } := by
  obtain ⟨hget, hroom⟩ := rdly_known hx
  have hk : f.kind false ≠ .roll := kind_ne_roll (mem_toks.2 (show f.tok? .a = some k from hf.1)) hf.2.2.2.2
  have hnone : x.rows.find? (fun y => decide (y.1 = indexOf f (sw.toNat + 1) / (rt.toNat + 1))) = none :=
    List.find?_eq_none.2 fun y hy => by simpa using hv y hy
  show execRdly h depth rt sw s = _
  simp only [execRdly, onFiring, hcur, if_neg (Nat.not_lt.2 hdeep), popField_eq, hget, hroom, hf.1, he, hw, hj, hnone, Nat.lt_irrefl,
    Bool.false_eq_true, if_false]

end

/-- Once both markers are there RDLY sends one. -/
theorem rdly_ends {m : Nat} (he : k.eos = true) (hm : x.rowEnd = some m) (hi : indexOf f (sw.toNat + 1) = (rt.toNat + 1) * m) :
    exec (.rdly h depth rt sw) s = .next ((s.dropStream f.site (parentOf f (sw.toNat + 1)) (f.dep - (sw.toNat + 1))).emitAll f.site 1
      (f.marker h false false true false) [h.t0, h.t1]) := by
  obtain ⟨hget, hroom⟩ := rdly_known hx
  have hk : f.kind false ≠ .roll := kind_ne_roll (mem_toks.2 (show f.tok? .a = some k from hf.1)) hf.2.2.2.2
  show execRdly h depth rt sw s = _
  simp only [execRdly, onFiring, hcur, if_neg (Nat.not_lt.2 hdeep), popField_eq, hget, hroom, hf.1, he, hm, hi, hj.trans hi, ne_eq,
    not_true_eq_false, Nat.lt_irrefl, decide_false, Bool.or_false, Bool.false_eq_true, if_true, if_false]

end

end

/-! RREL (R170). -/

theorem rrel_runs {s : State} {f : Firing} {h : Hdr} {rm : Rnd} {tgt : BitVec 3} {r : Nat × Nat × Nat} (hr : Runs s f h [])
    (hp : relPair (valOf f .f32 .a 0) (relTarget tgt.toNat) rm = r) : exec (.rrel h rm tgt) s =
      .next ((((s.counted f h.ty).raiseFlags f.k 0 r.2.2).emit f.site h.t0 8 (f.result h false h.ty (BitVec.ofNat 32 r.1))).emit f.site
        h.t1 8 (f.result h false h.ty (BitVec.ofNat 32 r.2.1))) := by
  subst hp
  rw [valOf_word]
  exact firing_acts (sh := fun _ => { h := h, targets := [h.t0, h.t1], lat := 8, nullOut := true }) hr rfl

end Sys2Proof.Laws

namespace Sys2Proof.Proofs

open Sys2Proof Sys2Proof.Machine Sys2Proof.Claims Sys2Proof.Laws

/-- R168: a token of a row steps its running value, which leaves after the row's last token; the marker counts rows. -/
theorem rowValues : Claims.RowValues := by
  intro s f h rm rt sw x k i w p dp n r y v hi hf
  rw [exec_rowNode hi]
  refine ⟨fun ht he => ?_, fun ht he => ⟨rowNode_ends hf ht he, rowNode_streamLen hf ht he⟩, fun a e sq => ⟨?_, ?_, ?_, ?_, ?_⟩⟩
  · obtain ⟨u, hu, hnul, hexec⟩ := rowNode_token (h := h) (n := n) (one := rowStep i) hf ht he
    have hkey : y.site = f.site ∧ y.tag = p ∧ y.dep = dp := by
      obtain ⟨b, c, e⟩ := rowStepped_cases s f n x
      have hx := known_key ht.known
      rw [show y = _ from e]
      exact hx
    obtain ⟨hsite, htag, hdep⟩ := hkey
    refine ⟨u.putStream { y with facc := v }, ?_, ?_, ?_, fun hk => ?_, hexec⟩
    · rw [← hsite, ← htag, ← hdep]
      exact stream?_putStream u { y with facc := v }
    · rw [putStream_flights, flagged_fab hu]
    · exact sameMemory_trans (sameMemory_flagged hu) (sameMemory_putStream _ _)
    · rw [hnul hk]
  · rintro rfl
    rfl
  · intro hn hm
    rw [maxMagnitude_of_ne_nan hn, if_pos hm]
  · intro hn hm hl
    rw [maxMagnitude_of_ne_nan hn, if_neg (by simpa using hm), if_neg (by simpa using hl)]
  · intro hn hm hl
    rw [maxMagnitude_of_ne_nan hn, if_neg (by simpa using hm), if_pos hl]
  · exact rounded_roundLane _ .f32 rm false

/-- R169, R170: an element waits for its row's value, and RREL sends a pair by what its operand is. -/
theorem rowDelayAndScale : Claims.RowDelayAndScale := by
  intro s f h depth rt sw rm tgt k v x w n j o
  refine ⟨fun hcur hdeep hx => ⟨fun ha hb _ _ hr => ⟨rdly_keeps hcur hdeep hx ha hb hr, rdly_rowEnd hcur hdeep hx ha hb hr⟩, fun hf hj =>
    ⟨rdly_elem hcur hdeep hx hf hj, rdly_waits hcur hdeep hx hf hj, fun m he hm => rdly_ends hcur hdeep hx hf hj he hm⟩⟩, fun hr => ?_⟩
  refine ⟨_, _, _, rrel_runs hr rfl, fun hv => ?_, fun g hv => ?_, fun hv => ?_, fun g m e st hv hm => ?_⟩
  · rw [hv]
    exact ⟨rfl, rfl, rfl⟩
  · rw [hv]
    exact ⟨rfl, rfl, rfl⟩
  · obtain ⟨e, he⟩ := eq_of_isZero hv
    rw [he]
    exact ⟨rfl, rfl, rfl⟩
  · rw [hv]
    simp only [relPair, if_neg hm, and_self]

/-- Settles O17: by the turn of a row's token, by the slots of an RDLY set, and by the operand of RREL. -/
theorem rowStatistics : Obligations.RowStatistics := ⟨rowValues, rowDelayAndScale⟩

end Sys2Proof.Proofs
end

section
/-! PROOF. The words of tensors and the streams that read and write them (R158 to R164). -/

namespace Sys2Proof.Laws

open Sys2Proof Sys2Proof.Machine Sys2Proof.Claims

/-! LDT and STT (R160). -/

section
variable {s : State} {f : Firing} {n : Nat} {kind : AccKind} {act : Tensor → List Nat → List Byte → State} (ha : poisonIn f .a = false)
include ha

/-- A firing acts on the word of a descriptor that keeps R156, at an aligned coordinate and an address that it may access. -/
theorem withTensor_acts {t : Tensor} (ht : tensorOf (s.descEntry f.k f.v n) = some t)
    (hl : nth (t.decompose (f.data .a).toNat) 0 % t.ty.lanes = 0)
    (hva : t.ttab = 0 → Allowed s f (kind.code = 2) (t.va (t.decompose (f.data .a).toNat))) :
    s.withTensor f n kind act = act t (t.decompose (f.data .a).toNat) (s.descEntry f.k f.v n) := by
  have ha' : (f.a.map Tok.poi).getD false = false := ha
  simp only [State.withTensor, ha', ht, hl, Bool.false_eq_true, if_false, ne_eq, not_true_eq_false]
  split
  · next h =>
    have htab : t.ttab = 0 := by simp_all
    exact withVa_allowed (hva htab)
  · rfl

theorem withTensor_broken (ht : tensorOf (s.descEntry f.k f.v n) = none) : s.withTensor f n kind act = s.tensorDesc f n := by
  have ha' : (f.a.map Tok.poi).getD false = false := ha
  simp only [State.withTensor, ha', ht, Bool.false_eq_true, if_false]

theorem withTensor_misaligned {t : Tensor} (ht : tensorOf (s.descEntry f.k f.v n) = some t)
    (hl : nth (t.decompose (f.data .a).toNat) 0 % t.ty.lanes ≠ 0) :
    s.withTensor f n kind act = s.alignTrap f (nth (t.decompose (f.data .a).toNat) 0) 4 := by
  have ha' : (f.a.map Tok.poi).getD false = false := ha
  simp only [State.withTensor, ha', ht, hl, Bool.false_eq_true, if_false, ne_eq, not_false_eq_true, if_true]

end

section
variable {s : State} {f : Firing} {h : Hdr} {sc : Scope} {t2 : Option Target} {desc : BitVec 6} (hr : Runs s f h [])
include hr

theorem exec_ldt : exec (.ldt h sc t2 desc) s = .next ((s.counted f h.ty).withTensor f desc.toNat .read fun t c b =>
    (s.counted f h.ty).issue { f.access .read h.ty sc with pieces := t.pieces c 0, tens := t.behind b c }) :=
  firing_acts (sh := fun _ => memShape h t2 true) hr rfl

theorem exec_stt : exec (.stt h sc t2 desc) s = .next ((s.counted f h.ty).withTensor f desc.toNat .write fun t c b =>
    (s.counted f h.ty).store f { f.access .write h.ty sc with
      pieces := t.pieces c (f.data .b).toNat, tens := t.behind b c, poi := poisonIn f .b } [h.t0, h.t1, t2] (f.orderOut h true)) :=
  firing_acts (sh := fun _ => memShape h t2 true) hr rfl

end

/-! The reads of a stream (R163). -/

/-- An access on its way leaves the memories as they are. -/
theorem sameMemory_issue (s : State) (a : Access) : SameMemory s (s.issue a) :=
  ⟨fun st => by cases st <;> rfl, rfl, fun st => by cases st <;> rfl⟩

/-- The read of one word of a stream: an access, or 0 at once for a word with no lane in range. -/
def strmRead (h : Hdr) (f : Firing) (w : Win) (j : Nat) (s : State) : State :=
  if w.t.mask (w.at j) = 0 then s.modStream f.site f.tag f.dep fun x => { x with words := x.words ++ [(j, f.result h true h.ty 0)] }
  else s.issue { f.access .read h.ty .pkg with origin := .stream f j, pieces := w.t.pieces (w.at j) 0, tens := w.t.behind w.b (w.at j) }

theorem strmReads_succ (h : Hdr) (f : Firing) (w : Win) (n j : Nat) (s : State) :
    strmReads h f w (n + 1) j s = strmReads h f w n (j + 1) (strmRead h f w j s) := rfl

/-- What the reads of a stream keep of it, from `s` with stream `x` to `t` with stream `y`. -/
structure Grows (f : Firing) (s : State) (x : Stream) (t : State) (y : Stream) : Prop where
  found  : t.stream? f.site f.tag f.dep = some y
  start  : y.count = x.count ∧ y.next = x.next ∧ y.fire = x.fire
  memory : SameMemory s t
  words  : x.words ⊆ y.words
  accs   : s.fab.accs ⊆ t.fab.accs

/-- Word `j` of a window is read: its access is on the way, or it stands as 0. -/
def WordRead (f : Firing) (w : Win) (t : State) (y : Stream) (j : Nat) : Prop :=
  if w.t.mask (w.at j) = 0 then ∃ k : Tok, (j, k) ∈ y.words ∧ k.data = 0
  else ∃ a ∈ t.fab.accs, a.origin = .stream f j ∧ a.kind = .read ∧ a.pieces = w.t.pieces (w.at j) 0

section
variable {f : Firing} {w : Win} {s t u : State} {x y z : Stream} {j : Nat}

theorem grows_refl (hx : s.stream? f.site f.tag f.dep = some x) : Grows f s x s x :=
  ⟨hx, ⟨rfl, rfl, rfl⟩, sameMemory_fab s s.fab, List.Subset.refl _, List.Subset.refl _⟩

theorem grows_trans (hg : Grows f s x t y) (hg' : Grows f t y u z) : Grows f s x u z := by
  obtain ⟨-, ⟨hc, hn, hf⟩, hm, hw, ha⟩ := hg
  obtain ⟨hz, ⟨hc', hn', hf'⟩, hm', hw', ha'⟩ := hg'
  exact ⟨hz, ⟨hc'.trans hc, hn'.trans hn, hf'.trans hf⟩, sameMemory_trans hm hm', fun _ h => hw' (hw h), fun _ h => ha' (ha h)⟩

theorem wordRead_grows (hg : Grows f s x t y) (hr : WordRead f w s x j) : WordRead f w t y j := by
  unfold WordRead at hr ⊢
  split at hr
  · next hm =>
    obtain ⟨k, hk, hd⟩ := hr
    rw [if_pos hm]
    exact ⟨k, hg.words hk, hd⟩
  · next hm =>
    obtain ⟨a, ha, hp⟩ := hr
    rw [if_neg hm]
    exact ⟨a, hg.accs ha, hp⟩

theorem strmRead_reads (h : Hdr) (j : Nat) (hx : s.stream? f.site f.tag f.dep = some x) :
    ∃ y, Grows f s x (strmRead h f w j s) y ∧ WordRead f w (strmRead h f w j s) y j := by
  unfold strmRead WordRead
  split
  · refine ⟨{ x with words := x.words ++ [(j, f.result h true h.ty 0)] }, ⟨?_, ⟨rfl, rfl, rfl⟩, sameMemory_fab s _, ?_, ?_⟩, ?_⟩
    · refine (find?_mapFirst (fun _ hy => ?_) _).trans (congrArg (Option.map _) hx)
      exact hy
    · exact List.subset_append_left _ _
    · exact List.Subset.refl _
    · exact ⟨_, List.mem_append_right _ (List.mem_singleton_self _), rfl⟩
  · refine ⟨x, ⟨hx, ⟨rfl, rfl, rfl⟩, sameMemory_issue s _, List.Subset.refl _, List.subset_append_left _ _⟩, ?_⟩
    exact ⟨_, List.mem_append_right _ (List.mem_singleton_self _), rfl, rfl, rfl⟩

/-- The reads from an index on read every word from it on. -/
theorem strmReads_reads (h : Hdr) (n j : Nat) (hx : s.stream? f.site f.tag f.dep = some x) :
    ∃ y, Grows f s x (strmReads h f w n j s) y ∧ ∀ i, j ≤ i → i < j + n → WordRead f w (strmReads h f w n j s) y i := by
  induction n generalizing j s x with
  | zero => exact ⟨x, grows_refl hx, fun i _ _ => by omega⟩
  | succ n ih =>
    obtain ⟨y, hy, hj⟩ := strmRead_reads (w := w) h j hx
    obtain ⟨z, hz, hi⟩ := ih (j + 1) hy.found
    rw [strmReads_succ]
    refine ⟨z, grows_trans hy hz, fun i hle hlt => ?_⟩
    obtain rfl | hne := eq_or_ne i j
    · exact wordRead_grows hz hj
    · exact hi i (by omega) (by omega)

/-- A stream added at a node that keeps none of its parent is what the node then keeps. -/
theorem stream?_addStream (hs : s.stream? x.site x.tag x.dep = none) : (s.addStream x).stream? x.site x.tag x.dep = some x := by
  refine List.find?_append.trans ?_
  rw [show s.fab.streams.find? _ = none from hs]
  simp

end

/-- A count of operations leaves the memories as they are. -/
theorem sameMemory_counted (s : State) (f : Firing) (t : Ty) : SameMemory s (s.counted f t) := by
  obtain ⟨l, e⟩ := counted_cases s f t
  rw [e]
  exact ⟨fun st => by cases st <;> rfl, rfl, fun st => by cases st <;> rfl⟩

/-! The starts of STRM and STRMW (R163, R164). -/

section
variable {s : State} {f : Firing} {h : Hdr} {sw : BitVec 5} {shp desc : BitVec 6}

section
variable (hr : Runs s f h [.a])
include hr

theorem strm_shape {c : Nat}
    (hw : (s.counted f h.ty).window f.k f.v desc.toNat shp.toNat (f.data .a).toNat (sw.toNat + 1) = .shape c) :
    exec (.strm h sw shp desc) s =
      .next ((s.counted f h.ty).trapFiring f { code := tcStreamShape, aux0 := c, aux1 := sw.toNat + 1 }) :=
  firing_acts (sh := fun _ => { h := h, targets := [h.t0, h.t1], orderIn := true, nullOut := true, clean := [.a] }) hr
    (by simp only [hw]; rfl)

variable {w : Win} (hw : (s.counted f h.ty).window f.k f.v desc.toNat shp.toNat (f.data .a).toNat (sw.toNat + 1) = .win w)
include hw

theorem strm_deep (hd : 44 < f.dep + (sw.toNat + 1)) : exec (.strm h sw shp desc) s =
    .next ((s.counted f h.ty).trapFiring f { code := tcTagDepth, aux0 := f.dep, aux1 := sw.toNat + 1 }) :=
  firing_acts (sh := fun _ => { h := h, targets := [h.t0, h.t1], orderIn := true, nullOut := true, clean := [.a] }) hr
    (by simp only [hw, if_pos hd]; rfl)

theorem strm_starts (hd : f.dep + (sw.toNat + 1) ≤ 44) (hs : (s.counted f h.ty).stream? f.site f.tag f.dep = none)
    (hroom : (s.counted f h.ty).streamCount f.site < 8) : exec (.strm h sw shp desc) s =
      .next (strmReads h f w w.count 0 ((s.counted f h.ty).addStream
        { site := f.site, tag := f.tag, dep := f.dep, count := some w.count, fire := some f, since := (s.counted f h.ty).cyc })) :=
  firing_acts (sh := fun _ => { h := h, targets := [h.t0, h.t1], orderIn := true, nullOut := true, clean := [.a] }) hr
    (by simp [hw, hs, Nat.not_le.2 hroom, Nat.not_lt.2 hd])

end

/-- An origin set of STRMW starts the stream that takes its words. -/
theorem strmw_starts {sc : Scope} {w : Win} (hr : Runs s f h [.b]) (ha : f.a = none)
    (hw : (s.counted f h.ty).window f.k f.v desc.toNat shp.toNat (f.data .b).toNat (sw.toNat + 1) = .win w)
    (hs : (s.counted f h.ty).stream? f.site f.tag f.dep = none) (hroom : (s.counted f h.ty).streamCount f.site < 8) :
    exec (.strmw h sc sw shp desc) s = .next ((s.counted f h.ty).addStream
      { site := f.site, tag := f.tag, dep := f.dep, count := some w.count, fire := some f, since := (s.counted f h.ty).cyc }) := by
  have hk : f.kind true = .data := kind_data true hr.fed hr.plain
  have horigin : strmwOrigin s h (sw.toNat + 1) desc.toNat shp.toNat f = (s.counted f h.ty).addStream
      { site := f.site, tag := f.tag, dep := f.dep, count := some w.count, fire := some f, since := (s.counted f h.ty).cyc } :=
    (fired_runs (sh := { h := h, targets := [h.t0, h.t1], orderIn := true, clean := [.b] }) hr).trans (by simp [hs, hw, Nat.not_le.2 hroom])
  refine (onFiring_runs hr).trans (congrArg _ ?_)
  simp only [hk, ha]
  exact horigin

end

end Sys2Proof.Laws

namespace Sys2Proof.Proofs

open Sys2Proof Sys2Proof.Machine Sys2Proof.Claims Sys2Proof.Laws

/-- R158, R160: LDT and STT access the word of the index in slot a, and trap on a broken descriptor or a misaligned coordinate. -/
theorem tensorWords : Claims.TensorWords := by
  intro s f h sc t2 desc hr ha u b
  rw [exec_ldt hr, exec_stt hr]
  refine ⟨?_, fun ht => ?_, fun t ht hl => ?_⟩
  · intro t ht l e c hl hva
    rw [withTensor_acts (kind := .read) ha ht hl hva, withTensor_acts (kind := .write) ha ht hl hva]
    exact ⟨rfl, stored_ok⟩
  · rw [withTensor_broken ha ht, withTensor_broken ha ht]
    exact ⟨_, rfl, rfl, rfl, rfl⟩
  · rw [withTensor_misaligned ha ht hl, withTensor_misaligned ha ht hl]
    exact ⟨_, rfl, rfl, rfl⟩

/-- R163, R164: STRM starts the stream of its window and reads it, STRMW starts the stream that takes its words. -/
theorem streamsStart : Claims.StreamsStart := by
  intro s f h sc sw shp desc w u n
  refine ⟨fun hr hw hd hs hroom => ?_, fun hr => strm_deep hr, fun c hr => strm_shape hr, strmw_starts⟩
  obtain ⟨x, hx, hreads⟩ := strmReads_reads (f := f) (w := w) h w.count 0 (stream?_addStream (s := u)
    (x := { site := f.site, tag := f.tag, dep := f.dep, count := some w.count, fire := some f, since := u.cyc }) hs)
  obtain ⟨hfound, ⟨hcount, hnext, hfire⟩, hmem, -, -⟩ := hx
  refine ⟨_, x, strm_starts hr hw hd hs hroom, hfound, hcount, hnext, hfire, ?_, fun j hj => hreads j (Nat.zero_le j) (by omega)⟩
  exact sameMemory_trans (sameMemory_counted s f h.ty) (sameMemory_trans (sameMemory_fab u _) hmem)

/-- Settles O15: by the descriptor and address of a firing, and by induction over the words of a window. -/
theorem tensorsAndStreamStarts : Obligations.TensorsAndStreamStarts := ⟨tensorWords, streamsStart⟩

end Sys2Proof.Proofs
end

section
/-! PROOF. The regions that MREGION binds, and MFREE, WLOAD and WSWAP on them (R171, R174 to R176). -/

namespace Sys2Proof.Laws

open Sys2Proof Sys2Proof.Machine Sys2Proof.Claims

/-! The first of a grid of places. -/

section
variable {α : Type} {n row col m : Nat} {p : Nat × Nat → Bool}

theorem findSome?_upto {f : Nat → Option α} {a : α} (hn : row < n) (ha : f row = some a) (hl : ∀ y < row, f y = none) :
    (upto n).findSome? f = some a := by
  rw [upto_eq]
  induction n with
  | zero => exact absurd hn (Nat.not_lt_zero _)
  | succ n ih =>
    rw [List.range_succ, List.findSome?_append]
    obtain h | rfl := Nat.lt_succ_iff_lt_or_eq.1 hn
    · rw [ih h]
      rfl
    · rw [List.findSome?_eq_none_iff.2 fun y hy => hl y (List.mem_range.1 hy)]
      simp [ha]

/-- The places of a grid by row, then column. -/
def grid (n m : Nat) : List (Nat × Nat) := (upto n).flatMap fun r => (upto m).map fun c => (r, c)

theorem mem_grid {q : Nat × Nat} : q ∈ grid n m ↔ q.1 < n ∧ q.2 < m := by
  obtain ⟨a, b⟩ := q
  simp [grid, upto_eq]

theorem find?_grid (hr : row < n) (hc : col < m) (hp : p (row, col) = true)
    (hl : ∀ y x, y < n → x < m → y < row ∨ (y = row ∧ x < col) → p (y, x) = false) : (grid n m).find? p = some (row, col) := by
  rw [grid, List.find?_flatMap]
  refine findSome?_upto hr ?_ fun y hy => ?_
  · rw [List.find?_map]
    exact congrArg (Option.map _) (lowest_eq_some hc hp fun x hx => hl row x hr (hx.trans hc) (.inr ⟨rfl, hx⟩))
  · rw [List.find?_map]
    exact congrArg (Option.map _) (lowest_eq_none fun x hx => hl y x (hy.trans hr) hx (.inl hy))

end

/-! Where a region is placed (R174). -/

section
variable {s : State} {b h w row col r : Nat}

theorem placeRegion_some (hrow : row + h ≤ 32) (hcol : col + w ≤ 32) (hfree : s.rectFree b h w row col = true)
    (hfirst : ∀ y x, y + h ≤ 32 → x + w ≤ 32 → y < row ∨ (y = row ∧ x < col) → s.rectFree b h w y x = false)
    (hr : r < 8) (hnew : s.region? b r = none) (hused : ∀ n < r, (s.region? b n).isSome = true) :
    s.placeRegion b h w = some (row, col, r) := by
  have hspot : (grid (33 - h) (33 - w)).find? (fun p => s.rectFree b h w p.1 p.2) = some (row, col) :=
    find?_grid (by omega) (by omega) hfree fun y x hy hx => hfirst y x (by omega) (by omega)
  have hnum : lowest (fun r => (s.region? b r).isNone) 8 = some r :=
    lowest_eq_some hr (by rw [hnew]; rfl) fun n hn => by simpa using hused n hn
  rw [grid] at hspot
  simp only [State.placeRegion, hspot, hnum]

theorem placeRegion_full
    (hfull : (∀ row col, row + h ≤ 32 → col + w ≤ 32 → s.rectFree b h w row col = false) ∨ ∀ n < 8, (s.region? b n).isSome = true) :
    s.placeRegion b h w = none := by
  obtain hspot | hnum := hfull
  · have hnone : (grid (33 - h) (33 - w)).find? (fun p => s.rectFree b h w p.1 p.2) = none := by
      refine List.find?_eq_none.2 fun q hq => ?_
      obtain ⟨hr, hc⟩ := mem_grid.1 hq
      simpa using hspot q.1 q.2 (by omega) (by omega)
    rw [grid] at hnone
    simp only [State.placeRegion, hnone]
  · have hnone : lowest (fun r => (s.region? b r).isNone) 8 = none := lowest_eq_none fun n hn => by simpa using hnum n hn
    simp only [State.placeRegion, hnone]
    split <;> simp_all

end

/-! MREGION. -/

/-- Where results go does not depend on the fetches or the regions. -/
theorem emitAll_regions (F : List Fetch) (R : List Region) (site : Site) (lat : Nat) (k : Tok) (ts : List (Option Target)) (s : State) :
    ({ s with fetches := F, fab := { s.fab with regions := R } } : State).emitAll site lat k ts =
      { s.emitAll site lat k ts with fetches := F, fab := { (s.emitAll site lat k ts).fab with regions := R } } := by
  induction ts generalizing s with
  | nil => rfl
  | cons t ts ih =>
    refine Eq.trans (congrArg (State.emitAll · site lat k ts) ?_) (ih (s.emit site t lat k))
    have hroute : ∀ a : Target, ({ s with fetches := F, fab := { s.fab with regions := R } } : State).route site a = s.route site a :=
      fun _ => rfl
    simp only [State.emit, State.emitAt, hroute]
    split <;> rfl

/-- The region that MREGION binds (R174). -/
def boundRegion (u : State) (f : Firing) (e : BitVec 4) (b h w row col r : Nat) : Region :=
  { barn := b, r := r, k := f.k, v := f.v, gen := u.regionGen b r, h := h, w := w, row := row, col := col,
    blk := u.exitBlock f.site.holder f.site.blk e.toNat }

/-- The state in which it is bound and its block is fetched. -/
def withRegion (u : State) (f : Firing) (x : Region) : State :=
  { u with fab := { u.fab with regions := u.fab.regions ++ [x] },
           fetches := u.fetches ++ [{ holder := .region x.barn x.r, k := f.k, v := f.v, blk := x.blk, since := u.cyc }] }

theorem region?_withRegion {u : State} {f : Firing} {x : Region} (hx : u.region? x.barn x.r = none) :
    (withRegion u f x).region? x.barn x.r = some x := by
  refine List.find?_append.trans ?_
  rw [show u.fab.regions.find? _ = none from hx]
  simp

section
variable {s : State} {f : Firing} {hd : Hdr} {e : BitVec 4} {wm hm : BitVec 5} {b row col r : Nat} (hr : Runs s f hd [])
  (hb : f.site.holder.barn? = some b)
include hr hb

theorem mregion_binds (hl : s.belLoad = none) (hp : (s.counted f hd.ty).placeRegion b (hm.toNat + 1) (wm.toNat + 1) = some (row, col, r)) :
    let u := s.counted f hd.ty
    let x := boundRegion u f e b (hm.toNat + 1) (wm.toNat + 1) row col r
    exec (.mregion hd e wm hm) s = .next ((withRegion u f x).emitAll f.site 6 (f.result hd false hd.ty
      (BitVec.ofNat 32 (u.regionGen b r * 2 ^ 16 + r * 64 + u.logicalBarn f.k b))) [hd.t0, hd.t1]) := by
  have hload : (s.counted f hd.ty).belLoad = none := by
    obtain ⟨l, ec⟩ := counted_cases s f hd.ty
    rw [ec]
    exact hl
  refine firing_acts (sh := fun _ => { h := hd, targets := [hd.t0, hd.t1], lat := 6, nullOut := true }) hr ?_
  simp only [hload, hb, Option.isSome_none, Bool.false_eq_true, if_false, Option.bind_some, State.bindRegion, hp]
  rfl

theorem mregion_held (hp : (s.counted f hd.ty).placeRegion b (hm.toNat + 1) (wm.toNat + 1) = none) :
    exec (.mregion hd e wm hm) s = .next { s.counted f hd.ty with held := true } := by
  refine firing_acts (sh := fun _ => { h := hd, targets := [hd.t0, hd.t1], lat := 6, nullOut := true }) hr ?_
  simp only [hb, Option.bind_some, State.bindRegion, hp, ite_self]

end

/-! The halves and the loads of a region (R175). -/

section
variable {x : Region} {cyc : Nat} {image : Nat → List Byte}

theorem halfOf_setHalf (x : Region) (h : Nat) (v : Machine.Half) : (x.setHalf h v).halfOf h = v := by
  unfold Region.setHalf Region.halfOf
  split <;> simp [*]

/-- A half that is set changes the halves alone. -/
theorem setHalf_cases (x : Region) (h : Nat) (v : Machine.Half) : ∃ a c, x.setHalf h v = { x with half0 := a, half1 := c } := by
  unfold Region.setHalf
  split <;> exact ⟨_, _, rfl⟩

/-- A load that starts clears the inactive set and unloads its half. -/
theorem startLoad_cases (x : Region) (cyc : Nat) (image : Nat → List Byte) : x.startLoad cyc image = x ∨
    ∃ l r, x.loads = l :: r ∧ x.startLoad cyc image =
      { x.setHalf x.idle { fresh := true } with
        loads := { l with started := some cyc, seen := image l.off } :: r, accs := x.accs.filter fun a => a.half ≠ x.idle } := by
  unfold Region.startLoad
  split
  · next l r hl =>
    split
    · exact .inl rfl
    · exact .inr ⟨l, r, hl, rfl⟩
  · exact .inl rfl

/-- The start of a load leaves a region's place, active half, tiles and drains as they are. -/
theorem startLoad_keeps (x : Region) (cyc : Nat) (image : Nat → List Byte) :
    (x.startLoad cyc image).barn = x.barn ∧ (x.startLoad cyc image).r = x.r ∧ (x.startLoad cyc image).active = x.active ∧
    (x.startLoad cyc image).tiles = x.tiles ∧ (x.startLoad cyc image).drains = x.drains := by
  obtain e | ⟨l, r, -, e⟩ := startLoad_cases x cyc image
  · rw [e]
    exact ⟨rfl, rfl, rfl, rfl, rfl⟩
  · obtain ⟨a, c, eh⟩ := setHalf_cases x x.idle { fresh := true }
    rw [e, eh]
    exact ⟨rfl, rfl, rfl, rfl, rfl⟩

/-- What a load asks for. -/
def loadRequest (l : WLoad) : Firing × Nat × Nat × Nat × Bool := (l.fire, l.off, l.wfmt, l.gsz, l.cmp)

theorem startLoad_requests (x : Region) (cyc : Nat) (image : Nat → List Byte) :
    (x.startLoad cyc image).loads.map loadRequest = x.loads.map loadRequest := by
  obtain e | ⟨l, r, hl, e⟩ := startLoad_cases x cyc image
  · rw [e]
  · rw [e, hl]
    rfl

theorem startLoad_fresh (hf : (x.halfOf x.idle).fresh = true) :
    ((x.startLoad cyc image).halfOf (x.startLoad cyc image).idle).fresh = true := by
  obtain e | ⟨l, r, -, e⟩ := startLoad_cases x cyc image
  · rw [e]
    exact hf
  · have hactive : (x.startLoad cyc image).active = x.active := (startLoad_keeps x cyc image).2.2.1
    rw [Region.idle, hactive, e]
    exact congrArg Machine.Half.fresh (halfOf_setHalf x x.idle { fresh := true })

end

/-! MFREE, WLOAD and WSWAP. -/

section
variable {s : State} {f : Firing} {h : Hdr} {t2 : Option Target} {cmp : Bool} {gsz : BitVec 2} {wfmt : BitVec 4} {x : Region} {b r : Nat}

/-- The region that a handle names stands at its place. -/
theorem byHandle_region? {k : Nat} {n : Word} (hx : s.byHandle k n = some x) : s.region? x.barn x.r = some x := by
  unfold State.byHandle at hx
  dsimp only at hx
  split at hx
  · next y hy =>
    obtain ⟨-, hyx⟩ := Option.ite_none_right_eq_some.1 hx
    obtain rfl := Option.some.inj hyx
    have hplace := List.find?_some hy
    simp only [Bool.and_eq_true, decide_eq_true_eq] at hplace
    rw [hplace.1, hplace.2]
    exact hy
  · cases hx

theorem mfree_frees (hr : Runs s f h []) (hx : (s.counted f h.ty).byHandle f.k (f.data .a) = some x) (hfree : x.freeBy = none) :
    exec (.mfree h) s = .next ((s.counted f h.ty).putRegion { x with freeBy := some f }) :=
  firing_acts (sh := fun _ => { h := h, targets := [h.t0, h.t1], lat := 4, nullOut := true }) hr (by simp [hx, hfree])

theorem mfree_traps (hr : Runs s f h []) (hx : (s.counted f h.ty).byHandle f.k (f.data .a) = none) :
    exec (.mfree h) s = .next ((s.counted f h.ty).handleTrap f) :=
  firing_acts (sh := fun _ => { h := h, targets := [h.t0, h.t1], lat := 4, nullOut := true }) hr (by simp [hx])

/-- The region of a WLOAD with its idle half marked. -/
def marked (x : Region) : Region := x.setHalf x.idle { x.halfOf x.idle with fresh := true }

/-- The region of a WLOAD with its load in the queue. -/
def queued (x : Region) (l : WLoad) : Region := { marked x with loads := (marked x).loads ++ [l] }

theorem queued_keeps (x : Region) (l : WLoad) : (queued x l).barn = x.barn ∧ (queued x l).r = x.r ∧
    (queued x l).active = x.active ∧ (queued x l).loads = x.loads ++ [l] := by
  obtain ⟨a, c, e⟩ := setHalf_cases x x.idle { x.halfOf x.idle with fresh := true }
  rw [queued, marked, e]
  exact ⟨rfl, rfl, rfl, rfl⟩

theorem queued_fresh (x : Region) (l : WLoad) : ((queued x l).halfOf (queued x l).idle).fresh = true := by
  obtain ⟨-, -, hactive, -⟩ := queued_keeps x l
  rw [Region.idle, hactive]
  exact congrArg Machine.Half.fresh (halfOf_setHalf x x.idle { x.halfOf x.idle with fresh := true })

theorem wload_queues (hr : Runs s f h [.b]) (hx : (s.counted f h.ty).byHandle f.k (f.data .a) = some x) :
    ∃ image, exec (.wload h t2 cmp gsz wfmt) s = .next ((s.counted f h.ty).putRegion
      ((queued x { fire := f, off := (f.data .b).toNat, wfmt := wfmt.toNat, gsz := gsz.toNat, cmp := cmp }).startLoad
        (s.counted f h.ty).cyc image)) := by
  refine ⟨(s.counted f h.ty).weightBytes (marked x).barn (marked x).k,
    firing_acts (sh := fun _ => { memShape h t2 true with clean := [.b] }) hr ?_⟩
  simp only [memShape, hx]
  rfl

theorem wload_traps (hr : Runs s f h [.b]) (hx : (s.counted f h.ty).byHandle f.k (f.data .a) = none) :
    exec (.wload h t2 cmp gsz wfmt) s = .next ((s.counted f h.ty).handleTrap f) :=
  firing_acts (sh := fun _ => { memShape h t2 true with clean := [.b] }) hr (by simp only [memShape, hx])

section
variable (hr : Runs s f h []) (hh : f.site.holder = .region b r) (hx : (s.counted f h.ty).region? b r = some x)
include hr hh hx

theorem wswap_swaps (hf : (x.halfOf x.idle).fresh = true) (hs : x.swap = none) :
    exec (.wswap h) s = .next ((s.counted f h.ty).putRegion { x with swap := some f }) :=
  firing_acts (sh := fun _ => { h := h, targets := [h.t0, h.t1], lat := 2, nullOut := true }) hr (by simp [hh, hx, hf, hs])

theorem wswap_traps (hf : (x.halfOf x.idle).fresh = false) : exec (.wswap h) s =
    .next ((s.counted f h.ty).trapFiring f { code := tcMatrixState, aux0 := (s.counted f h.ty).handleOf x, aux1 := x.idle }) :=
  firing_acts (sh := fun _ => { h := h, targets := [h.t0, h.t1], lat := 2, nullOut := true }) hr (by simp [hh, hx, hf])

end

end

end Sys2Proof.Laws

namespace Sys2Proof.Proofs

open Sys2Proof Sys2Proof.Machine Sys2Proof.Claims Sys2Proof.Laws

/-- R174: MREGION binds the first free rectangle and number, or is held. -/
theorem regionsBindFirstFree : Claims.RegionsBindFirstFree := by
  intro s f hd e wm hm b hr hb hl u h w
  refine ⟨fun row col r hrow hcol hfree hfirst hr8 hnew hused => ?_, fun hfull => ?_⟩
  · have hplace := placeRegion_some hrow hcol hfree hfirst hr8 hnew hused
    refine ⟨_, boundRegion u f e b h w row col r, mregion_binds hr hb hl hplace, ?_⟩
    rw [show withRegion u f _ = _ from rfl, withRegion, emitAll_regions]
    refine ⟨?_, rfl, rfl, rfl, rfl, rfl, rfl, rfl, rfl, rfl, rfl, rfl, rfl, ?_, rfl⟩
    · exact region?_withRegion (u := u) (f := f) (x := boundRegion u f e b h w row col r) hnew
    · exact ⟨_, List.mem_append_right _ (List.mem_singleton_self _), rfl, rfl⟩
  · exact mregion_held hr hb (placeRegion_full hfull)

/-- R171, R174, R175, R176: MFREE, WLOAD and WSWAP act on their region or trap. -/
theorem regionCommands : Claims.RegionCommands := by
  intro s f h t2 cmp gsz wfmt x u
  refine ⟨mfree_frees, fun hr hx => ?_, fun b r => wswap_swaps, fun b r => wswap_traps, fun hx => ⟨(mfree_traps · hx), (wload_traps · hx)⟩⟩
  obtain ⟨image, hexec⟩ := wload_queues (t2 := t2) (cmp := cmp) (gsz := gsz) (wfmt := wfmt) hr hx
  let q := queued x { fire := f, off := (f.data .b).toNat, wfmt := wfmt.toNat, gsz := gsz.toNat, cmp := cmp }
  obtain ⟨hbarn, hreg, hactive, -, -⟩ := startLoad_keeps q u.cyc image
  obtain ⟨hqb, hqr, hqa, hql⟩ := queued_keeps x { fire := f, off := (f.data .b).toNat, wfmt := wfmt.toNat, gsz := gsz.toNat, cmp := cmp }
  refine ⟨_, q.startLoad u.cyc image, hexec, region?_putRegion (byHandle_region? hx) (hbarn.trans hqb) (hreg.trans hqr), ?_,
    startLoad_fresh (queued_fresh _ _), hactive.trans hqa, rfl, sameMemory_fab u _⟩
  exact (startLoad_requests q u.cyc image).trans ((congrArg (List.map loadRequest) hql).trans List.map_append)

/-- Settles O18: by the first place of a grid that is free, and by the region of a handle or of a block. -/
theorem matrixRegions : Obligations.MatrixRegions := ⟨regionsBindFirstFree, regionCommands⟩

end Sys2Proof.Proofs
end

section
/-! PROOF. The results of tiles and the events of regions (R174 to R178, R309). -/

namespace Sys2Proof.Laws

open Sys2Proof Sys2Proof.Machine Sys2Proof.Claims

/-! The region at a place. -/

section
variable {s : State} {x : Region} {b r : Nat}

/-- The region of an event stands at its place. -/
theorem field?_region? (hx : s.field? b r = some x) : s.region? x.barn x.r = some x := by
  unfold State.field? at hx
  split at hx
  · next y hy =>
    obtain ⟨-, hyx⟩ := Option.ite_none_right_eq_some.1 hx
    obtain rfl := Option.some.inj hyx
    have hplace := List.find?_some hy
    simp only [Bool.and_eq_true, decide_eq_true_eq] at hplace
    rw [hplace.1, hplace.2]
    exact hy
  · cases hx

@[simp] theorem raiseFlags_fab (s : State) (k lane fl : Nat) : (s.raiseFlags k lane fl).fab = s.fab := by
  obtain ⟨_, _, e, -⟩ := raiseFlags_frame s k lane fl
  rw [e]

theorem region?_of_fab {t : State} (h : t.fab = s.fab) (b r : Nat) : t.region? b r = s.region? b r :=
  congrArg (fun g : Fabric => g.regions.find? fun x : Region => x.barn = b && x.r = r) h

theorem region?_emitAll (s : State) (site : Site) (lat : Nat) (k : Tok) (ts : List (Option Target)) (b r : Nat) :
    (s.emitAll site lat k ts).region? b r = s.region? b r := by
  obtain ⟨l, -, e⟩ := emitAll_cases site lat k ts s
  rw [e]
  rfl

theorem region?_feedSwap (s : State) (x : Region) (t : DWord) (d b r : Nat) : (s.feedSwap x t d).region? b r = s.region? b r := by
  unfold State.feedSwap
  dsimp only
  split <;> rfl

/-- The entries of a region after the start of a load are entries that it had. -/
theorem mem_startLoad_accs {cyc : Nat} {image : Nat → List Byte} {a : AccEntry} (ha : a ∈ (x.startLoad cyc image).accs) : a ∈ x.accs := by
  obtain e | ⟨l, r, -, e⟩ := startLoad_cases x cyc image
  · rwa [e] at ha
  · rw [e] at ha
    exact (List.mem_filter.1 ha).1

theorem startLoad_of_nil (h : x.loads = []) (cyc : Nat) (image : Nat → List Byte) : x.startLoad cyc image = x := by
  unfold Region.startLoad
  rw [h]

end

/-! MDRAIN (R178). -/

theorem bitsAt_eq (d lo n : Nat) : bitsAt d lo n = d / 2 ^ lo % 2 ^ n := by rw [bitsAt, Nat.shiftRight_eq_div_pow]

/-- The fields of a completion word (R177). -/
theorem completion_fields (d : Nat) :
    bitsAt d 0 6 = d % 64 ∧ bitsAt d 6 7 = d / 64 % 128 ∧ bitsAt d 13 1 = d / 2 ^ 13 % 2 ∧ bitsAt d 14 1 = d / 2 ^ 14 % 2 := by
  simp [bitsAt_eq]

/-- The completion word of a set names entries of a region that all hold an undrained result, in a word without reserved bits. -/
def Drainable (d : Nat) (ty : Ty) (x : Region) : Prop :=
  d < 2 ^ 15 ∧ d % 64 + d / 64 % 128 ≤ 64 ∧ decide (d / 2 ^ 14 % 2 = 1) = decide (ty = .i32) ∧
    ∀ i < d / 64 % 128, ∃ a ∈ x.accs, a.half = d / 2 ^ 13 % 2 ∧ a.idx = d % 64 + i ∧ a.full = true

/-- The refusals of MDRAIN with MATRIX_STATE, as the model tests them. -/
def drainRefused (d : Nat) (ty : Ty) (x : Region) : Bool :=
  bitsAt d 15 17 ≠ 0 || 64 < bitsAt d 0 6 + bitsAt d 6 7 || (bitsAt d 14 1 = 1) ≠ (ty = .i32) ||
    !((upFrom (bitsAt d 0 6) (bitsAt d 6 7)).all fun i => x.accs.any fun a => a.half = bitsAt d 13 1 && a.idx = i && a.full)

theorem drainRefused_eq_false {w : Word} {ty : Ty} {x : Region} : drainRefused w.toNat ty x = false ↔ Drainable w.toNat ty x := by
  have hlt : w.toNat < 2 ^ 32 := w.isLt
  have hhigh : bitsAt w.toNat 15 17 = 0 ↔ ¬2 ^ 15 ≤ w.toNat := by
    rw [bitsAt_eq]
    omega
  obtain ⟨hbase, hm, hset, hires⟩ := completion_fields w.toNat
  simp only [drainRefused, Drainable, hbase, hm, hset, hires, Bool.or_eq_false_iff, decide_eq_false_iff_not,
    Bool.not_eq_false', not_not, ne_eq, hhigh, upFrom_eq, List.all_map, List.all_eq_true, List.mem_range, List.any_eq_true,
    Function.comp_apply, Bool.and_eq_true, decide_eq_true_eq, eq_iff_iff, decide_eq_decide, Nat.not_lt, Nat.not_le, and_assoc]

/-- The drain that MDRAIN begins, and its entries, which then hold nothing to be drained. -/
def startedDrain (s : State) (f : Firing) (d : Nat) : Drain :=
  { site := f.site, tag := f.tag, dep := f.dep, half := bitsAt d 13 1, base := bitsAt d 0 6, m := bitsAt d 6 7,
    ires := bitsAt d 14 1 = 1, poi := f.poi false, since := s.cyc + 3 }

def drainedRegion (s : State) (f : Firing) (d : Nat) (x : Region) : Region :=
  { x with
    accs := x.accs.map fun a => if a.half = bitsAt d 13 1 && decide (bitsAt d 0 6 ≤ a.idx) && decide (a.idx < bitsAt d 0 6 + bitsAt d 6 7)
      then { a with full := false } else a
    drains := x.drains ++ [startedDrain s f d] }

section
variable {s : State} {f : Firing} {h : Hdr} {sat pen : Bool} {sw : BitVec 5} {port : BitVec 4} {b r : Nat} {x : Region}
  (hr : Runs s f h []) (hh : f.site.holder = .region b r) (hx : (s.counted f h.ty).region? b r = some x)
include hr hh hx

theorem mdrain_refuses (hd : drainRefused (f.data .a).toNat h.ty x = true) : exec (.mdrain h sat sw pen port) s =
    .next ((s.counted f h.ty).trapFiring f
      { code := tcMatrixState, aux0 := (s.counted f h.ty).handleOf x, aux1 := bitsAt (f.data .a).toNat 13 1 }) := by
  refine firing_acts (sh := fun _ => { h := h, targets := [h.t0, h.t1], lat := 4, nullOut := true }) hr ?_
  simp only [hh, hx]
  exact if_pos hd

section
variable (hd : drainRefused (f.data .a).toNat h.ty x = false)
include hd

theorem mdrain_tooLong (hc : 2 ^ (sw.toNat + 1) ≤ bitsAt (f.data .a).toNat 6 7 * (8 * x.w)) : exec (.mdrain h sat sw pen port) s =
    .next ((s.counted f h.ty).trapFiring f
      { code := tcStreamShape, aux0 := bitsAt (f.data .a).toNat 6 7 * (8 * x.w), aux1 := sw.toNat + 1 }) := by
  refine firing_acts (sh := fun _ => { h := h, targets := [h.t0, h.t1], lat := 4, nullOut := true }) hr ?_
  simp only [hh, hx]
  exact (if_neg (Bool.not_eq_true _ ▸ hd)).trans (if_pos hc)

theorem mdrain_drains (hc : bitsAt (f.data .a).toNat 6 7 * (8 * x.w) < 2 ^ (sw.toNat + 1)) (hdep : f.dep + (sw.toNat + 1) ≤ 44) :
    exec (.mdrain h sat sw pen port) s =
      .next ((s.counted f h.ty).putRegion (drainedRegion (s.counted f h.ty) f (f.data .a).toNat x)) := by
  refine firing_acts (sh := fun _ => { h := h, targets := [h.t0, h.t1], lat := 4, nullOut := true }) hr ?_
  simp only [hh, hx]
  exact (if_neg (Bool.not_eq_true _ ▸ hd)).trans ((if_neg (Nat.not_le.2 hc)).trans (if_neg (Nat.not_lt.2 hdep)))

end

end

end Sys2Proof.Laws

namespace Sys2Proof.Proofs

open Sys2Proof Sys2Proof.Machine Sys2Proof.Claims Sys2Proof.Laws

/-- R178: MDRAIN takes the entries of a completion word that it accepts. -/
theorem drainsTakeEntries : Claims.DrainsTakeEntries := by
  intro s f h sat pen sw port b r x hr hh hx u d base m set ires ok
  have hok : ok ↔ drainRefused d h.ty x = false := drainRefused_eq_false.symm
  obtain ⟨hbase, hm, hset, hires⟩ : bitsAt d 0 6 = base ∧ bitsAt d 6 7 = m ∧ bitsAt d 13 1 = set ∧ bitsAt d 14 1 = _ :=
    completion_fields d
  have hu : u.region? b r = some x := by
    obtain ⟨l, e⟩ := counted_cases s f h.ty
    rw [show u = _ from e]
    exact hx
  refine ⟨fun hd hc hdep => ?_, fun hd => ?_, fun hd hc => ?_⟩
  · refine ⟨_, drainedRegion u f d x, startedDrain u f d, mdrain_drains hr hh hu (hok.1 hd) (hm ▸ hc) hdep,
      region?_putRegion hu rfl rfl, rfl, rfl, rfl, rfl, hset, hbase, hm, ?_, rfl, ?_, rfl, sameMemory_fab u _⟩
    · show decide (bitsAt d 14 1 = 1) = ires
      rw [hires]
    · refine List.map_congr_left fun a _ => ?_
      simp only [hset, hbase, hm, Bool.and_eq_true, decide_eq_true_eq, and_assoc]
  · rw [← hset]
    exact mdrain_refuses hr hh hu (Bool.eq_true_of_not_eq_false (mt hok.2 hd))
  · rw [← hm] at hc ⊢
    exact mdrain_tooLong hr hh hu (hok.1 hd) hc

end Sys2Proof.Proofs
end

section
/-! PROOF. The events of regions and the results of drains (R174 to R178, R309). -/

namespace Sys2Proof.Laws

open Sys2Proof Sys2Proof.Machine Sys2Proof.Claims

/-! REGION_ROW_ENTRY (R309). -/

section
variable {s : State} {x : Region} {t : Ty} {row id j : Nat} {k : Tok}

/-- The tile whose waiting token a row takes next is in progress. -/
theorem rowNext_tile (hn : x.rowNext t row = some (id, j, k)) : ∃ tl ∈ x.tiles, tl.id = id := by
  obtain ⟨tl, htl, he⟩ := List.exists_of_findSome?_eq_some hn
  obtain ⟨e, -, heq⟩ := Option.map_eq_some_iff.1 he
  exact ⟨tl, htl, congrArg Prod.fst heq⟩

/-- The region whose row takes its next waiting token. -/
def rowEntered (x : Region) (row id j : Nat) (k : Tok) (cyc : Nat) : Region :=
  { x with rowTab := x.rowTab.filter fun e => !(e.1 = row && e.2.1 = id && e.2.2.1 = j) }.enter id row j k cyc

theorem exec_regionRowEntry {site : Site} {h : Hdr} {iext ires : Bool} {w m : Nat} (hx : s.field? s.arg.u s.arg.j = some x)
    (hm : s.mmacOf x = some (site, h, iext, w, m, ires)) (hn : x.rowNext h.ty s.arg.m = some (id, j, k))
    (hr : x.rowReady s.arg.m s.cyc = true) : exec .regionRowEntry s = .next (s.putRegion (rowEntered x s.arg.m id j k s.cyc)) := by
  show execRegionRowEntry s = _
  simp only [execRegionRowEntry, hx, hm, hn, hr, if_true]
  rfl

end

/-! The end of a tile (R177). -/

section
variable {x : Region} {t : Ty} {ires : Bool} {m i n : Nat} {xs : Nat → Word} {init : Nat → Option Word} {half : Machine.Half}

/-- Row `i` of the results of a tile holds its dot products. -/
theorem results_row (hi : i < m) (hn : n < 8 * x.w) :
    (((x.results half t ires m xs init).1.drop i).headD [])[n]? = some (x.dot half t ires xs (init (i * (8 * x.w) + n)) i n).1 := by
  have hrow : ((x.results half t ires m xs init).1)[i]? =
      some ((upto (8 * x.w)).map fun n => (x.dot half t ires xs (init (i * (8 * x.w) + n)) i n).1) := by
    simp [Region.results, upto_get hi, Function.comp_def]
  rw [List.headD_eq_head?_getD, List.head?_drop, hrow]
  simp [upto_get hn]

end

/-- The region in which a tile has written its results. -/
def tileWritten (x : Region) (tl : MTile) (rows : List (List Int)) (poi : Bool) (cyc : Nat) : Region :=
  { x with
    tiles := x.tiles.filter fun u => u.id ≠ tl.id
    accs := x.accs.map fun a =>
      if a.tile = tl.id && a.half = tl.half then { a with full := true, vals := (rows.drop (a.idx - tl.base)).headD [], poi := poi } else a
    busyTo := cyc + 1 }

section
variable {s : State} {x : Region} {tl : MTile}

/-- An entry of the tile then holds the row of its index. -/
theorem mem_tileWritten_accs {rows : List (List Int)} {poi : Bool} {cyc : Nat} {a : AccEntry} (ha : a ∈ (tileWritten x tl rows poi cyc).accs)
    (ht : a.tile = tl.id) (hh : a.half = tl.half) : a.full = true ∧ a.vals = (rows.drop (a.idx - tl.base)).headD [] := by
  obtain ⟨e, -, rfl⟩ := List.mem_map.1 ha
  split at ht <;> split at hh <;> simp_all

/-- A tile without initial values whose streams have ended, at the head of the tiles, is the one that ends. -/
theorem exec_mmacTileComplete {site : Site} {h : Hdr} {w m : Nat} {ires : Bool} {r : List MTile}
    (hx : s.field? s.arg.u s.arg.j = some x) (hm : s.mmacOf x = some (site, h, false, w, m, ires)) (hb : s.targeted site .b = false)
    (hl : x.tiles = tl :: r) (hc : tl.count.isSome = true) (hlen : tl.toks.length = m * rowTokens x (x.halfOf tl.half) h.ty)
    (hlast : tl.lastIn + x.h + x.w + 8 ≤ s.cyc) : ∃ poi ops fl, exec .mmacTileComplete s =
      .next ((((s.putRegion ((tileWritten x tl (x.results (x.halfOf tl.half) h.ty ires m (tokenAt tl.toks) fun _ => none).1 poi s.cyc).startLoad
        s.cyc (s.weightBytes x.barn x.k))).modInst x.k x.v ops).raiseFlags x.k 0 fl).emitAll site 0
          { tag := tl.tag, dep := tl.dep, data := completionWord ires tl.half m tl.base, ty := .b32, poi := poi } [h.t0, h.t1]) := by
  have hfirst : ∀ p, p tl = true → x.tiles.find? p = some tl := fun p hp => by rw [hl, List.find?_cons_of_pos hp]
  show ∃ poi ops fl, execMmacTileComplete s = _
  simp only [execMmacTileComplete, hx, hm, hb, Bool.or_false, Bool.not_false, Bool.true_or, Bool.false_eq_true, if_false]
  rw [hfirst]
  · exact ⟨_, _, _, rfl⟩
  · simp [hc, hlen, hlast]

end

/-! WLOAD_COMPLETE (R175). -/

section
variable {s : State} {x : Region} {l : WLoad} {r : List WLoad} {c : Nat} {hf : Machine.Half}

theorem length_raced (s : State) (old new : List Byte) : (s.raced old new).length = new.length := by
  simp [State.raced]

/-- A choice that may be taken changes the count of choices alone. -/
theorem chosen_cases (s : State) (p : Prop) [Decidable p] : ∃ n, (if p then s else s.chose) = { s with ctr := n } := by
  split <;> exact ⟨_, rfl⟩

/-- The state in which a load has latched its image, with `n` choices taken. -/
def latched (s : State) (n : Nat) (x : Region) (r : List WLoad) (hf : Machine.Half) : State :=
  ({ s with ctr := n } : State).putRegion (({ x with loads := r }.setHalf x.idle hf).startLoad s.cyc (s.weightBytes x.barn x.k))

theorem exec_wloadComplete (hx : s.field? s.arg.u s.arg.j = some x) (hl : x.loads = l :: r) (hs : l.started = some c)
    (hcmp : l.cmp = false) (hoff : l.off % 64 = 0) (hlen : imageBytes x.h x.w l.wfmt l.gsz ≤ (s.weightBytes x.barn x.k l.off).length)
    (hblk : (s.block? (.region x.barn x.r) x.blk).isSome = true)
    (hload : loadHalf (s.raced l.seen (s.weightBytes x.barn x.k l.off)) x.h x.w l.wfmt l.gsz
      (s.weightPoison x.barn x.k l.off (imageBytes x.h x.w l.wfmt l.gsz)) = .inl hf)
    (hcyc : c + 12 + (imageBytes x.h x.w l.wfmt l.gsz + 255) / 256 ≤ s.cyc) :
    ∃ n k ts y, exec .wloadComplete s =
      .next (((latched s n x r hf).emitAll l.fire.site 0 k ts).feedSwap y l.fire.tag l.fire.dep) := by
  have hraw : ¬(s.raced l.seen (s.weightBytes x.barn x.k l.off)).length < imageBytes x.h x.w l.wfmt l.gsz := by
    rw [length_raced]
    exact Nat.not_lt.2 hlen
  have hok : (decide (s.cyc < c + 12 + (imageBytes x.h x.w l.wfmt l.gsz + 255) / 256) ||
      (s.block? (.region x.barn x.r) x.blk).isNone) = false := by
    rw [Option.isNone_eq_false_iff.2 hblk, Bool.or_false]
    exact decide_eq_false (Nat.not_lt.2 hcyc)
  obtain ⟨n, hctr⟩ := chosen_cases s (l.seen = s.weightBytes x.barn x.k l.off)
  have hpoison : ({ s with ctr := n } : State).weightPoison = s.weightPoison := rfl
  have hblock : ({ s with ctr := n } : State).block? = s.block? := rfl
  show ∃ n k ts y, execWloadComplete s = _
  simp only [execWloadComplete, hx, hl, hs, hcmp, hoff, hraw, Bool.not_false, Bool.true_and, decide_false, ne_eq, not_true_eq_false,
    Bool.or_false, Bool.false_eq_true, if_false, Option.elim_some]
  simp only [hctr, hpoison, hblock, hload, hok, Bool.false_eq_true, if_false]
  exact ⟨n, _, _, _, rfl⟩

end

/-! WSWAP_IN_FORCE and MFREE_RELEASE (R174, R176). -/

section
variable {s : State} {x : Region} {f : Firing} (hx : s.field? s.arg.u s.arg.j = some x)
include hx

/-- The region in which a swap has made the idle half active. -/
def swapped (x : Region) : Region :=
  { x with active := x.idle, swap := none }.setHalf x.active { x.halfOf x.active with fresh := false }

theorem exec_wswapInForce (hs : x.swap = some f) (ht : x.tiles = []) (hl : x.loads = []) (hb : x.busyTo ≤ s.cyc) :
    ∃ h : Hdr, exec .wswapInForce s =
      .next ((s.putRegion (swapped x)).emitAll f.site 2 (f.result h false h.ty (f.data .a)) [h.t0, h.t1]) := by
  have hidle : (!x.tiles.isEmpty || !x.loads.isEmpty || decide (s.cyc < x.busyTo)) = false := by simp [ht, hl, hb]
  show ∃ h : Hdr, execWswapInForce s = _
  simp only [execWswapInForce, hx, hs, hidle, Bool.false_eq_true, if_false]
  exact ⟨_, rfl⟩

/-- The state in which a region is released: its block, its sets and its fetch are gone, and its number has its next generation. -/
def released (s : State) (x : Region) : State :=
  { s with
    fab := { s.fab with
      regions := s.fab.regions.filter fun y => !(y.barn = x.barn && y.r = x.r)
      blocks := s.fab.blocks.filter fun l => l.holder ≠ .region x.barn x.r
      queues := s.fab.queues.filter fun q => q.site.holder ≠ .region x.barn x.r
      sets := s.fab.sets.filter fun y => y.site.holder ≠ .region x.barn x.r }
    regGens := (s.regGens.filter fun p => p.1 ≠ x.barn * 8 + x.r) ++ [(x.barn * 8 + x.r, (x.gen + 1) % 2 ^ 16)]
    fetches := s.fetches.filter fun y => y.holder ≠ .region x.barn x.r }

theorem exec_mfreeRelease (hf : x.freeBy = some f) (ht : x.tiles = []) (hl : x.loads = []) (hd : x.drains = []) :
    ∃ h : Hdr, exec .mfreeRelease s = .next ((released s x).emitAll f.site 4 (f.result h false .b32 0) [h.t0, h.t1]) := by
  have hidle : (!x.tiles.isEmpty || !x.loads.isEmpty || !x.drains.isEmpty) = false := by simp [ht, hl, hd]
  show ∃ h : Hdr, execMfreeRelease s = _
  simp only [execMfreeRelease, hx, hf, hidle, Bool.false_eq_true, if_false]
  exact ⟨_, rfl⟩

end

theorem region?_released (s : State) (x : Region) : (released s x).region? x.barn x.r = none := by
  refine List.find?_eq_none.2 fun y hy => ?_
  have hne := (List.mem_filter.1 hy).2
  rw [Bool.not_eq_true'] at hne
  exact Bool.eq_false_iff.1 hne

theorem regionGen_released (s : State) (x : Region) : (released s x).regionGen x.barn x.r = (x.gen + 1) % 2 ^ 16 := by
  have hnone : (s.regGens.filter fun p => p.1 ≠ x.barn * 8 + x.r).find? (fun p => p.1 = x.barn * 8 + x.r) = none :=
    List.find?_eq_none.2 fun p hp => by simpa using (List.mem_filter.1 hp).2
  simp only [State.regionGen, released, List.find?_append, hnone, Option.none_or]
  simp

/-! MDRAIN_RESULT (R178). -/

/-- The result that leaves may also enter an edge queue. -/
def edgeCopied (s : State) (x : Region) (pen : Bool) (port : BitVec 4) (k : Tok) : State :=
  if pen && x.task.isNone then
    s.modFab fun g => { g with eqs := g.eqs ++
      [{ barn := x.barn, out := true, q := port.toNat, k := x.k, v := x.v, tok := some k, bind := ⟨0, 0, .b32, 1, 0⟩, since := s.cyc }] }
  else s

section
variable {s : State} {x : Region} {pen : Bool} {port : BitVec 4} {k : Tok}

@[simp] theorem edgeCopied_flights : (edgeCopied s x pen port k).fab.flights = s.fab.flights := by
  unfold edgeCopied
  split <;> rfl

@[simp] theorem edgeCopied_region? (b r : Nat) : (edgeCopied s x pen port k).region? b r = s.region? b r := by
  unfold edgeCopied
  split <;> rfl

end

/-- The region of a drain that goes on to its next result. -/
def resultTaken (x : Region) (n : Nat) (d : Drain) (cyc : Nat) : Region :=
  { x with drains := putAt x.drains n { d with next := d.next + 1, since := cyc } }

/-- The region of a drain that has ended: its entries are free. -/
def drainEnded (x : Region) (n : Nat) (d : Drain) : Region :=
  { x with
    drains := dropAt x.drains n
    accs := x.accs.filter fun a => !(a.half = d.half && decide (d.base ≤ a.idx) && decide (a.idx < d.base + d.m)) }

section
variable {s : State} {x : Region} {d : Drain} {h : Hdr} {sat pen : Bool} {sw : BitVec 5} {port : BitVec 4}
  (hx : s.field? s.arg.u s.arg.j = some x) (hd : (x.drains.drop s.arg.n).head? = some d)
  (hi : s.nodeInstr d.site = some (.mdrain h sat sw pen port)) (hs : d.since < s.cyc)
  (hp : pen = true → s.eqRoom x.barn port.toNat true = true)
include hx hd hi hs hp

/-- A drain sends its next result. -/
theorem exec_mdrainResult_next {a : AccEntry} (hn : d.next < d.m * (8 * x.w))
    (hw : s.windowFull d.site d.tag d.dep (sw.toNat + 1) d.next = false)
    (ha : x.accs.find? (fun a => decide (a.half = d.half) && decide (a.idx = d.base + d.next / (8 * x.w))) = some a) :
    let r := drained d.ires sat ((a.vals.drop (d.next % (8 * x.w))).headD 0)
    let k := Tok.under { tag := d.tag, dep := d.dep, data := BitVec.ofNat 32 r.1, ty := h.ty, poi := d.poi } d.tag d.dep
      (sw.toNat + 1) d.next
    exec .mdrainResult s = .next ((edgeCopied ((s.putRegion (resultTaken x s.arg.n d s.cyc)).raiseFlags x.k 0 r.2) x pen port k).emitAll
      d.site 0 k [h.t0, h.t1]) := by
  have hroom : (pen && !s.eqRoom x.barn port.toNat true) = false := by
    cases pen <;> simp_all
  show execMdrainResult s = _
  simp only [execMdrainResult, hx, hd, hi, hroom, hw, ha, hn, Nat.not_le.2 hs, Nat.ne_of_lt hn, decide_false, Bool.and_false, Bool.or_false,
    Bool.false_eq_true, if_false, if_true, Option.map_some, Option.getD_some]
  rfl

/-- A drain that has sent every result sends its marker. -/
theorem exec_mdrainResult_ends (hn : d.next = d.m * (8 * x.w)) :
    let k := Tok.under { tag := d.tag, dep := d.dep, data := 0, ty := h.ty, poi := d.poi, eos := true } d.tag d.dep
      (sw.toNat + 1) (d.m * (8 * x.w))
    exec .mdrainResult s = .next ((edgeCopied ((s.putRegion ((drainEnded x s.arg.n d).startLoad s.cyc (s.weightBytes x.barn x.k))).raiseFlags
      x.k 0 0) x pen port k).emitAll d.site 0 k [h.t0, h.t1]) := by
  have hroom : (pen && !s.eqRoom x.barn port.toNat true) = false := by
    cases pen <;> simp_all
  show execMdrainResult s = _
  simp only [execMdrainResult, hx, hd, hi, hroom, hn, Nat.not_le.2 hs, Nat.lt_irrefl, decide_false, decide_true, Bool.and_false,
    Bool.false_and, Bool.or_false, Bool.false_eq_true, if_false]
  rfl

end

/-! The value of a result (R178). -/

/-- A value is infinite only by the largest exponent field and an empty fraction. -/
theorem fields_of_value_inf {f : Fmt} {n : Nat} {g : Bool} (h : f.value n = .inf g) :
    bitsAt n f.frac f.expW = 2 ^ f.expW - 1 ∧ bitsAt n 0 f.frac = 0 := by
  unfold Fmt.value at h
  dsimp only at h
  split at h
  · next he =>
    rw [Bool.and_eq_true, decide_eq_true_iff] at he
    split at h
    · next hm => exact ⟨he.1, hm⟩
    · cases h
  · split at h
    · cases h
    · split at h <;> cases h

theorem f32_infinities {n : Nat} {g : Bool} (hn : n < 2 ^ 32) (h : Fmt.f32.value n = .inf g) : n = 0x7F800000 ∨ n = 0xFF800000 := by
  obtain ⟨he, hm⟩ : bitsAt n 23 8 = 255 ∧ bitsAt n 0 23 = 0 := fields_of_value_inf h
  rw [bitsAt_eq] at he hm
  omega

/-- A result of an f32 tile leaves as it is, but with `.sat` the largest finite number leaves for an infinity. -/
theorem drained_f32 (sat : Bool) {v : Int} (hlt : v < 2 ^ 32) : drained false sat v =
    if sat = true ∧ v = 0x7F800000 then (0x7F7FFFFF, flSAT) else if sat = true ∧ v = 0xFF800000 then (0xFF7FFFFF, flSAT)
    else (v.toNat, 0) := by
  cases sat with
  | false => rfl
  | true =>
    by_cases h1 : v = 0x7F800000
    · subst h1
      decide
    by_cases h2 : v = 0xFF800000
    · subst h2
      decide
    rw [if_neg (by simp [h1]), if_neg (by simp [h2])]
    cases hval : Fmt.f32.value v.toNat with
    | inf g =>
      obtain h | h := f32_infinities (by omega) hval <;> omega
    | nan => simp [drained, hval]
    | fin g m e st => simp [drained, hval]

end Sys2Proof.Laws

namespace Sys2Proof.Proofs

open Sys2Proof Sys2Proof.Machine Sys2Proof.Claims Sys2Proof.Laws

/-- R175, R176, R177, R309: the events of a region. -/
theorem regionEvents : Claims.RegionEvents := by
  intro s x hx
  have hplace := field?_region? hx
  refine ⟨fun site h iext w m ires id j k hm hn hready => ?_, fun site h w m ires tl r hm hb hl hc hlen hlast => ?_,
    fun l r c hf hl hs hcmp hoff hlen hblk hload hcyc hr => ?_, fun f hs ht hl hb => ?_, fun f hf ht hl hd => ?_⟩
  · obtain ⟨tl, htl, rfl⟩ := rowNext_tile hn
    refine ⟨_, rowEntered x s.arg.m tl.id j k s.cyc, exec_regionRowEntry hx hm hn hready, region?_putRegion hplace rfl rfl, ?_, ?_⟩
    · rintro e he ⟨hrow, hid, hidx⟩
      have hout := (List.mem_filter.1 he).2
      simp [hrow, hid, hidx] at hout
    · exact mem_enter (x := { x with rowTab := _ }) htl _ j k _
  · obtain ⟨poi, ops, fl, hexec⟩ := exec_mmacTileComplete hx hm hb hl hc hlen hlast
    let y := tileWritten x tl (x.results (x.halfOf tl.half) h.ty ires m (tokenAt tl.toks) fun _ => none).1 poi s.cyc
    obtain ⟨hbarn, hreg, -, htiles, -⟩ := startLoad_keeps y s.cyc (s.weightBytes x.barn x.k)
    refine ⟨_, y.startLoad s.cyc (s.weightBytes x.barn x.k), _, hexec, ?_, ?_, fun z hz => ?_, rfl, rfl, rfl, fun a ha ht hh => ?_⟩
    · rw [raiseFlags_fab]
      rfl
    · rw [region?_of_fab (raiseFlags_fab _ _ _ _)]
      exact region?_putRegion hplace hbarn hreg
    · rw [htiles] at hz
      simpa using (List.mem_filter.1 hz).2
    · obtain ⟨hfull, hvals⟩ := mem_tileWritten_accs (mem_startLoad_accs ha) ht hh
      exact ⟨hfull, fun n hn hi => hvals ▸ results_row hi hn⟩
  · obtain ⟨n, k, ts, y, hexec⟩ := exec_wloadComplete hx hl hs hcmp hoff hlen hblk hload hcyc
    obtain ⟨a, b, eh⟩ := setHalf_cases { x with loads := r } x.idle hf
    refine ⟨_, { x with loads := r }.setHalf x.idle hf, hexec, ?_, ?_, halfOf_setHalf _ _ _⟩
    · rw [region?_feedSwap, region?_emitAll, latched, startLoad_of_nil (by rw [eh]; exact hr)]
      exact region?_putRegion (s := { s with ctr := n }) hplace (by rw [eh]) (by rw [eh])
    · rw [eh]
      exact hr
  · obtain ⟨h, hexec⟩ := exec_wswapInForce hx hs ht hl hb
    obtain ⟨a, b, eh⟩ := setHalf_cases { x with active := x.idle, swap := none } x.active { x.halfOf x.active with fresh := false }
    refine ⟨_, swapped x, h, hexec, rfl, region?_putRegion hplace ?_ ?_, ?_, ?_⟩ <;> rw [swapped, eh]
    rfl
  · obtain ⟨h, hexec⟩ := exec_mfreeRelease hx hf ht hl hd
    exact ⟨_, h, hexec, rfl, region?_released s x, regionGen_released s x⟩

/-- R178, R254: a drain sends its results, then its marker. -/
theorem drainResults : Claims.DrainResults := by
  intro s x d h sat pen sw port hx hd hi hs hp cnt
  have hplace := field?_region? hx
  refine ⟨?_, fun hn => ?_, fun v _ hlt b fl hv => ?_⟩
  · intro a hn hw ha r
    refine ⟨_, resultTaken x s.arg.n d s.cyc, ?_, ?_, rfl, exec_mdrainResult_next hx hd hi hs hp hn hw ha⟩
    · rw [edgeCopied_flights, raiseFlags_fab]
      rfl
    · rw [edgeCopied_region?, region?_of_fab (raiseFlags_fab _ _ _ _)]
      exact region?_putRegion hplace rfl rfl
  · obtain ⟨hbarn, hreg, -⟩ := startLoad_keeps (drainEnded x s.arg.n d) s.cyc (s.weightBytes x.barn x.k)
    refine ⟨_, (drainEnded x s.arg.n d).startLoad s.cyc (s.weightBytes x.barn x.k), ?_, ?_, ?_,
      exec_mdrainResult_ends hx hd hi hs hp hn⟩
    · rw [edgeCopied_flights, raiseFlags_fab]
      rfl
    · rw [edgeCopied_region?, region?_of_fab (raiseFlags_fab _ _ _ _)]
      exact region?_putRegion hplace hbarn hreg
    · rintro a ha ⟨hhalf, hbase, hlast⟩
      have hout := (List.mem_filter.1 (mem_startLoad_accs ha)).2
      simp [hhalf, hbase, hlast] at hout
  · rw [drained_f32 sat hlt] at hv
    split at hv
    · next h1 => rw [if_pos h1]; cases hv; exact ⟨rfl, rfl⟩
    · next h1 =>
      rw [if_neg h1]
      split at hv
      · next h2 => rw [if_pos h2]; cases hv; exact ⟨rfl, rfl⟩
      · next h2 => rw [if_neg h2]; cases hv; exact ⟨rfl, rfl⟩

/-- Settles O20: by the fields of a completion word, and by the state that each event of a region leaves. -/
theorem matrixResults : Obligations.MatrixResults := ⟨drainsTakeEntries, drainResults, regionEvents⟩

end Sys2Proof.Proofs
end

section
/-! PROOF. Records, publishes and barriers (R180, R185, R186, R194 to R200, R210, R335). -/

namespace Sys2Proof.Laws

open Sys2Proof Sys2Proof.Machine Sys2Proof.Claims

/-! The record of a firing (R185). -/

theorem words_length (va n : Nat) : (words va n).length = n := by simp [words]

theorem words_get (va : Nat) {n j : Nat} (hj : j < n) :
    (words va n)[j]? = some { addr := va + 4 * j, size := 4, mask := 2 ^ 32 - 1, data := 0 } := by
  simp [words, upto_get hj]

section
variable {s : State} {f : Firing} {bsel : BitVec 4} {disp : BitVec 9} {kind : AccKind} {n : Nat} {act : Nat → State}
  (ha : poisonIn f .a = false) (hva : Allowed s f (kind.code = 2) (flatVa s f bsel disp))
include ha hva

theorem withRecord_acts (hal : flatVa s f bsel disp % 64 = 0) : s.withRecord f bsel disp kind n act = act (flatVa s f bsel disp) := by
  rw [State.withRecord, flat_ok ha hva]
  exact if_neg (not_not.2 hal)

theorem withRecord_misaligned (hal : flatVa s f bsel disp % 64 ≠ 0) :
    s.withRecord f bsel disp kind n act = s.alignTrap f (flatVa s f bsel disp) n := by
  rw [State.withRecord, flat_ok ha hva]
  exact if_pos hal

end

/-- The instructions that hand a record to an engine (R188). -/
def engineInstrs (h : Hdr) (sc : Scope) (t2 : Option Target) (bsel : BitVec 4) (disp : BitVec 9) : List Instr :=
  [.cpy h sc t2 bsel disp, .gath h sc t2 bsel disp, .scat h sc t2 bsel disp, .coll h sc t2 bsel disp]

section
variable {s : State} {f : Firing} {h : Hdr} {sc : Scope} {t2 : Option Target} {bsel : BitVec 4} {disp : BitVec 9} (hr : Runs s f h [])
include hr

theorem exec_engineInstr {i : Instr} (hi : i ∈ engineInstrs h sc t2 bsel disp) : exec i s =
    .next ((s.counted f h.ty).withRecord f bsel disp .read 64 fun va =>
      (s.counted f h.ty).issue { f.access .read .b32 sc with pieces := words va 16 }) := by
  have hexec : exec i s = engineInstr s h sc t2 bsel disp := by
    simp only [engineInstrs, List.mem_cons, List.not_mem_nil, or_false] at hi
    obtain rfl | rfl | rfl | rfl := hi
    · show execCpy h sc t2 bsel disp s = _
      rfl
    · show execGath h sc t2 bsel disp s = _
      rfl
    · show execScat h sc t2 bsel disp s = _
      rfl
    · show execColl h sc t2 bsel disp s = _
      rfl
  exact hexec.trans (firing_acts (sh := fun _ => memShape h t2 true) hr rfl)

theorem exec_launch : exec (.launch h sc t2 bsel disp) s =
    .next ((s.counted f h.ty).withRecord f bsel disp .read 256 fun va =>
      (s.counted f h.ty).issue { f.access .read .b32 sc with pieces := words va 64 }) :=
  firing_acts (sh := fun _ => memShape h t2 true) hr rfl

/-- What TTASK does with its record's address (R180, R335). -/
def sendsTask (s : State) (f : Firing) (sc : Scope) (va : Nat) : State :=
  match s.taskQueue f.k with
  | .inr o => s.trapFiring f { code := tcTtaskFormat, aux0 := va, aux1 := o }
  | .inl d => if 2 ^ d.log2n ≤ d.count then { s with held := true } else s.issue { f.order sc false true with opnd := va }

theorem exec_ttask : exec (.ttask h sc t2 bsel disp) s =
    .next ((s.counted f h.ty).withRecord f bsel disp .read 192 (sendsTask (s.counted f h.ty) f sc)) :=
  firing_acts (sh := fun _ => memShape h t2 true) hr rfl

end

section
variable {s : State} {f : Firing} {sc : Scope} {va : Nat} {d : QDesc} (hd : s.qdesc? f.k 64 = some d)
include hd

theorem sendsTask_room (he : d.en = true) (hc : d.count < 2 ^ d.log2n) :
    sendsTask s f sc va = issued s { f.access .read .b32 sc with rel := true, opnd := va } := by
  simp only [sendsTask, State.taskQueue, hd, he, if_true, if_neg (Nat.not_le.2 hc)]
  rfl

theorem sendsTask_full (he : d.en = true) (hc : 2 ^ d.log2n ≤ d.count) : sendsTask s f sc va = { s with held := true } := by
  simp only [sendsTask, State.taskQueue, hd, he, if_true, if_pos hc]

theorem sendsTask_disabled (he : d.en = false) :
    sendsTask s f sc va = s.trapFiring f { code := tcTtaskFormat, aux0 := va, aux1 := 9 } := by
  simp only [sendsTask, State.taskQueue, hd, he, Bool.false_eq_true, if_false]

end

/-! Records of waiters (R348, R353). -/

/-- States that differ in the bytes of the four memories alone. -/
def Rewritten (s t : State) : Prop := ∃ a b c d, t = { s with dmem := a, hmem := b, scr := c, wbuf := d }

section
variable {s t u : State}

theorem rewritten_refl (s : State) : Rewritten s s := ⟨s.dmem, s.hmem, s.scr, s.wbuf, rfl⟩

theorem rewritten_trans (h : Rewritten s t) (h' : Rewritten t u) : Rewritten s u := by
  obtain ⟨a, b, c, d, rfl⟩ := h
  obtain ⟨a', b', c', d', rfl⟩ := h'
  exact ⟨a', b', c', d', rfl⟩

theorem rewritten_writePa (s : State) (pa : Nat) (b : List Byte) : Rewritten s (s.writePa pa b) := by
  unfold State.writePa
  split
  · next st x _ =>
    cases st
    · exact ⟨_, s.hmem, s.scr, s.wbuf, rfl⟩
    · exact ⟨s.dmem, _, s.scr, s.wbuf, rfl⟩
    · exact ⟨s.dmem, s.hmem, _, s.wbuf, rfl⟩
    · exact ⟨s.dmem, s.hmem, s.scr, _, rfl⟩
  · exact rewritten_refl s

theorem rewritten_foldState {α : Type} {g : State → α → State} (hg : ∀ s x, Rewritten s (g s x)) (l : List α) (s : State) :
    Rewritten s (foldState g s l) := by
  induction l generalizing s with
  | nil => exact rewritten_refl s
  | cons x l ih => exact rewritten_trans (hg s x) (ih (g s x))

/-- The overflow region of a context is memory. -/
theorem rewritten_mirrorOvf (s : State) (k : Nat) : Rewritten s (s.mirrorOvf k) := by
  unfold State.mirrorOvf
  dsimp only
  split
  · exact rewritten_refl s
  · exact rewritten_trans (rewritten_foldState (fun _ _ => rewritten_writePa ..) _ _) (rewritten_foldState (fun _ _ => rewritten_writePa ..) _ _)

end

/-- A context without an overflow region mirrors nothing. -/
theorem mirrorOvf_none {s : State} {k : Nat} (h : s.regField (.sheafOvf k) 59 5 = 0) : s.mirrorOvf k = s := if_pos h

/-- The record of a waiter as its pool takes it. -/
def pooled (s : State) (w : Waiter) : Waiter := { w with id := s.fresh, spill := false, slot := 0, since := s.cyc }

/-- The state with a waiter of a pool, before the overflow region follows. -/
def withWaiter (s : State) (w : Waiter) : State :=
  ({ s with waiters := s.waiters ++ [pooled s w], fresh := s.fresh + 1 } : State).countWaiters w.k

theorem newWaiter_room {s : State} {w : Waiter} (hp : (s.waiters.filter fun x => x.pool = w.pool && !x.spill).length < 32768) :
    s.newWaiter w = some ((withWaiter s w).mirrorOvf w.k, s.fresh) := by
  simp only [State.newWaiter, Nat.not_le.2 hp, decide_false, Bool.false_and, Bool.false_eq_true, if_false]
  rfl

theorem sameMemory_withWaiter (s : State) (w : Waiter) : SameMemory s (withWaiter s w) :=
  ⟨fun st => by cases st <;> rfl, rfl, fun st => by cases st <;> rfl⟩

/-- The count of waiters stands in another register than the overflow region. -/
theorem withWaiter_ovf (s : State) (w : Waiter) (k : Nat) :
    (withWaiter s w).regField (.sheafOvf k) 59 5 = s.regField (.sheafOvf k) 59 5 :=
  regField_setReg_ne _ _ 59 5 (by simp only [Reg.offset]; omega)

/-! PUBLISH and AWAIT (R194, R196, R197). -/

section
variable {s : State} {f : Firing} {n : Nat} {act : Nat → Nat → Nat → State}

theorem withKey_acts {t : Tensor} (hg : (f.data .b).toNat < 2 ^ 16) (ht : tensorOf (s.descEntry f.k f.v n) = some t) :
    s.withKey f n act = act t.base (f.data .a).toNat (f.data .b).toNat := by
  rw [State.withKey, if_neg (Nat.not_le.2 hg), State.tensorId, ht]
  rfl

theorem withKey_broken (hg : (f.data .b).toNat < 2 ^ 16) (ht : tensorOf (s.descEntry f.k f.v n) = none) :
    s.withKey f n act = s.tensorDesc f n := by
  rw [State.withKey, if_neg (Nat.not_le.2 hg), State.tensorId, ht]
  rfl

theorem withKey_wide (hg : 2 ^ 16 ≤ (f.data .b).toNat) :
    s.withKey f n act = s.trapFiring f { code := tcSheafKey, aux0 := (f.data .b).toNat } := if_pos hg

end

/-- The waiter of an AWAIT (R197). -/
def awaiter (s : State) (f : Firing) (tid tile gen : Nat) : Waiter :=
  { id := 0, kind := 3, asid := s.asid f.k, k := f.k, v := f.v, recAt := f.site.blk + f.site.idx, pool := poolOf f.site.holder,
    inputs := [{ tid := tid, tile := tile, egen := gen, count := 0, cnt := 0 }] }

/-- An AWAIT waits outside its node for the waiter `id`. -/
def outside (s : State) (f : Firing) (id : Nat) : State :=
  { s with fab := { s.fab with waits := s.fab.waits ++ [{ id := s.fresh, fire := f, k := f.k, why := .awaitSheaf id, since := s.cyc }] },
           fresh := s.fresh + 1 }

/-- What AWAIT does with its key (R197, R351). -/
def awaits (s : State) (f : Firing) (tid tile gen : Nat) : State :=
  match s.newWaiter (awaiter s f tid tile gen) with
  | none => { s with held := true }
  | some (t, id) => outside t f id

theorem awaits_room {s : State} {f : Firing} {tid tile gen : Nat}
    (hp : (s.waiters.filter fun x => x.pool = poolOf f.site.holder && !x.spill).length < 32768) :
    awaits s f tid tile gen = outside ((withWaiter s (awaiter s f tid tile gen)).mirrorOvf f.k) f s.fresh := by
  rw [awaits, newWaiter_room (w := awaiter s f tid tile gen) hp]
  rfl

theorem sameMemory_outside (s : State) (f : Firing) (id : Nat) : SameMemory s (outside s f id) :=
  ⟨fun st => by cases st <;> rfl, rfl, fun st => by cases st <;> rfl⟩

section
variable {s : State} {f : Firing} {h : Hdr} {sc : Scope} {t2 : Option Target} {desc : BitVec 6} (hr : Runs s f h [.a, .b])
include hr

theorem exec_publish : exec (.publish h sc t2 desc) s = .next ((s.counted f h.ty).withKey f desc.toNat fun _ _ _ =>
    (s.counted f h.ty).issue (f.order sc false true)) :=
  firing_acts (sh := fun _ => { memShape h t2 true with clean := [.a, .b] }) hr rfl

theorem exec_await : exec (.await h sc t2 desc) s =
    .next ((s.counted f h.ty).withKey f desc.toNat (awaits (s.counted f h.ty) f)) :=
  firing_acts (sh := fun _ => { memShape h t2 true with clean := [.a, .b] }) hr rfl

end

/-! Barriers (R199, R200). -/

section
variable {s : State} {f : Firing} {h : Hdr} {sc : Scope} {t2 : Option Target} {bsel : BitVec 4} {disp : BitVec 9}

theorem exec_barwait (hr : Runs s f h []) : exec (.barwait h sc t2 bsel disp) s =
    .next ((s.counted f h.ty).withRecord f bsel disp .barWait 64 fun va =>
      (s.counted f h.ty).issue { f.access .barWait .b32 sc with acq := true, pieces := barrier va }) :=
  firing_acts (sh := fun _ => memShape h t2 true) hr rfl

theorem exec_barinit (hr : Runs s f h [.b]) : exec (.barinit h sc t2 bsel disp) s =
    .next ((s.counted f h.ty).withRecord f bsel disp (.barInit (f.data .b).toNat) 64 fun va =>
      (s.counted f h.ty).issue { f.access (.barInit (f.data .b).toNat) .b32 sc with rel := true, pieces := barrier va }) :=
  firing_acts (sh := fun _ => { memShape h t2 true with clean := [.b] }) hr rfl

/-- The address of a barrier with an offset of 0. -/
theorem flatAddr_zero (s : State) (k v : Nat) (bsel : BitVec 4) (disp : BitVec 9) :
    s.flatAddr k v bsel disp 0 = (((s.kbase k v bsel.toNat : Int) + disp.toInt) % 2 ^ 64).toNat := by
  simp [State.flatAddr, wrapNat, sext]

theorem rollArr_arrives (hcur : s.cur = some f) (hroll : ∀ x ∈ f.toks, x.2.rol = true)
    (hva : Allowed s f true (s.flatAddr f.k f.v bsel disp 0)) (hal : s.flatAddr f.k f.v bsel disp 0 % 64 = 0) :
    exec (.rollArr h sc t2 bsel disp) s =
      .next (s.issue { f.access .arrive .b32 sc with rel := true, pieces := barrier (s.flatAddr f.k f.v bsel disp 0) }) := by
  show execRollArr h sc t2 bsel disp s = _
  simp only [execRollArr, onFiring, hcur, kind_roll hroll, withVa_allowed (kind := .arrive) hva, hal, ne_eq, not_true_eq_false, if_false]

theorem rollArr_traps (hr : Runs s f h []) :
    let va := s.flatAddr f.k f.v bsel disp 0
    let bar := s.peekBar f.k va
    exec (.rollArr h sc t2 bsel disp) s = .next (s.trapFiring f (barState va bar.1 bar.2.1 bar.2.2)) := by
  refine (onFiring_runs hr).trans (congrArg _ ?_)
  simp only [kind_data false hr.fed hr.plain]

end

end Sys2Proof.Laws

namespace Sys2Proof.Proofs

open Sys2Proof Sys2Proof.Machine Sys2Proof.Claims Sys2Proof.Laws

/-- R180, R185, R186, R210, R335: engine instructions and LAUNCH read their record, TTASK sends its address. -/
theorem recordsAreRead : Claims.RecordsAreRead := by
  intro s f h sc t2 bsel disp hr ha u va read hva
  refine ⟨fun hal => ⟨?_, ?_⟩, fun hal i hi => ?_, fun d hal hd he hc => ?_, fun d hal hd he hc => ?_, fun d hal hd he => ?_⟩
  · refine ⟨{ f.access .read .b32 sc with pieces := words va 16 }, rfl, rfl, rfl, words_length va 16, fun j => words_get va, fun i hi => ?_⟩
    rw [exec_engineInstr hr hi, withRecord_acts ha hva hal]
    rfl
  · refine ⟨{ f.access .read .b32 sc with pieces := words va 64 }, rfl, rfl, rfl, words_length va 64, fun j => words_get va, fun i hi => ?_⟩
    obtain rfl := List.mem_singleton.1 hi
    rw [exec_launch hr, withRecord_acts ha hva hal]
    rfl
  · obtain hi | hi := List.mem_append.1 (show i ∈ engineInstrs h sc t2 bsel disp ++ [.launch h sc t2 bsel disp, .ttask h sc t2 bsel disp] from hi)
    · rw [exec_engineInstr hr hi, withRecord_misaligned ha hva hal]
      exact ⟨_, rfl, rfl, rfl⟩
    · obtain rfl | rfl := List.mem_pair.1 hi
      · rw [exec_launch hr, withRecord_misaligned ha hva hal]
        exact ⟨_, rfl, rfl, rfl⟩
      · rw [exec_ttask hr, withRecord_misaligned ha hva hal]
        exact ⟨_, rfl, rfl, rfl⟩
  · rw [exec_ttask hr, withRecord_acts ha hva hal, sendsTask_room hd he hc]
  · rw [exec_ttask hr, withRecord_acts ha hva hal, sendsTask_full hd he hc]
  · rw [exec_ttask hr, withRecord_acts ha hva hal, sendsTask_disabled hd he]
    exact ⟨_, rfl, rfl, rfl⟩

/-- R194, R196, R197: PUBLISH issues its release, AWAIT registers a waiter and waits outside its node. -/
theorem publishAndAwait : Claims.PublishAndAwait := by
  intro s f h sc t2 desc hr u gen id
  rw [exec_publish hr, exec_await hr]
  refine ⟨fun t hg ht => ⟨?_, fun hroom => ?_⟩, fun hg ht => ⟨?_, ?_⟩, fun hg => ⟨?_, ?_⟩⟩
  · rw [withKey_acts hg ht]
    rfl
  · rw [withKey_acts hg ht, awaits_room hroom]
    obtain ⟨a, b, c, d, e⟩ := rewritten_mirrorOvf (withWaiter u (awaiter u f t.base (f.data .a).toNat gen)) f.k
    refine ⟨_, pooled u (awaiter u f t.base (f.data .a).toNat gen), rfl, ?_, rfl, rfl, rfl, ?_, ?_, fun hovf => ?_⟩
    · rw [e]
      rfl
    · rw [e]
      rfl
    · rw [e]
      rfl
    · rw [mirrorOvf_none ((withWaiter_ovf u _ f.k).trans hovf)]
      exact sameMemory_trans (sameMemory_withWaiter u _) (sameMemory_outside _ f _)
  · rw [withKey_broken hg ht]
  · rw [withKey_broken hg ht]
  · rw [withKey_wide hg]
  · rw [withKey_wide hg]

/-- R199, R200: BARINIT, ROLL with `.arr` and BARWAIT reach the barrier object, ROLL sends a roll token. -/
theorem barrierAccesses : Claims.BarrierAccesses := by
  intro s f h sc t2 bsel disp u va at_ object
  refine ⟨fun hr ha hva hal => ?_, fun hr ha hva hal => ?_, fun hr => ?_, fun hcur hroll hva hal => ?_, fun hr => ?_⟩
  · rw [exec_barwait hr, withRecord_acts ha hva hal]
    rfl
  · rw [exec_barinit hr, withRecord_acts ha hva hal]
    rfl
  · exact firing_acts (sh := fun _ => { h := h, targets := [h.t0, h.t1, t2], nullOut := true }) hr rfl
  · have hat : s.flatAddr f.k f.v bsel disp 0 = at_ := flatAddr_zero s f.k f.v bsel disp
    rw [← hat] at hva hal ⊢
    exact rollArr_arrives hcur hroll hva hal
  · exact ⟨_, rfl, flatAddr_zero s f.k f.v bsel disp, rollArr_traps hr⟩

/-- Settles O21: by the address of a record or a barrier, and by the key of a firing. -/
theorem commandsAndBarriers : Obligations.CommandsAndBarriers := ⟨recordsAreRead, publishAndAwait, barrierAccesses⟩

end Sys2Proof.Proofs
end

section
/-! PROOF. Two tile tasks that share an id (R180). -/

namespace Sys2Proof.Laws

open Sys2Proof Sys2Proof.Machine Sys2Proof.Claims

/-- The tasks after a tile is computed: the first task of the id goes on to the drain. -/
theorem taskMmac_tasks {s : State} {t : Task} {x : Region} {tl : MTile} (h : x.tiles.head? = some tl) :
    (s.taskMmac t x).tasks =
      mapFirst (fun y => y.id = t.id) (fun y => { y with run := y.run.map fun r => (r.1, r.2.1, .drain), pos := 0 }) s.tasks := by
  simp only [State.taskMmac, h, State.taskGoes, State.modTask_tasks]
  obtain ⟨_, _, e, -⟩ := raiseFlags_frame (((s.putRegion _).modInst t.k t.v _)) t.k 0 _
  rw [e]
  rfl

/-- The step of a task whose tile is to be computed. -/
theorem exec_tileTaskStep_mmac {s : State} {t : Task} {x : Region} {b r : Nat} (ht : (s.tasks.drop s.arg.n).head? = some t)
    (hrun : t.run = some (b, r, .mmac)) (hfault : t.fault = none) (hlive : s.live t.k .io = true) (hgate : s.gatedPart b = false)
    (hx : s.region? b r = some x) : exec .tileTaskStep s = .next (s.taskMmac t x) := by
  show execTileTaskStep s = _
  simp only [execTileTaskStep, ht, hrun, hfault, hlive, hgate, hx, Option.isSome_none, Bool.not_true, Bool.or_false, Bool.false_eq_true,
    if_false]

/-- A task of slot 0 without initial values whose tile, in region 0 of barn 0, is to be computed. -/
def computingTask : Task :=
  { id := 0, die := 0, k := 0, v := 0, recAt := 0, bytes := List.replicate 44 255, core := none, order := 0, slot := 0,
    run := some (0, 0, .mmac) }

/-- Its tile. -/
def computedTile : MTile := { id := 0, tag := 0, dep := 0, half := 0, base := 0, next := [], toks := [], inits := [], started := 0 }

/-- Its region. -/
def computingRegion : Region := { barn := 0, r := 0, k := 0, v := 0, gen := 0, h := 1, w := 1, row := 0, col := 0, tiles := [computedTile] }

/-- The task stands second in the list, behind one of the same id that has not been issued. -/
def twinTasks : State :=
  { State.reset with
    tasks := [{ computingTask with run := none }, computingTask], fab := { State.reset.fab with regions := [computingRegion] },
    arg := { n := 1 } }

end Sys2Proof.Laws

namespace Sys2Proof.Proofs

open Sys2Proof Sys2Proof.Machine Sys2Proof.Claims Sys2Proof.Laws

/-- Refutes O39: a task whose tile is computed is claimed to be at its drain, in every state; the model moves the first task of the
id on. In a state with two tasks of one id, which the claim admits though no run gives two tasks an id, that is the other one. -/
theorem not_streamsAndTasks : ¬ Obligations.StreamsAndTasks := by
  unfold Obligations.StreamsAndTasks
  rintro ⟨-, -, -, hsteps⟩
  have hlive : twinTasks.live 0 .io = true := by decide
  have hgate : twinTasks.gatedPart 0 = false := by decide
  obtain ⟨-, -, -, -, hmmac, -⟩ := hsteps twinTasks computingTask 0 0 .mmac computingRegion rfl rfl rfl hlive hgate rfl
  obtain ⟨z, -, hz, -, -, ⟨u, hu, -, hdrain⟩, -⟩ := hmmac computedTile rfl (by decide) rfl
  have htasks : z.tasks = twinTasks.tasks := by
    rw [exec_tileTaskStep_mmac rfl rfl rfl hlive hgate rfl] at hz
    obtain rfl := Host.Outcome.next.inj hz
    exact taskMmac_tasks rfl
  rw [htasks] at hu
  have hnone : ∀ y ∈ twinTasks.tasks, y.run ≠ some (0, 0, .drain) := by decide
  exact hnone u hu hdrain

end Sys2Proof.Proofs
end

section
/-! SUPPORT. Loader and storer cores: what a change of a core keeps, who runs an Xbarn instruction, and the positions of edge queues
(R217, R221, R224). -/

namespace Sys2Proof.Laws

open Sys2Proof Sys2Proof.Machine Sys2Proof.Claims

/-! Lists. -/

section
variable {α : Type} {p : α → Bool} {f g : α → α}

/-- Two changes that agree on the element found change a list alike. -/
theorem mapFirst_congr {x : α} {l : List α} (hx : l.find? p = some x) (h : f x = g x) : mapFirst p f l = mapFirst p g l := by
  induction l with
  | nil => rfl
  | cons y r ih =>
    by_cases hp : p y
    · obtain rfl : y = x := by simpa [hp] using hx
      simp [mapFirst, hp, h]
    · simpa [mapFirst, hp] using ih (by simpa [hp] using hx)

end

/-! The number of a core. -/

section
variable (c : Core) (r : Nat) (v : Word) (cyc : Nat)

@[simp] theorem core_put_id : (c.put r v).id = c.id := by unfold Core.put; split <;> rfl

@[simp] theorem core_advance_id : (c.advance cyc).id = c.id := by
  unfold Core.advance
  dsimp only
  split
  · split <;> rfl
  · rfl

end

/-! The core of a state. -/

section
variable {s : State} {id : CoreId} {x : Core} {f g : Core → Core}

/-- A change of a core that keeps its number is what its place then holds. -/
theorem core?_modCore (hx : s.core? id = some x) (hg : ∀ y, (g y).id = y.id) : (s.modCore id g).core? id = some (g x) := by
  refine (find?_mapFirst (fun y hy => ?_) _).trans (congrArg (Option.map g) hx)
  rw [hg]
  exact hy

/-- Two changes that agree on the core in question change the state alike. -/
theorem modCore_congr (hx : s.core? id = some x) (h : f x = g x) : s.modCore id f = s.modCore id g := by
  show State.modFab s _ = State.modFab s _
  simp only [State.modFab, mapFirst_congr hx h]

theorem core?_coreWrites (hx : s.core? id = some x) (rd : Nat) (v : Word) :
    (s.coreWrites id rd v).core? id = some ((x.put rd v).advance s.cyc) :=
  core?_modCore hx fun y => by simp

end

/-! Who runs an Xbarn instruction (R224, R233). -/

section
variable {s : State} {id : CoreId} {x : Core} {kind : CoreId → Bool} {g : CoreId → Core → Scope → State}

theorem xbarn_runs {sc : BitVec 3} {p : Scope} (h : InCore s id x) (hk : kind id = true) (hp : Scope.ofBits sc = some p) :
    xbarn s kind sc g = .next (g id x p) := by
  rw [xbarn, onCore_runs h]
  simp only [hp, hk, if_true]

/-- An instruction of the other kind of core. -/
theorem xbarn_illegal (h : InCore s id x) (hk : kind id = false) : xbarn s kind pkgCode g = .next (s.coreIllegal id x.word) := by
  rw [xbarn, onCore_runs h]
  simp only [show Scope.ofBits pkgCode = some .pkg from rfl, hk, Bool.false_eq_true, if_false]

theorem xbarn_loader (h : InCore s id x) (hl : id.storer = false) : xbarn s isLoader pkgCode g = .next (g id x .pkg) :=
  xbarn_runs h (by simp [isLoader, hl]) rfl

theorem xbarn_storer (h : InCore s id x) (hs : id.storer = true) : xbarn s isStorer pkgCode g = .next (g id x .pkg) :=
  xbarn_runs h hs rfl

theorem xbarn_any (h : InCore s id x) : xbarn s anyCore pkgCode g = .next (g id x .pkg) := xbarn_runs h rfl rfl

theorem xbarn_notLoader (h : InCore s id x) (hs : id.storer = true) :
    xbarn s isLoader pkgCode g = .next (s.coreIllegal id x.word) := xbarn_illegal h (by simp [isLoader, hs])

theorem xbarn_notStorer (h : InCore s id x) (hl : id.storer = false) :
    xbarn s isStorer pkgCode g = .next (s.coreIllegal id x.word) := xbarn_illegal h hl

end

/-! Edge queues (R221). -/

section
variable {s : State} {b q : Nat}

/-- The head of an output queue leaves it. -/
theorem edge_popEdge_self : (s.popEdge b q).edge b true q = (s.edge b true q).tail := by
  simp only [State.edge, State.popEdge, State.modFab_fab]
  rw [← filter_dropFirst_self]
  simp

theorem edge_popEdge_ne {b' q' : Nat} {out : Bool} (h : (b', out, q') ≠ (b, true, q)) :
    (s.popEdge b q).edge b' out q' = s.edge b' out q' := by
  refine filter_dropFirst_disjoint (fun e he => ?_) _
  simp only [Bool.and_eq_true, decide_eq_true_eq] at he
  obtain ⟨⟨hb, ho⟩, hq⟩ := he
  refine Bool.eq_false_iff.2 fun hn => h ?_
  simp only [hb, ho, hq, Bool.and_eq_true, decide_eq_true_eq] at hn
  obtain ⟨⟨rfl, rfl⟩, rfl⟩ := hn
  rfl

theorem edgeHead_cons {e : EqTok} {r : List EqTok} {k : Tok} (h : s.edge b true q = e :: r) (hk : e.tok = some k) :
    s.edgeHead b q = some k := by
  simp [State.edgeHead, h, hk]

theorem edgeHead_nil (h : s.edge b true q = []) : s.edgeHead b q = none := by
  simp [State.edgeHead, h]

theorem eqRoom_eq (out : Bool) : s.eqRoom b q out = decide ((s.edge b out q).length < 64) := by
  unfold State.eqRoom State.edge
  congr 4
  funext e
  rw [Bool.and_right_comm]

end

end Sys2Proof.Laws
end

section
/-! PROOF. The edge queues at the cores: what a push checks and adds, and what a pop takes (R221 to R225). -/

namespace Sys2Proof.Laws

open Sys2Proof Sys2Proof.Machine Sys2Proof.Claims

/-! Pushes (R222, R223). -/

section
variable {s : State} {id : CoreId} {x : Core} {q i : Nat} {act : Binding → DWord → Nat → State}

theorem pushing_full (h : 64 ≤ (s.edge id.barn false q).length) : s.pushing id x q i act = { s with held := true } := by
  simp only [State.pushing, eqRoom_eq, decide_eq_false (Nat.not_lt.2 h), Bool.not_false, if_true]

section
variable (hroom : ¬ 64 ≤ (s.edge id.barn false q).length)
include hroom

theorem pushing_unbound (hb : (x.binding q).kind = 0) :
    s.pushing id x q i act = s.coreTrapAt id { code := tcEqBind, aux0 := q } := by
  simp only [State.pushing, eqRoom_eq, decide_eq_true (Nat.not_le.1 hroom), Bool.not_true, Bool.false_eq_true, if_false, hb, if_true]

variable (hb : (x.binding q).kind ≠ 0)
include hb

theorem pushing_wide (hi : 2 ^ (x.binding q).sw ≤ i) :
    s.pushing id x q i act = s.coreTrapAt id { code := tcStreamShape, aux0 := i, aux1 := (x.binding q).sw } := by
  simp only [State.pushing, eqRoom_eq, decide_eq_true (Nat.not_le.1 hroom), Bool.not_true, Bool.false_eq_true, if_false, hb, if_pos hi]

variable (hi : i < 2 ^ (x.binding q).sw)
include hi

theorem pushing_deep (hd : 44 < x.dep + (x.binding q).sw) :
    s.pushing id x q i act = s.coreTrapAt id { code := tcTagDepth, aux0 := x.dep, aux1 := (x.binding q).sw } := by
  simp only [State.pushing, eqRoom_eq, decide_eq_true (Nat.not_le.1 hroom), Bool.not_true, Bool.false_eq_true, if_false, hb,
    if_neg (Nat.not_le.2 hi), pushField_deep hd]

/-- A push that passes its checks acts with the parent's tag and the index. -/
theorem pushing_fits (hd : x.dep + (x.binding q).sw ≤ 44) : s.pushing id x q i act =
    act (x.binding q) (withNest x.tag (tagNest x.tag * 2 ^ (x.binding q).sw + i)) (x.dep + (x.binding q).sw) := by
  simp only [State.pushing, eqRoom_eq, decide_eq_true (Nat.not_le.1 hroom), Bool.not_true, Bool.false_eq_true, if_false, hb,
    if_neg (Nat.not_le.2 hi), pushField_fits hd]
  rw [← Nat.shiftLeft_add_eq_or_of_lt hi, Nat.shiftLeft_eq]

end

/-- The position that a push adds to its queue. -/
def pushed (s : State) (id : CoreId) (x : Core) (q : Nat) (k : Option Tok) : EqTok :=
  { barn := id.barn, out := false, q := q, k := x.k, v := x.v, tok := k, bind := x.binding q, id := s.fresh, since := s.cyc }

/-- XPUSH, XPUSHE and XPUSHN differ in the token that they push alone. -/
theorem pushToken_pushes {q : BitVec 4} {r : BitVec 5} {data : Core → Word} {nul eos : Bool} (hc : InCore s id x)
    (hl : id.storer = false) :
    Pushes (pushToken s q r data nul eos) s id x q.toNat (x.get r.toNat).toNat (data x) nul eos := by
  rw [pushToken, xbarn_loader hc hl]
  refine ⟨fun hr hb hi hd => ⟨_, pushed s id x q.toNat _, congrArg _ (pushing_fits hr hb hi hd), rfl, rfl, rfl, rfl, rfl, rfl, rfl,
      rfl, rfl⟩, fun hf => congrArg _ (pushing_full hf), fun hr hb => congrArg _ (pushing_unbound hr hb),
    fun hr hb hi => congrArg _ (pushing_wide hr hb hi), fun hr hb hi hd => congrArg _ (pushing_deep hr hb hi hd)⟩

theorem pushToken_illegal {q : BitVec 4} {r : BitVec 5} {data : Core → Word} {nul eos : Bool} (hc : InCore s id x)
    (hl : id.storer = true) : pushToken s q r data nul eos = .next (s.coreIllegal id x.word) :=
  xbarn_notLoader hc hl

end

/-! Pops (R225). -/

section
variable {s : State} {id : CoreId} {x : Core} {q : BitVec 4} {rd : BitVec 5}

/-- What a core and the queues hold once a head has left its queue, XPOPM and `rd` are written, and the core goes on. -/
theorem popped_reads (hx : s.core? id = some x) (b n : Nat) (w v : Word) (r : Nat) :
    let t := ((s.popEdge b n).setPopm id w).coreWrites id r v
    t.core? id = some (((x.setCsr csrXpopm w).put r v).advance s.cyc) ∧ t.edge b true n = (s.edge b true n).tail ∧
      ∀ b' out n', (b', out, n') ≠ (b, true, n) → t.edge b' out n' = s.edge b' out n' := by
  have hpop : ((s.popEdge b n).setPopm id w).core? id = some (x.setCsr csrXpopm w) := core?_modCore hx fun _ => rfl
  exact ⟨core?_coreWrites hpop r v, edge_popEdge_self, fun _ _ _ h => edge_popEdge_ne h⟩

theorem xpop_takes {k : Tok} (hc : InCore s id x) (hs : id.storer = true) (hk : s.edgeHead id.barn q.toNat = some k) :
    exec (.xpop q rd) s = .next (((s.popEdge id.barn q.toNat).setPopm id k.popm).coreWrites id rd.toNat k.popped) := by
  show execXpop q rd s = _
  rw [execXpop, xbarn_storer hc hs, hk]

theorem xpopnb_takes {k : Tok} (hc : InCore s id x) (hs : id.storer = true) (hk : s.edgeHead id.barn q.toNat = some k) :
    exec (.xpopnb q rd) s = .next (((s.popEdge id.barn q.toNat).setPopm id (k.popm ||| 3)).coreWrites id rd.toNat k.popped) := by
  show execXpopnb q rd s = _
  rw [execXpopnb, xbarn_storer hc hs, hk]

theorem xpop_waits (hc : InCore s id x) (hs : id.storer = true) (hk : s.edgeHead id.barn q.toNat = none) :
    exec (.xpop q rd) s = .next { s with held := true } := by
  show execXpop q rd s = _
  rw [execXpop, xbarn_storer hc hs, hk]

theorem xpopnb_empty (hc : InCore s id x) (hs : id.storer = true) (hk : s.edgeHead id.barn q.toNat = none) :
    exec (.xpopnb q rd) s = .next ((s.setPopm id 0).coreWrites id rd.toNat 0) := by
  show execXpopnb q rd s = _
  rw [execXpopnb, xbarn_storer hc hs, hk]

theorem xqcnt_counts (hc : InCore s id x) : exec (.xqcnt q rd) s =
    .next (s.coreWrites id rd.toNat (BitVec.ofNat 32 ((s.edge id.barn id.storer q.toNat).filter fun e => e.tok.isSome).length)) := by
  show execXqcnt q rd s = _
  rw [execXqcnt, xbarn_any hc]

end

end Sys2Proof.Laws

namespace Sys2Proof.Proofs

open Sys2Proof Sys2Proof.Machine Sys2Proof.Claims Sys2Proof.Laws

theorem corePushes : Claims.CorePushes := by
  intro s id x q r1 r2 hc i
  refine ⟨fun hl => ⟨pushToken_pushes hc hl, pushToken_pushes hc hl, pushToken_pushes hc hl⟩, fun hs j hj => ?_⟩
  simp only [List.mem_cons, List.not_mem_nil, or_false] at hj
  rcases hj with rfl | rfl | rfl <;> exact pushToken_illegal hc hs

theorem corePops : Claims.CorePops := by
  intro s id x q rd hc l took
  have htook (k : Tok) (e : EqTok) (r : List EqTok) (mask : Word) (hl : l = e :: r) :
      took (.next (((s.popEdge id.barn q.toNat).setPopm id (k.popm ||| mask)).coreWrites id rd.toNat k.popped)) k r mask := by
    obtain ⟨hcore, hself, hne⟩ := popped_reads hc.core id.barn q.toNat (k.popm ||| mask) k.popped rd.toNat
    exact ⟨_, _, rfl, hcore, hself.trans (congrArg List.tail hl), hne, rfl⟩
  refine ⟨fun e r k hs hl hk => ?_, fun hs hl => ?_, fun hs => ?_, fun hs j hj => ?_⟩
  · have hhead := edgeHead_cons hl hk
    refine ⟨?_, ?_⟩
    · rw [xpop_takes hc hs hhead, ← BitVec.or_zero (x := k.popm)]
      exact htook k e r 0 hl
    · rw [xpopnb_takes hc hs hhead]
      exact htook k e r 3 hl
  · have hhead := edgeHead_nil hl
    refine ⟨xpop_waits hc hs hhead, _, xpopnb_empty hc hs hhead, ?_⟩
    exact core?_coreWrites (core?_modCore (g := fun y => y.setCsr csrXpopm 0) hc.core fun _ => rfl) rd.toNat 0
  · rw [xqcnt_counts hc, hs]
    rfl
  · simp only [List.mem_cons, List.not_mem_nil, or_false] at hj
    rcases hj with rfl | rfl
    · exact show execXpop q rd s = _ from xbarn_notStorer hc hs
    · exact show execXpopnb q rd s = _ from xbarn_notStorer hc hs

/-- Settles O26: a push makes its checks in their order and then adds one position; a pop takes the head of its queue. -/
theorem coreQueues : Obligations.CoreQueues := ⟨corePushes, corePops⟩

end Sys2Proof.Proofs
end

section
/-! PROOF. Loads and stores of a core (R226): the address with its traps, counted accesses, and XLW, XSW, XLQ and XQST. -/

namespace Sys2Proof.Laws

open Sys2Proof Sys2Proof.Machine Sys2Proof.Claims

/-! The address of a core instruction (R152, R226). -/

section
variable {s : State} {id : CoreId} {x : Core} {bsel : BitVec 4} {disp : Int} {r : BitVec 5} {kind : AccKind} {size align : Nat}
  {act : Nat → State}

theorem wrapNat_address : wrapNat ((s.kbase x.k x.v bsel.toNat : Int) + ((x.get r.toNat).toNat : Int) + disp) 64 =
    coreVa s x bsel disp r := by
  simp only [wrapNat, coreVa]
  norm_num

/-- An address that is no PAGE and no PERM is held against its alignment. -/
theorem coreVa_allowed (hk : kind.code ≠ 2) (h : AllowedFor s x.k false (coreVa s x bsel disp r)) :
    s.coreVa id x bsel disp r kind size align act =
      if coreVa s x bsel disp r % align ≠ 0 then s.coreTrapAt id { code := tcAlign, aux0 := coreVa s x bsel disp r, aux1 := size }
      else act (coreVa s x bsel disp r) := by
  unfold AllowedFor at h
  simp only [State.coreVa, wrapNat_address]
  cases hw : windowOf (coreVa s x bsel disp r) with
  | bad => rw [hw] at h; exact h.elim
  | paged => rfl
  | scratch sa => rw [hw] at h; exact if_pos h
  | weight b o =>
    rw [hw] at h
    obtain ⟨hplace, -⟩ := h
    simp only [Option.isNone_eq_false_iff.2 hplace, hk, Bool.false_eq_true, if_false]

theorem coreVa_aligned (hk : kind.code ≠ 2) (h : AllowedFor s x.k false (coreVa s x bsel disp r))
    (ha : coreVa s x bsel disp r % align = 0) :
    s.coreVa id x bsel disp r kind size align act = act (coreVa s x bsel disp r) := by
  rw [coreVa_allowed hk h, if_neg (not_not.2 ha)]

theorem coreVa_misaligned (hk : kind.code ≠ 2) (h : AllowedFor s x.k false (coreVa s x bsel disp r))
    (ha : coreVa s x bsel disp r % align ≠ 0) : s.coreVa id x bsel disp r kind size align act =
      s.coreTrapAt id { code := tcAlign, aux0 := coreVa s x bsel disp r, aux1 := size } := by
  rw [coreVa_allowed hk h, if_pos ha]

theorem coreVa_noncanonical (h : 2 ^ 60 ≤ coreVa s x bsel disp r) : s.coreVa id x bsel disp r kind size align act =
    s.coreTrapAt id (s.pageCause x.k 2 (coreVa s x bsel disp r) kind.code size) := by
  simp only [State.coreVa, wrapNat_address, show windowOf (coreVa s x bsel disp r) = .bad from if_pos h]

end

/-! Accesses of a core. -/

section
variable {s : State} {id : CoreId} {x : Core} {bsel : BitVec 4} {disp : BitVec 8} {r1 r2 rd : BitVec 5} {q : BitVec 4}

/-- A counted access is named by the queue position that it fills, if any. -/
theorem coreCount_eq {g : Core → Core} (hx : s.core? id = some x) (a : Access) (eq : Option Nat) (n : Nat) :
    s.coreCount id a eq n g = coreCounts s id { a with origin := .coreCount id x.pc.toNat eq n } g := by
  simp only [State.coreCount, hx]
  rfl

section
variable (hc : InCore s id x)
include hc

theorem exec_xlw : exec (.xlw bsel disp r1 rd) s = .next (s.coreVa id x bsel disp.toInt r1 .read 4 4 fun va =>
    s.coreIssue id { x.access rd.toNat .read .pkg with pieces := word4 va 0 }) :=
  show execXlw bsel disp r1 rd s = _ from xbarn_any hc

theorem exec_xsw : exec (.xsw bsel disp r2 r1) s = .next (s.coreVa id x bsel disp.toInt r1 .write 4 4 fun va =>
    if 63 ≤ x.st then { s with held := true }
    else s.coreCount id { x.access 0 .write .pkg with pieces := word4 va (x.get r2.toNat).toNat } none 0
      fun y => { y with st := y.st + 1 }) :=
  show execXsw bsel disp r2 r1 s = _ from xbarn_any hc

theorem exec_xlq (hl : id.storer = false) : exec (.xlq bsel r2 r1 q) s = .next (s.coreVa id x bsel 0 r1 .read 4 4 fun va =>
    if 63 ≤ x.ld then { s with held := true }
    else s.pushing id x q.toNat (x.get r2.toNat).toNat fun b t d =>
      (s.addEdge id x q.toNat b none).coreCount id { x.access 0 .read .pkg with tag := t, dep := d, pieces := word4 va 0 }
        (some q.toNat) s.fresh fun y => { y with ld := y.ld + 1 }) :=
  show execXlq bsel r2 r1 q s = _ from xbarn_loader hc hl

end

/-- XLQ within its limits reserves a position of its queue and issues the load that fills it. -/
theorem xlq_reserves (hc : InCore s id x) (hl : id.storer = false) (hva : AllowedFor s x.k false (coreVa s x bsel 0 r1))
    (ha : coreVa s x bsel 0 r1 % 4 = 0) (hld : x.ld < 63) (hroom : (s.edge id.barn false q.toNat).length < 64)
    (hb : (x.binding q.toNat).kind ≠ 0) (hi : (x.get r2.toNat).toNat < 2 ^ (x.binding q.toNat).sw)
    (hd : x.dep + (x.binding q.toNat).sw ≤ 44) :
    exec (.xlq bsel r2 r1 q) s = .next (coreCounts (s.addEdge id x q.toNat (x.binding q.toNat) none) id
      { x.access 0 .read .pkg with
        origin := .coreCount id x.pc.toNat (some q.toNat) s.fresh,
        tag := withNest x.tag (tagNest x.tag * 2 ^ (x.binding q.toNat).sw + (x.get r2.toNat).toNat),
        dep := x.dep + (x.binding q.toNat).sw, pieces := word4 (coreVa s x bsel 0 r1) 0 } fun y => { y with ld := y.ld + 1 }) := by
  have hcore : (s.addEdge id x q.toNat (x.binding q.toNat) none).core? id = some x := hc.core
  rw [exec_xlq hc hl, coreVa_aligned (by decide) hva ha, if_neg (Nat.not_le.2 hld), pushing_fits (Nat.not_le.2 hroom) hb hi hd]
  exact congrArg _ (coreCount_eq hcore _ _ _)

/-- XQST below its limit pops a token, and stores it where it is a data token. -/
theorem xqst_pops {k : Tok} (hc : InCore s id x) (hs : id.storer = true) (hva : AllowedFor s x.k false (coreVa s x bsel 0 r1))
    (ha : coreVa s x bsel 0 r1 % 4 = 0) (hst : x.st < 63) (hk : s.edgeHead id.barn q.toNat = some k) :
    let v := (s.popEdge id.barn q.toNat).setPopm id k.popm
    exec (.xqst bsel q r1) s = .next (if k.nul || k.eos then v.coreGoes id else coreCounts v id
      { x.access 0 .write .pkg with
        origin := .coreCount id x.pc.toNat none 0, poi := k.poi, pieces := word4 (coreVa s x bsel 0 r1) k.data.toNat }
      fun y => { y with st := y.st + 1 }) := by
  intro v
  have hcore : v.core? id = some (x.setCsr csrXpopm k.popm) := core?_modCore hc.core fun _ => rfl
  show execXqst bsel q r1 s = _
  rw [execXqst, xbarn_storer hc hs, coreVa_aligned (by decide) hva ha, hk]
  simp only [Nat.not_le.2 hst, if_false]
  rw [coreCount_eq (s := v) hcore]
  rfl

theorem xqst_waits (hc : InCore s id x) (hs : id.storer = true) (hva : AllowedFor s x.k false (coreVa s x bsel 0 r1))
    (ha : coreVa s x bsel 0 r1 % 4 = 0) (hk : s.edgeHead id.barn q.toNat = none) :
    exec (.xqst bsel q r1) s = .next { s with held := true } := by
  show execXqst bsel q r1 s = _
  rw [execXqst, xbarn_storer hc hs, coreVa_aligned (by decide) hva ha, hk]

end

end Sys2Proof.Laws

namespace Sys2Proof.Proofs

open Sys2Proof Sys2Proof.Machine Sys2Proof.Claims Sys2Proof.Laws

/-- Settles O27: an address that passes its checks issues the one access of its instruction, at the limit nothing happens, and the
other addresses trap. -/
theorem coreMemory : Obligations.CoreMemory := by
  intro s id x bsel disp r1 r2 rd q hc va vq word store up l b i
  refine ⟨fun hva ha => ⟨?_, fun hst => ?_, fun hst => ?_⟩, fun hva ha j hj => ?_, fun hva => ?_,
    fun hl hva ha hld hroom hb hi hd => ?_, fun e r k hs hva ha hst hl hk => ?_, fun hs hva ha hl => ?_⟩
  · rw [exec_xlw hc, coreVa_aligned (by decide) hva ha]
    rfl
  · rw [exec_xsw hc, coreVa_aligned (by decide) hva ha, if_neg (Nat.not_le.2 hst), coreCount_eq hc.core]
    rfl
  · rw [exec_xsw hc, coreVa_aligned (by decide) hva ha, if_pos hst]
  · simp only [List.mem_cons, List.not_mem_nil, or_false] at hj
    rcases hj with rfl | rfl
    · rw [exec_xlw hc, coreVa_misaligned (by decide) hva ha]
    · rw [exec_xsw hc, coreVa_misaligned (by decide) hva ha]
  · rw [exec_xlw hc, coreVa_noncanonical hva]
    rfl
  · exact ⟨_, pushed s id x q.toNat none, _, rfl, rfl, rfl, rfl, rfl, rfl, rfl, rfl, rfl, rfl, rfl, rfl,
      xlq_reserves hc hl hva ha hld hroom hb hi hd⟩
  · refine ⟨(s.popEdge id.barn q.toNat).setPopm id k.popm, ?_, core?_modCore hc.core fun _ => rfl, rfl, rfl, rfl,
      xqst_pops hc hs hva ha hst (edgeHead_cons hl hk)⟩
    exact edge_popEdge_self.trans (congrArg List.tail hl)
  · exact xqst_waits hc hs hva ha (edgeHead_nil hl)

end Sys2Proof.Proofs
end

section
/-! SUPPORT. CSRs of a core, how it goes on at RPT, and the words of the base instructions by their fields (R216, R231; the encodings
are those of the published RISC-V specifications, PRESUMED, log 50). -/

namespace Sys2Proof.Laws

open Sys2Proof Sys2Proof.Machine Sys2Proof.Claims

/-! CSRs. -/

section
variable (c : Core) (v : Word) (cyc : Nat)

@[simp] theorem csr_setCsr_self (n : Nat) : (c.setCsr n v).csr n = v := by
  have hnone : (c.csrs.filter fun p => decide (p.1 ≠ n)).find? (fun p => decide (p.1 = n)) = none :=
    List.find?_eq_none.2 fun p hp => by simpa using (List.mem_filter.1 hp).2
  simp only [Core.csr, Core.setCsr, List.find?_append, hnone]
  simp

theorem csr_setCsr_ne {m n : Nat} (h : m ≠ n) : (c.setCsr n v).csr m = c.csr m := by
  have hfilter : (c.csrs.filter fun p => decide (p.1 ≠ n)).find? (fun p => decide (p.1 = m)) =
      c.csrs.find? fun p => decide (p.1 = m) := by
    rw [List.find?_filter]
    congr 1
    funext p
    by_cases hp : p.1 = m <;> simp [hp, h]
  simp only [Core.csr, Core.setCsr, List.find?_append, hfilter]
  simp [Ne.symm h]

theorem csr_congr {c d : Core} (h : c.csrs = d.csrs) (n : Nat) : c.csr n = d.csr n := by rw [Core.csr, Core.csr, h]

theorem retired_csrs : (c.retired cyc).csrs = (c.setCount64 0xB02 (c.count64 0xB02 + 1)).csrs := by
  unfold Core.retired
  with_reducible rfl

/-- A retired instruction changes minstret alone of the CSRs. -/
theorem csr_retired {n : Nat} (hl : n ≠ 0xB02) (hh : n ≠ 0xB02 + 0x80) : (c.retired cyc).csr n = c.csr n := by
  rw [csr_congr (retired_csrs c cyc), Core.setCount64, csr_setCsr_ne _ _ hh, csr_setCsr_ne _ _ hl]

theorem done_retired : (c.retired cyc).done = c.done := by
  simp only [Core.done, csr_retired c cyc (n := csrXrpt) (by decide) (by decide)]

/-- XRPT.DONE as written (R231). -/
theorem done_setCsr {n : Nat} (h : n < 2 ^ 7) : (c.setCsr csrXrpt (BitVec.ofNat 32 n)).done = n := by
  simp only [Core.done, csr_setCsr_self, bitsAt_eq, BitVec.toNat_ofNat]
  omega

end

/-! How a core goes on (R231). -/

section
variable {c : Core} {cyc : Nat}

theorem advance_rpt (h : isRpt (c.wordAt c.pc.toNat) = true) : c.advance cyc =
    if bitsAt (c.wordAt c.pc.toNat) 20 6 + 2 ≤ c.done + 1 then { (c.retired cyc).setCsr csrXrpt 0 with pc := c.pc + 8 }
    else (c.retired cyc).setCsr csrXrpt (BitVec.ofNat 32 (c.done + 1)) := by
  simp only [Core.advance, h, if_true, done_retired]
  rfl

end

/-! Fields of a 32-bit word. -/

section
variable {f7 r2 r1 f3 rd op : Nat}

/-- The six fields of the R format cut every word; what each holds. -/
theorem encR_fields (h7 : f7 < 128) (hr2 : r2 < 32) (hr1 : r1 < 32) (h3 : f3 < 8) (hrd : rd < 32) (hop : op < 128) :
    let w := encR f7 r2 r1 f3 rd op
    w < 2 ^ 32 ∧ bitsAt w 0 7 = op ∧ bitsAt w 7 5 = rd ∧ bitsAt w 12 3 = f3 ∧ bitsAt w 15 5 = r1 ∧ bitsAt w 20 5 = r2 ∧
      bitsAt w 25 7 = f7 ∧ bitsAt w 20 12 = f7 * 32 + r2 := by
  simp only [bitsAt_eq, encR]
  omega

/-- The I format holds its immediate in the places of funct7 and rs2. -/
theorem encI_eq_encR {imm : Nat} (h : imm < 4096) : encI imm r1 f3 rd op = encR (imm / 32) (imm % 32) r1 f3 rd op := by
  simp only [encI, encR]
  omega

/-- The S format holds it in the places of funct7 and rd. -/
theorem encS_eq_encR {imm : Nat} (h : imm < 4096) : encS imm r2 r1 f3 = encR (imm / 32) r2 r1 f3 (imm % 32) 0x23 := by
  simp only [encS, encR, bitsAt_eq]
  omega

/-- So does the B format, with bit 11 in the place of bit 0. -/
theorem encB_eq_encR {imm : Nat} (h : imm < 4096) :
    encB imm r2 r1 f3 = encR (imm / 32 % 64) r2 r1 f3 (imm / 2 % 16 * 2 + imm / 2048) 0x63 := by
  simp only [encB, encR, bitsAt_eq]
  omega

end

/-- A 12-bit immediate extended by its sign. -/
theorem ofNat_sx {imm : Nat} (h : imm < 4096) : BitVec.ofNat 32 (sx imm 12) = (BitVec.ofNat 12 imm).signExtend 32 := by
  have himm : (BitVec.ofNat 12 imm).toNat = imm := Nat.mod_eq_of_lt h
  rw [sx, ofNat_wrapNat, ← himm, signedOf_toNat, himm]
  rfl

end Sys2Proof.Laws
end

section
/-! PROOF. The base instructions of a core by their encodings (R216, R217; PRESUMED, log 50): what each word does, and what the state
is after it. -/

namespace Sys2Proof.Laws

open Sys2Proof Sys2Proof.Machine Sys2Proof.Claims

/-! Fields of the I, S and B formats. -/

section
variable {r2 r1 f3 rd imm : Nat} (hi : imm < 4096) (hr1 : r1 < 32)
include hi hr1

theorem encI_fields {op : Nat} (h3 : f3 < 8) (hrd : rd < 32) (hop : op < 128) :
    let w := encI imm r1 f3 rd op
    w < 2 ^ 32 ∧ bitsAt w 0 7 = op ∧ bitsAt w 7 5 = rd ∧ bitsAt w 12 3 = f3 ∧ bitsAt w 15 5 = r1 ∧
      BitVec.ofNat 32 (sx (bitsAt w 20 12) 12) = (BitVec.ofNat 12 imm).signExtend 32 := by
  intro w
  obtain ⟨hw, e0, e1, e2, e3, -, -, e6⟩ := encR_fields (f7 := imm / 32) (r2 := imm % 32) (by omega) (by omega) hr1 h3 hrd hop
  rw [← encI_eq_encR hi] at hw e0 e1 e2 e3 e6
  exact ⟨hw, e0, e1, e2, e3, by rw [e6, Nat.div_add_mod' imm 32, ofNat_sx hi]⟩

variable (hr2 : r2 < 32) (h3 : f3 < 8)
include hr2 h3

theorem encS_fields :
    let w := encS imm r2 r1 f3
    w < 2 ^ 32 ∧ bitsAt w 0 7 = 0x23 ∧ bitsAt w 12 3 = f3 ∧ bitsAt w 15 5 = r1 ∧ bitsAt w 20 5 = r2 ∧
      BitVec.ofNat 32 (sx (bitsAt w 25 7 * 32 + bitsAt w 7 5) 12) = (BitVec.ofNat 12 imm).signExtend 32 := by
  intro w
  obtain ⟨hw, e0, e1, e2, e3, e4, e5, -⟩ :=
    encR_fields (f7 := imm / 32) (rd := imm % 32) (op := 0x23) (by omega) hr2 hr1 h3 (by omega) (by decide)
  rw [← encS_eq_encR hi] at hw e0 e1 e2 e3 e4 e5
  exact ⟨hw, e0, e2, e3, e4, by rw [e5, e1, Nat.div_add_mod' imm 32, ofNat_sx hi]⟩

theorem encB_fields :
    let w := encB imm r2 r1 f3
    w < 2 ^ 32 ∧ bitsAt w 0 7 = 0x63 ∧ bitsAt w 12 3 = f3 ∧ bitsAt w 15 5 = r1 ∧ bitsAt w 20 5 = r2 ∧
      bitsAt w 31 1 * 2 ^ 12 + bitsAt w 7 1 * 2 ^ 11 + bitsAt w 25 6 * 32 + bitsAt w 8 4 * 2 = imm / 2 * 2 := by
  intro w
  obtain ⟨hw, e0, e1, e2, e3, e4, e5, -⟩ := encR_fields (f7 := imm / 32 % 64) (rd := imm / 2 % 16 * 2 + imm / 2048) (op := 0x63)
    (by omega) hr2 hr1 h3 (by omega) (by decide)
  rw [← encB_eq_encR hi] at hw e0 e1 e2 e3 e4 e5
  have hsplit : bitsAt w 31 1 = bitsAt w 25 7 / 64 ∧ bitsAt w 7 1 = bitsAt w 7 5 % 2 ∧ bitsAt w 25 6 = bitsAt w 25 7 % 64 ∧
      bitsAt w 8 4 = bitsAt w 7 5 / 2 := by
    simp only [bitsAt_eq]
    omega
  obtain ⟨b12, b11, b5, b1⟩ := hsplit
  have hlow : (imm / 2 % 16 * 2 + imm / 2048) % 2 = imm / 2048 ∧ (imm / 2 % 16 * 2 + imm / 2048) / 2 = imm / 2 % 16 := by omega
  refine ⟨hw, e0, e2, e3, e4, ?_⟩
  rw [b12, b11, b5, b1, e1, e5, hlow.1, hlow.2, Nat.mod_mod, Nat.div_eq_of_lt (Nat.mod_lt _ (by decide))]
  omega

end

/-- A word loaded is sign-extended from 32 bits to 32 bits. -/
theorem ofNat_sx_word (v : Nat) : BitVec.ofNat 32 (sx v 32) = BitVec.ofNat 32 v := by
  rw [sx, ofNat_wrapNat]
  apply BitVec.eq_of_toNat_eq
  rw [BitVec.toNat_ofInt, BitVec.toNat_ofNat, signedOf]
  split <;> omega

/-- A forward offset of a branch needs no sign. -/
theorem sx_forward {n : Nat} (h : n < 4096) : sx n 13 = n := by
  simp only [sx, wrapNat, signedOf]
  split <;> omega

/-! What a word does to its core. -/

section
variable {c : Core} {cyc lb w raw : Nat} {at_ nxt : Word}

theorem base_reg (h0 : bitsAt w 0 7 = 0x33) : c.base cyc lb w raw at_ nxt =
    if bitsAt w 25 7 = 1 then c.wrote cyc (bitsAt w 7 5) (mulOp (bitsAt w 12 3) (c.get (bitsAt w 15 5)) (c.get (bitsAt w 20 5)))
    else if bitsAt w 25 7 = 0 || (bitsAt w 25 7 = 0x20 && (bitsAt w 12 3 = 0 || bitsAt w 12 3 = 5)) then
      c.wrote cyc (bitsAt w 7 5) (aluOp (bitsAt w 12 3) (bitsAt w 25 7 = 0x20) (c.get (bitsAt w 15 5)) (c.get (bitsAt w 20 5)))
    else .exc 2 raw := by
  simp only [Core.base, h0]

theorem base_imm {f3 : Nat} (h0 : bitsAt w 0 7 = 0x13) (h3 : bitsAt w 12 3 = f3) (hshift : f3 ≠ 1 ∧ f3 ≠ 5) :
    c.base cyc lb w raw at_ nxt =
      c.wrote cyc (bitsAt w 7 5) (aluOp f3 false (c.get (bitsAt w 15 5)) (BitVec.ofNat 32 (sx (bitsAt w 20 12) 12))) := by
  simp only [Core.base, h0, h3, hshift, if_false]

theorem base_jalr (h0 : bitsAt w 0 7 = 0x67) (h3 : bitsAt w 12 3 = 0) : c.base cyc lb w raw at_ nxt =
    c.jump cyc (bitsAt w 7 5) nxt ((c.get (bitsAt w 15 5) + BitVec.ofNat 32 (sx (bitsAt w 20 12) 12)) &&& 0xFFFFFFFE) := by
  simp only [Core.base, h0, h3, if_true]

section
variable {a : Nat} (h0 : bitsAt w 0 7 = 0x03) (h3 : bitsAt w 12 3 = 2)
  (ha : (c.get (bitsAt w 15 5) + BitVec.ofNat 32 (sx (bitsAt w 20 12) 12)).toNat = a)
include h0 h3 ha

theorem base_lw_misaligned (h : a % 4 ≠ 0) : c.base cyc lb w raw at_ nxt = .exc 4 a := by
  simp only [Core.base, h0, h3, ha, loadForm]
  rw [if_pos h]

theorem base_lw_loads {v : Nat} (h : a % 4 = 0) (hv : c.load a 4 = some v) :
    c.base cyc lb w raw at_ nxt = c.wrote cyc (bitsAt w 7 5) (BitVec.ofNat 32 v) := by
  simp only [Core.base, h0, h3, ha, loadForm, hv, if_true]
  rw [if_neg (not_not.2 h), ofNat_sx_word]

theorem base_lw_outside (h : a % 4 = 0) (hv : c.load a 4 = none) : c.base cyc lb w raw at_ nxt = .exc 5 a := by
  simp only [Core.base, h0, h3, ha, loadForm, hv]
  rw [if_neg (not_not.2 h)]

end

section
variable {a : Nat} (h0 : bitsAt w 0 7 = 0x23) (h3 : bitsAt w 12 3 = 2)
  (ha : (c.get (bitsAt w 15 5) + BitVec.ofNat 32 (sx (bitsAt w 25 7 * 32 + bitsAt w 7 5) 12)).toNat = a)
include h0 h3 ha

theorem base_sw_misaligned (h : a % 4 ≠ 0) : c.base cyc lb w raw at_ nxt = .exc 6 a := by
  simp only [Core.base, h0, h3, ha, lt_irrefl, if_false, Nat.reducePow]
  rw [if_pos h]

theorem base_sw_stores {d : Core} (h : a % 4 = 0) (hd : c.store a 4 (c.get (bitsAt w 20 5)).toNat = some d) :
    c.base cyc lb w raw at_ nxt = .next (d.advance cyc) := by
  simp only [Core.base, h0, h3, ha, lt_irrefl, if_false, Nat.reducePow, hd]
  rw [if_neg (not_not.2 h)]

theorem base_sw_outside (h : a % 4 = 0) (hd : c.store a 4 (c.get (bitsAt w 20 5)).toNat = none) :
    c.base cyc lb w raw at_ nxt = .exc 7 a := by
  simp only [Core.base, h0, h3, ha, lt_irrefl, if_false, Nat.reducePow, hd]
  rw [if_neg (not_not.2 h)]

end

section
variable (h0 : bitsAt w 0 7 = 0x63) (h3 : bitsAt w 12 3 = 0)
include h0 h3

theorem base_beq_taken {n : Nat} (he : c.get (bitsAt w 15 5) = c.get (bitsAt w 20 5))
    (hn : bitsAt w 31 1 * 2 ^ 12 + bitsAt w 7 1 * 2 ^ 11 + bitsAt w 25 6 * 32 + bitsAt w 8 4 * 2 = n) :
    c.base cyc lb w raw at_ nxt = c.jump cyc 0 0 (at_ + BitVec.ofNat 32 (sx n 13)) := by
  simp only [Core.base, h0, h3, hn, branchTaken, he, decide_true]

theorem base_beq_passes (he : c.get (bitsAt w 15 5) ≠ c.get (bitsAt w 20 5)) :
    c.base cyc lb w raw at_ nxt = .next (c.advance cyc) := by
  simp only [Core.base, h0, h3, branchTaken, he, decide_false]

end

/-- WFI is a no-operation. -/
theorem base_wfi : c.base cyc lb 0x10500073 raw at_ nxt = .next (c.advance cyc) := by
  simp only [Core.base, show bitsAt 0x10500073 0 7 = 0x73 by decide, show bitsAt 0x10500073 12 3 = 0 by decide]
  rfl

end

/-! What the state is after a base instruction. -/

/-- The state that a base instruction of a core leaves. -/
def baseDone (s : State) (id : CoreId) : BaseDone → State
  | .next c => s.modCore id fun _ => c
  | .exc cause val => s.coreExc id cause val

section
variable {s : State} {id : CoreId} {x : Core}

/-- A 32-bit base instruction that ends within the instruction store does what its word says. -/
theorem exec_base {w : Nat} (hc : InCore s id x) (hw : w < 2 ^ 32)
    (hpc : x.pc.toNat + coreLen (x.wordAt x.pc.toNat) ≤ 0x10000) :
    let a := if isRpt (x.wordAt x.pc.toNat) then x.pc + 4 else x.pc
    exec (.baseInstruction (BitVec.ofNat 32 w) false) s =
      .next (baseDone s id (x.base s.cyc (s.logicalBarn x.k id.barn) w w a (a + 4))) := by
  intro a
  have hrun : x.runBase s.cyc (s.logicalBarn x.k id.barn) w false = x.base s.cyc (s.logicalBarn x.k id.barn) w w a (a + 4) := by
    simp only [Core.runBase, Nat.not_lt.2 hpc, if_false, Bool.false_eq_true]
    rfl
  show execBaseInstruction _ false s = _
  rw [execBaseInstruction, onCore_runs hc, BitVec.toNat_ofNat, Nat.mod_eq_of_lt hw, hrun]
  cases x.base s.cyc (s.logicalBarn x.k id.barn) w w a (a + 4) <;> rfl

theorem baseDone_wrote (hx : s.core? id = some x) (rd : Nat) (v : Word) :
    baseDone s id (x.wrote s.cyc rd v) = s.coreWrites id rd v := modCore_congr hx rfl

theorem baseDone_goes (hx : s.core? id = some x) : baseDone s id (.next (x.advance s.cyc)) = s.coreGoes id := modCore_congr hx rfl

theorem baseDone_jump (hx : s.core? id = some x) (rd : Nat) (link target : Word) :
    ∃ y : Core, (baseDone s id (x.jump s.cyc rd link target)).core? id = some y ∧ y.pc = target ∧ y.x = (x.put rd link).x := by
  refine ⟨{ (x.put rd link).retired s.cyc with pc := target }, ?_, rfl, rfl⟩
  have hmod : baseDone s id (x.jump s.cyc rd link target) =
      s.modCore id fun y => { (y.put rd link).retired s.cyc with pc := target } := modCore_congr hx rfl
  rw [hmod]
  exact core?_modCore hx fun y => core_put_id y rd link

end

end Sys2Proof.Laws
end

section
/-! PROOF. Base instructions of a core that stands at no RPT (R216, R217): what each leaves. -/

namespace Sys2Proof.Laws

open Sys2Proof Sys2Proof.Machine Sys2Proof.Claims

/-! The memories of a core (R217). -/

section
variable {c : Core} {a v : Nat}

theorem load_data (hlo : 0x10000 ≤ a) (hhi : a + 4 ≤ 0x18000) : c.load a 4 = some (getNat c.dmem a 4) := by
  rw [Core.load, if_neg (by omega), if_pos (by simp only [Bool.and_eq_true, decide_eq_true_eq]; omega)]

theorem load_beyond (h : 0x18000 ≤ a) : c.load a 4 = none := by
  rw [Core.load, if_neg (by omega), if_neg (by simp only [Bool.and_eq_true, decide_eq_true_eq]; omega)]

theorem store_data (hlo : 0x10000 ≤ a) (hhi : a + 4 ≤ 0x18000) : c.store a 4 v = some { c with dmem := putNat c.dmem a 4 v } := by
  rw [Core.store, if_pos (by simp only [Bool.and_eq_true, decide_eq_true_eq]; omega)]

theorem store_below (h : a < 0x10000) : c.store a 4 v = none := by
  rw [Core.store, if_neg (by simp only [Bool.and_eq_true, decide_eq_true_eq]; omega)]

/-- A core with the registers that a write left reads what was written. -/
theorem get_of_put_regs {r : Nat} (hr : r ≠ 0) (hlen : r < c.x.length) (w : Word) {d : Core} (hd : d.x = (c.put r w).x) : d.get r = w := by
  have hput : ∀ (l : List Word) (n : Nat), n < l.length → ((putAt l n w).drop n).headD 0 = w := by
    intro l
    induction l with
    | nil => intro n h; cases h
    | cons y t ih =>
      intro n h
      cases n with
      | zero => rfl
      | succ n => exact ih n (by simpa using h)
  rw [Core.get, if_neg hr, hd, Core.put, if_neg hr]
  exact hput c.x r hlen

end

/-! Base instructions of a core that stands at no RPT. -/

/-- A core in focus whose program counter stands at a 32-bit instruction of its store that is no RPT. -/
structure AtWord (s : State) (id : CoreId) (x : Core) : Prop where
  core   : InCore s id x
  plain  : isRpt (x.wordAt x.pc.toNat) = false
  wide   : x.wordAt x.pc.toNat % 4 = 3
  inside : x.pc.toNat + 4 ≤ 0x10000

section
variable {s : State} {id : CoreId} {x : Core} (h : AtWord s id x)
include h

theorem exec_here {w : Nat} (hw : w < 2 ^ 32) : exec (.baseInstruction (BitVec.ofNat 32 w) false) s =
    .next (baseDone s id (x.base s.cyc (s.logicalBarn x.k id.barn) w w x.pc (x.pc + 4))) := by
  have hstep := exec_base h.core hw (by rw [coreLen, if_pos h.wide]; exact h.inside)
  simpa only [h.plain, Bool.false_eq_true, if_false] using hstep

/-- An instruction that writes a register and goes on. -/
theorem exec_writes {w rd : Nat} {v : Word} (hw : w < 2 ^ 32)
    (hb : x.base s.cyc (s.logicalBarn x.k id.barn) w w x.pc (x.pc + 4) = x.wrote s.cyc rd v) :
    exec (.baseInstruction (BitVec.ofNat 32 w) false) s = .next (s.coreWrites id rd v) := by
  rw [exec_here h hw, hb, baseDone_wrote h.core.core]

variable {r2 r1 f3 rd imm : Nat}

/-- OP with the M operations. -/
theorem exec_reg {f7 : Nat} {v : Word} (h7 : f7 < 128) (hr2 : r2 < 32) (hr1 : r1 < 32) (h3 : f3 < 8) (hrd : rd < 32)
    (hv : (f7 = 1 ∧ mulOp f3 (x.get r1) (x.get r2) = v) ∨
      ((f7 = 0 ∨ f7 = 0x20 ∧ (f3 = 0 ∨ f3 = 5)) ∧ aluOp f3 (f7 = 0x20) (x.get r1) (x.get r2) = v)) :
    exec (.baseInstruction (BitVec.ofNat 32 (encR f7 r2 r1 f3 rd 0x33)) false) s = .next (s.coreWrites id rd v) := by
  obtain ⟨hw, e0, e1, e2, e3, e4, e5, -⟩ := encR_fields h7 hr2 hr1 h3 hrd (op := 0x33) (by decide)
  refine exec_writes h hw ?_
  rw [base_reg e0, e1, e2, e3, e4, e5]
  rcases hv with ⟨hmul, rfl⟩ | ⟨halu, rfl⟩
  · rw [if_pos hmul]
  · rw [if_neg (by omega), if_pos (by simpa only [Bool.or_eq_true, Bool.and_eq_true, decide_eq_true_eq] using halu)]

variable (hi : imm < 4096) (hr1 : r1 < 32)
include hi hr1

/-- OP-IMM but its shifts. -/
theorem exec_imm {v : Word} (h3 : f3 < 8) (hrd : rd < 32) (hshift : f3 ≠ 1 ∧ f3 ≠ 5)
    (hv : aluOp f3 false (x.get r1) ((BitVec.ofNat 12 imm).signExtend 32) = v) :
    exec (.baseInstruction (BitVec.ofNat 32 (encI imm r1 f3 rd 0x13)) false) s = .next (s.coreWrites id rd v) := by
  obtain ⟨hw, e0, e1, e2, e3, e4⟩ := encI_fields hi hr1 h3 hrd (op := 0x13) (by decide)
  refine exec_writes h hw ?_
  rw [base_imm e0 e2 hshift, e1, e3, e4, hv]

theorem exec_jalr (hrd : rd < 32) : exec (.baseInstruction (BitVec.ofNat 32 (encI imm r1 0 rd 0x67)) false) s =
    .next (baseDone s id (x.jump s.cyc rd (x.pc + 4) ((x.get r1 + (BitVec.ofNat 12 imm).signExtend 32) &&& 0xFFFFFFFE))) := by
  obtain ⟨hw, e0, e1, e2, e3, e4⟩ := encI_fields hi hr1 (f3 := 0) (by decide) hrd (op := 0x67) (by decide)
  rw [exec_here h hw, base_jalr e0 e2, e1, e3, e4]

section
variable {p : Nat} (hp : (x.get r1 + (BitVec.ofNat 12 imm).signExtend 32).toNat = p)
include hp

section
variable (hrd : rd < 32)
include hrd

theorem exec_lw_loads (ha : p % 4 = 0) (hlo : 0x10000 ≤ p) (hhi : p + 4 ≤ 0x18000) :
    exec (.baseInstruction (BitVec.ofNat 32 (encI imm r1 2 rd 0x03)) false) s =
      .next (s.coreWrites id rd (BitVec.ofNat 32 (getNat x.dmem p 4))) := by
  obtain ⟨hw, e0, e1, e2, e3, e4⟩ := encI_fields hi hr1 (f3 := 2) (by decide) hrd (op := 0x03) (by decide)
  refine exec_writes h hw ?_
  rw [base_lw_loads e0 e2 (by rw [e3, e4]; exact hp) ha (load_data hlo hhi), e1]

theorem exec_lw_misaligned (ha : p % 4 ≠ 0) :
    exec (.baseInstruction (BitVec.ofNat 32 (encI imm r1 2 rd 0x03)) false) s = .next (s.coreExc id 4 p) := by
  obtain ⟨hw, e0, -, e2, e3, e4⟩ := encI_fields hi hr1 (f3 := 2) (by decide) hrd (op := 0x03) (by decide)
  rw [exec_here h hw, base_lw_misaligned e0 e2 (by rw [e3, e4]; exact hp) ha]
  rfl

theorem exec_lw_beyond (ha : p % 4 = 0) (hhi : 0x18000 ≤ p) :
    exec (.baseInstruction (BitVec.ofNat 32 (encI imm r1 2 rd 0x03)) false) s = .next (s.coreExc id 5 p) := by
  obtain ⟨hw, e0, -, e2, e3, e4⟩ := encI_fields hi hr1 (f3 := 2) (by decide) hrd (op := 0x03) (by decide)
  rw [exec_here h hw, base_lw_outside e0 e2 (by rw [e3, e4]; exact hp) ha (load_beyond hhi)]
  rfl

end

variable (hr2 : r2 < 32)
include hr2

theorem exec_sw_stores (ha : p % 4 = 0) (hlo : 0x10000 ≤ p) (hhi : p + 4 ≤ 0x18000) :
    exec (.baseInstruction (BitVec.ofNat 32 (encS imm r2 r1 2)) false) s =
      .next (s.modCore id fun y => ({ y with dmem := putNat y.dmem p 4 (x.get r2).toNat }).advance s.cyc) := by
  obtain ⟨hw, e0, e2, e3, e4, e5⟩ := encS_fields hi hr1 hr2 (f3 := 2) (by decide)
  rw [exec_here h hw, base_sw_stores e0 e2 (by rw [e3, e5]; exact hp) ha (store_data hlo hhi), e4]
  exact congrArg _ (modCore_congr h.core.core rfl)

theorem exec_sw_misaligned (ha : p % 4 ≠ 0) :
    exec (.baseInstruction (BitVec.ofNat 32 (encS imm r2 r1 2)) false) s = .next (s.coreExc id 6 p) := by
  obtain ⟨hw, e0, e2, e3, -, e5⟩ := encS_fields hi hr1 hr2 (f3 := 2) (by decide)
  rw [exec_here h hw, base_sw_misaligned e0 e2 (by rw [e3, e5]; exact hp) ha]
  rfl

theorem exec_sw_below (ha : p % 4 = 0) (hlo : p < 0x10000) :
    exec (.baseInstruction (BitVec.ofNat 32 (encS imm r2 r1 2)) false) s = .next (s.coreExc id 7 p) := by
  obtain ⟨hw, e0, e2, e3, -, e5⟩ := encS_fields hi hr1 hr2 (f3 := 2) (by decide)
  rw [exec_here h hw, base_sw_outside e0 e2 (by rw [e3, e5]; exact hp) ha (store_below hlo)]
  rfl

end

variable (hr2 : r2 < 32)
include hr2

theorem exec_beq_passes (hne : x.get r1 ≠ x.get r2) :
    exec (.baseInstruction (BitVec.ofNat 32 (encB imm r2 r1 0)) false) s = .next (s.coreGoes id) := by
  obtain ⟨hw, e0, e2, e3, e4, -⟩ := encB_fields hi hr1 hr2 (f3 := 0) (by decide)
  rw [exec_here h hw, base_beq_passes e0 e2 (by rw [e3, e4]; exact hne), baseDone_goes h.core.core]

theorem exec_beq_taken (he : x.get r1 = x.get r2) (heven : imm % 2 = 0) :
    exec (.baseInstruction (BitVec.ofNat 32 (encB imm r2 r1 0)) false) s =
      .next (baseDone s id (x.jump s.cyc 0 0 (x.pc + BitVec.ofNat 32 imm))) := by
  obtain ⟨hw, e0, e2, e3, e4, e5⟩ := encB_fields hi hr1 hr2 (f3 := 0) (by decide)
  have hoff : imm / 2 * 2 = imm := by omega
  rw [exec_here h hw, base_beq_taken e0 e2 (by rw [e3, e4]; exact he) (e5.trans hoff), sx_forward hi]

end

end Sys2Proof.Laws

namespace Sys2Proof.Proofs

open Sys2Proof Sys2Proof.Machine Sys2Proof.Claims Sys2Proof.Laws

/-- Settles O30: the fields of each word are those that it is encoded from, and what the word does with them is one branch of
`Core.base`. -/
theorem coreBaseInstructions : Obligations.CoreBaseInstructions := by
  intro s id x rd r1 r2 imm hc hrd hr1 hr2 hi hrpt hlen hpc run gives a b i
  have h : AtWord s id x := ⟨hc, hrpt, hlen, hpc⟩
  have hreg {f7 f3 : Nat} {v : Word} (h7 : f7 < 128) (h3 : f3 < 8) (hv) : gives (encR f7 r2 r1 f3 rd 0x33) v :=
    exec_reg h h7 hr2 hr1 h3 hrd hv
  refine ⟨hreg (by decide) (by decide) (.inr ⟨.inl rfl, rfl⟩), hreg (by decide) (by decide) (.inr ⟨.inr ⟨rfl, .inl rfl⟩, rfl⟩),
    hreg (by decide) (by decide) (.inr ⟨.inl rfl, rfl⟩), hreg (by decide) (by decide) (.inr ⟨.inl rfl, rfl⟩),
    hreg (by decide) (by decide) (.inl ⟨rfl, rfl⟩), hreg (by decide) (by decide) (.inl ⟨rfl, ?_⟩),
    exec_imm h hi hr1 (by decide) hrd (by decide) rfl, exec_imm h hi hr1 (by decide) hrd (by decide) rfl, ?_,
    exec_beq_passes h hi hr1 hr2, fun he heven => ?_, ?_, ?_⟩
  · rw [mulOp, BitVec.udiv_def]
  · exact ⟨fun hlo hhi ha => ⟨exec_lw_loads h hi hr1 rfl hrd ha hlo hhi, exec_sw_stores h hi hr1 rfl hr2 ha hlo hhi⟩,
      fun ha => ⟨exec_lw_misaligned h hi hr1 rfl hrd ha, exec_sw_misaligned h hi hr1 rfl hr2 ha⟩,
      fun hlo ha => exec_sw_below h hi hr1 rfl hr2 ha hlo, fun hhi ha => exec_lw_beyond h hi hr1 rfl hrd ha hhi⟩
  · obtain ⟨y, hy, htarget, hregs⟩ := baseDone_jump hc.core 0 0 (x.pc + BitVec.ofNat 32 imm)
    exact ⟨_, y, exec_beq_taken h hi hr1 hr2 he heven, hy, htarget, hregs⟩
  · obtain ⟨y, hy, htarget, hregs⟩ := baseDone_jump hc.core rd (x.pc + 4) ((a + i) &&& 0xFFFFFFFE)
    exact ⟨_, y, exec_jalr h hi hr1 hrd, hy, htarget, fun hne hlt => get_of_put_regs hne hlt _ hregs⟩
  · show exec (.baseInstruction (BitVec.ofNat 32 0x10500073) false) s = _
    rw [exec_here h (by decide), base_wfi, baseDone_goes hc.core]

end Sys2Proof.Proofs
end

section
/-! PROOF. RPT (R231), the end of a program and the breakpoint exception (R220, R234). -/

namespace Sys2Proof.Laws

open Sys2Proof Sys2Proof.Machine Sys2Proof.Claims

/-! RPT. -/

/-- Whether the stepped fields of an instruction stay registers over `n` further executions (R231). -/
def StepsFit (i n : Nat) (b2 b1 bd : Bool) : Prop :=
  (bd = true → i / 2 ^ 7 % 32 + n + 1 ≤ 31) ∧ (b1 = true → i / 2 ^ 15 % 32 + n + 1 ≤ 31) ∧ (b2 = true → i / 2 ^ 20 % 32 + n + 1 ≤ 31)

section
variable {s : State} {id : CoreId} {x : Core} {b2 b1 bd : Bool} {rep : BitVec 6} (hc : InCore s id x)
  (hpc : x.pc.toNat + 8 ≤ 0x10000) (hwide : x.wordAt (x.pc.toNat + 4) % 4 = 3)
include hc hpc hwide

/-- RPT before a whole 32-bit instruction: its checks, its end, and one execution. -/
theorem exec_rpt : exec (.rpt b2 b1 bd rep) s =
    if !repeats (x.wordAt (x.pc.toNat + 4)) ||
        (bd && decide (31 < bitsAt (x.wordAt (x.pc.toNat + 4)) 7 5 + (rep.toNat + 1))) ||
        (b1 && decide (31 < bitsAt (x.wordAt (x.pc.toNat + 4)) 15 5 + (rep.toNat + 1))) ||
        (b2 && decide (31 < bitsAt (x.wordAt (x.pc.toNat + 4)) 20 5 + (rep.toNat + 1))) then
      .next (s.coreIllegal id (x.wordAt x.pc.toNat))
    else if rep.toNat + 1 < x.done then
      .next (s.modCore id fun y => { y.setCsr csrXrpt 0 with pc := y.pc + 8, waiting := false, since := s.cyc })
    else runRepeated x.word s := by
  have hlen : coreLen (x.wordAt (x.pc.toNat + 4)) = 4 := if_pos hwide
  have hfocus : s.curCore.bind s.core? = some x := by rw [hc.focus]; exact hc.core
  show execRpt b2 b1 bd rep s = _
  simp only [execRpt, hfocus, hlen, hc.name, if_neg (show ¬0x10000 < x.pc.toNat + 4 + 4 by omega)]
  rfl

theorem rpt_illegal (h : ¬StepsFit (x.wordAt (x.pc.toNat + 4)) rep.toNat b2 b1 bd ∨ repeats (x.wordAt (x.pc.toNat + 4)) = false) :
    exec (.rpt b2 b1 bd rep) s = .next (s.coreIllegal id (x.wordAt x.pc.toNat)) := by
  rw [exec_rpt hc hpc hwide, if_pos]
  simp only [Bool.or_eq_true, Bool.and_eq_true, Bool.not_eq_true', decide_eq_true_eq, bitsAt_eq]
  rcases h with hfit | hrep
  · by_contra hn
    refine hfit ⟨fun hd => ?_, fun h1 => ?_, fun h2 => ?_⟩ <;> by_contra hlt <;> refine hn ?_
    · exact .inl (.inl (.inr ⟨hd, by omega⟩))
    · exact .inl (.inr ⟨h1, by omega⟩)
    · exact .inr ⟨h2, by omega⟩
  · exact .inl (.inl (.inl hrep))

variable (hfit : StepsFit (x.wordAt (x.pc.toNat + 4)) rep.toNat b2 b1 bd) (hrep : repeats (x.wordAt (x.pc.toNat + 4)) = true)
include hfit hrep

theorem rpt_legal : exec (.rpt b2 b1 bd rep) s =
    if rep.toNat + 1 < x.done then
      .next (s.modCore id fun y => { y.setCsr csrXrpt 0 with pc := y.pc + 8, waiting := false, since := s.cyc })
    else runRepeated x.word s := by
  obtain ⟨hd, h1, h2⟩ := hfit
  rw [exec_rpt hc hpc hwide, if_neg]
  simp only [Bool.or_eq_true, Bool.and_eq_true, Bool.not_eq_true', decide_eq_true_eq, bitsAt_eq, hrep, Bool.true_eq_false, false_or]
  rintro ((⟨hb, hlt⟩ | ⟨hb, hlt⟩) | ⟨hb, hlt⟩)
  · exact absurd (hd hb) (by omega)
  · exact absurd (h1 hb) (by omega)
  · exact absurd (h2 hb) (by omega)

/-- RPT executes the stepped word once. -/
theorem rpt_repeats (hdone : x.done ≤ rep.toNat + 1) : exec (.rpt b2 b1 bd rep) s = runRepeated x.word s := by
  rw [rpt_legal hc hpc hwide hfit hrep, if_neg (Nat.not_lt.2 hdone)]

end

/-- A word of another opcode than those of Xbarn and SYSTEM is one of the base. -/
theorem decodeCore32_base {w : Word} {op : BitVec 7} (h : w.extractLsb' 0 7 = op) (hne : op ≠ 11 ∧ op ≠ 43 ∧ op ≠ 115) :
    decodeCore32 w = .baseInstruction w false := by
  obtain ⟨h1, h2, h3⟩ := hne
  simp only [decodeCore32, h, h1, h2, h3, and_false, if_false]

theorem runRepeated_base {w : Nat} {c : Word} {t : Bool} (h : decodeCore32 (BitVec.ofNat 32 w) = .baseInstruction c t) (s : State) :
    runRepeated w s = exec (.baseInstruction (BitVec.ofNat 32 w) false) s := by
  simp only [runRepeated, h]
  rfl

/-- ADD as a repeated word. -/
theorem runRepeated_add {s : State} {id : CoreId} {x : Core} {rd r1 r2 : Nat} (hc : InCore s id x)
    (hpc : x.pc.toNat + 8 ≤ 0x10000) (hrd : rd < 32) (hr1 : r1 < 32) (hr2 : r2 < 32) :
    runRepeated (encR 0 r2 r1 0 rd 0x33) s = .next (s.coreWrites id rd (x.get r1 + x.get r2)) := by
  obtain ⟨hw, e0, e1, e2, e3, e4, e5, -⟩ := encR_fields (f7 := 0) (f3 := 0) (op := 0x33) (by decide) hr2 hr1 (by decide) hrd (by decide)
  have hop : (BitVec.ofNat 32 (encR 0 r2 r1 0 rd 0x33)).extractLsb' 0 7 = 0x33 := by
    apply BitVec.eq_of_toNat_eq
    rw [BitVec.extractLsb'_toNat, BitVec.toNat_ofNat, Nat.mod_eq_of_lt hw]
    exact e0
  have hlen : x.pc.toNat + coreLen (x.wordAt x.pc.toNat) ≤ 0x10000 := by
    rw [coreLen]
    split <;> omega
  rw [runRepeated_base (decodeCore32_base hop (by decide)), exec_base hc hw hlen, base_reg e0, e1, e2, e3, e4, e5]
  exact congrArg _ (baseDone_wrote hc.core rd _)

/-! The end of a program, and exceptions. -/

section
variable {s : State} {id : CoreId} {x : Core}

/-- The CSRs that an exception writes (R234). -/
def excSaved (x : Core) (mcause mtval : Nat) : Core :=
  (((x.setCsr 0x341 x.pc).setCsr 0x342 (BitVec.ofNat 32 mcause)).setCsr 0x343 (BitVec.ofNat 32 mtval)).setCsr 0x300
    (BitVec.ofNat 32 (0x1800 + bitsAt (x.csr 0x300).toNat 3 1 * 2 ^ 7))

/-- The core after an exception that mtvec takes (R234). -/
def excepted (x : Core) (cyc mcause mtval : Nat) : Core :=
  { excSaved x mcause mtval with pc := x.csr 0x305 &&& 0xFFFFFFFC, since := cyc }

theorem coreExc_handled {mcause mtval : Nat} (hx : s.core? id = some x) (hv : x.csr 0x305 ≠ 0) :
    (s.coreExc id mcause mtval).core? id = some (excepted x s.cyc mcause mtval) := by
  simp only [State.coreExc, hx, if_neg hv]
  exact core?_modCore hx fun _ => rfl

theorem coreExc_stops {mcause mtval : Nat} (hx : s.core? id = some x) (hv : x.csr 0x305 = 0) : s.coreExc id mcause mtval =
    s.coreTrapAt id { code := tcCoreFault, aux0 := mcause, aux1 := x.pc.toNat, aux2 := mtval } := by
  simp only [State.coreExc, hx, if_pos hv]

/-- mstatus keeps MIE in MPIE and leaves interrupts off. -/
theorem mstatus_pushed (v : Word) : BitVec.ofNat 32 (0x1800 + bitsAt v.toNat 3 1 * 2 ^ 7) = 0x1800 ||| ((v &&& 8) <<< 4) := by
  have hbit : (v &&& 8#32) = if v.getLsbD 3 then 8#32 else 0#32 := BitVec.and_twoPow v 3
  rw [bitsAt_one, BitVec.testBit_toNat]
  show _ = 0x1800 ||| ((v &&& 8#32) <<< 4)
  rw [hbit]
  cases v.getLsbD 3 <;> rfl

theorem excepted_csr (x : Core) (cyc mcause mtval : Nat) :
    (excepted x cyc mcause mtval).csr 0x341 = x.pc ∧ (excepted x cyc mcause mtval).csr 0x342 = BitVec.ofNat 32 mcause ∧
      (excepted x cyc mcause mtval).csr 0x343 = BitVec.ofNat 32 mtval ∧
      (excepted x cyc mcause mtval).csr 0x300 = 0x1800 ||| ((x.csr 0x300 &&& 8) <<< 4) := by
  have hcsrs : (excepted x cyc mcause mtval).csrs = (excSaved x mcause mtval).csrs := rfl
  simp only [csr_congr hcsrs, excSaved]
  refine ⟨?_, ?_, ?_, ?_⟩
  · rw [csr_setCsr_ne _ _ (by decide), csr_setCsr_ne _ _ (by decide), csr_setCsr_ne _ _ (by decide), csr_setCsr_self]
  · rw [csr_setCsr_ne _ _ (by decide), csr_setCsr_ne _ _ (by decide), csr_setCsr_self]
  · rw [csr_setCsr_ne _ _ (by decide), csr_setCsr_self]
  · rw [csr_setCsr_self, mstatus_pushed]

end

end Sys2Proof.Laws

namespace Sys2Proof.Proofs

open Sys2Proof Sys2Proof.Machine Sys2Proof.Claims Sys2Proof.Laws

theorem repeatPrefix : Claims.RepeatPrefix := by
  intro s id x b2 b1 bd rep hc i fits runs stepped
  have hrepeats (h : runs) (hd : x.done ≤ rep.toNat + 1) : exec (.rpt b2 b1 bd rep) s = runRepeated x.word s := by
    obtain ⟨hpc, hwide, hfit, hrep⟩ := h
    exact rpt_repeats hc hpc hwide hfit hrep hd
  have hword {j : Instr} (h : stepped = j) : decodeCore32 (BitVec.ofNat 32 x.word) = j := h
  refine ⟨fun h hd l st c t r2 r1 q => ?_, fun q r1 e r k h hd hpop hs hl hk => ?_, fun rd r1 r2 h hd hrd hr1 hr2 hw => ?_,
    fun h hd => ?_, fun hpc hwide h => rpt_illegal hc hpc hwide h, fun hr cyc => ?_⟩
  · rw [hrepeats h hd]
    refine ⟨?_, ?_, ?_, runRepeated_base (s := s)⟩
    all_goals
      intro hi
      simp only [runRepeated, hword hi]
      rfl
  · obtain ⟨hcore, hself, -⟩ := popped_reads hc.core id.barn q.toNat k.popm k.popped r1.toNat
    refine ⟨_, ?_, hself.trans (congrArg List.tail hl), hcore⟩
    rw [hrepeats h hd, ← xpop_takes hc hs (edgeHead_cons hl hk)]
    simp only [runRepeated, hword hpop]
    rfl
  · rw [hrepeats h hd, hw]
    exact runRepeated_add hc h.1 hrd hr1 hr2
  · obtain ⟨hpc, hwide, hfit, hrep⟩ := h
    rw [rpt_legal hc hpc hwide hfit hrep, if_pos hd]
  · intro n
    have hn : bitsAt (x.wordAt x.pc.toNat) 20 6 + 2 = n := congrArg (· + 2) (bitsAt_eq _ 20 6)
    rw [advance_rpt hr, hn]
    refine ⟨fun hlt => ?_, fun hle => ?_⟩
    · rw [if_neg (Nat.not_le.2 hlt)]
      exact ⟨rfl, fun h7 => done_setCsr _ h7⟩
    · rw [if_pos hle]
      exact ⟨rfl, done_setCsr _ (n := 0) (by decide)⟩

theorem coreEnvironment : Claims.CoreEnvironment := by
  intro s id x hc
  have hebreak : exec .ebreak s = .next (s.coreExc id 3 x.pc.toNat) := show execEbreak s = _ from onCore_runs hc
  refine ⟨show execEcall s = _ from onCore_runs hc, fun hv => ?_, fun hv => ?_⟩
  · obtain ⟨hepc, hcause, hval, hstatus⟩ := excepted_csr x s.cyc 3 x.pc.toNat
    have hpc : BitVec.ofNat 32 x.pc.toNat = x.pc := (BitVec.ofNat_toNat ..).trans (BitVec.setWidth_eq _)
    exact ⟨_, _, hebreak, coreExc_handled hc.core hv, hepc, hcause, hval.trans hpc, rfl, hstatus, rfl, rfl⟩
  · rw [hebreak, coreExc_stops hc.core hv]

/-- Settles O29: RPT runs the stepped word by the instruction's own meaning, and an exception writes its four CSRs. -/
theorem coreRepeatsAndExceptions : Obligations.CoreRepeatsAndExceptions := ⟨repeatPrefix, coreEnvironment⟩

end Sys2Proof.Proofs
end

section
/-! PROOF. A core program whose record is read while a memory error strikes (R218, R219, R432, R444). -/

namespace Sys2Proof.Laws

open Sys2Proof Sys2Proof.Machine Sys2Proof.Claims

/-- A fault hook on data errors of scratchpads with a number so far above the eight of R444 that its counter stands in the place of
the first entry of slot 0's barn map. -/
def strayHook : Hook :=
  { n := ((Reg.ctxBmap 0 0).offset - (Reg.belHookcnt 0).offset) / 4, kind := 1, act := 0, cnt := 0, scls := 0, tcode := 0, cause := 0 }

/-- The scratchpad window of BARN.2. -/
def strayWindow : Nat := 0xFFFFF0000000000 + 2 * 2 ^ 22

/-- A core program record with a loader program of 4 bytes, the record's own first, and without data. -/
def strayRecord : List Byte := [0x53, 0x4C, 1, 0, 0, 0, 0, 0] ++ leBytes 8 strayWindow ++ leBytes 4 4 ++ recZero 44

/-- Placed work whose loader program is to start in BARN.1. -/
def strayInst : Inst :=
  { k := 0, v := 0, recAt := 0, recBytes := recZero 0x20 ++ leBytes 8 strayWindow ++ recZero 216, kbase := [], desc := [],
    graph := false, entry := 0x40, nblk := 1, base := 0, blkoff := 0x40, blklen := 0x400, seq := 0, placed := some 0, barns := [1],
    progs := [(1, false)] }

/-- The loader core of BARN.1 is to start that program, whose record lies in BARN.2's scratchpad; the turn finds an error there that
is rebuilt from its group. -/
def strayStart : State :=
  { State.reset.setReg (.spadAlloc 2 0) 0x100 with
    insts := [strayInst], hooks := [strayHook], scr := putBytes [] (2 * 2 ^ 22) strayRecord, arg := { u := 1, ecc := some {} } }

/-- What register a1 holds in each core after an event. -/
def startedBarns : Host.Outcome State Fault Refusal → List Word
  | .next t => t.fab.cores.map fun c => c.get 11
  | _ => []

/-- The counter of the hook advances in the record's read, so that a1 is made from another map than the one before. -/
theorem strayStart_barns : startedBarns (exec .coreProgramStart strayStart) = [0] := by decide +kernel

end Sys2Proof.Laws

namespace Sys2Proof.Proofs

open Sys2Proof Sys2Proof.Machine Sys2Proof.Claims Sys2Proof.Laws

/-- Refutes O42: a1 of a started program is claimed to be the logical barn by the map before the event; the model takes the map after
the record, the code and the data have been read. A read that meets a memory error counts it at its fault hook, and in a state with a
hook of a number that R444 does not give, which the claim admits though no image installs one, that count changes the map. -/
theorem not_corePrograms : ¬ Obligations.CorePrograms := by
  unfold Obligations.CorePrograms
  rintro ⟨-, hprograms⟩
  obtain ⟨hstart, -, -⟩ := hprograms strayStart
  have hread {p : State × UnitGot} {g : UnitGot} (h : p.2 = g) : p = (p.1, g) := Prod.ext rfl h
  obtain ⟨hrun, -, -⟩ := hstart strayInst _ strayRecord (by decide +kernel) (by decide) (by decide) rfl (by decide) (by decide +kernel)
    (by decide) (hread (by decide +kernel))
  obtain ⟨t, x, ht, hx, -, -, -, -, -, -, hbarn, -⟩ := hrun _ _ (strayRecord.take 4) [] false false (by decide +kernel) (by decide +kernel)
    (hread (by decide +kernel)) (hread (by decide +kernel))
  have hmodel : x.get 11 ∈ startedBarns (exec .coreProgramStart strayStart) := by
    rw [ht]
    exact List.mem_map_of_mem hx
  rw [strayStart_barns, hbarn] at hmodel
  exact absurd hmodel (by decide +kernel)

end Sys2Proof.Proofs
end

section
/-! PROOF. How a trap enters: the index that it takes, its record, and the write of that record to the trap area (R423, R425). -/

namespace Sys2Proof.Laws

open Sys2Proof Sys2Proof.Machine Sys2Proof.Claims

/-! Lists. -/

theorem minBy_mem {α : Type} {key : α → Nat} {l : List α} {x : α} (h : minBy key l = some x) : x ∈ l := by
  induction l generalizing x with
  | nil => cases h
  | cons y r ih =>
    rw [minBy] at h
    cases hr : minBy key r with
    | none =>
      rw [hr] at h
      exact List.mem_cons.2 (.inl (Option.some.inj h).symm)
    | some z =>
      simp only [hr] at h
      split at h
      · exact List.mem_cons_of_mem _ (Option.some.inj h ▸ ih hr)
      · exact List.mem_cons.2 (.inl (Option.some.inj h).symm)

/-- The lowest number that meets a condition meets it, and no lower one does. -/
theorem of_lowest_eq_some {p : Nat → Bool} {n i : Nat} (h : lowest p n = some i) : i < n ∧ p i = true ∧ ∀ j < i, p j = false := by
  rw [lowest, upto_eq, List.find?_range_eq_some] at h
  obtain ⟨hp, hi, hl⟩ := h
  exact ⟨List.mem_range.1 hi, hp, fun j hj => by simpa using hl j hj⟩

theorem of_lowest_eq_none {p : Nat → Bool} {n : Nat} (h : lowest p n = none) : ∀ j < n, p j = false := by
  rw [lowest, upto_eq, List.find?_range_eq_none] at h
  exact fun j hj => by simpa using h j hj

/-! Fields of a record of bytes. -/

theorem recField_leBytes (n v : Nat) : recField (leBytes n v) 0 n = v % 256 ^ n := by
  rw [recField, List.drop_zero, take_leBytes (Nat.le_refl n), leNat_leBytes]

theorem recField_leBytes_append (n v : Nat) (rest : List Byte) : recField (leBytes n v ++ rest) 0 n = v % 256 ^ n :=
  leNat_take_leBytes_append (Nat.le_refl n) v rest

/-- A field that lies behind the first bytes of a record is one of the rest. -/
theorem recField_leBytes_skip {m o : Nat} (h : m ≤ o) (v n : Nat) (rest : List Byte) :
    recField (leBytes m v ++ rest) o n = recField rest (o - m) n := by
  rw [recField, recField, List.drop_append, List.drop_eq_nil_of_le (by rwa [length_leBytes]), length_leBytes, List.nil_append]

section
variable {s : State} {t : Trap} {k i : Nat}

/-! The index (R423). -/

theorem indexUsed_iff : (s.traps.any fun t => t.k = k && t.index = i) = true ↔ ∃ x ∈ s.traps, x.k = k ∧ x.index = i := by simp

theorem freeTrapIndex_some (h : s.freeTrapIndex k = some i) :
    i < 256 ∧ (∀ x ∈ s.traps, x.k = k → x.index ≠ i) ∧ ∀ j < i, ∃ x ∈ s.traps, x.k = k ∧ x.index = j := by
  obtain ⟨hi, hfree, hlow⟩ := of_lowest_eq_some h
  refine ⟨hi, fun x hx hk he => ?_, fun j hj => indexUsed_iff.1 (by simpa using hlow j hj)⟩
  rw [indexUsed_iff.2 ⟨x, hx, hk, he⟩] at hfree
  exact Bool.noConfusion hfree

theorem freeTrapIndex_none (h : s.freeTrapIndex k = none) : ∀ j < 256, ∃ x ∈ s.traps, x.k = k ∧ x.index = j :=
  fun j hj => indexUsed_iff.1 (by simpa using of_lowest_eq_none h j hj)

/-! The record (R425). -/

/-- The trap area of a context; 0 while it has none. -/
def recordArea (s : State) (k : Nat) : Nat := bitsAt (s.reg (.trapArea k)).toNat 6 54 * 64

/-- The access that writes the record of a trap. -/
structure WritesRecord (area : Nat) (t : Trap) (a : Access) : Prop where
  origin : a.origin = .trapRec t.k t.index
  kind   : a.kind = .write
  rel    : a.rel = true
  scope  : a.sc = .pkg
  slot   : a.k = t.k
  pieces : a.pieces = (upto 8).map fun j =>
    { addr := area + 64 * t.index + 8 * j, size := 8, mask := 2 ^ 64 - 1, data := recField t.record (8 * j) 8 }

theorem recordWrite_none (h : recordArea s t.k = 0) : s.recordWrite t = s := if_pos h

theorem recordWrite_issues (h : recordArea s t.k ≠ 0) : ∃ a, WritesRecord (recordArea s t.k) t a ∧
    s.recordWrite t = { s with fresh := s.fresh + 1, fab := { s.fab with accs := s.fab.accs ++ [a] } } :=
  ⟨_, ⟨rfl, rfl, rfl, rfl, rfl, rfl⟩, if_neg h⟩

theorem sameMemory_recordWrite (s : State) (t : Trap) : SameMemory s (s.recordWrite t) := by
  obtain h | ⟨a, h⟩ := recordWrite_cases s t
  · exact h.symm ▸ sameMemory_fab s s.fab
  · exact h.symm ▸ sameMemory_issue s a

theorem recordWrite_traps (s : State) (t : Trap) : (s.recordWrite t).traps = s.traps := by
  obtain h | ⟨a, h⟩ := recordWrite_cases s t
  · rw [h]
  · rw [h, issued]

/-! The trap that is raised. -/

/-- The fault hook of a trap has counted it (R444). -/
def hooked (s : State) (t : Trap) : State :=
  match s.hookFor t.tcode t.cause with
  | some h => s.bumpSat (.belHookcnt h.n) 0 32
  | none => s

/-- A trap with the index that it takes, dated; its fault hook may send it to the host. -/
def raisedTrap (s : State) (t : Trap) (i : Nat) : Trap :=
  { t with index := i, cyc := s.cyc, stage := .raised,
           toHost := t.toHost || (match s.hookFor t.tcode t.cause with | some h => decide (h.act = 2) | none => false) }

/-- The state with a raised trap, before its record is written. -/
def withTrap (s : State) (t : Trap) (i : Nat) : State := { hooked s t with traps := s.traps ++ [raisedTrap s t i] }

theorem hooked_regs (s : State) (t : Trap) : ∃ rs, hooked s t = { s with regs := rs } := by
  unfold hooked
  split
  · exact bumpSat_cases s _ 0 32
  · exact ⟨s.regs, rfl⟩

/-- The counters of the eight fault hooks stand beside the trap areas. -/
theorem hooked_recordArea (h8 : ∀ h ∈ s.hooks, h.n < 8) (t : Trap) (k : Nat) : recordArea (hooked s t) k = recordArea s k := by
  unfold hooked
  split
  · next h hh =>
    have hn : h.n < 8 := h8 h (List.mem_of_mem_filter (minBy_mem hh))
    have hne : (Reg.trapArea k).offset ≠ (Reg.belHookcnt h.n).offset := by simp only [Reg.offset]; omega
    rw [recordArea, State.bumpSat, reg_setField_ne _ _ _ _ hne, recordArea]
  · rfl

theorem withTrap_fab (s : State) (t : Trap) (i : Nat) : (withTrap s t i).fab = s.fab := by
  obtain ⟨rs, h⟩ := hooked_regs s t
  rw [withTrap, h]

theorem sameMemory_withTrap (s : State) (t : Trap) (i : Nat) : SameMemory s (withTrap s t i) := by
  obtain ⟨rs, h⟩ := hooked_regs s t
  rw [withTrap, h]
  exact ⟨fun st => by cases st <;> rfl, rfl, fun st => by cases st <;> rfl⟩

theorem withTrap_recordArea (h8 : ∀ h ∈ s.hooks, h.n < 8) (t : Trap) (i k : Nat) : recordArea (withTrap s t i) k = recordArea s k :=
  hooked_recordArea h8 t k

theorem raise_held (h : s.freeTrapIndex t.k = none) : s.raise t = { s with held := true } := by simp only [State.raise, h]

theorem raise_takes (h : s.freeTrapIndex t.k = some i) : s.raise t = (withTrap s t i).recordWrite (raisedTrap s t i) := by
  simp only [State.raise, h, withTrap, raisedTrap, hooked]
  cases s.hookFor t.tcode t.cause <;> rfl

theorem raise_traps (h : s.freeTrapIndex t.k = some i) : (s.raise t).traps = s.traps ++ [raisedTrap s t i] := by
  rw [raise_takes h, recordWrite_traps, withTrap]

theorem sameMemory_raise (h : s.freeTrapIndex t.k = some i) : SameMemory s (s.raise t) := by
  rw [raise_takes h]
  exact sameMemory_trans (sameMemory_withTrap s t i) (sameMemory_recordWrite _ _)

theorem raise_fab_none (h : s.freeTrapIndex t.k = some i) (h8 : ∀ h ∈ s.hooks, h.n < 8) (ha : recordArea s t.k = 0) :
    (s.raise t).fab = s.fab := by
  rw [raise_takes h, recordWrite_none (t := raisedTrap s t i) ((withTrap_recordArea h8 t i t.k).trans ha), withTrap_fab]

theorem raise_fab_issues (h : s.freeTrapIndex t.k = some i) (h8 : ∀ h ∈ s.hooks, h.n < 8) (ha : recordArea s t.k ≠ 0) :
    ∃ a, WritesRecord (recordArea s t.k) (raisedTrap s t i) a ∧ (s.raise t).fab = { s.fab with accs := s.fab.accs ++ [a] } := by
  have harea := withTrap_recordArea h8 t i t.k
  obtain ⟨a, hw, he⟩ := recordWrite_issues (s := withTrap s t i) (t := raisedTrap s t i) (fun h0 => ha (harea.symm.trans h0))
  refine ⟨a, harea ▸ hw, ?_⟩
  rw [raise_takes h, he, withTrap_fab]

end

end Sys2Proof.Laws

namespace Sys2Proof.Proofs

open Sys2Proof Sys2Proof.Machine Sys2Proof.Claims Sys2Proof.Laws

theorem trapEntry : Claims.TrapEntry := by
  intro s t
  refine ⟨fun i hi h8 _ => ?_, fun hi => ⟨raise_held hi, freeTrapIndex_none hi⟩, ?_⟩
  · obtain ⟨hlt, hfree, hlow⟩ := freeTrapIndex_some hi
    refine ⟨raisedTrap s t i, raise_traps hi, rfl, hlt, rfl, rfl, rfl, hfree, hlow, sameMemory_raise hi, raise_fab_none hi h8, fun ha => ?_⟩
    obtain ⟨a, hw, hfab⟩ := raise_fab_issues hi h8 ha
    exact ⟨a, hfab, hw.origin, hw.kind, hw.rel, hw.scope, hw.slot, hw.pieces⟩
  · have h32 : t.aux2.toNat % 2 ^ 32 = t.aux2.toNat := Nat.mod_eq_of_lt t.aux2.isLt
    have h64 (w : DWord) : w.toNat % 2 ^ 64 = w.toNat := Nat.mod_eq_of_lt w.isLt
    norm_num at h32 h64
    simp [Trap.record, recField_leBytes, recField_leBytes_append, recField_leBytes_skip, h32, h64]

end Sys2Proof.Proofs
end

section
/-! PROOF. How a pending trap is delivered to its channel, to a patch handler or to the host (R424, R429, R430, R442). -/

namespace Sys2Proof.Laws

open Sys2Proof Sys2Proof.Machine Sys2Proof.Claims

section
variable {s : State} {t : Trap}

/-- HOST_EVT after a host event: its bit is set, and LOST where its queue is full (R430). -/
theorem reg_hostEvent (s : State) (e : HostEvent) : (s.hostEvent e).reg .hostEvt = s.reg .hostEvt ||| BitVec.ofNat 64 (1 <<< e.type) ∨
    (s.hostEvent e).reg .hostEvt = s.reg .hostEvt ||| BitVec.ofNat 64 (1 <<< e.type) ||| 0x100 := by
  unfold State.hostEvent
  dsimp only
  split
  · exact .inr (by rw [reg_setReg_self, reg_setReg_self])
  · refine .inl ?_
    show (State.bump _ .hostEvht 32 32).reg .hostEvt = _
    rw [State.bump, reg_setField_ne _ _ _ _ (by decide), reg_setReg_self]

theorem regField_hostEvent (s : State) (e : HostEvent) (h : e.type < 64) : (s.hostEvent e).regField .hostEvt e.type 1 = 1 := by
  have hset : (BitVec.ofNat 64 (1 <<< e.type)).getLsbD e.type = true := by
    rw [BitVec.getLsbD_ofNat, decide_eq_true h, Nat.testBit_shiftLeft]
    simp
  rw [State.regField, bitsAt_one_eq_one, BitVec.testBit_toNat]
  obtain hr | hr := reg_hostEvent s e <;> simp only [hr, BitVec.getLsbD_or, hset, Bool.or_true, Bool.true_or]

theorem hostEvent_regs (s : State) (e : HostEvent) : ∃ rs evs, s.hostEvent e = { s with regs := rs, hostEvts := evs } := by
  unfold State.hostEvent
  dsimp only
  split
  · exact ⟨_, s.hostEvts, rfl⟩
  · exact ⟨_, _, rfl⟩

theorem hostEvent_fab (s : State) (e : HostEvent) : (s.hostEvent e).fab = s.fab := by
  obtain ⟨rs, evs, h⟩ := hostEvent_regs s e
  rw [h]

theorem hostEvent_traps (s : State) (e : HostEvent) : (s.hostEvent e).traps = s.traps := by
  obtain ⟨rs, evs, h⟩ := hostEvent_regs s e
  rw [h]

/-! A pending trap. -/

theorem byTrapIndex_of_traps {v : State} (h : v.traps = s.traps) (k n : Nat) : v.byTrapIndex k n = s.byTrapIndex k n := by
  rw [State.byTrapIndex, h, State.byTrapIndex]

/-- The trap that an index finds has that index. -/
theorem byTrapIndex_key {k n : Nat} (h : s.byTrapIndex k n = some t) : t.k = k ∧ t.index = n := by
  simpa using List.find?_some h

/-- A pending trap at another stage of its delivery. -/
def staged (s : State) (t : Trap) (d : Delivered) : State := s.modTrap t.k t.index fun x => { x with stage := d }

theorem byTrapIndex_staged {k n : Nat} (h : s.byTrapIndex k n = some t) (d : Delivered) :
    (staged s t d).byTrapIndex t.k t.index = some { t with stage := d } := by
  obtain ⟨rfl, rfl⟩ := byTrapIndex_key h
  exact (find?_mapFirst (g := fun x : Trap => { x with stage := d }) (fun _ hx => by exact hx) s.traps).trans (congrArg (Option.map _) h)

/-- What TRAP_HOST of HOST_EVT shows: the trap at the host, with nothing of the fabric changed (R429). -/
structure Told (s : State) (t : Trap) (v : State) : Prop where
  trap : v.byTrapIndex t.k t.index = some { t with stage := .host }
  bit  : v.regField .hostEvt 0 1 = 1
  fab  : v.fab = s.fab

theorem tellHost_told {k n : Nat} (h : s.byTrapIndex k n = some t) : Told s t (s.tellHost t) where
  trap := (byTrapIndex_of_traps (hostEvent_traps _ _) _ _).trans (byTrapIndex_staged h .host)
  bit := regField_hostEvent _ { type := 0, slot := t.k, a := t.index, b := t.tcode, cyc := 0 } (Nat.zero_lt_succ _)
  fab := hostEvent_fab _ _

/-! The event (R423, R442). -/

/-- A trap whose word can be delivered: it is raised, its context runs, its record is written, and no trap of its context raised
before it in its cycle still waits (R423, R425). -/
structure Deliverable (s : State) (t : Trap) : Prop where
  found  : s.byTrapIndex s.arg.k s.arg.n = some t
  raised : t.stage = .raised
  runs   : s.ctxState t.k = 0
  record : ∀ a ∈ s.fab.accs, a.origin ≠ .trapRec t.k t.index
  turn   : ∀ x ∈ s.traps.takeWhile fun x => !(x.k = t.k && x.index = t.index), ¬(x.k = t.k ∧ x.cyc = t.cyc ∧ x.stage = .raised)

/-- The word of an emulation on its way to the patch queue of a tile (R442). -/
def emulationWord (s : State) (t : Trap) (f : Firing) (n tile : Nat) : ChanWord :=
  { barn := t.barn, tile := tile, ch := none, k := t.k, ops := f.emulated, link := n, since := s.cyc,
    tok := { tag := f.tag, dep := f.dep, data := t.wordOf, ty := .b32 } }

/-- The word of a trap on its way to a channel queue (R424). -/
def trapChanWord (s : State) (t : Trap) (b tile ch : Nat) : ChanWord :=
  { barn := b, tile := tile, ch := some ch, k := t.k, since := s.cyc, tok := { tag := s.trapTag t, dep := 0, data := t.wordOf, ty := .b32 } }

/-- Where the word of an emulation goes. -/
def deliverEmulation (s : State) (t : Trap) (f : Firing) (n : Nat) : Option Nat → State
  | none => s.tellHost t
  | some tile => if 16 ≤ s.chanCount t.barn tile none then s else (staged s t .channel).enqueueWord (emulationWord s t f n tile)

/-- Where the word of any other trap goes. -/
def deliverPlain (s : State) (t : Trap) : Option (Nat × Nat × Nat) → State
  | none => s.tellHost t
  | some (b, tile, ch) =>
    if 16 ≤ s.chanCount b tile (some ch) then s else (staged s t .channel).enqueueWord (trapChanWord s t b tile ch)

/-- Where the word of a trap goes, by what the trap holds. -/
def delivered (s : State) (t : Trap) : State :=
  match t.hold with
  | .emulation f n => deliverEmulation s t f n (if t.toHost then none else s.firstTile t.k t.barn)
  | _ => deliverPlain s t (s.trapDest t)

theorem exec_trapWordEnqueue (hd : Deliverable s t) : exec .trapWordEnqueue s = .next (delivered s t) := by
  have hrecord : (s.fab.accs.any fun a => a.origin = .trapRec t.k t.index) = false := by simpa using hd.record
  have hturn : ((s.traps.takeWhile fun x => !(x.k = t.k && x.index = t.index)).any fun x =>
      x.k = t.k && x.cyc = t.cyc && x.stage = .raised) = false := by
    simpa only [List.any_eq_false, Bool.and_eq_true, decide_eq_true_eq, and_assoc] using hd.turn
  show execTrapWordEnqueue s = _
  simp only [execTrapWordEnqueue, hd.found, hd.raised, hd.runs, hrecord, hturn]
  rw [if_neg (by decide)]
  unfold delivered
  cases t.hold with
  | emulation f n => cases (if t.toHost then none else s.firstTile t.k t.barn) <;> rfl
  | _ => cases s.trapDest t <;> rfl

theorem delivered_emulation {f : Firing} {n : Nat} (hh : t.hold = .emulation f n) :
    delivered s t = deliverEmulation s t f n (if t.toHost then none else s.firstTile t.k t.barn) := by simp only [delivered, hh]

theorem delivered_plain (hh : ∀ f n, t.hold ≠ .emulation f n) : delivered s t = deliverPlain s t (s.trapDest t) := by
  unfold delivered
  split
  · next f n h => exact absurd h (hh f n)
  · rfl

theorem tagK_mkTag (d k v nest : Nat) : tagK (mkTag d k v nest) = k % 32 := by
  simp only [tagK, mkTag, bitsAt, BitVec.toNat_ofNat, Nat.shiftRight_eq_div_pow, Nat.shiftLeft_eq]
  omega

theorem wordOf_eq (t : Trap) : t.wordOf = BitVec.ofNat 32 (t.tcode * 2 ^ 16 + t.index) := by rw [Trap.wordOf, Nat.shiftLeft_eq]

end

end Sys2Proof.Laws

namespace Sys2Proof.Proofs

open Sys2Proof Sys2Proof.Machine Sys2Proof.Claims Sys2Proof.Laws

theorem trapsDeliver : Claims.TrapsDeliver := by
  intro s t hfound hraised hruns hrecord hturn o plain told
  have ho : o = .next (delivered s t) := exec_trapWordEnqueue ⟨hfound, hraised, hruns, hrecord, hturn⟩
  have htold (hd : delivered s t = s.tellHost t) : told :=
    have h := tellHost_told hfound
    ⟨_, ho.trans (congrArg _ hd), h.trap, h.bit, h.fab⟩
  refine ⟨wordOf_eq t, fun b u ch hp hc hroom => ?_, fun b u ch hp hc hfull => ?_, fun hp hc => ?_,
    fun f n u hh hhost htile hroom => ?_, fun f n hh hhost => ?_⟩
  · refine ⟨(staged s t .channel).enqueueWord (trapChanWord s t b u ch), trapChanWord s t b u ch, ho.trans (congrArg _ ?_),
      rfl, rfl, rfl, rfl, rfl, rfl, rfl, tagK_mkTag _ _ _ _, byTrapIndex_staged hfound .channel⟩
    rw [delivered_plain hp, hc, deliverPlain, if_neg (Nat.not_le.2 hroom)]
  · refine ho.trans (congrArg _ ?_)
    rw [delivered_plain hp, hc, deliverPlain, if_pos hfull]
  · refine htold ?_
    rw [delivered_plain hp, hc, deliverPlain]
  · refine ⟨(staged s t .channel).enqueueWord (emulationWord s t f n u), emulationWord s t f n u, ho.trans (congrArg _ ?_),
      rfl, rfl, rfl, rfl, rfl, rfl, rfl, rfl⟩
    rw [delivered_emulation hh, hhost, if_neg (by decide), htile, deliverEmulation, if_neg (Nat.not_le.2 hroom)]
  · refine htold ?_
    have hnone : (if t.toHost then none else s.firstTile t.k t.barn) = none := by
      obtain h | h := hhost
      · rw [h, if_pos rfl]
      · rw [h, ite_self]
    rw [delivered_emulation hh, hnone, deliverEmulation]

end Sys2Proof.Proofs
end

section
/-! SUPPORT. What a kill (R378, R427) leaves of the list of placed work and of the pending traps: each of its steps keeps both lists. -/

namespace Sys2Proof.Laws

open Sys2Proof Sys2Proof.Machine

/-- The list of placed work and the pending traps of a state. -/
def roster (s : State) : List Inst × List Trap := (s.insts, s.traps)

section
variable (s : State)

theorem roster_insts {s t : State} (h : roster t = roster s) : t.insts = s.insts := congrArg Prod.fst h
theorem roster_traps {s t : State} (h : roster t = roster s) : t.traps = s.traps := congrArg Prod.snd h

theorem roster_foldState {α : Type} {g : State → α → State} (hg : ∀ s x, roster (g s x) = roster s) (l : List α) (s : State) :
    roster (foldState g s l) = roster s := by
  induction l generalizing s with
  | nil => rfl
  | cons x l ih => exact (ih (g s x)).trans (hg s x)

/-! Memory errors (R432). -/

theorem roster_setPoison (st : Store) (a : Nat) (v : Bool) : roster (s.setPoison st a v) = roster s := by cases st <;> rfl

theorem roster_hostEvent (e : HostEvent) : roster (s.hostEvent e) = roster s := by
  obtain ⟨rs, evs, h⟩ := hostEvent_regs s e
  rw [h]
  rfl

theorem roster_logErr (e : ErrEntry) : roster (s.logErr e) = roster s := roster_hostEvent _ _

theorem roster_errHook (cls : Nat) : roster (s.errHook cls).1 = roster s := by
  unfold State.errHook
  split <;> rfl

theorem roster_uncorrected (e : ErrEntry) (tries : Nat) {act : State → State} (hact : ∀ s, roster (act s) = roster s) :
    roster (s.uncorrected e tries act) = roster s := by
  have hhook := roster_errHook s e.cls
  have hlog (r : Reg) (x : ErrEntry) : roster ((State.bumpSat (s.errHook e.cls).1 r 0 32).logErr x) = roster s :=
    (roster_logErr _ _).trans hhook
  unfold State.uncorrected
  split
  · next v h hv =>
    rw [hv] at hlog
    split
    · exact hlog _ _
    · exact (hact _).trans (hlog _ _)
  · next v hv =>
    rw [hv] at hlog
    exact (hact _).trans (hlog _ _)

theorem roster_eccAt (st : Store) (x k : Nat) : roster (s.eccAt st x k) = roster s := by
  unfold State.eccAt
  split
  · rfl
  · extract_lets v unit cls e
    split_ifs
    · rfl
    · rfl
    · exact (roster_logErr _ _).trans (roster_errHook _ 0)
    · exact (roster_logErr _ _).trans (roster_errHook _ 1)
    · exact roster_uncorrected _ _ _ fun v => roster_setPoison v st x true

/-! Translation (R364, R365, R369). -/

theorem roster_tlbFill (port : Option Nat) (e : TlbEntry) : roster (s.tlbFill port e) = roster s := by
  unfold State.tlbFill
  dsimp only
  split <;> rfl

theorem roster_keepWalk (die a : Nat) (root : Nat × Option Nat) (path : List (Nat × Nat × Nat)) :
    roster (s.keepWalk die a root path) = roster s :=
  roster_foldState (g := keepTable die a) (fun _ _ => rfl) path s

theorem roster_walked (die : Nat) (port : Option Nat) (k va : Nat) (n : Need) (fresh : Bool) :
    roster (s.walked die port k va n fresh).1 = roster s := by
  unfold State.walked
  split
  · rfl
  · split
    · rfl
    · dsimp only
      split
      · rfl
      · exact roster_keepWalk s ..
      · exact (roster_tlbFill _ _ _).trans (roster_keepWalk s ..)

theorem roster_translate (die : Nat) (port : Option Nat) (k va : Nat) (n : Need) : roster (s.translate die port k va n).1 = roster s := by
  unfold State.translate
  split
  · rfl
  · rfl
  · rfl
  · split
    · split
      · dsimp only
        split <;> rfl
      · exact roster_walked (s.tlbDrop ..) ..
    · exact roster_walked s ..

theorem roster_pageFault (die k va cause : Nat) (tile : Option Nat) (access : Nat) (malf idem : Bool) (src : Nat) :
    roster (s.pageFault die k va cause tile access malf idem src).1 = roster s := by
  unfold State.pageFault
  split <;> rfl

theorem roster_unitAt (die k va : Nat) (n : Need) (src : Source) : roster (s.unitAt die k va n src).1 = roster s := by
  have ht := roster_translate s die src.port k va n
  unfold State.unitAt
  split
  · next v st a hv =>
    rw [hv] at ht
    split
    · exact ht
    · exact (roster_eccAt v st a k).trans ht
  · next v hv => rwa [hv] at ht
  · next v m hv => rwa [hv] at ht
  · next v c m _ hv =>
    rw [hv] at ht
    split
    · exact ht
    · exact (roster_pageFault v ..).trans ht
  · next v p hv =>
    rw [hv] at ht
    split <;> exact ht

/-! The head of the tile-task queue (R333, R335). -/

theorem roster_setPoisonIn (st : Store) (v : Bool) (n u : Nat) : roster (setPoisonIn st v n u s) = roster s := by
  induction n generalizing u s with
  | zero => rfl
  | succ n ih => exact (ih _ _).trans (roster_setPoison s st _ v)

theorem roster_storeBytes (st : Store) (a : Nat) (b : List Byte) (poi : Bool) : roster (s.storeBytes st a b poi) = roster s := by
  have hw : roster (s.writeB st a b) = roster s := by cases st <;> rfl
  unfold State.storeBytes
  dsimp only
  split_ifs
  · exact hw
  · exact (roster_setPoisonIn ..).trans hw
  · exact hw
  · exact (roster_setPoisonIn ..).trans hw

theorem roster_sysBusy {v : State} {k : Nat} {st : Store} {a : Nat} (h : s.sysBusy k st a = some v) : roster v = roster s := by
  unfold State.sysBusy at h
  split at h
  · obtain rfl := Option.some.inj h
    rfl
  · cases h

/-- A write of the I/O die counts for no placed work (R337). -/
theorem roster_sysWrite (die k v va : Nat) (b : List Byte) : roster (s.sysWrite die k v va b srcIo).1 = roster s := by
  have hu := roster_unitAt s die k va { w := true } srcIo
  unfold State.sysWrite
  split
  · next u g hv => rwa [hv] at hu
  · next u st a hv =>
    rw [hv] at hu
    split
    · next w hw => exact (roster_sysBusy u hw).trans hu
    · exact (roster_storeBytes u st a b false).trans hu

theorem roster_writeBack (k q : Nat) : roster (s.writeBack k q) = roster s := by
  unfold State.writeBack
  split
  · rfl
  · next d _ =>
    have hw := roster_sysWrite s 0 k 4096 (s.regField (.schedQtab k) 0 60 + 32 * q + 0x10) (leBytes 4 d.head ++ leBytes 4 d.tail)
    dsimp only
    split
    · next v _ _ hv => rwa [hv] at hw
    · next v hv => rwa [hv] at hw
    · next v _ _ _ hv => rwa [hv] at hw

theorem roster_freeTaskSlot (k slot : Nat) : roster (s.freeTaskSlot k slot) = roster s := by
  unfold State.freeTaskSlot
  dsimp only
  split
  · rfl
  · exact roster_writeBack (State.modQdesc _ ..) ..

/-! What killed work leaves (R352). -/

theorem roster_dropRegion (barn r : Nat) : roster (s.dropRegion barn r) = roster s := rfl

theorem roster_uncount (c : Option CoreId) (f : Core → Core) : roster (s.uncount c f) = roster s := by cases c <;> rfl

theorem roster_discardTask (id : Nat) : roster (s.discardTask id) = roster s := by
  unfold State.discardTask
  split
  · rfl
  · next t _ =>
    dsimp only
    refine (roster_freeTaskSlot _ _ _).trans ?_
    cases t.run <;> exact roster_uncount _ t.core _

theorem roster_mirrorOvf (k : Nat) : roster (s.mirrorOvf k) = roster s := by
  obtain ⟨a, b, c, d, h⟩ := rewritten_mirrorOvf s k
  rw [h]
  rfl

theorem roster_freeWaiter (id : Nat) : roster (s.freeWaiter id) = roster s := roster_mirrorOvf _ _

/-! The end (R378, R427). -/

/-- Killed work with its outcome and code. -/
def killed (outc tcode : Nat) (i : Inst) : Inst := { i with outc := outc, tcode := tcode, waiter := none, progs := [], migr := [] }

theorem roster_killInst (k v outc tcode : Nat) : roster (s.killInst k v outc tcode) =
    (mapFirst (fun i => i.k = k && i.v = v) (killed outc tcode) s.insts, s.traps.filter fun t => !(t.k = k && t.v = v)) := by
  unfold State.killInst
  extract_lets s1 s2 s3 s4
  have h1 : roster s1 = roster s := roster_foldState (fun v (r : Region) => roster_dropRegion v r.barn r.r) _ s
  have h2 : roster s2 = roster s1 := roster_foldState (fun v (t : Task) => roster_discardTask v t.id) _ s1
  have h3 : roster s3 = roster s2 := roster_foldState (fun v (x : TaskSlot) => roster_freeTaskSlot v k x.slot) _ s2
  have h4 : roster s4 = roster s3 := roster_foldState (fun v (w : Waiter) => roster_freeWaiter v w.id) _ s3
  have h : roster s4 = roster s := h4.trans (h3.trans (h2.trans h1))
  rw [← roster_insts h, ← roster_traps h]
  rfl

theorem killInst_insts (k v outc tcode : Nat) : (s.killInst k v outc tcode).insts =
    mapFirst (fun i => i.k = k && i.v = v) (killed outc tcode) s.insts := congrArg Prod.fst (roster_killInst s k v outc tcode)

theorem killInst_traps (k v outc tcode : Nat) : (s.killInst k v outc tcode).traps = s.traps.filter fun t => !(t.k = k && t.v = v) :=
  congrArg Prod.snd (roster_killInst s k v outc tcode)

end

end Sys2Proof.Laws
end

section
/-! PROOF. How a write of TRAP_RES resolves a pending trap (R427, R429). -/

namespace Sys2Proof.Laws

open Sys2Proof Sys2Proof.Machine

section
variable {s : State} {t : Trap}

/-- The data of a write of TRAP_RES. -/
def trapData (s : State) : Word := BitVec.ofNat 32 (bitsAt s.arg.val.toNat 32 32)

/-- The trap that a write of TRAP_RES names. -/
def namedTrap (s : State) : Option Trap := s.byTrapIndex s.arg.k (bitsAt s.arg.val.toNat 0 8)

theorem trapRes_none (h : namedTrap s = none) (act : Nat) : s.trapRes act = s.setField (.ctxRun s.arg.k) 24 1 1 := by
  simp only [State.trapRes, show s.byTrapIndex _ _ = none from h]

theorem trapRes_some (h : namedTrap s = some t) (act : Nat) : s.trapRes act = s.resolve t act (trapData s) false := by
  simp only [State.trapRes, show s.byTrapIndex _ _ = some t from h]
  rfl

/-- A resolved trap is pending no more. -/
theorem freeTrap_gone (s : State) (t : Trap) : ∀ x ∈ (s.freeTrap t).traps, ¬(x.k = t.k ∧ x.index = t.index) := by
  rintro x hx ⟨hk, hi⟩
  have hx' := (List.mem_filter.1 hx).2
  simp [hk, hi] at hx'

theorem resolve_resume {f : Firing} (hc : t.cls = .F) (hh : t.hold = .firing f) (hd : t.tcode ≠ tcDupToken) (hu : t.tcode ≠ tcUser)
    (d : Word) (poi : Bool) : s.resolve t 0 d poi = (s.freeTrap t).refire f .outside false := by
  simp [State.resolve, State.resolveHold, hc, hh, hd, hu]

theorem resolve_supply {f : Firing} (hc : t.cls = .F) (hh : t.hold = .firing f) (d : Word) (poi : Bool) :
    s.resolve t 1 d poi = (s.freeTrap t).supply f d poi := by
  simp [State.resolve, State.resolveHold, hc, hh]

theorem resolve_kill (hc : t.cls = .F) (d : Word) (poi : Bool) : s.resolve t 2 d poi = (s.freeTrap t).killInst t.k t.v 1 t.tcode := by
  simp only [State.resolve, hc]

theorem resolve_freed (hc : t.cls = .E ∨ t.cls = .A) {act : Nat} (ha : act ≠ 2) (d : Word) (poi : Bool) :
    s.resolve t act d poi = s.freeTrap t := by
  obtain hc | hc := hc <;> simp [State.resolve, hc]

end

end Sys2Proof.Laws

namespace Sys2Proof.Proofs

open Sys2Proof Sys2Proof.Machine Sys2Proof.Claims Sys2Proof.Laws

theorem trapsResolve : Claims.TrapsResolve := by
  intro s k d gone erred
  have hresume : exec .trapResResume s = .next (s.trapRes 0) := rfl
  have hsupply : exec .trapResSupply s = .next (s.trapRes 1) := rfl
  have hkill : exec .trapResKill s = .next (s.trapRes 2) := rfl
  refine ⟨fun hn => ?_, fun t f ht hc hh => ⟨fun hd hu => ?_, ?_, ?_⟩, fun t ht hc => ⟨?_, ?_, freeTrap_gone s t⟩⟩
  · have herr (act : Nat) : erred (.next (s.trapRes act)) :=
      ⟨_, congrArg _ (trapRes_none hn act), regField_setField_same _ _ _ (by decide), rfl⟩
    exact ⟨herr 0, herr 1, herr 2⟩
  · refine ⟨(s.freeTrap t).refire f .outside false, _, ?_, List.mem_append_right _ (List.mem_singleton_self _), freeTrap_gone s t,
      rfl, rfl, rfl, rfl, rfl, rfl, rfl, rfl⟩
    rw [hresume, trapRes_some ht, resolve_resume hc hh hd hu]
  · rw [hsupply, trapRes_some ht, resolve_supply hc hh]
    rfl
  · rintro ⟨i, hi, hik, hiv⟩
    obtain ⟨j, hj, hmem⟩ := exists_mem_mapFirst (p := fun i : Inst => i.k = t.k && i.v = t.v) (killed 1 t.tcode)
      (l := (s.freeTrap t).insts) hi (by simp [hik, hiv])
    obtain ⟨hjk, hjv⟩ : j.k = t.k ∧ j.v = t.v := by simpa using hj
    refine ⟨(s.freeTrap t).killInst t.k t.v 1 t.tcode, killed 1 t.tcode j, ?_, ?_, hjk, hjv, rfl, rfl, fun x hx => ?_⟩
    · rw [hkill, trapRes_some ht, resolve_kill hc]
    · rwa [killInst_insts]
    · rw [killInst_traps] at hx
      exact freeTrap_gone s t x (List.mem_of_mem_filter hx)
  · rw [hresume, trapRes_some ht, resolve_freed hc (by decide)]
  · rw [hsupply, trapRes_some ht, resolve_freed hc (by decide)]

end Sys2Proof.Proofs
end

section
/-! PROOF. Progress alarms: the limit of a context, the alarm of an item and the restart of its age (R259, R260, R431). -/

namespace Sys2Proof.Laws

open Sys2Proof Sys2Proof.Machine Sys2Proof.Claims

section
variable {s : State} {x : Stalled} {lim : Nat}

/-! The limit (R431). -/

/-- A write of CTX_STALLIM sets its 24 bits. -/
theorem regField_writeReg_stallim (s : State) (k : Nat) (v : DWord) :
    (s.writeReg (.stallim k) v).regField (.stallim k) 0 24 = bitsAt v.toNat 0 24 := by
  apply Nat.eq_of_testBit_eq
  intro i
  rw [State.regField, testBit_bitsAt, testBit_bitsAt, BitVec.testBit_toNat, BitVec.testBit_toNat, getLsbD_reg_writeReg, Nat.zero_add]
  by_cases h : i < 24
  · simp only [Reg.rwMask, Reg.w1cMask, stallim_rwBits i (by omega)]
    simp [h]
  · simp [h]

/-! The alarm (R260). -/

/-- A trap that is the alarm of a waiting item. -/
def AlarmOf (x : Stalled) (t : Trap) : Prop :=
  t.k = x.k ∧ t.tcode = tcStallAge ∧ t.srck = x.srck ∧ t.barn = x.barn ∧ t.unit = x.unit ∧ t.idx = x.idx ∧
    t.blk = x.blk ∧ t.tag = x.tag ∧ t.dep = x.dep ∧ t.slot = x.slot

/-- Whether the alarm of an item is pending. -/
def alarmPending (s : State) (x : Stalled) : Bool :=
  s.traps.any fun t => t.k = x.k && t.tcode = tcStallAge && t.srck = x.srck && t.barn = x.barn &&
    t.unit = x.unit && t.idx = x.idx && t.blk = x.blk && t.tag = x.tag && t.dep = x.dep && t.slot = x.slot

theorem alarmPending_iff : alarmPending s x = true ↔ ∃ t ∈ s.traps, AlarmOf x t := by simp [alarmPending, AlarmOf, and_assoc]

/-- The alarm that an item raises. -/
def alarm (s : State) (x : Stalled) : Trap :=
  { k := x.k, index := 0, tcode := tcStallAge, cause := 0, cls := .A, srck := x.srck, barn := x.barn, unit := x.unit, idx := x.idx,
    blk := x.blk, word := x.word, tag := x.tag, dep := x.dep, slot := x.slot,
    aux0 := BitVec.ofNat 64 (min (s.cyc - x.since) (2 ^ 24 - 1)), aux1 := 0, aux2 := 0, cyc := 0, v := x.v, hold := .none,
    toHost := match s.block? (.tile x.barn x.unit) x.blk with
      | some l => hdrHANDLER l.hdr && x.srck = 1
      | none => false }

/-- The age of an item is of the fabric, or of a gather entry. -/
theorem restartAge_cases (s : State) (i : AgeItem) : ∃ g l, s.restartAge i = { s with fab := g, gathers := l } := by
  unfold State.restartAge
  cases i with
  | gather n => exact ⟨s.fab, _, rfl⟩
  | waiting n =>
    dsimp only
    split
    · exact ⟨_, s.gathers, rfl⟩
    · exact ⟨_, s.gathers, rfl⟩
  | _ => exact ⟨_, s.gathers, rfl⟩

theorem restartAge_traps (s : State) (i : AgeItem) : (s.restartAge i).traps = s.traps := by
  obtain ⟨g, l, h⟩ := restartAge_cases s i
  rw [h]

theorem sameMemory_restartAge (s : State) (i : AgeItem) : SameMemory s (s.restartAge i) := by
  obtain ⟨g, l, h⟩ := restartAge_cases s i
  rw [h]
  exact ⟨fun st => by cases st <;> rfl, rfl, fun st => by cases st <;> rfl⟩

/-! The event (R259). -/

theorem stallAge_disabled (hx : s.stalled s.arg.item = some x) (hl : s.stallLimit x.k = none) : exec .stallAge s = .next s := by
  show execStallAge s = _
  simp only [execStallAge, hx, hl]

/-- A waiting item of a running context that has a limit and no page fault. -/
structure Ages (s : State) (x : Stalled) (lim : Nat) : Prop where
  item   : s.stalled s.arg.item = some x
  limit  : s.stallLimit x.k = some lim
  runs   : s.ctxState x.k = 0
  intact : s.hasFault x.k = false

section
variable (hx : Ages s x lim)
include hx

theorem stallAge_young (ha : s.cyc < x.since + lim) (hn : x.now = false) : exec .stallAge s = .next s := by
  show execStallAge s = _
  simp only [execStallAge, hx.item, hx.limit, ha, hn]
  simp

theorem stallAge_old (ha : x.since + lim ≤ s.cyc) : exec .stallAge s =
    .next (if alarmPending s x then s.restartAge s.arg.item
      else match s.freeTrapIndex x.k with
        | none => s
        | some _ => (s.raise (alarm s x)).restartAge s.arg.item) := by
  show execStallAge s = _
  simp only [execStallAge, hx.item, hx.limit, hx.runs, hx.intact, Nat.not_lt.2 ha]
  rfl

theorem stallAge_pending (ha : x.since + lim ≤ s.cyc) (hp : ∃ t ∈ s.traps, AlarmOf x t) :
    exec .stallAge s = .next (s.restartAge s.arg.item) := by
  rw [stallAge_old hx ha, if_pos (alarmPending_iff.2 hp)]

theorem stallAge_raises {i : Nat} (ha : x.since + lim ≤ s.cyc) (hp : ∀ t ∈ s.traps, ¬AlarmOf x t) (hi : s.freeTrapIndex x.k = some i) :
    exec .stallAge s = .next ((s.raise (alarm s x)).restartAge s.arg.item) := by
  have hno : ¬ alarmPending s x = true := fun h => by
    obtain ⟨t, ht, hs⟩ := alarmPending_iff.1 h
    exact hp t ht hs
  rw [stallAge_old hx ha, if_neg hno, hi]

end

end

end Sys2Proof.Laws

namespace Sys2Proof.Proofs

open Sys2Proof Sys2Proof.Machine Sys2Proof.Claims Sys2Proof.Laws

theorem alarmsRise : Claims.AlarmsRise := by
  intro s
  refine ⟨⟨s.writeReg (.stallim s.arg.k) s.arg.val, rfl, rfl, sameMemory_writeReg _ _ _, ?_⟩,
    fun x lim hitem hlimit hruns hfault => ?_, fun x hitem hlimit => stallAge_disabled hitem hlimit⟩
  · simp only [State.stallLimit, regField_writeReg_stallim]
  · have hx : Ages s x lim := ⟨hitem, hlimit, hruns, hfault⟩
    refine ⟨fun ha hp hfree => ?_, fun ha hp => stallAge_pending hx ha hp, fun ha hn => stallAge_young hx ha hn⟩
    obtain ⟨i, hi⟩ := Option.isSome_iff_exists.1 hfree
    have hi' : s.freeTrapIndex (alarm s x).k = some i := hi
    refine ⟨_, raisedTrap s (alarm s x) i, stallAge_raises hx ha hp hi, ?_, ⟨rfl, rfl, rfl, rfl, rfl, rfl, rfl, rfl, rfl, rfl⟩, rfl, rfl,
      sameMemory_trans (sameMemory_raise hi') (sameMemory_restartAge _ _)⟩
    rw [restartAge_traps, raise_traps hi']
    exact List.mem_append_right _ (List.mem_singleton_self _)

/-- Settles O48: by how a trap is raised, by where its word goes, by what it holds, and by whether its item's alarm is pending. -/
theorem trapDelivery : Obligations.TrapDelivery := ⟨trapEntry, trapsDeliver, trapsResolve, alarmsRise⟩

end Sys2Proof.Proofs
end

section
/-! SUPPORT. The memories of a state as one value, and which operations of the machine leave it unchanged. -/

namespace Sys2Proof.Laws

open Sys2Proof Sys2Proof.Machine Sys2Proof.Claims

/-- The four memories with their presence bits and poison marks. -/
structure Memories where
  dmem  : List Host.Cell
  hmem  : List Host.Cell
  scr   : List Host.Cell
  wbuf  : List Host.Cell
  pres  : List Nat
  poisD : List Nat
  poisH : List Nat
  poisS : List Nat
  poisW : List Nat

/-- The memories of a state. -/
def memories (s : State) : Memories := ⟨s.dmem, s.hmem, s.scr, s.wbuf, s.pres, s.poisD, s.poisH, s.poisS, s.poisW⟩

theorem sameMemory_of_memories {s t : State} (h : memories t = memories s) : SameMemory s t := by
  simp only [memories, Memories.mk.injEq] at h
  obtain ⟨h1, h2, h3, h4, h5, h6, h7, h8, h9⟩ := h
  exact ⟨fun st => by cases st <;> assumption, h5, fun st => by cases st <;> assumption⟩

/-- An update of any fields but those of the memories. -/
@[simp] theorem memories_update (s : State) (cyc agenda cur curCore arg held left ctr fresh regs raised fab saved stops insts
      gathers cands delivs fetches ccache traps voided hostEvts pfaults nextFid tlb walks asids tileEnts invq scrubs regGens qtab
      sheaves waiters pubs pubSeq tasks taskQ ranks chunks collSeq ports snoop hostCopy agent decoders cxl hostBusy loadq
      loadFault loadFailed tcFlushing images tcLevel tcLook tc slots hooks patchCode patchImg belCopies belLoad fwImg fwCopies
      fwReq preempt turnAt reeveK reeveTaken reeveLast reeveClose gongAt snap freezes errLog errCount masks mck shadowRet
      shadowDrop badBound retired overtemp counts doe) :
    memories { s with
      cyc, agenda, cur, curCore, arg, held, left, ctr, fresh, regs, raised, fab, saved, stops, insts, gathers,
      cands, delivs, fetches, ccache, traps, voided, hostEvts, pfaults, nextFid, tlb, walks, asids, tileEnts, invq, scrubs,
      regGens, qtab, sheaves, waiters, pubs, pubSeq, tasks, taskQ, ranks, chunks, collSeq, ports, snoop, hostCopy, agent,
      decoders, cxl, hostBusy, loadq, loadFault, loadFailed, tcFlushing, images, tcLevel, tcLook, tc, slots, hooks, patchCode,
      patchImg, belCopies, belLoad, fwImg, fwCopies, fwReq, preempt, turnAt, reeveK, reeveTaken, reeveLast, reeveClose, gongAt,
      snap, freezes, errLog, errCount, masks, mck, shadowRet, shadowDrop, badBound, retired, overtemp, counts, doe } = memories s := (rfl)

@[simp] theorem memories_ite (c : Prop) [Decidable c] (s t : State) :
    memories (if c then s else t) = if c then memories s else memories t := apply_ite ..

/-! Sys2Proof/Machine/Regs.lean. -/

@[simp] theorem memories_setReg (s : State) (r : Reg) (v : DWord) : memories (s.setReg r v) = memories s := (rfl)
@[simp] theorem memories_setField (s : State) (r : Reg) (lo w x : Nat) : memories (s.setField r lo w x) = memories s := (rfl)
@[simp] theorem memories_bumpSat (s : State) (r : Reg) (lo w : Nat) : memories (s.bumpSat r lo w) = memories s := (rfl)
@[simp] theorem memories_bump (s : State) (r : Reg) (lo w : Nat) : memories (s.bump r lo w) = memories s := (rfl)
@[simp] theorem memories_writeReg (s : State) (r : Reg) (v : DWord) : memories (s.writeReg r v) = memories s := (rfl)
@[simp] theorem memories_setCtxState (s : State) (k x : Nat) : memories (s.setCtxState k x) = memories s := (rfl)

/-! Sys2Proof/Machine/Flags.lean. -/

@[simp] theorem memories_raiseFlags (s : State) (k lane fl : Nat) : memories (s.raiseFlags k lane fl) = memories s := by
  unfold State.raiseFlags
  split <;> rfl

@[simp] theorem memories_raiseLanes (s : State) (k lane : Nat) (l : List Nat) : memories (s.raiseLanes k lane l) = memories s := by
  induction l generalizing s lane with
  | nil => rfl
  | cons f l ih => simp [State.raiseLanes, ih]

@[simp] theorem memories_amaxUpdate (s : State) (k n : Nat) (x : Val) : memories (s.amaxUpdate k n x) = memories s := by
  simp only [State.amaxUpdate]
  repeat' split
  all_goals simp

@[simp] theorem memories_amaxLanes (s : State) (k n : Nat) (l : List Val) : memories (s.amaxLanes k n l) = memories s := by
  induction l generalizing s with
  | nil => rfl
  | cons x l ih => simp [State.amaxLanes, ih]

/-! Sys2Proof/Machine/Ops.lean. -/

@[simp] theorem memories_foldState {α : Type} {f : State → α → State} (hf : ∀ s x, memories (f s x) = memories s) (s : State)
    (l : List α) : memories (foldState f s l) = memories s := by
  induction l generalizing s with
  | nil => rfl
  | cons x l ih => rw [foldState, ih, hf]

/-- The record of the Gong's cycle is no memory. -/
theorem memories_withGongAt (s : State) (n : Option Nat) : memories { s with gongAt := n } = memories s := (rfl)

@[simp] theorem memories_modFab (s : State) (g : Fabric → Fabric) : memories (s.modFab g) = memories s := (rfl)
@[simp] theorem memories_countUp (s : State) (key n : Nat) : memories (s.countUp key n) = memories s := (rfl)
@[simp] theorem memories_bumpFresh (s : State) : memories (s.bumpFresh) = memories s := (rfl)
@[simp] theorem memories_chose (s : State) : memories (s.chose) = memories s := (rfl)
@[simp] theorem memories_modBlock (s : State) (h : Holder) (blk : Nat) (f : Loaded → Loaded) :
    memories (s.modBlock h blk f) = memories s := (rfl)

@[simp] theorem memories_modInst (s : State) (k v : Nat) (f : Inst → Inst) : memories (s.modInst k v f) = memories s := (rfl)
@[simp] theorem memories_emitAt (s : State) (site : Site) (t : Option Target) (ready : Nat) (k : Tok) :
    memories (s.emitAt site t ready k) = memories s := by
  unfold State.emitAt
  split <;> rfl

@[simp] theorem memories_emit (s : State) (site : Site) (t : Option Target) (lat : Nat) (k : Tok) :
    memories (s.emit site t lat k) = memories s := by simp [State.emit]

@[simp] theorem memories_emitAll (s : State) (site : Site) (lat : Nat) (k : Tok) (l : List (Option Target)) :
    memories (s.emitAll site lat k l) = memories s := by
  induction l generalizing s with
  | nil => rfl
  | cons x l ih => simp [State.emitAll, ih]

@[simp] theorem memories_hostEvent (s : State) (e : HostEvent) : memories (s.hostEvent e) = memories s := by
  unfold State.hostEvent
  dsimp only
  split <;> rfl

@[simp] theorem memories_issue (s : State) (a : Access) : memories (s.issue a) = memories s := (rfl)
@[simp] theorem memories_recordWrite (s : State) (t : Trap) : memories (s.recordWrite t) = memories s := by
  unfold State.recordWrite
  dsimp only
  split <;> rfl

@[simp] theorem memories_raise (s : State) (t : Trap) : memories (s.raise t) = memories s := by
  obtain h | ⟨i, rs, r, -, -, -, -, -, h | ⟨a, h⟩⟩ := raise_cases s t <;> rw [h] <;> rfl

@[simp] theorem memories_trapFiring (s : State) (f : Firing) (c : Cause) :
    memories (s.trapFiring f c) = memories s := by simp [State.trapFiring]

@[simp] theorem memories_streamLen (s : State) (f : Firing) (sl : Slot) (j cnt : Nat) :
    memories (s.streamLen f sl j cnt) = memories s := by simp [State.streamLen]

@[simp] theorem memories_poisonTrap (s : State) (f : Firing) (sl : Slot) :
    memories (s.poisonTrap f sl) = memories s := by simp [State.poisonTrap]

@[simp] theorem memories_counted (s : State) (f : Firing) (t : Ty) : memories (s.counted f t) = memories s := by
  unfold State.counted
  split <;> rfl

@[simp] theorem memories_fired (s : State) (sh : Shape) (f : Firing) {act : State → State}
    (ha : memories (act (s.counted f sh.h.ty)) = memories s) : memories (s.fired sh f act) = memories s := by
  obtain ⟨k, h⟩ | ⟨c, h⟩ | ⟨-, -, h⟩ | ⟨-, -, h⟩ := fired_cases s sh f act <;> simp [h, ha]

/-! Sys2Proof/Machine/Errors.lean. -/

@[simp] theorem memories_logErr (s : State) (e : ErrEntry) : memories (s.logErr e) = memories s := memories_hostEvent ..
@[simp] theorem memories_errHook (s : State) (cls : Nat) : memories (s.errHook cls).1 = memories s := by
  unfold State.errHook
  split <;> rfl

@[simp] theorem memories_uncorrected (s : State) (e : ErrEntry) (tries : Nat) {act : State → State}
    (ha : ∀ s, memories (act s) = memories s) : memories (s.uncorrected e tries act) = memories s := by
  unfold State.uncorrected
  split
  · next t h he =>
    have ht : memories t = memories s := by rw [← memories_errHook s e.cls, he]
    split <;> simp [ha, ht]
  · next t he =>
    have ht : memories t = memories s := by rw [← memories_errHook s e.cls, he]
    simp [ha, ht]

/-! Sys2Proof/Machine/Nodes.lean. -/

@[simp] theorem memories_promote (s : State) (site : Site) : memories (s.promote site) = memories s := by
  simp only [State.promote]
  repeat' split
  all_goals simp

@[simp] theorem memories_promoteAll (s : State) : memories (s.promoteAll) = memories s := by simp [State.promoteAll]

/-! Sys2Proof/Machine/Access.lean. -/

@[simp] theorem memories_pageTrap (s : State) (f : Firing) (va code size : Nat) :
    memories (s.pageTrap f va code size) = memories s := by simp [State.pageTrap]

@[simp] theorem memories_permTrap (s : State) (f : Firing) (cause a code : Nat) :
    memories (s.permTrap f cause a code) = memories s := by simp [State.permTrap]

@[simp] theorem memories_alignTrap (s : State) (f : Firing) (a size : Nat) :
    memories (s.alignTrap f a size) = memories s := by simp [State.alignTrap]

@[simp] theorem memories_store (s : State) (f : Firing) (a : Access) (targets : List (Option Target)) (out : Tok) :
    memories (s.store f a targets out) = memories s := by
  simp only [State.store]
  repeat' split
  all_goals simp

@[simp] theorem memories_withVa (s : State) (f : Firing) (va : Nat) (kind : AccKind) (size : Nat) {act : Nat → State}
    (ha : ∀ x, memories (act x) = memories s) : memories (s.withVa f va kind size act) = memories s := by
  unfold State.withVa
  repeat' split
  all_goals simp [ha]

@[simp] theorem memories_withFlat (s : State) (f : Firing) (bsel : BitVec 4) (disp : BitVec 9) (kind : AccKind) (size : Nat)
    {act : Nat → State} (ha : ∀ x, memories (act x) = memories s) : memories (s.withFlat f bsel disp kind size act) = memories s := by
  unfold State.withFlat
  split <;> simp [ha]

@[simp] theorem memories_withScratch (s : State) (f : Firing) (disp : BitVec 13) (size code : Nat) {act : Nat → State}
    (ha : ∀ x, memories (act x) = memories s) : memories (s.withScratch f disp size code act) = memories s := by
  unfold State.withScratch
  repeat' split
  all_goals simp [ha]

/-! Sys2Proof/Machine/Steer.lean. -/

@[simp] theorem memories_modSpace (s : State) (h : Holder) (blk : Nat) (t : DWord) (d : Nat) (g : Space → Space) :
    memories (s.modSpace h blk t d g) = memories s := (rfl)

@[simp] theorem memories_tagDepth (s : State) (f : Firing) (x y : Nat) :
    memories (s.tagDepth f x y) = memories s := by simp [State.tagDepth]

@[simp] theorem memories_takeIndex (s : State) (f : Firing) (i : Nat) : memories (s.takeIndex f i) = memories s := by
  unfold State.takeIndex
  split <;> rfl

/-! Sys2Proof/Machine/Tensor.lean. -/

@[simp] theorem memories_tensorDesc (s : State) (f : Firing) (n : Nat) :
    memories (s.tensorDesc f n) = memories s := by simp [State.tensorDesc]

@[simp] theorem memories_withTensor (s : State) (f : Firing) (n : Nat) (kind : AccKind) {act : Tensor → List Nat → List Byte → State}
    (ha : ∀ t c b, memories (act t c b) = memories s) : memories (s.withTensor f n kind act) = memories s := by
  simp only [State.withTensor]
  repeat' split
  all_goals simp [ha]

@[simp] theorem memories_modStream (s : State) (site : Site) (t : DWord) (d : Nat) (g : Stream → Stream) :
    memories (s.modStream site t d g) = memories s := (rfl)

@[simp] theorem memories_dropStream (s : State) (site : Site) (t : DWord) (d : Nat) : memories (s.dropStream site t d) = memories s := (rfl)
@[simp] theorem memories_addStream (s : State) (x : Stream) : memories (s.addStream x) = memories s := (rfl)
@[simp] theorem memories_streamShape (s : State) (f : Firing) (count sw : Nat) :
    memories (s.streamShape f count sw) = memories s := by simp [State.streamShape]

@[simp] theorem memories_strmReads (h : Hdr) (f : Firing) (w : Win) (n j : Nat) (s : State) :
    memories (strmReads h f w n j s) = memories s := by
  induction n generalizing j s with
  | zero => rfl
  | succ n ih =>
    simp only [strmReads, ih]
    split <;> rfl

@[simp] theorem memories_putStream (s : State) (x : Stream) : memories (s.putStream x) = memories s := by
  unfold State.putStream
  split <;> rfl

@[simp] theorem memories_strmwOrigin (s : State) (h : Hdr) (n desc shp : Nat) (f : Firing) :
    memories (strmwOrigin s h n desc shp f) = memories s := by
  refine memories_fired s _ f ((memories_ite ..).trans ?_)
  split
  · simp
  · split
    · simp
    · simp
    · split
      · rw [← memories_counted s f h.ty]; rfl
      · simp

@[simp] theorem memories_strmwToken (s : State) (h : Hdr) (sc : Scope) (n desc shp : Nat) (f f0 : Firing) (x : Stream) (j : Nat) :
    memories (strmwToken s h sc n desc shp f f0 x j) = memories s := by
  simp only [strmwToken]
  repeat' split
  all_goals simp

/-! Sys2Proof/Machine/Translate.lean. -/

@[simp] theorem memories_keepTable (die a : Nat) (s : State) (x : Nat × Nat × Nat) : memories (keepTable die a s x) = memories s := (rfl)
@[simp] theorem memories_keepWalk (s : State) (die a : Nat) (root : Nat × Option Nat) (path : List (Nat × Nat × Nat)) :
    memories (s.keepWalk die a root path) = memories s := by
  rw [← memories_foldState (memories_keepTable die a) s path]
  rfl

@[simp] theorem memories_tlbDrop (s : State) (die : Nat) (port : Option Nat) (asid va : Nat) :
    memories (s.tlbDrop die port asid va) = memories s := (rfl)

@[simp] theorem memories_tlbAdd (s : State) (e : TlbEntry) : memories (s.tlbAdd e) = memories s := (rfl)
@[simp] theorem memories_tlbFill (s : State) (port : Option Nat) (e : TlbEntry) : memories (s.tlbFill port e) = memories s := by
  unfold State.tlbFill
  split <;> rfl

@[simp] theorem memories_walked (s : State) (die : Nat) (port : Option Nat) (k va : Nat) (n : Need) (fresh : Bool) :
    memories (s.walked die port k va n fresh).1 = memories s := by
  simp only [State.walked]
  repeat' split
  all_goals simp

@[simp] theorem memories_translate (s : State) (die : Nat) (port : Option Nat) (k va : Nat) (n : Need) :
    memories (s.translate die port k va n).1 = memories s := by
  simp only [State.translate]
  repeat' split
  all_goals simp

@[simp] theorem memories_claimSlot (s : State) (k v blk : Nat) : memories (s.claimSlot k v blk).1 = memories s := (rfl)
@[simp] theorem memories_takeFid (s : State) (die : Nat) : memories (s.takeFid die).1 = memories s := (rfl)
@[simp] theorem memories_pageFault (s : State) (die k va cause : Nat) (tile : Option Nat) (access : Nat) (malf idem : Bool) (src : Nat) :
    memories (s.pageFault die k va cause tile access malf idem src).1 = memories s := by
  unfold State.pageFault
  split <;> rfl

@[simp] theorem memories_modAcc (s : State) (id : Nat) (f : Access → Access) : memories (s.modAcc id f) = memories s := (rfl)
@[simp] theorem memories_dropAcc (s : State) (id : Nat) : memories (s.dropAcc id) = memories s := (rfl)
@[simp] theorem memories_raiseThen (s : State) (t : Trap) {g : State → State} (hg : memories (g (s.raise t)) = memories s) :
    memories (s.raiseThen t g) = memories s := by
  unfold State.raiseThen
  split
  · rfl
  · exact hg

@[simp] theorem memories_trapToHost (s : State) (k n : Nat) : memories (s.trapToHost k n) = memories s := (rfl)
@[simp] theorem memories_haltCore (s : State) (id : CoreId) : memories (s.haltCore id) = memories s := (rfl)
@[simp] theorem memories_accessTrap (s : State) (a : Access) (c : Cause) : memories (s.accessTrap a c) = memories s := by
  unfold State.accessTrap
  split <;> simp

/-! Sys2Proof/Machine/Matrix.lean. -/

@[simp] theorem memories_modRegion (s : State) (barn r : Nat) (g : Region → Region) : memories (s.modRegion barn r g) = memories s := (rfl)
@[simp] theorem memories_putRegion (s : State) (x : Region) : memories (s.putRegion x) = memories s := (rfl)
theorem memories_bindRegion {s : State} {k v barn h w blk : Nat} {t : State × Region} (he : s.bindRegion k v barn h w blk = some t) :
    memories t.1 = memories s := by
  simp only [State.bindRegion] at he
  repeat' split at he
  all_goals cases he <;> simp_all

@[simp] theorem memories_handleTrap (s : State) (f : Firing) : memories (s.handleTrap f) = memories s := by simp [State.handleTrap]
@[simp] theorem memories_feedSwap (s : State) (x : Region) (t : DWord) (d : Nat) : memories (s.feedSwap x t d) = memories s := by
  unfold State.feedSwap
  dsimp only
  split <;> rfl

@[simp] theorem memories_mmacToken (s : State) (f : Firing) (x : Region) (t : Ty) (m : Nat) (tl : MTile) (sl : Slot) (k : Tok) (j : Nat) :
    memories (mmacToken s f x t m tl sl k j) = memories s := by
  simp only [mmacToken]
  repeat' split
  all_goals simp

/-! Sys2Proof/Machine/CoreBase.lean. -/

@[simp] theorem memories_modCore (s : State) (c : CoreId) (f : Core → Core) : memories (s.modCore c f) = memories s := (rfl)
@[simp] theorem memories_coreGoes (s : State) (c : CoreId) : memories (s.coreGoes c) = memories s := (rfl)
@[simp] theorem memories_coreWrites (s : State) (c : CoreId) (rd : Nat) (v : Word) : memories (s.coreWrites c rd v) = memories s := (rfl)
@[simp] theorem memories_coreTrapAt (s : State) (id : CoreId) (c : Cause) : memories (s.coreTrapAt id c) = memories s := by
  simp only [State.coreTrapAt]
  repeat' split
  all_goals simp

@[simp] theorem memories_coreExc (s : State) (id : CoreId) (mcause mtval : Nat) : memories (s.coreExc id mcause mtval) = memories s := by
  simp only [State.coreExc]
  repeat' split
  all_goals simp

@[simp] theorem memories_coreIllegal (s : State) (id : CoreId) (w : Nat) :
    memories (s.coreIllegal id w) = memories s := by simp [State.coreIllegal]

/-! Sys2Proof/Machine/Sheaf.lean. -/

@[simp] theorem memories_modSheaf (s : State) (asid tid tile : Nat) (f : Sheaf → Sheaf) :
    memories (s.modSheaf asid tid tile f) = memories s := (rfl)

theorem memories_newSheaf {s : State} {k tid tile : Nat} {t : State} (h : s.newSheaf k tid tile = some t) : memories t = memories s := by
  simp only [State.newSheaf] at h
  repeat' split at h
  all_goals cases h <;> simp_all

theorem memories_needSheaf {s t : State} {k tid tile : Nat} (h : s.needSheaf k tid tile = some t) : memories t = memories s := by
  unfold State.needSheaf at h
  split at h
  · cases h; rfl
  · exact memories_newSheaf h

@[simp] theorem memories_pruneSheaves (s : State) : memories (s.pruneSheaves) = memories s := (rfl)
@[simp] theorem memories_countWaiters (s : State) (k : Nat) : memories (s.countWaiters k) = memories s := (rfl)
@[simp] theorem memories_modWaiter (s : State) (id : Nat) (f : Waiter → Waiter) : memories (s.modWaiter id f) = memories s := (rfl)
@[simp] theorem memories_waiterTrap (s : State) (w : Waiter) (input code found seq : Nat) :
    memories (s.waiterTrap w input code found seq) = memories s := by simp [State.waiterTrap]

@[simp] theorem memories_answer (s : State) (f : Firing) (lat : Nat) (data : Option (Ty × Word)) :
    memories (s.answer f lat data) = memories s := by
  simp only [State.answer]
  repeat' split
  all_goals simp

@[simp] theorem memories_freshContext (s : State) (k : Nat) : memories (s.freshContext k) = memories s := by
  unfold State.freshContext
  split <;> simp

@[simp] theorem memories_takeSeq (s : State) (src : Nat) : memories (s.takeSeq src).1 = memories s := (rfl)
@[simp] theorem memories_sendPublish (s : State) (src : Nat) (p : Publish) : memories (s.sendPublish src p) = memories s := (rfl)
@[simp] theorem memories_published (s : State) (p : Publish) : memories (s.published p) = memories s := by
  cases hf : p.fire with
  | none =>
    simp only [State.published, hf]
    cases p.core <;> cases p.cmd <;> cases p.task <;> rfl
  | some f =>
    simp only [State.published, hf]
    rw [← memories_answer s f 1 none]
    generalize s.answer f 1 none = t
    cases p.core <;> cases p.cmd <;> cases p.task <;> rfl

@[simp] theorem memories_unitTrap (s : State) (k v srck unit recAt : Nat) (c : Cause) :
    memories (s.unitTrap k v srck unit recAt c) = memories s := by simp [State.unitTrap]

@[simp] theorem memories_publishStale (s : State) (p : Publish) (found : Nat) : memories (s.publishStale p found) = memories s := by
  unfold State.publishStale
  split <;> simp

@[simp] theorem memories_fallback (s : State) (k : Nat) : memories (s.fallback k) = memories s := by
  unfold State.fallback
  split <;> rfl

@[simp] theorem memories_withKey (s : State) (f : Firing) (desc : Nat) {act : Nat → Nat → Nat → State}
    (ha : ∀ t i g, memories (act t i g) = memories s) : memories (s.withKey f desc act) = memories s := by
  unfold State.withKey
  repeat' split
  all_goals simp [ha]

@[simp] theorem memories_publishNow (s : State) (f : Firing) (desc : Nat) : memories (s.publishNow f desc) = memories s := by
  unfold State.publishNow
  split <;> rfl

/-! Sys2Proof/Machine/Units.lean. -/

@[simp] theorem memories_moved (s : State) (k v : Nat) (st : Store) (n : Nat) : memories (s.moved k v st n) = memories s := by
  unfold State.moved
  split <;> rfl

@[simp] theorem memories_movedBy (s : State) (src : Source) (k v : Nat) (st : Store) (n : Nat) :
    memories (s.movedBy src k v st n) = memories s := by
  unfold State.movedBy
  split <;> simp

@[simp] theorem memories_scrub (s : State) (barn k : Nat) (weight : Bool) : memories (s.scrub barn k weight) = memories s := (rfl)
@[simp] theorem memories_modQdesc (s : State) (k q : Nat) (f : QDesc → QDesc) : memories (s.modQdesc k q f) = memories s := (rfl)
theorem memories_sysBusy {s : State} {k : Nat} {st : Store} {a : Nat} {t : State} (h : s.sysBusy k st a = some t) :
    memories t = memories s := by
  simp only [State.sysBusy] at h
  repeat' split at h
  all_goals cases h <;> simp_all

@[simp] theorem memories_uncount (s : State) (c : Option CoreId) (f : Core → Core) : memories (s.uncount c f) = memories s := by
  unfold State.uncount
  split <;> rfl

@[simp] theorem memories_dropRegion (s : State) (barn r : Nat) : memories (s.dropRegion barn r) = memories s := (rfl)
@[simp] theorem memories_modCmd (s : State) (id : Nat) (f : Cmd → Cmd) : memories (s.modCmd id f) = memories s := (rfl)

/-! Sys2Proof/Machine/Traps.lean. -/

@[simp] theorem memories_scrubLeft (s : State) (k : Nat) (barns : List Nat) : memories (s.scrubLeft k barns) = memories s := by
  simp [State.scrubLeft]

@[simp] theorem memories_refire (s : State) (f : Firing) (place : Place) (dup : Bool) : memories (s.refire f place dup) = memories s := by
  unfold State.refire
  split <;> rfl

@[simp] theorem memories_supply (s : State) (f : Firing) (d : Word) (poi : Bool) :
    memories (s.supply f d poi) = memories s := by simp [State.supply]

@[simp] theorem memories_supplyEmulated (s : State) (f : Firing) (d : Word) (poi : Bool) :
    memories (s.supplyEmulated f d poi) = memories s := by simp [State.supplyEmulated]

@[simp] theorem memories_retry (s : State) (id : Nat) : memories (s.retry id) = memories s := (rfl)
@[simp] theorem memories_supplyPage (s : State) (a : Access) (d : Word) (poi : Bool) : memories (s.supplyPage a d poi) = memories s := by
  unfold State.supplyPage
  split <;> rfl

@[simp] theorem memories_supplyAcc (s : State) (a : Access) (fail : Bool) (d : Word) (poi : Bool) :
    memories (s.supplyAcc a fail d poi) = memories s := by
  simp only [State.supplyAcc]
  repeat' split
  all_goals simp

@[simp] theorem memories_freeTrap (s : State) (t : Trap) : memories (s.freeTrap t) = memories s := (rfl)
@[simp] theorem memories_modTrap (s : State) (k n : Nat) (f : Trap → Trap) : memories (s.modTrap k n f) = memories s := (rfl)
@[simp] theorem memories_tellHost (s : State) (t : Trap) : memories (s.tellHost t) = memories s := by simp [State.tellHost]
@[simp] theorem memories_enqueueWord (s : State) (c : ChanWord) : memories (s.enqueueWord c) = memories s := (rfl)
@[simp] theorem memories_restartAge (s : State) (i : AgeItem) : memories (s.restartAge i) = memories s := by
  simp only [State.restartAge]
  repeat' split
  all_goals rfl

/-! Sys2Proof/Machine/Control.lean. -/

@[simp] theorem memories_withRecord (s : State) (f : Firing) (bsel : BitVec 4) (disp : BitVec 9) (kind : AccKind) (size : Nat)
    {act : Nat → State} (ha : ∀ x, memories (act x) = memories s) : memories (s.withRecord f bsel disp kind size act) = memories s := by
  simp [State.withRecord, ha]

@[simp] theorem memories_modInvoc (s : State) (i : Invoc) (f : Invoc → Invoc) : memories (s.modInvoc i f) = memories s := (rfl)
@[simp] theorem memories_leave (s : State) (f : Firing) (part : Bool) (vals : List Value) :
    memories (s.leave f part vals) = memories s := by
  simp only [State.leave]
  repeat' split
  all_goals simp

@[simp] theorem memories_leaving (s : State) (h : Hdr) (f : Firing) {act : Firing → State}
    (ha : ∀ f, memories (act f) = memories s) : memories (s.leaving h f act) = memories s := by
  simp only [State.leaving]
  repeat' split
  all_goals simp [ha]

@[simp] theorem memories_gong (s : State) (src cause : Nat) : memories (s.gong src cause) = memories s := by
  simp only [State.gong]
  split
  · rw [memories_withGongAt]
    simp
  · simp

/-! Sys2Proof/Machine/Perform.lean. -/

@[simp] theorem memories_agentTake (s : State) (hpa : Nat) (own dirty : Bool) : memories (s.agentTake hpa own dirty) = memories s := (rfl)
@[simp] theorem memories_busyLines (s : State) (k x n : Nat) : memories (s.busyLines k x n) = memories s := (rfl)
@[simp] theorem memories_keepTile (s : State) (port : Option Nat) (asid ttab tile e : Nat) :
    memories (s.keepTile port asid ttab tile e) = memories s := by
  unfold State.keepTile
  split <;> rfl

@[simp] theorem memories_sendPiece (s : State) (a : Access) (i : Nat) (st : Store) (x : Nat) :
    memories (s.sendPiece a i st x) = memories s := by
  unfold State.sendPiece
  split <;> rfl

theorem memories_readOwn {s : State} {a : Access} {st : Store} {x n v : Nat} {poi : Bool} {t : State × Nat × Bool}
    (h : s.readOwn a st x n v poi = some t) : memories t.1 = memories s := by
  simp only [State.readOwn] at h
  repeat' split at h
  all_goals cases h <;> simp_all

@[simp] theorem memories_hostGets (s : State) (line : Nat) : memories (s.hostGets line) = memories s := (rfl)
@[simp] theorem memories_hostDrops (s : State) (line : Nat) : memories (s.hostDrops line) = memories s := (rfl)

/-! Sys2Proof/Machine/Stream.lean. -/

theorem memories_scanLanes {t : Ty} {ops : Bool} {rm : Rnd} {d : Word} {kctx : Nat} {send : Stream → Nat → State → State}
    (hs : ∀ x k s, memories (send x k s) = memories s) (n k : Nat) (x : Stream) (s : State) :
    memories (scanLanes t ops rm d kctx send n k x s).2 = memories s := by
  induction n generalizing k x s with
  | zero => rfl
  | succ n ih => simp [scanLanes, ih, hs]

@[simp] theorem memories_truncate (s : State) (h : Hdr) (f : Firing) (w : Nat) (longer : Slot) (p : DWord) (dp j : Nat) (x : Stream) :
    memories (truncate s h f w longer p dp j x) = memories s := by
  unfold truncate
  dsimp only
  split <;> simp

@[simp] theorem memories_rowLanes (t : Ty) (d : Word) (one : Word → Val → Nat × Nat) (kctx n k : Nat) (w : Word) (s : State) :
    memories (rowLanes t d one kctx n k w s).2 = memories s := by
  induction n generalizing k w s with
  | zero => rfl
  | succ n ih => simp [rowLanes, ih]

@[simp] theorem memories_rdlyRow (s : State) (f : Firing) (b : Tok) (p : DWord) (dp r : Nat) (x : Stream) :
    memories (rdlyRow s f b p dp r x) = memories s := by
  simp only [rdlyRow]
  repeat' split
  all_goals simp

@[simp] theorem memories_rdlyElem (s : State) (h : Hdr) (f : Firing) (a v : Tok) (rt j : Nat) (x : Stream) :
    memories (rdlyElem s h f a v rt j x) = memories s := by simp [rdlyElem]

/-! Sys2Proof/Machine/Match.lean. -/

@[simp] theorem memories_enqueue (s : State) (site : Site) (sl : Slot) (t : Tok) : memories (s.enqueue site sl t) = memories s := (rfl)
@[simp] theorem memories_dequeue (s : State) (site : Site) (sl : Slot) : memories (s.dequeue site sl) = memories s := (rfl)
theorem memories_needFrame {s u : State} {site : Site} {sl : Slot} {t : DWord} {d : Nat} (h : s.needFrame site sl t d = some u) :
    memories u = memories s := by
  unfold State.needFrame at h
  split at h
  · cases h; rfl
  · obtain ⟨b, -, rfl⟩ := Option.map_eq_some_iff.1 h
    rfl

@[simp] theorem memories_setTime (s : State) (h : Holder) (blk key at_ : Nat) : memories (s.setTime h blk key at_) = memories s := (rfl)
@[simp] theorem memories_handled (s : State) (site : Site) (sl : Slot) (n : Nat) : memories (s.handled site sl n) = memories s := (rfl)
@[simp] theorem memories_openStream (s : State) (site : Site) (sl : Slot) (t : Tok) : memories (s.openStream site sl t) = memories s := by
  simp only [State.openStream]
  repeat' split
  all_goals simp

@[simp] theorem memories_dupToken (s : State) (site : Site) (sl : Slot) (t : Tok) (n : Nat) :
    memories (s.dupToken site sl t n) = memories s := by simp [State.dupToken]

/-! Sys2Proof/Machine/Records.lean. -/

@[simp] theorem memories_enqueueCmd (s : State) (a : Access) (eng kind recAt : Nat) (r : List Byte) :
    memories (s.enqueueCmd a eng kind recAt r) = memories s := by
  unfold State.enqueueCmd
  dsimp only
  split <;> rfl

/-! Sys2Proof/Machine/Responses.lean. -/

@[simp] theorem memories_sendWord (s : State) (a : Access) (f : Firing) (h : Hdr) (t2 : Option Target) (d : Nat) :
    memories (s.sendWord a f h t2 d) = memories s := by simp [State.sendWord]

@[simp] theorem memories_sendPair (s : State) (a : Access) (f : Firing) (h : Hdr) (t2 : Option Target) (d : Nat) :
    memories (s.sendPair a f h t2 d) = memories s := by simp [State.sendPair]

@[simp] theorem memories_issuerTrap (s : State) (w : Issuer) (a : Access) (c : Cause) : memories (s.issuerTrap w a c) = memories s := by
  simp only [State.issuerTrap]
  repeat' split
  all_goals simp

@[simp] theorem memories_issuerGoes (s : State) (w : Issuer) (a : Access) : memories (s.issuerGoes w a) = memories s := by
  unfold State.issuerGoes
  split <;> simp

@[simp] theorem memories_engineResponse (s : State) (w : Issuer) (a : Access) (kind recAt : Nat) :
    memories (s.engineResponse w a kind recAt) = memories s := by
  simp only [State.engineResponse]
  repeat' split
  all_goals simp

@[simp] theorem memories_codepub (s : State) (k va n : Nat) : memories (s.codepub k va n) = memories s := by
  unfold State.codepub
  split <;> rfl

/-! Sys2Proof/Machine/Blocks.lean. -/

@[simp] theorem memories_fallbacks (s : State) (n : Nat) : memories (s.fallbacks n) = memories s := by
  unfold State.fallbacks
  split <;> rfl

@[simp] theorem memories_configure (s : State) (l : Loaded) (st : BayState) :
    memories (s.configure l st) = memories s := by simp [State.configure]

@[simp] theorem memories_cacheBlock (s : State) (l : Loaded) : memories (s.cacheBlock l) = memories s := (rfl)
@[simp] theorem memories_fetchTrap (s : State) (f : Fetch) (c : Cause) :
    memories (s.fetchTrap f c) = memories s := by simp [State.fetchTrap]

@[simp] theorem memories_putFetch (s : State) (f g : Fetch) : memories (s.putFetch f g) = memories s := (rfl)
@[simp] theorem memories_loaded (s : State) (f : Fetch) (l : Loaded) : memories (s.loaded f l) = memories s := by
  unfold State.loaded
  split
  · exact memories_configure ..
  · rfl

@[simp] theorem memories_trapPass (s : State) (f : Firing) (nul eos rol : Bool) :
    memories (s.trapPass f nul eos rol) = memories s := by simp [State.trapPass]

/-! Sys2Proof/Machine/Strands.lean. -/

@[simp] theorem memories_drain (s : State) : memories (s.drain) = memories s := (rfl)
@[simp] theorem memories_badDelivery (s : State) (d : Delivery) (c : Cause) : memories (s.badDelivery d c) = memories s := by
  simp only [State.badDelivery]
  repeat' split
  all_goals simp

@[simp] theorem memories_startFetch (s : State) (h : Holder) (k v blk : Nat) : memories (s.startFetch h k v blk) = memories s := (rfl)
@[simp] theorem memories_deliverEntry (s : State) (h : Holder) (blk : Nat) (x : Nat × Tok) :
    memories (s.deliverEntry h blk x) = memories s := by
  unfold State.deliverEntry
  split <;> rfl

@[simp] theorem memories_begin (s : State) (i : Invoc) : memories (s.begin i) = memories s := by simp [State.begin]
@[simp] theorem memories_fetchAgain (s : State) (h : Holder) : memories (s.fetchAgain h) = memories s := by
  simp only [State.fetchAgain]
  repeat' split
  all_goals simp

theorem memories_makeRoom {s t : State} {h : Holder} {n fuel : Nat} (hm : s.makeRoom h n fuel = some t) : memories t = memories s := by
  induction fuel generalizing s with
  | zero => cases hm
  | succ fuel ih =>
    simp only [State.makeRoom] at hm
    split at hm
    · cases hm; rfl
    · split at hm
      · exact (ih hm).trans (memories_modFab ..)
      · cases hm

@[simp] theorem memories_placedStrands (s : State) : memories (s.placedStrands) = memories s := (rfl)
@[simp] theorem memories_answerKdone (s : State) (i : Inst) (w : Wait) :
    memories (s.answerKdone i w) = memories s := by simp [State.answerKdone]

/-! Sys2Proof/Machine/Paging.lean. -/

@[simp] theorem memories_modFault (s : State) (die fid : Nat) (f : PageFault → PageFault) :
    memories (s.modFault die fid f) = memories s := (rfl)

@[simp] theorem memories_pageWait (s : State) (p : PageFault) (c : Cause) (v idx blk : Nat) (tag : DWord) (dep : Nat) :
    memories (s.pageWait p c v idx blk tag dep) = memories s := by simp [State.pageWait]

@[simp] theorem memories_startInv (s : State) : memories (s.startInv) = memories s := by
  unfold State.startInv
  split <;> rfl

@[simp] theorem memories_pushInv (s : State) (c : InvCmd) : memories (s.pushInv c) = memories s := by
  unfold State.pushInv
  split <;> rfl

@[simp] theorem memories_invCommand (s : State) (kind : Nat) : memories (s.invCommand kind) = memories s := by
  simp only [State.invCommand]
  repeat' split
  all_goals simp

/-! Sys2Proof/Machine/Cores.lean. -/

@[simp] theorem memories_coreIssue (s : State) (id : CoreId) (a : Access) : memories (s.coreIssue id a) = memories s := (rfl)
@[simp] theorem memories_coreVa (s : State) (id : CoreId) (x : Core) (bsel : BitVec 4) (disp : Int) (rs1 : BitVec 5) (kind : AccKind)
    (size align : Nat) {act : Nat → State} (ha : ∀ x, memories (act x) = memories s) :
    memories (s.coreVa id x bsel disp rs1 kind size align act) = memories s := by
  simp only [State.coreVa]
  repeat' split
  all_goals simp [ha]

@[simp] theorem memories_pushing (s : State) (id : CoreId) (x : Core) (q idx : Nat) {act : Binding → DWord → Nat → State}
    (ha : ∀ b t d, memories (act b t d) = memories s) : memories (s.pushing id x q idx act) = memories s := by
  simp only [State.pushing]
  repeat' split
  all_goals simp [ha]

@[simp] theorem memories_addEdge (s : State) (id : CoreId) (x : Core) (q : Nat) (b : Binding) (k : Option Tok) :
    memories (s.addEdge id x q b k) = memories s := (rfl)

@[simp] theorem memories_popEdge (s : State) (barn q : Nat) : memories (s.popEdge barn q) = memories s := (rfl)
@[simp] theorem memories_setPopm (s : State) (id : CoreId) (v : Word) : memories (s.setPopm id v) = memories s := (rfl)
@[simp] theorem memories_coreCount (s : State) (id : CoreId) (a : Access) (eq : Option Nat) (n : Nat) (g : Core → Core) :
    memories (s.coreCount id a eq n g) = memories s := by
  unfold State.coreCount
  split <;> rfl

@[simp] theorem memories_coreKey (s : State) (id : CoreId) (x : Core) (desc : BitVec 6) (rs2 : BitVec 5) {act : Nat → Nat → State}
    (ha : ∀ t g, memories (act t g) = memories s) : memories (s.coreKey id x desc rs2 act) = memories s := by
  simp only [State.coreKey]
  repeat' split
  all_goals simp [ha]

@[simp] theorem memories_edgeTrap (s : State) (e : EqTok) (c : Cause) : memories (s.edgeTrap e c) = memories s := by simp [State.edgeTrap]
@[simp] theorem memories_dropEdge (s : State) (e : EqTok) : memories (s.dropEdge e) = memories s := (rfl)
@[simp] theorem memories_edgeRegion (s : State) (e : EqTok) (k : Tok) : memories (s.edgeRegion e k) = memories s := by
  simp only [State.edgeRegion]
  repeat' split
  all_goals simp

@[simp] theorem memories_badProgram (s : State) (i : Inst) (c : Cause) : memories (s.badProgram i c) = memories s := by
  unfold State.badProgram
  split <;> simp

/-! Sys2Proof/Machine/Launch.lean. -/

@[simp] theorem memories_overrun (s : State) (k q v : Nat) : memories (s.overrun k q v) = memories s := by simp [State.overrun]
@[simp] theorem memories_directTrap (s : State) (k q i at_ : Nat) (c : Cause) :
    memories (s.directTrap k q i at_ c) = memories s := by simp [State.directTrap]

@[simp] theorem memories_countTurns (s : State) (first : Option Inst) : memories (s.countTurns first) = memories s := (rfl)
@[simp] theorem memories_endPreempt (s : State) : memories (s.endPreempt) = memories s := by
  simp only [State.endPreempt]
  repeat' split
  all_goals rfl

/-! Sys2Proof/Machine/Park.lean. -/

@[simp] theorem memories_move (s : State) (k : Nat) (m : Move) : memories (s.move k m) = memories s := (rfl)

/-! Sys2Proof/Machine/Switch.lean. -/

@[simp] theorem memories_startStop (s : State) (k : Nat) : memories (s.startStop k) = memories s := by
  unfold State.startStop
  split <;> rfl

@[simp] theorem memories_refuseCommand (s : State) (k : Nat) : memories (s.refuseCommand k) = memories s := (rfl)
@[simp] theorem memories_modStop (s : State) (k : Nat) (f : Stop → Stop) : memories (s.modStop k f) = memories s := (rfl)
@[simp] theorem memories_abandonBarrier (s : State) (a : Access) : memories (s.abandonBarrier a) = memories s := by
  unfold State.abandonBarrier
  split <;> rfl

@[simp] theorem memories_takeOut (s : State) (k : Nat) : memories (s.takeOut k) = memories s := memories_scrubLeft ..
theorem memories_putRegionBack {s : State} {x : Saved} {r : Region} {t : State} (h : s.putRegionBack x r = some t) :
    memories t = memories s := by
  simp only [State.putRegionBack] at h
  repeat' split at h
  all_goals cases h <;> simp_all

theorem memories_putRegionsBack {s t : State} {x : Saved} {l : List Region} (h : s.putRegionsBack x l = some t) :
    memories t = memories s := by
  induction l generalizing s with
  | nil => cases h; rfl
  | cons r l ih =>
    unfold State.putRegionsBack at h
    split at h
    · next u hu => rw [ih h, memories_putRegionBack hu]
    · cases h

@[simp] theorem memories_placeBack (s : State) (x : Saved) : memories (s.placeBack x) = memories s := (rfl)
@[simp] theorem memories_fetchRegions (s : State) (k : Nat) : memories (s.fetchRegions k) = memories s := (rfl)
@[simp] theorem memories_emulateAgain (s : State) (t : Trap) : memories (s.emulateAgain t) = memories s := by
  simp only [State.emulateAgain]
  repeat' split
  all_goals simp

/-! Sys2Proof/Machine/Tasks.lean. -/

@[simp] theorem memories_modTask (s : State) (id : Nat) (f : Task → Task) : memories (s.modTask id f) = memories s := (rfl)
@[simp] theorem memories_taskGoes (s : State) (t : Task) (step : TaskStep) : memories (s.taskGoes t step) = memories s := (rfl)
@[simp] theorem memories_taskMmac (s : State) (t : Task) (x : Region) : memories (s.taskMmac t x) = memories s := by
  unfold State.taskMmac
  split <;> simp

@[simp] theorem memories_taskDrain (s : State) (t : Task) (x : Region) :
    memories (s.taskDrain t x) = memories s := by simp [State.taskDrain]

@[simp] theorem memories_taskPublish (s : State) (t : Task) : memories (s.taskPublish t) = memories s := by
  unfold State.taskPublish
  split <;> rfl

/-! Sys2Proof/Machine/Engines.lean. -/

@[simp] theorem memories_engineMet (s : State) (c : Cmd) (g : EngGot) : memories (s.engineMet c g) = memories s := by
  unfold State.engineMet
  split <;> rfl

@[simp] theorem memories_replace (s : State) (old size : Nat) : memories (s.replace old size) = memories s := (rfl)
@[simp] theorem memories_endCmd (s : State) (c : Cmd) : memories (s.endCmd c) = memories s := by
  unfold State.endCmd
  split <;> rfl

@[simp] theorem memories_engineFault (s : State) (c : Cmd) : memories (s.engineFault c) = memories s := by
  simp only [State.engineFault]
  split
  · rfl
  · rw [memories_uncount, memories_modCmd]
    exact memories_unitTrap ..

@[simp] theorem memories_collArrive (s : State) (r : RankArrival) : memories (s.collArrive r) = memories s := by
  unfold State.collArrive
  dsimp only
  split <;> rfl

@[simp] theorem memories_routesChanged (s : State) : memories (s.routesChanged) = memories s := (rfl)
@[simp] theorem memories_setPort (s : State) (x : Port) : memories (s.setPort x) = memories s := (rfl)
theorem memories_sendChunk {s : State} {pkg : Nat} {c : Chunk} {t : State} (h : s.sendChunk pkg c = some t) : memories t = memories s := by
  simp only [State.sendChunk] at h
  repeat' split at h
  all_goals cases h <;> simp_all

/-! Sys2Proof/Machine/Links.lean. -/

@[simp] theorem memories_takeChunk (s : State) (c : Chunk) : memories (s.takeChunk c) = memories s := by
  unfold State.takeChunk
  split <;> rfl

@[simp] theorem memories_portDown (s : State) (p : Nat) : memories (s.portDown p) = memories s := by simp [State.portDown]
@[simp] theorem memories_resend (p : Nat) (l : List Sent) (s : State) : memories (resend p l s) = memories s := by
  induction l generalizing s with
  | nil => rfl
  | cons x l ih =>
    unfold resend
    split
    · next t ht => rw [ih, memories_setPort, memories_sendChunk ht]
    · exact ih s

/-! Sys2Proof/Machine/Images.lean. -/

@[simp] theorem memories_flushStore (s : State) : memories (s.flushStore) = memories s := (rfl)
@[simp] theorem memories_loaderMet (s : State) (g : UnitGot) : memories (s.loaderMet g).1 = memories s := by
  unfold State.loaderMet
  split <;> rfl

@[simp] theorem memories_evictRoom (n fuel : Nat) (s : State) : memories (evictRoom n fuel s) = memories s := by
  induction fuel generalizing s with
  | zero => rfl
  | succ fuel ih =>
    unfold evictRoom
    split
    · rfl
    · split
      · rfl
      · rw [ih]; rfl

@[simp] theorem memories_insertImage (s : State) (key img : List Byte) : memories (s.insertImage key img).1 = memories s := by
  unfold State.insertImage
  split
  · rfl
  · exact memories_evictRoom ..

@[simp] theorem memories_lookupImage (s : State) (key : List Byte) : memories (s.lookupImage key).1 = memories s := by
  simp only [State.lookupImage]
  repeat' split
  all_goals rfl

@[simp] theorem memories_translated (s : State) (b : List Byte) (dst : Nat) : memories (s.translated b dst).1 = memories s := by
  have hl := memories_lookupImage s (s.storeKey b)
  unfold State.translated
  split
  · next t img he => rw [he] at hl; exact hl
  · next t he =>
    rw [he] at hl
    split
    · exact hl
    · split
      · exact hl
      · simpa using hl

/-! Sys2Proof/Machine/Belfry.lean. -/

@[simp] theorem memories_belEnds (s : State) (res : Nat) : memories (s.belEnds res) = memories s := (rfl)
@[simp] theorem memories_installPatch (s : State) (b : List Byte) : memories (s.installPatch b) = memories s :=
  ((memories_setField ..).trans (memories_setReg ..)).trans rfl
@[simp] theorem memories_fwEnds (s : State) (res : Nat) : memories (s.fwEnds res) = memories s := (rfl)
@[simp] theorem memories_installFw (s : State) (b : List Byte) : memories (s.installFw b) = memories s := (rfl)

/-! Sys2Proof/Machine/Freeze.lean. -/

@[simp] theorem memories_freeze (s : State) (p cause cls loc : Nat) : memories (s.freeze p cause cls loc) = memories s := by
  simp only [State.freeze]
  repeat' split
  all_goals simp

@[simp] theorem memories_freezeStop (s : State) (k : Nat) : memories (s.freezeStop k) = memories s := by
  unfold State.freezeStop
  split <;> rfl

@[simp] theorem memories_ungate (s : State) (p : Nat) : memories (s.ungate p) = memories s := (rfl)
@[simp] theorem memories_thaw (s : State) (k : Nat) : memories (s.thaw k) = memories s := by
  simp only [State.thaw]
  repeat' split
  all_goals rfl

/-! Sys2Proof/Machine/Service.lean. -/

@[simp] theorem memories_writePart (s : State) (r : Reg) (v : DWord) (part : Nat) : memories (s.writePart r v part) = memories s := (rfl)
@[simp] theorem memories_writeGong (s : State) (v : DWord) (part : Nat) : memories (s.writeGong v part) = memories s := by
  unfold State.writeGong
  split <;> rfl

@[simp] theorem memories_resumeSlot (s : State) (k : Nat) : memories (s.resumeSlot k) = memories s := by
  unfold State.resumeSlot
  split <;> rfl

@[simp] theorem memories_retireFrame (s : State) (f : Nat) : memories (s.retireFrame f) = memories s := (rfl)

/-! Sys2Proof/Machine/Boot.lean. -/

@[simp] theorem memories_setPhase (s : State) (n : Nat) : memories (s.setPhase n) = memories s := (rfl)
@[simp] theorem memories_bootFirmware (s : State) : memories (s.bootFirmware) = memories s := by
  unfold State.bootFirmware
  split <;> simp

@[simp] theorem memories_bootBelfry (s : State) : memories (s.bootBelfry) = memories s := by
  unfold State.bootBelfry
  split <;> simp

@[simp] theorem memories_bootTrain (s : State) : memories (s.bootTrain) = memories s := by
  rw [State.bootTrain, memories_setPhase, memories_foldState fun _ _ => memories_setField .., memories_setReg]
  rfl
@[simp] theorem memories_bootStore (s : State) : memories (s.bootStore) = memories s := (rfl)
@[simp] theorem memories_bootReady (s : State) : memories (s.bootReady) = memories s := (rfl)
@[simp] theorem memories_reply (s : State) (r : DoeReply) : memories (s.reply r) = memories s := (rfl)

/-! Sys2Proof/Machine/Memory.lean. -/

@[simp] theorem memories_scratchStore (s : State) (h : Hdr) (sc : Scope) (once : Bool) (t2 : Option Target) (disp : BitVec 13) (n d : Nat)
    (poi orderIn : Bool) (f : Firing) : memories (scratchStore s h sc once t2 disp n d poi orderIn f) = memories s := by simp [scratchStore]

/-! Sys2Proof/Machine/Readback.lean. -/

@[simp] theorem memories_queueLoad (s : State) (v : DWord) : memories (s.queueLoad v) = memories s := by
  unfold State.queueLoad
  split <;> rfl

@[simp] theorem memories_writePlain (s : State) (r : Reg) (v : DWord) (part : Nat) : memories (s.writePlain r v part) = memories s := by
  simp only [State.writePlain]
  repeat' split
  all_goals simp

@[simp] theorem memories_writeMask (s : State) (a : Nat) (v : DWord) : memories (s.writeMask a v) = memories s := by
  unfold State.writeMask
  dsimp only
  split <;> rfl

/-! Sys2Proof/Machine/Fetch.lean. -/

@[simp] theorem memories_pauseAges (s : State) (dt : Nat) : memories (s.pauseAges dt) = memories s := (rfl)
@[simp] theorem memories_markHeads (s : State) : memories (s.markHeads) = memories s := (rfl)
@[simp] theorem memories_tick (s : State) (dt : Nat) : memories (s.tick dt) = memories s := by
  simp only [State.tick]
  repeat' split
  all_goals rfl

@[simp] theorem memories_advanceFrames (s : State) (h : Holder) : memories (s.advanceFrames h) = memories s := (rfl)
@[simp] theorem memories_focus (s : State) (x : Machine.PSet) : memories (s.focus x) = memories s := (rfl)
@[simp] theorem memories_afterFire (s : State) (x : Machine.PSet) : memories (s.afterFire x) = memories s := by
  simp only [State.afterFire]
  cases x.site.holder.barn? <;> (repeat' split) <;> simp

@[simp] theorem memories_markHeld (s : State) (x : Machine.PSet) : memories (s.markHeld x) = memories s := (rfl)
@[simp] theorem memories_idle (s : State) (x : Machine.PSet) : memories (s.idle x) = memories s := (rfl)

end Sys2Proof.Laws
end

section
/-! SUPPORT. Memories in canonical form, and how the operations that write them keep it. -/

namespace Sys2Proof.Laws

open Sys2Proof Sys2Proof.Machine Sys2Proof.Claims

/-- Memories in canonical form. -/
def Memories.canonical (m : Memories) : Prop :=
  Memory.wf m.dmem = true ∧ Memory.wf m.hmem = true ∧ Memory.wf m.scr = true ∧ Memory.wf m.wbuf = true

theorem memWf_iff {s : State} : s.memWf ↔ (memories s).canonical := Iff.rfl

@[simp] theorem canonical_ite {c : Prop} [Decidable c] {m m' : Memories} (h : m.canonical) (h' : m'.canonical) :
    (if c then m else m').canonical := by
  split
  · exact h
  · exact h'

/-- The state that an operation answers beside a value. -/
theorem canonical_of_eq {α : Type} {p : State × α} {t : State} {x : α} (h : (memories p.1).canonical) (e : p = (t, x)) :
    (memories t).canonical := by
  rw [e] at h
  exact h

/-- An outcome whose next state, if it has one, keeps its memories in canonical form. -/
def Sound (o : Host.Outcome State Fault Refusal) : Prop := ∀ t, o = .next t → (memories t).canonical

@[simp] theorem sound_next {s : State} : Sound (.next s) ↔ (memories s).canonical :=
  ⟨fun h => h s rfl, fun h _ e => by cases e; exact h⟩

@[simp] theorem sound_fault {r : Fault} : Sound (.fault r) := fun _ e => by cases e

@[simp] theorem canonical_foldState {α : Type} {f : State → α → State} (hf : ∀ s x, (memories s).canonical → (memories (f s x)).canonical)
    {s : State} (hc : (memories s).canonical) (l : List α) : (memories (foldState f s l)).canonical := by
  induction l generalizing s with
  | nil => exact hc
  | cons x l ih => exact ih (hf s x hc)

@[simp] theorem sound_refused {r : Refusal} : Sound (.refused r) := fun _ e => by cases e

/-! Sys2Proof/Machine/State.lean. -/

/-! Sys2Proof/Machine/Ops.lean. -/

theorem canonical_setCells {s : State} (hc : (memories s).canonical) (st : Store) {l : List Host.Cell} (hl : Memory.wf l = true) :
    (memories (s.setCells st l)).canonical := setCells_memWf hc hl

@[simp] theorem canonical_writeB {s : State} (hc : (memories s).canonical) (st : Store) (a : Nat) (b : List Byte) :
    (memories (s.writeB st a b)).canonical := writeB_memWf st a b hc

@[simp] theorem canonical_writeN {s : State} (hc : (memories s).canonical) (st : Store) (a n v : Nat) :
    (memories (s.writeN st a n v)).canonical := writeN_memWf st a n v hc

@[simp] theorem canonical_setFull {s : State} (hc : (memories s).canonical) (g : Nat) (v : Bool) :
    (memories (s.setFull g v)).canonical := hc

@[simp] theorem canonical_setPoisons {s : State} (hc : (memories s).canonical) (st : Store) (l : List Nat) :
    (memories (s.setPoisons st l)).canonical := by cases st <;> exact hc

@[simp] theorem canonical_setPoison {s : State} (hc : (memories s).canonical) (st : Store) (a : Nat) (v : Bool) :
    (memories (s.setPoison st a v)).canonical := by simp [State.setPoison, hc]

/-! Sys2Proof/Machine/Errors.lean. -/

theorem canonical_uncorrectedBy {s : State} (hc : (memories s).canonical) (e : ErrEntry) (n : Nat) {mark : State → State}
    (hm : ∀ t, (memories t).canonical → (memories (mark t)).canonical) : (memories (s.uncorrected e n mark)).canonical := by
  have hh : (memories (s.errHook e.cls).1).canonical := by simpa using hc
  unfold State.uncorrected
  split
  · next he =>
    have ht := canonical_of_eq hh he
    split
    · simpa using ht
    · exact hm _ (by simpa using ht)
  · next he => exact hm _ (by simpa using canonical_of_eq hh he)

@[simp] theorem canonical_uncorrected {s : State} (hc : (memories s).canonical) (e : ErrEntry) (n : Nat) (st : Store) (x : Nat) :
    (memories (s.uncorrected e n fun s => s.setPoison st x true)).canonical :=
  canonical_uncorrectedBy hc e n fun _ h => canonical_setPoison h ..

@[simp] theorem canonical_eccAt {s : State} (hc : (memories s).canonical) (st : Store) (x k : Nat) :
    (memories (s.eccAt st x k)).canonical := by
  have taken : ∀ a, (memories { s with arg := a }).canonical := fun _ => hc
  unfold State.eccAt
  split
  · exact hc
  · dsimp only
    repeat' split
    all_goals simp [taken]

/-! Sys2Proof/Machine/Translate.lean. -/

@[simp] theorem canonical_writePa {s : State} (hc : (memories s).canonical) (pa : Nat) (b : List Byte) :
    (memories (s.writePa pa b)).canonical := by
  unfold State.writePa
  split <;> simp [hc]

@[simp] theorem canonical_writePaN {s : State} (hc : (memories s).canonical) (pa n v : Nat) :
    (memories (s.writePaN pa n v)).canonical := by simp [State.writePaN, hc]

@[simp] theorem canonical_mirrorGather {s : State} (hc : (memories s).canonical) (taken : Bool) (g : Gather) :
    (memories (s.mirrorGather taken g)).canonical := by
  simp only [State.mirrorGather]
  repeat' split
  all_goals simp [hc]

@[simp] theorem canonical_mirrorKey {s : State} (hc : (memories s).canonical) (k v blk : Nat) (t : DWord) (d : Nat) :
    (memories (s.mirrorKey k v blk t d)).canonical := canonical_foldState (fun _ _ h => canonical_mirrorGather h ..) hc _

@[simp] theorem canonical_abort {s : State} (hc : (memories s).canonical) (i : Invoc) (fid : Option (Nat × Nat)) :
    (memories (s.abort i fid)).canonical := by
  simp only [State.abort, memories_promoteAll]
  refine canonical_mirrorKey ?_ ..
  exact hc

@[simp] theorem canonical_retryFault {s : State} (hc : (memories s).canonical) (die fid : Nat) :
    (memories (s.retryFault die fid)).canonical := by
  simp only [State.retryFault]
  refine canonical_foldState (fun _ _ h => canonical_mirrorKey h ..) ?_ _
  exact hc

/-! Sys2Proof/Machine/Sheaf.lean. -/

@[simp] theorem canonical_mirrorOvf {s : State} (hc : (memories s).canonical) (k : Nat) : (memories (s.mirrorOvf k)).canonical := by
  simp only [State.mirrorOvf]
  split
  · exact hc
  · exact canonical_foldState (fun _ _ h => canonical_writePa h ..) (canonical_foldState (fun _ _ h => canonical_writePa h ..) hc _) _

@[simp] theorem canonical_freeWaiter {s : State} (hc : (memories s).canonical) (id : Nat) : (memories (s.freeWaiter id)).canonical := by
  refine canonical_mirrorOvf ?_ _
  exact hc

theorem canonical_newWaiter {s : State} (hc : (memories s).canonical) {w : Waiter} {u : State × Nat} (he : s.newWaiter w = some u) :
    (memories u.1).canonical := by
  simp only [State.newWaiter] at he
  split at he
  · cases he
  · cases he
    refine canonical_mirrorOvf ?_ _
    split
    · exact hc
    · exact hc

@[simp] theorem canonical_graphStrands {s : State} (hc : (memories s).canonical) : (memories s.graphStrands).canonical := by
  simp only [State.graphStrands]
  refine canonical_foldState (fun _ _ h => canonical_freeWaiter h _) ?_ _
  exact canonical_foldState (f := fun s (i : Inst) => s.freshContext i.k) (fun _ _ h => by simpa using h) hc _

@[simp] theorem canonical_waiterDone {s : State} (hc : (memories s).canonical) (w : Waiter) : (memories (s.waiterDone w)).canonical := by
  simp only [State.waiterDone]
  exact canonical_graphStrands hc

@[simp] theorem canonical_judge {s : State} (hc : (memories s).canonical) (id : Nat) : (memories (s.judge id)).canonical := by
  unfold State.judge
  split <;> simp [hc]

@[simp] theorem canonical_awaited {s : State} (hc : (memories s).canonical) (w : Waiter) : (memories (s.awaited w)).canonical := by
  simp only [State.awaited]
  repeat' split
  all_goals simp [hc]

theorem canonical_awaitStale {s : State} (hc : (memories s).canonical) (w : Waiter) (found : Nat) {trapCore : CoreId → Cause → State → State}
    (ht : ∀ id c s, memories (trapCore id c s) = memories s) : (memories (s.awaitStale w found trapCore)).canonical := by
  simp only [State.awaitStale]
  repeat' split
  all_goals simp [hc, ht]

@[simp] theorem canonical_publishTo {s : State} (hc : (memories s).canonical) (p : Publish) (w : Waiter) :
    (memories (publishTo p s w)).canonical := by
  have stale := canonical_awaitStale hc w p.gen (trapCore := fun id c s => s.coreTrapAt id c) fun _ _ _ => memories_coreTrapAt ..
  unfold publishTo
  split
  · exact hc
  · dsimp only
    repeat' split
    all_goals simp [hc, stale]

@[simp] theorem canonical_applyPublish {s : State} (hc : (memories s).canonical) (p : Publish) :
    (memories (s.applyPublish p)).canonical := by
  unfold State.applyPublish
  split
  · simpa using hc
  · next t ht =>
    have ht : (memories t).canonical := memories_needSheaf ht ▸ hc
    split
    · simpa using ht
    · dsimp only
      split
      · simpa using ht
      · split
        · simpa using ht
        · rw [memories_published]
          refine canonical_foldState (fun _ _ h => canonical_publishTo h ..) ?_ _
          exact ht

@[simp] theorem canonical_fallBack {s : State} (hc : (memories s).canonical) (w : Waiter) : (memories (s.fallBack w)).canonical := by
  simp only [State.fallBack]
  refine canonical_freeWaiter ?_ _
  rw [memories_fallback]
  exact hc

@[simp] theorem canonical_register {s : State} (hc : (memories s).canonical) (w : Waiter) (n : Nat) :
    (memories (s.register w n)).canonical := by
  unfold State.register
  dsimp only
  split
  · split <;> simp [hc]
  · next t ht =>
    have ht : (memories t).canonical := memories_needSheaf ht ▸ hc
    split
    · exact ht
    · split
      · repeat' split
        · simp [ht]
        · exact canonical_awaitStale (by simpa using ht) _ _ fun _ _ _ => memories_coreTrapAt ..
        · exact ht
      · refine canonical_judge ?_ _
        split
        · simpa using ht
        · exact ht

theorem canonical_awaitRecord {s : State} (hc : (memories s).canonical) {k v recAt pool tid tile gen : Nat} {u : State × Nat}
    (he : s.awaitRecord k v recAt pool tid tile gen = some u) : (memories u.1).canonical := canonical_newWaiter hc he

/-! Sys2Proof/Machine/Units.lean. -/

@[simp] theorem canonical_unitAt {s : State} (hc : (memories s).canonical) (die k va : Nat) (n : Need) (src : Source) :
    (memories (s.unitAt die k va n src).1).canonical := by
  have ht : (memories (s.translate die src.port k va n).1).canonical := by simpa using hc
  unfold State.unitAt
  split
  · next e =>
    have ht := canonical_of_eq ht e
    split
    · exact ht
    · exact canonical_eccAt ht ..
  · next e => exact canonical_of_eq ht e
  · next e => exact canonical_of_eq ht e
  · next e =>
    have ht := canonical_of_eq ht e
    split
    · exact ht
    · simpa using ht
  · next e => 
    have ht := canonical_of_eq ht e
    split <;> exact ht

@[simp] theorem canonical_unitReadN (die k v : Nat) (need : Need) (src : Source) (r va n : Nat) {s : State}
    (hc : (memories s).canonical) : (memories (unitReadN die k v need src r va n s).1).canonical := by
  induction r generalizing va n s with
  | zero => exact hc
  | succ r ih =>
    have ht := canonical_unitAt hc die k va need src
    unfold unitReadN
    split
    · exact hc
    · dsimp only
      split
      · next e => exact canonical_of_eq ht e
      · next t st a e =>
        have hr := ih (va + min n (4096 - va % 4096)) (n - min n (4096 - va % 4096)) (canonical_of_eq ht e)
        split
        · next e' => simpa using canonical_of_eq hr e'
        · exact hr

@[simp] theorem canonical_unitRead {s : State} (hc : (memories s).canonical) (die k v va n : Nat) (src : Source) :
    (memories (s.unitRead die k v va n src).1).canonical := by simp [State.unitRead, hc]

@[simp] theorem canonical_unitFetch {s : State} (hc : (memories s).canonical) (die k v va n : Nat) (src : Source) :
    (memories (s.unitFetch die k v va n src).1).canonical := by simp [State.unitFetch, hc]

@[simp] theorem canonical_setPoisonIn (st : Store) (v : Bool) (n u : Nat) {s : State} (hc : (memories s).canonical) :
    (memories (setPoisonIn st v n u s)).canonical := by
  induction n generalizing u s with
  | zero => exact hc
  | succ n ih => exact ih (u + 1) (canonical_setPoison hc ..)

@[simp] theorem canonical_storeBytes {s : State} (hc : (memories s).canonical) (st : Store) (a : Nat) (b : List Byte) (poi : Bool) :
    (memories (s.storeBytes st a b poi)).canonical := by
  simp only [State.storeBytes]
  repeat' split
  all_goals simp [hc]

@[simp] theorem canonical_unitWriteN (die k v : Nat) (src : Source) (poi : Bool) (r va : Nat) (b : List Byte) {s : State}
    (hc : (memories s).canonical) : (memories (unitWriteN die k v src poi r va b s).1).canonical := by
  induction r generalizing va b s with
  | zero => exact hc
  | succ r ih =>
    have ht := canonical_unitAt hc die k va { w := true } src
    unfold unitWriteN
    split
    · exact hc
    · dsimp only
      split
      · next e => exact canonical_of_eq ht e
      · next e => exact ih _ _ (by simpa using canonical_storeBytes (canonical_of_eq ht e) ..)

@[simp] theorem canonical_unitWrite {s : State} (hc : (memories s).canonical) (die k v va : Nat) (b : List Byte) (poi : Bool)
    (src : Source) : (memories (s.unitWrite die k v va b poi src).1).canonical := by simp [State.unitWrite, hc]

@[simp] theorem canonical_sysWrite {s : State} (hc : (memories s).canonical) (die k v va : Nat) (b : List Byte) (src : Source) :
    (memories (s.sysWrite die k v va b src).1).canonical := by
  have ht := canonical_unitAt hc die k va { w := true } src
  unfold State.sysWrite
  split
  · next e => exact canonical_of_eq ht e
  · next e =>
    have ht := canonical_of_eq ht e
    split
    · next hu => exact memories_sysBusy hu ▸ ht
    · simpa using canonical_storeBytes ht ..

@[simp] theorem canonical_writeBack {s : State} (hc : (memories s).canonical) (k q : Nat) : (memories (s.writeBack k q)).canonical := by
  simp only [State.writeBack]
  split
  · exact hc
  · next d _ =>
    have ht := canonical_sysWrite hc 0 k 4096 (s.regField (.schedQtab k) 0 60 + 32 * q + 0x10) (leBytes 4 d.head ++ leBytes 4 d.tail) srcIo
    split <;> next e => rw [e] at ht; exact ht

@[simp] theorem canonical_flushBack {s : State} (hc : (memories s).canonical) (k : Nat) : (memories (s.flushBack k)).canonical :=
  canonical_foldState (fun _ _ h => canonical_writeBack h ..) hc _

@[simp] theorem canonical_setHead {s : State} (hc : (memories s).canonical) (k q n : Nat) :
    (memories (s.setHead k q n)).canonical := by simp [State.setHead, hc]

@[simp] theorem canonical_setTail {s : State} (hc : (memories s).canonical) (k q n : Nat) :
    (memories (s.setTail k q n)).canonical := by simp [State.setTail, hc]

@[simp] theorem canonical_freeTaskSlot {s : State} (hc : (memories s).canonical) (k slot : Nat) :
    (memories (s.freeTaskSlot k slot)).canonical := by
  unfold State.freeTaskSlot
  dsimp only
  split
  · exact hc
  · refine canonical_setHead ?_ ..
    exact hc

@[simp] theorem canonical_discardTask {s : State} (hc : (memories s).canonical) (id : Nat) : (memories (s.discardTask id)).canonical := by
  unfold State.discardTask
  split
  · exact hc
  · refine canonical_freeTaskSlot ?_ ..
    split
    · rw [memories_dropRegion, memories_uncount]
      exact hc
    · rw [memories_uncount]
      exact hc

/-! Sys2Proof/Machine/Traps.lean. -/

@[simp] theorem canonical_killInst {s : State} (hc : (memories s).canonical) (k v outc tcode : Nat) :
    (memories (s.killInst k v outc tcode)).canonical := by
  unfold State.killInst
  dsimp only
  rw [memories_update, memories_modInst]
  refine canonical_foldState (fun _ _ h => canonical_freeWaiter h _) (canonical_foldState (fun _ _ h => canonical_freeTaskSlot h ..)
    (canonical_foldState (fun _ _ h => canonical_discardTask h _) (canonical_foldState (fun _ _ h => ?_) hc _) _) _) _
  rw [memories_dropRegion]
  exact h

@[simp] theorem canonical_retest {s : State} (hc : (memories s).canonical) (id : Nat) : (memories (s.retest id)).canonical := by
  unfold State.retest
  split
  · exact hc
  · refine canonical_judge (canonical_foldState (fun t n h => ?_) hc _) _
    dsimp only
    split
    · exact h
    · split
      · simpa using h
      · exact h

@[simp] theorem canonical_resolveWaiter {s : State} (hc : (memories s).canonical) (t : Trap) (w input act : Nat) :
    (memories (s.resolveWaiter t w input act)).canonical := by
  simp only [State.resolveWaiter]
  repeat' split
  all_goals simp [hc]

@[simp] theorem canonical_resolveHold {s : State} (hc : (memories s).canonical) (t : Trap) (act : Nat) (d : Word) (poi : Bool) :
    (memories (s.resolveHold t act d poi)).canonical := by
  unfold State.resolveHold
  split
  · repeat' split
    all_goals simp [hc]
  · split <;> simp [hc]
  · dsimp only
    split
    · split <;> exact hc
    · repeat' split
      all_goals simp [hc]
  · dsimp only
    split <;> simp [hc]
  · exact hc
  · split
    · exact hc
    · dsimp only
      split <;> exact hc
  · exact canonical_resolveWaiter hc ..
  · exact canonical_retryFault hc ..
  · dsimp only
    split <;> exact hc
  · exact hc

@[simp] theorem canonical_resolve {s : State} (hc : (memories s).canonical) (t : Trap) (act : Nat) (d : Word) (poi : Bool) :
    (memories (s.resolve t act d poi)).canonical := by
  unfold State.resolve
  split <;> simp [hc]

@[simp] theorem canonical_trapRes {s : State} (hc : (memories s).canonical) (act : Nat) : (memories (s.trapRes act)).canonical := by
  unfold State.trapRes
  split <;> simp [hc]

/-! Sys2Proof/Machine/Perform.lean. -/

@[simp] theorem canonical_tileAt {s : State} (hc : (memories s).canonical) (die k v : Nat) (w : TensWord) (write : Bool) (src : Source) :
    (memories (s.tileAt die k v w write src).1).canonical := by
  unfold State.tileAt
  split
  · exact hc
  · next t _ =>
    have hhdr := canonical_unitReadN die k v { tt := true } src 2 t.ttab 64 hc
    split
    · next e => exact canonical_of_eq hhdr e
    · next u b _ e =>
      have hu := canonical_of_eq hhdr e
      have hent := fun va => canonical_unitReadN die k v { tt := true } src 2 va 8 hu
      simp only
      generalize (if recField b 2 1 = 0 then 2 ^ 16 else 2 ^ 21) = frame
      split
      · exact hu
      · split
        · exact hu
        · split
          · next e => exact canonical_of_eq (hent _) e
          · next e =>
            have hx := canonical_of_eq (hent _) e
            split
            · simpa using hx
            · exact hx
          · next e => exact canonical_of_eq (hent _) e
    · next e => exact canonical_of_eq hhdr e

@[simp] theorem canonical_abortFor {s : State} (hc : (memories s).canonical) (i : Invoc) (a : Access) (at_ : Nat × Nat) (c : Cause) :
    (memories (s.abortFor i a at_ c)).canonical := canonical_abort hc i (some at_)

@[simp] theorem canonical_faulted {s : State} (hc : (memories s).canonical) (a : Access) (va cause : Nat) (tile : Option Nat)
    (malf : Bool) : (memories (s.faulted a va cause tile malf)).canonical := by
  simp only [State.faulted]
  repeat' split
  all_goals simp [hc]

@[simp] theorem canonical_met {s : State} (hc : (memories s).canonical) (a : Access) (va : Nat) (g : UnitGot) :
    (memories (s.met a va g)).canonical := by
  simp only [State.met]
  repeat' split
  all_goals simp [hc]

@[simp] theorem canonical_translatePiece {s : State} (hc : (memories s).canonical) (a : Access) (i : Nat) :
    (memories (s.translatePiece a i)).canonical := by
  unfold State.translatePiece
  dsimp only
  split
  · split <;> simp [hc]
  · split <;> simp [hc]
  · next w _ _ =>
    have ht := canonical_tileAt hc (dieNo a.barn) a.k a.v w (a.kind = .write) a.source
    split <;> next e =>
      have hu := canonical_of_eq ht e
      (repeat' split) <;> simp [hu]
  · have ht : ∀ va, (memories (s.translate (dieNo a.barn) a.port a.k va a.kind.need).1).canonical := fun _ => by simpa using hc
    split <;> next e =>
      have hu := canonical_of_eq (ht _) e
      (repeat' split) <;> simp [hu]

@[simp] theorem canonical_mergeBits {s : State} (hc : (memories s).canonical) (st : Store) (a n mask data : Nat) :
    (memories (s.mergeBits st a n mask data)).canonical := by simp [State.mergeBits, hc]

@[simp] theorem canonical_setBar {s : State} (hc : (memories s).canonical) (st : Store) (x : Nat) (b : Bar) :
    (memories (s.setBar st x b)).canonical := by simp [State.setBar, hc]

theorem canonical_readOwn {s t : State} (hc : (memories s).canonical) {a : Access} {st : Store} {x n v w : Nat} {poi p : Bool}
    (h : s.readOwn a st x n v poi = some (t, w, p)) : (memories t).canonical := memories_readOwn h ▸ hc

theorem canonical_barrierOp {s t : State} (hc : (memories s).canonical) {k : AccKind} {va x v : Nat} {st : Store} {poi : Bool}
    (h : barrierOp s k va st x = .go t v poi) : (memories t).canonical := by
  simp only [barrierOp] at h
  repeat' split at h
  all_goals cases h <;> simp [hc]

theorem canonical_performPiece {s t : State} (hc : (memories s).canonical) {a : Access} {p : Piece} {st : Store} {x v : Nat} {poi : Bool}
    (h : s.performPiece a p st x = .go t v poi) : (memories t).canonical := by
  have read : ∀ u : State, (memories u).canonical → (if (u.poisonIn st x p.size && (a.strict || a.operand)) = true then
      .trap { code := tcPoison, aux0 := p.addr } else match u.readOwn a st x p.size (u.readN st x p.size) (u.poisonIn st x p.size) with
      | none => .wait
      | some (u, v, poi) => .go u v poi) = Done.go t v poi → (memories t).canonical := by
    intro u hu h
    split at h
    · cases h
    · split at h
      · cases h
      · next e => cases h; exact canonical_readOwn hu e
  unfold State.performPiece at h
  dsimp only at h
  split at h
  · exact read s hc h
  · split at h
    · have cleared : (memories (if a.clr = true then s.setFull (x / 16) false else s)).canonical := by split <;> exact hc
      split at h
      · split at h
        · split at h
          · exact read _ cleared h
          · cases h; exact hc
        · split at h
          · cases h
          · exact read _ cleared h
      · exact read s hc h
    · exact read s hc h
    · split at h
      · cases h
      · cases h
        have hm := canonical_mergeBits hc st x p.size p.mask p.data
        have poisoned : (memories (if a.poi then (s.mergeBits st x p.size p.mask p.data).setPoison st x true
            else s.mergeBits st x p.size p.mask p.data)).canonical := by
          rw [memories_ite]
          exact canonical_ite (canonical_setPoison hm ..) hm
        rw [memories_ite, memories_update, ite_self, memories_ite]
        exact canonical_ite (canonical_setFull poisoned ..) poisoned
    · split at h
      · cases h
      · cases h
        rw [memories_raiseLanes]
        exact canonical_writeN hc ..
    · cases h; exact hc
    · split at h
      · cases h; exact hc
      · split at h
        · cases h
        · cases h
          repeat' split
          all_goals exact hc
    · exact read s hc h
    · exact canonical_barrierOp hc h

@[simp] theorem canonical_performNext {s : State} (hc : (memories s).canonical) (n : Nat) (serves : Store → Bool) :
    (memories (s.performNext n serves)).canonical := by
  unfold State.performNext
  split
  · exact hc
  · split
    · exact hc
    · split
      · exact hc
      · split
        · exact hc
        · have he := fun st x k => canonical_eccAt hc st x k
          dsimp only
          split
          · exact he ..
          · simpa using he ..
          · next e =>
            have ht := canonical_performPiece (he ..) e
            rw [memories_modAcc, memories_moved]
            split <;> split <;> simp [ht]

/-! Sys2Proof/Machine/Match.lean. -/

@[simp] theorem canonical_frameWord {s : State} (hc : (memories s).canonical) (site : Site) (t : DWord) (d : Nat) (sl : Slot)
    (data : Word) : (memories (s.frameWord site t d sl data)).canonical := by
  simp only [State.frameWord]
  repeat' split
  all_goals simp [hc]

@[simp] theorem canonical_match_ {s : State} (hc : (memories s).canonical) (site : Site) (sl : Slot) (t : Tok) :
    (memories (s.match_ site sl t)).canonical := by
  unfold State.match_
  dsimp only
  split
  · repeat' split
    all_goals simp [hc]
  · split
    · split
      · next e => 
        have hu : (memories _).canonical := memories_needFrame e ▸ hc
        simp [hu]
      · exact hc
    · repeat' split
      all_goals simp [hc]

/-! Sys2Proof/Machine/Records.lean. -/

@[simp] theorem canonical_kernelOf {s : State} (hc : (memories s).canonical) (k v base kidx : Nat) :
    (memories (s.kernelOf k v base kidx).1).canonical := by
  have read := fun {t : State} (ht : (memories t).canonical) va n => canonical_unitRead ht 0 k v va n srcIo
  unfold State.kernelOf
  split
  · exact hc
  · split
    · next e =>
      have hu := canonical_of_eq (read hc _ _) e
      split
      · exact hu
      · split
        · next e =>
          have hw := canonical_of_eq (read hu _ _) e
          dsimp only
          split <;> next e => exact canonical_of_eq (read hw _ _) e
        · next e => exact canonical_of_eq (read hu _ _) e
        · next e => exact canonical_of_eq (read hu _ _) e
        · next e => exact canonical_of_eq (read hu _ _) e
    · next e => exact canonical_of_eq (read hc _ _) e
    · next e => exact canonical_of_eq (read hc _ _) e
    · next e => exact canonical_of_eq (read hc _ _) e

@[simp] theorem canonical_settleFallback {s : State} (hc : (memories s).canonical) : (memories s.settleFallback).canonical := by
  refine canonical_graphStrands ?_
  exact hc

@[simp] theorem canonical_createInst {s : State} (hc : (memories s).canonical) (k v recAt : Nat) (r : List Byte) (g : KernelInfo) :
    (memories (s.createInst k v recAt r g)).canonical := by
  unfold State.createInst
  dsimp only
  split
  · exact canonical_graphStrands (by exact hc)
  · split
    · exact canonical_settleFallback (by exact hc)
    · split
      · next e => 
        rw [memories_modInst]
        exact canonical_newWaiter (by exact hc) e
      · refine canonical_settleFallback ?_
        rw [memories_modInst, memories_fallback]
        exact hc

theorem canonical_claimTaskSlot {s u : State} (hc : (memories s).canonical) {k v recAt : Nat} {core : Option CoreId}
    (he : s.claimTaskSlot k v recAt core = some u) : (memories u).canonical := by
  unfold State.claimTaskSlot at he
  split at he
  · cases he
  · split at he
    · cases he
    · split at he
      · next e =>
        have hu := canonical_of_eq (canonical_unitWrite hc ..) e
        cases he
        refine canonical_setTail ?_ ..
        exact hu
      · cases he

/-! Sys2Proof/Machine/Responses.lean. -/

@[simp] theorem canonical_launchResponse {s : State} (hc : (memories s).canonical) (f : Firing) (a : Access) (recAt : Nat)
    (q : Option Nat) : (memories (s.launchResponse f a recAt q)).canonical := by
  have hk := canonical_kernelOf hc a.k a.v (recField (respBytes a.pieces) 8 8) (recField (respBytes a.pieces) 4 2)
  unfold State.launchResponse
  dsimp only
  split
  · next e => exact canonical_of_eq hk e
  · next e =>
    have ht := canonical_of_eq hk e
    split
    · unfold State.raiseThen
      split
      · exact ht
      · split <;> simp [ht]
    · split
      · simpa using ht
      · split
        · rw [memories_answer]
          refine canonical_createInst ?_ ..
          split <;> simp [ht]
        · exact ht

@[simp] theorem canonical_claimResponse {s : State} (hc : (memories s).canonical) (f : Firing) (a : Access) (q : Nat) :
    (memories (s.claimResponse f a q)).canonical := by
  simp only [State.claimResponse]
  repeat' split
  all_goals simp [hc]

@[simp] theorem canonical_taskResponse {s : State} (hc : (memories s).canonical) (w : Issuer) (a : Access) :
    (memories (s.taskResponse w a)).canonical := by
  unfold State.taskResponse
  split
  · next e => simpa using canonical_claimTaskSlot hc e
  · exact hc

@[simp] theorem canonical_firingResponse {s : State} (hc : (memories s).canonical) (a : Access) (f : Firing) :
    (memories (s.firingResponse a f)).canonical := by
  simp only [State.firingResponse]
  repeat' split
  all_goals simp [hc]

@[simp] theorem canonical_coreResponse {s : State} (hc : (memories s).canonical) (a : Access) (c : CoreId) (rd : Nat) :
    (memories (s.coreResponse a c rd)).canonical := by
  simp only [State.coreResponse]
  repeat' split
  all_goals simp [hc]

/-! Sys2Proof/Machine/Blocks.lean. -/

@[simp] theorem canonical_blockGot {s : State} (hc : (memories s).canonical) (die k v blk n : Nat) (src : Source) :
    (memories (s.blockGot die k v blk n src).1).canonical := by
  unfold State.blockGot
  split <;> simp [hc]

@[simp] theorem canonical_wholeBlock {s : State} (hc : (memories s).canonical) (die k v blk : Nat) (src : Source) :
    (memories (s.wholeBlock die k v blk src).1).canonical := by
  have hh := canonical_blockGot hc die k v blk 16 src
  unfold State.wholeBlock
  split
  · next e => exact canonical_blockGot (canonical_of_eq hh e) ..
  · exact hh

@[simp] theorem canonical_fetchOnce {s : State} (hc : (memories s).canonical) (f : Fetch) : (memories (s.fetchOnce f)).canonical := by
  have hb := canonical_wholeBlock hc (dieNo f.holder.barnNo) f.k f.v f.blk (srcBarn f.holder.barnNo)
  unfold State.fetchOnce
  split
  · simpa using hc
  · split
    · next e => simpa using canonical_of_eq hb e
    · next e => exact canonical_of_eq hb e
    · next e => simpa using canonical_of_eq hb e
    · next e => simpa using canonical_of_eq hb e
    · next e =>
      have hu := canonical_of_eq hb e
      dsimp only
      split
      · simpa using hu
      · simpa using hu
      · split <;> simpa using hu
      · simpa using hu

/-! Sys2Proof/Machine/Strands.lean. -/

@[simp] theorem canonical_fillCands {s : State} (hc : (memories s).canonical) : (memories s.fillCands).canonical := hc

@[simp] theorem canonical_readyGathers {s : State} (hc : (memories s).canonical) : (memories s.readyGathers).canonical := by
  refine canonical_fillCands (canonical_foldState (fun _ _ h => canonical_mirrorKey h ..) ?_ _)
  exact hc

@[simp] theorem canonical_closeInvoc {s : State} (hc : (memories s).canonical) (key : InvKey) :
    (memories (s.closeInvoc key)).canonical := by
  refine canonical_readyGathers ?_
  exact hc

@[simp] theorem canonical_putValue {s : State} (hc : (memories s).canonical) (d : Delivery) (x : Value) :
    (memories (putValue d s x)).canonical := by
  refine canonical_mirrorKey ?_ ..
  split
  · exact hc
  · split <;> exact hc

theorem canonical_headerWait {s u : State} (hc : (memories s).canonical) {d : Delivery} {x : Value} (he : s.headerWait d x = some u) :
    (memories u).canonical := by
  unfold State.headerWait at he
  split at he
  · cases he
  · cases he
    exact canonical_unitFetch hc ..

@[simp] theorem canonical_needPatch {s : State} (hc : (memories s).canonical) (h : Holder) (k blk : Nat) :
    (memories (s.needPatch h k blk)).canonical := by
  simp only [State.needPatch]
  repeat' split
  all_goals simp [hc]

@[simp] theorem canonical_retire {s : State} (hc : (memories s).canonical) (i : Inst) : (memories (s.retire i)).canonical := by
  have answered : ∀ (t : State) l, memories (foldState (fun s (w : Wait) => s.answerKdone i w) t l) = memories t :=
    memories_foldState fun _ _ => memories_answerKdone ..
  unfold State.retire
  refine canonical_settleFallback ?_
  dsimp only
  rw [memories_scrubLeft, memories_modFab, memories_update]
  split
  · rw [memories_modInst, answered, memories_modFab]
    exact hc
  · rw [memories_update, answered, memories_modFab]
    exact hc

/-! Sys2Proof/Machine/Paging.lean. -/

@[simp] theorem canonical_failUnits {s : State} (hc : (memories s).canonical) (p : PageFault) :
    (memories (s.failUnits p)).canonical := by
  refine canonical_foldState (fun t x h => canonical_discardTask ?_ _) ?_ _
  · rw [memories_unitTrap]
    exact h
  · exact hc

/-- What FAIL does for the accesses, fetches, units and gather entries that wait on a fault. -/
theorem canonical_failFaultParts {s : State} (hc : (memories s).canonical) (p : PageFault) (accs : List Access) (fets : List Fetch)
    (gats : List Gather) (cause : Access → Cause) (c : Cause) (free : Fetch → Fetch) :
    (memories (foldState (fun s (g : Gather) => s.pageWait p (g.why.getD p.cause?) g.v g.idx g.blk g.tag g.dep)
      ((foldState (fun s (f : Fetch) => s.fetchTrap { f with fault := none } c)
        { foldState (fun s (a : Access) => s.accessTrap { a with trans := .ready } (cause a)) s accs with
          fetches := (foldState (fun s (a : Access) => s.accessTrap { a with trans := .ready } (cause a)) s accs).fetches.map free }
        fets).failUnits p) gats)).canonical := by
  rw [memories_foldState fun _ _ => memories_pageWait ..]
  refine canonical_failUnits ?_ p
  rw [memories_foldState fun _ _ => memories_fetchTrap ..]
  have haccs := memories_foldState (f := fun s (a : Access) => s.accessTrap { a with trans := .ready } (cause a))
    (fun _ _ => memories_accessTrap ..) s accs
  exact haccs ▸ hc

@[simp] theorem canonical_failFault {s : State} (hc : (memories s).canonical) (p : PageFault) :
    (memories (s.failFault p)).canonical := by
  have loading : ∀ (c : Prop) [Decidable c], (memories (if c then { s with loadFault := none, loadFailed := true } else s)).canonical := by
    intro c _
    split <;> exact hc
  unfold State.failFault
  dsimp only
  split
  · rw [memories_modFault]
    exact canonical_failFaultParts (loading _) ..
  · split
    · rw [memories_modFault, memories_pageWait]
      exact canonical_failFaultParts (loading _) ..
    · exact canonical_failFaultParts (loading _) ..

theorem canonical_giveFrame {s u : State} (hc : (memories s).canonical) {desc c frame : Nat} (he : s.giveFrame desc c frame = some u) :
    (memories u).canonical := by
  simp only [State.giveFrame] at he
  split at he
  · cases he
  · cases he
    exact canonical_writePaN (canonical_writePaN hc ..) ..

@[simp] theorem canonical_movePage {s : State} (hc : (memories s).canonical) (asid va : Nat) (l : Leaf) (new_ : Nat)
    (back retire : Option (Nat × Nat)) : (memories (s.movePage asid va l new_ back retire)).canonical := by
  obtain ⟨hd, hh, hs, hw⟩ := hc
  unfold State.movePage
  rw [memories_pushInv]
  refine canonical_foldState (fun _ _ h => canonical_writePaN h ..) ?_ _
  exact ⟨copyRange_wf _ _ _ hd, hh, hs, hw⟩

@[simp] theorem canonical_endRetire {s : State} (hc : (memories s).canonical) (res status newpa : Nat) :
    (memories (s.endRetire res status newpa)).canonical := by simp [State.endRetire, hc]

@[simp] theorem canonical_zeroUnits {s : State} (hc : (memories s).canonical) (c : Scrub) : (memories (s.zeroUnits c)).canonical := by
  obtain ⟨hd, hh, hs, hw⟩ := hc
  simp only [State.zeroUnits]
  split
  · exact ⟨hd, hh, hs, clearRange_wf _ _ hw⟩
  · exact ⟨hd, hh, clearRange_wf _ _ hs, hw⟩

/-! Sys2Proof/Machine/Cores.lean. -/

@[simp] theorem canonical_edgeGather {s : State} (hc : (memories s).canonical) (e : EqTok) (k : Tok) :
    (memories (s.edgeGather e k)).canonical := by
  unfold State.edgeGather
  dsimp only
  split
  · exact hc
  · split
    · next hw => exact canonical_headerWait hc hw
    · split
      · simpa using hc
      · exact canonical_readyGathers (canonical_putValue (by simpa using hc) ..)

@[simp] theorem canonical_coreBytes {s : State} (hc : (memories s).canonical) (i : Inst) (va n : Nat) :
    (memories (s.coreBytes i va n).1).canonical := by
  have hr := canonical_unitRead hc 0 i.k i.v va n srcIo
  unfold State.coreBytes
  split <;> next e => exact canonical_of_eq hr e

/-! Sys2Proof/Machine/Launch.lean. -/

@[simp] theorem canonical_readQtab {s : State} (hc : (memories s).canonical) (k base : Nat) :
    (memories (s.readQtab k base).1).canonical := by
  have hr := canonical_unitRead hc 0 k 4096 base 2080 srcIo
  unfold State.readQtab
  split
  · exact hc
  · split <;> next e => exact canonical_of_eq hr e

@[simp] theorem canonical_doorbell {s : State} (hc : (memories s).canonical) (k q v : Nat) :
    (memories (s.doorbell k q v)).canonical := by
  simp only [State.doorbell]
  repeat' split
  all_goals simp [hc]

@[simp] theorem canonical_directClaimed {s : State} (hc : (memories s).canonical) (d : QDesc) (a : Access) :
    (memories (s.directClaimed d a)).canonical := by
  have take : ∀ t : State, (memories t).canonical → (memories ((t.dropAcc a.id).setHead d.k d.q (d.head + 1))).canonical :=
    fun t h => canonical_setHead (by simpa using h) ..
  have bad : ∀ (t : State) (c : Cause), (memories t).canonical → (memories (if (t.freeTrapIndex d.k).isNone then t
      else ((t.dropAcc a.id).setHead d.k d.q (d.head + 1)).directTrap d.k d.q (d.head % 2 ^ d.log2n) (d.slotAt d.head) c)).canonical := by
    intro t c h
    split
    · exact h
    · simpa using take t h
  have hk := canonical_kernelOf hc d.k 4096 (recField (respBytes a.pieces) 8 8) (recField (respBytes a.pieces) 4 2)
  unfold State.directClaimed
  dsimp only
  split
  · exact bad s _ hc
  · split
    · exact hc
    · split
      · exact bad s _ hc
      · split
        · next e => exact canonical_of_eq hk e
        · next e =>
          have ht := canonical_of_eq hk e
          split
          · exact bad _ _ ht
          · exact canonical_createInst (take _ ht) ..
          · exact ht
          · exact bad _ _ ht

@[simp] theorem canonical_handlerBlocks (k v n va : Nat) {s : State} (hc : (memories s).canonical) :
    (memories (handlerBlocks k v n va s).1).canonical := by
  induction n generalizing va s with
  | zero => exact hc
  | succ n ih =>
    have hr := canonical_unitRead hc 0 k v va 16 srcIo
    unfold handlerBlocks
    split
    · next t b _ e =>
      have hi := fun va => ih va (canonical_of_eq hr e)
      dsimp only
      split
      · next e' => exact canonical_of_eq (hi _) e'
      · exact hi _
    · next e => exact canonical_of_eq hr e
    · next e => exact canonical_of_eq hr e
    · next e => exact canonical_of_eq hr e

@[simp] theorem canonical_migrationList {s : State} (hc : (memories s).canonical) (i : Inst) :
    (memories (s.migrationList i).1).canonical := by
  have read := fun {t : State} (ht : (memories t).canonical) va n => canonical_unitRead ht 0 i.k i.v va n srcIo
  unfold State.migrationList
  dsimp only
  split
  · exact hc
  · split
    · next e =>
      have hu := canonical_of_eq (read hc _ _) e
      split <;> next e' => exact canonical_of_eq (read hu _ _) e'
    · next e => exact canonical_of_eq (read hc _ _) e
    · next e => exact canonical_of_eq (read hc _ _) e
    · next e => exact canonical_of_eq (read hc _ _) e

@[simp] theorem canonical_place {s : State} (hc : (memories s).canonical) (i : Inst) (barns : List Nat) :
    (memories (s.place i barns)).canonical := by
  have hb := canonical_handlerBlocks i.k i.v i.nblk i.entry hc
  unfold State.place
  split
  · next e => exact canonical_of_eq hb e
  · next t _ e =>
    have ht := canonical_of_eq hb e
    have hm := canonical_migrationList ht i
    split
    · next e' => exact canonical_of_eq hm e'
    · next u _ e' =>
      have hu := canonical_of_eq hm e'
      have scrubbed : ∀ l, (memories (foldState (fun s b => (s.scrub b i.k false).scrub b i.k true) (u.freshContext i.k) l)).canonical := by
        intro l
        rw [memories_foldState fun _ _ => by simp, memories_freshContext]
        exact hu
      dsimp only
      rw [memories_placedStrands, memories_modFab, memories_modInst]
      split
      · exact canonical_freeWaiter (scrubbed _) _
      · exact scrubbed _

/-! Sys2Proof/Machine/Switch.lean. -/

@[simp] theorem canonical_release {s : State} (hc : (memories s).canonical) (k : Nat) : (memories (s.release k)).canonical := by
  unfold State.release
  dsimp only
  rw [memories_foldState fun _ _ => by simp, memories_setCtxState, memories_countWaiters, memories_update, memories_modFab]
  exact canonical_foldState (fun _ _ h => canonical_killInst h ..) hc _

@[simp] theorem canonical_stopAbort {s : State} (hc : (memories s).canonical) (i : Invoc) : (memories (s.stopAbort i)).canonical := by
  refine canonical_mirrorKey ?_ ..
  exact canonical_abort hc i none

@[simp] theorem canonical_abandonWait {s : State} (hc : (memories s).canonical) (w : Wait) : (memories (s.abandonWait w)).canonical := by
  unfold State.abandonWait
  dsimp only
  have freed : (memories (match w.why with
      | .awaitSheaf id => (s.modFab fun g => { g with waits := dropFirst (fun x => x = w) g.waits }).freeWaiter id
      | .kdone _ => s.modFab fun g => { g with waits := dropFirst (fun x => x = w) g.waits })).canonical := by
    split
    · exact canonical_freeWaiter (by simpa using hc) _
    · simpa using hc
  split
  · rw [memories_modCore]
    exact freed
  · rw [memories_refire]
    exact freed

@[simp] theorem canonical_putMem {s : State} (hc : (memories s).canonical) (k : Nat) (weight : Bool) (m : SavedMem) :
    (memories (s.putMem k weight m)).canonical := by
  have put : ∀ (t : State) (st : Store) (g : Host.Cell → Nat) (l : List Nat), (memories t).canonical →
      (memories ((t.setCells st (m.cells.foldl (fun l c => putCell l (g c) c.2) (t.cells st))).setPoisons st l)).canonical :=
    fun t st g l h => canonical_setPoisons (canonical_setCells h st (putCells_wf g _ (cells_wf st h))) st l
  simp only [State.putMem]
  split
  · exact put _ _ _ _ (canonical_zeroUnits hc _)
  · exact put _ _ _ _ (canonical_zeroUnits hc _)

theorem canonical_putBack {s u : State} (hc : (memories s).canonical) {x : Saved} (e : s.putBack x = some u) :
    (memories u).canonical := by
  unfold State.putBack at e
  dsimp only at e
  split at e
  · cases e
  · split at e
    · cases e
    · split at e
      · cases e
      · next t ht =>
        have hu : (memories t).canonical := by rw [memories_putRegionsBack ht, memories_placeBack]; exact hc
        split at e
        · cases e
        · cases e
          have put : ∀ {t : State}, (memories t).canonical → (memories (foldState (fun s m => s.putMem x.k true m)
              (foldState (fun s m => s.putMem x.k false m) t x.scr) x.wbuf)).canonical := fun h =>
            canonical_foldState (fun _ _ h => canonical_putMem h ..) (canonical_foldState (fun _ _ h => canonical_putMem h ..) h _) _
          rw [memories_setCtxState, memories_fetchRegions, memories_ite]
          refine canonical_ite ?_ ?_
          all_goals
            refine put ?_
            rw [memories_foldState fun _ _ => memories_emulateAgain ..]
            refine canonical_foldState (fun _ _ h => canonical_foldState (fun _ _ h => canonical_frameWord h ..) h _) ?_ _
            rw [memories_fallbacks, memories_modFab, memories_move, memories_modFab]
            exact hu

/-! Sys2Proof/Machine/Tasks.lean. -/

@[simp] theorem canonical_taskTrap {s : State} (hc : (memories s).canonical) (t : Task) (c : Cause) :
    (memories (s.taskTrap t c)).canonical := by
  unfold State.taskTrap
  split
  · exact hc
  · simp [hc]

@[simp] theorem canonical_registerTask {s : State} (hc : (memories s).canonical) (t : Task) :
    (memories (s.registerTask t)).canonical := by
  unfold State.registerTask
  split
  · simpa using hc
  · split
    · exact canonical_settleFallback (by simpa using hc)
    · dsimp only
      split
      · next e => simpa using canonical_newWaiter hc e
      · exact canonical_settleFallback (by simpa using hc)

@[simp] theorem canonical_taskAt {s : State} (hc : (memories s).canonical) (t : Task) (desc : Nat) (x : Tensor) (b : List Byte)
    (c : List Nat) (write : Bool) : (memories (s.taskAt t desc x b c write).1).canonical := by
  have hu := canonical_unitAt hc t.die t.k (x.va c) (if write then { w := true } else { r := true }) t.src
  have ht := canonical_tileAt hc t.die t.k t.v { desc := b, at_ := c } write t.src
  unfold State.taskAt
  dsimp only
  split
  · split <;> next e => exact canonical_of_eq hu e
  · split
    · next e => split <;> exact canonical_of_eq ht e
    · next e => exact canonical_of_eq ht e
    · next e => exact canonical_of_eq ht e
    · next e => simpa using canonical_of_eq ht e
    · next e => exact canonical_of_eq ht e

@[simp] theorem canonical_taskReads (t : Task) (desc : Nat) (w : Win) (n j : Nat) (l : List (Nat × Tok)) {s : State}
    (hc : (memories s).canonical) : (memories (taskReads t desc w n j l s).1).canonical := by
  induction n generalizing j l s with
  | zero => exact hc
  | succ n ih =>
    have ht := canonical_taskAt hc t desc w.t w.b (w.at j) false
    unfold taskReads
    dsimp only
    split
    · exact ih _ _ hc
    · split
      · next e => exact ih _ _ (by simpa using canonical_of_eq ht e)
      · next e => exact canonical_of_eq ht e

@[simp] theorem canonical_taskStream {s : State} (hc : (memories s).canonical) (t : Task) (desc shp org need : Nat) :
    (memories (s.taskStream t desc shp org need).1).canonical := by
  unfold State.taskStream
  split
  · exact hc
  · next w _ =>
    have hr := canonical_taskReads t desc w w.count 0 [] hc
    split
    · next e => exact canonical_of_eq hr e
    · next u g _ e =>
      have hu := canonical_of_eq hr e
      exact hu

@[simp] theorem canonical_taskWrites (t : Task) (desc : Nat) (w : Win) (val : Nat → Nat) (poi : Bool) (n j : Nat) {s : State}
    (hc : (memories s).canonical) : (memories (taskWrites t desc w val poi n j s).1).canonical := by
  induction n generalizing j s with
  | zero => simpa [taskWrites] using hc
  | succ n ih =>
    have ht := canonical_taskAt hc t desc w.t w.b (w.at j) true
    unfold taskWrites
    dsimp only
    split
    · exact ih _ hc
    · split
      · next e =>
        refine ih _ ?_
        have hm := fun st a v => canonical_mergeBits (canonical_of_eq ht e) st a 4 (w.t.mask (w.at j)) v
        rw [memories_moved]
        split
        · exact canonical_setPoison (hm ..) ..
        · exact hm ..
      · next e => simpa using canonical_of_eq ht e

@[simp] theorem canonical_taskStops {s : State} (hc : (memories s).canonical) (t : Task) (g : TaskGot) :
    (memories (s.taskStops t g)).canonical := by
  unfold State.taskStops
  split <;> simp [hc]

@[simp] theorem canonical_taskStage {s : State} (hc : (memories s).canonical) (t : Task) (x : Region) :
    (memories (s.taskStage t x)).canonical := by
  have hr := canonical_unitRead hc t.die t.k t.v (t.f 8 8) t.wlen t.src
  unfold State.taskStage
  split
  · next e =>
    have hu := canonical_of_eq hr e
    split
    · exact canonical_taskTrap hu ..
    · dsimp only
      split
      · exact canonical_taskTrap (canonical_storeBytes hu ..) ..
      · simp [hu]
  · next e => exact canonical_taskStops (canonical_of_eq hr e) ..

@[simp] theorem canonical_taskStreams {s : State} (hc : (memories s).canonical) (t : Task) (x : Region) :
    (memories (s.taskStreams t x)).canonical := by
  have go : ∀ {u : State} (acts inits : List (Nat × Tok)), (memories u).canonical →
      (memories (match u.startTile x t.ty (t.bit 0) t.m (mkTag 0 t.k t.v 0) 0 with
        | .tile y tl => (u.putRegion (y.modTile tl.id fun u => { u with toks := acts, inits := inits })).taskGoes t .mmac
        | .trap c => u.taskTrap t c
        | .wait => u)).canonical := by
    intro u acts inits h
    split
    · simp [h]
    · exact canonical_taskTrap h ..
    · exact h
  have hr := fun {u : State} (hu : (memories u).canonical) desc shp org need => canonical_taskStream hu t desc shp org need
  unfold State.taskStreams
  dsimp only
  split
  · next e =>
    have hu := canonical_of_eq (hr hc ..) e
    split
    · exact go _ _ hu
    · split
      · next e' => exact go _ _ (canonical_of_eq (hr hu ..) e')
      · next e' => exact canonical_taskStops (canonical_of_eq (hr hu ..) e') ..
  · next e => exact canonical_taskStops (canonical_of_eq (hr hc ..) e) ..

@[simp] theorem canonical_taskWrite {s : State} (hc : (memories s).canonical) (t : Task) (x : Region) :
    (memories (s.taskWrite t x)).canonical := by
  unfold State.taskWrite
  dsimp only
  split
  · exact canonical_taskTrap hc ..
  · next w _ =>
    have hw := canonical_taskWrites t (t.f 0x1A 1) w (fun i => (t.result x i).1) (x.accs.any AccEntry.poi)
      (t.m * (8 * t.w) - t.pos) t.pos hc
    split
    · next e => simpa using canonical_of_eq hw e
    · next e => exact canonical_taskStops (canonical_of_eq hw e) ..

@[simp] theorem canonical_taskFree {s : State} (hc : (memories s).canonical) (t : Task) (b r : Nat) :
    (memories (s.taskFree t b r)).canonical := by
  refine canonical_settleFallback ?_
  rw [memories_dropRegion, memories_uncount]
  exact hc

/-! Sys2Proof/Machine/Engines.lean. -/

@[simp] theorem canonical_fillGranules {s : State} (hc : (memories s).canonical) (x n : Nat) :
    (memories (s.fillGranules x n)).canonical := canonical_foldState (fun _ _ h => canonical_setFull h ..) hc _

theorem canonical_takeFrame {s t : State} (hc : (memories s).canonical) {desc c f : Nat} (he : s.takeFrame desc c = .got t f) :
    (memories t).canonical := by
  unfold State.takeFrame at he
  dsimp only at he
  split at he
  · cases he
  · split at he
    · cases he
    · split at he
      · cases he
      · cases he
        exact canonical_writePaN hc ..

/-- An operation of a command at an address that keeps memories in canonical form. It is stated of the operation as a function, and of
its result by an equation, so that the kernel checks an unfolding of it without computing a walk. -/
def KeepsCanonical (op : State → Cmd → Nat → State × (EngGot ⊕ Nat)) : Prop :=
  ∀ (s : State) (c : Cmd) (va : Nat) (t : State) (r : EngGot ⊕ Nat), (memories s).canonical → op s c va = (t, r) → (memories t).canonical

theorem keepsCanonical_shadowFrame : KeepsCanonical State.shadowFrame := by
  delta State.shadowFrame
  unfold KeepsCanonical
  intro s c va t r hc e
  beta_reduce at e
  generalize s.leafOf c.asid va = leaf at e
  cases leaf with
  | none => cases e; exact hc
  | some l =>
    dsimp only at e
    split at e
    · cases e; exact hc
    · split at e
      · split at e
        · cases e; exact hc
        · cases e; exact hc
        · next ht =>
          obtain ⟨hd, hh, hs, hw⟩ := canonical_takeFrame hc ht
          cases e
          rw [memories_modCmd]
          exact ⟨copyRange_wf _ _ _ hd, hh, hs, hw⟩
      · cases e; exact hc

@[simp] theorem canonical_engineTarget {s : State} (hc : (memories s).canonical) (c : Cmd) (va : Nat) :
    (memories (s.engineTarget c va).1).canonical := by
  have hu := canonical_unitAt hc c.die c.k va { w := true } c.src
  unfold State.engineTarget
  split
  · next e => exact canonical_of_eq hu e
  · next e =>
    have ht := canonical_of_eq hu e
    split
    · exact ht
    · split
      · exact ht
      · split <;> next e' => exact keepsCanonical_shadowFrame _ _ _ _ _ ht e'

@[simp] theorem canonical_rowIndexOf {s : State} (hc : (memories s).canonical) (c : Cmd) (i : Nat) :
    (memories (s.rowIndexOf c i).1).canonical := by
  have hr := canonical_unitRead hc c.die c.k c.v (c.f 0x20 8 + 4 * i) 4 c.src
  unfold State.rowIndexOf
  split
  · next e => exact canonical_of_eq hr e
  · next e => split <;> exact canonical_of_eq hr e
  · next e => exact canonical_of_eq hr e

@[simp] theorem canonical_rowIndex {s : State} (hc : (memories s).canonical) (c : Cmd) (q : Nat) :
    (memories (s.rowIndex c q).1).canonical := by
  have hr := canonical_rowIndexOf hc c (q / c.f 0x18 4)
  unfold State.rowIndex
  dsimp only
  split
  · exact hc
  · split
    · exact hc
    · split
      · next e => simpa using canonical_of_eq hr e
      · exact hr

@[simp] theorem canonical_contribution {s : State} (hc : (memories s).canonical) (c : Cmd) (own rank j : Nat) :
    (memories (s.contribution c own rank j).1).canonical := by
  have hr := canonical_unitRead hc c.die c.k c.v (c.srcVa + 4 * j) 4 c.src
  unfold State.contribution
  split
  · split <;> next e => exact canonical_of_eq hr e
  · split <;> exact hc

@[simp] theorem canonical_collFold (c : Cmd) (own op : Nat) (t : Ty) (j : Nat) (l : List Nat) (n : Option (Word × Bool))
    (fl : List (List Nat)) {s : State} (hc : (memories s).canonical) : (memories (collFold c own op t j l n fl s).1).canonical := by
  induction l generalizing n fl s with
  | nil => exact hc
  | cons i l ih =>
    have hr := canonical_contribution hc c own i j
    unfold collFold
    split
    · next e => exact canonical_of_eq hr e
    · next e => split <;> exact ih _ _ (canonical_of_eq hr e)

@[simp] theorem canonical_collWord {s : State} (hc : (memories s).canonical) (c : Cmd) (q : Nat) :
    (memories (s.collWord c q).1).canonical := by
  have hr := fun rank j => canonical_contribution hc c (groupOf (s.groupBytes c.grp)).rank rank j
  unfold State.collWord
  dsimp only
  split
  · exact canonical_collFold (hc := hc) ..
  · exact canonical_collFold (hc := hc) ..
  · split <;> next e => exact canonical_of_eq (hr _ _) e
  · split <;> next e => exact canonical_of_eq (hr _ _) e
  · exact canonical_collFold (hc := hc) ..

@[simp] theorem canonical_engineRead {s : State} (hc : (memories s).canonical) (c : Cmd) (i q : Nat) :
    (memories (s.engineRead c i q).1).canonical := by
  have hw := canonical_collWord hc c (q / 4)
  have hr := canonical_unitRead hc c.die c.k c.v (c.srcAt i q) 1 c.src
  unfold State.engineRead
  split
  · exact hc
  · split
    · split
      · next e => exact canonical_of_eq hw e
      · next e => simpa using canonical_of_eq hw e
    · split <;> next e => exact canonical_of_eq hr e

@[simp] theorem canonical_engineReads (id i n q : Nat) (l : List (Byte × Bool)) {s : State} (hc : (memories s).canonical) :
    (memories (engineReads id i n q l s).1).canonical := by
  induction n generalizing q l s with
  | zero => exact hc
  | succ n ih =>
    unfold engineReads
    split
    · exact hc
    · next c _ =>
      have hr := canonical_engineRead hc c i q
      split
      · next e => exact ih _ _ (canonical_of_eq hr e)
      · next e => exact canonical_of_eq hr e

@[simp] theorem canonical_engineUnit {s : State} (hc : (memories s).canonical) (c : Cmd) (q : Nat) (keep : Bool) :
    (memories (s.engineUnit c q keep).1).canonical := by
  have arrived : ∀ (c : Cmd) (u : State) (st : Store) (x n : Nat), (memories u).canonical → (memories (if c.shd then u
      else if st = .scr then u.fillGranules x n else if st = .dev then u.busyLines c.k x n
      else if st = .host then u.agentTake x true true else u)).canonical := by
    intro c u st x n h
    simp only [memories_ite, memories_busyLines, memories_agentTake, ite_self]
    exact canonical_ite h (canonical_ite (canonical_fillGranules h ..) h)
  have hx := canonical_rowIndex hc c q
  unfold State.engineUnit
  split
  · next e => exact canonical_of_eq hx e
  · next t i e =>
    have ht := canonical_of_eq hx e
    dsimp only
    have hr := canonical_engineReads c.id i (c.unit i q).2 (c.unit i q).1 [] ht
    split
    · next e => exact canonical_of_eq hr e
    · next u l e =>
      have hu := canonical_of_eq hr e
      split
      · simpa using hu
      · split
        · exact hu
        · have hw := fun c' : Cmd => canonical_engineTarget hu c' (c'.dstAt i (c.unit i q).1)
          split
          · next e => exact canonical_of_eq (hw _) e
          · next e =>
            have hz := canonical_of_eq (hw _) e
            rw [memories_countUp]
            refine arrived _ _ _ _ _ ?_
            split
            · refine canonical_setPoison ?_ ..
              simpa using canonical_storeBytes hz ..
            · simpa using canonical_storeBytes hz ..

@[simp] theorem canonical_engineMoves (id j : Nat) (keep : Bool) (n : Nat) {s : State} (hc : (memories s).canonical) :
    (memories (engineMoves id j keep n s)).canonical := by
  induction n generalizing s with
  | zero => exact hc
  | succ n ih =>
    unfold engineMoves
    split
    · exact hc
    · next c _ =>
      have hu := fun q => canonical_engineUnit hc c q keep
      dsimp only
      split
      · simpa using hc
      · split
        · exact hc
        · split
          · next e =>
            have ht := canonical_of_eq (hu _) e
            split
            · simpa using ht
            · exact ih (by simpa using ht)
          · next e => simpa using canonical_of_eq (hu _) e

@[simp] theorem canonical_remapTiles {s : State} (hc : (memories s).canonical) (asid old size new_ : Nat) :
    (memories (s.remapTiles asid old size new_)).canonical := by
  refine canonical_foldState (fun t x h => canonical_foldState (fun t j h => ?_) h _) hc _
  dsimp only
  split
  · next st a _ =>
    have hw := canonical_writeB h st a (leBytes 8 (movedTile old size new_ x.2.2.2 (t.readN st a 8)))
    split
    · exact h
    · exact hw
  · exact h

@[simp] theorem canonical_remapShadow {s : State} (hc : (memories s).canonical) (c : Cmd) :
    (memories (s.remapShadow c)).canonical := by
  unfold State.remapShadow
  refine canonical_foldState ?_ hc _
  intro t e h
  generalize t.leafOf c.asid e.1 = leaf
  cases leaf with
  | none => exact h
  | some l =>
    dsimp only
    rw [memories_update, memories_replace]
    exact canonical_remapTiles (canonical_foldState (fun _ _ h => canonical_writePaN h ..) h _) ..

@[simp] theorem canonical_engineVisible {s : State} (hc : (memories s).canonical) (c : Cmd) :
    (memories (s.engineVisible c)).canonical := by simp [State.engineVisible, hc]

@[simp] theorem canonical_enginePublish {s : State} (hc : (memories s).canonical) (c : Cmd) :
    (memories (s.enginePublish c)).canonical := by
  unfold State.enginePublish
  dsimp only
  split
  · exact hc
  · split
    · simpa using canonical_engineVisible hc c
    · split
      · exact hc
      · refine canonical_applyPublish ?_ _
        simpa using canonical_engineVisible hc c

@[simp] theorem canonical_engineBarrier {s : State} (hc : (memories s).canonical) (c : Cmd) :
    (memories (s.engineBarrier c)).canonical := by
  have hu := fun va => canonical_unitAt hc c.die c.k va { r := true, w := true } c.src
  unfold State.engineBarrier
  dsimp only
  split
  · simpa using hc
  · split <;> next e =>
      have ht := canonical_of_eq (hu _) e
      simp [ht]

@[simp] theorem canonical_collSend {s : State} (hc : (memories s).canonical) (c : Cmd) (r j : Nat) :
    (memories (s.collSend c r j)).canonical := by
  have hr := fun n => canonical_unitRead hc c.die c.k c.v (c.srcVa + 216 * j) n c.src
  unfold State.collSend
  dsimp only
  split
  · exact hc
  · split
    · next e =>
      have ht := canonical_of_eq (hr _) e
      generalize ho : State.sendChunk _ _ _ = o
      cases o with
      | none => exact ht
      | some v => exact memories_sendChunk ho ▸ ht
    · next e => simpa using canonical_of_eq (hr _) e

/-! Sys2Proof/Machine/Images.lean. -/

@[simp] theorem canonical_pagesOk (k : Nat) (need : Need) (n va : Nat) {s : State} (hc : (memories s).canonical) :
    (memories (s.pagesOk k need n va).1).canonical := by
  induction n generalizing va s with
  | zero => exact hc
  | succ n ih =>
    have hu := canonical_unitAt hc 0 k va need srcIo
    unfold State.pagesOk
    split
    · next e => simpa using canonical_of_eq hu e
    · next e => exact ih _ (canonical_of_eq hu e)

@[simp] theorem canonical_copyImage (k src dst len n o : Nat) {s : State} (hc : (memories s).canonical) :
    (memories (copyImage k src dst len n o s)).canonical := by
  induction n generalizing o s with
  | zero => exact hc
  | succ n ih =>
    have hr := canonical_unitRead hc 0 k 4096 (src + o) (min 64 (len - o)) srcIo
    unfold copyImage
    dsimp only
    split
    · next e => exact ih _ (canonical_unitWrite (canonical_of_eq hr e) ..)
    · next e => exact canonical_of_eq hr e

/-! Sys2Proof/Machine/Freeze.lean. -/

@[simp] theorem canonical_softError {s : State} (hc : (memories s).canonical) (p cls : Nat) :
    (memories (s.softError p cls)).canonical := by
  refine canonical_uncorrectedBy hc _ _ fun t h => ?_
  split
  · simpa using h
  · split
    · split
      · exact canonical_setPoison h ..
      · simpa using h
    · split <;> simp [h]

@[simp] theorem canonical_frzKill {s : State} (hc : (memories s).canonical) (p : Nat) : (memories (s.frzKill p)).canonical := by
  have released := canonical_foldState (fun _ k h => canonical_release h k) hc (s.placedPart p)
  unfold State.frzKill
  dsimp only
  rw [memories_ungate]
  split
  · exact canonical_zeroUnits (canonical_zeroUnits released _) _
  · exact released

/-! Sys2Proof/Machine/Service.lean. -/

@[simp] theorem canonical_endCheckpoint {s : State} (hc : (memories s).canonical) (res status bytes : Nat) :
    (memories (s.endCheckpoint res status bytes)).canonical := by
  unfold State.endCheckpoint
  dsimp only
  rw [memories_bump, memories_setField, memories_setField]
  refine canonical_writePa ?_ ..
  exact hc

@[simp] theorem canonical_copyOut {s : State} (hc : (memories s).canonical) (src dst n : Nat) :
    (memories (s.copyOut src dst n)).canonical := by
  obtain ⟨hd, hh, hs, hw⟩ := hc
  simp only [State.copyOut]
  rw [memories_foldState fun _ _ => memories_agentTake ..]
  exact ⟨hd, putCells_wf (fun c => dst + (c.1 - src)) _ (clearRange_wf dst n hh), hs, hw⟩

theorem canonical_pullFrame {s u : State} (hc : (memories s).canonical) {desc c frame : Nat} (e : s.pullFrame desc c frame = some u) :
    (memories u).canonical := by
  unfold State.pullFrame at e
  dsimp only at e
  split at e
  · cases e
  · obtain ⟨i, -, rfl⟩ := Option.map_eq_some_iff.mp e
    exact canonical_writePaN (canonical_foldState (fun _ _ h => canonical_writePaN h ..) hc _) ..

/-! Sys2Proof/Machine/Boot.lean. -/

@[simp] theorem canonical_afterReset {s : State} (hc : (memories s).canonical) : (memories s.afterReset).canonical := by
  obtain ⟨-, hh, -, -⟩ := hc
  exact ⟨rfl, hh, rfl, rfl⟩

@[simp] theorem canonical_coldStart {s : State} (hc : (memories s).canonical) : (memories s.coldStart).canonical := by
  unfold State.coldStart
  rw [memories_setPhase]
  exact canonical_afterReset hc

@[simp] theorem canonical_bootSram {s : State} (hc : (memories s).canonical) : (memories s.bootSram).canonical := by
  obtain ⟨hd, hh, -, -⟩ := hc
  exact ⟨hd, hh, rfl, rfl⟩

end Sys2Proof.Laws
end

section
/-! SUPPORT. Every instruction keeps memories in canonical form. -/

namespace Sys2Proof.Laws

open Sys2Proof Sys2Proof.Machine Sys2Proof.Claims

theorem sound_onFiring {s : State} (hc : (memories s).canonical) {g : Firing → State} (hg : ∀ f, (memories (g f)).canonical) :
    Sound (onFiring s g) := by
  unfold onFiring
  split
  · simpa using hg _
  · simpa using hc

theorem sound_fired {s : State} (hc : (memories s).canonical) {sh : Firing → Shape} {act : Firing → State → State}
    (ha : ∀ f u, memories (act f u) = memories u) : Sound (onFiring s fun f => s.fired (sh f) f (act f)) :=
  sound_onFiring hc fun f => by
    rw [memories_fired s (sh f) f (by rw [ha, memories_counted])]
    exact hc

theorem sound_computes {i : Instr} {h : Hdr} (hi : computes i = some h) {s : State} (hc : (memories s).canonical) :
    Sound (exec i s) := by
  unfold computes at hi
  split at hi <;> cases hi <;> exact sound_fired hc (sh := fun _ => _) fun f u => by simp

theorem sound_atomicAccess {s : State} (hc : (memories s).canonical) {h : Hdr} {sc : Scope} {acq rel : Bool} {t2 : Option Target}
    {bsel : BitVec 4} {disp : BitVec 9} {op : AtOp} {n : Nat} {orderIn : Bool} {opnd cmp : Firing → Nat} {checked : List Slot} :
    Sound (atomicAccess s h sc acq rel t2 bsel disp op n orderIn opnd cmp checked) :=
  sound_fired hc (sh := fun _ => _) fun f u => memories_withFlat _ _ _ _ _ _ fun va => by
    split
    · simp
    · split <;> simp

theorem sound_execAtcas64 {s : State} (hc : (memories s).canonical) {h : Hdr} {sc : Scope} {acq rel : Bool} {t2 : Option Target}
    {bsel : BitVec 4} {disp : BitVec 9} : Sound (execAtcas64 h sc acq rel t2 bsel disp s) :=
  sound_fired hc (sh := fun _ => _) fun f u => memories_withFlat _ _ _ _ _ _ fun va => by
    repeat' split
    all_goals simp

/-- An instruction that issues one access issues it only. -/
theorem sound_accesses {i : Instr} {h : Hdr} (hi : accesses i = some h) {s : State} (hc : (memories s).canonical) :
    Sound (exec i s) := by
  unfold accesses at hi
  split at hi <;> cases hi
  case h_17 | h_18 | h_19 | h_20 | h_21 | h_22 | h_23 | h_24 | h_25 | h_26 | h_27 | h_28 | h_29 | h_30 | h_31 | h_32 =>
    exact sound_atomicAccess hc
  case h_33 => exact sound_execAtcas64 hc
  all_goals exact sound_fired hc (sh := fun _ => _) fun f u => by simp

theorem sound_onCore {s : State} (hc : (memories s).canonical) {g : CoreId → Core → State} (hg : ∀ id x, (memories (g id x)).canonical) :
    Sound (onCore s g) := by
  unfold onCore
  split
  · simpa using hc
  · split
    · simpa using hc
    · simpa using hg _ _

theorem sound_xbarn {s : State} (hc : (memories s).canonical) {kind : CoreId → Bool} {sc : BitVec 3} {g : CoreId → Core → Scope → State}
    (hg : ∀ id x sc, (memories (g id x sc)).canonical) : Sound (xbarn s kind sc g) :=
  sound_onCore hc fun id x => by
    split
    · split
      · exact hg ..
      · simpa using hc
    · simpa using hc

@[simp] theorem sound_ite {c : Prop} [Decidable c] {o o' : Host.Outcome State Fault Refusal} (h : Sound o) (h' : Sound o') :
    Sound (if c then o else o') := by
  split
  · exact h
  · exact h'

@[simp] theorem sound_atPhysical {pa : Nat} {o : Host.Outcome State Fault Refusal} (h : Sound o) : Sound (atPhysical pa o) := by
  unfold atPhysical
  exact sound_ite sound_fault h

theorem canonical_fired {s : State} (hc : (memories s).canonical) (sh : Shape) (f : Firing) {act : State → State}
    (ha : (memories (act (s.counted f sh.h.ty))).canonical) : (memories (s.fired sh f act)).canonical := by
  obtain ⟨k, h⟩ | ⟨c, h⟩ | ⟨-, -, h⟩ | ⟨-, -, h⟩ := fired_cases s sh f act <;> rw [h]
  · simpa using hc
  · simpa using hc
  · exact ha
  · exact hc

theorem sound_consume {s : State} (hc : (memories s).canonical) {h : Hdr} {w lat : Nat}
    {token finish : Firing → DWord → Nat → Nat → Stream → State → State} (ht : ∀ f p d j x u, memories (token f p d j x u) = memories u)
    (hf : ∀ f p d j x u, memories (finish f p d j x u) = memories u) : Sound (consume s h w lat token finish) :=
  sound_onFiring hc fun f => by
    split
    · simpa using hc
    · split
      · exact hc
      · simpa using hc
      · split <;> simp [ht, hf, hc]

theorem sound_rowNode {s : State} (hc : (memories s).canonical) {h : Hdr} {rt w : Nat} {one : Word → Val → Nat × Nat} :
    Sound (rowNode s h rt w one) := by
  refine sound_consume hc (fun f p d j x u => ?_) fun f p d j x u => ?_
  · have lanes : ∀ acc, memories (if (f.a.map Tok.nul).getD false then (acc, u)
        else rowLanes h.ty (f.data .a) one f.k h.ty.lanes 0 acc u).2 = memories u := by
      intro acc
      split <;> simp
    dsimp only
    split <;> simp [lanes]
  · split <;> simp

@[simp] theorem sound_execRmax {s : State} (hc : (memories s).canonical) (h : Hdr) (rt : BitVec 14) (sw : BitVec 5) :
    Sound (execRmax h rt sw s) := sound_rowNode hc

@[simp] theorem sound_execRsumx {s : State} (hc : (memories s).canonical) (h : Hdr) (rm : Rnd) (rt : BitVec 14) (sw : BitVec 5) :
    Sound (execRsumx h rm rt sw s) := sound_rowNode hc

@[simp] theorem sound_execRsqs {s : State} (hc : (memories s).canonical) (h : Hdr) (rm : Rnd) (rt : BitVec 14) (sw : BitVec 5) :
    Sound (execRsqs h rm rt sw s) := sound_rowNode hc

@[simp] theorem sound_execSred {s : State} (hc : (memories s).canonical) (h : Hdr) (sat : Bool) (rm : Rnd) (ops : Bool) (sw : BitVec 5) :
    Sound (execSred h sat rm ops sw s) := by
  refine sound_consume hc (fun f p d j x u => ?_) fun f p d j x u => by simp
  have lanes := fun x => memories_scanLanes (t := h.ty) (ops := ops) (rm := rm) (d := f.data .a) (kctx := f.k)
    (send := fun _ _ s => s) (fun _ _ _ => rfl) h.ty.lanes 0 x u
  dsimp only
  split <;> simp [lanes]

@[simp] theorem sound_execSscan {s : State} (hc : (memories s).canonical) (h : Hdr) (sat : Bool) (rm : Rnd) (ops : Bool) (sw : BitVec 5) :
    Sound (execSscan h sat rm ops sw s) := by
  unfold execSscan
  refine sound_consume hc (fun f p d j x u => ?_) fun f p d j x u => ?_
  · dsimp only
    split
    · simp
    · split
      · simp
      · split
        · rw [memories_foldState fun _ _ => memories_emitAll .., memories_putStream]
        · rw [memories_putStream, memories_scanLanes fun _ _ _ => by simp]
  · dsimp only
    split <;> simp

@[simp] theorem sound_execSzip {s : State} (hc : (memories s).canonical) (h : Hdr) (trunc : Bool) (sw : BitVec 5) :
    Sound (execSzip h trunc sw s) := by
  refine sound_onFiring hc fun f => ?_
  split
  · simpa using hc
  · dsimp only
    split
    · exact hc
    · simpa using hc
    · split
      · simpa using hc
      · split
        · simpa using hc
        · split <;> simp [hc]
      · simpa using hc
      · simpa using hc

@[simp] theorem sound_execRdly {s : State} (hc : (memories s).canonical) (h : Hdr) (depth : BitVec 2) (rt : BitVec 14) (sw : BitVec 5) :
    Sound (execRdly h depth rt sw s) := by
  refine sound_onFiring hc fun f => ?_
  split
  · simpa using hc
  · split
    · simpa using hc
    · dsimp only
      split
      · exact hc
      · split
        · repeat' split
          all_goals simp [hc]
        · simpa using hc
        · exact hc

@[simp] theorem sound_execStrmw {s : State} (hc : (memories s).canonical) (h : Hdr) (sc : Scope) (sw : BitVec 5) (shp : BitVec 6)
    (desc : BitVec 6) : Sound (execStrmw h sc sw shp desc s) := by
  refine sound_onFiring hc fun f => ?_
  dsimp only
  split
  · simpa using hc
  · simpa using hc
  · split
    · simpa using hc
    · exact hc
    · exact hc
    · repeat' split
      all_goals simp [hc]

@[simp] theorem sound_execMregion {s : State} (hc : (memories s).canonical) (h : Hdr) (e : BitVec 4) (wm : BitVec 5) (hm : BitVec 5) :
    Sound (execMregion h e wm hm s) := by
  refine sound_fired hc (sh := fun _ => _) fun f u => ?_
  dsimp only
  generalize hb : (if u.belLoad.isSome = true then (none : Option (State × Region)) else _) = o
  cases o with
  | none => simp
  | some p =>
    have bound : memories p.1 = memories u := by
      split at hb
      · cases hb
      · obtain ⟨b, -, hb⟩ := Option.bind_eq_some_iff.mp hb
        exact memories_bindRegion hb
    simp [bound]

@[simp] theorem sound_execMmac {s : State} (hc : (memories s).canonical) (h : Hdr) (iext : Bool) (sw : BitVec 5) (mrows : BitVec 6) (ires : Bool) :
    Sound (execMmac h iext sw mrows ires s) := by
  refine sound_onFiring hc fun f => ?_
  split
  · simpa using hc
  · split
    · split
      · dsimp only
        repeat' split
        all_goals simp [hc]
      · exact hc
    · exact hc

@[simp] theorem sound_execAwait {s : State} (hc : (memories s).canonical) (h : Hdr) (sc : Scope) (t2 : Option Target) (desc : BitVec 6) :
    Sound (execAwait h sc t2 desc s) := by
  refine sound_onFiring hc fun f => canonical_fired hc _ f ?_
  have hu : (memories (s.counted f h.ty)).canonical := by simpa using hc
  unfold State.withKey
  split
  · simpa using hu
  · split
    · simpa using hu
    · dsimp only
      split
      · exact hu
      · next e => simpa using canonical_awaitRecord hu e

@[simp] theorem sound_execCall {s : State} (hc : (memories s).canonical) (h : Hdr) (rx : BitVec 4) (fld part : Bool) (ent e : BitVec 4) :
    Sound (execCall h rx fld part ent e s) := by
  refine sound_onFiring hc fun f => ?_
  rw [memories_leaving s h f fun f => ?_]
  · exact hc
  · split <;> simp

@[simp] theorem sound_execRet {s : State} (hc : (memories s).canonical) (h : Hdr) (part : Bool) (ent : BitVec 4) :
    Sound (execRet h part ent s) := by
  refine sound_onFiring hc fun f => ?_
  rw [memories_leaving s h f fun f => ?_]
  · exact hc
  · dsimp only
    repeat' split
    all_goals simp

@[simp] theorem sound_execEret {s : State} (hc : (memories s).canonical) (h : Hdr) (act : BitVec 2) : Sound (execEret h act s) := by
  refine sound_onFiring hc fun f => canonical_fired hc _ f ?_
  have hu : (memories (s.counted f h.ty)).canonical := by simpa using hc
  dsimp only
  split
  · split <;> simpa using hu
  · split <;> simp [hc]

@[simp] theorem sound_execXawait {s : State} (hc : (memories s).canonical) (desc : BitVec 6) (rs2 rs1 : BitVec 5) (sc : BitVec 3) :
    Sound (execXawait desc rs2 rs1 sc s) := by
  refine sound_xbarn hc fun id x sc => ?_
  unfold State.coreKey
  dsimp only
  split
  · simpa using hc
  · split
    · simpa using hc
    · split
      · exact hc
      · next e => simpa using canonical_awaitRecord hc e

@[simp] theorem sound_execXsend {s : State} (hc : (memories s).canonical) (rs2 rs1 : BitVec 5) : Sound (execXsend rs2 rs1 s) := by
  refine sound_xbarn hc fun id x sc => ?_
  dsimp only
  repeat' split
  all_goals simp [hc]

@[simp] theorem sound_execEmulationFire {s : State} (hc : (memories s).canonical) : Sound (execEmulationFire s) := by
  refine sound_onFiring hc fun f => ?_
  split
  · refine canonical_fired hc _ f ?_
    split
    · simpa using hc
    · split <;> simp [hc]
  · exact hc

theorem canonical_headerWaits {s u : State} (hc : (memories s).canonical) {d : Delivery} {l : List Value}
    (he : l.findSome? (s.headerWait d) = some u) : (memories u).canonical := by
  obtain ⟨x, -, hx⟩ := List.exists_of_findSome?_eq_some he
  exact canonical_headerWait hc hx

@[simp] theorem sound_execGatherDelivery {s : State} (hc : (memories s).canonical) : Sound (execGatherDelivery s) := by
  refine sound_next.2 ?_
  split
  · exact hc
  · split
    · exact hc
    · split
      · next e => exact canonical_headerWaits hc e
      · dsimp only
        split
        · simpa using hc
        · have put := fun (d : Delivery) (l : List Value) =>
            canonical_foldState (fun _ x h => canonical_putValue h d x) (s := { s with delivs := dropAt s.delivs s.arg.n }) hc l
          split
          · split
            · exact canonical_closeInvoc (put ..) _
            · exact canonical_readyGathers (put ..)
          · exact canonical_readyGathers (put ..)

@[simp] theorem sound_execTileLoad {s : State} (hc : (memories s).canonical) : Sound (execTileLoad s) := by
  have hd : (memories s.drain).canonical := by simpa using hc
  refine sound_next.2 ?_
  dsimp only
  split
  · exact hd
  · split
    · exact hd
    · split
      · simpa using hd
      · split
        · next e => 
          have hm := memories_makeRoom e
          rw [memories_startFetch, hm]
          simpa using hd
        · simpa using hd

@[simp] theorem sound_execInstanceComplete {s : State} (hc : (memories s).canonical) : Sound (execInstanceComplete s) := by
  have hd : (memories s.drain).canonical := by simpa using hc
  refine sound_next.2 ?_
  dsimp only
  split
  · exact hd
  · split
    · split
      · exact canonical_retire hd _
      · exact hd
    · split
      · exact hd
      · split
        · exact canonical_retire hd _
        · split
          · exact hd
          · have hw := fun i : Inst => canonical_sysWrite hd 0 i.k i.v
            split
            · next e => exact canonical_of_eq (hw ..) e
            · next e => exact canonical_of_eq (hw ..) e
            · next e => exact canonical_retire (canonical_of_eq (hw ..) e) _

theorem canonical_getD {s : State} (hc : (memories s).canonical) {o : Option State} (ho : ∀ u, o = some u → (memories u).canonical) :
    (memories (o.getD s)).canonical := by
  cases o with
  | none => exact hc
  | some u => exact ho u rfl

@[simp] theorem sound_execInvComplete {s : State} (hc : (memories s).canonical) : Sound (execInvComplete s) := by
  refine sound_next.2 ?_
  split
  · exact hc
  · next c r _ =>
    split
    · exact hc
    · have counted : (memories (if c.ats then { s with invq := r } else ({ s with invq := r } : State).bump .trInvstat 0 32)).canonical := by
        split
        · exact hc
        · simpa using hc
      dsimp only
      rw [memories_startInv]
      split
      · refine canonical_endRetire ?_ ..
        split
        · exact canonical_getD counted fun _ e => canonical_giveFrame counted e
        · exact counted
      · split
        · exact canonical_getD counted fun _ e => canonical_giveFrame counted e
        · exact counted

@[simp] theorem sound_execShadowFrameReturn {s : State} (hc : (memories s).canonical) : Sound (execShadowFrameReturn s) := by
  refine sound_next.2 ?_
  split
  · exact hc
  · dsimp only
    split
    · exact hc
    · split
      · next e =>
        obtain ⟨d, -, e⟩ := Option.bind_eq_some_iff.mp e
        refine canonical_giveFrame ?_ e
        exact hc
      · simpa using hc

@[simp] theorem sound_execTaskTake {s : State} (hc : (memories s).canonical) : Sound (execTaskTake s) := by
  refine sound_next.2 ?_
  dsimp only
  split
  · exact hc
  · next x _ =>
    split
    · exact hc
    · have hr := canonical_unitRead hc s.arg.u s.arg.k x.v x.recAt 192 (taskSrc s.arg.u)
      split
      · next e => exact canonical_of_eq hr e
      · next e => exact canonical_of_eq hr e
      · next e => exact canonical_taskTrap (by simpa using canonical_of_eq hr e) ..
      · next e => exact canonical_taskTrap (by simpa using canonical_of_eq hr e) ..
      · next e =>
        split
        · exact canonical_taskTrap (by simpa using canonical_of_eq hr e) ..
        · split
          · exact canonical_taskTrap (by simpa using canonical_of_eq hr e) ..
          · exact canonical_registerTask (by simpa using canonical_of_eq hr e) _

@[simp] theorem sound_execTaskIssue {s : State} (hc : (memories s).canonical) : Sound (execTaskIssue s) := by
  refine sound_next.2 ?_
  dsimp only
  split
  · exact hc
  · split
    · exact hc
    · split
      · exact hc
      · next e =>
        have bound : (memories _).canonical := memories_bindRegion e ▸ hc
        refine canonical_freeTaskSlot ?_ ..
        rw [memories_bumpFresh, memories_modTask]
        split
        · exact canonical_freeWaiter (by simpa using bound) _
        · simpa using bound

@[simp] theorem sound_execCoreProgramStart {s : State} (hc : (memories s).canonical) : Sound (execCoreProgramStart s) := by
  have bytes := fun {t : State} (ht : (memories t).canonical) i va n => canonical_coreBytes ht i va n
  refine sound_next.2 ?_
  dsimp only
  rw [memories_placedStrands]
  split
  · exact hc
  · split
    · exact hc
    · split
      · next e => simpa using canonical_of_eq (bytes hc ..) e
      · next e => exact canonical_of_eq (bytes hc ..) e
      · next e =>
        have hr := canonical_of_eq (bytes hc ..) e
        split
        · simpa using hr
        · rw [memories_ite]
          refine canonical_ite (by simpa using hr) ?_
          split
          · next e => simpa using canonical_of_eq (bytes hr ..) e
          · next e => exact canonical_of_eq (bytes hr ..) e
          · next e =>
            have hcode := canonical_of_eq (bytes hr ..) e
            split
            · next e => simpa using canonical_of_eq (bytes hcode ..) e
            · next e => exact canonical_of_eq (bytes hcode ..) e
            · next e => simpa using canonical_of_eq (bytes hcode ..) e

@[simp] theorem sound_execSchedQtabWrite {s : State} (hc : (memories s).canonical) : Sound (execSchedQtabWrite s) := by
  have hr := canonical_readQtab hc s.arg.k (bitsAt s.arg.val.toNat 0 60)
  refine sound_next.2 ?_
  dsimp only
  split
  · next e => exact canonical_of_eq hr e
  · next e => simpa using canonical_of_eq hr e

@[simp] theorem sound_execPreemptRequest {s : State} (hc : (memories s).canonical) : Sound (execPreemptRequest s) := by
  refine sound_next.2 ?_
  split
  · dsimp only
    split
    · split
      · exact hc
      · split
        · exact hc
        · refine canonical_foldState (fun _ _ h => canonical_killInst h ..) ?_ _
          exact hc
    · exact hc
  · exact hc

@[simp] theorem sound_execStopRequestReceive {s : State} (hc : (memories s).canonical) : Sound (execStopRequestReceive s) := by
  refine sound_next.2 ?_
  dsimp only
  split
  · exact hc
  · split
    · exact hc
    · rw [memories_foldState fun _ _ => memories_abandonBarrier ..]
      refine canonical_foldState (fun _ _ h => canonical_abandonWait h _) (canonical_foldState (fun _ _ h => canonical_stopAbort h _) ?_ _) _
      split
      · simpa using hc
      · simpa using hc

@[simp] theorem sound_execSaveComplete {s : State} (hc : (memories s).canonical) : Sound (execSaveComplete s) := by
  unfold execSaveComplete
  dsimp only
  split
  · simpa using hc
  · split
    · simpa using hc
    · split
      · simpa using hc
      · exact sound_atPhysical (sound_atPhysical (sound_next.2 (by simp [hc])))

@[simp] theorem sound_execRestoreComplete {s : State} (hc : (memories s).canonical) : Sound (execRestoreComplete s) := by
  refine sound_next.2 ?_
  dsimp only
  split
  · exact hc
  · split
    · simpa using hc
    · have hr := canonical_readQtab hc s.arg.k (s.regField (.schedQtab s.arg.k) 0 60)
      split
      · next e => exact canonical_of_eq hr e
      · next e =>
        have ht := canonical_of_eq hr e
        split
        · exact ht
        · next e => simpa using canonical_putBack ht e

theorem sound_endLoad {s : State} (hc : (memories s).canonical) (r : LoadReq) (e : LoadEnd) : Sound (s.endLoad r e) := by
  refine sound_atPhysical (sound_next.2 ?_)
  simp only [memories_ite, memories_flushStore, ite_self, memories_hostEvent, memories_bump, memories_setField, memories_update]
  exact canonical_writePa hc ..

theorem sound_headRequest {s : State} (hc : (memories s).canonical) (op : Nat) {act : LoadReq → Host.Outcome State Fault Refusal}
    (ha : ∀ r, Sound (act r)) : Sound (s.headRequest op act) := by
  unfold State.headRequest
  split
  · simpa using hc
  · dsimp only
    refine sound_ite (by simpa using hc) (sound_atPhysical ?_)
    split
    · exact sound_endLoad hc _ _
    · split
      · exact sound_endLoad hc _ _
      · split
        · exact ha _
        · simpa using hc

theorem sound_placeImage {s : State} (hc : (memories s).canonical) (r : LoadReq) (img : List Byte) (srch : Nat) :
    Sound (s.placeImage r img srch) := by
  unfold State.placeImage
  dsimp only
  split
  · exact sound_endLoad hc _ _
  · split
    · exact sound_endLoad hc _ _
    · refine sound_endLoad ?_ _ _
      rw [memories_update, memories_codepub]
      exact canonical_foldState (fun _ _ h => canonical_unitWrite h ..) hc _

@[simp] theorem sound_execUnload {s : State} (hc : (memories s).canonical) : Sound (execUnload s) := by
  refine sound_headRequest hc 3 fun r => ?_
  split
  · exact sound_endLoad hc _ _
  · refine sound_endLoad ?_ _ _
    exact hc

theorem sound_loaderMet {s : State} (hc : (memories s).canonical) (r : LoadReq) (g : UnitGot) :
    Sound (match s.loaderMet g with | (s, .no) => s.endLoad r { code := 12 } | (s, _) => .next s) := by
  have hm : (memories (s.loaderMet g).1).canonical := by simpa using hc
  split
  · next e => exact sound_endLoad (canonical_of_eq hm e) _ _
  · next e => exact sound_next.2 (canonical_of_eq hm e)

@[simp] theorem sound_execLoadNative {s : State} (hc : (memories s).canonical) : Sound (execLoadNative s) := by
  refine sound_headRequest hc 1 fun r => ?_
  have hr := canonical_unitRead hc 0 r.k 4096 r.src r.len srcIo
  split
  · next e =>
    have ht := canonical_of_eq hr e
    split
    · exact sound_endLoad ht _ _
    · have hp := canonical_pagesOk r.k { r := true, w := true, x := true } (pageCount r.dst r.len) r.dst ht
      split
      · next e =>
        have hu := canonical_of_eq hp e
        have copied : ∀ {u : State}, (memories u).canonical →
            (memories (if r.src = r.dst then u else copyImage r.k r.src r.dst r.len (r.len / 64 + 1) 0 u)).canonical := by
          intro u h
          split
          · exact h
          · exact canonical_copyImage (hc := h) ..
        have hd := canonical_unitRead (copied hu) 0 r.k 4096 r.dst r.len srcIo
        dsimp only
        split
        · next e => exact sound_placeImage (canonical_of_eq hd e) _ _ _
        · next e => exact sound_endLoad (canonical_of_eq hd e) _ _
      · next e => exact sound_next.2 (canonical_of_eq hp e)
      · next e => exact sound_endLoad (canonical_of_eq hp e) _ _
  · next e => exact sound_loaderMet (canonical_of_eq hr e) _ _

@[simp] theorem sound_execLoadPekor {s : State} (hc : (memories s).canonical) : Sound (execLoadPekor s) := by
  refine sound_headRequest hc 2 fun r => ?_
  have hr := canonical_unitRead hc 0 r.k 4096 r.src r.len srcIo
  split
  · next e =>
    have ht := canonical_of_eq hr e
    have hp := canonical_pagesOk r.k { r := true, w := true, x := true } (pageCount r.dst r.dlen) r.dst ht
    split
    · next e => exact sound_next.2 (canonical_of_eq hp e)
    · next u _ _ e =>
      have hu := canonical_of_eq hp e
      split
      · exact sound_endLoad hu _ _
      · have htr : ∀ b d, (memories (u.translated b d).1).canonical := fun _ _ => by simpa using hu
        split
        · next e => exact sound_endLoad (canonical_of_eq (htr _ _) e) _ _
        · next e =>
          have hv := canonical_of_eq (htr _ _) e
          split
          · exact sound_endLoad hv _ _
          · exact sound_placeImage (canonical_unitWrite hv ..) _ _ _
  · next e => exact sound_loaderMet (canonical_of_eq hr e) _ _

@[simp] theorem sound_execMemCheckpoint {s : State} (hc : (memories s).canonical) : Sound (execMemCheckpoint s) := by
  unfold execMemCheckpoint
  dsimp only
  split
  · simpa using hc
  · refine sound_atPhysical ?_
    split
    · exact sound_atPhysical (sound_next.2 (canonical_endCheckpoint hc ..))
    · split
      · exact sound_atPhysical (sound_next.2 (canonical_endCheckpoint hc ..))
      · refine sound_next.2 ?_
        rw [memories_foldState fun _ _ => memories_startStop ..]
        simpa using hc

@[simp] theorem sound_execMemCheckpointDone {s : State} (hc : (memories s).canonical) : Sound (execMemCheckpointDone s) := by
  unfold execMemCheckpointDone
  split
  · simpa using hc
  · dsimp only
    split
    · exact sound_atPhysical (sound_next.2 (canonical_endCheckpoint hc ..))
    · split
      · simpa using hc
      · refine sound_atPhysical (sound_next.2 ?_)
        have copied := fun src dst n res st (m : Nat) => canonical_endCheckpoint (canonical_copyOut hc src dst n) res st m
        split
        · rw [memories_foldState fun _ _ => memories_resumeSlot ..]
          exact copied ..
        · exact copied ..

theorem canonical_takenFrame {s u : State} {f : Nat} (hc : (memories s).canonical) {desc : Nat → Nat} {c : Nat} {l : List Nat}
    (he : (l.findSome? fun x => match s.takeFrame (desc x) c with | .got s f => some (s, f) | _ => none) = some (u, f)) :
    (memories u).canonical := by
  obtain ⟨x, -, hx⟩ := List.exists_of_findSome?_eq_some he
  split at hx
  · next e =>
    cases hx
    exact canonical_takeFrame hc e
  · cases hx

/-- A meaning that keeps memories in canonical form. Proofs about one that finds a leaf unfold it as a function and take the search
for the leaf as an unknown function: the kernel cannot compute a walk of an unknown memory. -/
def KeepsForm (run : State → Host.Outcome State Fault Refusal) : Prop := ∀ s : State, (memories s).canonical → Sound (run s)

theorem keepsForm_execPageMigration : KeepsForm execPageMigration := by
  obtain ⟨leafOf, found⟩ : ∃ f, f = State.leafOf := ⟨_, rfl⟩
  delta execPageMigration
  rw [← found]
  clear found
  intro s hc
  refine sound_next.2 ?_
  dsimp only
  rw [memories_placedStrands]
  split
  · exact hc
  · next i _ =>
    split
    · exact hc
    · next r _ =>
      have hm : (memories (s.modInst i.k i.v fun i => { i with migr := r })).canonical := by simpa using hc
      split
      · exact hm
      · split
        · exact hm
        · split
          · exact hm
          · split
            · next e => exact canonical_movePage (canonical_takenFrame hm e) ..
            · exact hm

@[simp] theorem sound_execPageMigration {s : State} (hc : (memories s).canonical) : Sound (execPageMigration s) :=
  keepsForm_execPageMigration s hc

theorem keepsForm_execHbmRetire : KeepsForm execHbmRetire := by
  obtain ⟨leafOf, found⟩ : ∃ f, f = State.leafOf := ⟨_, rfl⟩
  delta execHbmRetire
  rw [← found]
  clear found
  intro s hc
  dsimp only
  refine sound_ite (by simpa using hc) (sound_atPhysical (sound_atPhysical (sound_next.2 ?_)))
  have ended := fun res st => canonical_endRetire hc res st 0
  split
  · exact ended ..
  · split
    · exact ended ..
    · split
      · split
        · exact ended ..
        · next e => exact canonical_endRetire (by simpa using canonical_pullFrame hc e) ..
      · split
        · exact ended ..
        · split
          · exact ended ..
          · split
            · exact ended ..
            · next e => exact canonical_movePage (by simpa using canonical_takenFrame hc e) ..

@[simp] theorem sound_execHbmRetire {s : State} (hc : (memories s).canonical) : Sound (execHbmRetire s) := keepsForm_execHbmRetire s hc

@[simp] theorem sound_execMov {s : State} (hc : (memories s).canonical) (h : Hdr) (t2 : Option Target) :
    Sound (execMov h t2 s) := sound_fired hc (sh := fun _ => _) fun f u => by simp

@[simp] theorem sound_execConst {s : State} (hc : (memories s).canonical) (h : Hdr) (imm : BitVec 22) :
    Sound (execConst h imm s) := sound_fired hc (sh := fun _ => _) fun f u => by simp

@[simp] theorem sound_execLit {s : State} (hc : (memories s).canonical) (h : Hdr) : Sound (execLit h s) :=
  sound_fired hc (sh := fun _ => _) fun f u => by simp

@[simp] theorem sound_execSwitch {s : State} (hc : (memories s).canonical) (h : Hdr) : Sound (execSwitch h s) :=
  sound_fired hc (sh := fun _ => _) fun f u => by simp

@[simp] theorem sound_execMerge {s : State} (hc : (memories s).canonical) (h : Hdr) : Sound (execMerge h s) :=
  sound_fired hc (sh := fun _ => _) fun f u => by simp

@[simp] theorem sound_execGate {s : State} (hc : (memories s).canonical) (h : Hdr) : Sound (execGate h s) :=
  sound_fired hc (sh := fun _ => _) fun f u => by simp

@[simp] theorem sound_execSync {s : State} (hc : (memories s).canonical) (h : Hdr) (_c3 : Bool) : Sound (execSync h _c3 s) :=
  sound_fired hc (sh := fun _ => _) fun f u => by simp

@[simp] theorem sound_execDrop {s : State} (hc : (memories s).canonical) (h : Hdr) : Sound (execDrop h s) :=
  sound_fired hc (sh := fun _ => _) fun f u => by simp

@[simp] theorem sound_execNull {s : State} (hc : (memories s).canonical) (h : Hdr) : Sound (execNull h s) :=
  sound_fired hc (sh := fun _ => _) fun f u => by simp

@[simp] theorem sound_execAlloc {s : State} (hc : (memories s).canonical) (h : Hdr) (lim : BitVec 9) :
    Sound (execAlloc h lim s) := by
  refine sound_fired hc (sh := fun _ => _) fun f u => ?_
  dsimp only
  (repeat' split) <;> simp

@[simp] theorem sound_execFree {s : State} (hc : (memories s).canonical) (h : Hdr) : Sound (execFree h s) := by
  refine sound_fired hc (sh := fun _ => _) fun f u => ?_
  dsimp only
  (repeat' split) <;> simp

@[simp] theorem sound_execEnter {s : State} (hc : (memories s).canonical) (h : Hdr) (idx : BitVec 8) (imm : Bool) (n : BitVec 8) :
    Sound (execEnter h idx imm n s) := by
  refine sound_fired hc (sh := fun _ => _) fun f u => ?_
  dsimp only
  (repeat' split) <;> simp

@[simp] theorem sound_execLeave {s : State} (hc : (memories s).canonical) (h : Hdr) (n : BitVec 8) : Sound (execLeave h n s) :=
  sound_fired hc (sh := fun _ => _) fun f u => by simp

@[simp] theorem sound_execTagrd {s : State} (hc : (memories s).canonical) (h : Hdr) (w : BitVec 4) (off : BitVec 6)
    (sel : BitVec 3) :
    Sound (execTagrd h w off sel s) := sound_fired hc (sh := fun _ => _) fun f u => by simp

@[simp] theorem sound_execTagwr {s : State} (hc : (memories s).canonical) (h : Hdr) (w : BitVec 4) (off : BitVec 6) :
    Sound (execTagwr h w off s) := sound_fired hc (sh := fun _ => _) fun f u => by simp

@[simp] theorem sound_execReconf {s : State} (hc : (memories s).canonical) (h : Hdr) (sat : Bool) (rm : Rnd) :
    Sound (execReconf h sat rm s) := sound_fired hc (sh := fun _ => _) fun f u => by (repeat' split) <;> simp

@[simp] theorem sound_execLdt {s : State} (hc : (memories s).canonical) (h : Hdr) (sc : Scope) (t2 : Option Target)
    (desc : BitVec 6) :
    Sound (execLdt h sc t2 desc s) := sound_fired hc (sh := fun _ => _) fun f u => by simp

@[simp] theorem sound_execStt {s : State} (hc : (memories s).canonical) (h : Hdr) (sc : Scope) (t2 : Option Target)
    (desc : BitVec 6) :
    Sound (execStt h sc t2 desc s) := sound_fired hc (sh := fun _ => _) fun f u => by simp

@[simp] theorem sound_execStrm {s : State} (hc : (memories s).canonical) (h : Hdr) (sw : BitVec 5) (shp desc : BitVec 6) :
    Sound (execStrm h sw shp desc s) := by
  refine sound_fired hc (sh := fun _ => _) fun f u => ?_
  dsimp only
  (repeat' split) <;> simp

@[simp] theorem sound_execRrel {s : State} (hc : (memories s).canonical) (h : Hdr) (rm : Rnd) (tgt : BitVec 3) :
    Sound (execRrel h rm tgt s) := sound_fired hc (sh := fun _ => _) fun f u => by simp

@[simp] theorem sound_execMfree {s : State} (hc : (memories s).canonical) (h : Hdr) : Sound (execMfree h s) :=
  sound_fired hc (sh := fun _ => _) fun f u => by (repeat' split) <;> simp

@[simp] theorem sound_execWload {s : State} (hc : (memories s).canonical) (h : Hdr) (t2 : Option Target) (cmp : Bool)
    (gsz : BitVec 2) (wfmt : BitVec 4) :
    Sound (execWload h t2 cmp gsz wfmt s) := sound_fired hc (sh := fun _ => _) fun f u => by (repeat' split) <;> simp

@[simp] theorem sound_execWswap {s : State} (hc : (memories s).canonical) (h : Hdr) : Sound (execWswap h s) :=
  sound_fired hc (sh := fun _ => _) fun f u => by (repeat' split) <;> simp

@[simp] theorem sound_execMdrain {s : State} (hc : (memories s).canonical) (h : Hdr) (_sat : Bool) (sw : BitVec 5)
    (_pen : Bool) (_port : BitVec 4) :
    Sound (execMdrain h _sat sw _pen _port s) := sound_fired hc (sh := fun _ => _) fun f u => by (repeat' split) <;> simp

@[simp] theorem sound_execTtask {s : State} (hc : (memories s).canonical) (h : Hdr) (sc : Scope) (t2 : Option Target)
    (bsel : BitVec 4) (disp : BitVec 9) :
    Sound (execTtask h sc t2 bsel disp s) := sound_fired hc (sh := fun _ => _) fun f u => by (repeat' split) <;> simp

@[simp] theorem sound_execCpy {s : State} (hc : (memories s).canonical) (h : Hdr) (sc : Scope) (t2 : Option Target)
    (bsel : BitVec 4) (disp : BitVec 9) :
    Sound (execCpy h sc t2 bsel disp s) := sound_fired hc (sh := fun _ => _) fun f u => by simp

@[simp] theorem sound_execGath {s : State} (hc : (memories s).canonical) (h : Hdr) (sc : Scope) (t2 : Option Target)
    (bsel : BitVec 4) (disp : BitVec 9) :
    Sound (execGath h sc t2 bsel disp s) := sound_fired hc (sh := fun _ => _) fun f u => by simp

@[simp] theorem sound_execScat {s : State} (hc : (memories s).canonical) (h : Hdr) (sc : Scope) (t2 : Option Target)
    (bsel : BitVec 4) (disp : BitVec 9) :
    Sound (execScat h sc t2 bsel disp s) := sound_fired hc (sh := fun _ => _) fun f u => by simp

@[simp] theorem sound_execColl {s : State} (hc : (memories s).canonical) (h : Hdr) (sc : Scope) (t2 : Option Target)
    (bsel : BitVec 4) (disp : BitVec 9) :
    Sound (execColl h sc t2 bsel disp s) := sound_fired hc (sh := fun _ => _) fun f u => by simp

@[simp] theorem sound_execPublish {s : State} (hc : (memories s).canonical) (h : Hdr) (sc : Scope) (t2 : Option Target)
    (desc : BitVec 6) :
    Sound (execPublish h sc t2 desc s) := sound_fired hc (sh := fun _ => _) fun f u => by simp

@[simp] theorem sound_execRoll {s : State} (hc : (memories s).canonical) (h : Hdr) (_sc : Scope) (t2 : Option Target) :
    Sound (execRoll h _sc t2 s) := sound_fired hc (sh := fun _ => _) fun f u => by simp

@[simp] theorem sound_execRollArr {s : State} (hc : (memories s).canonical) (h : Hdr) (sc : Scope) (_t2 : Option Target)
    (bsel : BitVec 4) (disp : BitVec 9) :
    Sound (execRollArr h sc _t2 bsel disp s) := sound_onFiring hc fun f => by (repeat' split) <;> simp [hc]

@[simp] theorem sound_execBarwait {s : State} (hc : (memories s).canonical) (h : Hdr) (sc : Scope) (t2 : Option Target)
    (bsel : BitVec 4) (disp : BitVec 9) :
    Sound (execBarwait h sc t2 bsel disp s) := sound_fired hc (sh := fun _ => _) fun f u => by simp

@[simp] theorem sound_execBarinit {s : State} (hc : (memories s).canonical) (h : Hdr) (sc : Scope) (t2 : Option Target)
    (bsel : BitVec 4) (disp : BitVec 9) :
    Sound (execBarinit h sc t2 bsel disp s) := sound_fired hc (sh := fun _ => _) fun f u => by simp

@[simp] theorem sound_execExit {s : State} (hc : (memories s).canonical) (h : Hdr) (part : Bool) (ent e : BitVec 4) :
    Sound (execExit h part ent e s) := sound_onFiring hc fun f => by simp [hc]

@[simp] theorem sound_execSend {s : State} (hc : (memories s).canonical) (h : Hdr) (loc : Bool) (barn : BitVec 6)
    (tile : BitVec 3) (ch : BitVec 6) :
    Sound (execSend h loc barn tile ch s) := by
  refine sound_fired hc (sh := fun _ => _) fun f u => ?_
  dsimp only
  (repeat' split) <;> simp

@[simp] theorem sound_execTrap {s : State} (hc : (memories s).canonical) (h : Hdr) (code : BitVec 16) :
    Sound (execTrap h code s) := sound_fired hc (sh := fun _ => _) fun f u => by simp

@[simp] theorem sound_execCrrd {s : State} (hc : (memories s).canonical) (h : Hdr) (num : BitVec 12) :
    Sound (execCrrd h num s) := sound_fired hc (sh := fun _ => _) fun f u => by simp

@[simp] theorem sound_execCrwr {s : State} (hc : (memories s).canonical) (h : Hdr) (num : BitVec 12) :
    Sound (execCrwr h num s) := sound_onFiring hc fun f => by (repeat' split) <;> simp [hc]

@[simp] theorem sound_execGong {s : State} (hc : (memories s).canonical) (h : Hdr) (cause : BitVec 8) :
    Sound (execGong h cause s) := sound_fired hc (sh := fun _ => _) fun f u => by simp

@[simp] theorem sound_execCodepub {s : State} (hc : (memories s).canonical) (h : Hdr) (sc : Scope) (t2 : Option Target)
    (bsel : BitVec 4) (disp : BitVec 9) :
    Sound (execCodepub h sc t2 bsel disp s) := sound_fired hc (sh := fun _ => _) fun f u => by simp

@[simp] theorem sound_execFetchsync {s : State} (hc : (memories s).canonical) (h : Hdr) (sc : Scope) (t2 : Option Target) :
    Sound (execFetchsync h sc t2 s) := sound_fired hc (sh := fun _ => _) fun f u => by simp

@[simp] theorem sound_execLaunch {s : State} (hc : (memories s).canonical) (h : Hdr) (sc : Scope) (t2 : Option Target)
    (bsel : BitVec 4) (disp : BitVec 9) :
    Sound (execLaunch h sc t2 bsel disp s) := sound_fired hc (sh := fun _ => _) fun f u => by simp

@[simp] theorem sound_execLqtake {s : State} (hc : (memories s).canonical) (h : Hdr) (t2 : Option Target) (lq : BitVec 6) :
    Sound (execLqtake h t2 lq s) := sound_fired hc (sh := fun _ => _) fun f u => by simp

@[simp] theorem sound_execKdone {s : State} (hc : (memories s).canonical) (h : Hdr) : Sound (execKdone h s) := by
  refine sound_fired hc (sh := fun _ => _) fun f u => ?_
  dsimp only
  (repeat' split) <;> simp

theorem sound_pushToken {s : State} (hc : (memories s).canonical) (q : BitVec 4) (rs2 : BitVec 5) (data : Core → Word) (nul eos : Bool) :
    Sound (pushToken s q rs2 data nul eos) := sound_xbarn hc fun id x sc => by simp [hc]

@[simp] theorem sound_execXpush {s : State} (hc : (memories s).canonical) (q : BitVec 4) (rs1 rs2 : BitVec 5) :
    Sound (execXpush q rs1 rs2 s) := sound_pushToken hc _ _ _ _ _

@[simp] theorem sound_execXpushe {s : State} (hc : (memories s).canonical) (q : BitVec 4) (rs2 : BitVec 5) :
    Sound (execXpushe q rs2 s) := sound_pushToken hc _ _ _ _ _

@[simp] theorem sound_execXpushn {s : State} (hc : (memories s).canonical) (q : BitVec 4) (rs2 : BitVec 5) :
    Sound (execXpushn q rs2 s) := sound_pushToken hc _ _ _ _ _

@[simp] theorem sound_execXpop {s : State} (hc : (memories s).canonical) (q : BitVec 4) (rd : BitVec 5) :
    Sound (execXpop q rd s) := sound_xbarn hc fun id x sc => by (repeat' split) <;> simp [hc]

@[simp] theorem sound_execXpopnb {s : State} (hc : (memories s).canonical) (q : BitVec 4) (rd : BitVec 5) :
    Sound (execXpopnb q rd s) := sound_xbarn hc fun id x sc => by (repeat' split) <;> simp [hc]

@[simp] theorem sound_execXqcnt {s : State} (hc : (memories s).canonical) (q : BitVec 4) (rd : BitVec 5) :
    Sound (execXqcnt q rd s) := sound_xbarn hc fun id x sc => by simp [hc]

@[simp] theorem sound_execXlw {s : State} (hc : (memories s).canonical) (bsel : BitVec 4) (disp : BitVec 8) (rs1 rd : BitVec 5) :
    Sound (execXlw bsel disp rs1 rd s) := sound_xbarn hc fun id x sc => by simp [hc]

@[simp] theorem sound_execXsw {s : State} (hc : (memories s).canonical) (bsel : BitVec 4) (disp : BitVec 8) (rs2 rs1 : BitVec 5) :
    Sound (execXsw bsel disp rs2 rs1 s) := sound_xbarn hc fun id x sc => by simp [hc]

@[simp] theorem sound_execXlq {s : State} (hc : (memories s).canonical) (bsel : BitVec 4) (rs2 rs1 : BitVec 5) (q : BitVec 4) :
    Sound (execXlq bsel rs2 rs1 q s) := sound_xbarn hc fun id x sc => by simp [hc]

@[simp] theorem sound_execXqst {s : State} (hc : (memories s).canonical) (bsel q : BitVec 4) (rs1 : BitVec 5) :
    Sound (execXqst bsel q rs1 s) := sound_xbarn hc fun id x sc => by (repeat' split) <;> simp [hc]

@[simp] theorem sound_execXcpy {s : State} (hc : (memories s).canonical) (bsel : BitVec 4) (sc : BitVec 3) (rs1 : BitVec 5) :
    Sound (execXcpy bsel sc rs1 s) := sound_xbarn hc fun id x sc => by simp [hc]

@[simp] theorem sound_execXgath {s : State} (hc : (memories s).canonical) (bsel : BitVec 4) (sc : BitVec 3) (rs1 : BitVec 5) :
    Sound (execXgath bsel sc rs1 s) := sound_xbarn hc fun id x sc => by simp [hc]

@[simp] theorem sound_execXscat {s : State} (hc : (memories s).canonical) (bsel : BitVec 4) (sc : BitVec 3) (rs1 : BitVec 5) :
    Sound (execXscat bsel sc rs1 s) := sound_xbarn hc fun id x sc => by simp [hc]

@[simp] theorem sound_execXcoll {s : State} (hc : (memories s).canonical) (bsel : BitVec 4) (sc : BitVec 3) (rs1 : BitVec 5) :
    Sound (execXcoll bsel sc rs1 s) := sound_xbarn hc fun id x sc => by simp [hc]

@[simp] theorem sound_execXttask {s : State} (hc : (memories s).canonical) (bsel : BitVec 4) (sc : BitVec 3) (rs1 : BitVec 5) :
    Sound (execXttask bsel sc rs1 s) := sound_xbarn hc fun id x sc => by (repeat' split) <;> simp [hc]

@[simp] theorem sound_execXpub {s : State} (hc : (memories s).canonical) (desc : BitVec 6) (rs2 rs1 : BitVec 5) (sc : BitVec 3) :
    Sound (execXpub desc rs2 rs1 sc s) := sound_xbarn hc fun id x sc => by simp [hc]

@[simp] theorem sound_execXbarr {s : State} (hc : (memories s).canonical) (bsel : BitVec 4) (sc : BitVec 3) (rs1 : BitVec 5) :
    Sound (execXbarr bsel sc rs1 s) := sound_xbarn hc fun id x sc => by simp [hc]

@[simp] theorem sound_execXbarw {s : State} (hc : (memories s).canonical) (bsel : BitVec 4) (sc : BitVec 3) (rs1 rd : BitVec 5) :
    Sound (execXbarw bsel sc rs1 rd s) := sound_xbarn hc fun id x sc => by simp [hc]

@[simp] theorem sound_execXfence {s : State} (hc : (memories s).canonical) (rel acq : Bool) (sc : BitVec 3) :
    Sound (execXfence rel acq sc s) := sound_xbarn hc fun id x sc => by simp [hc]

@[simp] theorem sound_execWaitc {s : State} (hc : (memories s).canonical) (l st : BitVec 6) (c t : BitVec 5) :
    Sound (execWaitc l st c t s) := sound_xbarn hc fun id x sc => by simp [hc]

@[simp] theorem sound_execXcr {s : State} (hc : (memories s).canonical) (num : BitVec 12) (rd : BitVec 5) :
    Sound (execXcr num rd s) := sound_xbarn hc fun id x sc => by simp [hc]

@[simp] theorem sound_execEcall {s : State} (hc : (memories s).canonical) : Sound (execEcall s) :=
  sound_onCore hc fun id x => by simp [hc]

@[simp] theorem sound_execEbreak {s : State} (hc : (memories s).canonical) : Sound (execEbreak s) :=
  sound_onCore hc fun id x => by simp [hc]

@[simp] theorem sound_execBaseInstruction {s : State} (hc : (memories s).canonical) (w : BitVec 32) (comp : Bool) :
    Sound (execBaseInstruction w comp s) := sound_onCore hc fun id x => by (repeat' split) <;> simp [hc]

@[simp] theorem sound_execTokenHop {s : State} (hc : (memories s).canonical) : Sound (execTokenHop s) := by
  unfold execTokenHop
  (repeat' split) <;> simp [hc]

@[simp] theorem sound_execMatchToken {s : State} (hc : (memories s).canonical) : Sound (execMatchToken s) := by
  unfold execMatchToken
  dsimp only
  (repeat' split) <;> simp [hc]

@[simp] theorem sound_execReconfTokenArrival {s : State} (hc : (memories s).canonical) : Sound (execReconfTokenArrival s) := by
  unfold execReconfTokenArrival
  (repeat' split) <;> simp [hc]

@[simp] theorem sound_execConfigInForce {s : State} (hc : (memories s).canonical) : Sound (execConfigInForce s) := by
  unfold execConfigInForce
  dsimp only
  (repeat' split) <;> simp [hc]

@[simp] theorem sound_execTrapNodeFire {s : State} (hc : (memories s).canonical) : Sound (execTrapNodeFire s) :=
  sound_onFiring hc fun f => by (repeat' split) <;> simp [hc]

@[simp] theorem sound_execBlockFetch {s : State} (hc : (memories s).canonical) : Sound (execBlockFetch s) := by
  unfold execBlockFetch
  (repeat' split) <;> simp [hc]

@[simp] theorem sound_execFetchRetry {s : State} (hc : (memories s).canonical) : Sound (execFetchRetry s) := by
  unfold execFetchRetry
  (repeat' split) <;> simp [hc]

@[simp] theorem sound_execGatherTake {s : State} (hc : (memories s).canonical) : Sound (execGatherTake s) := by
  unfold execGatherTake
  dsimp only
  (repeat' split) <;> simp [hc]

@[simp] theorem sound_execBaySelect {s : State} (hc : (memories s).canonical) : Sound (execBaySelect s) := by
  unfold execBaySelect
  dsimp only
  (repeat' split) <;> simp [hc]

@[simp] theorem sound_execBayConfigured {s : State} (hc : (memories s).canonical) :
    Sound (execBayConfigured s) := by simp [execBayConfigured, hc]

@[simp] theorem sound_execBayIdleTimeout {s : State} (hc : (memories s).canonical) :
    Sound (execBayIdleTimeout s) := by simp [execBayIdleTimeout, hc]

@[simp] theorem sound_execBayFree {s : State} (hc : (memories s).canonical) : Sound (execBayFree s) := by simp [execBayFree, hc]

@[simp] theorem sound_execHandlerSelect {s : State} (hc : (memories s).canonical) : Sound (execHandlerSelect s) := by
  unfold execHandlerSelect
  dsimp only
  (repeat' split) <;> simp [hc]

@[simp] theorem sound_execInvocationClose {s : State} (hc : (memories s).canonical) : Sound (execInvocationClose s) := by
  unfold execInvocationClose
  (repeat' split) <;> simp [hc]

@[simp] theorem sound_execMemNodeRequest {s : State} (hc : (memories s).canonical) :
    Sound (execMemNodeRequest s) := by simp [execMemNodeRequest, hc]

@[simp] theorem sound_execBankRequest {s : State} (hc : (memories s).canonical) : Sound (execBankRequest s) := by
  unfold execBankRequest
  dsimp only
  (repeat' split) <;> simp [hc]

@[simp] theorem sound_execAccessResponse {s : State} (hc : (memories s).canonical) : Sound (execAccessResponse s) := by
  unfold execAccessResponse
  (repeat' split) <;> simp [hc]

@[simp] theorem sound_execBackInvalidate {s : State} (hc : (memories s).canonical) : Sound (execBackInvalidate s) := by
  unfold execBackInvalidate
  (repeat' split) <;> simp [hc]

@[simp] theorem sound_execHostMemAccess {s : State} (hc : (memories s).canonical) : Sound (execHostMemAccess s) := by
  unfold execHostMemAccess
  (repeat' split) <;> simp [hc]

@[simp] theorem sound_execHostApertureAccess {s : State} (hc : (memories s).canonical) :
    Sound (execHostApertureAccess s) := by simp [execHostApertureAccess, hc]

@[simp] theorem sound_execBarAtomicRequest {s : State} (hc : (memories s).canonical) :
    Sound (execBarAtomicRequest s) := by simp [execBarAtomicRequest, hc]

@[simp] theorem sound_execHostSnoop {s : State} (hc : (memories s).canonical) : Sound (execHostSnoop s) := by
  unfold execHostSnoop
  dsimp only
  (repeat' split) <;> simp [hc]

@[simp] theorem sound_execWalkComplete {s : State} (hc : (memories s).canonical) : Sound (execWalkComplete s) := by
  unfold execWalkComplete
  (repeat' split) <;> simp [hc]

@[simp] theorem sound_execAtsResponse {s : State} (hc : (memories s).canonical) : Sound (execAtsResponse s) := by
  unfold execAtsResponse
  dsimp only
  (repeat' split) <;> simp [hc]

@[simp] theorem sound_execFaultQueueWrite {s : State} (hc : (memories s).canonical) : Sound (execFaultQueueWrite s) := by
  unfold execFaultQueueWrite
  dsimp only
  (repeat' split) <;> simp [hc]

@[simp] theorem sound_execPriRequest {s : State} (hc : (memories s).canonical) : Sound (execPriRequest s) := by
  unfold execPriRequest
  (repeat' split) <;> simp [hc]

@[simp] theorem sound_execPriResponse {s : State} (hc : (memories s).canonical) : Sound (execPriResponse s) := by
  unfold execPriResponse
  (repeat' split) <;> simp [hc]

@[simp] theorem sound_execFqresRetry {s : State} (hc : (memories s).canonical) : Sound (execFqresRetry s) := by
  unfold execFqresRetry
  (repeat' split) <;> simp [hc]

@[simp] theorem sound_execFqresFail {s : State} (hc : (memories s).canonical) : Sound (execFqresFail s) := by
  unfold execFqresFail
  (repeat' split) <;> simp [hc]

@[simp] theorem sound_execInvAll {s : State} (hc : (memories s).canonical) : Sound (execInvAll s) := by simp [execInvAll, hc]

@[simp] theorem sound_execInvAsid {s : State} (hc : (memories s).canonical) : Sound (execInvAsid s) := by simp [execInvAsid, hc]

@[simp] theorem sound_execInvRange {s : State} (hc : (memories s).canonical) :
    Sound (execInvRange s) := by simp [execInvRange, hc]

@[simp] theorem sound_execInvAsidEntry {s : State} (hc : (memories s).canonical) :
    Sound (execInvAsidEntry s) := by simp [execInvAsidEntry, hc]

@[simp] theorem sound_execAtsInvalidate {s : State} (hc : (memories s).canonical) :
    Sound (execAtsInvalidate s) := by simp [execAtsInvalidate, hc]

@[simp] theorem sound_execSpadAllocWrite {s : State} (hc : (memories s).canonical) :
    Sound (execSpadAllocWrite s) := by simp [execSpadAllocWrite, hc]

@[simp] theorem sound_execWbufAllocWrite {s : State} (hc : (memories s).canonical) :
    Sound (execWbufAllocWrite s) := by simp [execWbufAllocWrite, hc]

@[simp] theorem sound_execScrubDone {s : State} (hc : (memories s).canonical) : Sound (execScrubDone s) := by
  unfold execScrubDone
  (repeat' split) <;> simp [hc]

@[simp] theorem sound_execCtxShdpoolWrite {s : State} (hc : (memories s).canonical) :
    Sound (execCtxShdpoolWrite s) := by simp [execCtxShdpoolWrite, hc]

@[simp] theorem sound_execStreamTokenSend {s : State} (hc : (memories s).canonical) : Sound (execStreamTokenSend s) := by
  unfold execStreamTokenSend
  dsimp only
  (repeat' split) <;> simp [hc]

@[simp] theorem sound_execStrmwComplete {s : State} (hc : (memories s).canonical) : Sound (execStrmwComplete s) := by
  unfold execStrmwComplete
  (repeat' split) <;> simp [hc]

@[simp] theorem sound_execRegionRowEntry {s : State} (hc : (memories s).canonical) : Sound (execRegionRowEntry s) := by
  unfold execRegionRowEntry
  (repeat' split) <;> simp [hc]

@[simp] theorem sound_execMmacTileComplete {s : State} (hc : (memories s).canonical) : Sound (execMmacTileComplete s) := by
  unfold execMmacTileComplete
  dsimp only
  (repeat' split) <;> simp [hc]

@[simp] theorem sound_execMdrainResult {s : State} (hc : (memories s).canonical) : Sound (execMdrainResult s) := by
  unfold execMdrainResult
  (repeat' split) <;> simp [hc]

@[simp] theorem sound_execWloadComplete {s : State} (hc : (memories s).canonical) : Sound (execWloadComplete s) := by
  unfold execWloadComplete
  dsimp only
  (repeat' split) <;> simp [hc]

@[simp] theorem sound_execWswapInForce {s : State} (hc : (memories s).canonical) : Sound (execWswapInForce s) := by
  unfold execWswapInForce
  (repeat' split) <;> simp [hc]

@[simp] theorem sound_execMfreeRelease {s : State} (hc : (memories s).canonical) : Sound (execMfreeRelease s) := by
  unfold execMfreeRelease
  (repeat' split) <;> simp [hc]

@[simp] theorem sound_execTileTaskStep {s : State} (hc : (memories s).canonical) : Sound (execTileTaskStep s) := by
  unfold execTileTaskStep
  (repeat' split) <;> simp [hc]

@[simp] theorem sound_execEngineCommandStart {s : State} (hc : (memories s).canonical) : Sound (execEngineCommandStart s) := by
  unfold execEngineCommandStart
  dsimp only
  (repeat' split) <;> simp [hc]

@[simp] theorem sound_execEngineCommandComplete {s : State} (hc : (memories s).canonical) :
    Sound (execEngineCommandComplete s) := by
  unfold execEngineCommandComplete
  (repeat' split) <;> simp [hc]

@[simp] theorem sound_execCollRankArrival {s : State} (hc : (memories s).canonical) :
    Sound (execCollRankArrival s) := by simp [execCollRankArrival, hc]

@[simp] theorem sound_execCollComplete {s : State} (hc : (memories s).canonical) : Sound (execCollComplete s) := by
  unfold execCollComplete
  (repeat' split) <;> simp [hc]

@[simp] theorem sound_execSheafPublishApply {s : State} (hc : (memories s).canonical) : Sound (execSheafPublishApply s) := by
  unfold execSheafPublishApply
  (repeat' split) <;> simp [hc]

@[simp] theorem sound_execSheafRegisterApply {s : State} (hc : (memories s).canonical) : Sound (execSheafRegisterApply s) := by
  unfold execSheafRegisterApply
  (repeat' split) <;> simp [hc]

@[simp] theorem sound_execBarwaitServe {s : State} (hc : (memories s).canonical) : Sound (execBarwaitServe s) := by
  unfold execBarwaitServe
  (repeat' split) <;> simp [hc]

@[simp] theorem sound_execEdgeQueueDeliver {s : State} (hc : (memories s).canonical) : Sound (execEdgeQueueDeliver s) := by
  unfold execEdgeQueueDeliver
  (repeat' split) <;> simp [hc]

@[simp] theorem sound_execCoreProgramEnd {s : State} (hc : (memories s).canonical) : Sound (execCoreProgramEnd s) := by
  unfold execCoreProgramEnd
  dsimp only
  (repeat' split) <;> simp [hc]

@[simp] theorem sound_execCountedAccessDone {s : State} (hc : (memories s).canonical) : Sound (execCountedAccessDone s) := by
  unfold execCountedAccessDone
  (repeat' split) <;> simp [hc]

@[simp] theorem sound_execDoorbellWrite {s : State} (hc : (memories s).canonical) :
    Sound (execDoorbellWrite s) := by simp [execDoorbellWrite, hc]

@[simp] theorem sound_execDirectClaim {s : State} (hc : (memories s).canonical) : Sound (execDirectClaim s) := by
  unfold execDirectClaim
  dsimp only
  (repeat' split) <;> simp [hc]

@[simp] theorem sound_execPlacementTurn {s : State} (hc : (memories s).canonical) : Sound (execPlacementTurn s) := by
  unfold execPlacementTurn
  dsimp only
  (repeat' split) <;> simp [hc]

@[simp] theorem sound_execWinnowWindowEnd {s : State} (hc : (memories s).canonical) :
    Sound (execWinnowWindowEnd s) := by simp [execWinnowWindowEnd, hc]

@[simp] theorem sound_execReeveRelease {s : State} (hc : (memories s).canonical) : Sound (execReeveRelease s) := by
  unfold execReeveRelease
  (repeat' split) <;> simp [hc]

@[simp] theorem sound_execReeveSelect {s : State} (hc : (memories s).canonical) : Sound (execReeveSelect s) := by
  unfold execReeveSelect
  dsimp only
  (repeat' split) <;> simp [hc]

@[simp] theorem sound_execSheafRetWrite {s : State} (hc : (memories s).canonical) :
    Sound (execSheafRetWrite s) := by simp [execSheafRetWrite, hc]

@[simp] theorem sound_execSheafOvfWrite {s : State} (hc : (memories s).canonical) : Sound (execSheafOvfWrite s) := by
  unfold execSheafOvfWrite
  dsimp only
  (repeat' split) <;> simp [hc]

@[simp] theorem sound_execPreemptDeadline {s : State} (hc : (memories s).canonical) : Sound (execPreemptDeadline s) := by
  unfold execPreemptDeadline
  (repeat' split) <;> simp [hc]

@[simp] theorem sound_execCtxCheckpoint {s : State} (hc : (memories s).canonical) :
    Sound (execCtxCheckpoint s) := by simp [execCtxCheckpoint, hc]

@[simp] theorem sound_execCtxRestore {s : State} (hc : (memories s).canonical) :
    Sound (execCtxRestore s) := by simp [execCtxRestore, hc]

@[simp] theorem sound_execCtxRelease {s : State} (hc : (memories s).canonical) :
    Sound (execCtxRelease s) := by simp [execCtxRelease, hc]

@[simp] theorem sound_execStopComplete {s : State} (hc : (memories s).canonical) : Sound (execStopComplete s) := by
  unfold execStopComplete
  dsimp only
  (repeat' split) <;> simp [hc]

@[simp] theorem sound_execFlitReceive {s : State} (hc : (memories s).canonical) : Sound (execFlitReceive s) := by
  unfold execFlitReceive
  (repeat' split) <;> simp [hc]

@[simp] theorem sound_execLinkReplayTimeout {s : State} (hc : (memories s).canonical) :
    Sound (execLinkReplayTimeout s) := by simp [execLinkReplayTimeout, hc]

@[simp] theorem sound_execLinkTrain {s : State} (hc : (memories s).canonical) :
    Sound (execLinkTrain s) := by simp [execLinkTrain, hc]

@[simp] theorem sound_execLinkTakeDown {s : State} (hc : (memories s).canonical) :
    Sound (execLinkTakeDown s) := by simp [execLinkTakeDown, hc]

@[simp] theorem sound_execLinkTrained {s : State} (hc : (memories s).canonical) :
    Sound (execLinkTrained s) := by simp [execLinkTrained, hc]

@[simp] theorem sound_execCollRouteTimeout {s : State} (hc : (memories s).canonical) : Sound (execCollRouteTimeout s) := by
  unfold execCollRouteTimeout
  (repeat' split) <;> simp [hc]

@[simp] theorem sound_execUcieBoundaryFail {s : State} (hc : (memories s).canonical) : Sound (execUcieBoundaryFail s) := by
  unfold execUcieBoundaryFail
  dsimp only
  (repeat' split) <;> simp [hc]

@[simp] theorem sound_execDecoderCommit {s : State} (hc : (memories s).canonical) :
    Sound (execDecoderCommit s) := by simp [execDecoderCommit, hc]

@[simp] theorem sound_execTcFlush {s : State} (hc : (memories s).canonical) : Sound (execTcFlush s) := by simp [execTcFlush, hc]

@[simp] theorem sound_execTrapWordEnqueue {s : State} (hc : (memories s).canonical) : Sound (execTrapWordEnqueue s) := by
  unfold execTrapWordEnqueue
  (repeat' split) <;> simp [hc]

@[simp] theorem sound_execTrapResResume {s : State} (hc : (memories s).canonical) :
    Sound (execTrapResResume s) := by simp [execTrapResResume, hc]

@[simp] theorem sound_execTrapResSupply {s : State} (hc : (memories s).canonical) :
    Sound (execTrapResSupply s) := by simp [execTrapResSupply, hc]

@[simp] theorem sound_execTrapResKill {s : State} (hc : (memories s).canonical) :
    Sound (execTrapResKill s) := by simp [execTrapResKill, hc]

@[simp] theorem sound_execCtxStallimWrite {s : State} (hc : (memories s).canonical) :
    Sound (execCtxStallimWrite s) := by simp [execCtxStallimWrite, hc]

@[simp] theorem sound_execStallAge {s : State} (hc : (memories s).canonical) : Sound (execStallAge s) := by
  unfold execStallAge
  (repeat' split) <;> simp [hc]

@[simp] theorem sound_execHwFaultDetect {s : State} (hc : (memories s).canonical) : Sound (execHwFaultDetect s) := by
  unfold execHwFaultDetect
  dsimp only
  (repeat' split) <;> simp [hc]

@[simp] theorem sound_execPartitionClockGate {s : State} (hc : (memories s).canonical) : Sound (execPartitionClockGate s) := by
  unfold execPartitionClockGate
  dsimp only
  (repeat' split) <;> simp [hc]

@[simp] theorem sound_execMgmtFreezeRequest {s : State} (hc : (memories s).canonical) :
    Sound (execMgmtFreezeRequest s) := by simp [execMgmtFreezeRequest, hc]

@[simp] theorem sound_execFrzResume {s : State} (hc : (memories s).canonical) :
    Sound (execFrzResume s) := by simp [execFrzResume, hc]

@[simp] theorem sound_execFrzKill {s : State} (hc : (memories s).canonical) : Sound (execFrzKill s) := by simp [execFrzKill, hc]

@[simp] theorem sound_execFrzKillFence {s : State} (hc : (memories s).canonical) :
    Sound (execFrzKillFence s) := by simp [execFrzKillFence, hc]

@[simp] theorem sound_execBelfryLoad {s : State} (hc : (memories s).canonical) : Sound (execBelfryLoad s) := by
  unfold execBelfryLoad
  dsimp only
  (repeat' split) <;> simp [hc]

@[simp] theorem sound_execBelfrySwitch {s : State} (hc : (memories s).canonical) : Sound (execBelfrySwitch s) := by
  unfold execBelfrySwitch
  (repeat' split) <;> simp [hc]

@[simp] theorem sound_execBelfryDrainTimeout {s : State} (hc : (memories s).canonical) : Sound (execBelfryDrainTimeout s) := by
  unfold execBelfryDrainTimeout
  (repeat' split) <;> simp [hc]

@[simp] theorem sound_execGongRaise {s : State} (hc : (memories s).canonical) :
    Sound (execGongRaise s) := by simp [execGongRaise, hc]

@[simp] theorem sound_execMgmtGongRequest {s : State} (hc : (memories s).canonical) :
    Sound (execMgmtGongRequest s) := by simp [execMgmtGongRequest, hc]

@[simp] theorem sound_execGongLatch {s : State} (hc : (memories s).canonical) :
    Sound (execGongLatch s) := by simp [execGongLatch, hc]

@[simp] theorem sound_execSvcCtlWrite {s : State} (hc : (memories s).canonical) :
    Sound (execSvcCtlWrite s) := by simp [execSvcCtlWrite, hc]

@[simp] theorem sound_execCtxBmapWrite {s : State} (hc : (memories s).canonical) :
    Sound (execCtxBmapWrite s) := by simp [execCtxBmapWrite, hc]

@[simp] theorem sound_execDieFenceWrite {s : State} (hc : (memories s).canonical) :
    Sound (execDieFenceWrite s) := by simp [execDieFenceWrite, hc]

@[simp] theorem sound_execFwLoad {s : State} (hc : (memories s).canonical) : Sound (execFwLoad s) := by
  unfold execFwLoad
  dsimp only
  (repeat' split) <;> simp [hc]

@[simp] theorem sound_execFwTakeover {s : State} (hc : (memories s).canonical) : Sound (execFwTakeover s) := by
  unfold execFwTakeover
  (repeat' split) <;> simp [hc]

@[simp] theorem sound_execPowerOn {s : State} (hc : (memories s).canonical) : Sound (execPowerOn s) := by simp [execPowerOn, hc]

@[simp] theorem sound_execColdReset {s : State} (hc : (memories s).canonical) : Sound (execColdReset s) := by
  unfold execColdReset
  (repeat' split) <;> simp [hc]

@[simp] theorem sound_execThrottleStep {s : State} (hc : (memories s).canonical) :
    Sound (execThrottleStep s) := by simp [execThrottleStep, hc]

@[simp] theorem sound_execOvertempFreeze {s : State} (hc : (memories s).canonical) :
    Sound (execOvertempFreeze s) := by simp [execOvertempFreeze, hc]

@[simp] theorem sound_execGetVersion {s : State} (hc : (memories s).canonical) :
    Sound (execGetVersion s) := by simp [execGetVersion, hc]

@[simp] theorem sound_execGetCapabilities {s : State} (hc : (memories s).canonical) :
    Sound (execGetCapabilities s) := by simp [execGetCapabilities, hc]

@[simp] theorem sound_execNegotiateAlgorithms {s : State} (hc : (memories s).canonical) :
    Sound (execNegotiateAlgorithms s) := by simp [execNegotiateAlgorithms, hc]

@[simp] theorem sound_execGetDigests {s : State} (hc : (memories s).canonical) :
    Sound (execGetDigests s) := by simp [execGetDigests, hc]

@[simp] theorem sound_execGetCertificate {s : State} (hc : (memories s).canonical) :
    Sound (execGetCertificate s) := by simp [execGetCertificate, hc]

@[simp] theorem sound_execChallenge {s : State} (hc : (memories s).canonical) :
    Sound (execChallenge s) := by simp [execChallenge, hc]

@[simp] theorem sound_execGetMeasurements {s : State} (hc : (memories s).canonical) :
    Sound (execGetMeasurements s) := by simp [execGetMeasurements, hc]

@[simp] theorem sound_execSpdmUnsupported {s : State} (hc : (memories s).canonical) :
    Sound (execSpdmUnsupported s) := by simp [execSpdmUnsupported, hc]

@[simp] theorem sound_execRegisterWrite {s : State} (hc : (memories s).canonical) : Sound (execRegisterWrite s) := by
  unfold execRegisterWrite
  dsimp only
  (repeat' split) <;> simp [hc]

@[simp] theorem sound_execPowerLoss {s : State} (hc : (memories s).canonical) :
    Sound (execPowerLoss s) := by simp [execPowerLoss, hc]

@[simp] theorem sound_execCxlPortTrained {s : State} (hc : (memories s).canonical) :
    Sound (execCxlPortTrained s) := by simp [execCxlPortTrained, hc]

end Sys2Proof.Laws
end

section
/-! PROOF. Every step keeps the canonical form of the four memories. -/

namespace Sys2Proof.Laws

open Sys2Proof Sys2Proof.Machine Sys2Proof.Claims

theorem sound_runRepeated {s : State} (hc : (memories s).canonical) (w : Nat) : Sound (runRepeated w s) := by
  unfold runRepeated
  split <;> simp [hc]

@[simp] theorem sound_execRpt {s : State} (hc : (memories s).canonical) (stp2 stp1 stpd : Bool) (rep : BitVec 6) :
    Sound (execRpt stp2 stp1 stpd rep s) := by
  unfold execRpt
  split
  · simpa using hc
  · dsimp only
    refine sound_ite (by simpa using hc) (sound_ite (by simpa using hc) (sound_ite (by simpa using hc) (sound_runRepeated hc _)))

/-- Every instruction keeps memories in canonical form: one that computes or issues an access by the rule of its group, any other by
its own rule. -/
theorem sound_exec {s : State} (hc : (memories s).canonical) (i : Instr) : Sound (exec i s) := by
  cases hi : computes i with
  | some h => exact sound_computes hi hc
  | none =>
    cases ha : accesses i with
    | some h => exact sound_accesses ha hc
    | none => cases i <;> simp [exec, computes, accesses, hc] at hi ha ⊢

/-- Running an instruction keeps memories in canonical form. -/
def RunKeepsForm (run : Instr → State → Host.Outcome State Fault Refusal) : Prop :=
  ∀ (s : State) (i : Instr), (memories s).canonical → Sound (run i s)

theorem sound_fireSets {run : Instr → State → Host.Outcome State Fault Refusal} (hr : RunKeepsForm run) (l : List Machine.PSet) {s : State}
    (hc : (memories s).canonical) : Sound (fireSets run s l) := by
  induction l generalizing s with
  | nil => simpa [fireSets] using hc
  | cons x l ih =>
    have hx := hr (s.focus x) (s.fireInstr x) (by simpa using hc)
    unfold fireSets
    split
    · next t e =>
      split
      · simpa using hx t e
      · split
        · simpa using hc
        · exact ih (by simpa using hc)
    · exact hx

theorem sound_fireTurn {run : Instr → State → Host.Outcome State Fault Refusal} (hr : RunKeepsForm run) (site : Site) {s : State}
    (hc : (memories s).canonical) : Sound (fireTurn run site s) := by
  unfold fireTurn
  dsimp only
  exact sound_ite (sound_ite (by simpa using hc) (sound_fireSets hr _ (by simpa using hc))) (sound_fireSets hr _ hc)

theorem sound_coreTurn {run : Instr → State → Host.Outcome State Fault Refusal} (hr : RunKeepsForm run) (c : CoreId) {s : State}
    (hc : (memories s).canonical) : Sound (coreTurn run c s) := by
  unfold coreTurn
  split
  · simpa using hc
  · next x _ =>
    refine sound_ite (by simpa using hc) ?_
    have hx := hr { s with curCore := some c, held := false } x.fetch (by simpa using hc)
    split
    · next t e =>
      split
      · simpa using hc
      · simpa using hx t e
    · exact hx

theorem sound_actTurn {run : Instr → State → Host.Outcome State Fault Refusal} (hr : RunKeepsForm run) (a : Machine.Act) {s : State}
    (hc : (memories s).canonical) : Sound (actTurn run a s) := by
  cases a with
  | fire site => exact sound_fireTurn hr site hc
  | core c => exact sound_coreTurn hr c hc
  | event i arg => exact sound_ite (by simpa using hc) (hr _ i (by simpa using hc))

theorem sound_turn {run : Instr → State → Host.Outcome State Fault Refusal} (hr : RunKeepsForm run) {s : State}
    (hc : (memories s).canonical) : Sound (turn run s) := by
  unfold turn
  dsimp only
  split
  · simpa using hc
  · exact sound_actTurn hr _ (by simpa using hc)

end Sys2Proof.Laws

namespace Sys2Proof.Proofs

open Sys2Proof Sys2Proof.Machine Sys2Proof.Laws

/-- Settles O56: whatever the turn, every instruction keeps memories in canonical form. -/
theorem stepKeepsMemoryForm : Obligations.StepKeepsMemoryForm :=
  fun _ t hc => sound_turn (fun _ i h => sound_exec h i) hc t

end Sys2Proof.Proofs
end

section
/-! SUPPORT. Register fields after a counter, an alarm or a host event, and the numbers below a bound. -/

namespace Sys2Proof.Laws

open Sys2Proof Sys2Proof.Machine Sys2Proof.Claims

theorem regField_lt (s : State) (r : Reg) (lo w : Nat) : s.regField r lo w < 2 ^ w := Nat.mod_lt _ (Nat.two_pow_pos w)

/-- A counter that stops at its greatest value. -/
theorem regField_bumpSat_same (s : State) (r : Reg) {lo w : Nat} (hw : lo + w ≤ 64) :
    (s.bumpSat r lo w).regField r lo w = if s.regField r lo w = 2 ^ w - 1 then s.regField r lo w else s.regField r lo w + 1 := by
  have hlt := regField_lt s r lo w
  rw [State.bumpSat, regField_setField_same _ _ _ hw]
  split
  · exact Nat.mod_eq_of_lt hlt
  · exact Nat.mod_eq_of_lt (by omega)

theorem regField_bumpSat_disjoint (s : State) (r : Reg) {lo w lo' w' : Nat} (hw : lo + w ≤ 64) (hd : lo' + w' ≤ lo ∨ lo + w ≤ lo') :
    (s.bumpSat r lo w).regField r lo' w' = s.regField r lo' w' := regField_setField_disjoint s r _ hw hd

theorem regField_bump_same (s : State) (r : Reg) {lo w : Nat} (hw : lo + w ≤ 64) :
    (s.bump r lo w).regField r lo w = (s.regField r lo w + 1) % 2 ^ w := regField_setField_same s r _ hw

theorem regField_bump_disjoint (s : State) (r : Reg) {lo w lo' w' : Nat} (hw : lo + w ≤ 64) (hd : lo' + w' ≤ lo ∨ lo + w ≤ lo') :
    (s.bump r lo w).regField r lo' w' = s.regField r lo' w' := regField_setField_disjoint s r _ hw hd

theorem regField_setField_ne (s : State) {r q : Reg} (lo w x lo' w' : Nat) (h : q.offset ≠ r.offset) :
    (s.setField r lo w x).regField q lo' w' = s.regField q lo' w' := by
  rw [State.regField, reg_setField_ne _ _ _ _ h, State.regField]

/-- A host event changes HOST_EVT and HOST_EVHT only. -/
theorem regField_hostEvent_ne (s : State) (e : HostEvent) {r : Reg} (lo w : Nat) (h : r.offset ≠ Reg.hostEvt.offset)
    (h' : r.offset ≠ Reg.hostEvht.offset) : (s.hostEvent e).regField r lo w = s.regField r lo w := by
  unfold State.hostEvent
  dsimp only
  split
  · rw [regField_setReg_ne _ _ _ _ h, regField_setReg_ne _ _ _ _ h]
  · exact (regField_setField_ne _ _ _ _ _ _ h').trans (regField_setReg_ne _ _ _ _ h)

theorem mem_upto {i n : Nat} : i ∈ upto n ↔ i < n := by
  rw [upto, upFrom_eq]
  simp

end Sys2Proof.Laws
end

section
/-! PROOF. Ports of the peer links: flits, replays and training (R394 to R397). -/

namespace Sys2Proof.Laws

open Sys2Proof Sys2Proof.Machine Sys2Proof.Claims

section
variable (s : State) (p : Nat)

@[simp] theorem port_p : (s.port p).p = p := by
  unfold State.port
  cases h : s.ports.find? fun x => x.p = p with
  | none => rfl
  | some x => simpa using List.find?_some h

/-- The port that was put last is the one found. -/
theorem find?_setPort {x : Port} (hx : x.p = p) : (s.setPort x).ports.find? (fun y => decide (y.p = p)) = some x := by
  have hnone : (s.ports.filter fun y => y.p ≠ x.p).find? (fun y => decide (y.p = p)) = none := by
    rw [List.find?_eq_none]
    intro y hy
    simpa [hx] using (List.mem_filter.mp hy).2
  rw [State.setPort, List.find?_append, hnone]
  simp [hx]

theorem port_setPort {x : Port} (hx : x.p = p) : (s.setPort x).port p = x := by
  rw [State.port, find?_setPort s p hx]
  rfl

@[simp] theorem credited_p (x : Port) (now : Nat) (b : List Byte) : (x.credited now b).p = x.p := by
  unfold Port.credited
  dsimp only
  split <;> rfl

theorem credited_expect (x : Port) (now : Nat) (b : List Byte) : (x.credited now b).expect = (x.expect + 1) % 2 ^ 32 := by
  unfold Port.credited
  dsimp only
  split <;> rfl

/-- A flit acknowledges what came before its acknowledgement number, and nothing else stays out (R394). -/
theorem credited_unacked (x : Port) (now : Nat) (b : List Byte) : (x.credited now b).unacked = dropAcked (recField b 8 4) x.unacked := by
  have hsub : (dropAcked (recField b 8 4) x.unacked).Sublist x.unacked := List.filter_sublist
  unfold Port.credited
  dsimp only
  split
  · rfl
  · exact (hsub.eq_of_length (Nat.le_antisymm hsub.length_le (by omega))).symm

theorem takeChunk_ports (c : Chunk) : (s.takeChunk c).ports = s.ports ∧ (s.takeChunk c).regs = s.regs := by
  unfold State.takeChunk
  split <;> exact ⟨rfl, rfl⟩

/-- A chunk of a collective that has not ended is there, from this flit or from one before it. -/
theorem takeChunk_mem (c : Chunk) (h : s.collEnded c.grp c.cseq = false) :
    ∃ d ∈ (s.takeChunk c).chunks, d.grp = c.grp ∧ d.cseq = c.cseq ∧ d.rank = c.rank ∧ d.off = c.off := by
  unfold State.takeChunk
  rw [h, Bool.false_or]
  split
  · next ha =>
    obtain ⟨d, hd, hs⟩ := List.any_eq_true.mp ha
    simp only [Bool.and_eq_true, decide_eq_true_eq] at hs
    obtain ⟨⟨⟨hg, hq⟩, hr⟩, ho⟩ := hs
    exact ⟨d, hd, hg, hq, hr, ho⟩
  · exact ⟨c, by simp, rfl, rfl, rfl, rfl⟩

theorem takeChunk_ended (c : Chunk) (h : s.collEnded c.grp c.cseq = true) : s.takeChunk c = s := by
  rw [State.takeChunk, h]
  rfl

theorem portUp_of_regs {s t : State} (h : t.regs = s.regs) (p : Nat) : t.portUp p = s.portUp p := by
  rw [State.portUp, regField_of_regs h, State.portUp]

/-- What a port that goes down leaves: UP is 0, DOWNS has counted it, and its training is over (R396). -/
theorem portDown_down : (s.portDown p).portUp p = false ∧ (s.portDown p).regField (.linkStat p) 16 8 =
      (if s.regField (.linkStat p) 16 8 = 255 then s.regField (.linkStat p) 16 8 else s.regField (.linkStat p) 16 8 + 1) ∧
    ((s.portDown p).port p).training = false ∧ SameMemory s (s.portDown p) := by
  have hregs : (s.portDown p).regs = ((s.setField (.linkStat p) 31 1 0).bumpSat (.linkStat p) 16 8).regs := rfl
  refine ⟨?_, ?_, ?_, sameMemory_of_memories (by simp)⟩
  · rw [portUp_of_regs hregs, State.portUp, regField_bumpSat_disjoint _ _ (by decide) (by decide),
      regField_setField_same _ _ _ (by decide)]
    decide
  · rw [regField_of_regs hregs, regField_bumpSat_same _ _ (by decide), regField_setField_disjoint _ _ _ (by decide) (by decide)]
    rfl
  · exact congrArg Port.training (port_setPort _ p (x := { State.port _ p with training := false, replays := 0 }) (port_p _ p))

/-- LINK_DOWN after a port went down (R396, R430). -/
theorem portDown_event (e : HostEvent) : ((s.portDown p).hostEvent e).portUp p = false ∧
    ((s.portDown p).hostEvent e).regField (.linkStat p) 16 8 =
      (if s.regField (.linkStat p) 16 8 = 255 then s.regField (.linkStat p) 16 8 else s.regField (.linkStat p) 16 8 + 1) ∧
    (((s.portDown p).hostEvent e).port p).training = false ∧ SameMemory s ((s.portDown p).hostEvent e) := by
  obtain ⟨hup, hdowns, htrain, -⟩ := portDown_down s p
  have hne : (Reg.linkStat p).offset ≠ Reg.hostEvt.offset := by simp only [Reg.offset]; omega
  have hne' : (Reg.linkStat p).offset ≠ Reg.hostEvht.offset := by simp only [Reg.offset]; omega
  refine ⟨?_, ?_, ?_, sameMemory_of_memories (by simp)⟩
  · rw [State.portUp, regField_hostEvent_ne _ _ _ _ hne hne']
    exact hup
  · rw [regField_hostEvent_ne _ _ _ _ hne hne', hdowns]
  · obtain ⟨rs, evs, h⟩ := hostEvent_regs (s.portDown p) e
    rw [h]
    exact htrain

theorem renumber_chunk (n : Nat) (l : List Sent) : (renumber n l).map Sent.chunk = l.map Sent.chunk := by
  induction l generalizing n with
  | nil => rfl
  | cons x l ih => exact congrArg (x.chunk :: ·) (ih (n + 1))

end

/-- A late publication is performed once, when it arrives: at its later time, or as a copy that answers no one. -/
theorem pubs_boundary (s : State) (q : Publish) (hq : (s.pubs.drop s.arg.n).head? = some q) (y : Delivery)
    (hy : (s.delivs.drop s.arg.m).head? = some y) : ∃ t : State, exec .ucieBoundaryFail s = .next t ∧
      (s.arg.flag = true → t.pubs = putAt s.pubs s.arg.n { q with ready := max q.ready (s.cyc + s.arg.j) }) ∧
      (s.arg.flag = false → ∃ z, t.pubs = s.pubs ++ [z] ∧ z.seq = q.seq ∧ z.tid = q.tid ∧ z.tile = q.tile ∧ z.gen = q.gen) ∧
      t.delivs = putAt s.delivs s.arg.m { y with ready := max y.ready (s.cyc + s.arg.j) } ∧ t.fab = s.fab ∧ SameMemory s t := by
  have hrun : exec .ucieBoundaryFail s = execUcieBoundaryFail s := rfl
  rw [hrun]
  unfold execUcieBoundaryFail
  rw [hq]
  cases hf : s.arg.flag with
  | true =>
    simp only [if_true, hy]
    exact ⟨_, rfl, fun _ => rfl, fun h => (by cases h), rfl, rfl, sameMemory_of_memories rfl⟩
  | false =>
    simp only [Bool.false_eq_true, if_false, hy]
    exact ⟨_, rfl, fun h => (by cases h), fun _ => ⟨_, rfl, rfl, rfl, rfl, rfl⟩, rfl, rfl, sameMemory_of_memories rfl⟩

theorem flitsArrive : FlitsArrive := by
  intro s d p b x good errs
  have run : s.arg.data = some d → exec .flitReceive s = .next (if !s.portUp p then s
      else if recField b 0xF8 8 ≠ (Config.crc64 (b.take 0xF8)).toNat || recField b 4 4 ≠ x.expect || 4 ≤ recField b 0 1 then
        s.bumpSat (.linkStat p) 0 16
      else if recField b 0 1 = 1 then (s.setPort (x.credited s.cyc b)).takeChunk (flitChunk b) else s.setPort (x.credited s.cyc b)) := by
    intro hd
    show execFlitReceive s = _
    simp only [execFlitReceive, hd]
    rfl
  have hx : (x.credited s.cyc b).p = p := by simp [x]
  refine ⟨fun hd hup hg => ?_, fun hd hup hg => ?_, fun hd hup => ?_, fun q y hq hy => pubs_boundary s q hq y hy⟩
  · obtain ⟨hcrc, hexp, hty⟩ := hg
    have hbad : (recField b 0xF8 8 ≠ (Config.crc64 (b.take 0xF8)).toNat || recField b 4 4 ≠ x.expect || 4 ≤ recField b 0 1) = false := by
      simp [hcrc, hexp, hty]
    rw [run hd, hup, hbad]
    have hput : (s.setPort (x.credited s.cyc b)).ports.find? (fun y => decide (y.p = p)) = some (x.credited s.cyc b) :=
      find?_setPort s p hx
    have hacked : ∀ y ∈ (x.credited s.cyc b).unacked, 2 ^ 31 ≤ (recField b 8 4 + 2 ^ 32 - y.seq) % 2 ^ 32 := by
      intro y hy
      rw [credited_unacked] at hy
      simpa using (List.mem_filter.mp hy).2
    simp only [Bool.not_true, Bool.false_eq_true, if_false]
    split
    · next htype =>
      obtain ⟨hports, hregs⟩ := takeChunk_ports (s.setPort (x.credited s.cyc b)) (flitChunk b)
      refine ⟨_, rfl, ?_, hregs, ?_, fun _ he => takeChunk_mem _ (flitChunk b) he, fun h => ?_⟩
      · rw [hports, hput, Option.map_some, credited_expect]
      · rw [State.port, hports, hput]
        exact hacked
      · obtain h | h := h
        · exact absurd htype h
        · show _ = (s.setPort (x.credited s.cyc b)).chunks
          exact congrArg State.chunks (takeChunk_ended (s.setPort (x.credited s.cyc b)) (flitChunk b) h)
    · next htype =>
      refine ⟨_, rfl, ?_, rfl, ?_, fun h => absurd h htype, fun _ => rfl⟩
      · rw [hput, Option.map_some, credited_expect]
      · rw [State.port, hput]
        exact hacked
  · have hbad : (recField b 0xF8 8 ≠ (Config.crc64 (b.take 0xF8)).toNat || recField b 4 4 ≠ x.expect || 4 ≤ recField b 0 1) = true := by
      simp only [good, not_and_or, Nat.not_lt] at hg
      simpa [or_assoc] using hg
    rw [run hd, hup, hbad]
    exact ⟨_, rfl, rfl, regField_bumpSat_same s (.linkStat p) (by decide)⟩
  · rw [run hd, hup]
    rfl

theorem portsServe : PortsServe := by
  intro s p x downs down late
  have hevt := regField_hostEvent (s.portDown p) { type := 4, slot := 0xFF, a := p, b := 0, cyc := 0 } (by simp)
  have replay : s.portUp p = true → exec .linkReplayTimeout s = .next (if x.unacked.isEmpty || s.cyc < x.lastAck + 4800 then s
      else if x.replays < 8 then s.setPort { x with replays := x.replays + 1, lastAck := s.cyc }
      else (s.portDown p).hostEvent { type := 4, slot := 0xFF, a := p, b := 0, cyc := 0 }) := by
    intro hup
    show execLinkReplayTimeout s = _
    simp only [execLinkReplayTimeout, show s.portUp s.arg.u = true from hup, Bool.not_true, Bool.false_eq_true, if_false]
    rfl
  have intime : late → (x.unacked.isEmpty || s.cyc < x.lastAck + 4800) = false := by
    rintro ⟨-, hne, hlate⟩
    simpa using And.intro hne hlate
  have trained : exec .linkTrained s = .next (if !x.training then s else
      ((s.setPort { p := p, next := x.unacked.length, unacked := renumber 0 x.unacked, cred0 := 128 - x.unacked.length,
                    lastAck := s.cyc }).setField (.linkStat p) 31 1 1).routesChanged) := rfl
  have takeDown : exec .linkTakeDown s = .next (if s.portUp p then s.portDown p else s.setPort { x with training := false }) := rfl
  have train : exec .linkTrain s = .next (if s.portUp p then s else s.setPort { x with training := true }) := rfl
  refine ⟨fun hl hr => ?_, fun hl hr => ?_, fun hup h => ?_, fun hup => ⟨?_, s.portDown p, ?_, portDown_down s p⟩,
    fun hup => ⟨?_, ?_⟩, fun ht => ?_, fun ht => ?_⟩
  · rw [replay hl.1, intime hl, if_neg Bool.false_ne_true, if_pos hr]
  · rw [replay hl.1, intime hl, if_neg Bool.false_ne_true, if_neg (Nat.not_lt.mpr hr)]
    exact ⟨_, rfl, portDown_event s p _, hevt⟩
  · rw [replay hup, if_pos (by simpa using h)]
  · rw [train, if_pos hup]
  · rw [takeDown, if_pos hup]
  · rw [train, if_neg (by simp [hup])]
  · rw [takeDown, if_neg (by simp [hup])]
  · rw [trained, ht]
    refine ⟨_, _, rfl, ?_, find?_setPort s p rfl, renumber_chunk .., rfl, rfl, rfl, rfl, rfl, rfl⟩
    exact decide_eq_true (regField_setField_same (s.setPort _) (.linkStat p) 1 (by decide))
  · rw [trained, ht]
    rfl

end Sys2Proof.Laws

namespace Sys2Proof.Proofs

open Sys2Proof Sys2Proof.Machine Sys2Proof.Laws

/-- Settles O46: by the checks of a flit, and by the events of a port. -/
theorem peerLinks : Obligations.PeerLinks := ⟨flitsArrive, portsServe⟩

end Sys2Proof.Proofs
end

section
/-! PROOF. Resets, the steps of the boot, and the clock (R411, R412, R474 to R476). -/

namespace Sys2Proof.Laws

open Sys2Proof Sys2Proof.Machine Sys2Proof.Claims

/-! Resets. -/

/-- What a reset and a loss of power leave of a state (R411, R475). -/
structure Cleared (s t : State) : Prop where
  parts : t.cyc = 0 ∧ t.insts = [] ∧ t.traps = [] ∧ t.fab = {} ∧ t.dmem = [] ∧ t.scr = [] ∧ t.wbuf = [] ∧ t.pres = [] ∧
    t.sheaves = [] ∧ t.slots = [] ∧ t.hmem = s.hmem ∧ t.tc = s.tc ∧ t.belCopies = s.belCopies ∧ t.fwCopies = s.fwCopies
  belStat : t.regField .belStat 32 16 = s.regField .belStat 32 16
  fwStat : t.regField .fwStat 32 16 = s.regField .fwStat 32 16
  ready : t.regField .pkgStat 31 1 = 0
  others : ∀ r : Reg, r.offset ≠ Reg.pkgStat.offset → r.offset ≠ Reg.belStat.offset → r.offset ≠ Reg.fwStat.offset → t.reg r = r.reset

theorem regField_afterReset (s : State) {r : Reg} (lo w : Nat) (hb : r.offset ≠ Reg.belStat.offset) (hf : r.offset ≠ Reg.fwStat.offset) :
    s.afterReset.regField r lo w = bitsAt r.reset.toNat lo w := by
  rw [State.afterReset, regField_setField_ne _ _ _ _ _ _ hf, regField_setField_ne _ _ _ _ _ _ hb]
  rfl

theorem afterReset_cleared (s : State) : Cleared s s.afterReset where
  parts := ⟨rfl, rfl, rfl, rfl, rfl, rfl, rfl, rfl, rfl, rfl, rfl, rfl, rfl, rfl⟩
  belStat := by
    rw [State.afterReset, regField_setField_ne _ _ _ _ _ _ (by decide), regField_setField_same _ _ _ (by decide)]
    exact Nat.mod_eq_of_lt (regField_lt ..)
  fwStat := by
    rw [State.afterReset, regField_setField_same _ _ _ (by decide)]
    exact Nat.mod_eq_of_lt (regField_lt ..)
  ready := by
    rw [regField_afterReset s 31 1 (by decide) (by decide)]
    decide
  others := fun r _ hb hf => by
    rw [State.afterReset, reg_setField_ne _ _ _ _ hf, reg_setField_ne _ _ _ _ hb]
    rfl

theorem phase_setPhase (s : State) {n : Nat} (hn : n < 8) : (s.setPhase n).phase = n := by
  rw [State.phase, State.setPhase, regField_setField_same _ _ _ (by decide)]
  exact Nat.mod_eq_of_lt hn

theorem regField_setPhase_ne (s : State) (n : Nat) {r : Reg} (lo w : Nat) (h : r.offset ≠ Reg.pkgStat.offset) :
    (s.setPhase n).regField r lo w = s.regField r lo w := regField_setField_ne _ _ _ _ _ _ h

theorem coldStart_cleared (s : State) : Cleared s s.coldStart := by
  obtain ⟨hparts, hbel, hfw, hready, hothers⟩ := afterReset_cleared s
  refine ⟨hparts, ?_, ?_, ?_, fun r hp hb hf => ?_⟩
  · rw [State.coldStart, regField_setPhase_ne _ _ _ _ (by decide), hbel]
  · rw [State.coldStart, regField_setPhase_ne _ _ _ _ (by decide), hfw]
  · rw [State.coldStart, State.setPhase, regField_setField_disjoint _ _ _ (by decide) (by decide), hready]
  · rw [State.coldStart, State.setPhase, reg_setField_ne _ _ _ _ hp, hothers r hp hb hf]

theorem phase_afterReset (s : State) : s.afterReset.phase = 0 := by
  rw [State.phase, regField_afterReset s 8 3 (by decide) (by decide)]
  decide

theorem resetsStart : ResetsStart := by
  intro s cleared
  have toClaim : ∀ {t : State}, Cleared s t → cleared t := by
    rintro t ⟨⟨h1, h2, h3, h4, h5, h6, h7, h8, h9, h10, h11, h12, h13, h14⟩, hb, hf, hr, ho⟩
    exact ⟨h1, h2, h3, h4, h5, h6, h7, h8, h9, h10, h11, h12, h13, h14, hb, hf, hr, ho⟩
  refine ⟨⟨_, rfl, toClaim (coldStart_cleared s), phase_setPhase _ (by decide)⟩, fun hflag => ?_,
    ⟨_, rfl, toClaim (afterReset_cleared s), phase_afterReset s⟩⟩
  have hrun : exec .coldReset s = .next s.coldStart := congrArg Host.Outcome.next (if_pos hflag)
  exact ⟨_, hrun, toClaim (coldStart_cleared s), phase_setPhase _ (by decide)⟩

/-! The steps of the boot. -/

/-- The copy that the boot takes passes its check. -/
theorem check_of_firstAccepted {l : List (List Byte)} {check : List Byte → Nat} {i : Nat} {b : List Byte}
    (h : firstAccepted l check = some (i, b)) : check b = 0 := by
  obtain ⟨j, -, hj⟩ := List.exists_of_findSome?_eq_some h
  dsimp only at hj
  split at hj
  · next hc =>
    cases hj
    exact hc
  · cases hj

/-- Setting fields of the service registers of some partitions leaves each of the others, and each register that is none of theirs. -/
theorem regField_svcCtl_fold (l : List Nat) (s : State) (b : Nat) (hl : ∀ x ∈ l, x < 64) :
    (foldState (fun s b => s.setField (.svcCtl b) 31 1 1) s l).regField (.svcCtl b) 31 1 = if b ∈ l then 1 else s.regField (.svcCtl b) 31 1 := by
  induction l generalizing s with
  | nil => rfl
  | cons x l ih =>
    have hx : x < 64 := hl x List.mem_cons_self
    rw [show foldState (fun s b => s.setField (.svcCtl b) 31 1 1) s (x :: l) =
      foldState (fun s b => s.setField (.svcCtl b) 31 1 1) (s.setField (.svcCtl x) 31 1 1) l from rfl,
      ih _ fun y hy => hl y (List.mem_cons_of_mem _ hy)]
    by_cases hxb : b = x
    · subst hxb
      rw [regField_setField_same _ _ _ (by decide)]
      simp
    · have hne : (Reg.svcCtl b).offset ≠ (Reg.svcCtl x).offset := by simp only [Reg.offset]; omega
      rw [regField_setField_ne _ _ _ _ _ _ hne]
      simp [hxb]

theorem regField_dieFence_fold (l : List Nat) (s : State) (lo w : Nat) (hl : ∀ x ∈ l, x < 64) :
    (foldState (fun s b => s.setField (.svcCtl b) 31 1 1) s l).regField .dieFence lo w = s.regField .dieFence lo w := by
  induction l generalizing s with
  | nil => rfl
  | cons x l ih =>
    have hne : Reg.dieFence.offset ≠ (Reg.svcCtl x).offset := by simp only [Reg.offset]; omega
    exact (ih _ fun y hy => hl y (List.mem_cons_of_mem _ hy)).trans (regField_setField_ne _ _ _ _ _ _ hne)

/-- A die whose links do not train is fenced, with each of its barns (R474). -/
theorem bootTrain_fences (s : State) {b : Nat} (hb : b < 64) (h : s.bootTrain.regField .dieFence (b / 8) 1 = 1) :
    s.bootTrain.regField (.svcCtl b) 31 1 = 1 := by
  have hupto : ∀ p : Nat → Bool, ∀ x ∈ (upto 64).filter p, x < 64 := fun p x hx => mem_upto.mp (List.mem_filter.mp hx).1
  have hne : (Reg.svcCtl b).offset ≠ Reg.pkgStat.offset := by simp only [Reg.offset]; omega
  unfold State.bootTrain at h ⊢
  dsimp only at h ⊢
  rw [regField_setPhase_ne _ _ _ _ (by decide), regField_dieFence_fold _ _ _ _ (hupto _), State.regField, reg_setReg_self] at h
  rw [regField_setPhase_ne _ _ _ _ hne, regField_svcCtl_fold _ _ _ (hupto _), if_pos]
  refine List.mem_filter.mpr ⟨mem_upto.mpr hb, decide_eq_true ?_⟩
  rwa [BitVec.toNat_ofNat, Nat.mod_eq_of_lt (Nat.lt_trans (Config.trainFailures s.ctr).isLt (by decide))] at h

/-- What the boot does in a phase. -/
def bootStep (s : State) : Nat → State
  | 1 => s.bootFirmware
  | 2 => s.bootBelfry
  | 3 => s.bootSram
  | 4 => s.bootTrain
  | 5 => s.bootStore
  | 6 => s.bootReady
  | _ => s

theorem coldReset_phase {s : State} {n : Nat} (hflag : s.arg.flag = false) (hp : s.phase = n) : exec .coldReset s = .next (bootStep s n) := by
  subst hp
  have hneg : ¬s.arg.flag = true := by simp [hflag]
  exact congrArg Host.Outcome.next (if_neg hneg)

theorem bootFirmware_fails {s : State} (h : firstAccepted s.fwCopies (fun b => fwCheck b (s.regField .fwStat 32 16)) = none) :
    s.bootFirmware = s.setPhase 7 := by rw [State.bootFirmware, h]

theorem bootFirmware_runs {s : State} {i : Nat} {b : List Byte}
    (h : firstAccepted s.fwCopies (fun b => fwCheck b (s.regField .fwStat 32 16)) = some (i, b)) :
    s.bootFirmware = ((s.installFw b).setField .pkgStat 1 1 i).setPhase 2 := by rw [State.bootFirmware, h]

theorem bootBelfry_plain {s : State} (h : firstAccepted s.belCopies (fun b => patchCheck b (s.regField .belStat 32 16)) = none) :
    s.bootBelfry = s.setPhase 3 := by rw [State.bootBelfry, h]

theorem bootBelfry_patched {s : State} {i : Nat} {b : List Byte}
    (h : firstAccepted s.belCopies (fun b => patchCheck b (s.regField .belStat 32 16)) = some (i, b)) :
    s.bootBelfry = (((s.installPatch b).bumpSat .belStat 0 16).setField .pkgStat 0 1 i).setPhase 3 := by rw [State.bootBelfry, h]

/-- Which copy was taken stands beside the phase (R474). -/
theorem regField_copy_setPhase (s : State) (lo i n : Nat) (h : lo < 8) :
    ((s.setField .pkgStat lo 1 i).setPhase n).regField .pkgStat lo 1 = i % 2 := by
  rw [State.setPhase, regField_setField_disjoint _ _ _ (by decide) (by omega), regField_setField_same _ _ _ (by omega), pow_one]

theorem bootSteps : BootSteps := by
  intro s hflag o fw bel
  have run : ∀ {n}, s.phase = n → o = .next (bootStep s n) := coldReset_phase hflag
  refine ⟨fun hp => ⟨fun h => ⟨_, run hp, ?_⟩, fun i b h => ⟨_, run hp, ?_⟩⟩, fun hp => ⟨fun h => ⟨_, run hp, ?_⟩, fun i b h => ⟨_, run hp, ?_⟩⟩,
    fun hp => ⟨_, run hp, phase_setPhase _ (by decide), rfl, rfl, rfl⟩,
    fun hp => ⟨_, run hp, phase_setPhase _ (by decide), fun b hb h => bootTrain_fences s hb h⟩,
    fun hp => ⟨_, run hp, phase_setPhase _ (by decide), rfl, fun h => if_neg h, fun h => if_pos h⟩,
    fun hp => ⟨_, run hp, ?_, ?_, rfl⟩, fun hp => ?_⟩
  · show s.bootFirmware.phase = 7
    rw [bootFirmware_fails h, phase_setPhase _ (by decide)]
  · show s.bootFirmware.phase = 2 ∧ s.bootFirmware.fwImg = b ∧ s.bootFirmware.regField .pkgStat 1 1 = i % 2 ∧ _
    rw [bootFirmware_runs h]
    exact ⟨phase_setPhase _ (by decide), rfl, regField_copy_setPhase _ 1 i 2 (by decide), check_of_firstAccepted h⟩
  · show s.bootBelfry.phase = 3 ∧ s.bootBelfry.slots = s.slots
    rw [bootBelfry_plain h]
    exact ⟨phase_setPhase _ (by decide), rfl⟩
  · show s.bootBelfry.phase = 3 ∧ s.bootBelfry.slots = imageSlots b ∧ s.bootBelfry.regField .pkgStat 0 1 = i % 2 ∧ _
    rw [bootBelfry_patched h]
    exact ⟨phase_setPhase _ (by decide), rfl, regField_copy_setPhase _ 0 i 3 (by decide), check_of_firstAccepted h⟩
  · exact (regField_setField_disjoint _ _ _ (by decide) (by decide)).trans (phase_setPhase { s with cxl := [0, 1] } (by decide))
  · exact regField_setField_same _ _ _ (by decide)
  · obtain hp | hp := hp <;> exact run hp

/-! The clock. -/

/-- The power status of a millisecond, by its fields (R476). -/
theorem bitsAt_pwrStat (f m : Nat) (hot high : Bool) (hf : f < 2 ^ 12) :
    let v := (BitVec.ofNat 64 (f * 2 ^ 20 + (if hot then 2 ^ 19 else 0) + (if high then 2 ^ 18 else 0) + m % 256)).toNat
    bitsAt v 20 12 = f ∧ bitsAt v 19 1 = (if hot then 1 else 0) ∧ bitsAt v 18 1 = (if high then 1 else 0) ∧ bitsAt v 0 8 = m % 256 := by
  cases hot <;> cases high <;> simp [bitsAt, Nat.shiftRight_eq_div_pow] <;> omega

/-- What a freeze of a partition adds to. -/
def frozen (s : State) : List Freeze × Bool := (s.freezes, s.overtemp)

theorem frozen_setReg (s : State) (r : Reg) (v : DWord) : frozen (s.setReg r v) = frozen s := rfl

theorem frozen_setField (s : State) (r : Reg) (lo w x : Nat) : frozen (s.setField r lo w x) = frozen s := rfl

theorem frozen_withGongAt (s : State) (n : Option Nat) : frozen { s with gongAt := n } = frozen s := rfl

/-- A raise of the Gong freezes nothing. -/
theorem frozen_gong (s : State) (src cause : Nat) : frozen (s.gong src cause) = frozen s := by
  unfold State.gong
  dsimp only
  split
  · rw [frozen_withGongAt, frozen_setField, frozen_setField, frozen_setReg, frozen_setField]
  · split
    · split
      · rw [frozen_setField, frozen_setField]
      · rfl
    · exact frozen_setField ..

theorem frozen_hostEvent (s : State) (e : HostEvent) : frozen (s.hostEvent e) = frozen s := by
  obtain ⟨rs, evs, h⟩ := hostEvent_regs s e
  rw [h]
  rfl

/-- A freeze adds its partition to those that are frozen, unless it is there (R445). -/
theorem freeze_freezes (s : State) (p cause cls loc : Nat) : (s.freeze p cause cls loc).overtemp = s.overtemp ∧
    s.freezes ⊆ (s.freeze p cause cls loc).freezes ∧ ∃ x ∈ (s.freeze p cause cls loc).freezes, x.p = p := by
  have added : ∀ t : State, frozen t = (s.freezes ++ [{ p := p, at_ := s.cyc }], s.overtemp) →
      t.overtemp = s.overtemp ∧ s.freezes ⊆ t.freezes ∧ ∃ x ∈ t.freezes, x.p = p := by
    intro t h
    obtain ⟨hf, hot⟩ := Prod.mk.inj h
    rw [hf]
    exact ⟨hot, List.subset_append_left .., _, List.mem_append_right _ List.mem_cons_self, rfl⟩
  unfold State.freeze
  split
  · next h =>
    obtain ⟨x, hx, hp⟩ := List.any_eq_true.mp h
    exact ⟨rfl, fun _ h => h, x, hx, of_decide_eq_true hp⟩
  · apply added
    dsimp only
    split
    · rw [frozen_gong, frozen_hostEvent, frozen_setReg, frozen_setReg]
      rfl
    · rw [frozen_hostEvent, frozen_setReg, frozen_setReg]
      rfl

/-- Freezing a list of partitions leaves each of them frozen. -/
theorem freeze_all (cause cls loc : Nat) (l : List Nat) (s : State) :
    (foldState (fun s p => s.freeze p cause cls loc) s l).overtemp = s.overtemp ∧
    s.freezes ⊆ (foldState (fun s p => s.freeze p cause cls loc) s l).freezes ∧
    ∀ q ∈ l, ∃ x ∈ (foldState (fun s p => s.freeze p cause cls loc) s l).freezes, x.p = q := by
  induction l generalizing s with
  | nil => exact ⟨rfl, fun _ h => h, fun q hq => absurd hq List.not_mem_nil⟩
  | cons p l ih =>
    obtain ⟨hot, hsub, x, hx, hp⟩ := freeze_freezes s p cause cls loc
    obtain ⟨hot', hsub', hl⟩ := ih (s.freeze p cause cls loc)
    refine ⟨hot'.trans hot, fun _ h => hsub' (hsub h), fun q hq => ?_⟩
    obtain rfl | hq := List.mem_cons.mp hq
    · exact ⟨x, hsub' hx, hp⟩
    · exact hl q hq

/-- A register written by its number, read by its field. -/
theorem regField_setReg_same (s : State) (r : Reg) (v : DWord) (lo w : Nat) : (s.setReg r v).regField r lo w = bitsAt v.toNat lo w := by
  rw [State.regField, reg_setReg_self]

/-- PWR_STAT at the end of a millisecond (R476). -/
def pwrStat (s : State) : DWord :=
  let hot := decide (85 < s.arg.m)
  let high := decide (s.regField .pwrCfg 0 12 < s.arg.n)
  let f := s.regField .pwrStat 20 12
  let f := if hot || high then max 1200 (f - 75) else min 2400 (f + 75)
  BitVec.ofNat 64 (f * 2 ^ 20 + (if hot then 2 ^ 19 else 0) + (if high then 2 ^ 18 else 0) + s.arg.m % 256)

/-- The state with a power status and a mark of over-temperature. -/
def powered (s : State) (v : DWord) (o : Bool) : State := { s.setReg .pwrStat v with overtemp := o }

theorem powered_keeps (s : State) (v : DWord) (o : Bool) :
    (powered s v o).fab = s.fab ∧ SameMemory s (powered s v o) ∧ (powered s v o).cyc = s.cyc ∧ (powered s v o).overtemp = o :=
  ⟨rfl, sameMemory_of_memories rfl, rfl, rfl⟩

theorem regField_powered (s : State) (v : DWord) (o : Bool) (lo w : Nat) :
    (powered s v o).regField .pwrStat lo w = bitsAt v.toNat lo w :=
  regField_setReg_same s .pwrStat v lo w

theorem exec_throttleStep (s : State) :
    exec .throttleStep s = .next (powered s (pwrStat s) (s.overtemp && decide (85 ≤ s.arg.m))) := by
  unfold pwrStat
  rfl

theorem exec_overtempFreeze (s : State) (h : 105 ≤ s.arg.n) :
    ∃ v, exec .overtempFreeze s = .next (foldState (fun s p => s.freeze p 3 0 0) (powered s v true) (upto 65)) :=
  ⟨_, congrArg Host.Outcome.next (if_neg (Nat.not_lt.mpr h))⟩

theorem powerSteps : PowerSteps := by
  intro s hot high f
  refine ⟨?_, fun h => ?_, fun h => ?_⟩
  · have hf : (if decide hot || decide high then max 1200 (f - 75) else min 2400 (f + 75)) < 2 ^ 12 := by
      have : f < 2 ^ 12 := regField_lt ..
      split <;> omega
    obtain ⟨hclk, hh, hg, htemp⟩ := bitsAt_pwrStat _ s.arg.m (decide hot) (decide high) hf
    have hv : pwrStat s = BitVec.ofNat 64 ((if decide hot || decide high then max 1200 (f - 75) else min 2400 (f + 75)) * 2 ^ 20 +
      (if decide hot then 2 ^ 19 else 0) + (if decide high then 2 ^ 18 else 0) + s.arg.m % 256) := by
      unfold pwrStat
      rfl
    rw [exec_throttleStep, hv]
    generalize BitVec.ofNat 64 _ = v at hclk hh hg htemp ⊢
    obtain ⟨hfab, hmem, hcyc, hot'⟩ := powered_keeps s v (s.overtemp && decide (85 ≤ s.arg.m))
    refine ⟨_, rfl, hfab, hmem, hcyc, ?_, ?_, ?_, ?_, ?_⟩
    · rw [regField_powered, hclk]
      simp only [Bool.or_eq_true, decide_eq_true_eq]
    · rw [regField_powered, hh]
      simp only [decide_eq_true_eq]
    · rw [regField_powered, hg]
      simp only [decide_eq_true_eq]
    · rw [regField_powered, htemp]
    · rw [hot', Bool.and_eq_true, decide_eq_true_eq]
  · obtain ⟨v, hrun⟩ := exec_overtempFreeze s h
    obtain ⟨hot, -, hall⟩ := freeze_all 3 0 0 (upto 65) (powered s v true)
    exact ⟨_, hrun, hot, fun q hq => hall q (mem_upto.mpr hq)⟩
  · exact congrArg Host.Outcome.next (if_pos h)

end Sys2Proof.Laws

namespace Sys2Proof.Proofs

open Sys2Proof Sys2Proof.Machine Sys2Proof.Laws

/-- Settles O51: by what survives a reset, by the phase of the boot, and by the fields of PWR_STAT. -/
theorem bootAndPower : Obligations.BootAndPower := ⟨resetsStart, bootSteps, powerSteps⟩

end Sys2Proof.Proofs
end

section

/-! PROOF. Invalidations (O37). -/

namespace Sys2Proof.Laws
open Sys2Proof Sys2Proof.Machine Sys2Proof.Claims

/-- What a command covers, said of its numbers (R367). -/
theorem invCovers_iff (s : State) (kind asid va log2 : Nat) (wait : List Nat) (a x z : Nat) :
    s.invCovers { kind := kind, asid := asid, va := va, log2 := log2, ats := false, wait := wait } a x z = true ↔
      (kind = 0 ∨ a = asid) ∧ kind ≠ 3 ∧ (kind = 2 → x < va + 2 ^ log2 ∧ va < x + z) := by
  simp only [State.invCovers, Bool.false_eq_true, if_false, Bool.and_eq_true, Bool.or_eq_true, decide_eq_true_eq, and_assoc]
  refine and_congr_right fun _ => and_congr_right fun _ => ?_
  simp only [ne_eq, ← imp_iff_not_or]

/-- What an ATS invalidation covers: every ASID that has its PASID (R367). -/
theorem invCovers_ats (s : State) (pasid va log2 : Nat) (wait : List Nat) (a x z : Nat) :
    s.invCovers { kind := 2, asid := pasid, va := va, log2 := log2, ats := true, wait := wait } a x z = true ↔
      s.pasid? a = some pasid ∧ x < va + 2 ^ log2 ∧ va < x + z := by
  simp [State.invCovers]

theorem mem_invWaits (s : State) (c : InvCmd) (m : Nat) : m ∈ s.invWaits c ↔ ∃ a ∈ s.fab.accs, a.id = m ∧ a.done = false ∧
    ∃ p ∈ a.pieces, s.invCovers c (s.asid a.k) p.addr p.size = true ∧ ∃ x, p.place = some (.dev, x) ∨ p.place = some (.host, x) := by
  have piece : ∀ (p : Piece) (k : Nat), (match p.place with
      | some (.dev, _) => s.invCovers c (s.asid k) p.addr p.size
      | some (.host, _) => s.invCovers c (s.asid k) p.addr p.size
      | _ => false) = true ↔
      s.invCovers c (s.asid k) p.addr p.size = true ∧ ∃ x, p.place = some (.dev, x) ∨ p.place = some (.host, x) := by
    intro p k
    rcases p.place with _ | ⟨sp, x⟩
    · simp
    · cases sp <;> simp
  simp only [State.invWaits, List.mem_map, List.mem_filter, Bool.and_eq_true, Bool.not_eq_true', List.any_eq_true]
  exact ⟨fun ⟨a, ⟨ha, hd, p, hp, h⟩, hm⟩ => ⟨a, ha, hm, hd, p, hp, (piece p a.k).mp h⟩,
    fun ⟨a, ha, hm, hd, p, hp, h⟩ => ⟨a, ⟨ha, hd, p, hp, (piece p a.k).mpr h⟩, hm⟩⟩

/-- A command that takes effect drops what it covers and lists the accesses that it waits for (R367). -/
theorem startInv_drops (s : State) (c : InvCmd) (r : List InvCmd) (hq : s.invq = c :: r) :
    s.startInv.invq = { c with wait := s.invWaits c } :: r ∧
    (∀ e, e ∈ s.startInv.tlb ↔ e ∈ s.tlb ∧ ¬s.invCovers c e.asid e.va e.size = true) ∧
    (∀ e, e ∈ s.startInv.walks ↔ e ∈ s.walks ∧ ¬s.invCovers c e.asid e.va e.size = true) ∧
    (∀ e, e ∈ s.startInv.asids ↔ e ∈ s.asids ∧ ¬(c.kind = 0 ∨ (c.kind = 1 ∨ c.kind = 3) ∧ c.ats = false ∧ e.asid = c.asid)) := by
  unfold State.startInv
  rw [hq]
  refine ⟨rfl, fun e => ?_, fun e => ?_, fun e => ?_⟩
  · simp [List.mem_filter]
  · simp [List.mem_filter]
  · simp only [List.mem_filter]
    simp only [Bool.not_eq_true', ← Bool.not_eq_true, Bool.or_eq_true, Bool.and_eq_true, decide_eq_true_eq, and_assoc]

/-- The queue keeps its length when its head takes effect, and no register changes. -/
theorem startInv_keeps (s : State) : s.startInv.invq.length = s.invq.length ∧ s.startInv.regs = s.regs := by
  unfold State.startInv
  split
  · exact ⟨rfl, rfl⟩
  · next h => exact ⟨by rw [h]; rfl, rfl⟩

theorem pushInv_of_empty {s : State} (h : s.invq = []) (c : InvCmd) : s.pushInv c = { s with invq := [c] }.startInv :=
  if_pos (List.isEmpty_iff.mpr h)

theorem pushInv_of_ne {s : State} (h : s.invq ≠ []) (c : InvCmd) : s.pushInv c = { s with invq := s.invq ++ [c] } :=
  if_neg fun e => h (List.isEmpty_iff.mp e)

/-- The command of TR_INV in a write. -/
def trCommand (s : State) (kind : Nat) : InvCmd :=
  { kind := kind, asid := bitsAt s.arg.val.toNat 0 16, va := s.regField .trInvva 0 60,
    log2 := if kind = 2 then bitsAt s.arg.val.toNat 56 6 else 12, ats := false, wait := [] }

/-- A write of TR_INV that is obeyed (R367). -/
def TrAccepted (s : State) (kind : Nat) : Prop :=
  (s.invq.filter fun c => !c.ats).length < 64 ∧ bitsAt s.arg.val.toNat 16 40 = 0 ∧ (kind = 2 → 12 ≤ bitsAt s.arg.val.toNat 56 6 ∧
    bitsAt s.arg.val.toNat 56 6 ≤ 60 ∧ s.regField .trInvva 0 60 % 2 ^ bitsAt s.arg.val.toNat 56 6 = 0)

theorem invCommand_refused_iff (s : State) (kind : Nat) : (64 ≤ (s.invq.filter fun c => !c.ats).length || bitsAt s.arg.val.toNat 16 40 ≠ 0 ||
    (if kind = 2 then bitsAt s.arg.val.toNat 56 6 else 12) < 12 || 60 < (if kind = 2 then bitsAt s.arg.val.toNat 56 6 else 12) ||
    (kind = 2 && s.regField .trInvva 0 60 % 2 ^ (if kind = 2 then bitsAt s.arg.val.toNat 56 6 else 12) ≠ 0)) = true ↔ ¬TrAccepted s kind := by
  unfold TrAccepted
  by_cases hk : kind = 2
  · subst hk
    simp only [if_true, decide_true, true_implies, Bool.true_and, Bool.or_eq_true, decide_eq_true_eq]
    generalize s.regField .trInvva 0 60 % 2 ^ bitsAt s.arg.val.toNat 56 6 = m
    omega
  · simp [hk]
    omega

theorem invCommand_eq (s : State) (kind : Nat) :
    (TrAccepted s kind → s.invCommand kind = s.pushInv (trCommand s kind)) ∧
    (¬TrAccepted s kind → s.invCommand kind = s.setField .trInvstat 63 1 1) :=
  ⟨fun h => if_neg fun e => (invCommand_refused_iff s kind).mp e h, fun h => if_pos ((invCommand_refused_iff s kind).mpr h)⟩

theorem exec_inv (s : State) (ev : Instr) (kind : Nat)
    (h : (ev, kind) ∈ [(Instr.invAll, 0), (.invAsid, 1), (.invRange, 2), (.invAsidEntry, 3)]) :
    exec ev s = .next (s.invCommand kind) ∧ kind < 4 := by
  simp only [List.mem_cons, List.not_mem_nil, or_false, Prod.mk.injEq] at h
  obtain ⟨rfl, rfl⟩ | ⟨rfl, rfl⟩ | ⟨rfl, rfl⟩ | ⟨rfl, rfl⟩ := h <;> exact ⟨rfl, by decide⟩

theorem invalidationsDrop : InvalidationsDrop := by
  intro s ev kind hev v log2 va asid ok covered
  obtain ⟨hrun, hk⟩ := exec_inv s ev kind hev
  obtain ⟨hacc, href⟩ := invCommand_eq s kind
  refine ⟨fun hok hq => ?_, fun hok hq => ?_, fun hok => ?_⟩
  · have hcov : ∀ a x z, ({ s with invq := [trCommand s kind] } : State).invCovers (trCommand s kind) a x z = true ↔ covered a x z := by
      intro a x z
      refine (invCovers_iff _ _ _ _ _ _ a x z).trans ?_
      by_cases h2 : kind = 2
      · simp [covered, h2, asid, va, log2, v]
      · obtain rfl | rfl | rfl : kind = 0 ∨ kind = 1 ∨ kind = 3 := by omega
        all_goals simp [covered, asid, v]
    obtain ⟨hinv, htlb, hwalk, hasid⟩ := startInv_drops { s with invq := [trCommand s kind] } _ [] rfl
    rw [hrun, hacc hok, pushInv_of_empty hq]
    refine ⟨_, _, rfl, hinv, rfl, rfl, fun e => ?_, fun e => ?_, fun e => ?_, fun m => ?_, sameMemory_of_memories (by simp)⟩
    · rw [htlb, hcov]
    · rw [hwalk, hcov]
    · rw [hasid]
      simp [trCommand, asid, v]
    · refine (mem_invWaits _ _ m).trans ?_
      simp only [hcov]
      rfl
  · rw [hrun, hacc hok, pushInv_of_ne hq]
    refine ⟨_, _, rfl, rfl, rfl, rfl, fun h2 => ⟨rfl, if_pos h2⟩, rfl, rfl⟩
  · rw [hrun, href hok]

/-- The memories alone say which PASID an address space has. -/
theorem pasid?_withInvq (s : State) (q : List InvCmd) (a : Nat) : ({ s with invq := q } : State).pasid? a = s.pasid? a := by
  have hread : ∀ pa n, ({ s with invq := q } : State).readPa pa n = s.readPa pa n := fun _ _ => rfl
  have hentry : ({ s with invq := q } : State).asidEntry a = s.asidEntry a := rfl
  rw [State.pasid?, State.pasid?, hentry, hread]

theorem bump_invq (s : State) (r : Reg) (lo w : Nat) : (s.bump r lo w).invq = s.invq := rfl

/-- The end of the oldest command that returns no frame and ends no retirement (R367). -/
def invDone (s : State) (c : InvCmd) (r : List InvCmd) : State :=
  (if c.ats then { s with invq := r } else { s with invq := r }.bump .trInvstat 0 32).startInv

theorem exec_invComplete (s : State) (c : InvCmd) (r : List InvCmd) (hq : s.invq = c :: r) :
    ((∃ a ∈ s.fab.accs, a.id ∈ c.wait ∧ a.done = false) → exec .invComplete s = .next s) ∧
    ((∀ a ∈ s.fab.accs, a.id ∈ c.wait → a.done = true) → c.back = none → c.retire = none →
      exec .invComplete s = .next (invDone s c r)) := by
  have he : exec .invComplete s = execInvComplete s := rfl
  rw [he, execInvComplete, hq]
  dsimp only
  constructor
  · rintro ⟨a, ha, hw, hd⟩
    rw [if_pos (List.any_eq_true.mpr ⟨a, ha, by simp [hw, hd]⟩)]
  · intro hdone hb hr
    rw [if_neg, hb, hr]
    · rfl
    · intro h
      obtain ⟨a, ha, h⟩ := List.any_eq_true.mp h
      simp only [Bool.and_eq_true, List.contains_iff_mem, Bool.not_eq_true'] at h
      exact absurd (hdone a ha h.1) (by simp [h.2])

theorem invalidationsComplete : InvalidationsComplete := by
  intro s
  refine ⟨fun c r hq => ?_, fun hq => ?_⟩
  · obtain ⟨hwait, hdone⟩ := exec_invComplete s c r hq
    refine ⟨hwait, fun hall hb hr => ⟨_, hdone hall hb hr, ?_, sameMemory_of_memories ?_, ?_⟩⟩
    · rw [invDone, (startInv_keeps _).1]
      split
      · rfl
      · rw [bump_invq]
    · rw [invDone]
      split <;> simp
    · rw [invDone, regField_of_regs (startInv_keeps _).2]
      split
      · rfl
      · rw [regField_bump_same _ _ (by decide)]
        rfl
  · obtain ⟨hinv, htlb, -, -⟩ := startInv_drops { s with invq := [
      { kind := 2, asid := s.arg.n, va := s.arg.val.toNat, log2 := s.arg.m, ats := true, wait := [] }] } _ [] rfl
    refine ⟨_, _, congrArg Host.Outcome.next (pushInv_of_empty hq _), hinv, rfl, sameMemory_of_memories (by simp), fun e => ?_⟩
    rw [htlb, invCovers_ats, pasid?_withInvq]

end Sys2Proof.Laws

namespace Sys2Proof.Proofs

open Sys2Proof Sys2Proof.Machine Sys2Proof.Laws

/-- Settles O37: by what a command covers, and by the queue whose head takes effect. -/
theorem invalidations : Obligations.Invalidations := ⟨invalidationsDrop, invalidationsComplete⟩

end Sys2Proof.Proofs
end

section

/-! PROOF. The host's accesses to device memory, apertures, snoops and decoders (O35). -/

namespace Sys2Proof.Laws
open Sys2Proof Sys2Proof.Machine Sys2Proof.Claims

/-! Bytes of a location. -/

theorem getElem_getBytes (l : List Host.Cell) (n : Nat) : ∀ (a i : Nat) (h : i < (getBytes l a n).length),
    (getBytes l a n)[i] = getCell l (a + i) := by
  induction n with
  | zero => intro a i h; exact absurd h (Nat.not_lt_zero i)
  | succ n ih =>
    intro a i h
    cases i with
    | zero => rfl
    | succ i =>
      simp only [getBytes, List.getElem_cons_succ]
      rw [ih, Nat.add_right_comm, Nat.add_assoc]

theorem testBit_leNat (bs : List Byte) : ∀ (i j : Nat) (hi : i < bs.length), j < 8 →
    (leNat bs).testBit (8 * i + j) = bs[i].getLsbD j := by
  induction bs with
  | nil => intro i j hi; exact absurd hi (Nat.not_lt_zero i)
  | cons b r ih =>
    intro i j hi hj
    rw [leNat, Nat.add_comm, show (256 : Nat) = 2 ^ 8 from rfl, Nat.testBit_two_pow_mul_add _ b.isLt]
    cases i with
    | zero => simp [hj, BitVec.getLsbD]
    | succ i =>
      rw [if_neg (by omega), show 8 * (i + 1) + j - 8 = 8 * i + j by omega, ih i j (Nat.lt_of_succ_lt_succ hi) hj]
      rfl

/-- A bit of a location is a bit of its byte. -/
theorem testBit_readN (s : State) (st : Store) (x n : Nat) {i j : Nat} (hi : i < n) (hj : j < 8) :
    (s.readN st x n).testBit (8 * i + j) = (getCell (s.cells st) (x + i)).getLsbD j := by
  have hl : i < (getBytes (s.cells st) x n).length := by rwa [length_getBytes]
  rw [State.readN, getNat, testBit_leNat _ i j hl hj, getElem_getBytes]

@[simp] theorem length_lineBytes (d m : Nat) (old : List Byte) : (lineBytes d m old).length = 64 := by
  rw [lineBytes, List.length_map]
  rfl

theorem getElem_lineBytes (d m i : Nat) (old : List Byte) (h : i < (lineBytes d m old).length) :
    (lineBytes d m old)[i] = if bitsAt m i 1 = 1 then BitVec.ofNat 8 (bitsAt d (8 * i) 8) else (old.drop i).headD 0 := by
  simp only [lineBytes, upto, upFrom_eq, List.getElem_map, List.getElem_range, Nat.zero_add]

theorem headD_drop_readB (s : State) (st : Store) (x n i : Nat) (hi : i < n) :
    ((s.readB st x n).drop i).headD 0 = getCell (s.cells st) (x + i) := by
  have hb : i < (getBytes (s.cells st) x n).length := by rwa [length_getBytes]
  rw [State.readB, ← getElem_getBytes _ n _ _ hb, List.drop_eq_getElem_cons hb]
  rfl

/-- A line written under its byte mask (R390). -/
theorem getCell_writeLine (s : State) (st : Store) (line d m : Nat) :
    let t := s.writeB st (64 * line) (lineBytes d m (s.readB st (64 * line) 64))
    (∀ i < 64, getCell (t.cells st) (64 * line + i) =
      if bitsAt m i 1 = 1 then BitVec.ofNat 8 (bitsAt d (8 * i) 8) else getCell (s.cells st) (64 * line + i)) ∧
    ∀ x, (x < 64 * line ∨ 64 * line + 64 ≤ x) → getCell (t.cells st) x = getCell (s.cells st) x := by
  intro t
  have hcells : t.cells st = putBytes (s.cells st) (64 * line) (lineBytes d m (s.readB st (64 * line) 64)) := cells_setCells_self s st _
  refine ⟨fun i hi => ?_, fun x hx => ?_⟩
  · rw [hcells, getCell_putBytes _ _ _ i (by simpa using hi), getElem_lineBytes, headD_drop_readB _ _ _ _ _ hi]
  · rw [hcells, getCell_putBytes_ne _ _ _ (by simpa using hx)]

/-! The bias table: the host's copies of lines. -/

theorem mem_filter_ne_append {l : List Nat} {x y : Nat} (h : y ≠ x) : y ∈ l.filter (· ≠ x) ++ [x] ↔ y ∈ l := by
  simp [h]

/-- The host's copy of a line is the line as it then is, and no copy of another line changes. -/
theorem hostGets_copy (s : State) (line : Nat) :
    (line, BitVec.ofNat 512 (s.readN .dev (64 * line) 64)) ∈ (s.hostGets line).hostCopy ∧
    ∀ c, c.1 ≠ line → (c ∈ (s.hostGets line).hostCopy ↔ c ∈ s.hostCopy) := by
  refine ⟨List.mem_append_right _ List.mem_cons_self, fun c hc => ?_⟩
  simp only [State.hostGets, List.mem_append, List.mem_filter, List.mem_singleton, decide_eq_true_eq]
  refine ⟨fun h => h.elim And.left fun e => absurd (congrArg Prod.fst e) hc, fun h => .inl ⟨h, hc⟩⟩

/-- A line that the host gives up. -/
theorem hostDrops_gone (s : State) (line : Nat) : (∀ l, l ∈ (s.hostDrops line).snoop ↔ l ∈ s.snoop ∧ l ≠ line) ∧
    (∀ x ∈ (s.hostDrops line).hostBusy, x.1 ≠ line) ∧ ∀ c ∈ (s.hostDrops line).hostCopy, c.1 ≠ line := by
  refine ⟨fun l => ?_, fun x hx => ?_, fun c hc => ?_⟩
  · simp [State.hostDrops, List.mem_filter]
  · exact of_decide_eq_true (List.mem_filter.mp hx).2
  · exact of_decide_eq_true (List.mem_filter.mp hc).2

section
variable {s : State} {a : Nat} (ha : s.decoded s.arg.u s.arg.val.toNat = some a)
include ha

/-- The line that a decoded host write leaves. -/
theorem exec_hostWrite {d : BitVec 512} {m : BitVec 64} (h : s.arg.hostOp = .write d m) :
    let t := s.writeB .dev (64 * (a / 64)) (lineBytes d.toNat m.toNat (s.readB .dev (64 * (a / 64)) 64))
    exec .hostMemAccess s = .next (if t.snoop.contains (a / 64) then t.hostGets (a / 64) else t) := by
  have he : exec .hostMemAccess s = execHostMemAccess s := rfl
  rw [he, execHostMemAccess, ha]
  simp only [h]

theorem exec_hostRead {own : Bool} (h : s.arg.hostOp = .read own) :
    exec .hostMemAccess s = .next (if 4194304 ≤ s.snoop.length && !s.snoop.contains (a / 64) then s
      else ({ s with snoop := (s.snoop.filter (· ≠ a / 64)) ++ [a / 64] }).hostGets (a / 64)) := by
  have he : exec .hostMemAccess s = execHostMemAccess s := rfl
  rw [he, execHostMemAccess, ha]
  simp only [h]

theorem exec_hostFlush (h : s.arg.hostOp = .flush) : exec .hostMemAccess s = .next (s.hostDrops (a / 64)) := by
  have he : exec .hostMemAccess s = execHostMemAccess s := rfl
  rw [he, execHostMemAccess, ha]
  simp only [h]

end

theorem hostMemory : HostMemory := by
  intro s put
  refine ⟨fun a own ha hop => ⟨fun hroom => ?_, fun hfull hnot => ?_⟩, fun a d m ha hop => ?_, fun a ha hop => ?_, fun hmem => ?_,
    fun hnot => ?_⟩
  · have hgo : ¬(4194304 ≤ s.snoop.length && !s.snoop.contains (a / 64)) = true := by
      rw [Bool.and_eq_true, decide_eq_true_eq, Bool.not_eq_true', ← Bool.not_eq_true, List.contains_iff_mem]
      exact fun ⟨h, h'⟩ => hroom.elim (Nat.not_lt.mpr h) h'
    rw [exec_hostRead ha hop, if_neg hgo]
    obtain ⟨hcopy, hothers⟩ := hostGets_copy { s with snoop := (s.snoop.filter (· ≠ a / 64)) ++ [a / 64] } (a / 64)
    exact ⟨_, rfl, List.mem_append_right _ List.mem_cons_self, List.getLast?_concat .., fun l hl => mem_filter_ne_append hl,
      sameMemory_of_memories (by simp), hcopy, hothers⟩
  · rw [exec_hostRead ha hop, if_pos]
    simp [hfull, hnot]
  · rw [exec_hostWrite ha hop]
    obtain ⟨hline, hrest⟩ := getCell_writeLine s .dev (a / 64) d.toNat m.toNat
    refine ⟨_, rfl, ?_⟩
    split
    · exact ⟨⟨hline, hrest, rfl, rfl, rfl, rfl⟩, rfl, fun _ => (hostGets_copy _ _).1⟩
    · next h => exact ⟨⟨hline, hrest, rfl, rfl, rfl, rfl⟩, rfl, fun hm => absurd (List.contains_iff_mem.mpr hm) h⟩
  · obtain ⟨hsnoop, hbusy, -⟩ := hostDrops_gone s (a / 64)
    exact ⟨_, exec_hostFlush ha hop, hsnoop, hbusy, sameMemory_of_memories (by simp)⟩
  · have hrun : exec .backInvalidate s = .next ((match s.arg.data with
        | some d => s.writeB .dev (64 * s.arg.n) (lineBytes d.toNat s.arg.val.toNat (s.readB .dev (64 * s.arg.n) 64))
        | none => s).hostDrops s.arg.n) := congrArg Host.Outcome.next (if_pos (List.contains_iff_mem.mpr hmem))
    rw [hrun]
    cases hd : s.arg.data with
    | none =>
      obtain ⟨hsnoop, hbusy, hcopy⟩ := hostDrops_gone s s.arg.n
      exact ⟨_, rfl, hsnoop, hbusy, hcopy, fun _ => sameMemory_of_memories (by simp), fun d h => absurd h nofun⟩
    | some d =>
      obtain ⟨hline, hrest⟩ := getCell_writeLine s .dev s.arg.n d.toNat s.arg.val.toNat
      obtain ⟨hsnoop, hbusy, hcopy⟩ := hostDrops_gone
        (s.writeB .dev (64 * s.arg.n) (lineBytes d.toNat s.arg.val.toNat (s.readB .dev (64 * s.arg.n) 64))) s.arg.n
      refine ⟨_, rfl, hsnoop, hbusy, hcopy, fun h => absurd h nofun, fun x hx => ?_⟩
      cases hx
      exact ⟨hline, hrest, rfl, rfl, rfl, rfl⟩
  · exact congrArg Host.Outcome.next (if_neg fun h => hnot (List.contains_iff_mem.mp h))

/-! Apertures. -/

/-- The mask of the bytes that an aperture write enables (R388). -/
def byteMask (m : Nat) : Nat := (upto 4).foldl (fun x i => if bitsAt m i 1 = 1 then x + 0xFF * 2 ^ (8 * i) else x) 0

theorem testBit_byteMask (m : Nat) {i j : Nat} (hi : i < 4) (hj : j < 8) : (byteMask m).testBit (8 * i + j) = m.testBit i := by
  have fold : ∀ b : Fin 4 → Bool, ∀ i : Fin 4, ∀ j : Fin 8, ([(0, b 0), (1, b 1), (2, b 2), (3, b 3)].foldl
      (fun x (e : Nat × Bool) => if e.2 = true then x + 0xFF * 2 ^ (8 * e.1) else x) 0).testBit (8 * i + j) = b i := by decide +kernel
  have h := fold (fun k => m.testBit k) ⟨i, hi⟩ ⟨j, hj⟩
  rw [← h]
  simp only [byteMask, upto, upFrom, List.foldl, bitsAt_one_eq_one]
  rfl

theorem getLsbD_mergeBits (s : State) (st : Store) (x n mask data : Nat) {i j : Nat} (hi : i < n) (hj : j < 8) :
    (getCell ((s.mergeBits st x n mask data).cells st) (x + i)).getLsbD j =
      if mask.testBit (8 * i + j) then data.testBit (8 * i + j) else (getCell (s.cells st) (x + i)).getLsbD j := by
  rw [← testBit_readN _ _ _ n hi hj, testBit_readN_mergeBits _ _ _ _ _ _ (by omega), testBit_readN _ _ _ n hi hj]

/-- An aperture write writes the bytes that it enables, and nothing else (R388). -/
theorem getCell_apertureWrite (s : State) (st : Store) (off m v : Nat) :
    let t := s.mergeBits st off 4 (byteMask m) (v % 2 ^ 32)
    (∀ i < 4, getCell (t.cells st) (off + i) =
      if bitsAt m i 1 = 1 then BitVec.ofNat 8 (bitsAt v (8 * i) 8) else getCell (s.cells st) (off + i)) ∧
    (∀ x, (x < off ∨ off + 4 ≤ x) → getCell (t.cells st) x = getCell (s.cells st) x) ∧
    (∀ su ≠ st, t.cells su = s.cells su) ∧ t.pres = s.pres := by
  refine ⟨fun i hi => BitVec.eq_of_getLsbD_eq fun j hj => ?_, fun x hx => getCell_writeN hx, fun su hsu => cells_writeN_ne hsu,
    pres_mergeBits ..⟩
  rw [getLsbD_mergeBits _ _ _ _ _ _ hi hj, testBit_byteMask m hi hj, Nat.testBit_mod_two_pow]
  simp only [bitsAt_one_eq_one]
  split
  · have hi32 : 8 * i + j < 32 := by omega
    rw [BitVec.getLsbD_ofNat, testBit_bitsAt, decide_eq_true hi32, decide_eq_true hj]
    rfl
  · rfl

theorem exec_hostApertureAccess (s : State) : exec .hostApertureAccess s =
    .next (if !decide (s.regField .hostApctl (if s.arg.flag then 1 else 0) 1 = 1) ||
        (!s.arg.flag && decide (0x300000 ≤ s.arg.n / 4 * 4 % 2 ^ 22)) || s.arg.j ≠ 1 ||
        s.scrubbing (if s.arg.flag then .wbuf else .scr) (s.arg.n / 4 * 4) then s
      else s.mergeBits (if s.arg.flag then .wbuf else .scr) (s.arg.n / 4 * 4) 4 (byteMask s.arg.m) (s.arg.val.toNat % 2 ^ 32)) := rfl

/-! Cache agents. -/

theorem mem_insNat {l : List Nat} {x p : Nat} : p ∈ insNat l x ↔ p = x ∨ p ∈ l := by
  induction l with
  | nil => simp [insNat]
  | cons a r ih =>
    rw [insNat]
    split
    · simp
    · split
      · next h => simp [h]
      · simp only [List.mem_cons, ih]
        exact or_left_comm

/-- The cache agents after a host snoop (R393). -/
def snooped (s : State) : List (Nat × Nat × Bool × Bool) :=
  let mine (e : Nat × Nat × Bool × Bool) : Bool := e.1 = s.arg.u && e.2.1 = s.arg.n
  if s.arg.flag then s.agent.filter fun e => !mine e else s.agent.map fun e => if mine e then (e.1, e.2.1, false, false) else e

theorem snooped_of_flag (s : State) (h : s.arg.flag = true) : ∀ e ∈ snooped s, ¬(e.1 = s.arg.u ∧ e.2.1 = s.arg.n) := by
  intro e he
  rw [snooped, if_pos h] at he
  simpa [imp_iff_not_or] using (List.mem_filter.mp he).2

theorem snooped_of_not_flag (s : State) (h : s.arg.flag = false) :
    ∀ e ∈ snooped s, e.1 = s.arg.u → e.2.1 = s.arg.n → e.2.2 = (false, false) := by
  intro e he hu hn
  rw [snooped, if_neg (by simp [h])] at he
  obtain ⟨x, -, rfl⟩ := List.mem_map.mp he
  by_cases hx : x.1 = s.arg.u ∧ x.2.1 = s.arg.n
  · rw [if_pos (by simpa using hx)]
  · rw [if_neg (by simpa using hx)] at hu hn
    exact absurd ⟨hu, hn⟩ hx

theorem mem_snooped (s : State) : ∀ e ∈ s.agent, ¬(e.1 = s.arg.u ∧ e.2.1 = s.arg.n) → e ∈ snooped s := by
  intro e he hne
  unfold snooped
  split
  · exact List.mem_filter.mpr ⟨he, by simpa [imp_iff_not_or] using hne⟩
  · exact List.mem_map.mpr ⟨e, he, if_neg (by simpa using hne)⟩

/-- What the host writes back with a snoop reaches host memory when no cache agent still holds the line (R393). -/
theorem hostSnoop (s : State) : ∃ t : State, exec .hostSnoop s = .next t ∧ t.agent = snooped s ∧ (s.arg.data = none → SameMemory s t) ∧
    (∀ d, s.arg.data = some d → (∀ e ∈ t.agent, e.2.1 ≠ s.arg.n) → ∀ i < 64, getCell t.hmem (64 * s.arg.n + i) =
      if bitsAt s.arg.val.toNat i 1 = 1 then BitVec.ofNat 8 (bitsAt d.toNat (8 * i) 8) else getCell s.hmem (64 * s.arg.n + i)) ∧
    (∀ x, (x < 64 * s.arg.n ∨ 64 * s.arg.n + 64 ≤ x) → getCell t.hmem x = getCell s.hmem x) ∧ t.dmem = s.dmem ∧ t.scr = s.scr := by
  have hrun : exec .hostSnoop s = .next (match s.arg.data with
      | some d =>
        if (snooped s).any fun e => e.2.1 = s.arg.n then { s with agent := snooped s }
        else { s with agent := snooped s }.writeB .host (64 * s.arg.n) (lineBytes d.toNat s.arg.val.toNat (s.readB .host (64 * s.arg.n) 64))
      | none => { s with agent := snooped s }) := rfl
  rw [hrun]
  cases s.arg.data with
  | none => exact ⟨_, rfl, rfl, fun _ => sameMemory_of_memories (by simp), fun d h => absurd h nofun, fun _ _ => rfl, rfl, rfl⟩
  | some d =>
    dsimp only
    split
    · next h =>
      obtain ⟨e, he, hn⟩ := List.any_eq_true.mp h
      exact ⟨_, rfl, rfl, fun h => absurd h nofun, fun _ _ hall => absurd (of_decide_eq_true hn) (hall e he), fun _ _ => rfl, rfl, rfl⟩
    · obtain ⟨hline, hrest⟩ := getCell_writeLine { s with agent := snooped s } .host s.arg.n d.toNat s.arg.val.toNat
      refine ⟨_, rfl, rfl, fun h => absurd h nofun, fun x hx _ => ?_, hrest, rfl, rfl⟩
      cases hx
      exact hline

theorem exec_decoderCommit (s : State) : exec .decoderCommit s = .next (if s.arg.j = 40 &&
      ((s.arg.n = 2 && [256, 512, 1024, 2048, 4096].contains s.arg.m) || (s.arg.n = 1 && s.arg.u = 0)) then
    { s with decoders := (s.decoders.filter fun d => d.1 ≠ s.arg.u && !(s.arg.n = 1 && d.2.1 = 1)) ++ [(s.arg.u, s.arg.n, s.arg.m)] }
  else s) := rfl

/-- The decoder that was committed last is the one of its port (R392). -/
theorem find?_committed (l : List (Nat × Nat × Nat)) (q : Nat × Nat × Nat → Bool) (u n m : Nat) :
    ((l.filter fun d => d.1 ≠ u && q d) ++ [(u, n, m)]).find? (fun d => d.1 = u) = some (u, n, m) := by
  have hnone : (l.filter fun d => d.1 ≠ u && q d).find? (fun d => decide (d.1 = u)) = none := by
    rw [List.find?_eq_none]
    intro d hd
    have h := (List.mem_filter.mp hd).2
    rw [Bool.and_eq_true] at h
    simpa using h.1
  rw [List.find?_append, hnone]
  simp

theorem hostPorts : HostPorts := by
  intro s off st on
  refine ⟨fun hon hoff hj hs => ?_, fun h => ?_, rfl, ?_, ?_, fun hj h => ?_, fun h => ?_⟩
  · rw [exec_hostApertureAccess, if_neg]
    · exact ⟨_, rfl, getCell_apertureWrite s st off s.arg.m s.arg.val.toNat⟩
    · have hs' : s.scrubbing (if s.arg.flag then .wbuf else .scr) (s.arg.n / 4 * 4) = false := hs
      cases hf : s.arg.flag with
      | false => simp_all [on, off]
      | true => simp_all [on, off]
  · rw [exec_hostApertureAccess, if_pos]
    obtain h | ⟨hf, h⟩ | h := h
    · simp_all [on]
    · simp_all [off]
    · simp_all [st, off]
  · obtain ⟨t, hrun, hag, hmem, hdata, hrest, hd, hscr⟩ := hostSnoop s
    refine ⟨t, hrun, hmem, hdata, hrest, hd, hscr, ?_⟩
    rw [hag]
    exact ⟨snooped_of_flag s, snooped_of_not_flag s, mem_snooped s⟩
  · refine ⟨_, rfl, rfl, sameMemory_of_memories (by simp), fun p => ?_⟩
    dsimp only
    by_cases hp : p = s.arg.u
    · subst hp
      cases hf : s.arg.flag <;> by_cases hc : s.arg.u ∈ s.cxl <;> simp [hc, mem_insNat]
    · cases hf : s.arg.flag <;> by_cases hc : s.arg.u ∈ s.cxl <;> simp [hc, hp, mem_insNat]
  · rw [exec_decoderCommit, if_pos]
    · exact ⟨_, rfl, find?_committed .., sameMemory_of_memories (by simp)⟩
    · simpa [hj] using h
  · rw [exec_decoderCommit, if_neg]
    simpa using h

end Sys2Proof.Laws

namespace Sys2Proof.Proofs

open Sys2Proof Sys2Proof.Machine Sys2Proof.Laws

/-- Settles O35: by the line that an access writes, and by the bytes that an aperture write enables. -/
theorem hostAccess : Obligations.HostAccess := ⟨hostMemory, hostPorts⟩

end Sys2Proof.Proofs
end

section

/-! PROOF. Allocations of scratch and weight memory and their scrubs (O38). -/

namespace Sys2Proof.Laws
open Sys2Proof Sys2Proof.Machine Sys2Proof.Claims

/-- A field of RW bits takes what is written (R9). -/
theorem regField_writeReg_rw (s : State) {r : Reg} {m : DWord} (v : DWord) {lo w : Nat} (hc : r.w1cMask = 0) (hm : r.rwMask = m)
    (hrw : ∀ i < w, m.getLsbD (lo + i) = true) : (s.writeReg r v).regField r lo w = bitsAt v.toNat lo w := by
  apply Nat.eq_of_testBit_eq
  intro i
  have hbit := getLsbD_reg_writeReg s r v (lo + i)
  rw [hc, hm] at hbit
  rw [State.regField, testBit_bitsAt, testBit_bitsAt]
  by_cases hi : i < w
  · rw [hrw i hi] at hbit
    simpa [hi, BitVec.getLsbD] using hbit
  · simp [hi]

/-- A bit that no access changes keeps its value (R9). -/
theorem regField_writeReg_ro (s : State) {r : Reg} {m : DWord} (v : DWord) {i : Nat} (hc : r.w1cMask = 0) (hm : r.rwMask = m)
    (hro : m.getLsbD i = false) :
    (s.writeReg r v).regField r i 1 = s.regField r i 1 := by
  have hbit := getLsbD_reg_writeReg s r v i
  rw [hc, hm, hro] at hbit
  rw [State.regField, State.regField, bitsAt_one, bitsAt_one]
  exact congrArg Bool.toNat (by simpa [BitVec.getLsbD] using hbit)

/-- The allocation register of a slot in a barn. -/
def allocReg (barn k : Nat) (weight : Bool) : Reg := if weight then .wbufAlloc barn k else .spadAlloc barn k

/-- An allocation meets no other slot's (R261). -/
def AllocClear (s : State) (r : Nat → Reg) (k base size : Nat) : Prop :=
  size ≠ 0 → ∀ j < 32, j ≠ k → s.regField (r j) 8 6 ≠ 0 →
    ¬(base < s.regField (r j) 0 6 + s.regField (r j) 8 6 ∧ s.regField (r j) 0 6 < base + size)

theorem allocOk_iff (s : State) (barn k : Nat) (weight : Bool) (n v : Nat) (r : Nat → Reg) (hr : ∀ j, allocReg barn j weight = r j) :
    s.allocOk barn k weight n v = true ↔
      bitsAt v 0 6 + bitsAt v 8 6 ≤ n ∧ AllocClear s r k (bitsAt v 0 6) (bitsAt v 8 6) := by
  obtain rfl : (fun j => allocReg barn j weight) = r := funext hr
  unfold State.allocOk AllocClear
  simp only [Bool.and_eq_true, decide_eq_true_eq, Bool.not_eq_true', List.any_eq_false, mem_upto]
  refine and_congr_right fun _ => ⟨fun h hz j hj hk hr => ?_, fun h j hj => ?_⟩
  · have := h j hj
    rintro ⟨h1, h2⟩
    refine this (by simpa [allocReg] using ⟨⟨⟨⟨hk, hz⟩, hr⟩, h1⟩, h2⟩)
  · intro hmeets
    obtain ⟨⟨⟨⟨hk, hz⟩, hr⟩, h1⟩, h2⟩ : (((j ≠ k ∧ bitsAt v 8 6 ≠ 0) ∧ s.regField (allocReg barn j weight) 8 6 ≠ 0) ∧
        bitsAt v 0 6 < s.regField (allocReg barn j weight) 0 6 + s.regField (allocReg barn j weight) 8 6) ∧
        s.regField (allocReg barn j weight) 0 6 < bitsAt v 0 6 + bitsAt v 8 6 := by
      simpa [allocReg] using hmeets
    exact h hz j hj hk hr ⟨h1, h2⟩

theorem scrub_eq (s : State) (barn k : Nat) (weight : Bool) : s.scrub barn k weight =
    { s.setField (allocReg barn k weight) 31 1 1 with
      scrubs := (s.scrubs.filter fun c => !(c.barn = barn && c.k = k && c.weight = weight)) ++ [{
        barn := barn, k := k, weight := weight, base := s.regField (allocReg barn k weight) 0 6
        size := s.regField (allocReg barn k weight) 8 6 }] } := rfl

/-- An allocation that is written starts its scrub, in place of an earlier one of its register (R268, R270). -/
theorem scrub_starts (s : State) (barn k : Nat) (weight : Bool) (v : DWord) (base : Nat) (r : Reg) (hr : allocReg barn k weight = r)
    (hbase : (s.writeReg r v).regField r 0 6 = base) :
    ∃ (t : State) (c : Scrub), (s.writeReg r v).scrub barn k weight = t ∧
      t.scrubs = s.scrubs.filter (fun c => !(c.barn = barn && c.k = k && c.weight = weight)) ++ [c] ∧
      c.barn = barn ∧ c.k = k ∧ c.weight = weight ∧ c.base = base ∧ c.size = bitsAt v.toNat 8 6 ∧
      t.regField r 31 1 = 1 ∧ t.regField r 8 6 = bitsAt v.toNat 8 6 ∧ t.regField r 0 6 = base ∧ SameMemory s t := by
  have hsize : (s.writeReg r v).regField r 8 6 = bitsAt v.toNat 8 6 := by
    subst hr
    cases weight
    · exact regField_writeReg_rw s (m := 0x3f3f) v rfl rfl (by decide)
    · exact regField_writeReg_rw s (m := 0x3f1f) v rfl rfl (by decide)
  have field : ∀ lo w, ((s.writeReg r v).scrub barn k weight).regField r lo w = ((s.writeReg r v).setField r 31 1 1).regField r lo w :=
    fun lo w => by rw [scrub_eq, hr]; exact regField_of_regs rfl _ _ _
  refine ⟨_, _, rfl, congrArg State.scrubs (scrub_eq _ barn k weight), rfl, rfl, rfl, ?_, ?_, ?_, ?_, ?_, sameMemory_of_memories (by simp)⟩
  · rw [hr, hbase]
  · rw [hr, hsize]
  · rw [field, regField_setField_same _ _ _ (by decide)]
    rfl
  · rw [field, regField_setField_disjoint _ _ _ (by decide) (by decide), hsize]
  · rw [field, regField_setField_disjoint _ _ _ (by decide) (by decide), hbase]

/-- BASE of a weight allocation: bit 5 is reserved (R270). -/
theorem wbufAlloc_base (s : State) (b k : Nat) (v : DWord) (h : s.regField (.wbufAlloc b k) 5 1 = 0) :
    (s.writeReg (.wbufAlloc b k) v).regField (.wbufAlloc b k) 0 6 = bitsAt v.toNat 0 5 := by
  have hlow := regField_writeReg_rw s (r := .wbufAlloc b k) (m := 0x3f1f) v (lo := 0) (w := 5) rfl rfl (by decide)
  have htop := regField_writeReg_ro s (r := .wbufAlloc b k) (m := 0x3f1f) v (i := 5) rfl rfl (by decide)
  rw [h] at htop
  rw [State.regField, bitsAt_eq] at hlow htop ⊢
  omega

theorem wbufAlloc_written (v : Nat) : bitsAt (v % 2 ^ 14 - bitsAt v 5 1 * 32) 0 6 = bitsAt v 0 5 ∧
    bitsAt (v % 2 ^ 14 - bitsAt v 5 1 * 32) 8 6 = bitsAt v 8 6 := by
  simp only [bitsAt_eq]
  omega

theorem exec_spadAllocWrite (s : State) : exec .spadAllocWrite s =
    .next (if s.allocOk s.arg.u s.arg.k false 48 s.arg.val.toNat then
      (s.writeReg (.spadAlloc s.arg.u s.arg.k) s.arg.val).scrub s.arg.u s.arg.k false else s) := rfl

theorem exec_wbufAllocWrite (s : State) : exec .wbufAllocWrite s =
    .next (if s.allocOk s.arg.u s.arg.k true 32 (s.arg.val.toNat % 2 ^ 14 - bitsAt s.arg.val.toNat 5 1 * 32) then
      (s.writeReg (.wbufAlloc s.arg.u s.arg.k) s.arg.val).scrub s.arg.u s.arg.k true else s) := rfl

/-! The end of a scrub. -/

theorem getCell_clearRange (l : List Host.Cell) (a n x : Nat) :
    getCell (clearRange l a n) x = if a ≤ x ∧ x < a + n then 0 else getCell l x := by
  induction l with
  | nil => simp [clearRange, getCell]
  | cons c r ih =>
    obtain ⟨y, b⟩ := c
    unfold clearRange at ih ⊢
    rw [List.filter_cons]
    by_cases hy : y = x
    · subst hy
      split
      · next h =>
        simp only [Bool.or_eq_true, decide_eq_true_eq] at h
        rw [if_neg (by omega), getCell, getCell, if_pos rfl, if_pos rfl]
      · next h =>
        simp only [Bool.or_eq_true, decide_eq_true_eq] at h
        rw [ih, if_pos (by omega), if_pos (by omega)]
    · split
      · rw [getCell, getCell, if_neg hy, if_neg hy, ih]
      · rw [getCell, if_neg hy, ih]

/-- Units of a scrubbed range leave a list of units; the others stay. -/
theorem contains_units (l : List Nat) {u a n x : Nat} (hu : 0 < u) (ha : u ∣ a) (hn : u ∣ n) :
    (l.filter fun y => decide (u * y < a) || decide (a + n ≤ u * y)).contains (x / u) =
      if a ≤ x ∧ x < a + n then false else l.contains (x / u) := by
  obtain ⟨a, rfl⟩ := ha
  obtain ⟨n, rfl⟩ := hn
  have hlow : u * a ≤ x ↔ a ≤ x / u := by rw [Nat.le_div_iff_mul_le hu, Nat.mul_comm]
  have hhigh : x < u * a + u * n ↔ x / u < a + n := by rw [← Nat.mul_add, Nat.div_lt_iff_lt_mul hu, Nat.mul_comm]
  rw [Bool.eq_iff_iff, List.contains_iff_mem, List.mem_filter]
  simp only [hlow, hhigh]
  simp only [Bool.or_eq_true, decide_eq_true_eq, ← Nat.mul_add, Nat.mul_lt_mul_left hu, Nat.mul_le_mul_left_iff hu]
  split
  · next h => simp; omega
  · next h =>
    rw [List.contains_iff_mem]
    exact and_iff_left (by omega)

/-- The state at the end of scrub `c`, whose number is `n`. -/
def scrubbed (s : State) (n : Nat) (c : Scrub) : State := { s with scrubs := dropAt s.scrubs n }.zeroUnits c

theorem scrubbed_scrubs (s : State) (n : Nat) (c : Scrub) : (scrubbed s n c).scrubs = dropAt s.scrubs n := by
  unfold scrubbed State.zeroUnits
  dsimp only
  split <;> rfl

theorem placedStrands_scrubs (s : State) : s.placedStrands.scrubs = s.scrubs := rfl

theorem placedStrands_regs (s : State) : s.placedStrands.regs = s.regs := rfl

theorem exec_scrubDone (s : State) (c : Scrub) (hc : (s.scrubs.drop s.arg.n).head? = some c) :
    ∃ t, exec .scrubDone s = .next t ∧ t.scrubs = dropAt s.scrubs s.arg.n ∧ memories t = memories (scrubbed s s.arg.n c) ∧
      ((∀ d ∈ dropAt s.scrubs s.arg.n, ¬(d.barn = c.barn ∧ d.k = c.k ∧ d.weight = c.weight)) →
        t.regField (allocReg c.barn c.k c.weight) 31 1 = 0) := by
  have hrun : exec .scrubDone s = .next (if (scrubbed s s.arg.n c).scrubs.any fun d =>
      d.barn = c.barn && d.k = c.k && d.weight = c.weight then scrubbed s s.arg.n c
    else (scrubbed s s.arg.n c).setField (allocReg c.barn c.k c.weight) 31 1 0).placedStrands := by
    have he : exec .scrubDone s = execScrubDone s := rfl
    rw [he, execScrubDone, hc]
    rfl
  generalize hu : scrubbed s s.arg.n c = u at hrun
  have hs : u.scrubs = dropAt s.scrubs s.arg.n := hu ▸ scrubbed_scrubs s s.arg.n c
  rw [hs] at hrun
  refine ⟨_, hrun, ?_, ?_, fun h => ?_⟩
  · rw [placedStrands_scrubs]
    split
    · exact hs
    · exact hs
  · simp
  · rw [if_neg]
    · exact (regField_of_regs (placedStrands_regs _) _ _ _).trans (regField_setField_same _ _ _ (by decide))
    · intro hany
      obtain ⟨d, hd, hsame⟩ := List.any_eq_true.mp hany
      exact h d hd (by simpa [and_assoc] using hsame)

theorem cells_of_memories {s t : State} (h : memories t = memories s) (st : Store) : t.cells st = s.cells st :=
  (sameMemory_of_memories h).1 st

theorem spadAlloc_starts (s : State) (h : s.allocOk s.arg.u s.arg.k false 48 s.arg.val.toNat = true) :
    exec .spadAllocWrite s = .next ((s.writeReg (.spadAlloc s.arg.u s.arg.k) s.arg.val).scrub s.arg.u s.arg.k false) := by
  rw [exec_spadAllocWrite, if_pos h]

theorem wbufAlloc_starts (s : State)
    (h : s.allocOk s.arg.u s.arg.k true 32 (s.arg.val.toNat % 2 ^ 14 - bitsAt s.arg.val.toNat 5 1 * 32) = true) :
    exec .wbufAllocWrite s = .next ((s.writeReg (.wbufAlloc s.arg.u s.arg.k) s.arg.val).scrub s.arg.u s.arg.k true) := by
  rw [exec_wbufAllocWrite, if_pos h]

theorem scrubbed_keeps (s : State) (n : Nat) (c : Scrub) : (scrubbed s n c).dmem = s.dmem ∧ (scrubbed s n c).hmem = s.hmem := by
  unfold scrubbed State.zeroUnits
  dsimp only
  split <;> exact ⟨rfl, rfl⟩

/-- A scrub of the scratchpad leaves zeros, presence bits of 0 and no poison in its units (R268). -/
theorem scrubbed_scr (s : State) (n : Nat) (c : Scrub) (hc : c.weight = false) : (scrubbed s n c).wbuf = s.wbuf ∧
    ∀ a z x, a = c.barn * 2 ^ 22 + c.base * 2 ^ 16 → z = c.size * 2 ^ 16 →
      getCell (scrubbed s n c).scr x = (if a ≤ x ∧ x < a + z then 0 else getCell s.scr x) ∧
      (scrubbed s n c).pres.contains (x / 16) = (if a ≤ x ∧ x < a + z then false else s.pres.contains (x / 16)) ∧
      (scrubbed s n c).poisS.contains (x / 16) = (if a ≤ x ∧ x < a + z then false else s.poisS.contains (x / 16)) := by
  unfold scrubbed State.zeroUnits
  dsimp only
  rw [if_neg (by simp [hc])]
  refine ⟨rfl, fun a z x ha hz => ?_⟩
  rw [← ha, ← hz]
  have hda : 16 ∣ a := by omega
  have hdz : 16 ∣ z := by omega
  exact ⟨getCell_clearRange .., contains_units _ (by decide) hda hdz, contains_units _ (by decide) hda hdz⟩

/-- A scrub of the weight buffer leaves zeros and no poison in its units (R270). -/
theorem scrubbed_wbuf (s : State) (n : Nat) (c : Scrub) (hc : c.weight = true) :
    (scrubbed s n c).scr = s.scr ∧ (scrubbed s n c).pres = s.pres ∧
    ∀ a z x, a = c.barn * 2 ^ 21 + c.base * 2 ^ 16 → z = c.size * 2 ^ 16 →
      getCell (scrubbed s n c).wbuf x = (if a ≤ x ∧ x < a + z then 0 else getCell s.wbuf x) ∧
      (scrubbed s n c).poisW.contains (x / 4) = (if a ≤ x ∧ x < a + z then false else s.poisW.contains (x / 4)) := by
  unfold scrubbed State.zeroUnits
  dsimp only
  rw [if_pos hc]
  refine ⟨rfl, rfl, fun a z x ha hz => ?_⟩
  rw [← ha, ← hz]
  have hda : 4 ∣ a := by omega
  have hdz : 4 ∣ z := by omega
  exact ⟨getCell_clearRange .., contains_units _ (by decide) hda hdz⟩

theorem allocationsScrub : AllocationsScrub := by
  intro s b k v clear starts
  obtain ⟨hb, hz⟩ := wbufAlloc_written v
  have wok := allocOk_iff s b k true 32 (v % 2 ^ 14 - bitsAt v 5 1 * 32) (.wbufAlloc b) fun _ => rfl
  rw [hb, hz] at wok
  refine ⟨fun h => ?_, fun h => ?_, fun h5 h => ?_, fun h => ?_, fun c hc => ?_⟩
  · obtain ⟨t, c, ht, hc⟩ := scrub_starts s b k false s.arg.val (bitsAt v 0 6) (.spadAlloc b k) rfl
      (regField_writeReg_rw s (m := 0x3f3f) _ rfl rfl (by decide))
    have hrun := spadAlloc_starts s ((allocOk_iff s b k false 48 v (.spadAlloc b) fun _ => rfl).mpr h)
    rw [ht] at hrun
    exact ⟨t, c, hrun, hc⟩
  · rw [exec_spadAllocWrite, if_neg fun hok => h ((allocOk_iff s b k false 48 v (.spadAlloc b) fun _ => rfl).mp hok)]
  · obtain ⟨t, c, ht, hc⟩ := scrub_starts s b k true s.arg.val (bitsAt v 0 5) (.wbufAlloc b k) rfl (wbufAlloc_base s b k s.arg.val h5)
    have hrun := wbufAlloc_starts s (wok.mpr h)
    rw [ht] at hrun
    exact ⟨t, c, hrun, hc⟩
  · rw [exec_wbufAllocWrite, if_neg fun hok => h ?_]
    exact wok.mp hok
  · obtain ⟨t, hrun, hscrubs, hmem, hbusy⟩ := exec_scrubDone s c hc
    simp only [memories, Memories.mk.injEq] at hmem
    obtain ⟨hd, hh, hs, hw, hp, -, -, hps, hpw⟩ := hmem
    obtain ⟨kd, kh⟩ := scrubbed_keeps s s.arg.n c
    refine ⟨t, hrun, hscrubs, hd.trans kd, hh.trans kh, hbusy, fun hweight => ?_, fun hweight => ?_⟩
    · obtain ⟨kw, kx⟩ := scrubbed_scr s s.arg.n c hweight
      rw [← hs, ← hp, ← hps] at kx
      refine ⟨hw.trans kw, fun x hx => ?_, fun x hx => ?_⟩
      · obtain ⟨h1, h2, h3⟩ := kx _ _ x rfl rfl
        rw [if_pos hx] at h1 h2 h3
        exact ⟨h1, h2, h3⟩
      · obtain ⟨h1, h2, h3⟩ := kx _ _ x rfl rfl
        rw [if_neg hx] at h1 h2
        exact ⟨h1, h2⟩
    · obtain ⟨ks, kp, kx⟩ := scrubbed_wbuf s s.arg.n c hweight
      rw [← hw, ← hpw] at kx
      refine ⟨hs.trans ks, hp.trans kp, fun x hx => ?_, fun x hx => ?_⟩
      · obtain ⟨h1, h2⟩ := kx _ _ x rfl rfl
        rw [if_pos hx] at h1 h2
        exact ⟨h1, h2⟩
      · obtain ⟨h1, -⟩ := kx _ _ x rfl rfl
        rw [if_neg hx] at h1
        exact h1

/-! Frames (R277, R278, R368). -/

theorem reg_writeReg_rw (s : State) (r : Reg) (v : DWord) (hc : r.w1cMask = 0) :
    (s.writeReg r v).reg r = (s.reg r &&& ~~~r.rwMask) ||| (v &&& r.rwMask) := by
  rw [State.writeReg, reg_setReg_self, Reg.written, hc, show (0 : DWord) = 0#64 from rfl, BitVec.zero_and, BitVec.not_zero,
    BitVec.and_allOnes, BitVec.and_zero, BitVec.or_zero]

theorem exec_ctxShdpoolWrite (s : State) : exec .ctxShdpoolWrite s =
    .next (if s.fab.cmds.any fun c => c.k = s.arg.k && recField c.bytes 3 1 % 2 = 1 then s
      else s.writeReg (.ctxShdpool s.arg.k) s.arg.val) := rfl

/-- A shadowed command of a slot is queued or runs (R278). -/
theorem shadowed_iff (s : State) (k : Nat) : (s.fab.cmds.any fun c => c.k = k && recField c.bytes 3 1 % 2 = 1) = true ↔
    ∃ c ∈ s.fab.cmds, c.k = k ∧ recField c.bytes 3 1 % 2 = 1 := by
  simp only [List.any_eq_true, Bool.and_eq_true, decide_eq_true_eq]

/-- An access uses a frame (R278). -/
def FrameUsed (s : State) (c f : Nat) : Prop :=
  ∃ a ∈ s.fab.accs, a.done = false ∧ ∃ p ∈ a.pieces, p.resp = none ∧ ∃ x, p.place = some (.dev, x) ∧ f ≤ x ∧ x < f + classSize c

/-- Whether a piece is in a frame. -/
def pieceInFrame (c f : Nat) (p : Piece) : Bool :=
  p.resp.isNone && match p.place with
    | some (.dev, x) => decide (f ≤ x) && decide (x < f + classSize c)
    | _ => false

theorem pieceInFrame_iff (c f : Nat) (p : Piece) : pieceInFrame c f p = true ↔
    p.resp = none ∧ ∃ x, p.place = some (.dev, x) ∧ f ≤ x ∧ x < f + classSize c := by
  rw [pieceInFrame, Bool.and_eq_true, Option.isNone_iff_eq_none]
  refine and_congr_right fun _ => ?_
  rcases p.place with _ | ⟨st, x⟩
  · simp
  · cases st <;> simp

theorem frameUsed_iff (s : State) (c f : Nat) : (s.fab.accs.any fun a => !a.done && a.pieces.any (pieceInFrame c f)) = true ↔
    FrameUsed s c f := by
  simp only [FrameUsed, List.any_eq_true, Bool.and_eq_true, Bool.not_eq_true', pieceInFrame_iff]

/-- The count of the frames of a slot that its full pool lost. -/
def droppedFrames (s : State) (k : Nat) : Nat := ((s.shadowDrop.find? fun p => p.1 = k).map Prod.snd).getD 0

theorem exec_shadowFrameReturn (s : State) (k c f : Nat) (h : (s.shadowRet.drop s.arg.n).head? = some (k, c, f)) :
    exec .shadowFrameReturn s = .next (if s.fab.accs.any fun a => !a.done && a.pieces.any (pieceInFrame c f) then s
      else match (s.shadowPool k).bind fun d => { s with shadowRet := dropAt s.shadowRet s.arg.n }.giveFrame d c f with
        | some t => t
        | none => { s with
            shadowRet := dropAt s.shadowRet s.arg.n
            shadowDrop := (s.shadowDrop.filter fun p => p.1 ≠ k) ++ [(k, droppedFrames s k + 1)] }) := by
  have he : exec .shadowFrameReturn s = execShadowFrameReturn s := rfl
  rw [he, execShadowFrameReturn, h]
  rfl

theorem droppedFrames_cases (s : State) (k : Nat) : droppedFrames s k = 0 ∨ (k, droppedFrames s k) ∈ s.shadowDrop := by
  unfold droppedFrames
  cases h : s.shadowDrop.find? fun p => p.1 = k with
  | none => exact .inl rfl
  | some p =>
    obtain rfl : p.1 = k := by simpa using List.find?_some h
    exact .inr (List.mem_of_find?_eq_some h)

/-- A frame returns to its list unless the list is full or lies outside memory (R277). -/
theorem giveFrame_eq (s : State) (d c f : Nat) : s.giveFrame d c f =
    if s.readPa (d + 16 * c + 8) 4 ≤ s.readPa (d + 16 * c + 12) 4 ∨ 2 ^ 44 ≤ s.readPa (d + 16 * c) 8 then none
    else some ((s.writePaN (s.readPa (d + 16 * c) 8 + 8 * s.readPa (d + 16 * c + 12) 4) 8 f).writePaN
      (d + 16 * c + 12) 4 (s.readPa (d + 16 * c + 12) 4 + 1)) := by
  rw [State.giveFrame]
  simp only [Bool.or_eq_true, decide_eq_true_eq]

theorem rewritten_takeFrame {s t : State} {desc c f : Nat} (h : s.takeFrame desc c = .got t f) : Rewritten s t := by
  unfold State.takeFrame at h
  dsimp only at h
  split at h
  · cases h
  · split at h
    · cases h
    · split at h
      · cases h
      · cases h
        exact rewritten_writePa ..

/-- A frame that one of some lists gives. -/
def frameOf (s : State) (c ch : Nat) : Option (State × Nat) :=
  match s.takeFrame (s.channelList ch) c with
  | .got t f => some (t, f)
  | _ => none

theorem rewritten_frameOf {s t : State} {c f : Nat} {l : List Nat} (h : l.findSome? (frameOf s c) = some (t, f)) : Rewritten s t := by
  obtain ⟨ch, -, hch⟩ := List.exists_of_findSome?_eq_some h
  unfold frameOf at hch
  split at hch
  · next hgot =>
    cases hch
    exact rewritten_takeFrame hgot
  · cases hch

/-- The queue of invalidations after the move of a page: its command is the last (R368). -/
theorem invq_movePage (s : State) (asid va : Nat) (l : Leaf) (new_ : Nat) (back : Option (Nat × Nat)) :
    ∃ q : InvCmd, (s.movePage asid va l new_ back none).invq.getLast? = some q ∧ q.kind = 2 ∧ q.asid = asid ∧
      q.va = va / l.size * l.size ∧ q.log2 = Nat.log2 l.size ∧ q.back = back := by
  have pushed : ∀ (t : State) (c : InvCmd), ∃ w, (t.pushInv c).invq.getLast? = some { c with wait := w } := by
    intro t c
    by_cases hq : t.invq = []
    · rw [pushInv_of_empty hq, (startInv_drops { t with invq := [c] } c [] rfl).1]
      exact ⟨_, rfl⟩
    · rw [pushInv_of_ne hq]
      exact ⟨c.wait, List.getLast?_concat ..⟩
  unfold State.movePage
  obtain ⟨w, hw⟩ := pushed _ _
  exact ⟨_, hw, rfl, rfl, rfl, rfl, rfl⟩

/-- A page has the size of its class (R277). -/
theorem two_pow_log2_of_classOf {n c : Nat} (h : classOf n = some c) : 2 ^ Nat.log2 n = n := by
  have hsize : ∀ i < 4, 2 ^ Nat.log2 (classSize i) = classSize i := by decide
  have hc := List.find?_some h
  have hmem := List.mem_of_find?_eq_some h
  rw [← of_decide_eq_true hc]
  exact hsize c (mem_upto.mp hmem)

/-- The context of an instance whose next page is taken up. -/
def migrating (s : State) (i : Inst) (r : List (Nat × Nat)) : State := s.modInst i.k i.v fun i => { i with migr := r }

theorem exec_pageMigration (s : State) (i : Inst) (va port : Nat) (r : List (Nat × Nat)) (l : Leaf) (c f : Nat) (w : State)
    (hi : (s.insts.drop s.arg.n).head? = some i) (hs : s.settling i = false) (hm : i.migr = (va, port) :: r)
    (hl : (migrating s i r).leafOf ((migrating s i r).asid i.k) va = some l)
    (hgo : ¬(decide (2 ^ 21 < l.size) || decide (bitsAt l.entry 7 1 = 1) || decide (2 ^ 40 ≤ l.frame) ||
      (nearest ((lowest (fun b => i.barns.contains b) 64).getD 0) port).contains (l.frame / 2 ^ 31)) = true)
    (hc : classOf l.size = some c)
    (hf : (nearest ((lowest (fun b => i.barns.contains b) 64).getD 0) port).findSome? (frameOf (migrating s i r) c) = some (w, f)) :
    exec .pageMigration s = .next (w.movePage (w.asid i.k) va l f (some (c, l.frame)) none).placedStrands := by
  have he : exec .pageMigration s = execPageMigration s := rfl
  rw [he]
  obtain ⟨leafOf, found⟩ : ∃ f, f = State.leafOf := ⟨_, rfl⟩
  rw [← found] at hl
  delta execPageMigration
  rw [← found]
  clear found
  dsimp only
  rw [hi]
  dsimp only
  rw [hs, if_neg Bool.false_ne_true, hm]
  dsimp only
  rw [show (s.modInst i.k i.v fun i => { i with migr := r }) = migrating s i r from rfl, hl]
  dsimp only
  rw [if_neg hgo, hc]
  change Host.Outcome.next (State.placedStrands (match (nearest ((lowest (fun b => i.barns.contains b) 64).getD 0) port).findSome?
    (frameOf (migrating s i r) c) with
    | some (t, f) => t.movePage (t.asid i.k) va l f (some (c, l.frame)) none
    | none => migrating s i r)) = _
  rw [hf]

theorem framesMove : FramesMove := by
  intro s
  refine ⟨fun h => ?_, fun h => ?_, fun k c f hhead => ?_, fun d c f => ?_, ?_⟩
  · rw [exec_ctxShdpoolWrite, if_pos ((shadowed_iff ..).mpr h)]
  · rw [exec_ctxShdpoolWrite, if_neg fun hany => ?_]
    · exact ⟨_, rfl, reg_writeReg_rw _ _ _ rfl, sameMemory_of_memories (by simp)⟩
    · obtain ⟨c, hc, hk, hodd⟩ := (shadowed_iff ..).mp hany
      exact h c hc hk hodd
  · have hrun := exec_shadowFrameReturn s k c f hhead
    refine ⟨fun hused => ?_, fun d w hused hpool hgive => ?_, fun d hused hpool hgive => ?_⟩
    · rw [hrun, if_pos ((frameUsed_iff ..).mpr hused)]
    · rw [hrun, if_neg fun h => hused ((frameUsed_iff ..).mp h), hpool, Option.bind_some, hgive]
    · rw [hrun, if_neg fun h => hused ((frameUsed_iff ..).mp h), hpool, Option.bind_some, hgive]
      exact ⟨_, rfl, rfl, sameMemory_of_memories (by simp), _, List.mem_append_right _ List.mem_cons_self, droppedFrames_cases s k⟩
  · rw [giveFrame_eq]
    refine ⟨⟨fun h => if_pos h, fun h => ?_⟩, fun w h => ?_⟩
    · by_contra hne
      rw [if_neg hne] at h
      cases h
    · split at h
      · cases h
      · exact (Option.some.inj h).symm
  · intro i va port r l c f w hi hs hm u near hl hsize hbit hframe hnear hc hf
    have hasid : w.asid i.k = u.asid i.k := by
      obtain ⟨a, b, x, y, rfl⟩ := rewritten_frameOf hf
      rfl
    have hrun := exec_pageMigration s i va port r l c f w hi hs hm hl (by
      simp only [Bool.or_eq_true, decide_eq_true_eq, List.contains_iff_mem, not_or, Nat.not_lt, Nat.not_le]
      exact ⟨⟨⟨hsize, by omega⟩, hframe⟩, hnear⟩) hc hf
    rw [hasid] at hrun
    obtain ⟨q, hq, hkind, hqa, hva, hlog, hback⟩ := invq_movePage w (u.asid i.k) va l f (some (c, l.frame))
    exact ⟨hrun, q, hq, hkind, hqa, hva, by rw [hlog]; exact two_pow_log2_of_classOf hc, hback⟩

end Sys2Proof.Laws

namespace Sys2Proof.Proofs

open Sys2Proof Sys2Proof.Machine Sys2Proof.Laws

/-- Settles O38: by the units that a scrub clears, and by the list that a frame is taken from or returns to. -/
theorem memoryPools : Obligations.MemoryPools := ⟨allocationsScrub, framesMove⟩

end Sys2Proof.Proofs
end

section

/-! PROOF. A doorbell whose write-back meets an uncorrected error raises a host event (O43). -/

namespace Sys2Proof.Proofs

open Sys2Proof Sys2Proof.Machine Sys2Proof.Laws

/-- The descriptor of an empty ring of two records, enabled. -/
def emptyRing : QDesc := { k := 0, q := 0, base := 256, log2n := 1, en := true, direct := false, head := 0, tail := 0 }

/-- Slot 0 keeps its queue table in the scratch window; the host rings the doorbell of its queue 0 with value 1, and the location that
the write-back of TAIL reaches has an error that is not corrected. -/
def failingTable : State :=
  { (State.reset.setReg (.schedQtab 0) (BitVec.ofNat 64 0xFFFFF0000000000)).setReg (.spadAlloc 0 0) 0x0100 with
    arg := { k := 0, n := 0, val := 1, ecc := some {} }, qtab := [emptyRing] }

/-- The host events after an event. -/
def eventsAfter (o : Host.Outcome State Fault Refusal) : List HostEvent :=
  match o with
  | .next t => t.hostEvts
  | _ => []

theorem doorbell_failingTable : (eventsAfter (exec .doorbellWrite failingTable)).length = 1 := by decide +kernel

/-- Refutes O43: the claim of a doorbell that is obeyed says that no host event is raised, but the error that its write-back of TAIL
meets is logged with one. -/
theorem not_launchAndPlacement : ¬ Obligations.LaunchAndPlacement := by
  unfold Obligations.LaunchAndPlacement
  rintro ⟨hfed, -⟩
  obtain ⟨-, -, hring, -⟩ := hfed failingTable emptyRing
  obtain ⟨hobeyed, -⟩ := hring (by decide) (by decide +kernel)
  obtain ⟨t, ht, -, hevents⟩ := hobeyed rfl (by decide +kernel) (by decide +kernel)
  have hlogged := doorbell_failingTable
  rw [ht] at hlogged
  have hnone : t.hostEvts = [] := hevents
  rw [eventsAfter, hnone] at hlogged
  exact absurd hlogged (by decide)

end Sys2Proof.Proofs
end

section

/-! PROOF. The release of a slot whose queue table meets an error that a hook with a wrong number counts (O44). -/

namespace Sys2Proof.Proofs

open Sys2Proof Sys2Proof.Machine Sys2Proof.Laws

/-- Work of slot 0 that still runs. -/
def runningInst : Inst :=
  { k := 0, v := 0, recAt := 0, recBytes := [], kbase := [], desc := [], graph := false, entry := 0, nblk := 0, base := 0, blkoff := 0,
    blklen := 0, seq := 0 }

/-- Slot 0 is saved, and its instance holds a slot of the tile-task queue, whose table lies in the scratch window. The location that the
write-back of HEAD reaches has an error, and a hook numbered 32,530 takes such errors: its counter BEL_HOOKCNT lies where TR_SLOT of slot 0
does. -/
def miscountingHook : State :=
  { ((State.reset.setReg (.schedQtab 0) (BitVec.ofNat 64 0xFFFFF0000000000)).setReg (.spadAlloc 0 0) 0x0100).setCtxState 0 3 with
    arg := { k := 0, ecc := some {} }
    insts := [runningInst]
    qtab := [{ k := 0, q := 64, base := 256, log2n := 1, en := true, direct := false, head := 0, tail := 1 }]
    taskQ := [{ k := 0, v := 0, recAt := 256, core := none, slot := 0 }]
    hooks := [{ n := 32530, kind := 1, act := 0, cnt := 0, scls := 0, tcode := 0, cause := 0 }]
    sheaves := [{ asid := 0, tid := 0, tile := 0, way := some 0 }] }

/-- The Sheaf entries after an event. -/
def sheavesAfter (o : Host.Outcome State Fault Refusal) : List Sheaf :=
  match o with
  | .next t => t.sheaves
  | _ => []

theorem release_miscountingHook : sheavesAfter (exec .ctxRelease miscountingHook) = [{ asid := 0, tid := 0, tile := 0, way := some 0 }] := by
  decide +kernel

/-- Refutes O44: a release is said to take out the Sheaf entries of the slot's ASID in every state, also where a hook has a number of 8
or more. The counter of this one is TR_SLOT, so that the ASID changes as the slot's work is killed, and its entries stay. -/
theorem not_stopsAndPreemption : ¬ Obligations.StopsAndPreemption := by
  unfold Obligations.StopsAndPreemption
  rintro ⟨-, hcommands, -⟩
  obtain ⟨-, -, -, -, -, hrelease, -⟩ := hcommands miscountingHook
  obtain ⟨t, ht, -, -, -, hsheaves, -⟩ := hrelease (by decide) (.inl (by decide +kernel)) (by decide)
  have hkept := release_miscountingHook
  rw [ht] at hkept
  have hmem : ({ asid := 0, tid := 0, tile := 0, way := some 0 } : Sheaf) ∈ t.sheaves := by
    rw [show t.sheaves = [{ asid := 0, tid := 0, tile := 0, way := some 0 }] from hkept]
    exact List.mem_cons_self
  exact hsheaves _ hmem (by decide +kernel)

end Sys2Proof.Proofs
end

section

/-! PROOF. Saves and restores of a context slot (O45). -/

namespace Sys2Proof.Laws
open Sys2Proof Sys2Proof.Machine Sys2Proof.Claims

/-! The image (R382). -/

/-- The first bytes of an image. -/
theorem saveImage_eq (s : State) (k : Nat) : ∃ b rest, s.saveImage k = 0x58 :: 0x54 :: 0x43 :: 0x59 :: 4 :: b :: BitVec.ofNat 8 k :: rest := by
  have hmagic : leBytes 4 0x59435458 = [0x58, 0x54, 0x43, 0x59] := by decide
  simp only [State.saveImage, List.append_assoc, hmagic]
  exact ⟨_, _, rfl⟩

/-! The end of a save (R381). -/

theorem ctxRun_ne_allocReg {b : Nat} (hb : b < 64) (k : Nat) (w : Bool) : (Reg.ctxRun k).offset ≠ (allocReg b k w).offset := by
  cases w
  · simp only [allocReg, Bool.false_eq_true, if_false, Reg.offset]
    omega
  · simp only [allocReg, if_true, Reg.offset]
    omega

theorem regField_scrub_ne (s : State) (b k : Nat) (w : Bool) {q : Reg} (lo n : Nat) (h : q.offset ≠ (allocReg b k w).offset) :
    (s.scrub b k w).regField q lo n = s.regField q lo n := by
  rw [scrub_eq, ← regField_setField_ne s 31 1 1 lo n h]
  exact regField_of_regs rfl _ _ _

/-- What the scrubs of a slot leave alone. -/
theorem scrub_keeps (s : State) (b k : Nat) (w : Bool) : (s.scrub b k w).insts = s.insts ∧ (s.scrub b k w).saved = s.saved ∧
    (s.scrub b k w).stops = s.stops := by
  rw [scrub_eq]
  exact ⟨rfl, rfl, rfl⟩

theorem scrubs_keep (s : State) (k : Nat) (l : List Nat) (hl : ∀ b ∈ l, b < 64) :
    let t := foldState (fun s b => (s.scrub b k false).scrub b k true) s l
    t.ctxState k = s.ctxState k ∧ t.insts = s.insts ∧ t.saved = s.saved ∧ t.stops = s.stops := by
  induction l generalizing s with
  | nil => exact ⟨rfl, rfl, rfl, rfl⟩
  | cons b l ih =>
    obtain ⟨h1, h2, h3, h4⟩ := ih ((s.scrub b k false).scrub b k true) fun x hx => hl x (List.mem_cons_of_mem _ hx)
    obtain ⟨a2, a3, a4⟩ := scrub_keeps s b k false
    obtain ⟨b2, b3, b4⟩ := scrub_keeps (s.scrub b k false) b k true
    have hb := hl b List.mem_cons_self
    simp only [foldState]
    refine ⟨h1.trans ?_, h2.trans (b2.trans a2), h3.trans (b3.trans a3), h4.trans (b4.trans a4)⟩
    rw [State.ctxState, regField_scrub_ne _ _ _ _ _ _ (ctxRun_ne_allocReg hb k true),
      regField_scrub_ne _ _ _ _ _ _ (ctxRun_ne_allocReg hb k false), State.ctxState]

/-- A slot that is taken out is saved, has no placement and no stop, and its record keeps its ASID. -/
theorem takeOut_saved (s : State) (k : Nat) : (s.takeOut k).ctxState k = 3 ∧ (∀ i ∈ (s.takeOut k).insts, i.k = k → i.placed = none) ∧
    (∃ y ∈ (s.takeOut k).saved, y.k = k ∧ y.asid = s.asid k) ∧ (s.takeOut k).stop? k = none := by
  unfold State.takeOut State.scrubLeft
  extract_lets insts barns rec_ idle s1 gens out s2 s3
  obtain ⟨hstate, hinsts, hsaved, hstops⟩ := scrubs_keep (s3.setCtxState k 3) k
    (barns.filter fun b => !((s3.setCtxState k 3).placedIn b).contains k)
    fun b hb => mem_upto.mp (List.mem_filter.mp (List.mem_filter.mp hb).1).1
  refine ⟨hstate.trans (regField_setField_same _ _ _ (by decide)), fun i hi hk => ?_, ?_, ?_⟩
  · rw [hinsts] at hi
    obtain ⟨j, -, rfl⟩ := List.mem_map.mp hi
    dsimp only [out] at hk ⊢
    split
    · rfl
    · next h =>
      rw [if_neg h] at hk
      simpa [hk] using h
  · rw [hsaved]
    exact ⟨rec_, List.mem_append_right _ List.mem_cons_self, rfl, rfl⟩
  · rw [State.stop?, hstops, List.find?_eq_none]
    intro x hx
    simpa using (List.mem_filter.mp hx).2

theorem atPhysical_ok {pa : Nat} (h : reservedPa pa = false) (act : Host.Outcome State Fault Refusal) : atPhysical pa act = act :=
  if_neg (by simp [h])

/-- The end of a save by its cases (R381). -/
theorem exec_saveComplete (s : State) : exec .saveComplete s = match s.stop? s.arg.k with
    | none => .next s
    | some x =>
      if s.ctxState s.arg.k ≠ 2 || x.ovf then .next s
      else if s.regField (.ctxSave s.arg.k) 44 20 * 2 ^ 20 < (s.saveImage s.arg.k).length then
        .next (((s.setField (.ctxRun s.arg.k) 25 1 1).modStop s.arg.k fun x => { x with ovf := true }).hostEvent
          { type := 3, slot := s.arg.k, a := 0, b := 0, cyc := 0 })
      else
        atPhysical (s.regField (.ctxSave s.arg.k) 12 32 * 2 ^ 12)
          (atPhysical (s.regField (.ctxSave s.arg.k) 12 32 * 2 ^ 12 + (s.saveImage s.arg.k).length - 1)
            (.next ((s.writePa (s.regField (.ctxSave s.arg.k) 12 32 * 2 ^ 12) (s.saveImage s.arg.k)).chose.takeOut s.arg.k))) := rfl

/-- What a write of physical memory leaves there. -/
theorem getCell_writePa (s : State) {pa a : Nat} {st : Store} (h : physical pa = some (st, a)) (b : List Byte) (i : Nat) (hi : i < b.length) :
    getCell ((s.writePa pa b).cells st) (a + i) = b[i] := by
  rw [State.writePa, h]
  exact (congrArg (getCell · (a + i)) (cells_setCells_self s st _)).trans (getCell_putBytes _ _ _ i hi)

/-- A mark on the stop of a slot. -/
theorem stop?_modStop (s : State) {k : Nat} {x : Stop} (h : s.stop? k = some x) (f : Stop → Stop) (hf : ∀ y, (f y).k = y.k) :
    (s.modStop k f).stop? k = some (f x) := by
  have hmark := find?_mapFirst (p := fun y : Stop => decide (y.k = k)) (g := f) (fun y hy => by simpa [hf] using hy) s.stops
  rw [State.stop?] at h
  rw [h] at hmark
  exact hmark

/-- What a host event leaves alone. -/
theorem hostEvent_keeps (s : State) (e : HostEvent) : (s.hostEvent e).stops = s.stops ∧ (s.hostEvent e).fab = s.fab := by
  obtain ⟨rs, evs, h⟩ := hostEvent_regs s e
  rw [h]
  exact ⟨rfl, rfl⟩

theorem ctxRun_ne_hostEvt (k : Nat) : (Reg.ctxRun k).offset ≠ Reg.hostEvt.offset ∧ (Reg.ctxRun k).offset ≠ Reg.hostEvht.offset := by
  simp only [Reg.offset]
  omega

/-- A save that would pass its area raises OVF and SAVE_OVF (R381). -/
theorem overflowed_save (s : State) {k : Nat} {x : Stop} (h : s.stop? k = some x) :
    let t := ((s.setField (.ctxRun k) 25 1 1).modStop k fun x => { x with ovf := true }).hostEvent { type := 3, slot := k, a := 0, b := 0, cyc := 0 }
    t.regField (.ctxRun k) 25 1 = 1 ∧ t.ctxState k = s.ctxState k ∧ t.regField .hostEvt 3 1 = 1 ∧ t.stop? k = some { x with ovf := true } ∧
      t.fab = s.fab ∧ SameMemory s t := by
  have field : ∀ lo w, (((s.setField (.ctxRun k) 25 1 1).modStop k fun x => { x with ovf := true }).hostEvent
      { type := 3, slot := k, a := 0, b := 0, cyc := 0 }).regField (.ctxRun k) lo w = (s.setField (.ctxRun k) 25 1 1).regField (.ctxRun k) lo w :=
    fun lo w => (regField_hostEvent_ne _ _ _ _ (ctxRun_ne_hostEvt k).1 (ctxRun_ne_hostEvt k).2).trans (regField_of_regs rfl _ _ _)
  obtain ⟨hstops, hfab⟩ := hostEvent_keeps ((s.setField (.ctxRun k) 25 1 1).modStop k fun x => { x with ovf := true })
    { type := 3, slot := k, a := 0, b := 0, cyc := 0 }
  refine ⟨?_, ?_, regField_hostEvent _ _ (by simp), ?_, hfab, sameMemory_of_memories (by simp)⟩
  · rw [field, regField_setField_same _ _ _ (by decide)]
    rfl
  · rw [State.ctxState, field, regField_setField_disjoint _ _ _ (by decide) (by decide)]
    rfl
  · rw [State.stop?, hstops]
    exact stop?_modStop (s.setField (.ctxRun k) 25 1 1) (x := x) h _ fun _ => rfl

theorem savesWrite : SavesWrite := by
  intro s x k img base fits
  obtain ⟨b, rest, himg⟩ := saveImage_eq s k
  refine ⟨by rw [show img = _ from himg]; rfl, by rw [show img = _ from himg]; rfl, fun hstop h2 hovf => ?_, fun hstop => ?_⟩
  · have hgo : ¬(decide (s.ctxState k ≠ 2) || x.ovf) = true := by simp [h2, hovf]
    have hrun := exec_saveComplete s
    rw [hstop] at hrun
    dsimp only at hrun
    rw [if_neg hgo] at hrun
    refine ⟨fun hfits hb he => ?_, fun hfits => ?_⟩
    · rw [if_neg (Nat.not_lt.mpr hfits), atPhysical_ok hb, atPhysical_ok he] at hrun
      obtain ⟨h3, hplaced, ⟨y, hy, hyk, hya⟩, hgone⟩ := takeOut_saved (s.writePa base img).chose k
      have hasid : (s.writePa base img).chose.asid k = s.asid k := by
        obtain ⟨a, b, c, d, hw⟩ := rewritten_writePa s base img
        rw [hw]
        rfl
      have hcells := fun st => cells_of_memories (memories_takeOut (s.writePa base img).chose k) st
      refine ⟨_, hrun, h3, fun st a hpa i hi => ?_, hplaced, ⟨y, hy, hyk, hya.trans hasid⟩, hgone⟩
      rw [hcells]
      exact getCell_writePa s hpa img i hi
    · rw [if_pos (Nat.not_le.mp hfits)] at hrun
      obtain ⟨h25, hstate, hevt, hmark, hfab, hmem⟩ := overflowed_save s hstop
      exact ⟨_, hrun, h25, hstate.trans h2, hevt, hmark, hfab, hmem⟩
  · rw [exec_saveComplete, hstop]

/-! Restores (R384). -/

theorem restorable_iff (s : State) (x : Saved) (h : s.restorable x = true) : s.asid? x.k = some x.asid ∧
    ∀ m ∈ x.scr, m.size ≤ s.regField (.spadAlloc (s.physBarn x.k m.barn) x.k) 8 6 := by
  rw [State.restorable, Bool.and_eq_true, Bool.and_eq_true, Bool.and_eq_true] at h
  obtain ⟨⟨⟨hasid, hscr⟩, -⟩, -⟩ := h
  exact ⟨of_decide_eq_true hasid, fun m hm => of_decide_eq_true (List.all_eq_true.mp hscr m hm)⟩

/-- A restore that fails keeps its image (R384). -/
def restoreFailed (s : State) (k : Nat) : State :=
  { (s.refuseCommand k).setCtxState k 3 with
    saved := s.saved.map fun y => if y.k = k then { y with restoring := false } else y }

/-- A failed restore sets ERR and leaves the slot saved. -/
theorem restoreFailed_ctxRun (s : State) (k : Nat) : (restoreFailed s k).regField (.ctxRun k) 24 1 = 1 ∧ (restoreFailed s k).ctxState k = 3 ∧
    (restoreFailed s k).fab = s.fab := by
  have hregs : (restoreFailed s k).regs = ((s.refuseCommand k).setCtxState k 3).regs := rfl
  refine ⟨?_, ?_, rfl⟩
  · rw [regField_of_regs hregs, State.setCtxState, regField_setField_disjoint _ _ _ (by decide) (by decide), State.refuseCommand,
      regField_setField_same _ _ _ (by decide)]
    rfl
  · rw [State.ctxState, regField_of_regs hregs, State.setCtxState, regField_setField_same _ _ _ (by decide)]
    rfl

/-- A context that is back on units. -/
def restored (s : State) (k : Nat) (q : List QDesc) : State :=
  { s with saved := s.saved.filter (fun y => y.k ≠ k), qtab := s.qtab.filter (fun (d : QDesc) => d.k ≠ k) ++ q }.placedStrands

theorem restored_keeps (s : State) (k : Nat) (q : List QDesc) : (restored s k q).ctxState k = s.ctxState k ∧ (restored s k q).fab = s.fab ∧
    ∀ y ∈ (restored s k q).saved, y.k ≠ k := by
  have hregs : (restored s k q).regs = s.regs := rfl
  refine ⟨?_, rfl, fun y hy => of_decide_eq_true (List.mem_filter.mp hy).2⟩
  rw [State.ctxState, regField_of_regs hregs, State.ctxState]

section
variable {s : State} {x : Saved} (hx : s.saved.find? (fun y => decide (y.k = s.arg.k) && y.restoring) = some x)
include hx

theorem exec_restoreComplete : exec .restoreComplete s = .next (if !s.restorable x then restoreFailed s s.arg.k
    else match s.readQtab s.arg.k (s.regField (.schedQtab s.arg.k) 0 60) with
      | (v, none) => v
      | (v, some q) =>
        match v.putBack x with
        | none => v
        | some z => restored z s.arg.k q) := by
  have he : exec .restoreComplete s = execRestoreComplete s := rfl
  rw [he]
  obtain ⟨putBack, found⟩ : ∃ f, f = State.putBack := ⟨_, rfl⟩
  delta execRestoreComplete
  rw [← found]
  clear found
  dsimp only
  rw [hx]
  rfl

theorem exec_restoreComplete_ok {v : State} {q : List QDesc} (hr : s.restorable x = true)
    (hq : s.readQtab s.arg.k (s.regField (.schedQtab s.arg.k) 0 60) = (v, some q)) :
    exec .restoreComplete s = .next (match v.putBack x with
      | none => v
      | some z => restored z s.arg.k q) := by
  rw [exec_restoreComplete hx, hr, if_neg (by simp), hq]

end

/-- A context that is put back is in state 0. -/
theorem putBack_state {s z : State} {x : Saved} (h : s.putBack x = some z) : z.ctxState x.k = 0 := by
  unfold State.putBack at h
  extract_lets k barns reeve s1 at h
  split at h
  · cases h
  · split at h
    · cases h
    · split at h
      · cases h
      · split at h
        · cases h
        · cases h
          exact regField_setField_same _ _ _ (by decide)

theorem restoresReturn : RestoresReturn := by
  intro s x k base hx
  have hk : x.k = k := by
    have h := List.find?_some hx
    simp only [Bool.and_eq_true, decide_eq_true_eq] at h
    exact h.1
  refine ⟨fun hr => ?_, fun v q z hr hq hz => ?_, fun v q hr hq hz => ?_, fun hr => hk ▸ restorable_iff s x hr⟩
  · rw [exec_restoreComplete hx, hr, if_pos (by simp)]
    obtain ⟨herr, hstate, hfab⟩ := restoreFailed_ctxRun s k
    exact ⟨_, rfl, herr, hstate, List.mem_map.mpr ⟨x, List.mem_of_find?_eq_some hx, if_pos hk⟩, hfab,
      sameMemory_of_memories (by simp [restoreFailed])⟩
  · rw [exec_restoreComplete_ok hx hr hq, hz]
    have hstate := putBack_state hz
    rw [hk] at hstate
    obtain ⟨hkept, hfab, hsaved⟩ := restored_keeps z k q
    exact ⟨_, rfl, hkept.trans hstate, hsaved, hfab, sameMemory_of_memories (by simp [restored])⟩
  · rw [exec_restoreComplete_ok hx hr hq, hz]

end Sys2Proof.Laws

namespace Sys2Proof.Proofs

open Sys2Proof Sys2Proof.Machine Sys2Proof.Laws

/-- Settles O45: by what the end of a save takes out, and by the context that a restore puts back. -/
theorem savesAndRestores : Obligations.SavesAndRestores := ⟨savesWrite, restoresReturn⟩

end Sys2Proof.Proofs
end

section

/-! SUPPORT. A translation changes the cached translations alone (R364, R365). -/

namespace Sys2Proof.Laws
open Sys2Proof Sys2Proof.Machine Sys2Proof.Claims

/-- Two states that differ in the cached translations, walks and ASID entries alone. -/
def Cached (s t : State) : Prop := ∃ a b c, t = { s with tlb := a, walks := b, asids := c }

variable {s t u : State}

theorem cached_refl (s : State) : Cached s s := ⟨s.tlb, s.walks, s.asids, rfl⟩

theorem Cached.trans (h : Cached s t) (h' : Cached t u) : Cached s u := by
  obtain ⟨a, b, c, rfl⟩ := h
  obtain ⟨a', b', c', rfl⟩ := h'
  exact ⟨a', b', c', rfl⟩

theorem cached_tlbFill (s : State) (port : Option Nat) (e : TlbEntry) : Cached s (s.tlbFill port e) := by
  unfold State.tlbFill
  dsimp only
  split <;> exact ⟨_, s.walks, s.asids, rfl⟩

theorem cached_keepTables (die a : Nat) (path : List (Nat × Nat × Nat)) (s : State) : Cached s (foldState (keepTable die a) s path) := by
  induction path generalizing s with
  | nil => exact cached_refl s
  | cons x l ih => exact Cached.trans ⟨s.tlb, _, s.asids, rfl⟩ (ih (keepTable die a s x))

theorem cached_keepWalk (s : State) (die a : Nat) (root : Nat × Option Nat) (path : List (Nat × Nat × Nat)) :
    Cached s (s.keepWalk die a root path) := by
  have h := cached_keepTables die a path s
  exact h.trans ⟨(foldState (keepTable die a) s path).tlb, (foldState (keepTable die a) s path).walks, _, rfl⟩

theorem cached_walked (s : State) (die : Nat) (port : Option Nat) (k va : Nat) (n : Need) (fresh : Bool) :
    Cached s (s.walked die port k va n fresh).1 := by
  unfold State.walked
  split
  · exact cached_refl s
  · split
    · exact cached_refl s
    · dsimp only
      split
      · exact cached_refl s
      · exact cached_keepWalk s ..
      · exact (cached_keepWalk s ..).trans (cached_tlbFill _ _ _)

theorem cached_translate (s : State) (die : Nat) (port : Option Nat) (k va : Nat) (n : Need) :
    Cached s (s.translate die port k va n).1 := by
  unfold State.translate
  split
  · exact cached_refl s
  · exact cached_refl s
  · exact cached_refl s
  · split
    · split
      · dsimp only
        split
        · exact ⟨_, s.walks, s.asids, rfl⟩
        · exact cached_refl s
      · exact Cached.trans ⟨_, s.walks, s.asids, rfl⟩ (cached_walked (s.tlbDrop ..) ..)
    · exact cached_walked s ..

/-- A page fault changes the list of faults and the next fault number alone (R369). -/
theorem pageFault_state (s : State) (die k va cause : Nat) (tile : Option Nat) (access : Nat) (malf idem : Bool) (src : Nat) :
    ∃ p n, (s.pageFault die k va cause tile access malf idem src).1 = { s with pfaults := p, nextFid := n } := by
  unfold State.pageFault
  split
  · exact ⟨s.pfaults, s.nextFid, rfl⟩
  · exact ⟨_, _, rfl⟩

end Sys2Proof.Laws
end

section

/-! PROOF. Load requests of the image loader: what ends one, and the image that it places (O47). -/

namespace Sys2Proof.Laws
open Sys2Proof Sys2Proof.Machine Sys2Proof.Claims

/-! What the loader's reads and writes of memory leave alone: its queue, the image tables and the count of ended requests. -/

/-- The queue of load requests, the image tables and DONE. -/
def loads (s : State) : List Nat × List Image × Nat := (s.loadq, s.images, s.regField .imgStat 0 32)

theorem loads_bumpSat (s : State) {r : Reg} (lo w : Nat) (h : Reg.imgStat.offset ≠ r.offset) : loads (s.bumpSat r lo w) = loads s := by
  rw [loads, State.bumpSat, regField_setField_ne _ _ _ _ _ _ h]
  rfl

theorem loads_setReg (s : State) {r : Reg} (v : DWord) (h : Reg.imgStat.offset ≠ r.offset) : loads (s.setReg r v) = loads s := by
  rw [loads, regField_setReg_ne _ _ _ _ h]
  rfl

theorem loads_hostEvent (s : State) (e : HostEvent) : loads (s.hostEvent e) = loads s := by
  have hreg := regField_hostEvent_ne s e (r := .imgStat) 0 32 (by decide) (by decide)
  obtain ⟨rs, evs, h⟩ := hostEvent_regs s e
  rw [loads, hreg, h]
  rfl

theorem loads_logErr (s : State) (e : ErrEntry) : loads (s.logErr e) = loads s := loads_hostEvent _ _

theorem imgStat_ne_hookcnt (n : Nat) : Reg.imgStat.offset ≠ (Reg.belHookcnt n).offset := by
  simp only [Reg.offset]
  omega

theorem imgStat_ne_errCe (p n : Nat) : Reg.imgStat.offset ≠ (Reg.errCe p n).offset := by
  simp only [Reg.offset]
  split <;> omega

theorem imgStat_ne_errUe (p n : Nat) : Reg.imgStat.offset ≠ (Reg.errUe p n).offset := by
  simp only [Reg.offset]
  split <;> omega

theorem loads_errHook (s : State) (cls : Nat) : loads (s.errHook cls).1 = loads s := by
  unfold State.errHook
  split
  · exact loads_bumpSat s _ _ (imgStat_ne_hookcnt _)
  · rfl

theorem loads_uncorrected (s : State) (e : ErrEntry) (tries : Nat) {act : State → State} (hact : ∀ s, loads (act s) = loads s) :
    loads (s.uncorrected e tries act) = loads s := by
  have hhook := loads_errHook s e.cls
  unfold State.uncorrected
  split
  · next v h hv =>
    rw [hv] at hhook
    split
    · exact (loads_logErr _ _).trans ((loads_bumpSat v _ _ (imgStat_ne_errCe _ _)).trans hhook)
    · exact (hact _).trans ((loads_logErr _ _).trans ((loads_bumpSat v _ _ (imgStat_ne_errUe _ _)).trans hhook))
  · next v hv =>
    rw [hv] at hhook
    exact (hact _).trans ((loads_logErr _ _).trans ((loads_bumpSat v _ _ (imgStat_ne_errUe _ _)).trans hhook))

theorem loads_setPoison (s : State) (st : Store) (a : Nat) (v : Bool) : loads (s.setPoison st a v) = loads s := by cases st <;> rfl

theorem loads_eccAt (s : State) (st : Store) (x k : Nat) : loads (s.eccAt st x k) = loads s := by
  unfold State.eccAt
  split
  · rfl
  · extract_lets _ v unit cls e
    have hv : loads v = loads s := rfl
    split_ifs
    · exact hv
    · exact (loads_bumpSat v _ _ (imgStat_ne_errCe _ _)).trans hv
    · exact (loads_logErr _ _).trans ((loads_bumpSat _ _ _ (imgStat_ne_errCe _ _)).trans ((loads_errHook v 0).trans hv))
    · exact (loads_logErr _ _).trans ((loads_bumpSat _ _ _ (imgStat_ne_errUe _ _)).trans ((loads_errHook v 1).trans hv))
    · exact (loads_uncorrected _ _ _ fun v => loads_setPoison v st x true).trans hv

theorem loads_unitAt (s : State) (die k va : Nat) (n : Need) (src : Source) : loads (s.unitAt die k va n src).1 = loads s := by
  have ht : loads (s.translate die src.port k va n).1 = loads s := by
    obtain ⟨a, b, c, h⟩ := cached_translate s die src.port k va n
    rw [h]
    rfl
  unfold State.unitAt
  split
  · next v st a hv =>
    rw [hv] at ht
    split
    · exact ht
    · exact (loads_eccAt v st a k).trans ht
  · next v hv => rwa [hv] at ht
  · next v m hv => rwa [hv] at ht
  · next v c m _ hv =>
    rw [hv] at ht
    split
    · exact ht
    · obtain ⟨p, i, h⟩ := pageFault_state v die k va c none (if n.x then 3 else if n.w then 1 else 0) m false src.code
      dsimp only
      rw [h]
      exact ht
  · next v p hv =>
    rw [hv] at ht
    split <;> exact ht

theorem loads_movedBy (s : State) (src : Source) (k v : Nat) (st : Store) (n : Nat) : loads (s.movedBy src k v st n) = loads s := by
  unfold State.movedBy State.moved
  split
  · split <;> rfl
  · rfl

theorem loads_unitReadN (die k v : Nat) (need : Need) (src : Source) (r va n : Nat) (s : State) :
    loads (unitReadN die k v need src r va n s).1 = loads s := by
  induction r generalizing va n s with
  | zero => rfl
  | succ r ih =>
    have hu := loads_unitAt s die k va need src
    unfold unitReadN
    split
    · rfl
    · dsimp only
      split
      · next u g hv => rwa [hv] at hu
      · next u st a hv =>
        rw [hv] at hu
        have hr := (ih (va + min n (4096 - va % 4096)) (n - min n (4096 - va % 4096)) u).trans hu
        split
        · next w b p hw =>
          rw [hw] at hr
          exact (loads_movedBy ..).trans hr
        · exact hr

theorem loads_unitRead (s : State) (die k v va n : Nat) (src : Source) : loads (s.unitRead die k v va n src).1 = loads s :=
  loads_unitReadN ..

theorem loads_setPoisonIn (st : Store) (v : Bool) (n u : Nat) (s : State) : loads (setPoisonIn st v n u s) = loads s := by
  induction n generalizing u s with
  | zero => rfl
  | succ n ih => exact (ih _ _).trans (loads_setPoison s st _ v)

theorem loads_storeBytes (s : State) (st : Store) (a : Nat) (b : List Byte) (poi : Bool) : loads (s.storeBytes st a b poi) = loads s := by
  have hw : loads (s.writeB st a b) = loads s := by cases st <;> rfl
  unfold State.storeBytes
  dsimp only
  split_ifs
  · exact hw
  · exact (loads_setPoisonIn ..).trans hw
  · exact hw
  · exact (loads_setPoisonIn ..).trans hw

theorem loads_unitWriteN (die k v : Nat) (src : Source) (poi : Bool) (r va : Nat) (b : List Byte) (s : State) :
    loads (unitWriteN die k v src poi r va b s).1 = loads s := by
  induction r generalizing va b s with
  | zero => rfl
  | succ r ih =>
    have hu := loads_unitAt s die k va { w := true } src
    unfold unitWriteN
    split
    · rfl
    · dsimp only
      split
      · next u g hv => rwa [hv] at hu
      · next u st a hv =>
        rw [hv] at hu
        exact (ih _ _ _).trans ((loads_movedBy ..).trans ((loads_storeBytes ..).trans hu))

theorem loads_unitWrite (s : State) (die k v va : Nat) (b : List Byte) (poi : Bool) (src : Source) :
    loads (s.unitWrite die k v va b poi src).1 = loads s := loads_unitWriteN ..

theorem loads_pagesOk (k : Nat) (need : Need) (n va : Nat) (s : State) : loads (s.pagesOk k need n va).1 = loads s := by
  induction n generalizing va s with
  | zero => rfl
  | succ n ih =>
    have hu := loads_unitAt s 0 k va need srcIo
    unfold State.pagesOk
    split
    · next u g hv =>
      rw [hv] at hu
      unfold State.loaderMet
      split <;> exact hu
    · next u x hv =>
      rw [hv] at hu
      exact (ih _ _).trans hu

theorem loads_lookupImage (s : State) (key : List Byte) : loads (s.lookupImage key).1 = loads s := by
  unfold State.lookupImage
  extract_lets v
  split
  · exact loads_bumpSat v _ _ (by decide)
  · split
    · exact loads_bumpSat _ _ _ (by decide)
    · exact (loads_bumpSat _ _ _ (by decide)).trans (loads_bumpSat _ _ _ (by decide))

theorem loads_evictRoom (n fuel : Nat) (s : State) : loads (evictRoom n fuel s) = loads s := by
  induction fuel generalizing s with
  | zero => rfl
  | succ fuel ih =>
    unfold evictRoom
    split
    · rfl
    · split
      · rfl
      · exact (ih _).trans (loads_bumpSat _ _ _ (by decide))

theorem loads_insertImage (s : State) (key img : List Byte) : loads (s.insertImage key img).1 = loads s := by
  unfold State.insertImage
  split
  · rfl
  · exact loads_evictRoom ..

theorem loads_translated (s : State) (b : List Byte) (dst : Nat) : loads (s.translated b dst).1 = loads s := by
  have hlook := loads_lookupImage s (s.storeKey b)
  unfold State.translated
  split
  · next v img hv => rwa [hv] at hlook
  · next v hv =>
    rw [hv] at hlook
    split
    · exact hlook
    · split
      · exact hlook
      · exact (loads_insertImage v ..).trans hlook

theorem loads_codepub (s : State) (k va n : Nat) : loads (s.codepub k va n) = loads s := by
  unfold State.codepub
  dsimp only
  rw [loads_setReg]
  · split <;> rfl
  · simp only [Reg.offset]
    omega

/-! The end of a request (R405). -/

/-- The queue after its head has ended, with what the loader waited for. -/
def dequeued (s : State) : State := { s with loadq := s.loadq.drop 1, loadFault := none, loadFailed := false }

/-- The count of a request that ended, and the event that tells the host. -/
def counted (s : State) (k : Nat) : State :=
  let t := ((dequeued s).setField .imgStat 32 5 (s.loadq.drop 1).length).bump .imgStat 0 32
  t.hostEvent { type := 5, slot := k, a := 0, b := t.regField .imgStat 0 32, cyc := 0 }

theorem endLoad_eq (s : State) (r : LoadReq) (e : LoadEnd) : s.endLoad r e = atPhysical r.res (.next
    (if (counted (s.writePa r.res e.record) r.k).tcFlushing then (counted (s.writePa r.res e.record) r.k).flushStore
      else counted (s.writePa r.res e.record) r.k)) := rfl

/-- What neither a host event nor a flush of the translation store changes. -/
def ended (s : State) : List Nat × List Image × Memories := (s.loadq, s.images, memories s)

theorem ended_hostEvent (s : State) (e : HostEvent) : ended (s.hostEvent e) = ended s := by
  have hm := memories_hostEvent s e
  have hl := loads_hostEvent s e
  simp only [loads, Prod.mk.injEq] at hl
  rw [ended, hm, hl.1, hl.2.1, ended]

theorem ended_setField (s : State) (r : Reg) (lo w x : Nat) : ended (s.setField r lo w x) = ended s := rfl

theorem ended_bump (s : State) (r : Reg) (lo w : Nat) : ended (s.bump r lo w) = ended s := rfl

theorem ended_counted (s : State) (k : Nat) : ended (counted s k) = ended (dequeued s) := by
  rw [counted, ended_hostEvent, ended_bump, ended_setField]

theorem counted_regs (s : State) (k : Nat) : (counted s k).regField .hostEvt 5 1 = 1 ∧
    (counted s k).regField .imgStat 0 32 = (s.regField .imgStat 0 32 + 1) % 2 ^ 32 ∧
    (counted s k).regField .imgStat 32 5 = (s.loadq.drop 1).length % 32 := by
  have hd : ∀ lo w, (dequeued s).regField .imgStat lo w = s.regField .imgStat lo w := fun lo w => regField_of_regs rfl _ _ _
  refine ⟨regField_hostEvent _ _ (by simp), ?_, ?_⟩
  · rw [counted, regField_hostEvent_ne _ _ _ _ (by decide) (by decide), regField_bump_same _ _ (by decide),
      regField_setField_disjoint _ _ _ (by decide) (by decide), hd]
  · rw [counted, regField_hostEvent_ne _ _ _ _ (by decide) (by decide), regField_bump_disjoint _ _ (by decide) (by decide),
      regField_setField_same _ _ _ (by decide)]
    rfl

theorem flushStore_keeps (s : State) : ended s.flushStore = ended s ∧ s.flushStore.regs = s.regs := ⟨rfl, rfl⟩

/-- The first bytes of a result record are the code. -/
theorem record_code (e : LoadEnd) (i : Nat) (hi : i < 2) (h : i < e.record.length) : e.record[i] = BitVec.ofNat 8 (e.code / 256 ^ i) := by
  obtain rfl | rfl : i = 0 ∨ i = 1 := by omega
  · exact congrArg (BitVec.ofNat 8) (Nat.div_one _).symm
  · exact congrArg (BitVec.ofNat 8) (by rw [Nat.pow_one])

theorem length_record (e : LoadEnd) : 2 ≤ e.record.length := by
  simp [LoadEnd.record]

/-- A request ends with the code of its result, whatever the loader has read and written before (R405). -/
theorem endLoad_ends {s x : State} (r : LoadReq) (e : LoadEnd) (hq : x.loadq = s.loadq)
    (hd : x.regField .imgStat 0 32 = s.regField .imgStat 0 32) {p : State → Prop} (hp : ∀ t, t.images = x.images → p t) :
    LoadEnded (x.endLoad r e) s r e.code p := by
  intro hres
  have hrun := endLoad_eq x r e
  rw [atPhysical_ok hres] at hrun
  obtain ⟨a, b, c, d, hw⟩ := rewritten_writePa x r.res e.record
  obtain ⟨hevt, hdone, hlen⟩ := counted_regs (x.writePa r.res e.record) r.k
  have hend := ended_counted (x.writePa r.res e.record) r.k
  have hlast : ∃ t, x.endLoad r e = .next t ∧ ended t = ended (dequeued (x.writePa r.res e.record)) ∧
      t.regs = (counted (x.writePa r.res e.record) r.k).regs := by
    rw [hrun]
    split
    · obtain ⟨h1, h2⟩ := flushStore_keeps (counted (x.writePa r.res e.record) r.k)
      exact ⟨_, rfl, h1.trans hend, h2⟩
    · exact ⟨_, rfl, hend, rfl⟩
  obtain ⟨t, ht, hkeep, hregs⟩ := hlast
  simp only [ended, Prod.mk.injEq] at hkeep
  obtain ⟨hloadq, himages, hmem⟩ := hkeep
  have hwq : (x.writePa r.res e.record).loadq = x.loadq := by rw [hw]
  have hwi : (x.writePa r.res e.record).images = x.images := by rw [hw]
  have hwr : (x.writePa r.res e.record).regField .imgStat 0 32 = x.regField .imgStat 0 32 := by
    rw [hw]
    exact regField_of_regs rfl _ _ _
  rw [hwq, hq] at hlen
  rw [hwr, hd] at hdone
  refine ⟨t, ht, ?_, (regField_of_regs hregs _ _ _).trans hevt, (regField_of_regs hregs _ _ _).trans hdone,
    (regField_of_regs hregs _ _ _).trans hlen, fun st a hpa i hi => ?_, hp t (himages.trans hwi)⟩
  · rw [hloadq, dequeued, hwq, hq]
  · have hi' : i < e.record.length := Nat.lt_of_lt_of_le hi (length_record e)
    rw [cells_of_memories hmem, ← record_code e i hi hi', ← getCell_writePa x hpa e.record i hi']
    cases st <;> rfl

/-- The same for what follows reads and writes that leave the loader's state alone. -/
theorem loads_ends {s x : State} (hx : loads x = loads s) (r : LoadReq) (e : LoadEnd) {p : State → Prop}
    (hp : ∀ t, t.images = s.images → p t) : LoadEnded (x.endLoad r e) s r e.code p := by
  simp only [loads, Prod.mk.injEq] at hx
  obtain ⟨hq, hi, hd⟩ := hx
  exact endLoad_ends r e hq hd fun t ht => hp t (ht.trans hi)

/-! The head of the queue (R403). -/

/-- The request at the head, which the loader does not wait with. -/
structure AtHead (s : State) (pa : Nat) : Prop where
  head   : s.loadq.head? = some pa
  fault  : s.loadFault = none
  failed : s.loadFailed = false
  place  : reservedPa pa = false

/-- The request at an address. -/
def requestAt (s : State) (pa : Nat) : LoadReq := loadReq (s.readPaB pa 64)

theorem headRequest_refused {s : State} {pa : Nat} (h : AtHead s pa) (hbad : badRequest (s.readPaB pa 64) = true) (op : Nat)
    (act : LoadReq → Host.Outcome State Fault Refusal) : s.headRequest op act = s.endLoad (requestAt s pa) { code := 1 } := by
  obtain ⟨r, hq⟩ := List.head?_eq_some_iff.mp h.head
  rw [State.headRequest, hq]
  dsimp only
  rw [h.fault]
  dsimp only
  rw [if_neg Bool.false_ne_true, atPhysical_ok h.place, if_pos hbad]
  rfl

theorem headRequest_acts {s : State} {pa : Nat} (h : AtHead s pa) (hgood : badRequest (s.readPaB pa 64) = false) {op : Nat}
    (hop : (requestAt s pa).op = op) (act : LoadReq → Host.Outcome State Fault Refusal) : s.headRequest op act = act (requestAt s pa) := by
  obtain ⟨r, hq⟩ := List.head?_eq_some_iff.mp h.head
  rw [State.headRequest, hq]
  dsimp only
  rw [h.fault]
  dsimp only
  rw [if_neg Bool.false_ne_true, atPhysical_ok h.place, hgood, if_neg Bool.false_ne_true, h.failed, if_neg Bool.false_ne_true,
    if_pos (show (loadReq (s.readPaB pa 64)).op = op from hop)]
  rfl

/-! Placing an image (R404). -/

/-- The failures of an image that a request places. -/
def failsOf (x : State) (r : LoadReq) (img : List Byte) : List Fail :=
  imageFails img (x.regField .belId 40 8) x.slots fun l => Config.handlerDecl (r.dst + l.blk) % 64

/-- The images of a state but for the one of a slot at a base. -/
def otherImages (s : State) (r : LoadReq) : List Image := s.images.filter fun i => !(i.k = r.k && i.base = r.dst)

/-- The element that `minBy` chooses has a least key. -/
theorem minBy_le {α : Type} {key : α → Nat} {l : List α} {x : α} (h : minBy key l = some x) : ∀ y ∈ l, key x ≤ key y := by
  induction l generalizing x with
  | nil => cases h
  | cons a r ih =>
    rw [minBy] at h
    cases hr : minBy key r with
    | none =>
      rw [hr] at h
      cases h
      cases r with
      | nil => simp
      | cons b r =>
        rw [minBy] at hr
        split at hr
        · cases hr
        · split at hr <;> cases hr
    | some z =>
      rw [hr] at h
      have hz := ih hr
      dsimp only at h
      intro y hy
      split at h
      · next hlt =>
        cases h
        obtain rfl | hy := List.mem_cons.mp hy
        · exact Nat.le_of_lt hlt
        · exact hz y hy
      · next hge =>
        cases h
        obtain rfl | hy := List.mem_cons.mp hy
        · exact Nat.le_refl _
        · exact Nat.le_trans (Nat.not_lt.mp hge) (hz y hy)

theorem firstFail_least {l : List Fail} {f : Fail} (h : firstFail l = some f) :
    f ∈ l ∧ ∀ g ∈ l, f.1 * 2 ^ 64 + f.2 ≤ g.1 * 2 ^ 64 + g.2 :=
  ⟨minBy_mem h, minBy_le h⟩

/-- The image in its place, with its relocations and its entry in the table. -/
def imagePlaced (x : State) (r : LoadReq) (img : List Byte) : State :=
  { (foldState (fun s (p : Nat × List Byte) => (s.unitWrite 0 r.k 4096 (r.dst + p.1) p.2 false srcIo).1) x
      (relocations img r.dst)).codepub r.k r.dst img.length with
    images := otherImages x r ++ [{ k := r.k, base := r.dst, len := img.length, minr := recField img 5 1 }] }

theorem placeImage_eq (x : State) (r : LoadReq) (img : List Byte) (srch : Nat) : x.placeImage r img srch =
    match firstFail (failsOf x r img) with
    | some f => x.endLoad r { code := f.1, off := f.2, srch := srch }
    | none =>
      if 64 ≤ ((otherImages x r).filter fun i => i.k = r.k).length then x.endLoad r { code := 13, srch := srch }
      else (imagePlaced x r img).endLoad r
        { code := 0, srch := srch, base := r.dst, plen := img.length, minr := recField img 5 1 } := by
  unfold State.placeImage
  rfl

theorem loads_relocated (r : LoadReq) (l : List (Nat × List Byte)) (x : State) :
    loads (foldState (fun s (p : Nat × List Byte) => (s.unitWrite 0 r.k 4096 (r.dst + p.1) p.2 false srcIo).1) x l) = loads x := by
  induction l generalizing x with
  | nil => rfl
  | cons p l ih => exact (ih _).trans (loads_unitWrite ..)

theorem imagePlaced_loads (x : State) (r : LoadReq) (img : List Byte) : (imagePlaced x r img).loadq = x.loadq ∧
    (imagePlaced x r img).regField .imgStat 0 32 = x.regField .imgStat 0 32 := by
  have h := (loads_codepub _ r.k r.dst img.length).trans (loads_relocated r (relocations img r.dst) x)
  simp only [loads, Prod.mk.injEq] at h
  obtain ⟨hq, -, hd⟩ := h
  exact ⟨hq, (regField_of_regs rfl _ _ _).trans hd⟩

/-- How the placing of an image ends: with its first failed check, with STATUS 13 where the table is full, or with its entry (R404). -/
theorem placeImage_ends {s x : State} (hx : loads x = loads s) (r : LoadReq) (img : List Byte) (srch : Nat) :
    (∀ f, firstFail (failsOf x r img) = some f → LoadEnded (x.placeImage r img srch) s r f.1 fun t => t.images = s.images) ∧
    (firstFail (failsOf x r img) = none → 64 ≤ ((otherImages s r).filter fun i => i.k = r.k).length →
      LoadEnded (x.placeImage r img srch) s r 13 fun t => t.images = s.images) ∧
    (firstFail (failsOf x r img) = none → ¬64 ≤ ((otherImages s r).filter fun i => i.k = r.k).length →
      LoadEnded (x.placeImage r img srch) s r 0 fun t =>
        t.images = otherImages s r ++ [{ k := r.k, base := r.dst, len := img.length, minr := recField img 5 1 }]) := by
  have hboth := hx
  simp only [loads, Prod.mk.injEq] at hboth
  obtain ⟨hq, hi, hd⟩ := hboth
  have hothers : otherImages x r = otherImages s r := by rw [otherImages, hi, otherImages]
  rw [placeImage_eq, hothers]
  refine ⟨fun f hf => ?_, fun hf hfull => ?_, fun hf hfull => ?_⟩
  · rw [hf]
    exact loads_ends hx r { code := f.1, off := f.2, srch := srch } fun t ht => ht
  · rw [hf]
    dsimp only
    rw [if_pos hfull]
    exact loads_ends hx r { code := 13, srch := srch } fun t ht => ht
  · rw [hf]
    dsimp only
    rw [if_neg hfull]
    obtain ⟨hpq, hpd⟩ := imagePlaced_loads x r img
    exact endLoad_ends r { code := 0, srch := srch, base := r.dst, plen := img.length, minr := recField img 5 1 } (hpq.trans hq) (hpd.trans hd)
      fun t ht => by rw [ht, ← hothers]; rfl

theorem exec_loads (s : State) : exec .loadNative s = execLoadNative s ∧ exec .loadPekor s = execLoadPekor s ∧
    exec .unload s = execUnload s := ⟨rfl, rfl, rfl⟩

section
variable {s : State} {pa : Nat} (h : AtHead s pa) (hgood : badRequest (s.readPaB pa 64) = false)
include h hgood

/-- A native image that already stands at DST is placed there (R404). -/
theorem exec_loadNative_inPlace (hop : (requestAt s pa).op = 1) {r : LoadReq} (hr : requestAt s pa = r) {v w x : State} {img img' : List Byte}
    {p p' : Bool} (hlen : r.len ≤ r.dlen) (hsrc : r.src = r.dst) (hread : s.unitRead 0 r.k 4096 r.src r.len srcIo = (v, .ok img p))
    (hpages : v.pagesOk r.k { r := true, w := true, x := true } (pageCount r.dst r.len) r.dst = (w, .ok))
    (hagain : w.unitRead 0 r.k 4096 r.dst r.len srcIo = (x, .ok img' p')) : exec .loadNative s = x.placeImage r img' 0 := by
  rw [hsrc] at hread
  rw [(exec_loads s).1, execLoadNative, headRequest_acts h hgood hop, hr]
  simp only [hsrc]
  rw [hread]
  dsimp only
  rw [if_neg (Nat.not_lt.mpr hlen), hpages]
  dsimp only
  rw [if_pos trivial, hagain]

/-- How a Pekor image ends (R404). -/
theorem exec_loadPekor_read (hop : (requestAt s pa).op = 2) {r : LoadReq} (hr : requestAt s pa = r) {v w : State} {b : List Byte} {p : Bool}
    (hread : s.unitRead 0 r.k 4096 r.src r.len srcIo = (v, .ok b p))
    (hpages : v.pagesOk r.k { r := true, w := true, x := true } (pageCount r.dst r.dlen) r.dst = (w, .ok)) :
    exec .loadPekor s = if badPekor b then w.endLoad r { code := 14 } else match w.translated b r.dst with
      | (x, none) => x.endLoad r { code := 15 }
      | (x, some (img, srch)) =>
        if r.dlen < img.length then x.endLoad r { code := 12, srch := srch }
        else (x.unitWrite 0 r.k 4096 r.dst img false srcIo).1.placeImage r img srch := by
  rw [(exec_loads s).2.1, execLoadPekor, headRequest_acts h hgood hop, hr]
  rw [hread]
  dsimp only
  rw [hpages]
  dsimp only
  rcases w.translated b r.dst with ⟨x, _ | ⟨img, srch⟩⟩
  · rfl
  · simp

theorem exec_unload_acts (hop : (requestAt s pa).op = 3) {r : LoadReq} (hr : requestAt s pa = r) : exec .unload s =
    if !(s.images.any fun i => i.k = r.k && i.base = r.dst) || s.insts.any (fun i => i.k = r.k && i.base = r.dst) then
      s.endLoad r { code := 16 }
    else ({ s with images := otherImages s r }).endLoad r { code := 0, base := r.dst } := by
  rw [(exec_loads s).2.2, execUnload, headRequest_acts h hgood hop, hr]
  rfl

end

theorem loadsPlace : LoadsPlace := by
  intro s pa b r hhead hfault hfailed hplace same placed
  have h : AtHead s pa := ⟨hhead, hfault, hfailed, hplace⟩
  have place : ∀ {x : State} (hx : loads x = loads s) (img : List Byte) (srch : Nat), placed (x.placeImage r img srch) x img := by
    intro x hx img srch
    obtain ⟨h1, h2, h3⟩ := placeImage_ends hx r img srch
    exact ⟨fun f hf => ⟨(firstFail_least hf).1, (firstFail_least hf).2, h1 f hf⟩, h2, h3⟩
  have refused : ∀ {o}, o = s.endLoad r { code := 1 } → LoadEnded o s r 1 same := by
    rintro _ rfl
    exact loads_ends rfl r { code := 1 } fun t ht => ht
  refine ⟨fun hbad => ⟨?_, ?_, ?_⟩, ?_, ?_, ?_, ?_⟩
  · exact refused ((exec_loads s).1.trans (headRequest_refused h hbad 1 _))
  · exact refused ((exec_loads s).2.1.trans (headRequest_refused h hbad 2 _))
  · exact refused ((exec_loads s).2.2.trans (headRequest_refused h hbad 3 _))
  · intro hgood hop v w x img img' p p' hlen hsrc hread hpages hagain
    have hx : loads x = loads s := by
      have h1 := loads_unitRead s 0 r.k 4096 r.src r.len srcIo
      have h2 := loads_pagesOk r.k { r := true, w := true, x := true } (pageCount r.dst r.len) r.dst v
      have h3 := loads_unitRead w 0 r.k 4096 r.dst r.len srcIo
      rw [hread] at h1
      rw [hpages] at h2
      rw [hagain] at h3
      exact h3.trans (h2.trans h1)
    rw [exec_loadNative_inPlace h hgood hop rfl hlen hsrc hread hpages hagain]
    exact place hx img' 0
  · intro hgood hop v w x bytes img p srch hread hpages
    have hw : loads w = loads s := by
      have h1 := loads_unitRead s 0 r.k 4096 r.src r.len srcIo
      have h2 := loads_pagesOk r.k { r := true, w := true, x := true } (pageCount r.dst r.dlen) r.dst v
      rw [hread] at h1
      rw [hpages] at h2
      exact h2.trans h1
    have ht := loads_translated w bytes r.dst
    have hrun := exec_loadPekor_read h hgood hop (r := r) rfl hread hpages
    refine ⟨fun hbad => ?_, fun hbad hno => ?_, fun hbad hsome hfit => ?_⟩
    · rw [hrun, if_pos hbad]
      exact loads_ends hw r { code := 14 } fun t ht => ht
    · rw [hno] at ht
      rw [hrun, hbad, if_neg Bool.false_ne_true, show w.translated bytes r.dst = (x, none) from hno]
      exact loads_ends (ht.trans hw) r { code := 15 } fun t ht => ht
    · rw [hsome] at ht
      rw [hrun, hbad, if_neg Bool.false_ne_true, show w.translated bytes r.dst = (x, some (img, srch)) from hsome]
      dsimp only
      rw [if_neg (Nat.not_lt.mpr hfit)]
      exact place ((loads_unitWrite ..).trans (ht.trans hw)) img srch
  · intro hgood hop here used
    have hrun := exec_unload_acts h hgood hop (r := r) rfl
    refine ⟨fun hhere hused => ?_, fun hnot => ?_⟩
    · rw [hrun, if_neg]
      · exact endLoad_ends (x := { s with images := otherImages s r }) r { code := 0, base := r.dst } rfl (regField_of_regs rfl _ _ _)
          fun t ht => ht
      · rw [show (s.images.any fun i => i.k = r.k && i.base = r.dst) = true from hhere,
          show (s.insts.any fun i => i.k = r.k && i.base = r.dst) = false from hused]
        simp
    · rw [hrun, if_pos]
      · exact loads_ends rfl r { code := 16 } fun t ht => ht
      · rw [Bool.or_eq_true, Bool.not_eq_true']
        exact hnot
  · have hrun : exec .tcFlush s = .next (if (s.writeReg .tcCtl s.arg.val).loadFault.isSome then
        { s.writeReg .tcCtl s.arg.val with tcFlushing := true } else (s.writeReg .tcCtl s.arg.val).flushStore) := rfl
    have hnone : (s.writeReg .tcCtl s.arg.val).loadFault = none := hfault
    rw [hrun, hnone]
    exact ⟨_, rfl, rfl, rfl, sameMemory_of_memories (by simp)⟩

end Sys2Proof.Laws

namespace Sys2Proof.Proofs

open Sys2Proof Sys2Proof.Machine Sys2Proof.Laws

/-- Settles O47: by the state of the loader, which its reads and writes of memory leave alone, and by how each request ends. -/
theorem imageLoads : Obligations.ImageLoads := loadsPlace

end Sys2Proof.Proofs
end

section

/-! PROOF. Translations of pieces: windows, cached translations, walks, faults and answers of the host (O36). -/

namespace Sys2Proof.Laws
open Sys2Proof Sys2Proof.Machine Sys2Proof.Claims

/-! The access in focus. -/

/-- A change of the access in focus changes that access, and no other. -/
theorem accessNow_mapFirst {s t : State} {a : Access} (ha : (s.fab.accs.drop s.arg.n).head? = some a) (hd : DistinctIds s)
    (g : Access → Access) (ht : t.fab.accs = mapFirst (fun y => y.id = a.id) g s.fab.accs) : AccessNow s t (g a) := by
  rw [List.head?_drop] at ha
  obtain ⟨hlt, -⟩ := List.getElem?_eq_some_iff.1 ha
  rw [mapFirst_id_eq_set ha hd] at ht
  refine ⟨?_, ?_, fun m hm => ?_⟩
  · rw [List.head?_drop, ht, List.getElem?_set_self hlt]
  · rw [ht, List.length_set]
  · rw [ht, List.getElem?_set_ne hm.symm]

section
variable {s : State} {a : Access} {i : Nat} {p : Piece} (h : Untranslated s a i p)
include h

/-- The turn of an access whose piece is to be translated. -/
theorem exec_walkComplete (ht : a.trans = .ready) : exec .walkComplete s = .next (s.translatePiece a i) := by
  have he : exec .walkComplete s = execWalkComplete s := rfl
  obtain ⟨hw, hd, hs⟩ := h.open_
  rw [he, execWalkComplete, h.acc]
  dsimp only
  rw [if_neg (by simp [hw, hd, hs, ht]), h.next]

theorem translatePiece_at {v : State} {st : Store} {y : Nat} (ht : s.translate (dieNo a.barn) a.port a.k p.addr a.kind.need = (v, .at st y)) :
    s.translatePiece a i = (if st = .host then v.agentTake y a.kind.need.w false else v).sendPiece a i st y := by
  obtain ⟨hflat, htens⟩ := h.flat
  rw [State.translatePiece]
  simp only [hflat, htens, List.headD_eq_head?_getD, h.piece, Option.getD_some, ht, if_neg h.kind]

theorem translatePiece_denied {v : State} (ht : s.translate (dieNo a.barn) a.port a.k p.addr a.kind.need = (v, .denied)) :
    s.translatePiece a i = v.met a p.addr .denied := by
  obtain ⟨hflat, htens⟩ := h.flat
  rw [State.translatePiece]
  simp only [hflat, htens, List.headD_eq_head?_getD, h.piece, Option.getD_some, ht]

theorem translatePiece_absent {v : State} {m : Bool} (ht : s.translate (dieNo a.barn) a.port a.k p.addr a.kind.need = (v, .absent 0 m)) :
    s.translatePiece a i = v.faulted a p.addr 0 none m := by
  obtain ⟨hflat, htens⟩ := h.flat
  rw [State.translatePiece]
  simp only [hflat, htens, List.headD_eq_head?_getD, h.piece, Option.getD_some, ht]

end

/-! Walks. -/

section
variable {s : State} {k asid va die : Nat} {port : Option Nat} {n : Need} {fresh : Bool} (ha : s.asid? k = some asid)
  (hr : s.rootFor die asid fresh = s.rootOf asid) (hs : ∀ root, s.walkStart die asid va root fresh = (root, levels))
include ha hr hs

/-- A walk from the root that finds a page (R365). -/
theorem walked_page {base size frame : Nat} {pin tt x w r : Bool} (h : s.walk k va = .page base size frame pin tt x w r) :
    (s.walked die port k va n fresh).2 = if grants n r w x tt then
      ({ die := die, port := none, asid := asid, va := base, size := size, frame := frame, host := false, r := r, w := w, x := x, tt := tt } :
        TlbEntry).place va
    else .denied := by
  obtain ⟨walkFrom, found⟩ : ∃ f, f = State.walkFrom := ⟨_, rfl⟩
  obtain ⟨rootOf, root⟩ : ∃ f, f = State.rootOf := ⟨_, rfl⟩
  obtain ⟨rootFor, rooted⟩ : ∃ f, f = State.rootFor := ⟨_, rfl⟩
  obtain ⟨asid?, bound⟩ : ∃ f, f = State.asid? := ⟨_, rfl⟩
  delta State.walked
  delta State.walk at h
  rw [← found, ← root, ← bound] at h
  rw [← found, ← rooted, ← bound]
  rw [← root, ← rooted] at hr
  rw [← bound] at ha
  clear found root rooted bound
  dsimp only at h ⊢
  rw [ha] at h ⊢
  dsimp only [Option.bind_some] at h ⊢
  rw [hr]
  cases hroot : rootOf s asid with
  | none =>
    rw [hroot] at h
    cases h
  | some root =>
    rw [hroot] at h
    dsimp only at h ⊢
    rw [hs]
    dsimp only
    rw [h]

theorem walked_absent {m : Bool} (h : s.walk k va = .absent m) : ∃ m', (s.walked die port k va n fresh).2 = .absent 0 m' := by
  obtain ⟨walkFrom, found⟩ : ∃ f, f = State.walkFrom := ⟨_, rfl⟩
  obtain ⟨rootOf, root⟩ : ∃ f, f = State.rootOf := ⟨_, rfl⟩
  obtain ⟨rootFor, rooted⟩ : ∃ f, f = State.rootFor := ⟨_, rfl⟩
  obtain ⟨asid?, bound⟩ : ∃ f, f = State.asid? := ⟨_, rfl⟩
  delta State.walked
  delta State.walk at h
  rw [← found, ← root, ← bound] at h
  rw [← found, ← rooted, ← bound]
  rw [← root, ← rooted] at hr
  rw [← bound] at ha
  clear found root rooted bound
  dsimp only at h ⊢
  rw [ha] at h ⊢
  dsimp only [Option.bind_some] at h ⊢
  rw [hr]
  cases hroot : rootOf s asid with
  | none => exact ⟨_, rfl⟩
  | some root =>
    rw [hroot] at h
    dsimp only at h ⊢
    rw [hs]
    dsimp only
    rw [h]
    exact ⟨_, rfl⟩

end

/-! What a walk reads. -/

theorem asid?_congr {s t : State} (hregs : t.regs = s.regs) (k : Nat) : t.asid? k = s.asid? k := by
  rw [State.asid?, regField_of_regs hregs, regField_of_regs hregs, State.asid?]

section
variable {s t : State} (hread : ∀ pa n, t.readPa pa n = s.readPa pa n) (hregs : t.regs = s.regs)
include hread

theorem walkFrom_congr (va : Nat) (pasid : Option Nat) (l : List (Nat × Nat)) (base : Nat) :
    t.walkFrom va pasid base l = s.walkFrom va pasid base l := by
  induction l generalizing base with
  | nil => rfl
  | cons x l ih =>
    obtain ⟨shift, bits⟩ := x
    simp only [State.walkFrom, hread, ih]

include hregs

theorem rootOf_congr (a : Nat) : t.rootOf a = s.rootOf a := by
  have hentry : t.asidEntry a = s.asidEntry a := by rw [State.asidEntry, reg_of_regs hregs, State.asidEntry]
  simp only [State.rootOf, State.pasid?, hread, hentry]

theorem walk_congr (k va : Nat) : t.walk k va = s.walk k va := by
  rw [State.walk, State.walk, asid?_congr hregs, funext (rootOf_congr hread hregs)]
  simp only [walkFrom_congr hread]

end

/-- A cached translation that is dropped changes no walk. -/
theorem tlbDrop_keeps (s : State) (die : Nat) (port : Option Nat) (asid va : Nat) :
    (∀ pa n, (s.tlbDrop die port asid va).readPa pa n = s.readPa pa n) ∧ (s.tlbDrop die port asid va).regs = s.regs :=
  ⟨fun _ _ => rfl, rfl⟩

theorem asid_of_asid? {s : State} {k asid : Nat} (h : s.asid? k = some asid) : s.asid k = asid := by
  unfold State.asid? at h
  split at h
  · exact Option.some.inj h
  · cases h

/-! The translation of an address. -/

section
variable {s : State} {die : Nat} {port : Option Nat} {k va : Nat} {n : Need}

theorem translate_window {st : Store} {y : Nat} (hw : windowOf va ≠ .paged) (hp : s.windowPlace k va = some (st, y)) (hn : n.tt = false) :
    s.translate die port k va n = (s, .at st y) := by
  unfold State.translate
  cases hwin : windowOf va with
  | bad =>
    rw [State.windowPlace, hwin] at hp
    cases hp
  | scratch _ => simp [hp, hn]
  | weight _ _ => simp [hp, hn]
  | paged => exact absurd hwin hw

variable {asid : Nat} (hw : windowOf va = .paged) (ha : s.asid? k = some asid)
include hw ha

theorem translate_cached {e : TlbEntry} (hc : s.tlbFind die port asid va = some e) (hg : grants n e.r e.w e.x e.tt = true) :
    (s.translate die port k va n).2 = e.place va := by
  unfold State.translate
  rw [hw]
  dsimp only
  rw [ha, Option.isSome_some, if_pos rfl, asid_of_asid? ha, hc]
  dsimp only
  rw [if_pos hg]

/-- A translation that no cached one answers walks from the root (R365). -/
theorem translate_walks (hc : (s.tlbFind die port asid va = none ∧ (∀ e ∈ s.walks, ¬(e.die = die ∧ e.asid = asid)) ∧
      (∀ e ∈ s.asids, ¬(e.die = die ∧ e.asid = asid))) ∨
      (∃ e, s.tlbFind die port asid va = some e ∧ grants n e.r e.w e.x e.tt = false)) :
    ∃ (u : State) (fresh : Bool), s.translate die port k va n = u.walked die port k va n fresh ∧ u.asid? k = some asid ∧
      u.rootFor die asid fresh = u.rootOf asid ∧ (∀ root, u.walkStart die asid va root fresh = (root, levels)) ∧ u.walk k va = s.walk k va := by
  obtain ⟨hnone, hwalks, hasids⟩ | ⟨e, he, hg⟩ := hc
  · refine ⟨s, false, ?_, ha, ?_, fun root => ?_, rfl⟩
    · unfold State.translate
      rw [hw]
      dsimp only
      rw [ha, Option.isSome_some, if_pos rfl, asid_of_asid? ha, hnone]
    · rw [State.rootFor, if_neg Bool.false_ne_true, List.find?_eq_none.mpr fun e he => by simpa using hasids e he]
    · have hno : s.walks.filter (fun e => decide (e.die = die) && decide (e.asid = asid) && decide (e.va ≤ va) && decide (va < e.va + e.size)) = [] :=
        List.filter_eq_nil_iff.mpr fun e he h => by
          simp only [Bool.and_eq_true, decide_eq_true_eq] at h
          exact hwalks e he h.1.1
      rw [State.walkStart, if_neg Bool.false_ne_true, hno]
      rfl
  · obtain ⟨hread, hregs⟩ := tlbDrop_keeps s die port asid va
    refine ⟨s.tlbDrop die port asid va, true, ?_, (asid?_congr hregs k).trans ha, rfl, fun root => rfl, walk_congr hread hregs k va⟩
    unfold State.translate
    rw [hw]
    dsimp only
    rw [ha, Option.isSome_some, if_pos rfl, asid_of_asid? ha, he]
    exact if_neg (by simp [hg])

end

/-! Pieces that are placed. -/

theorem piece_sent {s v : State} {a : Access} {i : Nat} {p : Piece} (h : Untranslated s a i p) (hv : Cached s v) (st : Store) (y : Nat) :
    let t := (if st = .host then v.agentTake y a.kind.need.w false else v).sendPiece a i st y
    SameMemory s t ∧ (st ≠ .dev ∨ s.nodeRoom a y = true → AccessNow s t (a.placed i st y s.cyc)) ∧
      (st = .dev → s.nodeRoom a y = false → t.fab = s.fab) := by
  obtain ⟨e, f, g, rfl⟩ := hv
  have moved : ∀ u : State, u.fab = s.fab → u.cyc = s.cyc → AccessNow s (u.modAcc a.id fun y' => y'.placed i st y u.cyc) (a.placed i st y s.cyc) := by
    intro u hf hcyc
    rw [hcyc]
    exact accessNow_mapFirst h.acc h.ids (fun y' => y'.placed i st y s.cyc) (by rw [← hf]; rfl)
  refine ⟨sameMemory_of_memories (by simp), fun hroom => ?_, fun hdev hroom => ?_⟩
  · by_cases hst : st = .host
    · subst hst
      rw [if_pos rfl, State.sendPiece, if_neg (by simp)]
      exact moved _ rfl rfl
    · rw [if_neg hst, State.sendPiece, if_neg]
      · exact moved _ rfl rfl
      · intro hno
        simp only [Bool.and_eq_true, decide_eq_true_eq, Bool.not_eq_true'] at hno
        obtain ⟨hdev, hno⟩ := hno
        obtain hne | hroom := hroom
        · exact hne hdev
        · exact absurd (hno.symm.trans hroom) (by decide)
  · subst hdev
    rw [if_neg (by decide), State.sendPiece, if_pos]
    simp only [Bool.and_eq_true, decide_eq_true_eq, Bool.not_eq_true']
    exact ⟨trivial, hroom⟩

/-! Faults (R369). -/

/-- A page fault is listed, new or raised before. -/
theorem pageFault_listed (s : State) (die k va cause : Nat) (tile : Option Nat) (access : Nat) (malf idem : Bool) (src : Nat) :
    ∃ pf nf fid, s.pageFault die k va cause tile access malf idem src = ({ s with pfaults := pf, nextFid := nf }, fid) ∧
      ∃ q ∈ pf, q.die = die ∧ q.fid = fid ∧ q.k = k ∧ q.cause = cause ∧ q.va / 4096 = va / 4096 := by
  unfold State.pageFault
  split
  · next q hq =>
    have hfound := List.find?_some hq
    simp only [Bool.and_eq_true, decide_eq_true_eq] at hfound
    obtain ⟨⟨⟨⟨⟨-, hdie⟩, hk⟩, hcause⟩, -⟩, hva⟩ := hfound
    exact ⟨s.pfaults, s.nextFid, q.fid, rfl, q, List.mem_of_find?_eq_some hq, hdie, rfl, hk, hcause, hva⟩
  · exact ⟨_, _, _, rfl, _, List.mem_append_right _ List.mem_cons_self, rfl, rfl, rfl, rfl, rfl⟩

section
variable {s : State} {a : Access} (hk : a.kind ≠ .prefetch) (va cause : Nat) (tile : Option Nat) (m : Bool)
include hk

/-- An access that is not idempotent waits on its fault. -/
theorem faulted_waits (hi : s.idemInvoc? a.origin = none) : ∃ pf nf fid, s.faulted a va cause tile m =
      ({ s with pfaults := pf, nextFid := nf } : State).modAcc a.id (fun x => { x with trans := .fault (dieNo a.barn) fid }) ∧
    ∃ q ∈ pf, q.die = dieNo a.barn ∧ q.fid = fid ∧ q.k = a.k ∧ q.cause = cause ∧ q.va / 4096 = va / 4096 := by
  obtain ⟨pf, nf, fid, hrun, hq⟩ := pageFault_listed s (dieNo a.barn) a.k va cause tile a.kind.code m false (srcCode a.barn)
  refine ⟨pf, nf, fid, ?_, hq⟩
  rw [State.faulted]
  dsimp only
  rw [if_neg hk, hi, Option.isSome_none, hrun]

/-- An idempotent invocation is aborted. -/
theorem faulted_aborts {j : Invoc} (hi : s.idemInvoc? a.origin = some j) : ∃ pf nf fid c, s.faulted a va cause tile m =
      ({ s with pfaults := pf, nextFid := nf } : State).abortFor j a (dieNo a.barn, fid) c ∧
    ∃ q ∈ pf, q.die = dieNo a.barn ∧ q.fid = fid ∧ q.k = a.k ∧ q.cause = cause ∧ q.va / 4096 = va / 4096 := by
  obtain ⟨pf, nf, fid, hrun, hq⟩ := pageFault_listed s (dieNo a.barn) a.k va cause tile a.kind.code m true (srcCode a.barn)
  refine ⟨pf, nf, fid, ({ s with pfaults := pf, nextFid := nf } : State).faultCause a va cause tile, ?_, hq⟩
  rw [State.faulted]
  dsimp only
  rw [if_neg hk, hi, Option.isSome_some, hrun]

end

/-! Aborts. -/

theorem rewritten_writeB (s : State) (st : Store) (x : Nat) (b : List Byte) : Rewritten s (s.writeB st x b) := by
  cases st
  · exact ⟨_, s.hmem, s.scr, s.wbuf, rfl⟩
  · exact ⟨s.dmem, _, s.scr, s.wbuf, rfl⟩
  · exact ⟨s.dmem, s.hmem, _, s.wbuf, rfl⟩
  · exact ⟨s.dmem, s.hmem, s.scr, _, rfl⟩

theorem rewritten_mirrorGather (s : State) (taken : Bool) (g : Gather) : Rewritten s (s.mirrorGather taken g) := by
  obtain ⟨peekAt, found⟩ : ∃ f, f = State.peekAt := ⟨_, rfl⟩
  obtain ⟨blockNo, numbered⟩ : ∃ f, f = State.blockNo := ⟨_, rfl⟩
  delta State.mirrorGather
  rw [← found, ← numbered]
  clear found numbered
  dsimp only
  have put : ∀ (u : State) (va : Nat) (b : List Byte), Rewritten u (match peekAt u g.k va { w := true } with
      | some (st, x) => u.writeB st x b
      | none => u) := by
    intro u va b
    split
    · exact rewritten_writeB ..
    · exact rewritten_refl u
  split
  · exact rewritten_refl s
  · split
    · exact rewritten_refl s
    · exact rewritten_trans (put _ _ _) (put _ _ _)

theorem rewritten_mirrorKey (s : State) (k v blk : Nat) (tag : DWord) (d : Nat) : Rewritten s (s.mirrorKey k v blk tag d) :=
  rewritten_foldState (fun _ _ => rewritten_mirrorGather ..) _ _

/-- What identifies a set, with its tokens. -/
def setTokens (x : Machine.PSet) : Site × DWord × List (Slot × Tok) := (x.site, x.tag, x.toks)

theorem map_mapFirst {α β : Type} {p : α → Bool} {g : α → α} {v : α → β} (hv : ∀ x, v (g x) = v x) (l : List α) :
    (mapFirst p g l).map v = l.map v := by
  induction l with
  | nil => rfl
  | cons x r ih => by_cases h : p x <;> simp [mapFirst, h, hv, ih]

/-- A promotion changes the place of sets alone (R31). -/
theorem promoteAll_sets (s : State) : ∃ l, s.promoteAll = { s with fab := { s.fab with sets := l } } ∧
    l.map setTokens = s.fab.sets.map setTokens := by
  have one : ∀ (u : State) (site : Site), ∃ l, u.promote site = { u with fab := { u.fab with sets := l } } ∧
      l.map setTokens = u.fab.sets.map setTokens := by
    intro u site
    unfold State.promote
    split
    · exact ⟨u.fab.sets, rfl, rfl⟩
    · split
      · exact ⟨u.fab.sets, rfl, rfl⟩
      · next e _ _ _ _ =>
        exact ⟨_, rfl, map_mapFirst (g := fun x : Machine.PSet => { x with place := .table e, since := u.cyc }) (fun _ => rfl) _⟩
  have all : ∀ (sites : List Site) (u : State), ∃ l, foldState State.promote u sites = { u with fab := { u.fab with sets := l } } ∧
      l.map setTokens = u.fab.sets.map setTokens := by
    intro sites
    induction sites with
    | nil => exact fun u => ⟨u.fab.sets, rfl, rfl⟩
    | cons site sites ih =>
      intro u
      obtain ⟨l, hl, hsame⟩ := one u site
      obtain ⟨l', hl', hsame'⟩ := ih (u.promote site)
      rw [hl] at hl' hsame'
      refine ⟨l', ?_, hsame'.trans hsame⟩
      rw [foldState, hl]
      exact hl'
  exact all _ s

/-- A state whose invocation is discarded, and whose inputs wait again, before the copies in memory follow. -/
def aborting (s : State) (j : Invoc) (at_ : Nat × Nat) : State :=
  let mine (t : Trap) : Bool := t.k = j.k && j.emulates t.hold
  let gone := (s.traps.filter mine).map Trap.wordOf
  { (s.claimSlot j.k j.v j.blk).1 with
    fab := { s.fab.discard j with
      chans := (s.fab.discard j).chans.filter fun c => !(c.ch.isNone && c.k = j.k && gone.contains c.tok.data) }
    traps := s.traps.filter fun t => !mine t
    voided := s.voided ++ gone.map fun w => (j.k, w)
    gathers := s.gathers ++ [{ k := j.k, v := j.v, blk := j.blk, tag := j.tag, dep := j.dep, vals := j.vals,
                               closed := true, fid := some at_, pos := (s.claimSlot j.k j.v j.blk).2, since := s.cyc, age := s.cyc }] }

theorem abort_eq (s : State) (j : Invoc) (at_ : Nat × Nat) :
    s.abort j (some at_) = ((aborting s j at_).mirrorKey j.k j.v j.blk j.tag j.dep).promoteAll := rfl

theorem aborting_discards (s : State) (j : Invoc) (at_ : Nat × Nat) :
    let t := aborting s j at_
    t.pfaults = s.pfaults ∧ t.fab.accs = (s.fab.discard j).accs ∧ t.fab.sets = (s.fab.discard j).sets ∧
    t.fab.queues = (s.fab.discard j).queues ∧ t.fab.sbuf = (s.fab.discard j).sbuf ∧ t.fab.spaces = (s.fab.discard j).spaces ∧
    ∃ g ∈ t.gathers, g.k = j.k ∧ g.blk = j.blk ∧ g.tag = j.tag ∧ g.vals = j.vals ∧ g.ready = none ∧ g.fid = some at_ :=
  ⟨rfl, rfl, rfl, rfl, rfl, rfl, _, List.mem_append_right _ List.mem_cons_self, rfl, rfl, rfl, rfl, rfl, rfl⟩

/-- The inputs of an aborted invocation, which wait again. -/
theorem abort_discards (s : State) (j : Invoc) (at_ : Nat × Nat) :
    let t := s.abort j (some at_)
    t.pfaults = s.pfaults ∧ t.fab.accs = (s.fab.discard j).accs ∧ t.fab.sets.map setTokens = (s.fab.discard j).sets.map setTokens ∧
    t.fab.queues = (s.fab.discard j).queues ∧ t.fab.sbuf = (s.fab.discard j).sbuf ∧ t.fab.spaces = (s.fab.discard j).spaces ∧
    ∃ g ∈ t.gathers, g.k = j.k ∧ g.blk = j.blk ∧ g.tag = j.tag ∧ g.vals = j.vals ∧ g.ready = none ∧ g.fid = some at_ := by
  obtain ⟨hp, haccs, hsame, hqueues, hsbuf, hspaces, hg⟩ := aborting_discards s j at_
  obtain ⟨d, h, c, w, hmirror⟩ := rewritten_mirrorKey (aborting s j at_) j.k j.v j.blk j.tag j.dep
  obtain ⟨l, hl, hsets⟩ := promoteAll_sets ((aborting s j at_).mirrorKey j.k j.v j.blk j.tag j.dep)
  rw [hmirror] at hl hsets
  rw [abort_eq, hmirror, hl]
  exact ⟨hp, haccs, hsets.trans (congrArg _ hsame), hqueues, hsbuf, hspaces, hg⟩

/-- A change of the first element that meets a condition leaves, of each element, it or its change. -/
theorem mem_mapFirst_or {α : Type} {p : α → Bool} {f : α → α} {l : List α} {x : α} (h : x ∈ l) :
    x ∈ mapFirst p f l ∨ f x ∈ mapFirst p f l := by
  induction l with
  | nil => cases h
  | cons y r ih =>
    rw [mapFirst]
    split
    · obtain rfl | h := List.mem_cons.mp h
      · exact .inr List.mem_cons_self
      · exact .inl (List.mem_cons_of_mem _ h)
    · obtain rfl | h := List.mem_cons.mp h
      · exact .inl List.mem_cons_self
      · exact (ih h).imp (List.mem_cons_of_mem _) (List.mem_cons_of_mem _)

/-- An abort for a fault tells it to the inputs that wait again (R369). -/
theorem abortFor_discards (s : State) (j : Invoc) (a : Access) (at_ : Nat × Nat) (c : Cause) :
    let t := s.abortFor j a at_ c
    t.pfaults = s.pfaults ∧ t.fab.accs = (s.fab.discard j).accs ∧ t.fab.sets.map setTokens = (s.fab.discard j).sets.map setTokens ∧
    t.fab.queues = (s.fab.discard j).queues ∧ t.fab.sbuf = (s.fab.discard j).sbuf ∧ t.fab.spaces = (s.fab.discard j).spaces ∧
    ∃ g ∈ t.gathers, g.k = j.k ∧ g.blk = j.blk ∧ g.tag = j.tag ∧ g.vals = j.vals ∧ g.ready = none ∧ g.fid = some at_ := by
  obtain ⟨hp, haccs, hsets, hqueues, hsbuf, hspaces, g, hg, hk, hblk, htag, hvals, hready, hfid⟩ := abort_discards s j at_
  refine ⟨hp, haccs, hsets, hqueues, hsbuf, hspaces, ?_⟩
  obtain hg | hg := mem_mapFirst_or (p := fun g : Gather => g.fid = some at_ && g.why.isNone && g.k = j.k && g.v = j.v && g.blk = j.blk &&
    g.tag = j.tag && g.dep = j.dep) (f := fun g => { g with why := some c, idx := a.origin.idx }) hg
  · exact ⟨_, hg, hk, hblk, htag, hvals, hready, hfid⟩
  · exact ⟨_, hg, hk, hblk, htag, hvals, hready, hfid⟩

theorem idemInvoc?_cached {s v : State} (h : Cached s v) (o : Origin) : v.idemInvoc? o = s.idemInvoc? o := by
  obtain ⟨a, b, c, rfl⟩ := h
  rfl

theorem walksTranslate : WalksTranslate := by
  intro s a i p h ht o die n at_ fault
  have hrun : o = .next (s.translatePiece a i) := exec_walkComplete h ht
  have hn : n.tt = false := by
    dsimp only [n]
    cases a.kind <;> rfl
  have hcached := cached_translate s die a.port a.k p.addr n
  have placed : ∀ st y, (s.translate die a.port a.k p.addr n).2 = .at st y → at_ st y := by
    intro st y hat
    have htr := translatePiece_at h (v := (s.translate die a.port a.k p.addr n).1) (Prod.ext rfl hat)
    obtain ⟨hmem, hroom, hfull⟩ := piece_sent h hcached st y
    rw [htr] at hrun
    exact ⟨_, hrun, hmem, hroom, hfull⟩
  have faults : ∀ m, (s.translate die a.port a.k p.addr n).2 = .absent 0 m → fault 0 := by
    intro m habs
    have htr := translatePiece_absent h (v := (s.translate die a.port a.k p.addr n).1) (Prod.ext rfl habs)
    have hinvoc := idemInvoc?_cached hcached a.origin
    rw [htr] at hrun
    cases hi : s.idemInvoc? a.origin with
    | none =>
      obtain ⟨pf, nf, fid, hf, hq⟩ := faulted_waits (s := (s.translate die a.port a.k p.addr n).1) h.kind p.addr 0 none m (hinvoc.trans hi)
      rw [hf] at hrun
      refine ⟨_, fid, hrun, fun _ => sameMemory_of_memories (by simp), hq, fun _ => ?_, fun j hj => ?_⟩
      · refine accessNow_mapFirst h.acc h.ids (fun x => { x with trans := .fault die fid }) ?_
        obtain ⟨e, f, g, hv⟩ := hcached
        rw [hv]
        rfl
      · rw [hi] at hj
        cases hj
    | some j =>
      obtain ⟨pf, nf, fid, c, hf, hq⟩ := faulted_aborts (s := (s.translate die a.port a.k p.addr n).1) h.kind p.addr 0 none m (hinvoc.trans hi)
      rw [hf] at hrun
      have hdis := abortFor_discards { (s.translate die a.port a.k p.addr n).1 with pfaults := pf, nextFid := nf } j a (die, fid) c
      refine ⟨_, fid, hrun, fun hno => ?_, ?_, fun hno => ?_, fun j' hj => ?_⟩
      · rw [hi] at hno
        cases hno
      · rw [hdis.1]
        exact hq
      · rw [hi] at hno
        cases hno
      · rw [hi] at hj
        cases hj
        obtain ⟨e, f, g, hv⟩ := hcached
        have hfab : ({ (s.translate die a.port a.k p.addr n).1 with pfaults := pf, nextFid := nf } : State).fab = s.fab := by rw [hv]
        have hkeep := hdis.2
        rw [hfab] at hkeep
        obtain ⟨haccs, hsets, hqueues, hsbuf, hspaces, hg⟩ := hkeep
        exact ⟨haccs, hsets, hqueues, hsbuf, hspaces, hg⟩
  refine ⟨fun st y hw hp => placed st y (congrArg Prod.snd (translate_window hw hp hn)), ?_⟩
  intro asid hw ha cached
  refine ⟨fun e st y hc hg hplace => ?_, fun hc => ⟨?_, ?_⟩⟩
  · exact placed st y ((translate_cached hw ha hc hg).trans hplace)
  · intro base size frame pin tt x w r hpage
    obtain ⟨u, fresh, htr, hua, hur, hus, huw⟩ := translate_walks hw ha hc
    have hres := walked_page (port := a.port) (n := n) hua hur hus (huw.trans hpage)
    rw [← htr] at hres
    refine ⟨fun st y hg hphys => placed st y ?_, fun hg => ?_⟩
    · rw [hres, if_pos hg, TlbEntry.place, if_neg Bool.false_ne_true, hphys]
    · rw [if_neg (by simp [hg])] at hres
      have hdenied := translatePiece_denied h (v := (s.translate die a.port a.k p.addr n).1) (Prod.ext rfl hres)
      rw [hdenied, State.met, if_neg h.kind, if_pos hw] at hrun
      obtain ⟨e, f, g, hv⟩ := hcached
      exact ⟨_, by rw [hv], by rw [hv], hrun⟩
  · intro m habs
    obtain ⟨u, fresh, htr, hua, hur, hus, huw⟩ := translate_walks hw ha hc
    obtain ⟨m', hm⟩ := walked_absent hua hur hus (huw.trans habs)
    exact faults m' (by rw [htr]; exact hm)

/-! Answers of the host (R366). -/

/-- The cached translations after an answer of the host. -/
def answerCached (s : State) (a : Access) (g : AtsGrant) (va : Nat) : State :=
  match atsEntry g va with
  | some (base, size, frame) =>
    if frame % size = 0 then
      s.tlbFill a.port { die := dieNo a.barn, port := none, asid := s.asid a.k, va := base, size := size, frame := frame, host := true, r := g.r,
                         w := g.w, x := false, tt := false }
    else s
  | none => s

theorem cached_answerCached (s : State) (a : Access) (g : AtsGrant) (va : Nat) : Cached s (answerCached s a g va) := by
  unfold answerCached
  split
  · split
    · exact cached_tlbFill ..
    · exact cached_refl s
  · exact cached_refl s

section
variable {s : State} {a : Access} {i : Nat} {p : Piece} (h : Untranslated s a i p) (ht : a.trans = .ats) (hf : s.arg.flag = false)
include h ht hf

/-- A grant of the need places the piece. -/
theorem exec_atsResponse_grants {g : AtsGrant} (hg : s.arg.grant = some g) (hrw : g.r = true ∨ g.w = true)
    (hneed : grants a.kind.need g.r g.w false false = true) : exec .atsResponse s =
    .next ((((answerCached s a g p.addr).modAcc a.id fun x => { x with trans := .ready }).agentTake (g.hpa + p.addr % 2 ^ g.size)
      a.kind.need.w false).sendPiece a i .host (g.hpa + p.addr % 2 ^ g.size)) := by
  have he : exec .atsResponse s = execAtsResponse s := rfl
  have hnext : (answerCached s a g p.addr).nextPiece a = some i := by
    obtain ⟨e, f, c, hv⟩ := cached_answerCached s a g p.addr
    rw [hv]
    exact h.next
  rw [he, execAtsResponse]
  simp only [hf, Bool.false_eq_true, if_false, h.acc, Option.bind_some, ht, if_true, h.next, h.piece, Option.map_some, hg, Bool.or_eq_true, hrw]
  change Host.Outcome.next (match (answerCached s a g p.addr).nextPiece a with
    | none => answerCached s a g p.addr
    | some i =>
      if grants a.kind.need g.r g.w false false then
        if a.kind = AccKind.prefetch then (((answerCached s a g p.addr).modAcc a.id fun x => { x with trans := .ready }).agentTake
          (g.hpa + p.addr % 2 ^ g.size) a.kind.need.w false).modAcc a.id fun y => { y with pos := y.pieces.length, done := true }
        else (((answerCached s a g p.addr).modAcc a.id fun x => { x with trans := .ready }).agentTake (g.hpa + p.addr % 2 ^ g.size)
          a.kind.need.w false).sendPiece a i .host (g.hpa + p.addr % 2 ^ g.size)
      else ((answerCached s a g p.addr).modAcc a.id fun x => { x with trans := .ready }).met { a with trans := .ready } p.addr .denied) = _
  rw [hnext]
  dsimp only
  rw [if_pos hneed, if_neg h.kind]

/-- No grant is a fault with cause 1 (R369). -/
theorem exec_atsResponse_faults (hg : s.arg.grant = none ∨ ∃ g, s.arg.grant = some g ∧ g.r = false ∧ g.w = false) : exec .atsResponse s =
    .next ((s.modAcc a.id fun x => { x with trans := .ready }).faulted { a with trans := .ready } p.addr 1 none false) := by
  have he : exec .atsResponse s = execAtsResponse s := rfl
  rw [he, execAtsResponse]
  simp only [hf, Bool.false_eq_true, if_false, h.acc, Option.bind_some, ht, if_true, h.next, h.piece, Option.map_some]
  obtain hg | ⟨g, hg, hr, hw⟩ := hg
  · rw [hg]
  · rw [hg]
    simp only [hr, hw, Bool.or_self, Bool.false_eq_true, if_false]

end

/-- Two changes of the access of a number are one. -/
theorem mapFirst_mapFirst_id (l : List Access) (id : Nat) (f g : Access → Access) (hf : ∀ x, (f x).id = x.id) :
    mapFirst (fun y => y.id = id) g (mapFirst (fun y => y.id = id) f l) = mapFirst (fun y => y.id = id) (fun x => g (f x)) l := by
  induction l with
  | nil => rfl
  | cons y r ih => by_cases h : y.id = id <;> simp [mapFirst, h, hf, ih]

theorem atsAnswers : AtsAnswers := by
  intro s a i p h ht hf o
  refine ⟨fun g hg hrw hneed => ?_, fun hno hi => ?_⟩
  · obtain ⟨e, f, c, hv⟩ := cached_answerCached s a g p.addr
    have hrun : o = _ := exec_atsResponse_grants h ht hf hg hrw hneed
    refine ⟨_, hrun, sameMemory_of_memories ?_, ?_⟩
    · rw [memories_sendPiece, memories_agentTake, memories_modAcc, hv, memories_update]
    · rw [State.sendPiece, if_neg (by simp)]
      refine accessNow_mapFirst h.acc h.ids (fun x => ({ x with trans := .ready } : Access).placed i .host (g.hpa + p.addr % 2 ^ g.size) s.cyc) ?_
      rw [hv]
      exact mapFirst_mapFirst_id _ _ _ _ fun _ => rfl
  · have hrun : o = _ := exec_atsResponse_faults h ht hf hno
    have hi' : (s.modAcc a.id fun x => { x with trans := .ready }).idemInvoc? ({ a with trans := .ready } : Access).origin = none := hi
    obtain ⟨pf, nf, fid, hfault, hq⟩ := faulted_waits (a := { a with trans := .ready }) h.kind p.addr 1 none false hi'
    rw [hfault] at hrun
    refine ⟨_, fid, hrun, sameMemory_of_memories (by simp), ?_, hq⟩
    refine accessNow_mapFirst h.acc h.ids (fun x => { x with trans := .fault (dieNo a.barn) fid }) ?_
    exact mapFirst_mapFirst_id _ _ _ _ fun _ => rfl

/-! Faults that are sent (R370, R373). -/

theorem length_entry (p : PageFault) : p.entry.length = 32 := by
  simp [PageFault.entry]

/-- The state with the entry of a fault in its queue. -/
def entryWritten (s : State) (d : Nat) (p : PageFault) (pa : Nat) : State :=
  ((s.writePa pa p.entry).modFault d p.fid fun p => { p with sent := true }).bump (.trFqht d) 32 32

/-- The end of the queue that a fault enters. -/
def entryAt (s : State) (d : Nat) : Nat :=
  s.regField (.trFqb d) 5 39 * 32 + 32 * (s.regField (.trFqht d) 32 32 % 2 ^ s.regField (.trFqb d) 60 4)

theorem exec_faultQueueWrite (s : State) : exec .faultQueueWrite s =
    match s.pfaults.find? fun p => p.die = s.arg.u && p.cause = 0 && !p.sent && !p.failed with
    | none => .next s
    | some p =>
      if s.regField (.trFqb s.arg.u) 60 4 < 4 || 2 ^ s.regField (.trFqb s.arg.u) 60 4 ≤
          (s.regField (.trFqht s.arg.u) 32 32 + 2 ^ 32 - s.regField (.trFqht s.arg.u) 0 32) % 2 ^ 32 then .next s
      else atPhysical (s.regField (.trFqb s.arg.u) 5 39 * 32) (.next
        (if s.regField (.trFqht s.arg.u) 32 32 = s.regField (.trFqht s.arg.u) 0 32 then
          (entryWritten s s.arg.u p (entryAt s s.arg.u)).hostEvent { type := 1, slot := 0xFF, a := s.arg.u, b := 0, cyc := 0 }
        else entryWritten s s.arg.u p (entryAt s s.arg.u))) := rfl

theorem trFqht_ne_hostEvt (d : Nat) : (Reg.trFqht d).offset ≠ Reg.hostEvt.offset ∧ (Reg.trFqht d).offset ≠ Reg.hostEvht.offset := by
  simp only [Reg.offset]
  omega

theorem entryWritten_regs (s : State) (d : Nat) (p : PageFault) (pa : Nat) :
    (entryWritten s d p pa).regField (.trFqht d) 32 32 = (s.regField (.trFqht d) 32 32 + 1) % 2 ^ 32 ∧
    (entryWritten s d p pa).regField (.trFqht d) 0 32 = s.regField (.trFqht d) 0 32 := by
  have hregs : ((s.writePa pa p.entry).modFault d p.fid fun p => { p with sent := true }).regs = s.regs := by
    obtain ⟨a, b, c, e, hw⟩ := rewritten_writePa s pa p.entry
    rw [hw]
    rfl
  refine ⟨?_, ?_⟩
  · rw [entryWritten, regField_bump_same _ _ (by decide), regField_of_regs hregs]
  · rw [entryWritten, regField_bump_disjoint _ _ (by decide) (by decide), regField_of_regs hregs]

theorem entryWritten_pfaults (s : State) (d : Nat) (p : PageFault) (pa : Nat) :
    (entryWritten s d p pa).pfaults = mapFirst (fun q => q.die = d && q.fid = p.fid) (fun q => { q with sent := true }) s.pfaults := by
  have hw : (s.writePa pa p.entry).pfaults = s.pfaults := by
    obtain ⟨a, b, c, e, hw⟩ := rewritten_writePa s pa p.entry
    rw [hw]
  rw [← hw]
  rfl

theorem entryWritten_memories (s : State) (d : Nat) (p : PageFault) (pa : Nat) :
    memories (entryWritten s d p pa) = memories (s.writePa pa p.entry) := by
  rw [entryWritten, memories_bump]
  rfl

theorem hostEvent_pfaults (s : State) (e : HostEvent) : (s.hostEvent e).pfaults = s.pfaults := by
  obtain ⟨rs, evs, h⟩ := hostEvent_regs s e
  rw [h]

/-- The first element that meets a condition is changed. -/
theorem mem_mapFirst_of_find? {α : Type} {p : α → Bool} (f : α → α) {l : List α} {x : α} (h : l.find? p = some x) : f x ∈ mapFirst p f l := by
  induction l with
  | nil => cases h
  | cons y r ih =>
    rw [mapFirst]
    rw [List.find?_cons] at h
    split at h
    · next hy =>
      rw [if_pos hy]
      cases h
      exact List.mem_cons_self
    · next hy =>
      rw [if_neg (by simp [hy])]
      exact List.mem_cons_of_mem _ (ih h)

theorem exec_priRequest (s : State) {p : PageFault} (h : s.fault? s.arg.u s.arg.n 1 = some p) (hs : p.sent = false) : exec .priRequest s =
    .next (if 512 ≤ (s.pfaults.filter fun p => p.cause = 1 && p.sent && !p.failed).length then s
      else s.modFault s.arg.u s.arg.n fun p => { p with sent := true }) := by
  have he : exec .priRequest s = execPriRequest s := rfl
  rw [he, execPriRequest, h]
  simp [hs]

theorem faultsAreSent : FaultsAreSent := by
  intro s d n base head tail full first
  have hrun := exec_faultQueueWrite s
  have hfull : (decide (n < 4) || decide (2 ^ n ≤ (tail + 2 ^ 32 - head) % 2 ^ 32)) = true ↔ full := by
    rw [Bool.or_eq_true, decide_eq_true_eq, decide_eq_true_eq]
  refine ⟨fun p st x hp huniq hroom hbase hat => ?_, fun hnone => ?_, fun p hp hsent => ⟨fun hout => ?_, fun hout => ?_⟩⟩
  · have hfound := List.find?_some hp
    simp only [Bool.and_eq_true, decide_eq_true_eq] at hfound
    obtain ⟨⟨⟨hdie, -⟩, -⟩, -⟩ := hfound
    have hfirst : s.pfaults.find? (fun q => q.die = d && q.fid = p.fid) = some p := by
      cases hq : s.pfaults.find? (fun q => q.die = d && q.fid = p.fid) with
      | none => exact absurd (List.find?_eq_none.mp hq p (List.mem_of_find?_eq_some hp)) (by simp [hdie])
      | some q =>
        have hq' := List.find?_some hq
        simp only [Bool.and_eq_true, decide_eq_true_eq] at hq'
        rw [huniq q (List.mem_of_find?_eq_some hq) hq'.1 hq'.2]
    have hpa : physical (entryAt s d) = some (st, x + 32 * (tail % 2 ^ n)) := hat
    obtain ⟨htail, hhead⟩ := entryWritten_regs s d p (entryAt s d)
    have hres : reservedPa base = false := by rw [reservedPa, hbase]; rfl
    have hmark : { p with sent := true } ∈ (entryWritten s d p (entryAt s d)).pfaults :=
      entryWritten_pfaults s d p (entryAt s d) ▸ mem_mapFirst_of_find? _ hfirst
    have hmem := entryWritten_memories s d p (entryAt s d)
    rw [show s.pfaults.find? (fun p => p.die = s.arg.u && p.cause = 0 && !p.sent && !p.failed) = some p from hp] at hrun
    dsimp only at hrun
    rw [if_neg fun h => hroom (hfull.mp h), atPhysical_ok hres] at hrun
    have told : ∃ t, exec .faultQueueWrite s = .next t ∧ memories t = memories (s.writePa (entryAt s d) p.entry) ∧
        t.pfaults = (entryWritten s d p (entryAt s d)).pfaults ∧
        (∀ lo w, t.regField (.trFqht d) lo w = (entryWritten s d p (entryAt s d)).regField (.trFqht d) lo w) ∧
        (tail = head → t.regField .hostEvt 1 1 = 1) := by
      rw [hrun]
      split
      · exact ⟨_, rfl, (memories_hostEvent _ _).trans hmem, hostEvent_pfaults _ _,
          fun lo w => regField_hostEvent_ne _ _ _ _ (trFqht_ne_hostEvt d).1 (trFqht_ne_hostEvt d).2,
          fun _ => regField_hostEvent _ _ (by simp)⟩
      · next hne => exact ⟨_, rfl, hmem, rfl, fun _ _ => rfl, fun he => absurd he hne⟩
    obtain ⟨t, ht, hm, hpf, hreg, hevt⟩ := told
    have hcells : t.cells st = putBytes (s.cells st) (x + 32 * (tail % 2 ^ n)) p.entry := by
      rw [cells_of_memories hm, State.writePa, hpa]
      exact cells_setCells_self s st _
    refine ⟨t, ht, ?_, (hreg _ _).trans htail, (hreg _ _).trans hhead, ⟨_, hpf ▸ hmark, rfl⟩, hevt, fun y hy => ?_⟩
    · have hbytes := getBytes_putBytes p.entry (s.cells st) (x + 32 * (tail % 2 ^ n))
      rw [length_entry] at hbytes
      rw [State.readB, hcells, hbytes]
    · rw [hcells, getCell_putBytes_ne _ _ _ (by rwa [length_entry])]
  · cases hp : first with
    | none =>
      rw [show s.pfaults.find? (fun p => p.die = s.arg.u && p.cause = 0 && !p.sent && !p.failed) = none from hp] at hrun
      exact hrun
    | some p =>
      rw [show s.pfaults.find? (fun p => p.die = s.arg.u && p.cause = 0 && !p.sent && !p.failed) = some p from hp] at hrun
      dsimp only at hrun
      rwa [if_pos (hfull.mpr (hnone.resolve_right (by simp [hp])))] at hrun
  · rw [exec_priRequest s hp hsent, if_neg (Nat.not_le.mpr hout)]
    have hfound := List.find?_some hp
    simp only [Bool.and_eq_true, decide_eq_true_eq] at hfound
    obtain ⟨⟨⟨hdie, hfid⟩, -⟩, -⟩ := hfound
    obtain ⟨y, hy, hmem⟩ := exists_mem_mapFirst (p := fun p : PageFault => p.die = s.arg.u && p.fid = s.arg.n)
      (fun p => { p with sent := true }) (List.mem_of_find?_eq_some hp) (by simp [hdie, hfid])
    simp only [Bool.and_eq_true, decide_eq_true_eq] at hy
    exact ⟨_, rfl, length_mapFirst .., ⟨_, hmem, hy.1.trans hdie.symm, hy.2.trans hfid.symm, rfl⟩, sameMemory_of_memories (by simp)⟩
  · rw [exec_priRequest s hp hsent, if_pos hout]

/-! Faults that are resolved (R371 to R373). -/

/-- A retry, before the copies of gathers in memory follow. -/
def retried (s : State) (die fid : Nat) : State :=
  { s with
    pfaults := s.pfaults.filter fun p => !(p.die = die && p.fid = fid)
    fab := { s.fab with
      accs := s.fab.accs.map fun a => if a.trans = .fault die fid then { a with trans := .ready } else a
      cmds := s.fab.cmds.map fun c => if c.fault = some (die, fid) then { c with fault := none } else c }
    gathers := s.gathers.map fun g => if g.fid = some (die, fid) then
      { g with fid := none, why := none, ready := some s.cyc, since := s.cyc, age := s.cyc, home := s.homeOf g } else g
    fetches := s.fetches.map fun f => if f.fault = some (die, fid) then { f with fault := none } else f
    tasks := s.tasks.map fun t => if t.fault = some (die, fid) then { t with fault := none } else t }

theorem retryFault_eq (s : State) (die fid : Nat) : s.retryFault die fid =
    foldState (fun s g => s.mirrorKey g.k g.v g.blk g.tag g.dep) (retried s die fid)
      (s.gathers.filter fun g => g.fid = some (die, fid)) := rfl

theorem rewritten_retryFault (s : State) (die fid : Nat) : Rewritten (retried s die fid) (s.retryFault die fid) := by
  rw [retryFault_eq]
  exact rewritten_foldState (fun _ _ => rewritten_mirrorKey ..) _ _

/-- What no longer waits on a fault does not. -/
theorem map_clear_ne {α β : Type} {w : α → β} {at_ : β} [DecidableEq β] {f : α → α} (hf : ∀ x, w (f x) ≠ at_) (l : List α) :
    ∀ y ∈ l.map fun x => if w x = at_ then f x else x, w y ≠ at_ := by
  intro y hy
  obtain ⟨x, -, rfl⟩ := List.mem_map.mp hy
  split
  · exact hf x
  · assumption

/-- The fault that an event resolves is found, and the event frees or fails what waits on it. -/
theorem exec_resolves (s : State) (ev : Instr) (retry : Bool) (p : PageFault)
    (h : (ev = .fqresRetry ∧ retry = true ∧ s.fault? s.arg.u (bitsAt s.arg.val.toNat 0 24) 0 = some p) ∨
      (ev = .fqresFail ∧ retry = false ∧ s.fault? s.arg.u (bitsAt s.arg.val.toNat 0 24) 0 = some p) ∨
      (ev = .priResponse ∧ retry = s.arg.flag ∧ s.fault? s.arg.u s.arg.n 1 = some p ∧ p.sent = true)) :
    exec ev s = .next (if retry then s.retryFault p.die p.fid else s.failFault p) := by
  obtain ⟨rfl, rfl, hp⟩ | ⟨rfl, rfl, hp⟩ | ⟨rfl, rfl, hp, hs⟩ := h
  · have he : exec .fqresRetry s = execFqresRetry s := rfl
    rw [he, execFqresRetry, hp]
    rfl
  · have he : exec .fqresFail s = execFqresFail s := rfl
    rw [he, execFqresFail, hp]
    rfl
  · have he : exec .priResponse s = execPriResponse s := rfl
    rw [he, execPriResponse, hp]
    simp [hs]

/-- What a retry frees (R371). -/
theorem retryFault_frees (s : State) (die fid : Nat) :
    let t := s.retryFault die fid
    let at_ := some (die, fid)
    ((∀ g ∈ s.gathers, g.fid ≠ at_) → SameMemory s t) ∧ (∀ q ∈ t.pfaults, ¬(q.die = die ∧ q.fid = fid)) ∧
      (∀ (m : Nat) (a : Access), s.fab.accs[m]? = some a →
        t.fab.accs[m]? = some (if a.trans = .fault die fid then { a with trans := .ready } else a)) ∧
      (∀ (m : Nat) (g : Gather), s.gathers[m]? = some g → ∃ (y : Gather), t.gathers[m]? = some y ∧ y.vals = g.vals ∧ y.tag = g.tag ∧
        (g.fid = at_ → y.fid = none ∧ y.ready = some s.cyc) ∧ (g.fid ≠ at_ → y = g)) ∧
      (∀ f ∈ t.fetches, f.fault ≠ at_) ∧ (∀ c ∈ t.fab.cmds, c.fault ≠ at_) ∧ ∀ x ∈ t.tasks, x.fault ≠ at_ := by
  intro t at_
  have hsame : (∀ g ∈ s.gathers, g.fid ≠ at_) → SameMemory s t := by
    intro hg
    have hnone : s.gathers.filter (fun g => decide (g.fid = some (die, fid))) = [] :=
      List.filter_eq_nil_iff.mpr fun g hmem => by simpa using hg g hmem
    dsimp only [t]
    rw [retryFault_eq, hnone]
    exact sameMemory_of_memories (by simp [retried, foldState])
  obtain ⟨a, b, c, d, hw⟩ := rewritten_retryFault s die fid
  refine ⟨hsame, ?_⟩
  dsimp only [t]
  rw [hw]
  refine ⟨fun q hq => ?_, fun m x hx => ?_, fun m g hg => ⟨if g.fid = some (die, fid) then
      { g with fid := none, why := none, ready := some s.cyc, since := s.cyc, age := s.cyc, home := s.homeOf g } else g, ?_, ?_, ?_, ?_, ?_⟩,
    map_clear_ne (w := Fetch.fault) (at_ := some (die, fid)) (f := fun x => { x with fault := none }) (fun _ => nofun) s.fetches,
    map_clear_ne (w := Cmd.fault) (at_ := some (die, fid)) (f := fun x => { x with fault := none }) (fun _ => nofun) s.fab.cmds,
    map_clear_ne (w := Task.fault) (at_ := some (die, fid)) (f := fun x => { x with fault := none }) (fun _ => nofun) s.tasks⟩
  · simpa [imp_iff_not_or] using (List.mem_filter.mp hq).2
  · exact (List.getElem?_map ..).trans (congrArg _ hx)
  · exact (List.getElem?_map ..).trans (congrArg _ hg)
  · split <;> rfl
  · split <;> rfl
  · intro hat
    rw [if_pos hat]
    exact ⟨rfl, rfl⟩
  · exact fun hne => if_neg hne

/-- The cause of the trap of an access whose fault fails (R152). -/
def failedCause (s : State) (p : PageFault) (a : Access) : Cause :=
  s.faultCause a (if p.tile.isSome then p.va else ((s.nextPiece a).bind fun i => (a.pieces.drop i).head?.map Piece.addr).getD p.va)
    p.cause p.tile

theorem failedCause_fields (s : State) (p : PageFault) (a : Access) :
    (failedCause s p a).code = tcPage ∧ (failedCause s p a).cause = p.cause ∧ (p.tile ≠ none → (failedCause s p a).aux0 = p.va) ∧
      ∀ i q, p.tile = none → s.nextPiece a = some i → (a.pieces.drop i).head? = some q → (failedCause s p a).aux0 = q.addr := by
  unfold failedCause State.faultCause
  cases p.tile with
  | none => exact ⟨rfl, rfl, fun h => absurd rfl h, fun i q _ hi hq => by
      rw [Option.isSome_none, if_neg Bool.false_ne_true, hi, Option.bind_some, hq]
      rfl⟩
  | some t => exact ⟨rfl, rfl, fun _ => rfl, fun i q h => by cases h⟩

section
variable {s : State} {p : PageFault} {a : Access} (haccs : s.fab.accs.filter (fun a => a.trans = .fault p.die p.fid) = [a])
  (hgats : ∀ g ∈ s.gathers, g.fid ≠ some (p.die, p.fid)) (hfets : ∀ x ∈ s.fetches, x.fault ≠ some (p.die, p.fid))
  (hload : s.loadFault ≠ some (p.die, p.fid))
include haccs hgats hfets hload

/-- A fault on which one access alone waits (R372). -/
theorem failFault_one : ∃ l : List Fetch, s.failFault p =
    let t := ({ s.accessTrap { a with trans := .ready } (failedCause s p a) with fetches := l } : State).failUnits p
    { t with pfaults := t.pfaults.filter fun x => !(x.die = p.die && x.fid = p.fid) } := by
  have hg : s.gathers.filter (fun g => decide (g.fid = some (p.die, p.fid))) = [] :=
    List.filter_eq_nil_iff.mpr fun g h => by simpa using hgats g h
  have hf : s.fetches.filter (fun f => decide (f.fault = some (p.die, p.fid))) = [] :=
    List.filter_eq_nil_iff.mpr fun f h => by simpa using hfets f h
  unfold State.failFault
  extract_lets at_ accs gats fets units s1 va cause s2 free s3 s4 s5 s6
  have haccs : accs = [a] := haccs
  have hgats : gats = [] := hg
  have hfets : fets = [] := hf
  have hs1 : s1 = s := if_neg hload
  clear_value accs gats fets units s1
  subst haccs hgats hfets hs1
  exact ⟨_, rfl⟩

end

/-- A trap that takes an index leaves the accesses under way, and the tasks. -/
theorem raise_keepsAcc {s : State} {t : Trap} {i : Nat} (hi : s.freeTrapIndex t.k = some i) {a : Access} (ha : a ∈ s.fab.accs) :
    a ∈ (s.raise t).fab.accs ∧ (s.raise t).tasks = s.tasks := by
  have hfab := withTrap_fab s t i
  have htasks : (withTrap s t i).tasks = s.tasks := by
    obtain ⟨rs, h⟩ := hooked_regs s t
    rw [withTrap, h]
  rw [raise_takes hi]
  obtain h | ⟨b, h⟩ := recordWrite_cases (withTrap s t i) (raisedTrap s t i)
  · rw [h, hfab]
    exact ⟨ha, htasks⟩
  · rw [h, issued]
    exact ⟨List.mem_append_left _ (hfab ▸ ha), htasks⟩

/-- The trap of the access of a firing takes an index, and the access waits on it. -/
theorem accessTrap_firing {s : State} {a : Access} {f : Firing} (ha : a ∈ s.fab.accs) (ho : a.origin = .firing f) (c : Cause)
    (hfree : (s.freeTrapIndex f.k).isSome = true) :
    let t := s.accessTrap { a with trans := .ready } c
    (∃ r ∈ t.traps, r.k = f.k ∧ r.tcode = c.code ∧ r.cause = c.cause ∧ r.aux0 = BitVec.ofNat 64 c.aux0 ∧ r.hold = .word a.id) ∧
      (∃ y ∈ t.fab.accs, y.id = a.id ∧ y.waiting = true) ∧ t.tasks = s.tasks := by
  obtain ⟨i, hi⟩ := Option.isSome_iff_exists.mp hfree
  have hi : s.freeTrapIndex (s.firingTrap f c (.word a.id)).k = some i := hi
  obtain ⟨hacc, htasks⟩ := raise_keepsAcc hi ha
  obtain ⟨y, hy, hmem⟩ := exists_mem_mapFirst (p := fun x : Access => x.id = a.id) (fun x => { x with waiting := true }) hacc
    (decide_eq_true rfl)
  rw [State.accessTrap, ho]
  simp only [State.raiseThen, hi]
  refine ⟨⟨raisedTrap s (s.firingTrap f c (.word a.id)) i, ?_, rfl, rfl, rfl, rfl, rfl⟩, ⟨_, hmem, of_decide_eq_true hy, rfl⟩, htasks⟩
  rw [State.modAcc, State.modFab, raise_traps hi]
  exact List.mem_append_right _ List.mem_cons_self

theorem failUnits_keeps {s : State} {p : PageFault} (htasks : ∀ x ∈ s.tasks, x.fault ≠ some (p.die, p.fid)) :
    (s.failUnits p).traps = s.traps ∧ (s.failUnits p).fab.accs = s.fab.accs := by
  have hnone : s.tasks.filter (fun t => decide (t.fault = some (p.die, p.fid))) = [] :=
    List.filter_eq_nil_iff.mpr fun x h => by simpa using htasks x h
  unfold State.failUnits
  extract_lets at_ u ts
  have hts : ts = [] := hnone
  rw [hts]
  exact ⟨rfl, rfl⟩

theorem faultsAreResolved : FaultsAreResolved := by
  intro s ev retry p id h at_
  have hrun := exec_resolves s ev retry p h
  refine ⟨fun hr => ?_, fun f a hr haccs ho hgats hfets _ htasks hload hfree => ?_⟩
  · rw [hr, if_pos rfl] at hrun
    exact ⟨_, hrun, retryFault_frees s p.die p.fid⟩
  · rw [hr, if_neg Bool.false_ne_true] at hrun
    obtain ⟨l, hl⟩ := failFault_one haccs hgats hfets hload
    have ha : a ∈ s.fab.accs := (List.mem_filter.mp (haccs ▸ List.mem_cons_self)).1
    obtain ⟨⟨r, hr, hk, hcode, hcause, haux, hhold⟩, ⟨y, hy, hid, hwait⟩, hts⟩ := accessTrap_firing ha ho (failedCause s p a) hfree
    obtain ⟨ccode, ccause, ctile, cpiece⟩ := failedCause_fields s p a
    obtain ⟨htraps, hkeep⟩ := failUnits_keeps (s := { s.accessTrap { a with trans := .ready } (failedCause s p a) with fetches := l })
      (p := p) fun x hx => htasks x (hts ▸ hx)
    rw [hl] at hrun
    refine ⟨_, r, hrun, ?_, hk, hcode.trans ccode, hcause.trans ccause, fun ht => ?_, fun i q ht hi hq => ?_, hhold, fun q hq => ?_,
      y, ?_, hid, hwait⟩
    · exact htraps ▸ hr
    · rw [haux, ctile ht]
    · rw [haux, cpiece i q ht hi hq]
    · simpa [imp_iff_not_or] using (List.mem_filter.mp hq).2
    · exact hkeep ▸ hy

end Sys2Proof.Laws

namespace Sys2Proof.Proofs

open Sys2Proof Sys2Proof.Machine Sys2Proof.Laws

/-- Settles O36: by what a translation finds, and by what waits on a fault. -/
theorem translation : Obligations.Translation := ⟨walksTranslate, atsAnswers, faultsAreSent, faultsAreResolved⟩

end Sys2Proof.Proofs
end
